-- ==== Sys2Proof/Word.lean ====
section
/-! DEFINITION. The word types of the Folwen's formats: what the spec treats as bits (bytes of structures, registers,
digests, hash state). Counts, sizes, indices and identifiers are natural numbers. -/
namespace Sys2Proof

/-- One byte of a structure, a value or a memory. -/
abbrev Byte := BitVec 8

/-- A 32-bit word of the hashes and checks (Philox, CRC-32C). -/
abbrev Word32 := BitVec 32

/-- A 64-bit word of the hashes (SipHash, SHA-384). -/
abbrev Word64 := BitVec 64

/-- A byte string: the value of a STR, BLOB or DIGEST48 entry, a message or a structure. -/
abbrev Bytes := List (BitVec 8)

end Sys2Proof
end

