-- ==== Sys2Proof/Syntax.lean ====
section
/-! DEFINITION. The commands of the Folwen: one constructor of `Instr` per row of spec/opcode_table.json, with the
row's operands, and the structures of the operands. A command is a request from outside, a frame or packet that
arrives, an event on a pin or a link, or an event of the device's own sequencers that the table lists as a step; its
operands are what the event brings with it (a descriptor, a measured offset, what the media or a peer answered). -/
namespace Sys2Proof.Machine

/-- The header of a Tally request and what the transport established about it (R558 to R560). `path` is 1 MGMT_A,
2 MGMT_B or 3 mailbox; `wellFormed` says that MAGIC, VERSION and LENGTH are right and `size` is the whole message;
`tagOk` says that the AES-256-GCM tag verifies under the session's key (R515). -/
structure TallyHdr where
  path : Nat
  addr : Nat
  port : Nat
  wellFormed : Bool
  size : Nat
  secure : Bool
  session : Nat
  reqId : Nat
  counter : Nat
  tagOk : Bool
deriving DecidableEq, Repr

/-- By which path a dictionary access comes (R553): a Tally or mailbox message, or an SMBus transaction with the
result of its PEC check (R565). -/
inductive Via where
  | tally (h : TallyHdr)
  | smbus (pecOk : Bool)
deriving DecidableEq, Repr

/-- A member's two-way offset (in units of 2^-16 ns) and grandmaster hash as its heartbeat gave them (R89). -/
structure PeerAnswer where
  slot : Nat
  offset : Int
  gmHash : Nat
deriving DecidableEq, Repr

/-- The fields of a decode descriptor after OPCODE (Table 4-1). -/
structure DecodeDesc where
  mediaType : Nat
  cluster : Nat
  unit : Nat
  outFormat : Nat
  inBuf : Nat
  inLen : Nat
  outBuf : Nat
  outCap : Nat
  sample : Nat
  stream : Nat
  options : Nat
  resultAddr : Nat
  errorAddr : Nat
  params : Nat
deriving DecidableEq, Repr

/-- One component of a decoded image: its size, and its samples as rows (none: a row that damage lost), or for JPEG its
8x8 blocks of dequantised coefficients in raster order, row v by column u (none: a lost block). -/
structure Plane where
  w : Nat
  h : Nat
  rows : List (Option (List Nat))
  blocks : List (Option (List Int))
deriving DecidableEq, Repr

/-- A decoded image or picture: size after cropping, depth, CHROMA of Table 4-3, components, whether the last one is
alpha, a palette of R, G, B, A entries, the H.273 MatrixCoefficients (video) or the APP14 flag plus 256 (JPEG, none
without a flag), and the range. -/
structure MediaImage where
  width : Nat
  height : Nat
  depth : Nat
  chroma : Nat
  planes : List Plane
  alpha : Bool
  palette : List (List Nat)
  matrix : Option Nat
  fullRange : Bool
deriving DecidableEq, Repr

/-- The damage a decoder met (Table 4-10); `cls` 0 where it met none. -/
structure Damage where
  cls : Nat
  byteOffset : Nat
  posX : Nat
  posY : Nat
  unitsConcealed : Nat
  unitsTotal : Nat
  count : Nat
  detail : Nat
  lastByteOffset : Nat
  lastPicture : Nat
  concealedLuma : Nat
deriving DecidableEq, Repr

/-- What the media standard makes of an input: a refusal with its DETAIL (0 none), whether it exceeds the stream's
limits, the image, or the bytes of a FITS output; the damage met; flags; and for video the picture's place in output
order and how many pictures are put out now. -/
structure MediaOutcome where
  refusal : Nat
  limits : Bool
  image : Option MediaImage
  bytes : Bytes
  width : Nat
  height : Nat
  depth : Nat
  damage : Damage
  animationIgnored : Bool
  checksumFailed : Bool
  derived : Bool
  grain : Bool
  order : Nat
  outputs : Nat
deriving DecidableEq, Repr

/-- An intake packet as received (Table 5-1): the data port, UDP destination port and source address, whether MAGIC,
VERSION and the lengths are right, the header's fields, the payload, and the receipt timestamp. -/
structure IntakePacket where
  port : Nat
  udpPort : Nat
  source : Bytes
  headerOk : Bool
  stream : Nat
  frame : Nat
  generation : Nat
  soe : Nat
  offset : Nat
  payload : Bytes
  rxTai : Nat
deriving DecidableEq, Repr

/-- One layer's OUTCOME of a stand-spanning fused frame (R163). -/
structure LayerOutcome where
  layer : Nat
  outcome : Nat
  flags : Nat
  stream : Nat
  frame : Nat
  settingsGen : Nat
  soe : Nat
deriving DecidableEq, Repr

/-- The fields of a token descriptor after OPCODE (Table 6-1). -/
structure TokenDesc where
  options : Nat
  cluster : Nat
  unit : Nat
  policy : Nat
  inBuf : Nat
  inLen : Nat
  outBuf : Nat
  outCap : Nat
  sample : Nat
  vocabTag : Nat
  resultAddr : Nat
  errorAddr : Nat
  params : Nat
deriving DecidableEq, Repr

/-- The fields of a compute descriptor after OPCODE (Table 7-8); `reserved` gathers its reserved bits. -/
structure ComputeDesc where
  options : Nat
  cluster : Nat
  coreMask : Nat
  reproClass : Nat
  kernel : Nat
  items : Nat
  argBuf : Nat
  sampleTable : Nat
  partition_ : Nat
  slotBase : Nat
  epoch : Nat
  model : Nat
  resultAddr : Nat
  reserved : Nat
deriving DecidableEq, Repr

/-- The recipe step that a decode or token request serves: its slot and its CONCEAL_LIMIT (R138, R212). -/
structure RecipeStep where
  slot : Nat
  concealLimit : Nat
deriving DecidableEq, Repr

/-- What the filters of a grading pass gave for a sample: for each filter that ran, its number and the model's outputs
as FP32 bits, or the grammar verdict and its offset (R223). -/
structure FilterOutput where
  filter : Nat
  outputs : List Nat
  verdict : Nat
  verdictOffset : Nat
deriving DecidableEq, Repr

/-- A sample that a work item of a grading pass finishes. -/
structure SampleGrade where
  sample : Nat
  mediaType : Nat
  filters : List FilterOutput
deriving DecidableEq, Repr

/-- How a work item ends: its CORE cycles, the fault that its control core met (0 none, else a FAULT_CODE of Table 7-9)
and its code offset, its output region (buffer, offset, bytes), the recipe slot it serves, and the sample it graded. -/
structure ItemEnd where
  cycles : Nat
  fault : Nat
  pc : Nat
  outBuf : Nat
  outOff : Nat
  outLen : Nat
  slot : Nat
  grade : Option SampleGrade
deriving DecidableEq, Repr

/-- The formats of Table 7-4 that registers hold. -/
inductive NumFmt where
  | int8 | uint8 | int16 | int32 | e4m3 | e5m2 | fp16 | bf16 | fp32 | e2m3 | e3m2 | e2m1
deriving DecidableEq, Repr

/-- A register of an engine (R196): an operand tile, a vector register, or an accumulator tile of one of the three
kinds. -/
inductive EngReg where
  | operand (n : Nat)
  | vector (n : Nat)
  | fpAcc (n : Nat)
  | intAcc (n : Nat)
  | exactAcc (n : Nat)
deriving DecidableEq, Repr

/-- Which engine issues an instruction, and the instruction's code offset. -/
structure EngineAt where
  cluster : Nat
  core : Nat
  engine : Nat
  pc : Nat
deriving DecidableEq, Repr

/-- LD or ST of a register at a tile memory address; `fmt` is the element format of an operand tile. -/
structure LdSt where
  store : Bool
  reg : EngReg
  fmt : NumFmt
  addr : Nat
deriving DecidableEq, Repr

/-- The modes of Table 7-2. -/
inductive MmaMode where
  | int8 | fp8 | half | exact
deriving DecidableEq, Repr

/-- MMA into an accumulator tile of the mode's kind: operand tile 0 is A, operand tile 1 is B. -/
structure MmaOp where
  mode : MmaMode
  acc : Nat
deriving DecidableEq, Repr

/-- ACC: clear a tile, add the partials stored at an address to it, or store it unrounded. -/
inductive AccAction where
  | clear | add | store
deriving DecidableEq, Repr

structure AccOp where
  action : AccAction
  reg : EngReg
  addr : Nat
deriving DecidableEq, Repr

/-- CVT of an accumulator tile or of a vector's 32 FP32 lanes to a format, or to the MX form of an element format with
its scales at `scaleAddr`; the packed result goes to tile memory at `addr`. `slot` is the output tensor's number and
`element` the index of its first element in the sample (R208). -/
structure CvtOp where
  reg : EngReg
  target : NumFmt
  mx : Bool
  stochastic : Bool
  saturate : Bool
  addr : Nat
  scaleAddr : Nat
  slot : Nat
  element : Nat
deriving DecidableEq, Repr

/-- The elementwise operations of VALU (Table 7-3) and the integer pixel pipelines of R211. -/
inductive ValuFn where
  | add | sub | mul | fma | min | max | cmpLt | cmpLe | cmpEq | select | shl | shr | sar | and_ | or_ | xor | not
  | rcp | rsqrt | exp2 | log2 | grey
  | resize (n m : Nat)
deriving DecidableEq, Repr

/-- VALU: destination and operand vector registers, the lane format. -/
structure ValuOp where
  fn : ValuFn
  lane : NumFmt
  dst : Nat
  a : Nat
  b : Nat
  c : Nat
deriving DecidableEq, Repr

/-- VRED: the sum of a vector's lanes, by the pairwise tree or exactly, into lane 0 of `dst` (an integer sum takes 64
bits). -/
structure VredOp where
  lane : NumFmt
  dst : Nat
  a : Nat
deriving DecidableEq, Repr

/-- The moves of VPERM. -/
inductive PermFn where
  | permute | gather | scatter | transpose
deriving DecidableEq, Repr

/-- VPERM: `a` the source (the first register of a gather's file, of a scatter's destination file or of a transposed
block), `idx` the register of lane indices, `count` the registers of the file or block. -/
structure VpermOp where
  fn : PermFn
  lane : NumFmt
  dst : Nat
  a : Nat
  idx : Nat
  count : Nat
deriving DecidableEq, Repr

/-- What SYNC waits for. -/
inductive SyncTarget where
  | engine (n : Nat)
  | controlCore
  | dma
deriving DecidableEq, Repr

/-- The far end of a DMA transfer (R195). -/
inductive DmaSpace where
  | clusterSram (addr : Nat)
  | dieSram (die addr : Nat)
  | buffer (handle offset : Nat)
deriving DecidableEq, Repr

/-- A one- or two-dimensional DMA transfer: `rows` rows of `rowBytes` bytes, the strides of tile memory and of the far
end, and whether it writes tile memory. -/
structure DmaOp where
  toTile : Bool
  tileAddr : Nat
  tileStride : Nat
  far : DmaSpace
  farStride : Nat
  rows : Nat
  rowBytes : Nat
deriving DecidableEq, Repr

/-- A fragment as the device knows it: its epoch, step and consumer, and for a takeover the device slot it replaces. -/
structure FragKey where
  epoch : Nat
  step : Nat
  consumer : Nat
  orig : Option Nat
deriving DecidableEq, Repr

/-- A recipe's bucking block (Table 8-1), with the recipe's index, and the last slot of its seasoned prefix (R242; none:
the recipe runs green). -/
structure BuckBlock where
  itemKind : Nat
  planes : Nat
  positionMode : Nat
  itemBytes : Nat
  fill : Nat
  padId : Nat
  prefixSlot : Option Nat
deriving DecidableEq, Repr

/-- The format of an element that a recipe's slots work on: unsigned of `bytes` bytes, a format of Table 7-4, or MX blocks. -/
inductive ElemFmt where
  | uint (bytes : Nat)
  | num (f : NumFmt)
  | mx (f : NumFmt)
deriving DecidableEq, Repr

/-- The shape of what a slot takes and makes: frames of images, planar or interleaved; a text of n tokens is one frame of one
row of n elements of 4 bytes. -/
structure Tensor where
  frames : Nat
  width : Nat
  height : Nat
  channels : Nat
  planar : Bool
  fmt : ElemFmt
deriving DecidableEq, Repr

/-- A transform of the catalogue (Table 7-6) with its declared settings: sizes, parameter bounds (FP32 bits for FLOAT), means and
inverse deviations by channel. `given` is a slot whose output comes from a unit or a kernel: DECODE, TOKENIZE, KERNEL. The
`tensor` of CONVERT is the number of the output tensor, where it rounds stochastically (R50). -/
inductive Transform where
  | given (shape : Tensor) (bytes : Bytes)
  | crop (w h : Nat)
  | resize (w h : Nat)
  | flip (threshold : Nat)
  | rot90
  | grey
  | gainOffset (g0 g1 o0 o1 : Nat)
  | normalize (mean inv : List Nat)
  | logStretch (a b : Nat)
  | clipStart (lo hi count : Nat)
  | cutout (w h : Nat)
  | spanMask (s0 s1 l0 l1 mask : Nat)
  | convert (f : NumFmt) (mx saturate : Bool) (tensor : Option Nat)
deriving DecidableEq, Repr

/-- The slots of a recipe that run on an item's content: its shape, the number of the first slot, and the slots. -/
structure RecipeRun where
  shape : Tensor
  first : Nat
  slots : List Transform
deriving DecidableEq, Repr

/-- An item of the sample at a position: its content, CONCEALED_FRACTION and DERIVED, the cluster that prepared it, the output of
its seasoned prefix, and the slots of the recipe that still run on the content (none: the content is the recipe's output). -/
structure ItemContent where
  position : Nat
  content : Bytes
  concealed : Nat
  derived : Bool
  cluster : Nat
  prefixOut : Bytes
  run : Option RecipeRun
deriving DecidableEq, Repr

/-- The protection tuple of a sector (R284): guard, application tag, storage and reference tag. -/
structure PiTuple where
  guard : Nat
  app : Nat
  ref : Nat
deriving DecidableEq, Repr

/-- What decoding a codeword gave (R263): corrected bits at once, or after retry or soft decoding, or a failure. -/
inductive Ecc where
  | clean (bits : Nat)
  | retried (bits : Nat)
  | failed
deriving DecidableEq, Repr

/-- What the medium gave for one sector: the decoder's result, and data or tuple where they are not those stored. -/
structure SectorRead where
  ecc : Ecc
  data : Option Bytes
  tuple : Option PiTuple
deriving DecidableEq, Repr

/-- A volume of the Yard: a namespace, a shard or a system volume. -/
inductive VolumeRef where
  | ns (n : Nat)
  | shard (id : Nat)
  | system (n : Nat)
deriving DecidableEq, Repr

/-- A LUN as enumeration finds it: its ONFI parameter page against Table 9-1 and its factory bad-block marks. -/
structure LunReport where
  channel : Nat
  lun : Nat
  nvddr3 : Bool
  slcMode : Bool
  oneShot : Bool
  pageBytes : Nat
  spareBytes : Nat
  planes : Nat
  pagesPerBlock : Nat
  blocksPerPlane : Nat
  cellBits : Nat
  progUs : Nat
  slcProgUs : Nat
  factoryBad : List Nat
deriving DecidableEq, Repr

/-- How an erase ended (R265): the erase status, the most bits at 0 that the blank check saw in a page, and whether the
blaze programs and the copies read back are all good. -/
structure EraseOutcome where
  eraseOk : Bool
  blankZeros : Nat
  blazeOk : Bool
deriving DecidableEq, Repr

/-- What recovery finds on the medium (R297, R298): the LUNs, whether an anchor record is readable, which checkpoint
slots fail their digest, the first journal page with no good copy, the wordlines with an uncorrectable sector, and the
time it takes. -/
structure RecoveryMedia where
  luns : List LunReport
  anchorReadable : Bool
  badSlotA : Bool
  badSlotB : Bool
  badPage : Option Nat
  badWordlines : List (Nat × Nat)
  elapsedMs : Nat
deriving DecidableEq, Repr

/-- Who issues a buffer pool command or an access: the requester ID of Table 10-9 and the acting context, both supplied
by the port (R313). -/
structure Requester where
  id : Nat
  ctx : Nat
deriving DecidableEq, Repr

/-- The fields of a buffer pool command after OP (Table 10-8). -/
structure PoolCmd where
  flags : Nat
  owner : Nat
  handle : Nat
  bytes : Nat
  pool : Nat
  context : Nat
  reserved : Nat
deriving DecidableEq, Repr

/-- A class that requests at an arbiter cycle: its number in table order, the cost of its head request in the arbiter's
units, and the age of its oldest pending request in cycles (R323, R325). -/
structure ArbReq where
  cls : Nat
  cost : Nat
  age : Nat
deriving DecidableEq, Repr

/-- A Chipper descriptor after OPCODE (Table 11-4); `reserved` gathers its reserved bits. -/
structure ChipDesc where
  flags : Nat
  blockLog2 : Nat
  cls : Nat
  chipper : Nat
  returnTo : Nat
  inBuf : Nat
  inOff : Nat
  inLen : Nat
  outBuf : Nat
  outOff : Nat
  outLimit : Nat
  tag : Nat
  resultAddr : Nat
  reserved : Nat
deriving DecidableEq, Repr

/-- The protection checks that an NVMe command selects (R362): PRACT, the PRCHK bits, and the expected tags. -/
structure PiCheck where
  pract : Bool
  guard : Bool
  app : Bool
  ref : Bool
  lbat : Nat
  lbatm : Nat
  ilbrt : Nat
deriving DecidableEq, Repr

/-- A command that a doorbell write makes outstanding: its identifier, opcode and namespace. -/
structure NvmeHead where
  cid : Nat
  opcode : Nat
  nsid : Nat
deriving DecidableEq, Repr

/-- What a namespace command creates or deletes (Namespace Management). -/
inductive NsOp where
  | create (nsze : Nat) (lbaf : Nat)
  | delete (nsid : Nat)
deriving DecidableEq, Repr

/-- A Skidder packet as received (Table 13-5), with what the port established: where it came from, whether its lengths are
consistent, its ECN CE mark, and whether its tag verifies under the key its KEY_EPOCH names. -/
structure SkdRx where
  port : Nat
  addr : Bytes
  version : Nat
  lengthsOk : Bool
  ackReq : Bool
  retx : Bool
  chipped : Bool
  label : Nat
  keyEpoch : Nat
  dstConn : Nat
  srcConn : Nat
  srcSlot : Nat
  generation : Nat
  psn : Nat
  msgId : Nat
  serial : Nat
  ce : Bool
  tagOk : Bool
  payload : Bytes
deriving DecidableEq, Repr

/-- The operation extension (Table 13-6). -/
structure SkdExt where
  remoteKey : Nat
  msgBytes : Nat
  offset : Nat
  immediate : Nat
deriving DecidableEq, Repr

/-- Who queues a transfer: the SKD_ page of a context, or a control core through its cluster's transfer queue (R421). -/
inductive TransferSrc where
  | page (ctx : Nat)
  | core (cluster ctx : Nat)
deriving DecidableEq, Repr

/-- A transfer descriptor (Table 13-14). -/
structure TransferDesc where
  op : Nat
  conn : Nat
  immediate : Nat
  local_ : Nat
  length : Nat
  remoteKey : Nat
  remoteOffset : Nat
  tag : Nat
deriving DecidableEq, Repr

/-- The header of a Lookout frame (Table 15-2) and what reception established about it: `wellFormed` says that MAGIC,
VERSION, KIND and LENGTH are valid, `tagOk` that the tag verifies under the key it names, and `stamp` is the receive
stamp in units of 2^-16 ns, less the receive latency (R385). -/
structure LkHdr where
  wellFormed : Bool
  domain : Nat
  srcSlot : Nat
  path : Nat
  plain : Bool
  council : Bool
  generation : Nat
  ring : Nat
  grain : Nat
  keyEpoch : Nat
  msgSeq : Nat
  txCount : Nat
  tagOk : Bool
  stamp : Nat
deriving DecidableEq, Repr

/-- An ABORT entry (Table 15-4). -/
structure LkEntry where
  epoch : Nat
  step : Nat
  consumer : Nat
  attempt : Nat
  server : Nat
deriving DecidableEq, Repr

/-- The payload of an ABORT (Table 15-3): CAUSE 1 SUSPICION, 2 DELIVERY_FAULT, 3 STOP. -/
structure LkAbort where
  replaced : Nat
  cause : Nat
  replacedGen : Nat
  suspectRing : Nat
  entries : List LkEntry
deriving DecidableEq, Repr

/-- The payload of a DECISION (Table 15-7), or of one of its frames. `count` is LIST_COUNT; `list` holds the entries that
this frame carries (a SHARD_ID with 0, or a slot and a score). -/
structure LkDecision where
  term : Nat
  seq : Nat
  outcome : Nat
  voters : List Nat
  subject : Nat
  subjectGen : Nat
  newGen : Nat
  subjectUid : Nat
  epoch : Nat
  resumeStep : Nat
  shiftRings : Nat
  count : Nat
  list : List (Nat × Nat)
deriving DecidableEq, Repr

/-- The payloads of Table 15-3. -/
inductive LkBody where
  | heartbeat (gmHash lkState : Nat) (lockstepOk : Bool) (echoTx echoRx : Nat) (suspects : List Nat)
  | suspect (subject subjectGen suspectRing : Nat)
  | abort (a : LkAbort)
  | probe (subject subjectGen term : Nat)
  | probeReply (subject subjectGen term : Nat)
  | vote (term proposal vote : Nat)
  | decision (d : LkDecision)
  | join (uid slot : Nat) (capset : Bytes)
  | late (epoch step grains : Nat)
  | declare (what epoch step : Nat)
  | statusQuery (uid : Nat)
  | statusReply (uid slot lkState generation : Nat)
  | snapshot (offset : Nat) (bytes : Bytes)
  | fenced (slot generation : Nat)
deriving DecidableEq, Repr

/-- A whole Lookout frame. -/
structure LkFrame where
  hdr : LkHdr
  body : LkBody
deriving DecidableEq, Repr

/-- The body of a Lookout NOTICE (Table 15-5). -/
structure LkNotice where
  kind : Nat
  revoked : Bool
  attempt : Nat
  epoch : Nat
  step : Nat
  consumer : Nat
  replacedSlot : Nat
  serverSlot : Nat
  replacedGen : Nat
  serverGen : Nat
  relaunchRing : Nat
deriving DecidableEq, Repr

end Sys2Proof.Machine

namespace Sys2Proof
open Machine

/-- The commands, one constructor per row of the opcode table. -/
inductive Instr where
  -- Dictionary, schedule and replay (R553, R56 to R75).
  | dictionaryWrite (via : Via) (idx sub : Nat) (value : Bytes)
  | sectionLoad (via : Via) (value : Bytes)
  | epochStart
  | loadLate
  | runStartReached
  | fragmentLaunch (key : FragKey) (refreshHold : Nat)
  | launchPrefetch (key : FragKey)
  | stepDigest (step : Nat)
  | replayInject (sequence : Nat)
  -- Ring count, PTP and the stand (R77 to R107).
  | ringBegin
  | ptpSync (offsetNs : Int) (tai : Nat)
  | rcLocked
  | syncTimeout
  | holdoverExpired
  | clockOutlier
  | gmMismatch
  | ringLinkUp (east : Bool)
  | ringLinkDown (east : Bool)
  | standHello (standId uid : Nat)
  | formWindowEnd
  | standMaster (standId term : Nat)
  | standHeartbeat (standId : Nat) (healthy : Bool)
  | masterMissed
  | barrierArrive (standId barrier : Nat)
  | barrierArm (barrier term : Nat)
  | barrierArmed (standId barrier : Nat)
  | standSyncEdge
  | barrierTimeout (barrier : Nat)
  | barrierAbort (barrier : Nat) (memberLost : Bool)
  -- Decode units (R108 to R145).
  | decodeImage (req : Requester) (desc : DecodeDesc)
  | decodeFrame (req : Requester) (desc : DecodeDesc)
  | encodeFits (req : Requester) (desc : DecodeDesc)
  | streamOpen (req : Requester) (desc : DecodeDesc)
  | streamSubmit (req : Requester) (desc : DecodeDesc)
  | streamClose (req : Requester) (desc : DecodeDesc)
  | decodeDescriptorHead (cluster queue : Nat)
  | decodeComplete (cluster queue unit : Nat) (outcome : MediaOutcome) (recipe : Option RecipeStep)
  | videoPictureDone (cluster : Nat) (outcome : MediaOutcome) (recipe : Option RecipeStep)
  | islandSpeedSample (cluster speed : Nat)
  -- Live intake (R146 to R165).
  | frameData (pkt : IntakePacket)
  | frameEnd (pkt : IntakePacket)
  | frameTimeout (stream frame : Nat)
  | frameStore (encoded : List Bytes)
  | settingsWrite (via : Via) (stream : Nat) (value : Bytes)
  | settingsAck (pkt : IntakePacket)
  | settingsUnacked (stream generation : Nat)
  | fuseDecide (group index : Nat)
  | fuseOutcome (standId group index : Nat) (isAck : Bool) (layers : List LayerOutcome)
  -- Token units (R166 to R192).
  | tokenize (req : Requester) (desc : TokenDesc)
  | detokenize (req : Requester) (desc : TokenDesc)
  | vocabLoad (req : Requester) (desc : TokenDesc)
  | grammarLoad (req : Requester) (desc : TokenDesc)
  | grammarCheck (req : Requester) (desc : TokenDesc)
  | rolloutOpen (req : Requester) (desc : TokenDesc)
  | rolloutClose (req : Requester) (desc : TokenDesc)
  | tokenDescriptorHead (cluster : Nat)
  | tokenComplete (cluster unit : Nat) (recipe : Option RecipeStep)
  | rolloutChunk (stream slot : Nat)
  | rolloutNotifyProcess (stream : Nat)
  | rolloutTimeout (stream rollout : Nat)
  -- Prep compute (R193 to R230).
  | launch (req : Requester) (desc : ComputeDesc)
  | kernelLoad (req : Requester) (desc : ComputeDesc)
  | kernelUnload (req : Requester) (desc : ComputeDesc)
  | modelLoad (req : Requester) (desc : ComputeDesc)
  | modelUnload (req : Requester) (desc : ComputeDesc)
  | computeDescriptorHead (cluster : Nat)
  | workItemEnd (cluster core : Nat) (item : ItemEnd)
  | itemBudget (cluster core pc : Nat)
  | engineLdSt (at_ : EngineAt) (op : LdSt)
  | engineMma (at_ : EngineAt) (op : MmaOp)
  | engineAcc (at_ : EngineAt) (op : AccOp)
  | engineCvt (at_ : EngineAt) (op : CvtOp)
  | engineValu (at_ : EngineAt) (op : ValuOp)
  | engineVred (at_ : EngineAt) (op : VredOp)
  | engineVperm (at_ : EngineAt) (op : VpermOp)
  | engineSync (at_ : EngineAt) (target : SyncTarget)
  | dmaTransfer (cluster core pc : Nat) (op : DmaOp)
  | dmaComplete (cluster core : Nat)
  | gradeStart (via : Via)
  | gradeAbort (via : Via)
  | gradeSignatures (device filter : Nat) (signatures : List (Nat × Nat))
  | gradeDone
  -- Bucking and the deck (R231 to R258).
  | prepareFragment
  | fragmentReady (key : FragKey) (contribution : Nat) (block : BuckBlock) (items : List ItemContent)
  | retentionEnd (key : FragKey)
  | seasonClear (via : Via) (value : Bytes)
  -- The Yard (R259 to R300).
  | yardWrite (volume : VolumeRef) (sector : Nat) (data : Bytes) (tuple : PiTuple)
  | wordlineProgramDone (bolt : Nat) (pass : Bool)
  | yardRead (volume : VolumeRef) (sector : Nat) (read : SectorRead)
  | nandReadDone (shard offset length : Nat) (reads : List SectorRead)
  | partnerRead (device shard offset length : Nat) (reads : List SectorRead)
  | partnerReadReply (shard offset length : Nat) (bytes : Option Bytes)
  | boltErase (bolt : Nat)
  | eraseDone (bolt : Nat) (outcome : EraseOutcome)
  | fold
  | wearRelocate
  | partnerAppend (owner shard offset : Nat) (compressed : Bool) (bytes : Bytes)
  | partnerSeal (owner shard bytes : Nat) (digest : Bytes)
  | sealAnswer (device shard : Nat) (sealed : Bool)
  | partnerWaitTimeout (shard : Nat) (refusing : List Nat)
  | discard (volume : VolumeRef) (first count : Nat)
  | cruiseRead (reads : List SectorRead) (blazeGood : Bool)
  | cruiseRateRecompute
  | refresh (bolt : Nat)
  | lunFail (channel lun : Nat)
  | journalCommit (firstPass secondPass : Bool)
  | checkpoint
  | checkpointDone (anchorEraseFails : List Nat)
  | yardRecovery (media : RecoveryMedia)
  | format (via : Via) (eraseFails : List Nat)
  | checkpointNow (via : Via)
  | cruiseRestart (via : Via)
  -- Buffer pools, memory errors and arbiters (R303 to R329).
  | alloc (req : Requester) (cmd : PoolCmd)
  | extend (req : Requester) (cmd : PoolCmd)
  | pass (req : Requester) (cmd : PoolCmd)
  | free (req : Requester) (cmd : PoolCmd)
  | query (req : Requester) (cmd : PoolCmd)
  | waitGrant (pool : Nat)
  | blocksReturn (handle : Nat)
  | memoryCorrected (tier : Nat)
  | memoryUncorrectable (pool block : Nat)
  | arbiterCycle (kind inst : Nat) (reqs : List ArbReq) (launch portFree withdraw : Bool)
  | starveIntervalReached (kind inst : Nat)
  -- Chippers (R344 to R348).
  | compress (desc : ChipDesc)
  | decompress (desc : ChipDesc)
  | chipperDescriptorHead (chipper : Nat) (decomp : Bool)
  | chipperComplete (chipper : Nat) (decomp : Bool)
  -- The Landing (R356 to R381).
  | createIoSubmissionQueue (cid qid size cqid : Nat)
  | deleteIoSubmissionQueue (cid qid : Nat)
  | createIoCompletionQueue (cid qid size : Nat) (vector : Option Nat)
  | deleteIoCompletionQueue (cid qid : Nat)
  | identify (cid cns nsid : Nat)
  | getLogPage (cid lid : Nat)
  | setFeatures (cid fid value : Nat)
  | getFeatures (cid fid : Nat)
  | abort (cid sqid named : Nat)
  | asynchronousEventRequest (cid : Nat)
  | namespaceManagement (cid : Nat) (op : NsOp)
  | namespaceAttachment (cid nsid : Nat) (attach : Bool) (controllers : List Nat)
  | formatNvm (cid nsid lbaf ses : Nat) (eraseFails : List Nat)
  | firmwareImageDownload (cid offset : Nat) (bytes : Bytes)
  | firmwareCommit (cid slot action svn : Nat) (trusted : Bool)
  | deviceSelfTest (cid nsid code : Nat)
  | nvmeFlush (sq cid nsid : Nat)
  | nvmeWrite (sq cid nsid slba : Nat) (fua : Bool) (pi : PiCheck) (sectors : List (Bytes × PiTuple)) (stage : Nat)
  | nvmeRead (sq cid nsid slba count : Nat) (pi : PiCheck) (reads : List SectorRead)
  | writeZeroes (sq cid nsid slba count : Nat)
  | datasetManagement (sq cid nsid : Nat) (deallocate : Bool) (ranges : List (Nat × Nat))
  | verify (sq cid nsid slba count : Nat) (pi : PiCheck) (reads : List SectorRead)
  | compare (sq cid nsid slba : Nat) (pi : PiCheck) (data : List Bytes) (reads : List SectorRead)
  | invalidCommandOpcode (sq cid opcode : Nat)
  | sqTailDoorbell (sq : Nat) (commands : List NvmeHead)
  | cqHeadDoorbell (cq head : Nat)
  | commandDispatch (sq cid : Nat)
  | controllerReset
  | selftestResume
  | pshFirst (port word : Nat) (wide : Bool)
  | pshPush (port word : Nat) (wide : Bool)
  | pshFlush (port : Nat)
  | pshStatusRead (port : Nat)
  | pshCqHead (port head : Nat)
  | shardOpen (port : Nat) (refusing : List Nat)
  | ingestNs (port : Nat) (reads : List SectorRead)
  | shardSeal (port : Nat)
  | shardDelete (port : Nat)
  | contextMsg (port : Nat)
  | remoteIngest (source : Nat) (message : Bytes)
  | deviceSelfTestDone (failing : Option (Nat × Nat))
  -- The Skidder (R382 to R423).
  | connOpen (via : Via) (value : Bytes)
  | connClose (via : Via) (value : Bytes)
  | skdWriteRx (pkt : SkdRx) (ext : SkdExt)
  | skdWriteImmRx (pkt : SkdRx) (ext : SkdExt)
  | skdReadReqRx (pkt : SkdRx) (ext : SkdExt)
  | skdReadRespRx (pkt : SkdRx) (ext : SkdExt)
  | skdAckRx (pkt : SkdRx)
  | skdLookoutRx (pkt : SkdRx) (frame : LkFrame)
  | noticeFenced (pkt : SkdRx)
  | noticeNoConnection (pkt : SkdRx)
  | noticeLookout (pkt : SkdRx) (notice : LkNotice)
  | noticeIngestResult (pkt : SkdRx)
  | noticeMsgDiscarded (pkt : SkdRx)
  | noticeReadError (pkt : SkdRx)
  | ackSend (conn : Nat)
  | packetLost (conn psn : Nat)
  | retransmitTimeout (conn psn : Nat)
  | quarantineEnd (port label : Nat)
  | rcPeriod
  | keyGraceEnd (conn : Nat)
  | earlyRotation (conn : Nat)
  | linkDown (port : Nat)
  | linkUp (port : Nat)
  | skdTxqTail (ctx tail : Nat) (descs : List TransferDesc)
  | transferWrite (src : TransferSrc) (desc : TransferDesc) (data : Bytes)
  | transferWriteImm (src : TransferSrc) (desc : TransferDesc) (data : Bytes)
  | transferRead (src : TransferSrc) (desc : TransferDesc)
  | skdCqHead (ctx head : Nat)
  | pauseFrameRx (port : Nat)
  | rocev2AckNak (conn psn : Nat) (nak : Bool)
  | rocev2Cnp (conn : Nat)
  | fiReorderRelease (port : Nat)
  -- The traffic scheduler (R424 to R439).
  | egressSelect (port : Nat)
  | subConfigure (via : Via) (value : Bytes)
  | subRelease (via : Via) (value : Bytes)
  -- Lookout (R440 to R491).
  | lkHeartbeat (hdr : LkHdr) (gmHash lkState : Nat) (lockstepOk : Bool) (echoTx echoRx : Nat) (suspects : List Nat)
  | heartbeatWindow
  | lkSuspect (hdr : LkHdr) (subject subjectGen suspectRing : Nat)
  | lkAbort (hdr : LkHdr) (a : LkAbort)
  | lkProbe (hdr : LkHdr) (subject subjectGen term : Nat)
  | lkProbeReply (hdr : LkHdr) (subject subjectGen term : Nat)
  | probeTimeout (subjectGen : Nat)
  | lkVote (hdr : LkHdr) (term proposal vote : Nat)
  | voteFallback (subjectGen : Nat)
  | decisionAlive (hdr : LkHdr) (d : LkDecision)
  | decisionDead (hdr : LkHdr) (d : LkDecision)
  | decisionAdmit (hdr : LkHdr) (d : LkDecision)
  | decisionCoppiceStart (hdr : LkHdr) (d : LkDecision)
  | decisionSlotReady (hdr : LkHdr) (d : LkDecision)
  | decisionCoOpt (hdr : LkHdr) (d : LkDecision)
  | decisionEpochShift (hdr : LkHdr) (d : LkDecision)
  | decisionDomainHold (hdr : LkHdr) (d : LkDecision)
  | decisionResume (hdr : LkHdr) (d : LkDecision)
  | decisionOrphaned (hdr : LkHdr) (d : LkDecision)
  | decisionDemote (hdr : LkHdr) (d : LkDecision)
  | decisionScores (hdr : LkHdr) (d : LkDecision)
  | declareVoid (hdr : LkHdr) (epoch step : Nat)
  | declareAbsent (hdr : LkHdr) (epoch step : Nat)
  | declareResume (hdr : LkHdr) (epoch step : Nat)
  | declareLoadLate (hdr : LkHdr) (epoch step : Nat)
  | declareIsolated (hdr : LkHdr) (epoch step : Nat)
  | declareCoppiceDone (hdr : LkHdr) (epoch step : Nat)
  | declareReingested (hdr : LkHdr) (epoch step : Nat)
  | declareVerifyDone (hdr : LkHdr) (epoch step : Nat)
  | declareHoldMembership (hdr : LkHdr) (epoch step : Nat)
  | lkJoin (hdr : LkHdr) (uid slot : Nat) (capset : Bytes)
  | joinSend (slot : Nat)
  | lkLate (hdr : LkHdr) (epoch step grains : Nat)
  | latenessTally (epoch step : Nat)
  | scoreDecay
  | lkStatusQuery (hdr : LkHdr) (uid : Nat)
  | lkStatusReply (hdr : LkHdr) (uid slot lkState generation : Nat)
  | lkSnapshot (hdr : LkHdr) (offset : Nat) (bytes : Bytes)
  | lkFenced (hdr : LkHdr) (slot generation : Nat)
  | decisionMissing (subjectGen : Nat)
  | lockstepFault
  | deliveryFault (key : FragKey)
  | coppiceShardCopy
  | spareVerify (failed : List Nat)
  | councilReseed (via : Via) (value : Bytes)
  -- Contexts, boot, attestation and sessions (R492 to R520, R563).
  | define (via : Via) (ctx : Nat)
  | destroy (via : Via) (ctx : Nat)
  | context0Program (via : Via) (program : Bytes)
  | contextSwitch (cluster : Nat) (verified : Bool) (scrubUs switchUs : Nat)
  | secureBoot
  | advanceSvn (via : Via)
  | attestRequest (via : Via) (value : Bytes)
  | operatorKeysWrite (via : Via) (value : Bytes)
  | sessionHello (hdr : TallyHdr) (keyIndex : Nat) (qc nc : Bytes)
  | sessionProof (hdr : TallyHdr) (signature : Bytes)
  | sessionClose (hdr : TallyHdr)
  | challengeTimeout (session : Nat)
  | sessionIdleTimeout (session : Nat)
  | sessionLifeTimeout (session : Nat)
  | testEnAssert (heldNs : Nat)
  | testEnDeassert (heldNs : Nat)
  -- Clocks, power, heat, resets and start-up (R521 to R549, R590, R591).
  | pllLossOfLock
  | pllRelockAttempt
  | pllRelock
  | pllFailed
  | sscApply
  | fineGateClose (unit : Nat)
  | clusterGateWrite (via : Via) (mask : Nat)
  | portGateWrite (via : Via) (mask : Nat)
  | railMeasure (rails : List (Nat × Nat))
  | capControl
  | powerWindowEnd
  | thermalChange (tjDc : Int)
  | thermalTrip (tjDc : Int)
  | hardwareTrip
  | coolingHoldEnd
  | powerOn (perstLow : Bool)
  | perstAssert (heldNs : Nat)
  | perstDeassert (strap : Nat) (pllLocks : Bool) (memory : Option (Nat × Nat))
  | resetCmdDevice (via : Via)
  | resetCmdDeviceForce (via : Via)
  | watchdogExpiry
  | functionLevelReset
  | pwrFailAssert (heldNs : Nat)
  | pwrFailDeassert
  -- Management: Tally, mailbox, SMBus, log, events, records (R550 to R583).
  | tallyRead (hdr : TallyHdr) (idx sub offset max : Nat)
  | tallyMeta (hdr : TallyHdr) (idx sub : Nat)
  | blobBegin (hdr : TallyHdr) (idx sub total : Nat) (digest : Bytes)
  | blobData (hdr : TallyHdr) (handle offset : Nat) (bytes : Bytes)
  | blobEnd (hdr : TallyHdr) (handle : Nat)
  | blobAbort (hdr : TallyHdr) (handle : Nat)
  | blobTransferTimeout (session handle : Nat)
  | subscribe (hdr : TallyHdr) (sourceMask : List Nat) (minSeverity : Nat) (bothPorts : Bool)
  | eventAck (hdr : TallyHdr) (counter : Nat)
  | eventSend (session : Nat)
  | eventResend (session counter : Nat)
  | mboxGo (reqLen : Nat) (body : Bytes) (irqEn : Bool) (vector : Nat)
  | smbSelect (pecOk : Bool) (idx sub offset : Nat)
  | smbRead (pecOk : Bool)
  | smbStatus (pecOk : Bool)
  | smbAlertResponse (pecOk : Bool)
  | smbAlertClear (via : Via) (value : Bytes)
  | logWindowClose (seq : Nat)
  | logMirrorWrite
  | logAckedWrite (via : Via) (value : Bytes)
  | persistCommit (key : Nat)
  | heartwoodUpdate
  | mgmtLinkChange (port : Nat) (up : Bool)
  | ptpAnnounce (clockIdentity : Nat) (better : Bool) (utcOffset : Int)
deriving DecidableEq, Repr

end Sys2Proof
end

