-- ==== Sys2Proof/Machine/Bytes.lean ====
section
/-! DEFINITION. Byte order and field access (R10: structures and dictionary values little-endian, wire formats
most significant byte first), two's complement values of I32, and rounding helpers. -/
namespace Sys2Proof.Machine

/-- The number a little-endian byte string holds. -/
def leNat : Bytes → Nat
  | [] => 0
  | b :: bs => b.toNat + 256 * leNat bs

/-- `n` bytes holding `v` modulo 256^n, little-endian. -/
def leBytes : Nat → Nat → Bytes
  | 0, _ => []
  | n + 1, v => BitVec.ofNat 8 v :: leBytes n (v / 256)

/-- The number a big-endian byte string holds. -/
def beNat (bs : Bytes) : Nat := bs.foldl (fun a b => 256 * a + b.toNat) 0

/-- `n` bytes holding `v` modulo 256^n, big-endian. -/
def beBytes (n v : Nat) : Bytes := (leBytes n v).reverse

/-- `len` bytes from offset `off`. -/
def bytesAt (bs : Bytes) (off len : Nat) : Bytes := (bs.drop off).take len

/-- A little-endian field of a structure. -/
def leAt (bs : Bytes) (off len : Nat) : Nat := leNat (bytesAt bs off len)

/-- A big-endian field of a wire format. -/
def beAt (bs : Bytes) (off len : Nat) : Nat := beNat (bytesAt bs off len)

/-- The byte string of an ASCII name. -/
def ascii (s : String) : Bytes := s.toList.map fun c => BitVec.ofNat 8 c.toNat

/-- `n` zero bytes. -/
def zeros (n : Nat) : Bytes := List.replicate n 0

/-- Whether every byte is zero. -/
def allZero (bs : Bytes) : Bool := bs.all (· == 0)

/-- `v` with bit `n` set. -/
def setBit (v n : Nat) : Nat := v ||| (2 ^ n)

/-- `v` with bit `n` clear. -/
def clearBit (v n : Nat) : Nat := if v.testBit n then v - 2 ^ n else v

/-- How many of the low `w` bits are set. -/
def popCount : Nat → Nat → Nat
  | 0, _ => 0
  | w + 1, v => v % 2 + popCount w (v / 2)

/-- The numbers below `w` whose bit is set, rising. -/
def bitsOf (w v : Nat) : List Nat := (List.range w).filter v.testBit

/-- An I32's value. -/
def i32Val (v : Nat) : Int := if v % 2 ^ 32 < 2 ^ 31 then (v % 2 ^ 32 : Nat) else (v % 2 ^ 32 : Nat) - (2 ^ 32 : Nat)

/-- The bits of an I32 holding `z`, saturated to its range. -/
def i32Sat (z : Int) : Nat :=
  if z ≥ 2 ^ 31 then 2 ^ 31 - 1
  else if z < -(2 ^ 31) then 2 ^ 31
  else (z % (2 ^ 32)).toNat

/-- The bits of an I32 holding `z` modulo 2^32. -/
def i32Bits (z : Int) : Nat := (z % (2 ^ 32)).toNat

/-- The smallest quotient not below `a / b`. -/
def ceilDiv (a b : Nat) : Nat := if b = 0 then 0 else (a + b - 1) / b

/-- `a` rounded up to a multiple of `b`. -/
def roundUp (a b : Nat) : Nat := ceilDiv a b * b

/-- A counter of `w` bits after one more event: counters wrap at their width (Table 0-4). -/
def wrap (w v : Nat) : Nat := v % 2 ^ w

/-- A saturating count of `w` bits. -/
def sat (w v : Nat) : Nat := min v (2 ^ w - 1)

/-- Whether a byte string is well-formed UTF-8 (no overlong form, no surrogate, nothing above U+10FFFF). -/
def utf8Ok : Nat → Bytes → Bool
  | 0, bs => bs.isEmpty
  | _ + 1, [] => true
  | n + 1, a :: r =>
    let cont (b : Byte) (lo hi : Nat) := lo ≤ b.toNat && b.toNat ≤ hi
    let x := a.toNat
    if x < 0x80 then utf8Ok n r
    else if 0xC2 ≤ x && x ≤ 0xDF then
      match r with
      | b :: r' => cont b 0x80 0xBF && utf8Ok n r'
      | _ => false
    else if 0xE0 ≤ x && x ≤ 0xEF then
      match r with
      | b :: c :: r' =>
        cont b (if x = 0xE0 then 0xA0 else 0x80) (if x = 0xED then 0x9F else 0xBF) && cont c 0x80 0xBF && utf8Ok n r'
      | _ => false
    else if 0xF0 ≤ x && x ≤ 0xF4 then
      match r with
      | b :: c :: d :: r' =>
        cont b (if x = 0xF0 then 0x90 else 0x80) (if x = 0xF4 then 0x8F else 0xBF) && cont c 0x80 0xBF &&
          cont d 0x80 0xBF && utf8Ok n r'
      | _ => false
    else false

/-- Well-formed UTF-8. -/
def isUtf8 (bs : Bytes) : Bool := utf8Ok (bs.length + 1) bs

end Sys2Proof.Machine
end

