-- ==== Sys2Proof/Machine/Crypto.lean ====
section
/-! DEFINITION. The hash, keyed hash, counter generator and check value that the spec computes with: SHA-384 (digests
throughout), HMAC-SHA-384 (R503, R514), SipHash-2-4 (R45, R48), Philox-4x32-10 (R55) and CRC-32C. Each is the
published algorithm that the spec names. -/
namespace Sys2Proof.Machine

/-! ### SHA-384 (FIPS 180-4) -/

def sha512K0 : List Word64 :=
  [0x428a2f98d728ae22#64, 0x7137449123ef65cd#64, 0xb5c0fbcfec4d3b2f#64, 0xe9b5dba58189dbbc#64,
   0x3956c25bf348b538#64, 0x59f111f1b605d019#64, 0x923f82a4af194f9b#64, 0xab1c5ed5da6d8118#64,
   0xd807aa98a3030242#64, 0x12835b0145706fbe#64, 0x243185be4ee4b28c#64, 0x550c7dc3d5ffb4e2#64,
   0x72be5d74f27b896f#64, 0x80deb1fe3b1696b1#64, 0x9bdc06a725c71235#64, 0xc19bf174cf692694#64]

def sha512K1 : List Word64 :=
  [0xe49b69c19ef14ad2#64, 0xefbe4786384f25e3#64, 0x0fc19dc68b8cd5b5#64, 0x240ca1cc77ac9c65#64,
   0x2de92c6f592b0275#64, 0x4a7484aa6ea6e483#64, 0x5cb0a9dcbd41fbd4#64, 0x76f988da831153b5#64,
   0x983e5152ee66dfab#64, 0xa831c66d2db43210#64, 0xb00327c898fb213f#64, 0xbf597fc7beef0ee4#64,
   0xc6e00bf33da88fc2#64, 0xd5a79147930aa725#64, 0x06ca6351e003826f#64, 0x142929670a0e6e70#64]

def sha512K2 : List Word64 :=
  [0x27b70a8546d22ffc#64, 0x2e1b21385c26c926#64, 0x4d2c6dfc5ac42aed#64, 0x53380d139d95b3df#64,
   0x650a73548baf63de#64, 0x766a0abb3c77b2a8#64, 0x81c2c92e47edaee6#64, 0x92722c851482353b#64,
   0xa2bfe8a14cf10364#64, 0xa81a664bbc423001#64, 0xc24b8b70d0f89791#64, 0xc76c51a30654be30#64,
   0xd192e819d6ef5218#64, 0xd69906245565a910#64, 0xf40e35855771202a#64, 0x106aa07032bbd1b8#64]

def sha512K3 : List Word64 :=
  [0x19a4c116b8d2d0c8#64, 0x1e376c085141ab53#64, 0x2748774cdf8eeb99#64, 0x34b0bcb5e19b48a8#64,
   0x391c0cb3c5c95a63#64, 0x4ed8aa4ae3418acb#64, 0x5b9cca4f7763e373#64, 0x682e6ff3d6b2b8a3#64,
   0x748f82ee5defb2fc#64, 0x78a5636f43172f60#64, 0x84c87814a1f0ab72#64, 0x8cc702081a6439ec#64,
   0x90befffa23631e28#64, 0xa4506cebde82bde9#64, 0xbef9a3f7b2c67915#64, 0xc67178f2e372532b#64]

def sha512K4 : List Word64 :=
  [0xca273eceea26619c#64, 0xd186b8c721c0c207#64, 0xeada7dd6cde0eb1e#64, 0xf57d4f7fee6ed178#64,
   0x06f067aa72176fba#64, 0x0a637dc5a2c898a6#64, 0x113f9804bef90dae#64, 0x1b710b35131c471b#64,
   0x28db77f523047d84#64, 0x32caab7b40c72493#64, 0x3c9ebe0a15c9bebc#64, 0x431d67c49c100d4c#64,
   0x4cc5d4becb3e42b6#64, 0x597f299cfc657e2a#64, 0x5fcb6fab3ad6faec#64, 0x6c44198c4a475817#64]

/-- The round constants. -/
def sha512K : List Word64 := sha512K0 ++ sha512K1 ++ sha512K2 ++ sha512K3 ++ sha512K4

/-- The eight words of hash state. -/
structure ShaState where
  a : Word64
  b : Word64
  c : Word64
  d : Word64
  e : Word64
  f : Word64
  g : Word64
  h : Word64
deriving DecidableEq, Repr

/-- SHA-384's first state. -/
def sha384Init : ShaState :=
  ⟨0xcbbb9d5dc1059ed8#64, 0x629a292a367cd507#64, 0x9159015a3070dd17#64, 0x152fecd8f70e5939#64,
   0x67332667ffc00b31#64, 0x8eb44a8768581511#64, 0xdb0c2e0d64f98fa7#64, 0x47b5481dbefa4fa4#64⟩

def shaBig0 (x : Word64) : Word64 := x.rotateRight 28 ^^^ x.rotateRight 34 ^^^ x.rotateRight 39
def shaBig1 (x : Word64) : Word64 := x.rotateRight 14 ^^^ x.rotateRight 18 ^^^ x.rotateRight 41
def shaSmall0 (x : Word64) : Word64 := x.rotateRight 1 ^^^ x.rotateRight 8 ^^^ (x >>> 7)
def shaSmall1 (x : Word64) : Word64 := x.rotateRight 19 ^^^ x.rotateRight 61 ^^^ (x >>> 6)

/-- One round: the state, the round constant and the schedule word. -/
def shaRound (s : ShaState) (k w : Word64) : ShaState :=
  let t1 := s.h + shaBig1 s.e + ((s.e &&& s.f) ^^^ (~~~s.e &&& s.g)) + k + w
  let t2 := shaBig0 s.a + ((s.a &&& s.b) ^^^ (s.a &&& s.c) ^^^ (s.b &&& s.c))
  ⟨t1 + t2, s.a, s.b, s.c, s.d + t1, s.e, s.f, s.g⟩

/-- The rounds over the constants left, with the sixteen latest schedule words, oldest first. -/
def shaRounds : List Word64 → List Word64 → ShaState → ShaState
  | [], _, s => s
  | k :: ks, win, s =>
    let w := win.headD 0
    let next := shaSmall1 (win.getD 14 0) + win.getD 9 0 + shaSmall0 (win.getD 1 0) + w
    shaRounds ks (win.drop 1 ++ [next]) (shaRound s k w)

/-- One block of 128 bytes. -/
def shaBlock (s : ShaState) (blk : Bytes) : ShaState :=
  let ws := (List.range 16).map fun i => BitVec.ofNat 64 (beAt blk (8 * i) 8)
  let r := shaRounds sha512K ws s
  ⟨s.a + r.a, s.b + r.b, s.c + r.c, s.d + r.d, s.e + r.e, s.f + r.f, s.g + r.g, s.h + r.h⟩

/-- The blocks left of a padded message. -/
def shaBlocks : Nat → Bytes → ShaState → ShaState
  | 0, _, s => s
  | n + 1, bs, s => shaBlocks n (bs.drop 128) (shaBlock s (bs.take 128))

/-- SHA-384 of a byte string, 48 bytes. -/
def sha384 (m : Bytes) : Bytes :=
  let pad := (239 - m.length % 128) % 128
  let msg := m ++ [0x80] ++ zeros pad ++ beBytes 16 (8 * m.length)
  let s := shaBlocks (msg.length / 128) msg sha384Init
  [s.a, s.b, s.c, s.d, s.e, s.f].flatMap fun w => beBytes 8 w.toNat

/-- HMAC-SHA-384 (block size 128). -/
def hmac384 (key msg : Bytes) : Bytes :=
  let k0 := if key.length > 128 then sha384 key else key
  let k := k0 ++ zeros (128 - k0.length)
  sha384 ((k.map (· ^^^ 0x5C)) ++ sha384 ((k.map (· ^^^ 0x36)) ++ msg))

/-! ### SipHash-2-4 -/

/-- The four words of SipHash state. -/
structure SipState where
  v0 : Word64
  v1 : Word64
  v2 : Word64
  v3 : Word64
deriving DecidableEq, Repr

def sipRound (s : SipState) : SipState :=
  let v0 := s.v0 + s.v1
  let v1 := s.v1.rotateLeft 13 ^^^ v0
  let v0 := v0.rotateLeft 32
  let v2 := s.v2 + s.v3
  let v3 := s.v3.rotateLeft 16 ^^^ v2
  let v0 := v0 + v3
  let v3 := v3.rotateLeft 21 ^^^ v0
  let v2 := v2 + v1
  let v1 := v1.rotateLeft 17 ^^^ v2
  let v2 := v2.rotateLeft 32
  ⟨v0, v1, v2, v3⟩

def sipWord (s : SipState) (m : Word64) : SipState :=
  let s := sipRound (sipRound { s with v3 := s.v3 ^^^ m })
  { s with v0 := s.v0 ^^^ m }

/-- Absorbs the whole words of a message, `n` of them. -/
def sipAbsorb : Nat → Bytes → SipState → SipState
  | 0, _, s => s
  | n + 1, bs, s => sipAbsorb n (bs.drop 8) (sipWord s (BitVec.ofNat 64 (leAt bs 0 8)))

/-- SipHash-2-4 of a byte string under the key (k0, k1). -/
def sipHash24 (k0 k1 : Word64) (m : Bytes) : Word64 :=
  let s : SipState := ⟨k0 ^^^ 0x736f6d6570736575, k1 ^^^ 0x646f72616e646f6d, k0 ^^^ 0x6c7967656e657261, k1 ^^^ 0x7465646279746573⟩
  let n := m.length / 8
  let s := sipAbsorb n m s
  let last := BitVec.ofNat 64 (leNat (m.drop (8 * n)) + (m.length % 256) * 2 ^ 56)
  let s := sipWord s last
  let s := sipRound (sipRound (sipRound (sipRound { s with v2 := s.v2 ^^^ 0xFF })))
  s.v0 ^^^ s.v1 ^^^ s.v2 ^^^ s.v3

/-! ### Philox-4x32-10 -/

/-- One Philox block of four words. -/
structure Philox4 where
  x0 : Word32
  x1 : Word32
  x2 : Word32
  x3 : Word32
deriving DecidableEq, Repr

def mulHi32 (a b : Word32) : Word32 := BitVec.ofNat 32 (a.toNat * b.toNat / 2 ^ 32)

def philoxRound (c : Philox4) (k0 k1 : Word32) : Philox4 :=
  ⟨mulHi32 0xCD9E8D57 c.x2 ^^^ c.x1 ^^^ k0, 0xCD9E8D57 * c.x2, mulHi32 0xD2511F53 c.x0 ^^^ c.x3 ^^^ k1, 0xD2511F53 * c.x0⟩

def philoxRounds : Nat → Philox4 → Word32 → Word32 → Philox4
  | 0, c, _, _ => c
  | n + 1, c, k0, k1 => philoxRounds n (philoxRound c k0 k1) (k0 + 0x9E3779B9) (k1 + 0xBB67AE85)

/-- Philox-4x32-10 of a counter under a key. -/
def philox (c : Philox4) (k0 k1 : Word32) : Philox4 := philoxRounds 10 c k0 k1

/-! ### CRC-32C (Castagnoli, reflected) -/

def crcBits : Nat → Word32 → Word32
  | 0, c => c
  | n + 1, c => crcBits n (if c.getLsbD 0 then (c >>> 1) ^^^ 0x82F63B78 else c >>> 1)

/-- CRC-32C of a byte string. -/
def crc32c (m : Bytes) : Word32 :=
  ~~~(m.foldl (fun c b => crcBits 8 (c ^^^ b.zeroExtend 32)) 0xFFFFFFFF#32)

end Sys2Proof.Machine
end

