-- ==== Sys2Proof/Machine/Sparse.lean ====
section
/-! DEFINITION. Sparse maps as plain data: a list of (key, value) pairs with strictly rising keys and no value equal
to what an unlisted key reads as, so that equal maps are equal lists. The dictionary's register files and every
addressed memory of State have this form. -/
namespace Sys2Proof.Machine

/-- What key `k` holds: its listed value, else the default of `k`. -/
def Sparse.get {α : Type} (d : Nat → α) : List (Nat × α) → Nat → α
  | [], k => d k
  | (j, v) :: l, k => if j = k then v else Sparse.get d l k

/-- `l` without key `k`. -/
def Sparse.erase {α : Type} : List (Nat × α) → Nat → List (Nat × α)
  | [], _ => []
  | (j, v) :: l, k => if j = k then Sparse.erase l k else (j, v) :: Sparse.erase l k

/-- `l` with `k` listed as `v`, in key order. -/
def Sparse.insert {α : Type} : List (Nat × α) → Nat → α → List (Nat × α)
  | [], k, v => [(k, v)]
  | (j, w) :: l, k, v =>
    if k < j then (k, v) :: (j, w) :: l
    else if j = k then (k, v) :: l
    else (j, w) :: Sparse.insert l k v

/-- `l` with key `k` holding `v`: listed if `v` is not the default of `k`, else unlisted. -/
def Sparse.set {α : Type} [DecidableEq α] (d : Nat → α) (l : List (Nat × α)) (k : Nat) (v : α) : List (Nat × α) :=
  if v = d k then Sparse.erase l k else Sparse.insert l k v

/-- Keys strictly rising, all above `lo` when it is given. -/
def Sparse.rising {α : Type} : Option Nat → List (Nat × α) → Bool
  | _, [] => true
  | none, (j, _) :: l => Sparse.rising (some j) l
  | some i, (j, _) :: l => decide (i < j) && Sparse.rising (some j) l

/-- The canonical form. -/
def Sparse.wf {α : Type} [DecidableEq α] (d : Nat → α) (l : List (Nat × α)) : Bool :=
  Sparse.rising none l && l.all fun p => !decide (p.2 = d p.1)

/-- The bytes of a memory from address `a`. -/
def Sparse.read (d : Nat → Byte) (m : List (Nat × Byte)) (a : Nat) : Nat → Bytes
  | 0 => []
  | n + 1 => Sparse.get d m a :: Sparse.read d m (a + 1) n

/-- A memory with a byte string stored from address `a` on. -/
def Sparse.write (d : Nat → Byte) (m : List (Nat × Byte)) (a : Nat) : Bytes → List (Nat × Byte)
  | [] => m
  | b :: bs => Sparse.write d (Sparse.set d m a b) (a + 1) bs

end Sys2Proof.Machine
end

