-- ==== Sys2Proof/Machine/ChipStream.lean ====
section
/-! DEFINITION. The Chipper stream (R331 to R343): the slot dictionary, compression and decompression, byte for byte. -/
namespace Sys2Proof.Machine

/-- The slot of four bytes (R333). -/
def hash4 (v : Nat) : Nat := v * 0x9E3779B1 % 2 ^ 32 / 2 ^ 20

/-- The slot dictionary: the position each valid slot holds, and the next position to insert (R334). -/
structure ChipDict where
  slots : List (Nat × Nat)
  ins : Nat
deriving DecidableEq, Repr

/-- What slot `k` holds, if it is valid. -/
def ChipDict.slot (d : ChipDict) (k : Nat) : Option Nat := (d.slots.find? fun e => e.1 == k).map (·.2)

/-- Inserts every position q with q + 4 ≤ p; `n` bounds the loop. -/
def ChipDict.insertFrom (data : Bytes) (p : Nat) : Nat → ChipDict → ChipDict
  | 0, d => d
  | n + 1, d =>
    if d.ins + 4 ≤ p then
      let k := hash4 (leAt data d.ins 4)
      ChipDict.insertFrom data p n ⟨(k, d.ins) :: d.slots.filter (fun e => e.1 != k), d.ins + 1⟩
    else d

/-- insert_upto of R334. -/
def ChipDict.upto (d : ChipDict) (data : Bytes) (p : Nat) : ChipDict := d.insertFrom data p (p - d.ins)

/-- Extension bytes of a count (R336). -/
def extBytes (v : Nat) : Bytes := List.replicate (v / 255) 255 ++ [BitVec.ofNat 8 (v % 255)]

/-- A sequence of literals and a match (R336). -/
def chipSequence (lits : Bytes) (slot len : Nat) : Bytes :=
  let m := len - 4
  let f := min m 255
  let lit := min lits.length 15
  [BitVec.ofNat 8 (lit * 16 + f % 16)] ++ (if lit = 15 then extBytes (lits.length - 15) else []) ++ lits ++
    leBytes 2 (slot + f / 16 * 4096) ++ (if f = 255 then extBytes (m - 255) else [])

/-- A final sequence of literals. -/
def chipFinal (lits : Bytes) : Bytes :=
  let lit := min lits.length 15
  [BitVec.ofNat 8 (lit * 16)] ++ (if lit = 15 then extBytes (lits.length - 15) else []) ++ lits

/-- How many bytes from `a` and from `p` agree before `e`; `n` bounds the count. -/
def matchLen (data : Bytes) (a p e : Nat) : Nat → Nat → Nat
  | 0, len => len
  | n + 1, len =>
    if p + len < e ∧ data[a + len]? = data[p + len]? then matchLen data a p e n (len + 1) else len

/-- compress_block from position p with the literal run begun at `lit` (R338); `n` bounds the steps. -/
def compressFrom (data : Bytes) (s e : Nat) (indep : Bool) : Nat → Nat → Nat → ChipDict → Bytes → Bytes × ChipDict
  | 0, _, lit, d, out => (if lit < e then out ++ chipFinal (bytesAt data lit (e - lit)) else out, d)
  | n + 1, p, lit, d, out =>
    if p < e then
      let d := d.upto data p
      let k := hash4 (leAt data p 4)
      let len :=
        if p + 4 ≤ e then
          match d.slot k with
          | some t => if p - t ≤ 65536 && (!indep || s ≤ t) then matchLen data t p e (e - p) 0 else 0
          | none => 0
        else 0
      if 4 ≤ len then
        compressFrom data s e indep n (p + len) (p + len) d (out ++ chipSequence (bytesAt data lit (p - lit)) k len)
      else compressFrom data s e indep n (p + 1) lit d out
    else (if lit < e then out ++ chipFinal (bytesAt data lit (e - lit)) else out, d)

/-- A block header (Table 11-2). -/
def chipBlockHeader (rawLen : Nat) (raw last : Bool) (stored : Nat) (block : Bytes) : Bytes :=
  leBytes 4 (rawLen + raw.toNat * 2 ^ 17 + last.toNat * 2 ^ 18) ++ leBytes 4 stored ++ leBytes 4 (crc32c block).toNat

/-- The blocks of a stream from position s on, each with whether it is RAW (R332, R339). -/
def chipBlocks (data : Bytes) (b : Nat) (indep : Bool) : Nat → Nat → ChipDict → List (Bool × Bytes)
  | 0, _, _ => []
  | n + 1, s, d =>
    let e := min (s + b) data.length
    let d : ChipDict := if indep then ⟨[], s⟩ else d
    let r := compressFrom data s e indep (e - s) s s d []
    let block := bytesAt data s (e - s)
    let raw := decide (block.length ≤ r.1.length)
    let last := decide (e = data.length)
    let payload := if raw then block else r.1
    let this := (raw, chipBlockHeader block.length raw last payload.length block ++ payload)
    if last then [this] else this :: chipBlocks data b indep n e r.2

/-- The stream header (Table 11-1), with the length known (R340). -/
def chipHeader (indep : Bool) (log2 len : Nat) : Bytes :=
  [0x46, 0x43, 0x01] ++ leBytes 1 indep.toNat ++ leBytes 1 log2 ++ zeros 3 ++ leBytes 8 len

/-- A compressed stream: its header and its blocks. -/
def chipCompress (data : Bytes) (log2 : Nat) (indep : Bool) : List (Bool × Bytes) :=
  chipBlocks data (2 ^ log2) indep (data.length / 2 ^ log2 + 1) 0 ⟨[], 0⟩

/-- The bytes of a compressed stream. -/
def chipStream (data : Bytes) (log2 : Nat) (indep : Bool) : Bytes :=
  chipHeader indep log2 data.length ++ (chipCompress data log2 indep).flatMap (·.2)

/-! ### Decompression -/

/-- Why a decompression stops. -/
inductive ChipStop where
  | corrupt
  | limit
deriving DecidableEq, Repr

/-- An extension run: its sum and the bytes after it (R336); none where the payload ends inside it. -/
def readExt : Bytes → Nat → Option (Nat × Bytes)
  | [], _ => none
  | b :: l, acc => if b = 255 then readExt l (acc + 255) else some (acc + b.toNat, l)

/-- A count with its extension run where its field has the escape value. -/
def readCount (v esc : Nat) (l : Bytes) : Option (Nat × Bytes) := if v = esc then readExt l esc else some (v, l)

/-- Copies `len` bytes from position t on, one at a time (R335). -/
def copyFrom (limit : Nat) : Nat → Nat → Bytes → Except (ChipStop × Bytes) Bytes
  | 0, _, out => .ok out
  | n + 1, t, out =>
    if limit ≤ out.length then .error (.limit, out) else copyFrom limit n (t + 1) (out ++ [out.getD t 0])

/-- Appends literals up to the limit. -/
def putLits (limit : Nat) (lits out : Bytes) : Except (ChipStop × Bytes) Bytes :=
  if out.length + lits.length ≤ limit then .ok (out ++ lits)
  else .error (.limit, out ++ lits.take (limit - out.length))

/-- The sequences of a compressed block whose bytes lie from s to e (R336, R337); `n` bounds their number. -/
def decodeSeqs (s e limit : Nat) (indep : Bool) : Nat → Bytes → ChipDict → Bytes →
    Except (ChipStop × Bytes) (Bytes × ChipDict)
  | 0, _, _, out => .error (.corrupt, out)
  | _ + 1, [], d, out => .ok (out, d)
  | n + 1, tok :: l, d, out =>
    match readCount (tok.toNat / 16) 15 l with
    | none => .error (.corrupt, out)
    | some (lit, l) =>
      -- a run that the payload or the block ends inside is found at that end (R337, R342)
      let fits := min lit (min l.length (e - out.length))
      match putLits limit (l.take fits) out with
        | .error x => .error x
        | .ok out =>
          if fits < lit then .error (.corrupt, out)
          else match l.drop lit with
          | [] => if lit = 0 ∨ tok.toNat % 16 ≠ 0 then .error (.corrupt, out) else .ok (out, d)
          | [_] => .error (.corrupt, out)
          | a :: b :: l =>
            let f := a.toNat + 256 * b.toNat
            match readCount (f / 4096 * 16 + tok.toNat % 16) 255 l with
            | none => .error (.corrupt, out)
            | some (m, l) =>
              let p := out.length
              let d := d.upto out p
              match d.slot (f % 4096) with
              | none => .error (.corrupt, out)
              | some t =>
                if 65536 < p - t ∨ (indep = true ∧ t < s) ∨ e < p + (m + 4) then .error (.corrupt, out)
                else match copyFrom limit (m + 4) t out with
                  | .error x => .error x
                  | .ok out => decodeSeqs s e limit indep n l d out

/-- What a decompression answers: how it ended (none: well), every byte written, how many of them are valid, the input
read, the blocks verified and how many were RAW, the offset of the failing header, and whether it stopped at the end of the
input. -/
structure ChipResult where
  stop : Option ChipStop
  written : Bytes
  valid : Nat
  consumed : Nat
  blocks : Nat
  rawBlocks : Nat
  errorOffset : Nat
  short : Bool
deriving DecidableEq, Repr

/-- The blocks of a stream from input offset `off` (R332, R337, R341 to R343); `n` bounds their number. -/
def decodeBlocks (input : Bytes) (b limit total : Nat) (indep : Bool) :
    Nat → Nat → ChipDict → Bytes → Nat → Nat → ChipResult
  | 0, off, _, out, k, r => ⟨some .corrupt, out, out.length, off, k, r, off, false⟩
  | n + 1, off, d, out, k, r =>
    let bad := fun (w : Bytes) (c : Nat) => (⟨some .corrupt, w, out.length, c, k, r, off, false⟩ : ChipResult)
    if input.length < off + 12 then { bad out input.length with short := true }
    else
      let w0 := leAt input off 4
      let stored := leAt input (off + 4) 4
      let crc := leAt input (off + 8) 4
      let rawLen := w0 % 2 ^ 17
      let raw := w0.testBit 17
      let last := w0.testBit 18
      let sum := out.length + rawLen
      let empty := last && raw && rawLen == 0 && stored == 0 && off == 16
      if 2 ^ 19 ≤ w0 ∨ b < rawLen ∨ (!last && rawLen != b) ∨ (raw && stored != rawLen) ∨
          (rawLen == 0 && !empty) ∨ (total != 2 ^ 64 - 1 && (total < sum || (last && sum != total))) then
        bad out (off + 12)
      else if input.length < off + 12 + stored then { bad out input.length with short := true }
      else
        let payload := bytesAt input (off + 12) stored
        let next := off + 12 + stored
        let d : ChipDict := if indep then ⟨[], out.length⟩ else d
        let res := if raw then (putLits limit payload out).map fun o => (o, d)
          else decodeSeqs out.length sum limit indep (stored + 1) payload d out
        match res with
        | .error (.limit, w) => ⟨some .limit, w, out.length, next, k, r, 0, false⟩
        | .error (.corrupt, w) => bad w next
        | .ok (o, d) =>
          if o.length ≠ sum ∨ (crc32c (o.drop out.length)).toNat ≠ crc then bad o next
          else if !last then decodeBlocks input b limit total indep n next d o (k + 1) (r + raw.toNat)
          else if next ≠ input.length then
            ⟨some .corrupt, o, o.length, next, k + 1, r + raw.toNat, next, false⟩
          else ⟨none, o, o.length, next, k + 1, r + raw.toNat, 0, false⟩

/-- Decompresses a stream under an output limit (R341), writing at most `cap` bytes. -/
def chipDecompressTo (input : Bytes) (limit cap : Nat) : ChipResult :=
  let flags := leAt input 3 1
  let log2 := leAt input 4 1
  let total := leAt input 8 8
  if input.length < 16 ∨ leAt input 0 2 ≠ 0x4346 ∨ leAt input 2 1 ≠ 1 ∨ 2 ≤ flags ∨ log2 < 12 ∨ 16 < log2 ∨
      leAt input 5 3 ≠ 0 ∨ (2 ^ 32 ≤ total ∧ total ≠ 2 ^ 64 - 1) then
    ⟨some .corrupt, [], 0, min 16 input.length, 0, 0, 0, input.length < 16⟩
  else if total ≠ 2 ^ 64 - 1 ∧ limit < total then ⟨some .limit, [], 0, 16, 0, 0, 0, false⟩
  else decodeBlocks input (2 ^ log2) (min limit cap) total (flags = 1) (input.length / 12 + 1) 16 ⟨[], 0⟩ [] 0 0

/-- Decompresses a stream under an output limit (R341). -/
def chipDecompress (input : Bytes) (limit : Nat) : ChipResult := chipDecompressTo input limit limit

end Sys2Proof.Machine
end

