-- ==== Sys2Proof/Config.lean ====
section
/-! DEFINITION. What the spec leaves open or gives by reference to another standard: free values (no body, so no proof
can rest on a value) and the functions of public standards whose results the model does not compute (AES-256-GCM,
ECDSA and ECDH on P-384, media formats). Each is named in a log entry under notes/assumptions/. -/
namespace Sys2Proof

/-- A free value: what the spec says results but does not state. `n` is the state's counter of free values drawn. -/
opaque Config.free : Nat → Nat

/-- A free byte string of `len` bytes, under the same counter. -/
opaque Config.freeBytes : Nat → Nat → Bytes

/-- AES-256-GCM sealing: key, IV, associated data, plaintext; ciphertext and tag (R512, R515). -/
opaque Config.gcmSeal : Bytes → Bytes → Bytes → Bytes → Bytes

/-- AES-256-GCM opening: key, IV, associated data, ciphertext with tag; none if it does not authenticate. -/
opaque Config.gcmOpen : Bytes → Bytes → Bytes → Bytes → Option Bytes

/-- The key unit's ECDSA P-384 signature (r then s, 96 bytes) over a SHA-384 digest (R503, R506, R514). -/
opaque Config.ecdsaSign : Bytes → Bytes → Bytes

/-- Whether a signature verifies under a P-384 public key over a SHA-384 digest (R514). -/
opaque Config.ecdsaVerify : Bytes → Bytes → Bytes → Bool

/-- The device's ephemeral P-384 public key number `n` (97 bytes, R514, R563). -/
opaque Config.ephemeralPublic : Nat → Bytes

/-- The x-coordinate of the ECDH point of ephemeral key `n` and a client's point (48 bytes, R514). -/
opaque Config.ecdhX : Nat → Bytes → Bytes

/-- The device's nonce number `n` (32 bytes, R514). -/
opaque Config.nonce : Nat → Bytes

/-- Unicode 15.1.0 Normalization Form C of a text's code points (R172); bytes kept as they are stand above 0x10FFFF. -/
opaque Config.nfc : List Nat → List Nat

/-- The class of a code point above U+007F under R174's Unicode 15.1.0 properties. -/
opaque Config.codeClass : Nat → Nat

/-- Whether an EXACT kernel's code adds only what R204 allows (the spec gives no code format). -/
opaque Config.exactCodeOk : Bytes → Bool

/-- Whether a grammar image passes GRAMMAR_LOAD's check (R187; the spec gives no image format). -/
opaque Config.grammarOk : Bytes → Bool

/-- The verdict and offset of a grammar image over a text under a depth limit (R188). -/
opaque Config.grammarRun : Bytes → Nat → Bytes → Nat × Nat

/-- Whether ROT90 turns with the clock; R212 gives the angle and not the sense. -/
opaque Config.rot90Clockwise : Bool

end Sys2Proof
end

