-- ==== Sys2Proof/Machine/Reg.lean ====
section
/-! DEFINITION. The names of the dictionary's entries (R550): each is the number index * 256 + subindex under which
the register files of State hold it.  An index that stands for a family of indices (a port, a context, a stream)
takes its member's number as its argument, and a run of subindices takes the offset within the run.  Each group
cites the table of spec/ that lists it. -/
namespace Sys2Proof.Machine

/-- The entry of unit `i` of `count` like units, which stand at successive indices; a number past the last unit names
no entry: 0 is none. -/
def unitKey (count base i : Nat) : Nat := if i < count then base + 256 * i else 0

/-- The entry at offset `n` of a run of `count` subindices; 0, which is no entry, past the run's end. -/
def runKey (count base n : Nat) : Nat := if n < count then base + n else 0

/-! Index 0x1000 (00_scope.md). -/
def Reg.ident.vendor : Nat := 1048577
def Reg.ident.part : Nat := 1048578
def Reg.ident.variant : Nat := 1048579
def Reg.ident.serial : Nat := 1048580
def Reg.ident.stepping : Nat := 1048581
def Reg.ident.deviceUid : Nat := 1048582

/-! Index 0x1010 (00_scope.md). -/
def Reg.cap.prepDies : Nat := 1052673
def Reg.cap.clusters : Nat := 1052674
def Reg.cap.cores : Nat := 1052675
def Reg.cap.engines : Nat := 1052676
def Reg.cap.imageUnits : Nat := 1052677
def Reg.cap.videoUnits : Nat := 1052678
def Reg.cap.frameUnits : Nat := 1052679
def Reg.cap.tokenUnits : Nat := 1052680
def Reg.cap.chippers : Nat := 1052681
def Reg.cap.hbmStacks : Nat := 1052682
def Reg.cap.netLanes : Nat := 1052683
def Reg.cap.nandChannels : Nat := 1052684
def Reg.cap.ddrChannels : Nat := 1052685
def Reg.cap.capsetDigest : Nat := 1052686

/-! Index 0x1011 (00_scope.md). -/
def Reg.mask.clusterMask : Nat := 1052929
def Reg.mask.videoMask : Nat := 1052930
def Reg.mask.laneMask : Nat := 1052931
def Reg.mask.nandMask : Nat := 1052932
def Reg.mask.ddrMask : Nat := 1052933
def Reg.mask.hbmMask : Nat := 1052934

/-! Index 0x1100 (18_object_dictionary.md). -/
def Reg.mgmt.mgmtAAddr : Nat := 1114113
def Reg.mgmt.mgmtAPrefix : Nat := 1114114
def Reg.mgmt.mgmtAGateway : Nat := 1114115
def Reg.mgmt.mgmtBAddr : Nat := 1114116
def Reg.mgmt.mgmtBPrefix : Nat := 1114117
def Reg.mgmt.mgmtBGateway : Nat := 1114118
def Reg.mgmt.mgmtAMac : Nat := 1114119
def Reg.mgmt.mgmtBMac : Nat := 1114120
def Reg.mgmt.tallyUdpPort : Nat := 1114121
def Reg.mgmt.tallyMaxMsg : Nat := 1114122
def Reg.mgmt.mgmtLinks : Nat := 1114123
def Reg.mgmt.blobMax : Nat := 1114124

/-! Index 0x1101 (18_object_dictionary.md). -/
def Reg.tally.tallyRequests : Nat := 1114369
def Reg.tally.tallyDropped : Nat := 1114370
def Reg.tally.counterStales : Nat := 1114371
def Reg.tally.duplicatesAnswered : Nat := 1114372

/-! Index 0x1110 (18_object_dictionary.md). -/
def Reg.smb.smbAddr : Nat := 1118209
def Reg.smb.smbAlertMask : Nat := 1118210
def Reg.smb.smbAlertStatus : Nat := 1118211
def Reg.smb.smbPecErrors : Nat := 1118212

/-! Index 0x1200 (18_object_dictionary.md). -/
def Reg.log.logWritten : Nat := 1179649
def Reg.log.logAcked : Nat := 1179650
def Reg.log.logOccupancy : Nat := 1179651
def Reg.log.logOverflow : Nat := 1179652
def Reg.log.logStorms : Nat := 1179653
def Reg.log.logCoalesced : Nat := 1179654
def Reg.log.logWindowMs : Nat := 1179655
def Reg.log.logReadSeq : Nat := 1179656
def Reg.log.logEntry : Nat := 1179657
def Reg.log.logRing : Nat := 1179658

/-! Index 0x1210 (18_object_dictionary.md). -/
def Reg.evt.eventCounter : Nat := 1183745
def Reg.evt.eventsDropped : Nat := 1183746
def Reg.evt.subscriptions : Nat := 1183747

/-! Index 0x1300 (18_object_dictionary.md). -/
def Reg.hw.hwState : Nat := 1245185
def Reg.hw.updateSeq : Nat := 1245186
def Reg.hw.powerOnS : Nat := 1245187
def Reg.hw.powerCycles : Nat := 1245188
def Reg.hw.resetsPerst : Nat := 1245189
def Reg.hw.resetsCmd : Nat := 1245190
def Reg.hw.resetsWatchdog : Nat := 1245191
def Reg.hw.trips : Nat := 1245192
def Reg.hw.unsafeShutdowns : Nat := 1245193
def Reg.hw.pllUnlocks : Nat := 1245194
def Reg.hw.nandBytesWritten : Nat := 1245195
def Reg.hw.nandBytesRead : Nat := 1245196
def Reg.hw.erases : Nat := 1245197
def Reg.hw.eraseCountPeak : Nat := 1245198
def Reg.hw.boltsRetired : Nat := 1245199
def Reg.hw.tjPeakDc : Nat := 1245200
def Reg.hw.secondsWarm : Nat := 1245201
def Reg.hw.secondsHot : Nat := 1245202
def Reg.hw.energyWh : Nat := 1245203
def Reg.hw.hwIntervalS : Nat := 1245204

/-! Index 0x1301 (18_object_dictionary.md). -/
def Reg.cal.calState : Nat := 1245441
def Reg.cal.calendarTai : Nat := 1245442
def Reg.cal.lastTai : Nat := 1245443
def Reg.cal.firstLockTai : Nat := 1245444
def Reg.cal.utcOffsetS : Nat := 1245445
def Reg.cal.calSteps : Nat := 1245446

/-! Index 0x2000 (17_clocks_power_startup.md). -/
def Reg.clk.pllState : Nat := 2097153
def Reg.clk.coreDiv : Nat := 2097154
def Reg.clk.fabricDiv : Nat := 2097155
def Reg.clk.sscDepthPpm : Nat := 2097156
def Reg.clk.sscRateHz : Nat := 2097157
def Reg.clk.unlocks : Nat := 2097158
def Reg.clk.relocks : Nat := 2097159
def Reg.clk.fallbackUs : Nat := 2097160
def Reg.clk.pllRetryMs : Nat := 2097161
def Reg.clk.pllRetryLimit : Nat := 2097162
def Reg.clk.clockDigest : Nat := 2097163

/-! Index 0x2001 (17_clocks_power_startup.md). -/
def Reg.clkmon.clkmonSel : Nat := 2097409
def Reg.clkmon.clkmonDiv : Nat := 2097410

/-! Index 0x2010 (17_clocks_power_startup.md). -/
def Reg.gate.fineGating : Nat := 2101249
def Reg.gate.clusterGate : Nat := 2101250
def Reg.gate.portGate : Nat := 2101251
def Reg.gate.nandGated : Nat := 2101252
def Reg.gate.gateRefusals : Nat := 2101253

/-! Index 0x2020 (17_clocks_power_startup.md). -/
def Reg.power.powerCapW : Nat := 2105345
def Reg.power.capFloor : Nat := 2105346
def Reg.power.capState : Nat := 2105347
def Reg.power.capUnmetEvents : Nat := 2105348
def Reg.power.holdupW : Nat := 2105349
def Reg.power.pfLeadUs : Nat := 2105350
def Reg.power.holdupMj : Nat := 2105351
def Reg.power.powerDigest : Nat := 2105352
def Reg.power.vddPrepMv : Nat := 2105353
def Reg.power.vddIslMv : Nat := 2105354
def Reg.power.voltMismatches : Nat := 2105355

/-! Index 0x2030 (17_clocks_power_startup.md). -/
def Reg.railPower.railMw (n : Nat) : Nat := runKey 11 2109441 n
def Reg.railPower.totalMw : Nat := 2109452

/-! Index 0x2031 (17_clocks_power_startup.md). -/
def Reg.railVolt.railMv (n : Nat) : Nat := runKey 11 2109697 n

/-! Index 0x2040 (17_clocks_power_startup.md). -/
def Reg.therm.tjMaxDc : Nat := 2113537
def Reg.therm.thermState : Nat := 2113538
def Reg.therm.warnOffsetC : Nat := 2113539
def Reg.therm.coolingRequest : Nat := 2113540
def Reg.therm.thermalEvents : Nat := 2113541
def Reg.therm.trips : Nat := 2113542

/-! Index 0x2050 (17_clocks_power_startup.md). -/
def Reg.start.startState : Nat := 2117633
def Reg.start.lastReset : Nat := 2117634
def Reg.start.resetCmd : Nat := 2117635
def Reg.start.watchdogMs : Nat := 2117636
def Reg.start.startMs : Nat := 2117637
def Reg.start.powerLossState : Nat := 2117638

/-! Index 0x2100 (03_ring_count_and_stands.md). -/
def Reg.rc.ringNow : Nat := 2162689
def Reg.rc.grainNow : Nat := 2162690
def Reg.rc.rcState : Nat := 2162691
def Reg.rc.rateCorr : Nat := 2162692
def Reg.rc.offsetNs : Nat := 2162693
def Reg.rc.slipsLong : Nat := 2162694
def Reg.rc.slipsShort : Nat := 2162695
def Reg.rc.voidCause : Nat := 2162696
def Reg.rc.taiNow : Nat := 2162697

/-! Index 0x2101 (03_ring_count_and_stands.md). -/
def Reg.ptp.ptpEnable : Nat := 2162945
def Reg.ptp.ptpPort : Nat := 2162946
def Reg.ptp.ptpBackupPort : Nat := 2162947
def Reg.ptp.ptpDomain : Nat := 2162948
def Reg.ptp.transport : Nat := 2162949
def Reg.ptp.delayMech : Nat := 2162950
def Reg.ptp.logSyncInterval : Nat := 2162951
def Reg.ptp.kp : Nat := 2162952
def Reg.ptp.ki : Nat := 2162953
def Reg.ptp.asymNs : Nat := 2162954
def Reg.ptp.stepThresholdNs : Nat := 2162955
def Reg.ptp.holdoverRings : Nat := 2162956
def Reg.ptp.gmIdentity : Nat := 2162957

/-! Index 0x2102 (03_ring_count_and_stands.md). -/
def Reg.xchk.outlierGrains : Nat := 2163201
def Reg.xchk.outlierRings : Nat := 2163202
def Reg.xchk.peerMedianGrains : Nat := 2163203
def Reg.xchk.peersUsed : Nat := 2163204

/-! Index 0x2110 (03_ring_count_and_stands.md). -/
def Reg.launch.launches : Nat := 2166785
def Reg.launch.lateDeck : Nat := 2166786
def Reg.launch.lateRefresh : Nat := 2166787
def Reg.launch.retransmitted : Nat := 2166788
def Reg.launch.maxLateGrains : Nat := 2166789
def Reg.launch.launchPrefetch : Nat := 2166790

/-! Index 0x2200 (03_ring_count_and_stands.md). -/
def Reg.stand.standId : Nat := 2228225
def Reg.stand.standState : Nat := 2228226
def Reg.stand.masterId : Nat := 2228227
def Reg.stand.masterTerm : Nat := 2228228
def Reg.stand.memberMask : Nat := 2228229
def Reg.stand.ringLinks : Nat := 2228230
def Reg.stand.formWindowMs : Nat := 2228231
def Reg.stand.barrierTimeout : Nat := 2228232
def Reg.stand.barrierNext : Nat := 2228233
def Reg.stand.spuriousSync : Nat := 2228234
def Reg.stand.barrierAborts : Nat := 2228235

/-! Index 0x2201 (03_ring_count_and_stands.md). -/
def Reg.syncComp.syncComp (n : Nat) : Nat := runKey 8 2228481 n

/-! Index 0x2400 (15_lookout.md). -/
def Reg.lk.lkState : Nat := 2359297
def Reg.lk.domainState : Nat := 2359298
def Reg.lk.slot : Nat := 2359299
def Reg.lk.generation : Nat := 2359300
def Reg.lk.lockstep : Nat := 2359301
def Reg.lk.latenessScore : Nat := 2359302
def Reg.lk.suspect : Nat := 2359303
def Reg.lk.peers : Nat := 2359304
def Reg.lk.councilTerm : Nat := 2359305
def Reg.lk.leader : Nat := 2359306
def Reg.lk.lkKeyEpoch : Nat := 2359307
def Reg.lk.decisionSeq : Nat := 2359308

/-! Index 0x2401 (15_lookout.md). -/
def Reg.lkCfg.domainId : Nat := 2359553
def Reg.lkCfg.lookoutUdpPort : Nat := 2359554
def Reg.lkCfg.mcastGroup : Nat := 2359555
def Reg.lkCfg.lookoutSecret : Nat := 2359556
def Reg.lkCfg.rackId : Nat := 2359557
def Reg.lkCfg.hbWindow : Nat := 2359558
def Reg.lkCfg.probeRings : Nat := 2359559
def Reg.lkCfg.relaunchGuard : Nat := 2359560
def Reg.lkCfg.resumeGuard : Nat := 2359561
def Reg.lkCfg.coppiceStreams : Nat := 2359562
def Reg.lkCfg.autoPreempt : Nat := 2359563

/-! Index 0x2402 (15_lookout.md). -/
def Reg.lkConst.suspectMisses : Nat := 2359809
def Reg.lkConst.stopGuard : Nat := 2359810
def Reg.lkConst.lateGrains : Nat := 2359811
def Reg.lkConst.scoreStep : Nat := 2359812
def Reg.lkConst.scoreDecayRings : Nat := 2359813
def Reg.lkConst.suspectScore : Nat := 2359814
def Reg.lkConst.noticeBoundRings : Nat := 2359815

/-! Index 0x2410 (15_lookout.md). -/
def Reg.council.council : Nat := 2363393
def Reg.council.candidates : Nat := 2363394
def Reg.council.roster : Nat := 2363395
def Reg.council.rosterDigest : Nat := 2363396
def Reg.council.councilReseed : Nat := 2363397

/-! Index 0x2420 (15_lookout.md). -/
def Reg.memb.partnerSet : Nat := 2367489
def Reg.memb.memberQuerySlot : Nat := 2367490
def Reg.memb.memberQuery : Nat := 2367491
def Reg.memb.members : Nat := 2367492
def Reg.memb.spares : Nat := 2367493
def Reg.memb.revokedCount : Nat := 2367494
def Reg.memb.revokedList : Nat := 2367495

/-! Index 0x2430 (15_lookout.md). -/
def Reg.lkCnt.suspicions : Nat := 2371585
def Reg.lkCnt.falseSuspicions : Nat := 2371586
def Reg.lkCnt.abortsSent : Nat := 2371587
def Reg.lkCnt.entriesApplied : Nat := 2371588
def Reg.lkCnt.takeoversActive : Nat := 2371589
def Reg.lkCnt.revokedDrops : Nat := 2371590
def Reg.lkCnt.authDrops : Nat := 2371591
def Reg.lkCnt.duplicateFrames : Nat := 2371592
def Reg.lkCnt.isolations : Nat := 2371593
def Reg.lkCnt.domainHolds : Nat := 2371594

/-! Index 0x2440 (15_lookout.md). -/
def Reg.coppice.coppiceSlot : Nat := 2375681
def Reg.coppice.coppiceTotal : Nat := 2375682
def Reg.coppice.coppiceSealed : Nat := 2375683
def Reg.coppice.orphaned : Nat := 2375684
def Reg.coppice.orphanList : Nat := 2375685

/-! Index 0x2600 (16_security.md). -/
def Reg.sec.bootState : Nat := 2490369
def Reg.sec.fwSvn : Nat := 2490370
def Reg.sec.fuseSvn : Nat := 2490371
def Reg.sec.testEnNow : Nat := 2490372
def Reg.sec.testSinceReset : Nat := 2490373
def Reg.sec.romDigest : Nat := 2490374
def Reg.sec.fwDigest : Nat := 2490375
def Reg.sec.deviceCert : Nat := 2490376
def Reg.sec.sealedState : Nat := 2490377
def Reg.sec.powerTenantW : Nat := 2490378

/-! Index 0x2601 (16_security.md). -/
def Reg.secCtl.secCommand : Nat := 2490625
def Reg.secCtl.schedContext : Nat := 2490626

/-! Index 0x2610 (16_security.md). -/
def Reg.sess.operatorKeys : Nat := 2494465
def Reg.sess.sessionsOpen : Nat := 2494466
def Reg.sess.sessionIdleS : Nat := 2494467
def Reg.sess.sessionLifeS : Nat := 2494468
def Reg.sess.authFailures : Nat := 2494469

/-! Index 0x2620 (16_security.md). -/
def Reg.ctxSum.ctxDefined : Nat := 2498561
def Reg.ctxSum.ctxResident : Nat := 2498562

/-! Index 0x2640 (16_security.md). -/
def Reg.ctx.state (i : Nat) : Nat := unitKey 64 2506753 i
def Reg.ctx.action (i : Nat) : Nat := unitKey 64 2506754 i
def Reg.ctx.program (i : Nat) : Nat := unitKey 64 2506755 i
def Reg.ctx.clusterMask (i : Nat) : Nat := unitKey 64 2506756 i
def Reg.ctx.pinned (i : Nat) : Nat := unitKey 64 2506757 i
def Reg.ctx.sliceUs (i : Nat) : Nat := unitKey 64 2506758 i
def Reg.ctx.policy (i : Nat) : Nat := unitKey 64 2506759 i
def Reg.ctx.residentMask (i : Nat) : Nat := unitKey 64 2506760 i
def Reg.ctx.switchesIn (i : Nat) : Nat := unitKey 64 2506761 i
def Reg.ctx.itemsQ (i : Nat) : Nat := unitKey 64 2506762 i
def Reg.ctx.engineCyclesQ (i : Nat) : Nat := unitKey 64 2506763 i
def Reg.ctx.unitRequestsQ (i : Nat) : Nat := unitKey 64 2506764 i

/-! Index 0x2680 (16_security.md). -/
def Reg.attest.attestRequest : Nat := 2523137
def Reg.attest.attestReport : Nat := 2523138
def Reg.attest.measSeq : Nat := 2523139
def Reg.attest.measLog : Nat := 2523140
def Reg.attest.logEntries : Nat := 2523141

/-! Index 0x2700 (16_security.md). -/
def Reg.scrub.scrubs : Nat := 2555905
def Reg.scrub.scrubUsLast : Nat := 2555906
def Reg.scrub.scrubUsMax : Nat := 2555907
def Reg.scrub.scrubFails : Nat := 2555908
def Reg.scrub.switchUsLast : Nat := 2555909
def Reg.scrub.switchUsMax : Nat := 2555910
def Reg.scrub.faultedMask : Nat := 2555911

/-! Index 0x3000 (12_landing_and_host.md). -/
def Reg.landing.holdupPresent : Nat := 3145729
def Reg.landing.namespaces : Nat := 3145730
def Reg.landing.ioQueuePairsMax : Nat := 3145731
def Reg.landing.commands : Nat := 3145732
def Reg.landing.abortsHonoured : Nat := 3145733
def Reg.landing.abortsDeclined : Nat := 3145734
def Reg.landing.ingests : Nat := 3145735
def Reg.landing.ingestsRefused : Nat := 3145736

/-! Index 0x3100 (12_landing_and_host.md). -/
def Reg.push.enable (i : Nat) : Nat := unitKey 64 3211265 i
def Reg.push.context (i : Nat) : Nat := unitKey 64 3211266 i
def Reg.push.items (i : Nat) : Nat := unitKey 64 3211267 i
def Reg.push.flushes (i : Nat) : Nat := unitKey 64 3211268 i
def Reg.push.overruns (i : Nat) : Nat := unitKey 64 3211269 i
def Reg.push.malformed (i : Nat) : Nat := unitKey 64 3211270 i
def Reg.push.discarded (i : Nat) : Nat := unitKey 64 3211271 i

/-! Index 0x3200 (09_yard.md). -/
def Reg.yard.yardState : Nat := 3276801
def Reg.yard.lastShutdown : Nat := 3276802
def Reg.yard.recoveryMs : Nat := 3276803
def Reg.yard.halfErasedFound : Nat := 3276804
def Reg.yard.yseq : Nat := 3276805
def Reg.yard.formatId : Nat := 3276806

/-! Index 0x3201 (09_yard.md). -/
def Reg.geom.boltDataBytes : Nat := 3277057
def Reg.geom.planes : Nat := 3277058
def Reg.geom.pagesPerBlock : Nat := 3277059
def Reg.geom.cellBits : Nat := 3277060
def Reg.geom.luns : Nat := 3277061
def Reg.geom.lunsForeign : Nat := 3277062
def Reg.geom.boltsTotal : Nat := 3277063
def Reg.geom.userBytes : Nat := 3277064

/-! Index 0x3210 (09_yard.md). -/
def Reg.bolts.boltsInState (n : Nat) : Nat := runKey 9 3280897 n
def Reg.bolts.eraseCountMax : Nat := 3280906
def Reg.bolts.eraseCountMin : Nat := 3280907

/-! Index 0x3220 (09_yard.md). -/
def Reg.yardCfg.logBolts : Nat := 3284993
def Reg.yardCfg.foldStart : Nat := 3284994
def Reg.yardCfg.wlSpread : Nat := 3284995
def Reg.yardCfg.checkpointBytes : Nat := 3284996
def Reg.yardCfg.spareLow : Nat := 3284997
def Reg.yardCfg.spareMin : Nat := 3284998
def Reg.yardCfg.wbDirtyMax : Nat := 3284999
def Reg.yardCfg.journalCommitUs : Nat := 3285000
def Reg.yardCfg.partnerWaitMs : Nat := 3285001
def Reg.yardCfg.refreshBits : Nat := 3285002
def Reg.yardCfg.flushUs : Nat := 3285003

/-! Index 0x3230 (09_yard.md). -/
def Reg.cruise.cruiseEnable : Nat := 3289089
def Reg.cruise.cruiseDays : Nat := 3289090
def Reg.cruise.cruiseRate : Nat := 3289091
def Reg.cruise.cruisePosition : Nat := 3289092
def Reg.cruise.cruisePasses : Nat := 3289093
def Reg.cruise.cruiseLastPass : Nat := 3289094
def Reg.cruise.cruiseBehindS : Nat := 3289095
def Reg.cruise.refreshes : Nat := 3289096

/-! Index 0x3240 (09_yard.md). -/
def Reg.yardFault.checkValueFaults : Nat := 3293185
def Reg.yardFault.dataFaults : Nat := 3293186
def Reg.yardFault.partnerRepairs : Nat := 3293187
def Reg.yardFault.samplesLost : Nat := 3293188
def Reg.yardFault.uncorrectable : Nat := 3293189
def Reg.yardFault.readRetries : Nat := 3293190
def Reg.yardFault.eraseFails : Nat := 3293191
def Reg.yardFault.programFails : Nat := 3293192
def Reg.yardFault.lunFails : Nat := 3293193

/-! Index 0x3250 (09_yard.md). -/
def Reg.shard.shardsMax : Nat := 3297281
def Reg.shard.shardsOwned : Nat := 3297282
def Reg.shard.shardsPartner : Nat := 3297283
def Reg.shard.shardsSingle : Nat := 3297284
def Reg.shard.shardsOpen : Nat := 3297285
def Reg.shard.shardQueryId : Nat := 3297286
def Reg.shard.shardQuery : Nat := 3297287
def Reg.shard.inventory : Nat := 3297288
def Reg.shard.inventoryDigest : Nat := 3297289
def Reg.shard.hostDataBytes : Nat := 3297290

/-! Index 0x3260 (09_yard.md). -/
def Reg.yardCtl.yardCommand : Nat := 3301377
def Reg.yardCtl.formatConfirm : Nat := 3301378

/-! Index 0x3400 (10_memory_and_buffers.md). -/
def Reg.tier.hbmBytes : Nat := 3407873
def Reg.tier.ddrState : Nat := 3407874
def Reg.tier.ddrBytes : Nat := 3407875
def Reg.tier.ddrDimmsPerCh : Nat := 3407876
def Reg.tier.ddrSpeed : Nat := 3407877
def Reg.tier.hbmCorrected : Nat := 3407878
def Reg.tier.hbmUncorrectable : Nat := 3407879
def Reg.tier.ddrCorrected : Nat := 3407880
def Reg.tier.ddrUncorrectable : Nat := 3407881

/-! Index 0x3410 (10_memory_and_buffers.md). -/
def Reg.layout.t1StageBytes : Nat := 3411969
def Reg.layout.workReserve : Nat := 3411970
def Reg.layout.t1StageInUse : Nat := 3411971

/-! Index 0x3420 (10_memory_and_buffers.md). -/
def Reg.pool.blockBytes (i : Nat) : Nat := unitKey 10 3416065 i
def Reg.pool.blocks (i : Nat) : Nat := unitKey 10 3416066 i
def Reg.pool.free (i : Nat) : Nat := unitKey 10 3416067 i
def Reg.pool.freeLow (i : Nat) : Nat := unitKey 10 3416068 i
def Reg.pool.waiters (i : Nat) : Nat := unitKey 10 3416069 i
def Reg.pool.noBuffer (i : Nat) : Nat := unitKey 10 3416070 i
def Reg.pool.notLastOwner (i : Nat) : Nat := unitKey 10 3416071 i
def Reg.pool.doubleFrees (i : Nat) : Nat := unitKey 10 3416072 i
def Reg.pool.blocksRetired (i : Nat) : Nat := unitKey 10 3416073 i
def Reg.pool.scrubPending (i : Nat) : Nat := unitKey 10 3416074 i

/-! Index 0x3460 (10_memory_and_buffers.md). -/
def Reg.arb.starveInterval : Nat := 3432449
def Reg.arb.creditCap : Nat := 3432450
def Reg.arb.deadCycles : Nat := 3432451
def Reg.arb.reservedGrants : Nat := 3432452

/-! Index 0x3461 (10_memory_and_buffers.md). -/
def Reg.wHbm.hbmWeights (n : Nat) : Nat := runKey 6 3432705 n

/-! Index 0x3462 (10_memory_and_buffers.md). -/
def Reg.wDdr.ddrWeights (n : Nat) : Nat := runKey 7 3432961 n

/-! Index 0x3463 (10_memory_and_buffers.md). -/
def Reg.wNand.nandWeights (n : Nat) : Nat := runKey 4 3433217 n

/-! Index 0x3464 (10_memory_and_buffers.md). -/
def Reg.wChipper.chipperWeights (n : Nat) : Nat := runKey 2 3433473 n

/-! Index 0x3465 (10_memory_and_buffers.md). -/
def Reg.wCsram.csramWeights (n : Nat) : Nat := runKey 4 3433729 n

/-! Index 0x3466 (10_memory_and_buffers.md). -/
def Reg.wLink.linkWeights (n : Nat) : Nat := runKey 3 3433985 n

/-! Index 0x3500 (10_memory_and_buffers.md). -/
def Reg.quota.quota (i n : Nat) : Nat := if n < 9 then unitKey 64 (3473409 + n) i else 0

/-! Index 0x3600 (11_chipper.md). -/
def Reg.chip.compressIn : Nat := 3538945
def Reg.chip.compressOut : Nat := 3538946
def Reg.chip.decompressIn : Nat := 3538947
def Reg.chip.decompressOut : Nat := 3538948
def Reg.chip.rawBlocks : Nat := 3538949
def Reg.chip.corrupt : Nat := 3538950
def Reg.chip.limitExceeded : Nat := 3538951
def Reg.chip.outOfSpace : Nat := 3538952
def Reg.chip.extends : Nat := 3538953
def Reg.chip.queueBusy : Nat := 3538954

/-! Index 0x3610 (11_chipper.md). -/
def Reg.chipCfg.yardBlockLog2 : Nat := 3543041
def Reg.chipCfg.seasonBlockLog2 : Nat := 3543042
def Reg.chipCfg.netBlockLog2 : Nat := 3543043
def Reg.chipCfg.netLimitMax : Nat := 3543044

/-! Index 0x3620 (11_chipper.md). -/
def Reg.chipQ.queueDepth (n : Nat) : Nat := runKey 16 3547137 n

/-! Index 0x4000 (04_decode.md). -/
def Reg.dec.imagesDone : Nat := 4194305
def Reg.dec.framesDone : Nat := 4194306
def Reg.dec.picturesDone : Nat := 4194307
def Reg.dec.concealed : Nat := 4194308
def Reg.dec.refused : Nat := 4194309
def Reg.dec.queueBusy : Nat := 4194310
def Reg.dec.abandoned : Nat := 4194311

/-! Index 0x4010 (04_decode.md). -/
def Reg.stream.streamsMax : Nat := 4198401
def Reg.stream.streamsOpen : Nat := 4198402
def Reg.stream.streamsWaiting : Nat := 4198403
def Reg.stream.tableFullCount : Nat := 4198404
def Reg.stream.streamSwitches : Nat := 4198405
def Reg.stream.grainPictures : Nat := 4198406

/-! Index 0x4011 (04_decode.md). -/
def Reg.contexts.contextsInUse (n : Nat) : Nat := runKey 16 4198657 n

/-! Index 0x4020 (04_decode.md). -/
def Reg.island.islandSpeed (n : Nat) : Nat := runKey 16 4202497 n

/-! Index 0x4021 (04_decode.md). -/
def Reg.islandCtl.planFactor : Nat := 4202753
def Reg.islandCtl.islandSlowLevel : Nat := 4202754
def Reg.islandCtl.islandSlowEvents : Nat := 4202755
def Reg.islandCtl.belowPlanEvents : Nat := 4202756
def Reg.islandCtl.islandSpeedLow : Nat := 4202757

/-! Index 0x4200 (05_live_intake.md). -/
def Reg.intake.frameTimeout : Nat := 4325377
def Reg.intake.soeAgeMaxMs : Nat := 4325378
def Reg.intake.settingsLead : Nat := 4325379
def Reg.intake.stageBytes : Nat := 4325380
def Reg.intake.packets : Nat := 4325381
def Reg.intake.packetsDropped : Nat := 4325382
def Reg.intake.storedRaw : Nat := 4325383

/-! Index 0x4280 (05_live_intake.md). -/
def Reg.group.enable (i : Nat) : Nat := unitKey 64 4358145 i
def Reg.group.mode (i : Nat) : Nat := unitKey 64 4358146 i
def Reg.group.fuseBaseTai (i : Nat) : Nat := unitKey 64 4358147 i
def Reg.group.fusePeriodNs (i : Nat) : Nat := unitKey 64 4358148 i
def Reg.group.alignTolGrains (i : Nat) : Nat := unitKey 64 4358149 i
def Reg.group.readyRings (i : Nat) : Nat := unitKey 64 4358150 i
def Reg.group.standSpan (i : Nat) : Nat := unitKey 64 4358151 i
def Reg.group.fused (i : Nat) : Nat := unitKey 64 4358152 i
def Reg.group.dropped (i : Nat) : Nat := unitKey 64 4358153 i
def Reg.group.masked (i : Nat) : Nat := unitKey 64 4358154 i
def Reg.group.held (i : Nat) : Nat := unitKey 64 4358155 i
def Reg.group.late (i : Nat) : Nat := unitKey 64 4358156 i

/-! Index 0x4300 (05_live_intake.md). -/
def Reg.live.enable (i : Nat) : Nat := unitKey 256 4390913 i
def Reg.live.context (i : Nat) : Nat := unitKey 256 4390914 i
def Reg.live.port (i : Nat) : Nat := unitKey 256 4390915 i
def Reg.live.udpPort (i : Nat) : Nat := unitKey 256 4390916 i
def Reg.live.sensorAddr (i : Nat) : Nat := unitKey 256 4390917 i
def Reg.live.width (i : Nat) : Nat := unitKey 256 4390918 i
def Reg.live.height (i : Nat) : Nat := unitKey 256 4390919 i
def Reg.live.bits (i : Nat) : Nat := unitKey 256 4390920 i
def Reg.live.packing (i : Nat) : Nat := unitKey 256 4390921 i
def Reg.live.cfa (i : Nat) : Nat := unitKey 256 4390922 i
def Reg.live.storeFormat (i : Nat) : Nat := unitKey 256 4390923 i
def Reg.live.satLevel (i : Nat) : Nat := unitKey 256 4390924 i
def Reg.live.group (i : Nat) : Nat := unitKey 256 4390925 i
def Reg.live.layer (i : Nat) : Nat := unitKey 256 4390926 i
def Reg.live.policy (i : Nat) : Nat := unitKey 256 4390927 i
def Reg.live.waitRings (i : Nat) : Nat := unitKey 256 4390928 i
def Reg.live.settingsWrite (i : Nat) : Nat := unitKey 256 4390929 i
def Reg.live.settingsGen (i : Nat) : Nat := unitKey 256 4390930 i
def Reg.live.frames (i : Nat) : Nat := unitKey 256 4390931 i
def Reg.live.framesIncomplete (i : Nat) : Nat := unitKey 256 4390932 i
def Reg.live.framesLost (i : Nat) : Nat := unitKey 256 4390933 i
def Reg.live.uncertain (i : Nat) : Nat := unitKey 256 4390934 i

/-! Index 0x4400 (06_tokens.md). -/
def Reg.tok.tokenizedBytes : Nat := 4456449
def Reg.tok.tokensOut : Nat := 4456450
def Reg.tok.detokTokens : Nat := 4456451
def Reg.tok.malformed : Nat := 4456452
def Reg.tok.countMismatches : Nat := 4456453
def Reg.tok.queueBusy : Nat := 4456454
def Reg.tok.grammarRejects : Nat := 4456455
def Reg.tok.abandoned : Nat := 4456456

/-! Index 0x4410 (06_tokens.md). -/
def Reg.vocab.vocabTagNow (n : Nat) : Nat := runKey 32 4460545 n

/-! Index 0x4411 (06_tokens.md). -/
def Reg.vocabDigest.vocabDigest (n : Nat) : Nat := runKey 32 4460801 n

/-! Index 0x4420 (06_tokens.md). -/
def Reg.rollout.rolloutTimeout : Nat := 4464641
def Reg.rollout.rejectAction : Nat := 4464642
def Reg.rollout.streamsOpen : Nat := 4464643
def Reg.rollout.rolloutsStored : Nat := 4464644
def Reg.rollout.rolloutsDiscarded : Nat := 4464645
def Reg.rollout.chunks : Nat := 4464646
def Reg.rollout.chunksDropped : Nat := 4464647
def Reg.rollout.overruns : Nat := 4464648

/-! Index 0x4440 (06_tokens.md). -/
def Reg.stopset.stopStrings (i : Nat) : Nat := unitKey 16 4472833 i
def Reg.stopset.stopIds (i : Nat) : Nat := unitKey 16 4472834 i

/-! Index 0x4600 (07_prep_compute.md). -/
def Reg.prep.launches : Nat := 4587521
def Reg.prep.items : Nat := 4587522
def Reg.prep.itemFaults : Nat := 4587523
def Reg.prep.accLimits : Nat := 4587524
def Reg.prep.nonfinites : Nat := 4587525
def Reg.prep.saturations : Nat := 4587526
def Reg.prep.classMismatches : Nat := 4587527
def Reg.prep.queueBusy : Nat := 4587528

/-! Index 0x4610 (07_prep_compute.md). -/
def Reg.modelCfg.modelBytesMax : Nat := 4591617
def Reg.modelCfg.modelBytesUsed : Nat := 4591618
def Reg.modelCfg.modelsLoaded : Nat := 4591619

/-! Index 0x4620 (07_prep_compute.md). -/
def Reg.kernel.kernelsLoaded (n : Nat) : Nat := runKey 16 4595713 n

/-! Index 0x4640 (07_prep_compute.md). -/
def Reg.model.modelDigest (i : Nat) : Nat := unitKey 64 4603905 i
def Reg.model.modelContext (i : Nat) : Nat := unitKey 64 4603906 i
def Reg.model.modelBytes (i : Nat) : Nat := unitKey 64 4603907 i
def Reg.model.modelClasses (i : Nat) : Nat := unitKey 64 4603908 i

/-! Index 0x4700 (07_prep_compute.md). -/
def Reg.grade.gradeState : Nat := 4653057
def Reg.grade.gradeFile : Nat := 4653058
def Reg.grade.gradeControl : Nat := 4653059
def Reg.grade.gradingDigest : Nat := 4653060
def Reg.grade.samplesGraded : Nat := 4653061
def Reg.grade.samplesSlashed : Nat := 4653062
def Reg.grade.candidates : Nat := 4653063
def Reg.grade.slashBytes : Nat := 4653064
def Reg.grade.slashRecord : Nat := 4653065

/-! Index 0x4800 (08_bucking_and_deck.md). -/
def Reg.buck.itemsBucked : Nat := 4718593
def Reg.buck.itemsTruncated : Nat := 4718594
def Reg.buck.itemsFilled : Nat := 4718595
def Reg.buck.padExtents : Nat := 4718596
def Reg.buck.excludedExtents : Nat := 4718597
def Reg.buck.flaggedWrites : Nat := 4718598

/-! Index 0x4810 (08_bucking_and_deck.md). -/
def Reg.season.seasonHotBytes : Nat := 4722689
def Reg.season.seasonBytesMax : Nat := 4722690
def Reg.season.seasonBytesUsed : Nat := 4722691
def Reg.season.seasonHits : Nat := 4722692
def Reg.season.seasonMisses : Nat := 4722693
def Reg.season.seasonCorrupt : Nat := 4722694
def Reg.season.seasonFullEvents : Nat := 4722695
def Reg.season.seasonClear : Nat := 4722696

/-! Index 0x4820 (08_bucking_and_deck.md). -/
def Reg.deck.deckPoolBytes : Nat := 4726785
def Reg.deck.deckBytesUsed : Nat := 4726786
def Reg.deck.reserveBytes : Nat := 4726787
def Reg.deck.reserveUsed : Nat := 4726788
def Reg.deck.decks : Nat := 4726789
def Reg.deck.lowWaterPct : Nat := 4726790
def Reg.deck.deckLowEvents : Nat := 4726791
def Reg.deck.decksInAlarm : Nat := 4726792
def Reg.deck.levelLow : Nat := 4726793

/-! Index 0x4821 (08_bucking_and_deck.md). -/
def Reg.deckQuery.queryConsumer : Nat := 4727041
def Reg.deckQuery.queryLevel : Nat := 4727042
def Reg.deckQuery.queryBytes : Nat := 4727043
def Reg.deckQuery.queryAlarm : Nat := 4727044

/-! Index 0x4A00 (02_shuffle_and_schedule.md). -/
def Reg.sched.state : Nat := 4849665
def Reg.sched.activeDigest : Nat := 4849666
def Reg.sched.nextDigest : Nat := 4849667
def Reg.sched.epoch : Nat := 4849668
def Reg.sched.step : Nat := 4849669
def Reg.sched.runStart : Nat := 4849670
def Reg.sched.contentLevel : Nat := 4849671
def Reg.sched.loadGuard : Nat := 4849672

/-! Index 0x4A10 (02_shuffle_and_schedule.md). -/
def Reg.seed.seedLo : Nat := 4853761
def Reg.seed.seedHi : Nat := 4853762
def Reg.seed.seedCheck : Nat := 4853763

/-! Index 0x4A11 (02_shuffle_and_schedule.md). -/
def Reg.permTest.roundSource : Nat := 4854017
def Reg.permTest.roundTable : Nat := 4854018

/-! Index 0x4A20 (18_object_dictionary.md). -/
def Reg.section.sectionLoad : Nat := 4857857

/-! Index 0x4A30 (02_shuffle_and_schedule.md). -/
def Reg.replay.replayMode : Nat := 4861953
def Reg.replay.replayRunId : Nat := 4861954
def Reg.replay.journalCapacity : Nat := 4861955
def Reg.replay.journalUsed : Nat := 4861956
def Reg.replay.journalState : Nat := 4861957
def Reg.replay.divergeAction : Nat := 4861958
def Reg.replay.divergedStep : Nat := 4861959

/-! Index 0x5000 (13_skidder.md). -/
def Reg.skd.portMode : Nat := 5242881
def Reg.skd.udpPort : Nat := 5242882
def Reg.skd.pathPortBase : Nat := 5242883
def Reg.skd.schedDscp : Nat := 5242884
def Reg.skd.unschedDscp : Nat := 5242885
def Reg.skd.controlDscp : Nat := 5242886
def Reg.skd.connsOpen : Nat := 5242887
def Reg.skd.pauseReceived : Nat := 5242888
def Reg.skd.txLatencyNs : Nat := 5242889
def Reg.skd.rxLatencyNs : Nat := 5242890

/-! Index 0x5010 (13_skidder.md). -/
def Reg.connCtl.connOpen : Nat := 5246977
def Reg.connCtl.connClose : Nat := 5246978
def Reg.connCtl.connQueryId : Nat := 5246979
def Reg.connCtl.connQuery : Nat := 5246980
def Reg.connCtl.hostTransfer : Nat := 5246981

/-! Index 0x5020 (13_skidder.md). -/
def Reg.rel.sendWindow : Nat := 5251073
def Reg.rel.ackEvery : Nat := 5251074
def Reg.rel.ackDelayNs : Nat := 5251075
def Reg.rel.reorderNs : Nat := 5251076
def Reg.rel.rtoMinUs : Nat := 5251077
def Reg.rel.rtoMaxUs : Nat := 5251078
def Reg.rel.retryLimit : Nat := 5251079
def Reg.rel.readMax : Nat := 5251080

/-! Index 0x5021 (13_skidder.md). -/
def Reg.path.lossQuarantine : Nat := 5251329
def Reg.path.quarantineRings : Nat := 5251330
def Reg.path.quarantined : Nat := 5251331

/-! Index 0x5030 (13_skidder.md). -/
def Reg.rateCtl.rateInitMbps : Nat := 5255169
def Reg.rateCtl.rateMinMbps : Nat := 5255170
def Reg.rateCtl.rateAiMbps : Nat := 5255171
def Reg.rateCtl.rateHaiMbps : Nat := 5255172
def Reg.rateCtl.rcPeriodRings : Nat := 5255173

/-! Index 0x5040 (13_skidder.md). -/
def Reg.key.keyGraceRings : Nat := 5259265
def Reg.key.earlyRotations : Nat := 5259266
def Reg.key.revoked : Nat := 5259267
def Reg.key.abandonedWrites : Nat := 5259268

/-! Index 0x5100 (13_skidder.md). -/
def Reg.portStat.linkUp (i : Nat) : Nat := unitKey 32 5308417 i
def Reg.portStat.txFrames (i : Nat) : Nat := unitKey 32 5308418 i
def Reg.portStat.rxFrames (i : Nat) : Nat := unitKey 32 5308419 i
def Reg.portStat.malformed (i : Nat) : Nat := unitKey 32 5308420 i
def Reg.portStat.authFails (i : Nat) : Nat := unitKey 32 5308421 i
def Reg.portStat.fencedDrops (i : Nat) : Nat := unitKey 32 5308422 i
def Reg.portStat.keyRejects (i : Nat) : Nat := unitKey 32 5308423 i
def Reg.portStat.retransmits (i : Nat) : Nat := unitKey 32 5308424 i
def Reg.portStat.ceMarked (i : Nat) : Nat := unitKey 32 5308425 i
def Reg.portStat.noConnection (i : Nat) : Nat := unitKey 32 5308426 i

/-! Index 0x5200 (14_traffic_shaping.md). -/
def Reg.tsch.subsAssigned : Nat := 5373953
def Reg.tsch.subsSchedule : Nat := 5373954
def Reg.tsch.overflowFlows : Nat := 5373955
def Reg.tsch.overflowNow : Nat := 5373956
def Reg.tsch.overflowRateMbps : Nat := 5373957
def Reg.tsch.overflowBurst : Nat := 5373958
def Reg.tsch.autoRateMbps : Nat := 5373959
def Reg.tsch.autoBurst : Nat := 5373960
def Reg.tsch.schedSubRateMbps : Nat := 5373961
def Reg.tsch.schedSubBurst : Nat := 5373962
def Reg.tsch.controlPct : Nat := 5373963
def Reg.tsch.windowHolds : Nat := 5373964
def Reg.tsch.unschedBytes : Nat := 5373965
def Reg.tsch.controlWaits : Nat := 5373966

/-! Index 0x5201 (14_traffic_shaping.md). -/
def Reg.kerf.kerf (n : Nat) : Nat := runKey 32 5374209 n

/-! Index 0x5210 (14_traffic_shaping.md). -/
def Reg.service.weight (i : Nat) : Nat := unitKey 8 5378049 i
def Reg.service.peakPct (i : Nat) : Nat := unitKey 8 5378050 i
def Reg.service.ingressPct (i : Nat) : Nat := unitKey 8 5378051 i
def Reg.service.ingressBurst (i : Nat) : Nat := unitKey 8 5378052 i
def Reg.service.txBytes (i : Nat) : Nat := unitKey 8 5378053 i
def Reg.service.policeMarked (i : Nat) : Nat := unitKey 8 5378054 i
def Reg.service.policeDropped (i : Nat) : Nat := unitKey 8 5378055 i
def Reg.service.subOverflow (i : Nat) : Nat := unitKey 8 5378056 i

/-! Index 0x5220 (14_traffic_shaping.md). -/
def Reg.subCtl.subSelect : Nat := 5382145
def Reg.subCtl.subConfig : Nat := 5382146
def Reg.subCtl.subQuery : Nat := 5382147

/-! Index 0x5400 (13_skidder.md). -/
def Reg.fi.fiEnable : Nat := 5505025
def Reg.fi.fiPortMask : Nat := 5505026
def Reg.fi.fiConn : Nat := 5505027
def Reg.fi.fiDirection : Nat := 5505028
def Reg.fi.fiClasses : Nat := 5505029
def Reg.fi.fiSeed : Nat := 5505030
def Reg.fi.fiDropPpm : Nat := 5505031
def Reg.fi.fiCorruptPpm : Nat := 5505032
def Reg.fi.fiReorderPpm : Nat := 5505033
def Reg.fi.fiReorderNs : Nat := 5505034
def Reg.fi.fiDropped : Nat := 5505035
def Reg.fi.fiCorrupted : Nat := 5505036
def Reg.fi.fiReordered : Nat := 5505037

end Sys2Proof.Machine
end

