-- ==== Sys2Proof/Machine/OdTable.lean ====
section
/-! DEFINITION. The static table of the object dictionary (R550 to R552, Tables 0-3, 2-19, 3-9, 3-10, 4-14, 5-7, 6-10,
7-16, 8-10, 9-13, 10-13, 11-9, 12-14, 13-15, 14-7, 15-14, 16-7, 17-11 and 18-13): for every index its subindices, and
for each its type, access right, default, stated range and whether it is persisted (R556). -/
namespace Sys2Proof.Machine

/-- The entry types of Table 18-1. -/
inductive OdType where
  | u8 | u16 | u32 | u64 | i32 | bool | time64 | ring64 | str | blob | digest48
deriving DecidableEq, Repr

/-- The access rights of R552. -/
inductive OdAccess where
  | const | ro | rw | rws | wo | rwt
deriving DecidableEq, Repr

/-- One entry, or a run of `subs` entries of one shape from subindex `sub`. `lo`, `hi` and `step` are the stated
range; `enum` says that a value outside is a reserved code (R11, DENIED) and not out of range (RANGE). `maxLen` is
the greatest length of a STR or BLOB and `exact` says it is the only length (R551). `kept` is R556's persistence. -/
structure OdRow where
  sub : Nat
  subs : Nat
  ty : OdType
  acc : OdAccess
  dflt : Nat
  lo : Int
  hi : Int
  step : Nat
  enum : Bool
  maxLen : Nat
  exact : Bool
  kept : Bool
deriving DecidableEq, Repr

/-- An index, or `count` consecutive indices of one shape. -/
structure OdGroup where
  index : Nat
  count : Nat
  rows : List OdRow
deriving DecidableEq, Repr


/-- 00_scope.md, index 0x1000. -/
def odGroup1000 : OdGroup := ⟨4096, 1, [
  ⟨0, 1, .u8, .const, 6, 0, 255, 1, false, 0, false, false⟩,
  ⟨1, 1, .str, .const, 0, 0, 0, 1, false, 16, false, false⟩,
  ⟨2, 1, .str, .const, 0, 0, 0, 1, false, 16, false, false⟩,
  ⟨3, 1, .u8, .const, 0, 0, 255, 1, false, 0, false, false⟩,
  ⟨4, 1, .str, .const, 0, 0, 0, 1, false, 16, false, false⟩,
  ⟨5, 1, .str, .const, 0, 0, 0, 1, false, 16, false, false⟩,
  ⟨6, 1, .u64, .const, 0, 0, 18446744073709551615, 1, false, 0, false, false⟩]⟩

/-- 00_scope.md, index 0x1010. -/
def odGroup1010 : OdGroup := ⟨4112, 1, [
  ⟨0, 1, .u8, .const, 14, 0, 255, 1, false, 0, false, false⟩,
  ⟨1, 1, .u8, .const, 0, 0, 255, 1, false, 0, false, false⟩,
  ⟨2, 1, .u8, .const, 0, 0, 255, 1, false, 0, false, false⟩,
  ⟨3, 1, .u16, .const, 0, 0, 65535, 1, false, 0, false, false⟩,
  ⟨4, 1, .u16, .const, 0, 0, 65535, 1, false, 0, false, false⟩,
  ⟨5, 1, .u8, .const, 0, 0, 255, 1, false, 0, false, false⟩,
  ⟨6, 1, .u8, .const, 0, 0, 255, 1, false, 0, false, false⟩,
  ⟨7, 1, .u8, .const, 0, 0, 255, 1, false, 0, false, false⟩,
  ⟨8, 1, .u8, .const, 0, 0, 255, 1, false, 0, false, false⟩,
  ⟨9, 1, .u8, .const, 16, 0, 255, 1, false, 0, false, false⟩,
  ⟨10, 1, .u8, .const, 0, 0, 255, 1, false, 0, false, false⟩,
  ⟨11, 1, .u8, .const, 0, 0, 255, 1, false, 0, false, false⟩,
  ⟨12, 1, .u8, .const, 0, 0, 255, 1, false, 0, false, false⟩,
  ⟨13, 1, .u8, .const, 0, 0, 255, 1, false, 0, false, false⟩,
  ⟨14, 1, .digest48, .const, 0, 0, 0, 1, false, 48, false, false⟩]⟩

/-- 00_scope.md, index 0x1011. -/
def odGroup1011 : OdGroup := ⟨4113, 1, [
  ⟨0, 1, .u8, .const, 6, 0, 255, 1, false, 0, false, false⟩,
  ⟨1, 1, .u16, .const, 0, 0, 65535, 1, false, 0, false, false⟩,
  ⟨2, 1, .u16, .const, 0, 0, 65535, 1, false, 0, false, false⟩,
  ⟨3, 1, .u32, .const, 0, 0, 4294967295, 1, false, 0, false, false⟩,
  ⟨4, 1, .u32, .const, 0, 0, 4294967295, 1, false, 0, false, false⟩,
  ⟨5, 1, .u8, .const, 0, 0, 255, 1, false, 0, false, false⟩,
  ⟨6, 1, .u8, .const, 0, 0, 255, 1, false, 0, false, false⟩]⟩

/-- 18_object_dictionary.md, index 0x1100. -/
def odGroup1100 : OdGroup := ⟨4352, 1, [
  ⟨0, 1, .u8, .const, 12, 0, 255, 1, false, 0, false, false⟩,
  ⟨1, 1, .blob, .rws, 0, 0, 0, 1, false, 16, true, true⟩,
  ⟨2, 1, .u8, .rws, 64, 1, 128, 1, false, 0, false, true⟩,
  ⟨3, 1, .blob, .rws, 0, 0, 0, 1, false, 16, true, true⟩,
  ⟨4, 1, .blob, .rws, 0, 0, 0, 1, false, 16, true, true⟩,
  ⟨5, 1, .u8, .rws, 64, 1, 128, 1, false, 0, false, true⟩,
  ⟨6, 1, .blob, .rws, 0, 0, 0, 1, false, 16, true, true⟩,
  ⟨7, 1, .u64, .const, 0, 0, 18446744073709551615, 1, false, 0, false, false⟩,
  ⟨8, 1, .u64, .const, 0, 0, 18446744073709551615, 1, false, 0, false, false⟩,
  ⟨9, 1, .u16, .rws, 19133, 1024, 65535, 1, false, 0, false, true⟩,
  ⟨10, 1, .u16, .rws, 1400, 512, 8192, 1, false, 0, false, true⟩,
  ⟨11, 1, .u8, .ro, 0, 0, 255, 1, false, 0, false, false⟩,
  ⟨12, 1, .u32, .const, 67108864, 0, 4294967295, 1, false, 0, false, false⟩]⟩

/-- 18_object_dictionary.md, index 0x1101. -/
def odGroup1101 : OdGroup := ⟨4353, 1, [
  ⟨0, 1, .u8, .const, 4, 0, 255, 1, false, 0, false, false⟩,
  ⟨1, 1, .u64, .ro, 0, 0, 18446744073709551615, 1, false, 0, false, false⟩,
  ⟨2, 1, .u64, .ro, 0, 0, 18446744073709551615, 1, false, 0, false, false⟩,
  ⟨3, 1, .u64, .ro, 0, 0, 18446744073709551615, 1, false, 0, false, false⟩,
  ⟨4, 1, .u64, .ro, 0, 0, 18446744073709551615, 1, false, 0, false, false⟩]⟩

/-- 18_object_dictionary.md, index 0x1110. -/
def odGroup1110 : OdGroup := ⟨4368, 1, [
  ⟨0, 1, .u8, .const, 4, 0, 255, 1, false, 0, false, false⟩,
  ⟨1, 1, .u8, .ro, 0, 0, 255, 1, false, 0, false, false⟩,
  ⟨2, 1, .u16, .rw, 1023, 0, 65535, 1, false, 0, false, false⟩,
  ⟨3, 1, .u16, .rw, 0, 0, 65535, 1, false, 0, false, false⟩,
  ⟨4, 1, .u64, .ro, 0, 0, 18446744073709551615, 1, false, 0, false, false⟩]⟩

/-- 18_object_dictionary.md, index 0x1200. -/
def odGroup1200 : OdGroup := ⟨4608, 1, [
  ⟨0, 1, .u8, .const, 10, 0, 255, 1, false, 0, false, false⟩,
  ⟨1, 1, .u32, .ro, 0, 0, 4294967295, 1, false, 0, false, false⟩,
  ⟨2, 1, .u32, .rws, 0, 0, 4294967295, 1, false, 0, false, true⟩,
  ⟨3, 1, .u16, .ro, 0, 0, 65535, 1, false, 0, false, false⟩,
  ⟨4, 1, .u64, .ro, 0, 0, 18446744073709551615, 1, false, 0, false, false⟩,
  ⟨5, 1, .u64, .ro, 0, 0, 18446744073709551615, 1, false, 0, false, false⟩,
  ⟨6, 1, .u64, .ro, 0, 0, 18446744073709551615, 1, false, 0, false, false⟩,
  ⟨7, 1, .u16, .const, 1000, 0, 65535, 1, false, 0, false, false⟩,
  ⟨8, 1, .u32, .rw, 0, 0, 4294967295, 1, false, 0, false, false⟩,
  ⟨9, 1, .blob, .ro, 0, 0, 0, 1, false, 67108864, false, false⟩,
  ⟨10, 1, .blob, .ro, 0, 0, 0, 1, false, 67108864, false, false⟩]⟩

/-- 18_object_dictionary.md, index 0x1210. -/
def odGroup1210 : OdGroup := ⟨4624, 1, [
  ⟨0, 1, .u8, .const, 3, 0, 255, 1, false, 0, false, false⟩,
  ⟨1, 1, .u64, .ro, 0, 0, 18446744073709551615, 1, false, 0, false, false⟩,
  ⟨2, 1, .u64, .ro, 0, 0, 18446744073709551615, 1, false, 0, false, false⟩,
  ⟨3, 1, .u8, .ro, 0, 0, 255, 1, false, 0, false, false⟩]⟩

/-- 18_object_dictionary.md, index 0x1300. -/
def odGroup1300 : OdGroup := ⟨4864, 1, [
  ⟨0, 1, .u8, .const, 20, 0, 255, 1, false, 0, false, false⟩,
  ⟨1, 1, .u8, .ro, 0, 0, 255, 1, false, 0, false, false⟩,
  ⟨2, 1, .u64, .ro, 0, 0, 18446744073709551615, 1, false, 0, false, false⟩,
  ⟨3, 1, .u64, .ro, 0, 0, 18446744073709551615, 1, false, 0, false, false⟩,
  ⟨4, 1, .u32, .ro, 0, 0, 4294967295, 1, false, 0, false, false⟩,
  ⟨5, 1, .u32, .ro, 0, 0, 4294967295, 1, false, 0, false, false⟩,
  ⟨6, 1, .u32, .ro, 0, 0, 4294967295, 1, false, 0, false, false⟩,
  ⟨7, 1, .u32, .ro, 0, 0, 4294967295, 1, false, 0, false, false⟩,
  ⟨8, 1, .u32, .ro, 0, 0, 4294967295, 1, false, 0, false, false⟩,
  ⟨9, 1, .u32, .ro, 0, 0, 4294967295, 1, false, 0, false, false⟩,
  ⟨10, 1, .u32, .ro, 0, 0, 4294967295, 1, false, 0, false, false⟩,
  ⟨11, 1, .u64, .ro, 0, 0, 18446744073709551615, 1, false, 0, false, false⟩,
  ⟨12, 1, .u64, .ro, 0, 0, 18446744073709551615, 1, false, 0, false, false⟩,
  ⟨13, 1, .u64, .ro, 0, 0, 18446744073709551615, 1, false, 0, false, false⟩,
  ⟨14, 1, .u32, .ro, 0, 0, 4294967295, 1, false, 0, false, false⟩,
  ⟨15, 1, .u32, .ro, 0, 0, 4294967295, 1, false, 0, false, false⟩,
  ⟨16, 1, .i32, .ro, 0, -2147483648, 2147483647, 1, false, 0, false, false⟩,
  ⟨17, 1, .u64, .ro, 0, 0, 18446744073709551615, 1, false, 0, false, false⟩,
  ⟨18, 1, .u64, .ro, 0, 0, 18446744073709551615, 1, false, 0, false, false⟩,
  ⟨19, 1, .u64, .ro, 0, 0, 18446744073709551615, 1, false, 0, false, false⟩,
  ⟨20, 1, .u32, .rws, 3600, 600, 86400, 1, false, 0, false, true⟩]⟩

/-- 18_object_dictionary.md, index 0x1301. -/
def odGroup1301 : OdGroup := ⟨4865, 1, [
  ⟨0, 1, .u8, .const, 6, 0, 255, 1, false, 0, false, false⟩,
  ⟨1, 1, .u8, .ro, 0, 0, 255, 1, false, 0, false, false⟩,
  ⟨2, 1, .time64, .ro, 0, 0, 18446744073709551615, 1, false, 0, false, false⟩,
  ⟨3, 1, .time64, .ro, 0, 0, 18446744073709551615, 1, false, 0, false, false⟩,
  ⟨4, 1, .time64, .ro, 0, 0, 18446744073709551615, 1, false, 0, false, false⟩,
  ⟨5, 1, .i32, .ro, 0, -2147483648, 2147483647, 1, false, 0, false, false⟩,
  ⟨6, 1, .u32, .ro, 0, 0, 4294967295, 1, false, 0, false, false⟩]⟩

/-- 17_clocks_power_startup.md, index 0x2000. -/
def odGroup2000 : OdGroup := ⟨8192, 1, [
  ⟨0, 1, .u8, .const, 11, 0, 255, 1, false, 0, false, false⟩,
  ⟨1, 1, .u8, .ro, 0, 0, 255, 1, false, 0, false, false⟩,
  ⟨2, 1, .u8, .rws, 3, 0, 255, 1, false, 0, false, true⟩,
  ⟨3, 1, .u8, .rws, 4, 0, 255, 1, false, 0, false, true⟩,
  ⟨4, 1, .u16, .rws, 0, 0, 5000, 250, false, 0, false, true⟩,
  ⟨5, 1, .u16, .rws, 31500, 30000, 33000, 1, false, 0, false, true⟩,
  ⟨6, 1, .u32, .ro, 0, 0, 4294967295, 1, false, 0, false, false⟩,
  ⟨7, 1, .u32, .ro, 0, 0, 4294967295, 1, false, 0, false, false⟩,
  ⟨8, 1, .u64, .ro, 0, 0, 18446744073709551615, 1, false, 0, false, false⟩,
  ⟨9, 1, .u16, .rws, 10, 1, 1000, 1, false, 0, false, true⟩,
  ⟨10, 1, .u16, .rws, 100, 1, 65535, 1, false, 0, false, true⟩,
  ⟨11, 1, .digest48, .ro, 0, 0, 0, 1, false, 48, false, false⟩]⟩

/-- 17_clocks_power_startup.md, index 0x2001. -/
def odGroup2001 : OdGroup := ⟨8193, 1, [
  ⟨0, 1, .u8, .const, 2, 0, 255, 1, false, 0, false, false⟩,
  ⟨1, 1, .u8, .rws, 0, 0, 9, 1, true, 0, false, true⟩,
  ⟨2, 1, .u16, .rws, 1000, 1, 65535, 1, false, 0, false, true⟩]⟩

/-- 17_clocks_power_startup.md, index 0x2010. -/
def odGroup2010 : OdGroup := ⟨8208, 1, [
  ⟨0, 1, .u8, .const, 5, 0, 255, 1, false, 0, false, false⟩,
  ⟨1, 1, .bool, .rws, 1, 0, 1, 1, true, 0, false, true⟩,
  ⟨2, 1, .u16, .rws, 0, 0, 65535, 1, false, 0, false, true⟩,
  ⟨3, 1, .u32, .rws, 0, 0, 4294967295, 1, false, 0, false, true⟩,
  ⟨4, 1, .u32, .ro, 0, 0, 4294967295, 1, false, 0, false, false⟩,
  ⟨5, 1, .u64, .ro, 0, 0, 18446744073709551615, 1, false, 0, false, false⟩]⟩

/-- 17_clocks_power_startup.md, index 0x2020. -/
def odGroup2020 : OdGroup := ⟨8224, 1, [
  ⟨0, 1, .u8, .const, 11, 0, 255, 1, false, 0, false, false⟩,
  ⟨1, 1, .u16, .rws, 0, 0, 65535, 1, false, 0, false, true⟩,
  ⟨2, 1, .u16, .rws, 1024, 512, 1024, 1, false, 0, false, true⟩,
  ⟨3, 1, .u8, .ro, 0, 0, 255, 1, false, 0, false, false⟩,
  ⟨4, 1, .u64, .ro, 0, 0, 18446744073709551615, 1, false, 0, false, false⟩,
  ⟨5, 1, .u16, .const, 0, 0, 65535, 1, false, 0, false, false⟩,
  ⟨6, 1, .u32, .ro, 0, 0, 4294967295, 1, false, 0, false, false⟩,
  ⟨7, 1, .u32, .ro, 0, 0, 4294967295, 1, false, 0, false, false⟩,
  ⟨8, 1, .digest48, .ro, 0, 0, 0, 1, false, 48, false, false⟩,
  ⟨9, 1, .u16, .rws, 750, 728, 772, 1, false, 0, false, true⟩,
  ⟨10, 1, .u16, .rws, 750, 728, 772, 1, false, 0, false, true⟩,
  ⟨11, 1, .u64, .ro, 0, 0, 18446744073709551615, 1, false, 0, false, false⟩]⟩

/-- 17_clocks_power_startup.md, index 0x2030. -/
def odGroup2030 : OdGroup := ⟨8240, 1, [
  ⟨0, 1, .u8, .const, 12, 0, 255, 1, false, 0, false, false⟩,
  ⟨1, 11, .u32, .ro, 0, 0, 4294967295, 1, false, 0, false, false⟩,
  ⟨12, 1, .u32, .ro, 0, 0, 4294967295, 1, false, 0, false, false⟩]⟩

/-- 17_clocks_power_startup.md, index 0x2031. -/
def odGroup2031 : OdGroup := ⟨8241, 1, [
  ⟨0, 1, .u8, .const, 11, 0, 255, 1, false, 0, false, false⟩,
  ⟨1, 11, .u16, .ro, 0, 0, 65535, 1, false, 0, false, false⟩]⟩

/-- 17_clocks_power_startup.md, index 0x2040. -/
def odGroup2040 : OdGroup := ⟨8256, 1, [
  ⟨0, 1, .u8, .const, 6, 0, 255, 1, false, 0, false, false⟩,
  ⟨1, 1, .i32, .ro, 0, -2147483648, 2147483647, 1, false, 0, false, false⟩,
  ⟨2, 1, .u8, .ro, 0, 0, 255, 1, false, 0, false, false⟩,
  ⟨3, 1, .u8, .rws, 10, 5, 30, 1, false, 0, false, true⟩,
  ⟨4, 1, .u8, .ro, 30, 0, 255, 1, false, 0, false, false⟩,
  ⟨5, 1, .u64, .ro, 0, 0, 18446744073709551615, 1, false, 0, false, false⟩,
  ⟨6, 1, .u32, .ro, 0, 0, 4294967295, 1, false, 0, false, false⟩]⟩

/-- 17_clocks_power_startup.md, index 0x2050. -/
def odGroup2050 : OdGroup := ⟨8272, 1, [
  ⟨0, 1, .u8, .const, 6, 0, 255, 1, false, 0, false, false⟩,
  ⟨1, 1, .u8, .ro, 1, 0, 255, 1, false, 0, false, false⟩,
  ⟨2, 1, .u8, .ro, 0, 0, 255, 1, false, 0, false, false⟩,
  ⟨3, 1, .u8, .wo, 0, 1, 2, 1, true, 0, false, false⟩,
  ⟨4, 1, .u16, .rws, 2000, 500, 60000, 1, false, 0, false, true⟩,
  ⟨5, 1, .u32, .ro, 0, 0, 4294967295, 1, false, 0, false, false⟩,
  ⟨6, 1, .bool, .ro, 0, 0, 1, 1, true, 0, false, false⟩]⟩

/-- 03_ring_count_and_stands.md, index 0x2100. -/
def odGroup2100 : OdGroup := ⟨8448, 1, [
  ⟨0, 1, .u8, .const, 9, 0, 255, 1, false, 0, false, false⟩,
  ⟨1, 1, .ring64, .ro, 0, 0, 18446744073709551615, 1, false, 0, false, false⟩,
  ⟨2, 1, .u16, .ro, 0, 0, 65535, 1, false, 0, false, false⟩,
  ⟨3, 1, .u8, .ro, 0, 0, 255, 1, false, 0, false, false⟩,
  ⟨4, 1, .i32, .ro, 0, -2147483648, 2147483647, 1, false, 0, false, false⟩,
  ⟨5, 1, .i32, .ro, 0, -2147483648, 2147483647, 1, false, 0, false, false⟩,
  ⟨6, 1, .u64, .ro, 0, 0, 18446744073709551615, 1, false, 0, false, false⟩,
  ⟨7, 1, .u64, .ro, 0, 0, 18446744073709551615, 1, false, 0, false, false⟩,
  ⟨8, 1, .u8, .ro, 0, 0, 255, 1, false, 0, false, false⟩,
  ⟨9, 1, .time64, .ro, 0, 0, 18446744073709551615, 1, false, 0, false, false⟩]⟩

/-- 03_ring_count_and_stands.md, index 0x2101. -/
def odGroup2101 : OdGroup := ⟨8449, 1, [
  ⟨0, 1, .u8, .const, 13, 0, 255, 1, false, 0, false, false⟩,
  ⟨1, 1, .bool, .rws, 1, 0, 1, 1, true, 0, false, true⟩,
  ⟨2, 1, .u8, .rws, 0, 0, 255, 1, false, 0, false, true⟩,
  ⟨3, 1, .u8, .rws, 255, 0, 255, 1, false, 0, false, true⟩,
  ⟨4, 1, .u8, .rws, 0, 0, 127, 1, false, 0, false, true⟩,
  ⟨5, 1, .u8, .rws, 1, 0, 2, 1, true, 0, false, true⟩,
  ⟨6, 1, .u8, .rws, 0, 0, 1, 1, true, 0, false, true⟩,
  ⟨7, 1, .i32, .rws, 4294967289, -7, 0, 1, false, 0, false, true⟩,
  ⟨8, 1, .u32, .rws, 32, 0, 1024, 1, false, 0, false, true⟩,
  ⟨9, 1, .u32, .rws, 2, 0, 64, 1, false, 0, false, true⟩,
  ⟨10, 1, .i32, .rws, 0, -10000, 10000, 1, false, 0, false, true⟩,
  ⟨11, 1, .u32, .rws, 1000, 100, 1000000, 1, false, 0, false, true⟩,
  ⟨12, 1, .u32, .rws, 100000, 0, 1000000, 1, false, 0, false, true⟩,
  ⟨13, 1, .u64, .ro, 0, 0, 18446744073709551615, 1, false, 0, false, false⟩]⟩

/-- 03_ring_count_and_stands.md, index 0x2102. -/
def odGroup2102 : OdGroup := ⟨8450, 1, [
  ⟨0, 1, .u8, .const, 4, 0, 255, 1, false, 0, false, false⟩,
  ⟨1, 1, .u16, .rws, 8, 6, 64, 1, false, 0, false, true⟩,
  ⟨2, 1, .u16, .rws, 16, 4, 4096, 1, false, 0, false, true⟩,
  ⟨3, 1, .i32, .ro, 0, -2147483648, 2147483647, 1, false, 0, false, false⟩,
  ⟨4, 1, .u8, .ro, 0, 0, 255, 1, false, 0, false, false⟩]⟩

/-- 03_ring_count_and_stands.md, index 0x2110. -/
def odGroup2110 : OdGroup := ⟨8464, 1, [
  ⟨0, 1, .u8, .const, 6, 0, 255, 1, false, 0, false, false⟩,
  ⟨1, 1, .u64, .ro, 0, 0, 18446744073709551615, 1, false, 0, false, false⟩,
  ⟨2, 1, .u64, .ro, 0, 0, 18446744073709551615, 1, false, 0, false, false⟩,
  ⟨3, 1, .u64, .ro, 0, 0, 18446744073709551615, 1, false, 0, false, false⟩,
  ⟨4, 1, .u64, .ro, 0, 0, 18446744073709551615, 1, false, 0, false, false⟩,
  ⟨5, 1, .u32, .ro, 0, 0, 4294967295, 1, false, 0, false, false⟩,
  ⟨6, 1, .u16, .rws, 48, 16, 512, 1, false, 0, false, true⟩]⟩

/-- 03_ring_count_and_stands.md, index 0x2200. -/
def odGroup2200 : OdGroup := ⟨8704, 1, [
  ⟨0, 1, .u8, .const, 11, 0, 255, 1, false, 0, false, false⟩,
  ⟨1, 1, .u8, .ro, 0, 0, 255, 1, false, 0, false, false⟩,
  ⟨2, 1, .u8, .ro, 0, 0, 255, 1, false, 0, false, false⟩,
  ⟨3, 1, .u8, .ro, 255, 0, 255, 1, false, 0, false, false⟩,
  ⟨4, 1, .u32, .ro, 0, 0, 4294967295, 1, false, 0, false, false⟩,
  ⟨5, 1, .u8, .ro, 0, 0, 255, 1, false, 0, false, false⟩,
  ⟨6, 1, .u8, .ro, 0, 0, 255, 1, false, 0, false, false⟩,
  ⟨7, 1, .u16, .rws, 100, 10, 10000, 1, false, 0, false, true⟩,
  ⟨8, 1, .u32, .rws, 64, 2, 100000000, 1, false, 0, false, true⟩,
  ⟨9, 1, .u32, .ro, 0, 0, 4294967295, 1, false, 0, false, false⟩,
  ⟨10, 1, .u64, .ro, 0, 0, 18446744073709551615, 1, false, 0, false, false⟩,
  ⟨11, 1, .u64, .ro, 0, 0, 18446744073709551615, 1, false, 0, false, false⟩]⟩

/-- 03_ring_count_and_stands.md, index 0x2201. -/
def odGroup2201 : OdGroup := ⟨8705, 1, [
  ⟨0, 1, .u8, .const, 8, 0, 255, 1, false, 0, false, false⟩,
  ⟨1, 8, .u8, .rws, 0, 0, 63, 1, false, 0, false, true⟩]⟩

/-- 15_lookout.md, index 0x2400. -/
def odGroup2400 : OdGroup := ⟨9216, 1, [
  ⟨0, 1, .u8, .const, 12, 0, 255, 1, false, 0, false, false⟩,
  ⟨1, 1, .u8, .ro, 0, 0, 255, 1, false, 0, false, false⟩,
  ⟨2, 1, .u8, .ro, 0, 0, 255, 1, false, 0, false, false⟩,
  ⟨3, 1, .u16, .ro, 65535, 0, 65535, 1, false, 0, false, false⟩,
  ⟨4, 1, .u32, .ro, 0, 0, 4294967295, 1, false, 0, false, false⟩,
  ⟨5, 1, .u8, .ro, 0, 0, 255, 1, false, 0, false, false⟩,
  ⟨6, 1, .u16, .ro, 0, 0, 65535, 1, false, 0, false, false⟩,
  ⟨7, 1, .bool, .ro, 0, 0, 1, 1, true, 0, false, false⟩,
  ⟨8, 1, .u8, .ro, 0, 0, 255, 1, false, 0, false, false⟩,
  ⟨9, 1, .u32, .ro, 0, 0, 4294967295, 1, false, 0, false, false⟩,
  ⟨10, 1, .u16, .ro, 65535, 0, 65535, 1, false, 0, false, false⟩,
  ⟨11, 1, .u32, .ro, 0, 0, 4294967295, 1, false, 0, false, false⟩,
  ⟨12, 1, .u32, .ro, 0, 0, 4294967295, 1, false, 0, false, false⟩]⟩

/-- 15_lookout.md, index 0x2401. -/
def odGroup2401 : OdGroup := ⟨9217, 1, [
  ⟨0, 1, .u8, .const, 11, 0, 255, 1, false, 0, false, false⟩,
  ⟨1, 1, .u32, .rws, 0, 0, 4294967295, 1, false, 0, false, true⟩,
  ⟨2, 1, .u16, .rws, 19132, 1024, 65535, 1, false, 0, false, true⟩,
  ⟨3, 1, .blob, .rws, 0, 0, 0, 1, false, 16, true, true⟩,
  ⟨4, 1, .blob, .rws, 0, 0, 0, 1, false, 32, true, true⟩,
  ⟨5, 1, .u16, .rws, 0, 0, 65535, 1, false, 0, false, true⟩,
  ⟨6, 1, .u16, .rws, 256, 128, 512, 1, false, 0, false, true⟩,
  ⟨7, 1, .u16, .rws, 64, 16, 180, 1, false, 0, false, true⟩,
  ⟨8, 1, .u16, .rws, 8, 6, 64, 1, false, 0, false, true⟩,
  ⟨9, 1, .u16, .rws, 8, 4, 4096, 1, false, 0, false, true⟩,
  ⟨10, 1, .u8, .rws, 8, 1, 32, 1, false, 0, false, true⟩,
  ⟨11, 1, .u8, .rws, 3, 0, 255, 1, false, 0, false, true⟩]⟩

/-- 15_lookout.md, index 0x2402. -/
def odGroup2402 : OdGroup := ⟨9218, 1, [
  ⟨0, 1, .u8, .const, 7, 0, 255, 1, false, 0, false, false⟩,
  ⟨1, 1, .u8, .const, 2, 0, 255, 1, false, 0, false, false⟩,
  ⟨2, 1, .u8, .const, 4, 0, 255, 1, false, 0, false, false⟩,
  ⟨3, 1, .u8, .const, 8, 0, 255, 1, false, 0, false, false⟩,
  ⟨4, 1, .u8, .const, 16, 0, 255, 1, false, 0, false, false⟩,
  ⟨5, 1, .u16, .const, 4096, 0, 65535, 1, false, 0, false, false⟩,
  ⟨6, 1, .u16, .const, 192, 0, 65535, 1, false, 0, false, false⟩,
  ⟨7, 1, .u8, .const, 4, 0, 255, 1, false, 0, false, false⟩]⟩

/-- 15_lookout.md, index 0x2410. -/
def odGroup2410 : OdGroup := ⟨9232, 1, [
  ⟨0, 1, .u8, .const, 5, 0, 255, 1, false, 0, false, false⟩,
  ⟨1, 1, .blob, .ro, 0, 0, 0, 1, false, 67108864, false, false⟩,
  ⟨2, 1, .blob, .rws, 0, 0, 0, 1, false, 128, false, true⟩,
  ⟨3, 1, .blob, .rws, 0, 0, 0, 1, false, 262144, false, true⟩,
  ⟨4, 1, .digest48, .ro, 0, 0, 0, 1, false, 48, false, false⟩,
  ⟨5, 1, .blob, .rws, 0, 0, 0, 1, false, 10, true, true⟩]⟩

/-- 15_lookout.md, index 0x2420. -/
def odGroup2420 : OdGroup := ⟨9248, 1, [
  ⟨0, 1, .u8, .const, 7, 0, 255, 1, false, 0, false, false⟩,
  ⟨1, 1, .blob, .rws, 0, 0, 0, 1, false, 32, false, true⟩,
  ⟨2, 1, .u16, .rw, 0, 0, 65535, 1, false, 0, false, false⟩,
  ⟨3, 1, .blob, .ro, 0, 0, 0, 1, false, 67108864, false, false⟩,
  ⟨4, 1, .u16, .ro, 0, 0, 65535, 1, false, 0, false, false⟩,
  ⟨5, 1, .u16, .ro, 0, 0, 65535, 1, false, 0, false, false⟩,
  ⟨6, 1, .u32, .ro, 0, 0, 4294967295, 1, false, 0, false, false⟩,
  ⟨7, 1, .blob, .ro, 0, 0, 0, 1, false, 67108864, false, false⟩]⟩

/-- 15_lookout.md, index 0x2430. -/
def odGroup2430 : OdGroup := ⟨9264, 1, [
  ⟨0, 1, .u8, .const, 10, 0, 255, 1, false, 0, false, false⟩,
  ⟨1, 1, .u64, .ro, 0, 0, 18446744073709551615, 1, false, 0, false, false⟩,
  ⟨2, 1, .u64, .ro, 0, 0, 18446744073709551615, 1, false, 0, false, false⟩,
  ⟨3, 1, .u64, .ro, 0, 0, 18446744073709551615, 1, false, 0, false, false⟩,
  ⟨4, 1, .u64, .ro, 0, 0, 18446744073709551615, 1, false, 0, false, false⟩,
  ⟨5, 1, .u32, .ro, 0, 0, 4294967295, 1, false, 0, false, false⟩,
  ⟨6, 1, .u64, .ro, 0, 0, 18446744073709551615, 1, false, 0, false, false⟩,
  ⟨7, 1, .u64, .ro, 0, 0, 18446744073709551615, 1, false, 0, false, false⟩,
  ⟨8, 1, .u64, .ro, 0, 0, 18446744073709551615, 1, false, 0, false, false⟩,
  ⟨9, 1, .u64, .ro, 0, 0, 18446744073709551615, 1, false, 0, false, false⟩,
  ⟨10, 1, .u64, .ro, 0, 0, 18446744073709551615, 1, false, 0, false, false⟩]⟩

/-- 15_lookout.md, index 0x2440. -/
def odGroup2440 : OdGroup := ⟨9280, 1, [
  ⟨0, 1, .u8, .const, 5, 0, 255, 1, false, 0, false, false⟩,
  ⟨1, 1, .u16, .ro, 65535, 0, 65535, 1, false, 0, false, false⟩,
  ⟨2, 1, .u32, .ro, 0, 0, 4294967295, 1, false, 0, false, false⟩,
  ⟨3, 1, .u32, .ro, 0, 0, 4294967295, 1, false, 0, false, false⟩,
  ⟨4, 1, .u32, .ro, 0, 0, 4294967295, 1, false, 0, false, false⟩,
  ⟨5, 1, .blob, .ro, 0, 0, 0, 1, false, 67108864, false, false⟩]⟩

/-- 16_security.md, index 0x2600. -/
def odGroup2600 : OdGroup := ⟨9728, 1, [
  ⟨0, 1, .u8, .const, 10, 0, 255, 1, false, 0, false, false⟩,
  ⟨1, 1, .u8, .ro, 0, 0, 255, 1, false, 0, false, false⟩,
  ⟨2, 1, .u8, .ro, 0, 0, 255, 1, false, 0, false, false⟩,
  ⟨3, 1, .u8, .ro, 0, 0, 255, 1, false, 0, false, false⟩,
  ⟨4, 1, .bool, .ro, 0, 0, 1, 1, true, 0, false, false⟩,
  ⟨5, 1, .bool, .ro, 0, 0, 1, 1, true, 0, false, false⟩,
  ⟨6, 1, .digest48, .const, 0, 0, 0, 1, false, 48, false, false⟩,
  ⟨7, 1, .digest48, .ro, 0, 0, 0, 1, false, 48, false, false⟩,
  ⟨8, 1, .blob, .const, 0, 0, 0, 1, false, 67108864, false, false⟩,
  ⟨9, 1, .u8, .ro, 0, 0, 255, 1, false, 0, false, false⟩,
  ⟨10, 1, .u16, .ro, 0, 0, 65535, 1, false, 0, false, false⟩]⟩

/-- 16_security.md, index 0x2601. -/
def odGroup2601 : OdGroup := ⟨9729, 1, [
  ⟨0, 1, .u8, .const, 2, 0, 255, 1, false, 0, false, false⟩,
  ⟨1, 1, .u8, .rws, 0, 1, 1, 1, true, 0, false, true⟩,
  ⟨2, 1, .u8, .rws, 0, 0, 63, 1, false, 0, false, true⟩]⟩

/-- 16_security.md, index 0x2610. -/
def odGroup2610 : OdGroup := ⟨9744, 1, [
  ⟨0, 1, .u8, .const, 5, 0, 255, 1, false, 0, false, false⟩,
  ⟨1, 1, .blob, .rws, 0, 0, 0, 1, false, 1024, false, true⟩,
  ⟨2, 1, .u8, .ro, 0, 0, 255, 1, false, 0, false, false⟩,
  ⟨3, 1, .u32, .rws, 300, 10, 86400, 1, false, 0, false, true⟩,
  ⟨4, 1, .u32, .rws, 86400, 60, 604800, 1, false, 0, false, true⟩,
  ⟨5, 1, .u64, .ro, 0, 0, 18446744073709551615, 1, false, 0, false, false⟩]⟩

/-- 16_security.md, index 0x2620. -/
def odGroup2620 : OdGroup := ⟨9760, 1, [
  ⟨0, 1, .u8, .const, 2, 0, 255, 1, false, 0, false, false⟩,
  ⟨1, 1, .u8, .ro, 1, 0, 255, 1, false, 0, false, false⟩,
  ⟨2, 1, .u8, .ro, 0, 0, 255, 1, false, 0, false, false⟩]⟩

/-- 16_security.md, index 0x2640. -/
def odGroup2640 : OdGroup := ⟨9792, 64, [
  ⟨0, 1, .u8, .const, 12, 0, 255, 1, false, 0, false, false⟩,
  ⟨1, 1, .u8, .ro, 0, 0, 255, 1, false, 0, false, false⟩,
  ⟨2, 1, .u8, .wo, 0, 1, 2, 1, true, 0, false, false⟩,
  ⟨3, 1, .blob, .rws, 0, 0, 0, 1, false, 67108864, false, true⟩,
  ⟨4, 1, .u16, .rws, 0, 0, 65535, 1, false, 0, false, true⟩,
  ⟨5, 1, .bool, .rws, 0, 0, 1, 1, true, 0, false, true⟩,
  ⟨6, 1, .u32, .rws, 10000, 1000, 100000, 1, false, 0, false, true⟩,
  ⟨7, 1, .u8, .rws, 0, 0, 255, 1, false, 0, false, true⟩,
  ⟨8, 1, .u16, .ro, 0, 0, 65535, 1, false, 0, false, false⟩,
  ⟨9, 1, .u64, .ro, 0, 0, 18446744073709551615, 1, false, 0, false, false⟩,
  ⟨10, 1, .u64, .ro, 0, 0, 18446744073709551615, 1, false, 0, false, false⟩,
  ⟨11, 1, .u64, .ro, 0, 0, 18446744073709551615, 1, false, 0, false, false⟩,
  ⟨12, 1, .u64, .ro, 0, 0, 18446744073709551615, 1, false, 0, false, false⟩]⟩

/-- 16_security.md, index 0x2680. -/
def odGroup2680 : OdGroup := ⟨9856, 1, [
  ⟨0, 1, .u8, .const, 5, 0, 255, 1, false, 0, false, false⟩,
  ⟨1, 1, .blob, .rw, 0, 0, 0, 1, false, 64, true, false⟩,
  ⟨2, 1, .blob, .ro, 0, 0, 0, 1, false, 67108864, false, false⟩,
  ⟨3, 1, .u32, .ro, 0, 0, 4294967295, 1, false, 0, false, false⟩,
  ⟨4, 1, .blob, .ro, 0, 0, 0, 1, false, 67108864, false, false⟩,
  ⟨5, 1, .u32, .ro, 0, 0, 4294967295, 1, false, 0, false, false⟩]⟩

/-- 16_security.md, index 0x2700. -/
def odGroup2700 : OdGroup := ⟨9984, 1, [
  ⟨0, 1, .u8, .const, 7, 0, 255, 1, false, 0, false, false⟩,
  ⟨1, 1, .u64, .ro, 0, 0, 18446744073709551615, 1, false, 0, false, false⟩,
  ⟨2, 1, .u32, .ro, 0, 0, 4294967295, 1, false, 0, false, false⟩,
  ⟨3, 1, .u32, .ro, 0, 0, 4294967295, 1, false, 0, false, false⟩,
  ⟨4, 1, .u32, .ro, 0, 0, 4294967295, 1, false, 0, false, false⟩,
  ⟨5, 1, .u32, .ro, 0, 0, 4294967295, 1, false, 0, false, false⟩,
  ⟨6, 1, .u32, .ro, 0, 0, 4294967295, 1, false, 0, false, false⟩,
  ⟨7, 1, .u16, .ro, 0, 0, 65535, 1, false, 0, false, false⟩]⟩

/-- 12_landing_and_host.md, index 0x3000. -/
def odGroup3000 : OdGroup := ⟨12288, 1, [
  ⟨0, 1, .u8, .const, 8, 0, 255, 1, false, 0, false, false⟩,
  ⟨1, 1, .bool, .rws, 0, 0, 1, 1, true, 0, false, true⟩,
  ⟨2, 1, .u16, .ro, 0, 0, 65535, 1, false, 0, false, false⟩,
  ⟨3, 1, .u16, .const, 1024, 0, 65535, 1, false, 0, false, false⟩,
  ⟨4, 1, .u64, .ro, 0, 0, 18446744073709551615, 1, false, 0, false, false⟩,
  ⟨5, 1, .u64, .ro, 0, 0, 18446744073709551615, 1, false, 0, false, false⟩,
  ⟨6, 1, .u64, .ro, 0, 0, 18446744073709551615, 1, false, 0, false, false⟩,
  ⟨7, 1, .u64, .ro, 0, 0, 18446744073709551615, 1, false, 0, false, false⟩,
  ⟨8, 1, .u64, .ro, 0, 0, 18446744073709551615, 1, false, 0, false, false⟩]⟩

/-- 12_landing_and_host.md, index 0x3100. -/
def odGroup3100 : OdGroup := ⟨12544, 64, [
  ⟨0, 1, .u8, .const, 7, 0, 255, 1, false, 0, false, false⟩,
  ⟨1, 1, .bool, .rws, 0, 0, 1, 1, true, 0, false, true⟩,
  ⟨2, 1, .u8, .rws, 0, 0, 63, 1, false, 0, false, true⟩,
  ⟨3, 1, .u64, .ro, 0, 0, 18446744073709551615, 1, false, 0, false, false⟩,
  ⟨4, 1, .u64, .ro, 0, 0, 18446744073709551615, 1, false, 0, false, false⟩,
  ⟨5, 1, .u64, .ro, 0, 0, 18446744073709551615, 1, false, 0, false, false⟩,
  ⟨6, 1, .u64, .ro, 0, 0, 18446744073709551615, 1, false, 0, false, false⟩,
  ⟨7, 1, .u64, .ro, 0, 0, 18446744073709551615, 1, false, 0, false, false⟩]⟩

/-- 09_yard.md, index 0x3200. -/
def odGroup3200 : OdGroup := ⟨12800, 1, [
  ⟨0, 1, .u8, .const, 6, 0, 255, 1, false, 0, false, false⟩,
  ⟨1, 1, .u8, .ro, 0, 0, 255, 1, false, 0, false, false⟩,
  ⟨2, 1, .u8, .ro, 0, 0, 255, 1, false, 0, false, false⟩,
  ⟨3, 1, .u32, .ro, 0, 0, 4294967295, 1, false, 0, false, false⟩,
  ⟨4, 1, .u32, .ro, 0, 0, 4294967295, 1, false, 0, false, false⟩,
  ⟨5, 1, .u64, .ro, 0, 0, 18446744073709551615, 1, false, 0, false, false⟩,
  ⟨6, 1, .u64, .ro, 0, 0, 18446744073709551615, 1, false, 0, false, false⟩]⟩

/-- 09_yard.md, index 0x3201. -/
def odGroup3201 : OdGroup := ⟨12801, 1, [
  ⟨0, 1, .u8, .const, 8, 0, 255, 1, false, 0, false, false⟩,
  ⟨1, 1, .u64, .ro, 0, 0, 18446744073709551615, 1, false, 0, false, false⟩,
  ⟨2, 1, .u8, .ro, 0, 0, 255, 1, false, 0, false, false⟩,
  ⟨3, 1, .u16, .ro, 0, 0, 65535, 1, false, 0, false, false⟩,
  ⟨4, 1, .u8, .ro, 0, 0, 255, 1, false, 0, false, false⟩,
  ⟨5, 1, .u16, .ro, 0, 0, 65535, 1, false, 0, false, false⟩,
  ⟨6, 1, .u16, .ro, 0, 0, 65535, 1, false, 0, false, false⟩,
  ⟨7, 1, .u32, .ro, 0, 0, 4294967295, 1, false, 0, false, false⟩,
  ⟨8, 1, .u64, .ro, 0, 0, 18446744073709551615, 1, false, 0, false, false⟩]⟩

/-- 09_yard.md, index 0x3210. -/
def odGroup3210 : OdGroup := ⟨12816, 1, [
  ⟨0, 1, .u8, .const, 11, 0, 255, 1, false, 0, false, false⟩,
  ⟨1, 9, .u32, .ro, 0, 0, 4294967295, 1, false, 0, false, false⟩,
  ⟨10, 1, .u32, .ro, 0, 0, 4294967295, 1, false, 0, false, false⟩,
  ⟨11, 1, .u32, .ro, 0, 0, 4294967295, 1, false, 0, false, false⟩]⟩

/-- 09_yard.md, index 0x3220. -/
def odGroup3220 : OdGroup := ⟨12832, 1, [
  ⟨0, 1, .u8, .const, 11, 0, 255, 1, false, 0, false, false⟩,
  ⟨1, 1, .u16, .rws, 256, 16, 256, 1, false, 0, false, true⟩,
  ⟨2, 1, .u8, .rws, 4, 1, 16, 1, false, 0, false, true⟩,
  ⟨3, 1, .u32, .rws, 500, 100, 10000, 1, false, 0, false, true⟩,
  ⟨4, 1, .u64, .rws, 1073741824, 67108864, 17179869184, 1, false, 0, false, true⟩,
  ⟨5, 1, .u32, .rws, 64, 16, 65536, 1, false, 0, false, true⟩,
  ⟨6, 1, .u32, .rws, 8, 4, 4294967295, 1, false, 0, false, true⟩,
  ⟨7, 1, .u64, .rws, 4294967296, 268435456, 34359738368, 1, false, 0, false, true⟩,
  ⟨8, 1, .u16, .rws, 200, 50, 1000, 1, false, 0, false, true⟩,
  ⟨9, 1, .u32, .rws, 5000, 100, 600000, 1, false, 0, false, true⟩,
  ⟨10, 1, .u16, .rws, 96, 8, 512, 1, false, 0, false, true⟩,
  ⟨11, 1, .u32, .ro, 0, 0, 4294967295, 1, false, 0, false, false⟩]⟩

/-- 09_yard.md, index 0x3230. -/
def odGroup3230 : OdGroup := ⟨12848, 1, [
  ⟨0, 1, .u8, .const, 8, 0, 255, 1, false, 0, false, false⟩,
  ⟨1, 1, .bool, .rws, 1, 0, 1, 1, true, 0, false, true⟩,
  ⟨2, 1, .u16, .rws, 7, 1, 90, 1, false, 0, false, true⟩,
  ⟨3, 1, .u64, .ro, 0, 0, 18446744073709551615, 1, false, 0, false, false⟩,
  ⟨4, 1, .u32, .ro, 0, 0, 4294967295, 1, false, 0, false, false⟩,
  ⟨5, 1, .u64, .ro, 0, 0, 18446744073709551615, 1, false, 0, false, false⟩,
  ⟨6, 1, .time64, .ro, 0, 0, 18446744073709551615, 1, false, 0, false, false⟩,
  ⟨7, 1, .u32, .ro, 0, 0, 4294967295, 1, false, 0, false, false⟩,
  ⟨8, 1, .u64, .ro, 0, 0, 18446744073709551615, 1, false, 0, false, false⟩]⟩

/-- 09_yard.md, index 0x3240. -/
def odGroup3240 : OdGroup := ⟨12864, 1, [
  ⟨0, 1, .u8, .const, 9, 0, 255, 1, false, 0, false, false⟩,
  ⟨1, 1, .u64, .ro, 0, 0, 18446744073709551615, 1, false, 0, false, false⟩,
  ⟨2, 1, .u64, .ro, 0, 0, 18446744073709551615, 1, false, 0, false, false⟩,
  ⟨3, 1, .u64, .ro, 0, 0, 18446744073709551615, 1, false, 0, false, false⟩,
  ⟨4, 1, .u64, .ro, 0, 0, 18446744073709551615, 1, false, 0, false, false⟩,
  ⟨5, 1, .u64, .ro, 0, 0, 18446744073709551615, 1, false, 0, false, false⟩,
  ⟨6, 1, .u64, .ro, 0, 0, 18446744073709551615, 1, false, 0, false, false⟩,
  ⟨7, 1, .u64, .ro, 0, 0, 18446744073709551615, 1, false, 0, false, false⟩,
  ⟨8, 1, .u64, .ro, 0, 0, 18446744073709551615, 1, false, 0, false, false⟩,
  ⟨9, 1, .u64, .ro, 0, 0, 18446744073709551615, 1, false, 0, false, false⟩]⟩

/-- 09_yard.md, index 0x3250. -/
def odGroup3250 : OdGroup := ⟨12880, 1, [
  ⟨0, 1, .u8, .const, 10, 0, 255, 1, false, 0, false, false⟩,
  ⟨1, 1, .u32, .const, 4194304, 0, 4294967295, 1, false, 0, false, false⟩,
  ⟨2, 1, .u32, .ro, 0, 0, 4294967295, 1, false, 0, false, false⟩,
  ⟨3, 1, .u32, .ro, 0, 0, 4294967295, 1, false, 0, false, false⟩,
  ⟨4, 1, .u32, .ro, 0, 0, 4294967295, 1, false, 0, false, false⟩,
  ⟨5, 1, .u32, .ro, 0, 0, 4294967295, 1, false, 0, false, false⟩,
  ⟨6, 1, .u64, .rw, 0, 0, 18446744073709551615, 1, false, 0, false, false⟩,
  ⟨7, 1, .blob, .ro, 0, 0, 0, 1, false, 67108864, false, false⟩,
  ⟨8, 1, .blob, .ro, 0, 0, 0, 1, false, 67108864, false, false⟩,
  ⟨9, 1, .digest48, .ro, 0, 0, 0, 1, false, 48, false, false⟩,
  ⟨10, 1, .u64, .ro, 0, 0, 18446744073709551615, 1, false, 0, false, false⟩]⟩

/-- 09_yard.md, index 0x3260. -/
def odGroup3260 : OdGroup := ⟨12896, 1, [
  ⟨0, 1, .u8, .const, 2, 0, 255, 1, false, 0, false, false⟩,
  ⟨1, 1, .u8, .rws, 0, 1, 3, 1, true, 0, false, true⟩,
  ⟨2, 1, .u32, .rws, 0, 0, 4294967295, 1, false, 0, false, true⟩]⟩

/-- 10_memory_and_buffers.md, index 0x3400. -/
def odGroup3400 : OdGroup := ⟨13312, 1, [
  ⟨0, 1, .u8, .const, 9, 0, 255, 1, false, 0, false, false⟩,
  ⟨1, 1, .u64, .const, 0, 0, 18446744073709551615, 1, false, 0, false, false⟩,
  ⟨2, 1, .u8, .ro, 0, 0, 255, 1, false, 0, false, false⟩,
  ⟨3, 1, .u64, .ro, 0, 0, 18446744073709551615, 1, false, 0, false, false⟩,
  ⟨4, 1, .u8, .ro, 0, 0, 255, 1, false, 0, false, false⟩,
  ⟨5, 1, .u16, .rws, 6400, 0, 65535, 1, false, 0, false, true⟩,
  ⟨6, 1, .u64, .ro, 0, 0, 18446744073709551615, 1, false, 0, false, false⟩,
  ⟨7, 1, .u64, .ro, 0, 0, 18446744073709551615, 1, false, 0, false, false⟩,
  ⟨8, 1, .u64, .ro, 0, 0, 18446744073709551615, 1, false, 0, false, false⟩,
  ⟨9, 1, .u64, .ro, 0, 0, 18446744073709551615, 1, false, 0, false, false⟩]⟩

/-- 10_memory_and_buffers.md, index 0x3410. -/
def odGroup3410 : OdGroup := ⟨13328, 1, [
  ⟨0, 1, .u8, .const, 3, 0, 255, 1, false, 0, false, false⟩,
  ⟨1, 1, .u64, .rws, 103079215104, 17179869184, 137438953472, 262144, false, 0, false, true⟩,
  ⟨2, 1, .u32, .rws, 4096, 0, 16384, 1, false, 0, false, true⟩,
  ⟨3, 1, .u64, .ro, 0, 0, 18446744073709551615, 1, false, 0, false, false⟩]⟩

/-- 10_memory_and_buffers.md, index 0x3420. -/
def odGroup3420 : OdGroup := ⟨13345, 9, [
  ⟨0, 1, .u8, .const, 10, 0, 255, 1, false, 0, false, false⟩,
  ⟨1, 1, .u32, .const, 0, 0, 4294967295, 1, false, 0, false, false⟩,
  ⟨2, 1, .u32, .ro, 0, 0, 4294967295, 1, false, 0, false, false⟩,
  ⟨3, 1, .u32, .ro, 0, 0, 4294967295, 1, false, 0, false, false⟩,
  ⟨4, 1, .u32, .ro, 0, 0, 4294967295, 1, false, 0, false, false⟩,
  ⟨5, 1, .u16, .ro, 0, 0, 65535, 1, false, 0, false, false⟩,
  ⟨6, 1, .u64, .ro, 0, 0, 18446744073709551615, 1, false, 0, false, false⟩,
  ⟨7, 1, .u64, .ro, 0, 0, 18446744073709551615, 1, false, 0, false, false⟩,
  ⟨8, 1, .u64, .ro, 0, 0, 18446744073709551615, 1, false, 0, false, false⟩,
  ⟨9, 1, .u32, .ro, 0, 0, 4294967295, 1, false, 0, false, false⟩,
  ⟨10, 1, .u32, .ro, 0, 0, 4294967295, 1, false, 0, false, false⟩]⟩

/-- 10_memory_and_buffers.md, index 0x3460. -/
def odGroup3460 : OdGroup := ⟨13408, 1, [
  ⟨0, 1, .u8, .const, 4, 0, 255, 1, false, 0, false, false⟩,
  ⟨1, 1, .u16, .rws, 64, 1, 4096, 1, false, 0, false, true⟩,
  ⟨2, 1, .u32, .rws, 1048576, 1024, 1073741824, 1, false, 0, false, true⟩,
  ⟨3, 1, .u64, .ro, 0, 0, 18446744073709551615, 1, false, 0, false, false⟩,
  ⟨4, 1, .u64, .ro, 0, 0, 18446744073709551615, 1, false, 0, false, false⟩]⟩

/-- 10_memory_and_buffers.md, index 0x3461. -/
def odGroup3461 : OdGroup := ⟨13409, 1, [
  ⟨0, 1, .u8, .const, 6, 0, 0, 1, false, 0, false, false⟩,
  ⟨1, 6, .u8, .rws, 0, 0, 255, 1, false, 0, false, true⟩]⟩

/-- 10_memory_and_buffers.md, index 0x3462. -/
def odGroup3462 : OdGroup := ⟨13410, 1, [
  ⟨0, 1, .u8, .const, 7, 0, 0, 1, false, 0, false, false⟩,
  ⟨1, 7, .u8, .rws, 0, 0, 255, 1, false, 0, false, true⟩]⟩

/-- 10_memory_and_buffers.md, index 0x3463. -/
def odGroup3463 : OdGroup := ⟨13411, 1, [
  ⟨0, 1, .u8, .const, 4, 0, 0, 1, false, 0, false, false⟩,
  ⟨1, 4, .u8, .rws, 0, 0, 255, 1, false, 0, false, true⟩]⟩

/-- 10_memory_and_buffers.md, index 0x3464. -/
def odGroup3464 : OdGroup := ⟨13412, 1, [
  ⟨0, 1, .u8, .const, 2, 0, 0, 1, false, 0, false, false⟩,
  ⟨1, 2, .u8, .rws, 0, 0, 255, 1, false, 0, false, true⟩]⟩

/-- 10_memory_and_buffers.md, index 0x3465. -/
def odGroup3465 : OdGroup := ⟨13413, 1, [
  ⟨0, 1, .u8, .const, 4, 0, 0, 1, false, 0, false, false⟩,
  ⟨1, 4, .u8, .rws, 0, 0, 255, 1, false, 0, false, true⟩]⟩

/-- 10_memory_and_buffers.md, index 0x3466. -/
def odGroup3466 : OdGroup := ⟨13414, 1, [
  ⟨0, 1, .u8, .const, 3, 0, 0, 1, false, 0, false, false⟩,
  ⟨1, 3, .u8, .rws, 0, 0, 255, 1, false, 0, false, true⟩]⟩

/-- 10_memory_and_buffers.md, index 0x3500. -/
def odGroup3500 : OdGroup := ⟨13568, 64, [
  ⟨0, 1, .u8, .const, 9, 0, 255, 1, false, 0, false, false⟩,
  ⟨1, 9, .u32, .rws, 4294967295, 0, 4294967295, 1, false, 0, false, true⟩]⟩

/-- 11_chipper.md, index 0x3600. -/
def odGroup3600 : OdGroup := ⟨13824, 1, [
  ⟨0, 1, .u8, .const, 10, 0, 255, 1, false, 0, false, false⟩,
  ⟨1, 1, .u64, .ro, 0, 0, 18446744073709551615, 1, false, 0, false, false⟩,
  ⟨2, 1, .u64, .ro, 0, 0, 18446744073709551615, 1, false, 0, false, false⟩,
  ⟨3, 1, .u64, .ro, 0, 0, 18446744073709551615, 1, false, 0, false, false⟩,
  ⟨4, 1, .u64, .ro, 0, 0, 18446744073709551615, 1, false, 0, false, false⟩,
  ⟨5, 1, .u64, .ro, 0, 0, 18446744073709551615, 1, false, 0, false, false⟩,
  ⟨6, 1, .u64, .ro, 0, 0, 18446744073709551615, 1, false, 0, false, false⟩,
  ⟨7, 1, .u64, .ro, 0, 0, 18446744073709551615, 1, false, 0, false, false⟩,
  ⟨8, 1, .u64, .ro, 0, 0, 18446744073709551615, 1, false, 0, false, false⟩,
  ⟨9, 1, .u64, .ro, 0, 0, 18446744073709551615, 1, false, 0, false, false⟩,
  ⟨10, 1, .u64, .ro, 0, 0, 18446744073709551615, 1, false, 0, false, false⟩]⟩

/-- 11_chipper.md, index 0x3610. -/
def odGroup3610 : OdGroup := ⟨13840, 1, [
  ⟨0, 1, .u8, .const, 4, 0, 255, 1, false, 0, false, false⟩,
  ⟨1, 1, .u8, .rws, 16, 12, 16, 1, false, 0, false, true⟩,
  ⟨2, 1, .u8, .rws, 16, 12, 16, 1, false, 0, false, true⟩,
  ⟨3, 1, .u8, .rws, 14, 12, 16, 1, false, 0, false, true⟩,
  ⟨4, 1, .u64, .rws, 1073741824, 65536, 4294967295, 1, false, 0, false, true⟩]⟩

/-- 11_chipper.md, index 0x3620. -/
def odGroup3620 : OdGroup := ⟨13856, 1, [
  ⟨0, 1, .u8, .const, 16, 0, 255, 1, false, 0, false, false⟩,
  ⟨1, 16, .u8, .ro, 0, 0, 255, 1, false, 0, false, false⟩]⟩

/-- 04_decode.md, index 0x4000. -/
def odGroup4000 : OdGroup := ⟨16384, 1, [
  ⟨0, 1, .u8, .const, 7, 0, 255, 1, false, 0, false, false⟩,
  ⟨1, 1, .u64, .ro, 0, 0, 18446744073709551615, 1, false, 0, false, false⟩,
  ⟨2, 1, .u64, .ro, 0, 0, 18446744073709551615, 1, false, 0, false, false⟩,
  ⟨3, 1, .u64, .ro, 0, 0, 18446744073709551615, 1, false, 0, false, false⟩,
  ⟨4, 1, .u64, .ro, 0, 0, 18446744073709551615, 1, false, 0, false, false⟩,
  ⟨5, 1, .u64, .ro, 0, 0, 18446744073709551615, 1, false, 0, false, false⟩,
  ⟨6, 1, .u64, .ro, 0, 0, 18446744073709551615, 1, false, 0, false, false⟩,
  ⟨7, 1, .u64, .ro, 0, 0, 18446744073709551615, 1, false, 0, false, false⟩]⟩

/-- 04_decode.md, index 0x4010. -/
def odGroup4010 : OdGroup := ⟨16400, 1, [
  ⟨0, 1, .u8, .const, 6, 0, 255, 1, false, 0, false, false⟩,
  ⟨1, 1, .u16, .const, 1024, 0, 65535, 1, false, 0, false, false⟩,
  ⟨2, 1, .u16, .ro, 0, 0, 65535, 1, false, 0, false, false⟩,
  ⟨3, 1, .u16, .ro, 0, 0, 65535, 1, false, 0, false, false⟩,
  ⟨4, 1, .u64, .ro, 0, 0, 18446744073709551615, 1, false, 0, false, false⟩,
  ⟨5, 1, .u64, .ro, 0, 0, 18446744073709551615, 1, false, 0, false, false⟩,
  ⟨6, 1, .u64, .ro, 0, 0, 18446744073709551615, 1, false, 0, false, false⟩]⟩

/-- 04_decode.md, index 0x4011. -/
def odGroup4011 : OdGroup := ⟨16401, 1, [
  ⟨0, 1, .u8, .const, 16, 0, 255, 1, false, 0, false, false⟩,
  ⟨1, 16, .u8, .ro, 0, 0, 255, 1, false, 0, false, false⟩]⟩

/-- 04_decode.md, index 0x4020. -/
def odGroup4020 : OdGroup := ⟨16416, 1, [
  ⟨0, 1, .u8, .const, 16, 0, 255, 1, false, 0, false, false⟩,
  ⟨1, 16, .u16, .ro, 1024, 0, 65535, 1, false, 0, false, false⟩]⟩

/-- 04_decode.md, index 0x4021. -/
def odGroup4021 : OdGroup := ⟨16417, 1, [
  ⟨0, 1, .u8, .const, 5, 0, 255, 1, false, 0, false, false⟩,
  ⟨1, 1, .u16, .const, 819, 0, 65535, 1, false, 0, false, false⟩,
  ⟨2, 1, .u16, .rw, 860, 819, 1024, 1, false, 0, false, true⟩,
  ⟨3, 1, .u64, .ro, 0, 0, 18446744073709551615, 1, false, 0, false, false⟩,
  ⟨4, 1, .u64, .ro, 0, 0, 18446744073709551615, 1, false, 0, false, false⟩,
  ⟨5, 1, .u16, .ro, 1024, 0, 65535, 1, false, 0, false, false⟩]⟩

/-- 05_live_intake.md, index 0x4200. -/
def odGroup4200 : OdGroup := ⟨16896, 1, [
  ⟨0, 1, .u8, .const, 7, 0, 255, 1, false, 0, false, false⟩,
  ⟨1, 1, .u32, .rws, 98, 1, 1000000, 1, false, 0, false, true⟩,
  ⟨2, 1, .u32, .rws, 120000, 1, 3600000, 1, false, 0, false, true⟩,
  ⟨3, 1, .u32, .rws, 1000, 2, 1000000, 1, false, 0, false, true⟩,
  ⟨4, 1, .u64, .rws, 68719476736, 0, 18446744073709551615, 1, false, 0, false, true⟩,
  ⟨5, 1, .u64, .ro, 0, 0, 18446744073709551615, 1, false, 0, false, false⟩,
  ⟨6, 1, .u64, .ro, 0, 0, 18446744073709551615, 1, false, 0, false, false⟩,
  ⟨7, 1, .u64, .ro, 0, 0, 18446744073709551615, 1, false, 0, false, false⟩]⟩

/-- 05_live_intake.md, index 0x4280. -/
def odGroup4280 : OdGroup := ⟨17024, 64, [
  ⟨0, 1, .u8, .const, 12, 0, 255, 1, false, 0, false, false⟩,
  ⟨1, 1, .bool, .rws, 0, 0, 1, 1, true, 0, false, true⟩,
  ⟨2, 1, .u8, .rws, 1, 0, 1, 1, true, 0, false, true⟩,
  ⟨3, 1, .time64, .rws, 0, 0, 18446744073709551615, 1, false, 0, false, true⟩,
  ⟨4, 1, .u64, .rws, 0, 0, 18446744073709551615, 1, false, 0, false, true⟩,
  ⟨5, 1, .u32, .rws, 10000, 1, 100000000, 1, false, 0, false, true⟩,
  ⟨6, 1, .u32, .rws, 4096, 1, 100000000, 1, false, 0, false, true⟩,
  ⟨7, 1, .bool, .rws, 0, 0, 1, 1, true, 0, false, true⟩,
  ⟨8, 1, .u64, .ro, 0, 0, 18446744073709551615, 1, false, 0, false, false⟩,
  ⟨9, 1, .u64, .ro, 0, 0, 18446744073709551615, 1, false, 0, false, false⟩,
  ⟨10, 1, .u64, .ro, 0, 0, 18446744073709551615, 1, false, 0, false, false⟩,
  ⟨11, 1, .u64, .ro, 0, 0, 18446744073709551615, 1, false, 0, false, false⟩,
  ⟨12, 1, .u64, .ro, 0, 0, 18446744073709551615, 1, false, 0, false, false⟩]⟩

/-- 05_live_intake.md, index 0x4300. -/
def odGroup4300 : OdGroup := ⟨17152, 256, [
  ⟨0, 1, .u8, .const, 22, 0, 255, 1, false, 0, false, false⟩,
  ⟨1, 1, .bool, .rws, 0, 0, 1, 1, true, 0, false, true⟩,
  ⟨2, 1, .u8, .rws, 0, 0, 63, 1, false, 0, false, true⟩,
  ⟨3, 1, .u8, .rws, 0, 0, 255, 1, false, 0, false, true⟩,
  ⟨4, 1, .u16, .rws, 0, 1, 65535, 1, false, 0, false, true⟩,
  ⟨5, 1, .blob, .rws, 0, 0, 0, 1, false, 16, true, true⟩,
  ⟨6, 1, .u32, .rws, 0, 1, 32768, 1, false, 0, false, true⟩,
  ⟨7, 1, .u32, .rws, 0, 1, 32768, 1, false, 0, false, true⟩,
  ⟨8, 1, .u8, .rws, 16, 8, 16, 1, false, 0, false, true⟩,
  ⟨9, 1, .u8, .rws, 0, 0, 2, 1, true, 0, false, true⟩,
  ⟨10, 1, .u8, .rws, 0, 0, 4, 1, true, 0, false, true⟩,
  ⟨11, 1, .u8, .rws, 1, 0, 2, 1, true, 0, false, true⟩,
  ⟨12, 1, .u16, .rws, 65535, 0, 65535, 1, false, 0, false, true⟩,
  ⟨13, 1, .u8, .rws, 255, 0, 255, 1, false, 0, false, true⟩,
  ⟨14, 1, .u8, .rws, 0, 0, 63, 1, false, 0, false, true⟩,
  ⟨15, 1, .u8, .rws, 2, 0, 2, 1, true, 0, false, true⟩,
  ⟨16, 1, .u16, .rws, 2, 0, 65535, 1, false, 0, false, true⟩,
  ⟨17, 1, .blob, .wo, 0, 0, 0, 1, false, 1036, false, false⟩,
  ⟨18, 1, .u32, .ro, 0, 0, 4294967295, 1, false, 0, false, false⟩,
  ⟨19, 1, .u64, .ro, 0, 0, 18446744073709551615, 1, false, 0, false, false⟩,
  ⟨20, 1, .u64, .ro, 0, 0, 18446744073709551615, 1, false, 0, false, false⟩,
  ⟨21, 1, .u64, .ro, 0, 0, 18446744073709551615, 1, false, 0, false, false⟩,
  ⟨22, 1, .u64, .ro, 0, 0, 18446744073709551615, 1, false, 0, false, false⟩]⟩

/-- 06_tokens.md, index 0x4400. -/
def odGroup4400 : OdGroup := ⟨17408, 1, [
  ⟨0, 1, .u8, .const, 8, 0, 255, 1, false, 0, false, false⟩,
  ⟨1, 1, .u64, .ro, 0, 0, 18446744073709551615, 1, false, 0, false, false⟩,
  ⟨2, 1, .u64, .ro, 0, 0, 18446744073709551615, 1, false, 0, false, false⟩,
  ⟨3, 1, .u64, .ro, 0, 0, 18446744073709551615, 1, false, 0, false, false⟩,
  ⟨4, 1, .u64, .ro, 0, 0, 18446744073709551615, 1, false, 0, false, false⟩,
  ⟨5, 1, .u64, .ro, 0, 0, 18446744073709551615, 1, false, 0, false, false⟩,
  ⟨6, 1, .u64, .ro, 0, 0, 18446744073709551615, 1, false, 0, false, false⟩,
  ⟨7, 1, .u64, .ro, 0, 0, 18446744073709551615, 1, false, 0, false, false⟩,
  ⟨8, 1, .u64, .ro, 0, 0, 18446744073709551615, 1, false, 0, false, false⟩]⟩

/-- 06_tokens.md, index 0x4410. -/
def odGroup4410 : OdGroup := ⟨17424, 1, [
  ⟨0, 1, .u8, .const, 32, 0, 255, 1, false, 0, false, false⟩,
  ⟨1, 32, .u64, .ro, 0, 0, 18446744073709551615, 1, false, 0, false, false⟩]⟩

/-- 06_tokens.md, index 0x4411. -/
def odGroup4411 : OdGroup := ⟨17425, 1, [
  ⟨0, 1, .u8, .const, 32, 0, 255, 1, false, 0, false, false⟩,
  ⟨1, 32, .digest48, .ro, 0, 0, 0, 1, false, 48, false, false⟩]⟩

/-- 06_tokens.md, index 0x4420. -/
def odGroup4420 : OdGroup := ⟨17440, 1, [
  ⟨0, 1, .u8, .const, 8, 0, 255, 1, false, 0, false, false⟩,
  ⟨1, 1, .u32, .rws, 100000, 1, 100000000, 1, false, 0, false, true⟩,
  ⟨2, 1, .u8, .rws, 0, 0, 1, 1, true, 0, false, true⟩,
  ⟨3, 1, .u16, .ro, 0, 0, 65535, 1, false, 0, false, false⟩,
  ⟨4, 1, .u64, .ro, 0, 0, 18446744073709551615, 1, false, 0, false, false⟩,
  ⟨5, 1, .u64, .ro, 0, 0, 18446744073709551615, 1, false, 0, false, false⟩,
  ⟨6, 1, .u64, .ro, 0, 0, 18446744073709551615, 1, false, 0, false, false⟩,
  ⟨7, 1, .u64, .ro, 0, 0, 18446744073709551615, 1, false, 0, false, false⟩,
  ⟨8, 1, .u64, .ro, 0, 0, 18446744073709551615, 1, false, 0, false, false⟩]⟩

/-- 06_tokens.md, index 0x4440. -/
def odGroup4440 : OdGroup := ⟨17472, 16, [
  ⟨0, 1, .u8, .const, 2, 0, 255, 1, false, 0, false, false⟩,
  ⟨1, 1, .blob, .rws, 0, 0, 0, 1, false, 1040, false, true⟩,
  ⟨2, 1, .blob, .rws, 0, 0, 0, 1, false, 32, false, true⟩]⟩

/-- 07_prep_compute.md, index 0x4600. -/
def odGroup4600 : OdGroup := ⟨17920, 1, [
  ⟨0, 1, .u8, .const, 8, 0, 255, 1, false, 0, false, false⟩,
  ⟨1, 1, .u64, .ro, 0, 0, 18446744073709551615, 1, false, 0, false, false⟩,
  ⟨2, 1, .u64, .ro, 0, 0, 18446744073709551615, 1, false, 0, false, false⟩,
  ⟨3, 1, .u64, .ro, 0, 0, 18446744073709551615, 1, false, 0, false, false⟩,
  ⟨4, 1, .u64, .ro, 0, 0, 18446744073709551615, 1, false, 0, false, false⟩,
  ⟨5, 1, .u64, .ro, 0, 0, 18446744073709551615, 1, false, 0, false, false⟩,
  ⟨6, 1, .u64, .ro, 0, 0, 18446744073709551615, 1, false, 0, false, false⟩,
  ⟨7, 1, .u64, .ro, 0, 0, 18446744073709551615, 1, false, 0, false, false⟩,
  ⟨8, 1, .u64, .ro, 0, 0, 18446744073709551615, 1, false, 0, false, false⟩]⟩

/-- 07_prep_compute.md, index 0x4610. -/
def odGroup4610 : OdGroup := ⟨17936, 1, [
  ⟨0, 1, .u8, .const, 3, 0, 255, 1, false, 0, false, false⟩,
  ⟨1, 1, .u64, .rws, 34359738368, 0, 103079215104, 1, false, 0, false, true⟩,
  ⟨2, 1, .u64, .ro, 0, 0, 18446744073709551615, 1, false, 0, false, false⟩,
  ⟨3, 1, .u8, .ro, 0, 0, 255, 1, false, 0, false, false⟩]⟩

/-- 07_prep_compute.md, index 0x4620. -/
def odGroup4620 : OdGroup := ⟨17952, 1, [
  ⟨0, 1, .u8, .const, 16, 0, 255, 1, false, 0, false, false⟩,
  ⟨1, 16, .u8, .ro, 0, 0, 255, 1, false, 0, false, false⟩]⟩

/-- 07_prep_compute.md, index 0x4640. -/
def odGroup4640 : OdGroup := ⟨17984, 64, [
  ⟨0, 1, .u8, .const, 4, 0, 255, 1, false, 0, false, false⟩,
  ⟨1, 1, .digest48, .ro, 0, 0, 0, 1, false, 48, false, false⟩,
  ⟨2, 1, .u8, .ro, 255, 0, 255, 1, false, 0, false, false⟩,
  ⟨3, 1, .u64, .ro, 0, 0, 18446744073709551615, 1, false, 0, false, false⟩,
  ⟨4, 1, .u8, .ro, 0, 0, 255, 1, false, 0, false, false⟩]⟩

/-- 07_prep_compute.md, index 0x4700. -/
def odGroup4700 : OdGroup := ⟨18176, 1, [
  ⟨0, 1, .u8, .const, 9, 0, 255, 1, false, 0, false, false⟩,
  ⟨1, 1, .u8, .ro, 0, 0, 255, 1, false, 0, false, false⟩,
  ⟨2, 1, .blob, .rws, 0, 0, 0, 1, false, 67108864, false, false⟩,
  ⟨3, 1, .u8, .rws, 0, 1, 2, 1, true, 0, false, false⟩,
  ⟨4, 1, .digest48, .ro, 0, 0, 0, 1, false, 48, false, false⟩,
  ⟨5, 1, .u64, .ro, 0, 0, 18446744073709551615, 1, false, 0, false, false⟩,
  ⟨6, 1, .u64, .ro, 0, 0, 18446744073709551615, 1, false, 0, false, false⟩,
  ⟨7, 1, .u64, .ro, 0, 0, 18446744073709551615, 1, false, 0, false, false⟩,
  ⟨8, 1, .u64, .ro, 0, 0, 18446744073709551615, 1, false, 0, false, false⟩,
  ⟨9, 1, .blob, .ro, 0, 0, 0, 1, false, 67108864, false, false⟩]⟩

/-- 08_bucking_and_deck.md, index 0x4800. -/
def odGroup4800 : OdGroup := ⟨18432, 1, [
  ⟨0, 1, .u8, .const, 6, 0, 255, 1, false, 0, false, false⟩,
  ⟨1, 1, .u64, .ro, 0, 0, 18446744073709551615, 1, false, 0, false, false⟩,
  ⟨2, 1, .u64, .ro, 0, 0, 18446744073709551615, 1, false, 0, false, false⟩,
  ⟨3, 1, .u64, .ro, 0, 0, 18446744073709551615, 1, false, 0, false, false⟩,
  ⟨4, 1, .u64, .ro, 0, 0, 18446744073709551615, 1, false, 0, false, false⟩,
  ⟨5, 1, .u64, .ro, 0, 0, 18446744073709551615, 1, false, 0, false, false⟩,
  ⟨6, 1, .u64, .ro, 0, 0, 18446744073709551615, 1, false, 0, false, false⟩]⟩

/-- 08_bucking_and_deck.md, index 0x4810. -/
def odGroup4810 : OdGroup := ⟨18448, 1, [
  ⟨0, 1, .u8, .const, 8, 0, 255, 1, false, 0, false, false⟩,
  ⟨1, 1, .u64, .rws, 34359738368, 0, 68719476736, 1, false, 0, false, true⟩,
  ⟨2, 1, .u64, .rws, 2199023255552, 0, 281474976710656, 1, false, 0, false, true⟩,
  ⟨3, 1, .u64, .ro, 0, 0, 18446744073709551615, 1, false, 0, false, false⟩,
  ⟨4, 1, .u64, .ro, 0, 0, 18446744073709551615, 1, false, 0, false, false⟩,
  ⟨5, 1, .u64, .ro, 0, 0, 18446744073709551615, 1, false, 0, false, false⟩,
  ⟨6, 1, .u64, .ro, 0, 0, 18446744073709551615, 1, false, 0, false, false⟩,
  ⟨7, 1, .u64, .ro, 0, 0, 18446744073709551615, 1, false, 0, false, false⟩,
  ⟨8, 1, .bool, .wo, 0, 0, 1, 1, true, 0, false, false⟩]⟩

/-- 08_bucking_and_deck.md, index 0x4820. -/
def odGroup4820 : OdGroup := ⟨18464, 1, [
  ⟨0, 1, .u8, .const, 9, 0, 255, 1, false, 0, false, false⟩,
  ⟨1, 1, .u64, .const, 0, 0, 18446744073709551615, 1, false, 0, false, false⟩,
  ⟨2, 1, .u64, .ro, 0, 0, 18446744073709551615, 1, false, 0, false, false⟩,
  ⟨3, 1, .u64, .ro, 0, 0, 18446744073709551615, 1, false, 0, false, false⟩,
  ⟨4, 1, .u64, .ro, 0, 0, 18446744073709551615, 1, false, 0, false, false⟩,
  ⟨5, 1, .u32, .ro, 0, 0, 4294967295, 1, false, 0, false, false⟩,
  ⟨6, 1, .u16, .rws, 100, 25, 400, 1, false, 0, false, true⟩,
  ⟨7, 1, .u64, .ro, 0, 0, 18446744073709551615, 1, false, 0, false, false⟩,
  ⟨8, 1, .u32, .ro, 0, 0, 4294967295, 1, false, 0, false, false⟩,
  ⟨9, 1, .i32, .ro, 2147483647, -2147483648, 2147483647, 1, false, 0, false, false⟩]⟩

/-- 08_bucking_and_deck.md, index 0x4821. -/
def odGroup4821 : OdGroup := ⟨18465, 1, [
  ⟨0, 1, .u8, .const, 4, 0, 255, 1, false, 0, false, false⟩,
  ⟨1, 1, .u32, .rw, 0, 0, 4294967295, 1, false, 0, false, false⟩,
  ⟨2, 1, .i32, .ro, 2147483647, -2147483648, 2147483647, 1, false, 0, false, false⟩,
  ⟨3, 1, .u64, .ro, 0, 0, 18446744073709551615, 1, false, 0, false, false⟩,
  ⟨4, 1, .bool, .ro, 0, 0, 1, 1, true, 0, false, false⟩]⟩

/-- 02_shuffle_and_schedule.md, index 0x4A00. -/
def odGroup4A00 : OdGroup := ⟨18944, 1, [
  ⟨0, 1, .u8, .const, 8, 0, 255, 1, false, 0, false, false⟩,
  ⟨1, 1, .u8, .ro, 0, 0, 255, 1, false, 0, false, false⟩,
  ⟨2, 1, .digest48, .ro, 0, 0, 0, 1, false, 48, false, false⟩,
  ⟨3, 1, .digest48, .ro, 0, 0, 0, 1, false, 48, false, false⟩,
  ⟨4, 1, .u32, .ro, 0, 0, 4294967295, 1, false, 0, false, false⟩,
  ⟨5, 1, .u32, .ro, 0, 0, 4294967295, 1, false, 0, false, false⟩,
  ⟨6, 1, .ring64, .rws, 0, 0, 18446744073709551615, 1, false, 0, false, false⟩,
  ⟨7, 1, .u32, .ro, 0, 0, 4294967295, 1, false, 0, false, false⟩,
  ⟨8, 1, .u32, .rw, 4096, 0, 4294967295, 1, false, 0, false, false⟩]⟩

/-- 02_shuffle_and_schedule.md, index 0x4A10. -/
def odGroup4A10 : OdGroup := ⟨18960, 1, [
  ⟨0, 1, .u8, .const, 3, 0, 255, 1, false, 0, false, false⟩,
  ⟨1, 1, .u64, .rws, 0, 0, 18446744073709551615, 1, false, 0, false, false⟩,
  ⟨2, 1, .u64, .rws, 0, 0, 18446744073709551615, 1, false, 0, false, false⟩,
  ⟨3, 1, .u64, .ro, 0, 0, 18446744073709551615, 1, false, 0, false, false⟩]⟩

/-- 02_shuffle_and_schedule.md, index 0x4A11. -/
def odGroup4A11 : OdGroup := ⟨18961, 1, [
  ⟨0, 1, .u8, .const, 2, 0, 255, 1, false, 0, false, false⟩,
  ⟨1, 1, .u8, .rwt, 0, 0, 1, 1, true, 0, false, false⟩,
  ⟨2, 1, .blob, .rwt, 0, 0, 0, 1, false, 96, true, false⟩]⟩

/-- 18_object_dictionary.md, index 0x4A20. -/
def odGroup4A20 : OdGroup := ⟨18976, 1, [
  ⟨0, 1, .u8, .const, 1, 0, 0, 1, false, 0, false, false⟩,
  ⟨1, 1, .blob, .wo, 0, 0, 0, 1, false, 67108864, false, false⟩]⟩

/-- 02_shuffle_and_schedule.md, index 0x4A30. -/
def odGroup4A30 : OdGroup := ⟨18992, 1, [
  ⟨0, 1, .u8, .const, 7, 0, 255, 1, false, 0, false, false⟩,
  ⟨1, 1, .u8, .rws, 0, 0, 1, 1, true, 0, false, false⟩,
  ⟨2, 1, .u64, .rws, 0, 0, 18446744073709551615, 1, false, 0, false, false⟩,
  ⟨3, 1, .u64, .rws, 1099511627776, 0, 18446744073709551615, 1, false, 0, false, true⟩,
  ⟨4, 1, .u64, .ro, 0, 0, 18446744073709551615, 1, false, 0, false, false⟩,
  ⟨5, 1, .u8, .ro, 0, 0, 255, 1, false, 0, false, false⟩,
  ⟨6, 1, .u8, .rws, 1, 0, 1, 1, true, 0, false, false⟩,
  ⟨7, 1, .u32, .ro, 4294967295, 0, 4294967295, 1, false, 0, false, false⟩]⟩

/-- 13_skidder.md, index 0x5000. -/
def odGroup5000 : OdGroup := ⟨20480, 1, [
  ⟨0, 1, .u8, .const, 10, 0, 255, 1, false, 0, false, false⟩,
  ⟨1, 1, .u8, .rws, 1, 0, 3, 1, true, 0, false, true⟩,
  ⟨2, 1, .u16, .rws, 19131, 1024, 65535, 1, false, 0, false, true⟩,
  ⟨3, 1, .u16, .rws, 49152, 1024, 65472, 64, false, 0, false, true⟩,
  ⟨4, 1, .u8, .rws, 26, 0, 63, 1, false, 0, false, true⟩,
  ⟨5, 1, .u8, .rws, 10, 0, 63, 1, false, 0, false, true⟩,
  ⟨6, 1, .u8, .rws, 48, 0, 63, 1, false, 0, false, true⟩,
  ⟨7, 1, .u32, .ro, 0, 0, 4294967295, 1, false, 0, false, false⟩,
  ⟨8, 1, .u64, .ro, 0, 0, 18446744073709551615, 1, false, 0, false, false⟩,
  ⟨9, 1, .u16, .ro, 0, 0, 65535, 1, false, 0, false, false⟩,
  ⟨10, 1, .u16, .ro, 0, 0, 65535, 1, false, 0, false, false⟩]⟩

/-- 13_skidder.md, index 0x5010. -/
def odGroup5010 : OdGroup := ⟨20496, 1, [
  ⟨0, 1, .u8, .const, 5, 0, 255, 1, false, 0, false, false⟩,
  ⟨1, 1, .blob, .rws, 0, 0, 0, 1, false, 224, true, false⟩,
  ⟨2, 1, .u16, .rws, 0, 0, 65535, 1, false, 0, false, false⟩,
  ⟨3, 1, .u16, .rw, 0, 0, 65535, 1, false, 0, false, false⟩,
  ⟨4, 1, .blob, .ro, 0, 0, 0, 1, false, 67108864, false, false⟩,
  ⟨5, 1, .u64, .rws, 0, 0, 18446744073709551615, 1, false, 0, false, true⟩]⟩

/-- 13_skidder.md, index 0x5020. -/
def odGroup5020 : OdGroup := ⟨20512, 1, [
  ⟨0, 1, .u8, .const, 8, 0, 255, 1, false, 0, false, false⟩,
  ⟨1, 1, .u16, .rws, 4096, 64, 4096, 1, false, 0, false, true⟩,
  ⟨2, 1, .u8, .rws, 16, 1, 64, 1, false, 0, false, true⟩,
  ⟨3, 1, .u32, .rws, 2000, 100, 100000, 1, false, 0, false, true⟩,
  ⟨4, 1, .u32, .rws, 4000, 500, 1000000, 1, false, 0, false, true⟩,
  ⟨5, 1, .u32, .rws, 40, 10, 10000, 1, false, 0, false, true⟩,
  ⟨6, 1, .u32, .rws, 10000, 1000, 1000000, 1, false, 0, false, true⟩,
  ⟨7, 1, .u8, .rws, 12, 3, 32, 1, false, 0, false, true⟩,
  ⟨8, 1, .u32, .const, 16777216, 0, 4294967295, 1, false, 0, false, false⟩]⟩

/-- 13_skidder.md, index 0x5021. -/
def odGroup5021 : OdGroup := ⟨20513, 1, [
  ⟨0, 1, .u8, .const, 3, 0, 255, 1, false, 0, false, false⟩,
  ⟨1, 1, .u8, .rws, 4, 1, 64, 1, false, 0, false, true⟩,
  ⟨2, 1, .u32, .rws, 100000, 1024, 100000000, 1, false, 0, false, true⟩,
  ⟨3, 1, .u64, .ro, 0, 0, 18446744073709551615, 1, false, 0, false, false⟩]⟩

/-- 13_skidder.md, index 0x5030. -/
def odGroup5030 : OdGroup := ⟨20528, 1, [
  ⟨0, 1, .u8, .const, 5, 0, 255, 1, false, 0, false, false⟩,
  ⟨1, 1, .u32, .rws, 25000, 0, 1600000, 1, false, 0, false, true⟩,
  ⟨2, 1, .u32, .rws, 100, 10, 10000, 1, false, 0, false, true⟩,
  ⟨3, 1, .u32, .rws, 500, 1, 100000, 1, false, 0, false, true⟩,
  ⟨4, 1, .u32, .rws, 5000, 1, 400000, 1, false, 0, false, true⟩,
  ⟨5, 1, .u16, .rws, 4, 1, 64, 1, false, 0, false, true⟩]⟩

/-- 13_skidder.md, index 0x5040. -/
def odGroup5040 : OdGroup := ⟨20544, 1, [
  ⟨0, 1, .u8, .const, 4, 0, 255, 1, false, 0, false, false⟩,
  ⟨1, 1, .u16, .rws, 64, 4, 4096, 1, false, 0, false, true⟩,
  ⟨2, 1, .u64, .ro, 0, 0, 18446744073709551615, 1, false, 0, false, false⟩,
  ⟨3, 1, .u32, .ro, 0, 0, 4294967295, 1, false, 0, false, false⟩,
  ⟨4, 1, .u64, .ro, 0, 0, 18446744073709551615, 1, false, 0, false, false⟩]⟩

/-- 13_skidder.md, index 0x5100. -/
def odGroup5100 : OdGroup := ⟨20736, 32, [
  ⟨0, 1, .u8, .const, 10, 0, 255, 1, false, 0, false, false⟩,
  ⟨1, 1, .bool, .ro, 0, 0, 1, 1, true, 0, false, false⟩,
  ⟨2, 1, .u64, .ro, 0, 0, 18446744073709551615, 1, false, 0, false, false⟩,
  ⟨3, 1, .u64, .ro, 0, 0, 18446744073709551615, 1, false, 0, false, false⟩,
  ⟨4, 1, .u64, .ro, 0, 0, 18446744073709551615, 1, false, 0, false, false⟩,
  ⟨5, 1, .u64, .ro, 0, 0, 18446744073709551615, 1, false, 0, false, false⟩,
  ⟨6, 1, .u64, .ro, 0, 0, 18446744073709551615, 1, false, 0, false, false⟩,
  ⟨7, 1, .u64, .ro, 0, 0, 18446744073709551615, 1, false, 0, false, false⟩,
  ⟨8, 1, .u64, .ro, 0, 0, 18446744073709551615, 1, false, 0, false, false⟩,
  ⟨9, 1, .u64, .ro, 0, 0, 18446744073709551615, 1, false, 0, false, false⟩,
  ⟨10, 1, .u64, .ro, 0, 0, 18446744073709551615, 1, false, 0, false, false⟩]⟩

/-- 14_traffic_shaping.md, index 0x5200. -/
def odGroup5200 : OdGroup := ⟨20992, 1, [
  ⟨0, 1, .u8, .const, 14, 0, 255, 1, false, 0, false, false⟩,
  ⟨1, 1, .u16, .ro, 0, 0, 65535, 1, false, 0, false, false⟩,
  ⟨2, 1, .u16, .ro, 0, 0, 65535, 1, false, 0, false, false⟩,
  ⟨3, 1, .u64, .ro, 0, 0, 18446744073709551615, 1, false, 0, false, false⟩,
  ⟨4, 1, .u32, .ro, 0, 0, 4294967295, 1, false, 0, false, false⟩,
  ⟨5, 1, .u32, .rws, 10000, 1, 1600000, 1, false, 0, false, true⟩,
  ⟨6, 1, .u32, .rws, 65536, 8192, 16777216, 1, false, 0, false, true⟩,
  ⟨7, 1, .u32, .rws, 100000, 1, 1600000, 1, false, 0, false, true⟩,
  ⟨8, 1, .u32, .rws, 65536, 8192, 16777216, 1, false, 0, false, true⟩,
  ⟨9, 1, .u32, .rws, 200000, 1, 1600000, 1, false, 0, false, true⟩,
  ⟨10, 1, .u32, .rws, 262144, 8192, 16777216, 1, false, 0, false, true⟩,
  ⟨11, 1, .u8, .rws, 5, 1, 25, 1, false, 0, false, true⟩,
  ⟨12, 1, .u64, .ro, 0, 0, 18446744073709551615, 1, false, 0, false, false⟩,
  ⟨13, 1, .u64, .ro, 0, 0, 18446744073709551615, 1, false, 0, false, false⟩,
  ⟨14, 1, .u64, .ro, 0, 0, 18446744073709551615, 1, false, 0, false, false⟩]⟩

/-- 14_traffic_shaping.md, index 0x5201. -/
def odGroup5201 : OdGroup := ⟨20993, 1, [
  ⟨0, 1, .u8, .const, 32, 0, 255, 1, false, 0, false, false⟩,
  ⟨1, 32, .i32, .rws, 20, -32, 255, 1, false, 0, false, true⟩]⟩

/-- 14_traffic_shaping.md, index 0x5210. -/
def odGroup5210 : OdGroup := ⟨21008, 8, [
  ⟨0, 1, .u8, .const, 8, 0, 255, 1, false, 0, false, false⟩,
  ⟨1, 1, .u8, .rws, 0, 1, 255, 1, false, 0, false, true⟩,
  ⟨2, 1, .u8, .rws, 0, 1, 100, 1, false, 0, false, true⟩,
  ⟨3, 1, .u8, .rws, 0, 1, 100, 1, false, 0, false, true⟩,
  ⟨4, 1, .u32, .rws, 1048576, 65536, 67108864, 1, false, 0, false, true⟩,
  ⟨5, 1, .u64, .ro, 0, 0, 18446744073709551615, 1, false, 0, false, false⟩,
  ⟨6, 1, .u64, .ro, 0, 0, 18446744073709551615, 1, false, 0, false, false⟩,
  ⟨7, 1, .u64, .ro, 0, 0, 18446744073709551615, 1, false, 0, false, false⟩,
  ⟨8, 1, .u64, .ro, 0, 0, 18446744073709551615, 1, false, 0, false, false⟩]⟩

/-- 14_traffic_shaping.md, index 0x5220. -/
def odGroup5220 : OdGroup := ⟨21024, 1, [
  ⟨0, 1, .u8, .const, 3, 0, 255, 1, false, 0, false, false⟩,
  ⟨1, 1, .u16, .rw, 1, 0, 16383, 1, false, 0, false, false⟩,
  ⟨2, 1, .blob, .rws, 0, 0, 0, 1, false, 16, true, true⟩,
  ⟨3, 1, .blob, .ro, 0, 0, 0, 1, false, 67108864, false, false⟩]⟩

/-- 13_skidder.md, index 0x5400. -/
def odGroup5400 : OdGroup := ⟨21504, 1, [
  ⟨0, 1, .u8, .const, 13, 0, 255, 1, false, 0, false, false⟩,
  ⟨1, 1, .bool, .rwt, 0, 0, 1, 1, true, 0, false, false⟩,
  ⟨2, 1, .u32, .rwt, 0, 0, 4294967295, 1, false, 0, false, false⟩,
  ⟨3, 1, .u32, .rwt, 4294967295, 0, 4294967295, 1, false, 0, false, false⟩,
  ⟨4, 1, .u8, .rwt, 0, 0, 1, 1, true, 0, false, false⟩,
  ⟨5, 1, .u8, .rwt, 2, 0, 255, 1, false, 0, false, false⟩,
  ⟨6, 1, .u64, .rwt, 0, 0, 18446744073709551615, 1, false, 0, false, false⟩,
  ⟨7, 1, .u32, .rwt, 0, 0, 1000000, 1, false, 0, false, false⟩,
  ⟨8, 1, .u32, .rwt, 0, 0, 1000000, 1, false, 0, false, false⟩,
  ⟨9, 1, .u32, .rwt, 0, 0, 1000000, 1, false, 0, false, false⟩,
  ⟨10, 1, .u32, .rwt, 10000, 100, 10000000, 1, false, 0, false, false⟩,
  ⟨11, 1, .u64, .ro, 0, 0, 18446744073709551615, 1, false, 0, false, false⟩,
  ⟨12, 1, .u64, .ro, 0, 0, 18446744073709551615, 1, false, 0, false, false⟩,
  ⟨13, 1, .u64, .ro, 0, 0, 18446744073709551615, 1, false, 0, false, false⟩]⟩

/-- The whole table, in index order. -/
def odTable : List OdGroup :=
  [odGroup1000, odGroup1010, odGroup1011, odGroup1100, odGroup1101, odGroup1110, odGroup1200, odGroup1210] ++
  [odGroup1300, odGroup1301, odGroup2000, odGroup2001, odGroup2010, odGroup2020, odGroup2030, odGroup2031] ++
  [odGroup2040, odGroup2050, odGroup2100, odGroup2101, odGroup2102, odGroup2110, odGroup2200, odGroup2201] ++
  [odGroup2400, odGroup2401, odGroup2402, odGroup2410, odGroup2420, odGroup2430, odGroup2440, odGroup2600] ++
  [odGroup2601, odGroup2610, odGroup2620, odGroup2640, odGroup2680, odGroup2700, odGroup3000, odGroup3100] ++
  [odGroup3200, odGroup3201, odGroup3210, odGroup3220, odGroup3230, odGroup3240, odGroup3250, odGroup3260] ++
  [odGroup3400, odGroup3410, odGroup3420, odGroup3460, odGroup3461, odGroup3462, odGroup3463, odGroup3464] ++
  [odGroup3465, odGroup3466, odGroup3500, odGroup3600, odGroup3610, odGroup3620, odGroup4000, odGroup4010] ++
  [odGroup4011, odGroup4020, odGroup4021, odGroup4200, odGroup4280, odGroup4300, odGroup4400, odGroup4410] ++
  [odGroup4411, odGroup4420, odGroup4440, odGroup4600, odGroup4610, odGroup4620, odGroup4640, odGroup4700] ++
  [odGroup4800, odGroup4810, odGroup4820, odGroup4821, odGroup4A00, odGroup4A10, odGroup4A11, odGroup4A20] ++
  [odGroup4A30, odGroup5000, odGroup5010, odGroup5020, odGroup5021, odGroup5030, odGroup5040, odGroup5100] ++
  [odGroup5200, odGroup5201, odGroup5210, odGroup5220, odGroup5400]

/-- The group that holds an index, if the dictionary has it (R550). -/
def odFindGroup (idx : Nat) : Option OdGroup :=
  odTable.find? fun g => g.index ≤ idx && idx < g.index + g.count

/-- The row of a subindex within its group. -/
def OdGroup.row (g : OdGroup) (sub : Nat) : Option OdRow :=
  g.rows.find? fun r => r.sub ≤ sub && sub < r.sub + r.subs

/-- The highest subindex of a group: what its subindex 0 reads (R550). -/
def OdGroup.maxSub (g : OdGroup) : Nat :=
  g.rows.foldl (fun m r => max m (r.sub + r.subs - 1)) 0

/-- The row of an entry, if the dictionary has it. -/
def odRow (idx sub : Nat) : Option OdRow :=
  (odFindGroup idx).bind fun g => g.row sub

/-- Bytes of a fixed-width type (Table 18-1); none for STR and BLOB. -/
def OdType.width : OdType → Option Nat
  | .u8 | .bool => some 1
  | .u16 => some 2
  | .u32 | .i32 => some 4
  | .u64 | .time64 | .ring64 => some 8
  | .digest48 => some 48
  | .str | .blob => none

/-- Whether the type's value is a byte string and not a number. -/
def OdType.isBytes : OdType → Bool
  | .str | .blob | .digest48 => true
  | _ => false

/-- The TYPE code of Table 18-1. -/
def OdType.code : OdType → Nat
  | .u8 => 1 | .u16 => 2 | .u32 => 3 | .u64 => 4 | .i32 => 5 | .bool => 6
  | .time64 => 7 | .ring64 => 8 | .str => 9 | .blob => 10 | .digest48 => 11

/-- The ACCESS code of R552. -/
def OdAccess.code : OdAccess → Nat
  | .const => 1 | .ro => 2 | .rw => 3 | .rws => 4 | .wo => 5 | .rwt => 6

end Sys2Proof.Machine
end

