-- ==== Sys2Proof/Machine/TypesCore.lean ====
section
/-! DEFINITION. State of the device as a whole: its identity (R4), the dictionary's register files (R550), the error
log (R569), Tally sessions, transfers, subscriptions and the mailbox (R558 to R564), SMBus (R565), and what every
reset keeps (R544, R556, R576). -/
namespace Sys2Proof.Machine

/-- The three variants of Table 0-1. -/
inductive Variant where
  | skf9200 | skf9160 | skf9120
deriving DecidableEq, Repr

/-- What manufacture fixes (R4, R503, Table 0-3). -/
structure Device where
  variant : Variant
  serial : Bytes
  stepping : Bytes
  uid : Nat
  romDigest : Bytes
  cert : Bytes
  secret : Bytes
  rootKeyHash : Bytes
  macA : Nat
  macB : Nat
deriving DecidableEq, Repr

/-- The dictionary's register files: what each entry holds, under index * 256 + subindex, and how often it changed
(R602). Numbers are held as their bits (an I32 as 32 bits of two's complement). -/
structure OdFile where
  nums : List (Nat × Nat)
  blobs : List (Nat × Bytes)
  vers : List (Nat × Nat)
deriving DecidableEq, Repr

/-- A log entry (Table 18-11), with the window of R570 and whether it was told to subscribers as closed. -/
structure LogEntry where
  seq : Nat
  source : Nat
  code : Nat
  event : Bool
  storm : Bool
  coalesced : Bool
  overHalf : Bool
  timeEstimated : Bool
  previousBoot : Bool
  update : Bool
  severity : Nat
  context : Nat
  count : Nat
  firstTai : Nat
  firstRing : Nat
  lastTai : Nat
  firstDetail : Bytes
  lastDetail : Bytes
  windowEnd : Nat
  mirrored : Bool
  closed : Bool
deriving DecidableEq, Repr

/-- The error log in management SRAM: its entries oldest first, the next SEQ, the acknowledged bound, and whether the
mirror has been merged, or the log runs in SRAM only (before that, entries take no SEQ, R571). -/
structure ErrorLog where
  entries : List LogEntry
  written : Nat
  acked : Nat
  merged : Bool
deriving DecidableEq, Repr

/-- A kept response of a session (R560). -/
structure KeptResponse where
  reqId : Nat
  status : Nat
  body : Bytes
deriving DecidableEq, Repr

/-- A BLOB transfer (R561): the entry it writes, its length and digest, the bytes staged and which are written. -/
structure Transfer where
  handle : Nat
  idx : Nat
  sub : Nat
  total : Nat
  digest : Bytes
  staged : Bytes
  written : List Bool
  lastAt : Nat
deriving DecidableEq, Repr

/-- An EVENT message not yet acknowledged (R575). -/
structure EventMsg where
  counter : Nat
  lost : Nat
  entries : List LogEntry
  lastSentAt : Nat
deriving DecidableEq, Repr

/-- A session's event subscription (R574) and the entries due to it. -/
structure Subscription where
  mask : List Nat
  minSeverity : Nat
  bothPorts : Bool
  due : List LogEntry
  unacked : List EventMsg
  lost : Nat
deriving DecidableEq, Repr

/-- An open session (R514, R515): its rights, the public key of its operator, its session key, the highest counter
accepted, its last request, transfers, subscription and the counter of its next EVENT. -/
structure Session where
  id : Nat
  admin : Bool
  tenant : Bool
  test : Bool
  mask : Nat
  pubKey : Bytes
  key : Bytes
  counter : Nat
  kept : List KeptResponse
  openedAt : Nat
  lastAt : Nat
  lastPath : Nat
  lastAddr : Nat
  lastPort : Nat
  addrA : Nat
  addrB : Nat
  transfers : List Transfer
  nextHandle : Nat
  sub : Option Subscription
  nextEvent : Nat
  connResult : Bytes
deriving DecidableEq, Repr

/-- A challenge awaiting its proof (R563): the number of the device's ephemeral key and nonce, the exchange's
transcript T and the device's signature over it. -/
structure Challenge where
  session : Nat
  eph : Nat
  keyIndex : Nat
  transcript : Bytes
  signature : Bytes
  startAt : Nat
deriving DecidableEq, Repr

/-- The PCIe mailbox (Table 18-6), with the TYPE of the request in progress and the session key it came under. -/
structure Mailbox where
  go : Bool
  done : Bool
  irqEn : Bool
  formatError : Bool
  vector : Nat
  reqLen : Nat
  rspLen : Nat
  body : Bytes
  type : Nat
  key : Bytes
deriving DecidableEq, Repr

/-- The SMBus target (R565): the entry selected, the offset, and the status of the last WRITE; and the
COOLING_REQUEST at the time alert bit 1 was last cleared (Table 18-9). -/
structure SmBus where
  idx : Nat
  sub : Nat
  offset : Nat
  lastStatus : Nat
  coolingAtClear : Nat
deriving DecidableEq, Repr

/-- A copy of the heartwood record (R576): its UPDATE_SEQ, the UID it names, whether its CRC holds, and the entries of
0x1300 and 0x1301 it carries. -/
structure HwCopy where
  seq : Nat
  uid : Nat
  valid : Bool
  nums : List (Nat × Nat)
deriving DecidableEq, Repr

/-- A firmware image in a boot slot (R501): its SVN and digest, and whether its certificate and signature verify. -/
structure FwImage where
  svn : Nat
  digest : Bytes
  trusted : Bool
  present : Bool
deriving DecidableEq, Repr

/-- A persisted settings area (R556): the committed values, and the writes not yet committed, oldest first. -/
structure Settings where
  nums : List (Nat × Nat)
  blobs : List (Nat × Bytes)
  pendingKeys : List Nat
deriving DecidableEq, Repr

/-- The log's tier 2 mirror (R571). -/
structure LogMirror where
  written : Nat
  acked : Nat
  entries : List LogEntry
deriving DecidableEq, Repr

/-- What no reset clears: fuses, firmware slots, settings areas, heartwood copies (two in the boot store, one mirrored
in tier 2) and the log's mirror. -/
structure NonVolatile where
  fuseSvn : Nat
  slot1 : FwImage
  slot2 : FwImage
  boot : Settings
  yard : Settings
  sealCounter : Nat
  sealedOk : Bool
  hwA : HwCopy
  hwB : HwCopy
  hwMirror : HwCopy
  log : LogMirror
deriving DecidableEq, Repr

/-- The answer to a persisted write that waits for its store (R557): the entry, and where the answer goes. -/
structure HeldAnswer where
  key : Nat
  path : Nat
  addr : Nat
  port : Nat
  session : Nat
  reqId : Nat
  counter : Nat
  status : Nat
deriving DecidableEq, Repr

/-- Management state that a reset clears. `hwLoaded` says that the heartwood record has been loaded, `hwAt` is the uptime
of its last update, and `calDone` that the first lock since reset has entered it (R577, R580). `seen` holds what entries that follow other state
last read as (R602); `tenantSeen` what a counter reads as through TENANT sessions, and since when (R509). -/
structure Mgmt where
  sessions : List Session
  challenges : List Challenge
  nextSession : Nat
  mbox : Mailbox
  smb : SmBus
  heldAnswers : List HeldAnswer
  calLoadedTai : Nat
  calLoadedAt : Nat
  everLocked : Bool
  lockedSinceReset : Bool
  calBase : Nat
  calBaseAt : Nat
  hwLoaded : Bool
  hwAt : Nat
  calDone : Bool
  seen : List (Nat × Bytes)
  tenantSeen : List (Nat × Nat × Nat)
deriving DecidableEq, Repr

end Sys2Proof.Machine
end

