-- ==== Sys2Proof/Machine/OdDefault.lean ====
section
/-! DEFINITION. What each entry holds after power-on (R13): the table's default, or the variant's value where the table
says that it is per variant (Tables 0-1, 0-3, 10-4, 10-12, 14-3 and 17-6). -/
namespace Sys2Proof.Machine

/-- VARIANT's code (Table 0-3). -/
def Variant.code : Variant → Nat
  | .skf9200 => 1 | .skf9160 => 2 | .skf9120 => 3

/-- Unit counts 0x1010:01 to 0x1010:0D (Table 0-1). -/
def Variant.counts : Variant → List Nat
  | .skf9200 => [2, 16, 128, 256, 64, 16, 16, 32, 16, 4, 32, 32, 8]
  | .skf9160 => [2, 16, 128, 256, 64, 0, 16, 32, 16, 4, 32, 32, 8]
  | .skf9120 => [1, 8, 64, 128, 32, 0, 8, 16, 16, 2, 16, 16, 4]

/-- Their widths in bytes. -/
def capWidths : List Nat := [1, 1, 2, 2, 1, 1, 1, 1, 1, 1, 1, 1, 1]

/-- CAPSET_DIGEST: SHA-384 over the counts, each little-endian at its type's width (0x1010:0E). -/
def Variant.capsetDigest (v : Variant) : Bytes :=
  sha384 ((v.counts.zip capWidths).flatMap fun p => leBytes p.2 p.1)

/-- Clusters fitted. -/
def Variant.clusters : Variant → Nat
  | .skf9120 => 8
  | _ => 16

/-- Unit masks 0x1011:01 to 0x1011:06. -/
def Variant.masks : Variant → List Nat
  | .skf9200 => [0xFFFF, 0xFFFF, 0xFFFFFFFF, 0xFFFFFFFF, 0xFF, 0x0F]
  | .skf9160 => [0xFFFF, 0, 0xFFFFFFFF, 0xFFFFFFFF, 0xFF, 0x0F]
  | .skf9120 => [0xFF, 0, 0xFFFF, 0xFFFF, 0x0F, 0x03]

/-- CLUSTER_MASK of Table 0-3. -/
def Variant.clusterMask : Variant → Nat
  | .skf9120 => 0xFF
  | _ => 0xFFFF

/-- Network lanes bonded. -/
def Variant.lanes : Variant → Nat
  | .skf9120 => 16
  | _ => 32

/-- NAND channels bonded. -/
def Variant.nandChannels : Variant → Nat
  | .skf9120 => 16
  | _ => 32

/-- DDR5 channels bonded. -/
def Variant.ddrChannels : Variant → Nat
  | .skf9120 => 4
  | _ => 8

/-- HBM bytes fitted: 36 GiB a stack (Table 0-1). -/
def Variant.hbmBytes : Variant → Nat
  | .skf9120 => 2 * 36 * 2 ^ 30
  | _ => 4 * 36 * 2 ^ 30

/-- HOLDUP_W (Table 17-6). -/
def Variant.holdupW : Variant → Nat
  | .skf9120 => 60
  | _ => 95

/-- Maximum power in W (Table 17-6). -/
def Variant.maxW : Variant → Nat
  | .skf9200 => 620 | .skf9160 => 605 | .skf9120 => 329

/-- DECK_POOL_BYTES (Table 10-4, R309). -/
def Variant.deckPoolBytes : Variant → Nat
  | .skf9120 => 4 * 2 ^ 30
  | _ => 8 * 2 ^ 30

/-- Bytes of a block of a pool (Table 10-4). -/
def poolBlockBytes : Nat → Nat
  | 1 | 3 | 4 | 6 | 7 => 65536
  | 2 | 5 => 2097152
  | 8 => 262144
  | 9 => 8388608
  | _ => 0

/-- Whether a pool is fitted (R309). -/
def Variant.hasPool (v : Variant) (p : Nat) : Bool :=
  1 ≤ p && p ≤ 9 && !(v == .skf9120 && 4 ≤ p && p ≤ 6)

/-- Blocks of a pool with the layout settings' defaults (Table 10-4): T1_STAGE at its default 96 GiB, T1_BULK at the
remainder of no DDR5, which training sets (R305). -/
def Variant.poolBlocks (v : Variant) (p : Nat) : Nat :=
  if v.hasPool p then
    match p with
    | 1 | 4 => 49152
    | 2 | 5 => 32768
    | 3 | 6 => 448
    | 7 => v.deckPoolBytes / 65536
    | 8 => 96 * 2 ^ 30 / 262144
    | _ => 0
  else 0

/-- Default weights of the arbiters' objects 0x3461 to 0x3466, by subindex from 1 (Table 10-12). -/
def arbDefaults : Nat → List Nat
  | 0x3461 => [8, 8, 4, 4, 2, 1]
  | 0x3462 => [8, 8, 8, 4, 4, 2, 1]
  | 0x3463 => [8, 4, 2, 1]
  | 0x3464 => [4, 4]
  | 0x3465 => [8, 4, 4, 4]
  | 0x3466 => [4, 4, 1]
  | _ => []

/-- Default WEIGHT, PEAK_PCT and INGRESS_PCT of a service (Table 14-3). -/
def serviceDefaults : Nat → List Nat
  | 0 => [64, 100, 100]
  | 1 => [32, 100, 100]
  | 2 | 3 | 4 => [16, 50, 50]
  | 5 | 6 => [8, 25, 25]
  | _ => [1, 10, 10]

/-- What a numeric entry holds after power-on. -/
def odDflt (v : Variant) (k : Nat) : Nat :=
  let idx := k / 256
  let sub := k % 256
  if idx = 0x1000 ∧ sub = 3 then v.code
  else if idx = 0x1010 ∧ 1 ≤ sub ∧ sub ≤ 13 then v.counts.getD (sub - 1) 0
  else if idx = 0x1011 ∧ 1 ≤ sub then v.masks.getD (sub - 1) 0
  else if 0x2640 ≤ idx ∧ idx < 0x2680 ∧ sub = 4 then v.clusterMask
  else if idx = 0x2640 ∧ sub = 1 then 1
  else if k = Reg.power.holdupW then v.holdupW
  else if k = Reg.tier.hbmBytes then v.hbmBytes
  else if 0x3421 ≤ idx ∧ idx ≤ 0x3429 ∧ 1 ≤ sub ∧ sub ≤ 4 then
    if sub = 1 then poolBlockBytes (idx - 0x3420) else v.poolBlocks (idx - 0x3420)
  else if 0x3461 ≤ idx ∧ idx ≤ 0x3466 ∧ 1 ≤ sub then (arbDefaults idx).getD (sub - 1) 0
  else if 0x5210 ≤ idx ∧ idx ≤ 0x5217 ∧ 1 ≤ sub ∧ sub ≤ 3 then (serviceDefaults (idx - 0x5210)).getD (sub - 1) 0
  else if k = Reg.deck.deckPoolBytes then v.deckPoolBytes
  else match odFindGroup idx with
    | none => 0
    | some g => if sub = 0 then g.maxSub else match g.row sub with
      | some r => r.dflt
      | none => 0

/-- What a STR, BLOB or DIGEST48 entry holds after power-on. -/
def odDfltBytes (v : Variant) (k : Nat) : Bytes :=
  if k = Reg.ident.vendor then ascii "Apxirin"
  else if k = Reg.ident.part then
    ascii (match v with | .skf9200 => "SKF-9200" | .skf9160 => "SKF-9160" | .skf9120 => "SKF-9120")
  else if k = Reg.permTest.roundTable then zeros 96
  else if k = Reg.mgmt.mgmtAAddr ∨ k = Reg.mgmt.mgmtAGateway ∨ k = Reg.mgmt.mgmtBAddr ∨ k = Reg.mgmt.mgmtBGateway ∨
      k = Reg.lkCfg.mcastGroup then zeros 16
  else if k = Reg.lkCfg.lookoutSecret then zeros 32
  else if 0x4300 ≤ k / 256 ∧ k / 256 < 0x4400 ∧ k % 256 = 5 then zeros 16
  else match odRow (k / 256) (k % 256) with
    | some r => if r.ty = .digest48 then zeros 48 else []
    | none => []

end Sys2Proof.Machine
end

