-- ==== Sys2Proof/Machine/TypesNet.lean ====
section
/-! DEFINITION. State of the Skidder (R382 to R421) and of the traffic scheduler (R424 to R436). -/
namespace Sys2Proof.Machine

/-- A packet to send. `type` is TYPE of Table 13-5, `label` the label where the sender fixed it (a fragment's write, an
ACK), `first` the first transmission of a scheduled fragment with `head` its first packet, `reply` the numbers that an
answer without a connection of its own carries. PSN is 0 until a sequenced packet is first transmitted. -/
structure TxPkt where
  conn : Nat
  type : Nat
  ackReq : Bool
  retx : Bool
  chipped : Bool
  plain : Bool
  label : Option Nat
  psn : Nat
  msgId : Nat
  ext : Option SkdExt
  payload : Bytes
  deck : Option FragKey
  attempt : Nat
  first : Bool
  head : Bool
  addr : Bytes
  reply : Option (Nat × Nat)
deriving DecidableEq, Repr

/-- A sequenced packet sent and not acknowledged: when (ns of uptime), under which TX_SERIAL and label, how often it was
retransmitted, and whether a packet sent after it has been acknowledged (R406). `queued` says that its retransmission
waits to be sent. -/
structure Sent where
  pkt : TxPkt
  at_ : Nat
  serial : Nat
  label : Nat
  tries : Nat
  passed : Bool
  queued : Bool
deriving DecidableEq, Repr

/-- The states of a connection that holds a number (R389). -/
inductive ConnState where
  | open_ | fenced | failed
deriving DecidableEq, Repr

/-- What an operation was started for: a transfer of a page or core, a fragment, a message of this device. -/
inductive OpUser where
  | transfer (src : TransferSrc) (tag op : Nat) (local_ : Nat)
  | fragment (key : FragKey)
  | message
deriving DecidableEq, Repr

/-- An operation this end started: its message, its user, the bytes a READ still wants and those it has, and whether the
peer rejected a packet of it; for a write, its bytes, REMOTE_KEY, offset and immediate. `again` says that a compressed
message was already sent once more (R414). -/
structure NetOp where
  msgId : Nat
  user : OpUser
  want : Nat
  got : List (Nat × Bytes)
  isRead : Bool
  bad : Bool
  again : Bool
  raw : Bytes
  key : Nat
  offset : Nat
  imm : Option Nat
deriving DecidableEq, Repr

/-- A WRITE_IMM held until the rest of its message is placed (R397). -/
structure HeldImm where
  offset : Nat
  immediate : Nat
  payload : Bytes
deriving DecidableEq, Repr

/-- A message in reception: its region and length, the bytes of non-final writes placed, its staging buffer (region 3),
the held WRITE_IMM, and whether a write of it was rejected. -/
structure RxMsg where
  msgId : Nat
  region : Nat
  total : Nat
  placed : Nat
  mem : Nat
  chipped : Bool
  held : Option HeldImm
  rejected : Bool
deriving DecidableEq, Repr

/-- A connection: its descriptor (Table 13-4), the subscriber slot it is bound to (0: the overflow subscriber), its
state, keys (the current epoch, the ring until which the earlier key is kept, the highest epoch a packet was received
under), send side (TX_SERIAL, next PSN and MSG_ID, packets waiting for the rate, packets unacknowledged, operations),
round trip (ns) and rate (R408, with the counts of the period and the rate's credit), receive side (lowest PSN not
received, those above it, the counts since the last ACK, messages in reception, messages ended), the label last used in
round robin, REG_TAGs, and whether the first frame since the revocation was answered. -/
structure Conn where
  num : Nat
  kind : Nat
  roce : Bool
  target : Bool
  compress : Bool
  ipv4 : Bool
  ctx : Nat
  port : Nat
  peerConn : Nat
  peerSlot : Nat
  peerGen : Nat
  consumer : Nat
  addr : Bytes
  mask : Nat
  slotBytes : Nat
  mtu : Nat
  stream : Nat
  service : Nat
  secret : Bytes
  rkeys : Bytes
  sub : Nat
  state : ConnState
  keyEpoch : Nat
  graceUntil : Option Nat
  confirmed : Nat
  serial : Nat
  nextPsn : Nat
  nextMsg : Nat
  backlog : List TxPkt
  unacked : List Sent
  ops : List NetOp
  srtt : Option Nat
  rttvar : Nat
  rate : Nat
  alpha : Nat
  clean : Nat
  ackedP : Nat
  markedP : Nat
  credit : Int
  rxCum : Nat
  rxAbove : List Nat
  newAck : Nat
  newCe : Nat
  newRej : Nat
  ackLabel : Nat
  ackEcho : Nat
  rxMsgs : List RxMsg
  rxDone : List Nat
  lastLabel : Nat
  tags : List Nat
  answered : Bool
  rejects : Nat
  txCount : Nat
  rxCount : Nat
deriving DecidableEq, Repr

/-- STATE of a subscriber slot (Table 14-4); FREE slots are not listed. -/
inductive SubState where
  | configured | auto | schedule
deriving DecidableEq, Repr

/-- A subscriber slot that is not FREE: its port and service (none for a SCHEDULE slot that no connection has named), the
rate and cap in use and those that the next ring boundary brings, credit in milli-bytes, queue and bytes sent. -/
structure SubSlot where
  slot : Nat
  state : SubState
  place : Option (Nat × Nat)
  rate : Nat
  burst : Nat
  newRate : Nat
  newBurst : Nat
  credit : Int
  queue : List TxPkt
  tx : Nat
deriving DecidableEq, Repr

/-- A service on a port: its deficit, peak credit, the slot last served, the overflow subscriber's queue and credit, and
the ingress policer's credit (R424, R429, R435). -/
structure SvcPort where
  deficit : Nat
  peak : Int
  last : Nat
  over_ : List TxPkt
  overCredit : Int
  police : Int
deriving DecidableEq, Repr

/-- A port's egress: the writes still to send of each launched fragment, and of each fragment launched again in a new attempt
(R457), the control queue, its credit and whether its head was counted as waiting, the frame that R425 holds with the service
and the subscriber slot it came from (none: the control queue), the services, and the service whose round robin visit is
open. -/
structure PortTx where
  due : List (List TxPkt)
  renew : List (List TxPkt)
  ctl : List TxPkt
  ctlCredit : Int
  ctlWaited : Bool
  held : Option TxPkt
  heldFrom : Option (Nat × Nat)
  svc : List SvcPort
  cur : Nat
  visiting : Bool
deriving DecidableEq, Repr

/-- A page of SKD_ registers (Table 13-13), with the descriptors the host has written and the Skidder has not fetched. -/
structure SkdPage where
  ctx : Nat
  txqSize : Nat
  tail : Nat
  head : Nat
  cqSize : Nat
  cqHead : Nat
  cqTail : Nat
  vector : Nat
  last : Nat
  waiting : List TransferDesc
deriving DecidableEq, Repr

/-- A frame on the wire: what a port sends. -/
structure NetFrame where
  port : Nat
  dscp : Nat
  ect : Bool
  srcPort : Nat
  dstPort : Nat
  addr : Bytes
  payload : Bytes
deriving DecidableEq, Repr

/-- What a received packet carries beyond its header and payload. -/
inductive SkdBody where
  | write (ext : SkdExt)
  | writeImm (ext : SkdExt)
  | readReq (ext : SkdExt)
  | readResp (ext : SkdExt)
  | ack
  | lookout (frame : LkFrame)
  | plainFenced
  | plainNoConnection
  | lkNotice (notice : LkNotice)
  | ingestResult
  | msgDiscarded
  | readError
deriving DecidableEq, Repr

/-- The Skidder and the traffic scheduler: the port mode in effect, the ports, the subscriber slots not FREE, the
connections, the source addresses answered NO_CONNECTION with the ring, the losses of R403 (port, label, ring), the
quarantines (port, label, ring of their end), the SKD_ pages, the frames sent and the packets received that fault
injection holds, and the fragments already counted in RETRANSMITTED. -/
structure Skidder where
  mode : Nat
  ports : List PortTx
  subs : List SubSlot
  conns : List Conn
  noConn : List (Bytes × Nat)
  losses : List (Nat × Nat × Nat)
  quarantine : List (Nat × Nat × Nat)
  pages : List SkdPage
  fiHeld : List NetFrame
  rxHeld : List (SkdRx × SkdBody)
  retxFrags : List FragKey
deriving DecidableEq, Repr

def SvcPort.reset : SvcPort := ⟨0, 0, 0, [], 0, 0⟩

def PortTx.reset : PortTx := ⟨[], [], [], 0, false, none, none, List.replicate 8 SvcPort.reset, 0, false⟩

/-- No connection, no subscriber, PORT_MODE at its default. -/
def Skidder.reset : Skidder := ⟨1, List.replicate 32 PortTx.reset, [], [], [], [], [], [], [], [], []⟩

end Sys2Proof.Machine
end

