-- ==== Sys2Proof/Machine/Out.lean ====
section
/-! DEFINITION. What the block sends: messages, frames, completions, interrupts and pin changes, in the order in which
commands cause them. State keeps them in `out`, so that a statement can speak of what a command sent. -/
namespace Sys2Proof.Machine

/-- Stand messages on the ring (R92 to R97). -/
inductive StandMsg where
  | hello (standId uid : Nat)
  | master (standId term : Nat)
  | heartbeat (standId : Nat)
  | arrive (barrier : Nat)
  | arm (barrier term : Nat)
  | armed (barrier : Nat)
  | abort (barrier : Nat) (memberLost : Bool)
deriving DecidableEq, Repr

/-- One thing sent. -/
inductive Out where
  | tally (path addr port session reqId counter status : Nat) (secure : Bool) (body : Bytes)
  | event (session : Nat) (both : Bool) (msg : EventMsg)
  | smbus (body : Bytes)
  | msix (vector : Nat)
  | stand (msg : StandMsg)
  | syncPulse
  | release (barrier ring grain delay : Nat)
  | barrierStatus (barrier status : Nat)
  | late (members : List Nat)
  | launchReport (step consumer cause grains : Nat)
  | pins (thermTripLow : Bool)
  | poolAnswer (requester status handle blocks owner ctx : Nat)
  | settings (stream gen effective : Nat) (bytes : Bytes)
  | fuseOutcome (group index : Nat) (layers : List LayerOutcome)
  | fuseOutcomeAck (standId group index : Nat)
  | record (addr : Nat) (bytes : Bytes)
  | sector (status : Nat) (data : Bytes) (tuple : PiTuple)
  | sample (shard offset : Nat) (bytes : Bytes)
  | partnerRead (device shard offset length : Nat)
  | partnerReply (device shard offset length : Nat) (bytes : Option Bytes)
  | copyAppend (device shard offset : Nat) (compressed : Bool) (bytes : Bytes)
  | copyAnswer (device shard status : Nat)
  | copySeal (device shard bytes : Nat) (digest : Bytes)
  | sealAnswer (device shard : Nat) (sealed : Bool)
  | copyDelete (device shard : Nat)
  | reingest (shard originKind : Nat) (locator : Bytes)
  | nvme (cq sq cid sct sc dw0 : Nat)
  | nvmeData (sq cid : Nat) (bytes : Bytes)
  | sectors (sq cid : Nat) (l : List (Bytes × PiTuple))
  | pushEntry (port seq status opcode tag detail : Nat)
  | pshStatus (port code state free : Nat)
  | ingestResult (source tag status detail : Nat)
  | signatures (filter : Nat) (l : List (Nat × Nat))
  | frame (f : NetFrame)
  | roce (port conn type psn : Nat) (ackReq : Bool) (rkey offset immediate : Nat) (payload : Bytes)
  | lkFrame (path : Nat) (to_ : Option Nat) (frame : Bytes)
  | coppiceCopy (source shard : Nat)
  | lookoutSays (code : Nat)
  | lkAsk (leader seq : Nat)
  | unreachable (conn who : Nat)
  | linkReport (port : Nat)
  | plainNotice (conn code : Nat)
  | deliveryFailure (key : FragKey) (writes : Nat)
  | message (conn kind : Nat) (bytes : Bytes)
  | hostWrite (ctx addr : Nat) (bytes : Bytes)
  | transferDone (src : TransferSrc) (seq status op tag : Nat)
  | ingestNotice (conn tag status detail : Nat)
  | lookoutNotice (conn : Nat) (n : LkNotice)
  | lkPlain (slot generation : Nat)
  | grant (kind inst : Nat) (cls : Option Nat)
deriving DecidableEq, Repr

end Sys2Proof.Machine
end

