-- ==== Sys2Proof/Machine/Float.lean ====
section
/-! DEFINITION. The number formats of Table 7-4 and their arithmetic: decoding to an exact value, rounding to nearest
with ties to even or stochastically (R207, R208), and FP32 addition, multiplication and the elementary functions that
the engine rounds correctly (R197, Table 7-2). -/
namespace Sys2Proof.Machine

/-- A floating-point format: exponent and mantissa bits, bias, whether it has infinities and whether it has a NaN.
`nan` is the canonical NaN (Table 7-4). -/
structure Fmt where
  ebits : Nat
  mbits : Nat
  bias : Int
  hasInf : Bool
  hasNan : Bool
  nan : Nat
deriving DecidableEq, Repr

def fmtE4M3 : Fmt := ⟨4, 3, 7, false, true, 0x7F⟩
def fmtE5M2 : Fmt := ⟨5, 2, 15, true, true, 0x7E⟩
def fmtFp16 : Fmt := ⟨5, 10, 15, true, true, 0x7E00⟩
def fmtBf16 : Fmt := ⟨8, 7, 127, true, true, 0x7FC0⟩
def fmtFp32 : Fmt := ⟨8, 23, 127, true, true, 0x7FC00000⟩
def fmtE2M3 : Fmt := ⟨2, 3, 1, false, false, 0⟩
def fmtE3M2 : Fmt := ⟨3, 2, 3, false, false, 0⟩
def fmtE2M1 : Fmt := ⟨2, 1, 1, false, false, 0⟩

/-- The value of a floating-point number: NaN, an infinity, or ±m × 2^e. -/
inductive FVal where
  | nan
  | inf (neg : Bool)
  | fin (neg : Bool) (m : Nat) (e : Int)
deriving DecidableEq, Repr

/-- The value that bits of a format encode. -/
def Fmt.decode (f : Fmt) (b : Nat) : FVal :=
  let man := b % 2 ^ f.mbits
  let ex := b / 2 ^ f.mbits % 2 ^ f.ebits
  let neg := b / 2 ^ (f.mbits + f.ebits) % 2 == 1
  let top := 2 ^ f.ebits - 1
  if f.hasInf && ex == top then (if man = 0 then .inf neg else .nan)
  else if f.hasNan && !f.hasInf && ex == top && man == 2 ^ f.mbits - 1 then .nan
  else if ex = 0 then .fin neg man (1 - f.bias - f.mbits)
  else .fin neg (man + 2 ^ f.mbits) (ex - f.bias - f.mbits)

/-- The largest finite magnitude's bits. -/
def Fmt.maxFinite (f : Fmt) : Nat :=
  if f.hasInf then (2 ^ f.ebits - 2) * 2 ^ f.mbits + (2 ^ f.mbits - 1)
  else if f.hasNan then (2 ^ f.ebits - 1) * 2 ^ f.mbits + (2 ^ f.mbits - 2)
  else (2 ^ f.ebits - 1) * 2 ^ f.mbits + (2 ^ f.mbits - 1)

/-- Bits of an infinity of a format that has one. -/
def Fmt.infBits (f : Fmt) : Nat := (2 ^ f.ebits - 1) * 2 ^ f.mbits

/-- The sign bit's weight. -/
def Fmt.signBit (f : Fmt) : Nat := 2 ^ (f.mbits + f.ebits)

/-- `m × 2^e` as an integer multiple of 2^q, with the remainder as numerator and denominator of a fraction. -/
def scaleTo (m : Nat) (e q : Int) : Nat × Nat × Nat :=
  if e ≥ q then (m * 2 ^ (e - q).toNat, 0, 1)
  else let d := 2 ^ (q - e).toNat; (m / d, m % d, d)

/-- The exponent of the leading bit of `m × 2^e`. -/
def leadExp (m : Nat) (e : Int) : Int := e + (Nat.log2 m : Int)

/-- The quantum exponent at which a format represents a magnitude. -/
def Fmt.quantum (f : Fmt) (m : Nat) (e : Int) : Int :=
  max (leadExp m e) (1 - f.bias) - f.mbits

/-- The bits of the magnitude n × 2^q, with n up to 2^(mbits+1): subnormal where n is below 2^mbits. -/
def Fmt.pack (f : Fmt) (n : Nat) (q : Int) : Nat :=
  let (n, q) := if n = 2 ^ (f.mbits + 1) then (2 ^ f.mbits, q + 1) else (n, q)
  if n < 2 ^ f.mbits then n
  else ((q + f.mbits + f.bias).toNat) * 2 ^ f.mbits + (n - 2 ^ f.mbits)

/-- Nearest, ties to even, of an integer part with a fraction r/d; `sticky` says that more lies beyond. -/
def roundNearest (n r d : Nat) (sticky : Bool) : Nat :=
  if 2 * r > d ∨ (2 * r = d ∧ (sticky ∨ n % 2 = 1)) then n + 1 else n

/-- The result of a conversion: the bits, and whether the magnitude was saturated to the largest finite one. -/
structure Converted where
  bits : Nat
  saturated : Bool
deriving DecidableEq, Repr

/-- A magnitude past the largest finite one (Table 7-5): infinity, or the largest finite where the format has none or
SATURATE is asked. -/
def Fmt.overflow (f : Fmt) (saturate : Bool) (sign : Nat) : Converted :=
  if f.hasInf && !saturate then ⟨sign + f.infBits, false⟩ else ⟨sign + f.maxFinite, true⟩

/-- Rounds ±m × 2^e to the format, to nearest even (`random = none`) or stochastically with the element's 16 random
bits (R207, R208). A zero keeps its sign. -/
def Fmt.round (f : Fmt) (saturate : Bool) (random : Option Nat) (neg : Bool) (m : Nat) (e : Int) : Converted :=
  let sign := if neg then f.signBit else 0
  if m = 0 then ⟨sign, false⟩
  else
    let q := f.quantum m e
    let (n, r, d) := scaleTo m e q
    let n' := match random with
      | none => roundNearest n r d false
      | some x => if r = 0 then n else if r * 65536 / d + x % 65536 ≥ 65536 then n + 1 else n
    let b := f.pack n' q
    if b > f.maxFinite then f.overflow saturate sign else ⟨sign + b, false⟩

/-- Encodes a value in a format (Table 7-5). -/
def Fmt.encode (f : Fmt) (saturate : Bool) (random : Option Nat) : FVal → Converted
  | .nan => if f.hasNan then ⟨f.nan, false⟩ else ⟨0, false⟩
  | .inf neg => f.overflow saturate (if neg then f.signBit else 0)
  | .fin neg m e => f.round saturate random neg m e

/-! ### FP32 arithmetic, to nearest even -/

/-- FP32 bits of a value. -/
def fp32Of (v : FVal) : Nat := (fmtFp32.encode false none v).bits

/-- The signed multiple of 2^q that ±m × 2^e is, for q not above e. -/
def signedAt (neg : Bool) (m : Nat) (e q : Int) : Int :=
  let x : Int := (m * 2 ^ (e - q).toNat : Nat)
  if neg then -x else x

/-- The exact sum of two values; an exact zero sum is +0 unless both are -0. -/
def FVal.sum : FVal → FVal → FVal
  | .nan, _ | _, .nan => .nan
  | .inf a, .inf b => if a = b then .inf a else .nan
  | .inf a, _ | _, .inf a => .inf a
  | .fin a m e, .fin b n g =>
    let q := min e g
    let z := signedAt a m e q + signedAt b n g q
    if z = 0 then .fin (m == 0 && n == 0 && a && b) 0 q
    else .fin (z < 0) z.natAbs q

/-- The exact product of two values. -/
def FVal.prod : FVal → FVal → FVal
  | .nan, _ | _, .nan => .nan
  | .inf a, .inf b => .inf (a != b)
  | .inf a, .fin b n _ | .fin b n _, .inf a => if n = 0 then .nan else .inf (a != b)
  | .fin a m e, .fin b n g => .fin (a != b) (m * n) (e + g)

/-- The value with its sign changed. -/
def FVal.negate : FVal → FVal
  | .nan => .nan
  | .inf a => .inf (!a)
  | .fin a m e => .fin (!a) m e

def fp32Add (a b : Nat) : Nat := fp32Of ((fmtFp32.decode a).sum (fmtFp32.decode b))
def fp32Sub (a b : Nat) : Nat := fp32Of ((fmtFp32.decode a).sum (fmtFp32.decode b).negate)
def fp32Mul (a b : Nat) : Nat := fp32Of ((fmtFp32.decode a).prod (fmtFp32.decode b))

/-- Whether a value lies below another, NaN below nothing. -/
def FVal.lt : FVal → FVal → Bool
  | .nan, _ | _, .nan => false
  | .inf a, .inf b => a && !b
  | .inf a, _ => a
  | _, .inf b => !b
  | .fin a m e, .fin b n g =>
    let q := min e g
    signedAt a m e q < signedAt b n g q

/-- Whether two values are equal as numbers; NaN equals nothing. -/
def FVal.eq : FVal → FVal → Bool
  | .nan, _ | _, .nan => false
  | .inf a, .inf b => a == b
  | .inf _, _ | _, .inf _ => false
  | .fin a m e, .fin b n g =>
    let q := min e g
    signedAt a m e q == signedAt b n g q

/-- Rounds the quotient n/d × 2^e (d nonzero) to FP32, to nearest even: the quotient is taken to 80 bits and the rest
kept as a sticky bit. -/
def fp32Quot (neg : Bool) (n d : Nat) (e : Int) : Nat :=
  if n = 0 then fp32Of (.fin neg 0 0)
  else
    let sh := 80 + Nat.log2 d - min (Nat.log2 n) 80
    let x := n * 2 ^ sh
    let k := x / d
    let sticky := if x % d = 0 then 0 else 1
    fp32Of (.fin neg (2 * k + sticky) (e - sh - 1))

/-- 1/x in FP32. -/
def fp32Rcp (a : Nat) : Nat :=
  match fmtFp32.decode a with
  | .nan => fmtFp32.nan
  | .inf neg => fp32Of (.fin neg 0 0)
  | .fin neg m e => if m = 0 then fp32Of (.inf neg) else fp32Quot neg 1 m (-e)

/-- 1/sqrt(x) in FP32. -/
def fp32Rsqrt (a : Nat) : Nat :=
  match fmtFp32.decode a with
  | .nan => fmtFp32.nan
  | .inf true => fmtFp32.nan
  | .inf false => 0
  | .fin neg m e =>
    if m = 0 then fp32Of (.inf neg)
    else if neg then fmtFp32.nan
    else
      -- m × 2^e with an even exponent; 1/sqrt = sqrt(2^400 / m) / 2^200 × 2^(-e/2)
      let (m, e) := if e % 2 = 0 then (m, e) else (2 * m, e - 1)
      let x := 2 ^ 400 / m
      let r := Nat.sqrt x
      let sticky := if r * r = x ∧ 2 ^ 400 % m = 0 then 0 else 1
      fp32Of (.fin false (2 * r + sticky) (-201 - e / 2))

/-- 2^(2^-i) for i from 1, in units of 2^-160, by repeated square roots. -/
def exp2Table : Nat → Nat → List Nat
  | 0, _ => []
  | n + 1, prev => let r := Nat.sqrt (prev * 2 ^ 160); r :: exp2Table n r

/-- The product of the table's entries where the fraction's bits, most significant first, are set. -/
def exp2Frac : List Nat → Nat → Nat → Nat
  | [], _, acc => acc
  | t :: ts, f, acc => exp2Frac ts (2 * f % 2 ^ 160) (if f ≥ 2 ^ 159 then acc * t / 2 ^ 160 else acc)

/-- 2^x in FP32, from 150 bits of the fraction. -/
def fp32Exp2 (a : Nat) : Nat :=
  match fmtFp32.decode a with
  | .nan => fmtFp32.nan
  | .inf neg => if neg then 0 else fp32Of (.inf false)
  | .fin neg m e =>
    if m = 0 then fp32Of (.fin false 1 0)
    else if leadExp m e ≥ 9 then (if neg then 0 else fp32Of (.inf false))
    else if leadExp m e < -30 then fp32Of (.fin false 1 0)
    else
      let fixed : Int := (scaleTo m e (-160)).1
      let x := if neg then -fixed else fixed
      let ip := Int.fdiv x (2 ^ 160)
      let fr := (x - ip * 2 ^ 160).toNat
      if fr = 0 then fp32Of (.fin false 1 ip)
      else fp32Of (.fin false (2 * exp2Frac (exp2Table 150 (2 ^ 161)) fr (2 ^ 160) + 1) (ip - 161))

/-- Bits of the fraction of log2 of y in [1, 2) (in units of 2^-160), most significant first, by squaring. -/
def log2Bits : Nat → Nat → Nat → Nat
  | 0, _, acc => acc
  | n + 1, y, acc =>
    let z := y * y / 2 ^ 160
    if z ≥ 2 ^ 161 then log2Bits n (z / 2) (2 * acc + 1) else log2Bits n z (2 * acc)

/-- log2(x) in FP32, from 120 bits of the fraction. -/
def fp32Log2 (a : Nat) : Nat :=
  match fmtFp32.decode a with
  | .nan => fmtFp32.nan
  | .inf neg => if neg then fmtFp32.nan else fp32Of (.inf false)
  | .fin neg m e =>
    if m = 0 then fp32Of (.inf true)
    else if neg then fmtFp32.nan
    else
      let l := Nat.log2 m
      let y := m * 2 ^ (160 - l)
      let ip : Int := e + l
      if m = 2 ^ l then fp32Of (.fin (ip < 0) ip.natAbs 0)
      else
        let z := ip * 2 ^ 121 + (2 * log2Bits 120 y 0 + 1 : Nat)
        fp32Of (.fin (z < 0) z.natAbs (-121))

end Sys2Proof.Machine
end

