-- ==== Sys2Proof/Machine/Shuffle.lean ====
section
/-! DEFINITION. The pure functions of the shuffle: derived values (R43), the permutation (R44, R47), recipe parameters
(R48, R49) and the packing plan (R52). -/
namespace Sys2Proof.Machine

/-- R43: SipHash-2-4 under SEED_LO, SEED_HI of the tag, argument a and argument b. -/
def derive (seedLo seedHi tag a b : Nat) : Nat :=
  (sipHash24 (BitVec.ofNat 64 seedLo) (BitVec.ofNat 64 seedHi) (leBytes 4 tag ++ leBytes 4 a ++ leBytes 8 b)).toNat

/-- SEED_CHECK (Table 2-3). -/
def seedCheck (lo hi : Nat) : Nat := derive lo hi 4 0 0

/-- PHILOX_KEY of an epoch (Table 2-3). -/
def philoxKey (lo hi epoch : Nat) : Nat := derive lo hi 3 0 epoch

/-- The round function: by SipHash under the epoch's permutation key, or from ROUND_TABLE (R47). -/
inductive RoundFn where
  | sip (keyLo keyHi : Nat)
  | table (bytes : Bytes)
deriving DecidableEq, Repr

def RoundFn.eval (f : RoundFn) (r w right : Nat) : Nat :=
  match f with
  | .sip lo hi => (sipHash24 (BitVec.ofNat 64 lo) (BitVec.ofNat 64 hi) (leBytes 4 r ++ leBytes 4 w ++ leBytes 8 right)).toNat
  | .table t => (t.getD (16 * r + right) 0).toNat

/-- The smallest even w of at least 2, from `w` on, with 2^w ≥ m; `n` bounds the search. -/
def widthFrom : Nat → Nat → Nat → Nat
  | 0, w, _ => w
  | n + 1, w, m => if 2 ^ w < m then widthFrom n (w + 2) m else w

/-- w of R44. -/
def feistelWidth (m : Nat) : Nat := widthFrom 31 2 m

/-- The rounds r to 5 of the network. -/
def feistelRounds (f : RoundFn) (w h : Nat) : List Nat → Nat → Nat → Nat
  | [], left, right => left * 2 ^ h + right
  | r :: rs, left, right => feistelRounds f w h rs right ((left ^^^ (f.eval r w right % 2 ^ h)) % 2 ^ h)

/-- The six-round network on w-bit values (R44). -/
def feistel (f : RoundFn) (x w : Nat) : Nat :=
  let h := w / 2
  feistelRounds f w h [0, 1, 2, 3, 4, 5] (x / 2 ^ h) (x % 2 ^ h)

/-- Cycle walking: the network is applied until the value falls below m; `n` bounds the walk. -/
def walk (f : RoundFn) (w m : Nat) : Nat → Nat → Nat
  | 0, x => x
  | n + 1, x => let y := feistel f x w; if y < m then y else walk f w m n y

/-- The ordinal at position p of the epoch order of m samples (R44): a walk is no longer than the domain. -/
def permute (f : RoundFn) (p m : Nat) : Nat :=
  let w := feistelWidth m
  walk f w m (2 ^ w) p

/-- The round function of an epoch under the seed, or under ROUND_TABLE (R43, R47). -/
def roundFn (source : Nat) (table : Bytes) (lo hi epoch : Nat) : RoundFn :=
  if source = 1 then .table table else .sip (derive lo hi 1 0 epoch) (derive lo hi 2 0 epoch)

/-! ### Recipe parameters -/

/-- Word `j` of a stream: kind 0 recipe or 1 stochastic rounding, slot, and parameter number (R48, Table 2-4). -/
def philoxWord (key sample kind slot j : Nat) : Nat :=
  let c : Philox4 := ⟨BitVec.ofNat 32 sample, BitVec.ofNat 32 (sample / 2 ^ 32), BitVec.ofNat 32 (kind * 65536 + slot),
    BitVec.ofNat 32 (j / 4)⟩
  let r := philox c (BitVec.ofNat 32 key) (BitVec.ofNat 32 (key / 2 ^ 32))
  match j % 4 with
  | 0 => r.x0.toNat
  | 1 => r.x1.toNat
  | 2 => r.x2.toNat
  | _ => r.x3.toNat

/-- The parameter kinds of Table 2-5, with their bounds. -/
inductive ParamKind where
  | uint (lo hi : Nat)
  | unit
  | float (a b : Nat)
  | bool (threshold : Nat)
  | choice (k : Nat)
deriving DecidableEq, Repr

/-- (u >> 8) × 2^-24 in FP32. -/
def unitParam (u : Nat) : Nat := fp32Of (.fin false (u / 256) (-24))

/-- The value of a parameter from its word (R49): a number, FP32 bits, or 0 and 1. -/
def ParamKind.value (k : ParamKind) (u : Nat) : Nat :=
  match k with
  | .uint lo hi => lo + u * (hi - lo + 1) / 2 ^ 32
  | .unit => unitParam u
  | .float a b => fp32Add a (fp32Mul (unitParam u) (fp32Sub b a))
  | .bool t => if u < t then 1 else 0
  | .choice n => u * n / 2 ^ 32

/-! ### The packing plan -/

/-- A run of tokens of the document at a position. -/
structure Piece where
  position : Nat
  offset : Nat
  tokens : Nat
deriving DecidableEq, Repr

/-- A sequence under construction, by its creation order. -/
structure Bin where
  pieces : List Piece
  used : Nat
deriving DecidableEq, Repr

/-- SPLIT: places `t` tokens of position p from `off`, emitting full sequences; `n` bounds the cuts. -/
def splitDoc (s p : Nat) : Nat → Nat → Nat → Bin → List (List Piece) → Bin × List (List Piece)
  | 0, _, _, cur, done => (cur, done)
  | n + 1, off, t, cur, done =>
    if t = 0 then (cur, done)
    else
      let take := min t (s - cur.used)
      let cur : Bin := ⟨cur.pieces ++ [⟨p, off, take⟩], cur.used + take⟩
      if cur.used = s then splitDoc s p n (off + take) (t - take) ⟨[], 0⟩ (done ++ [cur.pieces])
      else splitDoc s p n (off + take) (t - take) cur done

/-- SPLIT over the documents left, from position p (R52). -/
def splitFrom (s : Nat) : Nat → List Nat → Bin → List (List Piece) → List (List Piece)
  | _, [], cur, done => if cur.used > 0 then done ++ [cur.pieces] else done
  | p, t :: ts, cur, done =>
    let r := splitDoc s p (t + 1) 0 t cur done
    splitFrom s (p + 1) ts r.1 r.2

/-- pack_split: the sequences of the documents' lengths in epoch order, with SEQ_LEN s. -/
def packSplit (s : Nat) (lengths : List Nat) : List (List Piece) := splitFrom s 0 lengths ⟨[], 0⟩ []

/-- FIT: the whole sequences that a document longer than s fills at once, and the rest. -/
def fitFull (s p : Nat) : Nat → Nat → Nat → List (List Piece) → Nat × Nat × List (List Piece)
  | 0, off, t, done => (off, t, done)
  | n + 1, off, t, done =>
    if t > s then fitFull s p n (off + s) (t - s) (done ++ [[⟨p, off, s⟩]]) else (off, t, done)

/-- The place of the first bin with the most tokens used: the least free, the earliest created of equals. -/
def fullestBin (bins : List Bin) : Nat :=
  let best := bins.foldl (fun m b => max m b.used) 0
  bins.findIdx fun b => b.used == best

/-- FIT over the documents left, with up to b open bins in creation order (R52). -/
def fitFrom (s b : Nat) : Nat → List Nat → List Bin → List (List Piece) → List (List Piece)
  | _, [], bins, done => done ++ bins.map (·.pieces)
  | p, t :: ts, bins, done =>
    let (off, t, done) := fitFull s p (t + 1) 0 t done
    let i := bins.findIdx fun x => t ≤ s - x.used
    let (bins, done, i) :=
      if i < bins.length then (bins, done, i)
      else
        let (bins, done) :=
          if bins.length = b then
            let j := fullestBin bins
            (bins.eraseIdx j, done ++ [(bins.getD j ⟨[], 0⟩).pieces])
          else (bins, done)
        (bins ++ [⟨[], 0⟩], done, bins.length)
    let x := bins.getD i ⟨[], 0⟩
    let x : Bin := ⟨x.pieces ++ [⟨p, off, t⟩], x.used + t⟩
    if x.used = s then fitFrom s b (p + 1) ts (bins.eraseIdx i) (done ++ [x.pieces])
    else fitFrom s b (p + 1) ts (bins.set i x) done

/-- pack_fit. -/
def packFit (s b : Nat) (lengths : List Nat) : List (List Piece) := fitFrom s b 0 lengths [] []

end Sys2Proof.Machine
end

