-- ==== Sys2Proof/Machine/TypesChip.lean ====
section
/-! DEFINITION. State of the Chippers' pipelines (R344). -/
namespace Sys2Proof.Machine

/-- A queued descriptor, and whether it was submitted after PWR_FAIL_N asserted (R348). -/
structure ChipEntry where
  desc : ChipDesc
  afterPwrFail : Bool
deriving DecidableEq, Repr

/-- One pipeline of a Chipper: its descriptors in arrival order, and whether the one at the head runs. -/
structure ChipPipe where
  chipper : Nat
  decomp : Bool
  queue : List ChipEntry
  busy : Bool
deriving DecidableEq, Repr

end Sys2Proof.Machine
end

