-- ==== Sys2Proof/Machine/TypesCompute.lean ====
section
/-! DEFINITION. State of the prep compute: cores, engines, kernels, launches and models (R193 to R220), and of the
grading pass (R221 to R228). -/
namespace Sys2Proof.Machine

/-- An operand tile: 1,024 elements in row order. -/
structure OpTile where
  n : Nat
  fmt : NumFmt
  elems : List Nat
deriving DecidableEq, Repr

/-- The kinds of accumulator tiles (R196). -/
inductive AccKind where
  | fp | int | exact
deriving DecidableEq, Repr

/-- An accumulator: FP32 bits, a 64-bit or a 128-bit value (modulo its width), the products added, and the special bits
of R201 ([0] +inf, [1] -inf, [2] NaN). -/
structure AccCell where
  v : Nat
  terms : Nat
  special : Nat
deriving DecidableEq, Repr

/-- An accumulator tile: 1,024 accumulators in row order. -/
structure AccTile where
  kind : AccKind
  n : Nat
  cells : List AccCell
deriving DecidableEq, Repr

/-- An instruction of an engine (Table 7-3). -/
inductive EngineOp where
  | ldSt (op : LdSt)
  | mma (op : MmaOp)
  | acc (op : AccOp)
  | cvt (op : CvtOp)
  | valu (op : ValuOp)
  | vred (op : VredOp)
  | vperm (op : VpermOp)
  | sync (target : SyncTarget)
deriving DecidableEq, Repr

/-- An engine: its operand and accumulator tiles, its vector registers (1,024 bits each), the SYNC it waits at, and the
instructions behind it in its in-order queue with their code offsets (R197). -/
structure Engine where
  idx : Nat
  operands : List OpTile
  accs : List AccTile
  vecs : List (Nat × Nat)
  wait : Option SyncTarget
  queue : List (Nat × EngineOp)
deriving DecidableEq, Repr

/-- The flags of Table 7-9 that arithmetic sets. -/
structure ComputeFlags where
  accLimit : Bool
  nonfinite : Bool
  saturated : Bool
deriving DecidableEq, Repr

/-- A core: its tile memory, its engines, the DMA transfers in flight in issue order, the work item it runs, the flags
and the fault (code and code offset) of that item. -/
structure Core where
  idx : Nat
  tile : List (Nat × Byte)
  engines : List Engine
  dma : List DmaOp
  item : Option Nat
  flags : ComputeFlags
  fault : Option (Nat × Nat)
deriving DecidableEq, Repr

/-- OPCODE of a compute descriptor. -/
inductive ComputeKind where
  | launch | kernelLoad | kernelUnload | modelLoad | modelUnload
deriving DecidableEq, Repr

/-- A queued compute descriptor. -/
structure ComputeEntry where
  kind : ComputeKind
  req : Requester
  desc : ComputeDesc
deriving DecidableEq, Repr

/-- A loaded kernel (R213): its handle, context, image digest and size, the fields of its header that rule launches, and
the model that it came with. -/
structure Kernel where
  handle : Nat
  ctx : Nat
  digest : Bytes
  classes : Nat
  codeBytes : Nat
  argBytes : Nat
  itemBudget : Nat
  model : Option Nat
deriving DecidableEq, Repr

/-- A launch in progress (R216, R217): its descriptor, the next item of each of its cores, how many items ended with and without a fault, the lowest faulted
item with its code, offset and sample, the flags, and the CORE cycles. -/
structure Launch where
  entry : ComputeEntry
  next : List (Nat × Nat)
  done : Nat
  faulted : Nat
  firstFault : Option (Nat × Nat × Nat × Nat)
  flags : ComputeFlags
  cycles : Nat
deriving DecidableEq, Repr

/-- A cluster's compute state: cluster SRAM, cores, kernels, the compute queue, the launch in progress, and whether it
has stopped starting items for a context switch (R219). -/
structure ClusterState where
  cluster : Nat
  sram : List (Nat × Byte)
  cores : List Core
  kernels : List Kernel
  queue : List ComputeEntry
  launch : Option Launch
  stopped : Bool
deriving DecidableEq, Repr

/-- A resident model (R220): its slot, context, cluster, image digest and size, CLASSES, and its memory. -/
structure Model where
  slot : Nat
  ctx : Nat
  cluster : Nat
  digest : Bytes
  bytes : Nat
  classes : Nat
  mem : Nat
deriving DecidableEq, Repr

/-- The prep compute: clusters, states saved for contexts not resident, models and die SRAM. -/
structure Compute where
  clusters : List ClusterState
  saved : List (Nat × ClusterState)
  models : List Model
  dieSram : List (Nat × List (Nat × Byte))
deriving DecidableEq, Repr

/-- An entry of a slash record (Table 7-14). -/
structure SlashEntry where
  sample : Nat
  reason : Nat
  filter : Nat
  slot : Nat
  score : Nat
  detail : Nat
deriving DecidableEq, Repr

/-- A signature of R224: the filter, the grading device it comes from (none: this one), its sample and the 64 bits. -/
structure Signature where
  filter : Nat
  device : Option Nat
  sample : Nat
  bits : Nat
deriving DecidableEq, Repr

/-- A grading pass in progress: the samples whose steps 1 and 2 are over, the entries of the partial slash record in
ascending SAMPLE_INDEX, the signatures, and the devices whose signatures have come. -/
structure Grade where
  graded : List Nat
  entries : List SlashEntry
  sigs : List Signature
  heard : List Nat
deriving DecidableEq, Repr

end Sys2Proof.Machine
end

