-- ==== Sys2Proof/Machine/TypesSched.lean ====
section
/-! DEFINITION. State of the schedule unit (R56 to R75), the ring count (R77 to R89) and the stand (R91 to R97). -/
namespace Sys2Proof.Machine

/-- A sample record (Table 2-2) with its place in the manifest's table. -/
structure SampleRec where
  place : Nat
  sampleIndex : Nat
  shardId : Nat
  shardOffset : Nat
  length : Nat
  mediaType : Nat
  tokensValid : Bool
  digest : Bytes
  tokenCount : Nat
  originIndex : Nat
deriving DecidableEq, Repr

/-- What the device holds of its manifest (R39): the digests, the sample records of the shards it stores, and the
whole ordinal table, and the origin entries (kind and locator). -/
structure Manifest where
  digest : Bytes
  gradingDigest : Bytes
  vocabDigest : Bytes
  graded : Bool
  sampleCount : Nat
  eligible : Nat
  ordinals : List Nat
  records : List SampleRec
  origins : List (Nat × Bytes)
deriving DecidableEq, Repr

/-- The epoch file header (Table 2-12). -/
structure SchedHeader where
  guarded : Bool
  test : Bool
  ungraded : Bool
  reproClass : Nat
  orphanPolicy : Nat
  tailPolicy : Nat
  packMode : Nat
  manifestDigest : Bytes
  gradingDigest : Bytes
  recipeSetDigest : Bytes
  seedCheck : Nat
  epoch : Nat
  steps : Nat
  epochRings : Nat
  stepPeriod : Nat
  firstLaunch : Nat
  deviceCount : Nat
  consumerCount : Nat
  seqLen : Nat
  itemsPerConsumer : Nat
  deckLead : Nat
  partnerSetSize : Nat
  headroomPct : Nat
  bufferSlots : Nat
  fitBins : Nat
  runId : Nat
  prevDigest : Bytes
  fileDigest : Bytes
deriving DecidableEq, Repr

/-- A fragment or takeover descriptor (Table 2-14). -/
structure Fragment where
  step : Nat
  consumer : Nat
  ringOffset : Nat
  grain : Nat
  takeoverEntry : Bool
  consumerOffset : Nat
  length : Nat
  extentCount : Nat
  recipeIndex : Nat
  pathMask : Nat
  firstExtent : Nat
  otherDevice : Nat
  takeoverRingOffset : Nat
  takeoverGrain : Nat
  partitionId : Nat
deriving DecidableEq, Repr

/-- An extent descriptor (Table 2-15). -/
structure Extent where
  position : Nat
  itemOffset : Nat
  length : Nat
  consumerOffset : Nat
  segment : Nat
deriving DecidableEq, Repr

/-- A placement entry (R58). -/
structure Placement where
  shardId : Nat
  owner : Nat
  partner : Nat
deriving DecidableEq, Repr

/-- A device section as a schedule slot holds it (Table 2-13), with the header it came under and whether it has
verified (R68). -/
structure Section where
  hdr : SchedHeader
  deviceSlot : Nat
  fragments : List Fragment
  takeovers : List Fragment
  extents : List Extent
  placements : List Placement
  subscribersUsed : Nat
  verified : Bool
deriving DecidableEq, Repr

/-- A replay journal record (Tables 2-22 and 2-23); the CRC and the padded length are functions of it. -/
structure JRecord where
  type : Nat
  byRef : Bool
  ring : Nat
  grain : Nat
  source : Nat
  sequence : Nat
  payload : Bytes
deriving DecidableEq, Repr

/-- One run's journal (R73, R74). -/
structure RunJournal where
  runId : Nat
  runStart : Nat
  incomplete : Bool
  records : List JRecord
deriving DecidableEq, Repr

/-- The schedule unit: the two slots, the epochs already past (their rings) and the shifts journaled, the manifest
held, the run's exclusions, the samples that preparation refused with the reason (R135), the recipe set held (its digest), the shards orphaned (R70), the sequence numbers that REPLAY has injected and the
records among them that programs read, the steps whose digest is formed, whether the run has stopped for good (R75, R517), the
ITEM_KIND and PLANES of the recipes held (R232), and the journals kept in tier 2. STATE is the dictionary's own entry. -/
structure Sched where
  active : Option Section
  next : Option Section
  pastRings : Nat
  shiftRings : Nat
  manifest : Option Manifest
  exclusions : List (Nat × Nat × Nat)
  refused : List (Nat × Nat)
  recipeSet : Option Bytes
  orphans : List Nat
  injected : List Nat
  replayed : List JRecord
  digested : List (Nat × Nat)
  halted : Bool
  recipes : List (Nat × Nat × Nat)
  jseq : Nat
  current : RunJournal
  kept : List RunJournal
  lateReported : Bool
deriving DecidableEq, Repr

/-- RC_STATE (Table 3-2). -/
inductive RcState where
  | unset | acquiring | locked | holdover | void
deriving DecidableEq, Repr

/-- The causes of Table 3-3. -/
inductive VoidCause where
  | pllUnlock | holdoverExpired | stepWithheld | clockOutlier | gmMismatch
deriving DecidableEq, Repr

/-- The ring count unit (R77 to R89): the count, the REFCLK cycles gone of the current ring and its length, the phase
accumulator, the servo, the causes of VOID still set (latest first), the runs of R85 and R89, the time since the last
valid Sync in REFCLK cycles (none before the first), the peers' answers of this ring, the uptime in cycles, and the
cycles left of a slew at the clamped rate with the rate that returns after it (R86). -/
structure RingCount where
  ring : Nat
  cyc : Nat
  len : Nat
  state : RcState
  acc : Int
  pending : Int
  rateCorr : Int
  baseCorr : Int
  integ : Int
  offsetNs : Int
  causes : List VoidCause
  okRun : Nat
  sinceSync : Option Nat
  holdRings : Nat
  outlierRun : Nat
  gmRun : Nat
  outlierClear : Nat
  gmClear : Nat
  median : Int
  peersUsed : Nat
  answers : List PeerAnswer
  gmIdentity : Nat
  upCycles : Nat
  slewTicks : Nat
  slewBack : Int
deriving DecidableEq, Repr

/-- STAND_STATE (Table 3-10). -/
inductive StandState where
  | none | forming | member | master | conflict
deriving DecidableEq, Repr

/-- A HELLO heard (R92). -/
structure Hello where
  standId : Nat
  uid : Nat
deriving DecidableEq, Repr

/-- A barrier as its master runs it (R95): who has arrived, who is armed, whether ARM was sent, and the ring of the
first ARRIVE. -/
structure Barrier where
  number : Nat
  arrived : List Nat
  armed : List Nat
  armSent : Bool
  firstRing : Nat
deriving DecidableEq, Repr

/-- Work of this device that waits at a barrier: its barrier and what it is (a fused frame of a group). -/
structure BarrierWork where
  barrier : Nat
  group : Nat
  frame : Nat
deriving DecidableEq, Repr

/-- The stand unit (R91 to R97). `armedBarrier` is this member's armed barrier with the term it was armed under;
`silentRings` counts the rings since each member's last heartbeat; `armHold` is the rings a new master still waits
before arming; `driving` says that this device may drive STAND_SYNC; `joined` holds, for a member admitted after the
formation, the first barrier in which it takes part (R528). -/
structure Stand where
  state : StandState
  hellos : List Hello
  windowOpenAt : Option Nat
  masterId : Nat
  term : Nat
  topTerm : Nat
  members : List Nat
  unhealthy : List Nat
  joined : List (Nat × Nat)
  silentRings : List (Nat × Nat)
  links : Nat
  barriers : List Barrier
  armedBarrier : Option (Nat × Nat)
  waiting : List BarrierWork
  nextBarrier : Nat
  armHold : Nat
  driving : Bool
deriving DecidableEq, Repr

end Sys2Proof.Machine
end

