-- ==== Sys2Proof/Machine/TypesDeck.lean ====
section
/-! DEFINITION. State of the deck and of the seasoned cache (R242 to R254). -/
namespace Sys2Proof.Machine

/-- The states of a deck entry (Table 8-7). -/
inductive DeckState where
  | preparing | ready | sent | retained
deriving DecidableEq, Repr

/-- A deck entry: its fragment, launch instant and attempt, the buffer that holds its bytes, how much of it draws on the
reserve, the immediate value of its flagged write, the writes not yet acknowledged, the ring of its retention end (R249), and
whether its first bytes were fetched; `renewed` says that an abort raised its attempt, so that it launches under R457. -/
structure DeckEntry where
  key : FragKey
  frag : Fragment
  state : DeckState
  ring : Nat
  grain : Nat
  attempt : Nat
  mem : Nat
  reserve : Nat
  immediate : Nat
  unacked : Nat
  retain : Nat
  prefetched : Bool
  renewed : Bool
deriving DecidableEq, Repr

/-- A takeover that Lookout has activated: its fragment with its launch instant and attempt, and whether it
serves an aborted pair anew (R457). -/
structure Takeover where
  key : FragKey
  frag : Fragment
  ring : Nat
  grain : Nat
  attempt : Nat
  renewed : Bool
deriving DecidableEq, Repr

/-- The key of a seasoned entry (R243). -/
structure SeasonKey where
  sample : Nat
  digest : Bytes
  recipeSet : Bytes
  recipe : Nat
  slot : Nat
  contentLevel : Nat
deriving DecidableEq, Repr

/-- A seasoned entry: the prefix output, decode flags and CONCEALED_FRACTION, the digest of these, its tier, stored size
and, in tier 0, its memory. -/
structure SeasonEntry where
  key : SeasonKey
  output : Bytes
  derived : Bool
  concealed : Nat
  digest : Bytes
  tier : Nat
  stored : Nat
  mem : Nat
deriving DecidableEq, Repr

/-- The deck: entries in the order in which they were begun, the fragments begun, those READY at least once, the
takeovers active, the consumers in alarm, the lowest level since RUN_START, the exclusions journaled, the lowest level
and late mark of the last ring boundary (Table 8-11), the seasoned entries, the items (sample and recipe) of seasoned
recipes that this run has prepared, the epoch of the last SEASON_FULL, and the fragments whose launch report was given
(R102). -/
structure Deck where
  entries : List DeckEntry
  begun : List FragKey
  done : List FragKey
  takeovers : List Takeover
  alarms : List Nat
  levelMin : Int
  anyLate : Bool
  season : List SeasonEntry
  seasonSeen : List (Nat × Nat)
  seasonFull : Option Nat
  reports : List FragKey
deriving DecidableEq, Repr

end Sys2Proof.Machine
end

