-- ==== Sys2Proof/Machine/TypesDecode.lean ====
section
/-! DEFINITION. State of the decode units (R108 to R129, R142). -/
namespace Sys2Proof.Machine

/-- The OPCODE of a decode descriptor. -/
inductive DecKind where
  | image | frame | encode | open_ | submit | close
deriving DecidableEq, Repr

/-- A queued descriptor with its requester. -/
structure DecEntry where
  kind : DecKind
  req : Requester
  desc : DecodeDesc
deriving DecidableEq, Repr

/-- A request queue of a cluster (0 image, 1 video, 2 frame): the descriptors of its resident context, and the requests
that its units run. -/
structure DecQueue where
  cluster : Nat
  cls : Nat
  entries : List DecEntry
  running : List (Nat × DecEntry)
deriving DecidableEq, Repr

/-- A decoded picture not yet put out. -/
structure HeldPicture where
  entry : DecEntry
  outcome : MediaOutcome
  decodeNo : Nat
deriving DecidableEq, Repr

/-- A video stream (R124): its handle, unit, owner, decoded picture buffer, context slot (none: WAITING), access units
queued, pictures held for output, counts, the STREAM_CLOSE that waits for its picture in progress, and for each sample whose
decode step has not ended the concealed and output luma samples of the pictures written for it (R137). -/
structure VStream where
  handle : Nat
  cluster : Nat
  owner : Nat
  dpb : Nat
  slot : Option Nat
  refused : Bool
  queue : List DecEntry
  held : List HeldPicture
  decoded : Nat
  written : Nat
  closing : Option DecEntry
  lumas : List (Nat × Nat × Nat)
deriving DecidableEq, Repr

/-- A video unit: the stream whose picture it decodes, and the slot and stream served last. -/
structure VideoUnit where
  cluster : Nat
  current : Option Nat
  lastSlot : Nat
  lastHandle : Nat
deriving DecidableEq, Repr

/-- The decode units: queues, saved queues of contexts not resident, streams in the order in which they were opened, and
video units. -/
structure Decoders where
  queues : List DecQueue
  saved : List (Nat × DecQueue)
  streams : List VStream
  units : List VideoUnit
deriving DecidableEq, Repr

end Sys2Proof.Machine
end

