-- ==== Sys2Proof/Machine/TypesIntake.lean ====
section
/-! DEFINITION. State of live intake (R146 to R163) and the intake catalogue. -/
namespace Sys2Proof.Machine

/-- A frame in an assembly slot (R148): its number, SOE_TAI, the bytes received by offset, its FRAME_END's generation,
the ring and receipt time of its last accepted packet, and its staging buffer. -/
structure AsmFrame where
  number : Nat
  soe : Nat
  got : List (Nat × Byte)
  ended : Option Nat
  lastRing : Nat
  lastRx : Nat
  staging : Nat
deriving DecidableEq, Repr

/-- The statistics block's values (Table 5-3). -/
structure FrameStats where
  flags : Nat
  settingsGen : Nat
  missing : Nat
  pixels : Nat
  saturated : Nat
  background : Nat
  histogram : List Nat
deriving DecidableEq, Repr

/-- A completed frame with its statistics and completion instant. -/
structure Frame where
  stream : Nat
  number : Nat
  soe : Nat
  data : Bytes
  bits : Nat
  completeRing : Nat
  completeGrain : Nat
  stats : FrameStats
  staging : Nat
deriving DecidableEq, Repr

/-- An accepted settings generation (R153, R154). -/
structure SettingsGen where
  gen : Nat
  effective : Nat
  bytes : Bytes
  sends : Nat
  acked : Bool
  reported : Bool
deriving DecidableEq, Repr

/-- A live stream: frames in assembly oldest first, the last 16 completed, the highest frame number seen, and the
settings accepted. -/
structure LiveStream where
  stream : Nat
  slots : List AsmFrame
  done : List Nat
  highest : Option Nat
  settings : List SettingsGen
deriving DecidableEq, Repr

/-- A layer of an open fused frame with its frame. -/
structure LayerFrame where
  layer : Nat
  frame : Frame
deriving DecidableEq, Repr

/-- What a decided layer carries: OUTCOME of Table 5-5, the frame stored for it, and HOLD_AGE. -/
structure Decided where
  layer : Nat
  stream : Nat
  outcome : Nat
  frame : Option Frame
  holdAge : Nat
deriving DecidableEq, Repr

/-- A fused frame of a group: its index and instant, the frames that joined it, and for a stand-spanning group once
decided its layers, the decision instant, the members that acknowledged its OUTCOME, the OUTCOMEs of other members, and
its barrier. -/
structure FusedFrame where
  index : Nat
  exposure : Nat
  layers : List LayerFrame
  decided : Option (List Decided)
  decidedRing : Nat
  decidedGrain : Nat
  acks : List Nat
  outcomes : List (Nat × List LayerOutcome)
  barrier : Option Nat
deriving DecidableEq, Repr

/-- A fusion group: its open fused frames, the instants of those stored or dropped with the layers that held a frame, the next
TRIGGERED index, the PRESENT frames of each layer with their index, latest first (R159), OUTCOMEs received for fused frames not yet open here (member, index),
and the layers each member has named. -/
structure FuseGroup where
  group : Nat
  open_ : List FusedFrame
  past : List (Nat × Nat × List Nat)
  nextIndex : Nat
  lastPresent : List (Nat × Nat × Frame)
  early : List (Nat × Nat × List LayerOutcome)
  known : List (Nat × List Nat)
deriving DecidableEq, Repr

/-- What waits to be stored: a frame alone, or a fused sample with its layers. -/
inductive StoreItem where
  | frame (f : Frame)
  | fused (group : Nat) (f : FusedFrame) (layers : List Decided) (part : Nat) (aborted : Bool) (barrier : Nat)
      (releaseRing releaseGrain : Nat)
deriving DecidableEq, Repr

/-- An entry of the intake catalogue: a stored sample with its media type, bytes, metadata, origin kind and the stream
or source it came from; for a sample of a shard, where it lies (SHARD_ID, SHARD_OFFSET, length; its bytes are the
shard's), and its DIGEST. -/
structure CatEntry where
  mediaType : Nat
  data : Bytes
  meta_ : Bytes
  originKind : Nat
  source : Nat
  place : Option (Nat × Nat × Nat)
  digest : Bytes
deriving DecidableEq, Repr

/-- Live intake: streams, groups, frames waiting to be stored in order, and the intake catalogue. -/
structure Intake where
  streams : List LiveStream
  groups : List FuseGroup
  toStore : List StoreItem
  catalogue : List CatEntry
deriving DecidableEq, Repr

end Sys2Proof.Machine
end

