-- ==== Sys2Proof/Machine/TypesLanding.lean ====
section
/-! DEFINITION. State of the Landing (R356 to R378): the NVMe controller, self-tests and push ports. -/
namespace Sys2Proof.Machine

/-- An entry of a completion queue: status code type, status code and Dword 0. -/
structure Completion where
  sq : Nat
  cid : Nat
  sct : Nat
  sc : Nat
  dw0 : Nat
deriving DecidableEq, Repr

/-- A submission queue. -/
structure NvmeSq where
  id : Nat
  cq : Nat
  size : Nat
deriving DecidableEq, Repr

/-- A completion queue: its vector (none: no interrupt), entries written and consumed, and completions that wait for a
free entry. -/
structure NvmeCq where
  id : Nat
  size : Nat
  vector : Option Nat
  tail : Nat
  head : Nat
  held : List Completion
deriving DecidableEq, Repr

/-- An outstanding command: whether it is dispatched (R367), and whether its completion is to be discarded (R368). -/
structure NvmeCmd where
  sq : Nat
  cid : Nat
  opcode : Nat
  nsid : Nat
  dispatched : Bool
  dropped : Bool
deriving DecidableEq, Repr

/-- A command whose completion waits for sectors to be on NAND and for records below a number to be committed (R363). -/
structure NvmeWait where
  sq : Nat
  cid : Nat
  sectors : List Nat
  mark : Nat
deriving DecidableEq, Repr

/-- A namespace's own attributes; its sectors are its volume's (R361). -/
structure Namespace where
  nsid : Nat
  lbaf : Nat
  attached : Bool
deriving DecidableEq, Repr

/-- A self-test in progress (1 short, 2 extended), and whether it is suspended. -/
structure SelfTest where
  kind : Nat
  suspended : Bool
deriving DecidableEq, Repr

/-- An entry of the Device Self-test log. -/
structure SelfTestResult where
  kind : Nat
  result : Nat
  segment : Nat
  lba : Option Nat
deriving DecidableEq, Repr

/-- The states of a push port (R373). -/
inductive PortState where
  | idle | inItem | draining
deriving DecidableEq, Repr

/-- A push port (R372 to R375, Table 12-13): the words of the partial item, the complete items that wait, the code of the
latest event, and the completion ring's registers; `sealing` is the shard that the item at the head seals. -/
structure PushPort where
  port : Nat
  state : PortState
  partial_ : List Nat
  items : List (List Nat)
  code : Nat
  discarded : Nat
  cqBase : Nat
  cqSize : Nat
  cqHead : Nat
  cqTail : Nat
  vector : Nat
  signalled : Bool
  sealing : Option Nat
deriving DecidableEq, Repr

/-- The Landing: the controller's queues, outstanding commands, waits, namespaces, features, asynchronous event requests
and events not yet told, the image downloaded, self-tests with the time when the last I/O command ended, push ports, and
the message queues of contexts. -/
structure Landing where
  sqs : List NvmeSq
  cqs : List NvmeCq
  cmds : List NvmeCmd
  waits : List NvmeWait
  spaces : List Namespace
  features : List (Nat × Nat)
  aers : List Nat
  events : List Nat
  image : List (Nat × Bytes)
  test : Option SelfTest
  results : List SelfTestResult
  ioIdleAt : Nat
  ports : List PushPort
  msgs : List (Nat × List Nat)
deriving DecidableEq, Repr

/-- A push port as reset and enabling leave it. -/
def PushPort.fresh (p : Nat) : PushPort := ⟨p, .idle, [], [], 0x3000, 0, 0, 16, 0, 0, 1025, false, none⟩

/-- The admin queue pair. -/
def NvmeSq.admin : NvmeSq := ⟨0, 0, 4096⟩
def NvmeCq.admin : NvmeCq := ⟨0, 4096, some 0, 0, 0, []⟩

/-- A Landing after a reset. -/
def Landing.empty : Landing :=
  { sqs := [NvmeSq.admin], cqs := [NvmeCq.admin], cmds := [], waits := [], spaces := [], features := [], aers := [],
    events := [], image := [], test := none, results := [], ioIdleAt := 0, ports := [], msgs := [] }

end Sys2Proof.Machine
end

