-- ==== Sys2Proof/Machine/TypesLookout.lean ====
section
/-! DEFINITION. State of Lookout (R440 to R488). -/
namespace Sys2Proof.Machine

/-- A device as the membership table holds it (MEMBER_QUERY): `slot` is 0xFFFF for a spare, `state` a code of Table 15-1
(0x09 SNAG keeps a revoked slot until coppice fills it), with the CAPSET_DIGEST recorded for the slot. -/
structure Member where
  slot : Nat
  uid : Nat
  gen : Nat
  state : Nat
  rack : Nat
  score : Nat
  capset : Bytes
deriving DecidableEq, Repr

/-- A peer (R443): whether a heartbeat of this ring was heard in time, how many rings in a row were missed, and the stamps
at which its last heartbeat on the data network was sent and received (units of 2^-16 ns, R450). -/
structure LkPeer where
  slot : Nat
  gen : Nat
  heard : Bool
  missed : Nat
  txStamp : Nat
  rxStamp : Nat
deriving DecidableEq, Repr

/-- A suspicion not yet decided: its subject, SUSPECT_RING, the ring of this council member's first probe, this member's
own vote (0 none, 1 ALIVE, 2 DEAD) and the voters heard. `heard` says that a council member under it was heard again in
HOLD_MEMBERSHIP, which unsuspects it for the count and the leader while the suspicion waits for its decision (R475). -/
structure Suspicion where
  slot : Nat
  gen : Nat
  ring : Nat
  probing : Option Nat
  vote : Nat
  alive : List Nat
  dead : List Nat
  heard : Bool
deriving DecidableEq, Repr

/-- The current attempt of a pair (R456); pairs not listed are at attempt 0. -/
structure PairAttempt where
  epoch : Nat
  step : Nat
  consumer : Nat
  attempt : Nat
deriving DecidableEq, Repr

/-- A pair of an ABORT: who serves REPLACED's fragment of it (0xFFFF: none, the pair is stopped), in which attempt, and from
which ring a relaunch may go (R457). -/
structure Served where
  epoch : Nat
  step : Nat
  consumer : Nat
  replaced : Nat
  server : Nat
  attempt : Nat
  floor : Nat
deriving DecidableEq, Repr

/-- A slot taken over by its takeover devices: from steps whose first launch instant is at or after `from_`, until those at
or after `until_` (R455, R462, R469). -/
structure Taken where
  slot : Nat
  gen : Nat
  from_ : Nat
  until_ : Option Nat
deriving DecidableEq, Repr

/-- A proposal that the council decides by ACCEPT votes (R466): the decision it proposes and who accepted. -/
structure Proposal where
  id : Nat
  dec : LkDecision
  accepts : List Nat
deriving DecidableEq, Repr

/-- A LATE report (R486). -/
structure LateReport where
  epoch : Nat
  step : Nat
  slot : Nat
  grains : Nat
deriving DecidableEq, Repr

/-- A shard to copy in coppice (R482): its source slot and its state (0 waiting, 1 in copy, 2 sealed). -/
structure CopyShard where
  shard : Nat
  source : Nat
  state : Nat
deriving DecidableEq, Repr

/-- The Lookout engine. `stopFrom` is the ring
from whose steps this device launches nothing (R452, R462, R463, R471), `resumeAt` the epoch and step from which a
SUSPECTED device launches again (R469); `hold` the first step held by DOMAIN_HOLD; `processed` holds the last 256 message
numbers of each sender, `partials` the frames of decisions not whole, `waiting` decisions that came out of order;
`silent` counts the rings in which no peer was heard (R453);
`tellIsolated` says that DECLARE ISOLATED is due; `asked` that a STATUS_QUERY is out; `snapshot` is the council state
taken from the leader; `lateOwn` holds the largest DECK_LATE delay of each step not yet reported, `joins` the CAPSET_DIGEST of
each JOIN heard, `resumeSaid` the ring of this device's DECLARE RESUME, `stopped` the pairs stopped from their step on (R474);
`demote` the SUSPECT members replaced in preemptive coppice (slot, generation, ring of their last retention end, R488),
`raised` are the UIDs for which DEVICE_SUSPECT was raised. -/
structure Lookout where
  members : List Member
  scores : List (Nat × Nat)
  revoked : List (Nat × Nat)
  fencedAnswered : List (Nat × Nat)
  nextGen : Nat
  peers : List LkPeer
  suspicions : List Suspicion
  recent : List Nat
  attempts : List PairAttempt
  served : List Served
  taken : List Taken
  stopFrom : Option Nat
  resumeAt : Option (Nat × Nat)
  hold : Option (Nat × Nat)
  proposals : List Proposal
  partials : List LkDecision
  waiting : List LkDecision
  processed : List (Nat × Nat × List Nat)
  msgSeq : Nat
  txCount : Nat
  silent : Nat
  tellIsolated : Bool
  asked : Bool
  joinAt : Nat
  late : List LateReport
  lateOwn : List (Nat × Nat × Nat)
  joins : List (Nat × Bytes)
  resumeSaid : Option Nat
  stopped : List (Nat × Nat × Nat)
  raised : List Nat
  coppice : List CopyShard
  demote : List (Nat × Nat × Nat)
  activeDigest : Bytes
  snapshot : Bytes
deriving DecidableEq, Repr

/-- Nothing joined; the first generation to assign is 1 (R441). -/
def Lookout.reset : Lookout :=
  { members := [], scores := [], revoked := [], fencedAnswered := [], nextGen := 1, peers := [], suspicions := [],
    recent := [], attempts := [], served := [], taken := [], stopFrom := none, resumeAt := none,
    hold := none, proposals := [], partials := [], waiting := [], processed := [], msgSeq := 0, txCount := 0, silent := 0,
    tellIsolated := false, asked := false, joinAt := 0, late := [], lateOwn := [], joins := [],
    resumeSaid := none, stopped := [], raised := [], coppice := [], demote := [],
    activeDigest := zeros 48, snapshot := [] }

end Sys2Proof.Machine
end

