-- ==== Sys2Proof/Machine/TypesMem.lean ====
section
/-! DEFINITION. State of the buffer pools (R309 to R322) and of the arbiters (R323). -/
namespace Sys2Proof.Machine

/-- An allocated buffer: its head block's metadata (Table 10-7) and its chain in order. `ctx` is none for a buffer of
firmware for no context. -/
structure Buf where
  head : Nat
  gen : Nat
  ctx : Option Nat
  owner : Nat
  chain : List Nat
  inFlight : Nat
deriving DecidableEq, Repr

/-- A request in a pool's wait queue (R315): the buffer it extends (none for an ALLOC), the owner and context of the
buffer to be, and the blocks wanted. -/
structure PoolWait where
  req : Requester
  extends_ : Option Nat
  owner : Nat
  ctx : Option Nat
  blocks : Nat
deriving DecidableEq, Repr

/-- A buffer pool (R312): its blocks, the first index never taken since reset, the freed blocks in the order in which
they are taken next (a stack, or rising for a bitmap), the blocks retired and poisoned, the buffers allocated, those
freed whose blocks have not yet returned, the wait queue and the requests that left it because their context is not
resident, the generation of each block, and what the blocks hold (under block * block size + offset). -/
structure Pool where
  blocks : Nat
  fresh : Nat
  freed : List Nat
  retired : List Nat
  poisoned : List Nat
  bufs : List Buf
  draining : List Buf
  waits : List PoolWait
  away : List PoolWait
  gens : List (Nat × Nat)
  mem : List (Nat × Byte)
deriving DecidableEq, Repr

/-- The pool with every block in service and free. -/
def Pool.ofBlocks (n : Nat) : Pool := ⟨n, 0, [], [], [], [], [], [], [], [], []⟩

/-- An arbiter (R323): the credits of its classes, the ordinary grants since the last reserved one, whether a reserved
grant is owed, and the classes that withdrew at their last grant, which keep their credit (R326). -/
structure Arbiter where
  kind : Nat
  inst : Nat
  credits : List (Nat × Int)
  grants : Nat
  reservedDue : Bool
  withdrew : List Nat
deriving DecidableEq, Repr

/-- The pools by number, and the arbiters that have run. -/
structure Memory where
  pools : List (Nat × Pool)
  arbs : List Arbiter
deriving DecidableEq, Repr

end Sys2Proof.Machine
end

