-- ==== Sys2Proof/Machine/TypesPower.lean ====
section
/-! DEFINITION. State of clocks, gates, supplies, heat, resets and start-up (R521 to R548, R590, R591). -/
namespace Sys2Proof.Machine

/-- The clock settings in effect (R525): what CLOCK_DIGEST covers. -/
structure ClockEffect where
  coreDiv : Nat
  fabricDiv : Nat
  sscDepth : Nat
  sscRate : Nat
  ddrSpeed : Nat
deriving DecidableEq, Repr

/-- Clocks, power, heat and start-up beyond the dictionary's entries: the clock settings in effect; the relock attempts
made since the loss of lock, the uptime at it and at the restart in progress; the admission fraction in 1/1,024 and the milliseconds over the cap
at the floor; each rail's run of excursions; the uptime until which a deck alarm holds COOLING_REQUEST at 100; whether
a hold-up flush runs, the prep dies and data lanes are stopped (R542), the clocks are stopped (R540, R591), the
outputs are high impedance and THERM_TRIP_N is driven low (R591); the pins as last taken (R590); the power summed over
the current 10 ms window (R510); whether the root PLL locks at start-up, and what memory training
will find (R302): the bytes of tier 1 and its DIMMs per channel, or nothing; the microjoules beyond the last whole Wh and the uptime seconds already in the
heartwood record (R576). -/
structure Power where
  effect : ClockEffect
  attempts : Nat
  lossAt : Option Nat
  attemptAt : Option Nat
  admission : Nat
  overCap : Nat
  excursions : List (Nat × Nat)
  coolingUntil : Option Nat
  flushing : Bool
  lossStopped : Bool
  clocksStopped : Bool
  outputsOff : Bool
  thermTripLow : Bool
  perstLow : Bool
  pwrFailLow : Bool
  testEnPin : Bool
  strapPins : Nat
  inReset : Bool
  windowSum : Nat
  windowCount : Nat
  windowWhole : Bool
  pllLocks : Bool
  memory : Option (Nat × Nat)
  startAt : Nat
  fineGated : List Nat
  energyUj : Nat
  secSeen : Nat
deriving DecidableEq, Repr

end Sys2Proof.Machine
end

