-- ==== Sys2Proof/Machine/TypesSec.lean ====
section
/-! DEFINITION. State of contexts, measurement and boot (R492 to R517), and of clocks, power, heat and start-up
(R521 to R548). -/
namespace Sys2Proof.Machine

/-- STATE of a context (Table 16-7). -/
inductive CtxState where
  | undefined | defined | destroying
deriving DecidableEq, Repr

/-- A context beyond its dictionary entries: the three measurement registers (R504), and whether context 0 is in the course of
R493, leaving its clusters before its new program is measured. -/
structure Ctx where
  state : CtxState
  renew : Bool
  program : Bytes
  models : Bytes
  text : Bytes
deriving DecidableEq, Repr

/-- A cluster's residency (R496, R498, R500): the resident context, since when its slice runs (REFCLK cycles of uptime), and
whether the scrub failed. -/
structure Cluster where
  resident : Option Nat
  since : Nat
  faulted : Bool
deriving DecidableEq, Repr

/-- A measurement log entry (R505). -/
structure MeasEntry where
  seq : Nat
  kind : Nat
  context : Nat
  ring : Nat
  digest : Bytes
deriving DecidableEq, Repr

/-- Contexts, clusters and the measurement log. -/
structure Security where
  ctxs : List (Nat × Ctx)
  clusters : List (Nat × Cluster)
  meas : List MeasEntry
  measSeq : Nat
  logIncomplete : Bool
  testEn : Bool
  testSince : Bool
deriving DecidableEq, Repr

end Sys2Proof.Machine
end

