-- ==== Sys2Proof/Machine/TypesToken.lean ====
section
/-! DEFINITION. State of the token units: queues, vocabularies, grammars and rollout streams (R166 to R190). -/
namespace Sys2Proof.Machine

/-- Which operation a token descriptor asks for (OPCODE of Table 6-1). -/
inductive TokKind where
  | tokenize | detokenize | vocabLoad | grammarLoad | grammarCheck | rolloutOpen | rolloutClose
deriving DecidableEq, Repr

/-- A queued token descriptor with who submitted it. -/
structure TokEntry where
  kind : TokKind
  req : Requester
  desc : TokenDesc
deriving DecidableEq, Repr

/-- A cluster's token queue: the descriptors waiting, and those that went to a unit, first come first (the first of a
unit runs, later ones wait there, R167). -/
structure TokQueue where
  cluster : Nat
  entries : List TokEntry
  running : List (Nat × TokEntry)
deriving DecidableEq, Repr

/-- A vocabulary of a context for one token unit (R171): the image, the buffer of its WORK_L copy, and whether the unit
holds it while the context is resident (R498). -/
structure UnitVocab where
  cluster : Nat
  unit : Nat
  ctx : Nat
  image : Bytes
  copy : Nat
  held : Bool
deriving DecidableEq, Repr

/-- A loaded grammar (R187). -/
structure Grammar where
  cluster : Nat
  ctx : Nat
  handle : Nat
  image : Bytes
deriving DecidableEq, Repr

/-- An accepted chunk of a rollout (R184). -/
structure Chunk where
  seq : Nat
  ids : List Nat
  last : Bool
deriving DecidableEq, Repr

/-- A rollout in progress (R185): its accepted chunks in ascending SEQ, PROMPT_TOKENS, the ring of the last accepted
chunk, and whether a chunk of it was dropped. -/
structure Rollout where
  id : Nat
  chunks : List Chunk
  prompt : Nat
  lastRing : Nat
  dropped : Bool
deriving DecidableEq, Repr

/-- An open rollout stream (R182 to R186): the open's descriptor fields that rule it, the notifications queued, the slots
not yet freed, the rollouts in progress in the order of their start, and the last 64 completed. -/
structure RolloutStream where
  handle : Nat
  entry : TokEntry
  unit : Nat
  slots : Nat
  stopSet : Nat
  grammar : Nat
  notes : List Nat
  unfreed : List Nat
  rollouts : List Rollout
  done : List Nat
deriving DecidableEq, Repr

/-- The token units of the device; `saved` holds the queues of contexts that are not resident. -/
structure Tokens where
  queues : List TokQueue
  saved : List (Nat × TokQueue)
  vocabs : List UnitVocab
  grammars : List Grammar
  streams : List RolloutStream
deriving DecidableEq, Repr

end Sys2Proof.Machine
end

