-- ==== Sys2Proof/Machine/TypesYard.lean ====
section
/-! DEFINITION. State of the Yard (R259 to R298): bolts and what their cells hold, the maps, the write buffer, shards, the
media journal, checkpoints and anchors. -/
namespace Sys2Proof.Machine

/-- The states of a bolt (Table 9-3). -/
inductive BoltState where
  | freeUnknown | erased | openData | fullData | openLog | fullLog | released | system | retired
deriving DecidableEq, Repr

/-- What a bolt was opened for (BOLT_OPEN of Table 9-10). -/
inductive Purpose where
  | data | log | fold | system
deriving DecidableEq, Repr

/-- A valid copy of a blaze page (Table 9-4). -/
structure Blaze where
  timeUnset : Bool
  count : Nat
  plane : Nat
  ring : Nat
  tai : Nat
  uid : Nat
  intent : Nat
  blankZeros : Nat
deriving DecidableEq, Repr

/-- A sector as its codeword holds it (R262, Table 9-2): `kind` is 1 DATA, 2 LOG, 3 ZERO, 4 SYSTEM, 5 PAD. -/
structure StoredSector where
  kind : Nat
  lsa : Nat
  yseq : Nat
  data : Bytes
  tuple : PiTuple
deriving DecidableEq, Repr

/-- A bolt: its entry of the bolt table, the mark for refresh, the number of the record that opened it, the next sector
to take, and what its cells hold: the blaze copies that are valid, and the sectors programmed, from sector 0. -/
structure Bolt where
  idx : Nat
  state : BoltState
  count : Nat
  faults : Nat
  lbn : Nat
  fold : Bool
  refresh : Bool
  openedAt : Nat
  place : Nat
  blaze : List Blaze
  cells : List StoredSector
deriving DecidableEq, Repr

/-- A sector in the write buffer; `at_` is none while no log bolt can be opened for it (R274). -/
structure WbSector where
  at_ : Option (Nat × Nat)
  sector : StoredSector
deriving DecidableEq, Repr

/-- An entry of the logical bolt map (R272). -/
structure LbnEntry where
  lbn : Nat
  bolt : Nat
  written : Nat
deriving DecidableEq, Repr

/-- An entry of the log map (R272): ZERO, or the number with which the sector was accepted and where it lies. -/
structure LogEnt where
  lsa : Nat
  yseq : Nat
  zero : Bool
deriving DecidableEq, Repr

/-- A namespace or system volume: kind 1 namespace, 3 system. -/
structure YVolume where
  kind : Nat
  id : Nat
  first : Nat
  count : Nat
  sectors : Nat
deriving DecidableEq, Repr

/-- A shard table entry (Table 9-6), with the directory of a COMPRESSED shard (R352: raw offset, stored offset, stored
length), its raw length, the bytes past its last whole sector, and the context whose port opened it. -/
structure Shard where
  id : Nat
  owner_ : Bool
  state : Nat
  compressed : Bool
  owner : Nat
  partner : Nat
  first : Nat
  bytes : Nat
  created : Nat
  digest : Bytes
  dir : List (Nat × Nat × Nat)
  raw : Nat
  tail : Bytes
  ctx : Option Nat
deriving DecidableEq, Repr

/-- An owner's wait for SEALED (R279): since when, and the partners tried in this round. -/
structure SealWait where
  shard : Nat
  since : Nat
  tried : List Nat
deriving DecidableEq, Repr

/-- A media journal record (Table 9-10). -/
inductive YRec where
  | eraseIntent (bolt count : Nat)
  | boltErased (bolt count : Nat)
  | retire (bolt cause : Nat)
  | boltOpen (bolt : Nat) (purpose : Purpose) (lbn : Nat)
  | boltFull (bolt : Nat)
  | mapUpdate (lbn new : Nat) (old : Option Nat) (bound : Nat)
  | release (bolt : Nat)
  | discardRange (lsa count : Nat)
  | discardBolt (lbn : Nat)
  | shardCreate (shard : Shard)
  | shardState (shard : Shard)
  | shardDelete (id : Nat)
  | volume (v : YVolume) (created : Bool)
  | tagRewrite (lsa old new : Nat)
  | dataRepair (shard offset length : Nat)
  | checkpointDone (slot seq : Nat)
  | powerLoss (sectors : Nat)
  | cleanShutdown
deriving DecidableEq, Repr

/-- A record with its YSEQ. -/
structure YEntry where
  yseq : Nat
  rec_ : YRec
deriving DecidableEq, Repr

/-- A committed page of the media journal (Table 9-9). -/
structure JPage where
  seq : Nat
  recs : List YEntry
deriving DecidableEq, Repr

/-- A pair of bolts of the journal stream and its first page. -/
structure JPair where
  a : Nat
  b : Nat
  first : Nat
deriving DecidableEq, Repr

/-- A checkpoint (R295, Table 11): the maps as of its CKPT_SEQ, the state section, and its chain of bolts. -/
structure Ckpt where
  seq : Nat
  bolts : List Bolt
  lbns : List LbnEntry
  logs : List LogEnt
  volumes : List YVolume
  shards : List Shard
  cruiseBolt : Nat
  cruisePasses : Nat
  counters : List Nat
  chain : List Nat
deriving DecidableEq, Repr

/-- The current anchor record (Table 9-8). -/
structure Anchor where
  seq : Nat
  uid : Nat
  formatId : Nat
  formatTai : Nat
  geometryCrc : Nat
  slot : Nat
  seqA : Nat
  seqB : Nat
  journalPage : Nat
  userBytes : Nat
  logBolts : Nat
deriving DecidableEq, Repr

/-- A fold in progress (R274): the victim (none: a bolt relocated as in a fold), the bound f, the LBNs still to fold, and
the LBN whose new bolt is written and not yet mapped. -/
structure Fold where
  victim : Nat
  bound : Nat
  lbns : List Nat
  new : Option (Nat × Nat)
deriving DecidableEq, Repr

/-- An erase in progress (R265, Table 9-5): the bolt, its new count, the number of its intent, how often it was suspended,
and the reads that wait for its end. -/
structure EraseRun where
  bolt : Nat
  count : Nat
  intent : Nat
  suspended : Nat
  waiting : List (VolumeRef × Nat × SectorRead)
deriving DecidableEq, Repr

/-- A partner read in progress: the range, and how many reads it serves. -/
structure PartnerFetch where
  shard : Nat
  offset : Nat
  length : Nat
  served : Nat
deriving DecidableEq, Repr

/-- The Yard: the LUNs found and those in service; bolts by index; the write buffer; the maps; volumes and shards; the
next YSEQ; the media journal, staged and committed; the two checkpoint slots (A, B) and the one being written; anchors;
the place of the round-robin of R276; folds and erases in progress; partner reads; the checks that cruise asked for
(R291); cruise's place; the spare-bolt crossing; LOG_BOLTS in effect. -/
structure Yard where
  reports : List LunReport
  luns : List (Nat × Nat)
  bolts : List Bolt
  wb : List WbSector
  lbns : List LbnEntry
  logs : List LogEnt
  volumes : List YVolume
  shards : List Shard
  waits : List SealWait
  yseq : Nat
  staged : List YEntry
  pages : List JPage
  pageSeq : Nat
  pairs : List JPair
  pairUsed : Nat
  sinceCkpt : Nat
  slotA : Option Ckpt
  slotB : Option Ckpt
  writing : Option (Nat × Ckpt)
  anchorBolts : List Nat
  anchorPages : Nat
  anchor : Option Anchor
  turn : Nat
  fold : Option Fold
  erases : List EraseRun
  fetches : List PartnerFetch
  checks : List (Nat × Nat × Nat)
  cruiseWordline : Nat
  cruiseDone : Nat
  cruiseSince : Nat
  belowLow : Bool
  logBolts : Nat
deriving DecidableEq, Repr

/-- A Yard with no media. -/
def Yard.empty : Yard :=
  { reports := [], luns := [], bolts := [], wb := [], lbns := [], logs := [], volumes := [], shards := [], waits := [],
    yseq := 0, staged := [], pages := [], pageSeq := 0, pairs := [], pairUsed := 0, sinceCkpt := 0, slotA := none,
    slotB := none, writing := none, anchorBolts := [], anchorPages := 0, anchor := none, turn := 0, fold := none,
    erases := [], fetches := [], checks := [], cruiseWordline := 0, cruiseDone := 0, cruiseSince := 0, belowLow := false,
    logBolts := 256 }

end Sys2Proof.Machine
end

