-- ==== Sys2Proof/Machine/State.lean ====
section
/-! DEFINITION. The machine's state as plain data, the reasons a step can stop, and the state right after reset. -/
namespace Sys2Proof.Machine

/-- Why a run stops with a fault. -/
inductive Fault where
  /-- Kept so that the type is inhabited: no meaning raises it, since every command of the table has an effect or is
  answered by the device (a refusal by the device is a next state). Safe. -/
  | unreachable
deriving DecidableEq, Repr

/-- Why a step is refused. -/
inductive Refusal where
  /-- The command has no meaning in this model yet; raised by the arms of `exec` alone. Safe. -/
  | notModelled (mnemonic : String)
deriving DecidableEq, Repr

/-- The state of one Folwen. `pending` is the queue of commands waiting, first in first out; `out` what it has sent,
in order; `status` the status code with which the last command ended (0 where the command has none); `freeCtr` counts
the free values drawn (the model's own field). -/
structure State where
  dev : Device
  od : OdFile
  log : ErrorLog
  mgmt : Mgmt
  nv : NonVolatile
  sched : Sched
  rc : RingCount
  stand : Stand
  sec : Security
  pwr : Power
  mem : Memory
  chips : List ChipPipe
  dec : Decoders
  intake : Intake
  tok : Tokens
  comp : Compute
  grade : Grade
  deck : Deck
  yard : Yard
  lookout : Lookout
  landing : Landing
  skd : Skidder
  out : List Out
  status : Nat
  freeCtr : Nat
  pending : List Instr
deriving DecidableEq, Repr

/-- The default journal: no run. -/
def RunJournal.empty : RunJournal := ⟨0, 0, false, []⟩

/-- What manufacture fixed, as the model names it: the SKF-9200 with zero identity (log entry 3). -/
def Device.reset : Device :=
  { variant := .skf9200, serial := [], stepping := [], uid := 0, romDigest := zeros 48, cert := [], secret := zeros 32,
    rootKeyHash := zeros 48, macA := 0, macB := 0 }

def Settings.empty : Settings := ⟨[], [], []⟩

def HwCopy.none : HwCopy := ⟨0, 0, false, []⟩

/-- What no reset clears, as it left the factory: a trusted image with SVN 0 in slot 1, nothing in slot 2. -/
def NonVolatile.reset : NonVolatile :=
  { fuseSvn := 0, slot1 := ⟨0, zeros 48, true, true⟩, slot2 := ⟨0, zeros 48, false, false⟩, boot := Settings.empty,
    yard := Settings.empty, sealCounter := 0, sealedOk := true, hwA := HwCopy.none, hwB := HwCopy.none,
    hwMirror := HwCopy.none, log := ⟨0, 0, []⟩ }

def Mailbox.reset : Mailbox := ⟨false, false, false, false, 1025, 0, 0, zeros 2032, 0, []⟩

def Mgmt.reset : Mgmt :=
  { sessions := [], challenges := [], nextSession := 1, mbox := Mailbox.reset, smb := ⟨0, 0, 0, 0, 30⟩,
    heldAnswers := [], calLoadedTai := 0, calLoadedAt := 0, everLocked := false, lockedSinceReset := false,
    calBase := 0, calBaseAt := 0, hwLoaded := false, hwAt := 0, calDone := false, seen := [], tenantSeen := [] }

def Sched.reset : Sched :=
  { active := none, next := none, pastRings := 0, shiftRings := 0, manifest := none, exclusions := [], refused := [], recipeSet := none,
    orphans := [], injected := [],
    replayed := [], digested := [], halted := false, recipes := [], jseq := 0, current := RunJournal.empty, kept := [], lateReported := false }

/-- R78: the ring count reads 0, the grain counter runs, RC_STATE is UNSET. -/
def RingCount.reset : RingCount :=
  { ring := 0, cyc := 0, len := 1024, state := .unset, acc := 0, pending := 0, rateCorr := 0, baseCorr := 0, integ := 0,
    offsetNs := 0, causes := [], okRun := 0, sinceSync := none, holdRings := 0, outlierRun := 0, gmRun := 0,
    outlierClear := 0, gmClear := 0, median := 0, peersUsed := 0, answers := [], gmIdentity := 0, upCycles := 0, slewTicks := 0,
    slewBack := 0 }

def Stand.reset : Stand :=
  { state := .none, hellos := [], windowOpenAt := none, masterId := 0xFF, term := 0, topTerm := 0, members := [],
    unhealthy := [], joined := [], silentRings := [], links := 0, barriers := [], armedBarrier := none, waiting := [],
    nextBarrier := 0, armHold := 0, driving := false }

/-- The SHA-384 of the empty program. -/
def emptyProgramDigest : Bytes := sha384 []

/-- One extension of a measurement register (R504). -/
def extendReg (m : Bytes) (kind : Nat) (digest : Bytes) : Bytes := sha384 (m ++ leBytes 2 kind ++ digest)

def Ctx.undefined : Ctx := ⟨.undefined, false, zeros 48, zeros 48, zeros 48⟩

/-- R492: context 0 is defined at every start-up, its PROGRAM register extended with the empty program. -/
def Ctx.zero : Ctx := ⟨.defined, false, extendReg (zeros 48) 1 emptyProgramDigest, zeros 48, zeros 48⟩

def Cluster.free : Cluster := ⟨none, 0, false⟩

def Security.reset : Security :=
  { ctxs := [(0, Ctx.zero)], clusters := [], meas := [⟨1, 1, 0, 0, emptyProgramDigest⟩], measSeq := 1,
    logIncomplete := false, testEn := false, testSince := false }

def Power.reset : Power :=
  { effect := ⟨3, 4, 0, 31500, 6400⟩, attempts := 0, lossAt := none, attemptAt := none, admission := 1024, overCap := 0, excursions := [],
    coolingUntil := none, flushing := false, lossStopped := false, clocksStopped := false, outputsOff := false,
    thermTripLow := false, perstLow := true, pwrFailLow := false, testEnPin := false, strapPins := 0, inReset := true,
    windowSum := 0, windowCount := 0, windowWhole := false, pllLocks := false, memory := none, startAt := 0, fineGated := [],
    energyUj := 0, secSeen := 0 }

/-- The machine right after reset (R13, R78, R492, Table 17-8). -/
def State.reset : State :=
  { dev := Device.reset
    od := ⟨[(Reg.start.lastReset, 1), (Reg.attest.measSeq, 1), (Reg.attest.logEntries, 1), (Reg.seed.seedCheck, seedCheck 0 0)], [], []⟩
    log := ⟨[], 0, 0, false⟩
    mgmt := Mgmt.reset
    nv := NonVolatile.reset
    sched := Sched.reset
    rc := RingCount.reset
    stand := Stand.reset
    sec := Security.reset
    pwr := Power.reset
    mem := ⟨[], []⟩
    chips := []
    dec := ⟨[], [], [], []⟩
    intake := ⟨[], [], [], []⟩
    tok := ⟨[], [], [], [], []⟩
    comp := ⟨[], [], [], []⟩
    grade := ⟨[], [], [], []⟩
    deck := ⟨[], [], [], [], [], 0x7FFFFFFF, false, [], [], none, []⟩
    yard := Yard.empty
    lookout := Lookout.reset
    landing := Landing.empty
    skd := Skidder.reset
    out := []
    status := 0
    freeCtr := 0
    pending := [] }

end Sys2Proof.Machine
end

