-- ==== Sys2Proof/Machine/Flags.lean ====
section
/-! DEFINITION. Codes and flags: the subsystem of an index and its RANGE code (R14, Table 18-2), the severities of
Table 18-10, the FLAGS word of a log entry (Table 18-11), and the codes of the state enumerations. -/
namespace Sys2Proof.Machine

/-- The subsystem byte of an index: the high byte of the first index of its range (Table 18-2). -/
def subsystemOf (idx : Nat) : Nat :=
  let h := idx / 256
  if h = 0x10 ∨ h = 0x11 ∨ h = 0x12 ∨ h = 0x13 ∨ h = 0x20 ∨ h = 0x21 then h
  else if h = 0x22 ∨ h = 0x23 then 0x22
  else if 0x5400 ≤ idx ∧ idx < 0x5500 then 0x54
  else h / 2 * 2

/-- The RANGE code with which a subsystem refuses a value outside a stated range (R14 and the chapters' tables). -/
def rangeCode (idx : Nat) : Nat :=
  match subsystemOf idx with
  | 0x11 => 0x1117 | 0x12 => 0x1211 | 0x13 => 0x1311 | 0x20 => 0x2010 | 0x21 => 0x2111 | 0x22 => 0x2214
  | 0x24 => 0x2414 | 0x26 => 0x2614 | 0x30 => 0x3013 | 0x32 => 0x3217 | 0x34 => 0x3416 | 0x36 => 0x3613
  | 0x40 => 0x4016 | 0x42 => 0x4212 | 0x44 => 0x4417 | 0x46 => 0x4618 | 0x48 => 0x4811 | 0x4A => 0x4A18
  | 0x50 => 0x5017 | 0x52 => 0x5211 | 0x54 => 0x5411
  | b => b * 256 + 2

/-- OK, DENIED and ABSENT_UNIT of the subsystem that owns an index (Table 18-3). -/
def okCode (idx : Nat) : Nat := subsystemOf idx * 256
def deniedCode (idx : Nat) : Nat := subsystemOf idx * 256 + 2
def absentCode (idx : Nat) : Nat := subsystemOf idx * 256 + 3

/-- Whether a code is a success: its low byte is OK. -/
def isOk (code : Nat) : Bool := code % 256 == 0

/-- The severity of a log code (Table 18-10; ERROR where the table does not list it): 0 INFO, 1 WARNING, 2 ERROR,
3 CRITICAL. -/
def severityOf (code : Nat) : Nat :=
  match code with
  | 0x1280 | 0x2082 | 0x2680 => 3
  | 0x1380 | 0x1381 | 0x2011 | 0x2013 | 0x2080 | 0x2413 | 0x2480 | 0x3280 | 0x3282 | 0x3283 | 0x3284 | 0x3285
  | 0x4080 | 0x4280 | 0x4281 | 0x4880 | 0x4881 | 0x4A14 | 0x5080 | 0x5280 => 1
  | 0x4082 | 0x4480 => 0
  | _ => 2

/-- The FLAGS word of a log entry (Table 18-11). -/
def LogEntry.flags (e : LogEntry) : Nat :=
  e.event.toNat + 2 * e.storm.toNat + 4 * e.coalesced.toNat + 8 * e.overHalf.toNat + 16 * e.timeEstimated.toNat +
    32 * e.previousBoot.toNat + 64 * e.update.toNat

/-- The 64 bytes of a log entry (Table 18-11). -/
def LogEntry.encode (e : LogEntry) : Bytes :=
  leBytes 4 e.seq ++ leBytes 2 e.source ++ leBytes 2 e.code ++ leBytes 2 e.flags ++ leBytes 1 e.severity ++
    leBytes 1 e.context ++ leBytes 4 e.count ++ leBytes 8 e.firstTai ++ leBytes 8 e.firstRing ++ leBytes 8 e.lastTai ++
    (e.firstDetail ++ zeros 16).take 16 ++ (e.lastDetail ++ zeros 8).take 8

/-- RC_STATE's code (Table 3-2). -/
def RcState.code : RcState → Nat
  | .unset => 0 | .acquiring => 1 | .locked => 2 | .holdover => 3 | .void => 4

/-- VOID_CAUSE's code (Table 3-3). -/
def VoidCause.code : VoidCause → Nat
  | .pllUnlock => 1 | .holdoverExpired => 2 | .stepWithheld => 3 | .clockOutlier => 4 | .gmMismatch => 5

/-- STAND_STATE's code (Table 3-10). -/
def StandState.code : StandState → Nat
  | .none => 0 | .forming => 1 | .member => 2 | .master => 3 | .conflict => 4

/-- STATE of a context (Table 16-7). -/
def CtxState.code : CtxState → Nat
  | .undefined => 0 | .defined => 1 | .destroying => 2

/-- STATE of the schedule unit (0x4A00:01). -/
def schedEmpty : Nat := 0
def schedLoaded : Nat := 1
def schedArmed : Nat := 2
def schedRunning : Nat := 3
def schedHold : Nat := 4
def schedReplay : Nat := 5

end Sys2Proof.Machine
end

