-- ==== Sys2Proof/Machine/Ops.lean ====
section
/-! DEFINITION. The operations over State that every command's meaning is written with: the register files of the
dictionary, what is sent, free values, time, the replay journal and the error log. -/
namespace Sys2Proof.Machine

/-! ### Running a command -/

/-- The device does nothing: it is held in reset (Table 17-8), or every clock has stopped until a reset (R540, R591). -/
def State.stopped (s : State) : Bool := s.pwr.clocksStopped || s.pwr.inReset

/-- A command takes effect on a device that is not stopped. -/
def act (s : State) (f : State → State) : Host.Outcome State Fault Refusal :=
  .next (if s.stopped then s else f s)

/-- A command of the prep dies, the data lanes or the stand ring: after PWR_FAIL_N has stopped them (R542) it does nothing. -/
def live (s : State) (f : State → State) : Host.Outcome State Fault Refusal :=
  act s fun s => if s.pwr.lossStopped then s else f s

/-! ### The dictionary's registers -/

/-- What numeric entry `k` holds. -/
def State.num (s : State) (k : Nat) : Nat := Sparse.get (odDflt s.dev.variant) s.od.nums k

/-- What byte-string entry `k` holds. -/
def State.blob (s : State) (k : Nat) : Bytes := Sparse.get (odDfltBytes s.dev.variant) s.od.blobs k

/-- The changes of entry `k` (R602). -/
def State.ver (s : State) (k : Nat) : Nat := Sparse.get (fun _ => 0) s.od.vers k

/-- One more change of entry `k`, modulo 2^32 (R602). -/
def State.touch (s : State) (k : Nat) : State :=
  { s with od := { s.od with vers := Sparse.set (fun _ => 0) s.od.vers k (wrap 32 (s.ver k + 1)) } }

/-- Entry `k` holds `v`; a change of its value counts in its VERSION. -/
def State.setN (s : State) (k v : Nat) : State :=
  let t := if s.num k = v then s else s.touch k
  { t with od := { t.od with nums := Sparse.set (odDflt s.dev.variant) s.od.nums k v } }

/-- Byte-string entry `k` holds `v`. -/
def State.setB (s : State) (k : Nat) (v : Bytes) : State :=
  let t := if s.blob k = v then s else s.touch k
  { t with od := { t.od with blobs := Sparse.set (odDfltBytes s.dev.variant) s.od.blobs k v } }

/-- `n` more on a U64 counter. -/
def State.add (s : State) (k n : Nat) : State := s.setN k (wrap 64 (s.num k + n))

/-- One more on a U64 counter. -/
def State.bump (s : State) (k : Nat) : State := s.add k 1

/-- One more on a U32 counter. -/
def State.bump32 (s : State) (k : Nat) : State := s.setN k (wrap 32 (s.num k + 1))

/-- One more on a U64 counter where `b` holds. -/
def State.bumpIf (s : State) (b : Bool) (k : Nat) : State := if b then s.bump k else s

/-- Whether a BOOL entry holds true. -/
def State.flag (s : State) (k : Nat) : Bool := s.num k != 0

/-! ### What is sent, statuses and free values -/

/-- Sends one thing more. -/
def State.emit (s : State) (o : Out) : State := { s with out := s.out ++ [o] }

/-- A decode or token request of a context completes: its record is sent, and counted in UNIT_REQUESTS_Q (Table 16-7). -/
def State.result (s : State) (ctx : Nat) (o : Out) : State :=
  (s.emit o).bumpIf (decide (ctx < 64)) (Reg.ctx.unitRequestsQ ctx)

/-- Sends several things, in order. -/
def State.emits (s : State) (l : List Out) : State := { s with out := s.out ++ l }

/-- The command ends with a status code. -/
def State.ends (s : State) (code : Nat) : State := { s with status := code }

/-- A free value: what the spec says results but does not state. -/
def State.freeVal (s : State) : Nat := Config.free s.freeCtr

/-- The state after a free value was drawn. -/
def State.drawn (s : State) : State := { s with freeCtr := s.freeCtr + 1 }

/-- Sets a bit of SMB_ALERT_STATUS (R567, Table 18-9). -/
def State.alert (s : State) (bit : Nat) : State :=
  s.setN Reg.smb.smbAlertStatus (setBit (s.num Reg.smb.smbAlertStatus) bit)

/-- SMBALERT# is asserted while SMB_ALERT_STATUS AND SMB_ALERT_MASK is nonzero (R567). -/
def State.alertAsserted (s : State) : Bool :=
  s.num Reg.smb.smbAlertStatus &&& s.num Reg.smb.smbAlertMask != 0

/-! ### Time -/

/-- The current grain: a long ring's last grain lasts two cycles, a short ring's last two share one (R79). -/
def State.grain (s : State) : Nat := min s.rc.cyc 1023

/-- TAI_NOW (R77). -/
def State.taiNow (s : State) : Nat := s.rc.ring * 10240 + 10 * s.grain

/-- Uptime in REFCLK cycles of 10 ns. -/
def State.now (s : State) : Nat := s.rc.upCycles

/-- CAL_STATE (R579): 0 NEVER, 1 ESTIMATED, 2 LOCKED. -/
def State.calState (s : State) : Nat :=
  if s.mgmt.lockedSinceReset then 2 else if s.mgmt.everLocked then 1 else 0

/-- CALENDAR_TAI (R579). -/
def State.calendarTai (s : State) : Nat :=
  if s.mgmt.lockedSinceReset then
    if s.rc.state = .locked then s.taiNow else s.mgmt.calBase + 10 * (s.now - s.mgmt.calBaseAt)
  else if s.mgmt.everLocked then s.mgmt.calLoadedTai + 10 * (s.now - s.mgmt.calLoadedAt)
  else 0

/-- STATE of the schedule unit. -/
def State.schedState (s : State) : Nat := s.num Reg.sched.state

/-- Schedule STATE is ARMED, RUNNING, HOLD or REPLAY. -/
def State.inRun (s : State) : Bool :=
  s.schedState == 2 || s.schedState == 3 || s.schedState == 4 || s.schedState == 5

/-- Schedule STATE is RUNNING, HOLD or REPLAY. -/
def State.started (s : State) : Bool := s.schedState == 3 || s.schedState == 4 || s.schedState == 5

/-! ### The replay journal (R73, R74) -/

/-- Bytes of a record: header, payload and CRC, rounded up to a multiple of 8. -/
def JRecord.size (r : JRecord) : Nat := roundUp (24 + r.payload.length + 4) 8

/-- The 24-byte header, payload and padding of a record, with its CRC32C last (R73). -/
def JRecord.encode (r : JRecord) : Bytes :=
  let body := leBytes 2 r.type ++ leBytes 2 r.byRef.toNat ++ leBytes 4 r.size ++ leBytes 8 r.ring ++ leBytes 2 r.grain ++
    leBytes 2 r.source ++ leBytes 4 r.sequence ++ r.payload ++ zeros (r.size - 28 - r.payload.length)
  body ++ leBytes 4 (crc32c body).toNat

/-- JOURNAL_STATE is INCOMPLETE. -/
def State.journalFull (s : State) : Bool := s.num Reg.replay.journalState == 2

/-- Appends a journal record during a run; past JOURNAL_CAPACITY the journal becomes INCOMPLETE and records are
discarded (R74). -/
def State.journal (s : State) (type source : Nat) (byRef : Bool) (payload : Bytes) : State :=
  if !s.inRun || s.journalFull then s
  else
    let r : JRecord := ⟨type, byRef, s.rc.ring, s.grain, source, s.sched.jseq, payload⟩
    let used := s.num Reg.replay.journalUsed + r.size
    let cap := s.num Reg.replay.journalCapacity
    if used > cap then
      { s.setN Reg.replay.journalState 2 with
        sched := { s.sched with current := { s.sched.current with incomplete := true } } }
    else
      let s := { s with
        sched := { s.sched with
          jseq := wrap 32 (s.sched.jseq + 1)
          current := { s.sched.current with records := s.sched.current.records ++ [r] } } }
      (s.setN Reg.replay.journalUsed used).setN Reg.replay.journalState (if 10 * used ≥ 9 * cap then 1 else 0)

/-! ### The error log (R568 to R575) -/

/-- The bytes of a session's event entry are due to its subscription (R574, R575). -/
def Session.wants (x : Session) (e : LogEntry) : Bool :=
  match x.sub with
  | none => false
  | some sub => sub.mask.contains (e.code / 256) && sub.minSeverity ≤ e.severity &&
      (x.admin || !x.tenant || (e.context < 64 && x.mask.testBit e.context))

/-- Adds an entry to the entries due to every subscription that it matches. -/
def Session.offer (x : Session) (e : LogEntry) : Session :=
  if x.wants e then { x with sub := x.sub.map fun u => { u with due := u.due ++ [e] } } else x

/-- The entries that take part in the occupancy: the unacknowledged ones, or before the merge all that are held. -/
def ErrorLog.unacked (l : ErrorLog) : List LogEntry :=
  if l.merged then l.entries.filter fun e => l.acked ≤ e.seq else l.entries

/-- LOG_OCCUPANCY (R569, R571). -/
def ErrorLog.occupancy (l : ErrorLog) : Nat :=
  if l.merged then l.written - l.acked else l.entries.length

/-- Replaces the newest entry that satisfies `p` by `f` of it. -/
def updNewest (p : LogEntry → Bool) (f : LogEntry → LogEntry) (l : List LogEntry) : List LogEntry :=
  let r := l.reverse
  let n := r.findIdx p
  if n < r.length then (r.modify n f).reverse else l

/-- The log holds the newest 1,024 entries (R569). -/
def keepLog (l : List LogEntry) : List LogEntry := l.drop (l.length - 1024)

/-- Adds an entry: it takes the next SEQ once the log is merged (R571), and is offered to subscribers; a CRITICAL one
sets alert bit 9 (Table 18-9). -/
def State.addEntry (s : State) (e : LogEntry) : State :=
  let e := { e with seq := if s.log.merged then s.log.written else 0 }
  let s := { s with
    log := { s.log with
      entries := keepLog (s.log.entries ++ [e])
      written := if s.log.merged then wrap 32 (s.log.written + 1) else s.log.written }
    mgmt := { s.mgmt with sessions := s.mgmt.sessions.map fun (x : Session) => x.offer e } }
  let s := ((s.touch Reg.log.logWritten).touch Reg.log.logOccupancy).touch Reg.log.logRing
  if e.severity = 3 then s.alert 9 else s

/-- Coalesces an occurrence into the newest unacknowledged entry of its pair (R570). -/
def State.coalesce (s : State) (source code : Nat) (detail : Bytes) (half : Bool) : State :=
  let tai := s.calendarTai
  let f := fun (e : LogEntry) => { e with
    count := sat 32 (e.count + 1), lastTai := tai, lastDetail := detail.take 8, coalesced := true,
    overHalf := e.overHalf || half, mirrored := false }
  let p := fun (e : LogEntry) =>
    e.source == source && e.code == code && !e.storm && (!s.log.merged || s.log.acked ≤ e.seq)
  ({ s with log := { s.log with entries := updNewest p f s.log.entries } }.bump Reg.log.logCoalesced).touch
    Reg.log.logRing

/-- A new entry of one occurrence at the present instant. -/
def State.newEntry (s : State) (source code : Nat) (event storm : Bool) (ctx : Nat) (detail : Bytes) : LogEntry :=
  { seq := 0, source := source, code := code, event := event, storm := storm, coalesced := false, overHalf := false,
    timeEstimated := s.rc.state ≠ .locked, previousBoot := false, update := false, severity := severityOf code,
    context := ctx, count := 1, firstTai := s.calendarTai, firstRing := s.rc.ring, lastTai := s.calendarTai,
    firstDetail := detail.take 16, lastDetail := detail.take 8,
    windowEnd := s.now + 100000 * s.num Reg.log.logWindowMs, mirrored := false, closed := false }

/-- R572: the occurrence lost at occupancy 1,023 opens a STORM entry in slot 1,024; later ones count in it. -/
def State.storm (s : State) (source code : Nat) (detail : Bytes) : State :=
  let s := s.bump Reg.log.logOverflow
  if s.log.occupancy ≤ 1023 then
    (s.addEntry (s.newEntry 0x12FF 0x1280 true true 0xFF (leBytes 2 source ++ leBytes 2 code))).bump Reg.log.logStorms
  else
    let tai := s.calendarTai
    let f := fun (e : LogEntry) => { e with
      count := sat 32 (e.count + 1), lastTai := tai, lastDetail := detail.take 8, mirrored := false }
    { s with log := { s.log with entries := updNewest (fun e => e.storm) f s.log.entries } }

/-- Records an occurrence of the pair (SOURCE, CODE) (R570). -/
def State.logOccurrence (s : State) (source code : Nat) (event : Bool) (ctx : Nat) (detail : Bytes) : State :=
  let e := s.log.unacked.reverse.find? fun e => e.source == source && e.code == code && !e.storm
  let occ := s.log.occupancy
  match e with
  | some e =>
    if s.now < e.windowEnd then s.coalesce source code detail false
    else if occ > 512 then s.coalesce source code detail true
    else s.addEntry (s.newEntry source code event false ctx detail)
  | none =>
    if occ ≥ 1023 then s.storm source code detail
    else s.addEntry (s.newEntry source code event false ctx detail)

/-- Raises an event: SOURCE is the code's subsystem byte and the instance (R568). -/
def State.raise (s : State) (code inst ctx : Nat) (detail : Bytes) : State :=
  s.logOccurrence (code / 256 * 256 + inst % 256) code true ctx detail

/-- A refused or failed operation: its code is the command's status and is logged (R568). -/
def State.refuse (s : State) (code inst ctx : Nat) : State :=
  (s.logOccurrence (code / 256 * 256 + inst % 256) code false ctx []).ends code

end Sys2Proof.Machine
end

