-- ==== Sys2Proof/Machine/Access.lean ====
section
/-! DEFINITION. Who may do what with the dictionary, and how a request is admitted and answered: absent units (R5, R6),
locating an entry (R550), access rights (R516, Table 16-6), widths, reserved codes and ranges (R551, R11, R14), the
write pipeline of the serializer (R553), persistence (R556, R557) and the admission of Tally requests (R558 to R560). -/
namespace Sys2Proof.Machine

/-- By which right an access is decided (Table 16-6). -/
inductive Who where
  | noSession
  | session (id : Nat)
  | smbus
deriving DecidableEq, Repr

/-! ### Sessions -/

def State.session? (s : State) (id : Nat) : Option Session := s.mgmt.sessions.find? fun x => x.id == id

def State.putSession (s : State) (x : Session) : State :=
  { s with mgmt := { s.mgmt with sessions := s.mgmt.sessions.map fun y => if y.id = x.id then x else y } }

/-- Closes a session: its transfers, subscription and key go with it (R515, R561, R574). -/
def State.dropSession (s : State) (id : Nat) : State :=
  let l := s.mgmt.sessions.filter fun x => x.id != id
  let s := { s with mgmt := { s.mgmt with sessions := l } }
  (s.setN Reg.sess.sessionsOpen l.length).setN Reg.evt.subscriptions (l.filter fun x => x.sub.isSome).length

/-- A TENANT session: its key holds TENANT and not ADMIN (R516). -/
def Session.isTenant (x : Session) : Bool := x.tenant && !x.admin

/-! ### Absent units and the place of an entry -/

/-- An index that belongs only to units absent from the variant (R6 and the chapters' object rules). -/
def absentIndex (v : Variant) (idx : Nat) : Bool :=
  (v != .skf9200 && (idx == 0x4010 || idx == 0x4011)) ||
  (v == .skf9120 && ((0x3424 ≤ idx && idx ≤ 0x3426) || (0x5110 ≤ idx && idx ≤ 0x511F)))

/-- An entry of an absent unit in an index that holds entries of fitted units too. -/
def absentSub (v : Variant) (idx sub : Nat) : Bool :=
  v == .skf9120 &&
    (((idx == 0x4020 || idx == 0x4620) && 9 ≤ sub && sub ≤ 16) ||
     ((idx == 0x4410 || idx == 0x4411 || idx == 0x5201) && 0x11 ≤ sub && sub ≤ 0x20))

/-- The vendor test range. -/
def vendorTest (idx : Nat) : Bool := 0x6000 ≤ idx && idx ≤ 0x6FFF

/-- The row of an entry, or the code with which the dictionary answers that there is none (R550, R6). -/
def odLocate (v : Variant) (idx sub : Nat) : Except Nat OdRow :=
  match odFindGroup idx with
  | none => .error 0x1110
  | some g =>
    if sub > g.maxSub then .error 0x1111
    else if (absentIndex v idx && sub != 0) || absentSub v idx sub then .error (absentCode idx)
    else match g.row sub with
      | none => .error 0x1111
      | some r => .ok r

/-! ### Access rights -/

/-- The subset of Table 18-8 that SMBus reaches, and 0x2600 (R566, R516). -/
def smbusSubset (idx sub : Nat) : Bool :=
  idx == 0x1000 || idx == 0x1010 || idx == 0x1011 || idx == 0x1110 || idx == 0x2600 || idx == 0x2030 || idx == 0x2031 ||
  (idx == 0x1200 && (sub == 3 || sub == 4)) || (idx == 0x1300 && sub ≤ 0x13) || (idx == 0x2000 && sub == 1) ||
  (idx == 0x2020 && 1 ≤ sub && sub ≤ 0x0B) || (idx == 0x2040 && 1 ≤ sub && sub ≤ 6) ||
  (idx == 0x2050 && (sub == 1 || sub == 2 || sub == 5 || sub == 6)) || (idx == 0x2400 && (sub == 1 || sub == 5)) ||
  (idx == 0x3200 && (sub == 1 || sub == 2))

/-- The context whose configuration block an index is, if it is one (Table 16-7). -/
def ctxOfIndex (idx : Nat) : Option Nat := if 0x2640 ≤ idx ∧ idx < 0x2680 then some (idx - 0x2640) else none

/-- The context that a per-context block, the quotas among them, belongs to (R509). -/
def ctxOfBlock (idx : Nat) : Option Nat := if 0x3500 ≤ idx ∧ idx < 0x3540 then some (idx - 0x3500) else ctxOfIndex idx

/-- Whether a read is allowed (Table 16-6, R509, R538, R566). -/
def State.mayRead (s : State) (who : Who) (r : OdRow) (idx sub : Nat) : Bool :=
  if r.acc = .wo then false
  else match who with
    | .noSession => 0x1000 ≤ idx && idx ≤ 0x10FF || idx == 0x2600 || idx == 0x2680
    | .smbus => if s.num Reg.sec.bootState = 3 then idx == 0x2600 else smbusSubset idx sub
    | .session id => match s.session? id with
      | none => false
      | some x =>
        if x.isTenant then
          idx != 0x2030 && (match ctxOfBlock idx with | some c => x.mask.testBit c | none => true)
        else true

/-- Whether a write is allowed (Table 16-6, R513, R516). ATTEST_REQUEST's own check of its context stands with its
meaning. -/
def State.mayWrite (s : State) (who : Who) (r : OdRow) (idx sub : Nat) : Bool :=
  match who with
  | .noSession =>
    (idx == 0x2680 && sub == 1) || (idx == 0x2610 && sub == 1 && s.blob Reg.sess.operatorKeys == [])
  | .smbus => s.num Reg.sec.bootState != 3 && r.acc == .rw && smbusSubset idx sub
  | .session id => match s.session? id with
    | none => false
    | some x =>
      match r.acc with
      | .const | .ro => false
      | .rwt => x.test && s.sec.testEn && !x.isTenant
      | .rw =>
        if x.isTenant then idx == 0x2680 && sub == 1 else true
      | .rws | .wo =>
        if x.isTenant then (match ctxOfIndex idx with | some c => x.mask.testBit c | none => false)
        else x.admin || (idx == 0x2610 && sub == 1 && s.blob Reg.sess.operatorKeys == [])

/-- The vendor test range: DENIED unless TEST_EN is asserted and the session holds TEST (Table 18-2). -/
def State.vendorCode (s : State) (who : Who) : Nat :=
  match who with
  | .session id => match s.session? id with
    | some x => if x.test && s.sec.testEn then 0x1110 else 0x1102
    | none => 0x1102
  | _ => 0x1102

/-! ### Values -/

/-- A written value as the entry's type reads it (R551). -/
def OdRow.value (r : OdRow) (v : Bytes) : Int := if r.ty = .i32 then i32Val (leNat v) else (leNat v : Int)

/-- The type's and range's verdict on a written value (R551, R11, R14): none if it is accepted. -/
def OdRow.refusal (r : OdRow) (idx : Nat) (v : Bytes) : Option Nat :=
  match r.ty.width with
  | some w =>
    if v.length ≠ w then some 0x1112
    else if r.ty = .digest48 then none
    else
      let x := r.value v
      if x < r.lo ∨ r.hi < x then some (if r.enum then deniedCode idx else rangeCode idx)
      else if x % (r.step : Int) ≠ 0 then some (rangeCode idx)
      else none
  | none =>
    if v.length > r.maxLen ∨ (r.exact ∧ v.length ≠ r.maxLen) then some 0x1112
    else if r.ty = .str ∧ !isUtf8 v then some (rangeCode idx)
    else none

/-- The checks of a write that every entry shares, in order: the entry exists and its unit is fitted, the access is
allowed, the width, the reserved codes and the stated range. -/
def State.vet (s : State) (who : Who) (idx sub : Nat) (v : Bytes) : Except Nat OdRow :=
  if vendorTest idx then .error (s.vendorCode who)
  else match odLocate s.dev.variant idx sub with
    | .error c => .error c
    | .ok r =>
      if !s.mayWrite who r idx sub then .error (deniedCode idx)
      else match r.refusal idx v with
        | some c => .error c
        | none => .ok r

/-! ### The write pipeline -/

/-- Numeric entry `k` takes a written value: an accepted write counts in its VERSION whether or not the value differs
(R602). -/
def State.storeN (s : State) (k v : Nat) : State :=
  let t := s.touch k
  { t with od := { t.od with nums := Sparse.set (odDflt s.dev.variant) s.od.nums k v } }

/-- Byte-string entry `k` takes a written value. -/
def State.storeB (s : State) (k : Nat) (v : Bytes) : State :=
  let t := s.touch k
  { t with od := { t.od with blobs := Sparse.set (odDfltBytes s.dev.variant) s.od.blobs k v } }

/-- The entry takes the bytes written. -/
def State.store (s : State) (r : OdRow) (k : Nat) (v : Bytes) : State :=
  if r.ty.isBytes then s.storeB k v else s.storeN k (leNat v)

/-- Whether an index is kept in the boot store and not in the Yard (R556). Of 0x1200 only LOG_ACKED is persisted, and
R573 keeps it in the log's mirror. -/
def bootKept (idx : Nat) : Bool :=
  (0x1000 ≤ idx && idx ≤ 0x22FF && idx != 0x1200) || (0x3400 ≤ idx && idx ≤ 0x35FF) || (0x5000 ≤ idx && idx ≤ 0x50FF)

/-- YARD_STATE is READY or READ_ONLY. -/
def State.yardUsable (s : State) : Bool := s.num Reg.yard.yardState == 2 || s.num Reg.yard.yardState == 3

/-- Marks a persisted entry as written and not yet committed (R557). -/
def Settings.mark (st : Settings) (k : Nat) : Settings :=
  if st.pendingKeys.contains k then st else { st with pendingKeys := st.pendingKeys ++ [k] }

/-- A persisted write waits for its store. -/
def State.markPersist (s : State) (idx k : Nat) : State :=
  if bootKept idx then { s with nv := { s.nv with boot := s.nv.boot.mark k } }
  else { s with nv := { s.nv with yard := s.nv.yard.mark k } }

/-- The journal record of an accepted write during a run (R553): it is written before the write takes effect. -/
def State.journalWrite (s : State) (idx sub : Nat) (v : Bytes) : State :=
  s.journal 0x0014 0 false (leBytes 2 idx ++ leBytes 1 sub ++ v)

/-- An accepted write: `apply` is the entry's own effect. The status is OK, or PERSIST_PENDING where the entry's store
is the Yard and the Yard is not up (R557). -/
def State.accept (s : State) (r : OdRow) (idx sub : Nat) : State :=
  if r.kept then
    let t := s.markPersist idx (idx * 256 + sub)
    t.ends (if bootKept idx || t.yardUsable then okCode idx else 0x1116)
  else s.ends (okCode idx)

/-- A write refused by its entry's own checks: those of Table 17-4 are counted (R531). -/
def State.refusedWrite (s : State) (idx sub c : Nat) : State :=
  let s := if idx = 0x2010 ∧ (sub = 2 ∨ sub = 3) ∧ c = 0x2001 then s.bump Reg.gate.gateRefusals else s
  s.refuse c 0xFF 0xFF

/-- One write through the serializer (R553): refused without effect, or journaled and then applied whole. -/
def State.odWrite (s : State) (who : Who) (idx sub : Nat) (v : Bytes) (apply : OdRow → State → Except Nat State) :
    State :=
  match s.vet who idx sub v with
  | .error c => s.refuse c 0xFF 0xFF
  | .ok r =>
    match apply r s with
    | .error c => s.refusedWrite idx sub c
    | .ok _ =>
      match apply r (s.journalWrite idx sub v) with
      | .error c => s.refuse c 0xFF 0xFF
      | .ok t => t.accept r idx sub

/-! ### Admission and answers -/

/-- Whether the answer to a write of entry `k` that ended OK waits for its store. -/
def State.answerWaits (s : State) (k : Nat) : Bool :=
  isOk s.status && (s.nv.boot.pendingKeys.contains k || (s.nv.yard.pendingKeys.contains k && s.yardUsable))

/-- TYPE of the response to a request: a HELLO is answered by a CHALLENGE (Table 18-5). -/
def responseType (t : Nat) : Nat := if t = 0x10 then 0x11 else t

/-- A mailbox response as a message (Table 18-4): the header, in network byte order, is the sealing's associated data. -/
def tallyMessage (type path session reqId counter status : Nat) (key : Option Bytes) (body : Bytes) : Bytes :=
  let head := beBytes 2 0x544C ++ [1] ++ beBytes 1 (responseType type) ++ beBytes 1 (2 + (if key.isSome then 1 else 0)) ++
    beBytes 1 path ++ beBytes 2 body.length ++ beBytes 4 session ++ beBytes 4 reqId ++ beBytes 8 counter ++
    beBytes 2 status ++ zeros 6
  match key with
  | none => head ++ body
  | some k => head ++ Config.gcmSeal k (beBytes 4 (session + 2 ^ 31) ++ beBytes 8 counter) head body

/-- The mailbox holds a response: GO falls, RSP_LEN and DONE are set, and IRQ_EN sends MSI-X (R564). -/
def State.mboxDone (s : State) (rsp : Bytes) : State :=
  let m := s.mgmt.mbox
  let s := { s with mgmt := { s.mgmt with mbox := { m with
    go := false, done := true, rspLen := rsp.length, body := (rsp ++ zeros 2032).take 2032 } } }
  if m.irqEn then s.emit (.msix m.vector) else s

/-- Sends a response to where its request came from; the mailbox's goes into MBOX_BODY. -/
def State.reply (s : State) (path addr port session reqId counter status : Nat) (secure : Bool) (body : Bytes) : State :=
  let s := s.emit (.tally path addr port session reqId counter status secure body)
  if path = 3 then
    let m := s.mgmt.mbox
    let key := ((s.session? session).map (·.key)).getD m.key
    s.mboxDone (tallyMessage m.type path session reqId counter status (if secure then some key else none) body)
  else s

/-- Sends the answer to a request. -/
def State.answer (s : State) (h : TallyHdr) (secure : Bool) (body : Bytes) : State :=
  s.reply h.path h.addr h.port h.session h.reqId h.counter s.status secure body

/-- A response in its place by REQ_ID. -/
def insertKept (r : KeptResponse) : List KeptResponse → List KeptResponse
  | [] => [r]
  | k :: l => if r.reqId < k.reqId then r :: k :: l else k :: insertKept r l

/-- Keeps a response among the last 64, in place of the oldest, which is the one of the lowest REQ_ID (R560). -/
def Session.keep (x : Session) (r : KeptResponse) : Session :=
  { x with kept := insertKept r (if x.kept.length ≥ 64 then x.kept.drop 1 else x.kept) }

/-- The session after it accepted a request: its counter, its last request and where it came from (R515, R562, R575). -/
def Session.accepted (x : Session) (h : TallyHdr) (now : Nat) : Session :=
  { x with counter := h.counter, lastAt := now, lastPath := h.path, lastAddr := h.addr, lastPort := h.port,
           addrA := if h.path = 1 then h.addr else x.addrA, addrB := if h.path = 2 then h.addr else x.addrB }

/-- Admits a Tally request and runs it: a malformed message is dropped and counted (R558); without a session only what
R559 allows is served; a secure request is checked under R515 and R560, and one already answered is answered again from
the kept response. `run` answers the state, the response body, and the entry whose commit the answer waits for. -/
def State.request (s : State) (h : TallyHdr) (open_ : Bool) (run : Who → State → State × Bytes × Option Nat) : State :=
  if !h.wellFormed || (h.path != 3 && h.size > s.num Reg.mgmt.tallyMaxMsg) then (s.bump Reg.tally.tallyDropped).ends 0
  else if s.num Reg.sec.bootState = 3 then s.ends 0
  else if h.session = 0 then
    if open_ then
      let r := run .noSession (s.bump Reg.tally.tallyRequests)
      r.1.answer h false r.2.1
    else (s.refuse 0x1102 0xFF 0xFF).answer h false []
  else match s.session? h.session with
    | none => (s.refuse 0x2613 0xFF 0xFF).answer h false []
    | some x =>
      if !h.secure || !h.tagOk then (s.refuse 0x1102 0xFF 0xFF).answer h false []
      else if h.counter ≤ x.counter then
        ((s.bump Reg.tally.counterStales).refuse 0x1115 0xFF 0xFF).answer h false []
      else match x.kept.find? fun k => k.reqId == h.reqId with
        | some k =>
          (((s.putSession (x.accepted h s.now)).bump Reg.tally.duplicatesAnswered).ends k.status).answer h true k.body
        | none =>
          if (match x.kept with | [] => false | k :: _ => decide (h.reqId < k.reqId)) then
            ((s.bump Reg.tally.counterStales).refuse 0x1115 0xFF 0xFF).answer h false []
          else
            let s := (s.putSession (x.accepted h s.now)).bump Reg.tally.tallyRequests
            let r := run (.session h.session) s
            let t := match r.1.session? h.session with
              | none => r.1
              | some y => r.1.putSession (y.keep ⟨h.reqId, r.1.status, r.2.1⟩)
            match r.2.2 with
            | some k =>
              if t.answerWaits k then
                { t with mgmt := { t.mgmt with heldAnswers := t.mgmt.heldAnswers ++
                    [⟨k, h.path, h.addr, h.port, h.session, h.reqId, h.counter, t.status⟩] } }
              else t.answer h true r.2.1
            | none => t.answer h true r.2.1

/-- A write of a dictionary entry over any path (R553), `apply` its own effect. Over SMBus a transaction whose PEC
fails is ignored (R565) and the status is kept for the STATUS command. -/
def State.writeVia (s : State) (via : Via) (idx sub : Nat) (v : Bytes) (apply : OdRow → State → Except Nat State) :
    State :=
  match via with
  | .smbus pecOk =>
    if !pecOk then s.bump Reg.smb.smbPecErrors
    else
      let t := s.odWrite .smbus idx sub v apply
      { t with mgmt := { t.mgmt with smb := { t.mgmt.smb with lastStatus := t.status } } }
  | .tally h =>
    s.request h ((idx == 0x2680 && sub == 1) || (idx == 0x2610 && sub == 1)) fun who s =>
      (s.odWrite who idx sub v apply, [], some (idx * 256 + sub))

end Sys2Proof.Machine
end

