-- ==== Sys2Proof/Machine/Pools.lean ====
section
/-! DEFINITION. The buffer pool manager (R307 to R322), memory errors (R303) and the arbiters (R323 to R328). -/
namespace Sys2Proof.Machine

/-! ### Pools and handles -/

/-- Pool `p` of the device. -/
def State.pool (s : State) (p : Nat) : Pool :=
  Sparse.get (fun p => Pool.ofBlocks (s.dev.variant.poolBlocks p)) s.mem.pools p

/-- Blocks in service on the free list. -/
def Pool.freeCount (p : Pool) : Nat :=
  p.freed.length + (p.blocks - p.fresh) - (p.retired.filter fun b => p.fresh ≤ b).length

/-- The next never-taken block in service from `b` on; `n` bounds the search. -/
def Pool.nextFresh (p : Pool) : Nat → Nat → Nat
  | 0, b => b
  | n + 1, b => if p.retired.contains b then p.nextFresh n (b + 1) else b

/-- Takes one block from the free list (R312). -/
def Pool.take1 (p : Pool) : Nat × Pool :=
  match p.freed with
  | b :: l => (b, { p with freed := l })
  | [] => let b := p.nextFresh p.retired.length p.fresh; (b, { p with fresh := b + 1 })

/-- A block's generation. -/
def Pool.gen (p : Pool) (b : Nat) : Nat := Sparse.get (fun _ => 0) p.gens b

/-- Takes `n` blocks in order, each with its next generation. -/
def Pool.take : Nat → Pool → List Nat × Pool
  | 0, p => ([], p)
  | n + 1, p =>
    let (b, p) := p.take1
    let p := { p with gens := Sparse.set (fun _ => 0) p.gens b ((p.gen b + 1) % 256) }
    let (l, p) := Pool.take n p
    (b :: l, p)

/-- Whether a pool's free list is a bitmap (Table 10-4). -/
def poolBitmap (p : Nat) : Bool := p == 2 || p == 3 || p == 5 || p == 6 || p == 9

/-- Whether a pool's blocks are scrubbed when they are freed (Table 10-4). -/
def poolScrubbed (p : Nat) : Bool := p != 7 && p != 8

/-- `b` among rising numbers. -/
def insertRising (b : Nat) : List Nat → List Nat
  | [] => [b]
  | x :: l => if b < x then b :: x :: l else x :: insertRising b l

/-- One block returns to the free list: on top of the stack, or at its place of the bitmap. -/
def Pool.putBack (p : Pool) (bitmap : Bool) (b : Nat) : Pool :=
  { p with freed := if bitmap then insertRising b p.freed else b :: p.freed }

/-- A poisoned block is retired (R303). -/
def Pool.retire (p : Pool) (b : Nat) : Pool :=
  { p with retired := insertRising b p.retired, poisoned := p.poisoned.filter (· ≠ b),
           freed := p.freed.filter (· ≠ b) }

/-- The fields of a handle (Table 10-6). -/
def hPool (h : Nat) : Nat := h / 2 ^ 27
def hGen (h : Nat) : Nat := h / 2 ^ 19 % 256
def hIndex (h : Nat) : Nat := h % 2 ^ 19

/-- The handle of a buffer. -/
def Buf.handle (b : Buf) (pool : Nat) : Nat := pool * 2 ^ 27 + b.gen * 2 ^ 19 + b.head

/-- The allocated buffer whose head block is `i`. -/
def Pool.bufAt (p : Pool) (i : Nat) : Option Buf := p.bufs.find? fun b => b.head == i

/-- The buffer a live handle names. -/
def State.buf? (s : State) (h : Nat) : Option Buf :=
  match (s.pool (hPool h)).bufAt (hIndex h) with
  | some b => if b.gen = hGen h then some b else none
  | none => none

/-- Replaces the buffer with head `b.head`. -/
def Pool.setBuf (p : Pool) (b : Buf) : Pool := { p with bufs := p.bufs.map fun x => if x.head = b.head then b else x }

/-- The bytes a buffer can hold (R311). -/
def Buf.capacity (b : Buf) (pool : Nat) : Nat := min (b.chain.length * poolBlockBytes pool) 4294967295

/-- Pool `p` becomes `q`, and its registers follow. -/
def State.putPool (s : State) (p : Nat) (q : Pool) : State :=
  let s := { s with mem := { s.mem with
    pools := Sparse.set (fun p => Pool.ofBlocks (s.dev.variant.poolBlocks p)) s.mem.pools p q } }
  let free := q.freeCount
  let s := (s.setN (Reg.pool.blocks p) (q.blocks - q.retired.length)).setN (Reg.pool.free p) free
  let s := s.setN (Reg.pool.freeLow p) (min (s.num (Reg.pool.freeLow p)) free)
  let s := s.setN (Reg.pool.waiters p) q.waits.length
  let s := s.setN (Reg.pool.blocksRetired p) q.retired.length
  s.setN (Reg.pool.scrubPending p)
    (if poolScrubbed p then (q.draining.map fun b => b.chain.length).foldl (· + ·) 0 else 0)

/-- Blocks a context holds in a pool. -/
def Pool.heldBy (p : Pool) (c : Nat) : Nat :=
  ((p.bufs.filter fun b => b.ctx == some c).map fun b => b.chain.length).foldl (· + ·) 0

/-- Whether `n` blocks more would take a context above its quota (R321). -/
def State.overQuota (s : State) (p : Nat) (ctx : Option Nat) (n : Nat) : Bool :=
  match ctx with
  | none => false
  | some c =>
    let q := s.num (Reg.quota.quota c (p - 1))
    q != 0xFFFFFFFF && (s.pool p).heldBy c + n > q

/-- Firmware requesters pass the context check (R314). -/
def Requester.firmware (r : Requester) : Bool := r.id / 4096 == 0

/-- A command is answered (R313). -/
def State.poolAnswer (s : State) (r : Requester) (code handle blocks owner ctx : Nat) : State :=
  (s.emit (.poolAnswer r.id code handle blocks owner ctx)).ends code

/-- A command is refused: counted where the pool has a counter of its code, logged and answered. -/
def State.poolRefuse (s : State) (r : Requester) (pool code : Nat) (detail : Bytes := []) : State :=
  let s := match code with
    | 0x3410 => s.bump (Reg.pool.noBuffer pool)
    | 0x3407 => s.bump (Reg.pool.notLastOwner pool)
    | 0x3408 => s.bump (Reg.pool.doubleFrees pool)
    | _ => s
  (s.logOccurrence (0x3400 + pool % 256) code false r.ctx detail).poolAnswer r code 0 0 0 0

/-- The buffer's CONTEXT as an answer carries it: 0xFF for FIRMWARE. -/
def ctxByte (c : Option Nat) : Nat := c.getD 0xFF

/-- Allocates `n` blocks of pool `p` as a buffer and answers. -/
def State.grantAlloc (s : State) (p : Nat) (w : PoolWait) : State :=
  let (chain, q) := Pool.take w.blocks (s.pool p)
  let head := chain.headD 0
  let b : Buf := ⟨head, q.gen head, w.ctx, w.owner, chain, 0⟩
  (s.putPool p { q with bufs := q.bufs ++ [b] }).poolAnswer w.req 0x3400 (b.handle p) chain.length b.owner
    (ctxByte b.ctx)

/-- Appends `n` blocks to a buffer's chain and answers (R315). -/
def State.grantExtend (s : State) (p : Nat) (w : PoolWait) (b : Buf) : State :=
  let (more, q) := Pool.take w.blocks (s.pool p)
  let b := { b with chain := b.chain ++ more }
  (s.putPool p (q.setBuf b)).poolAnswer w.req 0x3400 (b.handle p) b.chain.length b.owner (ctxByte b.ctx)

/-- The reserved values of a command (R314 step 1): `usesX` says which fields its OP uses. -/
def PoolCmd.reservedOk (c : PoolCmd) (r : Requester) (alloc extend pass : Bool) : Bool :=
  c.flags < 8 && c.reserved == 0 &&
  (if alloc then c.handle == 0 else true) &&
  (if alloc || pass then c.owner / 4096 < 0xC else c.owner == 0) &&
  (if alloc || extend then 1 ≤ c.bytes else c.bytes == 0) &&
  (if alloc then true else c.pool == 0) &&
  (if alloc && r.firmware then c.context < 64 || c.context == 0xFF else c.context == 0)

/-- Whether a buffer would be beyond R311. -/
def tooLarge (p blocks : Nat) : Bool := blocks > 65536 || blocks * poolBlockBytes p > 2 ^ 32

/-- The same class of pool on the other die, where it is fitted (R307). -/
def otherDie (v : Variant) (p : Nat) : Option Nat :=
  if v == .skf9120 then none
  else match p with
    | 1 => some 4 | 2 => some 5 | 3 => some 6 | 4 => some 1 | 5 => some 2 | 6 => some 3 | _ => none

/-- Whether `n` blocks of a pool can be taken at once: enough are free and nothing waits (R315). -/
def Pool.canTake (p : Pool) (n : Nat) : Bool := n ≤ p.freeCount && p.waits.isEmpty

/-- Whether a RETAIN allocation would leave fewer than WORK_RESERVE free blocks (R308). -/
def State.overReserve (s : State) (p flags n : Nat) : Bool :=
  flags.testBit 2 && (p == 2 || p == 5) && (s.pool p).freeCount < n + s.num Reg.layout.workReserve

/-- R314, checks 1 and 2: the code of the first that fails. -/
def State.allocRefusal (s : State) (r : Requester) (c : PoolCmd) : Option Nat :=
  let n := ceilDiv c.bytes (poolBlockBytes c.pool)
  let ctx := if r.firmware then (if c.context = 0xFF then none else some c.context) else some r.ctx
  if !c.reservedOk r true false false then some 0x3402
  else if c.pool = 0 ∨ 10 ≤ c.pool then some 0x3411
  else if !s.dev.variant.hasPool c.pool then some 0x3403
  else if tooLarge c.pool n then some 0x3413
  else if s.overQuota c.pool ctx n then some 0x3414
  else if s.overReserve c.pool c.flags n then some 0x3415
  else none

/-- What an ALLOC asks for, once it is not refused. -/
def PoolCmd.wait (c : PoolCmd) (r : Requester) : PoolWait :=
  ⟨r, none, if c.owner = 0 then r.id else c.owner,
    if r.firmware then (if c.context = 0xFF then none else some c.context) else some r.ctx,
    ceilDiv c.bytes (poolBlockBytes c.pool)⟩

/-- Joins a pool's wait queue at its tail (R315). -/
def State.joinWait (s : State) (p : Nat) (w : PoolWait) : State :=
  s.putPool p { s.pool p with waits := (s.pool p).waits ++ [w] }

/-- The pool in which an ALLOC is granted now, if any: the one named, or with FALLBACK the same class on the other die
(R307). -/
def State.allocPool (s : State) (c : PoolCmd) (w : PoolWait) : Option Nat :=
  if (s.pool c.pool).canTake w.blocks then some c.pool
  else if c.flags.testBit 1 then
    match otherDie s.dev.variant c.pool with
    | some p =>
      if (s.pool p).canTake w.blocks && !s.overQuota p w.ctx w.blocks && !s.overReserve p c.flags w.blocks then some p else none
    | none => none
  else none

/-- ALLOC (R314, R315). -/
def State.allocBuf (s : State) (r : Requester) (c : PoolCmd) : State :=
  match s.allocRefusal r c with
  | some code => s.poolRefuse r c.pool code
  | none =>
    let w := c.wait r
    match s.allocPool c w with
    | some p => s.grantAlloc p w
    | none => if c.flags.testBit 0 then s.joinWait c.pool w else s.poolRefuse r c.pool 0x3410

def execAlloc (req : Requester) (cmd : PoolCmd) (s : State) : Host.Outcome State Fault Refusal :=
  act s fun s => s.allocBuf req cmd

/-- R314, checks 2 to 6 of a command that names a buffer: the code of the first that fails; `owned` asks for check 6. -/
def State.handleRefusal (s : State) (r : Requester) (h : Nat) (owned : Bool) : Option Nat :=
  let p := hPool h
  if p = 0 ∨ 10 ≤ p then some 0x3411
  else if !s.dev.variant.hasPool p then some 0x3403
  else if (s.pool p).blocks ≤ hIndex h then some 0x3411
  else match (s.pool p).bufAt (hIndex h) with
    | none => some 0x3412
    | some b =>
      if !r.firmware && b.ctx != some r.ctx then some 0x3402
      else if b.gen ≠ hGen h then some 0x3412
      else if owned && b.owner != r.id then some 0x3407
      else none

/-- EXTEND (R314, R315). -/
def State.extendBuf (s : State) (r : Requester) (c : PoolCmd) : State :=
  let p := hPool c.handle
  if !c.reservedOk r false true false then s.poolRefuse r p 0x3402
  else match s.handleRefusal r c.handle true with
    | some code => s.poolRefuse r p code
    | none =>
      match s.buf? c.handle with
      | none => s.poolRefuse r p 0x3412
      | some b =>
        let n := ceilDiv c.bytes (poolBlockBytes p)
        let w : PoolWait := ⟨r, some c.handle, b.owner, b.ctx, n⟩
        if tooLarge p (b.chain.length + n) then s.poolRefuse r p 0x3413
        else if s.overQuota p b.ctx n then s.poolRefuse r p 0x3414
        else if s.overReserve p c.flags n then s.poolRefuse r p 0x3415
        else if (s.pool p).canTake n then s.grantExtend p w b
        else if c.flags.testBit 0 then s.joinWait p w
        else s.poolRefuse r p 0x3410

def execExtend (req : Requester) (cmd : PoolCmd) (s : State) : Host.Outcome State Fault Refusal :=
  act s fun s => s.extendBuf req cmd

/-- PASS (R316): the owner names a new owner; CONTEXT does not change. -/
def State.passBuf (s : State) (r : Requester) (c : PoolCmd) : State :=
  let p := hPool c.handle
  if !c.reservedOk r false false true then s.poolRefuse r p 0x3402
  else match s.handleRefusal r c.handle true with
    | some code => s.poolRefuse r p code
    | none =>
      match s.buf? c.handle with
      | none => s.poolRefuse r p 0x3412
      | some b =>
        let b := { b with owner := c.owner }
        (s.putPool p ((s.pool p).setBuf b)).poolAnswer r 0x3400 c.handle b.chain.length b.owner (ctxByte b.ctx)

def execPass (req : Requester) (cmd : PoolCmd) (s : State) : Host.Outcome State Fault Refusal :=
  act s fun s => s.passBuf req cmd

/-- A buffer leaves the allocated ones and its blocks wait to return (R318). Waiting EXTENDs of it complete with
STALE_HANDLE (R322). -/
def State.releaseBuf (s : State) (p : Nat) (b : Buf) : State :=
  let q := s.pool p
  let h := b.handle p
  let stale := q.waits.filter fun w => w.extends_ == some h
  let s := s.putPool p { q with
    bufs := q.bufs.filter fun x => x.head != b.head
    draining := q.draining ++ [b]
    waits := q.waits.filter fun w => w.extends_ != some h }
  stale.foldl (fun s w => s.poolRefuse w.req p 0x3412) s

/-- The context check of FREE (R314 step 4) and R317: the code with which a FREE is refused. -/
def State.freeRefusal (s : State) (r : Requester) (h : Nat) : Option Nat :=
  let p := hPool h
  if p = 0 ∨ 10 ≤ p then some 0x3411
  else if !s.dev.variant.hasPool p then some 0x3403
  else if (s.pool p).blocks ≤ hIndex h then some 0x3411
  else match (s.pool p).bufAt (hIndex h) with
    | none => some 0x3408
    | some b =>
      if !r.firmware && b.ctx != some r.ctx then some 0x3402
      else if b.gen ≠ hGen h then some 0x3408
      else if b.owner ≠ r.id then some 0x3407
      else none

/-- FREE (R317, R318). -/
def State.freeBuf (s : State) (r : Requester) (c : PoolCmd) : State :=
  let p := hPool c.handle
  if !c.reservedOk r false false false then s.poolRefuse r p 0x3402
  else match s.freeRefusal r c.handle with
    | some code =>
      let now := match (s.pool p).bufAt (hIndex c.handle) with
        | some b => leBytes 2 b.owner ++ leBytes 1 b.gen
        | none => []
      s.poolRefuse r p code (leBytes 4 c.handle ++ leBytes 2 r.id ++ leBytes 1 r.ctx ++ now)
    | none =>
      match s.buf? c.handle with
      | none => s.poolRefuse r p 0x3408
      | some b => (s.releaseBuf p b).poolAnswer r 0x3400 c.handle b.chain.length b.owner (ctxByte b.ctx)

def execFree (req : Requester) (cmd : PoolCmd) (s : State) : Host.Outcome State Fault Refusal :=
  act s fun s => s.freeBuf req cmd

/-- QUERY (R313). -/
def State.queryBuf (s : State) (r : Requester) (c : PoolCmd) : State :=
  let p := hPool c.handle
  if !c.reservedOk r false false false then s.poolRefuse r p 0x3402
  else match s.handleRefusal r c.handle false with
    | some code => s.poolRefuse r p code
    | none =>
      match s.buf? c.handle with
      | none => s.poolRefuse r p 0x3412
      | some b => s.poolAnswer r 0x3400 c.handle b.chain.length b.owner (ctxByte b.ctx)

def execQuery (req : Requester) (cmd : PoolCmd) (s : State) : Host.Outcome State Fault Refusal :=
  act s fun s => s.queryBuf req cmd

/-- The request at the head of a pool's wait queue is granted once enough blocks are free (R315). -/
def State.grantHead (s : State) (p : Nat) : State :=
  match (s.pool p).waits with
  | [] => s
  | w :: l =>
    if w.blocks ≤ (s.pool p).freeCount then
      let s := s.putPool p { s.pool p with waits := l }
      match w.extends_ with
      | none => s.grantAlloc p w
      | some h => match s.buf? h with
        | some b => s.grantExtend p w b
        | none => s.poolRefuse w.req p 0x3412
    else s

def execWaitGrant (pool : Nat) (s : State) : Host.Outcome State Fault Refusal := act s fun s => s.grantHead pool

/-- What a block of pool `p` holds is zeroed (R318): the entries from `lo` up to `hi` leave the map. -/
def scrub (lo hi : Nat) (m : List (Nat × Byte)) : List (Nat × Byte) := m.filter fun e => e.1 < lo || hi ≤ e.1

/-- One block of a freed buffer is scrubbed where its pool is, and returns to the free list or, poisoned, is retired
(R303, R318). -/
def Pool.returnBlock (n : Nat) (p : Pool) (b : Nat) : Pool :=
  let sz := poolBlockBytes n
  let p := if poolScrubbed n then { p with mem := scrub (b * sz) ((b + 1) * sz) p.mem } else p
  if p.poisoned.contains b then p.retire b else p.putBack (poolBitmap n) b

/-- BLOCKS_RETURN: a freed buffer with nothing in flight gives its blocks back. -/
def State.blocksReturn (s : State) (h : Nat) : State :=
  let n := hPool h
  let p := s.pool n
  match p.draining.find? fun b => b.handle n == h && b.inFlight == 0 with
  | none => s
  | some b =>
    let p := { p with draining := p.draining.filter fun x => x.handle n != h }
    s.putPool n (b.chain.foldl (Pool.returnBlock n) p)

def execBlocksReturn (handle : Nat) (s : State) : Host.Outcome State Fault Refusal :=
  act s fun s => s.blocksReturn handle

/-! ### Accesses through a handle (R319) -/

/-- The place in the pool's memory of offset `x` of a buffer. -/
def Buf.place (b : Buf) (p x : Nat) : Nat :=
  let sz := poolBlockBytes p
  b.chain.getD (x / sz) 0 * sz + x % sz

/-- Whether an access of `len` bytes at `off` through a handle may be performed: the handle's generation, the buffer's
CONTEXT and its length. -/
def State.mayAccess (s : State) (r : Requester) (h off len : Nat) : Bool :=
  match s.buf? h with
  | none => false
  | some b => (r.firmware || b.ctx == some r.ctx) && off + len ≤ b.capacity (hPool h)

/-- `len` bytes of a buffer from `off`. -/
def State.bufRead (s : State) (h off len : Nat) : Bytes :=
  match s.buf? h with
  | none => []
  | some b =>
    let m := (s.pool (hPool h)).mem
    (List.range len).map fun i => Sparse.get (fun _ => 0) m (b.place (hPool h) (off + i))

/-- Whether any byte of an access lies in a poisoned block (R303). -/
def State.bufPoisoned (s : State) (h off len : Nat) : Bool :=
  match s.buf? h with
  | none => false
  | some b =>
    let p := s.pool (hPool h)
    let sz := poolBlockBytes (hPool h)
    if len = 0 ∨ sz = 0 then false
    else ((b.chain.drop (off / sz)).take ((off + len - 1) / sz - off / sz + 1)).any p.poisoned.contains

/-- Stores bytes in a pool's memory, one place after another. -/
def storeBytes (place : Nat → Nat) : Nat → Bytes → List (Nat × Byte) → List (Nat × Byte)
  | _, [], m => m
  | x, v :: vs, m => storeBytes place (x + 1) vs (Sparse.set (fun _ => 0) m (place x) v)

/-- The state with bytes stored in a buffer from `off` on. -/
def State.bufWrite (s : State) (h off : Nat) (v : Bytes) : State :=
  match s.buf? h with
  | none => s
  | some b =>
    let n := hPool h
    let p := s.pool n
    s.putPool n { p with mem := storeBytes (b.place n) off v p.mem }

/-- One access more, or one fewer, in flight through a handle (Table 10-7); a buffer freed meanwhile still counts. -/
def State.bufFlight (s : State) (h : Nat) (up : Bool) : State :=
  let n := hPool h
  let p := s.pool n
  let f := fun (b : Buf) =>
    if b.handle n = h then { b with inFlight := if up then b.inFlight + 1 else b.inFlight - 1 } else b
  s.putPool n { p with bufs := p.bufs.map f, draining := p.draining.map f }

/-- Allocates for a unit of the device: firmware's own command, answered with the handle, or none if it is refused. -/
def State.unitAlloc (s : State) (id : Nat) (ctx : Option Nat) (p bytes : Nat) : Option (Nat × State) :=
  let n := ceilDiv bytes (poolBlockBytes p)
  if !s.dev.variant.hasPool p || n = 0 || tooLarge p n || s.overQuota p ctx n || !(s.pool p).canTake n then none
  else
    let (chain, q) := Pool.take n (s.pool p)
    let head := chain.headD 0
    let b : Buf := ⟨head, q.gen head, ctx, id, chain, 0⟩
    some (b.handle p, s.putPool p { q with bufs := q.bufs ++ [b] })

/-- A unit frees a buffer of its own. -/
def State.unitFree (s : State) (h : Nat) : State :=
  match s.buf? h with
  | none => s
  | some b => s.releaseBuf (hPool h) b

/-- A unit passes a buffer (R316). -/
def State.unitPass (s : State) (h owner : Nat) : State :=
  match s.buf? h with
  | none => s
  | some b => s.putPool (hPool h) ((s.pool (hPool h)).setBuf { b with owner := owner })

/-- Firmware frees every buffer of a context and flushes its waiting requests (R320). -/
def State.freeContextIn (s : State) (c p : Nat) : State :=
  let q := s.pool p
  let gone := (q.waits ++ q.away).filter fun w => w.ctx == some c
  let mine := q.bufs.filter fun b => b.ctx == some c
  let s := s.putPool p { q with
    bufs := q.bufs.filter fun b => b.ctx != some c
    draining := q.draining ++ mine
    waits := q.waits.filter fun w => w.ctx != some c
    away := q.away.filter fun w => w.ctx != some c }
  gone.foldl (fun s w => s.poolAnswer w.req 0x3405 0 0 0 0) s

def State.freeContext (s : State) (c : Nat) : State :=
  [1, 2, 3, 4, 5, 6, 7, 8, 9].foldl (fun s p => if s.dev.variant.hasPool p then s.freeContextIn c p else s) s

/-- The waiting requests of a context leave their queues while it is not resident, and rejoin at the tail (R315). -/
def State.poolLeave (s : State) (c : Nat) : State :=
  [1, 2, 3, 4, 5, 6, 7, 8, 9].foldl (fun s p =>
    let q := s.pool p
    if q.waits.any fun w => w.ctx == some c then
      s.putPool p { q with
        waits := q.waits.filter fun w => w.ctx != some c
        away := q.away ++ q.waits.filter fun w => w.ctx == some c }
    else s) s

def State.poolRejoin (s : State) (c : Nat) : State :=
  [1, 2, 3, 4, 5, 6, 7, 8, 9].foldl (fun s p =>
    let q := s.pool p
    if q.away.any fun w => w.ctx == some c then
      s.putPool p { q with
        away := q.away.filter fun w => w.ctx != some c
        waits := q.waits ++ q.away.filter fun w => w.ctx == some c }
    else s) s

/-! ### Memory errors (R303) -/

def execMemoryCorrected (tier : Nat) (s : State) : Host.Outcome State Fault Refusal :=
  act s fun s =>
    if tier = 0 then s.bump Reg.tier.hbmCorrected
    else if tier = 1 then s.bump Reg.tier.ddrCorrected
    else s

/-- The tier of a pool (Table 10-4); none for die SRAM. -/
def poolTier (p : Nat) : Option Nat :=
  match p with
  | 1 | 2 | 4 | 5 | 7 => some 0
  | 8 | 9 => some 1
  | _ => none

/-- An uncorrectable error: counted, logged, its block poisoned and, where it is free, retired at once (R303, R322). -/
def State.uncorrectable (s : State) (p b : Nat) : State :=
  match poolTier p with
  | none => s
  | some t =>
    let q := s.pool p
    if !s.dev.variant.hasPool p || q.blocks ≤ b || q.retired.contains b then s
    else
      let s := s.bump (if t = 0 then Reg.tier.hbmUncorrectable else Reg.tier.ddrUncorrectable)
      let held := (q.bufs ++ q.draining).find? fun x => x.chain.contains b
      let ctx := match held with
        | some x => ctxByte x.ctx
        | none => 0xFF
      let s := s.raise 0x3481 p ctx (leBytes 4 b)
      let q := s.pool p
      match held with
      | some _ => s.putPool p { q with poisoned := insertRising b (q.poisoned.filter (· ≠ b)) }
      | none => s.putPool p (q.retire b)

def execMemoryUncorrectable (pool block : Nat) (s : State) : Host.Outcome State Fault Refusal :=
  act s fun s => s.uncorrectable pool block

/-! ### Arbiters -/

/-- The kinds of Table 10-12 in its order: 0 HBM stack port, 1 prep-network link, 2 die SRAM, 3 cluster SRAM bank,
4 DDR5 channel, 5 NAND channel, 6 Chipper, 7 buffer pool manager port. Weighted classes of a kind. -/
def arbClasses (v : Variant) (kind : Nat) : Nat :=
  match kind with
  | 0 => 6 | 1 => 3 | 2 => 8 | 3 => 4 | 4 => 7 | 5 => 4 | 6 => 2 | 7 => v.clusters + 6 | _ => 0

/-- A class's weight: its RWS object, or 1 (Table 10-12). -/
def State.arbWeight (s : State) (kind cls : Nat) : Nat :=
  match kind with
  | 0 => s.num (Reg.wHbm.hbmWeights cls)
  | 1 => s.num (Reg.wLink.linkWeights cls)
  | 3 => s.num (Reg.wCsram.csramWeights cls)
  | 4 => s.num (Reg.wDdr.ddrWeights cls)
  | 5 => s.num (Reg.wNand.nandWeights cls)
  | 6 => s.num (Reg.wChipper.chipperWeights cls)
  | 2 | 7 => 1
  | _ => 0

/-- Whether an arbiter has the priority class LAUNCH (R327). -/
def arbHasLaunch (kind : Nat) : Bool := kind == 0 || kind == 1

/-- A class's credit. -/
def Arbiter.credit (a : Arbiter) (c : Nat) : Int := Sparse.get (fun _ => 0) a.credits c

/-- Clamped to ±CREDIT_CAP. -/
def clampCap (cap : Nat) (z : Int) : Int := max (-(cap : Int)) (min z cap)

/-- A class takes a credit. -/
def Arbiter.setCredit (a : Arbiter) (c : Nat) (z : Int) : Arbiter :=
  { a with credits := Sparse.set (fun _ => 0) a.credits c z }

/-- After STARVE_INTERVAL ordinary grants the next grant is reserved (R325). -/
def Arbiter.starve (a : Arbiter) (interval : Nat) : Arbiter :=
  if interval ≤ a.grants then { a with grants := 0, reservedDue := true } else a

/-- A class that stops requesting loses its positive credit, unless it withdrew (R324, R326). -/
def Arbiter.discard (a : Arbiter) (reqs : List ArbReq) : Arbiter :=
  { a with
    credits := a.credits.filter fun p =>
      reqs.any (fun r => r.cls == p.1) || a.withdrew.contains p.1 || p.2 < 0
    withdrew := a.withdrew.filter fun c => !reqs.any fun r => r.cls == c }

/-- Each requesting class gains its weight (R323). -/
def Arbiter.gain (a : Arbiter) (weight : Nat → Nat) (cap : Nat) (reqs : List ArbReq) : Arbiter :=
  reqs.foldl (fun a r => a.setCredit r.cls (clampCap cap (a.credit r.cls + weight r.cls))) a

/-- The best class by a measure; ties go to the lowest class. -/
def bestReq (measure : ArbReq → Int) : List ArbReq → Option ArbReq
  | [] => none
  | r :: l => match bestReq measure l with
    | none => some r
    | some q =>
      if measure q > measure r ∨ (measure q = measure r ∧ q.cls < r.cls) then some q else some r

/-- What a cycle granted. -/
inductive ArbGrant where
  | none
  | launch
  | cls (c : Nat) (reserved : Bool)
  | dead (c : Nat)
deriving DecidableEq, Repr

/-- One arbiter cycle (R323 to R327). -/
def Arbiter.cycle (a : Arbiter) (weight : Nat → Nat) (cap interval : Nat) (reqs : List ArbReq)
    (launch portFree withdraw : Bool) : Arbiter × ArbGrant :=
  let a := (a.starve interval).discard reqs
  let a := a.gain weight cap reqs
  let wreq := (reqs.map fun r => weight r.cls).foldl (· + ·) 0
  if launch then (a, .launch)
  else if !portFree then (a, .none)
  else if a.reservedDue then
    match bestReq (fun r => (r.age : Int)) reqs with
    | none => (a, .none)
    | some r =>
      if withdraw then ({ a with withdrew := r.cls :: a.withdrew.filter (· ≠ r.cls) }, .dead r.cls)
      else ({ a with reservedDue := false }, .cls r.cls true)
  else
    match bestReq (fun r => a.credit r.cls) reqs with
    | none => (a, .none)
    | some r =>
      if withdraw then ({ a with withdrew := r.cls :: a.withdrew.filter (· ≠ r.cls) }, .dead r.cls)
      else
        let a := a.setCredit r.cls (clampCap cap (a.credit r.cls - (r.cost * wreq : Nat)))
        ({ a with grants := a.grants + 1 }, .cls r.cls false)

/-- The arbiter of a kind and instance. -/
def State.arb (s : State) (kind inst : Nat) : Arbiter :=
  (s.mem.arbs.find? fun a => a.kind == kind && a.inst == inst).getD ⟨kind, inst, [], 0, false, []⟩

/-- The arbiter takes its new state. -/
def State.putArb (s : State) (a : Arbiter) : State :=
  { s with mem := { s.mem with
    arbs := if s.mem.arbs.any fun x => x.kind == a.kind && x.inst == a.inst then
        s.mem.arbs.map fun x => if x.kind = a.kind ∧ x.inst = a.inst then a else x
      else s.mem.arbs ++ [a] } }

/-- The classes of a request list that the arbiter has, each once. -/
def arbValid (n : Nat) : List ArbReq → List ArbReq
  | [] => []
  | r :: l => if r.cls < n && !l.any (fun q => q.cls == r.cls) then r :: arbValid n l else arbValid n l

def execArbiterCycle (kind inst : Nat) (reqs : List ArbReq) (launch portFree withdraw : Bool) (s : State) :
    Host.Outcome State Fault Refusal :=
  act s fun s =>
    let reqs := arbValid (arbClasses s.dev.variant kind) reqs
    let r := (s.arb kind inst).cycle (s.arbWeight kind) (s.num Reg.arb.creditCap) (s.num Reg.arb.starveInterval) reqs
      (launch && arbHasLaunch kind) portFree withdraw
    let s := s.putArb r.1
    match r.2 with
    | .none => s
    | .launch => s.emit (.grant kind inst none)
    | .cls c reserved => (s.bumpIf reserved Reg.arb.reservedGrants).emit (.grant kind inst (some c))
    | .dead _ => s.bump Reg.arb.deadCycles

def execStarveIntervalReached (kind inst : Nat) (s : State) : Host.Outcome State Fault Refusal :=
  act s fun s => s.putArb ((s.arb kind inst).starve (s.num Reg.arb.starveInterval))

end Sys2Proof.Machine
end

