-- ==== Sys2Proof/Machine/PowerOps.lean ====
section
/-! DEFINITION. Shared operations of clocks, power and heat: the cooling request (R541), the digests of the clock and power
settings in effect (R525, R537), and START_STATE (R546). -/
namespace Sys2Proof.Machine

def State.putPwr (s : State) (p : Power) : State := { s with pwr := p }

/-- T_JMAX in degrees Celsius (Table 19-7). -/
def tjMax : Nat := 105

/-- WARN in units of 0.1 degrees (Table 17-7). -/
def State.warnDc (s : State) : Int := 10 * ((tjMax : Int) - s.num Reg.therm.warnOffsetC)

/-- The cooling level for a junction temperature (R541). -/
def coolingLevel (warn tj : Int) : Nat :=
  let low := warn - 200
  if tj < low then 30
  else if tj < warn then 30 + ceilDiv (70 * (tj - low).toNat) 200
  else 100

/-- COOLING_REQUEST, held at 100 after a deck alarm of a slow island. -/
def State.coolingNow (s : State) : Nat :=
  match s.pwr.coolingUntil with
  | some t => if s.now < t then 100 else coolingLevel s.warnDc (i32Val (s.num Reg.therm.tjMaxDc))
  | none => coolingLevel s.warnDc (i32Val (s.num Reg.therm.tjMaxDc))

/-- COOLING_REQUEST follows; alert bit 1 is set on a change by 10 or more since it was last cleared (Table 18-9). -/
def State.coolingRegs (s : State) : State :=
  let v := s.coolingNow
  let s := s.setN Reg.therm.coolingRequest v
  let c := s.mgmt.smb.coolingAtClear
  if c + 10 ≤ v ∨ v + 10 ≤ c then s.alert 1 else s

/-- CLOCK_DIGEST over the settings in effect (R525). -/
def State.clockDigest (s : State) : Bytes :=
  let e := s.pwr.effect
  sha384 (leBytes 1 e.coreDiv ++ leBytes 1 e.fabricDiv ++ leBytes 2 e.sscDepth ++ leBytes 2 e.sscRate ++
    leBytes 2 e.ddrSpeed ++ leBytes 4 100000000)

/-- POWER_DIGEST (R537). -/
def State.powerDigest (s : State) : Bytes :=
  sha384 (leBytes 2 (s.num Reg.power.powerCapW) ++ leBytes 2 (s.num Reg.power.capFloor) ++
    leBytes 2 (s.num Reg.power.vddPrepMv) ++ leBytes 2 (s.num Reg.power.vddIslMv) ++ leBytes 1 (s.num Reg.gate.fineGating))

/-- PF_LEAD_US and HOLDUP_MJ follow FLUSH_US (R543). -/
def State.holdupRegs (s : State) : State :=
  let lead := s.num Reg.yardCfg.flushUs + 1000
  let uj := s.dev.variant.maxW * 100 + s.num Reg.power.holdupW * (lead - 100)
  (s.setN Reg.power.pfLeadUs (wrap 32 lead)).setN Reg.power.holdupMj (wrap 32 (ceilDiv uj 1000))

/-- The lowest ISLAND_SPEED of the device. -/
def State.lowestSpeed (s : State) : Nat :=
  ((List.range s.dev.variant.clusters).map fun c => s.num (Reg.island.islandSpeed c)).foldl min 1024

/-- DEFINE or a CLUSTER_MASK write opens the gates of the clusters it names (R531). -/
def State.openClusters (s : State) (mask : Nat) : State :=
  let g := s.num Reg.gate.clusterGate
  s.setN Reg.gate.clusterGate (g - (g &&& mask))

/-- A connection open opens the gate of its port (R531). -/
def State.openPort (s : State) (p : Nat) : State := s.setN Reg.gate.portGate (clearBit (s.num Reg.gate.portGate) p)

/-- START_STATE takes a step; a failure state sets alert bit 2 (Table 18-9). -/
def State.startStep (s : State) (v : Nat) : State :=
  let s := s.setN Reg.start.startState v
  if 0x81 ≤ v ∧ v ≤ 0x84 then s.alert 2 else s

/-- START_STATE. -/
def State.startState (s : State) : Nat := s.num Reg.start.startState

/-- Network bring-up and stand formation begin with step 0x03 (R546); after a failure of the clock or of secure boot the
data ports, the PCIe link and the stand ring stay down (R501, Table 17-9). -/
def State.portsMayRise (s : State) : Bool :=
  3 ≤ s.startState && s.startState != 0x81 && s.startState != 0x82

end Sys2Proof.Machine
end

