-- ==== Sys2Proof/Machine/EngineMath.lean ====
section
/-! DEFINITION. The arithmetic of the engines: exact and ordered accumulation (R200 to R205), output conversion (R207 to
R210), the vector unit (Table 7-3) and the integer pixel pipelines (R211). -/
namespace Sys2Proof.Machine

/-! ### Formats (Table 7-4) -/

/-- Bits of an element. -/
def NumFmt.bits : NumFmt → Nat
  | .int8 | .uint8 | .e4m3 | .e5m2 => 8
  | .int16 | .fp16 | .bf16 => 16
  | .int32 | .fp32 => 32
  | .e2m3 | .e3m2 => 6
  | .e2m1 => 4

/-- The floating-point format, if it is one. -/
def NumFmt.float : NumFmt → Option Fmt
  | .e4m3 => some fmtE4M3 | .e5m2 => some fmtE5M2 | .fp16 => some fmtFp16 | .bf16 => some fmtBf16
  | .fp32 => some fmtFp32 | .e2m3 => some fmtE2M3 | .e3m2 => some fmtE3M2 | .e2m1 => some fmtE2M1
  | _ => none

/-- A `w`-bit two's-complement value. -/
def signed (w v : Nat) : Int := if v % 2 ^ w < 2 ^ (w - 1) then (v % 2 ^ w : Nat) else (v % 2 ^ w : Nat) - (2 ^ w : Nat)

/-- The integer of an integer format's bits. -/
def NumFmt.int (f : NumFmt) (b : Nat) : Int := if f = .uint8 then (b % 256 : Nat) else signed f.bits b

/-- The value of an element's bits. -/
def NumFmt.value (f : NumFmt) (b : Nat) : FVal :=
  match f.float with
  | some x => x.decode (b % 2 ^ f.bits)
  | none => let z := f.int b; .fin (z < 0) z.natAbs 0

/-- The range of an integer format. -/
def NumFmt.lo (f : NumFmt) : Int := if f = .uint8 then 0 else -(2 ^ (f.bits - 1) : Nat)
def NumFmt.hi (f : NumFmt) : Int := if f = .uint8 then 255 else (2 ^ (f.bits - 1) : Nat) - 1

/-- A value is NaN or infinite. -/
def FVal.nonfinite : FVal → Bool
  | .nan | .inf _ => true
  | .fin .. => false

/-- The nearest integer to a finite value, ties to even. -/
def roundInt (neg : Bool) (m : Nat) (e : Int) : Int :=
  let (n, r, d) := scaleTo m e 0
  let k := roundNearest n r d false
  if neg then -(k : Int) else k

/-- Conversion to a format (R207, R208, Table 7-5). -/
def NumFmt.convert (f : NumFmt) (saturate : Bool) (random : Option Nat) (v : FVal) : Converted :=
  match f.float with
  | some x => x.encode saturate random v
  | none =>
    match v with
    | .nan => ⟨0, false⟩
    | .inf neg => ⟨((if neg then f.lo else f.hi) % (2 ^ f.bits : Nat)).toNat, true⟩
    | .fin neg m e =>
      let z := match random with
        | none => roundInt neg m e
        | some r =>
          let (n, q, d) := scaleTo m e 0
          let k : Int := if q ≠ 0 ∧ q * 65536 / d + r % 65536 ≥ 65536 then n + 1 else n
          if neg then -k else k
      let c := max f.lo (min f.hi z)
      ⟨(c % (2 ^ f.bits : Nat)).toNat, c ≠ z⟩

/-! ### Accumulators -/

def AccCell.zero : AccCell := ⟨0, 0, 0⟩

/-- The shift of a power of two that is not negative for exact-mode inputs. -/
def shiftInt (z : Int) (k : Int) : Int := z * (2 ^ k.toNat : Nat)

/-- `exact_mac` (R201). -/
def exactMac (a : AccCell) (x y : FVal) : AccCell :=
  let a := { a with terms := a.terms + 1 }
  match x, y with
  | .nan, _ | _, .nan => { a with special := a.special ||| 4 }
  | .inf p, .inf q => { a with special := a.special ||| (if p != q then 2 else 1) }
  | .inf p, .fin q m _ | .fin q m _, .inf p =>
    { a with special := a.special ||| (if m = 0 then 4 else if p != q then 2 else 1) }
  | .fin p m e, .fin q n g =>
    let z : Int := shiftInt (m * n : Nat) (e + g + 48)
    { a with v := ((a.v + (if p != q then -z else z)) % (2 ^ 128 : Nat)).toNat }

/-- `exact_add` (R201). -/
def exactAdd (a b : AccCell) : AccCell := ⟨(a.v + b.v) % 2 ^ 128, a.terms + b.terms, a.special ||| b.special⟩

/-- The value an exact accumulator is read out as (R202). -/
def AccCell.exactValue (a : AccCell) : FVal :=
  if a.special.testBit 2 ∨ a.special % 4 = 3 then .nan
  else if a.special.testBit 0 then .inf false
  else if a.special.testBit 1 then .inf true
  else let z := signed 128 a.v; .fin (z < 0) z.natAbs (-48)

/-- The 24 bytes of a stored exact partial (R203). -/
def AccCell.encodeExact (a : AccCell) : Bytes := leBytes 16 a.v ++ leBytes 6 (sat 48 a.terms) ++ leBytes 1 a.special ++ zeros 1

def AccCell.decodeExact (b : Bytes) : AccCell := ⟨leAt b 0 16, leAt b 16 6, leAt b 22 1⟩

/-- INT8 dense (R200): the product is added modulo 2^64 and counted. -/
def intMac (a : AccCell) (x y : Int) : AccCell :=
  { a with v := ((a.v + x * y) % (2 ^ 64 : Nat)).toNat, terms := a.terms + 1 }

/-- One level of the pairwise tree. -/
def pairSums : List Nat → List Nat
  | a :: b :: l => fp32Add a b :: pairSums l
  | l => l

/-- The pairwise tree of R205 over FP32 bits; `n` bounds its levels. -/
def treeSum : Nat → List Nat → Nat
  | 0, l => l.headD 0
  | n + 1, l => match l with
    | [] => 0
    | [a] => a
    | l => treeSum n (pairSums l)

/-- `block32` (R205) over the FP32 bits of the operands. -/
def block32 (a b : List Nat) : Nat := treeSum 5 ((a.zip b).map fun p => fp32Mul p.1 p.2)

/-- Row `i` of a 32×32 tile, and column `j`. -/
def OpTile.row (t : OpTile) (i : Nat) : List Nat := (t.elems.drop (32 * i)).take 32
def OpTile.col (t : OpTile) (j : Nat) : List Nat := (List.range 32).map fun k => t.elems.getD (32 * k + j) 0

/-- FP32 bits of an element. -/
def NumFmt.toFp32 (f : NumFmt) (b : Nat) : Nat := fp32Of (f.value b)

/-- One cell of MMA: the dot product of a row of A with a column of B added by the mode's rule. -/
def mmaCell (m : MmaMode) (fa fb : NumFmt) (c : AccCell) (a b : List Nat) : AccCell :=
  match m with
  | .int8 => (a.zip b).foldl (fun c p => intMac c (fa.int p.1) (fb.int p.2)) c
  | .exact => (a.zip b).foldl (fun c p => exactMac c (fa.value p.1) (fb.value p.2)) c
  | .fp8 | .half => { c with v := fp32Add c.v (block32 (a.map fa.toFp32) (b.map fb.toFp32)) }

/-- The formats of a mode (Table 7-2). -/
def MmaMode.allows (m : MmaMode) (f : NumFmt) : Bool :=
  match m with
  | .int8 => f == .int8 || f == .uint8
  | .fp8 => f == .e4m3 || f == .e5m2
  | .half => f == .fp16 || f == .bf16
  | .exact => f == .int8 || f == .e4m3 || f == .e5m2 || f == .fp16

/-- The accumulator kind of a mode. -/
def MmaMode.kind : MmaMode → AccKind
  | .int8 => .int
  | .exact => .exact
  | .fp8 | .half => .fp

/-- A tile after MMA. -/
def mmaTile (m : MmaMode) (a b : OpTile) (cells : List AccCell) : List AccCell :=
  let rows := (List.range 32).map a.row
  let cols := (List.range 32).map b.col
  let pairs := rows.flatMap fun r => cols.map fun c => (r, c)
  (cells.zip pairs).map fun p => mmaCell m a.fmt b.fmt p.1 p.2.1 p.2.2

/-- The value of an accumulator at readout. -/
def AccCell.value (k : AccKind) (a : AccCell) : FVal :=
  match k with
  | .fp => fmtFp32.decode a.v
  | .int => let z := signed 64 a.v; .fin (z < 0) z.natAbs 0
  | .exact => a.exactValue

/-- A NaN or an infinity has reached the accumulator. -/
def AccCell.nonfinite (k : AccKind) (a : AccCell) : Bool := (a.value k).nonfinite || (k == .exact && a.special != 0)

/-- More products than the limit of R200 and R202. -/
def AccCell.overLimit (k : AccKind) (a : AccCell) : Bool := k != .fp && 2 ^ 40 < a.terms

/-- Bytes of a stored accumulator of each kind. -/
def AccKind.cellBytes : AccKind → Nat
  | .fp => 4 | .int => 8 | .exact => 24

def AccKind.encode (k : AccKind) (a : AccCell) : Bytes :=
  match k with
  | .fp => leBytes 4 a.v | .int => leBytes 8 a.v | .exact => a.encodeExact

def AccKind.decode (k : AccKind) (b : Bytes) : AccCell :=
  match k with
  | .fp => ⟨leAt b 0 4, 0, 0⟩ | .int => ⟨leAt b 0 8, 0, 0⟩ | .exact => AccCell.decodeExact b

/-- A stored partial added to an accumulator (ACC). -/
def AccKind.addCell (k : AccKind) (a b : AccCell) : AccCell :=
  match k with
  | .fp => { a with v := fp32Add a.v b.v }
  | .int => { a with v := (a.v + b.v) % 2 ^ 64, terms := a.terms + b.terms }
  | .exact => exactAdd a b

/-! ### Output conversion -/

/-- The 16 random bits of element `i` of an output tensor (R208). -/
def stochasticBits (key sample slot i : Nat) : Nat :=
  let j := i % 8
  let w := philoxWord key sample 1 slot (4 * (i / 8) + j / 2)
  if j % 2 = 0 then w % 65536 else w / 65536

/-- emax of an MX element format (R209). -/
def mxEmax : NumFmt → Int
  | .e4m3 => 8 | .e5m2 => 15 | .e3m2 => 4 | _ => 2

/-- floor(log2) of the largest magnitude of a block; none where every value is zero. -/
def mxLead (l : List FVal) : Option Int :=
  l.foldl (fun m v => match v with
    | .fin _ k e => if k = 0 then m else match m with
      | none => some (leadExp k e)
      | some x => some (max x (leadExp k e))
    | _ => m) none

/-- A value times a power of two. -/
def FVal.scale (v : FVal) (k : Int) : FVal :=
  match v with
  | .fin a m e => .fin a m (e + k)
  | v => v

/-- A block of 32 values in an MX format (R209): the scale byte and the elements, with whether any saturated. -/
def mxBlock (f : NumFmt) (l : List (FVal × Option Nat)) : Nat × List Nat × Bool :=
  if l.any fun p => p.1.nonfinite then (0xFF, l.map fun _ => 0, false)
  else match mxLead (l.map (·.1)) with
    | none => (0, l.map fun _ => 0, false)
    | some x =>
      let s := max (-127) (min 127 (x - mxEmax f))
      let c := l.map fun p => f.convert true p.2 (p.1.scale (-s))
      ((s + 127).toNat, c.map (·.bits), c.any (·.saturated))

/-- Packs elements of `w` bits with no padding (R210). -/
def packBits (w : Nat) (l : List Nat) : Bytes :=
  let n := l.reverse.foldl (fun a x => a * 2 ^ w + x % 2 ^ w) 0
  leBytes (ceilDiv (w * l.length) 8) n

/-- Blocks of 32 of a list, the last padded with zeros; `n` bounds the blocks. -/
def blocks32 {α : Type} (pad : α) : Nat → List α → List (List α)
  | 0, _ => []
  | n + 1, l => if l.isEmpty then []
    else ((l.take 32) ++ List.replicate (32 - min 32 l.length) pad) :: blocks32 pad n (l.drop 32)

/-! ### Integer pixel pipelines (R211) -/

/-- GREY. -/
def grey (r g b : Nat) : Nat := (19595 * r + 38470 * g + 7471 * b + 32768) / 65536

/-- One box halving. -/
def halve : List Nat → List Nat
  | a :: b :: l => (a + b + 1) / 2 :: halve l
  | _ => []

/-- Box halvings while the length is at least twice the output's; `n` bounds them. -/
def halvings : Nat → Nat → List Nat → List Nat
  | 0, _, l => l
  | k + 1, m, l => if 2 * m ≤ l.length ∧ 0 < m then halvings k m (halve l) else l

/-- `resize_1d`. -/
def resize1d (l : List Nat) (m : Nat) : List Nat :=
  let x := halvings 32 m l
  let n := x.length
  (List.range m).map fun o =>
    let s : Int := ((2 * o + 1) * n * 32768 / m : Nat) - 32768
    let s := (max 0 (min s (((n - 1) * 65536 : Nat) : Int))).toNat
    let i0 := s / 65536
    let fr := s % 65536
    let i1 := min (i0 + 1) (n - 1)
    (x.getD i0 0 * (65536 - fr) + x.getD i1 0 * fr + 32768) / 65536

/-! ### The vector unit -/

/-- Lanes of a 1,024-bit vector: 32, 64 or 128 by the lane's width (R197). -/
def NumFmt.lanes (f : NumFmt) : Nat := 1024 / f.bits

/-- Whether a format is a lane format of VALU: an integer one, FP32, FP16 or BF16. -/
def NumFmt.isLane (f : NumFmt) : Bool :=
  f == .int8 || f == .uint8 || f == .int16 || f == .int32 || f == .fp32 || f == .fp16 || f == .bf16

/-- The lanes of a register, lowest first. -/
def lanesOf (f : NumFmt) (v : Nat) : List Nat := (List.range f.lanes).map fun i => v / 2 ^ (f.bits * i) % 2 ^ f.bits

/-- The register of a list of lanes. -/
def ofLanes (f : NumFmt) (l : List Nat) : Nat := l.reverse.foldl (fun a x => a * 2 ^ f.bits + x % 2 ^ f.bits) 0

/-- All bits of a lane where `b` holds: the mask that a compare writes and a select reads. -/
def laneMask (f : NumFmt) (b : Bool) : Nat := if b then 2 ^ f.bits - 1 else 0

/-- Minimum and maximum of IEEE 754-2019 on values with their bits: NaN propagates, and -0 lies below +0. -/
def fminBits (x : Fmt) (a b : Nat) (max_ : Bool) : Nat :=
  match x.decode a, x.decode b with
  | .nan, _ | _, .nan => x.nan
  | p, q =>
    let aLow := p.lt q || (p.eq q && 2 ^ (x.mbits + x.ebits) ≤ a)
    if aLow != max_ then a else b

/-- Whether the function of RCP, RSQRT or LOG2 has no value at an operand: zero, and for the last two anything negative.
The spec states no result there. -/
def noValue (fn : ValuFn) (a : Nat) : Bool :=
  match fn, fmtFp32.decode a with
  | .rcp, .fin _ m _ => m == 0
  | .rsqrt, .fin neg m _ => neg || m == 0
  | .log2, .fin neg m _ => neg || m == 0
  | .rsqrt, .inf neg => neg
  | .log2, .inf neg => neg
  | _, _ => false

/-- One lane of an elementwise operation; `free` is the value of a lane that the spec leaves open (a shift of the
lane's width or more, a function without a value at its operand). -/
def valuLane (fn : ValuFn) (f : NumFmt) (a b c free : Nat) : Nat :=
  let w : Nat := 2 ^ f.bits
  let ofInt : Int → Nat := fun z => (z % (w : Int)).toNat
  match fn with
  | .and_ => a &&& b
  | .or_ => a ||| b
  | .xor => a ^^^ b
  | .not => w - 1 - a
  | .select => if a ≠ 0 then b else c
  | .shl => if f.bits ≤ b then free else a * 2 ^ b % w
  | .shr => if f.bits ≤ b then free else a / 2 ^ b
  | .sar => if f.bits ≤ b then free else ofInt (Int.fdiv (signed f.bits a) (2 ^ b))
  | .rcp => if noValue .rcp a then free else fp32Rcp a
  | .rsqrt => if noValue .rsqrt a then free else fp32Rsqrt a
  | .exp2 => fp32Exp2 a
  | .log2 => if noValue .log2 a then free else fp32Log2 a
  | .grey => grey a b c % w
  | .resize .. => a
  | fn =>
    match f.float with
    | some x =>
      let p := x.decode a
      let q := x.decode b
      let out := fun (v : FVal) => (x.encode false none v).bits
      match fn with
      | .add => out (p.sum q)
      | .sub => out (p.sum q.negate)
      | .mul => out (p.prod q)
      | .fma => out ((p.prod q).sum (x.decode c))
      | .min => fminBits x a b false
      | .max => fminBits x a b true
      | .cmpLt => laneMask f (p.lt q)
      | .cmpLe => laneMask f (p.lt q || p.eq q)
      | _ => laneMask f (p.eq q)
    | none =>
      let p := f.int a
      let q := f.int b
      match fn with
      | .add => ofInt (p + q)
      | .sub => ofInt (p - q)
      | .mul => ofInt (p * q)
      | .fma => ofInt (p * q + f.int c)
      | .min => ofInt (min p q)
      | .max => ofInt (max p q)
      | .cmpLt => laneMask f (p < q)
      | .cmpLe => laneMask f (p ≤ q)
      | _ => laneMask f (p = q)

/-- Whether an operation exists on a lane format: the elementary functions in FP32 alone, shifts and the pixel
pipelines on integers. -/
def valuOk (fn : ValuFn) (f : NumFmt) : Bool :=
  f.isLane && match fn with
    | .rcp | .rsqrt | .exp2 | .log2 => f == .fp32
    | .shl | .shr | .sar | .grey => f.float.isNone
    | .resize n m => f.float.isNone && 0 < n && n ≤ f.lanes && 0 < m && m ≤ f.lanes
    | _ => true

/-- Whether an operation has a lane whose result the spec leaves open. -/
def valuOpen (fn : ValuFn) (f : NumFmt) (a b : List Nat) : Bool :=
  match fn with
  | .shl | .shr | .sar => b.any fun x => f.bits ≤ x
  | _ => a.any (noValue fn)

/-- A whole VALU operation on registers. -/
def valuVec (fn : ValuFn) (f : NumFmt) (a b c free : Nat) : Nat :=
  let la := lanesOf f a
  match fn with
  | .resize n m => ofLanes f (resize1d (la.take n) m)
  | fn =>
    let l := (la.zip (lanesOf f b)).zip ((lanesOf f c).zip (lanesOf f free))
    ofLanes f (l.map fun p => valuLane fn f p.1.1 p.1.2 p.2.1 p.2.2)

/-- VRED: the pairwise tree over floating-point lanes, in FP32, or an exact integer sum (R205). -/
def vredVec (f : NumFmt) (a : Nat) : Nat :=
  match f.float with
  | some x =>
    treeSum 7 ((lanesOf f a).map fun v => fp32Of (x.decode v))
  | none =>
    let z : Int := ((lanesOf f a).map f.int).foldl (fun x y => x + y) 0
    (z % (2 ^ 64 : Nat)).toNat

end Sys2Proof.Machine
end

