-- ==== Sys2Proof/Machine/Recipe.lean ====
section
/-! DEFINITION. The transform catalogue (R212, Table 7-6): what the slots of a recipe make of an item, with the parameters
that R48 and R49 draw. -/
namespace Sys2Proof.Machine

/-- Bytes of an element; 0 for formats that the slots do not read element by element. -/
def ElemFmt.bytes : ElemFmt → Nat
  | .uint n => n
  | .num f => f.bits / 8
  | .mx _ => 0

/-- The value of an element's bits. -/
def ElemFmt.value : ElemFmt → Nat → FVal
  | .uint _, v => .fin false v 0
  | .num f, v => f.value v
  | .mx _, _ => .nan

/-- Whether elements are unsigned integers, which the pixel pipelines take (R211). -/
def ElemFmt.unsigned : ElemFmt → Bool
  | .uint _ | .num .uint8 => true
  | _ => false

/-- A frame: its channels, each a list of rows. -/
abbrev Frame2D := List (List (List Nat))

/-- A list cut into pieces of `n`; `fuel` bounds them. -/
def piecesOf {α : Type} (n : Nat) : Nat → List α → List (List α)
  | 0, _ => []
  | fuel + 1, l => if l.isEmpty then [] else l.take n :: piecesOf n fuel (l.drop n)

/-- Rows and columns exchanged, for rows of `n` elements. -/
def columns (n : Nat) (rows : List (List Nat)) : List (List Nat) := (List.range n).map fun x => rows.map fun r => r.getD x 0

/-- The elements of a tensor in the order in which its bytes hold them. -/
def Tensor.elems (t : Tensor) (b : Bytes) : List Nat :=
  (List.range (t.frames * t.height * t.width * t.channels)).map fun i => leAt b (t.fmt.bytes * i) t.fmt.bytes

/-- The frames of a tensor: planar, channel by channel, or interleaved, pixel by pixel. -/
def Tensor.split (t : Tensor) (l : List Nat) : List Frame2D :=
  (piecesOf (t.height * t.width * t.channels) t.frames l).map fun f =>
    if t.planar then (piecesOf (t.height * t.width) t.channels f).map fun c => piecesOf t.width t.height c
    else
      let rows := piecesOf (t.width * t.channels) t.height f
      (List.range t.channels).map fun c => rows.map fun r => (List.range t.width).map fun x => r.getD (x * t.channels + c) 0

/-- The elements of frames, in the tensor's order. -/
def Tensor.join (t : Tensor) (l : List Frame2D) : List Nat :=
  l.flatMap fun f =>
    if t.planar then f.flatten.flatten
    else (List.range t.height).flatMap fun y => (List.range t.width).flatMap fun x =>
      f.map fun c => (c.getD y []).getD x 0

/-- The bytes of elements. -/
def Tensor.pack (t : Tensor) (l : List Nat) : Bytes := l.flatMap (leBytes t.fmt.bytes)

/-- A tensor with its bytes, and whether a slot left any of them open. -/
structure Made where
  shape : Tensor
  bytes : Bytes
  open_ : Bool
deriving DecidableEq, Repr

/-- The words of a slot's parameters (R48) and a free value for each element that the spec leaves open. -/
structure SlotCtx where
  word : Nat → Nat
  random : Nat → Nat → Nat
  free : Nat → Nat
  fill : Nat

/-- Every frame's every channel takes its image under `f`; the tensor takes its new shape. -/
def Made.mapPlanes (m : Made) (t : Tensor) (f : List (List Nat) → List (List Nat)) : Made :=
  { m with shape := t, bytes := t.pack (t.join ((m.shape.split (m.shape.elems m.bytes)).map fun x => x.map f)) }

/-- Every element takes its value under `f`, which knows its place and its channel. -/
def Made.mapElems (m : Made) (fmt : ElemFmt) (f : Nat → Nat → Nat → Nat) : Made :=
  let t := { m.shape with fmt := fmt }
  let chan := fun (i : Nat) => if m.shape.planar then i / (m.shape.width * m.shape.height) % m.shape.channels
    else i % m.shape.channels
  let l := m.shape.elems m.bytes
  { m with shape := t, bytes := t.pack ((l.zip (List.range l.length)).map fun p => f p.2 (chan p.2) p.1) }

/-- A slot that the spec gives no meaning for this tensor: its output is open. -/
def Made.unstated (m : Made) (x : SlotCtx) : Made :=
  { m with bytes := (List.range m.bytes.length).map fun i => BitVec.ofNat 8 (x.free i), open_ := true }

/-- The window of CROP and CUTOUT; what lies outside the image is none. -/
def window {α : Type} (x0 y0 w h : Nat) (rows : List (List α)) : List (List (Option α)) :=
  (List.range h).map fun j => (List.range w).map fun i => (rows[y0 + j]?).bind fun r => r[x0 + i]?

/-- CROP and CUTOUT: a window, filled outside with an element's value or with the FILL pattern by the byte's place. -/
def Made.crop (m : Made) (x : SlotCtx) (w h : Nat) (nan : Bool) : Made :=
  let x0 := (ParamKind.uint 0 (m.shape.width - w)).value (x.word 0)
  let y0 := (ParamKind.uint 0 (m.shape.height - h)).value (x.word 1)
  let t := { m.shape with width := w, height := h }
  let mark := fun (o : Option Nat) => match o with | some v => v + 1 | none => 0
  let l := t.join ((m.shape.split (m.shape.elems m.bytes)).map fun f => f.map fun c =>
    (window x0 y0 w h c).map fun r => r.map mark)
  let n := t.fmt.bytes
  let fill := fun (i : Nat) => if nan then fmtFp32.nan
    else leNat ((List.range n).map fun k => BitVec.ofNat 8 (x.fill / 256 ^ ((n * i + k) % 4)))
  { m with shape := t, bytes := t.pack ((l.zip (List.range l.length)).map fun p => if p.1 = 0 then fill p.2 else p.1 - 1) }

/-- RESIZE (R211): rows first, then columns. -/
def resize2d (w h : Nat) (rows : List (List Nat)) : List (List Nat) :=
  columns h ((columns w (rows.map fun r => resize1d r w)).map fun c => resize1d c h)

/-- A quarter turn, against the clock or with it. -/
def quarterTurn (clockwise : Bool) (rows : List (List Nat)) : List (List Nat) :=
  let cols := columns ((rows.headD []).length) rows
  if clockwise then cols.map List.reverse else cols.reverse

/-- `n` quarter turns. -/
def quarterTurns (clockwise : Bool) : Nat → List (List Nat) → List (List Nat)
  | 0, l => l
  | n + 1, l => quarterTurns clockwise n (quarterTurn clockwise l)

/-- CONVERT (R207 to R210): MX blocks run along the innermost dimension, and their scales follow the elements. -/
def Made.convert (m : Made) (x : SlotCtx) (f : NumFmt) (mx saturate : Bool) (tensor : Option Nat) : Made :=
  let l := m.shape.elems m.bytes
  let inp := (l.zip (List.range l.length)).map fun p =>
    (m.shape.fmt.value p.1, tensor.map fun n => x.random n p.2)
  if mx then
    let line := if m.shape.planar || m.shape.channels = 1 then m.shape.width else m.shape.channels
    let blocks := (piecesOf line l.length inp).flatMap fun r =>
      (blocks32 (((FVal.fin false 0 0), none) : FVal × Option Nat) (r.length / 32 + 1) r).map (mxBlock f)
    { m with shape := { m.shape with fmt := .mx f },
             bytes := packBits f.bits (blocks.flatMap fun b => b.2.1) ++ blocks.map fun b => BitVec.ofNat 8 b.1 }
  else
    let t := { m.shape with fmt := .num f }
    { m with shape := t, bytes := t.pack (inp.map fun p => (f.convert saturate p.2 p.1).bits) }

/-- FP32 bits of an element's value. -/
def ElemFmt.toFp32 (f : ElemFmt) (v : Nat) : Nat := (fmtFp32.encode false none (f.value v)).bits

/-- LOG_STRETCH of an element: LOG2(1 + v × a) × b in FP32; open where LOG2 has no value. -/
def logStretch (a b free v : Nat) : Nat :=
  let y := fp32Add (fp32Of (.fin false 1 0)) (fp32Mul v a)
  if noValue .log2 y then free else fp32Mul (fp32Log2 y) b

/-- One slot of a recipe (Table 7-6). -/
def Made.slot (m : Made) (x : SlotCtx) (t : Transform) : Made :=
  let sh := m.shape
  let px := sh.fmt.bytes != 0
  match t with
  | .given shape bytes => { m with shape := shape, bytes := bytes }
  | .crop w h => if px then m.crop x w h false else m.unstated x
  | .cutout w h => if px then m.crop x w h (sh.fmt == .num .fp32) else m.unstated x
  | .resize w h =>
    if sh.fmt.unsigned && 0 < sh.width && 0 < sh.height then
      m.mapPlanes { sh with width := w, height := h } (resize2d w h)
    else m.unstated x
  | .flip threshold =>
    if !px then m.unstated x
    else if (ParamKind.bool threshold).value (x.word 0) = 1 then m.mapPlanes sh fun p => p.map List.reverse
    else m
  | .rot90 =>
    let k := (ParamKind.choice 4).value (x.word 0)
    if !px then m.unstated x
    else m.mapPlanes (if k % 2 = 1 then { sh with width := sh.height, height := sh.width } else sh)
      (quarterTurns Config.rot90Clockwise k)
  | .grey =>
    if sh.fmt.unsigned && sh.channels == 3 then
      let t := { sh with channels := 1 }
      { m with shape := t, bytes := t.pack (t.join ((sh.split (sh.elems m.bytes)).map fun f =>
          [(List.range sh.height).map fun y => (List.range sh.width).map fun i =>
            grey (((f.getD 0 []).getD y []).getD i 0) (((f.getD 1 []).getD y []).getD i 0)
              (((f.getD 2 []).getD y []).getD i 0)])) }
    else m.unstated x
  | .gainOffset g0 g1 o0 o1 =>
    if !px then m.unstated x
    else
      let g := (ParamKind.float g0 g1).value (x.word 0)
      let o := (ParamKind.float o0 o1).value (x.word 1)
      m.mapElems (.num .fp32) fun _ _ v => fp32Add (fp32Mul (sh.fmt.toFp32 v) g) o
  | .normalize mean inv =>
    if !px then m.unstated x
    else m.mapElems (.num .fp32) fun _ c v => fp32Mul (fp32Sub (sh.fmt.toFp32 v) (mean.getD c 0)) (inv.getD c 0)
  | .logStretch a b =>
    if !px then m.unstated x
    else
      let y := m.mapElems (.num .fp32) fun i _ v => logStretch a b (x.free i % 2 ^ 32) (sh.fmt.toFp32 v)
      let none_ := (sh.elems m.bytes).any fun v =>
        noValue .log2 (fp32Add (fp32Of (.fin false 1 0)) (fp32Mul (sh.fmt.toFp32 v) a))
      { y with open_ := m.open_ || none_ }
  | .clipStart lo hi count =>
    if !px then m.unstated x
    else
      let f := ((sh.split (sh.elems m.bytes)).drop ((ParamKind.uint lo hi).value (x.word 0))).take count
      let t := { sh with frames := f.length }
      { m with shape := t, bytes := t.pack (t.join f) }
  | .spanMask s0 s1 l0 l1 mask =>
    if sh.fmt == .uint 4 then
      let a := (ParamKind.uint s0 s1).value (x.word 0)
      let n := (ParamKind.uint l0 l1).value (x.word 1)
      m.mapElems sh.fmt fun i _ v => if a ≤ i ∧ i < a + n then mask else v
    else m.unstated x
  | .convert f mx saturate tensor => if px then m.convert x f mx saturate tensor else m.unstated x

/-- The slots of a recipe from slot number `n` on. At the end of the seasoned prefix the output is kept, or replaced by what
the cache holds (R242, R244); the result is what the last slot made, with the prefix's output. -/
def runSlots (ctx : Nat → SlotCtx) (prefixSlot : Option Nat) (cached : Option Bytes) :
    Nat → List Transform → Made × Bytes → Made × Bytes
  | _, [], m => m
  | n, t :: l, m =>
    let y := m.1.slot (ctx n) t
    if prefixSlot = some n then
      let b := cached.getD y.bytes
      runSlots ctx prefixSlot cached (n + 1) l ({ y with bytes := b }, b)
    else runSlots ctx prefixSlot cached (n + 1) l (y, m.2)

/-- What a recipe makes of an item of a sample: its slots run on the content given, with the parameters of the epoch's Philox
key (R48, R51). Without slots the content is the recipe's output. -/
def ItemContent.made (i : ItemContent) (key sample ctr : Nat) (b : BuckBlock) (cached : Option Bytes) : ItemContent × Bool :=
  match i.run with
  | none => (i, false)
  | some r =>
    let ctx := fun (n : Nat) =>
      (⟨philoxWord key sample 0 n, stochasticBits key sample, 
        fun k => leNat (Config.freeBytes ctr (8 * (4096 * k + n % 4096 + 1))), b.fill⟩ : SlotCtx)
    let m := runSlots ctx b.prefixSlot cached r.first r.slots (⟨r.shape, i.content, false⟩, i.prefixOut)
    ({ i with content := m.1.bytes, prefixOut := m.2, run := none }, m.1.open_)

end Sys2Proof.Machine
end

