-- ==== Sys2Proof/Machine/SchedOps.lean ====
section
/-! DEFINITION. The schedule's shared arithmetic: epoch starts and launch instants (R56), the sample at a position (R44,
R61), the reserve of a section (R250) and exclusions (R70). -/
namespace Sys2Proof.Machine

/-- The ring at which ACTIVE's epoch starts (R56). -/
def State.epochStart (s : State) : Nat := s.num Reg.sched.runStart + s.sched.pastRings + s.sched.shiftRings

/-- The ring at which NEXT's epoch starts. -/
def State.nextStart (s : State) : Nat :=
  match s.sched.active with
  | none => s.epochStart
  | some a => s.epochStart + a.hdr.epochRings

/-- The launch ring of a fragment of an epoch that starts at `start` (R56). -/
def Section.launchRing (x : Section) (start : Nat) (f : Fragment) : Nat :=
  start + x.hdr.firstLaunch + f.step * x.hdr.stepPeriod + f.ringOffset

/-- The launch ring of a takeover descriptor: its own RING_OFFSET is that of the takeover launch, its TAKEOVER_RING_OFFSET
being zero (Table 2-14). -/
def Section.takeoverRing (x : Section) (start : Nat) (f : Fragment) : Nat :=
  start + x.hdr.firstLaunch + f.step * x.hdr.stepPeriod + f.ringOffset

/-- The section of an epoch, with the ring at which the epoch starts. -/
def State.sectionOf (s : State) (epoch : Nat) : Option (Section × Nat) :=
  match s.sched.active with
  | some a => if a.hdr.epoch = epoch then some (a, s.epochStart) else
    match s.sched.next with
    | some n => if n.hdr.epoch = epoch then some (n, s.nextStart) else none
    | none => none
  | none => match s.sched.next with
    | some n => if n.hdr.epoch = epoch then some (n, s.nextStart) else none
    | none => none

/-- STEP (Table 2-19). -/
def State.stepNow (s : State) : Nat :=
  match s.sched.active with
  | none => 0
  | some a =>
    if !s.started then 0
    else
      let first := s.epochStart + a.hdr.firstLaunch
      if s.rc.ring < first ∨ a.hdr.stepPeriod = 0 then 0 else min ((s.rc.ring - first) / a.hdr.stepPeriod) (a.hdr.steps - 1)

/-- The ordinal at a position of an epoch's order (R44). -/
def State.ordinalAt (s : State) (epoch position : Nat) : Nat :=
  match s.sched.manifest with
  | none => 0
  | some m =>
    permute (roundFn (s.num Reg.permTest.roundSource) (s.blob Reg.permTest.roundTable) (s.num Reg.seed.seedLo)
      (s.num Reg.seed.seedHi) epoch) position m.eligible

/-- The sample record at a position, where the device stores its shard (R61). -/
def State.sampleAt (s : State) (epoch position : Nat) : Option SampleRec :=
  match s.sched.manifest with
  | none => none
  | some m =>
    if m.eligible ≤ position then none
    else
      let o := s.ordinalAt epoch position
      if m.graded then
        match m.ordinals[o]? with
        | none => none
        | some i => m.records.find? fun r => r.sampleIndex == i
      else m.records.find? fun r => r.place == o

/-- The extents of a fragment (R59, R60). -/
def Section.extentsOf (x : Section) (f : Fragment) : List Extent := (x.extents.drop f.firstExtent).take f.extentCount

/-- All extents of padding have this position. -/
def padPosition : Nat := 2 ^ 64 - 1

/-- The sum of a list of numbers. -/
def sum (l : List Nat) : Nat := l.foldl (· + ·) 0

/-- The largest of a list of numbers. -/
def largest (l : List Nat) : Nat := l.foldl max 0

/-- Bytes of takeover fragments of device `d` in two consecutive steps. -/
def Section.takeoverBytes (x : Section) (d step : Nat) : Nat :=
  sum ((x.takeovers.filter fun f => f.otherDevice == d && (f.step == step || f.step == step + 1)).map (·.length))

/-- The fault reserve a section needs (R250); zero in an unguarded schedule. -/
def Section.reserve (x : Section) : Nat :=
  if !x.hdr.guarded then 0
  else largest (x.takeovers.flatMap fun f => [x.takeoverBytes f.otherDevice f.step, x.takeoverBytes f.otherDevice (f.step - 1)])

/-- The largest total of normal fragments in one step. -/
def Section.stepBytes (x : Section) : Nat :=
  largest (x.fragments.map fun f => sum ((x.fragments.filter fun g => g.step == f.step).map (·.length)))

/-- The reserve in force (R251). -/
def State.reserveInForce (s : State) : Nat :=
  let n := match s.sched.next with
    | some x => if x.verified then x.reserve else 0
    | none => 0
  match s.sched.active with
  | none => n
  | some a => max a.reserve n

/-- An exclusion of a sample in a step is journaled once, before its fragment launches (R70, Table 2-23). -/
def State.excludeJournal (s : State) (epoch step sample reason : Nat) : State :=
  if s.sched.exclusions.contains (epoch * 2 ^ 32 + step, sample, reason) then s
  else
    let s := s.journal 0x0030 0 false (leBytes 4 epoch ++ leBytes 4 step ++ leBytes 8 sample ++ leBytes 2 reason)
    { s with sched := { s.sched with
      exclusions := s.sched.exclusions ++ [(epoch * 2 ^ 32 + step, sample, reason)] } }

end Sys2Proof.Machine
end

