-- ==== Sys2Proof/Machine/Bucker.lean ====
section
/-! DEFINITION. The bucker (R231 to R239, R254), the seasoned cache (R242 to R244) and the deck's preparation, levels and
alarms (R246 to R253). -/
namespace Sys2Proof.Machine

/-! ### Planes and items (R232 to R238) -/

/-- Bytes `lo` to `lo + n - 1` of a plane whose byte `i` is `f i`. -/
def planeBytes (f : Nat → Byte) (lo n : Nat) : Bytes := (List.range n).map fun i => f (lo + i)

/-- Byte `i` of a repeated 32-bit pattern, little-endian. -/
def patternByte (v i : Nat) : Byte := BitVec.ofNat 8 (v / 256 ^ (i % 4))

/-- The fill of plane 0: FILL for TENSOR items, PAD_ID for the others (R233, R235). -/
def BuckBlock.pad (b : BuckBlock) : Nat := if b.itemKind = 1 then b.fill else b.padId

/-- Plane 0 of an item (R233). -/
def BuckBlock.data (b : BuckBlock) (content : Bytes) : Bytes :=
  if b.itemKind = 3 then content
  else (content.take b.itemBytes) ++ planeBytes (patternByte b.pad) content.length (b.itemBytes - content.length)

/-- The item record (Table 8-3). -/
def itemRecord (sample position concealed flags reason bytes recipe : Nat) : Bytes :=
  leBytes 8 sample ++ leBytes 8 position ++ leBytes 4 concealed ++ leBytes 2 flags ++ leBytes 2 reason ++ leBytes 4 bytes ++
    leBytes 2 recipe ++ zeros 2

/-- The record of an item read from its sample. -/
def BuckBlock.record (b : BuckBlock) (recipe sample : Nat) (i : ItemContent) : Bytes :=
  let cut := decide (b.itemBytes < i.content.length)
  let short := decide (i.content.length < b.itemBytes)
  itemRecord sample i.position i.concealed
    (1 + 2 * (i.concealed != 0).toNat + 4 * i.derived.toNat + 8 * cut.toNat + 64 * short.toNat) 0 i.content.length recipe

/-- What the bytes of an extent are generated from: padding, an excluded sample with its reason, or an item. -/
inductive ExtentSource where
  | padding
  | excluded (sample reason : Nat)
  | item (sample : Nat) (content : ItemContent)
deriving DecidableEq, Repr

/-- The bytes of one extent (R232, R233, R235, R236, R238). -/
def extentBytes (b : BuckBlock) (recipe : Nat) (e : Extent) (src : ExtentSource) : Bytes :=
  let off := e.itemOffset % 2 ^ 30
  match e.itemOffset / 2 ^ 30 with
  | 0 => match src with
    | .item _ i => bytesAt (b.data i.content) off e.length
    | _ => planeBytes (patternByte b.pad) off e.length
  | 1 => match src with
    | .item .. => planeBytes (patternByte (e.segment + 1)) off e.length
    | _ => zeros e.length
  | 2 => match src with
    | .item .. => planeBytes (fun i => patternByte (if b.positionMode = 0 then i / 4 - off / 4 else i / 4) i) off e.length
    | _ => zeros e.length
  | _ => match src with
    | .padding => bytesAt (itemRecord padPosition padPosition 0 16 0 0 recipe) off e.length
    | .excluded sample reason => bytesAt (itemRecord sample e.position 0 32 reason 0 recipe) off e.length
    | .item sample i => bytesAt (b.record recipe sample i) off e.length

/-- The immediate value of the flagged final write (Table 8-9). -/
def immediateValue (step contribution : Nat) (concealed invalid : Bool) : Nat :=
  step % 65536 + 65536 * (contribution % 16384) + 2 ^ 30 * concealed.toNat + 2 ^ 31 * invalid.toNat

/-! ### Deck entries -/

def State.putDeck (s : State) (d : Deck) : State := { s with deck := d }

def State.entry? (s : State) (k : FragKey) : Option DeckEntry := s.deck.entries.find? fun e => e.key == k

def State.putEntry (s : State) (e : DeckEntry) : State :=
  s.putDeck { s.deck with entries := s.deck.entries.map fun x => if x.key = e.key then e else x }

/-- The deck counters follow the entries (Table 8-10). -/
def State.deckRegs (s : State) : State :=
  let s := s.setN Reg.deck.deckBytesUsed (sum (s.deck.entries.map fun e => e.frag.length))
  let s := s.setN Reg.deck.reserveUsed (sum (s.deck.entries.map (·.reserve)))
  let s := s.setN Reg.deck.reserveBytes s.reserveInForce
  s.setN Reg.deck.decks (match s.sched.active with
    | none => 0
    | some a => (a.fragments.map (·.consumer)).eraseDups.length)

/-- An entry leaves the deck; the Skidder frees it as its last owner (R249). -/
def State.freeEntry (s : State) (e : DeckEntry) : State :=
  ((s.putDeck { s.deck with entries := s.deck.entries.filter fun x => x.key != e.key }).unitFree e.mem).deckRegs

/-- The bytes of an entry. -/
def State.entryBytes (s : State) (e : DeckEntry) : Bytes := s.bufRead e.mem 0 e.frag.length

/-- An epoch's fragments not yet begun, with their launch instants, in launch order as the table has them. -/
def State.pendingOf (s : State) (x : Section) (start : Nat) : List (FragKey × Fragment × Nat × Nat) :=
  (x.fragments.map fun f => (⟨x.hdr.epoch, f.step, f.consumer, none⟩, f, x.launchRing start f, f.grain)).filter
    fun (p : FragKey × Fragment × Nat × Nat) => !s.deck.begun.contains p.1

/-- Earlier by ring count, then grain, then consumer (R247). -/
def launchesBefore (a b : FragKey × Fragment × Nat × Nat) : Bool :=
  decide (a.2.2.1 < b.2.2.1) || (a.2.2.1 == b.2.2.1 &&
    (decide (a.2.2.2 < b.2.2.2) || (a.2.2.2 == b.2.2.2 && decide (a.1.consumer < b.1.consumer))))

/-- The first fragment in launch order. -/
def earliest : List (FragKey × Fragment × Nat × Nat) → Option (FragKey × Fragment × Nat × Nat)
  | [] => none
  | p :: l => match earliest l with
    | none => some p
    | some q => if launchesBefore q p then some q else some p

/-- The next fragment to begin: of ACTIVE and the active takeovers, then of a verified NEXT (R247). -/
def State.nextFragment (s : State) : Option (FragKey × Fragment × Nat × Nat) :=
  let tk := (s.deck.takeovers.map fun t => (t.key, t.frag, t.ring, t.grain)).filter
    fun (p : FragKey × Fragment × Nat × Nat) => !s.deck.begun.contains p.1
  let act_ := match s.sched.active with
    | some a => s.pendingOf a s.epochStart
    | none => []
  match earliest (tk ++ act_) with
  | some p => some p
  | none => match s.sched.next with
    | some n => if n.verified then earliest (s.pendingOf n s.nextStart) else none
    | none => none

/-- How much of an entry the reserve holds: a takeover draws on the reserve first (R251). -/
def State.reserveShare (s : State) (takeover : Bool) (len : Nat) : Nat :=
  if takeover then min len (s.reserveInForce - s.num Reg.deck.reserveUsed) else 0

/-- Whether the deck pool has room for an entry. -/
def State.deckRoom (s : State) (share len : Nat) : Bool :=
  let rest := sum (s.deck.entries.map fun e => e.frag.length - e.reserve)
  rest + (len - share) + s.reserveInForce ≤ s.num Reg.deck.deckPoolBytes

/-- The current attempt of a pair (R456). -/
def State.attemptOf (s : State) (epoch step consumer : Nat) : Nat :=
  match s.lookout.attempts.find? fun a => a.epoch == epoch && a.step == step && a.consumer == consumer with
  | some a => a.attempt
  | none => 0

/-- The ring of an entry's retention end (R249): that of its step, moved as far as a takeover of a new attempt was. -/
def State.retainRing (s : State) (k : FragKey) (f : Fragment) (ring : Nat) : Nat :=
  match s.sectionOf k.epoch with
  | none => ring
  | some (x, start) =>
    let planned := if k.orig.isSome then x.takeoverRing start f else x.launchRing start f
    start + x.hdr.firstLaunch + (f.step + 1) * x.hdr.stepPeriod + 4 + (ring - planned)

/-- PREPARE_FRAGMENT (R247): the next fragment in launch order is begun where its deck entry can be allocated. -/
def State.prepare (s : State) : State :=
  match s.nextFragment with
  | none => s
  | some (k, f, ring, grain) =>
    let share := s.reserveShare k.orig.isSome f.length
    if !s.deckRoom share f.length then s
    else match s.unitAlloc 0 none 7 f.length with
      | none => s
      | some (h, s) =>
        let tk := s.deck.takeovers.find? fun t => t.key == k
        let attempt := match tk with
          | some t => t.attempt
          | none => s.attemptOf k.epoch k.step k.consumer
        let e : DeckEntry := ⟨k, f, .preparing, ring, grain, attempt, h, share, 0, 0, s.retainRing k f ring, false,
          (tk.map (·.renewed)).getD false⟩
        (s.putDeck { s.deck with entries := s.deck.entries ++ [e], begun := s.deck.begun ++ [k] }).deckRegs

def execPrepareFragment (s : State) : Host.Outcome State Fault Refusal := live s State.prepare

/-! ### The seasoned cache (R242 to R245) -/

def State.seasonRegs (s : State) : State :=
  s.setN Reg.season.seasonBytesUsed (sum (s.deck.season.map (·.stored)))

/-- The digest over an entry's output, decode flags and CONCEALED_FRACTION. -/
def seasonDigest (output : Bytes) (derived : Bool) (concealed : Nat) : Bytes :=
  sha384 (output ++ leBytes 1 derived.toNat ++ leBytes 4 concealed)

/-- Bytes of entries in tier 0, and in tiers 1 and 2. -/
def State.seasonUsed (s : State) (hot : Bool) : Nat :=
  sum ((s.deck.season.filter fun e => (e.tier == 0) == hot).map (·.stored))

/-- Stores an entry: in tier 0 up to SEASON_HOT_BYTES, then compressed in tier 1 and 2 up to SEASON_BYTES_MAX, where
tier 1 takes it while T1_BULK has room; beyond that it is not stored and SEASON_FULL is raised once per epoch (R244). -/
def State.seasonStore (s : State) (k : SeasonKey) (i : ItemContent) (epoch : Nat) : State :=
  let d := seasonDigest i.prefixOut i.derived i.concealed
  let pool := if i.cluster < 8 then 2 else 5
  let n := i.prefixOut.length
  let hotOk := s.seasonUsed true + n ≤ s.num Reg.season.seasonHotBytes &&
    !s.overReserve pool 4 (ceilDiv n (poolBlockBytes pool))
  let put := fun (s : State) (tier stored mem : Nat) =>
    (s.putDeck { s.deck with season := s.deck.season ++ [⟨k, i.prefixOut, i.derived, i.concealed, d, tier, stored, mem⟩] }).seasonRegs
  let cold := fun (s : State) =>
    let c := (chipStream i.prefixOut (s.num Reg.chipCfg.seasonBlockLog2) false).length
    if s.seasonUsed false + c ≤ s.num Reg.season.seasonBytesMax then
      match s.unitAlloc 0 none 9 c with
      | some (h, s) => put s 1 c h
      | none => put s 2 c 0
    else if s.deck.seasonFull = some epoch then s
    else ((s.putDeck { s.deck with seasonFull := some epoch }).bump Reg.season.seasonFullEvents).raise 0x4881 0xFF 0xFF
      (leBytes 4 epoch)
  if hotOk then match s.unitAlloc 0 none pool n with
    | some (h, s) => put s 0 n h
    | none => cold s
  else cold s

/-- An item of a seasoned recipe: a hit, a corrupt entry rewritten, the first preparation of the run, which stores it, or a
miss of a later one; `planned` says that it is not a takeover's, which are planned at their green cost (R245). -/
def State.seasonItem (s : State) (epoch recipe slot : Nat) (planned : Bool) (r : SampleRec) (i : ItemContent) : State :=
  let set := match s.sectionOf epoch with
    | some (x, _) => x.hdr.recipeSetDigest
    | none => zeros 48
  let k : SeasonKey := ⟨r.sampleIndex, r.digest, set, recipe, slot, s.num Reg.sched.contentLevel⟩
  match s.deck.season.find? fun e => e.key == k with
  | some e =>
    let bad := seasonDigest e.output e.derived e.concealed != e.digest || (e.mem != 0 && s.bufPoisoned e.mem 0 e.stored)
    if bad then
      let s := s.putDeck { s.deck with season := s.deck.season.filter fun x => x.key != k }
      (((if e.mem = 0 then s else s.unitFree e.mem).bump Reg.season.seasonCorrupt).bumpIf planned Reg.season.seasonMisses).seasonStore k i epoch
    else s.bump Reg.season.seasonHits
  | none =>
    if s.deck.seasonSeen.contains (r.sampleIndex, recipe) then s.bumpIf planned Reg.season.seasonMisses
    else
      (s.putDeck { s.deck with seasonSeen := s.deck.seasonSeen ++ [(r.sampleIndex, recipe)] }).seasonStore k i epoch

/-- Every seasoned entry is discarded. -/
def State.seasonDiscard (s : State) : State :=
  let s := (s.deck.season.filter fun e => e.mem != 0).foldl (fun s e => s.unitFree e.mem) s
  (s.putDeck { s.deck with season := [], seasonSeen := [], seasonFull := none }).seasonRegs

/-- Whether seasoned settings may be written: not while STATE is RUNNING, HOLD or REPLAY (R256). -/
def State.seasonBusy (s : State) : Bool := s.started

/-- SEASON_CLEAR: writing true discards every entry. -/
def State.seasonClear (s : State) (v : Nat) : Except Nat State :=
  if s.seasonBusy then .error 0x4801 else .ok (if v = 0 then s else s.seasonDiscard)

def execSeasonClear (via : Via) (value : Bytes) (s : State) : Host.Outcome State Fault Refusal :=
  act s fun s => s.writeVia via 0x4810 8 value fun _ s => s.seasonClear (leNat value)

/-! ### Levels and the low-water alarm (R252, R253) -/

/-- The launch ring of the earliest fragment of a consumer's deck not READY, SENT or RETAINED. -/
def State.deckHead (s : State) (consumer : Nat) : Option Nat :=
  let of_ := fun (x : Section) (start : Nat) =>
    ((x.fragments.filter fun f => f.consumer == consumer &&
      !s.deck.done.contains ⟨x.hdr.epoch, f.step, f.consumer, none⟩).map fun f => x.launchRing start f)
  let a := match s.sched.active with | some a => of_ a s.epochStart | none => []
  let n := match s.sched.next with | some n => if n.verified then of_ n s.nextStart else [] | none => []
  let t := (s.deck.takeovers.filter fun t => t.frag.consumer == consumer && !s.deck.done.contains t.key).map (·.ring)
  match a ++ n ++ t with
  | [] => none
  | x :: l => some (l.foldl min x)

/-- The level of a deck, none where it has no such fragment (R252). -/
def State.deckLevel (s : State) (consumer : Nat) : Option Int :=
  (s.deckHead consumer).map fun l => min ((l : Int) - s.rc.ring) 0x7FFFFFFE

/-- The consumers served by ACTIVE, a verified NEXT and the active takeovers. -/
def State.deckConsumers (s : State) : List Nat :=
  let of_ := fun (x : Section) => x.fragments.map (·.consumer)
  ((match s.sched.active with | some a => of_ a | none => []) ++
    (match s.sched.next with | some n => if n.verified then of_ n else [] | none => []) ++
    s.deck.takeovers.map (·.frag.consumer)).eraseDups

/-- The low-water mark: DECK_LEAD × LOW_WATER_PCT / 100 (R253). -/
def State.lowWater (s : State) : Nat :=
  match s.sched.active with
  | some a => a.hdr.deckLead * s.num Reg.deck.lowWaterPct / 100
  | none => match s.sched.next with
    | some n => n.hdr.deckLead * s.num Reg.deck.lowWaterPct / 100
    | none => 0

/-- One deck's alarm: set with DECK_LOW when its level falls below the mark, cleared when it is at or above it again. -/
def State.deckAlarm (s : State) (c : Nat) (level : Option Int) : State :=
  let low := match level with
    | some l => decide (l < s.lowWater)
    | none => false
  let was := s.deck.alarms.contains c
  if low && !was then
    let s := s.putDeck { s.deck with alarms := s.deck.alarms ++ [c] }
    let slow := s.lowestSpeed
    -- R541: COOLING_REQUEST reads 100 for 10 s where an island is below the planning point
    let s := if slow < s.num Reg.islandCtl.planFactor then
        (s.putPwr { s.pwr with coolingUntil := some (s.now + 1000000000) }).coolingRegs else s
    (s.bump Reg.deck.deckLowEvents).raise 0x4880 0xFF 0xFF
      (leBytes 4 c ++ leBytes 4 (i32Bits (level.getD 0)) ++ leBytes 2 slow)
  else if !low && was then s.putDeck { s.deck with alarms := s.deck.alarms.filter fun x => x != c }
  else s

/-- One deck's alarm between ring boundaries: it follows a fragment that becomes READY at once (R253, Table 8-8). -/
def State.alarmNow (s : State) (c : Nat) : State :=
  let s := s.deckAlarm c (s.deckLevel c)
  s.setN Reg.deck.decksInAlarm s.deck.alarms.length

/-! ### FRAGMENT_READY (R232 to R238, R248, R254) -/

/-- The recorded exclusions that REPLAY mode follows: pairs of sample and step with their reason (R237). -/
def State.replayExcluded (s : State) (epoch step sample : Nat) : Option Nat :=
  (((s.sched.kept.filter fun j => j.runId == s.num Reg.replay.replayRunId).flatMap (·.records)).find? fun r =>
    r.type == 0x0030 && leAt r.payload 0 4 == epoch && leAt r.payload 4 4 == step && leAt r.payload 8 8 == sample).map
      fun r => leAt r.payload 16 2

/-- Where an extent's bytes come from; none while its item is still wanted. An orphaned shard excludes only what was not
read (R237). -/
def State.extentSource (s : State) (k : FragKey) (orphan : Nat → Bool) (items : List ItemContent) (e : Extent) :
    Option ExtentSource :=
  if e.position = padPosition then some .padding
  else match s.sampleAt k.epoch e.position with
    | none => none
    | some r =>
      let item := items.find? fun i => i.position == e.position
      let refused := (s.sched.refused.find? fun p => p.1 == r.sampleIndex).map (·.2)
      let reason := if s.schedState = schedReplay then s.replayExcluded k.epoch k.step r.sampleIndex
        else match refused with
          | some x => some x
          | none => if item.isNone && orphan r.shardId then some 0x20 else none
      match reason, item with
      | some x, _ => some (.excluded r.sampleIndex x)
      | none, some i => some (.item r.sampleIndex i)
      | none, none => none

/-- The items of a fragment that the bucker completed in plane 0. -/
def bucked (l : List (Extent × ExtentSource)) : List ItemContent :=
  (l.filterMap fun p => match p.2 with
    | .item _ i => if p.1.itemOffset / 2 ^ 30 = 0 then some i else none
    | _ => none).eraseDups

/-- The counters of the bucker. -/
def State.buckCounts (s : State) (b : BuckBlock) (l : List (Extent × ExtentSource)) : State :=
  let its := bucked l
  let kind := b.itemKind != 3
  let s := s.add Reg.buck.itemsBucked its.length
  let s := s.add Reg.buck.itemsTruncated (its.filter fun i => kind && decide (b.itemBytes < i.content.length)).length
  let s := s.add Reg.buck.itemsFilled (its.filter fun i => kind && decide (i.content.length < b.itemBytes)).length
  let s := s.add Reg.buck.padExtents (l.filter fun p => p.2 == .padding).length
  s.add Reg.buck.excludedExtents (l.filter fun p => match p.2 with | .excluded .. => true | _ => false).length

/-- The sample excluded by an extent, with its reason. -/
def ExtentSource.excl : ExtentSource → Option (Nat × Nat)
  | .excluded a b => some (a, b)
  | _ => none

/-- The extents of a fragment with their sources, once every one has its item. -/
def State.sources (s : State) (k : FragKey) (orphan : Nat → Bool) (items : List ItemContent) :
    List Extent → Option (List (Extent × ExtentSource))
  | [] => some []
  | e :: l => match s.extentSource k orphan items e, State.sources s k orphan items l with
    | some x, some r => some ((e, x) :: r)
    | _, _ => none

/-- The seasoned cache sees each item of a seasoned recipe. -/
def State.seasonItems (s : State) (k : FragKey) (recipe : Nat) (b : BuckBlock) (items : List ItemContent) : State :=
  match b.prefixSlot with
  | none => s
  | some slot => items.foldl (fun s i =>
      match s.sampleAt k.epoch i.position with
      | some r => s.seasonItem k.epoch recipe slot k.orig.isNone r i
      | none => s) s

/-- The sound entry of the seasoned cache that serves an item, if any (R243, R244). -/
def State.seasonHit (s : State) (epoch recipe : Nat) (b : BuckBlock) (r : SampleRec) : Option SeasonEntry :=
  match b.prefixSlot, s.sectionOf epoch with
  | some slot, some (x, _) =>
    (s.deck.season.find? fun e =>
      e.key == ⟨r.sampleIndex, r.digest, x.hdr.recipeSetDigest, recipe, slot, s.num Reg.sched.contentLevel⟩).filter fun e =>
        seasonDigest e.output e.derived e.concealed == e.digest && !(e.mem != 0 && s.bufPoisoned e.mem 0 e.stored)
  | _, _ => none

/-- What the recipe makes of the items (R212), each from the cache's prefix where it has it, and whether a value of one was
left open. -/
def State.madeItems (s : State) (epoch recipe : Nat) (b : BuckBlock) (items : List ItemContent) : List (ItemContent × Bool) :=
  (items.zip (List.range items.length)).map fun p => match s.sampleAt epoch p.1.position with
    | none => (p.1, false)
    | some r =>
      let i := p.1
      let key := philoxKey (s.num Reg.seed.seedLo) (s.num Reg.seed.seedHi) epoch
      let hit := if i.run.isSome then s.seasonHit epoch recipe b r else none
      let i := match hit with
        | some e => { i with derived := e.derived, concealed := e.concealed }
        | none => i
      i.made key r.sampleIndex (s.freeCtr + p.2) b (hit.map (·.output))

/-- A PREPARING entry whose every extent can be written becomes READY. -/
def State.ready (s : State) (k : FragKey) (orphan : Nat → Bool) (contribution : Nat) (b : BuckBlock)
    (items : List ItemContent) : State :=
  match s.entry? k, s.sectionOf k.epoch with
  | some e, some (x, _) =>
    if e.state ≠ .preparing then s
    else match s.sources k orphan items (x.extentsOf e.frag) with
      | none => s
      | some l =>
        let bytes := l.flatMap fun p => extentBytes b e.frag.recipeIndex p.1 p.2
        let excl := l.filterMap fun p => p.2.excl
        let s := s.bufWrite e.mem 0 (bytes.take e.frag.length)
        let s := excl.foldl (fun s p => s.excludeJournal k.epoch k.step p.1 p.2) s
        let s := (s.buckCounts b l).seasonItems k e.frag.recipeIndex b (bucked l)
        let conc := (l.filterMap fun p => match p.2 with | .item _ i => some i | _ => none).any fun i => i.concealed != 0
        let s := s.putEntry { e with
          state := .ready, immediate := immediateValue k.step contribution conc (!excl.isEmpty) }
        (s.putDeck { s.deck with done := if s.deck.done.contains k then s.deck.done else s.deck.done ++ [k] }).alarmNow k.consumer
  | _, _ => s

/-- The shards whose samples are skipped: orphaned ones under SKIP_AND_RECORD (R70). -/
def State.skipped (s : State) (epoch shard : Nat) : Bool :=
  s.sched.orphans.contains shard && match s.sectionOf epoch with
    | some (x, _) => x.hdr.orphanPolicy == 1
    | none => false

/-- The items are made, and the entry becomes READY. -/
def State.makeReady (s : State) (key : FragKey) (contribution : Nat) (block : BuckBlock) (items : List ItemContent) : State :=
  let recipe := ((s.entry? key).map fun e => e.frag.recipeIndex).getD 0
  let l := s.madeItems key.epoch recipe block items
  let t := s.ready key (s.skipped key.epoch) contribution block (l.map (·.1))
  if l.any (·.2) then (List.range l.length).foldl (fun t _ => t.drawn) t else t

def execFragmentReady (key : FragKey) (contribution : Nat) (block : BuckBlock) (items : List ItemContent) (s : State) :
    Host.Outcome State Fault Refusal :=
  live s fun s => s.makeReady key contribution block items

/-! ### The deck at a ring boundary (R252, R253, R257) -/

/-- The deck's work at a ring boundary: levels, alarms, LEVEL_LOW and the DCK_ registers (R252, R253, R257). -/
def State.deckRing (s : State) : State :=
  let cs := s.deckConsumers
  let levels := cs.map fun c => (c, s.deckLevel c)
  let s := s.putDeck { s.deck with alarms := s.deck.alarms.filter cs.contains }
  let s := levels.foldl (fun s p => s.deckAlarm p.1 p.2) s
  let lows := levels.filterMap (·.2)
  let low := lows.foldl min 0x7FFFFFFF
  let s := s.putDeck { s.deck with levelMin := low, anyLate := decide (low < 0) }
  let s := s.setN Reg.deck.levelLow (i32Bits (min (i32Val (s.num Reg.deck.levelLow)) low))
  s.setN Reg.deck.decksInAlarm s.deck.alarms.length

/-- The DCK_ registers (Table 8-11), which the host reads: LEVEL_MIN, ALARM, POOL. No command of the table reads them. -/
def State.dckReg (s : State) (off : Nat) : Nat :=
  let pct := fun (n : Nat) => n * 100 / max 1 (s.num Reg.deck.deckPoolBytes)
  match off with
  | 0 => i32Bits s.deck.levelMin
  | 4 => min s.deck.alarms.length 0xFFFFF + 2 ^ 31 * s.deck.anyLate.toNat
  | 8 => pct (s.num Reg.deck.deckBytesUsed) + 65536 * pct (s.num Reg.deck.reserveUsed)
  | _ => 0

/-- The deck query entries (R256): QUERY_LEVEL, QUERY_BYTES and QUERY_ALARM of QUERY_CONSUMER. -/
def State.deckQuery (s : State) : Nat × Nat × Nat :=
  let c := s.num Reg.deckQuery.queryConsumer
  if !s.deckConsumers.contains c then (0x7FFFFFFF, 0, 0)
  else (i32Bits ((s.deckLevel c).getD 0x7FFFFFFF),
    sum ((s.deck.entries.filter fun e => e.frag.consumer == c).map fun e => e.frag.length),
    (s.deck.alarms.contains c).toNat)

end Sys2Proof.Machine
end

