-- ==== Sys2Proof/Machine/Chipper.lean ====
section
/-! DEFINITION. The Chippers' queues, checks and completions (R344 to R348). -/
namespace Sys2Proof.Machine

/-- A pipeline of a Chipper. -/
def State.chipPipe (s : State) (c : Nat) (decomp : Bool) : ChipPipe :=
  (s.chips.find? fun p => p.chipper == c && p.decomp == decomp).getD ⟨c, decomp, [], false⟩

/-- A pipeline takes its new state; QUEUE_DEPTH counts both pipelines of the Chipper. -/
def State.putChip (s : State) (p : ChipPipe) : State :=
  let l := s.chips.filter fun q => !(q.chipper == p.chipper && q.decomp == p.decomp)
  let s := { s with chips := if p.queue.isEmpty && !p.busy then l else l ++ [p] }
  s.setN (Reg.chipQ.queueDepth p.chipper)
    ((s.chipPipe p.chipper false).queue.length + (s.chipPipe p.chipper true).queue.length)

/-- A descriptor is queued, or refused with BUSY where the pipeline holds 64 (R344). A CHIPPER that does not exist is a
reserved value. -/
def State.chipSubmit (s : State) (d : ChipDesc) (decomp : Bool) : State :=
  if 16 ≤ d.chipper then s.refuse 0x3602 0xFF 0xFF
  else
    let p := s.chipPipe d.chipper decomp
    if 64 ≤ p.queue.length then (s.bump Reg.chip.queueBusy).refuse 0x3601 0xFF 0xFF
    else (s.putChip { p with queue := p.queue ++ [⟨d, s.pwr.flushing⟩] }).ends 0x3600

def execCompress (desc : ChipDesc) (s : State) : Host.Outcome State Fault Refusal :=
  act s fun s => s.chipSubmit desc false

def execDecompress (desc : ChipDesc) (s : State) : Host.Outcome State Fault Refusal :=
  act s fun s => s.chipSubmit desc true

/-- The checks of R345, in order: the code of the first that fails. -/
def State.chipRefusal (s : State) (d : ChipDesc) (decomp : Bool) : Option Nat :=
  if d.reserved ≠ 0 ∨ (if decomp then d.flags ≠ 0 ∨ d.blockLog2 ≠ 0 else 2 ≤ d.flags) ∨ d.cls = 0 ∨ 3 < d.cls ∨
      0xC ≤ d.returnTo / 4096 then some 0x3602
  else if (d.cls = 3 ∧ d.chipper < 8) ∨ (d.cls ≠ 3 ∧ 8 ≤ d.chipper) then some 0x3602
  else if (!decomp && (d.blockLog2 < 12 || 16 < d.blockLog2)) || d.outLimit == 0 || 2 ^ 32 ≤ d.outLimit then
    some 0x3613
  else match s.buf? d.outBuf with
    | some b => if b.owner = 0x7000 + d.chipper then none else some 0x3607
    | none => some 0x3607

/-- The result record (Table 11-5). -/
def chipRecord (status flags consumed outLen blocks raws err tag : Nat) : Bytes :=
  leBytes 2 status ++ leBytes 2 flags ++ leBytes 4 consumed ++ leBytes 4 outLen ++ leBytes 4 blocks ++
    leBytes 4 raws ++ leBytes 4 err ++ leBytes 8 tag

/-- A descriptor completes: OUT_BUFFER passes to RETURN_TO where the Chipper owns it, and the record is written. -/
def State.chipFinish (s : State) (d : ChipDesc) (decomp : Bool) (code : Nat) (rec : Bytes) : State :=
  let owned := match s.buf? d.outBuf with
    | some b => b.owner == 0x7000 + d.chipper
    | none => false
  let s := if owned then s.unitPass d.outBuf d.returnTo else s
  let p := s.chipPipe d.chipper decomp
  let s := s.putChip { p with queue := p.queue.drop 1, busy := false }
  let s := s.emit (.record d.resultAddr rec)
  let s := match code with
    | 0x3610 => s.bump Reg.chip.corrupt
    | 0x3611 => s.bump Reg.chip.limitExceeded
    | 0x3612 => s.bump Reg.chip.outOfSpace
    | _ => s
  if isOk code then s.ends code else s.refuse code 0xFF 0xFF

/-- CHIPPER_DESCRIPTOR_HEAD: the head of a pipeline's queue is checked and starts, or completes refused; after
PWR_FAIL_N Chippers 0 to 7 start nothing submitted after it (R348). -/
def State.chipHead (s : State) (c : Nat) (decomp : Bool) : State :=
  let p := s.chipPipe c decomp
  match p.queue with
  | [] => s
  | e :: _ =>
    if p.busy || (e.afterPwrFail && c < 8) then s
    else match s.chipRefusal e.desc decomp with
      | some code => s.chipFinish e.desc decomp code (chipRecord code 0 0 0 0 0 0 e.desc.tag)
      | none => (s.putChip { p with busy := true }).bufFlight e.desc.inBuf true

def execChipperDescriptorHead (chipper : Nat) (decomp : Bool) (s : State) : Host.Outcome State Fault Refusal :=
  act s fun s => s.chipHead chipper decomp

/-- Extends a buffer block by block, without WAIT, until it holds `need` bytes (R346): the state, the blocks added and
the refusal met. -/
def State.growTo (s : State) (h need : Nat) : Nat → Nat → State × Nat × Option Nat
  | 0, k => (s, k, none)
  | n + 1, k =>
    match s.buf? h with
    | none => (s, k, some 0x3412)
    | some b =>
      let p := hPool h
      if need ≤ b.capacity p then (s, k, none)
      else if tooLarge p (b.chain.length + 1) then (s, k, some 0x3413)
      else if s.overQuota p b.ctx 1 then (s, k, some 0x3414)
      else if !(s.pool p).canTake 1 then (s.bump (Reg.pool.noBuffer p), k, some 0x3410)
      else
        let (more, q) := Pool.take 1 (s.pool p)
        State.growTo (s.putPool p (q.setBuf { b with chain := b.chain ++ more })) h need n (k + 1)

/-- What a pipeline made of its input: status, bytes written, valid bytes, input read, blocks, RAW blocks and error
offset. -/
structure ChipWork where
  code : Nat
  written : Bytes
  valid : Nat
  consumed : Nat
  blocks : Nat
  raws : Nat
  err : Nat
deriving DecidableEq, Repr

/-- The lengths of the whole blocks of a stream that fit in `limit` bytes after the header: bytes, blocks, RAW blocks. -/
def fitBlocks (limit : Nat) : List (Bool × Bytes) → Nat × Nat × Nat → Nat × Nat × Nat
  | [], acc => acc
  | (raw, b) :: l, (n, k, r) =>
    if n + b.length ≤ limit then fitBlocks limit l (n + b.length, k + 1, r + raw.toNat) else (n, k, r)

/-- COMPRESS of an input, of which `avail` bytes may be read and `cap` written before an access is refused (R341, R348). -/
def chipWorkC (d : ChipDesc) (input : Bytes) (avail cap : Nat) : ChipWork :=
  let bs := chipCompress input d.blockLog2 (d.flags = 1)
  let whole := decide (d.inLen ≤ avail)
  let done := if whole then bs else bs.take (avail / 2 ^ d.blockLog2)
  let all := chipHeader (d.flags = 1) d.blockLog2 input.length ++ done.flatMap (·.2)
  let limit := min d.outLimit cap
  if !whole && done.isEmpty then ⟨0x3602, [], 0, 0, 0, 0, 0⟩
  else if all.length ≤ limit then
    ⟨if whole then 0x3600 else 0x3602, all, all.length, min avail input.length, done.length, (done.filter (·.1)).length, 0⟩
  else
    let f := fitBlocks limit done (16, 0, 0)
    let none_ := decide (cap < d.outLimit) && f.2.1 == 0
    ⟨if cap < d.outLimit then 0x3602 else 0x3611, all.take limit, if none_ then 0 else min f.1 limit, min avail input.length,
      f.2.1, f.2.2, 0⟩

/-- DECOMPRESS of an input, of which `avail` bytes may be read and `cap` written before an access is refused (R341, R348). -/
def chipWorkD (d : ChipDesc) (input : Bytes) (avail cap : Nat) : ChipWork :=
  let r := chipDecompressTo (input.take avail) d.outLimit cap
  let total := leAt input 8 8
  let code := match r.stop with
    | none => 0x3600
    | some .corrupt => if r.short && avail < d.inLen then 0x3602 else 0x3610
    | some .limit => if (total = 2 ^ 64 - 1 ∨ total ≤ d.outLimit) ∧ cap < d.outLimit then 0x3602 else 0x3611
  ⟨code, r.written, r.valid, r.consumed, r.blocks, r.rawBlocks, if code = 0x3610 then r.errorOffset else 0⟩

/-- The bytes of an access that may be performed before it meets a block that holds poisoned memory, or the end of the buffer;
none through a handle that is not live (R319, R348). -/
def State.chipReach (s : State) (h off len : Nat) : Nat :=
  match s.buf? h with
  | none => 0
  | some b =>
    let p := hPool h
    let sz := max 1 (poolBlockBytes p)
    let n := min len (b.capacity p - off)
    let bad := (List.range ((off + n) / sz + 1)).find? fun i =>
      decide (off / sz ≤ i) && decide (i < b.chain.length) && (s.pool p).poisoned.contains (b.chain.getD i 0)
    match bad with
    | none => n
    | some i => min n (i * sz - off)

/-- What a pipeline makes of a descriptor's input where at most `cap` bytes can be written. -/
def State.chipWorkAt (s : State) (d : ChipDesc) (decomp : Bool) (cap : Nat) : ChipWork :=
  let input := s.bufRead d.inBuf d.inOff d.inLen
  let avail := s.chipReach d.inBuf d.inOff d.inLen
  if decomp then chipWorkD d input avail cap else chipWorkC d input avail cap

/-- The bytes of the output buffer from OUT_OFFSET on. -/
def State.chipHeld (s : State) (d : ChipDesc) : Nat :=
  match s.buf? d.outBuf with
  | some b => b.capacity (hPool d.outBuf) - d.outOff
  | none => 0

/-- What a pipeline makes of a descriptor's input. The output may grow beyond its buffer (R346), so that only poisoned memory
and OUT_LIMIT bound what is written. -/
def State.chipWork (s : State) (d : ChipDesc) (decomp : Bool) : ChipWork :=
  let held := min d.outLimit (s.chipHeld d)
  let reach := s.chipReach d.outBuf d.outOff held
  s.chipWorkAt d decomp (if reach < held then reach else d.outLimit)

/-- CHIPPER_COMPLETE: the running request ends with its output in OUT_BUFFER and its record written. -/
def State.chipComplete (s : State) (c : Nat) (decomp : Bool) : State :=
  let p := s.chipPipe c decomp
  match p.queue with
  | [] => s
  | e :: _ =>
    if !p.busy then s
    else
      let d := e.desc
      let w := s.chipWork d decomp
      let s := s.bufFlight d.inBuf false
      let (s, grown, refused) := s.growTo d.outBuf (d.outOff + w.written.length) (w.written.length + 1) 0
      let w := if refused.isSome then { s.chipWorkAt d decomp (s.chipHeld d) with code := 0x3612 } else w
      let s := s.bufWrite d.outBuf d.outOff w.written
      let s := s.add Reg.chip.extends grown
      let s := if decomp then (s.add Reg.chip.decompressIn w.consumed).add Reg.chip.decompressOut w.valid
        else ((s.add Reg.chip.compressIn w.consumed).add Reg.chip.compressOut w.valid).add Reg.chip.rawBlocks w.raws
      let allRaw := decide (0 < w.blocks ∧ w.blocks = w.raws)
      s.chipFinish d decomp w.code
        (chipRecord w.code ((decide (0 < grown)).toNat + 2 * allRaw.toNat) w.consumed w.valid w.blocks w.raws
          (refused.getD w.err) d.tag)

def execChipperComplete (chipper : Nat) (decomp : Bool) (s : State) : Host.Outcome State Fault Refusal :=
  act s fun s => s.chipComplete chipper decomp

end Sys2Proof.Machine
end

