-- ==== Sys2Proof/Machine/Attest.lean ====
section
/-! DEFINITION. Contexts and their measurement registers (R492, R504, R505). -/
namespace Sys2Proof.Machine

/-- A context. -/
def State.ctx (s : State) (c : Nat) : Ctx := ((s.sec.ctxs.find? fun p => p.1 == c).map (·.2)).getD Ctx.undefined

/-- A context takes new state; UNDEFINED ones are not kept. -/
def State.putCtx (s : State) (c : Nat) (x : Ctx) : State :=
  let l := s.sec.ctxs.filter fun p => p.1 != c
  let l := if x = Ctx.undefined then l else l ++ [(c, x)]
  { s with sec := { s.sec with ctxs := l } }

/-- Whether a context is DEFINED. -/
def State.ctxDefined (s : State) (c : Nat) : Bool := (s.ctx c).state == .defined

/-- Whether a context owns a cluster: it is DEFINED and its CLUSTER_MASK includes the cluster (R109, R496). -/
def State.ownsCluster (s : State) (k c : Nat) : Bool := s.ctxDefined k && (s.num (Reg.ctx.clusterMask k)).testBit c

/-- The measurement log takes an entry while it holds fewer than 65,536 (R505). -/
def State.logMeas (s : State) (kind c : Nat) (digest : Bytes) : State :=
  let q := wrap 32 (s.sec.measSeq + 1)
  let full := decide (65536 ≤ s.sec.meas.length)
  let e : MeasEntry := ⟨q, kind, c, s.rc.ring, digest⟩
  { s with sec := { s.sec with
      measSeq := q
      meas := if full then s.sec.meas else s.sec.meas ++ [e]
      logIncomplete := s.sec.logIncomplete || full } }.setN Reg.attest.measSeq q |>.setN Reg.attest.logEntries
        (min 65536 (s.sec.meas.length + 1))

/-- An event of Table 16-3 extends the context's register and is logged (R504, R505). -/
def State.measure (s : State) (c kind : Nat) (digest : Bytes) : State :=
  let x := s.ctx c
  let x : Ctx := match kind with
    | 1 | 2 => { x with program := extendReg x.program kind digest }
    | 3 => { x with models := extendReg x.models kind digest }
    | _ => { x with text := extendReg x.text kind digest }
  (s.putCtx c x).logMeas kind c digest

end Sys2Proof.Machine
end

