-- ==== Sys2Proof/Machine/DecodeMath.lean ====
section
/-! DEFINITION. The sample arithmetic of the decode units: concealment fills of JPEG and PNG (Table 4-9), the inverse
transform (R119), chroma upsampling (R114), colour conversion (R115, Table 4-4), depth reduction (R117), the output
formats (Table 4-2) and raw frames (R133, Table 4-8). -/
namespace Sys2Proof.Machine

/-- k[u][x] of R119. -/
def idctK : List (List Int) :=
  [[5793, 5793, 5793, 5793, 5793, 5793, 5793, 5793],
   [8035, 6811, 4551, 1598, -1598, -4551, -6811, -8035],
   [7568, 3135, -3135, -7568, -7568, -3135, 3135, 7568],
   [6811, -1598, -8035, -4551, 4551, 8035, 1598, -6811],
   [5793, -5793, -5793, 5793, 5793, -5793, -5793, 5793],
   [4551, -8035, 1598, 6811, -6811, -1598, 8035, -4551],
   [3135, -7568, 7568, -3135, -3135, 7568, -7568, 3135],
   [1598, -4551, 6811, -8035, 8035, -6811, 4551, -1598]]

def idctAt (u x : Nat) : Int := (idctK.getD u []).getD x 0

/-- A sum over 0 to 7. -/
def sum8 (f : Nat → Int) : Int := f 0 + f 1 + f 2 + f 3 + f 4 + f 5 + f 6 + f 7

/-- Clamped to 0 .. 2^depth − 1. -/
def clampDepth (depth : Nat) (z : Int) : Nat := if z < 0 then 0 else min z.toNat (2 ^ depth - 1)

/-- idct8x8 (R119): a block's samples, row by row, from its coefficients f[v][u] row by row. -/
def idct8x8 (f : List Int) (depth : Nat) : List Nat :=
  let t : List Int := (List.range 64).map fun i =>
    (sum8 (fun u => idctAt u (i % 8) * f.getD (i / 8 * 8 + u) 0) + 512) / 1024
  (List.range 64).map fun i =>
    clampDepth depth
      ((sum8 (fun v => idctAt v (i / 8) * t.getD (v * 8 + i % 8) 0) + 131072) / 262144 + 2 ^ (depth - 1))

/-- The blocks of a component in raster order, `n` to a row: a lost block copies the block above it, or mid-level in the
top row (Table 4-9). -/
def fillBlocks (depth n : Nat) : List (Option (List Int)) → List (List Nat) → List (List Nat)
  | [], done => done
  | b :: l, done =>
    let x := match b with
      | some f => idct8x8 f depth
      | none => if done.length < n then List.replicate 64 (2 ^ (depth - 1)) else done.getD (done.length - n) []
    fillBlocks depth n l (done ++ [x])

/-- The rows of an image: a lost row repeats the last one decoded, or zero if there is none (Table 4-9). -/
def fillRows (w : Nat) : List (Option (List Nat)) → List Nat → List (List Nat)
  | [], _ => []
  | some r :: l, _ => r :: fillRows w l r
  | none :: l, last => last :: fillRows w l last

/-- The sample rows of a component. -/
def Plane.samples (p : Plane) (depth : Nat) : List (List Nat) :=
  if p.blocks.isEmpty then fillRows p.w p.rows (List.replicate p.w 0)
  else
    let n := (p.w + 7) / 8
    let bs := fillBlocks depth n p.blocks []
    (List.range p.h).map fun y => (List.range p.w).map fun x =>
      (bs.getD (y / 8 * n + x / 8) []).getD (y % 8 * 8 + x % 8) 0

/-- Doubling one row by REPLICATE or TRIANGLE (R114). -/
def doubleRow (triangle : Bool) (c : List Nat) : List Nat :=
  (List.range (2 * c.length)).map fun j =>
    let i := j / 2
    let v := c.getD i 0
    if triangle then
      let n := if j % 2 = 0 then c.getD (i - 1) v else c.getD (i + 1) v
      (3 * v + n + 2) / 4
    else v

/-- Rows and columns exchanged. -/
def transposeRows (w : Nat) (rows : List (List Nat)) : List (List Nat) :=
  (List.range w).map fun x => rows.map fun r => r.getD x 0

/-- A chroma component at luma resolution: horizontally and then vertically (R114), cut to the luma size. -/
def upsample (triangle twoX twoY : Bool) (w h : Nat) (rows : List (List Nat)) : List (List Nat) :=
  let rows := if twoX then rows.map (doubleRow triangle) else rows
  let rows := rows.map fun r => r.take w
  if twoY then
    let cols := (transposeRows w rows).map fun c => (doubleRow triangle c).take h
    transposeRows h cols
  else rows.take h

/-- The nearest integer to num / den, ties away from zero. -/
def rndRatio (num den : Nat) : Int := ((2 * num + den) / (2 * den) : Nat)

/-- The five coefficients of R115 from kr and kb in 1/10,000: cy, crr, cbg, crg, cbb. -/
def yccCoeffs (kr kb : Nat) (full : Bool) : List Int :=
  let y := if full then (1, 1) else (255, 219)
  let c := if full then (1, 1) else (255, 224)
  let kg := 10000 - kr - kb
  [rndRatio (65536 * y.1) y.2,
   rndRatio (65536 * 2 * (10000 - kr) * c.1) (10000 * c.2),
   rndRatio (65536 * 2 * kb * (10000 - kb) * c.1) (10000 * kg * c.2),
   rndRatio (65536 * 2 * kr * (10000 - kr) * c.1) (10000 * kg * c.2),
   rndRatio (65536 * 2 * (10000 - kb) * c.1) (10000 * c.2)]

/-- ycc_to_rgb (R115). -/
def yccToRgb (co : List Int) (full : Bool) (d o y cb cr : Nat) : List Nat :=
  let yo : Int := if full then 0 else 16 * 2 ^ (d - 8)
  let mid : Int := 2 ^ (d - 1)
  let s := 16 + d - o
  let h : Int := 2 ^ (s - 1)
  let yy := co.getD 0 0 * ((y : Int) - yo)
  let r := (yy + co.getD 1 0 * ((cr : Int) - mid) + h) / 2 ^ s
  let g := (yy - co.getD 2 0 * ((cb : Int) - mid) - co.getD 3 0 * ((cr : Int) - mid) + h) / 2 ^ s
  let b := (yy + co.getD 4 0 * ((cb : Int) - mid) + h) / 2 ^ s
  [clampDepth o r, clampDepth o g, clampDepth o b]

/-- A value of depth d in an output of depth o: reduced under R117, or for 1, 2 and 4 bits widened to 8 by bit
replication. -/
def toDepth (d o v : Nat) : Nat :=
  if o < d then min ((v + 2 ^ (d - o - 1)) / 2 ^ (d - o)) (2 ^ o - 1)
  else if o = 8 ∧ d < 8 then v * 255 / (2 ^ d - 1)
  else v

/-- How the planes become RGB (Table 4-4): by a matrix, as they stand, or not at all. -/
inductive ColourRule where
  | matrix (kr kb : Nat) (full : Bool)
  | planes
  | none
deriving DecidableEq, Repr

def MediaImage.colour (m : MediaImage) (mediaType : Nat) : ColourRule :=
  if m.chroma = 5 then .planes
  else if mediaType = 1 then
    (match m.matrix with
      | some f => if f = 256 then .planes else .matrix 2990 1140 true
      | Option.none => .matrix 2990 1140 true)
  else if mediaType = 2 then .planes
  else match m.matrix with
    | some 0 => .planes
    | some 1 | some 2 | Option.none => .matrix 2126 722 m.fullRange
    | some 5 | some 6 => .matrix 2990 1140 m.fullRange
    | some 9 => .matrix 2627 593 m.fullRange
    | some _ => .none

/-- Sample at row y, column x of a component's rows. -/
def sampleAt (rows : List (List Nat)) (x y : Nat) : Nat := (rows.getD y []).getD x 0

/-- The components of R, G, B at output depth `o`, pixel by pixel in row-major order; none where the matrix is not one
of Table 4-4. Video of matrix 0 holds G, B, R, as H.273 orders the components of MatrixCoefficients 0 (log entry 69). -/
def MediaImage.rgb (m : MediaImage) (mediaType o : Nat) (triangle : Bool) : Option (List (List Nat)) :=
  let colours := m.planes.take (if m.alpha then m.planes.length - 1 else m.planes.length)
  let rows := colours.map fun p => p.samples m.depth
  let pixels := (List.range (m.width * m.height)).map fun i => (i % m.width, i / m.width)
  if !m.palette.isEmpty then
    some (pixels.map fun q => (m.palette.getD (sampleAt (rows.getD 0 []) q.1 q.2) []).take 3)
  else if colours.length < 3 then
    match m.colour mediaType with
    | .none => none
    | _ => some (pixels.map fun q => List.replicate 3 (toDepth m.depth o (sampleAt (rows.getD 0 []) q.1 q.2)))
  else
    match m.colour mediaType with
    | .none => none
    | .planes =>
      let rows := if mediaType = 1 ∨ mediaType = 2 then rows else [rows.getD 2 [], rows.getD 0 [], rows.getD 1 []]
      some (pixels.map fun q => rows.map fun r => toDepth m.depth o (sampleAt r q.1 q.2))
    | .matrix kr kb full =>
      let co := yccCoeffs kr kb full
      let twoX := m.chroma == 1 || m.chroma == 2
      let twoY := m.chroma == 1 || m.chroma == 4
      let up := fun i => upsample triangle twoX twoY m.width m.height (rows.getD i [])
      let cb := up 1
      let cr := up 2
      some (pixels.map fun q => yccToRgb co full m.depth o (sampleAt (rows.getD 0 []) q.1 q.2) (sampleAt cb q.1 q.2)
        (sampleAt cr q.1 q.2))

/-- The alpha of each pixel at 8 bits: 255 where the source has none. -/
def MediaImage.alpha8 (m : MediaImage) : List Nat :=
  let pixels := (List.range (m.width * m.height)).map fun i => (i % m.width, i / m.width)
  if !m.palette.isEmpty then
    let rows := (m.planes.getD 0 ⟨0, 0, [], []⟩).samples m.depth
    pixels.map fun q => (m.palette.getD (sampleAt rows q.1 q.2) []).getD 3 255
  else if m.alpha then
    let rows := (m.planes.getLastD ⟨0, 0, [], []⟩).samples m.depth
    pixels.map fun q => toDepth m.depth 8 (sampleAt rows q.1 q.2)
  else pixels.map fun _ => 255

/-- A sample as NATIVE holds it: one byte at depth 8 or less, else u16. -/
def nativeSample (depth v : Nat) : Bytes := if depth ≤ 8 then leBytes 1 v else leBytes 2 v

/-- The output bytes of an image in an OUT_FORMAT (Table 4-2); none where the media cannot produce it. -/
def MediaImage.output (m : MediaImage) (mediaType fmt : Nat) (triangle : Bool) : Option Bytes :=
  match fmt with
  | 0 => some (m.planes.flatMap fun p => (p.samples m.depth).flatMap fun r => r.flatMap (nativeSample m.depth))
  | 1 => (m.rgb mediaType 8 triangle).map fun l => l.flatMap fun px => px.flatMap (leBytes 1)
  | 2 => (m.rgb mediaType 8 triangle).map fun l =>
      (l.zip m.alpha8).flatMap fun q => q.1.flatMap (leBytes 1) ++ leBytes 1 q.2
  | 3 =>
    if mediaType = 2 ∧ (m.chroma = 5 ∨ !m.palette.isEmpty) then none
    else some (((m.planes.getD 0 ⟨0, 0, [], []⟩).samples m.depth).flatMap fun r =>
      r.flatMap fun v => leBytes 1 (toDepth m.depth 8 v))
  | 4 => (m.rgb mediaType m.depth triangle).map fun l => l.flatMap fun px => px.flatMap (leBytes 2)
  | _ => none

/-! ### Raw frames (R133) -/

/-- Pixel x of a packed row, `bits` bits each, most or least significant bit first. -/
def packedPixel (row : Bytes) (bits : Nat) (msbFirst : Bool) (x : Nat) : Nat :=
  (List.range bits).foldl (fun acc i =>
    let at_ := x * bits + i
    let b := row.getD (at_ / 8) 0
    let bit := (b.toNat.testBit (if msbFirst then 7 - at_ % 8 else at_ % 8)).toNat
    if msbFirst then 2 * acc + bit else acc + bit * 2 ^ i) 0

/-- The pixels of one row of a raw frame. -/
def rawRow (row : Bytes) (width bits packing : Nat) : List Nat :=
  (List.range width).map fun x =>
    if packing = 0 then leAt row (2 * x) 2 else packedPixel row bits (packing = 1) x

/-- Bytes that a row of pixels takes. -/
def rawRowBytes (width bits packing : Nat) : Nat := if packing = 0 then 2 * width else (width * bits + 7) / 8

/-- What the frame unit makes of a raw frame (R133, Table 4-9): a refusal, SYNTAX damage of the magic, or the u16
pixels with every row that the input ends before lost and zero. -/
def rawFrame (input : Bytes) (blackSubtract : Bool) : MediaOutcome :=
  let width := leAt input 8 4
  let height := leAt input 12 4
  let bits := leAt input 16 1
  let packing := leAt input 17 1
  let cfa := leAt input 18 1
  let black := leAt input 20 2
  let stride := leAt input 24 4
  let none_ : Damage := ⟨0, 0, 0, 0, 0, 0, 0, 0, 0, 0, 0⟩
  let out := fun (refusal : Nat) (bytes : Bytes) (dm : Damage) =>
    (⟨refusal, false, none, bytes, width, height, bits, dm, false, false, false, false, 0, 0⟩ : MediaOutcome)
  if width = 0 ∨ 32768 < width ∨ height = 0 ∨ 32768 < height then out 0x0701 [] none_
  else if 2 < packing ∨ 4 < cfa ∨ bits < 8 ∨ 16 < bits then out 0x0702 [] none_
  else
    let need := rawRowBytes width bits packing
    let okRows := (List.range height).filter fun y => 32 + y * stride + need ≤ input.length
    let good := if bytesAt input 0 8 = ascii "FLWRAWFR" then okRows.length else 0
    let rows := (List.range height).map fun y =>
      if y < good then rawRow (bytesAt input (32 + y * stride) need) width bits packing else List.replicate width 0
    let px := rows.flatMap fun r => r.flatMap fun v => leBytes 2 (if blackSubtract then v - black else v)
    let lost := height - good
    let dm : Damage :=
      if lost = 0 then none_
      else ⟨if good = okRows.length then 2 else 1, if good = okRows.length then input.length else 0, 0, good, lost,
        height, 1, 0, if good = okRows.length then input.length else 0, 0, lost * width⟩
    out 0 px dm

end Sys2Proof.Machine
end

