-- ==== Sys2Proof/Machine/GradeOps.lean ====
section
/-! DEFINITION. Slashing and refusing samples (R135, R138, R178, R218, R223, R227): the shared operations of a grading
pass and of preparation. -/
namespace Sys2Proof.Machine

/-- GRADE_STATE is RUNNING, EXCHANGE or WAITING. -/
def State.grading (s : State) : Bool :=
  s.num Reg.grade.gradeState == 2 || s.num Reg.grade.gradeState == 3 || s.num Reg.grade.gradeState == 4

/-- CONTEXT of GRADE_FILE. -/
def State.gradeContext (s : State) : Nat := leAt (s.blob Reg.grade.gradeFile) 0x0B 1

/-- A grading pass of a context is in progress. -/
def State.gradesFor (s : State) (ctx : Nat) : Bool := s.grading && s.gradeContext == ctx

/-- Inserts an entry in ascending SAMPLE_INDEX. -/
def insertSlash (e : SlashEntry) : List SlashEntry → List SlashEntry
  | [] => [e]
  | f :: l => if e.sample < f.sample then e :: f :: l else f :: insertSlash e l

/-- A sample is rejected; the first rejection decides it (R223). -/
def State.slash (s : State) (e : SlashEntry) : State :=
  if s.grade.entries.any fun f => f.sample == e.sample then s
  else
    let g := s.grade
    let s := { s with grade := { g with
      graded := if g.graded.contains e.sample then g.graded else g.graded ++ [e.sample]
      entries := insertSlash e g.entries } }
    (s.bump Reg.grade.samplesGraded).bump Reg.grade.samplesSlashed

/-- A sample passes every filter. -/
def State.pass (s : State) (sample : Nat) : State :=
  if s.grade.graded.contains sample then s
  else
    { s with grade := { s.grade with graded := s.grade.graded ++ [sample] } }.bump Reg.grade.samplesGraded

/-- A sample that a recipe's slot rejects: slashed in a grading pass of the context, refused in preparation (R135). -/
def State.refuseSample (s : State) (ctx sample reason slot detail : Nat) : State :=
  if s.gradesFor ctx then s.slash ⟨sample, reason, 0xFF, slot, 0, detail⟩
  else if reason ≠ 2 ∧ s.started ∧ ctx = s.num Reg.secCtl.schedContext then
    if s.sched.refused.any fun p => p.1 == sample then s
    else { s with sched := { s.sched with refused := s.sched.refused ++ [(sample, reason)] } }
  else s

end Sys2Proof.Machine
end

