-- ==== Sys2Proof/Machine/DecodeUnits.lean ====
section
/-! DEFINITION. The decode units' queues, streams and completions (R108 to R145). The media standards themselves (entropy
decoding, prediction, FITS) enter as the outcome that a completion carries; everything this manual defines on top of them
is computed here and in DecodeMath. -/
namespace Sys2Proof.Machine

/-! ### Clusters and queues -/

/-- The context resident on a cluster (R498). -/
def State.resident (s : State) (c : Nat) : Option Nat :=
  match s.sec.clusters.find? fun x => x.1 == c with
  | some x => x.2.resident
  | none => none

/-- A cluster that is fitted. -/
def State.hasCluster (s : State) (c : Nat) : Bool := c < s.dev.variant.clusters

/-- The request queue that a kind of descriptor goes to. -/
def DecKind.cls : DecKind → Nat
  | .image => 0
  | .frame | .encode => 2
  | .open_ | .submit | .close => 1

def State.decQueue (s : State) (c cls : Nat) : DecQueue :=
  (s.dec.queues.find? fun q => q.cluster == c && q.cls == cls).getD ⟨c, cls, [], []⟩

def State.putDecQueue (s : State) (q : DecQueue) : State :=
  let l := s.dec.queues.filter fun x => !(x.cluster == q.cluster && x.cls == q.cls)
  { s with dec := { s.dec with queues := if q.entries.isEmpty && q.running.isEmpty then l else l ++ [q] } }

def State.putDec (s : State) (d : Decoders) : State := { s with dec := d }

/-- The stream registers follow the stream table (Table 4-14). -/
def State.streamRegs (s : State) : State :=
  let l := s.dec.streams
  let s := s.setN Reg.stream.streamsOpen l.length
  let s := s.setN Reg.stream.streamsWaiting (l.filter fun x => x.slot.isNone).length
  (List.range 16).foldl (fun s c =>
    s.setN (Reg.contexts.contextsInUse c) (l.filter fun x => x.cluster == c && x.slot.isSome).length) s

/-- A stream of the table. -/
def State.stream? (s : State) (h : Nat) : Option VStream := s.dec.streams.find? fun x => x.handle == h

def State.putStream (s : State) (x : VStream) : State :=
  { s with dec := { s.dec with streams := s.dec.streams.map fun y => if y.handle = x.handle then x else y } }

def State.vunit (s : State) (c : Nat) : VideoUnit :=
  (s.dec.units.find? fun u => u.cluster == c).getD ⟨c, none, 0, 0⟩

def State.putVunit (s : State) (u : VideoUnit) : State :=
  { s with dec := { s.dec with units := (s.dec.units.filter fun x => x.cluster != u.cluster) ++ [u] } }

/-! ### Records -/

/-- The result record (Table 4-3). -/
def decRecord (status flags outLen width height depth chroma fraction sample picture stream required : Nat) : Bytes :=
  leBytes 2 status ++ leBytes 2 flags ++ leBytes 4 outLen ++ leBytes 4 width ++ leBytes 4 height ++ leBytes 1 depth ++
    leBytes 1 chroma ++ zeros 2 ++ leBytes 4 fraction ++ leBytes 8 sample ++ leBytes 4 picture ++ leBytes 4 stream ++
    leBytes 4 required ++ zeros 20

/-- The error record (Table 4-10). -/
def decErrorRecord (e : DecEntry) (unit cls fraction detail picture : Nat) (dm : Damage) : Bytes :=
  leBytes 2 cls ++ leBytes 2 e.desc.mediaType ++ leBytes 1 (e.kind.cls + 1) ++ leBytes 1 e.desc.cluster ++
    leBytes 1 unit ++ zeros 1 ++ leBytes 8 e.desc.sample ++ leBytes 8 dm.byteOffset ++ leBytes 4 picture ++
    leBytes 2 dm.posX ++ leBytes 2 dm.posY ++ leBytes 4 dm.unitsConcealed ++ leBytes 4 dm.unitsTotal ++
    leBytes 4 fraction ++ leBytes 2 (sat 16 dm.count) ++ leBytes 2 detail ++ leBytes 8 dm.lastByteOffset ++
    leBytes 4 dm.lastPicture ++ zeros 4

/-- CONCEALED_FRACTION (R137): at least 1 where any sample is concealed. -/
def concealedFraction (concealed total : Nat) : Nat :=
  if concealed = 0 then 0 else max 1 (65536 * concealed / max 1 total)

/-- A request completes without output: refused with an error record of class UNSUPPORTED (R134), or with a status alone
(R109, R111). -/
def State.decRefuse (s : State) (e : DecEntry) (unit code cls detail required flags : Nat) : State :=
  let err := cls != 0 && e.desc.errorAddr != 0
  let s := if err then s.emit (.record e.desc.errorAddr
      (decErrorRecord e unit cls 0 detail 0 ⟨cls, 0, 0, 0, 0, 0, 0, 0, 0, 0, 0⟩)) else s
  let s := s.result e.req.ctx (.record e.desc.resultAddr
    (decRecord code (flags + 4 * err.toNat) 0 0 0 0 0 0 e.desc.sample 0 e.desc.stream required))
  let s := s.bumpIf (code == 0x4010 || code == 0x4014) Reg.dec.refused
  s.refuse code e.desc.cluster e.req.ctx

/-- The size of an outcome's output picture. -/
def MediaOutcome.w (o : MediaOutcome) : Nat := match o.image with | some m => m.width | none => o.width
def MediaOutcome.ht (o : MediaOutcome) : Nat := match o.image with | some m => m.height | none => o.height
def MediaOutcome.dp (o : MediaOutcome) : Nat := match o.image with | some m => m.depth | none => o.depth
def MediaOutcome.chr (o : MediaOutcome) : Nat := match o.image with | some m => m.chroma | none => 0

/-- The output bytes of an outcome in the descriptor's format; none where the media cannot give that format. -/
def MediaOutcome.out (o : MediaOutcome) (d : DecodeDesc) : Option Bytes :=
  match o.image with
  | some m => m.output d.mediaType d.outFormat (d.options % 4 = 1)
  | none => some o.bytes

/-- The damage that an outcome reports: a failed CHECKSUM or DATASUM is damage of its class where there is no other (R130). -/
def MediaOutcome.dmg (o : MediaOutcome) : Damage :=
  if o.checksumFailed && o.damage.cls == 0 then { o.damage with cls := 3, count := max 1 o.damage.count } else o.damage

/-- A request completes with its output, or with OUTPUT_TOO_SMALL, BAD_FORMAT or DENIED and nothing written (R110,
R116, R319, R303); damage is reported and counted (R139). -/
def State.decOutput (s : State) (e : DecEntry) (unit : Nat) (o : MediaOutcome) (picture decodeNo : Nat) : State :=
  match o.out e.desc with
  | none => s.decRefuse e unit 0x4012 0 0 0 0
  | some bytes =>
    if e.desc.outCap < bytes.length then s.decRefuse e unit 0x4011 0 0 bytes.length 0
    else if !s.mayAccess e.req e.desc.outBuf 0 bytes.length then s.decRefuse e unit 0x4002 0 0 0 0
    else
      let s := s.bufWrite e.desc.outBuf 0 bytes
      let fraction := concealedFraction o.damage.concealedLuma (o.w * o.ht)
      let damaged := o.dmg.cls != 0
      let err := damaged && e.desc.errorAddr != 0
      let s := if err then s.emit (.record e.desc.errorAddr
          (decErrorRecord e unit o.dmg.cls fraction o.dmg.detail decodeNo o.dmg)) else s
      let s := if damaged then s.raise 0x4082 e.desc.cluster e.req.ctx (leBytes 8 e.desc.sample) else s
      let flags := (fraction != 0).toNat + 2 * o.derived.toNat + 4 * err.toNat + 8 * o.animationIgnored.toNat +
        16 * o.checksumFailed.toNat
      let s := s.result e.req.ctx (.record e.desc.resultAddr
        (decRecord 0x4000 flags bytes.length o.w o.ht o.dp o.chr fraction e.desc.sample picture e.desc.stream 0))
      (s.bumpIf (fraction != 0) Reg.dec.concealed).ends 0x4000

/-! ### Submission (R108) -/

/-- Whether the unit a descriptor addresses is fitted (R5). -/
def State.decFitted (s : State) (k : DecKind) (d : DecodeDesc) : Bool :=
  s.hasCluster d.cluster && (k.cls != 1 || s.dev.variant == .skf9200)

/-- A queue as it is kept for a context that is not resident. -/
def State.decSaved (s : State) (k c cls : Nat) : DecQueue :=
  ((s.dec.saved.find? fun p => p.1 == k && p.2.cluster == c && p.2.cls == cls).map (·.2)).getD ⟨c, cls, [], []⟩

/-- A descriptor joins its queue, or is refused with BUSY or ABSENT_UNIT; that of a context which owns the cluster and is not
resident there waits in its saved state (R496, R498). -/
def State.decSubmit (s : State) (k : DecKind) (r : Requester) (d : DecodeDesc) : State :=
  if !s.decFitted k d then s.decRefuse ⟨k, r, d⟩ d.unit 0x4003 0 0 0 0
  else if s.resident d.cluster ≠ some r.ctx ∧ s.ownsCluster r.ctx d.cluster then
    let q := s.decSaved r.ctx d.cluster k.cls
    if 64 ≤ q.entries.length then (s.bump Reg.dec.queueBusy).refuse 0x4001 d.cluster r.ctx
    else (s.putDec { s.dec with saved := (s.dec.saved.filter fun p =>
        !(p.1 == r.ctx && p.2.cluster == d.cluster && p.2.cls == k.cls)) ++
          [(r.ctx, { q with entries := q.entries ++ [⟨k, r, d⟩] })] }).ends 0x4000
  else
    let q := s.decQueue d.cluster k.cls
    if 64 ≤ q.entries.length then (s.bump Reg.dec.queueBusy).refuse 0x4001 d.cluster r.ctx
    else (s.putDecQueue { q with entries := q.entries ++ [⟨k, r, d⟩] }).ends 0x4000

def execDecodeImage (req : Requester) (desc : DecodeDesc) (s : State) : Host.Outcome State Fault Refusal :=
  live s fun s => s.decSubmit .image req desc

def execDecodeFrame (req : Requester) (desc : DecodeDesc) (s : State) : Host.Outcome State Fault Refusal :=
  live s fun s => s.decSubmit .frame req desc

def execEncodeFits (req : Requester) (desc : DecodeDesc) (s : State) : Host.Outcome State Fault Refusal :=
  live s fun s => s.decSubmit .encode req desc

/-! ### The head of a queue (R109) -/

/-- PARAMS of STREAM_OPEN and ENCODE_FITS: reserved values. -/
def decParamsOk (k : DecKind) (p : Nat) : Bool :=
  match k with
  | .open_ =>
    let refs := p / 2 ^ 32 % 256
    let depth := p / 2 ^ 40 % 256
    let chroma := p / 2 ^ 48 % 256
    1 ≤ refs && refs ≤ 16 && (depth == 8 || depth == 10) && chroma ≤ 3 && p / 2 ^ 56 == 0
  | .encode =>
    let z := p % 256
    let b := p / 256 % 256
    let rows := p / 65536 % 65536
    (z == 1 || z == 2) && (b == 16 || b == 32) && 1 ≤ rows && rows ≤ 4096 && p / 2 ^ 32 == 0
  | _ => p == 0

/-- Whether MEDIA_TYPE belongs to the queue's class. -/
def decMediaOk (k : DecKind) (m : Nat) : Bool :=
  match k with
  | .image => m == 1 || m == 2
  | .frame => m == 6 || m == 7
  | .encode => m == 6
  | .open_ | .submit | .close => 3 ≤ m && m ≤ 5

/-- Whether OUT_FORMAT is one that the media type can produce (Table 4-2). -/
def decFormatOk (k : DecKind) (m f : Nat) : Bool :=
  match k with
  | .image | .submit => f ≤ 4
  | .frame => if m = 6 then f == 0x10 || f == 0x11 else f == 0x12
  | .encode => f == 0x20
  | .open_ | .close => true

/-- The checks of R109, in order. -/
def State.decCheck (s : State) (e : DecEntry) : Option Nat :=
  let d := e.desc
  if !s.decFitted e.kind d then some 0x4003
  else if s.resident d.cluster ≠ some e.req.ctx then some 0x4002
  else if 64 ≤ d.options ∨ 1 < d.options % 4 ∨ !decMediaOk e.kind d.mediaType ∨ !decParamsOk e.kind d.params ∨
      !(d.unit == 0xFF || d.unit == 0 || (e.kind == .image && d.unit ≤ 3)) then some 0x4002
  else if !decFormatOk e.kind d.mediaType d.outFormat then some 0x4012
  else none

/-- The bytes a stream's decoded picture buffer needs (R123). -/
def dpbBytes (p : Nat) : Nat :=
  let w := roundUp (p % 65536) 64
  let h := roundUp (p / 65536 % 65536) 64
  let refs := p / 2 ^ 32 % 256
  let b := if p / 2 ^ 40 % 256 = 10 then 2 else 1
  let m2 := match p / 2 ^ 48 % 256 with
    | 0 => 2 | 1 => 3 | 2 => 4 | _ => 6
  (refs + 2) * (w * h * b * m2 / 2 + w * h / 8) + 65536

/-- The lowest number below `n` that is not in a list. -/
def lowestFree (n : Nat) (used : List Nat) : Option Nat := (List.range n).find? fun i => !used.contains i

/-- The contexts held on the video unit of a cluster. -/
def State.slotsHeld (s : State) (c : Nat) : List Nat :=
  s.dec.streams.filterMap fun x => if x.cluster = c then x.slot else none

/-- Whether a stream can be served: ACTIVE, of the resident tenant, with an access unit queued and its output buffer in
place (R125, R129). -/
def State.streamReady (s : State) (x : VStream) : Bool :=
  x.slot.isSome && !x.refused && x.closing.isNone && s.resident x.cluster == some x.owner &&
    match x.queue with
    | [] => false
    | e :: _ => e.desc.options.testBit 4 || (s.buf? e.desc.outBuf).isSome

/-- The stream a video unit serves next: ascending context order after the one just served (R125). -/
def State.nextStream (s : State) (u : VideoUnit) : Option VStream :=
  let ready := s.dec.streams.filter fun x => x.cluster == u.cluster && s.streamReady x
  let key := fun (x : VStream) => let k := x.slot.getD 0; if u.lastHandle = 0 || k > u.lastSlot then k else k + 64
  ready.foldl (fun best x => match best with
    | none => some x
    | some y => if key x < key y then some x else some y) none

/-- An idle video unit begins the next picture (R125). -/
def State.serveVideo (s : State) (c : Nat) : State :=
  let u := s.vunit c
  match u.current with
  | some _ => s
  | none =>
    match s.nextStream u with
    | none => s
    | some x =>
      let s := s.bumpIf (x.handle != u.lastHandle) Reg.stream.streamSwitches
      s.putVunit { u with current := some x.handle, lastSlot := x.slot.getD 0, lastHandle := x.handle }

/-- STREAM_OPEN at the head (R123, R124). -/
def State.doOpen (s : State) (e : DecEntry) : State :=
  let need := dpbBytes e.desc.params
  if e.desc.outCap < need then s.decRefuse e 0 0x4013 0 0 need 0
  else if !s.mayAccess e.req e.desc.outBuf 0 need then s.decRefuse e 0 0x4002 0 0 0 0
  else match lowestFree 1024 (s.dec.streams.map fun x => x.handle - 1) with
    | none => (s.bump Reg.stream.tableFullCount).decRefuse e 0 0x4004 0 0 0 0
    | some i =>
      let slot := lowestFree 64 (s.slotsHeld e.desc.cluster)
      let x : VStream := ⟨i + 1, e.desc.cluster, e.req.ctx, e.desc.outBuf, slot, false, [], [], 0, 0, none, []⟩
      let s := (s.putDec { s.dec with streams := s.dec.streams ++ [x] }).streamRegs
      (s.result e.req.ctx (.record e.desc.resultAddr
        (decRecord 0x4000 (32 * slot.isNone.toNat) 0 0 0 0 0 0 e.desc.sample 0 (i + 1) 0))).ends 0x4000

/-- STREAM_SUBMIT at the head (R126, R134). -/
def State.doSubmit (s : State) (e : DecEntry) : State :=
  match s.stream? e.desc.stream with
  | none => s.decRefuse e 0 0x4015 0 0 0 0
  | some x =>
    if x.owner ≠ e.req.ctx ∨ x.cluster ≠ e.desc.cluster ∨ x.closing.isSome then s.decRefuse e 0 0x4015 0 0 0 0
    else if x.refused then s.decRefuse e 0 0x4010 0x10 0 0 0
    else if 16 ≤ x.queue.length then (s.bump Reg.dec.queueBusy).decRefuse e 0 0x4001 0 0 0 0
    else ((s.putStream { x with queue := x.queue ++ [e] }).bufFlight e.desc.inBuf true).serveVideo x.cluster

/-- Whether a completion's output is written. -/
def State.decWrites (s : State) (e : DecEntry) (o : MediaOutcome) : Bool :=
  match o.out e.desc with
  | some b => b.length ≤ e.desc.outCap && s.mayAccess e.req e.desc.outBuf 0 b.length
  | none => false

/-- The concealed and output luma samples of a sample's pictures take in another picture (R137). -/
def VStream.addLuma (x : VStream) (sample : Nat) (o : MediaOutcome) : VStream :=
  let old := ((x.lumas.find? fun p => p.1 == sample).map (·.2)).getD (0, 0)
  { x with lumas := (x.lumas.filter fun p => p.1 != sample) ++
      [(sample, old.1 + o.damage.concealedLuma, old.2 + o.w * o.ht)] }

/-- A picture held for output is written (R126, R127). -/
def State.writeHeld (s : State) (x : VStream) (p : HeldPicture) : State :=
  let s := s.bumpIf (p.outcome.grain && p.entry.desc.mediaType == 5 && !p.entry.desc.options.testBit 2)
    Reg.stream.grainPictures
  let y := if s.decWrites p.entry p.outcome then x.addLuma p.entry.desc.sample p.outcome else x
  (s.decOutput p.entry 0 p.outcome x.written p.decodeNo).putStream { y with written := x.written + 1 }

/-- The held picture that comes first in output order. -/
def firstHeld : List HeldPicture → Option HeldPicture
  | [] => none
  | p :: l => match firstHeld l with
    | none => some p
    | some q => if q.outcome.order < p.outcome.order then some q else some p

/-- Puts out the first `n` held pictures of a stream in output order. -/
def State.putOut (s : State) (h : Nat) : Nat → State
  | 0 => s
  | n + 1 =>
    match s.stream? h with
    | none => s
    | some x =>
      match firstHeld x.held with
      | none => s
      | some p =>
        let x := { x with held := x.held.filter fun q => q.decodeNo != p.decodeNo }
        State.putOut (s.writeHeld x p) h n

/-- Access units that will not be decoded complete with a code. -/
def State.flushUnits (s : State) (code : Nat) (l : List DecEntry) : State :=
  l.foldl (fun s e => (s.bufFlight e.desc.inBuf false).decRefuse e 0 code (if code = 0x4010 then 0x10 else 0) 0 0 0) s

/-- The longest-waiting stream of a unit takes a context that freed (R124). -/
def State.promote (s : State) (c : Nat) : State :=
  match lowestFree 64 (s.slotsHeld c) with
  | none => s
  | some k =>
    match s.dec.streams.find? fun x => x.cluster == c && x.slot.isNone with
    | none => s
    | some x => s.putStream { x with slot := some k }

/-- A stream closes: what it holds is put out, its queue is flushed, its context and handle are freed and its decoded
picture buffer returns to the closing core (R128). -/
def State.finishClose (s : State) (x : VStream) (e : DecEntry) : State :=
  let s := s.putOut x.handle x.held.length
  let s := s.flushUnits 0x4005 x.queue
  let s := s.putDec { s.dec with streams := s.dec.streams.filter fun y => y.handle != x.handle }
  let s := ((s.unitPass x.dpb e.req.id).promote x.cluster).streamRegs
  let s := (s.result e.req.ctx (.record e.desc.resultAddr (decRecord 0x4000 0 0 0 0 0 0 0 e.desc.sample 0 x.handle 0))).ends 0x4000
  s.serveVideo x.cluster

/-- STREAM_CLOSE at the head (R128). -/
def State.doClose (s : State) (e : DecEntry) : State :=
  match s.stream? e.desc.stream with
  | none => s.decRefuse e 0 0x4015 0 0 0 0
  | some x =>
    if x.owner ≠ e.req.ctx ∨ x.closing.isSome then s.decRefuse e 0 0x4015 0 0 0 0
    else if (s.vunit x.cluster).current = some x.handle then s.putStream { x with closing := some e }
    else s.finishClose x e

/-- The unit that a descriptor starts on: the one it names, or the lowest-numbered idle one (Table 4-1). -/
def pickUnit (cls : Nat) (busy : List Nat) (unit : Nat) : Option Nat :=
  if unit = 0xFF then lowestFree (if cls = 0 then 4 else 1) busy
  else if busy.contains unit then none else some unit

/-- The head of a queue is checked and begins, or completes with the status of the check that failed; a head whose unit is busy
stays. -/
def State.decHead (s : State) (c cls : Nat) : State :=
  let q := s.decQueue c cls
  match q.entries with
  | [] => s
  | e :: l =>
    match s.decCheck e with
    | some code =>
      let s := match e.kind with
        | .image => s.bump Reg.dec.imagesDone
        | .frame | .encode => s.bump Reg.dec.framesDone
        | .open_ | .submit | .close => s
      (s.putDecQueue { q with entries := l }).decRefuse e e.desc.unit code 0 0 0 0
    | none =>
      match e.kind with
      | .open_ => (s.putDecQueue { q with entries := l }).doOpen e
      | .submit => (s.putDecQueue { q with entries := l }).doSubmit e
      | .close => (s.putDecQueue { q with entries := l }).doClose e
      | .image | .frame | .encode =>
        match pickUnit cls (q.running.map (·.1)) e.desc.unit with
        | none => s
        | some u => (s.putDecQueue { q with entries := l, running := q.running ++ [(u, e)] }).bufFlight e.desc.inBuf true

def execDecodeDescriptorHead (cluster queue : Nat) (s : State) : Host.Outcome State Fault Refusal :=
  live s fun s => s.decHead cluster queue

/-- A stream command takes no unit time: where the video queue is empty it is at the head at once. -/
def State.streamCmd (s : State) (k : DecKind) (r : Requester) (d : DecodeDesc) : State :=
  let first := (s.decQueue d.cluster 1).entries.isEmpty
  let s := s.decSubmit k r d
  if first && s.decFitted k d then s.decHead d.cluster 1 else s

def execStreamOpen (req : Requester) (desc : DecodeDesc) (s : State) : Host.Outcome State Fault Refusal :=
  live s fun s => s.streamCmd .open_ req desc

def execStreamSubmit (req : Requester) (desc : DecodeDesc) (s : State) : Host.Outcome State Fault Refusal :=
  live s fun s => s.streamCmd .submit req desc

def execStreamClose (req : Requester) (desc : DecodeDesc) (s : State) : Host.Outcome State Fault Refusal :=
  live s fun s => s.streamCmd .close req desc

/-! ### Completions -/

/-- Whether a request's input may be read (R319, R303). -/
def State.inputOk (s : State) (r : Requester) (h len : Nat) : Bool :=
  s.mayAccess r h 0 len && !s.bufPoisoned h 0 len

/-- What the unit makes of a request's input: a raw frame is decoded here (R133); other media as the outcome says. -/
def State.mediaResult (s : State) (e : DecEntry) (o : MediaOutcome) : MediaOutcome :=
  if e.kind = .frame ∧ e.desc.mediaType = 7 then
    rawFrame (s.bufRead e.desc.inBuf 0 e.desc.inLen) (e.desc.options.testBit 5)
  else o

/-- The sample of a recipe's decode step: refused media, or a concealed fraction above CONCEAL_LIMIT (R135, R138). -/
def State.decRecipe (s : State) (e : DecEntry) (o : MediaOutcome) (fraction : Nat) (recipe : Option RecipeStep) : State :=
  match recipe with
  | none => s
  | some r =>
    if o.limits ∨ o.refusal ≠ 0 then s.refuseSample e.req.ctx e.desc.sample 1 r.slot o.refusal
    else if r.concealLimit < fraction then s.refuseSample e.req.ctx e.desc.sample 2 r.slot fraction
    else s

/-- The decode step of a video sample ends: its pictures' fraction is that of all that were written for it (R137). -/
def State.videoStep (s : State) (h : Nat) (e : DecEntry) (o : MediaOutcome) (recipe : Option RecipeStep) : State :=
  match s.stream? h with
  | none => s
  | some x =>
    let sums := ((x.lumas.find? fun p => p.1 == e.desc.sample).map (·.2)).getD (0, 0)
    let s := if recipe.isSome then s.putStream { x with lumas := x.lumas.filter fun p => p.1 != e.desc.sample } else s
    s.decRecipe e o (concealedFraction sums.1 sums.2) recipe

/-- DECODE_COMPLETE (R110, R111, R134, R135). -/
def State.decComplete (s : State) (c cls unit : Nat) (o : MediaOutcome) (recipe : Option RecipeStep) : State :=
  let q := s.decQueue c cls
  match q.running.find? fun x => x.1 == unit with
  | none => s
  | some (_, e) =>
    let s := (s.putDecQueue { q with running := q.running.filter fun x => x.1 != unit }).bufFlight e.desc.inBuf false
    let s := s.bump (if cls = 0 then Reg.dec.imagesDone else Reg.dec.framesDone)
    if !s.inputOk e.req e.desc.inBuf e.desc.inLen then s.decRefuse e unit 0x4002 0 0 0 0
    else
      let o := s.mediaResult e o
      let s := s.decRecipe e o (concealedFraction o.damage.concealedLuma (o.w * o.ht)) recipe
      if o.refusal ≠ 0 then s.decRefuse e unit 0x4010 0x10 o.refusal 0 0
      else s.decOutput e unit o 0 0

def execDecodeComplete (cluster queue unit : Nat) (outcome : MediaOutcome) (recipe : Option RecipeStep) (s : State) :
    Host.Outcome State Fault Refusal := live s fun s => s.decComplete cluster queue unit outcome recipe

/-- VIDEO_PICTURE_DONE (R123, R125, R126, R128, R134); `recipe` comes with the picture that ends its sample's decode step
(R137). -/
def State.pictureDone (s : State) (c : Nat) (o : MediaOutcome) (recipe : Option RecipeStep) : State :=
  let u := s.vunit c
  match u.current with
  | none => s
  | some h =>
    let s := s.putVunit { u with current := none }
    match s.stream? h with
    | none => s.serveVideo c
    | some x =>
      match x.queue with
      | [] => s.serveVideo c
      | e :: l =>
        let s := s.bufFlight e.desc.inBuf false
        let bad := !s.inputOk e.req e.desc.inBuf e.desc.inLen
        let s :=
          if bad then (s.putStream { x with queue := l }).decRefuse e 0 0x4002 0 0 0 0
          else if o.limits ∨ o.refusal ≠ 0 then
            let code := if o.limits then 0x4014 else 0x4010
            let s := s.decRecipe e o 0 recipe
            let s := (s.putStream { x with queue := [], refused := true }).decRefuse e 0 code 0x10 o.refusal 0 0
            s.flushUnits 0x4010 l
          else
            let p : HeldPicture := ⟨e, o, x.decoded⟩
            let held := if e.desc.options.testBit 4 then x.held else x.held ++ [p]
            let s := s.bump Reg.dec.picturesDone
            let s := (s.putStream { x with queue := l, held := held, decoded := x.decoded + 1 }).putOut h o.outputs
            s.videoStep h e o recipe
        match s.stream? h with
        | none => s.serveVideo c
        | some y => match y.closing with
          | some cl => s.finishClose y cl
          | none => s.serveVideo c

def execVideoPictureDone (cluster : Nat) (outcome : MediaOutcome) (recipe : Option RecipeStep) (s : State) :
    Host.Outcome State Fault Refusal := live s fun s => s.pictureDone cluster outcome recipe

/-! ### Context switches (R113, R129) and destruction -/

/-- Every unit of a cluster abandons its request, which goes back to the head of the outgoing context's saved queue. -/
def State.decLeave (s : State) (c ctx : Nat) : State :=
  let mine := s.dec.queues.filter fun q => q.cluster == c
  let n := (mine.map fun q => q.running.length).foldl (· + ·) 0 + (s.vunit c).current.isSome.toNat
  let s := (mine.flatMap fun q => q.running).foldl (fun s (x : Nat × DecEntry) => s.bufFlight x.2.desc.inBuf false) s
  let saved := mine.map fun q => (ctx, { q with entries := q.running.map (·.2) ++ q.entries, running := [] })
  let s := s.putDec { s.dec with
    queues := s.dec.queues.filter fun q => q.cluster != c
    saved := s.dec.saved ++ saved }
  (s.putVunit { s.vunit c with current := none }).add Reg.dec.abandoned n

/-- The saved queues of a context return with it. -/
def State.decReturn (s : State) (c ctx : Nat) : State :=
  let mine := s.dec.saved.filter fun p => p.1 == ctx && p.2.cluster == c
  let s := s.putDec { s.dec with saved := s.dec.saved.filter fun p => !(p.1 == ctx && p.2.cluster == c) }
  let s := (mine.map (·.2)).foldl (fun (s : State) (q : DecQueue) =>
    let x := s.decQueue c q.cls
    s.putDecQueue { x with entries := q.entries ++ x.entries }) s
  s.serveVideo c

/-- A context's streams and requests end with it (R495): nothing of them is reported. -/
def State.decDestroy (s : State) (ctx : Nat) : State :=
  let s := s.putDec { s.dec with
    queues := s.dec.queues.map fun q => { q with
      entries := q.entries.filter fun e => e.req.ctx != ctx, running := q.running.filter fun e => e.2.req.ctx != ctx }
    saved := s.dec.saved.filter fun p => p.1 != ctx
    streams := s.dec.streams.filter fun x => x.owner != ctx
    units := s.dec.units.map fun u =>
      if s.dec.streams.any fun x => x.owner == ctx && u.current == some x.handle then { u with current := none } else u }
  let s := (List.range 16).foldl (fun s c =>
    (List.range 64).foldl (fun s _ => s.promote c) s) s
  s.streamRegs

/-! ### Island speed (R142) -/

def execIslandSpeedSample (cluster speed : Nat) (s : State) : Host.Outcome State Fault Refusal :=
  live s fun s =>
    if !s.hasCluster cluster then s
    else
      let old := s.num (Reg.island.islandSpeed cluster)
      let v := wrap 16 speed
      let slow := s.num Reg.islandCtl.islandSlowLevel
      let plan := s.num Reg.islandCtl.planFactor
      let s := s.setN (Reg.island.islandSpeed cluster) v
      let s := s.setN Reg.islandCtl.islandSpeedLow (min (s.num Reg.islandCtl.islandSpeedLow) v)
      let s := if v < slow ∧ slow ≤ old then
          (s.bump Reg.islandCtl.islandSlowEvents).raise 0x4080 cluster 0xFF (leBytes 2 v) else s
      if v < plan ∧ plan ≤ old then
        (s.bump Reg.islandCtl.belowPlanEvents).raise 0x4081 cluster 0xFF (leBytes 2 v) else s

end Sys2Proof.Machine
end

