-- ==== Sys2Proof/Machine/Engines.lean ====
section
/-! DEFINITION. Cores and engines at work: tile memory, the engine's instructions (Table 7-3) in its in-order queue, and
the core's DMA unit (R193 to R211). -/
namespace Sys2Proof.Machine

/-! ### Clusters, cores and engines -/

def ClusterState.empty (c : Nat) : ClusterState := ⟨c, [], [], [], [], none, false⟩

def State.putComp (s : State) (x : Compute) : State := { s with comp := x }

/-- The compute state of a cluster. -/
def State.cs (s : State) (c : Nat) : ClusterState :=
  (s.comp.clusters.find? fun x => x.cluster == c).getD (ClusterState.empty c)

def State.putCs (s : State) (x : ClusterState) : State :=
  s.putComp { s.comp with clusters := (s.comp.clusters.filter fun y => y.cluster != x.cluster) ++ [x] }

def ComputeFlags.none : ComputeFlags := ⟨false, false, false⟩

def ComputeFlags.or (a b : ComputeFlags) : ComputeFlags :=
  ⟨a.accLimit || b.accLimit, a.nonfinite || b.nonfinite, a.saturated || b.saturated⟩

def Core.fresh (i : Nat) : Core := ⟨i, [], [], [], none, ComputeFlags.none, none⟩

def ClusterState.core (x : ClusterState) (i : Nat) : Core := (x.cores.find? fun k => k.idx == i).getD (Core.fresh i)

def ClusterState.putCore (x : ClusterState) (k : Core) : ClusterState :=
  { x with cores := (x.cores.filter fun j => j.idx != k.idx) ++ [k] }

def State.core (s : State) (c i : Nat) : Core := (s.cs c).core i

def State.putCore (s : State) (c : Nat) (k : Core) : State := s.putCs ((s.cs c).putCore k)

def Engine.fresh (i : Nat) : Engine := ⟨i, [], [], [], none, []⟩

def Core.engine (k : Core) (i : Nat) : Engine := (k.engines.find? fun e => e.idx == i).getD (Engine.fresh i)

def Core.putEngine (k : Core) (e : Engine) : Core :=
  { k with engines := (k.engines.filter fun f => f.idx != e.idx) ++ [e] }

/-- The work item of a core faults and stops (R218). -/
def Core.faults (k : Core) (code pc : Nat) : Core :=
  if k.item.isSome && k.fault.isNone then { k with fault := some (code, pc) } else k

def Core.flag (k : Core) (f : ComputeFlags) : Core := { k with flags := k.flags.or f }

/-- Bytes of tile memory (Table 7-1). -/
def tileBytes : Nat := 262144

def readMem (m : List (Nat × Byte)) (a n : Nat) : Bytes := (List.range n).map fun i => Sparse.get (fun _ => 0) m (a + i)

def writeMem (m : List (Nat × Byte)) (a : Nat) (b : Bytes) : List (Nat × Byte) :=
  (b.zip (List.range b.length)).foldl (fun m p => Sparse.set (fun _ => 0) m (a + p.2) p.1) m

/-! ### Engine registers -/

def AccKind.code : AccKind → Nat
  | .fp => 0 | .int => 1 | .exact => 2

/-- The quarters of the accumulator store that a tile takes: eight FP32 tiles, four integer ones or two exact ones. -/
def accSpan (k : AccKind) (n : Nat) : Nat × Nat :=
  match k with
  | .fp => (n, n + 1) | .int => (2 * n, 2 * n + 2) | .exact => (4 * n, 4 * n + 4)

def AccTile.overlaps (t : AccTile) (k : AccKind) (n : Nat) : Bool :=
  let a := accSpan t.kind t.n
  let b := accSpan k n
  a.1 < b.2 && b.1 < a.2

def zeroCells : List AccCell := List.replicate 1024 AccCell.zero

/-- An accumulator tile's cells. What a tile reads as after a tile of another kind was written over it the spec does not
say: free values under counter `ctr`. -/
def Engine.acc (e : Engine) (k : AccKind) (n ctr : Nat) : List AccCell :=
  match e.accs.find? fun t => t.kind == k && t.n == n with
  | some t => t.cells
  | none =>
    if e.accs.any fun t => t.overlaps k n then
      (List.range 1024).map fun i => ⟨leAt (Config.freeBytes ctr 16384) (16 * i) 16 % 2 ^ (8 * (min 16 k.cellBytes)), 0, 0⟩
    else zeroCells

/-- Whether reading a tile draws free values. -/
def Engine.accOpen (e : Engine) (k : AccKind) (n : Nat) : Bool :=
  !(e.accs.any fun t => t.kind == k && t.n == n) && e.accs.any fun t => t.overlaps k n

def Engine.putAcc (e : Engine) (k : AccKind) (n : Nat) (cells : List AccCell) : Engine :=
  { e with accs := (e.accs.filter fun t => !t.overlaps k n) ++ [⟨k, n, cells⟩] }

def Engine.operand (e : Engine) (n : Nat) : OpTile :=
  (e.operands.find? fun t => t.n == n).getD ⟨n, .int8, List.replicate 1024 0⟩

def Engine.putOperand (e : Engine) (t : OpTile) : Engine :=
  { e with operands := (e.operands.filter fun u => u.n != t.n) ++ [t] }

def Engine.vec (e : Engine) (n : Nat) : Nat := Sparse.get (fun _ => 0) e.vecs n

def Engine.putVec (e : Engine) (n v : Nat) : Engine := { e with vecs := Sparse.set (fun _ => 0) e.vecs n (v % 2 ^ 1024) }

/-- The accumulator kind and number of a register, if it is one. -/
def EngReg.acc? : EngReg → Option (AccKind × Nat)
  | .fpAcc n => some (.fp, n) | .intAcc n => some (.int, n) | .exactAcc n => some (.exact, n)
  | _ => none

/-- Whether the engine has the register (R196). -/
def EngReg.exists_ : EngReg → Bool
  | .operand n => n < 2 | .vector n => n < 32 | .fpAcc n => n < 8 | .intAcc n => n < 4 | .exactAcc n => n < 2

/-- Bytes of a register in tile memory. -/
def EngReg.bytes (r : EngReg) (f : NumFmt) : Nat :=
  match r with
  | .operand _ => 1024 * (f.bits / 8)
  | .vector _ => 128
  | .fpAcc _ => 4096 | .intAcc _ => 8192 | .exactAcc _ => 24576

/-- Formats that an operand tile holds: those of Table 7-2. -/
def NumFmt.isOperand (f : NumFmt) : Bool :=
  f == .int8 || f == .uint8 || f == .e4m3 || f == .e5m2 || f == .fp16 || f == .bf16

/-- The parts of a byte string of `w` bytes each. -/
def chunks (w n : Nat) (b : Bytes) : List Bytes := (List.range n).map fun i => bytesAt b (w * i) w

/-! ### The instructions -/

/-- What an instruction sees: the core, the engine, the free value counter, and the Philox key, sample and slot base of
the item it works for. -/
structure EngineCtx where
  core : Core
  eng : Engine
  ctr : Nat
  drawn : Bool
  key : Nat
  sample : Nat
  slotBase : Nat
deriving DecidableEq, Repr

def EngineCtx.fault (x : EngineCtx) (code pc : Nat) : EngineCtx := { x with core := x.core.faults code pc }

/-- LD and ST. -/
def runLdSt (x : EngineCtx) (pc : Nat) (o : LdSt) : EngineCtx :=
  let n := o.reg.bytes o.fmt
  let isOp := match o.reg with | .operand _ => true | _ => false
  if !o.reg.exists_ || (isOp && !o.fmt.isOperand) then x.fault 3 pc
  else if tileBytes < o.addr + n then x.fault 1 pc
  else if o.store then
    let b : Bytes := match o.reg with
      | .operand k =>
        let t := x.eng.operand k
        t.elems.flatMap (leBytes (o.fmt.bits / 8))
      | .vector k => leBytes 128 (x.eng.vec k)
      | .fpAcc k => (x.eng.acc .fp k x.ctr).flatMap AccKind.fp.encode
      | .intAcc k => (x.eng.acc .int k x.ctr).flatMap AccKind.int.encode
      | .exactAcc k => (x.eng.acc .exact k x.ctr).flatMap AccKind.exact.encode
    let open_ := match o.reg.acc? with | some (k, n) => x.eng.accOpen k n | none => false
    { x with core := { x.core with tile := writeMem x.core.tile o.addr b }, drawn := x.drawn || open_ }
  else
    let b := readMem x.core.tile o.addr n
    let e := match o.reg with
      | .operand k => x.eng.putOperand ⟨k, o.fmt, (chunks (o.fmt.bits / 8) 1024 b).map leNat⟩
      | .vector k => x.eng.putVec k (leNat b)
      | .fpAcc k => x.eng.putAcc .fp k ((chunks 4 1024 b).map AccKind.fp.decode)
      | .intAcc k => x.eng.putAcc .int k ((chunks 8 1024 b).map AccKind.int.decode)
      | .exactAcc k => x.eng.putAcc .exact k ((chunks 24 1024 b).map AccKind.exact.decode)
    { x with eng := e }

/-- MMA (R200, R201, R205): an instruction of formats that its mode does not take is outside Table 7-3. -/
def runMma (x : EngineCtx) (pc : Nat) (o : MmaOp) : EngineCtx :=
  let a := x.eng.operand 0
  let b := x.eng.operand 1
  let k := o.mode.kind
  let limit := match k with | .fp => 8 | .int => 4 | .exact => 2
  if !(o.mode.allows a.fmt && o.mode.allows b.fmt) || limit ≤ o.acc then x.fault 3 pc
  else
    let cells := mmaTile o.mode a b (x.eng.acc k o.acc x.ctr)
    { x with
      core := x.core.flag ⟨false, cells.any fun c => c.nonfinite k, false⟩
      eng := x.eng.putAcc k o.acc cells, drawn := x.drawn || x.eng.accOpen k o.acc }

/-- ACC (R202, R203, R206). -/
def runAcc (x : EngineCtx) (pc : Nat) (o : AccOp) : EngineCtx :=
  match o.reg.acc? with
  | none => x.fault 3 pc
  | some (k, n) =>
    if !o.reg.exists_ then x.fault 3 pc
    else match o.action with
      | .clear => { x with eng := x.eng.putAcc k n zeroCells }
      | .store => runLdSt x pc ⟨true, o.reg, .fp32, o.addr⟩
      | .add =>
        let w := k.cellBytes
        if tileBytes < o.addr + 1024 * w then x.fault 1 pc
        else
          let parts := (chunks w 1024 (readMem x.core.tile o.addr (1024 * w))).map k.decode
          let cells := ((x.eng.acc k n x.ctr).zip parts).map fun p => k.addCell p.1 p.2
          { x with
            core := x.core.flag ⟨false, cells.any fun c => c.nonfinite k, false⟩
            eng := x.eng.putAcc k n cells, drawn := x.drawn || x.eng.accOpen k n }

/-- The values that CVT rounds: an accumulator tile's or a vector's 32 FP32 lanes; whether they exceed the product limit,
and whether they are free. -/
def cvtInput (x : EngineCtx) (r : EngReg) : List FVal × Bool × Bool :=
  match r.acc? with
  | some (k, n) =>
    let cells := x.eng.acc k n x.ctr
    (cells.map fun c => c.value k, cells.any fun c => c.overLimit k, x.eng.accOpen k n)
  | none => match r with
    | .vector n => ((lanesOf .fp32 (x.eng.vec n)).map fmtFp32.decode, false, false)
    | _ => ([], false, false)

/-- CVT (R207 to R210). -/
def runCvt (x : EngineCtx) (pc : Nat) (o : CvtOp) : EngineCtx :=
  let isOp := match o.reg with | .operand _ => true | _ => false
  let mxOk : Bool := o.target.float.isSome && o.target != .fp32 && o.target != .fp16 && o.target != .bf16
  let subByte := o.target == .e2m3 || o.target == .e3m2 || o.target == .e2m1
  if !o.reg.exists_ || isOp || (o.mx && !mxOk) || (!o.mx && subByte) then x.fault 3 pc
  else
    let (vals, past, open_) := cvtInput x o.reg
    let rnd := fun (i : Nat) =>
      if o.stochastic then some (stochasticBits x.key x.sample (x.slotBase + o.slot) (o.element + i)) else none
    let inp := (vals.zip (List.range vals.length)).map fun p => (p.1, rnd p.2)
    let nonf := vals.any FVal.nonfinite
    let blocks := if o.mx then
        (blocks32 (((FVal.fin false 0 0), none) : FVal × Option Nat) (vals.length / 32 + 1) inp).map (mxBlock o.target) else []
    let plain := if o.mx then [] else inp.map fun p => o.target.convert o.saturate p.2 p.1
    let out := if o.mx then packBits o.target.bits (blocks.flatMap fun b => b.2.1)
      else plain.flatMap fun c => leBytes (o.target.bits / 8) c.bits
    let scales : Bytes := blocks.map fun b => BitVec.ofNat 8 b.1
    if tileBytes < o.addr + out.length ∨ tileBytes < o.scaleAddr + scales.length then x.fault 1 pc
    else
      let sat := blocks.any (fun b => b.2.2) || plain.any (·.saturated)
      let tile := writeMem (writeMem x.core.tile o.addr out) o.scaleAddr scales
      { x with core := { x.core with tile := tile }.flag ⟨past, nonf, sat⟩, drawn := x.drawn || open_ }

/-- VALU. -/
def runValu (x : EngineCtx) (pc : Nat) (o : ValuOp) : EngineCtx :=
  if !valuOk o.fn o.lane || 32 ≤ o.dst || 32 ≤ o.a || 32 ≤ o.b || 32 ≤ o.c then x.fault 3 pc
  else
    let b := x.eng.vec o.b
    let free := leNat (Config.freeBytes x.ctr 128)
    { x with
      eng := x.eng.putVec o.dst (valuVec o.fn o.lane (x.eng.vec o.a) b (x.eng.vec o.c) free)
      drawn := x.drawn || valuOpen o.fn o.lane (lanesOf o.lane (x.eng.vec o.a)) (lanesOf o.lane b) }

/-- VRED. -/
def runVred (x : EngineCtx) (pc : Nat) (o : VredOp) : EngineCtx :=
  if !o.lane.isLane || 32 ≤ o.dst || 32 ≤ o.a then x.fault 3 pc
  else { x with eng := x.eng.putVec o.dst (vredVec o.lane (x.eng.vec o.a)) }

/-- The lanes of `n` registers from register `a`, one after another. -/
def Engine.file (e : Engine) (f : NumFmt) (a n : Nat) : List Nat :=
  (List.range n).flatMap fun i => lanesOf f (e.vec (a + i))

/-- Registers from `a` take a list of lanes. -/
def Engine.putFile (e : Engine) (f : NumFmt) (a n : Nat) (l : List Nat) : Engine :=
  (List.range n).foldl (fun e i => e.putVec (a + i) (ofLanes f ((l.drop (f.lanes * i)).take f.lanes))) e

/-- VPERM: a lane index past the end names no lane; a free value takes the place of the lane selected, and in a scatter of the
index. -/
def runVperm (x : EngineCtx) (pc : Nat) (o : VpermOp) : EngineCtx :=
  let n := o.lane.lanes
  let span := match o.fn with | .permute => 1 | _ => o.count
  if !o.lane.isLane || 32 ≤ o.dst || 32 ≤ o.idx || span = 0 || 32 < o.a + span ||
      (o.fn == .transpose && (n < o.count || 32 < o.dst + o.count)) then x.fault 3 pc
  else
    let idx := lanesOf o.lane (x.eng.vec o.idx)
    let free := lanesOf o.lane (leNat (Config.freeBytes x.ctr 128))
    match o.fn with
    | .permute | .gather =>
      let src := x.eng.file o.lane o.a span
      let l := (idx.zip free).map fun p => src.getD p.1 p.2
      { x with eng := x.eng.putVec o.dst (ofLanes o.lane l), drawn := x.drawn || idx.any fun i => src.length ≤ i }
    | .scatter =>
      let src := lanesOf o.lane (x.eng.vec o.dst)
      let old := x.eng.file o.lane o.a span
      let at_ := (idx.zip free).map fun p => if p.1 < old.length then p.1 else p.2
      let file := (src.zip at_).foldl (fun l p => l.set p.2 p.1) old
      { x with eng := x.eng.putFile o.lane o.a span file, drawn := x.drawn || idx.any fun i => old.length ≤ i }
    | .transpose =>
      let src := x.eng.file o.lane o.a o.count
      let at_ := fun (r c : Nat) => src.getD (r * n + c) 0
      let out := (List.range o.count).flatMap fun r =>
        (List.range n).map fun c => if c < o.count then at_ c r else at_ r c
      { x with eng := x.eng.putFile o.lane o.dst o.count out }

/-- One instruction other than SYNC. -/
def runEngine (x : EngineCtx) (pc : Nat) : EngineOp → EngineCtx
  | .ldSt o => runLdSt x pc o
  | .mma o => runMma x pc o
  | .acc o => runAcc x pc o
  | .cvt o => runCvt x pc o
  | .valu o => runValu x pc o
  | .vred o => runVred x pc o
  | .vperm o => runVperm x pc o
  | .sync _ => x

/-! ### The in-order queue and SYNC -/

/-- The descriptor fields of the launch that a core's item belongs to. -/
def State.itemDesc (s : State) (c : Nat) : Option ComputeEntry := ((s.cs c).launch).map (·.entry)

/-- SAMPLE_INDEX of an item (Table 7-8); 0 without a SAMPLE_TABLE. -/
def State.itemSample (s : State) (e : ComputeEntry) (item : Nat) : Nat :=
  if e.desc.sampleTable = 0 then 0 else leNat (s.bufRead e.desc.sampleTable (8 * item) 8)

/-- The context of an instruction of a core's engine. -/
def State.engineCtx (s : State) (c i e : Nat) : EngineCtx :=
  let k := s.core c i
  let d := s.itemDesc c
  let lo := s.num Reg.seed.seedLo
  let hi := s.num Reg.seed.seedHi
  { core := k, eng := k.engine e, ctr := s.freeCtr, drawn := false
    key := match d with | some x => philoxKey lo hi x.desc.epoch | none => 0
    sample := match d, k.item with
      | some x, some n => s.itemSample x n
      | _, _ => 0
    slotBase := match d with | some x => x.desc.slotBase | none => 0 }

/-- An instruction executes. -/
def State.engineExec (s : State) (c i e pc : Nat) (o : EngineOp) : State :=
  let x := runEngine (s.engineCtx c i e) pc o
  let s := s.putCore c (x.core.putEngine x.eng)
  if x.drawn then s.drawn else s

/-- Whether what a SYNC of engine `e` waits for has come: the other engine waits for this one, no DMA transfer of the core
is in flight; the control core's side is not a command of its own, so that wait ends at once. -/
def Core.syncMet (k : Core) (e : Nat) : SyncTarget → Bool
  | .engine n => (k.engine n).wait == some (.engine e)
  | .controlCore => true
  | .dma => k.dma.isEmpty

/-- A met wait ends, on both engines of a rendezvous. -/
def Core.syncEnd (k : Core) (e : Nat) (t : SyncTarget) : Core :=
  let k := k.putEngine { k.engine e with wait := none }
  match t with
  | .engine n => k.putEngine { k.engine n with wait := none }
  | _ => k

/-- An engine's in-order queue runs until it is empty or waits at a SYNC; `n` bounds the instructions. -/
def State.drainEngine (s : State) (c i e : Nat) : Nat → State
  | 0 => s
  | n + 1 =>
    let k := s.core c i
    let g := k.engine e
    if g.wait.isSome || k.fault.isSome then s
    else match g.queue with
      | [] => s
      | (pc, o) :: l =>
        let s := s.putCore c (k.putEngine { g with queue := l })
        match o with
        | .sync t =>
          let k := s.core c i
          State.drainEngine (s.putCore c (if k.syncMet e t then k.syncEnd e t
            else k.putEngine { k.engine e with wait := some t })) c i e n
        | o => State.drainEngine (s.engineExec c i e pc o) c i e n

/-- Both engines of a core go on where what they wait for has come. -/
def State.wakeEngines (s : State) (c i : Nat) : State :=
  [0, 1, 0].foldl (fun s e =>
    let k := s.core c i
    let s := match (k.engine e).wait with
      | some t => if k.syncMet e t then s.putCore c (k.syncEnd e t) else s
      | none => s
    s.drainEngine c i e ((s.core c i).engine e).queue.length) s

/-- An instruction reaches the engine's queue; a core whose item has faulted runs nothing of it (R218). -/
def State.issue (s : State) (a : EngineAt) (o : EngineOp) : State :=
  let k := s.core a.cluster a.core
  if !s.hasCluster a.cluster || 8 ≤ a.core || 2 ≤ a.engine || k.fault.isSome then s
  else
    let g := k.engine a.engine
    (s.putCore a.cluster (k.putEngine { g with queue := g.queue ++ [(a.pc, o)] })).wakeEngines a.cluster a.core

def execEngineLdSt (at_ : EngineAt) (op : LdSt) (s : State) : Host.Outcome State Fault Refusal :=
  live s fun s => s.issue at_ (.ldSt op)

def execEngineMma (at_ : EngineAt) (op : MmaOp) (s : State) : Host.Outcome State Fault Refusal :=
  live s fun s => s.issue at_ (.mma op)

def execEngineAcc (at_ : EngineAt) (op : AccOp) (s : State) : Host.Outcome State Fault Refusal :=
  live s fun s => s.issue at_ (.acc op)

def execEngineCvt (at_ : EngineAt) (op : CvtOp) (s : State) : Host.Outcome State Fault Refusal :=
  live s fun s => s.issue at_ (.cvt op)

def execEngineValu (at_ : EngineAt) (op : ValuOp) (s : State) : Host.Outcome State Fault Refusal :=
  live s fun s => s.issue at_ (.valu op)

def execEngineVred (at_ : EngineAt) (op : VredOp) (s : State) : Host.Outcome State Fault Refusal :=
  live s fun s => s.issue at_ (.vred op)

def execEngineVperm (at_ : EngineAt) (op : VpermOp) (s : State) : Host.Outcome State Fault Refusal :=
  live s fun s => s.issue at_ (.vperm op)

def execEngineSync (at_ : EngineAt) (target : SyncTarget) (s : State) : Host.Outcome State Fault Refusal :=
  live s fun s => s.issue at_ (.sync target)

/-! ### DMA (R195) -/

/-- Bytes of cluster SRAM and of a die's SRAM (Table 7-1). -/
def sramBytes : Nat := 8388608
def dieSramBytes : Nat := 33554432

/-- The end of a two-dimensional block. -/
def blockEnd (addr stride rows rowBytes : Nat) : Nat := if rows = 0 then addr else addr + stride * (rows - 1) + rowBytes

/-- Why a transfer is not performed: TILE_BOUNDS, or BUFFER_ACCESS for a buffer that the context does not own, memory that
does not exist, or poisoned data read (R195, R303). -/
def State.dmaFault (s : State) (c i : Nat) (o : DmaOp) : Option Nat :=
  if tileBytes < blockEnd o.tileAddr o.tileStride o.rows o.rowBytes then some 1
  else
    let bad : Bool := match o.far with
      | .clusterSram a => sramBytes < blockEnd a o.farStride o.rows o.rowBytes
      | .dieSram d a => s.dev.variant.clusters / 8 ≤ d || dieSramBytes < blockEnd a o.farStride o.rows o.rowBytes
      | .buffer h off =>
        let r : Requester := ⟨0x1000 + 8 * c + i, (s.resident c).getD 0xFF⟩
        (List.range o.rows).any fun k =>
          !s.mayAccess r h (off + o.farStride * k) o.rowBytes ||
            (o.toTile && s.bufPoisoned h (off + o.farStride * k) o.rowBytes)
    if bad then some 2 else none

/-- A transfer is issued, performed only if it checks. -/
def State.dmaIssue (s : State) (c i pc : Nat) (o : DmaOp) : State :=
  let k := s.core c i
  if !s.hasCluster c || 8 ≤ i || k.fault.isSome then s
  else match s.dmaFault c i o with
    | some code => s.putCore c (k.faults code pc)
    | none =>
      let s := s.putCore c { k with dma := k.dma ++ [o] }
      match o.far with
      | .buffer h _ => s.bufFlight h true
      | _ => s

def execDmaTransfer (cluster core pc : Nat) (op : DmaOp) (s : State) : Host.Outcome State Fault Refusal :=
  live s fun s => s.dmaIssue cluster core pc op

/-- A die's SRAM. -/
def State.dieSram (s : State) (d : Nat) : List (Nat × Byte) := ((s.comp.dieSram.find? fun p => p.1 == d).map (·.2)).getD []

/-- Row `k` of a transfer is moved. -/
def State.dmaRow (s : State) (c i : Nat) (o : DmaOp) (k : Nat) : State :=
  let x := s.core c i
  let t := o.tileAddr + o.tileStride * k
  let inRow := fun (b : Bytes) => s.putCore c { x with tile := writeMem x.tile t b }
  let row := readMem x.tile t o.rowBytes
  match o.far with
  | .clusterSram a =>
    let a := a + o.farStride * k
    let m := (s.cs c).sram
    if o.toTile then inRow (readMem m a o.rowBytes) else s.putCs { s.cs c with sram := writeMem m a row }
  | .dieSram d a =>
    let a := a + o.farStride * k
    let m := s.dieSram d
    if o.toTile then inRow (readMem m a o.rowBytes)
    else s.putComp { s.comp with dieSram := (s.comp.dieSram.filter fun p => p.1 != d) ++ [(d, writeMem m a row)] }
  | .buffer h off =>
    let a := off + o.farStride * k
    if o.toTile then inRow (s.bufRead h a o.rowBytes) else s.bufWrite h a row

/-- The oldest transfer of a core completes: transfers complete in issue order. -/
def State.dmaDone (s : State) (c i : Nat) : State :=
  let k := s.core c i
  match k.dma with
  | [] => s
  | o :: l =>
    let s := s.putCore c { k with dma := l }
    let s := (List.range o.rows).foldl (fun s r => s.dmaRow c i o r) s
    let s := match o.far with
      | .buffer h _ => s.bufFlight h false
      | _ => s
    s.wakeEngines c i

def execDmaComplete (cluster core : Nat) (s : State) : Host.Outcome State Fault Refusal :=
  live s fun s => s.dmaDone cluster core

end Sys2Proof.Machine
end

