-- ==== Sys2Proof/Machine/StandOps.lean ====
section
/-! DEFINITION. The stand's shared operations: its registers, mastership and the barrier's protocol (R92 to R97). -/
namespace Sys2Proof.Machine

def State.putStand (s : State) (x : Stand) : State := { s with stand := x }

/-- This device's STAND_ID as sampled (R91). -/
def State.standId (s : State) : Nat := s.num Reg.stand.standId

/-- The stand registers follow the stand unit (Table 3-10). -/
def State.standRegs (s : State) : State :=
  let x := s.stand
  let s := s.setN Reg.stand.standState x.state.code
  let s := s.setN Reg.stand.masterId x.masterId
  let s := s.setN Reg.stand.masterTerm x.term
  let s := s.setN Reg.stand.memberMask (x.members.foldl setBit 0)
  let s := s.setN Reg.stand.ringLinks x.links
  s.setN Reg.stand.barrierNext x.nextBarrier

/-- A formed stand. -/
def State.inStand (s : State) : Bool := s.stand.state == .member || s.stand.state == .master

/-- The root PLL holds lock (R526). -/
def State.pllLocked (s : State) : Bool := s.num Reg.clk.pllState == 0

/-- The lockstep pair of this device's Lookout engine is healthy (R93). -/
def State.lockstepOk (s : State) : Bool := s.num Reg.lk.lockstep == 0

/-- The members that may be master (R93). -/
def State.qualifying (s : State) : List Nat :=
  s.stand.members.filter fun m => if m = s.standId then s.lockstepOk else !s.stand.unhealthy.contains m

/-- Whether this device is the qualifying member with the lowest STAND_ID. -/
def State.shouldLead (s : State) : Bool :=
  s.qualifying.contains s.standId && s.qualifying.all fun m => s.standId ≤ m

/-- A barrier as its master knows it. -/
def Stand.barrier? (x : Stand) (n : Nat) : Option Barrier := x.barriers.find? fun b => b.number == n

/-- The master's record of a barrier takes its new state. -/
def Stand.putBarrier (x : Stand) (b : Barrier) : Stand :=
  { x with barriers := (x.barriers.filter fun c => c.number != b.number) ++ [b] }

/-- Whether every member that takes part in barrier `n` is in a list. -/
def Stand.all (x : Stand) (n : Nat) (l : List Nat) : Bool :=
  x.members.all fun m => l.contains m || x.joined.any fun p => p.1 == m && decide (n < p.2)

/-- The master drives the release pulse once every member is armed (R95 step 4). -/
def State.tryPulse (s : State) (n : Nat) : State :=
  match s.stand.barrier? n with
  | none => s
  | some b => if b.armSent && s.stand.all n b.armed && s.stand.driving then s.emit .syncPulse else s

/-- The master sends ARM once every member has arrived, arming itself too (R95 steps 2 and 3); a new master waits 2
rings (R94). -/
def State.tryArm (s : State) (n : Nat) : State :=
  match s.stand.barrier? n with
  | none => s
  | some b =>
    if s.stand.state == .master && !b.armSent && s.stand.armHold == 0 && s.stand.all n b.arrived then
      let b := { b with armSent := true, armed := [s.standId] }
      let s := s.emit (.stand (.arm n s.stand.term))
      let s := s.putStand { s.stand.putBarrier b with armedBarrier := some (n, s.stand.term) }
      s.tryPulse n
    else s

/-- ARRIVE(n) from a member reaches the master (R95). -/
def State.masterArrive (s : State) (m n : Nat) : State :=
  let b := (s.stand.barrier? n).getD ⟨n, [], [], false, s.rc.ring⟩
  let b := { b with arrived := if b.arrived.contains m then b.arrived else b.arrived ++ [m] }
  (s.putStand (s.stand.putBarrier b)).tryArm n

/-- Sends ARRIVE(n), to itself where this device is the master. -/
def State.sendArrive (s : State) (n : Nat) : State :=
  if s.stand.state == .master then s.masterArrive s.standId n else s.emit (.stand (.arrive n))

/-- Work of this device reaches the next barrier (R95 step 1). -/
def State.arriveNext (s : State) (group frame : Nat) : State :=
  let n := s.stand.nextBarrier
  let s := s.putStand { s.stand with nextBarrier := n + 1, waiting := s.stand.waiting ++ [⟨n, group, frame⟩] }
  s.standRegs.sendArrive n

/-- The release of the armed barrier: its number, the work that waited, and the state disarmed. -/
def State.takeArmed (s : State) : Option (Nat × List BarrierWork × State) :=
  match s.stand.armedBarrier with
  | none => none
  | some (n, term) =>
    if term = s.stand.term then
      let x := s.stand
      some (n, x.waiting.filter fun w => w.barrier == n, s.putStand { x with
        armedBarrier := none
        waiting := x.waiting.filter fun w => w.barrier != n
        barriers := x.barriers.filter fun b => b.number != n })
    else none

/-- The work of an aborted barrier, and the state without it (R97). -/
def State.takeAborted (s : State) (n : Nat) : List BarrierWork × State :=
  let x := s.stand
  (x.waiting.filter fun w => w.barrier == n, (s.putStand { x with
    armedBarrier := match x.armedBarrier with
      | some (m, t) => if m = n then none else some (m, t)
      | none => none
    waiting := x.waiting.filter fun w => w.barrier != n
    barriers := x.barriers.filter fun b => b.number != n }).bump Reg.stand.barrierAborts)

/-- Arrives again at every barrier at which this device still waits (R97). -/
def State.rearrive (s : State) : State :=
  (s.stand.waiting.map (·.barrier)).eraseDups.foldl (fun s n => s.sendArrive n) s

/-- A new master is accepted: what was armed is disarmed (R93, R97). -/
def State.acceptMaster (s : State) (m term : Nat) : State :=
  let x := s.stand
  let me := m == s.standId
  let s := s.putStand { x with
    state := if me then .master else .member
    masterId := m, term := term, topTerm := max x.topTerm term, armedBarrier := none, barriers := []
    armHold := if me then 2 else 0, driving := me && s.pllLocked }
  s.standRegs.rearrive

/-- This device announces itself with a term one above the highest it has seen (R93). -/
def State.announce (s : State) : State :=
  let t := max s.stand.topTerm s.stand.term + 1
  (s.emit (.stand (.master s.standId t))).acceptMaster s.standId t

/-- The release instant: the edge, later by SYNC_COMP CORE cycles of 0.625 ns (R95 step 5). -/
def State.releaseInstant (s : State) : Nat × Nat × Nat :=
  let comp := s.num (Reg.syncComp.syncComp s.stand.masterId)
  let g := s.rc.ring * 1024 + s.grain + comp / 16
  (g / 1024, g % 1024, comp)

end Sys2Proof.Machine
end

