-- ==== Sys2Proof/Machine/Intake.lean ====
section
/-! DEFINITION. Live intake: packets, frame assembly and completion, statistics, exposure settings, fusion and storage
(R146 to R165). -/
namespace Sys2Proof.Machine

/-! ### Streams -/

def State.liveStream (s : State) (i : Nat) : LiveStream :=
  (s.intake.streams.find? fun x => x.stream == i).getD ⟨i, [], [], none, []⟩

def State.putLive (s : State) (x : LiveStream) : State :=
  { s with intake := { s.intake with
    streams := (s.intake.streams.filter fun y => y.stream != x.stream) ++ [x] } }

/-- Row bytes and frame bytes of a stream (Tables 5-2 and 4-8). -/
def State.liveRowBytes (s : State) (i : Nat) : Nat :=
  rawRowBytes (s.num (Reg.live.width i)) (s.num (Reg.live.bits i)) (s.num (Reg.live.packing i))

def State.liveFrameBytes (s : State) (i : Nat) : Nat := s.num (Reg.live.height i) * s.liveRowBytes i

/-- The acceptance of R147, but for what is particular to FRAME_DATA. -/
def State.intakeAccepts (s : State) (p : IntakePacket) : Bool :=
  p.headerOk && p.stream < 256 && s.flag (Reg.live.enable p.stream) && s.num (Reg.live.port p.stream) == p.port &&
    s.num (Reg.live.udpPort p.stream) == p.udpPort && s.blob (Reg.live.sensorAddr p.stream) == p.source

/-- In REPLAY the live source is ignored (R75). -/
def State.replaying (s : State) : Bool := s.schedState == schedReplay

def State.dropPacket (s : State) : State := s.bump Reg.intake.packetsDropped

/-! ### The statistics block (R156, R157) -/

/-- BACKGROUND (R157): from bin `b` on with `c` counted so far. -/
def backgroundFrom (w16 h : Nat) : Nat → Nat → List Nat → Nat
  | _, _, [] => 0
  | b, c, x :: l => if x ≠ 0 ∧ h ≤ c + x then b * w16 + w16 * (h - c) / x else backgroundFrom w16 h (b + 1) (c + x) l

def background (hist : List Nat) (n bits : Nat) : Nat :=
  if n = 0 then 0 else backgroundFrom (2 ^ (bits - 6)) ((n + 1) / 2) 0 0 hist

/-- The histogram bin of a value (Table 5-3). -/
def histBin (bits v : Nat) : Nat := if 10 ≤ bits then v / 2 ^ (bits - 10) else v * 2 ^ (10 - bits)

/-- The bytes of a row that pixel `x` takes, as a range. -/
def pixelBytes (bits packing x : Nat) : Nat × Nat :=
  if packing = 0 then (2 * x, 2 * x + 2) else (x * bits / 8, (x * bits + bits + 7) / 8)

/-- Whether every byte of a range of offsets was received. -/
def receivedAll (got : List (Nat × Byte)) (lo hi : Nat) : Bool :=
  (List.range (hi - lo)).all fun i => got.any fun e => e.1 == lo + i

/-- The values of the pixels of a frame all of whose bytes were received. -/
def framePixels (got : List (Nat × Byte)) (data : Bytes) (width height bits packing rowBytes : Nat) : List Nat :=
  (List.range height).flatMap fun y =>
    let row := rawRow (bytesAt data (y * rowBytes) rowBytes) width bits packing
    (List.range width).filterMap fun x =>
      let r := pixelBytes bits packing x
      if receivedAll got (y * rowBytes + r.1) (y * rowBytes + r.2) then row[x]? else none

/-- The statistics of pixel values. -/
def frameStats (px : List Nat) (bits sat_ flags gen missing : Nat) : FrameStats :=
  let hist := (List.range 1024).map fun b => sat 32 (px.filter fun v => histBin bits v == b).length
  ⟨flags, gen, missing, px.length, (px.filter fun v => sat_ ≤ v).length, background hist px.length bits, hist⟩

/-- The statistics block (Table 5-3). -/
def Frame.block (f : Frame) : Bytes :=
  leBytes 2 1 ++ leBytes 2 f.stats.flags ++ leBytes 2 f.stream ++ leBytes 1 f.bits ++ zeros 1 ++ leBytes 4 f.number ++
    leBytes 4 f.stats.settingsGen ++ leBytes 8 f.soe ++ leBytes 8 f.completeRing ++ leBytes 2 f.completeGrain ++
    zeros 2 ++ leBytes 4 f.stats.missing ++ leBytes 8 f.stats.pixels ++ leBytes 8 f.stats.saturated ++
    leBytes 4 f.stats.background ++ zeros 4 ++ f.stats.histogram.flatMap (leBytes 4)

/-- A frame with a flag of its statistics block set. -/
def Frame.mark (f : Frame) (bit : Nat) : Frame := { f with stats := { f.stats with flags := setBit f.stats.flags bit } }

/-! ### Storage (R152) -/

/-- Joins the frames waiting to be stored. -/
def State.toStore (s : State) (x : StoreItem) : State :=
  { s with intake := { s.intake with toStore := s.intake.toStore ++ [x] } }

/-- The frames of a store item. -/
def StoreItem.frames : StoreItem → List Frame
  | .frame f => [f]
  | .fused _ _ l _ _ _ _ _ => l.filterMap fun d => if d.outcome = 0 then d.frame else none

/-- Staged bytes of frames that wait for compression. -/
def State.stagedBytes (s : State) : Nat :=
  let waiting := s.intake.toStore.flatMap StoreItem.frames ++
    s.intake.groups.flatMap fun g => g.open_.flatMap fun f => f.layers.map (·.frame)
  ((waiting.filter fun f => !f.stats.flags.testBit 3 && s.num (Reg.live.storeFormat f.stream) != 0).map fun f =>
    f.data.length).foldl (· + ·) 0

/-! ### Fusion -/

def State.group (s : State) (g : Nat) : FuseGroup :=
  (s.intake.groups.find? fun x => x.group == g).getD ⟨g, [], [], 0, [], [], []⟩

def State.putGroup (s : State) (x : FuseGroup) : State :=
  { s with intake := { s.intake with groups := (s.intake.groups.filter fun y => y.group != x.group) ++ [x] } }

/-- The layers of a group on this device, ascending, with their streams. -/
def State.groupLayers (s : State) (g : Nat) : List (Nat × Nat) :=
  (List.range 64).flatMap fun l =>
    ((List.range 256).filter fun i =>
      s.flag (Reg.live.enable i) && s.num (Reg.live.group i) == g && s.num (Reg.live.layer i) == l).map fun i => (l, i)

/-- The frame boundary D of an exposure (R159). -/
def State.boundary (s : State) (g exposure : Nat) : Nat := exposure / 10240 + s.num (Reg.group.readyRings g)

/-- Whether a layer's bound has passed. -/
def State.boundPast (s : State) (g exposure stream : Nat) : Bool :=
  s.boundary g exposure + s.num (Reg.live.waitRings stream) ≤ s.rc.ring

def FuseGroup.frame? (x : FuseGroup) (k : Nat) : Option FusedFrame := x.open_.find? fun f => f.index == k

def FuseGroup.putFrame (x : FuseGroup) (f : FusedFrame) : FuseGroup :=
  { x with open_ := x.open_.map fun y => if y.index = f.index then f else y }

def FuseGroup.dropFrame (x : FuseGroup) (k : Nat) : FuseGroup :=
  { x with open_ := x.open_.filter fun y => y.index != k }

/-- The PRESENT frame of a layer in the most recent fused frame before fused frame k. -/
def FuseGroup.held (x : FuseGroup) (layer k : Nat) : Option (Nat × Frame) :=
  ((x.lastPresent.filter fun p => p.1 == layer && p.2.1 < k).foldl
    (fun (best : Option (Nat × Nat × Frame)) p => match best with
      | none => some p
      | some b => if b.2.1 < p.2.1 then some p else best) none).map (·.2)

/-- What a layer of a fused frame becomes (R159, Table 5-4). -/
def State.decideLayer (s : State) (x : FuseGroup) (f : FusedFrame) (layer stream : Nat) : Decided :=
  match f.layers.find? fun l => l.layer == layer with
  | some l => ⟨layer, stream, 0, some l.frame, 0⟩
  | none =>
    if s.num (Reg.live.policy stream) = 1 then
      match x.held layer f.index with
      | some (k, fr) => ⟨layer, stream, 1, some fr, f.index - k⟩
      | none => ⟨layer, stream, 2, none, 0⟩
    else ⟨layer, stream, 2, none, 0⟩

/-- A layer's OUTCOME as a message or a layer entry carries it: VALID unless masked. -/
def Decided.toOutcome (d : Decided) : LayerOutcome :=
  match d.frame with
  | some f => ⟨d.layer, d.outcome, 1 + 4 * (f.stats.flags % 256), d.stream, f.number, f.stats.settingsGen, f.soe⟩
  | none => ⟨d.layer, d.outcome, 0, d.stream, 0, 0, 0⟩

/-- This device's STAND_ID as a group names it. -/
def State.groupPart (s : State) (g : Nat) : Nat := if s.flag (Reg.group.standSpan g) then s.standId else 0xFF

/-- The earliest SOE_TAI of every OUTCOME of a fused frame (R163). -/
def earliestSoe (exposure : Nat) (l : List LayerOutcome) : Nat :=
  (l.filter fun o => o.soe != 0).foldl (fun m o => min m o.soe) exposure

/-- A fused frame leaves the open ones for storage. -/
def State.storeFused (s : State) (g : Nat) (f : FusedFrame) (layers : List Decided) (aborted : Bool)
    (barrier ring grain : Nat) : State :=
  let x := s.group g
  let t := if s.num (Reg.group.mode g) = 1 ∧ s.flag (Reg.group.standSpan g) then
      earliestSoe f.exposure (layers.map Decided.toOutcome ++ f.outcomes.flatMap (·.2)) else f.exposure
  let s := s.putGroup { x.dropFrame f.index with past := x.past ++ [(f.index, f.exposure, f.layers.map (·.layer))] }
  s.toStore (.fused g { f with exposure := t } layers (s.groupPart g) aborted barrier ring grain)

/-- Releases the armed barrier: each fused frame that waited at it is stored with the release instant (R163). -/
def State.standRelease (s : State) : State :=
  match s.takeArmed with
  | none => s
  | some (n, work, s) =>
    let at_ := s.releaseInstant
    let s := s.emit (.release n at_.1 at_.2.1 at_.2.2)
    work.foldl (fun s w =>
      match (s.group w.group).frame? w.frame with
      | some f => match f.decided with
        | some d => s.storeFused w.group f d false n at_.1 at_.2.1
        | none => s
      | none => s) s

/-- The work of an aborted barrier completes with its status, and each fused frame's part is stored (R97, R163). -/
def State.standAborted (s : State) (n status : Nat) : State :=
  let r := s.takeAborted n
  r.1.foldl (fun s w =>
    let s := s.emit (.barrierStatus n status)
    match (s.group w.group).frame? w.frame with
    | some f => match f.decided with
      | some d => s.storeFused w.group f d true n 0 0
      | none => s
    | none => s) r.2

/-- Work arrives at the next barrier; a stand of one releases it at once (R95, Table 3-11). -/
def State.arriveWork (s : State) (g k : Nat) : State :=
  let n := s.stand.nextBarrier
  let x := s.group g
  let s := match x.frame? k with
    | some f => s.putGroup (x.putFrame { f with barrier := some n })
    | none => s
  let s := s.arriveNext g k
  if s.stand.members = [s.standId] then s.standRelease else s

/-- Acts on the lowest open fused frame once it is decided: stores it, or in a stand-spanning group sends its OUTCOME and
arrives at the next barrier when every member has acknowledged (R160, R163); `n` bounds the frames. -/
def State.flushGroup (s : State) (g : Nat) : Nat → State
  | 0 => s
  | n + 1 =>
    let x := s.group g
    match x.open_.find? fun f => f.barrier.isNone with
    | none => s
    | some f =>
      match f.decided with
      | none => s
      | some d =>
        if !s.flag (Reg.group.standSpan g) then
          State.flushGroup (s.storeFused g f d false 0xFFFFFFFF 0 0) g n
        else if f.acks.isEmpty then
          let s := s.putGroup (x.putFrame { f with acks := [s.standId] })
          let s := s.emit (.fuseOutcome g f.index (d.map Decided.toOutcome))
          if s.stand.members.all fun m => m == s.standId then State.flushGroup (s.arriveWork g f.index) g n else s
        else if s.stand.members.all f.acks.contains then State.flushGroup (s.arriveWork g f.index) g n
        else s

/-- A fused frame is dropped: its frames are stored alone (Table 5-4). -/
def State.dropFused (s : State) (g : Nat) (f : FusedFrame) : State :=
  let x := s.group g
  let s := s.putGroup { x.dropFrame f.index with past := x.past ++ [(f.index, f.exposure, f.layers.map (·.layer))] }
  let s := (s.bump (Reg.group.dropped g)).raise 0x4281 0xFF 0xFF (leBytes 1 g ++ leBytes 8 f.index)
  f.layers.foldl (fun s l => s.toStore (.frame l.frame)) s

/-- Decides fused frame k: at once where `force` says so, else once every layer is ready or past its bound (R159). -/
def State.tryDecide (s : State) (g k : Nat) (force : Bool) : State :=
  let x := s.group g
  match x.frame? k with
  | none => s
  | some f =>
    let ls := s.groupLayers g
    let ready := fun (l : Nat × Nat) => f.layers.any fun y => y.layer == l.1
    if f.decided.isSome ∨ !(force || ls.all fun l => ready l || s.boundPast g f.exposure l.2) then s
    else if ls.any fun l => !ready l && s.num (Reg.live.policy l.2) == 0 then (s.dropFused g f).flushGroup g 8
    else
      let d := ls.map fun l => s.decideLayer x f l.1 l.2
      let present := d.filterMap fun y => match y.outcome, y.frame with
        | 0, some fr => some (y.layer, f.index, fr)
        | _, _ => none
      let x := x.putFrame { f with decided := some d, decidedRing := s.rc.ring, decidedGrain := s.grain }
      let x := { x with lastPresent := present ++ x.lastPresent }
      let s := s.putGroup x
      let s := s.add (Reg.group.masked g) (d.filter fun y => y.outcome == 2).length
      let s := s.add (Reg.group.held g) (d.filter fun y => y.outcome == 1).length
      s.flushGroup g 8

/-- Opens fused frame k; a ninth first closes the oldest open one (R158). -/
def State.openFused (s : State) (g k exposure : Nat) : State :=
  let undecided := (s.group g).open_.filter fun f => f.decided.isNone
  let s := match undecided with
    | f :: _ => if 8 ≤ undecided.length then s.tryDecide g f.index true else s
    | [] => s
  let x := s.group g
  let early := (x.early.filter fun e => e.2.1 == k).map fun e => (e.1, e.2.2)
  let f : FusedFrame := ⟨k, exposure, [], none, 0, 0, [], early, none⟩
  s.putGroup { x with
    open_ := (x.open_.filter fun y => y.index < k) ++ [f] ++ x.open_.filter fun y => k < y.index
    early := x.early.filter fun e => e.2.1 != k
    nextIndex := max x.nextIndex (k + 1) }

/-- Whether `|a − b| ≤ t`. -/
def near (a b t : Nat) : Bool := a ≤ b + t && b ≤ a + t

/-- The distance of two instants. -/
def gap (a b : Nat) : Nat := (a - b) + (b - a)

/-- A frame joins fused frame k, or is a DUPLICATE or LATE and stored alone (R158, R160). -/
def State.joinFused (s : State) (g : Nat) (f : Frame) (k : Nat) : State :=
  let x := s.group g
  let layer := s.num (Reg.live.layer f.stream)
  match x.frame? k with
  | none => s.toStore (.frame f)
  | some ff =>
    if ff.layers.any fun l => l.layer == layer then s.toStore (.frame (f.mark 7))
    else if ff.decided.isSome ∨ s.boundPast g ff.exposure f.stream then
      (s.bump (Reg.group.late g)).toStore (.frame (f.mark 5))
    else (s.putGroup (x.putFrame { ff with layers := ff.layers ++ [⟨layer, f⟩] })).tryDecide g k false

/-- The open fused frame nearest to an instant within the tolerance; on a tie the lower index (R158). -/
def nearestFused (soe tol : Nat) : List FusedFrame → Option FusedFrame
  | [] => none
  | f :: l =>
    match nearestFused soe tol l with
    | none => if near soe f.exposure tol then some f else none
    | some b =>
      if near soe f.exposure tol ∧ gap soe f.exposure ≤ gap soe b.exposure then some f else some b

/-- The nearest of the instants of fused frames stored or dropped, within the tolerance; on a tie the lower index. -/
def nearestPast (soe tol : Nat) (l : List (Nat × Nat × List Nat)) : Option (Nat × Nat × List Nat) :=
  (l.filter fun q => near soe q.2.1 tol).foldl (fun best q => match best with
    | none => some q
    | some b => if gap soe q.2.1 < gap soe b.2.1 ∨ gap soe q.2.1 = gap soe b.2.1 ∧ q.1 < b.1 then some q else best) none

/-- A frame whose fused frame is stored or dropped: a DUPLICATE where its layer held a frame there, else LATE (R158, R160). -/
def State.afterFused (s : State) (g : Nat) (f : Frame) (layers : List Nat) : State :=
  if layers.contains (s.num (Reg.live.layer f.stream)) then s.toStore (.frame (f.mark 7))
  else (s.bump (Reg.group.late g)).toStore (.frame (f.mark 5))

/-- FUSE_ASSIGN (R158): a completed frame is assigned to a fused frame, or stored alone. -/
def State.fuseAssign (s : State) (f : Frame) : State :=
  let g := s.num (Reg.live.group f.stream)
  if 64 ≤ g ∨ !s.flag (Reg.group.enable g) ∨ f.stats.flags.testBit 4 then s.toStore (.frame f)
  else
    let tol := s.num (Reg.group.alignTolGrains g) * 10
    let x := s.group g
    if s.num (Reg.group.mode g) = 0 then
      let base := s.num (Reg.group.fuseBaseTai g)
      let p := s.num (Reg.group.fusePeriodNs g)
      if p = 0 ∨ f.soe + p / 2 < base then s.toStore (.frame (f.mark 6))
      else
        let k := (f.soe + p / 2 - base) / p
        let t := base + k * p
        if !near f.soe t tol then s.toStore (.frame (f.mark 6))
        else match x.past.find? fun q => q.1 == k with
          | some q => s.afterFused g f q.2.2
          | none =>
            if (x.frame? k).isSome then s.joinFused g f k
            else if s.boundPast g t f.stream then s.afterFused g f []
            else (s.openFused g k t).joinFused g f k
    else
      match nearestFused f.soe tol x.open_ with
      | some ff => s.joinFused g f ff.index
      | none =>
        match nearestPast f.soe tol x.past with
        | some q => s.afterFused g f q.2.2
        | none =>
        if (x.past.all fun q => q.2.1 + tol < f.soe) && x.open_.all fun q => q.exposure + tol < f.soe then
          (s.openFused g x.nextIndex f.soe).joinFused g f x.nextIndex
        else s.toStore (.frame (f.mark 6))

/-! ### Completion of a frame (R149 to R155) -/

/-- The expected generation of a frame (R155). -/
def LiveStream.expected (x : LiveStream) (soe : Nat) : Nat :=
  ((x.settings.filter fun g => g.effective ≤ soe / 10240).map (·.gen)).foldl max 0

/-- The payload of a LIVE_FRAME record (Table 2-23). -/
def Frame.journalPayload (f : Frame) (ref : Nat) : Bytes :=
  leBytes 2 f.stream ++ leBytes 4 f.number ++ leBytes 8 f.soe ++ leBytes 4 f.stats.settingsGen ++ leBytes 8 ref ++
    sha384 f.data

/-- A frame in assembly completes: its statistics, counts and journal record, and its place in fusion or storage. -/
def State.completeFrame (s : State) (i : Nat) (a : AsmFrame) : State :=
  let x := s.liveStream i
  let size := s.liveFrameBytes i
  let bits := s.num (Reg.live.bits i)
  let data := (List.range size).map fun o => Sparse.get (fun _ => 0) a.got o
  let missing := size - a.got.length
  let px := framePixels a.got data (s.num (Reg.live.width i)) (s.num (Reg.live.height i)) bits
    (s.num (Reg.live.packing i)) (s.liveRowBytes i)
  let expected := x.expected a.soe
  let known := match a.ended with
    | some g => if g = 0xFFFFFFFF then none else some g
    | none => none
  let suspect := a.lastRx + 1000000 < a.soe || a.soe + 1000000 * s.num Reg.intake.soeAgeMaxMs < a.lastRx
  let compress := s.num (Reg.live.storeFormat i) != 0
  let raw := compress && s.num Reg.intake.stageBytes < s.stagedBytes + size
  let uncertain := known.isNone
  let flags := uncertain.toNat + 2 * (known.any (· != expected)).toNat + 4 * (missing != 0).toNat + 8 * raw.toNat +
    16 * suspect.toNat
  let st := frameStats px bits (s.num (Reg.live.satLevel i)) flags (known.getD expected) missing
  let f : Frame := ⟨i, a.number, a.soe, data, bits, s.rc.ring, s.grain, st, a.staging⟩
  let lost := match x.highest with
    | none => 0
    | some h => (a.number - h - 1) - (x.slots.filter fun y => h < y.number && y.number < a.number).length
  let s := s.putLive { x with
    slots := x.slots.filter fun y => y.number != a.number
    done := (if 16 ≤ x.done.length then x.done.drop 1 else x.done) ++ [a.number]
    highest := some (max a.number (x.highest.getD 0)) }
  let s := ((s.bump (Reg.live.frames i)).bumpIf (missing != 0) (Reg.live.framesIncomplete i)).bumpIf uncertain
    (Reg.live.uncertain i)
  let s := (s.add (Reg.live.framesLost i) lost).bumpIf raw Reg.intake.storedRaw
  let s := s.journal 0x0010 i true (f.journalPayload s.intake.catalogue.length)
  s.fuseAssign f

/-- A frame that has all its bytes and its FRAME_END completes. -/
def State.tryComplete (s : State) (i number : Nat) : State :=
  match (s.liveStream i).slots.find? fun a => a.number == number with
  | none => s
  | some a => if a.ended.isSome && a.got.length == s.liveFrameBytes i then s.completeFrame i a else s

/-- The slot of a frame: its own, a free one with a staging buffer, or the oldest frame's once that has completed
(R148); none where no staging buffer is free. -/
def State.takeSlot (s : State) (p : IntakePacket) : State × Option AsmFrame :=
  let i := p.stream
  match (s.liveStream i).slots.find? fun a => a.number == p.frame with
  | some a => (s, some a)
  | none =>
    let s := match (s.liveStream i).slots with
      | a :: _ => if 4 ≤ (s.liveStream i).slots.length then s.completeFrame i a else s
      | [] => s
    match s.unitAlloc 0xA000 (some (s.num (Reg.live.context i))) 8 (max 1 (s.liveFrameBytes i)) with
    | none => (s, none)
    | some (h, s) => (s, some ⟨p.frame, p.soe, [], none, s.rc.ring, p.rxTai, h⟩)

/-- Bytes kept where none was received yet, from an offset on. -/
def keepNew : List (Nat × Byte) → Nat → Bytes → List (Nat × Byte)
  | got, _, [] => got
  | got, o, b :: l => keepNew (if got.any fun e => e.1 == o then got else Sparse.insert got o b) (o + 1) l

/-- The slot of a frame takes its new state. -/
def LiveStream.putSlot (x : LiveStream) (a : AsmFrame) : LiveStream :=
  { x with slots := if x.slots.any fun y => y.number == a.number then
      x.slots.map fun y => if y.number = a.number then a else y
    else x.slots ++ [a] }

/-- FRAME_DATA (R147 to R149). -/
def State.frameData (s : State) (p : IntakePacket) : State :=
  if s.replaying then s
  else if !s.intakeAccepts p || p.payload.isEmpty || 8192 < p.payload.length ||
      s.liveFrameBytes p.stream < p.offset + p.payload.length then s.dropPacket
  else if (s.liveStream p.stream).done.contains p.frame then s.dropPacket
  else
    let r := s.takeSlot p
    match r.2 with
    | none => r.1.dropPacket
    | some a =>
      let got := keepNew a.got p.offset p.payload
      if got.length = a.got.length then r.1.dropPacket
      else
        let s := r.1.bump Reg.intake.packets
        let a := { a with got := got, lastRing := s.rc.ring, lastRx := p.rxTai }
        (s.putLive ((s.liveStream p.stream).putSlot a)).tryComplete p.stream p.frame

def execFrameData (pkt : IntakePacket) (s : State) : Host.Outcome State Fault Refusal := live s fun s => s.frameData pkt

/-- FRAME_END (R149): it belongs to a frame in assembly; any other is dropped. -/
def State.frameEnd (s : State) (p : IntakePacket) : State :=
  if s.replaying then s
  else if !s.intakeAccepts p || !p.payload.isEmpty then s.dropPacket
  else match (s.liveStream p.stream).slots.find? fun a => a.number == p.frame with
    | none => s.dropPacket
    | some a =>
      if a.ended.isSome then s.dropPacket
      else
        let s := s.bump Reg.intake.packets
        let a := { a with ended := some p.generation, soe := p.soe, lastRing := s.rc.ring, lastRx := p.rxTai }
        (s.putLive ((s.liveStream p.stream).putSlot a)).tryComplete p.stream p.frame

def execFrameEnd (pkt : IntakePacket) (s : State) : Host.Outcome State Fault Refusal := live s fun s => s.frameEnd pkt

/-- FRAME_TIMEOUT: FRAME_TIMEOUT rings after its last accepted packet a frame completes (R149). -/
def execFrameTimeout (stream frame : Nat) (s : State) : Host.Outcome State Fault Refusal :=
  live s fun s =>
    match (s.liveStream stream).slots.find? fun a => a.number == frame with
    | none => s
    | some a => if a.lastRing + s.num Reg.intake.frameTimeout ≤ s.rc.ring then s.completeFrame stream a else s

/-! ### FRAME_STORE -/

/-- A raw frame (R152): the header of Table 4-8 and the rows. -/
def State.rawSample (s : State) (f : Frame) : Bytes :=
  let i := f.stream
  ascii "FLWRAWFR" ++ leBytes 4 (s.num (Reg.live.width i)) ++ leBytes 4 (s.num (Reg.live.height i)) ++
    leBytes 1 f.bits ++ leBytes 1 (s.num (Reg.live.packing i)) ++ leBytes 1 (s.num (Reg.live.cfa i)) ++ zeros 1 ++
    leBytes 2 0 ++ zeros 2 ++ leBytes 4 (s.liveRowBytes i) ++ zeros 4 ++ f.data

/-- Whether a frame is stored compressed. -/
def State.isCompressed (s : State) (f : Frame) : Bool :=
  s.num (Reg.live.storeFormat f.stream) != 0 && !f.stats.flags.testBit 3

/-- The frame stored for a decided layer: its own, the held one, or zeros at the layer's geometry. -/
def State.layerFrame (s : State) (d : Decided) : Frame :=
  d.frame.getD ⟨d.stream, 0, 0, zeros (s.liveFrameBytes d.stream), s.num (Reg.live.bits d.stream), 0, 0,
    ⟨0, 0, 0, 0, 0, 0, List.replicate 1024 0⟩, 0⟩

/-- The stored bytes of frames in order: raw, or the frame unit's output for each compressed one in turn (R132). -/
def State.storedBytes (s : State) : List Frame → List Bytes → List Bytes
  | [], _ => []
  | f :: l, enc =>
    if s.isCompressed f then enc.headD [] :: s.storedBytes l (enc.drop 1) else s.rawSample f :: s.storedBytes l enc

/-- A layer entry of a fused sample (Table 5-5). -/
def layerEntry (standId : Nat) (remote : Bool) (o : LayerOutcome) (holdAge offset length : Nat) : Bytes :=
  leBytes 1 o.layer ++ leBytes 1 o.outcome ++ leBytes 2 (o.flags + 2 * remote.toNat) ++ leBytes 2 o.stream ++
    leBytes 1 standId ++ zeros 1 ++ leBytes 4 o.frame ++ leBytes 4 o.settingsGen ++ leBytes 8 o.soe ++
    leBytes 4 holdAge ++ zeros 4 ++ leBytes 8 offset ++ leBytes 8 length

/-- The layers that other members hold, or are lost to, of a fused frame (R163). -/
def State.remoteLayers (s : State) (g : Nat) (f : FusedFrame) (aborted : Bool) : List (Nat × LayerOutcome) :=
  let x := s.group g
  f.outcomes.flatMap (fun p => p.2.map fun o => (p.1, o)) ++
    (if aborted then
      (x.known.filter fun p => p.1 != s.standId && !f.outcomes.any fun q => q.1 == p.1).flatMap fun p =>
        p.2.map fun l => (p.1, (⟨l, 3, 0, 0, 0, 0, 0⟩ : LayerOutcome))
    else [])

/-- The local parts of a fused sample laid one after another from an offset: offset, length, bytes. -/
def layParts : Nat → List Bytes → List (Nat × Nat × Bytes)
  | _, [] => []
  | o, b :: l => (o, b.length, b) :: layParts (o + b.length) l

/-- The bytes of a fused sample (Table 5-5): entries ascending by STAND_ID, then LAYER. -/
def State.fusedSample (s : State) (g : Nat) (f : FusedFrame) (ls : List Decided) (part : Nat) (aborted : Bool)
    (barrier ring grain : Nat) (enc : List Bytes) : Bytes :=
  let frames := ls.map s.layerFrame
  let stored := s.storedBytes frames enc
  let remote := s.remoteLayers g f aborted
  let n := ls.length + remote.length
  let parts := layParts (64 + 48 * n) ((frames.zip stored).map fun p => p.1.block ++ p.2)
  let local_ := (ls.zip parts).map fun p => (part, layerEntry part false p.1.toOutcome p.1.holdAge p.2.1 p.2.2.1)
  let far := remote.map fun p => (p.1, layerEntry p.1 (p.2.outcome != 3) p.2 0 0 0)
  let before := far.filter fun p => p.1 < part
  let after := far.filter fun p => part ≤ p.1
  let entries := (before.map (·.2)) ++ (local_.map (·.2)) ++ after.map (·.2)
  ascii "FLWFUSED" ++ leBytes 1 g ++ zeros 1 ++ leBytes 1 part ++ leBytes 1 aborted.toNat ++ leBytes 2 n ++ zeros 2 ++
    leBytes 8 f.index ++ leBytes 8 f.exposure ++ leBytes 8 f.decidedRing ++ leBytes 2 f.decidedGrain ++ zeros 2 ++
    leBytes 4 barrier ++ leBytes 8 ring ++ leBytes 2 grain ++ zeros 6 ++ entries.flatten ++
    parts.flatMap fun p => p.2.2

/-- A sample enters the intake catalogue. -/
def State.catalogue (s : State) (e : CatEntry) : State :=
  { s with intake := { s.intake with catalogue := s.intake.catalogue ++ [e] } }

/-- A staging buffer is given back. -/
def State.freeStaging (s : State) (f : Frame) : State := if f.staging = 0 then s else s.unitFree f.staging

/-- FRAME_STORE (R152): the first frame waiting is stored and entered in the catalogue; `encoded` holds the frame unit's
output for each compressed frame. -/
def execFrameStore (encoded : List Bytes) (s : State) : Host.Outcome State Fault Refusal :=
  live s fun s =>
    match s.intake.toStore with
    | [] => s
    | .frame f :: l =>
      let s := { s with intake := { s.intake with toStore := l } }
      let comp := s.isCompressed f
      let data := if comp then encoded.headD [] else s.rawSample f
      (s.catalogue ⟨if comp then 6 else 7, data, f.block, 3, f.stream, none, sha384 data⟩).freeStaging f
    | .fused g f ls part aborted barrier ring grain :: l =>
      let s := { s with intake := { s.intake with toStore := l } }
      let data := s.fusedSample g f ls part aborted barrier ring grain encoded
      let s := (s.catalogue ⟨0x000B, data, [], 3, g, none, sha384 data⟩).bump (Reg.group.fused g)
      (ls.filter fun d => d.outcome == 0).foldl (fun s d => s.freeStaging (s.layerFrame d)) s

/-! ### Exposure settings (R153, R154) -/

/-- The code with which a SETTINGS_WRITE is refused. -/
def State.settingsRefusal (s : State) (i : Nat) (v : Bytes) : Option Nat :=
  let x := s.liveStream i
  let gen := leAt v 0 4
  let eff := leAt v 4 8
  let last := s.num (Reg.live.settingsGen i)
  let lastEff := (x.settings.map (·.effective)).getLastD 0
  if v.length < 12 then some 0x1112
  else if gen ≤ last ∨ eff < lastEff then some 0x4211
  else if eff < s.rc.ring + s.num Reg.intake.settingsLead then some 0x4210
  else if 4 ≤ (x.settings.filter fun g => s.rc.ring < g.effective).length then some 0x4201
  else none

/-- SETTINGS_WRITE's effect: the generation is accepted and sent. -/
def State.settingsApply (s : State) (i : Nat) (v : Bytes) : Except Nat State :=
  match s.settingsRefusal i v with
  | some c => .error c
  | none =>
    let x := s.liveStream i
    let gen := leAt v 0 4
    let eff := leAt v 4 8
    let send := !s.replaying
    let s := s.putLive { x with settings := x.settings ++ [⟨gen, eff, v.drop 12, send.toNat, false, false⟩] }
    let s := (s.setN (Reg.live.settingsGen i) gen).touch (Reg.live.settingsWrite i)
    .ok (if send then s.emit (.settings i gen eff (v.drop 12)) else s)

def execSettingsWrite (via : Via) (stream : Nat) (value : Bytes) (s : State) : Host.Outcome State Fault Refusal :=
  act s fun s => s.writeVia via (0x4300 + stream) 0x11 value fun _ s => s.settingsApply stream value

/-- SETTINGS_ACK: stops the resending of its generation and of every lower one (R154). -/
def execSettingsAck (pkt : IntakePacket) (s : State) : Host.Outcome State Fault Refusal :=
  live s fun s =>
    if s.replaying then s
    else if !s.intakeAccepts pkt || !pkt.payload.isEmpty then s.dropPacket
    else
      let x := s.liveStream pkt.stream
      (s.bump Reg.intake.packets).putLive { x with
        settings := x.settings.map fun g => if g.gen ≤ pkt.generation then { g with acked := true } else g }

/-- SETTINGS_UNACKED: the effective ring count is reached without acknowledgement (R154). -/
def execSettingsUnacked (stream generation : Nat) (s : State) : Host.Outcome State Fault Refusal :=
  live s fun s =>
    let x := s.liveStream stream
    match x.settings.find? fun g => g.gen == generation && !g.acked && !g.reported && g.effective ≤ s.rc.ring with
    | none => s
    | some g =>
      let s := s.putLive { x with
        settings := x.settings.map fun h => if h.gen = g.gen then { h with reported := true } else h }
      s.raise 0x4280 0xFF (s.num (Reg.live.context stream)) (leBytes 2 stream ++ leBytes 4 generation)

/-- At each ring, every generation still to be acknowledged is sent again (R154). -/
def State.settingsResend (s : State) : State :=
  if s.replaying then s
  else s.intake.streams.foldl (fun s x =>
    x.settings.foldl (fun s g =>
      if !g.acked && g.sends < 16 && s.rc.ring < g.effective then
        let y := s.liveStream x.stream
        (s.putLive { y with settings := y.settings.map fun h =>
          if h.gen = g.gen then { h with sends := h.sends + 1 } else h }).emit (.settings x.stream g.gen g.effective g.bytes)
      else s) s) s

/-! ### FUSE_DECIDE and FUSE_OUTCOME -/

def execFuseDecide (group index : Nat) (s : State) : Host.Outcome State Fault Refusal :=
  live s fun s => s.tryDecide group index false

/-- Members' OUTCOMEs and acknowledgements of a stand-spanning fused frame (R163). -/
def State.fuseOutcome (s : State) (m g k : Nat) (isAck : Bool) (ls : List LayerOutcome) : State :=
  let x := s.group g
  if isAck then
    match x.frame? k with
    | none => s
    | some f =>
      if f.acks.isEmpty ∨ f.acks.contains m then s
      else (s.putGroup (x.putFrame { f with acks := f.acks ++ [m] })).flushGroup g 8
  else
    let x0 : FuseGroup := { x with
      known := (x.known.filter fun (p : Nat × List Nat) => p.1 != m) ++ [(m, ls.map fun (o : LayerOutcome) => o.layer)] }
    let x1 : FuseGroup := match x0.frame? k with
      | some f => x0.putFrame { f with
          outcomes := (f.outcomes.filter fun (p : Nat × List LayerOutcome) => p.1 != m) ++ [(m, ls)] }
      | none => { x0 with
          early := (x0.early.filter fun (e : Nat × Nat × List LayerOutcome) => !(e.1 == m && e.2.1 == k)) ++ [(m, k, ls)] }
    (s.putGroup x1).emit (.fuseOutcomeAck m g k)

def execFuseOutcome (standId group index : Nat) (isAck : Bool) (layers : List LayerOutcome) (s : State) :
    Host.Outcome State Fault Refusal := live s fun s => s.fuseOutcome standId group index isAck layers

/-! ### Enabling streams and groups (R158, R163, R164) -/

/-- A write of a stream's ENABLE: refused where GROUP and LAYER duplicate an enabled stream's; clearing it completes the
frames in assembly. -/
def State.liveEnable (s : State) (i v : Nat) : Except Nat State :=
  let g := s.num (Reg.live.group i)
  let dup := (List.range 256).any fun j =>
    j != i && s.flag (Reg.live.enable j) && s.num (Reg.live.group j) == g &&
      s.num (Reg.live.layer j) == s.num (Reg.live.layer i)
  if v ≠ 0 ∧ g ≠ 0xFF ∧ dup then .error 0x4202
  else
    let s := if v = 0 then (s.liveStream i).slots.foldl (fun s a => s.completeFrame i a) s else s
    .ok (s.storeN (Reg.live.enable i) v)

/-- The largest WAIT_RINGS of a group's streams on this device. -/
def State.maxWait (s : State) (g : Nat) : Nat :=
  (((List.range 256).filter fun i => s.num (Reg.live.group i) == g).map fun i => s.num (Reg.live.waitRings i)).foldl max 0

/-- Why a group cannot be enabled (R158, R163). -/
def State.groupRefusal (s : State) (g : Nat) : Option Nat :=
  let p := s.num (Reg.group.fusePeriodNs g)
  let span := s.flag (Reg.group.standSpan g)
  if s.num (Reg.group.mode g) = 0 ∧ (p = 0 ∨ p ≤ 2 * (s.num (Reg.group.alignTolGrains g) * 10)) then some 0x4212
  else if span ∧ !s.inStand then some 0x4213
  else if span ∧ s.num Reg.stand.barrierTimeout ≤ s.num (Reg.group.readyRings g) + s.maxWait g + 1 then some 0x4212
  else if span ∧ (List.range 64).any (fun h => h != g && s.flag (Reg.group.enable h) && s.flag (Reg.group.standSpan h)) then
    some 0x4201
  else none

/-- A write of a group's ENABLE; clearing it decides every open fused frame as if its bounds had passed. -/
def State.groupEnable (s : State) (g v : Nat) : Except Nat State :=
  if v ≠ 0 then
    match s.groupRefusal g with
    | some c => .error c
    | none => .ok (s.storeN (Reg.group.enable g) v)
  else
    let s := (s.group g).open_.foldl (fun s f => s.tryDecide g f.index true) s
    .ok (s.storeN (Reg.group.enable g) v)

/-- A write of BARRIER_TIMEOUT below the bound of an enabled stand-spanning group is refused (R163). -/
def State.barrierTimeoutBusy (s : State) (v : Nat) : Bool :=
  (List.range 64).any fun g => s.flag (Reg.group.enable g) && s.flag (Reg.group.standSpan g) &&
    v ≤ s.num (Reg.group.readyRings g) + s.maxWait g + 1

end Sys2Proof.Machine
end

