-- ==== Sys2Proof/Machine/TokenMath.lean ====
section
/-! DEFINITION. The token units' algorithms: UTF-8 and its maximal subparts (R173), vocabulary images (R169, R170),
pre-tokenization (R174), the MERGE and LONGEST models (R175, R176), detokenization with stop matching (R180, R181), and
the grammar validator's built-in JSON (R187, R188). Unicode's property tables and NFC enter as opaque functions of
Config; code points below U+0080 are classified here. -/
namespace Sys2Proof.Machine

/-! ### UTF-8 -/

/-- Whether byte `i` of `bs` lies from `lo` to `hi`. -/
def byteIn (bs : Bytes) (i lo hi : Nat) : Bool :=
  match bs[i]? with
  | none => false
  | some b => lo ≤ b.toNat && b.toNat ≤ hi

/-- The first code point of a byte string, or none for a maximal subpart of an ill-formed sequence, and the bytes that
it takes (Unicode 15.1.0 chapter 3). -/
def utf8Step (bs : Bytes) : Option Nat × Nat :=
  let a := (bs.headD 0).toNat
  let at_ := fun i => (bs.getD i 0).toNat % 64
  if a < 0x80 then (some a, 1)
  else if 0xC2 ≤ a ∧ a ≤ 0xDF then
    if byteIn bs 1 0x80 0xBF then (some (a % 32 * 64 + at_ 1), 2) else (none, 1)
  else if 0xE0 ≤ a ∧ a ≤ 0xEF then
    if !byteIn bs 1 (if a = 0xE0 then 0xA0 else 0x80) (if a = 0xED then 0x9F else 0xBF) then (none, 1)
    else if !byteIn bs 2 0x80 0xBF then (none, 2)
    else (some (a % 16 * 4096 + at_ 1 * 64 + at_ 2), 3)
  else if 0xF0 ≤ a ∧ a ≤ 0xF4 then
    if !byteIn bs 1 (if a = 0xF0 then 0x90 else 0x80) (if a = 0xF4 then 0x8F else 0xBF) then (none, 1)
    else if !byteIn bs 2 0x80 0xBF then (none, 2)
    else if !byteIn bs 3 0x80 0xBF then (none, 3)
    else (some (a % 8 * 262144 + at_ 1 * 4096 + at_ 2 * 64 + at_ 3), 4)
  else (none, 1)

/-- A code point's UTF-8 bytes. -/
def utf8Encode (c : Nat) : Bytes :=
  if c < 0x80 then [BitVec.ofNat 8 c]
  else if c < 0x800 then [BitVec.ofNat 8 (0xC0 + c / 64), BitVec.ofNat 8 (0x80 + c % 64)]
  else if c < 0x10000 then
    [BitVec.ofNat 8 (0xE0 + c / 4096), BitVec.ofNat 8 (0x80 + c / 64 % 64), BitVec.ofNat 8 (0x80 + c % 64)]
  else
    [BitVec.ofNat 8 (0xF0 + c / 262144), BitVec.ofNat 8 (0x80 + c / 4096 % 64), BitVec.ofNat 8 (0x80 + c / 64 % 64),
     BitVec.ofNat 8 (0x80 + c % 64)]

/-- What a validation of UTF-8 found: the code points (a byte kept under BYTES is 0x110000 plus its value), the maximal
subparts met, and the offsets of the first and last one. -/
structure Utf8Scan where
  cps : List Nat
  bad : Nat
  firstBad : Nat
  lastBad : Nat
deriving DecidableEq, Repr

/-- Validation under UTF8_POLICY REPLACE (0) or BYTES (1) (R173); `n` bounds the code points. -/
def utf8Scan (policy : Nat) : Nat → Bytes → Nat → Utf8Scan → Utf8Scan
  | 0, _, _, r => r
  | _ + 1, [], _, r => r
  | n + 1, b :: bs, off, r =>
    let x := utf8Step (b :: bs)
    match x.1 with
    | some c => utf8Scan policy n ((b :: bs).drop x.2) (off + x.2) { r with cps := r.cps ++ [c] }
    | none =>
      let put := if policy = 1 then ((b :: bs).take x.2).map fun y => 0x110000 + y.toNat else [0xFFFD]
      utf8Scan policy n ((b :: bs).drop x.2) (off + x.2)
        ⟨r.cps ++ put, r.bad + 1, if r.bad = 0 then off else r.firstBad, off⟩

/-- The bytes of a code point or kept byte. -/
def cpBytes (c : Nat) : Bytes := if 0x110000 ≤ c then [BitVec.ofNat 8 (c - 0x110000)] else utf8Encode c

/-- NFC: text of ASCII alone is its own normal form. -/
def nfc (cps : List Nat) : List Nat := if cps.all (· < 0x80) then cps else Config.nfc cps

/-- Classes of code points (R174): 0 LETTER, 1 DIGIT, 2 NEWLINE, 3 SPACE, 4 OTHER. -/
def cpClass (c : Nat) : Nat :=
  if c = 0x0A ∨ c = 0x0D then 2
  else if 0x110000 ≤ c then 4
  else if c < 0x80 then
    if (0x41 ≤ c ∧ c ≤ 0x5A) ∨ (0x61 ≤ c ∧ c ≤ 0x7A) then 0
    else if 0x30 ≤ c ∧ c ≤ 0x39 then 1
    else if c = 0x20 ∨ (9 ≤ c ∧ c ≤ 0x0C) then 3
    else 4
  else Config.codeClass c

/-! ### Vocabulary images (Table 6-3) -/

def Vocab.model (v : Bytes) : Nat := leAt v 0x0A 1
def Vocab.normalize (v : Bytes) : Nat := leAt v 0x0B 1
def Vocab.tokens (v : Bytes) : Nat := leAt v 0x0C 4
def Vocab.merges (v : Bytes) : Nat := leAt v 0x10 4
def Vocab.hashLog2 (v : Bytes) : Nat := leAt v 0x14 1
def Vocab.pretok (v : Bytes) : Nat := leAt v 0x15 1
def Vocab.digitGroup (v : Bytes) : Nat := leAt v 0x16 1
def Vocab.spacePrefix (v : Bytes) : Bool := leAt v 0x17 1 == 1
def Vocab.pieceMax (v : Bytes) : Nat := leAt v 0x18 2
def Vocab.specials (v : Bytes) : Nat := leAt v 0x1A 2
def Vocab.nodes (v : Bytes) : Nat := leAt v 0x1C 4
def Vocab.unk (v : Bytes) : Nat := leAt v 0x20 4
def Vocab.stringBytes (v : Bytes) : Nat := leAt v 0x24 4

/-- Hash buckets: none in a LONGEST vocabulary. -/
def Vocab.buckets (v : Bytes) : Nat := if Vocab.model v = 1 then 2 ^ Vocab.hashLog2 v else 0

/-- The size an image must have (R170). -/
def Vocab.size (v : Bytes) : Nat :=
  256 + (if Vocab.model v = 1 then 1024 else 0) + 8 * Vocab.buckets v + 4 * Vocab.merges v + 4 * (Vocab.tokens v + 1) +
    Vocab.stringBytes v + 64 * Vocab.specials v + 16 * Vocab.nodes v

/-- The string of a token identifier. -/
def Vocab.string (v : Bytes) (id : Nat) : Bytes :=
  let base := leAt v 0x34 4
  let a := leAt v (base + 4 * id) 4
  let b := leAt v (base + 4 * id + 4) 4
  bytesAt v (base + 4 * (Vocab.tokens v + 1) + a) (b - a)

/-- A special entry: identifier, MATCH_IN_TEXT, string. -/
def Vocab.special (v : Bytes) (i : Nat) : Nat × Bool × Bytes :=
  let o := leAt v 0x38 4 + 64 * i
  (leAt v o 4, (leAt v (o + 5) 1).testBit 0, bytesAt v (o + 8) (leAt v (o + 4) 1))

/-- Whether an identifier is one of the special tokens. -/
def Vocab.isSpecial (v : Bytes) (id : Nat) : Bool := (List.range (Vocab.specials v)).any fun i => (Vocab.special v i).1 == id

/-- The identifier of a single byte. -/
def Vocab.byteId (v : Bytes) (b : Byte) : Nat := leAt v (leAt v 0x28 4 + 4 * b.toNat) 4

/-- The result identifier of a merge rank. -/
def Vocab.rankResult (v : Bytes) (r : Nat) : Nat := leAt v (leAt v 0x30 4 + 4 * r) 4

/-- Probes the hash table from bucket `h` upward modulo B (R175); `n` bounds the probes. -/
def Vocab.probe (v : Bytes) (left right : Nat) : Nat → Nat → Option Nat
  | 0, _ => none
  | n + 1, h =>
    let e := leAt v (leAt v 0x2C 4 + 8 * h) 8
    if !e.testBit 63 then none
    else if e % 2 ^ 18 = left ∧ e / 2 ^ 18 % 2 ^ 18 = right then some (e / 2 ^ 36 % 2 ^ 18)
    else Vocab.probe v left right n ((h + 1) % Vocab.buckets v)

/-- rank_of (R175). -/
def Vocab.rankOf (v : Bytes) (left right : Nat) : Option Nat :=
  let h := (left * 0x9E3779B1 % 2 ^ 32) ^^^ (right * 0x85EBCA77 % 2 ^ 32)
  Vocab.probe v left right (Vocab.buckets v) (h / 2 ^ (32 - Vocab.hashLog2 v))

/-- The best-ranked pair: its rank and place; the leftmost of equals. -/
def bestPair (v : Bytes) : List Nat → Nat → Option (Nat × Nat)
  | a :: b :: l, i =>
    match Vocab.rankOf v a b, bestPair v (b :: l) (i + 1) with
    | some r, some (q, j) => if q < r then some (q, j) else some (r, i)
    | some r, none => some (r, i)
    | none, x => x
  | _, _ => none

/-- merge_piece (R175); `n` bounds the merges. -/
def mergePiece (v : Bytes) : Nat → List Nat → List Nat
  | 0, ids => ids
  | n + 1, ids =>
    match bestPair v ids 0 with
    | none => ids
    | some (r, i) => mergePiece v n (ids.take i ++ [Vocab.rankResult v r] ++ ids.drop (i + 2))

/-- A trie node: first child, next sibling, token, byte. -/
def Vocab.node (v : Bytes) (i : Nat) : Nat × Nat × Nat × Nat :=
  let o := leAt v 0x3C 4 + 16 * i
  (leAt v o 4, leAt v (o + 4) 4, leAt v (o + 8) 4, leAt v (o + 12) 1)

/-- The node for a byte among siblings from node `i`; `n` bounds the siblings. -/
def Vocab.sibling (v : Bytes) (b : Nat) : Nat → Nat → Option Nat
  | 0, _ => none
  | n + 1, i =>
    if i = 0 then none
    else
      let x := Vocab.node v i
      if x.2.2.2 = b then some i else Vocab.sibling v b n x.2.1

/-- The longest token that begins a byte string: its identifier and length (R176). -/
def Vocab.longest (v : Bytes) : Bytes → Nat → Nat → Option (Nat × Nat) → Option (Nat × Nat)
  | [], _, _, best => best
  | b :: l, node, depth, best =>
    match Vocab.sibling v b.toNat 256 (Vocab.node v node).1 with
    | none => best
    | some i =>
      let t := (Vocab.node v i).2.2.1
      Vocab.longest v l i (depth + 1) (if t = 0xFFFFFFFF then best else some (t, depth + 1))

/-- LONGEST over a piece: each byte with whether a code point begins at it (R176); `n` bounds the tokens. Each token comes
with its byte offset in the piece and whether it is an UNK_ID emitted for unmatched text. -/
def longestPiece (v : Bytes) : Nat → Nat → List (Byte × Bool) → List (Nat × Nat × Bool)
  | 0, _, _ => []
  | _ + 1, _, [] => []
  | n + 1, off, p =>
    match Vocab.longest v (p.map (·.1)) 0 0 none with
    | some (t, len) => (t, off, false) :: longestPiece v n (off + max 1 len) (p.drop (max 1 len))
    | none =>
      let r := (p.drop 1).dropWhile fun x => !x.2
      (Vocab.unk v, off, true) :: longestPiece v n (off + (p.length - r.length)) r

/-- Whether every entry of a range satisfies a test. -/
def allBelow (n : Nat) (p : Nat → Bool) : Bool := (List.range n).all p

/-- The checks of Tables 6-3 and 6-4 (R170, R171). -/
def Vocab.valid (v : Bytes) : Bool :=
  let t := Vocab.tokens v
  let merge := Vocab.model v == 1
  let base := leAt v 0x34 4
  bytesAt v 0 8 == ascii "FLWVOCAB" && leAt v 8 2 == 1 && (merge || Vocab.model v == 2) && Vocab.normalize v ≤ 1 &&
  256 ≤ t && t ≤ 262144 && Vocab.pretok v ≤ 1 && Vocab.digitGroup v ≤ 3 && leAt v 0x17 1 ≤ 1 &&
  16 ≤ Vocab.pieceMax v && Vocab.pieceMax v ≤ 4096 && Vocab.specials v ≤ 256 && allZero (bytesAt v 0x40 192) &&
  (if merge then
    10 ≤ Vocab.hashLog2 v && Vocab.hashLog2 v ≤ 18 && Vocab.merges v ≤ 3 * Vocab.buckets v / 4 &&
      Vocab.merges v ≤ 196608 && Vocab.nodes v == 0 &&
      allBelow 256 (fun b => Vocab.byteId v (BitVec.ofNat 8 b) < t) &&
      allBelow (Vocab.merges v) (fun r => Vocab.rankResult v r < t)
   else
    Vocab.hashLog2 v == 0 && Vocab.merges v == 0 &&
      (Vocab.unk v < t || allBelow 256 fun b => (Vocab.longest v [BitVec.ofNat 8 b] 0 0 none).isSome)) &&
  Vocab.size v ≤ 4194304 && v.length == Vocab.size v &&
  allBelow t (fun i =>
    let a := leAt v (base + 4 * i) 4
    let b := leAt v (base + 4 * i + 4) 4
    a < b && b ≤ a + 256 && b ≤ Vocab.stringBytes v) &&
  allBelow (Vocab.specials v) (fun i =>
    let x := Vocab.special v i
    1 ≤ x.2.2.length && x.2.2.length ≤ 56 && x.1 < t)

/-- VOCAB_TAG: bytes [7:0] of the digest, little-endian. -/
def vocabTag (digest : Bytes) : Nat := leNat (digest.take 8)

/-! ### Pre-tokenization (R174) -/

/-- The longest MATCH_IN_TEXT special whose bytes begin a text: identifier and code points. -/
def specialAt (v : Bytes) (cps : List Nat) : Option (Nat × Nat) :=
  let text := (cps.take 56).flatMap cpBytes
  let hits := ((List.range (Vocab.specials v)).map (Vocab.special v)).filter fun x =>
    x.2.1 && text.take x.2.2.length == x.2.2
  let best := hits.foldl (fun (b : Option (Nat × Bytes)) x => match b with
    | none => some (x.1, x.2.2)
    | some y => if y.2.length < x.2.2.length then some (x.1, x.2.2) else some y) none
  best.map fun x => (x.1, (utf8Scan 1 56 x.2 0 ⟨[], 0, 0, 0⟩).cps.length)

/-- What pre-tokenization emits. -/
inductive TextItem where
  | special (id : Nat)
  | piece (cps : List Nat)
deriving DecidableEq, Repr

/-- leads: a single space that leads the run after it. -/
def leadsRun (v : Bytes) (cps : List Nat) : Bool :=
  match cps with
  | 0x20 :: c :: _ => Vocab.spacePrefix v && (cpClass c == 0 || cpClass c == 4)
  | _ => false

/-- How many more code points join a piece of class `k`: `taken` of the class so far, `bytes` in the piece. -/
def pieceRun (v : Bytes) (k : Nat) : List Nat → Nat → Nat → Nat
  | [], _, _ => 0
  | c :: l, taken, bytes =>
    let b := bytes + (cpBytes c).length
    if cpClass c == k && (specialAt v (c :: l)).isNone && !(k == 3 && leadsRun v (c :: l)) &&
        (k != 1 || Vocab.digitGroup v == 0 || taken < Vocab.digitGroup v) && b ≤ Vocab.pieceMax v then
      pieceRun v k l (taken + 1) b + 1
    else 0

/-- pretokenize; `n` bounds the pieces. -/
def pretokenize (v : Bytes) : Nat → List Nat → List TextItem
  | 0, _ => []
  | _ + 1, [] => []
  | n + 1, cps =>
    match specialAt v cps with
    | some (id, k) => .special id :: pretokenize v n (cps.drop (max 1 k))
    | none =>
      let lead := if leadsRun v cps then 1 else 0
      let first := lead + 1
      let bytes := ((cps.take first).flatMap cpBytes).length
      let more := pieceRun v (cpClass (cps.getD lead 0)) (cps.drop first) 1 bytes
      .piece (cps.take (first + more)) :: pretokenize v n (cps.drop (first + more))

/-- The code points that fit in `max` bytes, at least one. -/
def fitCps (max : Nat) : List Nat → Nat → Nat
  | [], _ => 0
  | c :: l, used =>
    let u := used + (cpBytes c).length
    if used = 0 ∨ u ≤ max then fitCps max l u + 1 else 0

/-- PRETOKENIZE NONE: the text between specials, cut every PIECE_MAX bytes at code point boundaries; `n` bounds the
pieces. -/
def pretokenizeNone (v : Bytes) : Nat → List Nat → List TextItem
  | 0, _ => []
  | _ + 1, [] => []
  | n + 1, cps =>
    match specialAt v cps with
    | some (id, k) => .special id :: pretokenizeNone v n (cps.drop (max 1 k))
    | none =>
      let stop := (List.range cps.length).find? fun i => 0 < i && (specialAt v (cps.drop i)).isSome
      let run := cps.take (stop.getD cps.length)
      let k := fitCps (Vocab.pieceMax v) run 0
      .piece (run.take k) :: pretokenizeNone v n (cps.drop (max 1 k))

/-- The bytes of an item in the text, a special's being its own string. -/
def itemBytes (v : Bytes) : TextItem → Nat
  | .special id =>
    (((List.range (Vocab.specials v)).map fun i => (Vocab.special v i)).find? fun x => x.1 == id).map
      (fun x => x.2.2.length) |>.getD 0
  | .piece cps => (cps.flatMap cpBytes).length

/-- The tokens of one item, each with its byte offset in the item and whether it stands for unmatched text. -/
def itemTokens (v : Bytes) : TextItem → List (Nat × Nat × Bool)
  | .special id => [(id, 0, false)]
  | .piece cps =>
    if Vocab.model v = 1 then
      let ids := (cps.flatMap cpBytes).map (Vocab.byteId v)
      (mergePiece v ids.length ids).map fun i => (i, 0, false)
    else
      let bs := cps.flatMap fun c => ((cpBytes c).zip (List.range 4)).map fun p => (p.1, p.2 == 0)
      longestPiece v (bs.length + 1) 0 bs

/-- The tokens of a text's items, with byte offsets counted from `off`. -/
def textTokens (v : Bytes) : Nat → List TextItem → List (Nat × Nat × Bool)
  | _, [] => []
  | off, x :: l => (itemTokens v x).map (fun t => (t.1, off + t.2.1, t.2.2)) ++ textTokens v (off + itemBytes v x) l

/-- What TOKENIZE makes of a document: the tokens, each with the byte offset in the text as tokenized, and whether it is
an UNK_ID for unmatched text. -/
structure TokenText where
  toks : List (Nat × Nat × Bool)
  bomStripped : Bool
  scan : Utf8Scan
deriving DecidableEq, Repr

/-- TOKENIZE (R172): the tokens of the model and the specials of a document. -/
def tokenizeText (v doc : Bytes) (stripBom : Bool) (policy : Nat) : TokenText :=
  let bom := stripBom && doc.take 3 == [0xEF, 0xBB, 0xBF]
  let text := if bom then doc.drop 3 else doc
  let start := if bom then 3 else 0
  let scan := utf8Scan policy (text.length + 1) text start ⟨[], 0, 0, 0⟩
  let cps := if Vocab.normalize v = 1 then nfc scan.cps else scan.cps
  let items := if Vocab.pretok v = 1 then pretokenize v (cps.length + 1) cps else pretokenizeNone v (cps.length + 1) cps
  ⟨textTokens v start items, bom, scan⟩

/-- Positions of the UNK_ID emitted: token index and byte offset. -/
def TokenText.unks (t : TokenText) : List (Nat × Nat) :=
  ((t.toks.zip (List.range t.toks.length)).filter fun p => p.1.2.2).map fun p => (p.2, p.1.2.1)

/-! ### Detokenization and stops (R180, R181) -/

/-- A stop set (Table 6-10). -/
structure StopSet where
  strings : List Bytes
  ids : List Nat
deriving DecidableEq, Repr

/-- STOP_STRINGS' entries; `n` bounds their number. -/
def parseStops : Nat → Bytes → List Bytes
  | 0, _ => []
  | _ + 1, [] => []
  | n + 1, b :: l => l.take b.toNat :: parseStops n (l.drop b.toNat)

/-- STOP_IDS' entries. -/
def parseIds (n : Nat) (b : Bytes) : List Nat := (List.range (min n (b.length / 4))).map fun i => leAt b (4 * i) 4

/-- Detokenization in progress: the output with the token that each byte comes from, where stop matching may begin, the
tokens consumed, what was replaced and where first and last, and the stop met (offset, token, index, end). -/
structure Detok where
  out : Bytes
  owner : List Nat
  base : Nat
  consumed : Nat
  replaced : Nat
  firstUnknown : Option Nat
  lastUnknown : Nat
  stop : Option (Nat × Nat × Nat × Nat)
deriving DecidableEq, Repr

/-- The longest stop string that ends an output, beginning no earlier than `base`: its number and length. -/
def stopAt (ss : List Bytes) (out : Bytes) (base : Nat) : Option (Nat × Nat) :=
  (ss.zip (List.range ss.length)).foldl (fun (best : Option (Nat × Nat)) p =>
    let n := p.1.length
    let better := match best with
      | none => true
      | some b => b.2 < n
    if 0 < n && base + n ≤ out.length && out.drop (out.length - n) == p.1 && better then some (p.2, n) else best) none

/-- Adds a token's bytes one at a time until a stop string ends. -/
def addBytes (ss : StopSet) (tok : Nat) : Bytes → Detok → Detok
  | [], d => d
  | b :: l, d =>
    let d := { d with out := d.out ++ [b], owner := d.owner ++ [tok] }
    match stopAt ss.strings d.out d.base with
    | some (i, n) =>
      let at_ := d.out.length - n
      { d with stop := some (at_, d.owner.getD at_ tok, i, d.out.length) }
    | none => addBytes ss tok l d

/-- One token (R180, R181): `matching` says that stops are looked for. -/
def Detok.token (v : Bytes) (ss : StopSet) (skipSpecials matching include_ : Bool) (d : Detok) (id : Nat) : Detok :=
  let n := d.consumed
  let d := { d with consumed := n + 1 }
  if d.stop.isSome then d
  else
    let hit := if matching then ss.ids.findIdx (· == id) else ss.ids.length
    if hit < ss.ids.length ∧ matching then
      let at_ := d.out.length
      let bytes := if include_ ∧ id < Vocab.tokens v then Vocab.string v id else []
      { d with out := d.out ++ bytes, owner := d.owner ++ bytes.map fun _ => n,
               stop := some (at_, n, 16 + hit, at_ + bytes.length) }
    else if Vocab.tokens v ≤ id then
      let d := { d with replaced := d.replaced + 1, firstUnknown := d.firstUnknown.or (some d.out.length),
                        lastUnknown := d.out.length }
      addBytes (if matching then ss else ⟨[], []⟩) n [0xEF, 0xBF, 0xBD] d
    else if skipSpecials && Vocab.isSpecial v id then d
    else addBytes (if matching then ss else ⟨[], []⟩) n (Vocab.string v id) d

def Detok.start : Detok := ⟨[], [], 0, 0, 0, none, 0, none⟩

/-- The output a detokenization keeps: up to its stop, or with STOP_INCLUDE to the stop's end. -/
def Detok.kept (d : Detok) (include_ : Bool) : Bytes :=
  match d.stop with
  | none => d.out
  | some (at_, _, _, end_) => d.out.take (if include_ then end_ else at_)

/-- Whether an output holds a malformed sequence, and whether one is cut off at its end (R180). -/
def utf8Verdict (out : Bytes) : Bool × Bool :=
  let sc := utf8Scan 0 (out.length + 1) out 0 ⟨[], 0, 0, 0⟩
  let tail := out.drop sc.lastBad
  let cut := sc.bad != 0 && (utf8Step tail).2 == tail.length && (0xC2 ≤ (tail.headD 0).toNat && (tail.headD 0).toNat ≤ 0xF4)
  (if cut then 1 < sc.bad else 0 < sc.bad, cut)

/-! ### The grammar validator -/

/-- Where the JSON recogniser stands (RFC 8259). -/
inductive JsonMode where
  | value | valueOrEnd | keyOrEnd | key | colon | after
  | str (key : Bool) | esc (key : Bool) | hex (key : Bool) (n : Nat)
  | minus | zero | int | dot | frac | e | eSign | exp
  | lit (rest : Bytes)
deriving DecidableEq, Repr

/-- What a byte does: rejected, too deep, or the next mode and stack (true: object). -/
inductive JsonStep where
  | reject
  | deep
  | next (m : JsonMode) (st : List Bool)
deriving DecidableEq, Repr

/-- JSON white space. -/
def jsonWs (b : Nat) : Bool := b == 0x20 || b == 0x09 || b == 0x0A || b == 0x0D

def digit (b : Nat) : Bool := 0x30 ≤ b && b ≤ 0x39

def hexDigit (b : Nat) : Bool := digit b || (0x41 ≤ b && b ≤ 0x46) || (0x61 ≤ b && b ≤ 0x66)

/-- The first byte of a value. -/
def jsonValue (depth : Nat) (st : List Bool) (b : Nat) : JsonStep :=
  if b = 0x22 then .next (.str false) st
  else if b = 0x7B then if depth ≤ st.length then .deep else .next .keyOrEnd (true :: st)
  else if b = 0x5B then if depth ≤ st.length then .deep else .next .valueOrEnd (false :: st)
  else if b = 0x2D then .next .minus st
  else if b = 0x30 then .next .zero st
  else if digit b then .next .int st
  else if b = 0x74 then .next (.lit (ascii "rue")) st
  else if b = 0x66 then .next (.lit (ascii "alse")) st
  else if b = 0x6E then .next (.lit (ascii "ull")) st
  else .reject

/-- A byte after a value. -/
def jsonAfter (st : List Bool) (b : Nat) : JsonStep :=
  if jsonWs b then .next .after st
  else match st with
    | [] => .reject
    | true :: r => if b = 0x2C then .next .key st else if b = 0x7D then .next .after r else .reject
    | false :: r => if b = 0x2C then .next .value st else if b = 0x5D then .next .after r else .reject

/-- One byte of the recogniser. -/
def jsonStep (depth : Nat) (m : JsonMode) (st : List Bool) (b : Nat) : JsonStep :=
  match m with
  | .value => if jsonWs b then .next .value st else jsonValue depth st b
  | .valueOrEnd =>
    if jsonWs b then .next .valueOrEnd st else if b = 0x5D then .next .after (st.drop 1) else jsonValue depth st b
  | .keyOrEnd =>
    if jsonWs b then .next .keyOrEnd st
    else if b = 0x22 then .next (.str true) st
    else if b = 0x7D then .next .after (st.drop 1)
    else .reject
  | .key => if jsonWs b then .next .key st else if b = 0x22 then .next (.str true) st else .reject
  | .colon => if jsonWs b then .next .colon st else if b = 0x3A then .next .value st else .reject
  | .after => jsonAfter st b
  | .str k =>
    if b = 0x22 then .next (if k then .colon else .after) st
    else if b = 0x5C then .next (.esc k) st
    else if b < 0x20 then .reject
    else .next (.str k) st
  | .esc k =>
    if b = 0x75 then .next (.hex k 4) st
    else if b = 0x22 ∨ b = 0x5C ∨ b = 0x2F ∨ b = 0x62 ∨ b = 0x66 ∨ b = 0x6E ∨ b = 0x72 ∨ b = 0x74 then .next (.str k) st
    else .reject
  | .hex k n => if hexDigit b then .next (if n ≤ 1 then .str k else .hex k (n - 1)) st else .reject
  | .minus => if b = 0x30 then .next .zero st else if digit b then .next .int st else .reject
  | .zero =>
    if b = 0x2E then .next .dot st else if b = 0x65 ∨ b = 0x45 then .next .e st else jsonAfter st b
  | .int =>
    if digit b then .next .int st
    else if b = 0x2E then .next .dot st else if b = 0x65 ∨ b = 0x45 then .next .e st else jsonAfter st b
  | .dot => if digit b then .next .frac st else .reject
  | .frac => if digit b then .next .frac st else if b = 0x65 ∨ b = 0x45 then .next .e st else jsonAfter st b
  | .e => if digit b then .next .exp st else if b = 0x2B ∨ b = 0x2D then .next .eSign st else .reject
  | .eSign => if digit b then .next .exp st else .reject
  | .exp => if digit b then .next .exp st else jsonAfter st b
  | .lit rest =>
    match rest with
    | [] => jsonAfter st b
    | c :: r => if b = c.toNat then .next (if r.isEmpty then .after else .lit r) st else .reject

/-- Whether the recogniser may stop here: after one whole value. -/
def jsonEnd (m : JsonMode) (st : List Bool) : Bool :=
  st.isEmpty && (m == .after || m == .zero || m == .int || m == .frac || m == .exp)

/-- The verdict of JSON over a text (Table 6-8): code and offset. -/
def jsonRun (depth : Nat) : Bytes → Nat → JsonMode → List Bool → Nat × Nat
  | [], off, m, st => if jsonEnd m st then (0, off) else (2, off)
  | b :: l, off, m, st =>
    match jsonStep depth m st b.toNat with
    | .reject => (1, off)
    | .deep => (3, off)
    | .next m st => jsonRun depth l (off + 1) m st

/-- The verdict of a grammar over a text (R188): malformed UTF-8 is a REJECT at its first byte. Handle 0xFFFF is JSON; a
loaded image's recogniser is an opaque function of Config, whose image format this manual does not give. -/
def grammarVerdict (image : Option Bytes) (depth : Nat) (text : Bytes) : Nat × Nat :=
  let sc := utf8Scan 0 (text.length + 1) text 0 ⟨[], 0, 0, 0⟩
  let v := match image with
    | none => jsonRun depth text 0 .value []
    | some im => Config.grammarRun im depth text
  if sc.bad = 0 then v
  else if (v.1 = 1 ∨ v.1 = 3) ∧ v.2 < sc.firstBad then v
  else (1, sc.firstBad)

end Sys2Proof.Machine
end

