-- ==== Sys2Proof/Machine/TokenUnits.lean ====
section
/-! DEFINITION. The token units: their queue, TOKENIZE and DETOKENIZE, vocabularies and grammars, and rollout capture
(R166 to R192). -/
namespace Sys2Proof.Machine

/-! ### Queues and tables -/

def State.tokQueue (s : State) (c : Nat) : TokQueue :=
  (s.tok.queues.find? fun q => q.cluster == c).getD ⟨c, [], []⟩

def State.putTok (s : State) (t : Tokens) : State := { s with tok := t }

def State.putTokQueue (s : State) (q : TokQueue) : State :=
  let l := s.tok.queues.filter fun x => x.cluster != q.cluster
  s.putTok { s.tok with queues := if q.entries.isEmpty && q.running.isEmpty then l else l ++ [q] }

/-- The vocabulary that a unit holds: the resident context's (R171, R498). -/
def State.unitVocab (s : State) (c u : Nat) : Option UnitVocab :=
  s.tok.vocabs.find? fun v => v.cluster == c && v.unit == u && some v.ctx == s.resident c && v.held

/-- Whether a unit holds a vocabulary with a tag. -/
def State.holdsTag (s : State) (c u tag : Nat) : Bool :=
  match s.unitVocab c u with
  | some v => vocabTag (sha384 v.image) == tag
  | none => false

/-- VOCAB_TAG_NOW and VOCAB_DIGEST follow the vocabularies of a cluster's units (R171). -/
def State.vocabRegs (s : State) (c : Nat) : State :=
  [0, 1].foldl (fun s u =>
    let d := match s.unitVocab c u with
      | some v => sha384 v.image
      | none => zeros 48
    (s.setN (Reg.vocab.vocabTagNow (2 * c + u)) (vocabTag d)).setB (Reg.vocabDigest.vocabDigest (2 * c + u)) d) s

/-- A loaded grammar of a cluster's resident context. -/
def State.grammar? (s : State) (c ctx h : Nat) : Option Bytes :=
  (s.tok.grammars.find? fun g => g.cluster == c && g.ctx == ctx && g.handle == h).map (·.image)

/-- Whether a grammar handle is loaded or built in (R187). -/
def State.grammarKnown (s : State) (c ctx h : Nat) : Bool := h == 0xFFFF || (s.grammar? c ctx h).isSome

/-- A stop set (Table 6-10). -/
def State.stopSet (s : State) (n : Nat) : StopSet :=
  if n = 0 then ⟨[], []⟩
  else ⟨parseStops 16 (s.blob (Reg.stopset.stopStrings (n - 1))), parseIds 8 (s.blob (Reg.stopset.stopIds (n - 1)))⟩

/-- Whether a STOP_STRINGS value is in form: up to 16 entries of 1 to 64 bytes that fill it. -/
def stopStringsOk : Nat → Bytes → Bool
  | _, [] => true
  | 0, _ :: _ => false
  | n + 1, b :: l => 1 ≤ b.toNat && b.toNat ≤ 64 && b.toNat ≤ l.length && stopStringsOk n (l.drop b.toNat)

/-- A stop set named by an open rollout stream cannot be written (R191). -/
def State.stopSetBusy (s : State) (n : Nat) : Bool := s.tok.streams.any fun x => x.stopSet == n + 1

/-! ### Records -/

/-- A token result (Table 6-2). -/
structure TokResult where
  status : Nat
  flags : Nat
  outLen : Nat
  tokens : Nat
  added : Nat
  required : Nat
  verdict : Nat
  handle : Nat
  verdictOffset : Nat
  stopOffset : Nat
  stopToken : Nat
  replaced : Nat
deriving DecidableEq, Repr

/-- A result that reports only its status. -/
def TokResult.ofStatus (code : Nat) : TokResult := ⟨code, 0, 0, 0, 0, 0, 0xFF, 0, 0, 0xFFFFFFFF, 0, 0⟩

/-- An error of a request or rollout: its class, byte offset, token index and detail (Table 6-9). -/
structure TokError where
  cls : Nat
  offset : Nat
  token : Nat
  detail : Nat
  expected : Nat
  actual : Nat
deriving DecidableEq, Repr

/-- The first error by byte offset. -/
def firstError : List TokError → Option TokError
  | [] => none
  | e :: l => match firstError l with
    | none => some e
    | some f => if f.offset < e.offset then some f else some e

def TokResult.encode (r : TokResult) (sample : Nat) : Bytes :=
  leBytes 2 r.status ++ leBytes 2 r.flags ++ leBytes 4 r.outLen ++ leBytes 4 r.tokens ++ leBytes 4 r.added ++
    leBytes 8 sample ++ leBytes 4 r.required ++ leBytes 1 r.verdict ++ zeros 1 ++ leBytes 2 r.handle ++
    leBytes 4 r.verdictOffset ++ leBytes 4 r.stopOffset ++ leBytes 4 r.stopToken ++ leBytes 4 r.replaced ++ zeros 16

/-- OPCODE (Table 6-1). -/
def TokKind.opcode : TokKind → Nat
  | .tokenize => 0x20 | .detokenize => 0x21 | .vocabLoad => 0x22 | .grammarLoad => 0x23
  | .grammarCheck => 0x24 | .rolloutOpen => 0x25 | .rolloutClose => 0x26

/-- The error record (Table 6-9) of `errs`, `count` errors in all; `bytes` is the text the offsets count in. -/
def tokErrorRecord (k : TokKind) (d : TokenDesc) (unit sample : Nat) (errs : List TokError) (count last : Nat)
    (bytes : Bytes) : Bytes :=
  let e := (firstError errs).getD ⟨0, 0, 0, 0, 0, 0⟩
  leBytes 2 e.cls ++ leBytes 2 k.opcode ++ leBytes 1 d.cluster ++ leBytes 1 unit ++ leBytes 1 d.policy ++ zeros 1 ++
    leBytes 8 sample ++ leBytes 8 e.offset ++ leBytes 4 e.token ++ leBytes 2 (sat 16 count) ++ leBytes 2 e.detail ++
    leBytes 8 last ++ leBytes 4 e.expected ++ leBytes 4 e.actual ++ ((bytes.drop e.offset).take 8 ++ zeros 8).take 8 ++
    zeros 8

/-- Writes a request's error record, where it met an error and one is wanted, and enters the error in the log; then the
result record (R168, R190). `last` is the offset of the last error. -/
def State.tokFinish (s : State) (e : TokEntry) (unit : Nat) (r : TokResult) (errs : List TokError) (count last : Nat)
    (bytes : Bytes) : State :=
  let want := !errs.isEmpty && e.desc.errorAddr != 0
  let s := if want then
      s.emit (.record e.desc.errorAddr (tokErrorRecord e.kind e.desc unit e.desc.sample errs count last bytes)) else s
  let s := match firstError errs with
    | some x => s.raise 0x4480 e.desc.cluster e.req.ctx (leBytes 2 x.cls)
    | none => s
  let r := { r with flags := r.flags + 4 * want.toNat }
  let s := s.result e.req.ctx (.record e.desc.resultAddr (r.encode e.desc.sample))
  let s := s.bumpIf (r.flags.testBit 0) Reg.tok.malformed
  if isOk r.status then s.ends r.status else s.refuse r.status e.desc.cluster e.req.ctx

/-- A request completes with a status alone. -/
def State.tokRefuse (s : State) (e : TokEntry) (unit code required : Nat) : State :=
  s.tokFinish e unit { TokResult.ofStatus code with required := required } [] 0 0 []

/-! ### Submission (R166) -/

/-- The queue as it is kept for a context that is not resident. -/
def State.tokSaved (s : State) (k c : Nat) : TokQueue :=
  ((s.tok.saved.find? fun p => p.1 == k && p.2.cluster == c).map (·.2)).getD ⟨c, [], []⟩

/-- A descriptor joins its cluster's token queue, or is refused with BUSY or ABSENT_UNIT; that of a context which owns the
cluster and is not resident there waits in its saved state (R496, R498). -/
def State.tokSubmit (s : State) (k : TokKind) (r : Requester) (d : TokenDesc) : State :=
  if !s.hasCluster d.cluster then s.tokRefuse ⟨k, r, d⟩ d.unit 0x4403 0
  else if s.resident d.cluster ≠ some r.ctx ∧ s.ownsCluster r.ctx d.cluster then
    let q := s.tokSaved r.ctx d.cluster
    if 64 ≤ q.entries.length then (s.bump Reg.tok.queueBusy).refuse 0x4401 d.cluster r.ctx
    else (s.putTok { s.tok with saved := (s.tok.saved.filter fun p => !(p.1 == r.ctx && p.2.cluster == d.cluster)) ++
      [(r.ctx, { q with entries := q.entries ++ [⟨k, r, d⟩] })] }).ends 0x4400
  else
    let q := s.tokQueue d.cluster
    if 64 ≤ q.entries.length then (s.bump Reg.tok.queueBusy).refuse 0x4401 d.cluster r.ctx
    else (s.putTokQueue { q with entries := q.entries ++ [⟨k, r, d⟩] }).ends 0x4400

def execTokenize (req : Requester) (desc : TokenDesc) (s : State) : Host.Outcome State Fault Refusal :=
  live s fun s => s.tokSubmit .tokenize req desc

def execDetokenize (req : Requester) (desc : TokenDesc) (s : State) : Host.Outcome State Fault Refusal :=
  live s fun s => s.tokSubmit .detokenize req desc

def execVocabLoad (req : Requester) (desc : TokenDesc) (s : State) : Host.Outcome State Fault Refusal :=
  live s fun s => s.tokSubmit .vocabLoad req desc

def execGrammarLoad (req : Requester) (desc : TokenDesc) (s : State) : Host.Outcome State Fault Refusal :=
  live s fun s => s.tokSubmit .grammarLoad req desc

def execGrammarCheck (req : Requester) (desc : TokenDesc) (s : State) : Host.Outcome State Fault Refusal :=
  live s fun s => s.tokSubmit .grammarCheck req desc

def execRolloutOpen (req : Requester) (desc : TokenDesc) (s : State) : Host.Outcome State Fault Refusal :=
  live s fun s => s.tokSubmit .rolloutOpen req desc

def execRolloutClose (req : Requester) (desc : TokenDesc) (s : State) : Host.Outcome State Fault Refusal :=
  live s fun s => s.tokSubmit .rolloutClose req desc

/-! ### The head of the queue (R167) -/

/-- Reserved values of PARAMS and VOCAB_TAG (Table 6-1). -/
def tokParamsOk (k : TokKind) (d : TokenDesc) : Bool :=
  let p := d.params
  match k with
  | .tokenize => true
  | .detokenize | .rolloutClose => p < 2 ^ 16
  | .grammarCheck => d.vocabTag == 0 && p < 2 ^ 32 && 1 ≤ p / 2 ^ 16 && p / 2 ^ 16 ≤ 1024
  | .rolloutOpen => p < 2 ^ 48 && 2 ≤ p / 2 ^ 32 && p / 2 ^ 32 ≤ 4096
  | .grammarLoad => d.vocabTag == 0 && p == 0
  | .vocabLoad => p == 0

/-- Whether the operation needs a vocabulary. -/
def TokKind.needsVocab : TokKind → Bool
  | .tokenize | .detokenize | .rolloutOpen => true
  | _ => false

/-- The units that a descriptor may use. -/
def tokUnits (d : TokenDesc) : List Nat := if d.unit = 0xFF then [0, 1] else [d.unit]

/-- The checks of R109 and R167, in order. -/
def State.tokCheck (s : State) (e : TokEntry) : Option Nat :=
  let d := e.desc
  if !s.hasCluster d.cluster then some 0x4403
  else if s.resident d.cluster ≠ some e.req.ctx then some 0x4402
  else if 32 ≤ d.options ∨ 2 < d.policy ∨ !(d.unit ≤ 1 || d.unit == 0xFF) ∨ !tokParamsOk e.kind d then some 0x4402
  else if e.kind.needsVocab ∧ !(tokUnits d).any fun u => s.holdsTag d.cluster u d.vocabTag then some 0x4412
  else none

/-- Where a checked descriptor goes: a unit and whether it starts or waits there; none while it must stay at the head
(its unit is busy, or a VOCAB_LOAD ahead of it has not completed). -/
def State.tokPlace (s : State) (q : TokQueue) (e : TokEntry) : Option Nat :=
  let busy := fun (u : Nat) => q.running.any fun p => p.1 == u
  let fit := (tokUnits e.desc).filter fun u => !e.kind.needsVocab || s.holdsTag e.desc.cluster u e.desc.vocabTag
  match fit.find? fun u => !busy u with
  | some u => some u
  | none => if e.kind.needsVocab && e.desc.unit == 0xFF then fit.head? else none

/-- The head of a token queue is checked and begins, or completes refused. -/
def State.tokHead (s : State) (c : Nat) : State :=
  let q := s.tokQueue c
  match q.entries with
  | [] => s
  | e :: l =>
    if e.kind.needsVocab && q.running.any fun p => p.2.kind == .vocabLoad then s
    else match s.tokCheck e with
      | some code => (s.putTokQueue { q with entries := l }).tokRefuse e e.desc.unit code 0
      | none => match s.tokPlace q e with
        | none => s
        | some u => (s.putTokQueue { q with entries := l, running := q.running ++ [(u, e)] }).bufFlight e.desc.inBuf true

def execTokenDescriptorHead (cluster : Nat) (s : State) : Host.Outcome State Fault Refusal :=
  live s fun s => s.tokHead cluster

/-! ### TOKENIZE and DETOKENIZE -/

/-- Token identifiers as bytes. -/
def idBytes (ids : List Nat) : Bytes := ids.flatMap (leBytes 4)

/-- Writes an output as R177 gives: nothing with COUNT_ONLY; up to the capacity where it does not fit (the unit stops at
the last whole item of `grain` bytes). The status and the bytes written. -/
def State.tokOutput (s : State) (e : TokEntry) (out : Bytes) (grain : Nat) : State × Nat × Nat :=
  if e.desc.options.testBit 1 then (s, 0x4400, 0)
  else
    let fits := decide (out.length ≤ e.desc.outCap)
    let n := if fits then out.length else e.desc.outCap / grain * grain
    if !s.mayAccess e.req e.desc.outBuf 0 n then (s, 0x4402, 0)
    else (s.bufWrite e.desc.outBuf 0 (out.take n), if fits then 0x4400 else 0x4411, n)

/-- Errors of TOKENIZE: malformed subparts, and text that no token matches. The byte offset of unmatched text is exact
where the text was tokenized as it came; where it was replaced or normalized the spec states none (a free value). -/
def State.tokenizeErrors (s : State) (v : Bytes) (t : TokenText) : List TokError :=
  let plain := decide (t.scan.bad = 0) && Vocab.normalize v == 0
  (if t.scan.bad = 0 then [] else [⟨1, t.scan.firstBad, 0, 0, 0, 0⟩]) ++
    (t.unks.take 1).map fun p => ⟨3, if plain then p.2 else s.freeVal, p.1, 0, 0, 0⟩

/-- The sample's TOKEN_COUNT where R178 has the recipe's tokenize step compare it. -/
def State.expectedTokens (s : State) (v : Bytes) (sample : Nat) : Option Nat :=
  match s.sched.manifest with
  | none => none
  | some m =>
    if m.vocabDigest ≠ sha384 v then none
    else match m.records.find? fun r => r.sampleIndex == sample with
      | some r => if r.tokensValid then some r.tokenCount else none
      | none => none

/-- TOKENIZE completes (R172, R173, R177, R178). -/
def State.doTokenize (s : State) (e : TokEntry) (unit : Nat) (v : Bytes) (recipe : Option RecipeStep) : State :=
  let d := e.desc
  let doc := s.bufRead d.inBuf 0 d.inLen
  let t := tokenizeText v doc (d.options.testBit 0) d.policy
  let s := s.add Reg.tok.tokenizedBytes d.inLen
  let errs := s.tokenizeErrors v t
  let s := if t.unks.isEmpty then s else s.drawn
  if d.policy = 2 ∧ t.scan.bad ≠ 0 then
    s.tokFinish e unit (.ofStatus 0x4410) (errs.take 1) t.scan.bad t.scan.lastBad doc
  else
    let pre := d.params % 2 ^ 32
    let suf := d.params / 2 ^ 32
    let wrapId := fun (i : Nat) => if i = 0xFFFFFFFF then [] else [i]
    let ids := wrapId pre ++ t.toks.map (·.1) ++ wrapId suf
    let n := t.toks.length
    let (s, code, written) := s.tokOutput e (idBytes ids) 4
    let s := s.add Reg.tok.tokensOut (written / 4)
    let mismatch := recipe.isSome && (match s.expectedTokens v d.sample with
      | some c => c != n
      | none => false)
    let errs := if mismatch then errs ++ [⟨4, d.inLen, 0, 0, (s.expectedTokens v d.sample).getD 0, n⟩] else errs
    let s := s.bumpIf mismatch Reg.tok.countMismatches
    let s := match recipe with
      | some r => if mismatch then
          s.refuseSample e.req.ctx d.sample 4 r.slot (n % 2 ^ 32 + 2 ^ 32 * (s.expectedTokens v d.sample).getD 0) else s
      | none => s
    let last := (t.unks.map (·.2)).foldl max (if t.scan.bad = 0 then 0 else t.scan.lastBad)
    s.tokFinish e unit
      { TokResult.ofStatus code with
        flags := (t.scan.bad != 0).toNat + 2 * (!t.unks.isEmpty).toNat + 32 * t.bomStripped.toNat
        outLen := written, tokens := n, added := (wrapId pre).length + (wrapId suf).length
        required := 4 * ids.length, replaced := t.scan.bad }
      errs (t.scan.bad + t.unks.length + mismatch.toNat) (if mismatch then d.inLen else last) doc

/-- Errors found in a detokenized output. -/
def detokErrors (d : Detok) (out : Bytes) : List TokError :=
  let u := utf8Verdict out
  let sc := utf8Scan 0 (out.length + 1) out 0 ⟨[], 0, 0, 0⟩
  (match d.firstUnknown with
    | some o => [⟨2, o, d.owner.getD o 0, 0, 0, 0⟩]
    | none => []) ++
  (if u.1 then [⟨1, sc.firstBad, d.owner.getD sc.firstBad 0, 0, 0, 0⟩] else []) ++
  (if u.2 then [⟨7, sc.lastBad, d.owner.getD sc.lastBad 0, 0, 0, 0⟩] else [])

/-- DETOKENIZE completes (R180, R181). -/
def State.doDetokenize (s : State) (e : TokEntry) (unit : Nat) (v : Bytes) : State :=
  let d := e.desc
  if 16 < d.params then s.tokRefuse e unit 0x4416 0
  else
    let inp := s.bufRead d.inBuf 0 d.inLen
    let ids := parseIds (d.inLen / 4) inp
    let inc := d.options.testBit 2
    let r := ids.foldl (Detok.token v (s.stopSet d.params) (d.options.testBit 3) (d.params != 0) inc) Detok.start
    let s := s.add Reg.tok.detokTokens r.consumed
    let out := r.kept inc
    let errs := detokErrors r out
    let sc := utf8Scan 0 (out.length + 1) out 0 ⟨[], 0, 0, 0⟩
    if d.policy = 2 ∧ r.replaced ≠ 0 then
      s.tokFinish e unit (.ofStatus 0x4410) (errs.filter fun x => x.cls == 2) r.replaced r.lastUnknown out
    else
      let u := utf8Verdict out
      let (s, code, written) := s.tokOutput e out 1
      s.tokFinish e unit
        { TokResult.ofStatus code with
          flags := u.1.toNat + 8 * r.stop.isSome.toNat + 16 * u.2.toNat
          outLen := written, tokens := r.consumed, required := out.length
          stopOffset := (r.stop.map (·.1)).getD 0xFFFFFFFF, stopToken := (r.stop.map (·.2.1)).getD 0
          replaced := r.replaced }
        errs (r.replaced + sc.bad) (max r.lastUnknown sc.lastBad) out

/-! ### Vocabularies and grammars -/

/-- The WORK_L pool of a cluster's die. -/
def workPool (c : Nat) : Nat := if c < 8 then 2 else 5

/-- VOCAB_LOAD completes (R171). -/
def State.doVocabLoad (s : State) (e : TokEntry) (unit : Nat) : State :=
  let d := e.desc
  let image := s.bufRead d.inBuf 0 d.inLen
  let digest := sha384 image
  if !Vocab.valid image then s.tokRefuse e unit 0x4413 0
  else if vocabTag digest ≠ d.vocabTag then s.tokRefuse e unit 0x4414 0
  else match s.unitAlloc 0 (some e.req.ctx) (workPool d.cluster) image.length with
    | none => s.tokRefuse e unit 0x4418 0
    | some (h, s) =>
      let mine := fun (v : UnitVocab) => v.cluster == d.cluster && v.unit == unit && v.ctx == e.req.ctx
      let s := s.bufWrite h 0 image
      let s := (s.tok.vocabs.filter mine).foldl (fun s v => s.unitFree v.copy) s
      let s := s.putTok { s.tok with
        vocabs := (s.tok.vocabs.filter fun v => !mine v) ++ [⟨d.cluster, unit, e.req.ctx, image, h, true⟩] }
      ((s.vocabRegs d.cluster).measure e.req.ctx 4 digest).tokRefuse e unit 0x4400 0

/-- GRAMMAR_LOAD completes (R187). -/
def State.doGrammarLoad (s : State) (e : TokEntry) (unit : Nat) : State :=
  let d := e.desc
  let image := s.bufRead d.inBuf 0 d.inLen
  let used := (s.tok.grammars.filter fun g => g.cluster == d.cluster && g.ctx == e.req.ctx).map fun g => g.handle - 1
  match lowestFree 16 used with
  | none => s.tokRefuse e unit 0x4404 0
  | some i =>
    if 2 ^ 20 < d.inLen ∨ !Config.grammarOk image then s.tokRefuse e unit 0x4415 0
    else
      let s := s.putTok { s.tok with grammars := s.tok.grammars ++ [⟨d.cluster, e.req.ctx, i + 1, image⟩] }
      let s := s.measure e.req.ctx 5 (sha384 image)
      s.tokFinish e unit { TokResult.ofStatus 0x4400 with handle := i + 1 } [] 0 0 []

/-- GRAMMAR_CHECK completes (R188). -/
def State.doGrammarCheck (s : State) (e : TokEntry) (unit : Nat) : State :=
  let d := e.desc
  let h := d.params % 2 ^ 16
  if !s.grammarKnown d.cluster e.req.ctx h then s.tokRefuse e unit 0x4416 0
  else
    let text := s.bufRead d.inBuf 0 d.inLen
    let v := grammarVerdict (if h = 0xFFFF then none else s.grammar? d.cluster e.req.ctx h) (d.params / 2 ^ 16) text
    let bad := v.1 == 1 || v.1 == 3
    let s := s.bumpIf bad Reg.tok.grammarRejects
    s.tokFinish e unit { TokResult.ofStatus 0x4400 with verdict := v.1, verdictOffset := if bad then v.2 else 0 }
      (if bad then [⟨5, v.2, 0, v.1, 0, 0⟩] else []) 1 v.2 text

/-! ### Rollout streams (R182 to R186) -/

def State.rolloutStream? (s : State) (h : Nat) : Option RolloutStream := s.tok.streams.find? fun x => x.handle == h

def State.putRollout (s : State) (x : RolloutStream) : State :=
  s.putTok { s.tok with streams := s.tok.streams.map fun y => if y.handle = x.handle then x else y }

/-- STREAMS_OPEN follows the stream table. -/
def State.rolloutRegs (s : State) : State := s.setN Reg.rollout.streamsOpen s.tok.streams.length

/-- ROLLOUT_OPEN completes (R182). -/
def State.doRolloutOpen (s : State) (e : TokEntry) (unit : Nat) : State :=
  let d := e.desc
  let stop := d.params % 2 ^ 16
  let gram := d.params / 2 ^ 16 % 2 ^ 16
  let slots := d.params / 2 ^ 32
  let need := 64 + 16416 * slots
  let here := (s.tok.streams.filter fun x => x.entry.desc.cluster == d.cluster).length
  if 16 < stop ∨ (gram ≠ 0 ∧ !s.grammarKnown d.cluster e.req.ctx gram) then s.tokRefuse e unit 0x4416 0
  else if d.inLen < need then s.tokRefuse e unit 0x4411 need
  else if !s.mayAccess e.req d.inBuf 0 need then s.tokRefuse e unit 0x4402 0
  else if 16 ≤ here then s.tokRefuse e unit 0x4404 0
  else match lowestFree 256 (s.tok.streams.map fun x => x.handle - 1) with
    | none => s.tokRefuse e unit 0x4404 0
    | some i =>
      let x : RolloutStream := ⟨i + 1, e, unit, slots, stop, gram, [], [], [], []⟩
      let s := (s.putTok { s.tok with streams := s.tok.streams ++ [x] }).rolloutRegs
      s.tokFinish e unit { TokResult.ofStatus 0x4400 with handle := i + 1 } [] 0 0 []

/-- A rollout's text as it is built: the detokenizer, the identifiers taken, how many when the stop was met, and the
bytes and identifiers of the prompt. -/
structure RolloutText where
  d : Detok
  taken : Nat
  stopAfter : Option Nat
  promptBytes : Nat
deriving DecidableEq, Repr

/-- One identifier of a rollout: stops are matched after the prompt. -/
def RolloutText.add (v : Bytes) (ss : StopSet) (hasStops skip inc : Bool) (prompt : Nat) (r : RolloutText) (id : Nat) :
    RolloutText :=
  let past := prompt ≤ r.taken
  let d0 := if r.taken = prompt then { r.d with base := max r.d.base r.d.out.length } else r.d
  let d := Detok.token v ss skip (hasStops && past) inc d0 id
  { d := d, taken := r.taken + 1
    stopAfter := if r.stopAfter.isNone && d.stop.isSome then some (r.taken + 1) else r.stopAfter
    promptBytes := if past then r.promptBytes else d.out.length }

/-- The chunks of a rollout in ascending SEQ; stop matching restarts after each gap. -/
def rolloutText (v : Bytes) (ss : StopSet) (hasStops skip inc : Bool) (prompt : Nat) :
    List Chunk → Nat → RolloutText → RolloutText
  | [], _, r => r
  | c :: l, next, r =>
    let r := if c.seq = next then r else { r with d := { r.d with base := r.d.out.length } }
    rolloutText v ss hasStops skip inc prompt l (c.seq + 1) (c.ids.foldl (RolloutText.add v ss hasStops skip inc prompt) r)

/-- The first SEQ missing below the highest held; none where the chunks are contiguous from 0. -/
def firstGap : List Chunk → Nat → Option Nat
  | [], _ => none
  | c :: l, next => if c.seq = next then firstGap l (next + 1) else some next

/-- Whether LAST is held with every SEQ up to it. -/
def Rollout.whole (r : Rollout) : Bool := r.chunks.any fun c => c.last &&
  (List.range c.seq).all fun i => r.chunks.any fun d => d.seq == i

/-- The identifiers a rollout has received. -/
def Rollout.received (r : Rollout) : Nat := (r.chunks.map fun c => c.ids.length).foldl (· + ·) 0

/-- A sample captured from outside enters the catalogue with origin kind 2 and is journaled by reference (R186). -/
def State.captured (s : State) (mediaType source : Nat) (data block : Bytes) : State :=
  let ref := s.intake.catalogue.length
  let s := s.journal 0x0011 source true (leBytes 2 source ++ leBytes 8 ref ++ sha384 data)
  s.catalogue ⟨mediaType, data, block, 2, source, none, sha384 data⟩

/-- A rollout completes (R185, R186, R189): `why` is the FLAGS bit of its cause (0 for LAST). -/
def State.finishRollout (s : State) (x : RolloutStream) (r : Rollout) (why : Nat) : State :=
  let o := x.entry.desc.options
  let inc := o.testBit 2
  let image := match s.tok.vocabs.find? fun v =>
      v.cluster == x.entry.desc.cluster && v.unit == x.unit && v.ctx == x.entry.req.ctx with
    | some v => v.image
    | none => []
  let t := rolloutText image (s.stopSet x.stopSet) (x.stopSet != 0) (o.testBit 3) inc r.prompt r.chunks 0
    ⟨Detok.start, 0, none, 0⟩
  let s := s.add Reg.tok.detokTokens t.taken
  let d := t.d
  let out := d.kept inc
  let gap := firstGap r.chunks 0
  let u := utf8Verdict out
  let body := ((match d.stop with
    | some (at_, _, _, _) => d.out.take at_
    | none => d.out)).drop t.promptBytes
  let v := if x.grammar = 0 then (0, 0)
    else grammarVerdict (if x.grammar = 0xFFFF then none
      else some ((s.grammar? x.entry.desc.cluster x.entry.req.ctx x.grammar).getD [])) 1024 body
  let reject := v.1 == 1 || v.1 == 3
  let s := s.bumpIf reject Reg.tok.grammarRejects
  let flags := d.stop.isSome.toNat + 2 * (d.stop.any fun p => 16 ≤ p.2.2.1).toNat +
    4 * (gap.isSome || r.dropped).toNat + why + 64 * u.1.toNat + 128 * u.2.toNat + 256 * (v.1 == 1).toNat +
    512 * (v.1 == 2).toNat + 1024 * (v.1 == 3).toNat
  let block := leBytes 8 r.id ++ leBytes 2 x.handle ++ leBytes 2 flags ++ leBytes 4 r.received ++ leBytes 4 r.prompt ++
    leBytes 4 t.promptBytes ++ leBytes 4 out.length ++ leBytes 1 ((d.stop.map (·.2.2.1)).getD 0xFF) ++ zeros 3 ++
    leBytes 4 ((d.stop.map (·.2.1)).getD 0) ++ leBytes 4 ((d.stop.map (·.1)).getD 0xFFFFFFFF) ++
    leBytes 4 (match t.stopAfter with | some n => t.taken - n | none => 0) ++ leBytes 4 (if reject then v.2 else 0) ++
    leBytes 4 (gap.getD 0xFFFFFFFF) ++ zeros 4 ++ leBytes 8 s.rc.ring
  let errs := detokErrors d out ++ (if reject then [⟨5, t.promptBytes + v.2, 0, v.1, 0, 0⟩] else [])
  let s := match firstError errs with
    | none => s
    | some e1 =>
      let s := if x.entry.desc.errorAddr = 0 then s else s.emit (.record x.entry.desc.errorAddr
        (tokErrorRecord .rolloutOpen x.entry.desc x.unit r.id errs (d.replaced + (errs.length - d.firstUnknown.isSome.toNat))
          ((errs.map fun (z : TokError) => z.offset).foldl max 0) out))
      s.raise 0x4480 x.entry.desc.cluster x.entry.req.ctx (leBytes 2 e1.cls)
  let s := s.putRollout { x with
    rollouts := x.rollouts.filter fun y => y.id != r.id
    done := (if 64 ≤ x.done.length then x.done.drop 1 else x.done) ++ [r.id] }
  if reject ∧ s.num Reg.rollout.rejectAction = 1 then
    (s.bump Reg.rollout.rolloutsDiscarded).raise 0x4480 x.entry.desc.cluster x.entry.req.ctx block
  else
    let s := s.captured 8 x.handle out block
    let ids := (r.chunks.flatMap (·.ids)).take (t.stopAfter.getD t.taken)
    let s := if o.testBit 4 then s.captured 9 x.handle (idBytes ids) block else s
    s.bump Reg.rollout.rolloutsStored

/-- Completes every rollout of a stream in the order of their start. -/
def State.closeRollouts (s : State) (x : RolloutStream) : State :=
  x.rollouts.foldl (fun s r => match s.rolloutStream? x.handle with
    | some y => s.finishRollout y r 16
    | none => s) s

/-- ROLLOUT_CLOSE completes (R186). -/
def State.doRolloutClose (s : State) (e : TokEntry) (unit : Nat) : State :=
  match s.rolloutStream? e.desc.params with
  | none => s.tokRefuse e unit 0x4416 0
  | some x =>
    if x.entry.req.ctx ≠ e.req.ctx ∨ x.entry.desc.cluster ≠ e.desc.cluster then s.tokRefuse e unit 0x4416 0
    else
      let s := s.closeRollouts x
      let s := (s.putTok { s.tok with streams := s.tok.streams.filter fun y => y.handle != x.handle }).rolloutRegs
      (s.unitPass x.entry.desc.inBuf e.req.id).tokRefuse e unit 0x4400 0

/-! ### TOKEN_COMPLETE -/

/-- A request completes: the unit does its work and writes the records. -/
def State.tokRun (s : State) (e : TokEntry) (unit : Nat) (recipe : Option RecipeStep) : State :=
  let v := (s.unitVocab e.desc.cluster unit).map (·.image)
  match e.kind with
  | .rolloutClose => s.doRolloutClose e unit
  | .rolloutOpen => s.doRolloutOpen e unit
  | k =>
    if !s.inputOk e.req e.desc.inBuf e.desc.inLen then s.tokRefuse e unit 0x4402 0
    else match k with
      | .tokenize => s.doTokenize e unit (v.getD []) recipe
      | .detokenize => s.doDetokenize e unit (v.getD [])
      | .vocabLoad => s.doVocabLoad e unit
      | .grammarLoad => s.doGrammarLoad e unit
      | _ => s.doGrammarCheck e unit

def State.tokComplete (s : State) (c u : Nat) (recipe : Option RecipeStep) : State :=
  let q := s.tokQueue c
  match q.running.find? fun p => p.1 == u with
  | none => s
  | some (_, e) =>
    let s := (s.putTokQueue { q with running := q.running.eraseP fun p => p.1 == u }).bufFlight e.desc.inBuf false
    s.tokRun e u recipe

def execTokenComplete (cluster unit : Nat) (recipe : Option RecipeStep) (s : State) : Host.Outcome State Fault Refusal :=
  live s fun s => s.tokComplete cluster unit recipe

/-! ### Chunks (R183, R184) -/

/-- A notification: an overrun where its slot is not yet freed, queued otherwise. -/
def State.rolloutChunk (s : State) (h slot : Nat) : State :=
  match s.rolloutStream? h with
  | none => s
  | some x =>
    if x.slots ≤ slot then s
    else if x.unfreed.contains slot then s.bump Reg.rollout.overruns
    else s.putRollout { x with unfreed := x.unfreed ++ [slot], notes := x.notes ++ [slot] }

def execRolloutChunk (stream slot : Nat) (s : State) : Host.Outcome State Fault Refusal :=
  live s fun s => s.rolloutChunk stream slot

/-- Why a chunk is dropped, by the place of the case in R184 (none: accepted). -/
def RolloutStream.dropCause (x : RolloutStream) (hdr ids : Bytes) : Option Nat :=
  let count := leAt hdr 4 2
  let id := leAt hdr 8 8
  if hdr.take 4 ≠ ascii "FLWR" then some 1
  else if 4096 < count then some 2
  else if leAt hdr 0x14 4 ≠ (crc32c (hdr.take 0x14 ++ zeros 4 ++ bytesAt hdr 0x18 8 ++ ids)).toNat then some 1
  else if x.done.contains id then some 3
  else match x.rollouts.find? fun r => r.id == id with
    | some r => if r.chunks.any fun c => c.seq == leAt hdr 0x10 4 then some 4 else none
    | none => if 64 ≤ x.rollouts.length then some 5 else none

/-- Inserts a chunk in ascending SEQ. -/
def insertChunk (c : Chunk) : List Chunk → List Chunk
  | [] => [c]
  | d :: l => if c.seq < d.seq then c :: d :: l else d :: insertChunk c l

/-- A chunk is accepted into its rollout, which may complete (R185). -/
def State.acceptChunk (s : State) (x : RolloutStream) (hdr ids : Bytes) : State :=
  let id := leAt hdr 8 8
  let seq := leAt hdr 0x10 4
  let c : Chunk := ⟨seq, parseIds (leAt hdr 4 2) ids, hdr.getD 6 0 &&& 1 == 1⟩
  let r := (x.rollouts.find? fun r => r.id == id).getD ⟨id, [], 0, 0, false⟩
  let r := { r with
    chunks := insertChunk c r.chunks, lastRing := s.rc.ring
    prompt := if seq = 0 then leAt hdr 0x18 4 else r.prompt }
  let l := if x.rollouts.any fun y => y.id == id then x.rollouts.map fun y => if y.id = id then r else y
    else x.rollouts ++ [r]
  let x := { x with rollouts := l }
  let s := (s.putRollout x).bump Reg.rollout.chunks
  if r.whole then s.finishRollout x r 0
  else if 2097152 ≤ r.received then s.finishRollout x r 32
  else s

/-- One queued notification is processed and its slot freed. -/
def State.processChunk (s : State) (x : RolloutStream) (slot : Nat) : State :=
  let d := x.entry.desc
  let base := 64 + 16416 * slot
  let hdr := s.bufRead d.inBuf base 32
  let ids := s.bufRead d.inBuf (base + 32) (4 * min 4096 (leAt hdr 4 2))
  let s := match x.dropCause hdr ids with
    | none => s.acceptChunk x hdr ids
    | some cause =>
      let id := leAt hdr 8 8
      let s := s.putRollout { x with
        rollouts := x.rollouts.map fun (r : Rollout) => if r.id = id then { r with dropped := true } else r }
      (s.bump Reg.rollout.chunksDropped).raise 0x4480 d.cluster x.entry.req.ctx (leBytes 2 6 ++ leBytes 2 cause)
  let freed := leNat (s.bufRead d.inBuf 0 8) + 1
  let s := s.bufWrite d.inBuf 0 (leBytes 8 freed)
  match s.rolloutStream? x.handle with
  | some y => s.putRollout { y with notes := y.notes.drop 1, unfreed := y.unfreed.filter fun k => k != slot }
  | none => s

def execRolloutNotifyProcess (stream : Nat) (s : State) : Host.Outcome State Fault Refusal :=
  live s fun s =>
    match s.rolloutStream? stream with
    | none => s
    | some x =>
      match x.notes with
      | [] => s
      | slot :: _ => if s.resident x.entry.desc.cluster = some x.entry.req.ctx then s.processChunk x slot else s

def execRolloutTimeout (stream rollout : Nat) (s : State) : Host.Outcome State Fault Refusal :=
  live s fun s =>
    match s.rolloutStream? stream with
    | none => s
    | some x =>
      match x.rollouts.find? fun r => r.id == rollout with
      | none => s
      | some r => if r.lastRing + s.num Reg.rollout.rolloutTimeout ≤ s.rc.ring then s.finishRollout x r 8 else s

/-! ### Context switches and destruction -/

/-- The token units abandon their requests, which go back to the head of the outgoing context's saved queue (R113). -/
def State.tokLeave (s : State) (c ctx : Nat) : State :=
  let q := s.tokQueue c
  let s := q.running.foldl (fun s p => s.bufFlight p.2.desc.inBuf false) s
  let s := s.add Reg.tok.abandoned (q.running.map (·.1)).eraseDups.length
  let e := q.running.map (·.2) ++ q.entries
  s.putTok { s.tok with
    queues := s.tok.queues.filter fun x => x.cluster != c
    saved := if e.isEmpty then s.tok.saved else s.tok.saved ++ [(ctx, ⟨c, e, []⟩)] }

/-- The saved queue of a context returns, and its units reload their vocabularies from the WORK_L copies (R498). -/
def State.tokReturn (s : State) (c ctx : Nat) : State :=
  let mine := s.tok.saved.filter fun p => p.1 == ctx && p.2.cluster == c
  let ok := fun (v : UnitVocab) =>
    !s.bufPoisoned v.copy 0 v.image.length && s.bufRead v.copy 0 v.image.length == v.image
  let s := s.putTok { s.tok with
    saved := s.tok.saved.filter fun p => !(p.1 == ctx && p.2.cluster == c)
    queues := (s.tok.queues.filter fun x => x.cluster != c) ++
      (let e := (mine.flatMap fun p => p.2.entries) ++ (s.tokQueue c).entries
       if e.isEmpty then [] else [⟨c, e, []⟩])
    vocabs := s.tok.vocabs.map fun v => if v.cluster = c ∧ v.ctx = ctx then { v with held := ok v } else v }
  s.vocabRegs c

/-- A destroyed context's rollout streams complete, and its requests, vocabularies and grammars go (R495). -/
def State.tokDestroy (s : State) (ctx : Nat) : State :=
  let s := (s.tok.streams.filter fun x => x.entry.req.ctx == ctx).foldl (fun s x => s.closeRollouts x) s
  let s := s.putTok { s.tok with
    streams := s.tok.streams.filter fun x => x.entry.req.ctx != ctx
    saved := s.tok.saved.filter fun p => p.1 != ctx
    grammars := s.tok.grammars.filter fun g => g.ctx != ctx
    vocabs := s.tok.vocabs.filter fun v => v.ctx != ctx
    queues := s.tok.queues.map fun q => { q with
      entries := q.entries.filter fun e => e.req.ctx != ctx
      running := q.running.filter fun p => p.2.req.ctx != ctx } }
  (List.range 16).foldl (fun s c => if s.hasCluster c then s.vocabRegs c else s) s.rolloutRegs

end Sys2Proof.Machine
end

