-- ==== Sys2Proof/Machine/Compute.lean ====
section
/-! DEFINITION. The compute queue: kernels, models, launches and their work items (R213 to R220), and the grading of a
sample (R223). -/
namespace Sys2Proof.Machine

/-! ### Submission (R214) -/

/-- The result record of a load, unload or refused descriptor; the handle of a loaded kernel stands at byte 4. -/
def computeRecord (code handle : Nat) : Bytes := leBytes 2 code ++ zeros 2 ++ leBytes 4 handle ++ zeros 56

/-- A compute descriptor completes with a status and no work items. -/
def State.computeEnds (s : State) (e : ComputeEntry) (code handle : Nat) : State :=
  let s := s.emit (.record e.desc.resultAddr (computeRecord code handle))
  let s := s.bumpIf (code == 0x4610) Reg.prep.classMismatches
  if isOk code then s.ends code else s.refuse code e.desc.cluster e.req.ctx

/-- A cluster's compute state as it is kept for a context that is not resident. -/
def State.csSaved (s : State) (k c : Nat) : ClusterState :=
  ((s.comp.saved.find? fun p => p.1 == k && p.2.cluster == c).map (·.2)).getD (ClusterState.empty c)

/-- A descriptor joins its cluster's compute queue, or is refused with BUSY or ABSENT_UNIT; that of a context which owns the
cluster and is not resident there waits in its saved state (R219, R496). -/
def State.computeSubmit (s : State) (k : ComputeKind) (r : Requester) (d : ComputeDesc) : State :=
  if !s.hasCluster d.cluster then s.computeEnds ⟨k, r, d⟩ 0x4603 0
  else
    let away := s.resident d.cluster ≠ some r.ctx && s.ownsCluster r.ctx d.cluster
    let x := if away then s.csSaved r.ctx d.cluster else s.cs d.cluster
    if 64 ≤ x.queue.length then (s.bump Reg.prep.queueBusy).refuse 0x4601 d.cluster r.ctx
    else
      let y := { x with queue := x.queue ++ [⟨k, r, d⟩] }
      let s := if away then s.putComp { s.comp with
          saved := (s.comp.saved.filter fun p => !(p.1 == r.ctx && p.2.cluster == d.cluster)) ++ [(r.ctx, y)] }
        else s.putCs y
      s.ends 0x4600

def execLaunch (req : Requester) (desc : ComputeDesc) (s : State) : Host.Outcome State Fault Refusal :=
  live s fun s => s.computeSubmit .launch req desc

def execKernelLoad (req : Requester) (desc : ComputeDesc) (s : State) : Host.Outcome State Fault Refusal :=
  live s fun s => s.computeSubmit .kernelLoad req desc

def execKernelUnload (req : Requester) (desc : ComputeDesc) (s : State) : Host.Outcome State Fault Refusal :=
  live s fun s => s.computeSubmit .kernelUnload req desc

def execModelLoad (req : Requester) (desc : ComputeDesc) (s : State) : Host.Outcome State Fault Refusal :=
  live s fun s => s.computeSubmit .modelLoad req desc

def execModelUnload (req : Requester) (desc : ComputeDesc) (s : State) : Host.Outcome State Fault Refusal :=
  live s fun s => s.computeSubmit .modelUnload req desc

/-! ### Images -/

/-- A kernel image in the form of Table 7-7, and of R204 where it declares EXACT. -/
def kernelValid (b : Bytes) : Bool :=
  let cls := leAt b 0x0A 1
  128 ≤ b.length && b.take 8 == ascii "FLWKERNL" && leAt b 8 2 == 1 && 1 ≤ cls && cls ≤ 3 &&
    (leAt b 0x0B 1 == 1 || leAt b 0x0B 1 == 2) && leAt b 0x0C 4 ≤ 262144 &&
    leAt b 0x18 8 + leAt b 0x14 4 ≤ b.length && leAt b 0x20 4 ≤ 65536 && leAt b 0x24 4 < 2 ^ 11 &&
    allZero (bytesAt b 0x58 40) && (cls % 2 == 0 || Config.exactCodeOk b)

/-- The kernel images of a model image, in order; `n` bounds them. -/
def modelKernels (b : Bytes) : Nat → Nat → List Bytes
  | 0, _ => []
  | n + 1, off => let len := leAt b off 8; bytesAt b (off + 8) len :: modelKernels b n (off + 8 + len)

/-- A tensor entry of Table 7-10. -/
def tensorValid (b e : Bytes) : Bool :=
  let rank := leAt e 9 1
  leAt e 8 1 < 11 && 1 ≤ rank && rank ≤ 6 && leAt e 34 8 ≤ b.length && leAt e 42 8 ≤ b.length && allZero (bytesAt e 50 14)

/-- A model image in the form of Table 7-10, its kernels of Table 7-7. -/
def modelValid (b : Bytes) : Bool :=
  let n := leAt b 0x0E 2
  let ks := modelKernels b n (leAt b 0x18 8)
  let t := leAt b 0x10 4
  let off := leAt b 0x20 8
  128 ≤ b.length && b.take 8 == ascii "FLWMODEL" && leAt b 8 2 == 1 &&
    (leAt b 0x0B 1 == 1 && 1 ≤ leAt b 0x0C 2 && leAt b 0x0C 2 ≤ 256 || leAt b 0x0B 1 == 2 && leAt b 0x0C 2 == 64) &&
    1 ≤ n && n ≤ 32 && leAt b 0x14 4 == 0 && leAt b 0x28 8 ≤ b.length && allZero (bytesAt b 0x60 32) &&
    ks.all kernelValid && leAt b 0x0A 1 == (ks.map fun k => leAt k 0x0A 1).foldl (· &&& ·) 3 &&
    off + 64 * t ≤ b.length && (List.range t).all fun i => tensorValid b (bytesAt b (off + 64 * i) 64)

/-- The bytes of kernel code a cluster holds. -/
def ClusterState.codeBytes (x : ClusterState) : Nat := (x.kernels.map (·.codeBytes)).foldl (· + ·) 0

/-- Places a kernel under the lowest free handle; none beyond 64 kernels or 1 MiB of code (R213). -/
def ClusterState.addKernel (x : ClusterState) (ctx : Nat) (b : Bytes) (model : Option Nat) : Option (ClusterState × Nat) :=
  match lowestFree 64 (x.kernels.map fun k => k.handle - 1) with
  | none => none
  | some i =>
    if 2 ^ 20 < x.codeBytes + leAt b 0x14 4 then none
    else
      let k : Kernel := ⟨i + 1, ctx, sha384 b, leAt b 0x0A 1, leAt b 0x14 4, leAt b 0x20 4, leAt b 0x10 4, model⟩
      some ({ x with kernels := x.kernels ++ [k] }, i + 1)

/-- KERNELS_LOADED of a cluster follows. -/
def State.kernelRegs (s : State) (c : Nat) : State := s.setN (Reg.kernel.kernelsLoaded c) (s.cs c).kernels.length

/-- The model registers follow the models (Table 7-16). -/
def State.modelRegs (s : State) : State :=
  let s := s.setN Reg.modelCfg.modelsLoaded s.comp.models.length
  let s := s.setN Reg.modelCfg.modelBytesUsed ((s.comp.models.map (·.bytes)).foldl (· + ·) 0)
  (List.range 64).foldl (fun s i =>
    match s.comp.models.find? fun m => m.slot == i with
    | some m => (((s.setB (Reg.model.modelDigest i) m.digest).setN (Reg.model.modelContext i) m.ctx).setN
        (Reg.model.modelBytes i) m.bytes).setN (Reg.model.modelClasses i) m.classes
    | none => (((s.setB (Reg.model.modelDigest i) (zeros 48)).setN (Reg.model.modelContext i) 0xFF).setN
        (Reg.model.modelBytes i) 0).setN (Reg.model.modelClasses i) 0) s

/-! ### Loads and unloads at the head -/

/-- KERNEL_LOAD (R213). -/
def State.doKernelLoad (s : State) (e : ComputeEntry) : State :=
  let b := s.bufRead e.desc.kernel 0 e.desc.items
  if !kernelValid b then s.computeEnds e 0x4611 0
  else match (s.cs e.desc.cluster).addKernel e.req.ctx b none with
    | none => s.computeEnds e 0x4604 0
    | some (x, h) =>
      ((s.putCs x).kernelRegs e.desc.cluster |>.measure e.req.ctx 2 (sha384 b)).computeEnds e 0x4600 h

/-- KERNEL_UNLOAD. -/
def State.doKernelUnload (s : State) (e : ComputeEntry) : State :=
  let x := s.cs e.desc.cluster
  ((s.putCs { x with kernels := x.kernels.filter fun k => k.handle != e.desc.kernel }).kernelRegs
    e.desc.cluster).computeEnds e 0x4600 0

/-- MODEL_LOAD (R220, R308). -/
def State.doModelLoad (s : State) (e : ComputeEntry) : State :=
  let c := e.desc.cluster
  let b := s.bufRead e.desc.kernel 0 e.desc.items
  let pool := workPool c
  let used := s.num Reg.modelCfg.modelBytesUsed
  let mine := (s.comp.models.filter fun m => m.ctx == e.req.ctx).length
  if !modelValid b then s.computeEnds e 0x4612 0
  else if s.num Reg.modelCfg.modelBytesMax < used + b.length ∨
      s.overReserve pool 4 (ceilDiv b.length (poolBlockBytes pool)) then s.computeEnds e 0x4616 0
  else match lowestFree 64 (s.comp.models.map (·.slot)) with
    | none => s.computeEnds e 0x4604 0
    | some i =>
      let ks := modelKernels b (leAt b 0x0E 2) (leAt b 0x18 8)
      let x := ks.foldl (fun (x : Option ClusterState) k =>
        x.bind fun y => (y.addKernel e.req.ctx k (some i)).map (·.1)) (some (s.cs c))
      match x with
      | none => s.computeEnds e 0x4604 0
      | some x =>
        if 16 ≤ mine then s.computeEnds e 0x4604 0
        else match s.unitAlloc 0 (some e.req.ctx) pool b.length with
          | none => s.computeEnds e 0x4616 0
          | some (h, s) =>
            let s := (s.bufWrite h 0 b).putCs x
            let m : Model := ⟨i, e.req.ctx, c, sha384 b, b.length, leAt b 0x0A 1, h⟩
            let s := s.putComp { s.comp with models := s.comp.models ++ [m] }
            (((s.kernelRegs c).modelRegs).measure e.req.ctx 3 m.digest).computeEnds e 0x4600 0

/-- The model that a descriptor names: bytes [7:0] of its digest, resident in the context. -/
def State.namedModel (s : State) (ctx tag : Nat) : Option Model :=
  s.comp.models.find? fun m => m.ctx == ctx && leNat (m.digest.take 8) == tag

/-- A model is removed with its kernels and memory. -/
def State.dropModel (s : State) (m : Model) : State :=
  let x := s.cs m.cluster
  let s := s.putCs { x with kernels := x.kernels.filter fun k => k.model != some m.slot }
  let s := s.putComp { s.comp with models := s.comp.models.filter fun n => n.slot != m.slot }
  ((s.unitFree m.mem).kernelRegs m.cluster).modelRegs

/-! ### The head of the queue (R215) -/

/-- The reproducibility class of the schedule or grading pass that a context's launches serve. -/
def State.servedClass (s : State) (ctx : Nat) : Option Nat :=
  if s.gradesFor ctx then some (leAt (s.blob Reg.grade.gradeFile) 0x0A 1)
  else if s.started ∧ ctx = s.num Reg.secCtl.schedContext then s.sched.active.map (·.hdr.reproClass)
  else none

/-- Reserved values of a compute descriptor (Table 7-8). -/
def computeReservedOk (k : ComputeKind) (d : ComputeDesc) : Bool :=
  d.reserved == 0 && match k with
    | .launch => d.options < 4 && d.coreMask != 0 && d.coreMask < 256 && (d.reproClass == 1 || d.reproClass == 2) &&
        1 ≤ d.items && d.items ≤ 2 ^ 24 && (d.reproClass == 2 || d.partition_ == 0)
    | _ => true

/-- The kernel that a descriptor names, loaded in its context. -/
def State.kernel? (s : State) (c ctx h : Nat) : Option Kernel :=
  (s.cs c).kernels.find? fun k => k.handle == h && k.ctx == ctx

/-- The checks of R215, in order. -/
def State.computeCheck (s : State) (e : ComputeEntry) : Option Nat :=
  let d := e.desc
  if !s.hasCluster d.cluster then some 0x4603
  else if s.resident d.cluster ≠ some e.req.ctx ∨ !computeReservedOk e.kind d then some 0x4602
  else match e.kind with
    | .kernelUnload => if (s.kernel? d.cluster e.req.ctx d.kernel).isNone then some 0x4613 else none
    | .modelUnload => if (s.namedModel e.req.ctx d.model).isNone then some 0x4613 else none
    | .kernelLoad | .modelLoad => if s.inputOk e.req d.kernel d.items then none else some 0x4602
    | .launch =>
      match s.kernel? d.cluster e.req.ctx d.kernel with
      | none => some 0x4613
      | some k =>
        if d.model ≠ 0 ∧ (s.namedModel e.req.ctx d.model).isNone then some 0x4613
        else if !k.classes.testBit (d.reproClass - 1) || (s.servedClass e.req.ctx).any fun r => r != d.reproClass then
          some 0x4610
        else none

/-- Starts the next item of each core of the launch that is idle, unless the cluster has stopped for a switch. -/
def State.startItems (s : State) (c : Nat) : State :=
  let x := s.cs c
  match x.launch with
  | none => s
  | some l =>
    if x.stopped then s
    else l.next.foldl (fun s p =>
      let k := s.core c p.1
      if k.item.isNone && p.2 < l.entry.desc.items then
        s.putCore c { k with item := some p.2, flags := ComputeFlags.none, fault := none } else s) s

/-- The head of a compute queue is checked and its items start, or it completes. -/
def State.computeHead (s : State) (c : Nat) : State :=
  let x := s.cs c
  match x.queue with
  | [] => s
  | e :: q =>
    if x.launch.isSome || x.stopped then s
    else
      let s := s.putCs { x with queue := q }
      match s.computeCheck e with
      | some code => s.computeEnds e code 0
      | none => match e.kind with
        | .kernelLoad => s.doKernelLoad e
        | .kernelUnload => s.doKernelUnload e
        | .modelLoad => s.doModelLoad e
        | .modelUnload => match s.namedModel e.req.ctx e.desc.model with
          | some m => (s.dropModel m).computeEnds e 0x4600 0
          | none => s
        | .launch =>
          let cores := bitsOf 8 e.desc.coreMask
          let l : Launch := ⟨e, cores.zip (List.range cores.length), 0, 0, none, ComputeFlags.none, 0⟩
          (s.putCs { s.cs c with launch := some l }).startItems c

def execComputeDescriptorHead (cluster : Nat) (s : State) : Host.Outcome State Fault Refusal :=
  live s fun s => s.computeHead cluster

/-! ### Grading a sample (R223, R224) -/

/-- Filter `i` of a grading pass file (Table 7-12). -/
def filterEntry (file : Bytes) (i : Nat) : Bytes := bytesAt file (256 + 64 * i) 64

/-- The 64-bit signature of a model's outputs: bit i where output i is greater than zero. -/
def signatureBits (out : List Nat) : Nat :=
  ((List.range 64).filter fun i => (FVal.fin false 0 0).lt (fmtFp32.decode (out.getD i 0))).foldl setBit 0

/-- What a SCORE or GRAMMAR filter makes of a sample: the entry that rejects it, if it does. -/
def filterRejects (f : Bytes) (i sample : Nat) (o : FilterOutput) : Option SlashEntry :=
  if leAt f 0 1 = 1 then
    let b := o.outputs.getD (leAt f 0x38 2) 0
    let v := fmtFp32.decode b
    let t := fmtFp32.decode (leAt f 0x3C 4)
    match v with
    | .nan => some ⟨sample, 6, i, 0xFF, b, i⟩
    | v => if (if leAt f 1 1 = 0 then v.lt t else t.lt v) then some ⟨sample, leAt f 2 2, i, 0xFF, b, i⟩ else none
  else if leAt f 0 1 = 3 then
    if o.verdict = 0 then none
    else some ⟨sample, leAt f 2 2, i, 0xFF, 0, o.verdict % 256 + 2 ^ 32 * (o.verdictOffset % 2 ^ 32)⟩
  else none

/-- Steps 2 and 3 of R223 for one sample: the first rejection in file order; otherwise its signatures wait for the
near-duplicate search, or it passes. -/
def State.gradeSample (s : State) (ctx : Nat) (g : SampleGrade) : State :=
  if !s.gradesFor ctx || s.grade.graded.contains g.sample then s
  else
    let file := s.blob Reg.grade.gradeFile
    let n := leAt file 0x0C 2
    let mine := (List.range n).filter fun i => (leAt (filterEntry file i) 4 2).testBit g.mediaType
    let out := fun (i : Nat) => (g.filters.find? fun o => o.filter == i).getD ⟨i, [], 0, 0⟩
    match mine.findSome? fun i => filterRejects (filterEntry file i) i g.sample (out i) with
    | some e => s.slash e
    | none =>
      let dups := mine.filter fun i => leAt (filterEntry file i) 0 1 == 2
      if dups.isEmpty then s.pass g.sample
      else { s with grade := { s.grade with
        sigs := s.grade.sigs ++ dups.map fun i => (⟨i, none, g.sample, signatureBits (out i).outputs⟩ : Signature) } }

/-! ### Work items (R217, R218) -/

/-- The result record of a launch (Table 7-9). -/
def Launch.record (l : Launch) (code : Nat) : Bytes :=
  let f := l.firstFault.getD (0xFFFFFFFF, 0, 0, 0)
  leBytes 2 code ++
    leBytes 2 (l.flags.accLimit.toNat + 2 * l.flags.nonfinite.toNat + 4 * l.flags.saturated.toNat +
      8 * (l.faulted != 0).toNat) ++
    leBytes 4 l.done ++ leBytes 4 l.faulted ++ leBytes 4 f.1 ++ leBytes 2 f.2.1 ++ zeros 2 ++ leBytes 4 f.2.2.1 ++
    leBytes 8 f.2.2.2 ++ leBytes 8 l.cycles ++ zeros 24

/-- Every item has ended: the result record is written and the launch counted. -/
def State.launchEnds (s : State) (c : Nat) (l : Launch) : State :=
  let code := if l.faulted = 0 then 0x4600 else 0x4614
  let s := s.putCs { s.cs c with launch := none }
  let s := s.emit (.record l.entry.desc.resultAddr (l.record code))
  let s := (((s.bump Reg.prep.launches).bumpIf l.flags.accLimit Reg.prep.accLimits).bumpIf l.flags.nonfinite
    Reg.prep.nonfinites).bumpIf l.flags.saturated Reg.prep.saturations
  if l.faulted = 0 then s.ends code else s.refuse code c l.entry.req.ctx

/-- The launch after one of its items ended. -/
def Launch.ended (l : Launch) (core item : Nat) (fault : Option (Nat × Nat)) (sample cycles : Nat) (f : ComputeFlags) :
    Launch :=
  let step := (bitsOf 8 l.entry.desc.coreMask).length
  let first := match fault, l.firstFault with
    | none, x => x
    | some (code, pc), none => some (item, code, pc, sample)
    | some (code, pc), some x => if item < x.1 then some (item, code, pc, sample) else some x
  { l with
    next := l.next.map fun p => if p.1 = core then (core, item + step) else p
    done := l.done + fault.isNone.toNat, faulted := l.faulted + fault.isSome.toNat, firstFault := first
    flags := l.flags.or f, cycles := l.cycles + cycles }

/-- An item ends (R216 to R218). -/
def State.itemEnds (s : State) (c i : Nat) (e : ItemEnd) : State :=
  let x := s.cs c
  let k := s.core c i
  match x.launch, k.item with
  | some l, some n =>
    let ctx := l.entry.req.ctx
    let fault := match k.fault with
      | some f => some f
      | none => if 1 ≤ e.fault ∧ e.fault ≤ 4 then some (e.fault, e.pc) else none
    let sample := s.itemSample l.entry n
    let l := l.ended i n fault sample e.cycles k.flags
    let s := s.putCs ({ x with launch := some l }.putCore { k with item := none, fault := none, flags := ComputeFlags.none })
    let s := (s.bump Reg.prep.items).bumpIf fault.isSome Reg.prep.itemFaults
    let s := if ctx < 64 then (s.bump (Reg.ctx.itemsQ ctx)).add (Reg.ctx.engineCyclesQ ctx) e.cycles else s
    let s := match fault with
      | some (code, _) =>
        let s := if s.mayAccess l.entry.req e.outBuf e.outOff e.outLen then s.bufWrite e.outBuf e.outOff (zeros e.outLen)
          else s
        if l.entry.desc.sampleTable = 0 then s else s.refuseSample ctx sample 5 e.slot code
      | none => match e.grade with
        | some g => s.gradeSample ctx g
        | none => s
    if l.done + l.faulted = l.entry.desc.items then s.launchEnds c l else s.startItems c
  | _, _ => s

def execWorkItemEnd (cluster core : Nat) (item : ItemEnd) (s : State) : Host.Outcome State Fault Refusal :=
  live s fun s => s.itemEnds cluster core item

def execItemBudget (cluster core pc : Nat) (s : State) : Host.Outcome State Fault Refusal :=
  live s fun s => s.putCore cluster ((s.core cluster core).faults 4 pc)

/-! ### Context switches and destruction (R219, R495, R498) -/

/-- No item is in progress on a cluster. -/
def State.itemsEnded (s : State) (c : Nat) : Bool := (s.cs c).cores.all fun k => k.item.isNone

/-- A cluster's compute state is saved with its context, and scrubbed. -/
def State.compLeave (s : State) (c ctx : Nat) : State :=
  let x := { s.cs c with stopped := false }
  (s.putComp { s.comp with
    clusters := s.comp.clusters.filter fun y => y.cluster != c
    saved := (s.comp.saved.filter fun p => !(p.1 == ctx && p.2.cluster == c)) ++ [(ctx, x)] }).kernelRegs c

/-- The incoming context's compute state is restored. -/
def State.compReturn (s : State) (c ctx : Nat) : State :=
  match s.comp.saved.find? fun p => p.1 == ctx && p.2.cluster == c with
  | none => (s.putCs { ClusterState.empty c with queue := (s.cs c).queue }).kernelRegs c
  | some p =>
    let s := s.putComp { s.comp with saved := s.comp.saved.filter fun q => !(q.1 == ctx && q.2.cluster == c) }
    ((s.putCs { p.2 with queue := p.2.queue ++ (s.cs c).queue }).kernelRegs c).startItems c

/-- A destroyed context's descriptors, kernels and models go. -/
def State.compDestroy (s : State) (ctx : Nat) : State :=
  let s := (s.comp.models.filter fun m => m.ctx == ctx).foldl (fun s m => s.dropModel m) s
  let s := s.putComp { s.comp with
    saved := s.comp.saved.filter fun p => p.1 != ctx
    clusters := s.comp.clusters.map fun x => { x with
      queue := x.queue.filter fun e => e.req.ctx != ctx
      kernels := x.kernels.filter fun k => k.ctx != ctx } }
  (List.range 16).foldl (fun s c => if s.hasCluster c then s.kernelRegs c else s) s

end Sys2Proof.Machine
end

