-- ==== Sys2Proof/Machine/Records.lean ====
section
/-! DEFINITION. Records that outlive a reset: persisted settings (R556, R557), the log's mirror and its merge (R571,
R573), the heartwood record (R576 to R578) and the calendar (R579, R580). -/
namespace Sys2Proof.Machine

/-! ### Persisted settings (R556, R557, R512) -/

/-- An entry's place in a list of pairs takes a value. -/
def putPair {α : Type} (l : List (Nat × α)) (k : Nat) (v : α) : List (Nat × α) :=
  (l.filter fun p => p.1 != k) ++ [(k, v)]

/-- Whether an entry holds bytes. -/
def keyIsBytes (k : Nat) : Bool :=
  match odFindGroup (k / 256) with
  | none => false
  | some g => match g.row (k % 256) with
    | none => false
    | some r => r.ty.isBytes

/-- The values of a store as they are loaded: they count no change (R602). A write not yet committed stands. -/
def OdFile.load (v : Variant) (st : Settings) (od : OdFile) : OdFile :=
  { od with
    nums := (st.nums.filter fun p => !st.pendingKeys.contains p.1).foldl
      (fun l p => Sparse.set (odDflt v) l p.1 p.2) od.nums
    blobs := (st.blobs.filter fun p => !st.pendingKeys.contains p.1).foldl
      (fun l p => Sparse.set (odDfltBytes v) l p.1 p.2) od.blobs }

/-- An entry's value is committed to a store. -/
def State.committed (s : State) (st : Settings) (k : Nat) : Settings :=
  let rest := st.pendingKeys.filter fun j => j != k
  if keyIsBytes k then { st with blobs := putPair st.blobs k (s.blob k), pendingKeys := rest }
  else { st with nums := putPair st.nums k (s.num k), pendingKeys := rest }

/-- LOOKOUT_SECRET and OPERATOR_KEYS are sealed (R512). -/
def sealedKey (k : Nat) : Bool := k == Reg.lkCfg.lookoutSecret || k == Reg.sess.operatorKeys

/-- Sends the answers that waited for the commit of an entry (R557). -/
def State.sendHeld (s : State) (k : Nat) : State :=
  let l := s.mgmt.heldAnswers.filter fun h => h.key == k
  let s := l.foldl (fun (s : State) h => s.reply h.path h.addr h.port h.session h.reqId h.counter h.status true []) s
  { s with mgmt := { s.mgmt with heldAnswers := s.mgmt.heldAnswers.filter fun h => h.key != k } }

/-- A store commits one written entry (R557). LOG_ACKED goes to the log's mirror (R573). -/
def State.persistCommit (s : State) (k : Nat) : State :=
  if s.nv.boot.pendingKeys.contains k then
    { s with nv := { s.nv with boot := s.committed s.nv.boot k } }.sendHeld k
  else if s.nv.yard.pendingKeys.contains k && s.yardUsable then
    let y := s.committed s.nv.yard k
    let s := { s with nv := { s.nv with yard := y } }
    let s := if k = Reg.log.logAcked then { s with nv := { s.nv with log := { s.nv.log with acked := s.log.acked } } } else s
    let s := if sealedKey k then { s with nv := { s.nv with sealCounter := s.nv.sealCounter + 1, sealedOk := true } } else s
    s.sendHeld k
  else s

def execPersistCommit (key : Nat) (s : State) : Host.Outcome State Fault Refusal := act s fun s => s.persistCommit key

/-- The Yard's settings volume is loaded (R556) and its sealed values are opened (R512). -/
def State.loadYardSettings (s : State) : State :=
  let y := s.nv.yard
  let sealed := y.blobs.any fun p => sealedKey p.1
  let lost := sealed && !s.nv.sealedOk
  let y : Settings := if lost then { y with blobs := y.blobs.filter fun p => !sealedKey p.1 } else y
  let s := { s with od := s.od.load s.dev.variant y, nv := { s.nv with yard := y, sealedOk := true } }
  let s := s.setN Reg.sec.sealedState (if lost then 2 else if sealed then 0 else 1)
  if lost then s.raise 0x2681 0xFF 0xFF [] else s

/-! ### The log's mirror (R571 to R573) -/

/-- Every entry is in the mirror. -/
def ErrorLog.allMirrored (l : ErrorLog) : ErrorLog :=
  { l with entries := l.entries.map fun (e : LogEntry) => { e with mirrored := true } }

/-- The mirror takes the entries held. -/
def State.mirrorLog (s : State) : State :=
  let l := s.log.allMirrored
  { s with log := l, nv := { s.nv with log := { s.nv.log with written := l.written, entries := l.entries } } }

/-- LOG_MIRROR_WRITE: new and changed entries are written through, where a mirror is up (R571). -/
def State.logMirrorWrite (s : State) : State := if s.log.merged && s.yardUsable then s.mirrorLog else s

def execLogMirrorWrite (s : State) : Host.Outcome State Fault Refusal := act s State.logMirrorWrite

/-- The log changed. -/
def State.touchLog (s : State) : State :=
  ((s.touch Reg.log.logWritten).touch Reg.log.logOccupancy).touch Reg.log.logRing

/-- A held entry joins the merged log: it takes the next SEQ, or is lost to a STORM entry where the log is full (R572). -/
def State.mergeEntry (s : State) (e : LogEntry) : State :=
  if s.log.occupancy ≥ 1023 then
    let t := s.storm e.source e.code e.firstDetail
    let more := e.count - 1
    let f := fun (x : LogEntry) => { x with count := sat 32 (x.count + more) }
    { t with log := { t.log with entries := updNewest (fun x => x.storm) f t.log.entries } }.add Reg.log.logOverflow more
  else
    { s with log := { s.log with
      entries := keepLog (s.log.entries ++ [{ e with seq := s.log.written }]), written := wrap 32 (s.log.written + 1) } }

/-- The Yard is READY or READ_ONLY: the mirror's unacknowledged entries are restored, and the entries held take SEQ
numbers that continue it (R571, R573). -/
def State.mergeLog (s : State) : State :=
  if s.log.merged then s
  else
    let held := s.log.entries
    let m := s.nv.log
    let old := (m.entries.filter fun e => m.acked ≤ e.seq).map fun (e : LogEntry) =>
      { e with previousBoot := true, mirrored := true, closed := true }
    let s := { s with log := ⟨keepLog old, m.written, m.acked, true⟩ }
    (held.foldl State.mergeEntry s).mirrorLog.touchLog

/-- Start-up stops at YARD_HALTED: the held entries take SEQ from 0 and the log runs in SRAM only (R571). -/
def State.haltLog (s : State) : State :=
  if s.log.merged then s
  else
    let held := s.log.entries
    (held.foldl State.mergeEntry { s with log := ⟨[], 0, 0, true⟩ }).touchLog

/-- A FORMAT ends with an empty mirror that takes the entries with the numbers they hold (R571), and with the settings
in force in a new settings volume: those never loaded are gone with the old one. -/
def State.formatRecords (s : State) (loaded : Bool) : State :=
  let s := if loaded then s else { s with nv := { s.nv with yard := { s.nv.yard with nums := [], blobs := [] } } }
  let s := { s with nv := { s.nv with log := ⟨0, s.log.acked, []⟩ } }
  s.haltLog.mirrorLog

/-! ### The heartwood record (R576 to R580) -/

/-- Its additive counters with their widths. -/
def hwCounters : List (Nat × Nat) :=
  [(Reg.hw.powerOnS, 64), (Reg.hw.powerCycles, 32), (Reg.hw.resetsPerst, 32), (Reg.hw.resetsCmd, 32),
   (Reg.hw.resetsWatchdog, 32), (Reg.hw.trips, 32), (Reg.hw.unsafeShutdowns, 32), (Reg.hw.pllUnlocks, 32),
   (Reg.hw.nandBytesWritten, 64), (Reg.hw.nandBytesRead, 64), (Reg.hw.erases, 64), (Reg.hw.boltsRetired, 32),
   (Reg.hw.secondsWarm, 64), (Reg.hw.secondsHot, 64), (Reg.hw.energyWh, 64), (Reg.cal.calSteps, 32)]

/-- The entries that the record carries. -/
def hwKeys : List Nat :=
  hwCounters.map (·.1) ++
    [Reg.hw.eraseCountPeak, Reg.hw.tjPeakDc, Reg.cal.lastTai, Reg.cal.firstLockTai, Reg.cal.utcOffsetS]

/-- What a copy holds for an entry. -/
def HwCopy.val (c : HwCopy) (k : Nat) : Nat := ((c.nums.find? fun p => p.1 == k).map (·.2)).getD 0

/-- The copy to take: valid, this device's, with the highest UPDATE_SEQ. -/
def State.bestCopy (s : State) : Option HwCopy :=
  let l := [s.nv.hwA, s.nv.hwB, s.nv.hwMirror].filter fun c => c.valid && c.uid == s.dev.uid
  l.foldl (fun (a : Option HwCopy) c => match a with
    | none => some c
    | some b => if b.seq < c.seq then some c else some b) none

/-- The record is updated: LAST_TAI is set, UPDATE_SEQ rises, and the older boot-store copy and the mirror are written
(R576, R577, R579). -/
def State.heartUpdate (s : State) : State :=
  let s := s.setN Reg.cal.lastTai s.calendarTai
  let s := s.setN Reg.hw.updateSeq (sat 64 (s.num Reg.hw.updateSeq + 1))
  let c : HwCopy := ⟨s.num Reg.hw.updateSeq, s.dev.uid, true, hwKeys.map fun k => (k, s.num k)⟩
  let inA := !s.nv.hwA.valid || (s.nv.hwB.valid && s.nv.hwA.seq ≤ s.nv.hwB.seq)
  let nv := if inA then { s.nv with hwA := c } else { s.nv with hwB := c }
  { s with nv := if s.yardUsable then { nv with hwMirror := c } else nv, mgmt := { s.mgmt with hwAt := s.now } }

/-- HEARTWOOD_UPDATE: HW_INTERVAL_S after the last update (R577). -/
def State.heartInterval (s : State) : State :=
  if s.mgmt.hwLoaded && decide (s.mgmt.hwAt + s.num Reg.hw.hwIntervalS * 100000000 ≤ s.now) then s.heartUpdate else s

def execHeartwoodUpdate (s : State) : Host.Outcome State Fault Refusal := act s State.heartInterval

/-- The record notes the first lock since reset (R580). -/
def State.calendarNote (s : State) : State :=
  let last := s.num Reg.cal.lastTai
  let tai := s.taiNow
  let s := if s.num Reg.cal.firstLockTai = 0 then s.setN Reg.cal.firstLockTai tai else s
  let s := if tai + 1000000000 < last then
      (s.raise 0x1380 0xFF 0xFF (leBytes 8 (last - tai))).setN Reg.cal.calSteps (sat 32 (s.num Reg.cal.calSteps + 1)) else s
  { s with mgmt := { s.mgmt with calDone := true } }.heartUpdate

/-- RC_STATE first reaches LOCKED after a reset (R580). -/
def State.calendarLock (s : State) : State :=
  if s.mgmt.lockedSinceReset then s
  else
    let s := { s with mgmt := { s.mgmt with lockedSinceReset := true, everLocked := true } }
    if s.mgmt.hwLoaded then s.calendarNote else s

/-- RC_STATE leaves LOCKED: the calendar continues on the SLOW clock (R579). -/
def State.calendarLeave (s : State) : State :=
  { s with mgmt := { s.mgmt with calBase := s.taiNow, calBaseAt := s.now } }

/-- The counter of the reset that LAST_RESET names (R577). -/
def resetCounter (last : Nat) : Nat :=
  match last with
  | 1 => Reg.hw.powerCycles
  | 2 => Reg.hw.resetsPerst
  | 3 => Reg.hw.resetsCmd
  | _ => Reg.hw.resetsWatchdog

/-- The larger of two peaks; TJ_PEAK_DC is signed. -/
def hwPeak (k a b : Nat) : Nat := if k = Reg.hw.tjPeakDc then (if i32Val a < i32Val b then b else a) else max a b

/-- The record is loaded in START_STATE YARD (R576, R578): what was counted since the reset adds to it. -/
def State.heartLoad (s : State) : State :=
  if s.mgmt.hwLoaded then s
  else
    let s := match s.bestCopy with
      | none => (s.setN Reg.hw.hwState 1).raise 0x1381 0xFF 0xFF []
      | some c =>
        let s := hwCounters.foldl (fun (s : State) (p : Nat × Nat) => s.setN p.1 (sat p.2 (s.num p.1 + c.val p.1))) s
        let s := [Reg.hw.eraseCountPeak, Reg.hw.tjPeakDc].foldl
          (fun (s : State) k => s.setN k (hwPeak k (s.num k) (c.val k))) s
        let s := s.setN Reg.cal.lastTai (c.val Reg.cal.lastTai)
        let s := s.setN Reg.cal.firstLockTai (c.val Reg.cal.firstLockTai)
        let s := if s.num Reg.cal.utcOffsetS = 0 then s.setN Reg.cal.utcOffsetS (c.val Reg.cal.utcOffsetS) else s
        s.setN Reg.hw.updateSeq c.seq
    let k := resetCounter (s.num Reg.start.lastReset)
    let s := s.setN k (sat 32 (s.num k + 1))
    let s := { s with mgmt := { s.mgmt with
      hwLoaded := true, hwAt := s.now, calLoadedTai := s.num Reg.cal.lastTai, calLoadedAt := s.now
      everLocked := s.mgmt.everLocked || s.num Reg.cal.firstLockTai != 0 } }
    if s.mgmt.lockedSinceReset then s.calendarNote else s

/-! ### Log windows, PTP announcements and management links -/

/-- The window of an entry closes with COUNT above 1: the entry is sent again with UPDATE set (R575). -/
def State.logWindowClose (s : State) (q : Nat) : State :=
  match s.log.entries.find? fun e => s.log.merged && e.seq == q && !e.closed && decide (e.windowEnd ≤ s.now) with
  | none => s
  | some e =>
    let close := fun (x : LogEntry) => if x.seq = q then { x with closed := true } else x
    let s := { s with log := { s.log with entries := s.log.entries.map close } }
    if e.count ≤ 1 then s
    else { s with mgmt := { s.mgmt with sessions := s.mgmt.sessions.map fun (x : Session) => x.offer { e with update := true } } }

def execLogWindowClose (seq : Nat) (s : State) : Host.Outcome State Fault Refusal := act s fun s => s.logWindowClose seq

/-- An Announce message: the default best master clock algorithm's verdict is the command's, and UTC_OFFSET_S takes the
selected grandmaster's currentUtcOffset (R82, R580). -/
def State.announced (s : State) (id : Nat) (better : Bool) (utc : Int) : State :=
  if !s.flag Reg.ptp.ptpEnable then s
  else
    let take := better || s.rc.gmIdentity == 0
    let s := if take then { s with rc := { s.rc with gmIdentity := id } }.setN Reg.ptp.gmIdentity id else s
    if s.rc.gmIdentity = id then s.setN Reg.cal.utcOffsetS (i32Bits utc) else s

def execPtpAnnounce (clockIdentity : Nat) (better : Bool) (utcOffset : Int) (s : State) : Host.Outcome State Fault Refusal :=
  act s fun s => s.announced clockIdentity better utcOffset

/-- A management link comes up or goes down (MGMT_LINKS). -/
def execMgmtLinkChange (port : Nat) (up : Bool) (s : State) : Host.Outcome State Fault Refusal :=
  act s fun s =>
    if port < 2 then
      let v := s.num Reg.mgmt.mgmtLinks
      s.setN Reg.mgmt.mgmtLinks (if up then setBit v port else clearBit v port)
    else s

end Sys2Proof.Machine
end

