-- ==== Sys2Proof/Machine/YardOps.lean ====
section
/-! DEFINITION. The shared operations of the Yard: geometry (R259 to R261), guards (R284), bolts and their choice (R264 to
R276), the media journal (R293, R294), the maps (R272), and the acceptance of a sector (R273, R282). -/
namespace Sys2Proof.Machine

/-! ### Codes and geometry -/

/-- A heartwood count of `w` bits grows; it saturates (R577). -/
def State.hwAdd (s : State) (w k n : Nat) : State := s.setN k (sat w (s.num k + n))

/-- A bolt state's code (Table 9-3). -/
def BoltState.code : BoltState → Nat
  | .freeUnknown => 0 | .erased => 1 | .openData => 2 | .fullData => 3 | .openLog => 4 | .fullLog => 5
  | .released => 6 | .system => 7 | .retired => 8

/-- The fields of a bolt index. -/
def boltChannel (i : Nat) : Nat := i / 2 ^ 27
def boltLun (i : Nat) : Nat := i / 2 ^ 21 % 64
def boltBlock (i : Nat) : Nat := i % 2 ^ 21

/-- The index of a bolt. -/
def boltIndex (channel lun block : Nat) : Nat := channel * 2 ^ 27 + lun * 2 ^ 21 + block

/-- Sectors of a wordline of a data bolt: b stripes of every plane (R261). -/
def State.wlSectors (s : State) : Nat := s.num Reg.geom.cellBits * s.num Reg.geom.planes * 4

/-- C (R261). -/
def State.boltSectors (s : State) : Nat :=
  (s.num Reg.geom.pagesPerBlock - s.num Reg.geom.cellBits) * s.num Reg.geom.planes * 4

/-- Pages of a bolt in SLC mode behind its blaze page. -/
def State.slcPages (s : State) : Nat :=
  (s.num Reg.geom.pagesPerBlock / max 1 (s.num Reg.geom.cellBits) - 1) * s.num Reg.geom.planes

/-- The LSA of a sector (Table 9-2). -/
def lsaOf (lbn k : Nat) : Nat := lbn * 65536 + k

/-- LBNs of a volume of `n` sectors. -/
def State.lbnsFor (s : State) (n : Nat) : Nat := ceilDiv n s.boltSectors

/-- LBNs of a shard's range. -/
def State.shardLbns (s : State) : Nat := ceilDiv 4294967296 (4096 * s.boltSectors)

/-! ### The 64-bit guard (R284) -/

/-- One bit of the guard's CRC, reflected. -/
def crc64Bit (c : Word64) : Word64 := if c.getLsbD 0 then (c >>> 1) ^^^ 0x9A6C9329AC4BC9B5#64 else c >>> 1

/-- One byte of the guard's CRC. -/
def crc64Byte (c : Word64) (b : Byte) : Word64 :=
  let c := c ^^^ b.zeroExtend 64
  crc64Bit (crc64Bit (crc64Bit (crc64Bit (crc64Bit (crc64Bit (crc64Bit (crc64Bit c)))))))

/-- The 64b guard of a sector's data. -/
def guard64 (data : Bytes) : Nat := (data.foldl crc64Byte (BitVec.allOnes 64) ^^^ BitVec.allOnes 64).toNat

/-- The tuple that the Yard gives a shard's sector (R284). -/
def shardTuple (shard lsa : Nat) (data : Bytes) : PiTuple := ⟨guard64 data, shard % 65536, lsa % 2 ^ 48⟩

/-- What a discarded or never-written sector reads as (R283). -/
def zeroSector : Bytes := zeros 4096
def zeroTuple : PiTuple := ⟨guard64 zeroSector, 0xFFFF, 0xFFFFFFFFFFFF⟩

/-! ### Bolts -/

def State.putYard (s : State) (y : Yard) : State := { s with yard := y }

def State.bolt? (s : State) (i : Nat) : Option Bolt := s.yard.bolts.find? fun b => b.idx == i

/-- Replaces a bolt. -/
def State.putBolt (s : State) (b : Bolt) : State :=
  s.putYard { s.yard with bolts := s.yard.bolts.map fun x => if x.idx = b.idx then b else x }

/-- Changes a bolt. -/
def State.modBolt (s : State) (i : Nat) (f : Bolt → Bolt) : State :=
  match s.bolt? i with
  | none => s
  | some b => s.putBolt (f b)

/-- Bolts in a state. -/
def State.boltsIn (s : State) (st : BoltState) : List Bolt := s.yard.bolts.filter fun b => b.state == st

/-- The count that a bolt's blaze shows, where it has a valid blaze (R266). -/
def Bolt.blazeCount (b : Bolt) (uid : Nat) : Option Nat :=
  match b.blaze with
  | [] => none
  | c :: l => if c.uid = uid ∧ l.all (fun d => { d with plane := c.plane } == c) then some c.count else none

/-- The count of a bolt's next erase (R267). -/
def Bolt.nextCount (b : Bolt) : Nat := (b.blaze.map (·.count)).foldl max b.count + 1

/-- Bolts that USER_BYTES reserves. -/
def State.userBolts (s : State) : Nat := ceilDiv (s.num Reg.geom.userBytes) (s.num Reg.geom.boltDataBytes)

/-- Spare bolts (R271). -/
def State.spareBolts (s : State) : Nat :=
  (s.yard.bolts.filter fun b => b.state != .retired && b.state != .system).length - s.yard.logBolts - s.userBolts

/-- The spare bolts fall below SPARE_LOW or SPARE_MIN (R271). -/
def State.spareCheck (s : State) : State :=
  let n := s.spareBolts
  let low := decide (n < s.num Reg.yardCfg.spareLow)
  let s1 := if low && !s.yard.belowLow then s.raise 0x3282 0xFF 0xFF (leBytes 4 n) else s
  let s1 := s1.putYard { s1.yard with belowLow := low }
  if n < s.num Reg.yardCfg.spareMin ∧ s1.num Reg.yard.yardState = 2 then (s1.setN Reg.yard.yardState 3).alert 8 else s1

/-- The registers that follow the Yard's state (Table 9-13). -/
def State.yardRegs (s : State) : State :=
  let s := (List.range 9).foldl (fun (s : State) i =>
    s.setN (Reg.bolts.boltsInState i) (s.yard.bolts.filter fun b => b.state.code == i).length) s
  let live := (s.yard.bolts.filter fun b => b.state != .retired).map (·.count)
  let s := s.setN Reg.bolts.eraseCountMax (live.foldl max 0)
  let s := s.setN Reg.bolts.eraseCountMin (match live with | [] => 0 | c :: l => l.foldl min c)
  let s := s.setN Reg.yard.yseq s.yard.yseq
  let s := s.setN Reg.shard.shardsOwned (s.yard.shards.filter (·.owner_)).length
  let s := s.setN Reg.shard.shardsPartner (s.yard.shards.filter fun d => !d.owner_).length
  let s := s.setN Reg.shard.shardsSingle (s.yard.shards.filter fun d => d.state == 4).length
  let s := s.setN Reg.shard.shardsOpen (s.yard.shards.filter fun d => d.state == 1 || d.state == 2).length
  s.setN Reg.shard.hostDataBytes (4096 * ((s.yard.volumes.filter fun v => v.kind == 1).map fun v =>
    ((s.yard.lbns.filter fun e => v.first ≤ e.lbn && e.lbn < v.first + v.count).map (·.written)).foldl (· + ·) 0 +
    (s.yard.logs.filter fun e => !e.zero && v.first ≤ e.lsa / 65536 && e.lsa / 65536 < v.first + v.count &&
      !(s.yard.lbns.any fun m => m.lbn == e.lsa / 65536 && decide (e.lsa % 65536 < m.written))).length).foldl (· + ·) 0)

/-! ### The media journal (R293, R294) -/

/-- Takes the next YSEQ. -/
def State.takeYseq (s : State) : Nat × State :=
  (s.yard.yseq, s.putYard { s.yard with yseq := wrap 64 (s.yard.yseq + 1) })

/-- Stages a record. -/
def State.yrec (s : State) (r : YRec) : State :=
  let y := s.yard
  s.putYard { y with staged := y.staged ++ [⟨y.yseq, r⟩], yseq := wrap 64 (y.yseq + 1) }

/-- Bytes of a record: its 16-byte header and its payload, a multiple of 8. -/
def YRec.size : YRec → Nat
  | .shardCreate _ => 112
  | .shardState _ => 88
  | .mapUpdate .. | .tagRewrite .. | .dataRepair .. => 40
  | .volume .. => 32
  | .boltOpen .. | .discardRange .. => 32
  | .cleanShutdown => 16
  | _ => 24

/-- Packs records into pages of 16,384 bytes with a 64-byte header and a 4-byte CRC: `n` bounds the records. -/
def packPages : List YEntry → Nat → List YEntry → List (List YEntry)
  | [], _, cur => if cur.isEmpty then [] else [cur]
  | e :: l, used, cur =>
    if used + e.rec_.size ≤ 16316 then packPages l (used + e.rec_.size) (cur ++ [e])
    else cur :: packPages l e.rec_.size [e]

/-- Numbers pages from `n`. -/
def numberPages : Nat → List (List YEntry) → List JPage
  | _, [] => []
  | n, p :: l => ⟨n, p⟩ :: numberPages (n + 1) l

/-- Commits every staged record. -/
def State.commitYard (s : State) : State :=
  let y := s.yard
  let ps := numberPages y.pageSeq (packPages y.staged 0 [])
  s.putYard { y with
    staged := [], pages := y.pages ++ ps, pageSeq := y.pageSeq + ps.length, pairUsed := y.pairUsed + ps.length,
    sinceCkpt := y.sinceCkpt + 16384 * ps.length }

/-- A record that frees a bolt is staged and not committed. -/
def YRec.frees (bolt : Nat) : YRec → Bool
  | .release b => b == bolt
  | .mapUpdate _ _ old _ => old == some bolt
  | .discardBolt _ | .shardDelete _ => true
  | _ => false

/-- The record that released a bolt, if any, is committed (R265 step 1). -/
def State.releaseCommitted (s : State) (bolt : Nat) : Bool := !s.yard.staged.any fun e => e.rec_.frees bolt

/-! ### Retiring, releasing and opening bolts -/

/-- RETIRE's causes (Table 9-10). -/
def causeErase : Nat := 1
def causeProgram : Nat := 2
def causeReads : Nat := 3
def causeFactory : Nat := 4
def causeLun : Nat := 5

/-- A bolt is retired (R269). -/
def State.retireBolt (s : State) (i cause : Nat) : State :=
  match s.bolt? i with
  | none => s
  | some b =>
    if b.state = .retired then s
    else
      let s := (s.putBolt { b with state := .retired, refresh := false }).yrec (.retire i cause)
      let s := if cause = causeErase then s.bump Reg.yardFault.eraseFails
        else if cause = causeProgram then s.bump Reg.yardFault.programFails else s
      (s.hwAdd 32 Reg.hw.boltsRetired 1).spareCheck

/-- A bolt holds no mapped sector any more. -/
def State.releaseBolt (s : State) (i : Nat) (record : Bool) : State :=
  let s := s.modBolt i fun b =>
    if b.state = .retired then b else { b with state := .released, refresh := false, lbn := 0, fold := false }
  if record then s.yrec (.release i) else s

/-- LUNs in service in the order in which R276 takes them: across channels, then within each channel. -/
def State.lunOrder (s : State) : List (Nat × Nat) :=
  (List.range 64).flatMap fun l => ((List.range 32).map fun c => (c, l)).filter fun p => s.yard.luns.contains p

/-- The ERASED bolt with the lowest erase count of a LUN. -/
def State.lowestErased (s : State) (p : Nat × Nat) : Option Bolt :=
  ((s.boltsIn .erased).filter fun b => boltChannel b.idx == p.1 && boltLun b.idx == p.2).foldl
    (fun (m : Option Bolt) b => match m with
      | none => some b
      | some c => if b.count < c.count then some b else m) none

/-- Takes an ERASED bolt whose blaze is valid and agrees with the table, of the next LUN in turn that has one and whose
channel is not `avoid`; others become FREE_UNKNOWN (R267, R276). `n` bounds the search. -/
def State.takeErased (s : State) (avoid : Option Nat) : Nat → Option (Bolt × State)
  | 0 => none
  | n + 1 =>
    let order := s.lunOrder
    let order := order.drop s.yard.turn ++ order.take s.yard.turn
    let order := order.filter fun p => some p.1 != avoid
    match (order.filterMap s.lowestErased).head? with
    | none => none
    | some b =>
      if b.blazeCount s.dev.uid = some b.count then
        let at_ := s.lunOrder.findIdx fun p => p.1 == boltChannel b.idx && p.2 == boltLun b.idx
        some (b, s.putYard { s.yard with turn := (at_ + 1) % max 1 s.lunOrder.length })
      else State.takeErased (s.putBolt { b with state := .freeUnknown }) avoid n

/-- Opens a given ERASED bolt. -/
def State.openAs (s : State) (b : Bolt) (p : Purpose) (lbn : Nat) : State :=
  let st := match p with
    | .data | .fold => BoltState.openData
    | .log => .openLog
    | .system => .system
  (s.putBolt { b with state := st, lbn, fold := p == .fold, openedAt := s.yard.yseq, place := 0, cells := [] }).yrec
    (.boltOpen b.idx p lbn)

/-- Opens a bolt for a purpose. -/
def State.openBolt (s : State) (p : Purpose) (lbn : Nat) (avoid : Option Nat := none) : Option (Nat × State) :=
  match s.takeErased avoid (s.yard.bolts.length + 1) with
  | none => none
  | some (b, s) => some (b.idx, s.openAs b p lbn)

/-! ### The maps (R272) -/

def State.lbn? (s : State) (l : Nat) : Option LbnEntry := s.yard.lbns.find? fun e => e.lbn == l

def insertLbn (e : LbnEntry) : List LbnEntry → List LbnEntry
  | [] => [e]
  | f :: l => if e.lbn < f.lbn then e :: f :: l else if e.lbn = f.lbn then e :: l else f :: insertLbn e l

def insertLog (e : LogEnt) : List LogEnt → List LogEnt
  | [] => [e]
  | f :: l => if e.lsa < f.lsa then e :: f :: l else if e.lsa = f.lsa then e :: l else f :: insertLog e l

def State.putLbn (s : State) (e : LbnEntry) : State := s.putYard { s.yard with lbns := insertLbn e s.yard.lbns }

def State.putLog (s : State) (e : LogEnt) : State := s.putYard { s.yard with logs := insertLog e s.yard.logs }

/-- The sector of an LSA that was accepted as number `q`: in the write buffer, or in a log bolt. -/
def State.logSector (s : State) (lsa q : Nat) : Option StoredSector :=
  let p := fun (x : StoredSector) => x.lsa == lsa && x.yseq == q
  match (s.yard.wb.map (·.sector)).find? p with
  | some x => some x
  | none => ((s.yard.bolts.filter fun b => b.state == .openLog || b.state == .fullLog).flatMap (·.cells)).find? p

/-- The log bolt that holds a sector. -/
def State.logBoltOf (s : State) (lsa q : Nat) : Option Nat :=
  let p := fun (x : StoredSector) => x.lsa == lsa && x.yseq == q
  match s.yard.wb.find? fun w => p w.sector with
  | some w => w.at_.map (·.1)
  | none => ((s.yard.bolts.filter fun b => (b.state == .openLog || b.state == .fullLog) && b.cells.any p).map (·.idx)).head?

/-- Sector `k` of a data bolt: programmed, or still in the write buffer. -/
def State.dataSector (s : State) (bolt k : Nat) : Option StoredSector :=
  match s.yard.wb.find? fun w => w.at_ == some (bolt, k) with
  | some w => some w.sector
  | none => match s.bolt? bolt with
    | none => none
    | some b => b.cells[k]?

/-- Where a read of an LSA finds its sector: the sector and its bolt, or none for zeros (R272). -/
def State.mapped (s : State) (lbn k : Nat) : Option (StoredSector × Option Nat) :=
  match s.yard.logs.find? fun e => e.lsa == lsaOf lbn k with
  | some e => if e.zero then none else (s.logSector e.lsa e.yseq).map fun x => (x, s.logBoltOf e.lsa e.yseq)
  | none => match s.lbn? lbn with
    | none => none
    | some e => if k < e.written then (s.dataSector e.bolt k).map fun x => (x, some e.bolt) else none

/-! ### Accepting a sector (R273) -/

/-- A bolt is closed: its successor state, journaled. -/
def State.closeBolt (s : State) (i : Nat) : State :=
  match s.bolt? i with
  | some b => match b.state with
    | .openData => (s.putBolt { b with state := .fullData }).yrec (.boltFull i)
    | .openLog => (s.putBolt { b with state := .fullLog }).yrec (.boltFull i)
    | _ => s
  | none => s

/-- One place of a bolt is taken; at C the bolt is full. -/
def State.takePlace (s : State) (b : Bolt) : State :=
  let s1 := s.putBolt { b with place := b.place + 1 }
  if b.place + 1 = s.boltSectors then s1.closeBolt b.idx else s1

/-- Log bolts open or full. -/
def State.logPool (s : State) : Nat := (s.boltsIn .openLog).length + (s.boltsIn .fullLog).length

/-- How many log bolts more can be opened (R274). -/
def State.logRoom (s : State) : Nat := min (s.yard.logBolts - s.logPool) (s.boltsIn .erased).length

/-- The bolt and place that the log path takes, where a log bolt is open or can be opened. -/
def State.logPlace (s : State) : Option (Nat × Nat) × State :=
  match s.boltsIn .openLog with
  | b :: _ => (some (b.idx, b.place), s.takePlace b)
  | [] =>
    if s.yard.logBolts ≤ s.logPool then (none, s)
    else match s.openBolt .log 0 with
      | none => (none, s)
      | some (i, s) => match s.bolt? i with
        | none => (none, s)
        | some b => (some (i, 0), s.takePlace b)

def State.pushWb (s : State) (w : WbSector) : State := s.putYard { s.yard with wb := s.yard.wb ++ [w] }

/-- A sector takes the log path. -/
def State.logPath (s : State) (lsa : Nat) (data : Bytes) (tuple : PiTuple) : State :=
  let (q, s) := s.takeYseq
  let (at_, s) := s.logPlace
  (s.pushWb ⟨at_, ⟨2, lsa, q, data, tuple⟩⟩).putLog ⟨lsa, q, false⟩

/-- A sector takes its place of a data bolt. -/
def State.seqPath (s : State) (e : LbnEntry) (b : Bolt) (data : Bytes) (tuple : PiTuple) : State :=
  let (q, s) := s.takeYseq
  let s := (s.takePlace b).pushWb ⟨some (b.idx, b.place), ⟨1, lsaOf e.lbn e.written, q, data, tuple⟩⟩
  let s := s.putLbn { e with written := e.written + 1 }
  -- an entry that the log map still holds for the sector would hide it
  s.putYard { s.yard with logs := s.yard.logs.filter fun x => x.lsa != lsaOf e.lbn e.written }

/-- The LBN is being folded: its writes take the log path (Table 9-5). -/
def State.folding (s : State) (lbn : Nat) : Bool :=
  match s.yard.fold with
  | some f => f.lbns.contains lbn || (match f.new with | some p => p.1 == lbn | none => false)
  | none => false

/-- Whether USER_BYTES allows one mapped bolt more. -/
def State.userRoom (s : State) : Bool :=
  (s.yard.lbns.length + 1) * s.num Reg.geom.boltDataBytes ≤ s.num Reg.geom.userBytes

/-- Accepts one sector; none: no bolt for a new mapping (NO_SPACE). -/
def State.accept1 (s : State) (lbn k : Nat) (data : Bytes) (tuple : PiTuple) : Option State :=
  match s.lbn? lbn with
  | none =>
    if k = 0 ∧ !s.folding lbn then
      if !s.userRoom then none
      else match s.openBolt .data lbn with
        | none => none
        | some (i, s) => match s.bolt? i with
          | none => none
          | some b => some (s.seqPath ⟨lbn, i, 0⟩ b data tuple)
    else some (s.logPath (lsaOf lbn k) data tuple)
  | some e =>
    match s.bolt? e.bolt with
    | some b =>
      if b.state = .openData ∧ e.written = k ∧ b.place = k ∧ !s.folding lbn then some (s.seqPath e b data tuple)
      else some (s.logPath (lsaOf lbn k) data tuple)
    | none => some (s.logPath (lsaOf lbn k) data tuple)

/-- PAD sectors fill the wordlines that a FUA or flush finds short (R273). -/
def State.padBolt (s : State) (b : Bolt) : State :=
  let wl := s.wlSectors
  let n := if wl = 0 then 0 else (wl - b.place % wl) % wl
  (List.range n).foldl (fun (s : State) i =>
    s.pushWb ⟨some (b.idx, b.place + i), ⟨5, 0, s.yard.yseq, zeroSector, zeroTuple⟩⟩)
    (s.putBolt { b with place := b.place + n })

/-- Every open wordline is filled. -/
def State.padOpen (s : State) : State :=
  (s.yard.bolts.filter fun b => (b.state == .openData || b.state == .openLog)).foldl (fun s b => s.padBolt b) s

/-- A bolt that padding brought to C is closed. -/
def State.closePadded (s : State) : State :=
  (s.yard.bolts.filter fun b => b.place == s.boltSectors).foldl (fun s b => s.closeBolt b.idx) s

/-- FUA and flush: short wordlines are padded. -/
def State.padAll (s : State) : State := s.padOpen.closePadded

/-- Log-path sectors that wait take places once a log bolt can be opened. `n` bounds them. -/
def State.placeWaiting (s : State) : Nat → State
  | 0 => s
  | n + 1 =>
    match s.yard.wb.find? fun w => w.at_.isNone with
    | none => s
    | some w =>
      match s.logPlace with
      | (none, s) => s
      | (some p, s) =>
        State.placeWaiting (s.putYard { s.yard with
          wb := s.yard.wb.map fun x => if x = w then { x with at_ := some p } else x }) n

/-! ### Discards (R282) -/

/-- Consecutive runs of LSAs, as (first, count). -/
def lsaRuns : List Nat → List (Nat × Nat)
  | [] => []
  | a :: l => match lsaRuns l with
    | (b, n) :: r => if b = a + 1 then (a, n + 1) :: r else (a, 1) :: (b, n) :: r
    | [] => [(a, 1)]

/-- One whole LBN is unmapped. -/
def State.unmapLbn (s : State) (lbn : Nat) : State :=
  let had := (s.lbn? lbn).isSome || s.yard.logs.any fun e => e.lsa / 65536 == lbn
  if !had then s
  else
    let s1 := match s.lbn? lbn with
      | some e => s.releaseBolt e.bolt false
      | none => s
    let s1 := s1.putYard { s1.yard with
      lbns := s1.yard.lbns.filter fun e => e.lbn != lbn
      logs := s1.yard.logs.filter fun e => e.lsa / 65536 != lbn
      wb := s1.yard.wb.filter fun w => !(w.sector.lsa / 65536 == lbn && w.sector.kind == 1) }
    s1.yrec (.discardBolt lbn)

/-- Discards sectors `first` to `first + count - 1` of a volume whose range begins at `base`. -/
def State.discardRange (s : State) (base first count : Nat) : State :=
  let c := s.boltSectors
  if c = 0 ∨ count = 0 then s
  else
    let lbns := (List.range ((first + count - 1) / c - first / c + 1)).map (first / c + ·)
    let whole := lbns.filter fun l => first ≤ l * c && (l + 1) * c ≤ first + count
    let s := whole.foldl (fun s l => s.unmapLbn (base + l)) s
    let rest := ((List.range count).map (first + ·)).filter fun x => !whole.contains (x / c)
    (lsaRuns (rest.map fun x => lsaOf (base + x / c) (x % c))).foldl (fun (s : State) r =>
      let q := s.yard.yseq
      ((List.range r.2).foldl (fun (s : State) i => s.putLog ⟨r.1 + i, q, true⟩) s).yrec (.discardRange r.1 r.2)) s

/-! ### Volumes -/

/-- The first LBN past every volume's range. -/
def State.nextLbn (s : State) : Nat :=
  ((s.yard.volumes.map fun v => v.first + v.count) ++ (s.yard.shards.map fun d => d.first + s.shardLbns)).foldl max 0

def State.shard? (s : State) (id : Nat) : Option Shard := s.yard.shards.find? fun d => d.id == id

def insertShard (d : Shard) : List Shard → List Shard
  | [] => [d]
  | e :: l => if d.id < e.id then d :: e :: l else if d.id = e.id then d :: l else e :: insertShard d l

/-- The shard table takes an entry, in ascending SHARD_ID. -/
def State.putShard (s : State) (d : Shard) : State :=
  (s.putYard { s.yard with shards := insertShard d s.yard.shards }).touch Reg.shard.inventory

def State.volume? (s : State) (kind id : Nat) : Option YVolume :=
  s.yard.volumes.find? fun v => v.kind == kind && v.id == id

/-- The first LBN and the sectors of a volume. -/
def State.volumeRange (s : State) : VolumeRef → Option (Nat × Nat)
  | .ns n => (s.volume? 1 n).map fun v => (v.first, v.sectors)
  | .system n => (s.volume? 3 n).map fun v => (v.first, v.sectors)
  | .shard id => (s.shard? id).map fun d => (d.first, s.shardLbns * s.boltSectors)

/-- The shard whose range holds an LBN. -/
def State.shardOfLbn (s : State) (lbn : Nat) : Option Shard :=
  s.yard.shards.find? fun d => d.first ≤ lbn && lbn < d.first + s.shardLbns

end Sys2Proof.Machine
end

