-- ==== Sys2Proof/Machine/YardMaint.lean ====
section
/-! DEFINITION. How the Yard relocates (R269, R274, R276, R290), erases (R265), checkpoints (R292, R295), recovers (R297,
R298) and is formatted (R299). -/
namespace Sys2Proof.Machine

/-! ### Folding and relocating (R274, R275) -/

/-- Sector `k` of an LBN as a fold with bound `f` writes it. -/
def State.foldSector (s : State) (lbn f k : Nat) : StoredSector :=
  let zero : StoredSector := ⟨3, lsaOf lbn k, f, zeroSector, zeroTuple⟩
  let old := match s.lbn? lbn with
    | some e => if k < e.written then (s.dataSector e.bolt k).getD zero else zero
    | none => zero
  match s.yard.logs.find? fun e => e.lsa == lsaOf lbn k with
  | some e => if f < e.yseq then old else if e.zero then zero else
      match s.logSector e.lsa e.yseq with
      | some x => { x with kind := 1 }
      | none => old
  | none => old

/-- Writes the whole of an LBN into a bolt just opened for it, which is then FULL_DATA. -/
def State.foldInto (s : State) (lbn f i : Nat) : State :=
  let c := s.boltSectors
  let cells := (List.range c).map fun k => s.foldSector lbn f k
  let s := s.modBolt i fun b => { b with cells, place := c }
  (s.closeBolt i).hwAdd 64 Reg.hw.nandBytesWritten (4096 * c)

/-- Opens a FOLD bolt and writes the LBN into it. -/
def State.foldCopy (s : State) (lbn f : Nat) : Option (Nat × State) :=
  match s.openBolt .fold lbn with
  | none => none
  | some (i, s) => some (i, s.foldInto lbn f i)

/-- Commits MAP_UPDATE: the new bolt is the LBN's, its log map entries up to `f` go, and the old bolt is released. -/
def State.foldMap (s : State) (lbn new f : Nat) : State :=
  let old := (s.lbn? lbn).map (·.bolt)
  let s := (s.yrec (.mapUpdate lbn new old f)).commitYard
  let s := s.putLbn ⟨lbn, new, s.boltSectors⟩
  let s := s.modBolt new fun b => { b with fold := false }
  let s := s.putYard { s.yard with
    logs := s.yard.logs.filter fun e => !(e.lsa / 65536 == lbn && decide (e.yseq ≤ f))
    wb := s.yard.wb.filter fun w => !(w.sector.kind == 1 && w.sector.lsa / 65536 == lbn) }
  match old with
  | some o => s.releaseBolt o false
  | none => s

/-- LBNs that hold a log map entry in a log bolt, ascending. -/
def State.lbnsIn (s : State) (i : Nat) : List Nat :=
  ((s.yard.logs.filter fun e => !e.zero && s.logBoltOf e.lsa e.yseq == some i).map fun e => e.lsa / 65536).eraseDups

/-- The LBNs that must be folded to empty a bolt. -/
def State.lbnsOn (s : State) (i : Nat) : List Nat :=
  match s.bolt? i with
  | none => []
  | some b =>
    if b.state = .openData ∨ b.state = .fullData then
      (s.yard.lbns.filter fun e => e.bolt == i).map (·.lbn)
    else s.lbnsIn i

/-- Copies and maps LBNs one after another; where no bolt can be opened the rest stays. -/
def State.relocateLbns (s : State) (f : Nat) : List Nat → State
  | [] => s
  | l :: ls => match s.foldCopy l f with
    | none => s
    | some (i, t) => State.relocateLbns (t.foldMap l i f) f ls

/-- A system bolt's contents move to a new bolt. -/
def State.moveSystem (s : State) (i : Nat) : State :=
  match s.openBolt .system 0 with
  | none => s
  | some (j, s) =>
    let sub := fun (x : Nat) => if x = i then j else x
    let ck := fun (c : Option Ckpt) => c.map fun (k : Ckpt) => { k with chain := k.chain.map sub }
    s.putYard { s.yard with
      pairs := s.yard.pairs.map fun p => ⟨sub p.a, sub p.b, p.first⟩
      slotA := ck s.yard.slotA, slotB := ck s.yard.slotB
      anchorBolts := s.yard.anchorBolts.map sub }

/-- A bolt is relocated as in a fold, and RELEASED once it holds nothing mapped. -/
def State.relocate (s : State) (i : Nat) : State :=
  match s.bolt? i with
  | none => s
  | some b =>
    if b.state = .system then
      if s.yard.anchorBolts.contains i then s
      else (s.moveSystem i).releaseBolt i true
    else
      let data := b.state = .openData ∨ b.state = .fullData
      let s := s.relocateLbns s.yard.yseq (s.lbnsOn i)
      if !data && s.lbnsIn i == [] then s.releaseBolt i true else s

/-- A bolt is retired after its readable sectors are relocated (R269). -/
def State.relocateRetire (s : State) (i cause : Nat) : State := ((s.closeBolt i).relocate i).retireBolt i cause

/-- FOLD (R274), one step of it: the victim is chosen, an LBN is copied, a copy is mapped, or the empty victim is
released. -/
def State.foldStep (s : State) : State :=
  match s.yard.fold with
  | none =>
    if s.num Reg.yardCfg.foldStart ≤ s.logRoom then s
    else
      match (s.boltsIn .fullLog).foldl (fun (m : Option Bolt) b => match m with
          | none => some b
          | some c => if b.openedAt < c.openedAt then some b else m) none with
      | none => s
      | some v => s.putYard { s.yard with fold := some ⟨v.idx, s.yard.yseq, s.lbnsIn v.idx, none⟩ }
  | some f =>
    match f.new with
    | some (l, i) =>
      let s := s.foldMap l i f.bound
      s.putYard { s.yard with fold := some { f with new := none, lbns := f.lbns.filter (· ≠ l) } }
    | none => match f.lbns with
      | l :: _ => match s.foldCopy l f.bound with
        | some (i, s) => s.putYard { s.yard with fold := some { f with new := some (l, i) } }
        | none => s
      | [] =>
        let s := s.putYard { s.yard with fold := none }
        if s.lbnsIn f.victim = [] then (s.releaseBolt f.victim true).placeWaiting s.yard.wb.length else s

/-- How far the erase counts of the bolts in service lie apart. -/
def State.wearSpread (s : State) : Nat :=
  let l := (s.yard.bolts.filter fun b => b.state != .retired).map (·.count)
  l.foldl max 0 - (match l with | [] => 0 | c :: l => l.foldl min c)

/-- The FULL_DATA bolt with the lowest erase count. -/
def State.wearSource (s : State) : Option Bolt :=
  (s.boltsIn .fullData).foldl (fun (m : Option Bolt) b => match m with
    | none => some b
    | some c => if b.count < c.count then some b else m) none

/-- The ERASED bolt with the highest erase count. -/
def State.wearTarget (s : State) : Option Bolt :=
  ((s.boltsIn .erased).filter fun b => b.blazeCount s.dev.uid == some b.count).foldl
    (fun (m : Option Bolt) b => match m with
    | none => some b
    | some c => if c.count < b.count then some b else m) none

/-- WEAR_RELOCATE (R276). -/
def State.wearRelocate (s : State) : State :=
  if s.wearSpread ≤ s.num Reg.yardCfg.wlSpread then s
  else match s.wearSource, s.wearTarget with
    | some a, some d => match s.yard.lbns.find? fun e => e.bolt == a.idx with
      | none => s
      | some e =>
        let f := s.yard.yseq
        ((s.openAs d .fold e.lbn).foldInto e.lbn f d.idx).foldMap e.lbn d.idx f
    | _, _ => s

/-- REFRESH (R290). -/
def State.refreshBolt (s : State) (i : Nat) : State :=
  match s.bolt? i with
  | some b => if b.refresh then
      let t := s.relocate i
      match t.bolt? i with
      | some c => if c.state = .released then t.bump Reg.cruise.refreshes else t
      | none => t
    else s
  | none => s

/-! ### Erase (R265 to R268) -/

/-- Whether an erase of a bolt may begin (R265 step 1). -/
def State.mayErase (s : State) (b : Bolt) : Bool :=
  (b.state == .released || b.state == .freeUnknown ||
    (b.state == .system && s.yard.anchorBolts.contains b.idx)) && s.releaseCommitted b.idx &&
  !s.yard.erases.any fun r => r.bolt == b.idx

/-- ERASE_INTENT is committed and the erase begins (R265 steps 2 and 3). -/
def State.beginErase (s : State) (i : Nat) : State :=
  match s.bolt? i with
  | none => s
  | some b =>
    if !s.mayErase b then s
    else
      let n := b.nextCount
      let q := s.yard.yseq
      let s := (s.yrec (.eraseIntent i n)).commitYard
      s.putYard { s.yard with erases := s.yard.erases ++ [⟨i, n, q, 0, []⟩] }

/-- The blaze copies of an erase (Table 9-4). -/
def State.blazeCopies (s : State) (r : EraseRun) (zeros_ : Nat) : List Blaze :=
  let unset := s.rc.state != .locked
  (List.range (s.num Reg.geom.planes)).map fun p =>
    ⟨unset, r.count, p, if unset then 0 else s.rc.ring, if unset then 0 else s.calendarTai, s.dev.uid, r.intent, zeros_⟩

/-- The erase and its checks passed (R265 steps 3 to 6). -/
def EraseOutcome.good (o : EraseOutcome) : Bool := o.eraseOk && o.blankZeros ≤ 64 && o.blazeOk

/-- ERASE_DONE (R265 steps 4 to 6): ERASED, SYSTEM again for an anchor bolt, or RETIRED. While a hold-up flush runs no
blaze is programmed (R296). -/
def State.endErase (s : State) (i : Nat) (o : EraseOutcome) : State :=
  match s.yard.erases.find? fun r => r.bolt == i with
  | none => s
  | some r =>
    let s := s.putYard { s.yard with erases := s.yard.erases.filter fun x => x.bolt != i }
    let anchor := s.yard.anchorBolts.contains i
    if s.pwr.flushing then
      s.modBolt i fun b => { b with blaze := if o.eraseOk then [] else b.blaze, cells := [], state := .freeUnknown }
    else if !o.good then s.retireBolt i causeErase
    else
      let copies := s.blazeCopies r o.blankZeros
      let s := s.modBolt i fun b => { b with
        state := if anchor then .system else .erased, count := r.count, faults := 0, blaze := copies, cells := [],
        place := 0, lbn := 0, fold := false, refresh := false }
      let s := s.hwAdd 64 Reg.hw.erases 1
      let s := s.setN Reg.hw.eraseCountPeak (max (s.num Reg.hw.eraseCountPeak) r.count)
      s.yrec (.boltErased i r.count)

/-! ### Checkpoints and anchors (R292, R295) -/

/-- The counters of 0x3240. -/
def yardCounters : List Nat :=
  [Reg.yardFault.checkValueFaults, Reg.yardFault.dataFaults, Reg.yardFault.partnerRepairs, Reg.yardFault.samplesLost,
   Reg.yardFault.uncorrectable, Reg.yardFault.readRetries, Reg.yardFault.eraseFails, Reg.yardFault.programFails,
   Reg.yardFault.lunFails]

/-- Bytes of a checkpoint's body and header (Table 9-11). -/
def State.ckptBytes (s : State) : Nat :=
  512 + 16 * s.yard.bolts.length + 16 * s.yard.lbns.length + 16 * s.yard.logs.length + 32 * s.yard.volumes.length +
    96 * s.yard.shards.length + 256

/-- Opens up to `n` SYSTEM bolts. -/
def State.openChain : Nat → State → List Nat × State
  | 0, s => ([], s)
  | n + 1, s => match s.openBolt .system 0 with
    | none => ([], s)
    | some (i, s) => let r := State.openChain n s; (i :: r.1, r.2)

/-- The maps as a checkpoint holds them. -/
def State.snapshot (s : State) (chain : List Nat) : Ckpt :=
  { seq := s.yard.yseq - 1
    bolts := s.yard.bolts.map fun (b : Bolt) => { b with blaze := [], cells := [] }
    lbns := s.yard.lbns, logs := s.yard.logs, volumes := s.yard.volumes, shards := s.yard.shards
    cruiseBolt := s.num Reg.cruise.cruisePosition, cruisePasses := s.num Reg.cruise.cruisePasses
    counters := yardCounters.map s.num, chain }

/-- A checkpoint begins in the slot that is not current; that slot's old chain is released. -/
def State.beginCkpt (s : State) : State :=
  if s.yard.writing.isSome then s
  else
    let slot := match s.yard.anchor with | some a => 1 - a.slot | none => 0
    let old := (if slot = 0 then s.yard.slotA else s.yard.slotB).map (·.chain)
    let s := ((old.getD []).foldl (fun (s : State) i => s.releaseBolt i true) s)
    let s := s.putYard (if slot = 0 then { s.yard with slotA := none } else { s.yard with slotB := none })
    let per := max 1 (s.slcPages * 16384)
    let (chain, s) := State.openChain (min 64 (ceilDiv s.ckptBytes per)) s
    s.putYard { s.yard with writing := some (slot, s.snapshot chain), sinceCkpt := 0 }

/-- CHECKPOINT (R295): once CHECKPOINT_BYTES of journal are written. -/
def State.autoCkpt (s : State) : State :=
  if s.num Reg.yardCfg.checkpointBytes ≤ s.yard.sinceCkpt then s.beginCkpt else s

/-- The geometry's CRC (Table 9-8): page size, spare size, planes, pages per block, blocks per plane and cell type of the
device geometry. -/
def geometryCrc (l : List LunReport) : Nat :=
  match l with
  | [] => 0
  | r :: _ => (crc32c (leBytes 4 r.pageBytes ++ leBytes 4 r.spareBytes ++ leBytes 4 r.planes ++ leBytes 4 r.pagesPerBlock ++
      leBytes 4 r.blocksPerPlane ++ leBytes 4 r.cellBits)).toNat

/-- An anchor bolt with no page left is erased in place; one whose erase fails is RETIRED, and the next qualifying block of
blocks 0 to 7 of its LUN takes its place (R292). -/
def State.renewAnchor (s : State) (fails : List Nat) (i : Nat) : State :=
  let s := s.beginErase i
  let s := s.endErase i ⟨!fails.contains i, 0, true⟩
  match s.bolt? i with
  | none => s
  | some b =>
    if b.state ≠ .retired then s
    else
      let next := (s.yard.bolts.find? fun x => boltChannel x.idx == boltChannel i && boltLun x.idx == boltLun i &&
        decide (boltBlock x.idx < 8) && x.state != .retired && x.state != .system).orElse fun _ =>
        s.yard.bolts.find? fun x => boltChannel x.idx == boltChannel i && decide (boltLun i < boltLun x.idx) &&
          decide (boltBlock x.idx < 8) && x.state != .retired && x.state != .system
      match next with
      | none => s.putYard { s.yard with anchorBolts := s.yard.anchorBolts.filter (· ≠ i) }
      | some x =>
        let s := s.putYard { s.yard with anchorBolts := s.yard.anchorBolts.map fun a => if a = i then x.idx else a }
        let s := s.putBolt { x with state := .freeUnknown }
        (s.beginErase x.idx).endErase x.idx ⟨true, 0, true⟩

/-- An anchor update appends a record to the next page of each anchor bolt, one after another (R292). -/
def State.updateAnchor (s : State) (a : Anchor) (fails : List Nat) : State :=
  let full := decide (0 < s.slcPages ∧ s.slcPages ≤ s.yard.anchorPages)
  let s := if full then s.yard.anchorBolts.foldl (fun s i => s.renewAnchor fails i) s else s
  s.putYard { s.yard with anchor := some a, anchorPages := if full then 1 else s.yard.anchorPages + 1 }

/-- Journal pages whose records are all at or below the CKPT_SEQ of both slots are dropped, and pairs with none left are
released (R294). -/
def State.trimJournal (s : State) : State :=
  match s.yard.slotA, s.yard.slotB with
  | some a, some b =>
    let bound := min a.seq b.seq
    let keep := s.yard.pages.dropWhile fun p => p.recs.all fun e => e.yseq ≤ bound
    let first := match keep with | p :: _ => p.seq | [] => s.yard.pageSeq
    let gone := (s.yard.pairs.zip (s.yard.pairs.drop 1)).filterMap fun (p : JPair × JPair) =>
      if p.2.first ≤ first then some p.1 else none
    let s := s.putYard { s.yard with pages := keep, pairs := s.yard.pairs.filter fun p => !gone.contains p }
    gone.foldl (fun (s : State) p => (s.releaseBolt p.a true).releaseBolt p.b true) s
  | _, _ => s

/-- CHECKPOINT_DONE (R295): the record is committed, and an anchor record makes the slot current. -/
def State.endCkpt (s : State) (fails : List Nat) : State :=
  match s.yard.writing with
  | none => s
  | some (slot, c) =>
    let s := s.putYard { s.yard with
      writing := none
      slotA := if slot = 0 then some c else s.yard.slotA
      slotB := if slot = 0 then s.yard.slotB else some c }
    let s := (s.yrec (.checkpointDone slot c.seq)).commitYard
    let page := match s.yard.pages with | p :: _ => p.seq | [] => s.yard.pageSeq
    let a : Anchor := match s.yard.anchor with
      | some a => { a with
          seq := wrap 64 (a.seq + 1), slot, seqA := if slot = 0 then c.seq else a.seqA
          seqB := if slot = 0 then a.seqB else c.seq, journalPage := page }
      | none => ⟨1, s.dev.uid, s.num Reg.yard.formatId, s.calendarTai, geometryCrc s.yard.reports, slot, c.seq, c.seq, page,
          s.num Reg.geom.userBytes, s.yard.logBolts⟩
    (s.updateAnchor a fails).trimJournal

/-! ### The journal stream (R293) -/

/-- A pair of bolts on different channels continues the stream. -/
def State.openPair (s : State) : State :=
  match s.openBolt .system 0 with
  | none => s
  | some (i, t) => match t.openBolt .system 0 (some (boltChannel i)) with
    | none => s
    | some (j, t) => t.putYard { t.yard with pairs := t.yard.pairs ++ [⟨i, j, t.yard.pageSeq⟩], pairUsed := 0 }

/-- JOURNAL_COMMIT (R293): the page goes to both bolts of the pair; one whose program fails is retired, and the stream
continues on a new pair. -/
def State.journalCommit (s : State) (firstOk secondOk : Bool) : State :=
  let s := if s.yard.pairs.isEmpty ∨ (0 < s.slcPages ∧ s.slcPages ≤ s.yard.pairUsed) then s.openPair else s
  let pair := s.yard.pairs.getLast?
  let s := if firstOk && secondOk then s
    else match pair with
      | none => s
      | some p =>
        let s := if firstOk then s else s.retireBolt p.a causeProgram
        let s := if secondOk then s else s.retireBolt p.b causeProgram
        s.openPair
  s.commitYard

/-! ### Programs (R262, R275) -/

/-- The write-buffer sectors of a bolt's next wordline. -/
def State.wordlineOf (s : State) (b : Bolt) : List WbSector :=
  let start := b.cells.length
  (List.range s.wlSectors).filterMap fun i => s.yard.wb.find? fun w => w.at_ == some (b.idx, start + i)

/-- A passed wordline is on NAND. -/
def State.programPass (s : State) (b : Bolt) (l : List WbSector) : State :=
  let s := s.putBolt { b with cells := b.cells ++ l.map (·.sector) }
  let s := s.putYard { s.yard with wb := s.yard.wb.filter fun w => !l.contains w }
  s.hwAdd 64 Reg.hw.nandBytesWritten (4096 * l.length)

/-- A failed wordline's sectors are rewritten elsewhere with new YSEQ values; the bolt closes, its readable sectors are
relocated and it is retired (R269, R275). -/
def State.programFail (s : State) (b : Bolt) (l : List WbSector) : State :=
  let s := s.putYard { s.yard with wb := s.yard.wb.filter fun w => w.at_.map (·.1) != some b.idx }
  let lost := (s.yard.wb ++ l).filter fun w => l.contains w
  let s := s.putYard { s.yard with lbns := s.yard.lbns.map fun (e : LbnEntry) =>
    if e.bolt = b.idx then { e with written := min e.written b.cells.length } else e }
  let s := s.closeBolt b.idx
  let s := lost.foldl (fun (s : State) w =>
    if w.sector.kind = 5 then s else s.logPath w.sector.lsa w.sector.data w.sector.tuple) s
  s.relocateRetire b.idx causeProgram

/-- WORDLINE_PROGRAM_DONE (R262). A FOLD bolt not yet mapped is dropped by a failure and its LBN copied again. -/
def State.programDone (s : State) (i : Nat) (pass : Bool) : State :=
  match s.bolt? i with
  | none => s
  | some b =>
    let l := s.wordlineOf b
    let pending := match s.yard.fold with
      | some f => (match f.new with | some p => p.2 == i | none => false)
      | none => false
    if !pass && pending then
      let s := s.putYard { s.yard with fold := s.yard.fold.map fun (f : Fold) => { f with new := none } }
      s.retireBolt i causeProgram
    else if s.wlSectors = 0 ∨ l.length < s.wlSectors then s
    else if pass then s.programPass b l
    else
      let rest := s.yard.wb.filter fun w => w.at_.map (·.1) == some i && !l.contains w
      s.programFail b (l ++ rest)

/-- Programs whatever the write buffer still holds, in YSEQ order (R296 step 2). -/
def State.flushWb (s : State) : State :=
  let s := s.placeWaiting s.yard.wb.length
  let s := s.padAll
  let open_ := s.yard.bolts.filter fun b => s.yard.wb.any fun w => w.at_.map (·.1) == some b.idx
  let s := open_.foldl (fun (s : State) b =>
    let l := s.yard.wb.filter fun w => w.at_.map (·.1) == some b.idx
    match s.bolt? b.idx with
    | some c => s.programPass c l
    | none => s) s
  (s.yard.bolts.filter fun b => b.state == .openData || b.state == .openLog).foldl (fun (s : State) b => s.closeBolt b.idx) s

/-! ### LUNs (R260, R270) -/

/-- Table 9-1. -/
def LunReport.supported (r : LunReport) : Bool :=
  r.nvddr3 && r.slcMode && r.oneShot && (r.cellBits == 3 || r.cellBits == 4) && r.pageBytes == 16384 && 1920 ≤ r.spareBytes &&
  (r.planes == 2 || r.planes == 4 || r.planes == 6) && 768 ≤ r.pagesPerBlock && r.pagesPerBlock ≤ 3072 &&
  r.pagesPerBlock % r.cellBits == 0 && 48 * 2 ^ 20 ≤ 16384 * r.planes * r.pagesPerBlock &&
  16384 * r.planes * r.pagesPerBlock ≤ 192 * 2 ^ 20 &&
  r.planes * r.blocksPerPlane * r.pagesPerBlock * 16384 * 8 ≤ 2 ^ 41

/-- The fields in which LUNs must agree (R260). -/
def LunReport.like (r q : LunReport) : Bool :=
  r.pageBytes == q.pageBytes && r.spareBytes == q.spareBytes && r.planes == q.planes &&
  r.pagesPerBlock == q.pagesPerBlock && r.blocksPerPlane == q.blocksPerPlane && r.cellBits == q.cellBits

/-- The reports of bonded channels, by channel and LUN; the device geometry is the first's. -/
def State.bonded (s : State) (l : List LunReport) : List LunReport :=
  (List.range 32).flatMap fun c => if (s.num Reg.mask.nandMask).testBit c then
    (List.range 64).flatMap fun n => (l.filter fun r => r.channel == c && r.lun == n).take 1
  else []

/-- The bolts of a LUN as enumeration knows them; what their cells held stays. -/
def State.boltsOf (s : State) (r : LunReport) : List Bolt :=
  (List.range r.blocksPerPlane).map fun n =>
    let i := boltIndex r.channel r.lun n
    match s.bolt? i with
    | some b => { b with state := .freeUnknown, faults := 0, lbn := 0, fold := false, refresh := false, place := 0, openedAt := 0 }
    | none => ⟨i, .freeUnknown, 0, 0, 0, false, false, 0, 0, [], []⟩

/-- Enumeration (R260): geometry, LUNs in service, FOREIGN ones. -/
def State.enumerate (s : State) (l : List LunReport) : State :=
  let all := s.bonded l
  let good : List LunReport := match all with
    | [] => []
    | r :: _ => all.filter fun (q : LunReport) => q.supported && q.like r
  let s := (all.filter fun q => !good.contains q).foldl (fun (s : State) q =>
    s.raise 0x3280 q.channel 0xFF (leBytes 1 q.channel ++ leBytes 1 q.lun)) s
  let s := match good with
    | [] => s
    | r :: _ =>
      let s := s.setN Reg.geom.planes r.planes
      let s := s.setN Reg.geom.pagesPerBlock r.pagesPerBlock
      let s := s.setN Reg.geom.cellBits r.cellBits
      s.setN Reg.geom.boltDataBytes (4096 * ((r.pagesPerBlock - r.cellBits) * r.planes * 4))
  let s := s.setN Reg.geom.luns good.length
  let s := s.setN Reg.geom.lunsForeign (all.length - good.length)
  let s := s.setN Reg.geom.boltsTotal ((good.map (·.blocksPerPlane)).foldl (· + ·) 0)
  s.putYard { s.yard with
    reports := good
    luns := good.map fun r => (r.channel, r.lun)
    bolts := good.flatMap s.boltsOf }

/-- FLUSH_US (R543), from the parameter page's times. -/
def State.flushUsOf (s : State) : Nat :=
  match s.yard.reports with
  | [] => 0
  | r :: _ =>
    let perUs := r.cellBits * r.planes * 16384 * s.yard.luns.length
    -- bytes per microsecond times progUs, against 115,200 bytes per microsecond
    let w := min (115200 * r.progUs) perUs
    ceilDiv (s.num Reg.yardCfg.wbDirtyMax * r.progUs) w + r.progUs + 2 * r.slcProgUs

/-! ### Recovery (R297, R298) -/

/-- What a reset leaves of the Yard: what stands on flash. -/
def Yard.onFlash (y : Yard) : Yard :=
  { Yard.empty with
    bolts := y.bolts, pages := y.pages, pageSeq := y.pageSeq, pairs := y.pairs, pairUsed := y.pairUsed, slotA := y.slotA,
    slotB := y.slotB, anchorBolts := y.anchorBolts, anchorPages := y.anchorPages, anchor := y.anchor }

/-- The table entry of a bolt, taken from a checkpoint. -/
def Bolt.loadFrom (b : Bolt) (l : List Bolt) : Bolt :=
  match l.find? fun c => c.idx == b.idx with
  | some c => { c with blaze := b.blaze, cells := b.cells }
  | none => b

/-- A replayed record's effect on the maps. -/
def State.replayRec (s : State) (e : YEntry) : State :=
  match e.rec_ with
  | .eraseIntent .. | .checkpointDone .. | .powerLoss _ | .cleanShutdown | .tagRewrite .. | .dataRepair .. => s
  | .boltErased i n => s.modBolt i fun b => { b with
      state := if b.state = .system then .system else .erased, count := n, faults := 0, lbn := 0, fold := false, place := 0 }
  | .retire i _ => s.modBolt i fun b => { b with state := .retired }
  | .boltOpen i p lbn =>
    let s := s.modBolt i fun b => { b with
      state := match p with | .data | .fold => .openData | .log => .openLog | .system => .system
      lbn, fold := p == .fold, openedAt := e.yseq, place := 0 }
    if p = .data then s.putLbn ⟨lbn, i, 0⟩ else s
  | .boltFull i =>
    let s := s.modBolt i fun b => { b with
      state := if b.state = .openLog then .fullLog else if b.state = .openData then .fullData else b.state
      place := b.cells.length }
    s.putYard { s.yard with lbns := s.yard.lbns.map fun (m : LbnEntry) =>
      if m.bolt = i then { m with written := ((s.bolt? i).map fun (b : Bolt) =>
        (b.cells.takeWhile fun x => x.kind != 5).length).getD m.written } else m }
  | .mapUpdate l n old f =>
    let s := s.putLbn ⟨l, n, s.boltSectors⟩
    let s := s.modBolt n fun b => { b with fold := false }
    let s := s.putYard { s.yard with logs := s.yard.logs.filter fun x => !(x.lsa / 65536 == l && decide (x.yseq ≤ f)) }
    match old with
    | some o => s.releaseBolt o false
    | none => s
  | .release i => s.releaseBolt i false
  | .discardRange a n => (List.range n).foldl (fun (s : State) i => s.putLog ⟨a + i, e.yseq, true⟩) s
  | .discardBolt l =>
    let s := match s.lbn? l with
      | some m => s.releaseBolt m.bolt false
      | none => s
    s.putYard { s.yard with
      lbns := s.yard.lbns.filter fun m => m.lbn != l
      logs := s.yard.logs.filter fun x => x.lsa / 65536 != l }
  | .shardCreate d | .shardState d => s.putShard d
  | .shardDelete id => s.putYard { s.yard with shards := s.yard.shards.filter fun d => d.id != id }
  | .volume v created =>
    let rest := s.yard.volumes.filter fun x => !(x.kind == v.kind && x.id == v.id)
    s.putYard { s.yard with volumes := if created then rest ++ [v] else rest }

/-- Step 5: a bolt with an intent is half-erased, FREE_UNKNOWN, or ERASED (R268). -/
def State.classifyIntent (s : State) (i n : Nat) : State :=
  match s.bolt? i with
  | none => s
  | some b =>
    if b.state = .retired then s
    else if b.blazeCount s.dev.uid = some n then
      if b.state = .freeUnknown ∨ b.state = .released then s.putBolt { b with state := .erased, count := n } else s
    else (s.putBolt { b with state := if b.state = .system then .system else .freeUnknown, count := n }).bump32
      Reg.yard.halfErasedFound

/-- The sectors of a bolt that the scan adopts: those before the first wordline with an uncorrectable sector (R298). -/
def State.adopted (s : State) (bad : List (Nat × Nat)) (b : Bolt) : List StoredSector :=
  let wl := max 1 s.wlSectors
  match (bad.filter fun p => p.1 == b.idx).map (·.2) with
  | [] => b.cells
  | w :: l => b.cells.take (l.foldl min w * wl)

/-- One adopted sector of a log bolt: the highest YSEQ prevails, and a fold or discard with a higher one supersedes it. -/
def State.adoptLog (s : State) (replayed : List YEntry) (x : StoredSector) : State :=
  if x.kind ≠ 2 then s
  else
    let newer := s.yard.logs.any fun e => e.lsa == x.lsa && decide (x.yseq ≤ e.yseq)
    let gone := replayed.any fun e => match e.rec_ with
      | .mapUpdate l _ _ f => l == x.lsa / 65536 && decide (x.yseq ≤ f)
      | .discardBolt l => l == x.lsa / 65536 && decide (x.yseq < e.yseq)
      | .discardRange a n => a ≤ x.lsa && decide (x.lsa < a + n) && decide (x.yseq < e.yseq)
      | _ => false
    if newer || gone then s else s.putLog ⟨x.lsa, x.yseq, false⟩

/-- Step 6: a bolt left open is scanned and closed (R298). -/
def State.scanBolt (s : State) (bad : List (Nat × Nat)) (replayed : List YEntry) (b : Bolt) : State :=
  let l := s.adopted bad b
  let s := s.putBolt { b with cells := l, place := l.length }
  if b.state = .openData then
    let s := s.closeBolt b.idx
    if b.fold then s
    else s.putYard { s.yard with lbns := s.yard.lbns.map fun (e : LbnEntry) =>
      if e.bolt = b.idx then { e with written := (l.takeWhile fun x => x.kind != 5).length } else e }
  else (l.foldl (fun (s : State) x => s.adoptLog replayed x) s).closeBolt b.idx

/-- LAST_SHUTDOWN from the last record of either kind (R297 step 7). -/
def lastShutdown (l : List YEntry) : Nat :=
  l.foldl (fun c e => match e.rec_ with
    | .cleanShutdown => 0
    | .powerLoss _ => 1
    | _ => c) 2

/-- Steps 3 to 10 of recovery over the checkpoint loaded. -/
def State.recoverFrom (s : State) (c : Ckpt) (m : RecoveryMedia) (a : Anchor) : State :=
  let pages := (s.yard.pages.filter fun p => a.journalPage ≤ p.seq).takeWhile fun p =>
    match m.badPage with | some b => decide (p.seq < b) | none => true
  let recs := (pages.flatMap (·.recs)).filter fun e => c.seq < e.yseq
  let s := s.putYard { s.yard with
    bolts := s.yard.bolts.map fun b => b.loadFrom c.bolts
    lbns := c.lbns, logs := c.logs, volumes := c.volumes, shards := c.shards, logBolts := a.logBolts
    pages := s.yard.pages.filter fun p => pages.contains p || decide (p.seq < a.journalPage) }
  let s := s.setN Reg.cruise.cruisePosition c.cruiseBolt
  let s := s.setN Reg.cruise.cruisePasses c.cruisePasses
  let s := (yardCounters.zip c.counters).foldl (fun (s : State) p => s.setN p.1 p.2) s
  let s := recs.foldl State.replayRec s
  let s := (s.setN Reg.yard.halfErasedFound 0)
  let s := recs.foldl (fun (s : State) e => match e.rec_ with
    | .eraseIntent i n =>
      -- a later intent of the bolt decides instead of this one, and a bolt opened since is in use
      let later := recs.any fun d => decide (e.yseq < d.yseq) && (match d.rec_ with
        | .eraseIntent j _ | .boltOpen j _ _ | .retire j _ => j == i
        | _ => false)
      if later then s else s.classifyIntent i n
    | _ => s) s
  let logs := (s.yard.bolts.filter fun b => b.state == .fullLog && recs.any fun e => match e.rec_ with
    | .boltOpen i _ _ | .boltFull i => i == b.idx
    | _ => false)
  let s := logs.foldl (fun (s : State) b => (s.adopted m.badWordlines b).foldl (fun (s : State) x => s.adoptLog recs x) s) s
  let s := (s.yard.bolts.filter fun b => b.state == .openData || b.state == .openLog).foldl
    (fun (s : State) b => s.scanBolt m.badWordlines recs b) s
  let top := ((recs.map (·.yseq)) ++ (s.yard.bolts.flatMap fun b => b.cells.map (·.yseq)) ++ [c.seq]).foldl max 0
  let s := s.putYard { s.yard with yseq := wrap 64 (max s.yard.yseq (top + 1)) }
  let s := s.setN Reg.yard.lastShutdown (lastShutdown recs)
  let s := (s.yard.bolts.filter fun b => b.fold && (b.state == .openData || b.state == .fullData)).foldl
    (fun (s : State) b => s.releaseBolt b.idx true) s
  let s := (s.beginCkpt).endCkpt []
  let s := (s.setN Reg.geom.userBytes a.userBytes).setN Reg.yard.formatId a.formatId
  let s := s.setN Reg.yardCfg.flushUs s.flushUsOf
  (s.setN Reg.yard.yardState 2).spareCheck

/-- YARD_RECOVERY (R297). -/
def State.recoverYard (s : State) (m : RecoveryMedia) : State :=
  let s := (s.setN Reg.yard.yardState 1).putYard s.yard.onFlash
  let s := s.enumerate m.luns
  let s := s.setN Reg.yard.recoveryMs m.elapsedMs
  match s.yard.anchor with
  | none => s.setN Reg.yard.yardState 4
  | some a =>
    if !m.anchorReadable then s.setN Reg.yard.yardState 4
    else if a.uid ≠ s.dev.uid ∨ a.geometryCrc ≠ geometryCrc s.yard.reports then (s.setN Reg.yard.yardState 5).alert 8
    else
      let good := fun (slot : Nat) => if slot = 0 then (if m.badSlotA then none else s.yard.slotA)
        else (if m.badSlotB then none else s.yard.slotB)
      match good a.slot with
      | some c => s.recoverFrom c m a
      | none => match good (1 - a.slot) with
        | some c => s.recoverFrom c m a
        | none => (s.setN Reg.yard.yardState 6).alert 8

/-! ### FORMAT (R299) -/

/-- The anchor bolts (R292): the first good block of blocks 0 to 7 of LUN 0 on each of the four lowest-numbered channels,
then of the next LUNs. -/
def State.chooseAnchors (s : State) : List Nat :=
  let first := fun (p : Nat × Nat) => (s.yard.bolts.find? fun b =>
    boltChannel b.idx == p.1 && boltLun b.idx == p.2 && decide (boltBlock b.idx < 8) && b.state != .retired).map (·.idx)
  ((s.lunOrder.filterMap first)).take 4

/-- FORMAT: the marked bolts are retired, every other bolt is erased, anchors are written and the Yard is READY. -/
def State.formatYard (s : State) (fails : List Nat) : State :=
  let loaded := s.yardUsable
  let marked := s.yard.reports.flatMap fun r => r.factoryBad.map fun n => boltIndex r.channel r.lun n
  let fresh := { Yard.empty with
    reports := s.yard.reports, luns := s.yard.luns, yseq := s.yard.yseq, bolts := s.yard.reports.flatMap s.boltsOf
    logBolts := s.num Reg.yardCfg.logBolts }
  let s := s.putYard fresh
  let s := marked.foldl (fun (s : State) i => s.retireBolt i causeFactory) s
  let s := (s.yard.bolts.filter fun b => b.state == .freeUnknown).foldl (fun (s : State) b =>
    (s.beginErase b.idx).endErase b.idx ⟨!fails.contains b.idx, 0, true⟩) s
  let anchors := s.chooseAnchors
  let s := anchors.foldl (fun (s : State) i => s.modBolt i fun b => { b with state := .system }) s
  let s := s.putYard { s.yard with anchorBolts := anchors }
  let s := (s.setN Reg.geom.userBytes (wrap 64 s.freeVal)).drawn
  let s := (s.setN Reg.yard.formatId (wrap 64 s.freeVal)).drawn
  let s := s.openPair
  let s := (s.beginCkpt).endCkpt []
  let s := s.setN Reg.yardCfg.flushUs s.flushUsOf
  ((s.setN Reg.yard.yardState 2).formatRecords loaded).holdupRegs

/-! ### Power loss (R296) -/

/-- The hold-up flush: nothing new begins, the write buffer is programmed, POWER_LOSS is committed. -/
def State.powerLossFlush (s : State) : State :=
  if !s.yardUsable then s
  else
    let n := s.yard.wb.length
    let s := s.putYard { s.yard with fold := none, fetches := [], checks := [] }
    let s := s.flushWb
    (s.yrec (.powerLoss n)).commitYard

end Sys2Proof.Machine
end

