-- ==== Sys2Proof/Machine/YardRead.lean ====
section
/-! DEFINITION. Reading through the Yard (R272, R281 to R291), and shards with their two copies (R277 to R280, R352). -/
namespace Sys2Proof.Machine

/-! ### One sector -/

/-- What reading one sector gave: its data and tuple, whether its own checks hold, whether it was uncorrectable. -/
structure SectorGot where
  lbn : Nat
  sector : Nat
  data : Bytes
  tuple : PiTuple
  guardOk : Bool
  refOk : Bool
  failed : Bool
deriving DecidableEq, Repr

/-- A failed read adds to its bolt's read faults and marks it for refresh; at the third the bolt is retired after
relocation (R286, R288, R290). -/
def State.readFault (s : State) (i : Nat) : State :=
  let s := s.bump Reg.yardFault.uncorrectable
  match s.bolt? i with
  | none => s
  | some b =>
    if b.state = .retired then s
    else
      let s := s.putBolt { b with faults := b.faults + 1, refresh := true }
      if b.faults + 1 = 3 then s.relocateRetire i causeReads else s

/-- Reads one sector. A sector in the write buffer is not read from NAND; a bolt of a failed LUN gives nothing (R270). -/
def State.readSector (s : State) (lbn k : Nat) (r : SectorRead) : SectorGot × State :=
  match s.mapped lbn k with
  | none => (⟨lbn, k, zeroSector, zeroTuple, true, true, false⟩, s)
  | some (x, bolt) =>
    if s.yard.wb.any fun w => w.sector == x then (⟨lbn, k, x.data, x.tuple, true, true, false⟩, s)
    else
      let dead := match bolt with
        | some i => !s.yard.luns.contains (boltChannel i, boltLun i)
        | none => true
      let failed := dead || r.ecc == .failed
      let data := r.data.getD x.data
      let tuple := r.tuple.getD x.tuple
      let s := s.hwAdd 64 Reg.hw.nandBytesRead 4096
      let s := match r.ecc with
        | .clean _ => s
        | _ => s.bump Reg.yardFault.readRetries
      let s := match bolt with
        | some i => if failed then s.readFault i else s
        | none => s
      (⟨lbn, k, data, tuple, guard64 data == tuple.guard, tuple.ref == lsaOf lbn k % 2 ^ 48, failed⟩, s)

/-- Reads sectors `k`, `k + 1`, … of a volume, each with what the medium gave for it. -/
def State.readRun (s : State) (base : Nat) : Nat → Nat → List SectorRead → List SectorGot × State
  | 0, _, _ => ([], s)
  | n + 1, k, reads =>
    let c := max 1 s.boltSectors
    let (g, s) := s.readSector (base + k / c) (k % c) (reads.headD ⟨.clean 0, none, none⟩)
    let (l, s) := State.readRun s base n (k + 1) (reads.drop 1)
    (g :: l, s)

/-! ### Shard bytes -/

/-- Sectors that a byte range touches. -/
def sectorSpan (off len : Nat) : Nat × Nat := if len = 0 then (off / 4096, 0) else (off / 4096, (off + len - 1) / 4096 - off / 4096 + 1)

/-- The stored bytes of a shard as the Yard holds them, without reading NAND. -/
def State.shardStored (s : State) (d : Shard) : Bytes :=
  let whole := (d.bytes - d.tail.length) / 4096
  let c := max 1 s.boltSectors
  let read := (List.range (ceilDiv (d.bytes - d.tail.length) 4096)).flatMap fun k =>
    ((s.mapped (d.first + k / c) (k % c)).map fun p => p.1.data).getD zeroSector
  if d.tail.isEmpty then read.take d.bytes else read.take (whole * 4096) ++ d.tail

/-- Where a sample's stored bytes lie: a COMPRESSED shard is read through its directory (R352). -/
def Shard.storedRange (d : Shard) (offset length : Nat) : Nat × Nat :=
  if d.compressed then
    match d.dir.find? fun e => e.1 == offset with
    | some e => e.2
    | none => (0, 0)
  else (offset, length)

/-- The digest of the sample at a place of a shard: its manifest record's, or that of the catalogue entry that created it
(R285). -/
def State.sampleDigest (s : State) (shard offset length : Nat) : Option Bytes :=
  let rec_ := match s.sched.manifest with
    | some m => m.records.find? fun (r : SampleRec) => r.shardId == shard && r.shardOffset == offset && r.length == length
    | none => none
  match rec_ with
  | some r => some r.digest
  | none => (s.intake.catalogue.find? fun e => e.place == some (shard, offset, length)).map (·.digest)

/-- The sample's content from its stored bytes. -/
def Shard.content (d : Shard) (stored : Bytes) (length : Nat) : Bytes :=
  if d.compressed then (chipDecompress stored length).written else stored

/-- Whether content is the sample's: by its digest, or zero outside every sample record (R285). -/
def State.sampleMatch (s : State) (shard offset length : Nat) (content : Bytes) : Bool :=
  match s.sampleDigest shard offset length with
  | some g => sha384 content == g
  | none => allZero content

/-- The class of a shard read (Table 9-7). -/
inductive ReadClass where
  | good | checkValue | data
deriving DecidableEq, Repr

/-- A shard's bytes read and classified: the class, the sample's content, and what each sector gave. -/
def State.readShard (s : State) (d : Shard) (offset length : Nat) (reads : List SectorRead) :
    ReadClass × Bytes × List SectorGot × State :=
  let (off, len) := d.storedRange offset length
  let (k, n) := sectorSpan off len
  let (l, s) := s.readRun d.first n k reads
  let stored := bytesAt (l.flatMap (·.data)) (off - 4096 * k) len
  let stored := if d.tail.isEmpty then stored else bytesAt (s.shardStored d) off len
  let content := d.content stored length
  let cls :=
    if l.any (·.failed) then ReadClass.data
    else if !s.sampleMatch d.id offset length content then .data
    else if l.all fun g => g.guardOk && g.refOk then .good
    else .checkValue
  (cls, content, l, s)

/-- The tuples that failed are rewritten, with the data as read, through the log path; TAG_REWRITE says so (R286). -/
def State.rewriteTags (s : State) (d : Shard) (l : List SectorGot) : State :=
  let s := s.bump Reg.yardFault.checkValueFaults
  let s := s.raise 0x3285 0xFF 0xFF (leBytes 8 d.id)
  (l.filter fun g => !(g.guardOk && g.refOk)).foldl (fun (s : State) g =>
    let lsa := lsaOf g.lbn g.sector
    let t := shardTuple d.id lsa g.data
    (s.logPath lsa g.data t).yrec (.tagRewrite lsa g.tuple.guard t.guard)) s

/-- SAMPLE_LOST (R287): raised, and the shard is ingested again from its origin; grading waits (R225). -/
def State.sampleLost (s : State) (shard offset : Nat) : State :=
  let s := (s.bump Reg.yardFault.samplesLost).raise 0x3219 0xFF 0xFF (leBytes 8 shard ++ leBytes 8 offset)
  let s := if s.num Reg.grade.gradeState = 2 then s.setN Reg.grade.gradeState 4 else s
  let origin := match s.sched.manifest with
    | some m => match m.records.find? fun (r : SampleRec) => r.shardId == shard && r.shardOffset == offset with
      | some r => m.origins[r.originIndex]?
      | none => none
    | none => none
  s.emit (.reingest shard (origin.map (·.1) |>.getD 0) (origin.map (·.2) |>.getD []))

/-- A DATA_FAULT: one partner read serves every read that meets it (R285, Table 9-5); with no partner the sample is lost. -/
def State.dataFault (s : State) (d : Shard) (offset length : Nat) (serve : Bool) : State :=
  let s := s.bump Reg.yardFault.dataFaults
  if d.partner = 0xFFFFFFFF then s.sampleLost d.id offset
  else
    let y := s.yard
    if y.fetches.any fun f => f.shard == d.id && f.offset == offset && f.length == length then
      s.putYard { y with fetches := y.fetches.map fun f =>
        if f.shard = d.id ∧ f.offset = offset ∧ f.length = length then { f with served := f.served + serve.toNat } else f }
    else
      (s.putYard { y with fetches := y.fetches ++ [⟨d.id, offset, length, serve.toNat⟩] }).emit
        (.partnerRead (if d.owner_ then d.partner else d.owner) d.id offset length)

/-- NAND_READ_DONE (R285): delivered, or handled by its class; a check that cruise asked for is not delivered (R291). -/
def State.nandReadDone (s : State) (shard offset length : Nat) (reads : List SectorRead) : State :=
  match s.shard? shard with
  | none => s.ends 0x3214
  | some d =>
    let check := s.yard.checks.contains (shard, offset, length)
    let s := s.putYard { s.yard with checks := s.yard.checks.filter (· ≠ (shard, offset, length)) }
    let (cls, content, l, s) := s.readShard d offset length reads
    let deliver := fun (s : State) => if check then s.ends 0x3200 else (s.emit (.sample shard offset content)).ends 0x3200
    match cls with
    | .good => deliver s
    | .checkValue => deliver (s.rewriteTags d l)
    | .data => s.dataFault d offset length !check

/-- PARTNER_READ (R281): served with every check; a copy that fails them gives no bytes, and SAMPLE_LOST. -/
def State.partnerRead (s : State) (device shard offset length : Nat) (reads : List SectorRead) : State :=
  match s.shard? shard with
  | none => (s.ends 0x3214).emit (.partnerReply device shard offset length none)
  | some d =>
    let (cls, content, l, s) := s.readShard d offset length reads
    match cls with
    | .good => (s.ends 0x3200).emit (.partnerReply device shard offset length (some content))
    | .checkValue => ((s.rewriteTags d l).ends 0x3200).emit (.partnerReply device shard offset length (some content))
    | .data => ((s.bump Reg.yardFault.dataFaults).ends 0x3219).emit (.partnerReply device shard offset length none)

/-- A range of a shard is written again from good bytes through the log path (R286). -/
def State.repair (s : State) (d : Shard) (off : Nat) (bytes : Bytes) : State :=
  let (k, n) := sectorSpan off bytes.length
  let c := max 1 s.boltSectors
  (List.range n).foldl (fun (s : State) i =>
    let j := k + i
    let old := ((s.mapped (d.first + j / c) (j % c)).map fun p => p.1.data).getD zeroSector
    let lo := max off (4096 * j)
    let hi := min (off + bytes.length) (4096 * (j + 1))
    let data := old.take (lo - 4096 * j) ++ bytesAt bytes (lo - off) (hi - lo) ++ old.drop (hi - 4096 * j)
    let lsa := lsaOf (d.first + j / c) (j % c)
    s.logPath lsa data (shardTuple d.id lsa data)) s

/-- PARTNER_READ_REPLY (R281, R286, R287): accepted only if the sample's digest matches. -/
def State.partnerReply (s : State) (shard offset length : Nat) (bytes : Option Bytes) : State :=
  match s.yard.fetches.find? fun f => f.shard == shard && f.offset == offset && f.length == length, s.shard? shard with
  | some f, some d =>
    let s := s.putYard { s.yard with fetches := s.yard.fetches.filter (· ≠ f) }
    match bytes with
    | none => (s.ends 0x3219).sampleLost shard offset
    | some v =>
      if !s.sampleMatch shard offset length v then (s.ends 0x3219).sampleLost shard offset
      else
        let (off, len) := d.storedRange offset length
        let stored := if d.compressed then (chipStream v (s.num Reg.chipCfg.yardBlockLog2) false).take len else v
        let s := s.repair d off stored
        let s := (s.yrec (.dataRepair shard offset length)).bump Reg.yardFault.partnerRepairs
        let s := if s.num Reg.grade.gradeState = 4 then s.setN Reg.grade.gradeState 2 else s
        ((List.range f.served).foldl (fun (s : State) _ => s.emit (.sample shard offset v)) s).ends 0x3200
  | _, _ => s

/-! ### A logical sector (YARD_READ, R272, R283, R288) -/

/-- The first LBN of a volume's sector, if the volume has it. -/
def State.lsaIn (s : State) (v : VolumeRef) (k : Nat) : Option (Nat × Nat) :=
  match s.volumeRange v with
  | none => none
  | some (base, n) =>
    let c := max 1 s.boltSectors
    if k < n then some (base + k / c, k % c) else none

/-- The code with which a volume that is not there is refused. -/
def VolumeRef.missing : VolumeRef → Nat
  | .shard _ => 0x3214
  | _ => 0x3217

/-- The erase in progress that a foreground read of a sector meets (Table 9-5). -/
def State.eraseInWay (s : State) (lbn k : Nat) : Option EraseRun :=
  match s.mapped lbn k with
  | some (x, some i) =>
    if s.yard.wb.any fun w => w.sector == x then none
    else s.yard.erases.find? fun r => boltChannel r.bolt == boltChannel i && boltLun r.bolt == boltLun i
  | _ => none

/-- Serves one sector: its data, GUARD_FAULT or UNCORRECTABLE for a namespace. A shard's sector is judged with its sample,
by NAND_READ_DONE. -/
def State.serveSector (s : State) (v : VolumeRef) (lbn k : Nat) (r : SectorRead) : State :=
  let (g, s) := s.readSector lbn k r
  let code := match v with
    | .ns _ => if g.failed then 0x3212 else if g.guardOk then 0x3200 else 0x3213
    | _ => if g.failed then 0x3212 else 0x3200
  let s := s.ends code
  if code = 0x3200 then s.emit (.sector code g.data g.tuple) else s.emit (.sector code [] zeroTuple)

/-- YARD_READ: an erase on the LUN is suspended, at most 8 times; later reads wait for its end. -/
def State.yardRead (s : State) (v : VolumeRef) (k : Nat) (r : SectorRead) : State :=
  if !s.yardUsable then s.refuse 0x3210 0xFF 0xFF
  else match s.lsaIn v k with
    | none => s.refuse v.missing 0xFF 0xFF
    | some (lbn, j) => match s.eraseInWay lbn j with
      | none => s.serveSector v lbn j r
      | some e =>
        let put := fun (s : State) (e' : EraseRun) =>
          s.putYard { s.yard with erases := s.yard.erases.map fun x => if x.bolt = e.bolt then e' else x }
        if e.suspended < 8 then (put s { e with suspended := e.suspended + 1 }).serveSector v lbn j r
        else put s { e with waiting := e.waiting ++ [(v, k, r)] }

/-- The reads that waited for an erase are served at its end. -/
def State.serveWaiting (s : State) (l : List (VolumeRef × Nat × SectorRead)) : State :=
  l.foldl (fun (s : State) w => match s.lsaIn w.1 w.2.1 with
    | some (lbn, j) => s.serveSector w.1 lbn j w.2.2
    | none => s) s

/-! ### Writes (YARD_WRITE) -/

/-- Why a write is refused before it is accepted: the Yard is not up, READ_ONLY, or the shard is immutable. -/
def State.writeRefusal (s : State) (v : VolumeRef) : Option Nat :=
  if s.num Reg.yard.yardState = 3 then some 0x3211
  else if s.num Reg.yard.yardState ≠ 2 then some 0x3210
  else match v with
    | .shard id => match s.shard? id with
      | none => some 0x3214
      | some d => if d.state = 1 ∨ d.state = 2 then none else some 0x3215
    | _ => none

/-- Whether the write buffer has room for a sector (WB_DIRTY_MAX). -/
def State.wbRoom (s : State) : Bool := (s.yard.wb.length + 1) * 4096 ≤ s.num Reg.yardCfg.wbDirtyMax

/-- Accepts one sector of a volume; the Yard gives a shard's its tuple (R284). -/
def State.writeSector (s : State) (v : VolumeRef) (k : Nat) (data : Bytes) (tuple : PiTuple) : Except Nat State :=
  match s.lsaIn v k with
  | none => .error v.missing
  | some (lbn, j) =>
    let data := (data ++ zeroSector).take 4096
    let t := match v with
      | .shard id => shardTuple id (lsaOf lbn j) data
      | _ => tuple
    match s.accept1 lbn j data t with
    | none => .error 0x3216
    | some s => .ok s

/-- YARD_WRITE (R273). A sector for which the write buffer has no room waits outside, so nothing happens yet. -/
def State.yardWrite (s : State) (v : VolumeRef) (k : Nat) (data : Bytes) (tuple : PiTuple) : State :=
  match s.writeRefusal v with
  | some c => s.refuse c 0xFF 0xFF
  | none =>
    if !s.wbRoom || s.pwr.flushing then s
    else match s.writeSector v k data tuple with
      | .error c => s.refuse c 0xFF 0xFF
      | .ok s => s.ends 0x3200

/-! ### Shards (R277 to R280) -/

/-- Whether a slot holds a member that takes copies (R278). -/
def State.copyMember (s : State) (slot : Nat) : Bool :=
  s.lookout.members.any fun m => m.slot == slot && m.state == 5

/-- The slots of the partner set. -/
def slots16 (b : Bytes) : List Nat := (List.range (b.length / 2)).map fun i => leAt b (2 * i) 2

/-- The partner of a shard (R278): from the index that CRC32C gives on, the first that is a member, does not refuse and was
not tried. -/
def State.choosePartner (s : State) (shard : Nat) (skip : List Nat) : Option Nat :=
  let l := slots16 (s.blob Reg.memb.partnerSet)
  if l.isEmpty ∨ s.num Reg.lkCfg.domainId = 0 then none
  else
    let n := (crc32c (leBytes 8 shard)).toNat % l.length
    (l.drop n ++ l.take n).find? fun p => s.copyMember p && !skip.contains p

/-- Appends bytes to a shard: whole sectors are accepted, the rest stays as its tail. -/
def State.appendStored (s : State) (d : Shard) (bytes : Bytes) : Except Nat (Shard × State) :=
  let all := d.tail ++ bytes
  let start := (d.bytes - d.tail.length) / 4096
  let n := all.length / 4096
  let r := (List.range n).foldl (fun (r : Except Nat State) i => match r with
    | .error c => .error c
    | .ok s => s.writeSector (.shard d.id) (start + i) (bytesAt all (4096 * i) 4096) zeroTuple) (.ok s)
  match r with
  | .error c => .error c
  | .ok s => .ok ({ d with bytes := d.bytes + bytes.length, tail := all.drop (4096 * n) }, s)

/-- The last part of a sector is written, zero-filled. -/
def State.flushTail (s : State) (d : Shard) : Shard × State :=
  if d.tail.isEmpty then (d, s)
  else match s.writeSector (.shard d.id) ((d.bytes - d.tail.length) / 4096) d.tail zeroTuple with
    | .ok s => ({ d with tail := [] }, s)
    | .error _ => (d, s)

/-- The shard table takes a new state of an entry, journaled. -/
def State.noteShard (s : State) (d : Shard) : State := (s.putShard d).yrec (.shardState d)

/-- Creates a shard (R277): TABLE_FULL beyond SHARDS_MAX. -/
def State.createShard (s : State) (id : Nat) (own compressed : Bool) (owner partner : Nat) (ctx : Option Nat) :
    Except Nat State :=
  if s.num Reg.shard.shardsMax ≤ s.yard.shards.length then .error 0x3204
  else
    let d : Shard := ⟨id, own, 1, compressed, owner, partner, s.nextLbn, 0, s.calendarTai, zeros 48, [], 0, [], ctx⟩
    .ok ((s.putShard d).yrec (.shardCreate d))

/-- The owner appends a sample and streams it to the partner (R279, R352). -/
def State.ownerAppend (s : State) (d : Shard) (content : Bytes) : Except Nat State :=
  let stored := if d.compressed then chipStream content (s.num Reg.chipCfg.yardBlockLog2) false else content
  match s.appendStored d stored with
  | .error c => .error c
  | .ok (e, s) =>
    let e := { e with
      dir := if d.compressed then d.dir ++ [(d.raw, d.bytes, stored.length)] else d.dir
      raw := d.raw + content.length }
    let s := s.noteShard e
    .ok (if d.partner = 0xFFFFFFFF then s else s.emit (.copyAppend d.partner d.id d.bytes d.compressed stored))

/-- The directory and trailer of a COMPRESSED shard (R352). -/
def Shard.directory (d : Shard) : Bytes :=
  let dir := d.dir.flatMap fun e => leBytes 8 e.1 ++ leBytes 4 e.2.1 ++ leBytes 4 e.2.2
  dir ++ ascii "FLWCHDIR" ++ leBytes 4 d.dir.length ++ leBytes 4 (crc32c dir).toNat

/-- The shard is SINGLE, which raises SHARD_SINGLE (R279). -/
def State.setSingle (s : State) (d : Shard) : State :=
  let s := s.noteShard { d with state := 4 }
  if d.state = 4 then s else s.raise 0x3283 0xFF 0xFF (leBytes 8 d.id)

/-- The owner seals a shard (R279). -/
def State.sealShard (s : State) (d : Shard) : Except Nat State :=
  let r := if d.compressed then s.appendStored d d.directory else .ok (d, s)
  match r with
  | .error c => .error c
  | .ok (e, t) =>
    let t := if d.compressed ∧ d.partner ≠ 0xFFFFFFFF then t.emit (.copyAppend d.partner d.id d.bytes true d.directory) else t
    let (e, t) := t.flushTail e
    let e := { e with state := 2, digest := sha384 (t.shardStored e) }
    let t := t.noteShard e
    let t := t.putYard { t.yard with waits := (t.yard.waits.filter fun w => w.shard != d.id) ++
      [⟨d.id, t.now, if d.partner = 0xFFFFFFFF then [] else [d.partner]⟩] }
    .ok (if d.partner = 0xFFFFFFFF then t.setSingle e else t.emit (.copySeal d.partner d.id e.bytes e.digest))

/-- PARTNER_APPEND (R279): a range that begins the copy creates it or begins it again; the answer says whether the device
takes the copy. -/
def State.partnerAppend (s : State) (owner id offset : Nat) (compressed : Bool) (bytes : Bytes) : State :=
  let say := fun (s : State) (c : Nat) => (s.ends c).emit (.copyAnswer owner id c)
  match (if s.num Reg.yard.yardState = 3 then some 0x3211 else if s.num Reg.yard.yardState ≠ 2 then some 0x3210 else none) with
  | some c => say (s.refuse c 0xFF 0xFF) c
  | none =>
    let make := match s.shard? id with
      | none => s.createShard id false compressed owner (s.num Reg.lk.slot) none
      | some d =>
        if d.owner_ ∨ d.state = 3 then .error 0x3215
        else if offset = 0 ∧ d.bytes ≠ 0 then
          .ok ((s.discardRange d.first 0 (s.shardLbns * s.boltSectors)).noteShard
            { d with bytes := 0, raw := 0, dir := [], tail := [], digest := zeros 48, state := 1, owner })
        else .ok s
    match make with
    | .error c => say (s.refuse c 0xFF 0xFF) c
    | .ok t => match t.shard? id with
      | none => say s 0x3214
      | some d =>
        if offset ≠ d.bytes then say (s.refuse 0x3217 0xFF 0xFF) 0x3217
        else match t.appendStored d bytes with
          | .error c => say (s.refuse c 0xFF 0xFF) c
          | .ok (e, t) => say (t.noteShard e) 0x3200

/-- The directory that a stored COMPRESSED shard ends with. -/
def readDirectory (b : Bytes) : List (Nat × Nat × Nat) :=
  let n := leAt b (b.length - 8) 4
  (List.range n).map fun i =>
    let o := b.length - 16 - 16 * n + 16 * i
    (leAt b o 8, leAt b (o + 8) 4, leAt b (o + 12) 4)

/-- PARTNER_SEAL (R279): the copy is checked against BYTES and SHARD_DIGEST, and committed. -/
def State.partnerSeal (s : State) (owner id bytes : Nat) (digest : Bytes) : State :=
  match s.shard? id with
  | none => (s.refuse 0x3214 0xFF 0xFF).emit (.sealAnswer owner id false)
  | some d =>
    let (d, s) := s.flushTail d
    let stored := s.shardStored d
    if d.bytes = bytes ∧ sha384 stored = digest then
      let e := { d with state := 3, digest, dir := if d.compressed then readDirectory stored else [] }
      (((s.noteShard e).commitYard).ends 0x3200).emit (.sealAnswer owner id true)
    else ((s.putShard d).ends 0x3200).emit (.sealAnswer owner id false)

/-- The whole copy is sent to a partner again. -/
def State.resendCopy (s : State) (d : Shard) (p : Nat) : State :=
  (s.emit (.copyAppend p d.id 0 d.compressed (s.shardStored d))).emit (.copySeal p d.id d.bytes d.digest)

/-- SEAL_ANSWER (R279): SEALED, or the copy is sent again. -/
def State.sealAnswer (s : State) (device id : Nat) (ok : Bool) : State :=
  match s.shard? id with
  | none => s.ends 0x3214
  | some d =>
    if !d.owner_ ∨ d.partner ≠ device ∨ (d.state ≠ 2 ∧ d.state ≠ 4) then s
    else if ok then
      let s := s.putYard { s.yard with waits := s.yard.waits.filter fun w => w.shard != id }
      (s.noteShard { d with state := 3 }).ends 0x3200
    else (s.resendCopy d device).ends 0x3200

/-- PARTNER_WAIT_TIMEOUT (R279): once PARTNER_WAIT_MS is over the shard is SINGLE, and the copy is tried again with a
partner chosen again under R278. -/
def State.partnerTimeout (s : State) (id : Nat) (refusing : List Nat) : State :=
  match s.yard.waits.find? fun w => w.shard == id, s.shard? id with
  | some w, some d =>
    if s.now < w.since + 100000 * s.num Reg.yardCfg.partnerWaitMs then s
    else
      let s := s.setSingle d
      let d := { d with state := 4 }
      let again := fun (w : SealWait) (s : State) =>
        s.putYard { s.yard with waits := s.yard.waits.map fun x => if x.shard = id then w else x }
      match s.choosePartner id refusing with
      | none => (again { w with since := s.now } s).ends 0x3200
      | some p =>
        let d := { d with partner := p }
        (((again { w with since := s.now, tried := refusing ++ [p] } s).noteShard d).resendCopy d p).ends 0x3200
  | _, _ => s

/-- A shard's entry is removed and its range discarded (R280). -/
def State.removeShard (s : State) (d : Shard) : State :=
  let s := s.discardRange d.first 0 (s.shardLbns * s.boltSectors)
  (s.putYard { s.yard with
    shards := s.yard.shards.filter fun x => x.id != d.id
    waits := s.yard.waits.filter fun w => w.shard != d.id }).yrec (.shardDelete d.id)

/-- Deletes both copies of a shard (R280). -/
def State.deleteShard (s : State) (d : Shard) : State :=
  let s := s.removeShard d
  if d.owner_ ∧ d.partner ≠ 0xFFFFFFFF then s.emit (.copyDelete d.partner d.id) else s

/-! ### Cruise (R289 to R291) -/

/-- The bolts that cruise reads. -/
def Bolt.cruised (b : Bolt) : Bool :=
  b.state == .openData || b.state == .fullData || b.state == .openLog || b.state == .fullLog || b.state == .system ||
    b.state == .erased

/-- The bolt at cruise's position. -/
def State.cruiseBolt (s : State) : Option Bolt :=
  s.yard.bolts.find? fun b => s.num Reg.cruise.cruisePosition ≤ b.idx && b.cruised

/-- Bytes programmed on the bolts that cruise reads. -/
def State.programmedBytes (s : State) : Nat :=
  4096 * ((s.yard.bolts.filter Bolt.cruised).map fun b => b.cells.length).foldl (· + ·) 0

/-- Samples of a shard that cover a stored sector. -/
def State.samplesOver (s : State) (d : Shard) (k : Nat) : List (Nat × Nat × Nat) :=
  let all := (match s.sched.manifest with
    | some m => (m.records.filter fun (r : SampleRec) => r.shardId == d.id).map fun (r : SampleRec) => (d.id, r.shardOffset, r.length)
    | none => []) ++ (s.intake.catalogue.filterMap (·.place)).filter fun p => p.1 == d.id
  (all.eraseDups).filter fun p =>
    let (o, n) := d.storedRange p.2.1 p.2.2
    let (a, m) := sectorSpan o n
    a ≤ k && decide (k < a + m)

/-- What cruise found of one sector of a bolt (R290, R291). -/
def State.cruiseSector (s : State) (i : Nat) (x : StoredSector) (r : SectorRead) : State :=
  let mark := fun (s : State) => s.modBolt i fun b => { b with refresh := true }
  let s := s.hwAdd 64 Reg.hw.nandBytesRead 4096
  let s := match r.ecc with
    | .clean n => if s.num Reg.yardCfg.refreshBits < n then mark s else s
    | .retried _ => mark (s.bump Reg.yardFault.readRetries)
    | .failed => (s.bump Reg.yardFault.readRetries).readFault i
  let data := r.data.getD x.data
  let t := r.tuple.getD x.tuple
  let lbn := x.lsa / 65536
  if x.kind = 5 ∨ x.kind = 4 then s
  else match s.shardOfLbn lbn with
    | some d =>
      if r.ecc = .failed ∨ guard64 data ≠ t.guard ∨ t.ref ≠ x.lsa % 2 ^ 48 then
        let k := (lbn - d.first) * s.boltSectors + x.lsa % 65536
        s.putYard { s.yard with checks := (s.yard.checks ++ s.samplesOver d k).eraseDups }
      else s
    | none =>
      if r.ecc = .failed then s.logOccurrence 0x32FF 0x3212 false 0xFF (leBytes 8 x.lsa)
      else if guard64 data ≠ t.guard then s.logOccurrence 0x32FF 0x3213 false 0xFF (leBytes 8 x.lsa)
      else s

/-- Reads the sectors of a wordline in turn. -/
def State.cruiseSectors (s : State) (i : Nat) : List StoredSector → List SectorRead → State
  | [], _ => s
  | x :: l, reads => State.cruiseSectors (s.cruiseSector i x (reads.headD ⟨.clean 0, none, none⟩)) i l (reads.drop 1)

/-- Cruise's position moves behind a bolt; past the last a pass is complete. -/
def State.cruiseNext (s : State) (i : Nat) : State :=
  let s := s.putYard { s.yard with cruiseWordline := 0 }
  if s.yard.bolts.any fun b => decide (i < b.idx) && b.cruised then s.setN Reg.cruise.cruisePosition (i + 1)
  else
    let s := (s.setN Reg.cruise.cruisePosition 0).bump Reg.cruise.cruisePasses
    (s.setN Reg.cruise.cruiseLastPass s.calendarTai).putYard { s.yard with cruiseWordline := 0, cruiseDone := 0, cruiseSince := s.now }

/-- CRUISE_READ: the next wordline, or the blaze of an ERASED bolt, which becomes FREE_UNKNOWN if it fails. -/
def State.cruiseRead (s : State) (reads : List SectorRead) (blazeGood : Bool) : State :=
  if !s.yardUsable || !s.flag Reg.cruise.cruiseEnable || s.pwr.flushing then s
  else match s.cruiseBolt with
    | none => s.setN Reg.cruise.cruisePosition 0
    | some b =>
      if b.state = .erased then
        (if blazeGood then s else s.modBolt b.idx fun b => { b with state := .freeUnknown }).cruiseNext b.idx
      else
        let wl := max 1 s.wlSectors
        let w := s.yard.cruiseWordline
        let l := (b.cells.drop (w * wl)).take wl
        let s := s.cruiseSectors b.idx l reads
        let s := s.putYard { s.yard with cruiseDone := s.yard.cruiseDone + 4096 * l.length }
        if (w + 1) * wl < b.cells.length then s.putYard { s.yard with cruiseWordline := w + 1 } else s.cruiseNext b.idx

/-- CRUISE_RATE_RECOMPUTE (R289): the rate, and how far cruise is behind its cycle. -/
def State.cruiseRate (s : State) : State :=
  let cycle := s.num Reg.cruise.cruiseDays * 86400
  let total := s.programmedBytes
  let s := s.setN Reg.cruise.cruiseRate (total / max 1 cycle)
  let gone := (s.now - s.yard.cruiseSince) / 100000000
  let due := if total = 0 then gone else s.yard.cruiseDone * cycle / total
  let behind := min (gone - due) (2 ^ 32 - 1)
  let s := s.setN Reg.cruise.cruiseBehindS behind
  if 86400 < behind then s.raise 0x3284 0xFF 0xFF (leBytes 4 behind) else s

/-! ### A LUN fails (R270) -/

/-- Shards with sectors mapped to a LUN. -/
def State.shardsOn (s : State) (channel lun : Nat) : List Shard :=
  let on := fun (i : Nat) => boltChannel i == channel && boltLun i == lun
  s.yard.shards.filter fun d =>
    let inRange := fun (l : Nat) => d.first ≤ l && decide (l < d.first + s.shardLbns)
    (s.yard.lbns.any fun e => inRange e.lbn && on e.bolt) ||
      s.yard.logs.any fun e => !e.zero && inRange (e.lsa / 65536) &&
        (match s.logBoltOf e.lsa e.yseq with | some i => on i | none => false)

/-- LUN_FAIL: every bolt of it is retired, and shard sectors mapped to it are restored from their partner copies. -/
def State.lunFail (s : State) (channel lun : Nat) : State :=
  if !s.yard.luns.contains (channel, lun) then s
  else
    let hurt := s.shardsOn channel lun
    let s := s.putYard { s.yard with luns := s.yard.luns.filter (· ≠ (channel, lun)) }
    let s := (s.yard.bolts.filter fun b => boltChannel b.idx == channel && boltLun b.idx == lun).foldl
      (fun (s : State) b => s.retireBolt b.idx causeLun) s
    let s := s.setN Reg.geom.luns s.yard.luns.length
    let s := (s.bump Reg.yardFault.lunFails).raise 0x3281 channel 0xFF (leBytes 1 channel ++ leBytes 1 lun)
    hurt.foldl (fun (s : State) d =>
      let l := (match s.sched.manifest with
        | some m => (m.records.filter fun (r : SampleRec) => r.shardId == d.id).map fun (r : SampleRec) => (r.shardOffset, r.length)
        | none => []) ++ ((s.intake.catalogue.filterMap (·.place)).filter fun p => p.1 == d.id).map (·.2)
      l.eraseDups.foldl (fun (s : State) p => s.dataFault d p.1 p.2 false) s) s

/-! ### Dictionary entries of the Yard -/

/-- A shard's table entry (Table 9-6). -/
def Shard.encode (d : Shard) : Bytes :=
  leBytes 8 d.id ++ leBytes 1 (if d.owner_ then 1 else 2) ++ leBytes 1 d.state ++ leBytes 1 d.compressed.toNat ++ zeros 1 ++
    leBytes 4 d.owner ++ leBytes 4 d.partner ++ leBytes 4 d.first ++ leBytes 8 d.bytes ++ leBytes 8 d.created ++ d.digest ++
    zeros 8

/-- INVENTORY (R277). -/
def State.inventory (s : State) : Bytes := s.yard.shards.flatMap Shard.encode

/-- SHARD_QUERY. -/
def State.shardQuery (s : State) : Bytes := ((s.shard? (s.num Reg.shard.shardQueryId)).map Shard.encode).getD []

/-- YARD_COMMAND (R299): the command's own effect, or the code that refuses it. -/
def State.yardCommand (s : State) (v : Nat) (fails : List Nat) : Except Nat State :=
  let st := s.num Reg.yard.yardState
  if s.yard.writing.isSome ∧ v ≠ 0 then .error 0x3201
  else match v with
    | 0 => .ok s
    | 1 =>
      if st = 4 ∨ st = 5 ∨ st = 6 then .ok (s.formatYard fails).yardRegs
      else if (st = 2 ∨ st = 3) ∧ s.num Reg.yardCtl.formatConfirm = s.dev.uid % 2 ^ 32 then .ok (s.formatYard fails).yardRegs
      else .error 0x3218
    | 2 => if s.yardUsable then .ok s.beginCkpt.yardRegs else .error 0x3210
    | 3 =>
      if !s.yardUsable then .error 0x3210
      else .ok ((s.setN Reg.cruise.cruisePosition 0).putYard { s.yard with cruiseWordline := 0, cruiseDone := 0, cruiseSince := s.now })
    | _ => .error 0x3202

/-- A write of YARD_COMMAND over a path. -/
def State.writeYardCommand (s : State) (via : Via) (v : Nat) (fails : List Nat) : State :=
  s.writeVia via 0x3260 1 (leBytes 1 v) fun r s => match s.yardCommand v fails with
    | .error c => .error c
    | .ok t => .ok (t.store r Reg.yardCtl.yardCommand (leBytes 1 v))

end Sys2Proof.Machine
end

