-- ==== Sys2Proof/Machine/Grade.lean ====
section
/-! DEFINITION. The grading pass: start, abort, the exchange of signatures and the end (R221 to R227). -/
namespace Sys2Proof.Machine

/-- FILTER_COUNT. -/
def gradeFilters (f : Bytes) : Nat := leAt f 0x0C 2

/-- Kinds of the filters, in file order. -/
def gradeKinds (f : Bytes) : List Nat := (List.range (gradeFilters f)).map fun i => leAt (filterEntry f i) 0 1

/-- NEAR_DUP filters come after every other (R222). -/
def dupsLast : List Nat → Bool
  | [] => true
  | 2 :: l => l.all (· == 2)
  | _ :: l => dupsLast l

/-- One filter entry's structure (Table 7-12, R222). -/
def filterOk (e : Bytes) : Bool :=
  let kind := leAt e 0 1
  let reason := leAt e 2 2
  (kind == 1 || kind == 2 || kind == 3) &&
  (if kind = 1 then leAt e 1 1 ≤ 1 else leAt e 1 1 == 0) &&
  (0x8000 ≤ reason || reason == (if kind = 1 then 0x10 else if kind = 2 then 0x11 else 3)) &&
  (kind != 3 || allZero (bytesAt e 8 48)) && (kind != 2 || leAt e 0x3A 2 ≤ 3)

/-- The file's structure (R221). -/
def gradeFileOk (f : Bytes) : Bool :=
  let n := gradeFilters f
  256 ≤ f.length && bytesAt f 0 8 == ascii "FLWGRADE" && leAt f 8 2 == 1 && (leAt f 0x0A 1 == 1 || leAt f 0x0A 1 == 2) &&
  leAt f 0x0B 1 < 64 && 1 ≤ n && n ≤ 32 && leAt f 0x0E 2 == 0 && leAt f 0x14 4 == 0 && allZero (bytesAt f 0x88 120) &&
  f.length == 256 + 64 * n && dupsLast (gradeKinds f) && (List.range n).all fun i => filterOk (filterEntry f i)

/-- What the file names agrees with what the device holds (R222). -/
def State.gradeHolds (s : State) (f : Bytes) : Bool :=
  (match s.sched.manifest with
    | some m => m.digest == bytesAt f 0x20 48
    | none => false) &&
  leAt f 0x18 8 == s.num Reg.seed.seedCheck && s.sched.recipeSet == some (bytesAt f 0x50 48) &&
  leAt f 0x80 4 == s.num Reg.sched.contentLevel

/-- The models that the filters run, by digest. -/
def gradeModels (f : Bytes) : List Bytes :=
  (List.range (gradeFilters f)).filterMap fun i =>
    if leAt (filterEntry f i) 0 1 = 3 then none else some (bytesAt (filterEntry f i) 8 48)

/-- The code with which a start is refused: GRADE_INVALID or MODEL_NOT_LOADED (R222). -/
def State.gradeRefusal (s : State) : Option Nat :=
  let f := s.blob Reg.grade.gradeFile
  if !gradeFileOk f || !s.gradeHolds f then some 0x4617
  else
    let held := fun (d : Bytes) => s.comp.models.filter fun m => m.ctx == leAt f 0x0B 1 && m.digest == d
    let cls := leAt f 0x0A 1
    if (gradeModels f).any fun d => (held d) == [] then some 0x4615
    else if (gradeModels f).any fun d => (held d).all fun m => !m.classes.testBit (cls - 1) then some 0x4617
    else none

/-- GRADE_CONTROL START. -/
def State.gradeStart (s : State) : Except Nat State :=
  if s.grading then .error 0x4601
  else match s.gradeRefusal with
    | some c => .error c
    | none => .ok ((({ s with grade := ⟨[], [], [], []⟩ }.setN Reg.grade.gradeState 2).setB Reg.grade.slashRecord []).setN
        Reg.grade.slashBytes 0)

/-- GRADE_CONTROL ABORT (R226). -/
def State.gradeAbort (s : State) : Except Nat State :=
  if s.grading then
    .ok ({ s with grade := ⟨[], [], [], []⟩ }.setN Reg.grade.gradeState 6)
  else .ok s

/-- A write of GRADE_CONTROL. -/
def State.gradeControl (s : State) (v : Nat) : Except Nat State :=
  match v with
  | 0 => .ok s
  | 1 => s.gradeStart
  | 2 => s.gradeAbort
  | _ => .error 0x4602

def execGradeStart (via : Via) (s : State) : Host.Outcome State Fault Refusal :=
  act s fun s => s.writeVia via 0x4700 3 [1] fun r s => match s.gradeControl 1 with
    | .error c => .error c
    | .ok t => .ok (t.store r Reg.grade.gradeControl [1])

def execGradeAbort (via : Via) (s : State) : Host.Outcome State Fault Refusal :=
  act s fun s => s.writeVia via 0x4700 3 [2] fun r s => match s.gradeControl 2 with
    | .error c => .error c
    | .ok t => .ok (t.store r Reg.grade.gradeControl [2])

/-! ### The near-duplicate search (R224) -/

/-- Bits in which two signatures differ. -/
def hamming (a b : Nat) : Nat := popCount 64 (a ^^^ b)

/-- Two signatures share one of their four 16-bit bands. -/
def shareBand (a b : Nat) : Bool := (List.range 4).any fun i => a / 2 ^ (16 * i) % 65536 == b / 2 ^ (16 * i) % 65536

/-- The candidates of a signature among those of its filter. -/
def Signature.candidates (g : Signature) (l : List Signature) : List Signature :=
  l.filter fun x => x.filter == g.filter && x.sample != g.sample && shareBand x.bits g.bits

/-- The lowest lower SAMPLE_INDEX within PARAM bits. -/
def Signature.dupOf (g : Signature) (param : Nat) (l : List Signature) : Option Nat :=
  ((g.candidates l).filter fun x => decide (x.sample < g.sample) && decide (hamming x.bits g.bits ≤ param)).foldl
    (fun (m : Option Nat) x => match m with
      | none => some x.sample
      | some y => some (min x.sample y)) none

/-- The search over this device's signatures, in file order of the filters. -/
def State.dupSearch (s : State) : State :=
  let f := s.blob Reg.grade.gradeFile
  let sigs := s.grade.sigs
  (List.range (gradeFilters f)).foldl (fun (s : State) i =>
    let e := filterEntry f i
    if leAt e 0 1 ≠ 2 then s
    else (sigs.filter fun g => g.filter == i && g.device.isNone).foldl (fun (s : State) g =>
      let s := s.add Reg.grade.candidates (g.candidates sigs).length
      if s.grade.entries.any fun x => x.sample == g.sample then s
      else match g.dupOf (leAt e 0x3A 2) sigs with
        | some low => s.slash ⟨g.sample, leAt e 2 2, i, 0xFF, 0, low⟩
        | none => s) s) s

/-- A slash entry's bytes (Table 7-14). -/
def SlashEntry.encode (e : SlashEntry) : Bytes :=
  leBytes 8 e.sample ++ leBytes 2 e.reason ++ leBytes 1 e.filter ++ leBytes 1 e.slot ++ leBytes 4 e.score ++
    leBytes 8 e.detail ++ zeros 8

/-- The partial slash record (R226, R227). -/
def State.partialRecord (s : State) : Bytes :=
  ascii "FLWSLASH" ++ leBytes 2 1 ++ leBytes 2 1 ++ leBytes 4 32 ++ leBytes 8 s.grade.entries.length ++
    s.blob Reg.grade.gradingDigest ++ bytesAt (s.blob Reg.grade.gradeFile) 0x20 48 ++ leBytes 4 (s.num Reg.lk.slot) ++ zeros 4 ++
    s.grade.entries.flatMap SlashEntry.encode

/-- The samples that the device owns: those of the shards whose owner it is. -/
def State.ownedSamples (s : State) : List SampleRec :=
  match s.sched.manifest with
  | none => []
  | some m => m.records.filter fun r => match s.shard? r.shardId with
    | some d => d.owner_
    | none => false

/-- Every owned sample's steps 1 and 2 are over. -/
def State.gradedAll (s : State) : Bool :=
  s.ownedSamples.all fun r => s.grade.graded.contains r.sampleIndex || s.grade.sigs.any fun g => g.sample == r.sampleIndex

/-- The other devices that grade: the domain's members. -/
def State.otherGraders (s : State) : List Nat :=
  (s.lookout.members.filter fun m => m.state == 5 && m.slot != s.num Reg.lk.slot && m.slot != 0xFFFF).map (·.slot)

/-- Whether every other device's signatures of every NEAR_DUP filter are here. -/
def State.allHeard (s : State) : Bool :=
  let f := s.blob Reg.grade.gradeFile
  (List.range (gradeFilters f)).all fun i => leAt (filterEntry f i) 0 1 != 2 ||
    s.otherGraders.all fun d => s.grade.heard.contains (i * 65536 + d)

/-- The pass ends on this device: the search runs, the partial record is written, DONE (R226). -/
def State.gradeFinish (s : State) : State :=
  let s := s.dupSearch
  let s := ((s.grade.sigs.filter fun g => g.device.isNone).map (·.sample)).eraseDups.foldl (fun (s : State) x => s.pass x) s
  let r := s.partialRecord
  ((s.setB Reg.grade.slashRecord r).setN Reg.grade.slashBytes r.length).setN Reg.grade.gradeState 5

/-- GRADE_DONE: with NEAR_DUP filters the device's signatures go to the other devices first, and it waits for theirs. -/
def State.gradeDone (s : State) : State :=
  if s.num Reg.grade.gradeState ≠ 2 || !s.gradedAll then s
  else
    let dups := (List.range (gradeKinds (s.blob Reg.grade.gradeFile)).length).filter fun i =>
      (gradeKinds (s.blob Reg.grade.gradeFile)).getD i 0 == 2
    let s := dups.foldl (fun (s : State) i =>
      s.emit (.signatures i ((s.grade.sigs.filter fun g => g.filter == i && g.device.isNone).map fun g => (g.sample, g.bits)))) s
    if s.allHeard then s.gradeFinish else s.setN Reg.grade.gradeState 3

def execGradeDone (s : State) : Host.Outcome State Fault Refusal := live s State.gradeDone

/-- GRADE_SIGNATURES (R224): another device's signatures of a filter; the last one lets a device in EXCHANGE finish. -/
def State.gradeSignatures (s : State) (device filter : Nat) (l : List (Nat × Nat)) : State :=
  if !s.grading || s.grade.heard.contains (filter * 65536 + device) then s
  else
    let s := { s with grade := { s.grade with
      sigs := s.grade.sigs ++ l.map fun p => (⟨filter, some device, p.1, p.2⟩ : Signature)
      heard := s.grade.heard ++ [filter * 65536 + device] } }
    if s.num Reg.grade.gradeState = 3 ∧ s.allHeard then s.gradeFinish else s

def execGradeSignatures (device filter : Nat) (signatures : List (Nat × Nat)) (s : State) :
    Host.Outcome State Fault Refusal :=
  live s fun s => s.gradeSignatures device filter signatures

end Sys2Proof.Machine
end

