-- ==== Sys2Proof/Machine/Landing.lean ====
section
/-! DEFINITION. The NVMe controller of the Landing (R356 to R371): queues, admin and I/O commands, the write cache, aborts,
resets and self-tests. -/
namespace Sys2Proof.Machine

def State.putLanding (s : State) (l : Landing) : State := { s with landing := l }

/-! ### Queues and completions (R358, R360) -/

def State.sq? (s : State) (q : Nat) : Option NvmeSq := s.landing.sqs.find? fun x => x.id == q
def State.cq? (s : State) (q : Nat) : Option NvmeCq := s.landing.cqs.find? fun x => x.id == q
def State.cmd? (s : State) (q cid : Nat) : Option NvmeCmd := s.landing.cmds.find? fun x => x.sq == q && x.cid == cid

def State.putCq (s : State) (c : NvmeCq) : State :=
  s.putLanding { s.landing with cqs := s.landing.cqs.map fun x => if x.id = c.id then c else x }

/-- Whether a completion queue has a free entry. -/
def NvmeCq.room (c : NvmeCq) : Bool := c.tail - c.head + 1 < c.size

/-- Writes a completion into its queue, or holds it until an entry is free; then the vector's MSI-X message. -/
def State.postCq (s : State) (c : NvmeCq) (x : Completion) : State :=
  if c.room && c.held.isEmpty then
    let s := (s.putCq { c with tail := c.tail + 1 }).emit (.nvme c.id x.sq x.cid x.sct x.sc x.dw0)
    match c.vector with
    | some v => s.emit (.msix v)
    | none => s
  else s.putCq { c with held := c.held ++ [x] }

/-- I/O commands outstanding (LND_OUTSTANDING). -/
def State.ioOutstanding (s : State) : Nat := min (s.landing.cmds.filter fun c => c.sq != 0).length 0xFFFF

/-- A command completes: it is outstanding no longer, and its completion is posted unless a controller reset dropped it. -/
def State.complete (s : State) (q cid sct sc : Nat) (dw0 : Nat := 0) : State :=
  match s.cmd? q cid with
  | none => s
  | some c =>
    let s := s.putLanding { s.landing with
      cmds := s.landing.cmds.filter fun x => !(x.sq == q && x.cid == cid), ioIdleAt := s.now }
    let s := (s.bump Reg.landing.commands).ends (sct * 256 + sc)
    if c.dropped then s
    else match (s.sq? q).bind fun x => s.cq? x.cq with
      | none => s
      | some k => s.postCq k ⟨q, cid, sct, sc, dw0⟩

/-- The media is not accepting commands: a hold-up flush runs (R365). -/
def State.landStopped (s : State) : Bool := s.pwr.flushing

/-- Executes an outstanding command. -/
def State.nvme (s : State) (q cid : Nat) (f : State → State) : State :=
  if s.landStopped || (s.cmd? q cid).isNone then s else f s

/-- Executes an outstanding admin command. -/
def State.admin (s : State) (cid : Nat) (f : State → State) : State := s.nvme 0 cid f

/-! ### Doorbells and dispatch (R360, R367, R369) -/

/-- SQ_TAIL_DOORBELL: commands become outstanding; an I/O command suspends a self-test. -/
def State.sqDoorbell (s : State) (q : Nat) (l : List NvmeHead) : State :=
  if s.landStopped || (s.sq? q).isNone then s
  else
    let l := l.filter fun h => (s.cmd? q h.cid).isNone
    let s := s.putLanding { s.landing with
      cmds := s.landing.cmds ++ l.map fun h => (⟨q, h.cid, h.opcode, h.nsid, false, false⟩ : NvmeCmd) }
    if q ≠ 0 ∧ l ≠ [] then
      s.putLanding { s.landing with test := s.landing.test.map fun (t : SelfTest) => { t with suspended := true } }
    else s

def execSqTailDoorbell (sq : Nat) (commands : List NvmeHead) (s : State) : Host.Outcome State Fault Refusal :=
  act s fun s => s.sqDoorbell sq commands

/-- Posts held completions while entries are free; `n` bounds them. -/
def State.postHeld (s : State) (q : Nat) : Nat → State
  | 0 => s
  | n + 1 => match s.cq? q with
    | none => s
    | some c => match c.held with
      | [] => s
      | x :: l =>
        if c.room then
          let e : NvmeCq := { c with held := [] }
          let t := (s.putCq e).postCq e x
          match t.cq? q with
          | none => t
          | some d => State.postHeld (t.putCq { d with held := l }) q n
        else s

/-- CQ_HEAD_DOORBELL: entries are consumed up to `head` (an index of the ring). -/
def State.cqDoorbell (s : State) (q head : Nat) : State :=
  match s.cq? q with
  | none => s
  | some c =>
    let used := (head + c.size - c.head % c.size) % c.size
    if head ≥ c.size ∨ c.tail - c.head < used then s
    else (s.putCq { c with head := c.head + used }).postHeld q c.held.length

def execCqHeadDoorbell (cq head : Nat) (s : State) : Host.Outcome State Fault Refusal := act s fun s => s.cqDoorbell cq head

/-- COMMAND_DISPATCH (R367). -/
def State.dispatch (s : State) (q cid : Nat) : State :=
  if s.landStopped then s
  else s.putLanding { s.landing with cmds := s.landing.cmds.map fun (c : NvmeCmd) =>
    if c.sq = q ∧ c.cid = cid then { c with dispatched := true } else c }

def execCommandDispatch (sq cid : Nat) (s : State) : Host.Outcome State Fault Refusal := act s fun s => s.dispatch sq cid

/-! ### Queue commands (R358, R360) -/

def execCreateIoCompletionQueue (cid qid size : Nat) (vector : Option Nat) (s : State) :
    Host.Outcome State Fault Refusal :=
  act s fun s => s.admin cid fun s =>
    if qid = 0 ∨ 1024 < qid ∨ (s.cq? qid).isSome then s.complete 0 cid 1 1
    else if size < 2 ∨ 4096 < size then s.complete 0 cid 1 2
    else if (match vector with | some v => decide (v = 0 ∨ 1024 < v) | none => false) then s.complete 0 cid 1 8
    else (s.putLanding { s.landing with cqs := s.landing.cqs ++ [⟨qid, size, vector, 0, 0, []⟩] }).complete 0 cid 0 0

def execDeleteIoCompletionQueue (cid qid : Nat) (s : State) : Host.Outcome State Fault Refusal :=
  act s fun s => s.admin cid fun s =>
    if qid = 0 ∨ (s.cq? qid).isNone then s.complete 0 cid 1 1
    else if s.landing.sqs.any fun x => x.cq == qid then s.complete 0 cid 1 0x0C
    else (s.putLanding { s.landing with cqs := s.landing.cqs.filter fun x => x.id != qid }).complete 0 cid 0 0

def execCreateIoSubmissionQueue (cid qid size cqid : Nat) (s : State) : Host.Outcome State Fault Refusal :=
  act s fun s => s.admin cid fun s =>
    if qid = 0 ∨ 1024 < qid ∨ (s.sq? qid).isSome then s.complete 0 cid 1 1
    else if size < 2 ∨ 4096 < size then s.complete 0 cid 1 2
    else if cqid = 0 ∨ (s.cq? cqid).isNone then s.complete 0 cid 1 0
    else (s.putLanding { s.landing with sqs := s.landing.sqs ++ [⟨qid, cqid, size⟩] }).complete 0 cid 0 0

/-- Undispatched commands of a queue end with a status. -/
def State.endFetched (s : State) (p : NvmeCmd → Bool) (sct sc : Nat) : State :=
  (s.landing.cmds.filter fun c => !c.dispatched && p c).foldl (fun (s : State) c => s.complete c.sq c.cid sct sc) s

def execDeleteIoSubmissionQueue (cid qid : Nat) (s : State) : Host.Outcome State Fault Refusal :=
  act s fun s => s.admin cid fun s =>
    if qid = 0 ∨ (s.sq? qid).isNone then s.complete 0 cid 1 1
    else
      let s := s.endFetched (fun c => c.sq == qid) 0 8
      (s.putLanding { s.landing with sqs := s.landing.sqs.filter fun x => x.id != qid }).complete 0 cid 0 0

/-! ### Identify, log pages and features (R359, R364) -/

/-- `v` over `b` from offset `off`. -/
def putAt (b : Bytes) (off : Nat) (v : Bytes) : Bytes := b.take off ++ v ++ b.drop (off + v.length)

/-- EDSTT in minutes (Table 12-6). -/
def State.edstt (s : State) : Nat := 2 + ceilDiv (s.num Reg.shard.hostDataBytes) 1200000000000

/-- The Identify Controller data: the fields that the chapter gives; the others are free. -/
def State.identifyController (s : State) : Bytes :=
  let b := (Config.freeBytes s.freeCtr 4096 ++ zeros 4096).take 4096
  let b := putAt b 4 ((s.dev.serial ++ List.replicate 20 0x20).take 20)
  let b := putAt (putAt b 77 [9]) 78 (leBytes 2 1)
  let b := putAt (putAt b 258 [7]) 259 [7]
  let b := putAt (putAt b 260 [5]) 316 (leBytes 2 s.edstt)
  putAt (putAt b 516 (leBytes 4 256)) 525 [1]

/-- A namespace's attributes. -/
def State.space? (s : State) (n : Nat) : Option Namespace := s.landing.spaces.find? fun x => x.nsid == n

/-- Mapped sectors of a namespace (NUSE). -/
def State.nuse (s : State) (v : YVolume) : Nat :=
  let c := max 1 s.boltSectors
  ((List.range v.sectors).filter fun k => (s.mapped (v.first + k / c) (k % c)).isSome).length

/-- The Identify Namespace data: NSZE, NCAP equal to it, NUSE, and the LBA formats. -/
def State.identifyNamespace (s : State) (x : Namespace) (v : YVolume) : Bytes :=
  let b := (Config.freeBytes s.freeCtr 4096 ++ zeros 4096).take 4096
  let b := putAt b 0 (leBytes 8 v.sectors ++ leBytes 8 v.sectors ++ leBytes 8 (s.nuse v))
  let b := putAt (putAt b 25 [1]) 26 (leBytes 1 x.lbaf)
  putAt b 128 (leBytes 2 0 ++ [12, 0] ++ leBytes 2 16 ++ [12, 0])

/-- A list of NSIDs in 4,096 bytes. -/
def nsList (l : List Nat) : Bytes := ((l.take 1024).flatMap (leBytes 4) ++ zeros 4096).take 4096

def execIdentify (cid cns nsid : Nat) (s : State) : Host.Outcome State Fault Refusal :=
  act s fun s => s.admin cid fun s =>
    let give := fun (b : Bytes) => (s.drawn.emit (.nvmeData 0 cid b)).complete 0 cid 0 0
    match cns with
    | 0 => match s.space? nsid, s.volume? 1 nsid with
      | some x, some v => if x.attached then give (s.identifyNamespace x v) else give (zeros 4096)
      | _, _ => if nsid = 0 ∨ 256 < nsid then s.complete 0 cid 0 0x0B else give (zeros 4096)
    | 1 => give s.identifyController
    | 2 => give (nsList ((s.landing.spaces.filter fun x => x.attached && decide (nsid < x.nsid)).map (·.nsid)))
    | 0x10 => give (nsList ((s.landing.spaces.filter fun x => decide (nsid < x.nsid)).map (·.nsid)))
    | 0x11 => match s.space? nsid, s.volume? 1 nsid with
      | some x, some v => give (s.identifyNamespace x v)
      | _, _ => if nsid = 0 ∨ 256 < nsid then s.complete 0 cid 0 0x0B else give (zeros 4096)
    | 0x12 => match s.space? nsid with
      | some x => give ((if x.attached then leBytes 2 1 ++ leBytes 2 1 else leBytes 2 0) ++ zeros 4092 |>.take 4096)
      | none => s.complete 0 cid 0 0x0B
    | 0x13 => give ((leBytes 2 1 ++ leBytes 2 1 ++ zeros 4092).take 4096)
    | _ => s.complete 0 cid 0 2

/-- The SMART / Health Information log: Unsafe Shutdowns (R365); the other fields are free. -/
def State.smartLog (s : State) : Bytes :=
  putAt ((Config.freeBytes s.freeCtr 512 ++ zeros 512).take 512) 144 (leBytes 16 (s.num Reg.hw.unsafeShutdowns))

/-- The Device Self-test log: the current operation, then the results, newest first. -/
def State.selfTestLog (s : State) : Bytes :=
  let cur := match s.landing.test with | some t => t.kind | none => 0
  let one := fun (r : SelfTestResult) =>
    leBytes 1 (r.result + 16 * r.kind) ++ leBytes 1 r.segment ++ leBytes 1 (if r.lba.isSome then 2 else 0) ++ zeros 9 ++
      zeros 4 ++ leBytes 8 (r.lba.getD 0) ++ zeros 4
  ((leBytes 1 cur ++ zeros 3) ++ (s.landing.results.take 20).flatMap one ++ zeros 564).take 564

def execGetLogPage (cid lid : Nat) (s : State) : Host.Outcome State Fault Refusal :=
  act s fun s => s.admin cid fun s =>
    let give := fun (b : Bytes) => (s.drawn.emit (.nvmeData 0 cid b)).complete 0 cid 0 0
    match lid with
    | 1 => give (Config.freeBytes s.freeCtr 64)
    | 2 => give s.smartLog
    | 3 => give (putAt ((Config.freeBytes s.freeCtr 512 ++ zeros 512).take 512) 0
        [if s.num Reg.sec.bootState = 1 then 0x02 else 0x01])
    | 5 => give (Config.freeBytes s.freeCtr 4096)
    | 6 => give s.selfTestLog
    | _ => s.complete 0 cid 1 9

/-- The features that can be set, with their values after a reset; Volatile Write Cache follows HOLDUP_PRESENT (R364). -/
def State.feature (s : State) (fid : Nat) : Option Nat :=
  match s.landing.features.find? fun p => p.1 == fid with
  | some p => some p.2
  | none =>
    if fid = 6 then some (s.num Reg.landing.holdupPresent)
    else if fid = 7 then some (1023 + 1023 * 65536)
    else if fid = 1 ∨ fid = 2 ∨ fid = 4 ∨ fid = 5 ∨ fid = 8 ∨ fid = 9 ∨ fid = 0x0A ∨ fid = 0x0B then some 0
    else none

/-- The Volatile Write Cache is enabled. -/
def State.vwc (s : State) : Bool := (s.feature 6).getD 0 % 2 == 1

def execSetFeatures (cid fid value : Nat) (s : State) : Host.Outcome State Fault Refusal :=
  act s fun s => s.admin cid fun s =>
    match s.feature fid with
    | none => s.complete 0 cid 0 2
    | some v =>
      if fid = 7 then s.complete 0 cid 0 0 v
      else
        let value := if fid = 6 then value % 2 else value % 2 ^ 32
        (s.putLanding { s.landing with
          features := (s.landing.features.filter fun p => p.1 != fid) ++ [(fid, value)] }).complete 0 cid 0 0

def execGetFeatures (cid fid : Nat) (s : State) : Host.Outcome State Fault Refusal :=
  act s fun s => s.admin cid fun s =>
    match s.feature fid with
    | none => s.complete 0 cid 0 2
    | some v => s.complete 0 cid 0 0 v

/-! ### Abort and asynchronous events (R360, R367) -/

def execAbort (cid sqid named : Nat) (s : State) : Host.Outcome State Fault Refusal :=
  act s fun s => s.admin cid fun s =>
    if 8 < (s.landing.cmds.filter fun c => c.sq == 0 && c.opcode == 8).length then s.complete 0 cid 1 3
    else match s.cmd? sqid named with
      | some c =>
        if c.dispatched ∨ (sqid = 0 ∧ named = cid) then (s.bump Reg.landing.abortsDeclined).complete 0 cid 0 0 1
        else ((s.complete sqid named 0 7).bump Reg.landing.abortsHonoured).complete 0 cid 0 0
      | none => (s.bump Reg.landing.abortsDeclined).complete 0 cid 0 0 1

/-- An asynchronous event completes the oldest request, or waits for one: Dword 0 as NVMe gives it. -/
def State.asyncEvent (s : State) (dw0 : Nat) : State :=
  match s.landing.aers with
  | cid :: l => (s.putLanding { s.landing with aers := l }).complete 0 cid 0 0 dw0
  | [] => s.putLanding { s.landing with events := s.landing.events ++ [dw0] }

def execAsynchronousEventRequest (cid : Nat) (s : State) : Host.Outcome State Fault Refusal :=
  act s fun s => s.admin cid fun s =>
    match s.landing.events with
    | e :: l => (s.putLanding { s.landing with events := l }).complete 0 cid 0 0 e
    | [] =>
      if 8 ≤ s.landing.aers.length then s.complete 0 cid 1 5
      else (s.dispatch 0 cid).putLanding { (s.dispatch 0 cid).landing with aers := s.landing.aers ++ [cid] }

/-! ### Journaling host commands (R370) -/

/-- The 64-byte submission entry of a command. -/
def sqe (opcode cid nsid d10 d11 d12 d13 : Nat) : Bytes :=
  leBytes 1 opcode ++ zeros 1 ++ leBytes 2 cid ++ leBytes 4 nsid ++ zeros 32 ++ leBytes 4 d10 ++ leBytes 4 d11 ++ leBytes 4 d12 ++
    leBytes 4 d13 ++ zeros 8

/-- A HOST_COMMAND record while STATE is ARMED, RUNNING or HOLD. -/
def State.hostRecord (s : State) (q : Nat) (entry : Bytes) (data : Option Bytes) : State :=
  if s.replaying then s
  else s.journal 0x0012 q data.isSome (entry ++ (data.map sha384).getD [])

/-! ### Namespaces (R359 to R361, R371) -/

/-- A dispatched command on a namespace has not ended. -/
def State.nsBusy (s : State) (n cid : Nat) : Bool :=
  s.landing.cmds.any fun c => c.nsid == n && c.dispatched && !(c.sq == 0 && c.cid == cid)

def State.nsCount (s : State) : State := s.setN Reg.landing.namespaces s.landing.spaces.length

/-- A self-test ends with a result (R369). -/
def State.endTest (s : State) (result segment : Nat) (lba : Option Nat) : State :=
  match s.landing.test with
  | none => s
  | some t => s.putLanding { s.landing with
      test := none, results := (⟨t.kind, result, segment, lba⟩ :: s.landing.results).take 20 }

/-- The lowest NSID not in use. -/
def State.freeNsid (s : State) : Option Nat := ((List.range 256).map (· + 1)).find? fun n => (s.space? n).isNone

/-- Creates a namespace: a Yard volume of one LBN range. -/
def State.createNs (s : State) (cid nsze lbaf : Nat) : State :=
  if 1 < lbaf then s.complete 0 cid 1 0x0A
  else if nsze = 0 then s.complete 0 cid 0 2
  else match s.freeNsid with
    | none => s.complete 0 cid 1 0x16
    | some n =>
      let v : YVolume := ⟨1, n, s.nextLbn, s.lbnsFor nsze, nsze⟩
      let s := s.hostRecord 0 (sqe 0x0D cid 0 0 0 0 0) none
      let s := (s.putYard { s.yard with volumes := s.yard.volumes ++ [v] }).yrec (.volume v true)
      ((s.putLanding { s.landing with spaces := s.landing.spaces ++ [⟨n, lbaf, false⟩] }).nsCount).complete 0 cid 0 0 n

/-- Deletes a namespace. -/
def State.deleteNs (s : State) (cid n : Nat) : State :=
  match s.space? n, s.volume? 1 n with
  | some _, some v =>
    if s.nsBusy n cid then s
    else
      let s := s.hostRecord 0 (sqe 0x0D cid n 1 0 0 0) none
      let s := s.endFetched (fun c => c.nsid == n && c.sq != 0) 0 0x0B
      let s := if (s.landing.test.map (·.kind)) = some 2 then s.endTest 3 0 none else s
      let s := s.discardRange v.first 0 v.sectors
      let s := (s.putYard { s.yard with volumes := s.yard.volumes.filter (· ≠ v) }).yrec (.volume v false)
      ((s.putLanding { s.landing with spaces := s.landing.spaces.filter fun x => x.nsid != n }).nsCount).complete 0 cid 0 0
  | _, _ => s.complete 0 cid 0 0x0B

/-- The status with which a command that writes is refused (Table 12-5). -/
def State.writeStatus (s : State) : Option (Nat × Nat) :=
  if s.num Reg.yard.yardState ≠ 2 ∧ s.num Reg.yard.yardState ≠ 3 then some (0, 0x82)
  else if s.num Reg.yard.yardState = 3 ∨ s.replaying then some (0, 0x20)
  else none

def execNamespaceManagement (cid : Nat) (op : NsOp) (s : State) : Host.Outcome State Fault Refusal :=
  act s fun s => s.admin cid fun s =>
    match s.writeStatus with
    | some c => s.complete 0 cid c.1 c.2
    | none => match op with
      | .create nsze lbaf => (s.createNs cid nsze lbaf).yardRegs
      | .delete n => (s.deleteNs cid n).yardRegs

def execNamespaceAttachment (cid nsid : Nat) (attach : Bool) (controllers : List Nat) (s : State) :
    Host.Outcome State Fault Refusal :=
  act s fun s => s.admin cid fun s =>
    match s.space? nsid with
    | none => s.complete 0 cid 0 0x0B
    | some x =>
      if controllers ≠ [1] then s.complete 0 cid 1 0x1C
      else if x.attached = attach then s.complete 0 cid 1 (if attach then 0x18 else 0x1A)
      else (s.putLanding { s.landing with spaces := s.landing.spaces.map fun (y : Namespace) =>
        if y.nsid = nsid then { y with attached := attach } else y }).complete 0 cid 0 0

/-- The bolts that a volume's LBNs are mapped to. -/
def State.boltsOfVolume (s : State) (v : YVolume) : List Nat :=
  (s.yard.lbns.filter fun e => v.first ≤ e.lbn && decide (e.lbn < v.first + v.count)).map (·.bolt)

/-- FORMAT NVM: the namespace is unmapped; with Secure Erase Settings 1 its bolts are erased first. -/
def State.formatNs (s : State) (cid n lbaf ses : Nat) (fails : List Nat) : State :=
  match s.space? n, s.volume? 1 n with
  | some _, some v =>
    if s.nsBusy n cid then s
    else
      let s := s.hostRecord 0 (sqe 0x80 cid n (lbaf + 512 * ses) 0 0 0) none
      let s := s.endFetched (fun c => c.nsid == n && c.sq != 0) 0 0x0B
      let s := if s.landing.test.isSome then s.endTest 4 0 none else s
      let bolts := s.boltsOfVolume v
      let s := (s.discardRange v.first 0 v.sectors).commitYard
      let s := if ses = 1 then
          bolts.foldl (fun (s : State) i => (s.beginErase i).endErase i ⟨!fails.contains i, 0, true⟩) s
        else s
      (s.putLanding { s.landing with spaces := s.landing.spaces.map fun (y : Namespace) =>
        if y.nsid = n then { y with lbaf } else y }).complete 0 cid 0 0
  | _, _ => s.complete 0 cid 0 0x0B

def execFormatNvm (cid nsid lbaf ses : Nat) (eraseFails : List Nat) (s : State) : Host.Outcome State Fault Refusal :=
  act s fun s => s.admin cid fun s =>
    match s.writeStatus with
    | some c => s.complete 0 cid c.1 c.2
    | none =>
      if 1 < ses then s.complete 0 cid 0 2
      else if 1 < lbaf then s.complete 0 cid 1 0x0A
      else (s.formatNs cid nsid lbaf ses eraseFails).yardRegs

/-! ### Firmware (R359, R502) -/

def execFirmwareImageDownload (cid offset : Nat) (bytes : Bytes) (s : State) : Host.Outcome State Fault Refusal :=
  act s fun s => s.admin cid fun s =>
    if s.landing.image.any fun p => decide (p.1 < offset + bytes.length) && decide (offset < p.1 + p.2.length) then
      s.complete 0 cid 1 0x14
    else (s.putLanding { s.landing with image := s.landing.image ++ [(offset, bytes)] }).complete 0 cid 0 0

/-- The image downloaded, in offset order. -/
def imageBytes (l : List (Nat × Bytes)) : Bytes :=
  let n := (l.map fun p => p.1 + p.2.length).foldl max 0
  l.foldl (fun b p => putAt b p.1 p.2) (zeros n)

/-- FIRMWARE_COMMIT (R502): slot 2 takes the image only if it passes the checks of R501 step 1: its certificate and
signature verify (`trusted`), and its SVN is at least FUSE_SVN. -/
def execFirmwareCommit (cid slot action svn : Nat) (trusted : Bool) (s : State) : Host.Outcome State Fault Refusal :=
  act s fun s => s.admin cid fun s =>
    let b := imageBytes s.landing.image
    if slot = 1 ∨ 2 < slot then s.complete 0 cid 1 6
    else if 1 < action then s.complete 0 cid 0 2
    else if b = [] ∨ !trusted ∨ svn < s.nv.fuseSvn ∨ 32 * 2 ^ 20 < b.length then s.complete 0 cid 1 7
    else
      let s := { s with nv := { s.nv with slot2 := ⟨svn, sha384 b, trusted, true⟩ } }
      (s.putLanding { s.landing with image := [] }).complete 0 cid 1 0x0B

/-! ### Self-tests (R369) -/

def execDeviceSelfTest (cid nsid code : Nat) (s : State) : Host.Outcome State Fault Refusal :=
  act s fun s => s.admin cid fun s =>
    if nsid ≠ 0 ∧ nsid ≠ 0xFFFFFFFF ∧ (s.space? nsid).isNone then s.complete 0 cid 0 0x0B
    else if code = 0xF then (s.endTest 1 0 none).complete 0 cid 0 0
    else if code ≠ 1 ∧ code ≠ 2 then s.complete 0 cid 0 2
    else if s.landing.test.isSome then s.complete 0 cid 1 0x1D
    else (s.putLanding { s.landing with
      test := some ⟨code, s.landing.cmds.any fun c => c.sq != 0⟩ }).complete 0 cid 0 0

/-- SELFTEST_RESUME: 10 ms with no I/O command outstanding. -/
def execSelftestResume (s : State) : Host.Outcome State Fault Refusal :=
  act s fun s =>
    if s.ioOutstanding = 0 ∧ s.landing.ioIdleAt + 1000000 ≤ s.now then
      s.putLanding { s.landing with test := s.landing.test.map fun (t : SelfTest) => { t with suspended := false } }
    else s

/-- DEVICE_SELF_TEST_DONE: the result, with the segment and LBA of the first failure. -/
def execDeviceSelfTestDone (failing : Option (Nat × Nat)) (s : State) : Host.Outcome State Fault Refusal :=
  act s fun s => match s.landing.test with
    | none => s
    | some t =>
      if t.suspended then s
      else match failing with
        | none => s.endTest 0 0 none
        | some (segment, lba) => s.endTest 7 segment (some lba)

/-! ### I/O commands (R361 to R363) -/

/-- Sectors in one command: 2 MiB (MDTS 9). -/
def maxSectors : Nat := 512

/-- What is wrong with a command's namespace and range, as a status; otherwise the namespace and its volume. -/
def State.ioTarget (s : State) (nsid slba count : Nat) : Except (Nat × Nat) (Namespace × YVolume) :=
  match s.space? nsid, s.volume? 1 nsid with
  | some x, some v =>
    if !x.attached then .error (0, 2)
    else if maxSectors < count then .error (0, 2)
    else if v.sectors < slba + count then .error (0, 0x80)
    else .ok (x, v)
  | _, _ => .error (0, 0x0B)

/-- The tuple that the Landing generates (R362). -/
def landTuple (lba : Nat) (data : Bytes) : PiTuple := ⟨guard64 data, 0, lba % 2 ^ 48⟩

/-- The checks of one sector's tuple; none if they pass. A tuple with application tag 0xFFFF is not checked. -/
def piCheck (guard app ref : Bool) (t : PiTuple) (data : Bytes) (lbat lbatm refTag : Nat) : Option (Nat × Nat) :=
  if t.app = 0xFFFF then none
  else if guard && guard64 data != t.guard then some (2, 0x82)
  else if app && (t.app &&& lbatm != lbat &&& lbatm) then some (2, 0x83)
  else if ref && t.ref != refTag % 2 ^ 48 then some (2, 0x84)
  else none

/-- The first failing check of the sectors written, in order. -/
def writeCheck (x : Namespace) (p : PiCheck) : Nat → List (Bytes × PiTuple) → Option (Nat × Nat)
  | _, [] => none
  | i, (d, t) :: l =>
    if x.lbaf = 0 ∨ p.pract then none
    else match piCheck p.guard p.app p.ref t d p.lbat p.lbatm (p.ilbrt + i) with
      | some e => some e
      | none => writeCheck x p (i + 1) l

/-- Accepts a command's sectors in order, with the numbers they took; none where one has no bolt. -/
def State.acceptAll (s : State) (base slba : Nat) (gen : Bool) : Nat → List (Bytes × PiTuple) → Option (List Nat × State)
  | _, [] => some ([], s)
  | i, (d, t) :: l =>
    let c := max 1 s.boltSectors
    let data := (d ++ zeros 4096).take 4096
    let t := if gen then landTuple (slba + i) data else t
    match s.accept1 (base + (slba + i) / c) ((slba + i) % c) data t with
    | none => none
    | some u => match State.acceptAll u base slba gen (i + 1) l with
      | none => none
      | some (q, u) => some (s.yard.yseq :: q, u)

/-- A command waits until sectors are on NAND and the records so far are committed. -/
def State.waitNand (s : State) (q cid : Nat) (sectors : List Nat) : State :=
  let s := s.dispatch q cid
  s.putLanding { s.landing with waits := s.landing.waits ++ [⟨q, cid, sectors, s.yard.yseq⟩] }

/-- Whether a wait is over. -/
def State.waitOver (s : State) (w : NvmeWait) : Bool :=
  (!s.yard.wb.any fun x => w.sectors.contains x.sector.yseq) && !s.yard.staged.any fun e => decide (e.yseq < w.mark)

/-- Completes every command whose wait is over. -/
def State.settleWaits (s : State) : State :=
  let done := s.landing.waits.filter s.waitOver
  let s := s.putLanding { s.landing with waits := s.landing.waits.filter fun w => !done.contains w }
  done.foldl (fun (s : State) w => s.complete w.sq w.cid 0 0) s

/-- NVME_WRITE (R362, R363). Where the write buffer has no room for it, it waits. -/
def State.nvmeWrite (s : State) (q cid nsid slba : Nat) (fua : Bool) (p : PiCheck) (l : List (Bytes × PiTuple))
    (stage : Nat) : State :=
  match s.writeStatus with
  | some c => s.complete q cid c.1 c.2
  | none => match s.ioTarget nsid slba l.length with
    | .error c => s.complete q cid c.1 c.2
    | .ok (x, v) =>
      if stage ≠ 0 ∧ s.bufPoisoned stage 0 (4096 * l.length) then s.complete q cid 0 4
      else match writeCheck x p 0 l with
        | some c => s.complete q cid c.1 c.2
        | none =>
          if s.num Reg.yardCfg.wbDirtyMax < (s.yard.wb.length + l.length) * 4096 then s
          else match s.acceptAll v.first slba (x.lbaf == 0 || p.pract) 0 l with
            | none => s.complete q cid 0 0x81
            | some (nums, s) =>
              let s := s.hostRecord q (sqe 1 cid nsid (slba % 2 ^ 32) (slba / 2 ^ 32) (l.length - 1) 0)
                (some (l.flatMap (·.1)))
              if fua || !s.vwc then (s.padAll.waitNand q cid nums).settleWaits
              else (s.dispatch q cid).complete q cid 0 0

def execNvmeWrite (sq cid nsid slba : Nat) (fua : Bool) (pi : PiCheck) (sectors : List (Bytes × PiTuple)) (stage : Nat)
    (s : State) : Host.Outcome State Fault Refusal :=
  act s fun s => s.nvme sq cid fun s => (s.nvmeWrite sq cid nsid slba fua pi sectors stage).yardRegs

/-- NVME_FLUSH (R363): it waits for every write completed before it. -/
def State.nvmeFlush (s : State) (q cid nsid : Nat) : State :=
  if !s.yardUsable then s.complete q cid 0 0x82
  else if nsid ≠ 0xFFFFFFFF ∧ (s.space? nsid).isNone then s.complete q cid 0 0x0B
  else
    let open_ := s.landing.waits.flatMap (·.sectors)
    let nums := (s.yard.wb.map fun w => w.sector.yseq).filter fun n => !open_.contains n
    (s.padAll.waitNand q cid nums).settleWaits

def execNvmeFlush (sq cid nsid : Nat) (s : State) : Host.Outcome State Fault Refusal :=
  act s fun s => s.nvme sq cid fun s => (s.nvmeFlush sq cid nsid).yardRegs

/-- Reads sectors through the Yard and checks them: the sectors, or the status of the first that fails. -/
def State.readCheck (s : State) (x : Namespace) (p : PiCheck) (base slba : Nat) :
    Nat → Nat → List SectorRead → Except (Nat × Nat) (List (Bytes × PiTuple)) × State
  | 0, _, _ => (.ok [], s)
  | n + 1, i, reads =>
    let c := max 1 s.boltSectors
    let (g, s) := s.readSector (base + (slba + i) / c) ((slba + i) % c) (reads.headD ⟨.clean 0, none, none⟩)
    let bad :=
      if g.failed then some (2, 0x81)
      else if !g.guardOk then some (2, 0x82)
      else if x.lbaf = 0 then piCheck true true true g.tuple g.data 0 0xFFFF (slba + i)
      else piCheck p.guard p.app p.ref g.tuple g.data p.lbat p.lbatm (p.ilbrt + i)
    match bad with
    | some e => (.error e, s)
    | none =>
      let r := State.readCheck s x p base slba n (i + 1) (reads.drop 1)
      (match r.1 with | .ok l => .ok ((g.data, g.tuple) :: l) | .error e => .error e, r.2)

/-- A read that meets an erase suspended 8 times waits for its end; another suspends the erases it meets (Table 9-5). -/
def State.meetErases (s : State) (base slba count : Nat) : Option State :=
  let c := max 1 s.boltSectors
  let l := ((List.range count).filterMap fun i => s.eraseInWay (base + (slba + i) / c) ((slba + i) % c)).eraseDups
  if l.any fun r => decide (8 ≤ r.suspended) then none
  else some (s.putYard { s.yard with erases := s.yard.erases.map fun (r : EraseRun) =>
    if (l.contains r) then { r with suspended := r.suspended + 1 } else r })

/-- A command that reads: `f` answers with what was read. -/
def State.ioRead (s : State) (q cid nsid slba count : Nat) (p : PiCheck) (reads : List SectorRead)
    (f : State → List (Bytes × PiTuple) → State) : State :=
  if !s.yardUsable then s.complete q cid 0 0x82
  else match s.ioTarget nsid slba count with
    | .error c => s.complete q cid c.1 c.2
    | .ok (x, v) => match s.meetErases v.first slba count with
      | none => s
      | some s =>
        let r := (s.dispatch q cid).readCheck x p v.first slba count 0 reads
        match r.1 with
        | .error c => r.2.complete q cid c.1 c.2
        | .ok l => f r.2 l

def execNvmeRead (sq cid nsid slba count : Nat) (pi : PiCheck) (reads : List SectorRead) (s : State) :
    Host.Outcome State Fault Refusal :=
  act s fun s => s.nvme sq cid fun s => s.ioRead sq cid nsid slba count pi reads fun s l =>
    (s.emit (.sectors sq cid l)).complete sq cid 0 0

def execVerify (sq cid nsid slba count : Nat) (pi : PiCheck) (reads : List SectorRead) (s : State) :
    Host.Outcome State Fault Refusal :=
  act s fun s => s.nvme sq cid fun s => s.ioRead sq cid nsid slba count pi reads fun s _ => s.complete sq cid 0 0

def execCompare (sq cid nsid slba : Nat) (pi : PiCheck) (data : List Bytes) (reads : List SectorRead) (s : State) :
    Host.Outcome State Fault Refusal :=
  act s fun s => s.nvme sq cid fun s => s.ioRead sq cid nsid slba data.length pi reads fun s l =>
    if l.map (·.1) = data then s.complete sq cid 0 0 else s.complete sq cid 2 0x85

/-- A command that discards ranges (R282). -/
def State.ioDiscard (s : State) (q cid nsid opcode : Nat) (ranges : List (Nat × Nat)) : State :=
  match s.writeStatus with
  | some c => s.complete q cid c.1 c.2
  | none =>
    match ranges.findSome? fun r => match s.ioTarget nsid r.1 (min r.2 maxSectors) with
      | .error c => some c
      | .ok (_, v) => if v.sectors < r.1 + r.2 then some (0, 0x80) else none with
    | some c => s.complete q cid c.1 c.2
    | none => match s.volume? 1 nsid with
      | none => s.complete q cid 0 0x0B
      | some v =>
        let s := s.dispatch q cid
        let s := ranges.foldl (fun (s : State) r => s.discardRange v.first r.1 r.2) s
        let r0 := ranges.headD (0, 0)
        (s.hostRecord q (sqe opcode cid nsid (r0.1 % 2 ^ 32) (r0.1 / 2 ^ 32) (r0.2 - 1) 0) none).complete q cid 0 0

def execWriteZeroes (sq cid nsid slba count : Nat) (s : State) : Host.Outcome State Fault Refusal :=
  act s fun s => s.nvme sq cid fun s => (s.ioDiscard sq cid nsid 8 [(slba, count)]).yardRegs

def execDatasetManagement (sq cid nsid : Nat) (deallocate : Bool) (ranges : List (Nat × Nat)) (s : State) :
    Host.Outcome State Fault Refusal :=
  act s fun s => s.nvme sq cid fun s =>
    if deallocate then (s.ioDiscard sq cid nsid 9 ranges).yardRegs
    else match s.writeStatus with
      | some c => s.complete sq cid c.1 c.2
      | none => s.complete sq cid 0 0

def execInvalidCommandOpcode (sq cid _opcode : Nat) (s : State) : Host.Outcome State Fault Refusal :=
  act s fun s => s.nvme sq cid fun s => s.complete sq cid 0 1

/-! ### Resets and power failure (R365, R368) -/

/-- CSTS.RDY: every dispatched command of a reset has ended. -/
def State.nvmeReady (s : State) : Bool := !s.landing.cmds.any (·.dropped)

/-- CONTROLLER_RESET (R368). -/
def State.nvmeReset (s : State) : State :=
  let s := s.endTest 2 0 none
  s.putLanding { s.landing with
    sqs := [NvmeSq.admin], cqs := [NvmeCq.admin], features := [], aers := [], events := [], image := []
    cmds := (s.landing.cmds.filter fun c => c.dispatched && !s.landing.aers.contains c.cid).map fun (c : NvmeCmd) =>
      { c with dropped := true } }

def execControllerReset (s : State) : Host.Outcome State Fault Refusal := act s State.nvmeReset

/-- PWR_FAIL_N asserts: what is fetched and not dispatched completes (R365). -/
def State.landPowerFail (s : State) : State := s.endFetched (fun _ => true) 0 5

/-- LND_STATUS (Table 12-12), which the host reads; no command of the table reads it. -/
def State.lndStatus (s : State) : Nat :=
  s.yardUsable.toNat + 2 * (decide (s.num Reg.yard.yardState = 3)).toNat +
    4 * (decide (s.num Reg.replay.replayMode = 1)).toNat + 8 * s.pwr.pwrFailLow.toNat +
    16 * (s.flag Reg.landing.holdupPresent).toNat + 32 * (match s.landing.test with | some t => t.suspended | none => false).toNat

/-- LND_OUTSTANDING. -/
def State.lndOutstanding (s : State) : Nat := s.ioOutstanding

end Sys2Proof.Machine
end

