-- ==== Sys2Proof/Machine/Push.lean ====
section
/-! DEFINITION. Push ports (R372 to R376) and ingest (R377, R378). -/
namespace Sys2Proof.Machine

/-! ### Ports (R372 to R375) -/

def State.port (s : State) (p : Nat) : PushPort := (s.landing.ports.find? fun x => x.port == p).getD (PushPort.fresh p)

def State.putPort (s : State) (x : PushPort) : State :=
  s.putLanding { s.landing with ports := (s.landing.ports.filter fun y => y.port != x.port) ++ [x] }

/-- Words in the port buffer. -/
def PushPort.held (x : PushPort) : Nat := x.partial_.length + (x.items.map List.length).foldl (· + ·) 0

/-- FREE_WORDS. -/
def PushPort.free (x : PushPort) : Nat := 4096 - x.held

/-- The fields of a first word (Table 12-8). -/
def pshOpcode (w : Nat) : Nat := w % 65536
def pshLength (w : Nat) : Nat := w / 65536 % 512
def pshTag (w : Nat) : Nat := w / 2 ^ 32 % 2 ^ 32

/-- Words discarded are counted (R373). -/
def State.pshDiscard (s : State) (x : PushPort) (n : Nat) : State :=
  (s.putPort { x with discarded := sat 32 (x.discarded + n) }).add (Reg.push.discarded x.port) n

/-- Whether a port takes items: enabled, and not in REPLAY mode (R376 step 1). -/
def State.portTakes (s : State) (p : Nat) : Bool := s.flag (Reg.push.enable p) && !s.replaying

/-- Whether an opcode is one of Table 12-10. -/
def pshKnown (op : Nat) : Bool := (1 ≤ op && op ≤ 4) || (0x100 ≤ op && op ≤ 0x1FF)

/-- The LENGTH of an opcode, where it has one. -/
def pshWords (op : Nat) : Option Nat :=
  match op with
  | 1 => some 3 | 2 => some 12 | 3 => some 2 | 4 => some 2 | _ => none

/-- Whether the completion ring has a free entry (R375). -/
def PushPort.room (x : PushPort) : Bool := x.cqTail - x.cqHead < x.cqSize

/-- The item at the head completes: its entry is written, in order, and the vector is signalled unless a message is still
unacknowledged (R375). -/
def State.itemDone (s : State) (p status detail : Nat) : State :=
  let x := s.port p
  match x.items with
  | [] => s
  | it :: l =>
    let w := it.headD 0
    let s := (s.putPort { x with items := l, cqTail := wrap 32 (x.cqTail + 1), signalled := true, sealing := none }).bump
      (Reg.push.items p)
    let s := (s.emit (.pushEntry p x.cqTail status (pshOpcode w) (pshTag w) (detail % 2 ^ 32))).ends status
    if x.signalled then s else s.emit (.msix x.vector)

/-- Items at the head that fail checks 2 and 3 of R376 complete at once; `n` bounds them. -/
def State.portAdvance (s : State) (p : Nat) : Nat → State
  | 0 => s
  | n + 1 =>
    let x := s.port p
    match x.items with
    | [] => s
    | it :: _ =>
      let op := pshOpcode (it.headD 0)
      if !x.room then s
      else if !pshKnown op then State.portAdvance (s.itemDone p 0x3002 0) p n
      else match pshWords op with
        | some k => if it.length = k then s else State.portAdvance (s.itemDone p 0x3010 0) p n
        | none => s

/-- A complete item is journaled and joins the items that wait; one that the port does not take is discarded. -/
def State.itemComplete (s : State) (p : Nat) (words : List Nat) : State :=
  if s.portTakes p then
    let s := s.journal 0x0013 p false (leBytes 2 p ++ words.flatMap (leBytes 8))
    let x := s.port p
    (s.putPort { x with items := x.items ++ [words] }).portAdvance p (x.items.length + 1)
  else s.pshDiscard (s.port p) words.length

/-- A port goes to DRAINING with a code, its partial item discarded with `more` words. -/
def State.drain (s : State) (x : PushPort) (code more : Nat) : State :=
  s.pshDiscard { x with state := .draining, code, partial_ := [] } (x.partial_.length + more)

/-- An item begins. -/
def State.beginItem (s : State) (x : PushPort) (w : Nat) : State :=
  if pshLength w = 0 then (s.drain x 0x3010 1).bump (Reg.push.malformed x.port)
  else if pshLength w = 1 then (s.putPort { x with state := .idle, partial_ := [] }).itemComplete x.port [w]
  else s.putPort { x with state := .inItem, partial_ := [w] }

/-- PSH_FIRST (R372, Table 12-9). -/
def State.pshFirst (s : State) (p w : Nat) (wide : Bool) : State :=
  if s.landStopped ∨ 64 ≤ p then s
  else
    let x := s.port p
    if !wide then s.pshDiscard x 1
    else if x.free = 0 then (s.drain x 0x3011 1).bump (Reg.push.overruns p)
    else match x.state with
      | .inItem =>
        let s := (s.pshDiscard { x with code := 0x3010, partial_ := [] } x.partial_.length).bump (Reg.push.malformed p)
        s.beginItem (s.port p) w
      | _ => s.beginItem x w

/-- PSH_PUSH (R372, Table 12-9). -/
def State.pshPush (s : State) (p w : Nat) (wide : Bool) : State :=
  if s.landStopped ∨ 64 ≤ p then s
  else
    let x := s.port p
    if !wide then s.pshDiscard x 1
    else if x.free = 0 then (s.drain x 0x3011 1).bump (Reg.push.overruns p)
    else match x.state with
      | .idle => (s.drain x 0x3010 1).bump (Reg.push.malformed p)
      | .draining => s.pshDiscard x 1
      | .inItem =>
        let words := x.partial_ ++ [w]
        if words.length = pshLength (words.headD 0) then
          (s.putPort { x with state := .idle, partial_ := [] }).itemComplete p words
        else s.putPort { x with partial_ := words }

def execPshFirst (port word : Nat) (wide : Bool) (s : State) : Host.Outcome State Fault Refusal :=
  act s fun s => s.pshFirst port word wide

def execPshPush (port word : Nat) (wide : Bool) (s : State) : Host.Outcome State Fault Refusal :=
  act s fun s => s.pshPush port word wide

def execPshFlush (port : Nat) (s : State) : Host.Outcome State Fault Refusal :=
  act s fun s => if s.landStopped ∨ 64 ≤ port then s else (s.drain (s.port port) 0x3005 0).bump (Reg.push.flushes port)

/-- PSH_STATUS: its code is answered and cleared (R374). -/
def PortState.code : PortState → Nat
  | .idle => 0 | .inItem => 1 | .draining => 2

def execPshStatusRead (port : Nat) (s : State) : Host.Outcome State Fault Refusal :=
  act s fun s => if 64 ≤ port then s
    else
      let x := s.port port
      (s.emit (.pshStatus port x.code x.state.code x.free)).putPort { x with code := 0x3000 }

def execPshCqHead (port head : Nat) (s : State) : Host.Outcome State Fault Refusal :=
  act s fun s => if 64 ≤ port then s
    else
      let x := s.port port
      (s.putPort { x with cqHead := wrap 32 head, signalled := false }).portAdvance port (x.items.length + 1)

/-- ENABLE of a port (R380): enabling resets its state, ITEM_SEQ, DISCARDED and CODE. -/
def State.portEnable (s : State) (p v : Nat) : State :=
  if v = 1 ∧ !s.flag (Reg.push.enable p) then
    (s.putPort { PushPort.fresh p with cqBase := (s.port p).cqBase, cqSize := (s.port p).cqSize, vector := (s.port p).vector }).setN
      (Reg.push.discarded p) 0
  else s

/-! ### Executing items (R376) -/

/-- The words of the item at the head, if it is one of this opcode and may execute: the ring has room and nothing of the
port waits for a seal. -/
def State.itemOf (s : State) (p : Nat) (ok : Nat → Bool) : Option (List Nat) :=
  let x := s.port p
  match x.items with
  | [] => none
  | it :: _ => if x.room && x.sealing.isNone && ok (pshOpcode (it.headD 0)) && !s.landStopped then some it else none

/-- After an item left, the next ones are looked at. -/
def State.itemEnd (s : State) (p status detail : Nat) : State :=
  let s := s.itemDone p status detail
  s.portAdvance p (s.port p).items.length

/-- A port's context. -/
def State.portCtx (s : State) (p : Nat) : Nat := s.num (Reg.push.context p)

/-- A shard that another context's port opened (R376 step 4). -/
def State.foreignShard (s : State) (p id : Nat) : Bool :=
  match s.shard? id with
  | some d => match d.ctx with
    | some c => c != s.portCtx p
    | none => false
  | none => false

def execShardOpen (port : Nat) (refusing : List Nat) (s : State) : Host.Outcome State Fault Refusal :=
  act s fun s => match s.itemOf port (· == 1) with
    | none => s
    | some it =>
      let id := it.getD 1 0
      match s.shard? id with
      | some _ => s.itemEnd port 0x3002 0
      | none => match s.writeRefusal (.system 0) with
        | some c => s.itemEnd port c 0
        | none =>
          let partner := (s.choosePartner id refusing).getD 0xFFFFFFFF
          match s.createShard id true ((it.getD 2 0).testBit 0) (s.num Reg.lk.slot) partner (some (s.portCtx port)) with
          | .error c => s.itemEnd port c 0
          | .ok s => (s.itemEnd port 0x3000 0).yardRegs

/-- MEDIA_TYPE codes (Table 2-2). -/
def mediaTypeOk (m : Nat) : Bool := 1 ≤ m && m ≤ 0x000B

/-- R378: the status and DETAIL of an ingest, and the state. -/
def State.ingest (s : State) (id media kind source : Nat) (meta_ content digest : Bytes) (remote : Bool) :
    Nat × Nat × State :=
  let bad := fun (c : Nat) => (c, 0, s.bump Reg.landing.ingestsRefused)
  match s.shard? id with
  | none => bad 0x3214
  | some d =>
    if !d.owner_ then bad 0x3214
    else if d.state ≠ 1 then bad 0x3215
    else if 4294967296 < d.bytes + content.length then bad 0x3013
    else if sha384 content ≠ digest then bad 0x3012
    else match s.ownerAppend d content with
      | .error c => bad c
      | .ok t =>
        let ref := t.intake.catalogue.length
        let t := t.catalogue ⟨media, [], meta_, kind, source, some (id, d.raw, content.length), digest⟩
        let t := if remote then t.journal 0x0011 source true (leBytes 2 source ++ leBytes 8 ref ++ digest) else t
        (0x3000, d.raw, t.bump Reg.landing.ingests)

/-- The bytes that INGEST_NS reads from a namespace. -/
def State.nsBytes (s : State) (v : YVolume) (slba len : Nat) (reads : List SectorRead) : Option Bytes × State :=
  let r := s.readRun v.first (ceilDiv len 4096) slba reads
  (if r.1.any fun g => g.failed || !g.guardOk then none else some ((r.1.flatMap (·.data)).take len), r.2)

def execIngestNs (port : Nat) (reads : List SectorRead) (s : State) : Host.Outcome State Fault Refusal :=
  act s fun s => match s.itemOf port (· == 2) with
    | none => s
    | some it =>
      let nsid := it.getD 1 0 % 2 ^ 32
      let slba := it.getD 2 0
      let len := it.getD 3 0 % 2 ^ 32
      let media := it.getD 3 0 / 2 ^ 32 % 65536
      let id := it.getD 4 0
      let digest := ((it.drop 5).take 6).flatMap (leBytes 8)
      match s.space? nsid, s.volume? 1 nsid with
      | some _, some v =>
        if s.foreignShard port id then s.itemEnd port 0x3002 0
        else if v.sectors < slba + ceilDiv len 4096 then (s.bump Reg.landing.ingestsRefused).itemEnd port 0x3013 0
        else if !s.yardUsable then (s.bump Reg.landing.ingestsRefused).itemEnd port 0x3210 0
        else
          let (bytes, s) := s.nsBytes v slba len reads
          let meta_ := leBytes 4 nsid ++ leBytes 8 slba ++ leBytes 8 (it.getD 11 0)
          match bytes with
          | none => (s.bump Reg.landing.ingestsRefused).itemEnd port 0x3012 0
          | some b =>
            let (code, detail, s) := s.ingest id media 1 nsid meta_ b digest false
            (s.itemEnd port code detail).yardRegs
      | _, _ => s.itemEnd port 0x3002 0

def execShardSeal (port : Nat) (s : State) : Host.Outcome State Fault Refusal :=
  act s fun s => match s.itemOf port (· == 3) with
    | none => s
    | some it =>
      let id := it.getD 1 0
      match s.shard? id with
      | none => s.itemEnd port 0x3214 0
      | some d =>
        if s.foreignShard port id then s.itemEnd port 0x3002 0
        else if !d.owner_ then s.itemEnd port 0x3214 0
        else if d.state ≠ 1 then s.itemEnd port 0x3215 0
        else match s.sealShard d with
          | .error c => s.itemEnd port c 0
          | .ok s =>
            (match s.shard? id with
              | some e => if e.state = 4 then s.itemEnd port 0x3000 1 else s.putPort { s.port port with sealing := some id }
              | none => s).yardRegs

def execShardDelete (port : Nat) (s : State) : Host.Outcome State Fault Refusal :=
  act s fun s => match s.itemOf port (· == 4) with
    | none => s
    | some it =>
      let id := it.getD 1 0
      match s.shard? id with
      | none => s.itemEnd port 0x3214 0
      | some d =>
        if s.foreignShard port id then s.itemEnd port 0x3002 0
        else ((s.deleteShard d).itemEnd port 0x3000 0).yardRegs

def execContextMsg (port : Nat) (s : State) : Host.Outcome State Fault Refusal :=
  act s fun s => match s.itemOf port (fun o => 0x100 ≤ o) with
    | none => s
    | some it =>
      (s.putLanding { s.landing with msgs := s.landing.msgs ++ [(s.portCtx port, it)] }).itemEnd port 0x3000 0

/-! ### Remote ingest (R377) -/

/-- Whether a remote ingest header keeps Table 12-11 and MSG_BYTES is right. -/
def ingestHeaderOk (m : Bytes) : Bool :=
  80 ≤ m.length && bytesAt m 0 4 == ascii "FLWI" && mediaTypeOk (leAt m 4 2) && leAt m 6 2 == 0 && 1 ≤ leAt m 0x10 4 &&
  allZero (bytesAt m 0x48 8) && m.length == 80 + leAt m 0x10 4

/-- REMOTE_INGEST: checked and ingested, and its result returned. -/
def State.remoteIngest (s : State) (source : Nat) (m : Bytes) : State :=
  let tag := leAt m 0x14 4
  let say := fun (s : State) (code detail : Nat) => (s.ends code).emit (.ingestResult source tag code detail)
  if s.landStopped then s
  else if s.replaying then s
  else if !ingestHeaderOk m then say (s.bump Reg.landing.ingestsRefused) 0x3010 0
  else if !s.yardUsable then say (s.bump Reg.landing.ingestsRefused) 0x3210 0
  else
    let (code, detail, s) := s.ingest (leAt m 8 8) (leAt m 4 2) 2 source (leBytes 8 source) (m.drop 80)
      (bytesAt m 0x18 48) true
    (say s code detail).yardRegs

def execRemoteIngest (source : Nat) (message : Bytes) (s : State) : Host.Outcome State Fault Refusal :=
  act s fun s => s.remoteIngest source message

/-! ### What waits on the Yard -/

/-- SHARD_SEAL items whose shard is now SEALED or SINGLE complete (R376). -/
def State.settleSeals (s : State) : State :=
  s.landing.ports.foldl (fun (s : State) x => match x.sealing with
    | none => s
    | some id => match s.shard? id with
      | none => s.itemEnd x.port 0x3214 0
      | some d => if d.state = 3 then s.itemEnd x.port 0x3000 0 else if d.state = 4 then s.itemEnd x.port 0x3000 1 else s) s

/-- What the Yard's progress completes at the Landing. -/
def State.landSettle (s : State) : State := s.settleWaits.settleSeals

end Sys2Proof.Machine
end

