-- ==== Sys2Proof/Machine/NetOps.lean ====
section
/-! DEFINITION. What the Skidder's operations share: ports (R382), connections, labels (R401 to R403), keys (R410, R411), the
packet on the wire (R386, R390 to R392) and fault injection on what is sent (R418, R419). -/
namespace Sys2Proof.Machine

/-! ### Ports (R382, Table 13-1) -/

/-- Lanes per port in the mode in effect. -/
def State.lanesPerPort (s : State) : Nat := 8 / 2 ^ s.skd.mode

/-- A port's rate in Mb/s. -/
def State.portRate (s : State) : Nat := 200000 * s.lanesPerPort

/-- A port's capacity in bytes per grain (Table 14-1). -/
def State.grainBytes (s : State) : Nat := 250 * s.lanesPerPort

/-- A port all of whose lanes are bonded. -/
def State.portFitted (s : State) (p : Nat) : Bool :=
  let n := s.lanesPerPort
  (p + 1) * n ≤ 32 && (List.range n).all fun i => (s.num Reg.mask.laneMask).testBit (p * n + i)

/-! ### Lookup -/

def State.putSkd (s : State) (x : Skidder) : State := { s with skd := x }

def State.conn? (s : State) (n : Nat) : Option Conn := s.skd.conns.find? fun c => c.num == n

def State.putConn (s : State) (c : Conn) : State :=
  s.putSkd { s.skd with conns := s.skd.conns.map fun x => if x.num = c.num then c else x }

def State.portTx (s : State) (p : Nat) : PortTx := s.skd.ports.getD p PortTx.reset

def State.putPortTx (s : State) (p : Nat) (x : PortTx) : State :=
  s.putSkd { s.skd with ports := s.skd.ports.set p x }

def State.page (s : State) (c : Nat) : SkdPage :=
  (s.skd.pages.find? fun p => p.ctx == c).getD ⟨c, 16, 0, 0, 16, 0, 0, 1025, 0x5000, []⟩

def State.putPage (s : State) (x : SkdPage) : State :=
  s.putSkd { s.skd with pages := s.skd.pages.filter (fun p => p.ctx != x.ctx) ++ [x] }

/-- Uptime in ns. -/
def State.nowNs (s : State) : Nat := 10 * s.now

/-- The instant in grains. -/
def State.nowGrain (s : State) : Nat := s.rc.ring * 1024 + s.grain

/-- The ring and grain of an instant in grains, as one number. -/
def instant (ring grain : Nat) : Nat := ring * 1024 + grain

/-! ### Labels (R401 to R403) -/

/-- Whether a label is quarantined on a port. -/
def State.labelBarred (s : State) (port label : Nat) : Bool :=
  s.skd.quarantine.any fun q => q.1 == port && q.2.1 == label && s.rc.ring < q.2.2

/-- The labels a connection may use: those of its mask that are not quarantined, or all of them if every one is. -/
def State.labels (s : State) (c : Conn) : List Nat :=
  let l := bitsOf 64 c.mask
  match l.filter fun x => !s.labelBarred c.port x with
  | [] => l
  | k => k

/-- The next allowed label after `last`, in round robin. -/
def State.labelAfter (s : State) (c : Conn) (last : Nat) : Nat :=
  let l := s.labels c
  match l.find? fun x => last < x with
  | some x => x
  | none => l.headD 0

/-- The label at an index of a mask's set bits. -/
def labelAt (mask i : Nat) : Nat :=
  let l := bitsOf 64 mask
  l.getD (i % max 1 l.length) 0

/-! ### Keys (R410) -/

/-- `traffic_key`: the 48 bytes of a direction's key and salt at a key epoch. -/
def trafficKey (secret : Bytes) (k ic tc dir : Nat) : Bytes :=
  hmac384 secret (beBytes 4 0x534B4459 ++ beBytes 4 k ++ beBytes 2 ic ++ beBytes 2 tc ++ leBytes 1 dir ++ zeros 3)

/-- The direction in which this end sends: 0 INITIATOR to TARGET. -/
def Conn.sendKey (c : Conn) : Bytes :=
  if c.target then trafficKey c.secret c.keyEpoch c.peerConn c.num 1
  else trafficKey c.secret c.keyEpoch c.num c.peerConn 0

/-! ### Packets (R386, R390) -/

/-- Whether a TYPE carries the operation extension. -/
def TxPkt.hasExt (p : TxPkt) : Bool := 1 ≤ p.type && p.type ≤ 4

/-- ACK, NOTICE and LOOKOUT packets. -/
def TxPkt.control (p : TxPkt) : Bool := 5 ≤ p.type

/-- The sequenced packets (R404). -/
def TxPkt.sequenced (p : TxPkt) : Bool := p.type ≤ 4 || (p.type == 6 && !p.plain)

/-- The header (Table 13-5). -/
def State.pktHeader (s : State) (c : Option Conn) (p : TxPkt) (label serial : Nat) : Bytes :=
  let nums := match p.reply with
    | some r => r
    | none => match c with
      | some c => (c.peerConn, c.num)
      | none => (0, 0)
  let folwen := s.num Reg.lk.generation != 0
  beBytes 1 (16 + p.type) ++
    beBytes 1 (p.ackReq.toNat + 2 * p.retx.toNat + 4 * p.chipped.toNat + 8 * p.plain.toNat) ++ beBytes 1 label ++
    beBytes 1 ((c.map (·.keyEpoch)).getD 0) ++ beBytes 2 nums.1 ++ beBytes 2 nums.2 ++
    beBytes 2 (s.num Reg.lk.slot) ++ beBytes 2 p.payload.length ++
    beBytes 4 (if folwen then s.num Reg.lk.generation else 0) ++ beBytes 4 p.psn ++ beBytes 4 p.msgId ++
    beBytes 8 (if p.plain then 0 else serial)

/-- The extension (Table 13-6). -/
def SkdExt.bytes (e : SkdExt) : Bytes :=
  beBytes 4 e.remoteKey ++ beBytes 4 e.msgBytes ++ beBytes 8 e.offset ++ beBytes 4 e.immediate ++ zeros 4

/-- The UDP payload: header, extension, and the payload with its tag, or as it is if PLAIN. -/
def State.pktBytes (s : State) (c : Option Conn) (p : TxPkt) (label serial : Nat) : Bytes :=
  let head := s.pktHeader c p label serial ++ (p.ext.map SkdExt.bytes).getD []
  if p.plain then head ++ p.payload
  else match c with
    | none => head ++ p.payload
    | some c =>
      let k := c.sendKey
      head ++ Config.gcmSeal (k.take 32) (bytesAt k 32 4 ++ beBytes 8 serial) head p.payload

/-- Bytes of a packet's frame from destination MAC through FCS. -/
def State.frameLen (s : State) (p : TxPkt) : Nat :=
  let c := s.conn? p.conn
  let ip := if (c.map (·.ipv4)).getD false then 20 else 40
  if (c.map (·.roce)).getD false then 14 + ip + 8 + 12 + 16 + 4 + p.payload.length + 4 + 4
  else 14 + ip + 8 + 32 + (if p.hasExt then 24 else 0) + p.payload.length + (if p.plain then 0 else 16) + 4

/-- The charged length of a frame on a port (R426). -/
def State.charged (s : State) (port : Nat) (p : TxPkt) : Nat :=
  (max 1 ((s.frameLen p : Int) + i32Val (s.num (Reg.kerf.kerf port)))).toNat

/-- The DSCP of a packet (R386). -/
def State.dscp (s : State) (p : TxPkt) : Nat :=
  if p.control then s.num Reg.skd.controlDscp
  else if p.first then s.num Reg.skd.schedDscp else s.num Reg.skd.unschedDscp

/-! ### Fault injection on what is sent (R418, R419) -/

/-- `fi_draw`. -/
def fiDraw (seed conn serial kind : Nat) : Nat :=
  let m := 2 ^ 64
  let z := (seed ^^^ (conn * 2 ^ 48 % m) ^^^ (kind * 2 ^ 40) ^^^ serial) % m
  let z := (z + 0x9E3779B97F4A7C15) % m
  let z := (z ^^^ (z / 2 ^ 30)) * 0xBF58476D1CE4E5B9 % m
  let z := (z ^^^ (z / 2 ^ 27)) * 0x94D049BB133111EB % m
  z ^^^ (z / 2 ^ 31)

/-- The class of FI_CLASSES a packet falls in. -/
def fiClass (type : Nat) (first : Bool) : Nat := if type = 7 then 3 else if 5 ≤ type then 2 else if first then 0 else 1

/-- Whether a packet is selected for injection. -/
def State.fiSelects (s : State) (receive : Bool) (port conn type : Nat) (first : Bool) : Bool :=
  s.sec.testEn && s.flag Reg.fi.fiEnable && (s.num Reg.fi.fiDirection == receive.toNat) &&
  (s.num Reg.fi.fiPortMask).testBit port && (s.num Reg.fi.fiConn == 0xFFFFFFFF || s.num Reg.fi.fiConn == conn) &&
  (s.num Reg.fi.fiClasses).testBit (fiClass type first)

/-- Whether a fault kind applies to a packet's draw. -/
def State.fiHit (s : State) (conn serial kind : Nat) : Bool :=
  let ppm := match kind with
    | 0 => s.num Reg.fi.fiDropPpm
    | 1 => s.num Reg.fi.fiCorruptPpm
    | _ => s.num Reg.fi.fiReorderPpm
  fiDraw (s.num Reg.fi.fiSeed) conn serial kind % 1000000 < ppm

/-- What injection does to a packet: 0 nothing, 1 drop, 2 corruption, 3 reordering. -/
def State.fiFault (s : State) (receive : Bool) (port conn type serial : Nat) (first head : Bool) (len : Nat) : Nat :=
  if !s.fiSelects receive port conn type first then 0
  else if s.fiHit conn serial 0 then 1
  else if s.fiHit conn serial 1 && len != 0 then 2
  else if s.fiHit conn serial 2 && !head then 3
  else 0

/-- A byte string with bit `n` inverted. -/
def flipBit (b : Bytes) (n : Nat) : Bytes := b.modify (n / 8) fun x => x ^^^ BitVec.ofNat 8 (2 ^ (n % 8))

/-- A frame goes on the wire, unless injection takes it. -/
def State.putWire (s : State) (f : NetFrame) (p : TxPkt) (serial : Nat) : State :=
  let s := s.bump (Reg.portStat.txFrames f.port)
  match s.fiFault false f.port p.conn p.type serial p.first p.head p.payload.length with
  | 1 => s.bump Reg.fi.fiDropped
  | 2 =>
    let at_ := f.payload.length - (if p.plain then 0 else 16) - p.payload.length
    let bit := fiDraw (s.num Reg.fi.fiSeed) p.conn serial 1 / 2 ^ 20 % (8 * p.payload.length)
    (s.bump Reg.fi.fiCorrupted).emit (.frame { f with payload := flipBit f.payload (8 * at_ + bit) })
  | 3 => (s.bump Reg.fi.fiReordered).putSkd { s.skd with fiHeld := s.skd.fiHeld ++ [f] }
  | _ => s.emit (.frame f)

/-! ### Sequence numbers (R404) -/

/-- The PSN after `p`: 2^32 - 1 wraps to 1. -/
def psnNext (p : Nat) : Nat := if p = 2 ^ 32 - 1 then 1 else p + 1

/-- How far PSN `b` lies after PSN `a`, by serial-number arithmetic. -/
def psnDist (a b : Nat) : Nat := (b + (2 ^ 32 - 1) - a) % (2 ^ 32 - 1)

/-! ### Key epochs (R411, R412) -/

/-- An end does not advance to k + 2 before it has received a packet under k + 1. -/
def Conn.mayRotate (c : Conn) : Bool := c.keyEpoch == 0 || c.keyEpoch ≤ c.confirmed

/-- TX_SERIAL is about to reach 2^48. -/
def Conn.exhausted (c : Conn) : Bool := !c.roce && 2 ^ 48 ≤ c.serial + 1

/-- The key epoch advances: the earlier key is kept for KEY_GRACE_RINGS and TX_SERIAL starts at 0. -/
def State.rotate (s : State) (c : Conn) : Conn :=
  { c with keyEpoch := wrap 32 (c.keyEpoch + 1), graceUntil := some (s.rc.ring + s.num Reg.key.keyGraceRings), serial := 0 }

/-- An early advance, counted (R411). -/
def State.rotateEarly (s : State) (c : Conn) : State :=
  if c.mayRotate then (s.bump Reg.key.earlyRotations).putConn (s.rotate c) else s

/-- The WRITE_IMMs of a connection sent and not acknowledged (R397). -/
def Conn.openImms (c : Conn) : Nat := (c.unacked.filter fun u => u.pkt.type == 2).length

/-- Whether a packet's connection can encrypt it under an IV not yet used, and no 65th WRITE_IMM of it would be
unacknowledged (R397). -/
def State.canSend (s : State) (p : TxPkt) : Bool :=
  match s.conn? p.conn with
  | none => true
  | some c => (p.plain || !c.exhausted || c.mayRotate) && (p.type != 2 || p.retx || decide (c.openImms < 64))

/-! ### Transmission -/

/-- Whether a connection waits with packets besides `p`: none is left, so `p` asks for an ACK (R405). -/
def State.lastQueued (s : State) (c : Conn) : Bool :=
  c.backlog.isEmpty && (s.portTx c.port).due.all (fun l => l.all fun p => p.conn != c.num) &&
    (s.portTx c.port).renew.all (fun l => l.all fun p => p.conn != c.num) &&
    s.skd.subs.all (fun x => x.queue.all fun p => p.conn != c.num)

/-- The label of a packet as it is sent. -/
def State.pickLabel (s : State) (c : Conn) (p : TxPkt) : Nat :=
  if c.roce then labelAt c.mask 0
  else match p.label with
    | some l => l
    | none =>
      if p.type = 7 then labelAt c.mask s.rc.ring
      else if p.retx then
        match c.unacked.find? fun u => u.pkt.psn == p.psn with
        | some u => s.labelAfter c u.label
        | none => s.labelAfter c c.lastLabel
      else s.labelAfter c c.lastLabel

/-- The frame of a packet with its label and serial. -/
def State.frameOf (s : State) (port : Nat) (c : Option Conn) (p : TxPkt) (label serial : Nat) : NetFrame :=
  ⟨port, s.dscp p, !p.control, s.num Reg.skd.pathPortBase + label, s.num Reg.skd.udpPort, p.addr, s.pktBytes c p label serial⟩

/-- The packet as a RoCEv2 requester or responder sends it (R416). -/
def State.roceOut (c : Conn) (p : TxPkt) (s : State) : State :=
  (s.bump (Reg.portStat.txFrames c.port)).emit (.roce c.port c.num p.type (p.psn % 2 ^ 24) p.ackReq
    ((p.ext.map (·.remoteKey)).getD 0) ((p.ext.map (·.offset)).getD 0) ((p.ext.map (·.immediate)).getD 0) p.payload)

/-- A packet starts on its port: it takes its PSN if it is sequenced and has none, its label, and the connection's next
TX_SERIAL if it is encrypted (R404, R411), and a sequenced one waits for its acknowledgement. -/
def State.start (s : State) (port : Nat) (p : TxPkt) : State :=
  match s.conn? p.conn with
  | none => s.putWire (s.frameOf port none p (p.label.getD 0) 0) p p.psn
  | some c =>
    if p.plain then s.putWire (s.frameOf port (some c) p (s.pickLabel c p) 0) p p.psn
    else
      let fresh := p.sequenced && !p.retx
      let psn := if fresh then c.nextPsn else p.psn
      let label := s.pickLabel c p
      let p := { p with psn := psn, ackReq := p.ackReq || (fresh && s.lastQueued c) }
      let serial := c.serial
      let u : Sent := ⟨p, s.nowNs, serial, label, 0, false, false⟩
      let c' := { c with
        nextPsn := if fresh then psnNext c.nextPsn else c.nextPsn
        serial := if c.roce then c.serial else c.serial + 1
        lastLabel := if p.label.isNone && p.type ≠ 7 then label else c.lastLabel
        txCount := c.txCount + 1
        unacked := if !p.sequenced then c.unacked
          else if p.retx then c.unacked.map fun (x : Sent) => if x.pkt.psn = psn then
            { x with at_ := s.nowNs, serial := serial, label := label, tries := x.tries + 1, passed := false, queued := false,
                     pkt := p } else x
          else c.unacked ++ [u] }
      let t := (s.putConn c').bumpIf p.retx (Reg.portStat.retransmits port)
      let t := match p.deck with
        | none => t
        | some k => if p.retx && !t.skd.retxFrags.contains k then
            (t.bump Reg.launch.retransmitted).putSkd { t.skd with retxFrags := t.skd.retxFrags ++ [k] } else t
      if c.roce then t.roceOut c p else t.putWire (s.frameOf port (some c) p label serial) p serial

/-- A packet starts; where TX_SERIAL is exhausted the key epoch advances first (R411, Table 13-10). -/
def State.transmit (s : State) (port : Nat) (p : TxPkt) : State :=
  match s.conn? p.conn with
  | none => s.start port p
  | some c => if c.exhausted && !p.plain then (s.rotateEarly c).start port p else s.start port p

end Sys2Proof.Machine
end

