-- ==== Sys2Proof/Machine/Shaper.lean ====
section
/-! DEFINITION. The traffic scheduler (R424 to R439): queues, credits, the egress order, the subscriber table and the ingress
policers. -/
namespace Sys2Proof.Machine

/-! ### Queues -/

def State.sub? (s : State) (n : Nat) : Option SubSlot := s.skd.subs.find? fun x => x.slot == n

def State.putSub (s : State) (x : SubSlot) : State :=
  s.putSkd { s.skd with subs := s.skd.subs.map fun (y : SubSlot) => if y.slot = x.slot then x else y }

/-- The subscriber registers follow the table (Table 14-7). -/
def State.subRegs (s : State) : State :=
  let s := s.setN Reg.tsch.subsAssigned s.skd.subs.length
  s.setN Reg.tsch.overflowNow (s.skd.conns.filter fun c => c.state == .open_ && c.sub == 0).length

def PortTx.service (x : PortTx) (v : Nat) : SvcPort := x.svc.getD v SvcPort.reset

def PortTx.putService (x : PortTx) (v : Nat) (y : SvcPort) : PortTx := { x with svc := x.svc.set v y }

/-- A packet joins the control queue of a port, in arrival order. -/
def State.pushCtl (s : State) (port : Nat) (p : TxPkt) : State :=
  let x := s.portTx port
  s.putPortTx port { x with ctl := x.ctl ++ [p] }

/-- A packet joins its connection's subscriber queue; the overflow subscriber's queue of its port and service is shared
in arrival order (R431). -/
def State.pushQueue (s : State) (c : Conn) (p : TxPkt) : State :=
  if c.sub = 0 then
    let x := s.portTx c.port
    let v := x.service c.service
    s.putPortTx c.port (x.putService c.service { v with over_ := v.over_ ++ [p] })
  else match s.sub? c.sub with
    | none => s
    | some x => s.putSub { x with queue := x.queue ++ [p] }

/-- The sequenced packets of a connection that its queue holds for their first transmission. -/
def State.offered (s : State) (c : Conn) : List TxPkt :=
  let fresh := fun (l : List TxPkt) => l.filter fun p => p.conn == c.num && p.sequenced && !p.retx
  if c.sub = 0 then fresh ((s.portTx c.port).service c.service).over_
  else match s.sub? c.sub with
    | some x => fresh x.queue
    | none => []

/-- Whether SEND_WINDOW, with the 64 unacknowledged WRITE_IMMs of R397, has room for one more packet of a connection, the
packets its queue holds counted as sent (R397, R404). -/
def State.inWindow (s : State) (c : Conn) (p : TxPkt) : Bool :=
  !p.sequenced || p.retx ||
    (decide (c.unacked.length + (s.offered c).length < s.num Reg.rel.sendWindow) &&
      (p.type != 2 || decide (c.openImms + ((s.offered c).filter fun q => q.type == 2).length < 64)))

/-- A connection offers waiting packets to its subscriber queue while its rate's credit is at least zero and SEND_WINDOW
has room (R404, R408). -/
def State.offer (s : State) (n : Nat) : Nat → State
  | 0 => s
  | fuel + 1 => match s.conn? n with
    | none => s
    | some c => match c.backlog with
      | [] => s
      | p :: l =>
        if c.state ≠ .open_ ∨ c.credit < 0 ∨ !s.inWindow c p then s
        else
          let s := s.putConn { c with backlog := l, credit := c.credit - 1000 * s.frameLen p }
          State.offer (s.pushQueue c p) n fuel

/-- Packets of a connection wait for its rate and are offered (R408). -/
def State.queuePkts (s : State) (n : Nat) (l : List TxPkt) : State :=
  match s.conn? n with
  | none => s
  | some c => (s.putConn { c with backlog := c.backlog ++ l }).offer n (c.backlog.length + l.length)

/-! ### Credit (R427, R428) -/

/-- Milli-bytes that a rate in Mb/s adds per ring. -/
def perRing (mbps : Nat) : Int := mbps * 1280

/-- `refill`. -/
def refill (credit : Int) (mbps : Nat) (cap : Int) (nonempty : Bool) : Int :=
  if nonempty then min (credit + perRing mbps) cap
  else if credit < 0 then min (credit + perRing mbps) 0 else credit

/-- `on_queue_empty`: unused credit is lost. -/
def onEmpty (credit : Int) : Int := min credit 0

/-- A percentage of the port rate in Mb/s. -/
def State.pctRate (s : State) (pct : Nat) : Nat := s.portRate * pct / 100

/-- The subscribers of a port and service with a frame and a credit of at least zero: slot 0 is the overflow subscriber. -/
def State.eligible (s : State) (port v : Nat) : List Nat :=
  let y := (s.portTx port).service v
  (match y.over_ with
    | p :: _ => if 0 ≤ y.overCredit && s.canSend p then [0] else []
    | [] => []) ++
  ((s.skd.subs.filter fun x => x.place == some (port, v) && decide (0 ≤ x.credit) &&
    (match x.queue with | p :: _ => s.canSend p | [] => false)).map (·.slot))

/-- A subscriber slot at a ring boundary: a change of rate or cap takes effect, then the refill (R427, R434). -/
def SubSlot.ring (x : SubSlot) : SubSlot :=
  { x with rate := x.newRate, burst := x.newBurst,
           credit := min (refill x.credit x.newRate (x.newBurst * 1000) !x.queue.isEmpty) (x.newBurst * 1000) }

/-- A service of a port at a ring boundary. -/
def State.svcRing (s : State) (port v : Nat) (y : SvcPort) : SvcPort :=
  let peak := s.pctRate (s.num (Reg.service.peakPct v))
  let burst : Int := s.num (Reg.service.ingressBurst v) * 1000
  { y with
    peak := refill y.peak peak (perRing peak) !(s.eligible port v).isEmpty
    overCredit := refill y.overCredit (s.num Reg.tsch.overflowRateMbps) (s.num Reg.tsch.overflowBurst * 1000) !y.over_.isEmpty
    police := min (y.police + perRing (s.pctRate (s.num (Reg.service.ingressPct v)))) burst }

/-- The services of a port at a ring boundary. -/
def State.svcsRing (s : State) (port : Nat) : Nat → List SvcPort → List SvcPort
  | _, [] => []
  | v, y :: l => s.svcRing port v y :: State.svcsRing s port (v + 1) l

/-- A port at a ring boundary. -/
def State.portRing (s : State) (port : Nat) : State :=
  let x := s.portTx port
  let r := s.pctRate (s.num Reg.tsch.controlPct)
  s.putPortTx port { x with ctlCredit := refill x.ctlCredit r (perRing r) !x.ctl.isEmpty, svc := s.svcsRing port 0 x.svc }

/-- CREDIT_REFILL: every shaper and policer at a ring boundary, and each connection's rate (R408, R427). -/
def State.creditRing (s : State) : State :=
  let s := s.putSkd { s.skd with subs := s.skd.subs.map SubSlot.ring }
  let s := ((List.range 32).filter s.portFitted).foldl State.portRing s
  let s := s.putSkd { s.skd with conns := s.skd.conns.map fun (c : Conn) =>
    { c with credit := refill c.credit c.rate (perRing c.rate) !c.backlog.isEmpty } }
  s.skd.conns.foldl (fun s c => s.offer c.num c.backlog.length) s

/-! ### The egress order (R424, R425) -/

/-- The port on which a consumer's fragments leave: that of its open DELIVERY connection. -/
def State.delivery (s : State) (consumer : Nat) : Option Conn :=
  s.skd.conns.find? fun c => c.kind == 1 && c.consumer == consumer && c.state == .open_

/-- The launch instants of a section's fragments on a port, in grains. -/
def State.instantsOn (s : State) (x : Section) (start port : Nat) : List Nat :=
  (x.fragments.filter fun f => match s.delivery f.consumer with
    | some c => c.port == port
    | none => false).map fun f => instant (x.launchRing start f) f.grain

/-- The next launch instant on a port after now (R425): of ACTIVE, a verified NEXT and the active takeovers. -/
def State.nextLaunch (s : State) (port : Nat) : Option Nat :=
  let a := match s.sched.active with | some a => s.instantsOn a s.epochStart port | none => []
  let n := match s.sched.next with | some n => if n.verified then s.instantsOn n s.nextStart port else [] | none => []
  let t := (s.deck.takeovers.filter fun t => match s.delivery t.frag.consumer with
    | some c => c.port == port
    | none => false).map fun t => instant t.ring t.grain
  match (a ++ n ++ t).filter fun x => decide (s.nowGrain < x) with
  | [] => none
  | x :: l => some (l.foldl min x)

/-- Whether a frame with the launch overhead ends before the next launch instant on its port. -/
def State.fits (s : State) (port : Nat) (p : TxPkt) : Bool :=
  match s.nextLaunch port with
  | none => true
  | some l =>
    let over_ := (max 20 (i32Val (s.num (Reg.kerf.kerf port)))).toNat
    decide (s.nowGrain * s.grainBytes + s.frameLen p + over_ < l * s.grainBytes)

/-- The subscriber of a service that is served next: in ascending slot number after the slot last served. -/
def nextSub (last : Nat) (l : List Nat) : Option Nat :=
  match (l.filter fun x => last < x) with
  | x :: k => some (k.foldl min x)
  | [] => match l with
    | [] => none
    | x :: k => some (k.foldl min x)

/-- The first frame of a subscriber. -/
def State.subHead (s : State) (port v slot : Nat) : Option TxPkt :=
  if slot = 0 then ((s.portTx port).service v).over_.head?
  else match s.sub? slot with
    | some x => x.queue.head?
    | none => none

/-- Deficit round robin (R424): the service and subscriber whose frame is next, with the port as its visits leave it. -/
def State.drr (s : State) (port : Nat) : Nat → PortTx → Option (Nat × Nat × TxPkt) × PortTx
  | 0, x => (none, x)
  | fuel + 1, x =>
    let v := x.cur
    let y := x.service v
    let on := { x with cur := (v + 1) % 8, visiting := false }
    match nextSub y.last (s.eligible port v) with
    | none => State.drr s port fuel (on.putService v { y with deficit := 0 })
    | some slot =>
      if y.peak < 0 then State.drr s port fuel on
      else
        let y := if x.visiting then y else { y with deficit := y.deficit + 1024 * s.num (Reg.service.weight v) }
        match s.subHead port v slot with
        | none => State.drr s port fuel on
        | some p =>
          if s.charged port p ≤ y.deficit then (some (v, slot, p), { x.putService v y with visiting := true })
          else State.drr s port fuel (on.putService v y)

/-- A frame leaves its subscriber's queue. -/
def State.popSub (s : State) (port v slot : Nat) : State :=
  let x := s.portTx port
  let y := x.service v
  let s := s.putPortTx port (x.putService v { y with last := slot, over_ := if slot = 0 then y.over_.drop 1 else y.over_ })
  match s.sub? slot with
  | some z => s.putSub { z with queue := z.queue.drop 1 }
  | none => s

/-- The charge of a frame that starts from a service (R427), then R428 for queues that it emptied. -/
def State.chargeSvc (s : State) (port v slot len : Nat) : State :=
  let x := s.portTx port
  let y := x.service v
  let oc := y.overCredit - (if slot = 0 then 1000 * (len : Int) else 0)
  let s := s.putPortTx port (x.putService v { y with
    deficit := y.deficit - len, peak := y.peak - 1000 * len, overCredit := if y.over_.isEmpty then onEmpty oc else oc })
  let s := match s.sub? slot with
    | none => s
    | some z =>
      let c := z.credit - 1000 * len
      s.putSub { z with credit := if z.queue.isEmpty then onEmpty c else c, tx := wrap 64 (z.tx + len) }
  let x := s.portTx port
  let y := x.service v
  let s := if (s.eligible port v).isEmpty then s.putPortTx port (x.putService v { y with peak := onEmpty y.peak, deficit := 0 })
    else s
  (s.add (Reg.service.txBytes v) len).add Reg.tsch.unschedBytes len

/-- An unscheduled frame starts: charged, and sent. -/
def State.startUnsched (s : State) (port : Nat) (from_ : Option (Nat × Nat)) (p : TxPkt) : State :=
  let len := s.charged port p
  let s := match from_ with
    | some (v, slot) => s.chargeSvc port v slot len
    | none =>
      let x := s.portTx port
      let c := x.ctlCredit - 1000 * len
      (s.putPortTx port { x with ctlCredit := if x.ctl.isEmpty then onEmpty c else c }).add Reg.tsch.unschedBytes len
  s.transmit port p

/-- A chosen frame starts, or waits for the launch under R425 and keeps the port's next place. -/
def State.startOrHold (s : State) (port : Nat) (from_ : Option (Nat × Nat)) (p : TxPkt) : State :=
  if s.fits port p then s.startUnsched port from_ p
  else (s.bump Reg.tsch.windowHolds).putPortTx port { s.portTx port with held := some p, heldFrom := from_ }

/-- The next frame of due fragments: one frame of each in turn (R99), while SEND_WINDOW has room. -/
def State.takeDue (s : State) : List (List TxPkt) → Option (TxPkt × List (List TxPkt))
  | [] => none
  | [] :: r => State.takeDue s r
  | (p :: l) :: r =>
    let open_ := match s.conn? p.conn with
      | some c => decide (c.unacked.length < s.num Reg.rel.sendWindow) && s.canSend p
      | none => false
    if open_ then some (p, if l.isEmpty then r else r ++ [l])
    else match State.takeDue s r with
      | some (q, k) => some (q, (p :: l) :: k)
      | none => none

/-- Whether the device's data ports send: the Lookout halves agree (R454), and the device is no snag that knows it (R477). -/
def State.portsSend (s : State) : Bool := s.num Reg.lk.lockstep = 0 && s.num Reg.lk.lkState != 9

/-- Steps 3 and 4 of R424. -/
def State.egressService (s : State) (port : Nat) : State :=
  if (List.range 8).all fun v => (s.eligible port v).isEmpty then s
  else match s.drr port 64 (s.portTx port) with
    | (none, x) => s.putPortTx port x
    | (some (v, slot, p), x) => ((s.putPortTx port x).popSub port v slot).startOrHold port (some (v, slot)) p

/-- EGRESS_SELECT: the frame that a free port starts next (R424, R425, R457). -/
def State.egress (s : State) (port : Nat) : State :=
  let x := s.portTx port
  if !s.portFitted port || !s.flag (Reg.portStat.linkUp port) || !s.portsSend then s
  else match s.takeDue x.due with
    | some (p, l) => (s.putPortTx port { x with due := l }).transmit port p
    | none => match s.takeDue x.renew with
      | some (p, l) => (s.putPortTx port { x with renew := l }).transmit port p
      | none => match x.held with
        | some p =>
          if s.fits port p then
            (s.putPortTx port { x with held := none, heldFrom := none }).startUnsched port x.heldFrom p
          else s
        | none => match x.ctl with
          | p :: l =>
            if 0 ≤ x.ctlCredit && s.canSend p then
              (s.putPortTx port { x with ctl := l, ctlWaited := false }).startOrHold port none p
            else
              let s := if x.ctlWaited || 0 ≤ x.ctlCredit then s
                else (s.bump Reg.tsch.controlWaits).putPortTx port { x with ctlWaited := true }
              s.egressService port
          | [] => s.egressService port

def execEgressSelect (port : Nat) (s : State) : Host.Outcome State Fault Refusal := live s fun s => s.egress port

/-! ### The subscriber table (R431 to R434) -/

/-- How a connection open is bound: the slot, with the state, and whether R432 counts it; none refuses the open. -/
def State.bindSub (s : State) (field port service num : Nat) : Option (Nat × Bool × State) :=
  if field = 0 then some (0, false, s)
  else if field = 0xFFFF then
    match (List.range 16383).find? fun i => (s.sub? (16383 - i)).isNone with
    | some i =>
      let r := s.num Reg.tsch.autoRateMbps
      let b := s.num Reg.tsch.autoBurst
      let x : SubSlot := ⟨16383 - i, .auto, some (port, service), r, b, r, b, 0, [], 0⟩
      some (16383 - i, false, s.putSkd { s.skd with subs := s.skd.subs ++ [x] })
    | none =>
      some (0, true, (((s.bump Reg.tsch.overflowFlows).bump (Reg.service.subOverflow service)).raise 0x5280 0xFF 0xFF
        (leBytes 2 num ++ leBytes 1 port ++ leBytes 1 service)))
  else if 16383 < field then none
  else match s.sub? field with
    | none => none
    | some x =>
      if x.state = .auto then none
      else match x.place with
        | none => some (field, false, s.putSub { x with place := some (port, service) })
        | some pl => if pl = (port, service) then some (field, false, s) else none

/-- Open connections bound to a slot. -/
def State.boundTo (s : State) (slot : Nat) : Nat :=
  (s.skd.conns.filter fun c => c.state == .open_ && c.sub == slot).length

/-- A slot that a loaded section reserves. -/
def State.reserved (s : State) (slot : Nat) : Bool :=
  let n := max ((s.sched.active.map (·.subscribersUsed)).getD 0) ((s.sched.next.map (·.subscribersUsed)).getD 0)
  1 ≤ slot && slot ≤ n

/-- Removes a connection's packets from a queue. -/
def dropPkts (n : Nat) (l : List TxPkt) : List TxPkt := l.filter fun p => p.conn != n

/-- A connection leaves OPEN: its queued frames are discarded and its binding ends (R431). -/
def State.unbind (s : State) (c : Conn) : State :=
  let s := s.putSkd { s.skd with
    subs := s.skd.subs.map fun (x : SubSlot) => { x with queue := dropPkts c.num x.queue }
    ports := s.skd.ports.map fun (x : PortTx) =>
      let mine := (x.held.map (·.conn)) == some c.num
      { x with
        due := (x.due.map (dropPkts c.num)).filter fun l => !l.isEmpty
        renew := (x.renew.map (dropPkts c.num)).filter fun l => !l.isEmpty
        ctl := x.ctl.filter fun p => p.conn != c.num || p.plain
        held := if mine then none else x.held
        heldFrom := if mine then none else x.heldFrom
        svc := x.svc.map fun (y : SvcPort) => { y with over_ := dropPkts c.num y.over_ } } }
  let s := s.putSkd { s.skd with subs := s.skd.subs.map fun (x : SubSlot) =>
    if x.queue.isEmpty then { x with credit := onEmpty x.credit } else x }
  let s := s.putSkd { s.skd with subs := s.skd.subs.filter fun x =>
    !(x.slot == c.sub && (x.state == .auto || (x.state == .schedule && s.boundTo c.sub == 0 && !s.reserved c.sub))) }
  s.subRegs

/-- The sections loaded reserve their slots (R433): newly reserved slots become SCHEDULE; a SCHEDULE slot that none reserves
and no connection names becomes FREE. -/
def State.reserveSubs (s : State) : State :=
  let n := max ((s.sched.active.map (·.subscribersUsed)).getD 0) ((s.sched.next.map (·.subscribersUsed)).getD 0)
  let r := s.num Reg.tsch.schedSubRateMbps
  let b := s.num Reg.tsch.schedSubBurst
  let new : List SubSlot := ((List.range n).map (· + 1)).filterMap fun i =>
    if (s.sub? i).isSome then none else some ⟨i, .schedule, none, r, b, r, b, 0, [], 0⟩
  let s := s.putSkd { s.skd with subs := (s.skd.subs.filter fun x =>
    !(x.state == .schedule && n < x.slot && s.boundTo x.slot == 0)) ++ new }
  (s.setN Reg.tsch.subsSchedule n).subRegs

/-- Whether the slots that a section would newly reserve meet CONFIGURED or AUTO slots (R433). -/
def State.subscriberClash (s : State) (used : Nat) : Bool :=
  let now_ := max ((s.sched.active.map (·.subscribersUsed)).getD 0) ((s.sched.next.map (·.subscribersUsed)).getD 0)
  s.skd.subs.any fun x => decide (now_ < x.slot) && decide (x.slot ≤ used) && x.state != .schedule

/-- The checks of SUB_CONFIG (R434), in order. -/
def State.subRefusal (s : State) (v : Bytes) (slot : Nat) : Option Nat :=
  let action := leAt v 0 1
  let port := leAt v 1 1
  let service := leAt v 2 1
  let cfg := action == 1
  let old := s.sub? slot
  let moved : Bool := match old with
    | some x => x.place != some (port, service)
    | none => false
  let foreign : Bool := match old with
    | some x => x.state != .configured
    | none => false
  if slot = 0 ∨ ¬(action = 1 ∨ action = 2) ∨ leAt v 3 1 ≠ 0 ∨ leAt v 12 4 ≠ 0 ∨ (cfg ∧ 7 < service) then some 0x5202
  else if foreign then some 0x5202
  else if cfg && !s.portFitted port then some 0x5203
  else if cfg && !(1 ≤ leAt v 4 4 && leAt v 4 4 ≤ 1600000 && 8192 ≤ leAt v 8 4 && leAt v 8 4 ≤ 16777216) then some 0x5211
  else if s.boundTo slot ≠ 0 ∧ (moved ∨ action = 2) then some 0x5201
  else none

/-- SUB_CONFIG: CONFIGURE or RELEASE of the selected slot (R434). -/
def State.subConfig (s : State) (v : Bytes) : Except Nat State :=
  let slot := s.num Reg.subCtl.subSelect
  match s.subRefusal v slot with
  | some c => .error c
  | none =>
    let place := (leAt v 1 1, leAt v 2 1)
    let rate := leAt v 4 4
    let burst := leAt v 8 4
    .ok (if leAt v 0 1 = 2 then (s.putSkd { s.skd with subs := s.skd.subs.filter fun x => x.slot != slot }).subRegs
      else match s.sub? slot with
        | some x => s.putSub { x with place := some place, newRate := rate, newBurst := burst }
        | none =>
          let x : SubSlot := ⟨slot, .configured, some place, rate, burst, rate, burst, 0, [], 0⟩
          (s.putSkd { s.skd with subs := s.skd.subs ++ [x] }).subRegs)

def execSubConfigure (via : Via) (value : Bytes) (s : State) : Host.Outcome State Fault Refusal :=
  act s fun s => if leAt value 0 1 = 2 then s else s.writeVia via 0x5220 2 value fun _ s => s.subConfig value

def execSubRelease (via : Via) (value : Bytes) (s : State) : Host.Outcome State Fault Refusal :=
  act s fun s => if leAt value 0 1 = 1 then s else s.writeVia via 0x5220 2 value fun _ s => s.subConfig value

/-- STATE of Table 14-4. -/
def SubState.code : SubState → Nat
  | .configured => 1
  | .auto => 2
  | .schedule => 3

/-- SUB_QUERY (Table 14-8). -/
def State.subQuery (s : State) : Bytes :=
  let slot := s.num Reg.subCtl.subSelect
  let rec_ := fun (state port service rate burst n : Nat) (credit : Int) (queued tx : Nat) =>
    leBytes 1 state ++ leBytes 1 port ++ leBytes 1 service ++ zeros 1 ++ leBytes 4 rate ++ leBytes 4 burst ++ leBytes 4 n ++
      leBytes 8 (credit % 2 ^ 64).toNat ++ leBytes 8 queued ++ leBytes 8 tx ++ zeros 8
  let queued := fun (l : List TxPkt) => sum (l.map s.frameLen)
  if slot = 0 then
    rec_ 0xFF 0xFF 0xFF (s.num Reg.tsch.overflowRateMbps) (s.num Reg.tsch.overflowBurst) (s.boundTo 0) 0
      (sum (s.skd.ports.map fun x => sum (x.svc.map fun y => queued y.over_))) 0
  else match s.sub? slot with
    | none => rec_ 0 0xFF 0xFF 0 0 0 0 0 0
    | some x => rec_ x.state.code ((x.place.map (·.1)).getD 0xFF) ((x.place.map (·.2)).getD 0xFF) x.rate x.burst
        (s.boundTo slot) x.credit (queued x.queue) x.tx

/-! ### The ingress policer (R435) -/

/-- A sequenced packet meets its service's policer on its port: none if it is dropped, else the state and whether it is
marked. -/
def State.police (s : State) (port v len : Nat) : Option (Bool × State) × State :=
  let x := s.portTx port
  let y := x.service v
  let burst : Int := s.num (Reg.service.ingressBurst v) * 1000
  let t := y.police
  let charge := s.putPortTx port (x.putService v { y with police := t - 1000 * len })
  if 0 ≤ t then (some (false, charge), s)
  else if -burst ≤ t then (some (true, charge.bump (Reg.service.policeMarked v)), s)
  else (none, s.bump (Reg.service.policeDropped v))

end Sys2Proof.Machine
end

