-- ==== Sys2Proof/Machine/Skidder.lean ====
section
/-! DEFINITION. The Skidder's connections (R387 to R389), operations and transfers (R393, R394, R420, R421), loss recovery
(R403 to R407), rate control (R408), keys and fencing (R411 to R413), and links (Table 13-10). -/
namespace Sys2Proof.Machine

/-! ### Packets and messages of this end -/

/-- A packet of a connection with nothing in it. -/
def Conn.packet (c : Conn) (type : Nat) : TxPkt :=
  { conn := c.num, type := type, ackReq := false, retx := false, chipped := false, plain := false, label := none, psn := 0,
    msgId := 0, ext := none, payload := [], deck := none, attempt := 0, first := false, head := false, addr := c.addr,
    reply := none }

/-- Cuts bytes into packets of at most `mtu` bytes, each with its offset. -/
def cutBytes (mtu : Nat) : Nat → Nat → Bytes → List (Nat × Bytes)
  | 0, _, _ => []
  | fuel + 1, off, b =>
    if b.length ≤ mtu then [(off, b)] else (off, b.take mtu) :: cutBytes mtu fuel (off + mtu) (b.drop mtu)

/-- The packets of one message (R394): WRITE packets, the last a WRITE_IMM where it has an immediate. -/
def Conn.writePkts (c : Conn) (msg key offset : Nat) (imm : Option Nat) (chipped : Bool) (b : Bytes) : List TxPkt :=
  let l := cutBytes c.mtu (b.length + 1) 0 b
  l.map fun (p : Nat × Bytes) =>
    let last := decide (p.1 + c.mtu ≥ b.length)
    let fin := last && imm.isSome
    { c.packet (if fin then 2 else 1) with
      ackReq := fin, chipped := chipped, msgId := msg, payload := p.2
      ext := some ⟨key, b.length, offset + p.1, if fin then imm.getD 0 else 0⟩ }

/-- A NOTICE payload (R392). -/
def noticePayload (code : Nat) (body : Bytes) : Bytes := beBytes 2 code ++ beBytes 2 body.length ++ zeros 4 ++ body

/-- A notice goes to the port's control queue. -/
def State.notice (s : State) (c : Conn) (code : Nat) (body : Bytes) : State :=
  let plain := decide (code ≤ 2)
  s.pushCtl c.port { c.packet 6 with plain := plain, payload := noticePayload code body }

/-! ### Completions (R421) -/

/-- The page that counts the completions of a source: a context's SKD_ page, or its cluster's transfer queue (numbered from
64). -/
def TransferSrc.pageOf : TransferSrc → Nat
  | .page ctx => ctx
  | .core cluster _ => 64 + cluster

def TransferSrc.ctxOf : TransferSrc → Nat
  | .page ctx => ctx
  | .core _ ctx => ctx

/-- A completion is written; a page's interrupts its vector. -/
def State.transferEnds (s : State) (src : TransferSrc) (tag op status : Nat) : State :=
  let p := s.page src.pageOf
  let s := (s.putPage { p with cqTail := wrap 32 (p.cqTail + 1), last := status }).emit (.transferDone src p.cqTail status op tag)
  match src with
  | .page _ => (s.emit (.msix p.vector)).ends status
  | .core _ _ => s.ends status

/-- The bytes that a READ brought, placed where its user asked. -/
def State.readDone (s : State) (op : NetOp) : State :=
  match op.user with
  | .transfer src _ _ local_ => op.got.foldl (fun (s : State) (g : Nat × Bytes) =>
      match src with
      | .page ctx => s.emit (.hostWrite ctx (local_ + g.1) g.2)
      | .core _ _ => s.bufWrite (local_ / 2 ^ 32) (local_ % 2 ^ 32 + g.1) g.2) s
  | _ => s

/-- An operation completes to its user. -/
def State.opEnds (s : State) (op : NetOp) (status : Nat) : State :=
  match op.user with
  | .transfer src tag o _ => s.transferEnds src tag o status
  | .fragment _ => s
  | .message => s.ends status

/-! ### Messages from this device (R398, R414) -/

/-- A connection starts a write or message: one Chipper stream where it compresses, plain the second time (R414). -/
def State.sendWrites (s : State) (c : Conn) (user : OpUser) (key offset : Nat) (imm : Option Nat) (raw : Bytes) (again : Bool) :
    State :=
  let chip := c.compress && !again
  let b := if chip then chipStream raw (s.num Reg.chipCfg.netBlockLog2) true else raw
  let op : NetOp := ⟨c.nextMsg, user, 0, [], false, false, again, raw, key, offset, imm⟩
  (s.putConn { c with nextMsg := wrap 32 (c.nextMsg + 1), ops := c.ops ++ [op] }).queuePkts c.num
    (c.writePkts c.nextMsg key offset imm chip b)

/-! ### Leaving OPEN (R389) -/

/-- Frees what a connection's partial messages hold. -/
def State.dropMessages (s : State) (c : Conn) : State :=
  let s := (c.rxMsgs.filter fun m => m.mem != 0).foldl (fun s m => s.unitFree m.mem) s
  match s.conn? c.num with
  | some c => s.putConn { c with rxMsgs := [] }
  | none => s

/-- A connection leaves OPEN: its operations complete with `status`, its partial messages and held packets are discarded,
and it sends nothing further. -/
def State.leaveOpen (s : State) (c : Conn) (next : ConnState) (status : Nat) : State :=
  let s := (s.dropMessages c).putConn { c with
    state := next, rxMsgs := [], backlog := [], unacked := [], ops := []
    secret := if next = .fenced then [] else c.secret }
  let s := s.unbind c
  c.ops.foldl (fun s o => s.opEnds o status) s

/-- CONNS_OPEN counts the connections that hold a number. -/
def State.connRegs (s : State) : State := (s.setN Reg.skd.connsOpen s.skd.conns.length).subRegs

/-- A connection is CLOSED: its number is free at once. -/
def State.closeConn (s : State) (c : Conn) (status : Nat) : State :=
  let s := if c.state = .open_ then s.leaveOpen c .fenced status else s
  (s.putSkd { s.skd with conns := s.skd.conns.filter fun x => x.num != c.num }).connRegs

/-- R413: a connection whose peer is revoked is FENCED. -/
def State.fenceConn (s : State) (c : Conn) : State :=
  if c.state = .open_ then s.leaveOpen { c with answered := false } .fenced 0x5006
  else s.putConn { c with state := .fenced, secret := [], answered := false }

/-- R413: a pair leaves membership. -/
def State.fencePeers (s : State) (slot gen : Nat) : State :=
  (s.skd.conns.filter fun c => c.peerSlot == slot && c.peerGen == gen).foldl (fun s c => s.fenceConn c) s

/-- The number of CONN_QUERY's connection and its record. -/
def State.connQuery (s : State) : Bytes :=
  match s.conn? (s.num Reg.connCtl.connQueryId) with
  | none => []
  | some c =>
    leBytes 1 (match c.state with | .open_ => 0 | .fenced => 1 | .failed => 2) ++ leBytes 1 c.kind ++ leBytes 1 c.roce.toNat ++
      zeros 1 ++ leBytes 4 c.keyEpoch ++ leBytes 4 c.rate ++ leBytes 4 (c.srtt.getD 0) ++
      (c.tags.flatMap (leBytes 4)) ++ leBytes 8 c.txCount ++ leBytes 8 c.rxCount ++ leBytes 8 c.rejects

/-! ### CONN_OPEN and CONN_CLOSE (R388, R431) -/

/-- A descriptor field that R388 calls reserved holds a reserved value. -/
def descReserved (v : Bytes) : Bool :=
  let kind := leAt v 0 1
  let roce := leAt v 1 1
  !(1 ≤ kind && kind ≤ 5) || 1 < roce || 1 < leAt v 2 1 || 3 < leAt v 3 1 || 63 < leAt v 4 1 || leAt v 6 2 != 0 ||
  !(leAt v 0x0C 4 ≤ 16383 || leAt v 0x0C 4 == 0xFFFFFFFF) || (kind != 1 && leAt v 0x14 4 != 0) || leAt v 0x28 8 == 0 ||
  !(leAt v 0x34 2 == 1024 || leAt v 0x34 2 == 2048 || leAt v 0x34 2 == 4096) || (kind != 4 && leAt v 0x36 2 != 0) ||
  7 < leAt v 0x3A 1 || !allZero (bytesAt v 0x3B 5) || (!(roce == 1 && kind == 1) && !allZero (bytesAt v 0x60 128))

/-- The lowest connection number not in use. -/
def State.freeConn (s : State) : Nat :=
  ((List.range (s.skd.conns.length + 1)).find? fun n => (s.conn? n).isNone).getD 0

/-- The checks of R388, in order. -/
def State.openRefusal (s : State) (v : Bytes) : Option Nat :=
  let kind := leAt v 0 1
  let roce := leAt v 1 1 == 1
  let n := (s.skd.conns.filter fun c => c.state == .open_).length
  let r := (s.skd.conns.filter fun c => c.state == .open_ && c.roce).length
  if descReserved v then some 0x5002
  else if !s.portFitted (leAt v 5 1) then some 0x5003
  else if roce && (kind == 2 || kind == 3 || (s.num (Reg.ctx.policy (leAt v 4 1))).testBit 0) then some 0x5002
  else if 65536 ≤ n ∨ (roce ∧ 16384 ≤ r) then some 0x5004
  else none

/-- A connection just opened from its descriptor. -/
def State.newConn (s : State) (v : Bytes) (num sub : Nat) : Conn :=
  { num := num, kind := leAt v 0 1, roce := leAt v 1 1 == 1, target := leAt v 2 1 == 1, compress := (leAt v 3 1).testBit 0,
    ipv4 := (leAt v 3 1).testBit 1, ctx := leAt v 4 1, port := leAt v 5 1, peerConn := leAt v 8 4, peerSlot := leAt v 0x0C 4,
    peerGen := leAt v 0x10 4, consumer := leAt v 0x14 4, addr := bytesAt v 0x18 16, mask := leAt v 0x28 8,
    slotBytes := leAt v 0x30 4, mtu := leAt v 0x34 2, stream := leAt v 0x36 2, service := leAt v 0x3A 1,
    secret := bytesAt v 0x40 32, rkeys := bytesAt v 0x60 128, sub := sub, state := .open_, keyEpoch := 0, graceUntil := none,
    confirmed := 0, serial := 0, nextPsn := 1, nextMsg := 1, backlog := [], unacked := [], ops := [], srtt := none,
    rttvar := s.num Reg.rel.rtoMinUs * 1000 / 4, rate := s.num Reg.rateCtl.rateInitMbps, alpha := 65536, clean := 0, ackedP := 0,
    markedP := 0, credit := 0, rxCum := 1, rxAbove := [], newAck := 0, newCe := 0, newRej := 0, ackLabel := 0, ackEcho := 0,
    rxMsgs := [], rxDone := [], lastLabel := 63, tags := [s.freeVal % 2 ^ 30, s.drawn.freeVal % 2 ^ 30, s.drawn.drawn.freeVal % 2 ^ 30],
    answered := false, rejects := 0, txCount := 0, rxCount := 0 }

/-- A write of CONN_OPEN: a connection under the lowest free number, or the code that refuses it. -/
def State.openConn (s : State) (v : Bytes) : Except Nat (Nat × State) :=
  match s.openRefusal v with
  | some c => .error c
  | none =>
    let n := s.freeConn
    match s.bindSub (leAt v 0x38 2) (leAt v 5 1) (leAt v 0x3A 1) n with
    | none => .error 0x5002
    | some (sub, _, s) =>
      let c := s.newConn v n sub
      .ok (n, ((s.drawn.drawn.drawn.putSkd { s.skd with conns := s.skd.conns ++ [c] }).openPort c.port).connRegs)

/-- The session of a path keeps the result of its last open (R388). -/
def State.noteOpen (s : State) (via : Via) (status num : Nat) : State :=
  match via with
  | .tally h => match s.session? h.session with
    | some x => s.putSession { x with connResult := leBytes 2 status ++ leBytes 2 num }
    | none => s
  | .smbus _ => s

/-- CONN_OPEN's effect for the serializer; the result is kept for the writing session either way. -/
def State.connOpenWrite (s : State) (v : Bytes) : Except Nat State :=
  match s.openConn v with
  | .error c => .error c
  | .ok (_, t) => .ok t

def execConnOpen (via : Via) (value : Bytes) (s : State) : Host.Outcome State Fault Refusal :=
  act s fun s =>
    let n := s.freeConn
    let t := s.writeVia via 0x5010 1 value fun _ s => s.connOpenWrite value
    if t.skd.conns.length ≠ s.skd.conns.length then t.noteOpen via 0x5000 n
    else if t.status / 256 = 0x50 then t.noteOpen via t.status 0 else t

/-- A write of CONN_CLOSE. -/
def State.connCloseWrite (s : State) (n : Nat) : Except Nat State :=
  match s.conn? n with
  | none => .error 0x5002
  | some c => .ok (s.closeConn c 0x5013)

def execConnClose (via : Via) (value : Bytes) (s : State) : Host.Outcome State Fault Refusal :=
  act s fun s => s.writeVia via 0x5010 2 value fun _ s => s.connCloseWrite (leNat value)

/-! ### Loss and retransmission (R403, R406, R407) -/

/-- The retransmission timer of a packet, in ns. -/
def State.rto (s : State) (c : Conn) (tries : Nat) : Nat :=
  let base := max (s.num Reg.rel.rtoMinUs * 1000) (c.srtt.getD 0 + 4 * c.rttvar)
  min (base * 2 ^ tries) (max base (s.num Reg.rel.rtoMaxUs * 1000))

/-- The labels quarantined on some port. -/
def State.quarRegs (s : State) : State :=
  s.setN Reg.path.quarantined (s.skd.quarantine.foldl (fun m q => setBit m q.2.1) 0)

/-- A loss on a port and label: LOSS_QUARANTINE of them within 1,024 rings quarantine the label (R403). -/
def State.noteLoss (s : State) (port label : Nat) : State :=
  let l := (s.skd.losses.filter fun x => s.rc.ring < x.2.2 + 1024) ++ [(port, label, s.rc.ring)]
  let s := s.putSkd { s.skd with losses := l }
  let n := (l.filter fun x => x.1 == port && x.2.1 == label).length
  if n < s.num Reg.path.lossQuarantine ∨ s.labelBarred port label then s
  else
    let s := s.putSkd { s.skd with
      losses := s.skd.losses.filter fun x => !(x.1 == port && x.2.1 == label)
      quarantine := (s.skd.quarantine.filter fun q => !(q.1 == port && q.2.1 == label)) ++
        [(port, label, s.rc.ring + s.num Reg.path.quarantineRings)] }
    s.quarRegs.raise 0x5080 port 0xFF (leBytes 1 port ++ leBytes 1 label)

/-- The connection FAILs: PEER_UNREACHABLE goes to Lookout, and deck entries cut off become RETAINED (R407). -/
def State.failConn (s : State) (c : Conn) : State :=
  let who := if c.peerSlot = 0xFFFFFFFF then c.consumer else c.peerSlot
  let keys := c.unacked.filterMap fun u => u.pkt.deck
  let s := s.leaveOpen c .failed 0x5011
  let s := keys.eraseDups.foldl (fun (s : State) (k : FragKey) => match s.entry? k with
    | some e => if e.state = .sent then s.putEntry { e with state := .retained, unacked := 0 } else s
    | none => s) s
  (s.logOccurrence (0x5000 + c.port) 0x5011 false c.ctx (leBytes 4 who)).emit (.unreachable c.num who)

/-- A packet is lost: sent again with RETX, or the connection has failed. -/
def State.lose (s : State) (c : Conn) (u : Sent) : State :=
  let s := s.noteLoss c.port u.label
  let limit := if c.roce then 7 else s.num Reg.rel.retryLimit
  if limit ≤ u.tries then s.failConn c
  else
    let back := if c.roce then c.unacked.filter fun x => psnDist u.pkt.psn x.pkt.psn < 2 ^ 31 else [u]
    let again := back.map fun (x : Sent) => { x.pkt with retx := true, label := none, first := false, head := false }
    let s := s.putConn { c with unacked := c.unacked.map fun (x : Sent) =>
      if (back.any fun y => y.pkt.psn == x.pkt.psn) then { x with queued := true } else x }
    s.queuePkts c.num again

/-- PACKET_LOST: a packet sent later was acknowledged, and the time has passed. -/
def State.packetLost (s : State) (n psn : Nat) : State :=
  match s.conn? n with
  | none => s
  | some c => match c.unacked.find? fun u => u.pkt.psn == psn with
    | none => s
    | some u =>
      if c.state ≠ .open_ ∨ u.queued ∨ !u.passed ∨ s.nowNs < u.at_ + c.srtt.getD 0 + s.num Reg.rel.reorderNs then s
      else s.lose c u

def execPacketLost (conn psn : Nat) (s : State) : Host.Outcome State Fault Refusal := live s fun s => s.packetLost conn psn

/-- `on_rto`. -/
def State.onRto (s : State) (c : Conn) : Conn :=
  { c with rate := max (c.rate / 2) (s.num Reg.rateCtl.rateMinMbps), clean := 0 }

/-- RETRANSMIT_TIMEOUT: a packet's timer expired. -/
def State.retransmitTimeout (s : State) (n psn : Nat) : State :=
  match s.conn? n with
  | none => s
  | some c => match c.unacked.find? fun u => u.pkt.psn == psn with
    | none => s
    | some u =>
      if c.state ≠ .open_ ∨ u.queued ∨ s.nowNs < u.at_ + s.rto c u.tries then s
      else (s.putConn (s.onRto c)).lose (s.onRto c) u

def execRetransmitTimeout (conn psn : Nat) (s : State) : Host.Outcome State Fault Refusal :=
  live s fun s => s.retransmitTimeout conn psn

def execQuarantineEnd (port label : Nat) (s : State) : Host.Outcome State Fault Refusal :=
  live s fun s => (s.putSkd { s.skd with quarantine := s.skd.quarantine.filter fun q =>
    !(q.1 == port && q.2.1 == label && decide (q.2.2 ≤ s.rc.ring)) }).quarRegs

/-! ### Rate control (R408, R409) -/

/-- `rc_period` of one connection, over the counts of the period. -/
def State.ratePeriod (s : State) (c : Conn) : Conn :=
  let f := if c.ackedP = 0 then (if c.roce && c.markedP != 0 then 65536 else 0)
    else if c.roce then (if c.markedP = 0 then 0 else 65536) else c.markedP * 65536 / c.ackedP
  let alpha := c.alpha - c.alpha / 16 + f / 16
  let clean := if c.markedP ≠ 0 then 0 else c.clean + 1
  let rate := if c.markedP ≠ 0 then c.rate - c.rate * alpha / 2 ^ 17
    else if 5 ≤ clean then c.rate + s.num Reg.rateCtl.rateHaiMbps else c.rate + s.num Reg.rateCtl.rateAiMbps
  { c with alpha := alpha, clean := clean, ackedP := 0, markedP := 0,
           rate := min (max rate (s.num Reg.rateCtl.rateMinMbps)) s.portRate }

def execRcPeriod (s : State) : Host.Outcome State Fault Refusal :=
  live s fun s =>
    if s.rc.ring % max 1 (s.num Reg.rateCtl.rcPeriodRings) ≠ 0 then s
    else s.putSkd { s.skd with conns := s.skd.conns.map fun (c : Conn) => if c.state = .open_ then s.ratePeriod c else c }

/-! ### Keys (R411, R412) -/

/-- KEY_EPOCH_ADVANCE: every OPEN connection's key epoch advances where it may. -/
def State.advanceKeys (s : State) : State :=
  s.putSkd { s.skd with conns := s.skd.conns.map fun (c : Conn) =>
    if c.state = .open_ && !c.roce && c.mayRotate then s.rotate c else c }

def execKeyGraceEnd (conn : Nat) (s : State) : Host.Outcome State Fault Refusal :=
  live s fun s => match s.conn? conn with
    | none => s
    | some c => match c.graceUntil with
      | some r => if r ≤ s.rc.ring then s.putConn { c with graceUntil := none } else s
      | none => s

def execEarlyRotation (conn : Nat) (s : State) : Host.Outcome State Fault Refusal :=
  live s fun s => match s.conn? conn with
    | none => s
    | some c => if c.state = .open_ ∧ !c.roce ∧ 2 ^ 47 ≤ c.serial then s.rotateEarly c else s

/-! ### Links (Table 13-10) -/

/-- A data port's link goes down: what was in flight on it is lost, and Lookout is told. -/
def execLinkDown (port : Nat) (s : State) : Host.Outcome State Fault Refusal :=
  live s fun s =>
    if !s.portsMayRise || !s.portFitted port || !s.flag (Reg.portStat.linkUp port) then s
    else (s.setN (Reg.portStat.linkUp port) 0).emit (.linkReport port)

/-- A link comes up: what was lost with it is sent again. -/
def execLinkUp (port : Nat) (s : State) : Host.Outcome State Fault Refusal :=
  live s fun s =>
    if !s.portFitted port || s.flag (Reg.portStat.linkUp port) || (s.num Reg.gate.portGate).testBit port then s
    else
      let s := s.setN (Reg.portStat.linkUp port) 1
      (s.skd.conns.filter fun c => c.port == port && c.state == .open_).foldl (fun (s : State) (c : Conn) =>
        let late := c.unacked.filter fun u => !u.queued && decide (u.at_ + s.rto c u.tries ≤ s.nowNs)
        late.foldl (fun (s : State) (u : Sent) => match s.conn? c.num with
          | some d => if d.state = .open_ then s.lose d u else s
          | none => s) s) s

/-- R383: a PAUSE or priority flow control frame is counted. -/
def execPauseFrameRx (port : Nat) (s : State) : Host.Outcome State Fault Refusal :=
  live s fun s => if s.portFitted port then s.bump Reg.skd.pauseReceived else s

/-! ### Transfers (R420, R421) -/

/-- Whether a context's SKD_ page is usable. -/
def State.pageOn (s : State) (ctx : Nat) : Bool := (s.num Reg.connCtl.hostTransfer).testBit ctx

/-- SKD_TXQ_TAIL: descriptors the host has written become available for fetching. -/
def execSkdTxqTail (ctx tail : Nat) (descs : List TransferDesc) (s : State) : Host.Outcome State Fault Refusal :=
  live s fun s =>
    if 63 < ctx || !s.pageOn ctx then s
    else
      let p := s.page ctx
      s.putPage { p with tail := wrap 32 tail, waiting := p.waiting ++ descs.take (wrap 32 (tail + 2 ^ 32 - p.tail)) }

/-- Transfers of a page that have not completed. -/
def State.pageOpen (s : State) (page : Nat) : Nat :=
  sum (s.skd.conns.map fun c => (c.ops.filter fun o => match o.user with
    | .transfer src _ _ _ => src.pageOf == page
    | _ => false).length)

/-- A page's next descriptor is fetched if it is `d` and the completion ring has room; a core's is as submitted. -/
def State.fetch (s : State) (src : TransferSrc) (d : TransferDesc) : Option State :=
  match src with
  | .core _ _ => some s
  | .page ctx =>
    let p := s.page ctx
    match p.waiting with
    | [] => none
    | e :: l =>
      if e ≠ d ∨ !s.pageOn ctx ∨ p.cqSize ≤ wrap 32 (p.cqTail + 2 ^ 32 - p.cqHead) + s.pageOpen ctx then none
      else some (s.putPage { p with waiting := l, head := wrap 32 (p.head + 1) })

/-- The connection of a transfer, where it is a TRANSFER connection of the queue's context. -/
def State.transferConn (s : State) (src : TransferSrc) (d : TransferDesc) : Option Conn :=
  match s.conn? d.conn with
  | some c => if c.kind = 5 ∧ c.ctx = src.ctxOf ∧ c.state = .open_ then some c else none
  | none => none

/-- The code of a transfer that cannot start on its connection. -/
def State.transferCode (s : State) (src : TransferSrc) (d : TransferDesc) : Nat :=
  match s.conn? d.conn with
  | some c => if c.kind ≠ 5 ∨ c.ctx ≠ src.ctxOf then 0x5002
    else match c.state with | .fenced => 0x5006 | .failed => 0x5011 | .open_ => 0x5002
  | none => 0x5002

/-- Starts a WRITE or WRITE_IMM transfer. -/
def State.transferWrite (s : State) (src : TransferSrc) (d : TransferDesc) (imm : Option Nat) (data : Bytes) : State :=
  match s.fetch src d with
  | none => s
  | some s => match s.transferConn src d with
    | none => s.transferEnds src d.tag d.op (s.transferCode src d)
    | some c =>
      s.sendWrites c (.transfer src d.tag d.op d.local_) d.remoteKey d.remoteOffset imm data false

def execTransferWrite (src : TransferSrc) (desc : TransferDesc) (data : Bytes) (s : State) : Host.Outcome State Fault Refusal :=
  live s fun s => if desc.op ≠ 1 then s else s.transferWrite src desc none data

def execTransferWriteImm (src : TransferSrc) (desc : TransferDesc) (data : Bytes) (s : State) :
    Host.Outcome State Fault Refusal :=
  live s fun s => if desc.op ≠ 2 then s else s.transferWrite src desc (some desc.immediate) data

def execTransferRead (src : TransferSrc) (desc : TransferDesc) (s : State) : Host.Outcome State Fault Refusal :=
  live s fun s =>
    if desc.op ≠ 3 then s
    else match s.fetch src desc with
      | none => s
      | some s =>
        if desc.length = 0 ∨ s.num Reg.rel.readMax < desc.length then s.transferEnds src desc.tag 3 0x5002
        else match s.transferConn src desc with
          | none => s.transferEnds src desc.tag 3 (s.transferCode src desc)
          | some c =>
            let op : NetOp := ⟨c.nextMsg, .transfer src desc.tag 3 desc.local_, desc.length, [], true, false, false, [], desc.remoteKey,
              desc.remoteOffset, none⟩
            let s := s.putConn { c with nextMsg := wrap 32 (c.nextMsg + 1), ops := c.ops ++ [op] }
            s.queuePkts c.num [{ c.packet 3 with
              msgId := c.nextMsg, ext := some ⟨desc.remoteKey, desc.length, desc.remoteOffset, 0⟩ }]

/-- SKD_CQ_HEAD: the host has consumed completions. -/
def execSkdCqHead (ctx head : Nat) (s : State) : Host.Outcome State Fault Refusal :=
  live s fun s => if 63 < ctx || !s.pageOn ctx then s else s.putPage { s.page ctx with cqHead := wrap 32 head }

/-! ### RoCEv2 (R416) -/

/-- The retransmission of RoCEv2's NAK, and its acknowledgement of every earlier PSN: both are in the receive file. A CNP
marks the period (Table 13-11). -/
def execRocev2Cnp (conn : Nat) (s : State) : Host.Outcome State Fault Refusal :=
  live s fun s => match s.conn? conn with
    | none => s
    | some c => if c.state = .open_ ∧ c.roce then s.putConn { c with markedP := c.markedP + 1 } else s

end Sys2Proof.Machine
end

