-- ==== Sys2Proof/Machine/Contexts.lean ====
section
/-! DEFINITION. Contexts (R492 to R495), the sharing of clusters (R496, R497) and the switch with its scrub (R498 to R500). -/
namespace Sys2Proof.Machine

/-! ### Clusters and their candidates -/

def State.putSec (s : State) (x : Security) : State := { s with sec := x }

def State.cluster (s : State) (c : Nat) : Cluster :=
  ((s.sec.clusters.find? fun p => p.1 == c).map (·.2)).getD Cluster.free

def State.putCluster (s : State) (c : Nat) (x : Cluster) : State :=
  s.putSec { s.sec with clusters := s.sec.clusters.filter (fun p => p.1 != c) ++ [(c, x)] }

/-- CTX_DEFINED counts the contexts that are not UNDEFINED, and STATE follows (Table 16-7). -/
def State.ctxRegs (s : State) (k : Nat) : State :=
  (s.setN (Reg.ctx.state k) (s.ctx k).state.code).setN Reg.ctxSum.ctxDefined s.sec.ctxs.length

/-- RESIDENT_MASK of a context and CTX_RESIDENT. -/
def State.residentRegs (s : State) (k : Nat) : State :=
  let on := s.sec.clusters.filter fun p => p.2.resident == some k
  (s.setN (Reg.ctx.residentMask k) (sum (on.map fun p => 2 ^ p.1))).setN Reg.ctxSum.ctxResident
    (s.sec.clusters.filter fun p => p.2.resident.isSome).length

/-- Whether a context is resident on any cluster. -/
def State.residentSomewhere (s : State) (k : Nat) : Bool := s.sec.clusters.any fun p => p.2.resident == some k

/-- A candidate of a cluster: a DEFINED context whose CLUSTER_MASK includes it, and not context 0 in the course of R493. -/
def State.candidate (s : State) (c k : Nat) : Bool :=
  s.ctxDefined k && !(s.ctx k).renew && (s.num (Reg.ctx.clusterMask k)).testBit c

/-- Whether a context holds something for a cluster to do (R496). -/
def State.runnable (s : State) (c k : Nat) : Bool :=
  (s.dec.queues.any fun q => q.cluster == c && ((q.entries.any fun e => e.req.ctx == k) ||
    q.running.any fun e => e.2.req.ctx == k)) ||
  (s.dec.saved.any fun p => p.1 == k && p.2.cluster == c && !p.2.entries.isEmpty) ||
  (s.dec.streams.any fun x => x.owner == k && x.cluster == c && !x.queue.isEmpty) ||
  (s.tok.queues.any fun q => q.cluster == c && ((q.entries.any fun e => e.req.ctx == k) ||
    q.running.any fun e => e.2.req.ctx == k)) ||
  (s.tok.saved.any fun p => p.1 == k && p.2.cluster == c && !p.2.entries.isEmpty) ||
  (s.tok.streams.any fun x => x.entry.req.ctx == k && x.entry.desc.cluster == c && !x.notes.isEmpty) ||
  (s.comp.clusters.any fun x => x.cluster == c && ((x.queue.any fun e => e.req.ctx == k) ||
    (x.launch.map (·.entry.req.ctx)) == some k)) ||
  (s.comp.saved.any fun p => p.1 == k && p.2.cluster == c && (!p.2.queue.isEmpty || p.2.launch.isSome)) ||
  (s.intake.toStore.any fun it => it.frames.any fun f =>
    s.num (Reg.live.context f.stream) == k && s.num (Reg.live.storeFormat f.stream) != 0) ||
  (s.landing.msgs.any fun m => m.1 == k) || s.gradesFor k

/-- The contexts. -/
def contexts : List Nat := List.range 64

/-- The pinned candidate of a cluster. -/
def State.pinnedOn (s : State) (c : Nat) : Option Nat :=
  contexts.find? fun k => s.candidate c k && s.flag (Reg.ctx.pinned k)

/-- The context that a cluster turns to: its pinned candidate, else the next runnable candidate in round robin, in ascending
number after the resident. -/
def State.nextContext (s : State) (c : Nat) : Option Nat :=
  match s.pinnedOn c with
  | some k => some k
  | none =>
    let cur := (s.cluster c).resident
    let l := contexts.filter fun k => some k != cur && s.candidate c k && s.runnable c k
    match l.find? fun k => match cur with | some r => r < k | none => true with
    | some k => some k
    | none => l.head?

/-- Whether a cluster is due to change its resident, and to which context (R496, R497): none where it is not. -/
def State.switchDue (s : State) (c : Nat) : Option (Option Nat) :=
  let x := s.cluster c
  let next := s.nextContext c
  match x.resident with
  | none => if next.isSome then some next else none
  | some r =>
    let over_ := decide (x.since + 100 * s.num (Reg.ctx.sliceUs r) ≤ s.now)
    let idle := decide (x.since + 100000 ≤ s.now) && !s.runnable c r
    if !s.ctxDefined r || (s.ctx r).renew then some next
    else if next = some r then none
    else if over_ then (if next.isSome then some next else if s.candidate c r then none else some none)
    else if idle && next.isSome && s.pinnedOn c != next then some next
    else none

/-! ### Ending a context (R320, R493, R495) -/

/-- Steps 1 to 3 of R495: connections, push ports, live streams and the SKD_ page; video and rollout streams, their work
completed with FLUSHED; descriptors, kernels, models, vocabularies and grammars. -/
def State.ctxStop (s : State) (k : Nat) : State :=
  let s := (s.skd.conns.filter fun x => x.ctx == k).foldl (fun (s : State) x => s.closeConn x 0x5013) s
  let s := ((List.range 64).filter fun p => s.num (Reg.push.context p) == k).foldl (fun (s : State) p =>
    s.setN (Reg.push.enable p) 0) s
  let s := ((List.range 256).filter fun i => s.flag (Reg.live.enable i) && s.num (Reg.live.context i) == k).foldl
    (fun (s : State) i => match s.liveEnable i 0 with
      | .ok t => t
      | .error _ => s) s
  let s := s.putSkd { s.skd with pages := s.skd.pages.filter fun p => p.ctx != k }
  let s := (s.dec.streams.filter fun x => x.owner == k).foldl (fun (s : State) x => s.flushUnits 0x4005 x.queue) s
  ((s.decDestroy k).tokDestroy k).compDestroy k

/-- The messages kept for a context are dropped. -/
def State.dropMsgs (s : State) (k : Nat) : State :=
  { s with landing := { s.landing with msgs := s.landing.msgs.filter fun m => m.1 != k } }

/-- Steps 5 and 6 of R495, once the context is resident nowhere: its buffers, measurement registers and log entries, and
whatever its saved state still held. Context 0 in the course of R493 starts again with its new program. -/
def State.ctxEnd (s : State) (k : Nat) : State :=
  let s := ((((s.decDestroy k).tokDestroy k).compDestroy k).freeContext k).dropMsgs k
  let l := s.sec.meas.filter fun e => e.context != k
  let s := (s.putSec { s.sec with meas := l }).setN Reg.attest.logEntries l.length
  let s := (((s.setN (Reg.ctx.switchesIn k) 0).setN (Reg.ctx.itemsQ k) 0).setN (Reg.ctx.engineCyclesQ k) 0).setN
    (Reg.ctx.unitRequestsQ k) 0
  if (s.ctx k).renew then
    (s.putCtx k { Ctx.undefined with state := .defined }).measure k 1 (sha384 (s.blob (Reg.ctx.program k)))
  else (s.putCtx k Ctx.undefined).ctxRegs k

/-- A context being ended and resident nowhere ends. -/
def State.ctxSettle (s : State) (k : Nat) : State :=
  if ((s.ctx k).state = .destroying ∨ (s.ctx k).renew) ∧ !s.residentSomewhere k then s.ctxEnd k else s

/-! ### ACTION and PROGRAM -/

/-- Whether a context is in use by a run or a grading pass (R493, R495). -/
def State.ctxBusy (s : State) (k : Nat) : Bool := (s.inRun && s.num Reg.secCtl.schedContext == k) || s.gradesFor k

/-- A CLUSTER_MASK that is zero or names an absent cluster. -/
def State.maskBad (s : State) (m : Nat) : Bool := m == 0 || m &&& s.dev.variant.clusterMask != m

/-- Whether a context pinned with a mask would meet another pinned context (R494, R497). -/
def State.pinClash (s : State) (k mask : Nat) : Bool :=
  contexts.any fun j => j != k && (s.ctx j).state != .undefined && s.flag (Reg.ctx.pinned j) &&
    s.num (Reg.ctx.clusterMask j) &&& mask != 0

/-- DEFINE (R494). -/
def State.defineCtx (s : State) (k : Nat) : Except Nat State :=
  let mask := s.num (Reg.ctx.clusterMask k)
  let program := s.blob (Reg.ctx.program k)
  if (s.ctx k).state ≠ .undefined then .error 0x2602
  else if s.maskBad mask then .error 0x2614
  else if 4194304 < program.length then .error 0x2614
  else if s.flag (Reg.ctx.pinned k) ∧ s.pinClash k mask then .error 0x2611
  else .ok ((((s.openClusters mask).putCtx k { Ctx.undefined with state := .defined }).ctxRegs k).measure k 1 (sha384 program))

/-- DESTROY (R495): a context resident on a cluster stays DESTROYING until every one of its clusters has switched. -/
def State.destroyCtx (s : State) (k : Nat) : Except Nat State :=
  if k = 0 ∨ (s.ctx k).state ≠ .defined then .error 0x2602
  else if s.ctxBusy k then .error 0x2601
  else .ok ((((s.putCtx k { s.ctx k with state := .destroying }).ctxRegs k).ctxStop k).ctxSettle k)

/-- A write of ACTION: 1 DEFINE, 2 DESTROY. -/
def State.ctxAction (s : State) (k v : Nat) : Except Nat State :=
  if v = 1 then s.defineCtx k else if v = 2 then s.destroyCtx k else .error 0x2602

def execDefine (via : Via) (ctx : Nat) (s : State) : Host.Outcome State Fault Refusal :=
  act s fun s => s.writeVia via (0x2640 + ctx) 2 [1] fun _ s => s.ctxAction ctx 1

def execDestroy (via : Via) (ctx : Nat) (s : State) : Host.Outcome State Fault Refusal :=
  act s fun s => s.writeVia via (0x2640 + ctx) 2 [2] fun _ s => s.ctxAction ctx 2

/-- A write of context 0's PROGRAM (R493). -/
def State.program0 (s : State) (v : Bytes) : Except Nat State :=
  if s.ctxBusy 0 ∨ (s.ctx 0).renew then .error 0x2601
  else .ok ((((s.storeB (Reg.ctx.program 0) v).putCtx 0 { s.ctx 0 with renew := true }).ctxStop 0).ctxSettle 0)

def execContext0Program (via : Via) (program : Bytes) (s : State) : Host.Outcome State Fault Refusal :=
  act s fun s => s.writeVia via 0x2640 3 program fun _ s => s.program0 program

/-- A write of POLICY, or of PROGRAM where R519 lets it: BUSY unless the context is UNDEFINED, but for context 0 (R493). -/
def State.ctxConfigBusy (s : State) (k : Nat) : Bool :=
  if k = 0 then s.ctxBusy 0 else (s.ctx k).state != .undefined

/-- The checks of a write of PINNED or CLUSTER_MASK (R497, R519). -/
def State.residencyRefusal (s : State) (k mask pinned : Nat) : Option Nat :=
  if s.inRun ∧ s.num Reg.secCtl.schedContext = k then some 0x2601
  else if (s.ctx k).state = .undefined then none
  else if s.maskBad mask then some 0x2614
  else if (s.ctx k).state = .defined ∧ pinned ≠ 0 ∧ s.pinClash k mask then some 0x2611
  else none

/-! ### CONTEXT_SWITCH (R498 to R500) -/

/-- Step 2: the outgoing context's state is saved; its waiting pool requests leave their queues once it is resident nowhere
(R315). -/
def State.leaveCluster (s : State) (c : Nat) : State :=
  match (s.cluster c).resident with
  | none => s
  | some r =>
    let s := ((s.decLeave c r).tokLeave c r).compLeave c r
    let s := (s.putCluster c { s.cluster c with resident := none }).residentRegs r
    if s.residentSomewhere r then s else s.poolLeave r

/-- Step 3: the scrub and its record; a word that is not zero leaves the cluster FAULTED (R499, R500). -/
def State.scrubCluster (s : State) (c us : Nat) (verified : Bool) : State :=
  if verified then
    let us := min 400 us
    let s := (s.bump Reg.scrub.scrubs).setN Reg.scrub.scrubUsLast us
    s.setN Reg.scrub.scrubUsMax (max (s.num Reg.scrub.scrubUsMax) us)
  else
    let s := (s.putCluster c { s.cluster c with resident := none, faulted := true }).bump32 Reg.scrub.scrubFails
    (s.setN Reg.scrub.faultedMask (setBit (s.num Reg.scrub.faultedMask) c)).raise 0x2680 c 0xFF (leBytes 1 c)

/-- Steps 4 and 5: the incoming context's state is restored and its slice begins. -/
def State.enterCluster (s : State) (c k us : Nat) : State :=
  let s := if s.residentSomewhere k then s else s.poolRejoin k
  let s := (s.putCluster c { s.cluster c with resident := some k, since := s.now }).residentRegs k
  let s := ((s.decReturn c k).tokReturn c k).compReturn c k
  let s := (s.bump (Reg.ctx.switchesIn k)).setN Reg.scrub.switchUsLast us
  s.setN Reg.scrub.switchUsMax (max (s.num Reg.scrub.switchUsMax) us)

/-- A cluster at the end of a slice, or with a candidate waiting: it switches where R496 says so, once the items in progress
have ended (R219); a resident that stays begins another slice. -/
def State.contextSwitch (s : State) (c : Nat) (verified : Bool) (scrubUs switchUs : Nat) : State :=
  let x := s.cluster c
  if !s.hasCluster c || x.faulted then s
  else match s.switchDue c with
    | none => match x.resident with
      | some r => if x.since + 100 * s.num (Reg.ctx.sliceUs r) ≤ s.now then s.putCluster c { x with since := s.now } else s
      | none => s
    | some next =>
      if !s.itemsEnded c then s.putCs { s.cs c with stopped := true }
      else
        let s := (s.leaveCluster c).scrubCluster c scrubUs verified
        let s := match next with
          | some k => if verified then s.enterCluster c k switchUs else s
          | none => s
        match x.resident with
        | some r => s.ctxSettle r
        | none => s

def execContextSwitch (cluster : Nat) (verified : Bool) (scrubUs switchUs : Nat) (s : State) :
    Host.Outcome State Fault Refusal := live s fun s => s.contextSwitch cluster verified scrubUs switchUs

end Sys2Proof.Machine
end

