-- ==== Sys2Proof/Machine/SkdRecv.lean ====
section
/-! DEFINITION. What the Skidder does with a packet it receives (R391, R393 to R399, R404 to R406, R412, R416, R419, R435). -/
namespace Sys2Proof.Machine

/-! ### Acknowledgements (R391, R405) -/

/-- Runs of consecutive PSNs as pairs of first and one past the last. -/
def psnRuns : List Nat → List (Nat × Nat)
  | [] => []
  | p :: l => match psnRuns l with
    | (a, b) :: r => if psnNext p = a then (p, b) :: r else (p, psnNext p) :: (a, b) :: r
    | [] => [(p, psnNext p)]

/-- The ACK payload (Table 13-7). -/
def Conn.ackPayload (c : Conn) : Bytes :=
  let sack := (psnRuns c.rxAbove).take 4
  beBytes 4 c.rxCum ++ beBytes 2 (sat 16 c.newAck) ++ beBytes 2 (sat 16 c.newCe) ++ beBytes 2 (sat 16 c.newRej) ++
    beBytes 1 sack.length ++ zeros 1 ++ beBytes 4 (wrap 32 c.ackEcho) ++
    ((sack.flatMap fun r => beBytes 4 r.1 ++ beBytes 4 r.2) ++ zeros 32).take 32

/-- An ACK goes to the control queue, on the label of the packet that caused it. -/
def State.sendAck (s : State) (n : Nat) : State :=
  match s.conn? n with
  | none => s
  | some c =>
    if c.state ≠ .open_ then s
    else
      let p := { c.packet 5 with label := some c.ackLabel, payload := c.ackPayload }
      (s.putConn { c with newAck := 0, newCe := 0, newRej := 0 }).pushCtl c.port p

/-- ACK_SEND: ACK_DELAY_NS after the first packet not acknowledged, or ACK_EVERY packets since the last ACK. -/
def execAckSend (conn : Nat) (s : State) : Host.Outcome State Fault Refusal :=
  live s fun s => match s.conn? conn with
    | some c => if c.newAck = 0 then s else s.sendAck conn
    | none => s

/-- Inserts a PSN in the order of its distance from the lowest not received. -/
def insertPsn (cum p : Nat) : List Nat → List Nat
  | [] => [p]
  | q :: l => if psnDist cum p < psnDist cum q then p :: q :: l else q :: insertPsn cum p l

/-- The lowest PSN not received, and those received above it. -/
def absorb : Nat → Nat → List Nat → Nat × List Nat
  | 0, cum, l => (cum, l)
  | n + 1, cum, p :: l => if p = cum then absorb n (psnNext cum) l else (cum, p :: l)
  | _ + 1, cum, [] => (cum, [])

/-- A sequenced packet is received: its PSN is consumed, its mark and rejection counted, and an ACK sent where R405 asks for
one. -/
def State.consume (s : State) (n : Nat) (pkt : SkdRx) (ce rejected : Bool) : State :=
  match s.conn? n with
  | none => s
  | some c =>
    let l := insertPsn c.rxCum pkt.psn c.rxAbove
    let r := absorb (l.length + 1) c.rxCum l
    let c' := { c with
      rxCum := r.1, rxAbove := r.2, newAck := c.newAck + 1, newCe := c.newCe + ce.toNat, newRej := c.newRej + rejected.toNat
      ackLabel := pkt.label, ackEcho := pkt.serial, rxCount := c.rxCount + 1, rejects := c.rejects + rejected.toNat }
    let s := (s.putConn c').bumpIf rejected (Reg.portStat.keyRejects c.port)
    if pkt.ackReq || s.num Reg.rel.ackEvery ≤ c'.newAck || psnRuns r.2 != psnRuns c.rxAbove then s.sendAck n else s

/-! ### The receive checks (R396, Table 13-9) -/

/-- Whether a pair is in the revocation list. -/
def State.isRevoked (s : State) (slot gen : Nat) : Bool := s.lookout.revoked.contains (slot, gen)

/-- Step 2 fails: at most one PLAIN NO_CONNECTION per source address per ring. -/
def State.noConnection (s : State) (pkt : SkdRx) : State :=
  let s := s.bump (Reg.portStat.noConnection pkt.port)
  if s.skd.noConn.contains (pkt.addr, s.rc.ring) then s
  else
    let s := s.putSkd { s.skd with noConn := (s.skd.noConn.filter fun e => e.2 == s.rc.ring) ++ [(pkt.addr, s.rc.ring)] }
    let p : TxPkt :=
      { conn := 65536, type := 6, ackReq := false, retx := false, chipped := false, plain := true,
        label := some pkt.label, psn := 0, msgId := 0, ext := none, payload := noticePayload 2 [], deck := none, attempt := 0,
        first := false, head := false, addr := pkt.addr, reply := some (pkt.srcConn, pkt.dstConn) }
    s.pushCtl pkt.port p

/-- Step 4 fails: counted; the first packet since the revocation on this connection is answered with PLAIN FENCED. -/
def State.fencedDrop (s : State) (c : Conn) (pkt : SkdRx) : State :=
  let s := s.bump (Reg.portStat.fencedDrops pkt.port)
  if s.isRevoked pkt.srcSlot pkt.generation && !c.answered then
    (s.putConn { c with answered := true }).notice c 1 (beBytes 2 pkt.srcSlot ++ beBytes 4 pkt.generation)
  else s

/-- Whether SRC_SLOT and GENERATION are the connection's peer, and not revoked. -/
def State.peerMatches (s : State) (c : Conn) (pkt : SkdRx) : Bool :=
  pkt.srcSlot == c.peerSlot % 65536 && pkt.generation == c.peerGen && !s.isRevoked pkt.srcSlot pkt.generation

/-- The key epoch that KEY_EPOCH names among k - 1, k and k + 1, where its key is held (R412). -/
def State.keyNamed (s : State) (c : Conn) (e : Nat) : Option Nat :=
  if e = c.keyEpoch % 256 then some c.keyEpoch
  else if e = (c.keyEpoch + 1) % 256 then some (c.keyEpoch + 1)
  else if c.keyEpoch ≠ 0 ∧ e = (c.keyEpoch - 1) % 256 then
    match c.graceUntil with
    | some r => if s.rc.ring < r then some (c.keyEpoch - 1) else none
    | none => none
  else none

/-- A packet authenticated under a key epoch: the receiver advances with the sender. -/
def State.heardKey (s : State) (c : Conn) (k : Nat) : Conn :=
  let c := if k = c.keyEpoch + 1 then s.rotate c else c
  { c with confirmed := max c.confirmed k }

/-- Steps 1 to 8 for a packet of a TYPE: the connection and mark of a packet that passes them, with the state, or the state
after it was dropped. -/
def State.takePacket (s : State) (pkt : SkdRx) (type : Nat) : Except State (Conn × Bool × State) :=
  let s := s.bump (Reg.portStat.rxFrames pkt.port)
  if pkt.version ≠ 1 ∨ !pkt.lengthsOk then .error (s.bump (Reg.portStat.malformed pkt.port))
  else match s.conn? pkt.dstConn with
    | none => .error (s.noConnection pkt)
    | some c =>
      if c.state = .failed then .error (s.noConnection pkt)
      else if pkt.addr ≠ c.addr then .error (s.bump (Reg.portStat.malformed pkt.port))
      else if c.state = .fenced ∨ (!c.roce ∧ !s.peerMatches c pkt) then .error (s.fencedDrop c pkt)
      else
        let policed := if type ≤ 4 then
            s.police pkt.port c.service ((max 1 ((s.frameLen { c.packet type with payload := pkt.payload } : Int) +
              i32Val (s.num (Reg.kerf.kerf pkt.port)))).toNat)
          else (some (false, s), s)
        match policed with
        | (none, t) => .error t
        | (some (marked, s), _) =>
          let ce := pkt.ce || marked
          let s := s.bumpIf ce (Reg.portStat.ceMarked pkt.port)
          match (if c.roce then some c.keyEpoch else s.keyNamed c pkt.keyEpoch) with
          | none => .error (s.bump (Reg.portStat.authFails pkt.port))
          | some k =>
            if !pkt.tagOk then .error (s.bump (Reg.portStat.authFails pkt.port))
            else
              let c := if c.roce then c else s.heardKey c k
              let s := s.putConn c
              let sequenced := decide (type ≤ 4 ∨ type = 6)
              if sequenced && (decide (2 ^ 31 ≤ psnDist c.rxCum pkt.psn) || c.rxAbove.contains pkt.psn) then
                .error ((s.putConn { c with ackLabel := pkt.label, ackEcho := pkt.serial }).sendAck c.num)
              else if sequenced && decide (s.num Reg.rel.sendWindow ≤ psnDist c.rxCum pkt.psn) then .error s
              else if pkt.chipped && !c.compress then
                let s := s.bump (Reg.portStat.malformed pkt.port)
                .error (if sequenced then s.consume c.num pkt ce false else s)
              else .ok (c, ce, s)

/-! ### Regions and messages (R395, R397 to R399) -/

/-- The bytes of region 0 or 1 of a ROLLOUT connection (R182, R399). -/
def State.regionBytes (s : State) (c : Conn) (region : Nat) : Nat :=
  match s.rolloutStream? c.stream with
  | none => 0
  | some x => if region = 0 then 16416 * x.slots else if region = 1 then 8 else 0

/-- Step 9 for a write of a message: the key names a region, the operation is allowed, and the bytes lie within it. -/
def State.writeAllowed (s : State) (c : Conn) (e : SkdExt) (len : Nat) : Bool :=
  let region := e.remoteKey / 2 ^ 30
  let tag := e.remoteKey % 2 ^ 30
  match c.kind with
  | 2 | 3 => region == 3 && tag == 0 && e.offset + len ≤ e.msgBytes
  | 4 => region == 0 && tag == c.tags.getD 0 0 && e.offset + len ≤ s.regionBytes c 0
  | _ => false

/-- Whether a WRITE_IMM's immediate is one its connection takes (R398, R399). -/
def State.immAllowed (s : State) (c : Conn) (imm : Nat) : Bool :=
  match c.kind with
  | 2 => imm == 1 || (0x10 ≤ imm && imm ≤ 0x1F) || imm == 0x20
  | 3 => imm == 1
  | 4 => match s.rolloutStream? c.stream with
    | some x => decide (imm < x.slots)
    | none => false
  | _ => false

def Conn.msg? (c : Conn) (id : Nat) : Option RxMsg := c.rxMsgs.find? fun m => m.msgId == id

def Conn.putMsg (c : Conn) (m : RxMsg) : Conn :=
  { c with rxMsgs := c.rxMsgs.map fun (x : RxMsg) => if x.msgId = m.msgId then m else x }

/-- A message in reception becomes known: a region 3 message takes its staging buffer. The flag says that staging failed. -/
def State.beginMsg (s : State) (c : Conn) (pkt : SkdRx) (e : SkdExt) : Option (RxMsg × Bool × State) :=
  match c.msg? pkt.msgId with
  | some m => some (m, false, s)
  | none =>
    if 64 ≤ c.rxMsgs.length ∨ c.rxDone.contains pkt.msgId then none
    else
      let region := e.remoteKey / 2 ^ 30
      let m : RxMsg := ⟨pkt.msgId, region, e.msgBytes, 0, 0, pkt.chipped, none, false⟩
      if region ≠ 3 then some (m, false, s.putConn { c with rxMsgs := c.rxMsgs ++ [m] })
      else match s.unitAlloc 0 none 8 e.msgBytes with
        | some (h, s) =>
          let m := { m with mem := h }
          some (m, false, s.putConn { c with rxMsgs := c.rxMsgs ++ [m] })
        | none =>
          let m := { m with rejected := true }
          some (m, true, s.putConn { c with rxMsgs := c.rxMsgs ++ [m] })

/-- Places bytes of a message. -/
def State.placeMsg (s : State) (c : Conn) (m : RxMsg) (off : Nat) (b : Bytes) : State :=
  if m.region = 3 then s.bufWrite m.mem off b
  else match s.rolloutStream? c.stream with
    | some x => s.bufWrite x.entry.desc.inBuf (64 + off) b
    | none => s

/-- A message's end: it is forgotten, its number with it noted, its staging freed. -/
def State.endMsg (s : State) (n : Nat) (m : RxMsg) : State :=
  let s := if m.mem = 0 then s else s.unitFree m.mem
  match s.conn? n with
  | none => s
  | some c => s.putConn { c with
      rxMsgs := c.rxMsgs.filter fun x => x.msgId != m.msgId, rxDone := c.rxDone ++ [m.msgId] }

/-- MSG_DISCARDED (R398, R414). -/
def State.discarded (s : State) (c : Conn) (id status : Nat) : State :=
  s.notice c 0x21 (beBytes 4 id ++ beBytes 2 status ++ zeros 2)

/-- A complete message is handed to its user (R398, R399, R414): remote ingest, whose result goes back as a notice; the Yard's
exchanges and grading signatures; a rollout chunk. -/
def State.deliver (s : State) (c : Conn) (m : RxMsg) (imm : Nat) : State :=
  if m.region ≠ 3 then s.rolloutChunk c.stream imm
  else
    let raw := s.bufRead m.mem 0 m.total
    let r := chipDecompress raw (s.num Reg.chipCfg.netLimitMax)
    if m.chipped && r.stop.isSome then s.discarded c m.msgId 0x5015
    else
      let b := if m.chipped then r.written else raw
      if imm = 1 then
        let t := s.remoteIngest c.num b
        match t.out.getLast? with
        | some (.ingestResult _ tag status detail) =>
          if s.out.length < t.out.length then
            t.notice c 0x20 (beBytes 4 tag ++ beBytes 2 status ++ zeros 2 ++ beBytes 8 detail)
          else t
        | _ => t
      else s.emit (.message c.num imm b)

/-- A held WRITE_IMM is placed and delivered once the rest of its message is placed, or discarded with a rejected one. -/
def State.tryFinish (s : State) (n id : Nat) : State :=
  match s.conn? n with
  | none => s
  | some c => match c.msg? id with
    | none => s
    | some m => match m.held with
      | none => s
      | some h =>
        if m.rejected then s.endMsg n m
        else if m.placed + h.payload.length < m.total then s
        else ((s.placeMsg c m h.offset h.payload).deliver c m h.immediate).endMsg n m

/-- A write of a message whose key, operation or place R396 step 9 rejects: the message's WRITE_IMM goes with it. -/
def State.rejectWrite (s : State) (c : Conn) (pkt : SkdRx) (ce final : Bool) : State :=
  let s := match c.msg? pkt.msgId with
    | some m =>
      let m := { m with rejected := true }
      if final || m.held.isSome then (s.putConn (c.putMsg m)).endMsg c.num m else s.putConn (c.putMsg m)
    | none =>
      if final || c.rxDone.contains pkt.msgId || 64 ≤ c.rxMsgs.length then s
      else
        let m : RxMsg := ⟨pkt.msgId, 4, 0, 0, 0, false, none, true⟩
        s.putConn { c with rxMsgs := c.rxMsgs ++ [m] }
  s.consume c.num pkt ce true

/-- WRITE and WRITE_IMM, admitted: placed, held or rejected (R397). -/
def State.takeWrite (s : State) (c : Conn) (pkt : SkdRx) (ce : Bool) (e : SkdExt) (final : Bool) : State :=
  let known := match c.msg? pkt.msgId with
    | some m => m.rejected || (final && m.held.isSome)
    | none => false
  if !s.writeAllowed c e pkt.payload.length || known || (final && !s.immAllowed c e.immediate) then
    s.rejectWrite c pkt ce final
  else match s.beginMsg c pkt e with
    | none => s.consume c.num pkt ce true
    | some (m, true, s) => (s.discarded c m.msgId 0x5014).consume c.num pkt ce true
    | some (m, false, s) =>
      let s := match s.conn? c.num with
        | none => s
        | some c =>
          if final then s.putConn (c.putMsg { m with held := some ⟨e.offset, e.immediate, pkt.payload⟩ })
          else (s.placeMsg c m e.offset pkt.payload).putConn (c.putMsg { m with placed := m.placed + pkt.payload.length })
      (s.tryFinish c.num pkt.msgId).consume c.num pkt ce false

/-- READ_REQ: READ_RESP packets on this end's own sequence, or READ_ERROR (R393). -/
def State.takeRead (s : State) (c : Conn) (pkt : SkdRx) (ce : Bool) (e : SkdExt) : State :=
  let ok := c.kind == 4 && e.remoteKey / 2 ^ 30 == 1 && e.remoteKey % 2 ^ 30 == c.tags.getD 1 0 && 1 ≤ e.msgBytes &&
    e.msgBytes ≤ s.num Reg.rel.readMax && e.offset + e.msgBytes ≤ s.regionBytes c 1
  if !ok then (s.notice c 0x22 (beBytes 4 pkt.msgId ++ beBytes 2 0x5012 ++ zeros 2)).consume c.num pkt ce true
  else
    let b := match s.rolloutStream? c.stream with
      | some x => s.bufRead x.entry.desc.inBuf e.offset e.msgBytes
      | none => []
    let l := (cutBytes c.mtu (b.length + 1) 0 b).map fun (p : Nat × Bytes) =>
      { c.packet 4 with msgId := pkt.msgId, payload := p.2, ext := some ⟨0, b.length, p.1, 0⟩ }
    (s.queuePkts c.num l).consume c.num pkt ce false

/-- READ_RESP: bytes of a read of this end. -/
def State.takeResp (s : State) (c : Conn) (pkt : SkdRx) (ce : Bool) (e : SkdExt) : State :=
  match c.ops.find? fun o => o.isRead && o.msgId == pkt.msgId with
  | none => s.consume c.num pkt ce true
  | some o =>
    if e.remoteKey ≠ 0 ∨ o.want < e.offset + pkt.payload.length then s.consume c.num pkt ce true
    else
      let o := { o with got := o.got ++ [(e.offset, pkt.payload)] }
      let whole := decide (o.want ≤ sum (o.got.map fun g => g.2.length))
      let s := s.putConn { c with
        ops := if whole then c.ops.filter fun x => x.msgId != o.msgId
          else c.ops.map fun (x : NetOp) => if x.msgId = o.msgId then o else x }
      let s := if whole then (s.readDone o).opEnds o 0x5000 else s
      s.consume c.num pkt ce false

/-! ### ACK (R391, R406, R408, R409) -/

/-- Whether an ACK covers a PSN. -/
def ackCovers (p : Bytes) (psn : Nat) : Bool :=
  decide (2 ^ 31 ≤ psnDist (beAt p 0 4) psn) ||
  (List.range (min 4 (beAt p 0x0A 1))).any fun i =>
    let a := beAt p (0x10 + 8 * i) 4
    let b := beAt p (0x14 + 8 * i) 4
    psnDist a psn < psnDist a b

/-- SRTT and RTTVAR after a sample in ns. -/
def Conn.sample (c : Conn) (x : Nat) : Conn :=
  match c.srtt with
  | none => { c with srtt := some x, rttvar := x / 2 }
  | some r =>
    let d := if r ≤ x then x - r else r - x
    { c with srtt := some ((7 * r + x) / 8), rttvar := (3 * c.rttvar + d) / 4 }

/-- The writes of a deck entry that an ACK covers are acknowledged; the last one makes the entry RETAINED (R248). -/
def State.ackDeck (s : State) (l : List Sent) : State :=
  l.foldl (fun (s : State) (u : Sent) => match u.pkt.deck with
    | none => s
    | some k => match s.entry? k with
      | none => s
      | some e =>
        if e.state ≠ .sent ∨ e.attempt ≠ u.pkt.attempt then s
        else
          let n := e.unacked - 1
          s.putEntry { e with unacked := n, state := if n = 0 then .retained else .sent }) s

/-- The operations of a connection all of whose packets are acknowledged. -/
def Conn.finished (c : Conn) (queued : List TxPkt) : List NetOp :=
  c.ops.filter fun o => !o.isRead && !(c.unacked.any fun u => u.pkt.msgId == o.msgId && u.pkt.type ≤ 2) &&
    !(queued.any fun p => p.msgId == o.msgId && p.type ≤ 2)

/-- The packets of a connection that wait in its backlog or its queue. -/
def State.waitingPkts (s : State) (c : Conn) : List TxPkt :=
  c.backlog ++ ((if c.sub = 0 then ((s.portTx c.port).service c.service).over_
    else match s.sub? c.sub with
      | some x => x.queue
      | none => []) ++ (s.portTx c.port).held.toList).filter fun p => p.conn == c.num

/-- Operations whose every packet is acknowledged complete. -/
def State.settleOps (s : State) (n : Nat) : State :=
  match s.conn? n with
  | none => s
  | some c =>
    let fin := c.finished (s.waitingPkts c)
    let s := s.putConn { c with ops := c.ops.filter fun o => !fin.any fun f => f.msgId == o.msgId }
    fin.foldl (fun s o => s.opEnds o (if o.bad then 0x5012 else 0x5000)) s

/-- An ACK's effect on its connection. -/
def State.takeAck (s : State) (c : Conn) (p : Bytes) : State :=
  let newly := c.unacked.filter fun u => ackCovers p u.pkt.psn
  let left := c.unacked.filter fun u => !ackCovers p u.pkt.psn
  let latest := newly.foldl (fun m u => max m u.at_) 0
  let firsts := (newly.filter fun u => u.pkt.first).length
  let acked := beAt p 4 2 - firsts
  let marked := min (beAt p 6 2) acked
  let rejected := decide (0 < beAt p 8 2)
  let c := { c with
    unacked := left.map fun (u : Sent) => if (newly.any fun v => u.at_ < v.at_ || (u.at_ == v.at_ && psnDist u.pkt.psn v.pkt.psn < 2 ^ 31)) && u.at_ ≤ latest
      then { u with passed := true } else u
    ops := c.ops.map fun (o : NetOp) =>
      if rejected && (newly.any fun u => u.pkt.msgId == o.msgId) then { o with bad := true } else o
    ackedP := c.ackedP + acked, markedP := c.markedP + marked }
  let c := match newly.find? fun u => !u.pkt.retx && u.serial % 2 ^ 32 == beAt p 0x0C 4 with
    | some u => c.sample (s.nowNs - u.at_)
    | none => c
  let freed := newly.map fun u => u.pkt.psn
  let drop := fun (l : List TxPkt) => l.filter fun q => !(q.conn == c.num && q.retx && freed.contains q.psn)
  let s := s.putConn { c with backlog := drop c.backlog }
  let s := s.putSkd { s.skd with subs := s.skd.subs.map fun (x : SubSlot) =>
    if x.slot = c.sub then
      let q := drop x.queue
      { x with queue := q, credit := if q.isEmpty then onEmpty x.credit else x.credit }
    else x }
  let x := s.portTx c.port
  let y := x.service c.service
  let q := drop y.over_
  let s := s.putPortTx c.port (x.putService c.service { y with
    over_ := q, overCredit := if q.isEmpty then onEmpty y.overCredit else y.overCredit })
  ((s.ackDeck newly).settleOps c.num).offer c.num (c.backlog.length + 1)

/-! ### Notices (R392) -/

/-- A PLAIN notice changes no state: it is counted with the frames received and reported to Lookout. -/
def State.takePlain (s : State) (pkt : SkdRx) (code : Nat) : State :=
  (s.bump (Reg.portStat.rxFrames pkt.port)).emit (.plainNotice pkt.dstConn code)

/-- MSG_DISCARDED: a compressed message is sent once more without compression, else it completes with the status. -/
def State.takeDiscarded (s : State) (n : Nat) (p : Bytes) : State :=
  let id := beAt p 8 4
  let status := beAt p 12 2
  match s.conn? n with
  | none => s
  | some c => match c.ops.find? fun o => o.msgId == id && !o.isRead with
    | none => s
    | some o =>
      let s := s.putConn { c with ops := c.ops.filter fun x => x.msgId != id }
      if status = 0x5015 && !o.again then
        match s.conn? n with
        | some c => s.sendWrites c o.user o.key o.offset o.imm o.raw true
        | none => s
      else s.opEnds o status

/-- READ_ERROR completes the read with KEY_REJECTED. -/
def State.takeReadError (s : State) (n : Nat) (p : Bytes) : State :=
  match s.conn? n with
  | none => s
  | some c => match c.ops.find? fun o => o.isRead && o.msgId == beAt p 8 4 with
    | none => s
    | some o => (s.putConn { c with ops := c.ops.filter fun x => x.msgId != o.msgId }).opEnds o 0x5012

/-! ### Reception -/

/-- TYPE of a packet by what it carries. -/
def SkdBody.type : SkdBody → Nat
  | .write _ => 1 | .writeImm _ => 2 | .readReq _ => 3 | .readResp _ => 4 | .ack => 5 | .lookout _ => 7
  | _ => 6

/-- A received packet's way through the checks to its effect; what is for Lookout is handed to `lk`. -/
def State.handle (s : State) (lk : State → SkdBody → Nat → State) (pkt : SkdRx) (body : SkdBody) : State :=
  match body with
  | .plainFenced => lk (s.takePlain pkt 1) body pkt.dstConn
  | .plainNoConnection => s.takePlain pkt 2
  | b => match s.takePacket pkt b.type with
    | .error t => t
    | .ok (c, ce, s) => match b with
      | .write e => s.takeWrite c pkt ce e false
      | .writeImm e => s.takeWrite c pkt ce e true
      | .readReq e => s.takeRead c pkt ce e
      | .readResp e => s.takeResp c pkt ce e
      | .ack => s.takeAck c pkt.payload
      | .lookout _ => if c.kind = 2 then lk s b c.num else s
      | .lkNotice _ => (lk s b c.num).consume c.num pkt ce false
      | .ingestResult =>
        if c.kind ≠ 3 then s.consume c.num pkt ce true
        else (s.emit (.ingestNotice c.num (beAt pkt.payload 8 4) (beAt pkt.payload 12 2) (beAt pkt.payload 16 8))).consume
          c.num pkt ce false
      | .msgDiscarded => (s.takeDiscarded c.num pkt.payload).consume c.num pkt ce false
      | .readError => (s.takeReadError c.num pkt.payload).consume c.num pkt ce false
      | _ => s

/-- A packet arrives: receive faults act after the receive stamp and before R396 (R419). -/
def State.receive (s : State) (lk : State → SkdBody → Nat → State) (pkt : SkdRx) (body : SkdBody) : State :=
  if !s.portFitted pkt.port || !s.portsSend then s
  else
    let serial := if pkt.tagOk then pkt.serial else pkt.psn
    match s.fiFault true pkt.port pkt.dstConn body.type serial false false pkt.payload.length with
    | 1 => s.bump Reg.fi.fiDropped
    | 2 => (s.bump Reg.fi.fiCorrupted).handle lk { pkt with tagOk := false } body
    | 3 => (s.bump Reg.fi.fiReordered).putSkd { s.skd with rxHeld := s.skd.rxHeld ++ [(pkt, body)] }
    | _ => s.handle lk pkt body

/-- What is not for Lookout ignores it. -/
def noLookout (s : State) (_ : SkdBody) (_ : Nat) : State := s

def execSkdWriteRx (pkt : SkdRx) (ext : SkdExt) (s : State) : Host.Outcome State Fault Refusal :=
  live s fun s => s.receive noLookout pkt (.write ext)

def execSkdWriteImmRx (pkt : SkdRx) (ext : SkdExt) (s : State) : Host.Outcome State Fault Refusal :=
  live s fun s => s.receive noLookout pkt (.writeImm ext)

def execSkdReadReqRx (pkt : SkdRx) (ext : SkdExt) (s : State) : Host.Outcome State Fault Refusal :=
  live s fun s => s.receive noLookout pkt (.readReq ext)

def execSkdReadRespRx (pkt : SkdRx) (ext : SkdExt) (s : State) : Host.Outcome State Fault Refusal :=
  live s fun s => s.receive noLookout pkt (.readResp ext)

def execSkdAckRx (pkt : SkdRx) (s : State) : Host.Outcome State Fault Refusal :=
  live s fun s => s.receive noLookout pkt .ack

def execNoticeNoConnection (pkt : SkdRx) (s : State) : Host.Outcome State Fault Refusal :=
  live s fun s => s.receive noLookout pkt .plainNoConnection

def execNoticeIngestResult (pkt : SkdRx) (s : State) : Host.Outcome State Fault Refusal :=
  live s fun s => s.receive noLookout pkt .ingestResult

def execNoticeMsgDiscarded (pkt : SkdRx) (s : State) : Host.Outcome State Fault Refusal :=
  live s fun s => s.receive noLookout pkt .msgDiscarded

def execNoticeReadError (pkt : SkdRx) (s : State) : Host.Outcome State Fault Refusal :=
  live s fun s => s.receive noLookout pkt .readError

/-- RoCEv2: an ACK covers every PSN up to its own; a NAK sequence error sends all from its PSN again (R416). -/
def execRocev2AckNak (conn psn : Nat) (nak : Bool) (s : State) : Host.Outcome State Fault Refusal :=
  live s fun s => match s.conn? conn with
    | none => s
    | some c =>
      if c.state ≠ .open_ ∨ !c.roce then s
      else
        let before := fun (u : Sent) => if nak then decide (2 ^ 31 ≤ psnDist psn u.pkt.psn) else
          decide (2 ^ 31 ≤ psnDist (psnNext psn) u.pkt.psn)
        let newly := c.unacked.filter before
        let c := { c with
          unacked := c.unacked.filter fun u => !before u
          ackedP := c.ackedP + (newly.filter fun u => !u.pkt.first).length }
        let s := ((s.putConn c).ackDeck newly).settleOps conn
        if !nak then s.offer conn (c.backlog.length + 1)
        else match s.conn? conn with
          | none => s
          | some c => match c.unacked.find? fun u => u.pkt.psn == psn with
            | some u => if u.queued then s else s.lose c u
            | none => s

end Sys2Proof.Machine
end

