-- ==== Sys2Proof/Machine/LkOps.lean ====
section
/-! DEFINITION. What Lookout's operations share: membership, the council and its leader (R440 to R445, R464), frames (R446 to
R449), steps and instants (R455), attempts and takeover (R455 to R458, R462, R463). -/
namespace Sys2Proof.Machine

/-! ### This device, members and the council -/

def State.putLk (s : State) (x : Lookout) : State := { s with lookout := x }

/-- LK_STATE (Table 15-1). -/
def State.lkState (s : State) : Nat := s.num Reg.lk.lkState

def State.mySlot (s : State) : Nat := s.num Reg.lk.slot

def State.myGen (s : State) : Nat := s.num Reg.lk.generation

/-- The u16 slots of a list entry. -/
def slotsOf (b : Bytes) : List Nat := (List.range (b.length / 2)).map fun i => leAt b (2 * i) 2

def slotBytes (l : List Nat) : Bytes := l.flatMap (leBytes 2)

/-- The council's slots (R444, R445). -/
def State.council (s : State) : List Nat := slotsOf (s.blob Reg.council.council)

def State.inCouncil (s : State) : Bool := s.mySlot != 0xFFFF && s.council.contains s.mySlot

/-- The member in a slot: the device that serves it, before one in coppice there or one revoked. -/
def State.member? (s : State) (slot : Nat) : Option Member :=
  let l := s.lookout.members.filter fun m => m.slot == slot && slot != 0xFFFF
  match l.find? fun m => m.state != 4 && m.state != 9 with
  | some m => some m
  | none => l.head?

/-- The devices that hold a slot: a revoked one holds it no longer. -/
def State.holders (s : State) : List Member := s.lookout.members.filter fun m => m.slot != 0xFFFF && m.state != 9

/-- The members: those that hold a slot, but for one in coppice. -/
def State.serving (s : State) : List Member := s.holders.filter fun m => m.state != 4

/-- The votes that a decision needs: three, or the majority of a council of fewer than five (R445). -/
def State.majority (s : State) : Nat := if 5 ≤ s.serving.length then 3 else s.serving.length / 2 + 1

/-- A slot under a suspicion not yet decided, and not heard again since in HOLD_MEMBERSHIP (R475). -/
def State.suspected (s : State) (slot : Nat) : Bool := s.lookout.suspicions.any fun x => x.slot == slot && !x.heard

/-- The council members not suspected (R473, R475). -/
def State.unsuspected (s : State) : Nat := (s.council.filter fun c => !s.suspected c).length

/-- The lowest slot of a list. -/
def lowest : List Nat → Nat
  | [] => 0xFFFF
  | x :: l => l.foldl min x

/-- The leader: the lowest council slot not suspected; the term rises with each change (R464). -/
def State.reviewLeader (s : State) : State :=
  let l := lowest (s.council.filter fun x => !s.suspected x)
  if l = s.num Reg.lk.leader then s
  else (s.setN Reg.lk.leader l).setN Reg.lk.councilTerm (wrap 32 (s.num Reg.lk.councilTerm + 1))

def State.isLeader (s : State) : Bool := s.inCouncil && s.num Reg.lk.leader == s.mySlot

/-- Lookout's registers follow its state (Table 15-14). -/
def State.lkRegs (s : State) : State :=
  let x := s.lookout
  let s := s.setN Reg.lk.peers x.peers.length
  let s := s.setN Reg.memb.members s.holders.length
  let s := s.setN Reg.memb.spares (x.members.filter fun m => m.slot == 0xFFFF).length
  let s := s.setN Reg.memb.revokedCount x.revoked.length
  let s := s.setB Reg.memb.revokedList (x.revoked.flatMap fun p => leBytes 2 p.1 ++ leBytes 4 p.2)
  let s := s.setN Reg.key.revoked x.revoked.length
  let s := s.setN Reg.lkCnt.takeoversActive s.deck.takeovers.length
  let s := s.setN Reg.coppice.orphaned s.sched.orphans.length
  s.setB Reg.coppice.orphanList (s.sched.orphans.flatMap (leBytes 8))

/-- MEMBER_QUERY (Table 15-14). -/
def State.memberQuery (s : State) : Bytes :=
  match s.member? (s.num Reg.memb.memberQuerySlot) with
  | none => []
  | some m => leBytes 8 m.uid ++ leBytes 4 m.gen ++ leBytes 1 m.state ++ leBytes 1 (m.state == 9).toNat ++ leBytes 2 m.rack ++
      leBytes 2 m.score ++ zeros 6

/-- The record of the device that holds a generation takes its new state. -/
def State.setMember (s : State) (gen st : Nat) : State :=
  s.putLk { s.lookout with members := s.lookout.members.map fun (m : Member) => if m.gen = gen then { m with state := st } else m }

/-! ### Frames (R447 to R449) -/

/-- The key of a Lookout key epoch (R448). -/
def State.lkKey (s : State) (k : Nat) : Bytes :=
  (hmac384 (s.blob Reg.lkCfg.lookoutSecret) (ascii "LKDY" ++ beBytes 4 (s.num Reg.lkCfg.domainId) ++ beBytes 4 k)).take 32

/-- The join key of a device (R448). -/
def State.joinKey (s : State) (uid : Nat) : Bytes :=
  (hmac384 (s.blob Reg.lkCfg.lookoutSecret) (ascii "LKJN" ++ beBytes 8 uid)).take 32

/-- The header of a frame (Table 15-2). -/
def State.lkHeader (s : State) (kind path : Nat) (plain : Bool) (len : Nat) : Bytes :=
  beBytes 2 0x4C4B ++ [1] ++ beBytes 1 kind ++ beBytes 4 (s.num Reg.lkCfg.domainId) ++ beBytes 2 s.mySlot ++ beBytes 1 path ++
    beBytes 1 (plain.toNat + 2 * s.inCouncil.toNat) ++ beBytes 4 (if kind = 8 then 0 else s.myGen) ++ beBytes 8 s.rc.ring ++
    beBytes 2 s.grain ++ beBytes 2 len ++ beBytes 1 (s.num Reg.lk.lkKeyEpoch) ++ zeros 3 ++ beBytes 4 s.lookout.msgSeq ++ zeros 4 ++
    beBytes 8 s.lookout.txCount

/-- Whether this device sends Lookout frames of a kind: not once its halves disagree (R454) or PWR_FAIL_N asserted (R542); a snag sends JOIN and
STATUS_QUERY only (R477). -/
def State.lkMaySend (s : State) (kind : Nat) : Bool :=
  s.lockstepOk && !s.pwr.lossStopped && (s.lkState != 9 || kind == 8 || kind == 0x0B)

/-- The OPEN PEER connection to a slot. -/
def State.peerConn (s : State) (slot : Nat) : Option Conn :=
  s.skd.conns.find? fun c => c.kind == 2 && c.peerSlot == slot && c.state == .open_

/-- One copy of a frame on one path: multicast where `dest` is none, else unicast, on the data network as a LOOKOUT packet on
the PEER connection to the addressee (R447). -/
def State.lkCopy (s : State) (kind : Nat) (payload : Bytes) (plain : Bool) (join : Option Nat) (dest : Option Nat) (path : Nat) :
    State :=
  let head := s.lkHeader kind path plain payload.length
  let key := match join with
    | some uid => s.joinKey uid
    | none => s.lkKey (s.num Reg.lk.lkKeyEpoch)
  let gen := if kind = 8 then 0 else s.myGen
  let frame := if plain then head ++ payload
    else head ++ Config.gcmSeal key (beBytes 4 gen ++ beBytes 8 s.lookout.txCount) head payload
  let s := s.putLk { s.lookout with txCount := wrap 64 (s.lookout.txCount + 1) }
  match path, dest with
  | 0, some slot => match s.peerConn slot with
    | some c => s.pushCtl c.port { c.packet 7 with payload := frame }
    | none => s
  | _, _ => s.emit (.lkFrame path dest frame)

/-- A frame goes out on all three paths, under one MSG_SEQ. -/
def State.lkSendAs (s : State) (kind : Nat) (payload : Bytes) (plain : Bool) (join : Option Nat) (dest : Option Nat) : State :=
  if !s.lkMaySend kind then s
  else
    let s := [0, 1, 2].foldl (fun s p => s.lkCopy kind payload plain join dest p) s
    s.putLk { s.lookout with msgSeq := wrap 32 (s.lookout.msgSeq + 1) }

/-- A frame to the multicast group. -/
def State.lkCast (s : State) (kind : Nat) (payload : Bytes) : State := s.lkSendAs kind payload false none none

/-- A frame to one slot. -/
def State.lkTo (s : State) (kind : Nat) (payload : Bytes) (slot : Nat) : State := s.lkSendAs kind payload false none (some slot)

/-- A frame to every other council member. -/
def State.lkCouncil (s : State) (kind : Nat) (payload : Bytes) : State :=
  (s.council.filter fun x => x != s.mySlot).foldl (fun s x => s.lkTo kind payload x) s

/-- DECLARE (Table 15-3). -/
def State.declare (s : State) (what epoch step : Nat) : State :=
  s.lkCast 0x0A (beBytes 1 what ++ zeros 3 ++ beBytes 4 epoch ++ beBytes 4 step ++ zeros 4)

/-- The payload of an ABORT (Table 15-3). -/
def LkAbort.bytes (a : LkAbort) : Bytes :=
  beBytes 2 a.replaced ++ beBytes 1 a.cause ++ zeros 1 ++ beBytes 4 a.replacedGen ++ beBytes 8 a.suspectRing ++
    beBytes 2 a.entries.length ++ zeros 2 ++
    a.entries.flatMap fun e => beBytes 4 e.epoch ++ beBytes 4 e.step ++ beBytes 4 e.consumer ++ beBytes 2 e.attempt ++ beBytes 2 e.server

/-- The payload of a DECISION (Table 15-7). -/
def LkDecision.bytes (d : LkDecision) : Bytes :=
  beBytes 4 d.term ++ beBytes 4 d.seq ++ beBytes 1 d.outcome ++ zeros 1 ++
    ((d.voters.flatMap (beBytes 2)) ++ List.replicate 10 0xFF).take 10 ++ beBytes 2 d.subject ++ zeros 2 ++ beBytes 4 d.subjectGen ++
    beBytes 4 d.newGen ++ beBytes 8 d.subjectUid ++ beBytes 4 d.epoch ++ beBytes 4 d.resumeStep ++ beBytes 4 d.shiftRings ++
    beBytes 4 d.count ++
    d.list.flatMap fun p => if d.outcome = 0x0A then beBytes 8 p.1 else beBytes 2 p.1 ++ beBytes 2 p.2

/-- Whether this device keeps revoking a pair. -/
def State.pairRevoked (s : State) (slot gen : Nat) : Bool := s.lookout.revoked.contains (slot, gen)

/-- The message numbers processed from a sender. -/
def State.seenFrom (s : State) (h : LkHdr) : List Nat :=
  ((s.lookout.processed.find? fun e => e.1 == h.srcSlot && e.2.1 == h.generation).map (·.2.2)).getD []

/-- A message number is processed: the last 256 of each sender are kept (R449). -/
def State.noteSeq (s : State) (h : LkHdr) : State :=
  let l := s.seenFrom h ++ [h.msgSeq]
  s.putLk { s.lookout with processed :=
    (s.lookout.processed.filter fun e => !(e.1 == h.srcSlot && e.2.1 == h.generation)) ++
      [(h.srcSlot, h.generation, l.drop (l.length - 256))] }

/-- The checks of R449, in order: none where the frame is dropped, with the state. -/
def State.lkAdmit (s : State) (kind : Nat) (h : LkHdr) : Option State × State :=
  let e := s.num Reg.lk.lkKeyEpoch
  if !h.wellFormed ∨ h.domain ≠ s.num Reg.lkCfg.domainId then (none, s)
  else if kind ≠ 0x0B ∧ s.pairRevoked h.srcSlot h.generation then
    let s := s.bump Reg.lkCnt.revokedDrops
    if s.lookout.fencedAnswered.contains (h.srcSlot, h.generation) then (none, s)
    else
      let s := s.putLk { s.lookout with fencedAnswered := s.lookout.fencedAnswered ++ [(h.srcSlot, h.generation)] }
      (none, s.lkSendAs 0x0E (beBytes 2 h.srcSlot ++ zeros 2 ++ beBytes 4 h.generation) true none (some h.srcSlot))
  else if kind ≠ 8 ∧ s.myGen ≠ 0 ∧ h.keyEpoch ≠ e % 256 ∧ h.keyEpoch ≠ (e + 1) % 256 ∧ h.keyEpoch ≠ (e + 255) % 256 then (none, s)
  else if !h.tagOk then (none, s.bump Reg.lkCnt.authDrops)
  else if (s.seenFrom h).contains h.msgSeq then (none, s.bump Reg.lkCnt.duplicateFrames)
  else
    let s := s.noteSeq h
    (some (if s.lookout.tellIsolated then (s.putLk { s.lookout with tellIsolated := false }).declare 5 0 0 else s), s)

/-- A frame's effect, where it passes the checks. -/
def State.lkFrame (s : State) (kind : Nat) (h : LkHdr) (f : State → State) : State :=
  match s.lkAdmit kind h with
  | (some t, _) => f t
  | (none, t) => t

/-! ### Steps and instants (R56, R249, R455) -/

/-- The ring of a step's first launch instant. -/
def State.firstLaunch (s : State) (epoch step : Nat) : Option Nat :=
  (s.sectionOf epoch).map fun p => p.2 + p.1.hdr.firstLaunch + step * p.1.hdr.stepPeriod

/-- ACTIVE and a verified NEXT, with the ring at which each starts. -/
def State.loadedSections (s : State) : List (Section × Nat) :=
  (match s.sched.active with | some a => [(a, s.epochStart)] | none => []) ++
  (match s.sched.next with | some n => if n.verified then [(n, s.nextStart)] else [] | none => [])

/-- The first step whose first launch instant is at or after a ring, with its epoch. -/
def State.stepFrom (s : State) (ring : Nat) : Option (Nat × Nat) :=
  (s.loadedSections.findSome? fun (p : Section × Nat) =>
    let first := p.2 + p.1.hdr.firstLaunch
    let k := if ring ≤ first then 0 else ceilDiv (ring - first) p.1.hdr.stepPeriod
    if k < p.1.hdr.steps then some (p.1.hdr.epoch, k) else none)

/-- Whether a step is at or after another. -/
def stepGe (epoch step e k : Nat) : Bool := decide (e < epoch) || (e == epoch && decide (k ≤ step))

/-! ### Attempts, servers and takeover (R455 to R458) -/

/-- A pair's current attempt rises. -/
def State.setAttempt (s : State) (epoch step consumer attempt : Nat) : State :=
  s.putLk { s.lookout with attempts :=
    (s.lookout.attempts.filter fun a => !(a.epoch == epoch && a.step == step && a.consumer == consumer)) ++
      [⟨epoch, step, consumer, attempt⟩] }

/-- The writes of a deck entry's attempt that are not acknowledged are cancelled and never sent again (R415). -/
def State.cancelWrites (s : State) (k : FragKey) : State :=
  let drop := fun (l : List TxPkt) => l.filter fun p => p.deck != some k
  let s := s.putSkd { s.skd with
    conns := s.skd.conns.map fun (c : Conn) =>
      { c with unacked := c.unacked.filter fun u => u.pkt.deck != some k, backlog := drop c.backlog
               ops := c.ops.filter fun o => o.user != .fragment k }
    subs := s.skd.subs.map fun (x : SubSlot) =>
      let q := drop x.queue
      { x with queue := q, credit := if q.isEmpty then onEmpty x.credit else x.credit }
    ports := s.skd.ports.map fun (x : PortTx) =>
      { x with
        due := (x.due.map drop).filter fun l => !l.isEmpty
        renew := (x.renew.map drop).filter fun l => !l.isEmpty
        held := if (x.held.bind (·.deck)) == some k then none else x.held
        heldFrom := if (x.held.bind (·.deck)) == some k then none else x.heldFrom
        svc := x.svc.map fun (y : SvcPort) =>
          let q := drop y.over_
          { y with over_ := q, overCredit := if q.isEmpty then onEmpty y.overCredit else y.overCredit } } }
  s

/-- The later of two instants. -/
def laterOf (ring grain ring' grain' : Nat) : Nat × Nat :=
  if instant ring grain < instant ring' grain' then (ring', grain') else (ring, grain)

/-- A deck entry of a pair whose attempt rose returns to READY and is launched again in the new attempt, no earlier than the
relaunch floor (R249, R456, R457). -/
def State.renewEntry (s : State) (e : DeckEntry) (attempt floor : Nat) : State :=
  let at_ := laterOf e.ring e.grain floor 0
  let s := if e.state = .sent then s.cancelWrites e.key else s
  s.putEntry { e with
    state := if e.state = .preparing then .preparing else .ready
    attempt := attempt, ring := at_.1, grain := at_.2, renewed := true, unacked := 0
    retain := e.retain + (at_.1 - e.ring) }

/-- Activates the takeover of one fragment, launched at its takeover instant or the relaunch floor, whichever is later. -/
def State.activate (s : State) (x : Section) (start : Nat) (f : Fragment) (attempt : Nat) (floor : Option Nat) : State :=
  let k : FragKey := ⟨x.hdr.epoch, f.step, f.consumer, some f.otherDevice⟩
  if s.deck.takeovers.any fun t => t.key == k then
    s.putDeck { s.deck with takeovers := s.deck.takeovers.map fun (t : Takeover) =>
      if t.key = k then { t with attempt := attempt } else t }
  else
    let ring := x.takeoverRing start f
    let at_ := match floor with
      | some r => laterOf ring f.grain r 0
      | none => (ring, f.grain)
    s.putDeck { s.deck with takeovers := s.deck.takeovers ++ [⟨k, f, at_.1, at_.2, attempt, floor.isSome⟩] }

/-- The takeover descriptors of a slot in ACTIVE and a verified NEXT, with their section and its start. -/
def State.takeoversFor (s : State) (slot : Nat) : List (Section × Nat × Fragment) :=
  s.loadedSections.flatMap fun (p : Section × Nat) =>
    (p.1.takeovers.filter fun f => f.otherDevice == slot).map fun f => (p.1, p.2, f)

/-- The takeover of a slot for the steps of its record is activated, at the takeover instants and under the attempt each pair
holds (R455, R462). -/
def State.activateTaken (s : State) (t : Taken) : State :=
  (s.takeoversFor t.slot).foldl (fun (s : State) (p : Section × Nat × Fragment) =>
    let first := p.2.1 + p.1.hdr.firstLaunch + p.2.2.step * p.1.hdr.stepPeriod
    let before := match t.until_ with
      | some u => decide (first < u)
      | none => true
    let k : FragKey := ⟨p.1.hdr.epoch, p.2.2.step, p.2.2.consumer, some t.slot⟩
    if t.from_ ≤ first && before && !(s.deck.takeovers.any fun x => x.key == k) && !s.deck.begun.contains k then
      s.activate p.1 p.2.1 p.2.2 (s.attemptOf p.1.hdr.epoch p.2.2.step p.2.2.consumer) none
    else s) s

/-- The takeovers of every slot taken over: run when a section is verified or an epoch starts, so that later steps join. -/
def State.activateAll (s : State) : State := (s.lookout.taken.foldl State.activateTaken s).lkRegs

/-- A slot is taken over from a ring on. -/
def State.takeOver (s : State) (slot gen from_ : Nat) : State :=
  if s.lookout.taken.any fun t => t.slot == slot && t.until_.isNone then s
  else
    let t : Taken := ⟨slot, gen, from_, none⟩
    (s.putLk { s.lookout with taken := (s.lookout.taken.filter fun x => x.slot != slot) ++ [t] }).activateTaken t

/-- The takeover of a slot ends with the steps that launch at or after a ring: entries prepared for them are freed without
launch (R469). -/
def State.dropTakeover (s : State) (slot ring : Nat) : State :=
  let gone := fun (k : FragKey) => k.orig == some slot && match s.firstLaunch k.epoch k.step with
    | some r => decide (ring ≤ r)
    | none => false
  let keys := (s.deck.entries.filter fun e => gone e.key && e.state != .sent && e.state != .retained).map (·.key)
  let s := s.putLk { s.lookout with taken := s.lookout.taken.map fun (t : Taken) =>
    if t.slot = slot ∧ t.until_.isNone then { t with until_ := some ring } else t }
  let s := s.putDeck { s.deck with
    takeovers := s.deck.takeovers.filter fun t => !gone t.key
    begun := s.deck.begun.filter fun k => !(gone k && keys.contains k) }
  (keys.foldl (fun (s : State) (k : FragKey) => match s.entry? k with
    | some e => s.freeEntry e
    | none => s) s).lkRegs

/-! ### Notices to consumers (R458, Table 15-5) -/

def LkNotice.bytes (n : LkNotice) : Bytes :=
  beBytes 1 n.kind ++ beBytes 1 n.revoked.toNat ++ beBytes 2 n.attempt ++ beBytes 4 n.epoch ++ beBytes 4 n.step ++
    beBytes 4 n.consumer ++ beBytes 2 n.replacedSlot ++ beBytes 2 n.serverSlot ++ beBytes 4 n.replacedGen ++ beBytes 4 n.serverGen ++
    zeros 4 ++ beBytes 8 n.relaunchRing

/-- A Lookout notice on the DELIVERY connection to a consumer. -/
def State.tellConsumer (s : State) (n : LkNotice) : State :=
  match s.delivery n.consumer with
  | none => s
  | some c => s.notice c 0x10 n.bytes

/-- Whether this device has a fragment for a pair: by a descriptor, an active takeover or a deck entry. -/
def State.supplies (s : State) (epoch step consumer : Nat) : Bool :=
  (s.deck.entries.any fun e => e.key.epoch == epoch && e.key.step == step && e.key.consumer == consumer) ||
  (s.deck.takeovers.any fun t => t.key.epoch == epoch && t.key.step == step && t.key.consumer == consumer) ||
  (match s.sectionOf epoch with
    | some (x, _) => x.fragments.any fun f => f.step == step && f.consumer == consumer
    | none => false)

/-- The generation of a slot's holder; zero if none. -/
def State.genOf (s : State) (slot : Nat) : Nat := ((s.member? slot).map (·.gen)).getD 0

/-- The consumers this device serves. -/
def State.myConsumers (s : State) : List Nat := s.deckConsumers

/-- STOP notices for a step to every consumer this device serves (R463, R471). -/
def State.stopNotices (s : State) (epoch step slot gen : Nat) : State :=
  s.myConsumers.foldl (fun (s : State) c =>
    s.tellConsumer ⟨2, false, s.attemptOf epoch step c, epoch, step, c, slot, 0xFFFF, gen, 0, 0⟩) s

/-- An ABORT entry is applied (R456, R458): the attempt and server of its pair, this device's entries of it, the takeover it
names this device for, and the notice to the consumer. -/
def State.applyEntry (s : State) (a : LkAbort) (e : LkEntry) : State :=
  let floor := a.suspectRing + s.num Reg.lkCfg.relaunchGuard
  let rose := decide (s.attemptOf e.epoch e.step e.consumer < e.attempt) && a.cause != 3
  let att := if rose then e.attempt else s.attemptOf e.epoch e.step e.consumer
  let roceLimit : Bool := match s.delivery e.consumer with
    | some c => c.roce && decide (2 ≤ att)
    | none => false
  let server := if a.cause = 3 ∨ roceLimit then 0xFFFF else e.server
  let sv : Served := ⟨e.epoch, e.step, e.consumer, a.replaced, server, att, floor⟩
  let s := s.putLk { s.lookout with
    served := (s.lookout.served.filter fun x => !(x.epoch == e.epoch && x.step == e.step && x.consumer == e.consumer &&
      x.replaced == a.replaced)) ++ [sv]
    stopped := if a.cause = 3 ∨ roceLimit then s.lookout.stopped ++ [(e.epoch, e.step, e.consumer)] else s.lookout.stopped }
  let s := if rose then (s.setAttempt e.epoch e.step e.consumer e.attempt).bump Reg.lkCnt.entriesApplied else s
  let mine := s.deck.entries.filter fun d => d.key.epoch == e.epoch && d.key.step == e.step && d.key.consumer == e.consumer
  let s := if rose then mine.foldl (fun (s : State) (d : DeckEntry) => s.renewEntry d att floor) s else s
  let s := if server ≠ s.mySlot ∨ server = 0xFFFF then s
    else match (s.takeoversFor a.replaced).find? fun p => p.1.hdr.epoch == e.epoch && p.2.2.step == e.step && p.2.2.consumer == e.consumer with
      | some p => s.activate p.1 p.2.1 p.2.2 att (some floor)
      | none => s
  if (s.supplies e.epoch e.step e.consumer || server == s.mySlot) && !(a.replaced == s.mySlot && a.replacedGen == s.myGen) then
    s.tellConsumer ⟨if a.cause = 3 ∨ roceLimit then 2 else 1, false, att, e.epoch, e.step, e.consumer, a.replaced, server,
      a.replacedGen, if server = 0xFFFF then 0 else s.genOf server, if a.cause = 3 ∨ roceLimit then 0 else floor⟩
  else s

/-- R463: in an unguarded schedule every launch stops from the first step at least STOP_GUARD rings after the suspicion. -/
def State.unguardedStop (s : State) (slot gen ring : Nat) : State :=
  let unguarded := match s.sched.active with
    | some a => !a.hdr.guarded
    | none => match s.sched.next with
      | some n => !n.hdr.guarded
      | none => false
  if !unguarded ∨ s.lookout.stopFrom.isSome then s
  else
    let from_ := ring + s.num Reg.lkConst.stopGuard
    let s := s.putLk { s.lookout with stopFrom := some from_ }
    match s.stepFrom from_ with
    | some (e, k) => s.stopNotices e k slot gen
    | none => s

end Sys2Proof.Machine
end

