-- ==== Sys2Proof/Machine/Council.lean ====
section
/-! DEFINITION. The council (R464 to R476) and what its decisions do at every device (R442, R469 to R472, R476, R480 to R488). -/
namespace Sys2Proof.Machine

/-! ### Council composition (R444, R445, R472) -/

/-- In a domain of fewer than five members the council is every member, in ascending slot. -/
def State.recompose (s : State) : State :=
  let slots := (s.serving.map (·.slot)).eraseDups
  let c := if slots.length < 5 then slots else s.council.filter slots.contains
  ((s.setB Reg.council.council (slotBytes (c.foldl (fun l x => insertRising x l) []))).reviewLeader).lkRegs

/-- The candidate that R472 names: a MEMBER whose score is below SUSPECT_SCORE, not in the council, on a rack of its own where
one is. -/
def State.coOptChoice (s : State) : Option Member :=
  let ok := (slotsOf (s.blob Reg.council.candidates)).filterMap fun c => (s.member? c).bind fun m =>
    if m.state = 5 ∧ m.score < s.num Reg.lkConst.suspectScore ∧ !s.council.contains m.slot then some m else none
  let racks := s.council.filterMap fun c => (s.member? c).map (·.rack)
  match ok.find? fun m => !racks.contains m.rack with
  | some m => some m
  | none => ok.head?

/-- A council formed from a list of slots: live members in turn, one from each rack first (R444). -/
def State.formCouncil (s : State) (l : List Nat) : List Nat :=
  let live := (l.filterMap fun c => s.member? c).filter fun m => m.state != 4 && m.state != 9
  let first := live.foldl (fun (acc : List Member) (m : Member) =>
    if acc.length < 5 && !acc.any (fun x => x.rack == m.rack) then acc ++ [m] else acc) []
  let all := live.foldl (fun (acc : List Member) (m : Member) =>
    if acc.length < 5 && !acc.contains m then acc ++ [m] else acc) first
  (all.map (·.slot)).foldl (fun k x => insertRising x k) []

/-! ### Votes and proposals (R465, R466) -/

/-- A VOTE to every council member. -/
def State.sendVote (s : State) (proposal vote : Nat) : State :=
  s.lkCouncil 6 (beBytes 4 (s.num Reg.lk.councilTerm) ++ beBytes 4 proposal ++ beBytes 1 vote ++ zeros 3)

/-- A decision with nothing in it but its outcome and subject. -/
def emptyDecision (outcome subject gen : Nat) : LkDecision := ⟨0, 0, outcome, [], subject, gen, 0, 0, 0, 0, 0, 0, []⟩

/-- The leader proposes, with its own ACCEPT; no proposal stands twice. In HOLD_MEMBERSHIP nothing but what ends it is
proposed (R474). -/
def State.propose (s : State) (d : LkDecision) : State :=
  if !s.isLeader ∨ (s.num Reg.lk.domainState = 1 ∧ d.outcome ≠ 0x0C) ∨
      (s.lookout.proposals.any fun p => p.dec.outcome == d.outcome && p.dec.subject == d.subject && p.dec.subjectUid == d.subjectUid &&
        p.dec.epoch == d.epoch) then s
  else
    let id := 2 ^ 31 + s.lookout.msgSeq % 2 ^ 31
    (s.putLk { s.lookout with proposals := s.lookout.proposals ++ [⟨id, d, [s.mySlot]⟩] }).sendVote id 3

/-- A record of a suspicion takes its new state. -/
def State.putSuspicion (s : State) (x : Suspicion) : State :=
  s.putLk { s.lookout with suspicions := s.lookout.suspicions.map fun (y : Suspicion) => if y.gen = x.gen then x else y }

def State.suspicion? (s : State) (gen : Nat) : Option Suspicion := s.lookout.suspicions.find? fun x => x.gen == gen

/-- PROBE to a subject (R465). -/
def State.sendProbe (s : State) (x : Suspicion) : State :=
  s.lkTo 4 (beBytes 2 x.slot ++ zeros 2 ++ beBytes 4 x.gen ++ beBytes 4 (s.num Reg.lk.councilTerm)) x.slot

/-- R473: a council member that finds too few of the council unsuspected declares HOLD_MEMBERSHIP. -/
def State.checkHold (s : State) : State :=
  if s.inCouncil && decide (1 < s.serving.length) && s.num Reg.lk.domainState != 1 &&
      decide (s.unsuspected < s.majority) then
    (s.declare 9 0 0).setN Reg.lk.domainState 1
  else s

/-- R471: a suspicion while another slot is revoked with no member serving it, or in coppice, holds the domain. -/
def State.checkDomainHold (s : State) (slot : Nat) : State :=
  if s.lookout.hold.isNone && s.lookout.members.any fun m => m.slot != slot && m.slot != 0xFFFF && (m.state == 9 || m.state == 4) then
    s.propose (emptyDecision 8 slot (s.genOf slot))
  else s

/-- A device learns of a suspicion (R465): a council member begins probing. -/
def State.learnSuspicion (s : State) (slot gen ring : Nat) : State :=
  let known := match s.member? slot with
    | some m => m.gen == gen && m.state != 9
    | none => false
  if !known ∨ (s.suspicion? gen).isSome ∨ s.pairRevoked slot gen then s
  else
    let probing := s.inCouncil && slot != s.mySlot
    let x : Suspicion := ⟨slot, gen, ring, if probing then some s.rc.ring else none, 0, [], [], false⟩
    let recent := ([slot] ++ s.lookout.recent.filter fun r => r != slot).take 4
    let s := s.putLk { s.lookout with suspicions := s.lookout.suspicions ++ [x], recent := recent }
    let s := (s.setMember gen 6).reviewLeader
    let s := if probing then s.sendProbe x else s
    (s.checkHold).checkDomainHold slot

/-! ### Effects of decisions (R467 to R472, R476, R480 to R488) -/

/-- Every later launch moves by a shift, which is journaled as EPOCH_SHIFT (R476, R485): launches of ACTIVE where its epoch is
meant, else those of the epochs after it; the rings from which slots are taken over or stopped move with them. -/
def State.shiftLaunches (s : State) (epoch shift : Nat) : State :=
  let from_ := s.nextStart
  let s := s.journal 0x0031 0 false (leBytes 4 epoch ++ leBytes 4 shift)
  let later := match s.sched.active with
    | some a => decide (a.hdr.epoch < epoch)
    | none => false
  let s := { s with sched :=
    if later then { s.sched with active := s.sched.active.map fun (a : Section) =>
      { a with hdr := { a.hdr with epochRings := a.hdr.epochRings + shift } } }
    else { s.sched with shiftRings := s.sched.shiftRings + shift } }
  let s := { s with sched := { s.sched with lateReported := false } }
  let base := s.rc.ring
  let move := fun (r : Nat) => if (if later then from_ else base) ≤ r then r + shift else r
  let s := s.putLk { s.lookout with
    stopFrom := s.lookout.stopFrom.map move
    taken := s.lookout.taken.map fun (t : Taken) => { t with from_ := move t.from_, until_ := t.until_.map move }
    demote := s.lookout.demote.map fun x => (x.1, x.2.1, move x.2.2) }
  let moves := fun (k : FragKey) (ring : Nat) => decide (epoch ≤ k.epoch) && decide (s.rc.ring ≤ ring)
  s.putDeck { s.deck with
    entries := s.deck.entries.map fun (e : DeckEntry) =>
      if moves e.key e.ring && (e.state == .preparing || e.state == .ready) then
        { e with ring := e.ring + shift, retain := e.retain + shift } else e
    takeovers := s.deck.takeovers.map fun (t : Takeover) => if moves t.key t.ring then { t with ring := t.ring + shift } else t }

/-- This device learns that its pair is revoked: it is a snag, and its connections close (R477). -/
def State.becomeSnag (s : State) : State :=
  let s := s.setN Reg.lk.lkState 9
  s.skd.conns.foldl (fun (s : State) (c : Conn) => s.closeConn c 0x5013) s

/-- A pair leaves membership (R470, R413): the list, its connections, its peer and its suspicion. -/
def State.revoke (s : State) (slot gen : Nat) : State :=
  if s.pairRevoked slot gen then s
  else
    let s := s.putLk { s.lookout with
      revoked := s.lookout.revoked ++ [(slot, gen)]
      suspicions := s.lookout.suspicions.filter fun x => x.gen != gen
      recent := s.lookout.recent.filter fun r => r != slot
      peers := s.lookout.peers.filter fun p => p.gen != gen }
    (s.fencePeers slot gen).lkRegs

/-- REVOKED notices to the consumers of the pairs this device serves for a subject (R470). -/
def State.revokedNotices (s : State) (slot gen : Nat) : State :=
  let keys := ((s.deck.takeovers.filter fun t => t.key.orig == some slot).map (·.key)).eraseDups
  keys.foldl (fun (s : State) (k : FragKey) =>
    s.tellConsumer ⟨1, true, s.attemptOf k.epoch k.step k.consumer, k.epoch, k.step, k.consumer, slot, s.mySlot, gen, s.myGen,
      match s.lookout.served.find? fun v => v.epoch == k.epoch && v.step == k.step && v.consumer == k.consumer && v.replaced == slot with
      | some v => v.floor
      | none => s.rc.ring⟩) s

/-- The shards of this device's placement lists that no live device holds: both slots revoked (R484). -/
def State.lostShards (s : State) : List Nat :=
  let out := fun (slot : Nat) => match s.member? slot with
    | some m => m.state == 9 || m.state == 4
    | none => slot != 0xFFFFFFFF
  ((s.loadedSections.flatMap fun p => p.1.placements.filter fun x => out x.owner && out x.partner).map (·.shardId)).eraseDups.filter
    fun x => !s.sched.orphans.contains x

/-- ORPHAN_POLICY of ACTIVE: 1 SKIP_AND_RECORD. -/
def State.orphanPolicy (s : State) : Nat := (s.sched.active.map (·.hdr.orphanPolicy)).getD 0

/-- What holds the domain (R471, R484): more than one slot that no device serves, or orphaned shards under HOLD. -/
def State.heldStill (s : State) : Bool :=
  let out := ((s.lookout.members.filter fun m => m.slot != 0xFFFF && (m.state == 9 || m.state == 4 || m.state == 6)).map (·.slot)).eraseDups
  decide (1 < out.length) || (s.orphanPolicy != 1 && !s.sched.orphans.isEmpty)

/-- The leader proposes RESUME once nothing holds the domain (R485). -/
def State.checkResume (s : State) : State :=
  match s.lookout.hold with
  | some (e, k) => if s.heldStill then s else s.propose { emptyDecision 9 0xFFFF 0 with epoch := e, resumeStep := k }
  | none => s

/-- The spare that R480 chooses for a slot: of those in SPARE with the slot's CAPSET_DIGEST, the lowest DEVICE_UID. -/
def State.spareFor (s : State) (slot : Nat) : Option Member :=
  match s.member? slot with
  | none => none
  | some m =>
    (s.lookout.members.filter fun x => x.slot == 0xFFFF && x.state == 3 && x.capset == m.capset).foldl
      (fun (best : Option Member) (x : Member) => match best with
        | none => some x
        | some b => if x.uid < b.uid then some x else some b) none

/-- Revoked slots first, then slots whose member is SUSPECT (R480, R488): each that a spare fits gets COPPICE_START; NO_SPARE is
raised where none does. -/
def State.checkCoppice (s : State) : State :=
  if !s.isLeader then s
  else
    let auto := (s.num Reg.lkCfg.autoPreempt).testBit 0
    let pre := (s.num Reg.lkCfg.autoPreempt).testBit 1
    let busy := fun (slot : Nat) => s.lookout.members.any fun m => m.slot == slot && m.state == 4
    let dead := if auto then (s.lookout.members.filter fun m => m.state == 9 && !busy m.slot).map (·.slot) else []
    let slow := if pre then (s.lookout.members.filter fun m => m.slot != 0xFFFF && m.state == 5 && !busy m.slot &&
      decide (s.num Reg.lkConst.suspectScore ≤ m.score)).map (·.slot) else []
    let s := dead.foldl (fun (s : State) slot => match s.spareFor slot with
      | some x => s.propose { emptyDecision 4 slot (s.genOf slot) with subjectUid := x.uid }
      | none =>
        let any := s.lookout.members.any fun m => m.slot == 0xFFFF && m.state == 3
        s.refuse (if any then 0x2411 else 0x2413) 0xFF 0xFF) s
    slow.foldl (fun (s : State) slot => match s.spareFor slot with
      | some x => s.propose { emptyDecision 4 slot (s.genOf slot) with subjectUid := x.uid }
      | none => s) s

/-- The council's further proposals after a change: CO_OPT while the council is short, ORPHANED, COPPICE_START, RESUME. -/
def State.followUp (s : State) : State :=
  if !s.isLeader then s
  else
    let s := if 5 ≤ s.serving.length && decide (s.council.length < 5) then match s.coOptChoice with
      | some m => s.propose { emptyDecision 6 m.slot m.gen with subjectUid := m.uid }
      | none => s else s
    let lost := s.lostShards
    let s := if lost.isEmpty then s
      else s.propose { emptyDecision 0x0A 0xFFFF 0 with count := lost.length, list := lost.map fun x => (x, 0) }
    s.checkCoppice.checkResume

/-- Where launches stop once a suspicion ends: a device of an unguarded schedule launches again when membership is restored, no
other suspicion being left and every slot served (R463, R64). -/
def State.restart (s : State) (gen : Nat) : Option Nat :=
  if (s.sched.active.map (·.hdr.guarded)) == some false && s.lookout.hold.isNone && s.lkState != 7 &&
      s.lookout.suspicions.all (fun x => x.gen == gen) &&
      s.lookout.members.all (fun m => m.gen == gen || m.slot == 0xFFFF || (m.state != 4 && m.state != 9)) then none
  else s.lookout.stopFrom

/-- ALIVE (R469). -/
def State.applyAlive (s : State) (d : LkDecision) : State :=
  let s := s.putLk { s.lookout with
    suspicions := s.lookout.suspicions.filter fun x => x.gen != d.subjectGen
    recent := s.lookout.recent.filter fun r => r != d.subject
    peers := s.lookout.peers.map fun (p : LkPeer) => if p.gen = d.subjectGen then { p with missed := 0 } else p
    stopFrom := s.restart d.subjectGen }
  let s := (s.setMember d.subjectGen 5).reviewLeader
  let s := match s.firstLaunch d.epoch d.resumeStep with
    | some r => s.dropTakeover d.subject r
    | none => s
  if d.subject = s.mySlot ∧ d.subjectGen = s.myGen then
    ((s.bump Reg.lkCnt.falseSuspicions).setN Reg.lk.lkState 5).putLk { s.lookout with
      resumeAt := some (d.epoch, d.resumeStep), tellIsolated := false, silent := 0 }
  else s

/-- DEAD (R470). -/
def State.applyDead (s : State) (d : LkDecision) : State :=
  let s := s.revoke d.subject d.subjectGen
  let s := (s.setMember d.subjectGen 9).recompose
  if d.subject = s.mySlot ∧ d.subjectGen = s.myGen then s.becomeSnag
  else (s.revokedNotices d.subject d.subjectGen).followUp

/-- ADMIT (R441, R442): a new member or spare with a new generation. -/
def State.applyAdmit (s : State) (d : LkDecision) : State :=
  let me := d.subjectUid == s.dev.uid
  let capset := ((s.lookout.joins.find? fun j => j.1 == d.subjectUid).map (·.2)).getD (if me then s.blob Reg.cap.capsetDigest else zeros 48)
  let score := ((s.lookout.scores.find? fun j => j.1 == d.subjectUid).map (·.2)).getD 0
  let rack := if me then s.num Reg.lkCfg.rackId else s.freeVal % 65536
  let m : Member := ⟨d.subject, d.subjectUid, d.newGen, if d.subject = 0xFFFF then 2 else 5, rack, score, capset⟩
  let s := s.drawn.putLk { s.lookout with
    members := (s.lookout.members.filter fun x => !(x.uid == d.subjectUid && x.state != 9)) ++ [m]
    joins := s.lookout.joins.filter fun j => j.1 != d.subjectUid
    nextGen := max s.lookout.nextGen (d.newGen + 1) }
  let s := if me then
      ((s.setN Reg.lk.slot d.subject).setN Reg.lk.generation d.newGen).setN Reg.lk.lkState (if d.subject = 0xFFFF then 2 else 5)
    else s
  s.recompose.followUp

/-- COPPICE_START (R480, R441): a spare holds the slot in COPPICE under a new generation. -/
def State.applyCoppiceStart (s : State) (d : LkDecision) : State :=
  let capset := ((s.member? d.subject).map (·.capset)).getD (zeros 48)
  let old := s.lookout.members.find? fun m => m.uid == d.subjectUid && m.slot == 0xFFFF
  let rack := (old.map (·.rack)).getD 0
  let score := (old.map (·.score)).getD 0
  let m : Member := ⟨d.subject, d.subjectUid, d.newGen, 4, rack, score, capset⟩
  let s := s.putLk { s.lookout with
    members := (s.lookout.members.filter fun x =>
      !(x.slot == d.subject && x.state == 9) && !(x.uid == d.subjectUid && x.slot == 0xFFFF)) ++ [m]
    nextGen := max s.lookout.nextGen (d.newGen + 1) }
  let s := if d.subjectUid = s.dev.uid then
      let s := ((s.setN Reg.lk.slot d.subject).setN Reg.lk.generation d.newGen).setN Reg.lk.lkState 4
      let s := s.setN Reg.coppice.coppiceSlot d.subject
      (s.putLk { s.lookout with coppice := [], activeDigest := Config.freeBytes s.freeCtr 48 }).drawn
    else s
  s.lkRegs

/-- The retention end of the last step before a decision's RESUME_STEP (R249, R488). -/
def State.lastRetention (s : State) (d : LkDecision) (from_ : Option Nat) : Nat :=
  match if d.resumeStep = 0 then s.sectionOf (d.epoch - 1) else none with
  | some (x, start) => start + x.hdr.firstLaunch + x.hdr.steps * x.hdr.stepPeriod + 4
  | none => from_.getD s.rc.ring + 4

/-- SLOT_READY (R483, R488): the spare is a MEMBER of the slot from RESUME_STEP. -/
def State.applySlotReady (s : State) (d : LkDecision) : State :=
  let from_ := (s.firstLaunch d.epoch d.resumeStep).or
    (if (s.sched.active.map fun a => a.hdr.epoch + 1) = some d.epoch then some s.nextStart else none)
  let old := s.lookout.members.filter fun m => m.slot == d.subject && m.gen != d.subjectGen && m.state == 5
  let s := s.putLk { s.lookout with
    members := s.lookout.members.map fun (m : Member) => if m.gen = d.subjectGen then { m with state := 5 } else m
    stopFrom := s.restart d.subjectGen
    demote := s.lookout.demote ++ old.map fun (m : Member) => (m.slot, m.gen, s.lastRetention d from_ + 1) }
  let s := match from_ with
    | some r => s.dropTakeover d.subject r
    | none => s
  let s := if d.subject = s.mySlot ∧ d.subjectGen = s.myGen then
      ((s.setN Reg.lk.lkState 5).setN Reg.coppice.coppiceSlot 0xFFFF).putLk { s.lookout with resumeAt := some (d.epoch, d.resumeStep) }
    else if d.subject = s.mySlot ∧ old.any fun m => m.gen == s.myGen then
      s.putLk { s.lookout with stopFrom := from_ }
    else s
  s.recompose.followUp

/-- The council state of SNAPSHOT frames (R467, R472). -/
def State.councilState (s : State) : Bytes :=
  let x := s.lookout
  beBytes 4 x.nextGen ++ beBytes 4 x.members.length ++
    (x.members.flatMap fun m => beBytes 2 m.slot ++ beBytes 8 m.uid ++ beBytes 4 m.gen ++ beBytes 1 m.state ++ beBytes 2 m.rack ++
      beBytes 2 m.score ++ m.capset) ++
    beBytes 4 x.revoked.length ++ (x.revoked.flatMap fun p => beBytes 2 p.1 ++ beBytes 4 p.2) ++
    beBytes 4 s.sched.orphans.length ++ s.sched.orphans.flatMap (beBytes 8)

/-- CO_OPT (R472): a new council member, to which the leader sends the council state. -/
def State.applyCoOpt (s : State) (d : LkDecision) : State :=
  let c := if s.council.contains d.subject then s.council else insertRising d.subject s.council
  let was := s.isLeader
  let s := (s.setB Reg.council.council (slotBytes c)).reviewLeader
  if !was then s
  else
    ((cutBytes 3984 100000 0 s.councilState).foldl (fun (s : State) (p : Nat × Bytes) =>
      s.lkTo 0x0D (beBytes 4 p.1 ++ zeros 4 ++ p.2) d.subject) s).followUp

/-- DOMAIN_HOLD (R471): every device holds from the first step at least STOP_GUARD rings after the decision. -/
def State.applyDomainHold (s : State) (d : LkDecision) : State :=
  if s.lookout.hold.isSome then s
  else match s.stepFrom (s.rc.ring + s.num Reg.lkConst.stopGuard) with
    | none => (s.setN Reg.lk.domainState 2).bump Reg.lkCnt.domainHolds
    | some (e, k) =>
      let s := s.putLk { s.lookout with hold := some (e, k) }
      ((s.setN Reg.lk.domainState 2).bump Reg.lkCnt.domainHolds).stopNotices e k d.subject d.subjectGen

/-- RESUME (R485): later launches shift, the hold ends, and held pairs launch from the shifted instant. -/
def State.applyResume (s : State) (d : LkDecision) : State :=
  let s := s.shiftLaunches d.epoch d.shiftRings
  let floor := (s.firstLaunch d.epoch d.resumeStep).getD s.rc.ring
  let held := s.lookout.served.filter fun v => v.server == 0xFFFF
  let s := s.putLk { s.lookout with
    hold := none, stopped := [], served := s.lookout.served.filter fun v => v.server != 0xFFFF }
  let s := if s.schedState = 4 ∧ !s.sched.halted then s.setN Reg.sched.state (if s.num Reg.replay.replayMode = 1 then 5 else 3) else s
  let s := s.setN Reg.lk.domainState 0
  let s := held.foldl (fun (s : State) (v : Served) =>
    let s := match (s.takeoversFor v.replaced).find? fun p => p.1.hdr.epoch == v.epoch && p.2.2.step == v.step && p.2.2.consumer == v.consumer with
      | some p => s.activate p.1 p.2.1 p.2.2 v.attempt (some floor)
      | none => s
    s.putDeck { s.deck with entries := s.deck.entries.map fun (e : DeckEntry) =>
      if e.key.epoch = v.epoch ∧ e.key.step = v.step ∧ e.key.consumer = v.consumer ∧ e.state = .ready ∧ e.ring < floor then
        { e with ring := floor, grain := 0, retain := e.retain + (floor - e.ring) } else e }) s
  (s.myConsumers.foldl (fun (s : State) c =>
    s.tellConsumer ⟨3, false, s.attemptOf d.epoch d.resumeStep c, d.epoch, d.resumeStep, c, 0xFFFF, 0xFFFF, 0, 0, floor⟩) s).lkRegs

/-- ORPHANED (R484): the shards join the orphan list, and the device in the owner slot, or in the partner slot if the owner slot
has no device, ingests them again. -/
def State.applyOrphaned (s : State) (d : LkDecision) : State :=
  let l := (d.list.map (·.1)).filter fun x => !s.sched.orphans.contains x
  let s := { s with sched := { s.sched with orphans := s.sched.orphans ++ l } }
  let s := l.foldl (fun (s : State) x =>
    match (s.loadedSections.flatMap (·.1.placements)).find? fun p => p.shardId == x with
    | none => s
    | some p =>
      let holder := if (s.serving.any fun m => m.slot == p.owner) || (s.holders.any fun m => m.slot == p.owner) then p.owner else p.partner
      if holder ≠ s.mySlot then s
      else
        let origin := match s.sched.manifest with
          | some m => match m.records.find? fun (r : SampleRec) => r.shardId == x with
            | some r => m.origins[r.originIndex]?
            | none => none
          | none => none
        s.emit (.reingest x ((origin.map (·.1)).getD 0) ((origin.map (·.2)).getD []))) s
  let s := if s.orphanPolicy ≠ 1 && s.lookout.hold.isNone then s.propose (emptyDecision 8 0xFFFF 0) else s
  s.lkRegs

/-- DEMOTE (R488): the pair of a replaced SUSPECT member is revoked with no abort. -/
def State.applyDemote (s : State) (d : LkDecision) : State :=
  let s := s.revoke d.subject d.subjectGen
  let s := (s.putLk { s.lookout with
    members := s.lookout.members.filter fun m => m.gen != d.subjectGen
    demote := s.lookout.demote.filter fun x => x.2.1 != d.subjectGen }).recompose
  if d.subject = s.mySlot ∧ d.subjectGen = s.myGen then s.becomeSnag else s

/-- SCORES (R487): the scores that are not zero; a member whose score is at or above SUSPECT_SCORE is SUSPECT. -/
def State.applyScores (s : State) (d : LkDecision) : State :=
  let of_ := fun (slot : Nat) => ((d.list.find? fun p => p.1 == slot).map (·.2)).getD 0
  let s := s.putLk { s.lookout with
    members := s.lookout.members.map fun (m : Member) => if m.slot = 0xFFFF then m else { m with score := of_ m.slot }
    scores := s.lookout.members.filterMap fun m => if m.slot = 0xFFFF then none else some (m.uid, of_ m.slot) }
  if s.mySlot = 0xFFFF then s
  else (s.setN Reg.lk.latenessScore (of_ s.mySlot)).setN Reg.lk.suspect
    (decide (s.num Reg.lkConst.suspectScore ≤ of_ s.mySlot)).toNat

/-- A decision's effect. -/
def State.applyOutcome (s : State) (d : LkDecision) : State :=
  match d.outcome with
  | 1 => s.applyAlive d | 2 => s.applyDead d | 3 => s.applyAdmit d | 4 => s.applyCoppiceStart d | 5 => s.applySlotReady d
  | 6 => s.applyCoOpt d | 7 => s.shiftLaunches d.epoch d.shiftRings | 8 => s.applyDomainHold d | 9 => s.applyResume d
  | 0x0A => s.applyOrphaned d | 0x0B => s.applyDemote d | 0x0C => s.applyScores d | _ => s

/-- A valid decision is applied in DECISION_SEQ order (R464, R467); one applied in HOLD_MEMBERSHIP ends it (R475). -/
def State.applyDecision (s : State) (d : LkDecision) : State :=
  let s := s.setN Reg.lk.decisionSeq d.seq
  let s := if s.num Reg.lk.domainState = 1 then s.setN Reg.lk.domainState (if s.lookout.hold.isSome then 2 else 0) else s
  let s := s.putLk { s.lookout with proposals := s.lookout.proposals.filter fun p =>
    !(p.dec.outcome == d.outcome && p.dec.subject == d.subject && p.dec.subjectUid == d.subjectUid) }
  (s.applyOutcome d).lkRegs

/-! ### The leader decides (R466) -/

/-- The values that a decision takes at the instant it is made. -/
def State.fillDecision (s : State) (d : LkDecision) : LkDecision :=
  let resume := s.stepFrom (s.rc.ring + s.num Reg.lkCfg.resumeGuard)
  let period := (s.sched.active.map (·.hdr.stepPeriod)).getD ((s.sched.next.map (·.hdr.stepPeriod)).getD 1)
  let shift := fun (at_ guard : Nat) => ceilDiv (s.rc.ring + guard - at_) (max 1 period) * period
  match d.outcome with
  | 1 => { d with epoch := (resume.getD (0, 0)).1, resumeStep := (resume.getD (0, 0)).2 }
  | 5 =>
    let replacing := s.lookout.members.any fun m => m.slot == d.subject && m.gen != d.subjectGen && m.state == 5
    let e := (s.sched.active.map (·.hdr.epoch)).getD 0
    if replacing then { d with epoch := e + 1, resumeStep := 0 }
    else { d with epoch := (resume.getD (0, 0)).1, resumeStep := (resume.getD (0, 0)).2 }
  | 3 | 4 => { d with newGen := s.lookout.nextGen }
  | 7 => { d with shiftRings := shift s.nextStart (s.num Reg.sched.loadGuard) }
  | 9 => { d with shiftRings := shift ((s.firstLaunch d.epoch d.resumeStep).getD s.rc.ring) (s.num Reg.lkCfg.resumeGuard) }
  | _ => d

/-- The frames of a decision: its list, in as many frames as it needs. -/
def decisionFrames (d : LkDecision) : List LkDecision :=
  let per := if d.outcome = 0x0A then 493 else 986
  if d.list.length ≤ per then [d]
  else (List.range (ceilDiv d.list.length per)).map fun i => { d with list := (d.list.drop (i * per)).take per }

/-- The leader multicasts a decision and applies it. -/
def State.decide_ (s : State) (d : LkDecision) (voters : List Nat) : State :=
  let d := { s.fillDecision d with
    term := s.num Reg.lk.councilTerm, seq := wrap 32 (s.num Reg.lk.decisionSeq + 1), voters := voters.take 5 }
  let s := (decisionFrames d).foldl (fun (s : State) (f : LkDecision) => s.lkCast 7 f.bytes) s
  s.applyDecision d

/-- The next decision that the votes allow: a suspicion, then a proposal; in HOLD_MEMBERSHIP only the one that ends it (R474,
R475). -/
def State.decidable (s : State) : Option (LkDecision × List Nat) :=
  let n := s.majority
  let held := s.num Reg.lk.domainState == 1
  match (if held then [] else s.lookout.suspicions).findSome? fun (x : Suspicion) =>
      if n ≤ x.alive.length then some (emptyDecision 1 x.slot x.gen, x.alive)
      else if n ≤ x.dead.length then some (emptyDecision 2 x.slot x.gen, x.dead) else none with
  | some r => some r
  | none => s.lookout.proposals.findSome? fun (p : Proposal) =>
    if n ≤ p.accepts.length && (!held || p.dec.outcome == 0x0C) then some (p.dec, p.accepts) else none

/-- The leader decides what the votes allow, one after another. -/
def State.settleVotes (s : State) : Nat → State
  | 0 => s
  | fuel + 1 =>
    if !s.isLeader then s
    else match s.decidable with
      | none => s
      | some (d, v) => State.settleVotes (s.decide_ d v) fuel

/-- After anything that may let the council decide. -/
def State.settle (s : State) : State := s.settleVotes 16

/-- This council member votes on a suspicion, once (R465). -/
def State.castVote (s : State) (x : Suspicion) (vote : Nat) : State :=
  if x.vote ≠ 0 ∨ !s.inCouncil then s
  else
    let y := { x with
      vote := vote, alive := if vote = 1 then x.alive ++ [s.mySlot] else x.alive, dead := if vote = 2 then x.dead ++ [s.mySlot] else x.dead }
    ((s.putSuspicion y).sendVote x.gen vote).settle

end Sys2Proof.Machine
end

