-- ==== Sys2Proof/Machine/Lookout.lean ====
section
/-! DEFINITION. Lookout's events: heartbeats and suspicion (R450 to R455), aborts (R456 to R461), the council's frames (R464 to
R475), declarations (R462, R476, R479, R483, R484), joining, lateness (R486 to R488), snags (R477 to R479) and coppice (R482). -/
namespace Sys2Proof.Machine

/-! ### Heartbeats (R450) -/

/-- The states in which a device sends heartbeats: it holds a slot. -/
def State.beats (s : State) : Bool := 4 ≤ s.lkState && s.lkState ≤ 8

/-- GM_HASH (R89). -/
def State.gmHash (s : State) : Nat := (crc32c (beBytes 8 s.rc.gmIdentity)).toNat % 65536

/-- The slots to which this device sends heartbeats: its peers, and for a council member the other council members. -/
def State.beatSlots (s : State) : List Nat :=
  (s.lookout.peers.map (·.slot) ++ (if s.inCouncil then s.council else [])).eraseDups.filter fun x => x != s.mySlot

/-- A heartbeat's payload to a slot on a path; only data-network copies carry the echo (R450). -/
def State.beatPayload (s : State) (slot path : Nat) : Bytes :=
  let p := s.lookout.peers.find? fun p => p.slot == slot
  let echo := if path = 0 then ((p.map (·.txStamp)).getD 0, (p.map (·.rxStamp)).getD 0) else (0, 0)
  beBytes 2 s.gmHash ++ beBytes 1 s.lkState ++ beBytes 1 s.lockstepOk.toNat ++ beBytes 8 echo.1 ++ beBytes 8 echo.2 ++
    beBytes 1 s.lookout.recent.length ++ zeros 3 ++ ((s.lookout.recent.flatMap (beBytes 2)) ++ zeros 8).take 8

/-- HEARTBEAT_SEND: at grain 0 of every ring, on all three paths. -/
def State.sendHeartbeats (s : State) : State :=
  if !s.beats || !s.lkMaySend 1 then s
  else s.beatSlots.foldl (fun (s : State) x =>
    let s := [0, 1, 2].foldl (fun (s : State) p => s.lkCopy 1 (s.beatPayload x p) false none (some x) p) s
    s.putLk { s.lookout with msgSeq := wrap 32 (s.lookout.msgSeq + 1) }) s

/-- A device learns that it is suspected: it stops every launch at once (R452). -/
def State.becomeSuspected (s : State) : State := if s.lkState = 5 then s.setN Reg.lk.lkState 6 else s

/-- A difference of stamps modulo 2^64, as a signed number. -/
def stampDiff (a b : Nat) : Int :=
  let d : Nat := (a + 2 ^ 64 - b % 2 ^ 64) % 2 ^ 64
  if d < 2 ^ 63 then (d : Int) else (d : Int) - 2 ^ 64

/-- The two-way offset of this device to a peer from a heartbeat on the data network (R89, R450), in units of 2^-16 ns. -/
def LkHdr.offset (h : LkHdr) (echoTx echoRx : Nat) : Int :=
  let t3 := (h.ring * 10240 + h.grain * 10) * 65536 % 2 ^ 64
  (stampDiff echoTx echoRx + stampDiff h.stamp t3) / 2

/-- In HOLD_MEMBERSHIP a council member under suspicion is heard again; once enough of the council are unsuspected the leader
ends the hold by a decision, that of the scores (R475). -/
def State.heardAgain (s : State) (gen : Nat) : State :=
  let s := (s.putLk { s.lookout with suspicions := s.lookout.suspicions.map fun (x : Suspicion) =>
    if x.gen = gen && s.council.contains x.slot then { x with heard := true } else x }).reviewLeader
  if s.unsuspected < s.majority then s
  else
    let l := (s.holders.filter fun m => m.score != 0).map fun m => (m.slot, m.score)
    (s.propose { emptyDecision 0x0C 0xFFFF 0 with count := l.length, list := l }).settle

/-- A heartbeat from a peer is counted for its ring; its echo gives the cross-check of R89, and its SUSPECTS what the domain
suspects. A member that is not yet a peer becomes one while room remains (R443). -/
def State.heartbeat (s : State) (h : LkHdr) (gmHash : Nat) (echoTx echoRx : Nat) (suspects : List Nat) :
    State :=
  let known := s.lookout.peers.any fun p => p.gen == h.generation
  let s := if known || 32 ≤ s.lookout.peers.length || h.srcSlot == 0xFFFF ||
      !(s.lookout.members.any fun m => m.gen == h.generation && m.slot == h.srcSlot) then s
    else s.putLk { s.lookout with peers := (s.lookout.peers.filter fun p => p.slot != h.srcSlot) ++
      [⟨h.srcSlot, h.generation, false, 0, 0, 0⟩] }
  let inTime := decide (h.ring = s.rc.ring) && decide (s.grain < s.num Reg.lkCfg.hbWindow)
  let tx := (h.ring * 10240 + h.grain * 10) * 65536 % 2 ^ 64
  let s := s.putLk { s.lookout with peers := s.lookout.peers.map fun (p : LkPeer) =>
    if p.gen = h.generation then
      { p with heard := p.heard || inTime, txStamp := if h.path = 0 then tx else p.txStamp, rxStamp := if h.path = 0 then h.stamp else p.rxStamp }
    else p }
  let partner := (slotsOf (s.blob Reg.memb.partnerSet)).contains h.srcSlot
  let fresh := !(s.rc.answers.any fun a => a.slot == h.srcSlot)
  let s := if h.path = 0 && partner && fresh && (echoTx != 0 || echoRx != 0) then
      { s with rc := { s.rc with answers := s.rc.answers ++ [⟨h.srcSlot, h.offset echoTx echoRx, gmHash⟩] } }
    else s
  let s := suspects.foldl (fun (s : State) x =>
    if s.lookout.recent.contains x ∨ x = s.mySlot then s
    else s.putLk { s.lookout with recent := ([x] ++ s.lookout.recent).take 4 }) s
  let s := if suspects.contains s.mySlot && s.mySlot != 0xFFFF then s.becomeSuspected else s
  (if s.num Reg.lk.domainState = 1 then s.heardAgain h.generation else s).lkRegs

def execLkHeartbeat (hdr : LkHdr) (gmHash _lkState : Nat) (_lockstepOk : Bool) (echoTx echoRx : Nat) (suspects : List Nat) (s : State) :
    Host.Outcome State Fault Refusal :=
  act s fun s => s.lkFrame 1 hdr fun s => s.heartbeat hdr gmHash echoTx echoRx suspects

/-! ### Suspicion (R451, R453, R455, R463, R474) -/

/-- A pair of a takeover descriptor as an ABORT entry (R455, R456): the new attempt with this device as SERVER; stopped with
no server where nothing is reassigned, or where the slot this device holds is in coppice (R471). -/
def State.abortEntry (s : State) (stop : Bool) (p : Section × Nat × Fragment) : LkEntry :=
  let a := s.attemptOf p.1.hdr.epoch p.2.2.step p.2.2.consumer
  ⟨p.1.hdr.epoch, p.2.2.step, p.2.2.consumer, if stop then a else a + 1, if stop || s.lkState == 4 then 0xFFFF else s.mySlot⟩

/-- SUSPICION: the suspecting device activates takeover, multicasts ABORT and sends SUSPECT and notices (R455); a pair that a
delivery fault gave a server keeps it (Table 15-13). -/
def State.suspect (s : State) (slot gen : Nat) : State :=
  let ring := s.rc.ring
  let stop := s.num Reg.lk.domainState == 1
  let limit := ring + s.num Reg.lkConst.stopGuard
  let s := s.bump Reg.lkCnt.suspicions
  let s := s.learnSuspicion slot gen ring
  let progress := (s.takeoversFor slot).filter fun p =>
    let first := p.2.1 + p.1.hdr.firstLaunch + p.2.2.step * p.1.hdr.stepPeriod
    decide (first < limit) && decide (ring < first + p.1.hdr.stepPeriod + 4) &&
      !(s.lookout.served.any fun v => v.epoch == p.1.hdr.epoch && v.step == p.2.2.step && v.consumer == p.2.2.consumer &&
        v.replaced == slot)
  let a : LkAbort := ⟨slot, if stop then 3 else 1, gen, ring, progress.map (s.abortEntry stop)⟩
  let unguarded := (s.sched.active.map (·.hdr.guarded)) == some false
  let s := if a.entries.isEmpty && !unguarded then s else (s.lkCast 3 a.bytes).bump Reg.lkCnt.abortsSent
  let s := a.entries.foldl (fun (s : State) e => s.applyEntry a e) s
  let s := if stop then s else s.takeOver slot gen limit
  let s := s.unguardedStop slot gen ring
  let s := s.lkCouncil 2 (beBytes 2 slot ++ zeros 2 ++ beBytes 4 gen ++ beBytes 8 ring)
  s.settle.lkRegs

/-- Whether a peer may be suspected: not while suspected, REASSIGNED, in coppice or revoked (R451). -/
def State.maySuspect (s : State) (p : LkPeer) : Bool :=
  !s.pairRevoked p.slot p.gen && (s.suspicion? p.gen).isNone && match s.member? p.slot with
    | some m => m.gen == p.gen && m.state == 5
    | none => false

/-- The judgement of a ring at grain HB_WINDOW (R450, R451, R453). A device with two peers or more that hears none of them is
ISOLATED and suspects none; in a domain of two the survivor suspects (R445, Table 15-10). -/
def State.heartbeatWindow (s : State) : State :=
  if !s.beats || s.lookout.peers.isEmpty then s
  else
    let none_ := decide (1 < s.lookout.peers.length) && s.lookout.peers.all fun p => !p.heard
    let peers := s.lookout.peers.map fun (p : LkPeer) => { p with missed := if p.heard then 0 else p.missed + 1, heard := false }
    let s := s.putLk { s.lookout with peers := peers, silent := if none_ then s.lookout.silent + 1 else 0 }
    let n := s.num Reg.lkConst.suspectMisses
    if n ≤ s.lookout.silent then
      if s.lkState ≠ 5 then s
      else ((s.setN Reg.lk.lkState 8).bump Reg.lkCnt.isolations).putLk { s.lookout with tellIsolated := true }
    else (peers.filter fun p => decide (n ≤ p.missed)).foldl (fun (s : State) (p : LkPeer) =>
      if s.maySuspect p then s.suspect p.slot p.gen else s) s

def execHeartbeatWindow (s : State) : Host.Outcome State Fault Refusal := act s State.heartbeatWindow

def execLkSuspect (hdr : LkHdr) (subject subjectGen suspectRing : Nat) (s : State) : Host.Outcome State Fault Refusal :=
  act s fun s => s.lkFrame 2 hdr fun s =>
    if s.inCouncil then (s.learnSuspicion subject subjectGen suspectRing).settle else s

/-! ### Aborts (R456, R458, R461) -/

/-- An ABORT is applied. -/
def State.takeAbort (s : State) (a : LkAbort) : State :=
  let s := if a.cause = 2 then s else s.learnSuspicion a.replaced a.replacedGen a.suspectRing
  let s := if a.cause = 1 ∧ a.replaced = s.mySlot ∧ a.replacedGen = s.myGen then s.becomeSuspected else s
  let s := a.entries.foldl (fun (s : State) e => s.applyEntry a e) s
  let s := if a.cause = 1 then s.unguardedStop a.replaced a.replacedGen a.suspectRing else s
  s.settle.lkRegs

def execLkAbort (hdr : LkHdr) (a : LkAbort) (s : State) : Host.Outcome State Fault Refusal :=
  act s fun s => s.lkFrame 3 hdr fun s => s.takeAbort a

/-- DELIVERY_FAULT: the device cannot launch one of its own fragments, which its OTHER_DEVICE then serves (R461). -/
def State.deliveryFault (s : State) (k : FragKey) : State :=
  match s.entry? k, s.sectionOf k.epoch with
  | some e, some (x, _) =>
    let down := match s.delivery k.consumer with
      | some c => !s.flag (Reg.portStat.linkUp c.port) && decide (e.ring + 2 ≤ s.rc.ring)
      | none => false
    let poisoned := s.bufPoisoned e.mem 0 e.frag.length
    let told := s.lookout.served.any fun v => v.epoch == k.epoch && v.step == k.step && v.consumer == k.consumer && v.replaced == s.mySlot
    if k.orig.isSome ∨ !(down || poisoned) ∨ !x.hdr.guarded ∨ told then s
    else
      let a : LkAbort := ⟨s.mySlot, 2, s.myGen, s.rc.ring,
        [⟨k.epoch, k.step, k.consumer, s.attemptOf k.epoch k.step k.consumer + 1, e.frag.otherDevice⟩]⟩
      let s := (s.lkCast 3 a.bytes).bump Reg.lkCnt.abortsSent
      a.entries.foldl (fun (s : State) y => s.applyEntry a y) s
  | _, _ => s

def execDeliveryFault (key : FragKey) (s : State) : Host.Outcome State Fault Refusal := act s fun s => s.deliveryFault key

/-! ### Probes and votes (R464 to R466) -/

def execLkProbe (hdr : LkHdr) (subject subjectGen term : Nat) (s : State) : Host.Outcome State Fault Refusal :=
  act s fun s => s.lkFrame 4 hdr fun s =>
    if subject = s.mySlot ∧ subjectGen = s.myGen then
      s.lkTo 5 (beBytes 2 subject ++ zeros 2 ++ beBytes 4 subjectGen ++ beBytes 4 term) hdr.srcSlot
    else s

def execLkProbeReply (hdr : LkHdr) (subject subjectGen _term : Nat) (s : State) : Host.Outcome State Fault Refusal :=
  act s fun s => s.lkFrame 5 hdr fun s => match s.suspicion? subjectGen with
    | some x => if x.slot = subject ∧ hdr.generation = subjectGen ∧ x.probing.isSome then s.castVote x 1 else s
    | none => s

/-- PROBE_SEND: at grain 0 of each ring. -/
def State.sendProbes (s : State) : State :=
  (s.lookout.suspicions.filter fun x => x.probing.isSome && x.vote == 0).foldl (fun s x => s.sendProbe x) s

def execProbeTimeout (subjectGen : Nat) (s : State) : Host.Outcome State Fault Refusal :=
  act s fun s => match s.suspicion? subjectGen with
    | some x => match x.probing with
      | some r => if r + s.num Reg.lkCfg.probeRings ≤ s.rc.ring then s.castVote x 2 else s
      | none => s
    | none => s

/-- A term above the current one becomes current (R464). -/
def State.seeTerm (s : State) (term : Nat) : State :=
  if s.num Reg.lk.councilTerm < term then s.setN Reg.lk.councilTerm term else s

/-- Adds a voter once. -/
def addVoter (l : List Nat) (v : Nat) : List Nat := if l.contains v then l else l ++ [v]

/-- A VOTE of a council member in the current term; a proposal of the leader is accepted. -/
def State.takeVote (s : State) (voter term proposal vote : Nat) : State :=
  if !s.inCouncil ∨ !s.council.contains voter ∨ term < s.num Reg.lk.councilTerm then s
  else
    let s := s.seeTerm term
    match s.suspicion? proposal with
    | some x =>
      if vote = 1 then (s.putSuspicion { x with alive := addVoter x.alive voter }).settle
      else if vote = 2 then (s.putSuspicion { x with dead := addVoter x.dead voter }).settle
      else s
    | none =>
      if s.isLeader then
        (s.putLk { s.lookout with proposals := s.lookout.proposals.map fun (p : Proposal) =>
          if p.id = proposal ∧ vote = 3 then { p with accepts := addVoter p.accepts voter } else p }).settle
      else if vote = 3 ∧ voter = s.num Reg.lk.leader ∧ (s.num Reg.lk.domainState ≠ 1 ∨ s.majority ≤ s.unsuspected) then
        s.sendVote proposal 3
      else s

def execLkVote (hdr : LkHdr) (term proposal vote : Nat) (s : State) : Host.Outcome State Fault Refusal :=
  act s fun s => s.lkFrame 6 hdr fun s => s.takeVote hdr.srcSlot term proposal vote

/-- The leader decides DEAD on a split vote (R466). -/
def execVoteFallback (subjectGen : Nat) (s : State) : Host.Outcome State Fault Refusal :=
  act s fun s => match s.suspicion? subjectGen with
    | some x => match x.probing with
      | some r =>
        if s.isLeader ∧ s.num Reg.lk.domainState ≠ 1 ∧ r + s.num Reg.lkCfg.probeRings + 4 ≤ s.rc.ring ∧
            s.majority ≤ x.alive.length + x.dead.length ∧ x.alive.length < s.majority ∧ x.dead.length < s.majority then
          (s.decide_ (emptyDecision 2 x.slot x.gen) (x.alive ++ x.dead)).settle
        else s
      | none => s
    | none => s

/-! ### Decisions received (R464, R467) -/

/-- The decisions held for their turn are applied as the sequence reaches them. -/
def State.drainDecisions (s : State) : Nat → State
  | 0 => s
  | fuel + 1 => match s.lookout.waiting.find? fun d => d.seq == wrap 32 (s.num Reg.lk.decisionSeq + 1) with
    | none => s
    | some d =>
      let s := s.putLk { s.lookout with waiting := s.lookout.waiting.filter fun x => x.seq != d.seq }
      State.drainDecisions (s.applyDecision d) fuel

/-- A whole decision: applied in its turn; a gap is asked of the leader. -/
def State.orderDecision (s : State) (d : LkDecision) : State :=
  let next := wrap 32 (s.num Reg.lk.decisionSeq + 1)
  if d.seq = next then
    if s.lookout.waiting.isEmpty then s.applyDecision d else (s.applyDecision d).drainDecisions 64
  else if d.seq ≤ s.num Reg.lk.decisionSeq then s
  else
    let s := if s.lookout.waiting.any fun x => x.seq == d.seq then s
      else s.putLk { s.lookout with waiting := s.lookout.waiting ++ [d] }
    s.emit (.lkAsk (s.num Reg.lk.leader) next)

/-- A frame of a DECISION (R464): the current term, and three distinct council voters; a decision of several frames is whole
once all its entries are in. -/
def State.takeDecision (s : State) (d : LkDecision) : State :=
  let voters := (d.voters.filter fun v => v != 0xFFFF).eraseDups
  let joining := s.council.isEmpty
  if d.term < s.num Reg.lk.councilTerm ∨ voters.length < (if joining then 1 else s.majority) ∨
      !(joining || voters.all s.council.contains) then s
  else
    let s := s.seeTerm d.term
    let s := if joining ∧ s.num Reg.lk.decisionSeq + 1 < d.seq then s.setN Reg.lk.decisionSeq (d.seq - 1) else s
    let part := s.lookout.partials.find? fun p => p.seq == d.seq
    let all := match part with
      | some p => { d with list := p.list ++ d.list }
      | none => d
    let s := s.putLk { s.lookout with partials := s.lookout.partials.filter fun p => p.seq != d.seq }
    if all.list.length < d.count then s.putLk { s.lookout with partials := s.lookout.partials ++ [all] }
    else s.orderDecision all

/-- A DECISION frame with its outcome. -/
def State.decisionFrame (s : State) (h : LkHdr) (d : LkDecision) (outcome : Nat) : State :=
  s.lkFrame 7 h fun s => s.takeDecision { d with outcome := outcome }

def execDecisionAlive (hdr : LkHdr) (d : LkDecision) (s : State) : Host.Outcome State Fault Refusal :=
  act s fun s => s.decisionFrame hdr d 1
def execDecisionDead (hdr : LkHdr) (d : LkDecision) (s : State) : Host.Outcome State Fault Refusal :=
  act s fun s => s.decisionFrame hdr d 2
def execDecisionAdmit (hdr : LkHdr) (d : LkDecision) (s : State) : Host.Outcome State Fault Refusal :=
  act s fun s => s.decisionFrame hdr d 3
def execDecisionCoppiceStart (hdr : LkHdr) (d : LkDecision) (s : State) : Host.Outcome State Fault Refusal :=
  act s fun s => s.decisionFrame hdr d 4
def execDecisionSlotReady (hdr : LkHdr) (d : LkDecision) (s : State) : Host.Outcome State Fault Refusal :=
  act s fun s => s.decisionFrame hdr d 5
def execDecisionCoOpt (hdr : LkHdr) (d : LkDecision) (s : State) : Host.Outcome State Fault Refusal :=
  act s fun s => s.decisionFrame hdr d 6
def execDecisionEpochShift (hdr : LkHdr) (d : LkDecision) (s : State) : Host.Outcome State Fault Refusal :=
  act s fun s => s.decisionFrame hdr d 7
def execDecisionDomainHold (hdr : LkHdr) (d : LkDecision) (s : State) : Host.Outcome State Fault Refusal :=
  act s fun s => s.decisionFrame hdr d 8
def execDecisionResume (hdr : LkHdr) (d : LkDecision) (s : State) : Host.Outcome State Fault Refusal :=
  act s fun s => s.decisionFrame hdr d 9
def execDecisionOrphaned (hdr : LkHdr) (d : LkDecision) (s : State) : Host.Outcome State Fault Refusal :=
  act s fun s => s.decisionFrame hdr d 0x0A
def execDecisionDemote (hdr : LkHdr) (d : LkDecision) (s : State) : Host.Outcome State Fault Refusal :=
  act s fun s => s.decisionFrame hdr d 0x0B
def execDecisionScores (hdr : LkHdr) (d : LkDecision) (s : State) : Host.Outcome State Fault Refusal :=
  act s fun s => s.decisionFrame hdr d 0x0C

/-! ### Declarations -/

/-- VOID and ABSENT (R462): the declarer is REASSIGNED, and its takeover devices take its later steps over. -/
def State.declaredVoid (s : State) (h : LkHdr) : State :=
  let s := s.setMember h.generation 7
  (s.takeOver h.srcSlot h.generation (s.rc.ring + s.num Reg.lkConst.stopGuard)).lkRegs

/-- RESUME (R462): takeover of the declarer ends with the first epoch start that the declaration precedes by LOAD_GUARD. -/
def State.declaredResume (s : State) (h : LkHdr) (epoch : Nat) : State :=
  let s := s.setMember h.generation 5
  let guard := s.num Reg.sched.loadGuard
  match s.firstLaunch epoch 0 with
  | some r => s.dropTakeover h.srcSlot r
  | none => if s.rc.ring + guard ≤ s.nextStart then s.dropTakeover h.srcSlot s.nextStart else s

/-- The effect of a DECLARE (Table 15-3) of a kind. -/
def State.declared (s : State) (h : LkHdr) (what epoch step : Nat) : State :=
  match what with
  | 1 | 2 => s.declaredVoid h
  | 3 => s.declaredResume h epoch
  | 4 => (s.propose { emptyDecision 7 0xFFFF 0 with epoch := epoch }).settle
  | 5 => if s.inCouncil then (s.learnSuspicion h.srcSlot h.generation s.rc.ring).settle else s
  | 6 => (if s.isLeader then s.propose (emptyDecision 5 h.srcSlot h.generation) else s).settle
  | 7 =>
    let id := epoch * 2 ^ 32 + step
    let s := { s with sched := { s.sched with orphans := s.sched.orphans.filter fun x => x != id } }
    (s.checkResume).settle.lkRegs
  | 8 =>
    let s := s.putLk { s.lookout with members := s.lookout.members.map fun (m : Member) =>
      if m.gen = h.generation ∧ m.state = 2 then { m with state := 3 } else m }
    s.checkCoppice.settle
  | 9 => if 1 < s.serving.length then s.setN Reg.lk.domainState 1 else s
  | _ => s

def execDeclareVoid (hdr : LkHdr) (epoch step : Nat) (s : State) : Host.Outcome State Fault Refusal :=
  act s fun s => s.lkFrame 0x0A hdr fun s => s.declared hdr 1 epoch step
def execDeclareAbsent (hdr : LkHdr) (epoch step : Nat) (s : State) : Host.Outcome State Fault Refusal :=
  act s fun s => s.lkFrame 0x0A hdr fun s => s.declared hdr 2 epoch step
def execDeclareResume (hdr : LkHdr) (epoch step : Nat) (s : State) : Host.Outcome State Fault Refusal :=
  act s fun s => s.lkFrame 0x0A hdr fun s => s.declared hdr 3 epoch step
def execDeclareLoadLate (hdr : LkHdr) (epoch step : Nat) (s : State) : Host.Outcome State Fault Refusal :=
  act s fun s => s.lkFrame 0x0A hdr fun s => s.declared hdr 4 epoch step
def execDeclareIsolated (hdr : LkHdr) (epoch step : Nat) (s : State) : Host.Outcome State Fault Refusal :=
  act s fun s => s.lkFrame 0x0A hdr fun s => s.declared hdr 5 epoch step
def execDeclareCoppiceDone (hdr : LkHdr) (epoch step : Nat) (s : State) : Host.Outcome State Fault Refusal :=
  act s fun s => s.lkFrame 0x0A hdr fun s => s.declared hdr 6 epoch step
def execDeclareReingested (hdr : LkHdr) (epoch step : Nat) (s : State) : Host.Outcome State Fault Refusal :=
  act s fun s => s.lkFrame 0x0A hdr fun s => s.declared hdr 7 epoch step
def execDeclareVerifyDone (hdr : LkHdr) (epoch step : Nat) (s : State) : Host.Outcome State Fault Refusal :=
  act s fun s => s.lkFrame 0x0A hdr fun s => s.declared hdr 8 epoch step
def execDeclareHoldMembership (hdr : LkHdr) (epoch step : Nat) (s : State) : Host.Outcome State Fault Refusal :=
  act s fun s => s.lkFrame 0x0A hdr fun s => s.declared hdr 9 epoch step

/-- This device enters VOID or is absent at RUN_START (R462): it declares so and is REASSIGNED. -/
def State.declareAway (s : State) (what : Nat) : State :=
  if s.lkState ≠ 5 ∧ s.lkState ≠ 6 then s
  else
    let from_ := s.rc.ring + s.num Reg.lkConst.stopGuard
    let at_ := (s.stepFrom from_).getD (0, 0)
    let s := s.declare what at_.1 at_.2
    (s.setN Reg.lk.lkState 7).putLk { s.lookout with stopFrom := some from_, resumeSaid := none }

/-- A REASSIGNED device that is LOCKED again declares RESUME (R462). -/
def State.declareBack (s : State) : State :=
  if s.lkState ≠ 7 ∨ s.lookout.resumeSaid.isSome then s
  else
    let e := match s.sched.active with
      | some a => a.hdr.epoch + 1
      | none => (s.sched.next.map (·.hdr.epoch)).getD 0
    (s.declare 3 e 0).putLk { s.lookout with resumeSaid := some s.rc.ring }

/-! ### Joining (R440 to R442, R546) -/

/-- The UIDs of ROSTER. -/
def State.roster (s : State) : List Nat :=
  let b := s.blob Reg.council.roster
  (List.range (b.length / 8)).map fun i => leAt b (8 * i) 8

/-- A JOIN at a council member: refused, or admitted into its slot or as a spare by the leader's proposal. -/
def State.takeJoin (s : State) (uid slot : Nat) (capset : Bytes) : State :=
  if !s.inCouncil then s
  else if !s.roster.contains uid then s.refuse 0x2410 0xFF 0xFF
  else if s.lookout.members.any fun m => m.uid == uid && m.state != 9 then s.refuse 0x2402 0xFF 0xFF
  else if s.num Reg.lk.domainState = 1 then s.refuse 0x2412 0xFF 0xFF
  else
    let s := s.putLk { s.lookout with joins := (s.lookout.joins.filter fun j => j.1 != uid) ++ [(uid, capset)] }
    let free := decide (slot < 16384) && !(s.lookout.members.any fun m => m.slot == slot)
    ((s.propose { emptyDecision 3 (if free then slot else 0xFFFF) 0 with subjectUid := uid }).settle).ends 0x2400

def execLkJoin (hdr : LkHdr) (uid slot : Nat) (capset : Bytes) (s : State) : Host.Outcome State Fault Refusal :=
  act s fun s => s.lkFrame 8 hdr fun s => s.takeJoin uid slot capset

/-- JOIN_SEND: in start-up step 0x07, and every 10 s until admitted. A snag asks for no slot (R479). A device alone on its
roster decides alone (R445). -/
def State.joinSend (s : State) (slot : Nat) : State :=
  let due := decide (s.lkState ≠ 1) || decide (s.lookout.joinAt + 1000000000 ≤ s.now)
  if s.num Reg.lkCfg.domainId = 0 ∨ !(s.lkState == 0 || s.lkState == 1 || s.lkState == 9) ∨ s.rc.state ≠ .locked ∨
      !(s.num Reg.start.startState == 7 || s.num Reg.start.startState == 8) ∨ !due then s
  else
    let ask := if s.lkState = 9 then 0xFFFF else slot
    let s := s.lkSendAs 8 (beBytes 8 s.dev.uid ++ beBytes 2 ask ++ zeros 6 ++ s.blob Reg.cap.capsetDigest) false (some s.dev.uid) none
    let s := (if s.lkState = 9 then s else s.setN Reg.lk.lkState 1).putLk { s.lookout with joinAt := s.now }
    if s.roster = [s.dev.uid] ∧ s.lkState = 1 then
      let s := s.setN Reg.lk.councilTerm 1
      s.applyDecision { emptyDecision 3 ask 0 with term := 1, seq := 1, newGen := s.lookout.nextGen, subjectUid := s.dev.uid }
    else s

def execJoinSend (slot : Nat) (s : State) : Host.Outcome State Fault Refusal := act s fun s => s.joinSend slot

/-! ### Lateness (R486 to R488) -/

def execLkLate (hdr : LkHdr) (epoch step grains : Nat) (s : State) : Host.Outcome State Fault Refusal :=
  act s fun s => s.lkFrame 9 hdr fun s =>
    if s.isLeader then s.putLk { s.lookout with late := s.lookout.late ++ [⟨epoch, step, hdr.srcSlot, grains⟩] } else s

/-- DEVICE_SUSPECT, the first time a score reaches SUSPECT_SCORE; preemptive coppice follows (R487, R488). -/
def State.checkSuspects (s : State) : State :=
  let new := s.lookout.members.filter fun m =>
    m.slot != 0xFFFF && decide (s.num Reg.lkConst.suspectScore ≤ m.score) && !s.lookout.raised.contains m.uid
  let s := new.foldl (fun (s : State) (m : Member) =>
    (s.raise 0x2480 0xFF 0xFF (leBytes 2 m.slot ++ leBytes 2 m.score)).putLk { s.lookout with raised := s.lookout.raised ++ [m.uid] }) s
  s.checkCoppice.settle

/-- LATENESS_TALLY: STEP_PERIOD rings after a step's first launch instant, the latest devices score. -/
def State.latenessTally (s : State) (epoch step : Nat) : State :=
  match s.firstLaunch epoch step, s.sectionOf epoch with
  | some r, some (x, _) =>
    if !s.isLeader ∨ s.rc.ring < r + x.hdr.stepPeriod then s
    else
      let l := s.lookout.late.filter fun e => e.epoch == epoch && e.step == step
      let top := l.foldl (fun m e => max m e.grains) 0
      let worst := (l.filter fun e => e.grains == top).map (·.slot)
      let add := s.num Reg.lkConst.scoreStep
      (s.putLk { s.lookout with
        late := s.lookout.late.filter fun e => !(e.epoch == epoch && e.step == step)
        members := s.lookout.members.map fun (m : Member) =>
          if worst.contains m.slot && m.slot != 0xFFFF then { m with score := sat 16 (m.score + add) } else m }).checkSuspects
  | _, _ => s

def execLatenessTally (epoch step : Nat) (s : State) : Host.Outcome State Fault Refusal :=
  act s fun s => s.latenessTally epoch step

/-- SCORE_DECAY: at each multiple of SCORE_DECAY_RINGS the leader decays the scores and multicasts those not zero. -/
def State.scoreDecay (s : State) : State :=
  if !s.isLeader ∨ s.rc.ring % max 1 (s.num Reg.lkConst.scoreDecayRings) ≠ 0 then s
  else
    let s := s.putLk { s.lookout with members := s.lookout.members.map fun (m : Member) => { m with score := m.score * 15 / 16 } }
    let l := (s.holders.filter fun m => m.score != 0).map fun m => (m.slot, m.score)
    ((s.propose { emptyDecision 0x0C 0xFFFF 0 with count := l.length, list := l }).settle).checkSuspects

def execScoreDecay (s : State) : Host.Outcome State Fault Refusal := act s State.scoreDecay

/-- After a step, LATE goes to the leader with the largest DECK_LATE delay above LATE_GRAINS (R486): once none of this device's
fragments of the step waits to launch. -/
def State.sendLates (s : State) : State :=
  let over_ := fun (e k : Nat) => !(s.deck.entries.any fun d => d.key.epoch == e && d.key.step == k &&
      (d.state == .preparing || d.state == .ready)) && match s.firstLaunch e (k + 1) with
    | some r => decide (r ≤ s.rc.ring)
    | none => true
  let due := s.lookout.lateOwn.filter fun x => over_ x.1 x.2.1
  let s := s.putLk { s.lookout with lateOwn := s.lookout.lateOwn.filter fun x => !over_ x.1 x.2.1 }
  due.foldl (fun (s : State) x =>
    if x.2.2 ≤ s.num Reg.lkConst.lateGrains then s
    else if s.isLeader then s.putLk { s.lookout with late := s.lookout.late ++ [⟨x.1, x.2.1, s.mySlot, x.2.2⟩] }
    else s.lkTo 9 (beBytes 4 x.1 ++ beBytes 4 x.2.1 ++ beBytes 4 x.2.2) (s.num Reg.lk.leader)) s

/-! ### Snags (R477 to R479) -/

def execLkStatusQuery (hdr : LkHdr) (uid : Nat) (s : State) : Host.Outcome State Fault Refusal :=
  act s fun s => s.lkFrame 0x0B hdr fun s =>
    if !s.inCouncil then s
    else match s.lookout.members.find? fun m => m.uid == uid with
      | none =>
        s.lkSendAs 0x0C (beBytes 8 uid ++ beBytes 2 0xFFFF ++ [0, 0] ++ beBytes 4 0) false (some uid) (some hdr.srcSlot)
      | some m =>
        let st := if s.pairRevoked m.slot m.gen then 9 else m.state
        s.lkSendAs 0x0C (beBytes 8 uid ++ beBytes 2 m.slot ++ beBytes 1 st ++ zeros 1 ++ beBytes 4 m.gen) false (some uid)
          (some hdr.srcSlot)

def execLkStatusReply (hdr : LkHdr) (uid slot lkState generation : Nat) (s : State) : Host.Outcome State Fault Refusal :=
  act s fun s => s.lkFrame 0x0C hdr fun s =>
    let s := s.putLk { s.lookout with asked := false }
    if uid = s.dev.uid ∧ lkState = 9 ∧ generation = s.myGen ∧ slot = s.mySlot ∧ s.lkState ≠ 9 then s.becomeSnag else s

/-- A PLAIN FENCED that names this device's pair prompts a STATUS_QUERY, and changes no other state (R477). -/
def State.askStatus (s : State) (slot gen : Nat) : State :=
  if slot ≠ s.mySlot ∨ gen ≠ s.myGen ∨ s.myGen = 0 ∨ s.lookout.asked then s
  else
    let s := s.putLk { s.lookout with asked := true }
    s.lkCouncil 0x0B (beBytes 8 s.dev.uid)

def execLkFenced (_hdr : LkHdr) (slot generation : Nat) (s : State) : Host.Outcome State Fault Refusal :=
  act s fun s => (s.emit (.lkPlain slot generation)).askStatus slot generation

/-- SNAPSHOT: council state from the leader (R472). -/
def execLkSnapshot (hdr : LkHdr) (offset : Nat) (bytes : Bytes) (s : State) : Host.Outcome State Fault Refusal :=
  act s fun s => s.lkFrame 0x0D hdr fun s =>
    if !s.inCouncil ∨ hdr.srcSlot ≠ s.num Reg.lk.leader then s
    else
      let b := s.lookout.snapshot
      s.putLk { s.lookout with snapshot := b.take offset ++ zeros (offset - b.length) ++ bytes ++ b.drop (offset + bytes.length) }

/-- SPARE_VERIFY: an admitted spare has re-verified what it stores; a shard that failed is deleted (R479). -/
def execSpareVerify (failed : List Nat) (s : State) : Host.Outcome State Fault Refusal :=
  act s fun s =>
    if s.lkState ≠ 2 then s
    else
      let s := failed.foldl (fun (s : State) id => match s.shard? id with
        | some d => s.deleteShard d
        | none => s) s
      (s.setN Reg.lk.lkState 3).declare 8 0 0

/-! ### Other events -/

/-- R473: no decision on a suspicion within 256 rings of its SUSPECT_RING. -/
def execDecisionMissing (subjectGen : Nat) (s : State) : Host.Outcome State Fault Refusal :=
  act s fun s => match s.suspicion? subjectGen with
    | some x => if x.ring + 256 ≤ s.rc.ring ∧ 1 < s.serving.length then s.setN Reg.lk.domainState 1 else s
    | none => s

/-- R454: the halves of the Lookout engine disagree; SELF_FENCED is left only by reset. A stand whose master is fenced gets
another (R94). -/
def execLockstepFault (s : State) : Host.Outcome State Fault Refusal :=
  act s fun s =>
    let s := ((s.setN Reg.lk.lockstep 1).setN Reg.lk.lkState 0x0A).alert 7
    s.putStand { s.stand with driving := false }

/-- COUNCIL_RESEED (R475): five slots form a new council, which ends HOLD_MEMBERSHIP. -/
def State.councilReseed (s : State) (v : Bytes) : Except Nat State :=
  if v.length ≠ 10 then .error 0x2414
  else
    let s := (s.setB Reg.council.council (slotBytes (s.formCouncil (slotsOf v)))).reviewLeader
    let s := if s.num Reg.lk.domainState = 1 then s.setN Reg.lk.domainState (if s.lookout.hold.isSome then 2 else 0) else s
    let s := s.putLk { s.lookout with suspicions := s.lookout.suspicions.map fun (x : Suspicion) =>
      if x.probing.isNone && s.inCouncil && x.slot != s.mySlot then { x with probing := some s.rc.ring } else x }
    .ok s.settle.lkRegs

def execCouncilReseed (via : Via) (value : Bytes) (s : State) : Host.Outcome State Fault Refusal :=
  act s fun s => s.writeVia via 0x2410 5 value fun _ s => s.councilReseed value

/-! ### Coppice (R480 to R483) -/

/-- When a shard is next used: the earliest launch instant of a fragment or takeover of the slot whose extents read it. -/
def State.shardUse (s : State) (shard : Nat) : Option Nat :=
  let uses := s.loadedSections.flatMap fun (p : Section × Nat) =>
    let reads := fun (f : Fragment) => (p.1.extentsOf f).any fun e =>
      match s.sampleAt p.1.hdr.epoch e.position with
      | some r => r.shardId == shard
      | none => false
    ((p.1.fragments.filter reads).map fun f => instant (p.1.launchRing p.2 f) f.grain) ++
      ((p.1.takeovers.filter reads).map fun f => instant (p.1.takeoverRing p.2 f) f.grain)
  match uses with
  | [] => none
  | x :: l => some (l.foldl min x)

/-- A shard comes before another in order of next use; shards with no use follow in ascending SHARD_ID. -/
def useBefore (a b : Option Nat × Nat) : Bool :=
  match a.1, b.1 with
  | some x, some y => decide (x < y) || (x == y && decide (a.2 < b.2))
  | some _, none => true
  | none, some _ => false
  | none, none => decide (a.2 < b.2)

/-- Inserts a copy in order of next use. -/
def insertUse (x : Option Nat × CopyShard) : List (Option Nat × CopyShard) → List (Option Nat × CopyShard)
  | [] => [x]
  | y :: l => if useBefore (x.1, x.2.shard) (y.1, y.2.shard) then x :: y :: l else y :: insertUse x l

/-- A shard that the spare holds sealed. -/
def State.holdsSealed (s : State) (shard : Nat) : Bool :=
  match s.shard? shard with
  | some d => d.state == 3 || d.state == 4
  | none => false

/-- The shards of the slot, owned or partnered, each from the device with the other copy (R482). -/
def State.coppiceList (s : State) : List CopyShard :=
  let slot := s.mySlot
  let l := (s.loadedSections.flatMap (·.1.placements)).filter fun p => p.owner == slot || p.partner == slot
  let all := l.foldl (fun (acc : List (Option Nat × CopyShard)) (p : Placement) =>
    if acc.any fun x => x.2.shard == p.shardId then acc
    else insertUse (s.shardUse p.shardId, ⟨p.shardId, if p.owner = slot then p.partner else p.owner, 0⟩) acc) []
  all.map (·.2)

/-- The coppice registers and shard states follow the Yard; once every shard is sealed the spare declares COPPICE_DONE (R483). -/
def State.coppiceSettle (s : State) : State :=
  if s.lkState ≠ 4 ∨ s.lookout.coppice.isEmpty then s
  else
    let l := s.lookout.coppice.map fun (c : CopyShard) => if s.holdsSealed c.shard then { c with state := 2 } else c
    let was := s.lookout.coppice.all fun c => c.state == 2
    let s := s.putLk { s.lookout with coppice := l }
    let s := (s.setN Reg.coppice.coppiceTotal l.length).setN Reg.coppice.coppiceSealed (l.filter fun c => c.state == 2).length
    if !was && l.all (fun c => c.state == 2) then s.declare 6 0 0 else s

/-- COPPICE_SHARD_COPY: the next shard in order of use, while fewer than COPPICE_STREAMS are in copy. -/
def State.coppiceCopy (s : State) : State :=
  if s.lkState ≠ 4 then s
  else
    let s := if s.lookout.coppice.isEmpty then s.putLk { s.lookout with coppice := s.coppiceList } else s
    let s := s.coppiceSettle
    let busy := (s.lookout.coppice.filter fun c => c.state == 1).length
    if s.num Reg.lkCfg.coppiceStreams ≤ busy then s
    else match s.lookout.coppice.find? fun c => c.state == 0 with
      | none => s
      | some c =>
        (s.putLk { s.lookout with coppice := s.lookout.coppice.map fun (x : CopyShard) =>
          if x.shard = c.shard then { x with state := 1 } else x }).emit (.coppiceCopy c.source c.shard)

def execCoppiceShardCopy (s : State) : Host.Outcome State Fault Refusal := act s State.coppiceCopy

/-! ### Hooks of the ring, the epoch and the sections -/

/-- Lookout's work at grain 0 of a ring: heartbeats, probes, the hold's start (R471), late reports, DEMOTE (R488), coppice. -/
def State.lookoutRing (s : State) : State :=
  let s := s.sendHeartbeats.sendProbes
  let s := match s.lookout.hold with
    | some (e, k) => match s.firstLaunch e k with
      | some r => if r ≤ s.rc.ring ∧ (s.schedState = 3 ∨ s.schedState = 5) then s.setN Reg.sched.state 4 else s
      | none => s
    | none => s
  let s := s.sendLates
  let due := s.lookout.demote.filter fun d => d.2.2 ≤ s.rc.ring
  let s := due.foldl (fun (s : State) d => s.propose (emptyDecision 0x0B d.1 d.2.1)) s
  s.settle.coppiceSettle

/-- Lookout at an epoch start: its key epoch advances (R448), pairs stopped in HOLD_MEMBERSHIP run again (R475), a REASSIGNED
device resumes (R462), and takeovers of later steps join. -/
def State.lookoutEpoch (s : State) : State :=
  let s : State := s.setN Reg.lk.lkKeyEpoch (wrap 32 (s.num Reg.lk.lkKeyEpoch + 1))
  let s : State := if s.num Reg.lk.domainState = 1 then s else s.putLk { s.lookout with stopped := [] }
  let s : State := match s.lookout.resumeSaid with
    | some r => if s.lkState = 7 ∧ r + s.num Reg.sched.loadGuard ≤ s.rc.ring ∧ s.rc.state = .locked then
        (s.setN Reg.lk.lkState 5).putLk { s.lookout with stopFrom := none, resumeSaid := none }
      else s
    | none => s
  let e := (s.sched.active.map (·.hdr.epoch)).getD 0
  (s.putLk { s.lookout with
    attempts := s.lookout.attempts.filter fun a => e ≤ a.epoch
    served := s.lookout.served.filter fun v => e ≤ v.epoch }).activateAll

/-- Peers by PARTNER_SET and the placement lists of ACTIVE and NEXT, up to 32 (R443). -/
def State.setPeers (s : State) : State :=
  let stored := (match s.sched.active with | some a => [a] | none => []) ++ (match s.sched.next with | some n => [n] | none => [])
  let slots := (slotsOf (s.blob Reg.memb.partnerSet) ++
    stored.flatMap (fun x => x.placements.flatMap fun p => if p.owner = s.mySlot ∨ p.partner = s.mySlot then [p.owner, p.partner] else []) ++
    (if s.inCouncil then s.council else [])).eraseDups.filter fun x => x != s.mySlot && x != 0xFFFFFFFF && x != 0xFFFF
  let old := s.lookout.peers
  let new : List LkPeer := (slots.filter fun x => !(old.any fun p => p.slot == x)).filterMap fun x =>
    (s.member? x).map fun m => ⟨x, m.gen, false, 0, 0, 0⟩
  (s.putLk { s.lookout with peers := (old ++ new).take 32 }).lkRegs

/-- What Lookout lets launch (R452, R462, R463, R469, R471, R474): a fragment of this device or of a takeover, unless the device
or the step is stopped, or the pair has no server, or another device serves it. -/
def State.mayLaunch (s : State) (k : FragKey) : Bool :=
  let first := (s.firstLaunch k.epoch k.step).getD 0
  let lk := s.lkState
  let st := lk != 4 && lk != 6 && lk != 8 && lk != 9 && lk != 0x0A
  let stop := match s.lookout.stopFrom with
    | some r => decide (r ≤ first)
    | none => false
  let early := match s.lookout.resumeAt with
    | some (e, p) => k.orig.isNone && !stepGe k.epoch k.step e p
    | none => false
  let held := match s.lookout.hold with
    | some (e, p) => stepGe k.epoch k.step e p
    | none => false
  let pairHeld := s.lookout.served.any fun v => v.epoch == k.epoch && v.step == k.step && v.consumer == k.consumer &&
    v.server == 0xFFFF
  let taken := k.orig.isNone && s.lookout.served.any fun v => v.epoch == k.epoch && v.step == k.step && v.consumer == k.consumer &&
    v.replaced == s.mySlot && v.server != s.mySlot
  let stopped := s.lookout.stopped.any fun p => p.2.2 == k.consumer && stepGe k.epoch k.step p.1 p.2.1
  st && !stop && !early && !held && !pairHeld && !taken && !stopped && s.schedState != 4

end Sys2Proof.Machine
end

