-- ==== Sys2Proof/Machine/Launch.lean ====
section
/-! DEFINITION. Launch: the writes of a fragment (R98 to R102, R394, R395, R401, R417), the prefetch (R101), the retention end
(R249), and the Skidder packets that carry Lookout's frames and notices (R392, R447, R458). -/
namespace Sys2Proof.Machine

/-! ### Launch reports (R102) -/

/-- The causes of R102, in the order of its list. -/
inductive LateCause where
  | deckLate | refresh | void | linkDown | memoryFault
deriving DecidableEq, Repr

/-- The place of a cause in R102's list, from 1. -/
def LateCause.code : LateCause → Nat
  | .deckLate => 1 | .refresh => 2 | .void => 3 | .linkDown => 4 | .memoryFault => 5

/-- A fragment's launch report is given to Lookout once, with one cause; Lookout keeps the largest DECK_LATE delay of each
step (R486). -/
def State.launchReport (s : State) (k : FragKey) (cause : LateCause) (grains : Nat) : State :=
  if s.deck.reports.contains k then s
  else
    let s := s.putDeck { s.deck with reports := s.deck.reports ++ [k] }
    let s := s.emit (.launchReport k.step k.consumer cause.code grains)
    if cause ≠ .deckLate then s
    else
      let mine := fun (x : Nat × Nat × Nat) => x.1 == k.epoch && x.2.1 == k.step
      let was := largest ((s.lookout.lateOwn.filter mine).map fun x => x.2.2)
      s.putLk { s.lookout with
        lateOwn := (s.lookout.lateOwn.filter fun x => !mine x) ++ [(k.epoch, k.step, max was grains)] }

/-! ### The writes of a fragment (R394, R395, R401, R417) -/

/-- REMOTE_KEY of an attempt of a step on a DELIVERY connection: region 0 with the attempt and step, or the rkey of R417. -/
def Conn.deliveryKey (c : Conn) (slot step attempt : Nat) : Nat :=
  if c.roce then leAt c.rkeys (4 * (2 * slot + attempt)) 4 else attempt % 16384 * 65536 + step % 65536

/-- The extents of a fragment, with the place of each in the entry's bytes. -/
def placed : Nat → List Extent → List (Nat × Extent)
  | _, [] => []
  | n, e :: l => (n, e) :: placed (n + e.length) l

/-- The pieces of a fragment in send order: each extent cut at the MTU, none spanning two extents, as the remote offset within
the slot and the bytes. -/
def Conn.pieces (c : Conn) (base : Nat) (bytes : Bytes) (extents : List Extent) : List (Nat × Bytes) :=
  (placed 0 extents).flatMap fun p =>
    (cutBytes c.mtu (p.2.length + 1) 0 (bytesAt bytes p.1 p.2.length)).map fun q => (base + p.2.consumerOffset + q.1, q.2)

/-- The packets of a fragment: the last is the flagged WRITE_IMM. A PATH_MASK with no bit set names no label: R402 then gives
each packet one. -/
def State.fragPkts (s : State) (c : Conn) (e : DeckEntry) (x : Section) : List TxPkt :=
  let f := e.frag
  let slot := f.step % max 1 x.hdr.bufferSlots
  let base := slot * c.slotBytes + f.consumerOffset
  let l := c.pieces base (s.entryBytes e) (x.extentsOf f)
  let n := (bitsOf 64 f.pathMask).length
  (l.zip (List.range l.length)).map fun p =>
    let fin := p.2 + 1 == l.length
    { c.packet (if fin then 2 else 1) with
      ackReq := fin
      label := if n = 0 then none else some (labelAt f.pathMask ((f.step + f.consumer) % n + p.2))
      msgId := c.nextMsg
      ext := some ⟨c.deliveryKey slot f.step e.attempt, f.length, p.1.1, if fin then e.immediate else 0⟩
      payload := p.1.2
      deck := some e.key
      attempt := e.attempt
      first := true
      head := p.2 == 0 }

/-- A fragment's writes go to its port, to start at once (R99), or after every frame due if it is launched in a new attempt
(R457); the entry is SENT and the Skidder's (R316). A launch after the retention end moves that end with it (R249). -/
def State.sendFragment (s : State) (c : Conn) (e : DeckEntry) (x : Section) : State :=
  let l := s.fragPkts c e x
  let op : NetOp := ⟨c.nextMsg, .fragment e.key, 0, [], false, false, false, [], 0, 0, some e.immediate⟩
  let s := s.putConn { c with nextMsg := wrap 32 (c.nextMsg + 1), ops := c.ops ++ [op] }
  let y := s.portTx c.port
  let s := s.putPortTx c.port (if e.renewed then { y with renew := y.renew ++ [l] } else { y with due := y.due ++ [l] })
  let s := s.putEntry { e with
    state := .sent, unacked := l.length, prefetched := true
    retain := if e.retain ≤ s.rc.ring then e.retain + (s.rc.ring - e.ring) else e.retain }
  ((s.unitPass e.mem 0x8000).bump Reg.launch.launches).bump Reg.buck.flaggedWrites

/-! ### FRAGMENT_LAUNCH -/

/-- The lateness of a launch: its counters and its report (R30, R101, R102); a relaunch has none (R457). -/
def State.countLate (s : State) (e : DeckEntry) (hold : Nat) : State :=
  if e.renewed then s
  else
    let behind := s.nowGrain - instant e.ring e.grain
    let held := min 40 hold
    let delay := behind + held
    let s := s.setN Reg.launch.maxLateGrains (max (s.num Reg.launch.maxLateGrains) (sat 32 delay))
    let told := s.deck.reports.contains e.key
    if 5 < behind then (s.bumpIf (!told) Reg.launch.lateDeck).launchReport e.key .deckLate delay
    else if 0 < held then
      let s := s.bump Reg.launch.lateRefresh
      if 5 < delay then s.launchReport e.key .refresh delay else s
    else s

/-- A READY fragment is launched at its instant, or as soon as it completes (R30); `hold` is by how many grains an HBM refresh
holds its fetch past the launch grain (R101). Nothing is launched in part. Poisoned memory and a port that is down withhold it
with their cause, and what Lookout withholds has no report (R102). -/
def State.launch (s : State) (k : FragKey) (hold : Nat) : State :=
  match s.entry? k, s.sectionOf k.epoch, s.delivery k.consumer with
  | some e, some (x, _), some c =>
    if e.state ≠ .ready ∨ s.nowGrain < instant e.ring e.grain ∨ ¬(s.schedState = 3 ∨ s.schedState = 5) ∨
        !s.mayLaunch k ∨ (c.roce ∧ 2 ≤ e.attempt) then s
    else if s.bufPoisoned e.mem 0 e.frag.length then
      if s.deck.reports.contains k then s
      else (s.raise 0x3480 0xFF 0xFF (leBytes 4 k.epoch ++ leBytes 4 k.step ++ leBytes 4 k.consumer)).launchReport k .memoryFault 0
    else if !s.flag (Reg.portStat.linkUp c.port) then
      if e.renewed then s else s.launchReport k .linkDown 0
    else (s.countLate e hold).sendFragment c e x
  | _, _, _ => s

def execFragmentLaunch (key : FragKey) (refreshHold : Nat) (s : State) : Host.Outcome State Fault Refusal :=
  live s fun s => s.launch key refreshHold

/-- LAUNCH_PREFETCH grains before its launch, the first 4 KiB of a READY fragment are fetched (R101). -/
def State.prefetch (s : State) (k : FragKey) : State :=
  match s.entry? k with
  | some e =>
    if e.state ≠ .ready ∨ s.nowGrain + s.num Reg.launch.launchPrefetch < instant e.ring e.grain then s
    else s.putEntry { e with prefetched := true }
  | none => s

def execLaunchPrefetch (key : FragKey) (s : State) : Host.Outcome State Fault Refusal := live s fun s => s.prefetch key

/-- RETENTION_END: an entry RETAINED is freed; one SENT is freed with its writes abandoned; one READY stays (R249). -/
def State.retention (s : State) (k : FragKey) : State :=
  match s.entry? k with
  | some e =>
    if s.rc.ring < e.retain then s
    else match e.state with
      | .retained => s.freeEntry e
      | .sent =>
        (((s.cancelWrites k).add Reg.key.abandonedWrites e.unacked).emit (.deliveryFailure k e.unacked)).freeEntry e
      | _ => s
  | none => s

def execRetentionEnd (key : FragKey) (s : State) : Host.Outcome State Fault Refusal := live s fun s => s.retention key

/-! ### Lookout's frames and notices on the data network (R392, R447, R458) -/

/-- A Lookout frame is given to the command that its KIND stands for. -/
def State.lkBody (s : State) (h : LkHdr) : LkBody → Host.Outcome State Fault Refusal
  | .heartbeat g st ok tx rx l => execLkHeartbeat h g st ok tx rx l s
  | .suspect a b c => execLkSuspect h a b c s
  | .abort a => execLkAbort h a s
  | .probe a b c => execLkProbe h a b c s
  | .probeReply a b c => execLkProbeReply h a b c s
  | .vote a b c => execLkVote h a b c s
  | .decision d => .next (s.decisionFrame h d d.outcome)
  | .join a b c => execLkJoin h a b c s
  | .late a b c => execLkLate h a b c s
  | .declare a b c => .next (s.declared h a b c)
  | .statusQuery a => execLkStatusQuery h a s
  | .statusReply a b c d => execLkStatusReply h a b c d s
  | .snapshot a b => execLkSnapshot h a b s
  | .fenced a b => execLkFenced h a b s

/-- What the Skidder hands over to Lookout. -/
def lookoutTakes (s : State) (b : SkdBody) (conn : Nat) : State :=
  match b with
  | .lookout f => match s.lkBody f.hdr f.body with
    | .next t => t
    | _ => s
  | .lkNotice n => s.emit (.lookoutNotice conn n)
  | _ => s

def execSkdLookoutRx (pkt : SkdRx) (frame : LkFrame) (s : State) : Host.Outcome State Fault Refusal :=
  live s fun s => s.receive lookoutTakes pkt (.lookout frame)

def execNoticeLookout (pkt : SkdRx) (notice : LkNotice) (s : State) : Host.Outcome State Fault Refusal :=
  live s fun s => s.receive lookoutTakes pkt (.lkNotice notice)

/-- A PLAIN FENCED notice carries the pair it fences; naming this device's own pair it prompts a STATUS_QUERY (R392, R477). -/
def fencedTakes (slot gen : Nat) (s : State) (_ : SkdBody) (_ : Nat) : State := s.askStatus slot gen

def execNoticeFenced (pkt : SkdRx) (s : State) : Host.Outcome State Fault Refusal :=
  live s fun s => s.receive (fencedTakes (beAt pkt.payload 8 2) (beAt pkt.payload 10 4)) pkt .plainFenced

/-- A frame or packet that reordering held is sent or delivered after FI_REORDER_NS (R419). -/
def State.releaseHeld (s : State) (port : Nat) : State :=
  let f := s.skd.fiHeld.find? fun f => f.port == port
  match f with
  | some f => (s.putSkd { s.skd with fiHeld := s.skd.fiHeld.erase f }).emit (.frame f)
  | none => match s.skd.rxHeld.find? fun p => p.1.port == port with
    | none => s
    | some p =>
      let s := s.putSkd { s.skd with rxHeld := s.skd.rxHeld.erase p }
      s.handle (fun s b n => match b with
        | .plainFenced => fencedTakes (beAt p.1.payload 8 2) (beAt p.1.payload 10 4) s b n
        | b => lookoutTakes s b n) p.1 p.2

def execFiReorderRelease (port : Nat) (s : State) : Host.Outcome State Fault Refusal := live s fun s => s.releaseHeld port

end Sys2Proof.Machine
end

