-- ==== Sys2Proof/Machine/Stand.lean ====
section
/-! DEFINITION. The stand (R91 to R97): links, formation, mastership, heartbeats and the barrier. -/
namespace Sys2Proof.Machine

/-! ### Links and formation (R92) -/

/-- The bit of a stand-ring link in RING_LINKS. -/
def linkBit (east : Bool) : Nat := if east then 0 else 1

/-- A ring link trains: the first one opens the formation window, and HELLO goes to the neighbour. -/
def State.linkUp (s : State) (east : Bool) : State :=
  let x := { s.stand with links := setBit s.stand.links (linkBit east) }
  let x := if x.windowOpenAt.isNone && x.state == .none then
      { x with windowOpenAt := some s.now, state := .forming } else x
  (s.putStand x).standRegs.emit (.stand (.hello s.standId s.dev.uid))

def execRingLinkUp (east : Bool) (s : State) : Host.Outcome State Fault Refusal := live s fun s => if s.portsMayRise then s.linkUp east else s

/-- The master aborts a barrier whose members it lost (R97). -/
def State.abortLost (s : State) (n : Nat) : State :=
  (s.emit (.stand (.abort n true))).standAborted n 0x2213

/-- The barriers that this device runs or waits at. -/
def Stand.pendingBarriers (x : Stand) : List Nat :=
  (x.barriers.map (·.number) ++ x.waiting.map (·.barrier)).eraseDups

/-- The stand loses members: the master aborts the pending barriers, and the lowest qualifying member announces itself
where the master is among them (R94, R97). -/
def State.loseMembers (s : State) (lost : List Nat) : State :=
  let x := s.stand
  if (x.members.filter lost.contains).isEmpty then s
  else
    let led := x.state == .master || lost.contains x.masterId
    let s := (s.putStand { x with
      members := x.members.filter fun m => !lost.contains m
      silentRings := x.silentRings.filter fun p => !lost.contains p.1 }).standRegs
    let s := if lost.contains x.masterId && s.shouldLead then s.announce else s
    if led && s.stand.state == .master then s.stand.pendingBarriers.foldl (fun s n => s.abortLost n) s else s

/-- A ring link fails: messages go the other way round, and with both down no other member is reachable (R94). -/
def State.linkDown (s : State) (east : Bool) : State :=
  let s := (s.putStand { s.stand with links := clearBit s.stand.links (linkBit east) }).standRegs
  if s.stand.links = 0 ∧ s.inStand then s.loseMembers (s.stand.members.filter fun m => m != s.standId) else s

def execRingLinkDown (east : Bool) (s : State) : Host.Outcome State Fault Refusal := live s fun s => s.linkDown east

/-- Inserts a number into a rising list without repeats. -/
def insertId (n : Nat) : List Nat → List Nat
  | [] => [n]
  | m :: l => if n < m then n :: m :: l else if n = m then m :: l else m :: insertId n l

/-- The first barrier that the master has yet to number. -/
def Stand.nextNumber (x : Stand) : Nat := (x.barriers.map fun b => b.number + 1).foldl max x.nextBarrier

/-- A formed stand admits a device that relocked: it takes part from the first barrier numbered afterwards (R528). -/
def State.admitMember (s : State) (m : Nat) : State :=
  let x := s.stand
  if x.members.contains m then s
  else ((s.putStand { x with
    members := insertId m x.members
    silentRings := (x.silentRings.filter fun p => p.1 != m) ++ [(m, 0)]
    joined := (x.joined.filter fun p => p.1 != m) ++ [(m, x.nextNumber)] }).standRegs)

/-- A HELLO is noted within the window, or admits its sender to a formed stand (R528), and is relayed around the ring. -/
def State.standHello (s : State) (m uid : Nat) : State :=
  if uid = s.dev.uid then s
  else if s.inStand then
    if s.stand.members.contains m then s else (s.admitMember m).emit (.stand (.hello m uid))
  else if s.stand.state ≠ .forming then s
  else
    let h : Hello := ⟨m, uid⟩
    if s.stand.hellos.contains h then s
    else (s.putStand { s.stand with hellos := s.stand.hellos ++ [h] }).emit (.stand (.hello m uid))

def execStandHello (standId uid : Nat) (s : State) : Host.Outcome State Fault Refusal :=
  live s fun s => s.standHello standId uid

/-- Whether two members carry one STAND_ID. -/
def State.idConflict (s : State) : Bool :=
  let ids := s.standId :: s.stand.hellos.map (·.standId)
  ids.eraseDups.length != ids.length

/-- The stand forms with the members heard, numbering barriers from 0, and its lowest qualifying member leads (R93). -/
def State.formStand (s : State) : State :=
  let members := (s.stand.hellos.map (·.standId)).foldl (fun l m => insertId m l) [s.standId]
  let s := (s.putStand { s.stand with
    state := .member, members := members, masterId := 0xFF, nextBarrier := 0, barriers := [], waiting := [], joined := []
    silentRings := (members.filter fun m => m != s.standId).map fun m => (m, 0) }).standRegs
  if s.shouldLead then s.announce else s

/-- The end of the formation window: FORM_WINDOW_MS after the first link came up; a device with no link ends it at
once (Table 3-11). -/
def State.formWindowEnd (s : State) : State :=
  let ended := match s.stand.windowOpenAt with
    | some t => s.stand.state == .forming && t + s.num Reg.stand.formWindowMs * 100000 ≤ s.now
    | none => s.stand.state == .none && s.stand.members.isEmpty
  if !ended then s
  else if s.idConflict then (s.putStand { s.stand with state := .conflict }).standRegs
  else s.formStand

def execFormWindowEnd (s : State) : Host.Outcome State Fault Refusal := live s State.formWindowEnd

/-- Loss of root lock: the device disarms and leaves the stand (R527, R547). -/
def State.leaveStand (s : State) : State :=
  if !s.inStand then s
  else
    let s := s.stand.pendingBarriers.foldl (fun (s : State) n => s.standAborted n 0x2213) s
    (s.putStand { s.stand with
      state := .none, driving := false, armedBarrier := none, barriers := []
      masterId := if s.stand.masterId = s.standId then 0xFF else s.stand.masterId }).standRegs

/-- After relock the device says HELLO and is a member again (R528). -/
def State.rejoinStand (s : State) : State :=
  if s.stand.state = .none ∧ s.stand.members ≠ [] then
    let s := ((s.putStand { s.stand with
      state := .member, silentRings := s.stand.silentRings.map fun p => (p.1, 0) }).standRegs).emit
      (.stand (.hello s.standId s.dev.uid))
    if s.stand.members = [s.standId] ∧ s.shouldLead then s.announce else s
  else s

/-! ### Mastership and heartbeats (R93, R94) -/

/-- A MASTER announcement: the highest term is accepted, and between equal terms the lower STAND_ID. -/
def State.standMaster (s : State) (m term : Nat) : State :=
  if !s.inStand || !s.stand.members.contains m then s
  else
    let s := s.putStand { s.stand with topTerm := max s.stand.topTerm term }
    if term > s.stand.term ∨ (term = s.stand.term ∧ m < s.stand.masterId) then s.acceptMaster m term else s

def execStandMaster (standId term : Nat) (s : State) : Host.Outcome State Fault Refusal :=
  live s fun s => s.standMaster standId term

/-- A stand heartbeat: its member is not silent; one whose lockstep pair failed no longer qualifies, and where it was
the master the next member announces itself. -/
def State.standHeartbeat (s : State) (m : Nat) (healthy : Bool) : State :=
  let x := s.stand
  if !s.inStand || !x.members.contains m || m == s.standId then s
  else
    let s := s.putStand { x with
      silentRings := x.silentRings.map fun p => if p.1 = m then (m, 0) else p
      unhealthy := if healthy then x.unhealthy.filter fun u => u != m else insertId m x.unhealthy }
    if !healthy && x.masterId == m && s.shouldLead then s.announce else s

def execStandHeartbeat (standId : Nat) (healthy : Bool) (s : State) : Host.Outcome State Fault Refusal :=
  live s fun s => s.standHeartbeat standId healthy

/-- How many rings a member has been silent. -/
def Stand.silence (x : Stand) (m : Nat) : Nat := ((x.silentRings.find? fun p => p.1 == m).map (·.2)).getD 0

/-- The master missed for 2 rings is lost to the stand. -/
def State.masterMissed (s : State) : State :=
  if s.stand.state == .member && 2 ≤ s.stand.silence s.stand.masterId then s.loseMembers [s.stand.masterId] else s

def execMasterMissed (s : State) : Host.Outcome State Fault Refusal := live s State.masterMissed

/-- What the stand unit does each ring: the heartbeat goes out, every other member is a ring more silent (one silent
for 2 rings that is not the master is lost), and a new master counts off the 2 rings before its first ARM. A device
whose lockstep pair failed stops driving STAND_SYNC. -/
def State.standRing (s : State) : State :=
  if !s.inStand then s
  else
    let s := if s.stand.members.length > 1 && s.pllLocked then s.emit (.stand (.heartbeat s.standId)) else s
    let x := s.stand
    let s := s.putStand { x with
      silentRings := x.silentRings.map fun p => (p.1, p.2 + 1)
      armHold := x.armHold - 1
      driving := x.driving && s.lockstepOk && s.pllLocked }
    let lost := s.stand.members.filter fun m => m != s.stand.masterId && 2 < s.stand.silence m
    let s := s.loseMembers lost
    if s.stand.armHold = 0 ∧ x.armHold = 1 then
      (s.stand.barriers.map (·.number)).foldl (fun s n => s.tryArm n) s
    else s

/-! ### The barrier (R95 to R97) -/

def execBarrierArrive (standId barrier : Nat) (s : State) : Host.Outcome State Fault Refusal :=
  live s fun s =>
    if s.stand.state == .master && s.stand.members.contains standId then s.masterArrive standId barrier else s

def execBarrierArm (barrier term : Nat) (s : State) : Host.Outcome State Fault Refusal :=
  live s fun s =>
    if s.inStand && term == s.stand.term then
      ((s.putStand { s.stand with
        armedBarrier := some (barrier, term), nextBarrier := max s.stand.nextBarrier (barrier + 1) }).standRegs).emit
        (.stand (.armed barrier))
    else s

/-- ARMED(n) from a member reaches the master, which drives the pulse once all are in. -/
def State.masterArmed (s : State) (m n : Nat) : State :=
  match s.stand.barrier? n with
  | none => s
  | some b =>
    if b.armed.contains m then s
    else (s.putStand (s.stand.putBarrier { b with armed := b.armed ++ [m] })).tryPulse n

def execBarrierArmed (standId barrier : Nat) (s : State) : Host.Outcome State Fault Refusal :=
  live s fun s =>
    if s.stand.state == .master && s.stand.members.contains standId then s.masterArmed standId barrier else s

def execStandSyncEdge (s : State) : Host.Outcome State Fault Refusal :=
  live s fun s =>
    match s.takeArmed with
    | some _ => s.standRelease
    | none => s.bump Reg.stand.spuriousSync

/-- The master aborts a barrier not released in time and reports the members that did not arrive. -/
def State.barrierTimeout (s : State) (n : Nat) : State :=
  match s.stand.barrier? n with
  | none => s
  | some b =>
    if s.stand.state == .master && b.firstRing + s.num Reg.stand.barrierTimeout ≤ s.rc.ring then
      let late := s.stand.members.filter fun m => !b.arrived.contains m
      let s := (s.emit (.stand (.abort n false))).emit (.late late)
      s.standAborted n 0x2211
    else s

def execBarrierTimeout (barrier : Nat) (s : State) : Host.Outcome State Fault Refusal :=
  live s fun s => s.barrierTimeout barrier

def execBarrierAbort (barrier : Nat) (memberLost : Bool) (s : State) : Host.Outcome State Fault Refusal :=
  live s fun s => if s.inStand then s.standAborted barrier (if memberLost then 0x2213 else 0x2211) else s

end Sys2Proof.Machine
end

