-- ==== Sys2Proof/Machine/RingCount.lean ====
section
/-! DEFINITION. The ring count (R77 to R89, R601): counting from REFCLK, the servo, the states of Table 3-2, the causes of
VOID, the cross-check against peers, and all that happens at grain 0 of a ring. -/
namespace Sys2Proof.Machine

def State.putRc (s : State) (x : RingCount) : State := { s with rc := x }

/-- VOID_CAUSE: the most recently set cause that is still set (R601). -/
def RingCount.voidCause (x : RingCount) : Nat :=
  match x.causes with
  | [] => 0
  | c :: _ => c.code

/-- The entries of 0x2100 and 0x2102 that follow the unit. RING_NOW, GRAIN_NOW and TAI_NOW are read from the count itself. -/
def State.rcRegs (s : State) : State :=
  let x := s.rc
  let s := s.setN Reg.rc.rcState x.state.code
  let s := s.setN Reg.rc.rateCorr (i32Bits x.rateCorr)
  let s := s.setN Reg.rc.offsetNs (i32Bits x.offsetNs)
  let s := s.setN Reg.rc.voidCause x.voidCause
  let s := s.setN Reg.xchk.peerMedianGrains (i32Sat (x.median.tdiv 655360))
  s.setN Reg.xchk.peersUsed x.peersUsed

/-- START_STATE LOCAL ends with RC_STATE LOCKED and the stand's formation over, and JOINING once the domain took the
device in; READY sets START_MS (Table 17-9). -/
def State.startSettle (s : State) : State :=
  let formed := s.stand.state == .member || s.stand.state == .master || s.stand.state == .conflict
  let s := if s.startState = 6 ∧ s.rc.state = .locked ∧ formed then s.startStep 7 else s
  let joined := s.num Reg.lkCfg.domainId == 0 || s.lkState == 3 || s.lkState == 5
  if s.startState = 7 ∧ joined then
    (s.startStep 8).setN Reg.start.startMs (wrap 32 ((s.now - s.pwr.startAt) / 100000))
  else s

/-! ### Counting from REFCLK (R79, R80) -/

/-- The clamp of RATE_CORR: 500 ppm (R80). -/
def rateClamp : Int := 549756000

/-- A number clamped to plus or minus `c`. -/
def clampTo (c z : Int) : Int := max (-c) (min z c)

/-- One REFCLK cycle: `grain_tick`, and a slew in progress counts down (R80, R86). -/
def RingCount.tick (x : RingCount) : RingCount :=
  let acc := x.acc + x.rateCorr
  let one : Int := 2 ^ 40
  let up := decide (one ≤ acc)
  let acc := if up then acc - one else acc
  let down := decide (acc ≤ -one)
  let acc := if down then acc + one else acc
  let pending := x.pending + (if up then 1 else 0) - (if down then 1 else 0)
  let slewed := x.slewTicks == 1
  { x with
    acc := acc, pending := pending, cyc := x.cyc + 1, upCycles := x.upCycles + 1
    sinceSync := x.sinceSync.map (· + 1)
    slewTicks := x.slewTicks - 1
    rateCorr := if slewed then x.slewBack else x.rateCorr }

/-- Several REFCLK cycles. -/
def RingCount.ticks : Nat → RingCount → RingCount
  | 0, x => x
  | n + 1, x => RingCount.ticks n x.tick

/-- `ring_begin`: the next ring, its length decided from the slips that are due (R80). -/
def RingCount.next (x : RingCount) : RingCount :=
  let x := { x with ring := wrap 64 (x.ring + 1), cyc := 0 }
  if 0 < x.pending then { x with len := 1025, pending := x.pending - 1 }
  else if x.pending < 0 then { x with len := 1023, pending := x.pending + 1 }
  else { x with len := 1024 }

/-! ### VOID (R88, R601) -/

/-- A cause of VOID arises: the device enters VOID, raises TIMING_VOID and declares it to Lookout (R88, R462). -/
def State.enterVoid (s : State) (c : VoidCause) : State :=
  let s := s.putRc { s.rc with causes := [c] ++ s.rc.causes.filter fun d => d != c }
  if s.rc.state = .void then s.rcRegs
  else
    let s := if s.rc.state = .locked then s.calendarLeave else s
    let s := (s.putRc { s.rc with state := .void, outlierRun := 0, gmRun := 0, outlierClear := 0, gmClear := 0 }).rcRegs
    (s.raise 0x2109 0xFF 0xFF (leBytes 1 c.code)).declareAway 1

/-- A cause clears. -/
def State.clearCause (s : State) (c : VoidCause) : State :=
  (s.putRc { s.rc with causes := s.rc.causes.filter fun d => d != c }).rcRegs

/-- REFCLK cycles of a Sync interval of 2^LOG_SYNC_INTERVAL seconds. -/
def State.syncInterval (s : State) : Nat := 100000000 / 2 ^ (-(i32Val (s.num Reg.ptp.logSyncInterval))).toNat

/-- PTP is valid: a valid Sync within the last 3 Sync intervals (R601). -/
def State.ptpValid (s : State) : Bool :=
  match s.rc.sinceSync with
  | none => false
  | some n => n ≤ 3 * s.syncInterval

/-- An epoch start lets a device whose causes have cleared leave VOID for ACQUIRING (R85, R601). -/
def State.leaveVoid (s : State) : State :=
  if s.rc.state = .void ∧ s.rc.causes = [] ∧ s.ptpValid then
    (s.putRc { s.rc with state := .acquiring, okRun := 0 }).rcRegs
  else s

/-! ### The servo (R84, R86) -/

/-- A value of an i64: integer arithmetic wraps at its width (Table 0-4). -/
def i64 (z : Int) : Int := if z % 2 ^ 64 < 2 ^ 63 then z % 2 ^ 64 else z % 2 ^ 64 - 2 ^ 64

/-- `servo` (R84), in exact integers with division toward zero. -/
def RingCount.servo (x : RingCount) (kp ki : Nat) (off : Int) : RingCount :=
  let integ := i64 (x.integ + off)
  let ppb := i64 ((kp : Int) * off + (ki : Int) * integ)
  let rc := i64 (x.baseCorr + (i64 (ppb * 2 ^ 40)).tdiv 1000000000)
  { x with integ := integ, rateCorr := clampTo rateClamp rc }

/-- The integral folds into base_corr at an entry to LOCKED (R84). -/
def RingCount.fold (x : RingCount) (ki : Nat) : RingCount :=
  { x with baseCorr := i64 (x.baseCorr + (i64 ((ki : Int) * x.integ * 2 ^ 40)).tdiv 1000000000), integ := 0 }

/-- A slew at the clamped rate until the offset is gone or the next Sync comes (R86). -/
def RingCount.slew (x : RingCount) (off : Int) : RingCount :=
  { x with
    rateCorr := if 0 < off then rateClamp else -rateClamp
    slewBack := x.rateCorr
    slewTicks := (off.natAbs * 2 ^ 40 / 10) / 549756000 + 1 }

/-- A slew in progress ends. -/
def RingCount.endSlew (x : RingCount) : RingCount :=
  if x.slewTicks = 0 then x else { x with rateCorr := x.slewBack, slewTicks := 0 }

/-- RING_COUNT_STEP (R86): the ring count and grain take the values of a TAI time; the window of R510 in progress is
discarded. The step is recorded whether or not a run is in progress. -/
def State.stepRing (s : State) (tai : Nat) (off : Int) : State :=
  let grain : Nat := tai % 10240 / 10
  let s := s.putRc { s.rc with
    ring := wrap 64 (tai / 10240), cyc := grain, len := 1024, integ := 0, okRun := 0 }
  let s := s.touch Reg.rc.ringNow
  let s := s.putPwr { s.pwr with windowWhole := false, windowSum := 0, windowCount := 0 }
  let r : JRecord := ⟨0x0020, false, s.rc.ring, s.grain, 0, s.sched.jseq, leBytes 4 (i32Bits off) ++ leBytes 4 (i32Bits s.rc.rateCorr)⟩
  { s with sched := { s.sched with
    jseq := wrap 32 (s.sched.jseq + 1)
    current := { s.sched.current with records := s.sched.current.records ++ [r] } } }.add Reg.replay.journalUsed r.size

/-- RC_STATE becomes LOCKED (R84, R580, R462). -/
def State.becomeLocked (s : State) : State :=
  let s := (s.putRc { s.rc.fold (s.num Reg.ptp.ki) with state := .locked, outlierRun := 0, gmRun := 0 }).rcRegs
  s.calendarLock.declareBack.startSettle

/-- A Sync in HOLDOVER: LOCKED within 50 ns, VOID beyond (Table 3-2). -/
def State.resumeSync (s : State) (off : Int) : State :=
  if s.rc.state ≠ .holdover then s
  else if off.natAbs ≤ 50 then s.becomeLocked
  else s.enterVoid .holdoverExpired

/-- PTP_SYNC: the offset measured, less ASYM_NS (R82), then Tables 3-2 and 3-3 and the servo (R84 to R86). -/
def State.ptpSync (s : State) (measured : Int) (tai : Nat) : State :=
  if !s.flag Reg.ptp.ptpEnable then s
  else
    let off := measured - i32Val (s.num Reg.ptp.asymNs)
    let s := s.putRc { s.rc.endSlew with sinceSync := some 0, offsetNs := clampTo (2 ^ 31 - 1) off }
    let s := s.clearCause .holdoverExpired
    if s.rc.state = .unset then
      (((s.stepRing tai off).putRc { (s.stepRing tai off).rc with state := .acquiring })).rcRegs
    else
      let s := s.resumeSync off
      if s.num Reg.ptp.stepThresholdNs < off.natAbs then
        if s.inRun then
          let s := s.enterVoid .stepWithheld
          (s.putRc { s.rc.slew off with okRun := 0 }).rcRegs
        else (s.stepRing tai off).rcRegs
      else
        let s := s.clearCause .stepWithheld
        let x := s.rc.servo (s.num Reg.ptp.kp) (s.num Reg.ptp.ki) off
        let run := if s.rc.state = .acquiring ∧ off.natAbs ≤ 20 then x.okRun + 1 else 0
        let s := (s.putRc { x with okRun := run }).rcRegs
        s.journal 0x0020 0 false (leBytes 4 (i32Bits off) ++ leBytes 4 (i32Bits s.rc.rateCorr))

def execPtpSync (offsetNs : Int) (tai : Nat) (s : State) : Host.Outcome State Fault Refusal :=
  act s fun s => s.ptpSync offsetNs tai

/-- RC_LOCKED: 64 consecutive Syncs within 20 ns (Table 3-2). -/
def execRcLocked (s : State) : Host.Outcome State Fault Refusal :=
  act s fun s => if s.rc.state = .acquiring ∧ 64 ≤ s.rc.okRun then s.becomeLocked else s

/-- SYNC_TIMEOUT: 3 Sync intervals without a valid Sync (Table 3-2). -/
def execSyncTimeout (s : State) : Host.Outcome State Fault Refusal :=
  act s fun s =>
    if s.rc.state = .locked ∧ (s.rc.sinceSync.getD 0) ≥ 3 * s.syncInterval then
      (s.calendarLeave.putRc { s.rc with state := .holdover, holdRings := 0 }).rcRegs
    else s

/-- HOLDOVER_EXPIRED: HOLDOVER lasted HOLDOVER_RINGS (Table 3-2). -/
def execHoldoverExpired (s : State) : Host.Outcome State Fault Refusal :=
  act s fun s =>
    if s.rc.state = .holdover ∧ s.num Reg.ptp.holdoverRings ≤ s.rc.holdRings then s.enterVoid .holdoverExpired else s

def execClockOutlier (s : State) : Host.Outcome State Fault Refusal :=
  act s fun s => if s.num Reg.xchk.outlierRings ≤ s.rc.outlierRun then s.enterVoid .clockOutlier else s

def execGmMismatch (s : State) : Host.Outcome State Fault Refusal :=
  act s fun s => if 16 ≤ s.rc.gmRun then s.enterVoid .gmMismatch else s

/-! ### The cross-check (R89) -/

/-- Inserts an offset in ascending order. -/
def insertOffset (z : Int) : List Int → List Int
  | [] => [z]
  | y :: l => if z ≤ y then z :: y :: l else y :: insertOffset z l

/-- The median: index floor((n - 1) / 2) of the sorted offsets. -/
def medianOf (l : List Int) : Int := (l.foldl (fun a z => insertOffset z a) []).getD ((l.length - 1) / 2) 0

/-- PEER_CROSS_CHECK of the ring that ends: the runs of R89 in LOCKED and HOLDOVER, and the clearing counts in VOID. -/
def State.crossCheck (s : State) : State :=
  let l := s.rc.answers
  let s := s.putRc { s.rc with answers := [] }
  if l.length < 3 then
    s.putRc { s.rc with outlierRun := 0, gmRun := 0, outlierClear := 0, gmClear := 0 }
  else
    let m := medianOf (l.map (·.offset))
    let bound := s.num Reg.xchk.outlierGrains * 655360
    let out_ := decide (bound < m.natAbs)
    let mine := s.gmHash
    let same := (l.filter fun a => a.gmHash == mine).length
    let differs := decide (l.length < 2 * (l.length - same)) && (l.map (·.gmHash)).eraseDups.any fun h =>
      h != mine && decide (l.length < 2 * (l.filter fun a => a.gmHash == h).length)
    let agrees := decide (l.length < 2 * same)
    let counts := s.rc.state == .locked || s.rc.state == .holdover
    let inVoid := s.rc.state == .void
    let x := { s.rc with
      median := m, peersUsed := l.length
      outlierRun := if counts && out_ then s.rc.outlierRun + 1 else 0
      gmRun := if counts && differs then s.rc.gmRun + 1 else 0
      outlierClear := if inVoid && !out_ then s.rc.outlierClear + 1 else 0
      gmClear := if inVoid && agrees then s.rc.gmClear + 1 else 0 }
    let s := s.putRc x
    let s := if inVoid && decide (s.num Reg.xchk.outlierRings ≤ x.outlierClear) then s.clearCause .clockOutlier else s
    let s := if inVoid && decide (16 ≤ x.gmClear) then s.clearCause .gmMismatch else s
    s.rcRegs

/-! ### The ring boundary -/

/-- A relock attempt that has not succeeded within 200 µs and 1 ms of its restart has failed (R528). -/
def State.pllRing (s : State) : State :=
  match s.pwr.attemptAt with
  | some t => if s.num Reg.clk.pllState = 2 ∧ t + 120000 < s.now then
      (s.setN Reg.clk.pllState 1).putPwr { s.pwr with attemptAt := none } else s
  | none => s

/-- Whole seconds of uptime enter the heartwood record, as warm or hot by the state at their end (R576). -/
def State.secondsRing (s : State) : State :=
  let sec := s.now / 100000000
  if sec ≤ s.pwr.secSeen then s
  else
    let d := sec - s.pwr.secSeen
    let plus := fun (s : State) k => s.setN k (sat 64 (s.num k + d))
    let s := plus (s.putPwr { s.pwr with secSeen := sec }) Reg.hw.powerOnS
    let s := if 1 ≤ s.num Reg.therm.thermState then plus s Reg.hw.secondsWarm else s
    if s.num Reg.therm.thermState = 2 then plus s Reg.hw.secondsHot else s

/-- Holdover's rings and everything that runs at grain 0 of a ring: the cross-check (R89),
stand heartbeats (R94), settings resends (R154), deck levels (R252), credits (R424), Lookout (R449) and the cooling
request (R541). After PWR_FAIL_N only clocks and heat are left (R542). -/
def State.ringHooks (s : State) : State :=
  if s.pwr.lossStopped then s.pllRing.coolingRegs.secondsRing.rcRegs
  else
  let s := s.crossCheck
  let s := if s.rc.state = .holdover then s.putRc { s.rc with holdRings := s.rc.holdRings + 1 } else s
  s.standRing.settingsResend.deckRing.creditRing.lookoutRing.pllRing.coolingRegs.secondsRing.startSettle.rcRegs

/-- RING_BEGIN: the rest of the current ring passes, and the next ring begins (R80). -/
def State.ringBegin (s : State) : State :=
  let x := (RingCount.ticks (s.rc.len - s.rc.cyc) s.rc).next
  let s := (s.putRc x).touch Reg.rc.ringNow
  let s := s.bumpIf (x.len == 1025) Reg.rc.slipsLong
  let s := s.bumpIf (x.len == 1023) Reg.rc.slipsShort
  s.ringHooks

def execRingBegin (s : State) : Host.Outcome State Fault Refusal := act s State.ringBegin

/-- One REFCLK cycle with no command waiting: the grain counter advances, and past a ring's last cycle the next begins. -/
def State.idle (s : State) : State :=
  if s.stopped then s
  else if s.rc.cyc + 1 < s.rc.len then s.putRc s.rc.tick
  else s.ringBegin

end Sys2Proof.Machine
end

