-- ==== Sys2Proof/Machine/Sessions.lean ====
section
/-! DEFINITION. Attestation (R506 to R508), the firmware's security version (R502), operator keys and sessions (R513 to R516,
R559, R563), and TEST_EN (R517). -/
namespace Sys2Proof.Machine

/-! ### Attestation -/

/-- ROSTER_DIGEST (Table 15-14): zero while ROSTER is empty. -/
def State.rosterDigest (s : State) : Bytes :=
  let r := s.blob Reg.council.roster
  if r.isEmpty then zeros 48 else sha384 r

/-- A measurement log entry (R505). -/
def MeasEntry.encode (e : MeasEntry) : Bytes :=
  leBytes 4 e.seq ++ leBytes 2 e.kind ++ leBytes 1 e.context ++ zeros 1 ++ leBytes 8 e.ring ++ e.digest

/-- The log entries of a context, in SEQ order. -/
def State.measOf (s : State) (c : Nat) : Bytes := (s.sec.meas.filter fun e => e.context == c).flatMap MeasEntry.encode

/-- MANIFEST and GRADING of a report: of ACTIVE, or of GRADE_FILE where no schedule is loaded. -/
def State.attestedData (s : State) : Bytes × Bytes :=
  let f := s.blob Reg.grade.gradeFile
  match s.sched.active with
  | some a => (a.hdr.manifestDigest, a.hdr.gradingDigest)
  | none =>
    if s.sched.next.isSome || f.isEmpty then (zeros 48, zeros 48) else (bytesAt f 0x20 48, s.blob Reg.grade.gradingDigest)

/-- Bytes 0x000 to 0x2AF of a report (Table 16-4). -/
def State.attestBody (s : State) (c : Nat) (nonce : Bytes) : Bytes :=
  let x := if c = 0xFF then Ctx.undefined else s.ctx c
  let flags := s.sec.testEn.toNat + 2 * s.sec.testSince.toNat + 4 * (s.num Reg.sec.bootState == 2).toNat +
    8 * (s.num Reg.sec.sealedState == 2).toNat + 16 * s.sec.logIncomplete.toNat
  ascii "FLWATTST" ++ leBytes 2 1 ++ leBytes 2 flags ++ leBytes 1 c ++ leBytes 1 (s.num Reg.sec.fwSvn) ++
    leBytes 1 s.nv.fuseSvn ++ zeros 1 ++ leBytes 8 s.dev.uid ++ leBytes 8 s.taiNow ++ leBytes 8 s.rc.ring ++
    leBytes 4 s.sec.measSeq ++ zeros 4 ++ nonce ++ s.blob Reg.cap.capsetDigest ++ s.dev.romDigest ++
    s.blob Reg.sec.fwDigest ++ s.attestedData.1 ++ s.blob Reg.sched.activeDigest ++ s.blob Reg.sched.nextDigest ++
    s.attestedData.2 ++ x.program ++ x.models ++ x.text ++
    (if c = 0xFF then zeros 48 else sha384 (s.measOf c)) ++ s.rosterDigest ++ leBytes 8 (s.num Reg.seed.seedCheck) ++ zeros 8

/-- A report with its signature by the device key (R503, R506). -/
def State.attestReport (s : State) (c : Nat) (nonce : Bytes) : Bytes :=
  let b := s.attestBody c nonce
  b ++ Config.ecdsaSign s.dev.secret (sha384 b)

/-- Whether a report of a context may be requested over a path (R507). -/
def State.mayAttest (s : State) (via : Via) (c : Nat) : Bool :=
  c == 0xFF || match via with
    | .tally h => match s.session? h.session with
      | some x => x.admin || (x.tenant && x.mask.testBit c)
      | none => false
    | .smbus _ => false

/-- A write of ATTEST_REQUEST: a context, 15 reserved bytes and a nonce. -/
def State.attest (s : State) (via : Via) (v : Bytes) : Except Nat State :=
  let c := leAt v 0 1
  if !allZero (bytesAt v 1 15) ∨ !s.mayAttest via c then .error 0x2602
  else if c ≠ 0xFF ∧ !s.ctxDefined c then .error 0x2614
  else
    let t := s.storeB Reg.attest.attestRequest v
    .ok ((t.setB Reg.attest.attestReport (s.attestReport c (bytesAt v 16 48))).setB Reg.attest.measLog
      (if c = 0xFF then [] else s.measOf c))

def execAttestRequest (via : Via) (value : Bytes) (s : State) : Host.Outcome State Fault Refusal :=
  act s fun s => s.writeVia via 0x2680 1 value fun _ s => s.attest via value

/-! ### SEC_COMMAND and OPERATOR_KEYS -/

/-- SEC_COMMAND: ADVANCE_SVN raises FUSE_SVN to FW_SVN (R502). -/
def State.secCommand (s : State) (v : Nat) : Except Nat State :=
  if v ≠ 1 then .error 0x2602
  else
    let t := s.storeN Reg.secCtl.secCommand 1
    let n := max s.nv.fuseSvn (s.num Reg.sec.fwSvn)
    .ok ({ t with nv := { t.nv with fuseSvn := n } }.setN Reg.sec.fuseSvn n)

def execAdvanceSvn (via : Via) (s : State) : Host.Outcome State Fault Refusal :=
  act s fun s => s.writeVia via 0x2601 1 [1] fun _ s => s.secCommand 1

/-- The entries of OPERATOR_KEYS (R513). -/
def keyEntries (v : Bytes) : List Bytes := (List.range (v.length / 128)).map fun i => bytesAt v (128 * i) 128

/-- An entry's reserved bits and bytes are zero. -/
def keyEntryOk (e : Bytes) : Bool := leAt e 0 1 < 8 && allZero (bytesAt e 1 7) && allZero (bytesAt e 113 15)

/-- The public key of an entry. -/
def keyOf (e : Bytes) : Bytes := bytesAt e 16 97

/-- A write of OPERATOR_KEYS: sessions whose key is no longer in the list close at once (R513). -/
def State.operatorKeys (s : State) (v : Bytes) : Except Nat State :=
  if v.length % 128 ≠ 0 then .error 0x1112
  else if !(keyEntries v).all keyEntryOk then .error 0x2602
  else
    let keys := (keyEntries v).map keyOf
    let gone := (s.mgmt.sessions.filter fun x => !keys.contains x.pubKey).map (·.id)
    .ok (gone.foldl State.dropSession (s.storeB Reg.sess.operatorKeys v))

def execOperatorKeysWrite (via : Via) (value : Bytes) (s : State) : Host.Outcome State Fault Refusal :=
  act s fun s => s.writeVia via 0x2610 1 value fun _ s => s.operatorKeys value

/-! ### Opening and closing sessions (R514, R515, R563) -/

/-- A message that the device takes at all: well formed, of a size it accepts, and the device has booted. -/
def State.takesTally (s : State) (h : TallyHdr) : Option State :=
  if !h.wellFormed || (h.path != 3 && h.size > s.num Reg.mgmt.tallyMaxMsg) then some ((s.bump Reg.tally.tallyDropped).ends 0)
  else if s.num Reg.sec.bootState = 3 then some (s.ends 0)
  else none

/-- SESSION_ID values run from 1 with bits [31:30] clear. -/
def nextSessionId (n : Nat) : Nat := if n + 1 < 2 ^ 30 then n + 1 else 1

/-- SESSION_HELLO: answered with a CHALLENGE, or AUTH_FAILED for an empty key slot or a key without a role. -/
def State.hello (s : State) (h : TallyHdr) (ki : Nat) (qc nc : Bytes) : State :=
  match s.takesTally h with
  | some t => t
  | none =>
    if h.session ≠ 0 then (s.refuse 0x1102 0xFF 0xFF).answer h false []
    else
      let s := s.bump Reg.tally.tallyRequests
      match (keyEntries (s.blob Reg.sess.operatorKeys))[ki]? with
      | none => (s.refuse 0x2612 0xFF 0xFF).answer h false []
      | some e =>
        if leAt e 0 1 % 8 = 0 then (s.refuse 0x2612 0xFF 0xFF).answer h false []
        else
          let id := s.mgmt.nextSession
          let qd := Config.ephemeralPublic s.freeCtr
          let nd := Config.nonce s.freeCtr
          let t := ascii "FLWSESSN" ++ leBytes 1 ki ++ qc ++ nc ++ qd ++ nd ++ beBytes 4 id
          let sig := Config.ecdsaSign s.dev.secret (sha384 t)
          let c : Challenge := ⟨id, s.freeCtr, ki, t, sig, s.now⟩
          let s := { s with mgmt := { s.mgmt with
            challenges := s.mgmt.challenges ++ [c], nextSession := nextSessionId id } }.drawn
          (s.ends 0x2600).answer { h with session := id } false (qd ++ nd ++ beBytes 4 id ++ sig)

def execSessionHello (hdr : TallyHdr) (keyIndex : Nat) (qc nc : Bytes) (s : State) : Host.Outcome State Fault Refusal :=
  act s fun s => s.hello hdr keyIndex qc nc

/-- The session key (R514) from an exchange's transcript. -/
def Challenge.sessionKey (c : Challenge) : Bytes :=
  let qc := bytesAt c.transcript 9 97
  let nc := bytesAt c.transcript 106 32
  let nd := bytesAt c.transcript 235 32
  (hmac384 (Config.ecdhX c.eph qc) (ascii "FLWSKEY" ++ nc ++ nd)).take 32

/-- The session that an exchange opens, with the rights of its key. -/
def State.newSession (s : State) (h : TallyHdr) (c : Challenge) (e : Bytes) : Session :=
  let roles := leAt e 0 1
  { id := c.session, admin := roles.testBit 0, tenant := roles.testBit 1, test := roles.testBit 2, mask := leAt e 8 8,
    pubKey := keyOf e, key := c.sessionKey, counter := 0, kept := [], openedAt := s.now, lastAt := s.now, lastPath := h.path,
    lastAddr := h.addr, lastPort := h.port, addrA := if h.path = 1 then h.addr else 0, addrB := if h.path = 2 then h.addr else 0,
    transfers := [], nextHandle := 1, sub := none, nextEvent := 1, connResult := [] }

/-- SESSION_PROOF: the exchange ends, with a session where the operator's signature verifies. -/
def State.proof (s : State) (h : TallyHdr) (signature : Bytes) : State :=
  match s.takesTally h with
  | some t => t
  | none => match s.mgmt.challenges.find? fun c => c.session == h.session with
    | none => (s.refuse 0x2613 0xFF 0xFF).answer h false []
    | some c =>
      let s := { s with mgmt := { s.mgmt with challenges := s.mgmt.challenges.filter fun x => x.session != h.session } }
      let s := s.bump Reg.tally.tallyRequests
      match (keyEntries (s.blob Reg.sess.operatorKeys))[c.keyIndex]? with
      | none => ((s.bump Reg.sess.authFailures).refuse 0x2612 0xFF 0xFF).answer h false []
      | some e =>
        if !Config.ecdsaVerify (keyOf e) (sha384 (c.transcript ++ c.signature)) signature then
          ((s.bump Reg.sess.authFailures).refuse 0x2612 0xFF 0xFF).answer h false []
        else if 16 ≤ s.mgmt.sessions.length then (s.refuse 0x2604 0xFF 0xFF).answer h false []
        else
          let l := s.mgmt.sessions ++ [s.newSession h c e]
          let s := { s with mgmt := { s.mgmt with sessions := l } }.setN Reg.sess.sessionsOpen l.length
          (s.ends 0x2600).answer { h with counter := 0 } true []

def execSessionProof (hdr : TallyHdr) (signature : Bytes) (s : State) : Host.Outcome State Fault Refusal :=
  act s fun s => s.proof hdr signature

/-- SESSION_CLOSE: answered under the session's key, which then goes. -/
def State.sessionClose (s : State) (h : TallyHdr) : State :=
  s.request h false fun who s => match who with
    | .session id => ((s.dropSession id).ends 0x2600, [], none)
    | _ => (s, [], none)

def execSessionClose (hdr : TallyHdr) (s : State) : Host.Outcome State Fault Refusal := act s fun s => s.sessionClose hdr

/-- CHALLENGE_TIMEOUT: after 10 s without a PROOF the SESSION_ID is freed. -/
def execChallengeTimeout (session : Nat) (s : State) : Host.Outcome State Fault Refusal :=
  act s fun s => { s with mgmt := { s.mgmt with challenges := s.mgmt.challenges.filter fun c =>
    !(c.session == session && decide (c.startAt + 1000000000 ≤ s.now)) } }

/-- REFCLK cycles in a second. -/
def cyclesPerS : Nat := 100000000

def execSessionIdleTimeout (session : Nat) (s : State) : Host.Outcome State Fault Refusal :=
  act s fun s => match s.session? session with
    | some x => if x.lastAt + s.num Reg.sess.sessionIdleS * cyclesPerS ≤ s.now then s.dropSession session else s
    | none => s

def execSessionLifeTimeout (session : Nat) (s : State) : Host.Outcome State Fault Refusal :=
  act s fun s => match s.session? session with
    | some x => if x.openedAt + s.num Reg.sess.sessionLifeS * cyclesPerS ≤ s.now then s.dropSession session else s
    | none => s

/-! ### TEST_EN (R517, R590) -/

/-- TEST_EN takes effect: TEST_SINCE_RESET is set until the next reset. -/
def State.testOn (s : State) : State :=
  ((s.putSec { s.sec with testEn := true, testSince := true }).setN Reg.sec.testEnNow 1).setN Reg.sec.testSinceReset 1

/-- The RWT entries: ROUND_SOURCE, ROUND_TABLE, and 0x5400:01 to 0x5400:0A. -/
def rwtNums : List Nat := Reg.permTest.roundSource :: (List.range 10).map fun i => 0x540001 + i

/-- TEST_EN is gone: every RWT entry returns to its default, sessions lose their TEST rights, and a run of a TEST section is
held. -/
def State.testOff (s : State) : State :=
  let s := (s.putSec { s.sec with testEn := false }).setN Reg.sec.testEnNow 0
  let s := rwtNums.foldl (fun (s : State) k => s.setN k (odDflt s.dev.variant k)) s
  let s := s.setB Reg.permTest.roundTable (odDfltBytes s.dev.variant Reg.permTest.roundTable)
  let s := { s with mgmt := { s.mgmt with sessions := s.mgmt.sessions.map fun (x : Session) => { x with test := false } } }
  if s.inRun && (s.sched.active.map (·.hdr.test)) == some true then
    { s with sched := { s.sched with halted := true } }.setN Reg.sched.state schedHold
  else s

/-- TEST_EN rises: a level held for 1 µs is taken; during a reset it acts at its end. -/
def State.testPinHigh (s : State) (heldNs : Nat) : State :=
  if heldNs < 1000 then s
  else
    let s := { s with pwr := { s.pwr with testEnPin := true } }
    if s.stopped then s else s.testOn

def execTestEnAssert (heldNs : Nat) (s : State) : Host.Outcome State Fault Refusal := .next (s.testPinHigh heldNs)

/-- TEST_EN falls. -/
def State.testPinLow (s : State) (heldNs : Nat) : State :=
  if heldNs < 1000 then s
  else
    let s := { s with pwr := { s.pwr with testEnPin := false } }
    if !s.stopped && s.sec.testEn then s.testOff else s

def execTestEnDeassert (heldNs : Nat) (s : State) : Host.Outcome State Fault Refusal := .next (s.testPinLow heldNs)

end Sys2Proof.Machine
end

