-- ==== Sys2Proof/Machine/Schedule.lean ====
section
/-! DEFINITION. Loading and running a schedule: the section of an epoch file (R57 to R61, R67, R232, R250, R433, R481), epoch
starts (R68), RUN_START (R104, R497) and step digests (R75). -/
namespace Sys2Proof.Machine

def State.putSched (s : State) (x : Sched) : State := { s with sched := x }

/-! ### Reading a section (Tables 2-12 to 2-15) -/

/-- The epoch file header (Table 2-12). -/
def readHeader (b : Bytes) : SchedHeader :=
  let flags := leAt b 0x00A 2
  { guarded := flags.testBit 0, test := flags.testBit 1, ungraded := flags.testBit 2
    reproClass := leAt b 0x00C 1, orphanPolicy := leAt b 0x00D 1, tailPolicy := leAt b 0x00E 1, packMode := leAt b 0x00F 1
    manifestDigest := bytesAt b 0x010 48, gradingDigest := bytesAt b 0x040 48, recipeSetDigest := bytesAt b 0x070 48
    seedCheck := leAt b 0x0A0 8, epoch := leAt b 0x0A8 4, steps := leAt b 0x0AC 4, epochRings := leAt b 0x0B0 4
    stepPeriod := leAt b 0x0B4 4, firstLaunch := leAt b 0x0B8 4, deviceCount := leAt b 0x0BC 4
    consumerCount := leAt b 0x0C0 4, seqLen := leAt b 0x0C4 4, itemsPerConsumer := leAt b 0x0C8 2
    deckLead := leAt b 0x0CA 2, partnerSetSize := leAt b 0x0CC 1, headroomPct := leAt b 0x0CD 1
    bufferSlots := leAt b 0x0CE 1, fitBins := leAt b 0x0CF 1, runId := leAt b 0x0E0 8
    prevDigest := bytesAt b 0x0E8 48, fileDigest := bytesAt b 0x118 48 }

/-- The header's fields within their ranges (Table 2-12, R53, R57). -/
def headerOk (b : Bytes) (h : SchedHeader) : Bool :=
  bytesAt b 0 8 == ascii "FLWSCHED" && leAt b 8 2 == 1 && (h.reproClass == 1 || h.reproClass == 2) &&
  h.orphanPolicy ≤ 1 && h.tailPolicy ≤ 1 && h.packMode ≤ 2 && 1 ≤ h.deviceCount && h.deviceCount ≤ 16384 &&
  1 ≤ h.consumerCount && h.consumerCount ≤ 1048576 && h.seqLen ≤ 2097152 && (h.seqLen == 0) == (h.packMode == 0) &&
  2 ≤ h.bufferSlots && h.bufferSlots ≤ 16 && (if h.packMode = 2 then 1 ≤ h.fitBins && h.fitBins ≤ 64 else h.fitBins == 0) && 1 ≤ h.stepPeriod &&
  (!h.ungraded || h.gradingDigest == zeros 48)

/-- A descriptor (Table 2-14). -/
def readFragment (b : Bytes) : Fragment :=
  { step := leAt b 0x00 4, consumer := leAt b 0x04 4, ringOffset := leAt b 0x08 4, grain := leAt b 0x0C 2
    takeoverEntry := (leAt b 0x0E 2).testBit 0, consumerOffset := leAt b 0x10 8, length := leAt b 0x18 4
    extentCount := leAt b 0x1C 2, recipeIndex := leAt b 0x1E 2, pathMask := leAt b 0x20 8, firstExtent := leAt b 0x28 8
    otherDevice := leAt b 0x30 4, takeoverRingOffset := leAt b 0x34 4, takeoverGrain := leAt b 0x38 2
    partitionId := leAt b 0x3A 2 }

/-- An extent (Table 2-15). -/
def readExtent (b : Bytes) : Extent :=
  { position := leAt b 0x00 8, itemOffset := leAt b 0x08 4, length := leAt b 0x0C 4, consumerOffset := leAt b 0x10 4
    segment := leAt b 0x14 2 }

/-- A placement entry (R58). -/
def readPlacement (b : Bytes) : Placement := { shardId := leAt b 0 8, owner := leAt b 8 4, partner := leAt b 12 4 }

/-- A table of `n` rows of `w` bytes at an offset, within the bytes given. -/
def readTable {α : Type} (b : Bytes) (off n w : Nat) (f : Bytes → α) : Option (List α) :=
  if off < 256 ∨ b.length < off + n * w then none else some (chunks w n (b.drop off) |>.map f)

/-- The section as its tables give it; none where a table lies outside it. -/
def readSection (h : SchedHeader) (b : Bytes) : Option Section :=
  let places := (b.length - leAt b 0x58 8) / 16
  match readTable b (leAt b 0x40 8) (leAt b 0x38 4) 64 readFragment, readTable b (leAt b 0x50 8) (leAt b 0x3C 4) 64 readFragment,
      readTable b (leAt b 0x48 8) (leAt b 0x64 4) 24 readExtent, readTable b (leAt b 0x58 8) places 16 readPlacement with
  | some fragments, some takeovers, some extents, some placements =>
    some { hdr := h, deviceSlot := leAt b 0 4, fragments := fragments, takeovers := takeovers, extents := extents,
           placements := placements, subscribersUsed := leAt b 0x60 4, verified := true }
  | _, _, _, _ => none

/-- A descriptor's fields within their ranges (R56, R59, Table 2-14). -/
def Section.fragmentOk (x : Section) (takeover : Bool) (f : Fragment) : Bool :=
  let ext := x.extentsOf f
  f.step < x.hdr.steps && f.consumer < x.hdr.consumerCount && f.ringOffset < x.hdr.stepPeriod && f.grain < 1024 &&
  f.takeoverEntry == takeover && 1 ≤ f.extentCount && ext.length == f.extentCount && f.length == sum (ext.map (·.length)) &&
  (if takeover then f.takeoverRingOffset == 0 && f.takeoverGrain == 0
    else f.takeoverRingOffset < x.hdr.stepPeriod && f.takeoverGrain < 1024)

/-- Whether two fragments stand in launch order (Table 2-13). -/
def Section.inOrder (x : Section) : List Fragment → Bool
  | f :: g :: l =>
    let a := (f.step * x.hdr.stepPeriod + f.ringOffset) * 1024 + f.grain
    let b := (g.step * x.hdr.stepPeriod + g.ringOffset) * 1024 + g.grain
    (a < b || (a == b && f.consumer ≤ g.consumer)) && x.inOrder (g :: l)
  | _ => true

/-- The section's fields within their ranges (R58, R64, R433). -/
def Section.fieldsOk (x : Section) (b : Bytes) (tableSlot : Nat) : Bool :=
  tableSlot == x.deviceSlot && x.deviceSlot < 16384 && leAt b 4 4 == x.hdr.epoch && x.subscribersUsed ≤ 16383 &&
  (x.hdr.guarded || x.takeovers.isEmpty) && x.fragments.all (x.fragmentOk false) && x.takeovers.all (x.fragmentOk true) &&
  x.inOrder x.fragments

/-- Whether an item kind has a plane (Table 8-2). -/
def kindHasPlane (kind plane : Nat) : Bool :=
  plane == 0 || (if kind = 3 then plane ≤ 2 else plane == 3)

/-- An extent that names a plane its recipe does not declare or its ITEM_KIND does not allow (R232). -/
def State.planeBad (s : State) (recipe : Nat) (e : Extent) : Bool :=
  match s.sched.recipes.find? fun r => r.1 == recipe with
  | none => false
  | some (_, kind, planes) =>
    let p := e.itemOffset / 2 ^ 30
    !(kindHasPlane kind p && planes.testBit p)

/-- What an extent's position names: a code if the section must be refused (R44, R61, R232). -/
def State.extentRefusal (s : State) (x : Section) (recipe : Nat) (e : Extent) : Option Nat :=
  if s.planeBad recipe e then some 0x4A10
  else if e.position = padPosition then none
  else if ((s.sched.manifest.map (·.eligible)).getD 0) ≤ e.position then some 0x4A10
  else if (s.sampleAt x.hdr.epoch e.position).isNone then some 0x4A11
  else none

/-- The first refusal of a section's extents, in descriptor order. -/
def State.extentsRefusal (s : State) (x : Section) : Option Nat :=
  ((x.fragments ++ x.takeovers).flatMap fun f => (x.extentsOf f).map fun e => (f.recipeIndex, e)).findSome?
    fun (p : Nat × Extent) => s.extentRefusal x p.1 p.2

/-- The FILE_DIGEST that PREV_EPOCH_DIGEST must name: ACTIVE's, zero if ACTIVE is empty, or on a spare in coppice the
domain's (R67, R481). -/
def State.chainBase (s : State) : Bytes :=
  match s.sched.active with
  | some a => a.hdr.fileDigest
  | none => if s.lkState = 4 then s.lookout.activeDigest else zeros 48

/-- A spare in coppice takes the slot's ACTIVE section under the domain's ACTIVE_DIGEST itself (R481). -/
def State.isSlotActive (s : State) (x : Section) : Bool :=
  s.lkState == 4 && s.sched.active.isNone && x.hdr.fileDigest == s.lookout.activeDigest

/-- SECTION_LOAD's checks in the order of R67, then R47, R61, R232, R250 and R433. -/
def State.sectionCheck (s : State) (v : Bytes) : Except Nat Section :=
  let h := readHeader v
  let b := v.drop 528
  if v.length < 528 + 256 then .error 0x4A10
  else if sha384 (b.take 0x68 ++ zeros 48 ++ b.drop 0x98) ≠ bytesAt b 0x68 48 then .error 0x4A10
  else if !headerOk v h then .error 0x4A10
  else match readSection h b with
    | none => .error 0x4A10
    | some x =>
      if !x.fieldsOk b (leAt v 512 4) then .error 0x4A10
      else if bytesAt b 0x08 48 ≠ s.blob Reg.cap.capsetDigest then .error 0x4A02
      else if s.sched.manifest.isNone ∨ (s.sched.manifest.map (·.digest)) ≠ some h.manifestDigest ∨
          (s.sched.manifest.map (·.gradingDigest)) ≠ some h.gradingDigest then .error 0x4A11
      else if h.seedCheck ≠ s.num Reg.seed.seedCheck then .error 0x4A12
      else if !s.isSlotActive x && h.prevDigest != s.chainBase then .error 0x4A13
      else if h.test ≠ (s.num Reg.permTest.roundSource == 1) then .error 0x4A15
      else if h.test && decide (8 < feistelWidth ((s.sched.manifest.map (·.eligible)).getD 0)) then .error 0x4A10
      else match s.extentsRefusal x with
        | some c => .error c
        | none =>
          let pool := s.num Reg.deck.deckPoolBytes
          if pool < 2 * x.reserve ∨ pool < x.reserve + x.stepBytes then .error 0x4810
          else if s.subscriberClash x.subscribersUsed then .error 0x5210
          else .ok x

/-! ### The registers and slots -/

/-- ACTIVE_DIGEST, NEXT_DIGEST and EPOCH follow the slots. STEP is read from the count itself. -/
def State.schedRegs (s : State) : State :=
  let s := s.setB Reg.sched.activeDigest ((s.sched.active.map (·.hdr.fileDigest)).getD (zeros 48))
  let s := s.setB Reg.sched.nextDigest ((s.sched.next.map (·.hdr.fileDigest)).getD (zeros 48))
  s.setN Reg.sched.epoch (((s.sched.active <|> s.sched.next).map (·.hdr.epoch)).getD 0)

/-- What was begun of a section that another replaces leaves the deck. -/
def State.dropPrepared (s : State) (epoch : Nat) : State :=
  let s := (s.deck.entries.filter fun e => e.key.epoch == epoch && (e.state == .preparing || e.state == .ready)).foldl
    (fun (s : State) e => s.freeEntry e) s
  s.putDeck { s.deck with
    begun := s.deck.begun.filter fun k => k.epoch != epoch
    done := s.deck.done.filter fun k => k.epoch != epoch
    takeovers := s.deck.takeovers.filter fun t => t.key.epoch != epoch }

/-- What follows a change of the slots: subscribers (R433), peers (R443), takeovers (R462) and the reserve (R251). -/
def State.slotsChanged (s : State) : State := s.schedRegs.reserveSubs.setPeers.activateAll.deckRegs

/-- The run's journal begins with its RUN_START record (R73, Table 2-23). -/
def State.beginJournal (s : State) (x : Section) : State :=
  let start := s.num Reg.sched.runStart
  let old := s.sched.current
  let s := s.putSched { s.sched with
    jseq := 0, current := ⟨x.hdr.runId, start, false, []⟩, exclusions := [], injected := [], replayed := [], digested := []
    kept := if old.records.isEmpty then s.sched.kept else s.sched.kept ++ [old] }
  let s := s.setN Reg.replay.divergedStep 0xFFFFFFFF
  let s := s.setN Reg.deck.levelLow 0x7FFFFFFF
  let s := if s.num Reg.replay.journalState = 2 then s.setN Reg.replay.journalState 0 else s
  s.journal 0x0001 0 false (leBytes 8 x.hdr.runId ++ leBytes 8 start ++ leBytes 8 x.hdr.seedCheck ++ x.hdr.manifestDigest ++
    x.hdr.recipeSetDigest ++ s.blob Reg.sec.fwDigest ++ leBytes 4 (s.num Reg.sched.contentLevel) ++ s.clockDigest ++ s.powerDigest)

/-- The EPOCH_START record (Table 2-23). -/
def State.journalEpoch (s : State) (x : Section) : State :=
  s.journal 0x0002 0 false (leBytes 4 x.hdr.epoch ++ x.hdr.fileDigest)

/-- RUNNING, or REPLAY where REPLAY_MODE says so. -/
def State.runState (s : State) : Nat := if s.num Reg.replay.replayMode = 1 then schedReplay else schedRunning

/-- A section that passed its checks enters NEXT; on a spare in coppice the slot's ACTIVE section enters ACTIVE and the spare
joins the run. Where the epoch is not the run's first, the rings of the epochs before it are nowhere given to the spare: a
free value. -/
def State.loadSection (s : State) (x : Section) : State :=
  if s.isSlotActive x then
    let past := if x.hdr.epoch = 0 then 0 else s.freeVal
    let s := if x.hdr.epoch = 0 then s else s.drawn
    let s := (s.putSched { s.sched with active := some x, pastRings := past }).setN Reg.sched.state s.runState
    ((s.beginJournal x).journalEpoch x).slotsChanged
  else
    let s := match s.sched.next with
      | some old => s.dropPrepared old.hdr.epoch
      | none => s
    let s := s.putSched { s.sched with next := some x }
    let s := if s.schedState = schedEmpty then s.setN Reg.sched.state schedLoaded else s
    s.slotsChanged

/-- A write of SECTION_LOAD. -/
def State.sectionLoad (s : State) (v : Bytes) : Except Nat State :=
  match s.sectionCheck v with
  | .error c => .error c
  | .ok x => .ok (s.loadSection x)

def execSectionLoad (via : Via) (value : Bytes) (s : State) : Host.Outcome State Fault Refusal :=
  act s fun s => s.writeVia via 0x4A20 1 value fun _ s => s.sectionLoad value

/-! ### RUN_START and epoch starts (R68, R104, R497) -/

/-- SCHED_CONTEXT is pinned and its CLUSTER_MASK covers every fitted cluster (R497). -/
def State.schedPinned (s : State) : Bool :=
  let k := s.num Reg.secCtl.schedContext
  s.ctxDefined k && s.flag (Reg.ctx.pinned k) &&
    s.num (Reg.ctx.clusterMask k) &&& s.dev.variant.clusterMask == s.dev.variant.clusterMask

/-- RUN_START is reached: a loaded device enters ARMED, or stays LOADED and is absent from the run start. -/
def State.runStart (s : State) : State :=
  if s.schedState ≠ schedLoaded ∨ s.num Reg.sched.runStart ≠ s.rc.ring then s
  else match s.sched.next with
    | none => s
    | some x =>
      if s.rc.state ≠ .locked then (s.raise 0x2110 0xFF 0xFF []).declareAway 2
      else if !s.schedPinned then (s.raise 0x2610 0xFF 0xFF (leBytes 1 (s.num Reg.secCtl.schedContext))).declareAway 2
      else (s.setN Reg.sched.state schedArmed).beginJournal x

def execRunStartReached (s : State) : Host.Outcome State Fault Refusal := act s State.runStart

/-- NEXT becomes ACTIVE: the epoch is journaled, key epochs advance (R411, R448), and what depends on the slots follows. -/
def State.enterEpoch (s : State) (x : Section) : State :=
  let past := match s.sched.active with
    | some a => s.sched.pastRings + a.hdr.epochRings
    | none => s.sched.pastRings
  let s := s.putSched { s.sched with active := some x, next := none, pastRings := past, lateReported := false }
  let s := if s.schedState = schedArmed then s.setN Reg.sched.state s.runState else s
  ((s.journalEpoch x).slotsChanged.advanceKeys).lookoutEpoch

/-- The instant of an epoch start: with nothing loaded the command itself is the domain's. -/
def State.epochDue (s : State) : Bool :=
  s.nextStart == s.rc.ring || (s.sched.active.isNone && s.sched.next.isNone)

/-- EPOCH_START (R68, R601): a device in VOID may leave it; NEXT becomes ACTIVE where it is verified. -/
def State.epochStarts (s : State) : State :=
  if !s.epochDue then s
  else
    let s := s.leaveVoid
    if s.schedState ≠ schedArmed ∧ s.schedState ≠ schedRunning ∧ s.schedState ≠ schedReplay then s
    else match s.sched.next with
      | some x => if x.verified then s.enterEpoch x else s
      | none => s

def execEpochStart (s : State) : Host.Outcome State Fault Refusal := act s State.epochStarts

/-- LOAD_LATE: LOAD_GUARD rings before an epoch start NEXT is not verified (R68). -/
def State.loadLate (s : State) : State :=
  let start := s.nextStart
  let ready : Bool := match s.sched.next with
    | some x => x.verified
    | none => false
  if ready ∨ s.sched.lateReported ∨ start ≤ s.rc.ring ∨ s.rc.ring + s.num Reg.sched.loadGuard < start then s
  else
    let e := match s.sched.active with
      | some a => a.hdr.epoch + 1
      | none => 0
    let s := s.putSched { s.sched with lateReported := true }
    let s := (s.raise 0x4A14 0xFF 0xFF (leBytes 4 e)).declare 4 e 0
    (s.propose { emptyDecision 7 0xFFFF 0 with epoch := e }).settle

def execLoadLate (s : State) : Host.Outcome State Fault Refusal := act s State.loadLate

/-! ### Step digests (R75) -/

/-- The journal of the run that REPLAY_RUN_ID names. -/
def State.replayJournal (s : State) : Option RunJournal :=
  s.sched.kept.reverse.find? fun j => j.runId == s.num Reg.replay.replayRunId

/-- The first 128 bits of SHA-384 over the device's fragments of a step, in descriptor order. -/
def State.digestOf (s : State) (x : Section) (step : Nat) : Bytes :=
  let l := x.fragments.filter fun f => f.step == step
  (sha384 (l.flatMap fun f => match s.entry? ⟨x.hdr.epoch, f.step, f.consumer, none⟩ with
    | some e => s.entryBytes e
    | none => [])).take 16

/-- The digest recorded for a step of the run replayed. -/
def State.recordedDigest (s : State) (epoch step : Nat) : Option Bytes :=
  match s.replayJournal with
  | none => none
  | some j => (j.records.find? fun r => r.type == 0x40 && leAt r.payload 0 4 == epoch && leAt r.payload 4 4 == step).map
    fun r => bytesAt r.payload 8 16

/-- REPLAY_DIVERGED: the first step that differs is kept, and DIVERGE_ACTION STOP ends the launches (R75). -/
def State.diverged (s : State) (step : Nat) : State :=
  let s := if s.num Reg.replay.divergedStep = 0xFFFFFFFF then s.setN Reg.replay.divergedStep step else s
  let s := s.raise 0x4A17 0xFF 0xFF (leBytes 4 step)
  if s.num Reg.replay.divergeAction = 1 then (s.putSched { s.sched with halted := true }).setN Reg.sched.state schedHold else s

/-- STEP_DIGEST: formed once for each step of ACTIVE, journaled, and in REPLAY compared. -/
def State.stepDigest (s : State) (step : Nat) : State :=
  match s.sched.active with
  | none => s
  | some x =>
    if !s.started ∨ x.hdr.steps ≤ step ∨ s.stepNow < step ∨ s.sched.digested.contains (x.hdr.epoch, step) then s
    else
      let d := s.digestOf x step
      let s := s.putSched { s.sched with
        digested := (s.sched.digested.filter fun p => p.1 == x.hdr.epoch) ++ [(x.hdr.epoch, step)] }
      let replay := s.schedState == schedReplay
      let s := s.journal 0x0040 0 false (leBytes 4 x.hdr.epoch ++ leBytes 4 step ++ d)
      match s.recordedDigest x.hdr.epoch step with
      | some r => if replay ∧ r ≠ d then s.diverged step else s
      | none => s

def execStepDigest (step : Nat) (s : State) : Host.Outcome State Fault Refusal := act s fun s => s.stepDigest step

end Sys2Proof.Machine
end

