-- ==== Sys2Proof/Machine/Power.lean ====
section
/-! DEFINITION. Clocks, gates, supplies, heat and hold-up (R525 to R543, R591): loss of lock and relock, the coarse gates, the
rails and the cap, the thermal states, and PWR_FAIL_N. -/
namespace Sys2Proof.Machine

/-! ### Root lock (R526 to R528) -/

/-- FALLBACK_US: the time spent in fallback since reset, that of a loss in progress included. -/
def State.fallbackUs (s : State) : Nat :=
  s.num Reg.clk.fallbackUs + (match s.pwr.lossAt with
    | some t => (s.now - t) / 100
    | none => 0)

/-- Loss of lock: fallback, VOID with cause PLL_UNLOCK, and the stand is left (R526, R527). -/
def State.pllLoss (s : State) : State :=
  if s.num Reg.clk.pllState ≠ 0 ∨ s.startState = 1 ∨ s.startState = 0x81 then s
  else
    let s := (s.setN Reg.clk.pllState 1).putPwr { s.pwr with lossAt := some s.now, attempts := 0, attemptAt := none }
    let s := (s.bump32 Reg.clk.unlocks).setN Reg.hw.pllUnlocks (sat 32 (s.num Reg.hw.pllUnlocks + 1))
    (((s.alert 6).raise 0x2009 0xFF 0xFF []).enterVoid .pllUnlock).leaveStand

def execPllLossOfLock (s : State) : Host.Outcome State Fault Refusal := act s State.pllLoss

/-- The restart number `attempts + 1` is due that many PLL_RETRY_MS after the loss. -/
def State.relockDue (s : State) : Bool :=
  match s.pwr.lossAt with
  | some t =>
    (s.num Reg.clk.pllState == 1 || s.num Reg.clk.pllState == 2) &&
      decide (s.pwr.attempts < s.num Reg.clk.pllRetryLimit) &&
      decide (t + (s.pwr.attempts + 1) * s.num Reg.clk.pllRetryMs * 100000 ≤ s.now)
  | none => false

/-- The root PLL is restarted (R528). -/
def execPllRelockAttempt (s : State) : Host.Outcome State Fault Refusal :=
  act s fun s =>
    if s.relockDue then
      (s.setN Reg.clk.pllState 2).putPwr { s.pwr with attempts := s.pwr.attempts + 1, attemptAt := some s.now }
    else s

/-- Lock held for 1 ms: every domain returns to its divider, the cause of VOID clears and the stand is joined again. -/
def State.pllRelocked (s : State) : State :=
  if s.num Reg.clk.pllState ≠ 2 then s
  else
    let s := s.setN Reg.clk.fallbackUs (wrap 64 s.fallbackUs)
    let s := (s.setN Reg.clk.pllState 0).putPwr { s.pwr with lossAt := none, attempts := 0, attemptAt := none }
    ((s.bump32 Reg.clk.relocks).clearCause .pllUnlock).rejoinStand

def execPllRelock (s : State) : Host.Outcome State Fault Refusal := act s State.pllRelocked

/-- PLL_RETRY_LIMIT attempts have failed (R528). -/
def execPllFailed (s : State) : Host.Outcome State Fault Refusal :=
  act s fun s =>
    let over_ : Bool := match s.pwr.attemptAt with
      | some t => decide (t + 120000 ≤ s.now)
      | none => true
    if (s.num Reg.clk.pllState = 1 ∨ s.num Reg.clk.pllState = 2) ∧ s.pwr.lossAt.isSome ∧
        s.num Reg.clk.pllRetryLimit ≤ s.pwr.attempts ∧ over_ = true then
      s.setN Reg.clk.pllState 3
    else s

/-- CLOCK_DIGEST changes only when a value in effect does (R525). -/
def State.effectTo (s : State) (e : ClockEffect) : State :=
  let t := s.putPwr { s.pwr with effect := e }
  if e = s.pwr.effect then t else t.touch Reg.clk.clockDigest

/-- The end of a modulation period: SSC_DEPTH_PPM and SSC_RATE_HZ take effect. -/
def execSscApply (s : State) : Host.Outcome State Fault Refusal :=
  act s fun s => s.effectTo { s.pwr.effect with sscDepth := s.num Reg.clk.sscDepthPpm, sscRate := s.num Reg.clk.sscRateHz }

/-! ### Gates (R530, R531) -/

/-- Units that are never fine-gated (R530), in the model's numbering: the Skidder's transmit path, the timestamp units, the
traffic scheduler, the LAUNCH class paths, the Lookout engine, the ring count and the lock monitor. -/
def neverGated (unit : Nat) : Bool := unit < 7

/-- A unit has been idle for 256 cycles of its own clock. -/
def execFineGateClose (unit : Nat) (s : State) : Host.Outcome State Fault Refusal :=
  act s fun s =>
    if !s.flag Reg.gate.fineGating || neverGated unit || s.pwr.fineGated.contains unit then s
    else s.putPwr { s.pwr with fineGated := s.pwr.fineGated ++ [unit] }

/-- The bits of `new` that `old` lacks, as numbers below `n`. -/
def newBits (old new n : Nat) : List Nat := (List.range n).filter fun i => new.testBit i && !old.testBit i

/-- Cluster `n` may not be gated: a context whose CLUSTER_MASK includes it is DEFINED or DESTROYING. -/
def State.clusterBusy (s : State) (n : Nat) : Bool :=
  contexts.any fun k => (s.ctx k).state != .undefined && (s.num (Reg.ctx.clusterMask k)).testBit n

/-- A write of CLUSTER_GATE (Table 17-4). -/
def State.clusterGateApply (s : State) (r : OdRow) (v : Bytes) : Except Nat State :=
  let m := leNat v
  let fitted := s.dev.variant.clusters
  let shut := newBits (s.num Reg.gate.clusterGate) m 16
  if (List.range 16).any fun i => fitted ≤ i && m.testBit i then .error 0x2003
  else if shut.any s.clusterBusy then .error 0x2001
  else
    let s := s.store r Reg.gate.clusterGate v
    .ok { s with comp := { s.comp with clusters := s.comp.clusters.filter fun x => !shut.contains x.cluster } }

/-- Port `p` may not be gated (Table 17-4). -/
def State.portBusy (s : State) (p : Nat) : Bool :=
  s.inRun || (s.skd.conns.any fun c => c.port == p) || s.num Reg.ptp.ptpPort == p ||
    s.num Reg.ptp.ptpBackupPort == p ||
    (List.range 256).any fun i => s.flag (Reg.live.enable i) && s.num (Reg.live.port i) == p

/-- A write of PORT_GATE (Table 17-4). -/
def State.portGateApply (s : State) (r : OdRow) (v : Bytes) : Except Nat State :=
  let m := leNat v
  let shut := newBits (s.num Reg.gate.portGate) m 32
  if (List.range 32).any fun p => !s.portFitted p && m.testBit p then .error 0x2003
  else if shut.any s.portBusy then .error 0x2001
  else .ok (shut.foldl (fun (s : State) p => s.setN (Reg.portStat.linkUp p) 0) (s.store r Reg.gate.portGate v))

def execClusterGateWrite (via : Via) (mask : Nat) (s : State) : Host.Outcome State Fault Refusal :=
  act s fun s => s.writeVia via 0x2010 2 (leBytes 2 mask) fun r s => s.clusterGateApply r (leBytes 2 mask)

def execPortGateWrite (via : Via) (mask : Nat) (s : State) : Host.Outcome State Fault Refusal :=
  act s fun s => s.writeVia via 0x2010 3 (leBytes 4 mask) fun r s => s.portGateApply r (leBytes 4 mask)

/-! ### Rails, the tenant window and the cap (R510, R535, R536, R538) -/

/-- The voltage target of a rail in the order of Table 17-5, where it has one. -/
def State.railTarget (s : State) (i : Nat) : Option Nat :=
  if i = 0 then some (s.num Reg.power.vddPrepMv)
  else if i = 1 then some (s.num Reg.power.vddIslMv)
  else none

/-- One rail is measured: its registers, and its run of measurements more than 1 % away from the target. -/
def State.measureRail (s : State) (i mv mw : Nat) : State :=
  let s := (s.setN (Reg.railVolt.railMv i) mv).setN (Reg.railPower.railMw i) mw
  match s.railTarget i with
  | none => s
  | some t =>
    let old := ((s.pwr.excursions.find? fun p => p.1 == i).map (·.2)).getD 0
    let off := decide (t < 100 * ((mv : Int) - t).natAbs)
    let run := if off then old + 1 else 0
    let s := s.putPwr { s.pwr with excursions := (s.pwr.excursions.filter fun p => p.1 != i) ++ [(i, run)] }
    if run = 10 then ((s.bump Reg.power.voltMismatches).alert 5).raise 0x2013 0xFF 0xFF [] else s

/-- Energy enters the heartwood record in whole Wh (R576). -/
def State.energyStep (s : State) (uj : Nat) : State :=
  let e := s.pwr.energyUj + uj
  let wh := e / 3600000000
  let s := s.putPwr { s.pwr with energyUj := e % 3600000000 }
  if wh = 0 then s else s.setN Reg.hw.energyWh (sat 64 (s.num Reg.hw.energyWh + wh))

/-- RAIL_MEASURE: the eleven rails in the order of Table 17-5, each with its millivolts and its milliwatts over the last
millisecond. -/
def State.railMeasure (s : State) (rails : List (Nat × Nat)) : State :=
  let l := rails.take 11
  let s := ((List.range 11).zip l).foldl (fun (s : State) (p : Nat × Nat × Nat) => s.measureRail p.1 p.2.1 p.2.2) s
  let total := sum (l.map (·.2))
  let s := s.setN Reg.railPower.totalMw total
  let s := s.putPwr { s.pwr with windowSum := s.pwr.windowSum + total, windowCount := s.pwr.windowCount + 1 }
  s.energyStep total

def execRailMeasure (rails : List (Nat × Nat)) (s : State) : Host.Outcome State Fault Refusal :=
  act s fun s => s.railMeasure rails

/-- A mean in mW as the nearest multiple of 5 W, ties up (R510). -/
def tenantWatts (total count : Nat) : Nat := (2 * total + 5000 * count) / (10000 * count) * 5

/-- The end of a 10 ms window of TAI_NOW: a whole window sets POWER_TENANT_W (R510). -/
def execPowerWindowEnd (s : State) : Host.Outcome State Fault Refusal :=
  act s fun s =>
    let w := s.pwr
    let s := if w.windowWhole ∧ w.windowCount ≠ 0 then
        s.setN Reg.sec.powerTenantW (tenantWatts w.windowSum w.windowCount) else s
    s.putPwr { s.pwr with windowWhole := true, windowSum := 0, windowCount := 0 }

/-- The admission fraction in force, in 1/1,024: HOT holds it at or below one half (Table 17-7, R547). -/
def State.admissionNow (s : State) : Nat :=
  if s.num Reg.therm.thermState = 2 then min 512 s.pwr.admission else s.pwr.admission

/-- CAP_STATE outside UNMET. -/
def capStateOf (cap a : Nat) : Nat := if cap = 0 then 0 else if a < 1024 then 2 else 1

/-- CAP_CONTROL on the last millisecond's total power (R536). -/
def State.capControl (s : State) : State :=
  let cap := s.num Reg.power.powerCapW
  if cap = 0 then
    (s.putPwr { s.pwr with admission := 1024, overCap := 0 }).setN Reg.power.capState 0
  else
    let p := s.num Reg.railPower.totalMw
    let floor := s.num Reg.power.capFloor
    let high := decide (1000 * cap < p)
    let run := if high && decide (s.pwr.admission ≤ floor) then s.pwr.overCap + 1 else 0
    let a := if high then max floor (s.pwr.admission - 16)
      else if 100 * p < 95 * (1000 * cap) then min 1024 (s.pwr.admission + 16)
      else s.pwr.admission
    let s := s.putPwr { s.pwr with admission := a, overCap := run }
    if s.num Reg.power.capState = 3 then
      if high then s else s.setN Reg.power.capState (capStateOf cap a)
    else if 100 ≤ run then
      (((s.setN Reg.power.capState 3).bump Reg.power.capUnmetEvents).alert 4).raise 0x2011 0xFF 0xFF []
    else s.setN Reg.power.capState (capStateOf cap a)

def execCapControl (s : State) : Host.Outcome State Fault Refusal := act s State.capControl

/-! ### Hold-up (R542) -/

/-- Pools 1 to 7 hold zeros. -/
def Memory.loseTier0 (v : Variant) (m : Memory) : Memory :=
  { m with pools := m.pools.foldl (fun l p => if p.1 ≤ 7 then
      Sparse.set (fun p => Pool.ofBlocks (v.poolBlocks p)) l p.1 { p.2 with mem := [] } else l) m.pools }

/-- The contents of tier 0 are lost: pools 1 to 7, the deck and what is seasoned in tier 0. -/
def State.loseTier0 (s : State) : State :=
  { s with
    mem := s.mem.loseTier0 s.dev.variant
    deck := { s.deck with entries := [], season := s.deck.season.filter fun e => e.tier != 0 } }

/-- The data lanes and the stand ring are powered down. -/
def State.lanesDown (s : State) : State :=
  let s := (List.range s.dev.variant.lanes).foldl (fun (s : State) p => s.setN (Reg.portStat.linkUp p) 0) s
  (s.putStand { s.stand with links := 0, driving := false }).standRegs

/-- R542: Lookout stops, the prep dies stop, the Landing stops and the Yard flushes; the heartwood record is updated after
the POWER_LOSS record (R577). The device stays so until a reset. -/
def State.powerFail (s : State) : State :=
  if s.pwr.lossStopped then s
  else
    let s := s.landPowerFail
    let s := s.putPwr { s.pwr with lossStopped := true, flushing := true }
    let s := (s.setN Reg.start.powerLossState 1).alert 3
    let s := s.loseTier0.lanesDown.powerLossFlush
    if s.mgmt.hwLoaded then s.heartUpdate else s

/-- PWR_FAIL_N low for 200 ns: in START_STATE PLL the device waits (R590), at any later instant R542 acts. -/
def State.powerPinLow (s : State) (heldNs : Nat) : State :=
  if heldNs < 200 then s
  else
    let s := s.putPwr { s.pwr with pwrFailLow := true }
    if s.stopped || s.startState == 1 then s else s.powerFail

def execPwrFailAssert (heldNs : Nat) (s : State) : Host.Outcome State Fault Refusal := .next (s.powerPinLow heldNs)

/-- PWR_FAIL_N deasserts: a device that waits before BOOT continues; nothing else resumes (R542, R590). -/
def State.powerPinHigh (s : State) : State :=
  let s := s.putPwr { s.pwr with pwrFailLow := false }
  if s.startState = 1 ∧ s.stopped = false then s.startStep 2 else s

def execPwrFailDeassert (s : State) : Host.Outcome State Fault Refusal := .next s.powerPinHigh

/-! ### Heat (R539 to R541, R591) -/

/-- The thermal state for a junction temperature, 3 °C lower on each falling edge (Table 17-7). -/
def thermalNext (warn : Int) (old : Nat) (tj : Int) : Nat :=
  if 10 * (tjMax : Int) + 100 ≤ tj then 3
  else if 10 * (tjMax : Int) + 30 ≤ tj ∨ (old = 2 ∧ 10 * (tjMax : Int) ≤ tj) then 2
  else if warn ≤ tj ∨ (1 ≤ old ∧ warn - 30 ≤ tj) then 1
  else 0

/-- TJ_MAX_DC and its peak. -/
def State.junction (s : State) (tj : Int) : State :=
  let s := s.setN Reg.therm.tjMaxDc (i32Bits tj)
  if i32Val (s.num Reg.hw.tjPeakDc) < tj then s.setN Reg.hw.tjPeakDc (i32Bits tj) else s

/-- The entry into a thermal state raises the event of Table 17-7; WARM and HOT are counted. -/
def State.thermalEntry (s : State) (n : Nat) : State :=
  if n = 3 then s.raise 0x2082 0xFF 0xFF []
  else (s.bump Reg.therm.thermalEvents).raise (if n = 2 then 0x2081 else 0x2080) 0xFF 0xFF []

/-- THERM_STATE takes a value; on the way up every state passed is entered. -/
def State.thermalTo (s : State) (n : Nat) : State :=
  let old := s.num Reg.therm.thermState
  let s := if old = n then s else (s.setN Reg.therm.thermState n).alert 0
  (([1, 2, 3] : List Nat).filter fun k => old < k && k ≤ n).foldl (fun (s : State) k => s.thermalEntry k) s

/-- TRIP (R540, R591): as if PWR_FAIL_N had asserted; then every clock but SLOW stops and THERM_TRIP_N is driven low. -/
def State.thermalTrip (s : State) : State :=
  let s := (s.thermalTo 3).setN Reg.hw.trips (sat 32 (s.num Reg.hw.trips + 1))
  let again := s.pwr.lossStopped && s.mgmt.hwLoaded
  let s := s.powerFail
  let s := if again then s.heartUpdate else s
  (s.putPwr { s.pwr with clocksStopped := true, thermTripLow := true }).emit (.pins true)

/-- The hottest junction has changed: THERM_STATE and COOLING_REQUEST follow. -/
def execThermalChange (tjDc : Int) (s : State) : Host.Outcome State Fault Refusal :=
  act s fun s =>
    let s := s.junction tjDc
    let n := thermalNext s.warnDc (s.num Reg.therm.thermState) tjDc
    let s := s.coolingRegs
    if n = 3 then s.thermalTrip else s.thermalTo n

/-- THERMAL_TRIP: a junction at T_JMAX + 10 °C or above. -/
def execThermalTrip (tjDc : Int) (s : State) : Host.Outcome State Fault Refusal :=
  act s fun s => if 10 * (tjMax : Int) + 100 ≤ tjDc then (s.junction tjDc).coolingRegs.thermalTrip else s

/-- The comparator at 120 °C needs no clock: every clock stops, the outputs are high impedance, no flush takes place (R591). -/
def execHardwareTrip (s : State) : Host.Outcome State Fault Refusal :=
  .next ((s.putPwr { s.pwr with clocksStopped := true, outputsOff := true, thermTripLow := true }).emit (.pins true))

/-- COOLING_REQUEST returns to its computed value 10 s after the alarm (R541). -/
def execCoolingHoldEnd (s : State) : Host.Outcome State Fault Refusal :=
  act s fun s =>
    match s.pwr.coolingUntil with
    | some t => if t ≤ s.now then (s.putPwr { s.pwr with coolingUntil := none }).coolingRegs else s
    | none => s

end Sys2Proof.Machine
end

