-- ==== Sys2Proof/Machine/Start.lean ====
section
/-! DEFINITION. Resets (R544, R545, R590) and the start-up sequence (R546, Table 17-9): the boot of the firmware (R501), memory
training (R302, R305) and the Yard's recovery. -/
namespace Sys2Proof.Machine

/-! ### Resets (Table 17-8) -/

/-- Writes that no store had committed are lost with the reset (R557). -/
def Settings.committedOnly (st : Settings) : Settings := { st with pendingKeys := [] }

/-- The CONFIGURED subscriber slots as their persisted settings give them (R434). -/
def Skidder.configuredOnly (x : Skidder) : List SubSlot :=
  (x.subs.filter fun u => u.state == .configured).map fun (u : SubSlot) =>
    { u with rate := u.newRate, burst := u.newBurst, credit := 0, queue := [], tx := 0 }

/-- The clock settings take effect (R523, R525). -/
def State.clocksFromOd (s : State) : State :=
  s.putPwr { s.pwr with effect :=
    ⟨s.num Reg.clk.coreDiv, s.num Reg.clk.fabricDiv, s.num Reg.clk.sscDepthPpm, s.num Reg.clk.sscRateHz,
      s.num Reg.tier.ddrSpeed⟩ }

/-- What a POWER_ON or DEVICE reset leaves (Table 17-8): the fuses, the firmware slots, the committed settings, the flash, the
heartwood record, the journals and what has been stored in tier 2 stay; all else takes its reset value. -/
def State.wiped (s : State) : State :=
  { State.reset with
    dev := s.dev
    nv := { s.nv with boot := s.nv.boot.committedOnly, yard := s.nv.yard.committedOnly }
    yard := s.yard.onFlash
    sched := { Sched.reset with
      manifest := s.sched.manifest, recipeSet := s.sched.recipeSet, recipes := s.sched.recipes
      kept := if s.sched.current.records.isEmpty then s.sched.kept else s.sched.kept ++ [s.sched.current] }
    landing := { Landing.empty with spaces := s.landing.spaces, results := s.landing.results }
    pwr := { Power.reset with
      testEnPin := s.pwr.testEnPin, pwrFailLow := s.pwr.pwrFailLow, strapPins := s.pwr.strapPins
      pllLocks := s.pwr.pllLocks, memory := s.pwr.memory }
    out := s.out, freeCtr := s.freeCtr, pending := s.pending }

/-- The settings of the boot store are loaded over reset values (R556). -/
def State.bootSettings (s : State) : State := { s with od := State.reset.od.load s.dev.variant s.nv.boot }

/-- The port mode takes effect, and the configured subscriber slots stand (R434). -/
def State.skidderFrom (s : State) (subs : List SubSlot) : State :=
  { s with skd := { Skidder.reset with mode := s.num Reg.skd.portMode, subs := subs } }

/-- No change of any entry since the reset (R602). -/
def State.versionsReset (s : State) : State := { s with od := { s.od with vers := [] } }

/-- A POWER_ON or DEVICE reset: every unit takes its reset values and the boot store's settings. -/
def State.deviceReset (s : State) (last : Nat) : State :=
  let t := (s.wiped.bootSettings.clocksFromOd).skidderFrom s.skd.configuredOnly
  let t := (t.setN Reg.start.lastReset last).setN Reg.sec.fuseSvn s.nv.fuseSvn
  (t.setN Reg.seed.seedCheck (seedCheck (t.num Reg.seed.seedLo) (t.num Reg.seed.seedHi))).versionsReset

/-! ### Start-up (R546) -/

/-- Step 0x01: the straps are sampled (R91), and the root PLL locks or the sequence stops at CLOCK_FAILED. A device that finds
PWR_FAIL_N asserted waits before step 0x02 (R590). -/
def State.startUp (s : State) : State :=
  let s := s.putPwr { s.pwr with inReset := false, perstLow := false, startAt := s.now }
  let id := s.pwr.strapPins % 8
  let s := (s.setN Reg.stand.standId id).setN Reg.smb.smbAddr (0x30 + id)
  let s := if s.pwr.testEnPin then s.testOn else s
  if !s.pwr.pllLocks then (s.startStep 0x81).refuse 0x2012 0xFF 0xFF
  else if s.pwr.pwrFailLow then s
  else s.startStep 2

/-- The image of a slot passes R501. -/
def FwImage.passes (i : FwImage) (fuse : Nat) : Bool := i.present && i.trusted && decide (fuse ≤ i.svn)

/-- The device runs an image. -/
def State.booted (s : State) (state : Nat) (i : FwImage) : State :=
  ((s.setN Reg.sec.bootState state).setN Reg.sec.fwSvn i.svn).setB Reg.sec.fwDigest i.digest

/-- The pool takes its size at DDR training. -/
def State.sizePool (s : State) (p n : Nat) : State :=
  (s.putPool p (Pool.ofBlocks n)).setN (Reg.pool.freeLow p) n

/-- The division of tier 1 (R305): T1_STAGE as set, or less where T1_BULK would have less than 8 GiB; T1_BULK the rest. -/
def State.divideTier1 (s : State) (bytes : Nat) : State :=
  let g : Nat := 2 ^ 30
  let want := s.num Reg.layout.t1StageBytes
  let room := bytes - 12 * g
  let stage := if want ≤ room then want else room / 262144 * 262144
  let s := s.setN Reg.layout.t1StageInUse stage
  let s := s.sizePool 8 (stage / 262144)
  s.sizePool 9 ((bytes - 4 * g - stage) / 8388608)

/-- Step 0x03: HBM and DDR5 training (R302). -/
def State.trainMemory (s : State) : State :=
  let s := s.startStep 3
  match s.pwr.memory with
  | none => (s.setN Reg.tier.ddrState 2).startStep 0x83
  | some (bytes, dimms) =>
    let s := (s.setN Reg.tier.ddrState 1).setN Reg.tier.ddrBytes bytes
    ((s.setN Reg.tier.ddrDimmsPerCh dimms).divideTier1 bytes).startStep 4

/-- Step 0x02: the ROM checks slot 2, then slot 1 (R501); step 0x03 follows. -/
def State.secureBoot (s : State) : State :=
  if s.startState ≠ 2 then s
  else if s.nv.slot2.passes s.nv.fuseSvn then (s.booted 1 s.nv.slot2).trainMemory
  else if s.nv.slot1.passes s.nv.fuseSvn then (s.booted 2 s.nv.slot1).trainMemory
  else (s.setN Reg.sec.bootState 3).startStep 0x82

def execSecureBoot (s : State) : Host.Outcome State Fault Refusal := live s State.secureBoot

/-- An unsafe shutdown enters the heartwood record, and the host is told (R365, R576). -/
def State.unsafeNoted (s : State) : State :=
  if s.num Reg.yard.lastShutdown = 2 then
    s.setN Reg.hw.unsafeShutdowns (sat 32 (s.num Reg.hw.unsafeShutdowns + 1))
  else s

/-- Persisted settings that other registers follow, once they are loaded: SEED_CHECK, GRADING_DIGEST. -/
def State.derivedSettings (s : State) : State :=
  let f := s.blob Reg.grade.gradeFile
  let s := s.setN Reg.seed.seedCheck (seedCheck (s.num Reg.seed.seedLo) (s.num Reg.seed.seedHi))
  s.setB Reg.grade.gradingDigest (if f.isEmpty then zeros 48 else sha384 f)

/-- Step 0x04: the Yard recovers (R297), the heartwood record is loaded (R576) and the log merges with its mirror (R571); step
0x05 opens the sealed values (R512). Where the Yard does not come up the sequence stops at YARD_HALTED. -/
def State.yardStart (s : State) (m : RecoveryMedia) : State :=
  if s.startState ≠ 4 then s
  else
    let s := s.recoverYard m
    let s := s.heartLoad
    if s.yardUsable then
      let s := s.unsafeNoted
      let s := if s.num Reg.yard.lastShutdown = 2 then s.asyncEvent 0x00020001 else s
      let s := s.mergeLog.holdupRegs
      let s := (s.startStep 5).loadYardSettings.derivedSettings
      (s.startStep 6).startSettle
    else s.haltLog.startStep 0x84

def execYardRecovery (media : RecoveryMedia) (s : State) : Host.Outcome State Fault Refusal :=
  live s fun s => s.yardStart media

/-! ### The commands that reset -/

/-- Rails rise with PERST_N asserted: the device is held in reset until PERST_N deasserts. -/
def execPowerOn (perstLow : Bool) (s : State) : Host.Outcome State Fault Refusal :=
  let t := s.deviceReset 1
  .next (t.putPwr { t.pwr with perstLow := perstLow })

/-- PERST_N low for 1 µs or more starts a DEVICE reset; a shorter level is ignored (R590). -/
def execPerstAssert (heldNs : Nat) (s : State) : Host.Outcome State Fault Refusal :=
  .next (if heldNs < 1000 then s else s.deviceReset 2)

/-- PERST_N deasserts: the straps are sampled and start-up runs (R546). -/
def execPerstDeassert (strap : Nat) (pllLocks : Bool) (memory : Option (Nat × Nat)) (s : State) :
    Host.Outcome State Fault Refusal :=
  .next (if s.pwr.inReset then
      (s.putPwr { s.pwr with strapPins := strap, pllLocks := pllLocks, memory := memory }).startUp
    else s)

/-- A reset from within: start-up follows with the straps last sampled. -/
def State.resetFromWithin (s : State) (last : Nat) : State := (s.deviceReset last).startUp

/-- A write of RESET_CMD (R545). -/
def State.resetCmd (s : State) (v : Nat) : Except Nat State :=
  if v = 1 ∧ s.inRun then .error 0x2001 else .ok (s.resetFromWithin 3)

def execResetCmdDevice (via : Via) (s : State) : Host.Outcome State Fault Refusal :=
  act s fun s => s.writeVia via 0x2050 3 [1] fun _ s => s.resetCmd 1

def execResetCmdDeviceForce (via : Via) (s : State) : Host.Outcome State Fault Refusal :=
  act s fun s => s.writeVia via 0x2050 3 [2] fun _ s => s.resetCmd 2

/-- The watchdog was not serviced for WATCHDOG_MS (R545). -/
def execWatchdogExpiry (s : State) : Host.Outcome State Fault Refusal := act s fun s => s.resetFromWithin 4

/-- A FUNCTION reset: of what the model holds, the NVMe controller (R368, Table 17-8). -/
def execFunctionLevelReset (s : State) : Host.Outcome State Fault Refusal := act s State.nvmeReset

end Sys2Proof.Machine
end

