-- ==== Sys2Proof/Machine/Dictionary.lean ====
section
/-! DEFINITION. The dictionary as a whole (R550 to R553): what every accepted write does to its unit, what every entry reads as,
and DICTIONARY_WRITE. -/
namespace Sys2Proof.Machine

/-! ### Checks of single entries -/

/-- What a write changes, or the code with which the entry's chapter refuses it. -/
abbrev Applied := Except Nat State

/-- A write refused with BUSY where `b` holds. -/
def busyOr (b : Bool) (code : Nat) (t : State) : Applied := if b then .error code else .ok t

/-- The frequency in kHz of a source of CLKMON_SEL (R529); 0 for a source without a limit. -/
def State.clkmonKhz (s : State) (sel : Nat) : Nat :=
  let root : Nat := 4800000
  match sel with
  | 1 => root
  | 2 | 7 => root / s.pwr.effect.coreDiv
  | 3 => root / s.pwr.effect.fabricDiv
  | 4 => 800000
  | 5 => 400000
  | 6 | 8 => 100000
  | _ => 0

/-- A clock monitor setting whose output would exceed 400 MHz (R529). -/
def State.clkmonBad (s : State) (sel div : Nat) : Bool := decide (400000 * div < s.clkmonKhz sel)

/-- The divisor rule of Table 17-1. -/
def dividersBad (core fabric : Nat) : Bool :=
  !([3, 4, 6].contains core) || !([4, 6, 8].contains fabric) || decide (fabric < core)

/-- A list that R443 does not give for the domain's size; the size is known to a device that has learnt of members. -/
def State.partnerSetBad (s : State) (v : Bytes) : Bool :=
  let l := slotsOf v
  let n := s.num Reg.memb.members
  v.length % 2 != 0 || 16 < l.length || l.any (fun x => 16383 < x) || l.eraseDups.length != l.length ||
    (if n = 0 then false
     else if 5 ≤ n then l.length < 4
     else l.length != n - 1)

/-! ### What a write does -/

/-- A write of a run's seed, start or replay settings (R69, R74, R49). -/
def State.runWrite (s : State) (r : OdRow) (k : Nat) (v : Bytes) : Applied :=
  if s.started then .error 0x4A01
  else
    let t := s.store r k v
    if k = Reg.sched.runStart then
      .ok ((t.putSched { t.sched with pastRings := 0, shiftRings := 0, lateReported := false }).seasonDiscard)
    else if k = Reg.seed.seedLo ∨ k = Reg.seed.seedHi then
      .ok (t.setN Reg.seed.seedCheck (seedCheck (t.num Reg.seed.seedLo) (t.num Reg.seed.seedHi)))
    else if k = Reg.replay.replayMode ∧ leNat v = 1 ∧ (s.replayJournal.map (·.incomplete)) = some true then .error 0x4A16
    else .ok t

/-- A write of a live stream's entry (R164). -/
def State.streamWrite (s : State) (r : OdRow) (i sub : Nat) (v : Bytes) : Applied :=
  match sub with
  | 1 => s.liveEnable i (leNat v)
  | 0x11 => s.settingsApply i v
  | _ => busyOr (s.flag (Reg.live.enable i)) 0x4201 (s.store r ((0x4300 + i) * 256 + sub) v)

/-- A write of a fusion group's entry (R164). -/
def State.groupWrite (s : State) (r : OdRow) (g sub : Nat) (v : Bytes) : Applied :=
  if sub = 1 then s.groupEnable g (leNat v)
  else busyOr (s.flag (Reg.group.enable g)) 0x4201 (s.store r ((0x4280 + g) * 256 + sub) v)

/-- A write of a context's entry (R493, R494, R497, R519). -/
def State.ctxWrite (s : State) (r : OdRow) (k sub : Nat) (v : Bytes) : Applied :=
  let n := leNat v
  let t := s.store r ((0x2640 + k) * 256 + sub) v
  match sub with
  | 2 => s.ctxAction k n
  | 3 => if k = 0 then s.program0 v else busyOr (s.ctxConfigBusy k) 0x2601 t
  | 4 => match s.residencyRefusal k n (s.num (Reg.ctx.pinned k)) with
    | some c => .error c
    | none => .ok (if (s.ctx k).state = .undefined then t else t.openClusters n)
  | 5 => match s.residencyRefusal k (s.num (Reg.ctx.clusterMask k)) n with
    | some c => .error c
    | none => .ok t
  | 6 => .ok t
  | _ => busyOr (s.ctxConfigBusy k) 0x2601 t

/-- A power setting of POWER_DIGEST (R536, R537). -/
def State.powerWrite (s : State) (r : OdRow) (k : Nat) (v : Bytes) : Applied :=
  let n := leNat v
  if s.inRun then .error 0x2001
  else if k = Reg.power.powerCapW ∧ n ≠ 0 ∧ (n < 150 ∨ s.dev.variant.maxW < n) then .error 0x2010
  else
    let t := (s.store r k v).touch Reg.power.powerDigest
    if k = Reg.gate.fineGating then .ok (if n = 0 then t.putPwr { t.pwr with fineGated := [] } else t)
    else if t.num Reg.power.powerCapW = 0 then
      .ok ((t.putPwr { t.pwr with admission := 1024, overCap := 0 }).setN Reg.power.capState 0)
    else
      let t := t.putPwr { t.pwr with admission := max t.pwr.admission (t.num Reg.power.capFloor) }
      .ok (if t.num Reg.power.capState = 3 then t
        else t.setN Reg.power.capState (capStateOf (t.num Reg.power.powerCapW) t.pwr.admission))

/-- A write of a clock entry (R525, R548). -/
def State.clockWrite (s : State) (r : OdRow) (sub : Nat) (v : Bytes) : Applied :=
  let n := leNat v
  let t := s.store r (0x200000 + sub) v
  if sub ≤ 5 ∧ s.inRun then .error 0x2001
  else if sub = 2 ∧ dividersBad n (s.num Reg.clk.fabricDiv) then .error 0x2010
  else if sub = 3 ∧ dividersBad (s.num Reg.clk.coreDiv) n then .error 0x2010
  else .ok t

/-- A write of LOG_ACKED (R582). -/
def State.logAckedWrite (s : State) (v : Nat) : Applied :=
  if !s.log.merged then (if v = 0 then .ok (s.touch Reg.log.logAcked) else .error 0x1211)
  else if v < s.log.acked ∨ s.log.written < v then .error 0x1211
  else .ok ({ (s.touch Reg.log.logAcked) with log := { s.log with acked := v } }.touchLog)

/-- A write of SMB_ALERT_STATUS clears the bits set in the value (R567). -/
def State.alertClear (s : State) (v : Nat) : State :=
  let old := s.num Reg.smb.smbAlertStatus
  let s := s.storeN Reg.smb.smbAlertStatus (old - (old &&& v))
  if v.testBit 1 then
    { s with mgmt := { s.mgmt with smb := { s.mgmt.smb with coolingAtClear := s.num Reg.therm.coolingRequest } } }
  else s

/-- What an accepted write of any entry does. -/
def State.odApply (s : State) (via : Via) (idx sub : Nat) (v : Bytes) (r : OdRow) : Applied :=
  let k := idx * 256 + sub
  let n := leNat v
  let t := s.store r k v
  if 0x2640 ≤ idx ∧ idx < 0x2680 then s.ctxWrite r (idx - 0x2640) sub v
  else if 0x3100 ≤ idx ∧ idx < 0x3140 then
    let p := idx - 0x3100
    if sub = 1 then .ok ((s.portEnable p n).store r k v)
    else busyOr (s.flag (Reg.push.enable p)) 0x3001 t
  else if 0x4280 ≤ idx ∧ idx < 0x42C0 then s.groupWrite r (idx - 0x4280) sub v
  else if 0x4300 ≤ idx ∧ idx < 0x4400 then s.streamWrite r (idx - 0x4300) sub v
  else if 0x4440 ≤ idx ∧ idx < 0x4480 then busyOr (s.stopSetBusy (idx - 0x4440)) 0x4401 t
  else match idx with
    | 0x1110 => if sub = 3 then .ok (s.alertClear n) else .ok t
    | 0x1200 => if sub = 2 then s.logAckedWrite n else .ok t
    | 0x2000 => s.clockWrite r sub v
    | 0x2001 =>
      let sel := if sub = 1 then n else s.num Reg.clkmon.clkmonSel
      let div := if sub = 2 then n else s.num Reg.clkmon.clkmonDiv
      if s.clkmonBad sel div then .error 0x2010 else .ok t
    | 0x2010 =>
      match sub with
      | 1 => s.powerWrite r k v
      | 2 => s.clusterGateApply r v
      | _ => s.portGateApply r v
    | 0x2020 => s.powerWrite r k v
    | 0x2040 => .ok t.coolingRegs
    | 0x2050 => if sub = 3 then s.resetCmd n else .ok t
    | 0x2101 => busyOr s.inRun 0x2101 t
    | 0x2200 => busyOr (sub == 8 && s.barrierTimeoutBusy n) 0x2201 t
    | 0x2401 => busyOr (decide (4 ≤ s.lkState ∧ s.lkState ≤ 7)) 0x2401 t
    | 0x2410 => if sub = 5 then s.councilReseed v else .ok (t.touch Reg.council.rosterDigest)
    | 0x2420 =>
      if sub = 1 then
        if 4 ≤ s.lkState ∧ s.lkState ≤ 7 then .error 0x2401
        else if s.partnerSetBad v then .error 0x2414
        else .ok t
      else .ok t
    | 0x2601 => if sub = 1 then s.secCommand n else busyOr s.inRun 0x2601 t
    | 0x2610 => if sub = 1 then s.operatorKeys v else .ok t
    | 0x2680 => s.attest via v
    | 0x3260 =>
      if sub = 1 then
        match s.yardCommand n [] with
        | .error c => .error c
        | .ok u => .ok (u.store r k v)
      else .ok t
    | 0x4700 =>
      match sub with
      | 2 => busyOr s.grading 0x4601 (t.setB Reg.grade.gradingDigest (if v.isEmpty then zeros 48 else sha384 v))
      | _ => match s.gradeControl n with
        | .error c => .error c
        | .ok u => .ok (u.store r k v)
    | 0x4810 => if sub = 8 then s.seasonClear n else busyOr s.seasonBusy 0x4801 t
    | 0x4A00 => if sub = 6 then s.runWrite r k v else .ok t
    | 0x4A10 | 0x4A11 => s.runWrite r k v
    | 0x4A20 => s.sectionLoad v
    | 0x4A30 => if sub = 1 then s.runWrite r k v else .ok t
    | 0x5000 => busyOr s.inRun 0x5001 t
    | 0x5010 =>
      match sub with
      | 1 => s.connOpenWrite v
      | 2 => s.connCloseWrite n
      | _ => .ok t
    | 0x5220 => if sub = 2 then s.subConfig v else .ok t
    | _ => .ok t

/-- A CONN_OPEN's result is kept for the session that wrote it. -/
def State.keepOpen (t : State) (via : Via) (idx sub : Nat) (s : State) : State :=
  if idx ≠ 0x5010 ∨ sub ≠ 1 then t
  else if t.skd.conns.length ≠ s.skd.conns.length then t.noteOpen via 0x5000 s.freeConn
  else if t.status / 256 = 0x50 then t.noteOpen via t.status 0
  else t

/-- DICTIONARY_WRITE. -/
def execDictionaryWrite (via : Via) (idx sub : Nat) (value : Bytes) (s : State) : Host.Outcome State Fault Refusal :=
  act s fun s => (s.writeVia via idx sub value fun r s => s.odApply via idx sub value r).keepOpen via idx sub s

def execLogAckedWrite (via : Via) (value : Bytes) (s : State) : Host.Outcome State Fault Refusal :=
  act s fun s => s.writeVia via 0x1200 2 value fun _ s => s.logAckedWrite (leNat value)

def execSmbAlertClear (via : Via) (value : Bytes) (s : State) : Host.Outcome State Fault Refusal :=
  act s fun s => s.writeVia via 0x1110 3 value fun _ s => .ok (s.alertClear (leNat value))

/-! ### What an entry reads as -/

/-- NAND_GATED: the bonded channels with no LUN in service (R531). -/
def State.nandGated (s : State) : Nat :=
  if s.num Reg.yard.yardState < 2 then 0
  else ((List.range s.dev.variant.nandChannels).filter fun c => !(s.yard.luns.any fun l => l.1 == c)).foldl setBit 0

/-- TX_LATENCY_NS and RX_LATENCY_NS of the port mode (Table 13-2). -/
def portLatency (mode : Nat) : Nat × Nat :=
  match mode with
  | 0 => (146, 198)
  | 1 => (152, 206)
  | 2 => (164, 221)
  | _ => (188, 247)

/-- What a numeric entry reads as: its register, or what it follows. -/
def State.readN (s : State) (k : Nat) : Nat :=
  if k = Reg.ident.deviceUid then s.dev.uid
  else if k = Reg.mgmt.mgmtAMac then s.dev.macA
  else if k = Reg.mgmt.mgmtBMac then s.dev.macB
  else if k = Reg.rc.ringNow then s.rc.ring
  else if k = Reg.rc.grainNow then s.grain
  else if k = Reg.rc.taiNow then s.taiNow
  else if k = Reg.cal.calState then s.calState
  else if k = Reg.cal.calendarTai then s.calendarTai
  else if k = Reg.therm.trips then s.num Reg.hw.trips
  else if k = Reg.clk.fallbackUs then s.fallbackUs
  else if k = Reg.gate.nandGated then s.nandGated
  else if k = Reg.sched.step then s.stepNow
  else if k = Reg.log.logWritten then (if s.log.merged then s.log.written else 0)
  else if k = Reg.log.logAcked then (if s.log.merged then s.log.acked else 0)
  else if k = Reg.log.logOccupancy then s.log.occupancy
  else if k = Reg.deckQuery.queryLevel then s.deckQuery.1
  else if k = Reg.deckQuery.queryBytes then s.deckQuery.2.1
  else if k = Reg.deckQuery.queryAlarm then s.deckQuery.2.2
  else if k = Reg.skd.txLatencyNs then (portLatency s.skd.mode).1
  else if k = Reg.skd.rxLatencyNs then (portLatency s.skd.mode).2
  else if k % 256 = 0 ∧ absentIndex s.dev.variant (k / 256) then 0
  else s.num k

/-- The log entries that a reader sees (R573). -/
def State.logSeen (s : State) (who : Who) : List LogEntry :=
  match who with
  | .session id => match s.session? id with
    | some x => if x.isTenant then s.log.entries.filter fun e => e.context < 64 && x.mask.testBit e.context else s.log.entries
    | none => []
  | _ => s.log.entries

/-- What a byte-string entry reads as. -/
def State.readB (s : State) (who : Who) (k : Nat) : Bytes :=
  if k = Reg.ident.serial then s.dev.serial
  else if k = Reg.ident.stepping then s.dev.stepping
  else if k = Reg.sec.romDigest then s.dev.romDigest
  else if k = Reg.sec.deviceCert then s.dev.cert
  else if k = Reg.clk.clockDigest then s.clockDigest
  else if k = Reg.power.powerDigest then s.powerDigest
  else if k = Reg.council.rosterDigest then s.rosterDigest
  else if k = Reg.memb.memberQuery then s.memberQuery
  else if k = Reg.lkCfg.lookoutSecret then zeros 32
  else if k = Reg.shard.shardQuery then s.shardQuery
  else if k = Reg.shard.inventory then s.inventory
  else if k = Reg.shard.inventoryDigest then (if s.yard.shards.isEmpty then zeros 48 else sha384 s.inventory)
  else if k = Reg.connCtl.connQuery then s.connQuery
  else if k = Reg.connCtl.connOpen then
    match who with
    | .session id => ((s.session? id).map (·.connResult)).getD []
    | _ => []
  else if k = Reg.subCtl.subQuery then s.subQuery
  else if k = Reg.log.logEntry then
    (((s.logSeen who).find? fun e => s.log.merged && e.seq == s.num Reg.log.logReadSeq).map LogEntry.encode).getD []
  else if k = Reg.log.logRing then
    ((s.logSeen who).filter fun e => s.log.merged && decide (s.log.acked ≤ e.seq)).flatMap LogEntry.encode
  else s.blob k

/-- The value of an entry in its encoding (R551). -/
def State.readValue (s : State) (who : Who) (r : OdRow) (k : Nat) : Bytes :=
  if r.ty.isBytes then s.readB who k else leBytes (r.ty.width.getD 0) (s.readN k)

/-- The entries whose changes are counted when they are read: each follows state that has no register (R602). -/
def followers : List Nat :=
  [Reg.gate.nandGated, Reg.sched.step, Reg.deckQuery.queryLevel, Reg.deckQuery.queryBytes, Reg.deckQuery.queryAlarm,
   Reg.memb.memberQuery, Reg.shard.shardQuery, Reg.shard.inventory, Reg.shard.inventoryDigest, Reg.connCtl.connQuery,
   Reg.subCtl.subQuery, Reg.log.logEntry, Reg.clk.fallbackUs]

/-- VERSION of an entry (R602). -/
def State.version (s : State) (k : Nat) : Nat :=
  if k = Reg.rc.grainNow ∨ k = Reg.rc.taiNow then wrap 32 s.rc.upCycles
  else if k = Reg.cal.calendarTai then (if s.calState = 0 then 0 else wrap 32 s.rc.upCycles)
  else if k = Reg.therm.trips then s.ver Reg.hw.trips
  else s.ver k

/-- A follower that reads other than it last did has changed. -/
def State.noteFollower (s : State) (k : Nat) (v : Bytes) : State :=
  if !followers.contains k then s
  else match s.mgmt.seen.find? fun p => p.1 == k with
    | some p => if p.2 = v then s
      else { (s.touch k) with mgmt := { s.mgmt with seen := (s.mgmt.seen.filter fun p => p.1 != k) ++ [(k, v)] } }
    | none => { s with mgmt := { s.mgmt with seen := s.mgmt.seen ++ [(k, v)] } }

/-- The RO U64 entries that read exactly through a TENANT session (R509). -/
def tenantExact (k : Nat) : Bool :=
  k == Reg.ptp.gmIdentity || k == Reg.yard.formatId || k / 256 == 0x4410 || k == Reg.seed.seedCheck ||
    k == Reg.path.quarantined

/-- Whether a counter reads rounded down, and at most every 10 ms anew, through a session (R509). -/
def State.coarse (s : State) (who : Who) (r : OdRow) (k : Nat) : Bool :=
  match who with
  | .session id => match s.session? id with
    | some x => x.isTenant && r.ty == .u64 && r.acc == .ro && !tenantExact k
    | none => false
  | _ => false

/-- A coarse read (R509). -/
def State.coarseRead (s : State) (k : Nat) : State × Nat :=
  let fresh := s.readN k / 4096 * 4096
  match s.mgmt.tenantSeen.find? fun p => p.1 == k with
  | some (_, at_, v) =>
    if s.now < at_ + 1000000 then (s, v)
    else ({ s with mgmt := { s.mgmt with
      tenantSeen := (s.mgmt.tenantSeen.filter fun p => p.1 != k) ++ [(k, s.now, fresh)] } }, fresh)
  | none => ({ s with mgmt := { s.mgmt with tenantSeen := s.mgmt.tenantSeen ++ [(k, s.now, fresh)] } }, fresh)

/-- Where a read is refused, its code; else the state after it, the entry's row and its value. -/
def State.odRead (s : State) (who : Who) (idx sub : Nat) : Except Nat (State × OdRow × Bytes) :=
  if vendorTest idx then .error (s.vendorCode who)
  else match odLocate s.dev.variant idx sub with
    | .error c => .error c
    | .ok r =>
      let k := idx * 256 + sub
      if !s.mayRead who r idx sub then .error (deniedCode idx)
      else if s.coarse who r k then
        let p := s.coarseRead k
        .ok (p.1, r, leBytes 8 p.2)
      else
        let v := s.readValue who r k
        .ok (s.noteFollower k v, r, v)

end Sys2Proof.Machine
end

