-- ==== Sys2Proof/Machine/Mgmt.lean ====
section
/-! DEFINITION. Management (R558 to R567, R574, R575): the Tally requests, transfers, event subscriptions, the PCIe mailbox and
SMBus; and the injection of recorded inputs in REPLAY (R75). -/
namespace Sys2Proof.Machine

/-! ### READ and META -/

/-- Bytes of a value that fit one response: TALLY_MAX_MSG, or the mailbox's body, less the header, 12 bytes and a tag. -/
def State.readRoom (s : State) (h : TallyHdr) : Nat :=
  (if h.path = 3 then 2032 else s.num Reg.mgmt.tallyMaxMsg) - 32 - 12 - (if h.secure then 16 else 0)

/-- A READ response body (Table 18-5). -/
def readBody (ty version : Nat) (v : Bytes) (offset n : Nat) : Bytes :=
  leBytes 1 ty ++ zeros 3 ++ beBytes 4 v.length ++ beBytes 4 version ++ (v.drop offset).take n

/-- TALLY_READ. -/
def State.tallyRead (s : State) (h : TallyHdr) (idx sub offset max : Nat) : State :=
  s.request h true fun who s => match s.odRead who idx sub with
    | .error c => (s.refuse c 0xFF 0xFF, [], none)
    | .ok (t, r, v) =>
      (t.ends 0x1100, readBody r.ty.code (t.version (idx * 256 + sub)) v offset (min max (s.readRoom h)), none)

def execTallyRead (hdr : TallyHdr) (idx sub offset max : Nat) (s : State) : Host.Outcome State Fault Refusal :=
  act s fun s => s.tallyRead hdr idx sub offset max

/-- A 64-bit field that holds an integer, in network byte order. -/
def be64 (z : Int) : Bytes := beBytes 8 (z % 2 ^ 64).toNat

/-- The descriptor of an entry (Table 18-4). -/
def OdRow.descriptor (r : OdRow) (idx sub : Nat) (dflt : Nat) (absent : Bool) : Bytes :=
  let flags := (r.kept && bootKept idx).toNat + 2 * (r.kept && !bootKept idx).toNat + 4 * (sealedKey (idx * 256 + sub)).toNat +
    8 * (smbusSubset idx sub || idx == 0x2600).toNat + 16 * absent.toNat
  let head := leBytes 1 r.ty.code ++ leBytes 1 r.acc.code ++ leBytes 1 flags ++ zeros 1
  if r.ty.isBytes then head ++ beBytes 4 r.maxLen ++ zeros 24
  else
    head ++ beBytes 4 (r.ty.width.getD 0) ++ be64 r.lo ++ be64 r.hi ++
      be64 (if r.ty = .i32 then i32Val dflt else (dflt : Int))

/-- The row of an entry, fitted or absent, or the code that there is none. -/
def odRowOf (idx sub : Nat) : Except Nat OdRow :=
  match odFindGroup idx with
  | none => .error 0x1110
  | some g => match g.row sub with
    | none => .error 0x1111
    | some r => .ok r

/-- TALLY_META: allowed as a read is; a WO entry has its descriptor too. -/
def State.tallyMeta (s : State) (h : TallyHdr) (idx sub : Nat) : State :=
  s.request h true fun who s =>
    if vendorTest idx then (s.refuse (s.vendorCode who) 0xFF 0xFF, [], none)
    else match odRowOf idx sub with
      | .error c => (s.refuse c 0xFF 0xFF, [], none)
      | .ok r =>
        if !s.mayRead who (if r.acc = .wo then { r with acc := .rw } else r) idx sub then
          (s.refuse (deniedCode idx) 0xFF 0xFF, [], none)
        else
          let absent := (absentIndex s.dev.variant idx && sub != 0) || absentSub s.dev.variant idx sub
          (s.ends 0x1100, r.descriptor idx sub (odDflt s.dev.variant (idx * 256 + sub)) absent, none)

def execTallyMeta (hdr : TallyHdr) (idx sub : Nat) (s : State) : Host.Outcome State Fault Refusal :=
  act s fun s => s.tallyMeta hdr idx sub

/-! ### Transfers (R561) -/

/-- BLOB_MAX. -/
def blobMax : Nat := 67108864

/-- Why a BLOB_BEGIN is refused. -/
def State.transferRefusal (s : State) (who : Who) (x : Session) (idx sub total : Nat) : Option Nat :=
  if vendorTest idx then some (s.vendorCode who)
  else match odLocate s.dev.variant idx sub with
    | .error c => some c
    | .ok r =>
      if !s.mayWrite who r idx sub then some (deniedCode idx)
      else if r.ty ≠ .blob ∨ min r.maxLen blobMax < total then some 0x1112
      else if 4 ≤ x.transfers.length then some 0x1104
      else none

/-- The next HANDLE of a session, a u16 that no open transfer holds. -/
def Session.freeHandle (x : Session) : Nat :=
  ((List.range 5).map fun i => (x.nextHandle + i) % 65536).find? (fun n => !(x.transfers.any fun t => t.handle == n)) |>.getD 0

/-- BLOB_BEGIN. -/
def State.blobBegin (s : State) (h : TallyHdr) (idx sub total : Nat) (digest : Bytes) : State :=
  s.request h false fun who s => match s.session? h.session with
    | none => (s, [], none)
    | some x => match s.transferRefusal who x idx sub total with
      | some c => (s.refuse c 0xFF 0xFF, [], none)
      | none =>
        let n := x.freeHandle
        let t : Transfer := ⟨n, idx, sub, total, digest, zeros total, List.replicate total false, s.now⟩
        ((s.putSession { x with transfers := x.transfers ++ [t], nextHandle := (n + 1) % 65536 }).ends 0x1100,
          beBytes 2 n, none)

def execBlobBegin (hdr : TallyHdr) (idx sub total : Nat) (digest : Bytes) (s : State) : Host.Outcome State Fault Refusal :=
  act s fun s => s.blobBegin hdr idx sub total digest

def Session.transfer? (x : Session) (n : Nat) : Option Transfer := x.transfers.find? fun t => t.handle == n

def Session.putTransfer (x : Session) (t : Transfer) : Session :=
  { x with transfers := x.transfers.map fun (u : Transfer) => if u.handle = t.handle then t else u }

def Session.endTransfer (x : Session) (n : Nat) : Session := { x with transfers := x.transfers.filter fun t => t.handle != n }

/-- A list with another put over it from place `off` on. -/
def overlay {α : Type} (l : List α) (off : Nat) (m : List α) : List α := l.take off ++ m ++ l.drop (off + m.length)

/-- BLOB_DATA. -/
def State.blobData (s : State) (h : TallyHdr) (n off : Nat) (v : Bytes) : State :=
  s.request h false fun _ s => match s.session? h.session with
    | none => (s, [], none)
    | some x => match x.transfer? n with
      | none => (s.refuse 0x1114 0xFF 0xFF, [], none)
      | some t =>
        if t.total < off + v.length then (s.refuse 0x1112 0xFF 0xFF, [], none)
        else
          let t := { t with
            staged := overlay t.staged off v, written := overlay t.written off (List.replicate v.length true), lastAt := s.now }
          ((s.putSession (x.putTransfer t)).ends 0x1100, [], none)

def execBlobData (hdr : TallyHdr) (handle offset : Nat) (bytes : Bytes) (s : State) : Host.Outcome State Fault Refusal :=
  act s fun s => s.blobData hdr handle offset bytes

/-- BLOB_END: the staged value is applied as one write; a transfer that lacks bytes or whose digest differs stays open. -/
def State.blobEnd (s : State) (h : TallyHdr) (n : Nat) : State :=
  s.request h false fun who s => match s.session? h.session with
    | none => (s, [], none)
    | some x => match x.transfer? n with
      | none => (s.refuse 0x1114 0xFF 0xFF, [], none)
      | some t =>
        if t.written.contains false then (s.refuse 0x1112 0xFF 0xFF, [], none)
        else if sha384 t.staged ≠ t.digest then (s.refuse 0x1113 0xFF 0xFF, [], none)
        else
          let s := s.putSession (x.endTransfer n)
          let u := s.odWrite who t.idx t.sub t.staged fun r s => s.odApply (.tally h) t.idx t.sub t.staged r
          (u.keepOpen (.tally h) t.idx t.sub s, [], some (t.idx * 256 + t.sub))

def execBlobEnd (hdr : TallyHdr) (handle : Nat) (s : State) : Host.Outcome State Fault Refusal :=
  act s fun s => s.blobEnd hdr handle

/-- BLOB_ABORT. -/
def State.blobAbort (s : State) (h : TallyHdr) (n : Nat) : State :=
  s.request h false fun _ s => match s.session? h.session with
    | none => (s, [], none)
    | some x => match x.transfer? n with
      | none => (s.refuse 0x1114 0xFF 0xFF, [], none)
      | some _ => ((s.putSession (x.endTransfer n)).ends 0x1100, [], none)

def execBlobAbort (hdr : TallyHdr) (handle : Nat) (s : State) : Host.Outcome State Fault Refusal :=
  act s fun s => s.blobAbort hdr handle

/-- BLOB_TRANSFER_TIMEOUT: 60 s without a BLOB_DATA. -/
def execBlobTransferTimeout (session handle : Nat) (s : State) : Host.Outcome State Fault Refusal :=
  act s fun s => match s.session? session with
    | none => s
    | some x => match x.transfer? handle with
      | none => s
      | some t => if t.lastAt + 60 * cyclesPerS ≤ s.now then s.putSession (x.endTransfer handle) else s

/-- A write of any entry by a Tally or mailbox message. -/
def State.tallyWrite (s : State) (h : TallyHdr) (idx sub : Nat) (v : Bytes) : State :=
  (s.writeVia (.tally h) idx sub v fun r s => s.odApply (.tally h) idx sub v r).keepOpen (.tally h) idx sub s

/-! ### Event subscriptions (R574, R575) -/

/-- SUBSCRIPTIONS. -/
def State.subsReg (s : State) : State :=
  s.setN Reg.evt.subscriptions (s.mgmt.sessions.filter fun x => x.sub.isSome).length

/-- SUBSCRIBE: the subscription is replaced; an empty mask ends it. -/
def State.subscribe (s : State) (h : TallyHdr) (mask : List Nat) (severity : Nat) (both : Bool) : State :=
  s.request h false fun _ s => match s.session? h.session with
    | none => (s, [], none)
    | some x =>
      let sub : Option Subscription := if mask.isEmpty then none else some ⟨mask, severity, both, [], [], 0⟩
      (((s.putSession { x with sub := sub }).subsReg).ends 0x1100, [], none)

def execSubscribe (hdr : TallyHdr) (sourceMask : List Nat) (minSeverity : Nat) (bothPorts : Bool) (s : State) :
    Host.Outcome State Fault Refusal :=
  act s fun s => s.subscribe hdr sourceMask minSeverity bothPorts

/-- EVENT_ACK. -/
def State.eventAck (s : State) (h : TallyHdr) (c : Nat) : State :=
  s.request h false fun _ s => match s.session? h.session with
    | none => (s, [], none)
    | some x => ((s.putSession { x with sub := x.sub.map fun (u : Subscription) =>
        { u with unacked := u.unacked.filter fun m => c < m.counter } }).ends 0x1100, [], none)

def execEventAck (hdr : TallyHdr) (counter : Nat) (s : State) : Host.Outcome State Fault Refusal :=
  act s fun s => s.eventAck hdr counter

/-- Sends an EVENT where a management link that it goes by is up; the mailbox carries none. -/
def State.eventOut (s : State) (x : Session) (u : Subscription) (m : EventMsg) : State :=
  let up := fun (path : Nat) => (path == 1 || path == 2) && (s.num Reg.mgmt.mgmtLinks).testBit (path - 1)
  if up x.lastPath || (u.bothPorts && up (3 - x.lastPath)) then s.emit (.event x.id u.bothPorts m) else s

/-- The entries that one EVENT holds. -/
def State.eventRoom (s : State) : Nat := (s.num Reg.mgmt.tallyMaxMsg - 32 - 16 - 8) / 64

/-- One EVENT message of the entries at the head of those due: a ninth unacknowledged one drops the oldest, whose entries and
LOST it carries. -/
def State.eventOne (s : State) (id : Nat) : State :=
  match s.session? id with
  | none => s
  | some x => match x.sub with
    | none => s
    | some u =>
      if u.due.isEmpty then s
      else
        let n := s.eventRoom
        let dropped := if u.unacked.length ≥ 8 then u.unacked.take 1 else []
        let lost := u.lost + sum (dropped.map fun m => m.entries.length + m.lost)
        let m : EventMsg := ⟨x.nextEvent, wrap 32 lost, u.due.take n, s.now⟩
        let v := { u with due := u.due.drop n, unacked := u.unacked.drop dropped.length ++ [m], lost := 0 }
        let s := (s.putSession { x with sub := some v, nextEvent := x.nextEvent + 1 }).bump Reg.evt.eventCounter
        let s := s.bumpIf (!dropped.isEmpty) Reg.evt.eventsDropped
        s.eventOut x v m

/-- EVENT_SEND: every entry due goes, in as many messages as it takes. -/
def State.eventSend (s : State) (id : Nat) : State :=
  let n := match (s.session? id).bind (·.sub) with
    | some u => u.due.length
    | none => 0
  (List.range n).foldl (fun (s : State) _ => s.eventOne id) s

def execEventSend (session : Nat) (s : State) : Host.Outcome State Fault Refusal := act s fun s => s.eventSend session

/-- EVENT_RESEND: an unacknowledged EVENT goes again after 1 s, byte for byte. -/
def State.eventResend (s : State) (id c : Nat) : State :=
  match s.session? id with
  | none => s
  | some x => match x.sub with
    | none => s
    | some u => match u.unacked.find? fun m => m.counter == c with
      | none => s
      | some m =>
        if s.now < m.lastSentAt + cyclesPerS then s
        else
          let again : EventMsg := { m with lastSentAt := s.now }
          let v := { u with unacked := u.unacked.map fun (k : EventMsg) => if k.counter = c then again else k }
          (s.putSession { x with sub := some v }).eventOut x v again

def execEventResend (session counter : Nat) (s : State) : Host.Outcome State Fault Refusal :=
  act s fun s => s.eventResend session counter

/-! ### The PCIe mailbox (R564) -/

/-- Body bytes that a request's TYPE calls for: exactly, or at least (Table 18-5). -/
def bodyOk (type len : Nat) : Bool :=
  match type with
  | 1 => len == 12
  | 2 => 4 ≤ len
  | 3 => len == 4
  | 4 => len == 56
  | 5 => 8 ≤ len
  | 6 | 7 => len == 2
  | 0x10 => len == 133
  | 0x12 => len == 96
  | 0x13 => len == 0
  | 0x20 => len == 40
  | 0x22 => len == 8
  | _ => true

/-- A message's header and its body as it reads: a secure body is opened under its session's key. -/
def State.openMessage (s : State) (m : Bytes) : TallyHdr × Bytes :=
  let head := m.take 32
  let secure := (leAt m 4 1).testBit 0
  let len := beAt m 6 2
  let session := beAt m 8 4
  let counter := beAt m 16 8
  let rest := m.drop 32
  let opened : Option Bytes := if secure then
      (s.session? session).bind fun x => Config.gcmOpen x.key (beBytes 4 session ++ beBytes 8 counter) head rest
    else some rest
  let body := opened.getD []
  let fits := 32 ≤ m.length && beAt m 0 2 == 0x544C && leAt m 2 1 == 1 && rest.length == len + (if secure then 16 else 0) &&
    (opened.isNone || bodyOk (leAt m 3 1) body.length)
  (⟨3, 0, 0, fits, m.length, secure, session, beAt m 12 4, counter, opened.isSome⟩, body)

/-- The subsystem bytes that a SOURCE_MASK selects. -/
def maskBytes (b : Bytes) : List Nat := (List.range 256).filter fun i => (leAt b (i / 8) 1).testBit (i % 8)

/-- Runs a request by its TYPE (Table 18-5). -/
def State.runMessage (s : State) (h : TallyHdr) (type : Nat) (b : Bytes) : State :=
  match type with
  | 1 => s.tallyRead h (beAt b 0 2) (leAt b 2 1) (beAt b 4 4) (beAt b 8 4)
  | 2 => s.tallyWrite h (beAt b 0 2) (leAt b 2 1) (b.drop 4)
  | 3 => s.tallyMeta h (beAt b 0 2) (leAt b 2 1)
  | 4 => s.blobBegin h (beAt b 0 2) (leAt b 2 1) (beAt b 4 4) (bytesAt b 8 48)
  | 5 => s.blobData h (beAt b 0 2) (beAt b 4 4) (b.drop 8)
  | 6 => s.blobEnd h (beAt b 0 2)
  | 7 => s.blobAbort h (beAt b 0 2)
  | 0x10 => s.hello h (leAt b 0 1) (bytesAt b 4 97) (bytesAt b 101 32)
  | 0x12 => s.proof h b
  | 0x13 => s.sessionClose h
  | 0x20 => s.subscribe h (maskBytes b) (leAt b 32 1) ((leAt b 33 1).testBit 0)
  | 0x22 => s.eventAck h (beAt b 0 8)
  | _ => s.request h false fun _ s => (s.refuse 0x1102 0xFF 0xFF, [], none)

/-- The session key that a mailbox request's answer may need after its session is gone, or before it opens. -/
def State.mboxKey (s : State) (id : Nat) : Bytes :=
  match s.session? id with
  | some x => x.key
  | none => ((s.mgmt.challenges.find? fun c => c.session == id).map Challenge.sessionKey).getD []

/-- MBOX_GO: a request in progress answers BUSY; a REQ_LEN outside 32 to 2,032 sets FORMAT_ERROR; a message that is dropped
leaves no response. -/
def State.mboxGo (s : State) (len : Nat) (body : Bytes) (irqEn : Bool) (vector : Nat) : State :=
  if s.mgmt.mbox.go then s.refuse 0x1101 0xFF 0xFF
  else
    let m := (body ++ zeros 2032).take 2032
    let bad := decide (len < 32 ∨ 2032 < len)
    let req := m.take len
    let s := { s with mgmt := { s.mgmt with mbox :=
      { s.mgmt.mbox with
        go := true, done := false, irqEn := irqEn, formatError := bad, vector := vector % 2048, reqLen := len, rspLen := 0
        body := m, type := leAt req 3 1, key := s.mboxKey (beAt req 8 4) } } }
    if bad then s.mboxDone []
    else
      let p := s.openMessage req
      let s := s.runMessage p.1 (leAt req 3 1) p.2
      if s.mgmt.mbox.go && !(s.mgmt.heldAnswers.any fun a => a.path == 3) then s.mboxDone [] else s

def execMboxGo (reqLen : Nat) (body : Bytes) (irqEn : Bool) (vector : Nat) (s : State) : Host.Outcome State Fault Refusal :=
  act s fun s => s.mboxGo reqLen body irqEn vector

/-! ### SMBus (R565 to R567) -/

/-- A transaction whose PEC fails is counted and ignored (R565). -/
def State.smbus (s : State) (pecOk : Bool) (f : State → State) : State := if pecOk then f s else s.bump Reg.smb.smbPecErrors

def State.putSmb (s : State) (x : SmBus) : State := { s with mgmt := { s.mgmt with smb := x } }

def execSmbSelect (pecOk : Bool) (idx sub offset : Nat) (s : State) : Host.Outcome State Fault Refusal :=
  act s fun s => s.smbus pecOk fun s => s.putSmb { s.mgmt.smb with idx := idx, sub := sub, offset := offset }

/-- READ: STATUS, TOTAL, and up to 29 bytes of the value from OFFSET. -/
def State.smbRead (s : State) : State :=
  let x := s.mgmt.smb
  match s.odRead .smbus x.idx x.sub with
  | .error c => (s.refuse c 0xFF 0xFF).emit (.smbus (leBytes 2 c ++ [0]))
  | .ok (t, _, v) =>
    (t.ends 0x1100).emit
      (.smbus (leBytes 2 0x1100 ++ leBytes 1 (if 254 < v.length then 0xFF else v.length) ++ (v.drop x.offset).take 29))

def execSmbRead (pecOk : Bool) (s : State) : Host.Outcome State Fault Refusal := act s fun s => s.smbus pecOk State.smbRead

def execSmbStatus (pecOk : Bool) (s : State) : Host.Outcome State Fault Refusal :=
  act s fun s => s.smbus pecOk fun s =>
    if s.num Reg.sec.bootState = 3 then s else s.emit (.smbus (leBytes 2 s.mgmt.smb.lastStatus))

/-- The Alert Response Address, while SMBALERT# is asserted: the device's address in bits 7:1. -/
def execSmbAlertResponse (pecOk : Bool) (s : State) : Host.Outcome State Fault Refusal :=
  act s fun s => s.smbus pecOk fun s =>
    if s.alertAsserted then s.emit (.smbus (leBytes 1 (2 * s.num Reg.smb.smbAddr))) else s

/-! ### Replay (R75) -/

/-- A recorded dictionary write is applied as the serializer applied it. -/
def State.injectWrite (s : State) (p : Bytes) : State :=
  let idx := leAt p 0 2
  let sub := leAt p 2 1
  let v := p.drop 3
  match odLocate s.dev.variant idx sub with
  | .error _ => s
  | .ok r => match s.odApply (.smbus true) idx sub v r with
    | .error _ => s
    | .ok t => t

/-- A recorded push item is queued on its port. -/
def State.injectItem (s : State) (p : Bytes) : State :=
  let port := leAt p 0 2
  let words := (List.range ((p.length - 2) / 8)).map fun i => leAt p (2 + 8 * i) 8
  let x := s.port port
  (s.putPort { x with items := x.items ++ [words] }).portAdvance port (x.items.length + 2)

/-- REPLAY_INJECT: at its recorded offset from RUN_START a record of the run replayed takes effect. -/
def State.replayInject (s : State) (q : Nat) : State :=
  match s.replayJournal with
  | none => s
  | some j => match j.records.find? fun r => r.sequence == q with
    | none => s
    | some r =>
      let at_ := s.num Reg.sched.runStart + (r.ring - j.runStart)
      if s.schedState ≠ schedReplay ∨ s.sched.injected.contains q ∨ s.rc.ring * 1024 + s.grain < at_ * 1024 + r.grain then s
      else
        let s := s.putSched { s.sched with injected := s.sched.injected ++ [q] }
        match r.type with
        | 0x14 => s.injectWrite r.payload
        | 0x13 => s.injectItem r.payload
        | _ => s.putSched { s.sched with replayed := s.sched.replayed ++ [r] }

def execReplayInject (sequence : Nat) (s : State) : Host.Outcome State Fault Refusal :=
  act s fun s => s.replayInject sequence

end Sys2Proof.Machine
end

