-- ==== Sys2Proof/Machine/YardRows.lean ====
section
/-! DEFINITION. The commands of the Yard (R259 to R299), over its shared operations; what their progress completes at the
Landing follows (R363, R376). -/
namespace Sys2Proof.Machine

/-- A command of a Yard that is READY or READ_ONLY takes effect, its registers follow, and what waited at the Landing
completes. -/
def State.yardAct (s : State) (f : State → State) : State := if s.yardUsable then (f s).yardRegs.landSettle else s

/-- One that begins new media work, which a hold-up flush does not (R296). -/
def State.yardBegin (s : State) (f : State → State) : State := if s.pwr.flushing then s else s.yardAct f

def execYardWrite (volume : VolumeRef) (sector : Nat) (data : Bytes) (tuple : PiTuple) (s : State) :
    Host.Outcome State Fault Refusal :=
  act s fun s => (s.yardWrite volume sector data tuple).yardRegs

def execWordlineProgramDone (bolt : Nat) (pass : Bool) (s : State) : Host.Outcome State Fault Refusal :=
  act s fun s => s.yardAct fun s => s.programDone bolt pass

def execYardRead (volume : VolumeRef) (sector : Nat) (read : SectorRead) (s : State) : Host.Outcome State Fault Refusal :=
  act s fun s => (s.yardRead volume sector read).yardRegs

def execNandReadDone (shard offset length : Nat) (reads : List SectorRead) (s : State) : Host.Outcome State Fault Refusal :=
  act s fun s => s.yardAct fun s => s.nandReadDone shard offset length reads

def execPartnerRead (device shard offset length : Nat) (reads : List SectorRead) (s : State) :
    Host.Outcome State Fault Refusal :=
  act s fun s => s.yardBegin fun s => s.partnerRead device shard offset length reads

def execPartnerReadReply (shard offset length : Nat) (bytes : Option Bytes) (s : State) : Host.Outcome State Fault Refusal :=
  act s fun s => s.yardBegin fun s => s.partnerReply shard offset length bytes

def execBoltErase (bolt : Nat) (s : State) : Host.Outcome State Fault Refusal :=
  act s fun s => s.yardBegin fun s => s.beginErase bolt

/-- ERASE_DONE: reads that waited for the erase are then served. -/
def execEraseDone (bolt : Nat) (outcome : EraseOutcome) (s : State) : Host.Outcome State Fault Refusal :=
  act s fun s => s.yardAct fun s =>
    let waiting := match s.yard.erases.find? fun r => r.bolt == bolt with
      | some r => r.waiting
      | none => []
    let s := s.endErase bolt outcome
    (s.placeWaiting s.yard.wb.length).serveWaiting waiting

def execFold (s : State) : Host.Outcome State Fault Refusal := act s fun s => s.yardBegin State.foldStep

def execWearRelocate (s : State) : Host.Outcome State Fault Refusal := act s fun s => s.yardBegin State.wearRelocate

def execPartnerAppend (owner shard offset : Nat) (compressed : Bool) (bytes : Bytes) (s : State) :
    Host.Outcome State Fault Refusal :=
  act s fun s => if s.pwr.flushing then s else (s.partnerAppend owner shard offset compressed bytes).yardRegs

def execPartnerSeal (owner shard bytes : Nat) (digest : Bytes) (s : State) : Host.Outcome State Fault Refusal :=
  act s fun s => s.yardBegin fun s => s.partnerSeal owner shard bytes digest

def execSealAnswer (device shard : Nat) (sealed : Bool) (s : State) : Host.Outcome State Fault Refusal :=
  act s fun s => s.yardAct fun s => s.sealAnswer device shard sealed

def execPartnerWaitTimeout (shard : Nat) (refusing : List Nat) (s : State) : Host.Outcome State Fault Refusal :=
  act s fun s => s.yardAct fun s => s.partnerTimeout shard refusing

/-- DISCARD of a range of a volume (R282); NO_SUCH_SHARD or RANGE where there is none. -/
def State.discardCmd (s : State) (v : VolumeRef) (first count : Nat) : State :=
  if !s.yardUsable then s.refuse 0x3210 0xFF 0xFF
  else match s.volumeRange v with
    | none => s.refuse v.missing 0xFF 0xFF
    | some (base, n) =>
      if n < first + count then s.refuse 0x3217 0xFF 0xFF else (s.discardRange base first count).ends 0x3200

def execDiscard (volume : VolumeRef) (first count : Nat) (s : State) : Host.Outcome State Fault Refusal :=
  act s fun s => (s.discardCmd volume first count).yardRegs

def execCruiseRead (reads : List SectorRead) (blazeGood : Bool) (s : State) : Host.Outcome State Fault Refusal :=
  act s fun s => s.yardBegin fun s => s.cruiseRead reads blazeGood

def execCruiseRateRecompute (s : State) : Host.Outcome State Fault Refusal := act s fun s => s.yardAct State.cruiseRate

def execRefresh (bolt : Nat) (s : State) : Host.Outcome State Fault Refusal :=
  act s fun s => s.yardBegin fun s => s.refreshBolt bolt

def execLunFail (channel lun : Nat) (s : State) : Host.Outcome State Fault Refusal :=
  act s fun s => s.yardAct fun s => s.lunFail channel lun

def execJournalCommit (firstPass secondPass : Bool) (s : State) : Host.Outcome State Fault Refusal :=
  act s fun s => s.yardAct fun s => if s.yard.staged.isEmpty then s else s.journalCommit firstPass secondPass

def execCheckpoint (s : State) : Host.Outcome State Fault Refusal := act s fun s => s.yardBegin State.autoCkpt

def execCheckpointDone (anchorEraseFails : List Nat) (s : State) : Host.Outcome State Fault Refusal :=
  act s fun s => s.yardAct fun s => s.endCkpt anchorEraseFails

def execFormat (via : Via) (eraseFails : List Nat) (s : State) : Host.Outcome State Fault Refusal :=
  act s fun s => s.writeYardCommand via 1 eraseFails

def execCheckpointNow (via : Via) (s : State) : Host.Outcome State Fault Refusal :=
  act s fun s => s.writeYardCommand via 2 []

def execCruiseRestart (via : Via) (s : State) : Host.Outcome State Fault Refusal :=
  act s fun s => s.writeYardCommand via 3 []

end Sys2Proof.Machine
end

