-- ==== Sys2Proof/Machine/Dispatch.lean ====
section
/-! DEFINITION. One arm per command: each is one direct call of the command's meaning. -/
namespace Sys2Proof.Machine

/-- What a command does to everything but the queue. -/
def exec (i : Instr) (s : State) : Host.Outcome State Fault Refusal :=
  match i with
  | .dictionaryWrite via idx sub value => Sys2Proof.Machine.execDictionaryWrite via idx sub value s
  | .sectionLoad via value => Sys2Proof.Machine.execSectionLoad via value s
  | .epochStart => Sys2Proof.Machine.execEpochStart s
  | .loadLate => Sys2Proof.Machine.execLoadLate s
  | .runStartReached => Sys2Proof.Machine.execRunStartReached s
  | .fragmentLaunch key refreshHold => Sys2Proof.Machine.execFragmentLaunch key refreshHold s
  | .launchPrefetch key => Sys2Proof.Machine.execLaunchPrefetch key s
  | .stepDigest step => Sys2Proof.Machine.execStepDigest step s
  | .replayInject sequence => Sys2Proof.Machine.execReplayInject sequence s
  | .ringBegin => Sys2Proof.Machine.execRingBegin s
  | .ptpSync offsetNs tai => Sys2Proof.Machine.execPtpSync offsetNs tai s
  | .rcLocked => Sys2Proof.Machine.execRcLocked s
  | .syncTimeout => Sys2Proof.Machine.execSyncTimeout s
  | .holdoverExpired => Sys2Proof.Machine.execHoldoverExpired s
  | .clockOutlier => Sys2Proof.Machine.execClockOutlier s
  | .gmMismatch => Sys2Proof.Machine.execGmMismatch s
  | .ringLinkUp east => Sys2Proof.Machine.execRingLinkUp east s
  | .ringLinkDown east => Sys2Proof.Machine.execRingLinkDown east s
  | .standHello standId uid => Sys2Proof.Machine.execStandHello standId uid s
  | .formWindowEnd => Sys2Proof.Machine.execFormWindowEnd s
  | .standMaster standId term => Sys2Proof.Machine.execStandMaster standId term s
  | .standHeartbeat standId healthy => Sys2Proof.Machine.execStandHeartbeat standId healthy s
  | .masterMissed => Sys2Proof.Machine.execMasterMissed s
  | .barrierArrive standId barrier => Sys2Proof.Machine.execBarrierArrive standId barrier s
  | .barrierArm barrier term => Sys2Proof.Machine.execBarrierArm barrier term s
  | .barrierArmed standId barrier => Sys2Proof.Machine.execBarrierArmed standId barrier s
  | .standSyncEdge => Sys2Proof.Machine.execStandSyncEdge s
  | .barrierTimeout barrier => Sys2Proof.Machine.execBarrierTimeout barrier s
  | .barrierAbort barrier memberLost => Sys2Proof.Machine.execBarrierAbort barrier memberLost s
  | .decodeImage req desc => Sys2Proof.Machine.execDecodeImage req desc s
  | .decodeFrame req desc => Sys2Proof.Machine.execDecodeFrame req desc s
  | .encodeFits req desc => Sys2Proof.Machine.execEncodeFits req desc s
  | .streamOpen req desc => Sys2Proof.Machine.execStreamOpen req desc s
  | .streamSubmit req desc => Sys2Proof.Machine.execStreamSubmit req desc s
  | .streamClose req desc => Sys2Proof.Machine.execStreamClose req desc s
  | .decodeDescriptorHead cluster queue => Sys2Proof.Machine.execDecodeDescriptorHead cluster queue s
  | .decodeComplete cluster queue unit outcome recipe => Sys2Proof.Machine.execDecodeComplete cluster queue unit outcome recipe s
  | .videoPictureDone cluster outcome recipe => Sys2Proof.Machine.execVideoPictureDone cluster outcome recipe s
  | .islandSpeedSample cluster speed => Sys2Proof.Machine.execIslandSpeedSample cluster speed s
  | .frameData pkt => Sys2Proof.Machine.execFrameData pkt s
  | .frameEnd pkt => Sys2Proof.Machine.execFrameEnd pkt s
  | .frameTimeout stream frame => Sys2Proof.Machine.execFrameTimeout stream frame s
  | .frameStore encoded => Sys2Proof.Machine.execFrameStore encoded s
  | .settingsWrite via stream value => Sys2Proof.Machine.execSettingsWrite via stream value s
  | .settingsAck pkt => Sys2Proof.Machine.execSettingsAck pkt s
  | .settingsUnacked stream generation => Sys2Proof.Machine.execSettingsUnacked stream generation s
  | .fuseDecide group index => Sys2Proof.Machine.execFuseDecide group index s
  | .fuseOutcome standId group index isAck layers => Sys2Proof.Machine.execFuseOutcome standId group index isAck layers s
  | .tokenize req desc => Sys2Proof.Machine.execTokenize req desc s
  | .detokenize req desc => Sys2Proof.Machine.execDetokenize req desc s
  | .vocabLoad req desc => Sys2Proof.Machine.execVocabLoad req desc s
  | .grammarLoad req desc => Sys2Proof.Machine.execGrammarLoad req desc s
  | .grammarCheck req desc => Sys2Proof.Machine.execGrammarCheck req desc s
  | .rolloutOpen req desc => Sys2Proof.Machine.execRolloutOpen req desc s
  | .rolloutClose req desc => Sys2Proof.Machine.execRolloutClose req desc s
  | .tokenDescriptorHead cluster => Sys2Proof.Machine.execTokenDescriptorHead cluster s
  | .tokenComplete cluster unit recipe => Sys2Proof.Machine.execTokenComplete cluster unit recipe s
  | .rolloutChunk stream slot => Sys2Proof.Machine.execRolloutChunk stream slot s
  | .rolloutNotifyProcess stream => Sys2Proof.Machine.execRolloutNotifyProcess stream s
  | .rolloutTimeout stream rollout => Sys2Proof.Machine.execRolloutTimeout stream rollout s
  | .launch req desc => Sys2Proof.Machine.execLaunch req desc s
  | .kernelLoad req desc => Sys2Proof.Machine.execKernelLoad req desc s
  | .kernelUnload req desc => Sys2Proof.Machine.execKernelUnload req desc s
  | .modelLoad req desc => Sys2Proof.Machine.execModelLoad req desc s
  | .modelUnload req desc => Sys2Proof.Machine.execModelUnload req desc s
  | .computeDescriptorHead cluster => Sys2Proof.Machine.execComputeDescriptorHead cluster s
  | .workItemEnd cluster core item => Sys2Proof.Machine.execWorkItemEnd cluster core item s
  | .itemBudget cluster core pc => Sys2Proof.Machine.execItemBudget cluster core pc s
  | .engineLdSt at_ op => Sys2Proof.Machine.execEngineLdSt at_ op s
  | .engineMma at_ op => Sys2Proof.Machine.execEngineMma at_ op s
  | .engineAcc at_ op => Sys2Proof.Machine.execEngineAcc at_ op s
  | .engineCvt at_ op => Sys2Proof.Machine.execEngineCvt at_ op s
  | .engineValu at_ op => Sys2Proof.Machine.execEngineValu at_ op s
  | .engineVred at_ op => Sys2Proof.Machine.execEngineVred at_ op s
  | .engineVperm at_ op => Sys2Proof.Machine.execEngineVperm at_ op s
  | .engineSync at_ target => Sys2Proof.Machine.execEngineSync at_ target s
  | .dmaTransfer cluster core pc op => Sys2Proof.Machine.execDmaTransfer cluster core pc op s
  | .dmaComplete cluster core => Sys2Proof.Machine.execDmaComplete cluster core s
  | .gradeStart via => Sys2Proof.Machine.execGradeStart via s
  | .gradeAbort via => Sys2Proof.Machine.execGradeAbort via s
  | .gradeSignatures device filter signatures => Sys2Proof.Machine.execGradeSignatures device filter signatures s
  | .gradeDone => Sys2Proof.Machine.execGradeDone s
  | .prepareFragment => Sys2Proof.Machine.execPrepareFragment s
  | .fragmentReady key contribution block items => Sys2Proof.Machine.execFragmentReady key contribution block items s
  | .retentionEnd key => Sys2Proof.Machine.execRetentionEnd key s
  | .seasonClear via value => Sys2Proof.Machine.execSeasonClear via value s
  | .yardWrite volume sector data tuple => Sys2Proof.Machine.execYardWrite volume sector data tuple s
  | .wordlineProgramDone bolt pass => Sys2Proof.Machine.execWordlineProgramDone bolt pass s
  | .yardRead volume sector read => Sys2Proof.Machine.execYardRead volume sector read s
  | .nandReadDone shard offset length reads => Sys2Proof.Machine.execNandReadDone shard offset length reads s
  | .partnerRead device shard offset length reads => Sys2Proof.Machine.execPartnerRead device shard offset length reads s
  | .partnerReadReply shard offset length bytes => Sys2Proof.Machine.execPartnerReadReply shard offset length bytes s
  | .boltErase bolt => Sys2Proof.Machine.execBoltErase bolt s
  | .eraseDone bolt outcome => Sys2Proof.Machine.execEraseDone bolt outcome s
  | .fold => Sys2Proof.Machine.execFold s
  | .wearRelocate => Sys2Proof.Machine.execWearRelocate s
  | .partnerAppend owner shard offset compressed bytes => Sys2Proof.Machine.execPartnerAppend owner shard offset compressed bytes s
  | .partnerSeal owner shard bytes digest => Sys2Proof.Machine.execPartnerSeal owner shard bytes digest s
  | .sealAnswer device shard sealed => Sys2Proof.Machine.execSealAnswer device shard sealed s
  | .partnerWaitTimeout shard refusing => Sys2Proof.Machine.execPartnerWaitTimeout shard refusing s
  | .discard volume first count => Sys2Proof.Machine.execDiscard volume first count s
  | .cruiseRead reads blazeGood => Sys2Proof.Machine.execCruiseRead reads blazeGood s
  | .cruiseRateRecompute => Sys2Proof.Machine.execCruiseRateRecompute s
  | .refresh bolt => Sys2Proof.Machine.execRefresh bolt s
  | .lunFail channel lun => Sys2Proof.Machine.execLunFail channel lun s
  | .journalCommit firstPass secondPass => Sys2Proof.Machine.execJournalCommit firstPass secondPass s
  | .checkpoint => Sys2Proof.Machine.execCheckpoint s
  | .checkpointDone anchorEraseFails => Sys2Proof.Machine.execCheckpointDone anchorEraseFails s
  | .yardRecovery media => Sys2Proof.Machine.execYardRecovery media s
  | .format via eraseFails => Sys2Proof.Machine.execFormat via eraseFails s
  | .checkpointNow via => Sys2Proof.Machine.execCheckpointNow via s
  | .cruiseRestart via => Sys2Proof.Machine.execCruiseRestart via s
  | .alloc req cmd => Sys2Proof.Machine.execAlloc req cmd s
  | .extend req cmd => Sys2Proof.Machine.execExtend req cmd s
  | .pass req cmd => Sys2Proof.Machine.execPass req cmd s
  | .free req cmd => Sys2Proof.Machine.execFree req cmd s
  | .query req cmd => Sys2Proof.Machine.execQuery req cmd s
  | .waitGrant pool => Sys2Proof.Machine.execWaitGrant pool s
  | .blocksReturn handle => Sys2Proof.Machine.execBlocksReturn handle s
  | .memoryCorrected tier => Sys2Proof.Machine.execMemoryCorrected tier s
  | .memoryUncorrectable pool block => Sys2Proof.Machine.execMemoryUncorrectable pool block s
  | .arbiterCycle kind inst reqs launch portFree withdraw => Sys2Proof.Machine.execArbiterCycle kind inst reqs launch portFree withdraw s
  | .starveIntervalReached kind inst => Sys2Proof.Machine.execStarveIntervalReached kind inst s
  | .compress desc => Sys2Proof.Machine.execCompress desc s
  | .decompress desc => Sys2Proof.Machine.execDecompress desc s
  | .chipperDescriptorHead chipper decomp => Sys2Proof.Machine.execChipperDescriptorHead chipper decomp s
  | .chipperComplete chipper decomp => Sys2Proof.Machine.execChipperComplete chipper decomp s
  | .createIoSubmissionQueue cid qid size cqid => Sys2Proof.Machine.execCreateIoSubmissionQueue cid qid size cqid s
  | .deleteIoSubmissionQueue cid qid => Sys2Proof.Machine.execDeleteIoSubmissionQueue cid qid s
  | .createIoCompletionQueue cid qid size vector => Sys2Proof.Machine.execCreateIoCompletionQueue cid qid size vector s
  | .deleteIoCompletionQueue cid qid => Sys2Proof.Machine.execDeleteIoCompletionQueue cid qid s
  | .identify cid cns nsid => Sys2Proof.Machine.execIdentify cid cns nsid s
  | .getLogPage cid lid => Sys2Proof.Machine.execGetLogPage cid lid s
  | .setFeatures cid fid value => Sys2Proof.Machine.execSetFeatures cid fid value s
  | .getFeatures cid fid => Sys2Proof.Machine.execGetFeatures cid fid s
  | .abort cid sqid named => Sys2Proof.Machine.execAbort cid sqid named s
  | .asynchronousEventRequest cid => Sys2Proof.Machine.execAsynchronousEventRequest cid s
  | .namespaceManagement cid op => Sys2Proof.Machine.execNamespaceManagement cid op s
  | .namespaceAttachment cid nsid attach controllers => Sys2Proof.Machine.execNamespaceAttachment cid nsid attach controllers s
  | .formatNvm cid nsid lbaf ses eraseFails => Sys2Proof.Machine.execFormatNvm cid nsid lbaf ses eraseFails s
  | .firmwareImageDownload cid offset bytes => Sys2Proof.Machine.execFirmwareImageDownload cid offset bytes s
  | .firmwareCommit cid slot action svn trusted => Sys2Proof.Machine.execFirmwareCommit cid slot action svn trusted s
  | .deviceSelfTest cid nsid code => Sys2Proof.Machine.execDeviceSelfTest cid nsid code s
  | .nvmeFlush sq cid nsid => Sys2Proof.Machine.execNvmeFlush sq cid nsid s
  | .nvmeWrite sq cid nsid slba fua pi sectors stage => Sys2Proof.Machine.execNvmeWrite sq cid nsid slba fua pi sectors stage s
  | .nvmeRead sq cid nsid slba count pi reads => Sys2Proof.Machine.execNvmeRead sq cid nsid slba count pi reads s
  | .writeZeroes sq cid nsid slba count => Sys2Proof.Machine.execWriteZeroes sq cid nsid slba count s
  | .datasetManagement sq cid nsid deallocate ranges => Sys2Proof.Machine.execDatasetManagement sq cid nsid deallocate ranges s
  | .verify sq cid nsid slba count pi reads => Sys2Proof.Machine.execVerify sq cid nsid slba count pi reads s
  | .compare sq cid nsid slba pi data reads => Sys2Proof.Machine.execCompare sq cid nsid slba pi data reads s
  | .invalidCommandOpcode sq cid opcode => Sys2Proof.Machine.execInvalidCommandOpcode sq cid opcode s
  | .sqTailDoorbell sq commands => Sys2Proof.Machine.execSqTailDoorbell sq commands s
  | .cqHeadDoorbell cq head => Sys2Proof.Machine.execCqHeadDoorbell cq head s
  | .commandDispatch sq cid => Sys2Proof.Machine.execCommandDispatch sq cid s
  | .controllerReset => Sys2Proof.Machine.execControllerReset s
  | .selftestResume => Sys2Proof.Machine.execSelftestResume s
  | .pshFirst port word wide => Sys2Proof.Machine.execPshFirst port word wide s
  | .pshPush port word wide => Sys2Proof.Machine.execPshPush port word wide s
  | .pshFlush port => Sys2Proof.Machine.execPshFlush port s
  | .pshStatusRead port => Sys2Proof.Machine.execPshStatusRead port s
  | .pshCqHead port head => Sys2Proof.Machine.execPshCqHead port head s
  | .shardOpen port refusing => Sys2Proof.Machine.execShardOpen port refusing s
  | .ingestNs port reads => Sys2Proof.Machine.execIngestNs port reads s
  | .shardSeal port => Sys2Proof.Machine.execShardSeal port s
  | .shardDelete port => Sys2Proof.Machine.execShardDelete port s
  | .contextMsg port => Sys2Proof.Machine.execContextMsg port s
  | .remoteIngest source message => Sys2Proof.Machine.execRemoteIngest source message s
  | .deviceSelfTestDone failing => Sys2Proof.Machine.execDeviceSelfTestDone failing s
  | .connOpen via value => Sys2Proof.Machine.execConnOpen via value s
  | .connClose via value => Sys2Proof.Machine.execConnClose via value s
  | .skdWriteRx pkt ext => Sys2Proof.Machine.execSkdWriteRx pkt ext s
  | .skdWriteImmRx pkt ext => Sys2Proof.Machine.execSkdWriteImmRx pkt ext s
  | .skdReadReqRx pkt ext => Sys2Proof.Machine.execSkdReadReqRx pkt ext s
  | .skdReadRespRx pkt ext => Sys2Proof.Machine.execSkdReadRespRx pkt ext s
  | .skdAckRx pkt => Sys2Proof.Machine.execSkdAckRx pkt s
  | .skdLookoutRx pkt frame => Sys2Proof.Machine.execSkdLookoutRx pkt frame s
  | .noticeFenced pkt => Sys2Proof.Machine.execNoticeFenced pkt s
  | .noticeNoConnection pkt => Sys2Proof.Machine.execNoticeNoConnection pkt s
  | .noticeLookout pkt notice => Sys2Proof.Machine.execNoticeLookout pkt notice s
  | .noticeIngestResult pkt => Sys2Proof.Machine.execNoticeIngestResult pkt s
  | .noticeMsgDiscarded pkt => Sys2Proof.Machine.execNoticeMsgDiscarded pkt s
  | .noticeReadError pkt => Sys2Proof.Machine.execNoticeReadError pkt s
  | .ackSend conn => Sys2Proof.Machine.execAckSend conn s
  | .packetLost conn psn => Sys2Proof.Machine.execPacketLost conn psn s
  | .retransmitTimeout conn psn => Sys2Proof.Machine.execRetransmitTimeout conn psn s
  | .quarantineEnd port label => Sys2Proof.Machine.execQuarantineEnd port label s
  | .rcPeriod => Sys2Proof.Machine.execRcPeriod s
  | .keyGraceEnd conn => Sys2Proof.Machine.execKeyGraceEnd conn s
  | .earlyRotation conn => Sys2Proof.Machine.execEarlyRotation conn s
  | .linkDown port => Sys2Proof.Machine.execLinkDown port s
  | .linkUp port => Sys2Proof.Machine.execLinkUp port s
  | .skdTxqTail ctx tail descs => Sys2Proof.Machine.execSkdTxqTail ctx tail descs s
  | .transferWrite src desc data => Sys2Proof.Machine.execTransferWrite src desc data s
  | .transferWriteImm src desc data => Sys2Proof.Machine.execTransferWriteImm src desc data s
  | .transferRead src desc => Sys2Proof.Machine.execTransferRead src desc s
  | .skdCqHead ctx head => Sys2Proof.Machine.execSkdCqHead ctx head s
  | .pauseFrameRx port => Sys2Proof.Machine.execPauseFrameRx port s
  | .rocev2AckNak conn psn nak => Sys2Proof.Machine.execRocev2AckNak conn psn nak s
  | .rocev2Cnp conn => Sys2Proof.Machine.execRocev2Cnp conn s
  | .fiReorderRelease port => Sys2Proof.Machine.execFiReorderRelease port s
  | .egressSelect port => Sys2Proof.Machine.execEgressSelect port s
  | .subConfigure via value => Sys2Proof.Machine.execSubConfigure via value s
  | .subRelease via value => Sys2Proof.Machine.execSubRelease via value s
  | .lkHeartbeat hdr gmHash lkState lockstepOk echoTx echoRx suspects => Sys2Proof.Machine.execLkHeartbeat hdr gmHash lkState lockstepOk echoTx echoRx suspects s
  | .heartbeatWindow => Sys2Proof.Machine.execHeartbeatWindow s
  | .lkSuspect hdr subject subjectGen suspectRing => Sys2Proof.Machine.execLkSuspect hdr subject subjectGen suspectRing s
  | .lkAbort hdr a => Sys2Proof.Machine.execLkAbort hdr a s
  | .lkProbe hdr subject subjectGen term => Sys2Proof.Machine.execLkProbe hdr subject subjectGen term s
  | .lkProbeReply hdr subject subjectGen term => Sys2Proof.Machine.execLkProbeReply hdr subject subjectGen term s
  | .probeTimeout subjectGen => Sys2Proof.Machine.execProbeTimeout subjectGen s
  | .lkVote hdr term proposal vote => Sys2Proof.Machine.execLkVote hdr term proposal vote s
  | .voteFallback subjectGen => Sys2Proof.Machine.execVoteFallback subjectGen s
  | .decisionAlive hdr d => Sys2Proof.Machine.execDecisionAlive hdr d s
  | .decisionDead hdr d => Sys2Proof.Machine.execDecisionDead hdr d s
  | .decisionAdmit hdr d => Sys2Proof.Machine.execDecisionAdmit hdr d s
  | .decisionCoppiceStart hdr d => Sys2Proof.Machine.execDecisionCoppiceStart hdr d s
  | .decisionSlotReady hdr d => Sys2Proof.Machine.execDecisionSlotReady hdr d s
  | .decisionCoOpt hdr d => Sys2Proof.Machine.execDecisionCoOpt hdr d s
  | .decisionEpochShift hdr d => Sys2Proof.Machine.execDecisionEpochShift hdr d s
  | .decisionDomainHold hdr d => Sys2Proof.Machine.execDecisionDomainHold hdr d s
  | .decisionResume hdr d => Sys2Proof.Machine.execDecisionResume hdr d s
  | .decisionOrphaned hdr d => Sys2Proof.Machine.execDecisionOrphaned hdr d s
  | .decisionDemote hdr d => Sys2Proof.Machine.execDecisionDemote hdr d s
  | .decisionScores hdr d => Sys2Proof.Machine.execDecisionScores hdr d s
  | .declareVoid hdr epoch step => Sys2Proof.Machine.execDeclareVoid hdr epoch step s
  | .declareAbsent hdr epoch step => Sys2Proof.Machine.execDeclareAbsent hdr epoch step s
  | .declareResume hdr epoch step => Sys2Proof.Machine.execDeclareResume hdr epoch step s
  | .declareLoadLate hdr epoch step => Sys2Proof.Machine.execDeclareLoadLate hdr epoch step s
  | .declareIsolated hdr epoch step => Sys2Proof.Machine.execDeclareIsolated hdr epoch step s
  | .declareCoppiceDone hdr epoch step => Sys2Proof.Machine.execDeclareCoppiceDone hdr epoch step s
  | .declareReingested hdr epoch step => Sys2Proof.Machine.execDeclareReingested hdr epoch step s
  | .declareVerifyDone hdr epoch step => Sys2Proof.Machine.execDeclareVerifyDone hdr epoch step s
  | .declareHoldMembership hdr epoch step => Sys2Proof.Machine.execDeclareHoldMembership hdr epoch step s
  | .lkJoin hdr uid slot capset => Sys2Proof.Machine.execLkJoin hdr uid slot capset s
  | .joinSend slot => Sys2Proof.Machine.execJoinSend slot s
  | .lkLate hdr epoch step grains => Sys2Proof.Machine.execLkLate hdr epoch step grains s
  | .latenessTally epoch step => Sys2Proof.Machine.execLatenessTally epoch step s
  | .scoreDecay => Sys2Proof.Machine.execScoreDecay s
  | .lkStatusQuery hdr uid => Sys2Proof.Machine.execLkStatusQuery hdr uid s
  | .lkStatusReply hdr uid slot lkState generation => Sys2Proof.Machine.execLkStatusReply hdr uid slot lkState generation s
  | .lkSnapshot hdr offset bytes => Sys2Proof.Machine.execLkSnapshot hdr offset bytes s
  | .lkFenced hdr slot generation => Sys2Proof.Machine.execLkFenced hdr slot generation s
  | .decisionMissing subjectGen => Sys2Proof.Machine.execDecisionMissing subjectGen s
  | .lockstepFault => Sys2Proof.Machine.execLockstepFault s
  | .deliveryFault key => Sys2Proof.Machine.execDeliveryFault key s
  | .coppiceShardCopy => Sys2Proof.Machine.execCoppiceShardCopy s
  | .spareVerify failed => Sys2Proof.Machine.execSpareVerify failed s
  | .councilReseed via value => Sys2Proof.Machine.execCouncilReseed via value s
  | .define via ctx => Sys2Proof.Machine.execDefine via ctx s
  | .destroy via ctx => Sys2Proof.Machine.execDestroy via ctx s
  | .context0Program via program => Sys2Proof.Machine.execContext0Program via program s
  | .contextSwitch cluster verified scrubUs switchUs => Sys2Proof.Machine.execContextSwitch cluster verified scrubUs switchUs s
  | .secureBoot => Sys2Proof.Machine.execSecureBoot s
  | .advanceSvn via => Sys2Proof.Machine.execAdvanceSvn via s
  | .attestRequest via value => Sys2Proof.Machine.execAttestRequest via value s
  | .operatorKeysWrite via value => Sys2Proof.Machine.execOperatorKeysWrite via value s
  | .sessionHello hdr keyIndex qc nc => Sys2Proof.Machine.execSessionHello hdr keyIndex qc nc s
  | .sessionProof hdr signature => Sys2Proof.Machine.execSessionProof hdr signature s
  | .sessionClose hdr => Sys2Proof.Machine.execSessionClose hdr s
  | .challengeTimeout session => Sys2Proof.Machine.execChallengeTimeout session s
  | .sessionIdleTimeout session => Sys2Proof.Machine.execSessionIdleTimeout session s
  | .sessionLifeTimeout session => Sys2Proof.Machine.execSessionLifeTimeout session s
  | .testEnAssert heldNs => Sys2Proof.Machine.execTestEnAssert heldNs s
  | .testEnDeassert heldNs => Sys2Proof.Machine.execTestEnDeassert heldNs s
  | .pllLossOfLock => Sys2Proof.Machine.execPllLossOfLock s
  | .pllRelockAttempt => Sys2Proof.Machine.execPllRelockAttempt s
  | .pllRelock => Sys2Proof.Machine.execPllRelock s
  | .pllFailed => Sys2Proof.Machine.execPllFailed s
  | .sscApply => Sys2Proof.Machine.execSscApply s
  | .fineGateClose unit => Sys2Proof.Machine.execFineGateClose unit s
  | .clusterGateWrite via mask => Sys2Proof.Machine.execClusterGateWrite via mask s
  | .portGateWrite via mask => Sys2Proof.Machine.execPortGateWrite via mask s
  | .railMeasure rails => Sys2Proof.Machine.execRailMeasure rails s
  | .capControl => Sys2Proof.Machine.execCapControl s
  | .powerWindowEnd => Sys2Proof.Machine.execPowerWindowEnd s
  | .thermalChange tjDc => Sys2Proof.Machine.execThermalChange tjDc s
  | .thermalTrip tjDc => Sys2Proof.Machine.execThermalTrip tjDc s
  | .hardwareTrip => Sys2Proof.Machine.execHardwareTrip s
  | .coolingHoldEnd => Sys2Proof.Machine.execCoolingHoldEnd s
  | .powerOn perstLow => Sys2Proof.Machine.execPowerOn perstLow s
  | .perstAssert heldNs => Sys2Proof.Machine.execPerstAssert heldNs s
  | .perstDeassert strap pllLocks memory => Sys2Proof.Machine.execPerstDeassert strap pllLocks memory s
  | .resetCmdDevice via => Sys2Proof.Machine.execResetCmdDevice via s
  | .resetCmdDeviceForce via => Sys2Proof.Machine.execResetCmdDeviceForce via s
  | .watchdogExpiry => Sys2Proof.Machine.execWatchdogExpiry s
  | .functionLevelReset => Sys2Proof.Machine.execFunctionLevelReset s
  | .pwrFailAssert heldNs => Sys2Proof.Machine.execPwrFailAssert heldNs s
  | .pwrFailDeassert => Sys2Proof.Machine.execPwrFailDeassert s
  | .tallyRead hdr idx sub offset max => Sys2Proof.Machine.execTallyRead hdr idx sub offset max s
  | .tallyMeta hdr idx sub => Sys2Proof.Machine.execTallyMeta hdr idx sub s
  | .blobBegin hdr idx sub total digest => Sys2Proof.Machine.execBlobBegin hdr idx sub total digest s
  | .blobData hdr handle offset bytes => Sys2Proof.Machine.execBlobData hdr handle offset bytes s
  | .blobEnd hdr handle => Sys2Proof.Machine.execBlobEnd hdr handle s
  | .blobAbort hdr handle => Sys2Proof.Machine.execBlobAbort hdr handle s
  | .blobTransferTimeout session handle => Sys2Proof.Machine.execBlobTransferTimeout session handle s
  | .subscribe hdr sourceMask minSeverity bothPorts => Sys2Proof.Machine.execSubscribe hdr sourceMask minSeverity bothPorts s
  | .eventAck hdr counter => Sys2Proof.Machine.execEventAck hdr counter s
  | .eventSend session => Sys2Proof.Machine.execEventSend session s
  | .eventResend session counter => Sys2Proof.Machine.execEventResend session counter s
  | .mboxGo reqLen body irqEn vector => Sys2Proof.Machine.execMboxGo reqLen body irqEn vector s
  | .smbSelect pecOk idx sub offset => Sys2Proof.Machine.execSmbSelect pecOk idx sub offset s
  | .smbRead pecOk => Sys2Proof.Machine.execSmbRead pecOk s
  | .smbStatus pecOk => Sys2Proof.Machine.execSmbStatus pecOk s
  | .smbAlertResponse pecOk => Sys2Proof.Machine.execSmbAlertResponse pecOk s
  | .smbAlertClear via value => Sys2Proof.Machine.execSmbAlertClear via value s
  | .logWindowClose seq => Sys2Proof.Machine.execLogWindowClose seq s
  | .logMirrorWrite => Sys2Proof.Machine.execLogMirrorWrite s
  | .logAckedWrite via value => Sys2Proof.Machine.execLogAckedWrite via value s
  | .persistCommit key => Sys2Proof.Machine.execPersistCommit key s
  | .heartwoodUpdate => Sys2Proof.Machine.execHeartwoodUpdate s
  | .mgmtLinkChange port up => Sys2Proof.Machine.execMgmtLinkChange port up s
  | .ptpAnnounce clockIdentity better utcOffset => Sys2Proof.Machine.execPtpAnnounce clockIdentity better utcOffset s

end Sys2Proof.Machine
end

