-- ==== Sys2Proof/WellFormed.lean ====
section
/-! DEFINITION. Which operands a command may carry: every field of a structure fits its width, and the numbers of paths,
ports, clusters, contexts and slots are of things that exist. The device itself checks what the spec tells it to check;
this predicate is about the commands alone. -/
namespace Sys2Proof.Machine

/-- A number fits in `w` bits. -/
def fits (w x : Nat) : Bool := decide (x < 2 ^ w)

/-- A Tally header (Table 18-4). -/
def TallyHdr.wf (p : TallyHdr) : Bool :=
  fits 16 p.port && fits 32 p.session && fits 32 p.reqId && fits 64 p.counter &&
    decide (1 ≤ p.path) && decide (p.path ≤ 3)

/-- A decode descriptor (Table 4-1). -/
def DecodeDesc.wf (p : DecodeDesc) : Bool :=
  fits 16 p.mediaType && fits 8 p.cluster && fits 8 p.unit && fits 16 p.outFormat && fits 32 p.inBuf &&
    fits 32 p.inLen && fits 32 p.outBuf && fits 32 p.outCap && fits 64 p.sample && fits 32 p.stream &&
    fits 32 p.options && fits 64 p.resultAddr && fits 64 p.errorAddr && fits 64 p.params

/-- An intake packet (Table 5-1), on one of the data ports. -/
def IntakePacket.wf (p : IntakePacket) : Bool :=
  fits 16 p.udpPort && fits 16 p.stream && fits 32 p.frame && fits 32 p.generation && fits 64 p.soe &&
    fits 32 p.offset && fits 64 p.rxTai && decide (p.port < 32) && decide (p.payload.length ≤ 8192)

/-- A layer outcome (R163). -/
def LayerOutcome.wf (p : LayerOutcome) : Bool :=
  fits 8 p.layer && fits 8 p.outcome && fits 8 p.flags && fits 16 p.stream && fits 32 p.frame &&
    fits 32 p.settingsGen && fits 64 p.soe

/-- A token descriptor (Table 6-1). -/
def TokenDesc.wf (p : TokenDesc) : Bool :=
  fits 16 p.options && fits 8 p.cluster && fits 8 p.unit && fits 16 p.policy && fits 32 p.inBuf &&
    fits 32 p.inLen && fits 32 p.outBuf && fits 32 p.outCap && fits 64 p.sample && fits 64 p.vocabTag &&
    fits 64 p.resultAddr && fits 64 p.errorAddr && fits 64 p.params

/-- A compute descriptor (Table 7-8). -/
def ComputeDesc.wf (p : ComputeDesc) : Bool :=
  fits 16 p.options && fits 8 p.cluster && fits 8 p.coreMask && fits 8 p.reproClass && fits 32 p.kernel &&
    fits 32 p.items && fits 32 p.argBuf && fits 32 p.sampleTable && fits 16 p.partition_ &&
    fits 16 p.slotBase && fits 32 p.epoch && fits 64 p.model && fits 64 p.resultAddr

/-- A fragment key (R65). -/
def FragKey.wf (p : FragKey) : Bool :=
  fits 32 p.epoch && fits 32 p.step && fits 32 p.consumer

/-- A protection tuple (R284). -/
def PiTuple.wf (p : PiTuple) : Bool :=
  fits 64 p.guard && fits 16 p.app && fits 48 p.ref

/-- A buffer pool command (Table 10-8). -/
def PoolCmd.wf (p : PoolCmd) : Bool :=
  fits 8 p.flags && fits 16 p.owner && fits 32 p.handle && fits 32 p.bytes && fits 8 p.pool &&
    fits 8 p.context && fits 16 p.reserved

/-- A Chipper descriptor (Table 11-4). -/
def ChipDesc.wf (p : ChipDesc) : Bool :=
  fits 8 p.flags && fits 8 p.blockLog2 && fits 8 p.cls && fits 8 p.chipper && fits 16 p.returnTo &&
    fits 32 p.inBuf && fits 32 p.inOff && fits 32 p.inLen && fits 32 p.outBuf && fits 32 p.outOff &&
    fits 64 p.outLimit && fits 64 p.tag && fits 64 p.resultAddr

/-- An NVMe command head. -/
def NvmeHead.wf (p : NvmeHead) : Bool :=
  fits 16 p.cid && fits 8 p.opcode && fits 32 p.nsid

/-- The protection fields of an NVMe command (R362). -/
def PiCheck.wf (p : PiCheck) : Bool :=
  fits 16 p.lbat && fits 16 p.lbatm && fits 48 p.ilbrt

/-- A Skidder packet (Table 13-5). -/
def SkdRx.wf (p : SkdRx) : Bool :=
  fits 4 p.version && fits 6 p.label && fits 8 p.keyEpoch && fits 16 p.dstConn && fits 16 p.srcConn &&
    fits 16 p.srcSlot && fits 32 p.generation && fits 32 p.psn && fits 32 p.msgId && fits 64 p.serial &&
    decide (p.port < 32)

/-- The operation extension (Table 13-6). -/
def SkdExt.wf (p : SkdExt) : Bool :=
  fits 32 p.remoteKey && fits 32 p.msgBytes && fits 64 p.offset && fits 32 p.immediate

/-- A transfer descriptor (Table 13-14). -/
def TransferDesc.wf (p : TransferDesc) : Bool :=
  fits 8 p.op && fits 16 p.conn && fits 32 p.immediate && fits 64 p.local_ && fits 32 p.length &&
    fits 32 p.remoteKey && fits 64 p.remoteOffset && fits 64 p.tag

/-- A Lookout header (Table 15-2). -/
def LkHdr.wf (p : LkHdr) : Bool :=
  fits 32 p.domain && fits 16 p.srcSlot && fits 32 p.generation && fits 64 p.ring && fits 16 p.grain &&
    fits 8 p.keyEpoch && fits 32 p.msgSeq && fits 64 p.txCount && decide (p.path ≤ 2)

/-- An ABORT entry (Table 15-4). -/
def LkEntry.wf (p : LkEntry) : Bool :=
  fits 32 p.epoch && fits 32 p.step && fits 32 p.consumer && fits 16 p.attempt && fits 16 p.server

/-- An ABORT payload (Table 15-3). -/
def LkAbort.wf (p : LkAbort) : Bool :=
  fits 16 p.replaced && fits 8 p.cause && fits 32 p.replacedGen && fits 64 p.suspectRing &&
    p.entries.all LkEntry.wf

/-- A DECISION payload (Table 15-7). -/
def LkDecision.wf (p : LkDecision) : Bool :=
  fits 32 p.term && fits 32 p.seq && fits 8 p.outcome && fits 16 p.subject && fits 32 p.subjectGen &&
    fits 32 p.newGen && fits 64 p.subjectUid && fits 32 p.epoch && fits 32 p.resumeStep &&
    fits 32 p.shiftRings && fits 32 p.count && decide (p.voters.length ≤ 5) && p.voters.all (fits 16)

/-- A Lookout notice body (Table 15-5). -/
def LkNotice.wf (p : LkNotice) : Bool :=
  fits 8 p.kind && fits 16 p.attempt && fits 32 p.epoch && fits 32 p.step && fits 32 p.consumer &&
    fits 16 p.replacedSlot && fits 16 p.serverSlot && fits 32 p.replacedGen && fits 32 p.serverGen &&
    fits 64 p.relaunchRing

/-- A requester ID is 16 bits, a context 0 to 63, or 0xFF for the firmware. -/
def Requester.wf (p : Requester) : Bool := fits 16 p.id && (decide (p.ctx < 64) || p.ctx == 0xFF)

def Via.wf : Via → Bool
  | .tally h => h.wf
  | .smbus _ => true

/-- An engine of a core: clusters 0 to 15, cores 0 to 7. -/
def EngineAt.wf (p : EngineAt) : Bool := decide (p.cluster < 16) && decide (p.core < 8)

def TransferSrc.wf : TransferSrc → Bool
  | .page c => decide (c < 64)
  | .core c x => decide (c < 16) && decide (x < 64)

/-- Slots are 0 to 63 in Lookout. -/
def LkBody.wf : LkBody → Bool
  | .heartbeat g k _ _ _ _ => fits 16 g && fits 8 k
  | .suspect x g r => fits 16 x && fits 32 g && fits 64 r
  | .abort a => a.wf
  | .probe x g t => fits 16 x && fits 32 g && fits 32 t
  | .probeReply x g t => fits 16 x && fits 32 g && fits 32 t
  | .vote t p v => fits 32 t && fits 32 p && fits 8 v
  | .decision d => d.wf
  | .join u x c => fits 64 u && fits 16 x && decide (c.length = 48)
  | .late e t g => fits 32 e && fits 32 t && fits 32 g
  | .declare w e t => fits 8 w && fits 32 e && fits 32 t
  | .statusQuery u => fits 64 u
  | .statusReply u x k g => fits 64 u && fits 16 x && fits 8 k && fits 32 g
  | .snapshot o _ => fits 32 o
  | .fenced x g => fits 16 x && fits 32 g

def LkFrame.wf (p : LkFrame) : Bool := p.hdr.wf && p.body.wf

end Sys2Proof.Machine

namespace Sys2Proof
open Machine

/-- Whether a command's operands are ones it can carry. -/
def Instr.wf : Instr → Bool
  | .dictionaryWrite via idx sub _ => via.wf && fits 16 idx && fits 8 sub
  | .sectionLoad via _ => via.wf
  | .epochStart => true
  | .loadLate => true
  | .runStartReached => true
  | .fragmentLaunch key _ => key.wf
  | .launchPrefetch key => key.wf
  | .stepDigest step => fits 32 step
  | .replayInject sequence => fits 32 sequence
  | .ringBegin => true
  | .ptpSync _ _ => true
  | .rcLocked => true
  | .syncTimeout => true
  | .holdoverExpired => true
  | .clockOutlier => true
  | .gmMismatch => true
  | .ringLinkUp _ => true
  | .ringLinkDown _ => true
  | .standHello standId uid => fits 8 standId && fits 64 uid
  | .formWindowEnd => true
  | .standMaster standId term => fits 8 standId && fits 32 term
  | .standHeartbeat standId _ => fits 8 standId
  | .masterMissed => true
  | .barrierArrive standId barrier => fits 8 standId && fits 32 barrier
  | .barrierArm barrier term => fits 32 barrier && fits 32 term
  | .barrierArmed standId barrier => fits 8 standId && fits 32 barrier
  | .standSyncEdge => true
  | .barrierTimeout barrier => fits 32 barrier
  | .barrierAbort barrier _ => fits 32 barrier
  | .decodeImage req desc => req.wf && desc.wf
  | .decodeFrame req desc => req.wf && desc.wf
  | .encodeFits req desc => req.wf && desc.wf
  | .streamOpen req desc => req.wf && desc.wf
  | .streamSubmit req desc => req.wf && desc.wf
  | .streamClose req desc => req.wf && desc.wf
  | .decodeDescriptorHead cluster _ => decide (cluster < 16)
  | .decodeComplete cluster _ _ _ _ => decide (cluster < 16)
  | .videoPictureDone cluster _ _ => decide (cluster < 16)
  | .islandSpeedSample cluster _ => decide (cluster < 16)
  | .frameData pkt => pkt.wf
  | .frameEnd pkt => pkt.wf
  | .frameTimeout stream _ => fits 8 stream
  | .frameStore _ => true
  | .settingsWrite via stream _ => via.wf && fits 8 stream
  | .settingsAck pkt => pkt.wf
  | .settingsUnacked stream generation => fits 8 stream && fits 32 generation
  | .fuseDecide _ _ => true
  | .fuseOutcome standId _ _ _ _ => fits 8 standId
  | .tokenize req desc => req.wf && desc.wf
  | .detokenize req desc => req.wf && desc.wf
  | .vocabLoad req desc => req.wf && desc.wf
  | .grammarLoad req desc => req.wf && desc.wf
  | .grammarCheck req desc => req.wf && desc.wf
  | .rolloutOpen req desc => req.wf && desc.wf
  | .rolloutClose req desc => req.wf && desc.wf
  | .tokenDescriptorHead cluster => decide (cluster < 16)
  | .tokenComplete cluster _ _ => decide (cluster < 16)
  | .rolloutChunk stream slot => fits 8 stream && fits 16 slot
  | .rolloutNotifyProcess stream => fits 8 stream
  | .rolloutTimeout stream _ => fits 8 stream
  | .launch req desc => req.wf && desc.wf
  | .kernelLoad req desc => req.wf && desc.wf
  | .kernelUnload req desc => req.wf && desc.wf
  | .modelLoad req desc => req.wf && desc.wf
  | .modelUnload req desc => req.wf && desc.wf
  | .computeDescriptorHead cluster => decide (cluster < 16)
  | .workItemEnd cluster core _ => decide (cluster < 16) && decide (core < 8)
  | .itemBudget cluster core _ => decide (cluster < 16) && decide (core < 8)
  | .engineLdSt at_ _ => at_.wf
  | .engineMma at_ _ => at_.wf
  | .engineAcc at_ _ => at_.wf
  | .engineCvt at_ _ => at_.wf
  | .engineValu at_ _ => at_.wf
  | .engineVred at_ _ => at_.wf
  | .engineVperm at_ _ => at_.wf
  | .engineSync at_ _ => at_.wf
  | .dmaTransfer cluster core _ _ => decide (cluster < 16) && decide (core < 8)
  | .dmaComplete cluster core => decide (cluster < 16) && decide (core < 8)
  | .gradeStart via => via.wf
  | .gradeAbort via => via.wf
  | .gradeSignatures _ _ _ => true
  | .gradeDone => true
  | .prepareFragment => true
  | .fragmentReady key _ _ _ => key.wf
  | .retentionEnd key => key.wf
  | .seasonClear via _ => via.wf
  | .yardWrite _ _ _ tuple => tuple.wf
  | .wordlineProgramDone _ _ => true
  | .yardRead _ _ _ => true
  | .nandReadDone _ _ _ _ => true
  | .partnerRead _ _ _ _ _ => true
  | .partnerReadReply _ _ _ _ => true
  | .boltErase _ => true
  | .eraseDone _ _ => true
  | .fold => true
  | .wearRelocate => true
  | .partnerAppend _ _ _ _ _ => true
  | .partnerSeal _ _ _ _ => true
  | .sealAnswer _ _ _ => true
  | .partnerWaitTimeout _ _ => true
  | .discard _ _ _ => true
  | .cruiseRead _ _ => true
  | .cruiseRateRecompute => true
  | .refresh _ => true
  | .lunFail channel _ => decide (channel < 32)
  | .journalCommit _ _ => true
  | .checkpoint => true
  | .checkpointDone _ => true
  | .yardRecovery _ => true
  | .format via _ => via.wf
  | .checkpointNow via => via.wf
  | .cruiseRestart via => via.wf
  | .alloc req cmd => req.wf && cmd.wf
  | .extend req cmd => req.wf && cmd.wf
  | .pass req cmd => req.wf && cmd.wf
  | .free req cmd => req.wf && cmd.wf
  | .query req cmd => req.wf && cmd.wf
  | .waitGrant _ => true
  | .blocksReturn _ => true
  | .memoryCorrected _ => true
  | .memoryUncorrectable _ _ => true
  | .arbiterCycle _ _ _ _ _ _ => true
  | .starveIntervalReached _ _ => true
  | .compress desc => desc.wf
  | .decompress desc => desc.wf
  | .chipperDescriptorHead chipper _ => decide (chipper < 16)
  | .chipperComplete chipper _ => decide (chipper < 16)
  | .createIoSubmissionQueue cid qid _ _ => fits 16 cid && fits 16 qid
  | .deleteIoSubmissionQueue cid qid => fits 16 cid && fits 16 qid
  | .createIoCompletionQueue cid qid _ _ => fits 16 cid && fits 16 qid
  | .deleteIoCompletionQueue cid qid => fits 16 cid && fits 16 qid
  | .identify cid _ nsid => fits 16 cid && fits 32 nsid
  | .getLogPage cid _ => fits 16 cid
  | .setFeatures cid _ _ => fits 16 cid
  | .getFeatures cid _ => fits 16 cid
  | .abort cid _ _ => fits 16 cid
  | .asynchronousEventRequest cid => fits 16 cid
  | .namespaceManagement cid _ => fits 16 cid
  | .namespaceAttachment cid nsid _ _ => fits 16 cid && fits 32 nsid
  | .formatNvm cid nsid _ _ _ => fits 16 cid && fits 32 nsid
  | .firmwareImageDownload cid _ _ => fits 16 cid
  | .firmwareCommit cid slot _ _ _ => fits 16 cid && fits 16 slot
  | .deviceSelfTest cid nsid _ => fits 16 cid && fits 32 nsid
  | .nvmeFlush sq cid nsid => fits 16 sq && fits 16 cid && fits 32 nsid
  | .nvmeWrite sq cid nsid _ _ pi _ _ => fits 16 sq && fits 16 cid && fits 32 nsid && pi.wf
  | .nvmeRead sq cid nsid _ _ pi _ => fits 16 sq && fits 16 cid && fits 32 nsid && pi.wf
  | .writeZeroes sq cid nsid _ _ => fits 16 sq && fits 16 cid && fits 32 nsid
  | .datasetManagement sq cid nsid _ _ => fits 16 sq && fits 16 cid && fits 32 nsid
  | .verify sq cid nsid _ _ pi _ => fits 16 sq && fits 16 cid && fits 32 nsid && pi.wf
  | .compare sq cid nsid _ pi _ _ => fits 16 sq && fits 16 cid && fits 32 nsid && pi.wf
  | .invalidCommandOpcode sq cid _ => fits 16 sq && fits 16 cid
  | .sqTailDoorbell sq _ => fits 16 sq
  | .cqHeadDoorbell _ _ => true
  | .commandDispatch sq cid => fits 16 sq && fits 16 cid
  | .controllerReset => true
  | .selftestResume => true
  | .pshFirst port _ _ => decide (port < 64)
  | .pshPush port _ _ => decide (port < 64)
  | .pshFlush port => decide (port < 64)
  | .pshStatusRead port => decide (port < 64)
  | .pshCqHead port _ => decide (port < 64)
  | .shardOpen port _ => decide (port < 64)
  | .ingestNs port _ => decide (port < 64)
  | .shardSeal port => decide (port < 64)
  | .shardDelete port => decide (port < 64)
  | .contextMsg port => decide (port < 64)
  | .remoteIngest _ _ => true
  | .deviceSelfTestDone _ => true
  | .connOpen via _ => via.wf
  | .connClose via _ => via.wf
  | .skdWriteRx pkt ext => pkt.wf && ext.wf
  | .skdWriteImmRx pkt ext => pkt.wf && ext.wf
  | .skdReadReqRx pkt ext => pkt.wf && ext.wf
  | .skdReadRespRx pkt ext => pkt.wf && ext.wf
  | .skdAckRx pkt => pkt.wf
  | .skdLookoutRx pkt frame => pkt.wf && frame.wf
  | .noticeFenced pkt => pkt.wf
  | .noticeNoConnection pkt => pkt.wf
  | .noticeLookout pkt notice => pkt.wf && notice.wf
  | .noticeIngestResult pkt => pkt.wf
  | .noticeMsgDiscarded pkt => pkt.wf
  | .noticeReadError pkt => pkt.wf
  | .ackSend conn => fits 16 conn
  | .packetLost conn psn => fits 16 conn && fits 32 psn
  | .retransmitTimeout conn psn => fits 16 conn && fits 32 psn
  | .quarantineEnd port label => decide (port < 32) && fits 6 label
  | .rcPeriod => true
  | .keyGraceEnd conn => fits 16 conn
  | .earlyRotation conn => fits 16 conn
  | .linkDown port => decide (port < 32)
  | .linkUp port => decide (port < 32)
  | .skdTxqTail ctx _ _ => decide (ctx < 64)
  | .transferWrite src desc _ => src.wf && desc.wf
  | .transferWriteImm src desc _ => src.wf && desc.wf
  | .transferRead src desc => src.wf && desc.wf
  | .skdCqHead ctx _ => decide (ctx < 64)
  | .pauseFrameRx port => decide (port < 32)
  | .rocev2AckNak conn psn _ => fits 16 conn && fits 32 psn
  | .rocev2Cnp conn => fits 16 conn
  | .fiReorderRelease port => decide (port < 32)
  | .egressSelect port => decide (port < 32)
  | .subConfigure via _ => via.wf
  | .subRelease via _ => via.wf
  | .lkHeartbeat hdr _ _ _ _ _ _ => hdr.wf
  | .heartbeatWindow => true
  | .lkSuspect hdr subject subjectGen _ => hdr.wf && fits 16 subject && fits 32 subjectGen
  | .lkAbort hdr a => hdr.wf && a.wf
  | .lkProbe hdr subject subjectGen term => hdr.wf && fits 16 subject && fits 32 subjectGen && fits 32 term
  | .lkProbeReply hdr subject subjectGen term => hdr.wf && fits 16 subject && fits 32 subjectGen && fits 32 term
  | .probeTimeout subjectGen => fits 32 subjectGen
  | .lkVote hdr term proposal vote => hdr.wf && fits 32 term && fits 32 proposal && fits 8 vote
  | .voteFallback subjectGen => fits 32 subjectGen
  | .decisionAlive hdr d => hdr.wf && d.wf
  | .decisionDead hdr d => hdr.wf && d.wf
  | .decisionAdmit hdr d => hdr.wf && d.wf
  | .decisionCoppiceStart hdr d => hdr.wf && d.wf
  | .decisionSlotReady hdr d => hdr.wf && d.wf
  | .decisionCoOpt hdr d => hdr.wf && d.wf
  | .decisionEpochShift hdr d => hdr.wf && d.wf
  | .decisionDomainHold hdr d => hdr.wf && d.wf
  | .decisionResume hdr d => hdr.wf && d.wf
  | .decisionOrphaned hdr d => hdr.wf && d.wf
  | .decisionDemote hdr d => hdr.wf && d.wf
  | .decisionScores hdr d => hdr.wf && d.wf
  | .declareVoid hdr epoch step => hdr.wf && fits 32 epoch && fits 32 step
  | .declareAbsent hdr epoch step => hdr.wf && fits 32 epoch && fits 32 step
  | .declareResume hdr epoch step => hdr.wf && fits 32 epoch && fits 32 step
  | .declareLoadLate hdr epoch step => hdr.wf && fits 32 epoch && fits 32 step
  | .declareIsolated hdr epoch step => hdr.wf && fits 32 epoch && fits 32 step
  | .declareCoppiceDone hdr epoch step => hdr.wf && fits 32 epoch && fits 32 step
  | .declareReingested hdr epoch step => hdr.wf && fits 32 epoch && fits 32 step
  | .declareVerifyDone hdr epoch step => hdr.wf && fits 32 epoch && fits 32 step
  | .declareHoldMembership hdr epoch step => hdr.wf && fits 32 epoch && fits 32 step
  | .lkJoin hdr uid slot _ => hdr.wf && fits 64 uid && fits 16 slot
  | .joinSend slot => fits 16 slot
  | .lkLate hdr epoch step _ => hdr.wf && fits 32 epoch && fits 32 step
  | .latenessTally epoch step => fits 32 epoch && fits 32 step
  | .scoreDecay => true
  | .lkStatusQuery hdr uid => hdr.wf && fits 64 uid
  | .lkStatusReply hdr uid slot _ generation => hdr.wf && fits 64 uid && fits 16 slot && fits 32 generation
  | .lkSnapshot hdr _ _ => hdr.wf
  | .lkFenced hdr slot generation => hdr.wf && fits 16 slot && fits 32 generation
  | .decisionMissing subjectGen => fits 32 subjectGen
  | .lockstepFault => true
  | .deliveryFault key => key.wf
  | .coppiceShardCopy => true
  | .spareVerify _ => true
  | .councilReseed via _ => via.wf
  | .define via ctx => via.wf && decide (ctx < 64)
  | .destroy via ctx => via.wf && decide (ctx < 64)
  | .context0Program via _ => via.wf
  | .contextSwitch cluster _ _ _ => decide (cluster < 16)
  | .secureBoot => true
  | .advanceSvn via => via.wf
  | .attestRequest via _ => via.wf
  | .operatorKeysWrite via _ => via.wf
  | .sessionHello hdr _ _ _ => hdr.wf
  | .sessionProof hdr _ => hdr.wf
  | .sessionClose hdr => hdr.wf
  | .challengeTimeout session => fits 32 session
  | .sessionIdleTimeout session => fits 32 session
  | .sessionLifeTimeout session => fits 32 session
  | .testEnAssert _ => true
  | .testEnDeassert _ => true
  | .pllLossOfLock => true
  | .pllRelockAttempt => true
  | .pllRelock => true
  | .pllFailed => true
  | .sscApply => true
  | .fineGateClose _ => true
  | .clusterGateWrite via _ => via.wf
  | .portGateWrite via _ => via.wf
  | .railMeasure _ => true
  | .capControl => true
  | .powerWindowEnd => true
  | .thermalChange _ => true
  | .thermalTrip _ => true
  | .hardwareTrip => true
  | .coolingHoldEnd => true
  | .powerOn _ => true
  | .perstAssert _ => true
  | .perstDeassert _ _ _ => true
  | .resetCmdDevice via => via.wf
  | .resetCmdDeviceForce via => via.wf
  | .watchdogExpiry => true
  | .functionLevelReset => true
  | .pwrFailAssert _ => true
  | .pwrFailDeassert => true
  | .tallyRead hdr idx sub _ _ => hdr.wf && fits 16 idx && fits 8 sub
  | .tallyMeta hdr idx sub => hdr.wf && fits 16 idx && fits 8 sub
  | .blobBegin hdr idx sub _ _ => hdr.wf && fits 16 idx && fits 8 sub
  | .blobData hdr _ _ _ => hdr.wf
  | .blobEnd hdr _ => hdr.wf
  | .blobAbort hdr _ => hdr.wf
  | .blobTransferTimeout session _ => fits 32 session
  | .subscribe hdr _ _ _ => hdr.wf
  | .eventAck hdr counter => hdr.wf && fits 64 counter
  | .eventSend session => fits 32 session
  | .eventResend session counter => fits 32 session && fits 64 counter
  | .mboxGo _ _ _ _ => true
  | .smbSelect _ idx sub _ => fits 16 idx && fits 8 sub
  | .smbRead _ => true
  | .smbStatus _ => true
  | .smbAlertResponse _ => true
  | .smbAlertClear via _ => via.wf
  | .logWindowClose _ => true
  | .logMirrorWrite => true
  | .logAckedWrite via _ => via.wf
  | .persistCommit _ => true
  | .heartwoodUpdate => true
  | .mgmtLinkChange port _ => decide (port < 2)
  | .ptpAnnounce _ _ _ => true

end Sys2Proof
end

