-- ==== Sys2Proof/Safety.lean ====
section
/-! DEFINITION. What counts as a safe run, in the terms the statements use: a command completes with a property, what a
command may change (its frame), and the invariant that every step keeps. -/
namespace Sys2Proof.Machine

/-- Command `c` at `s` answers a next state, and `p` holds of it. -/
def Gives (c : Instr) (s : State) (p : State → Prop) : Prop := ∃ t, exec c s = .next t ∧ p t

/-- The device runs: neither held in reset nor stopped by a trip. -/
def State.running (s : State) : Prop := s.stopped = false

/-- The device runs and has not lost its power supply: prep dies, lanes and ring are alive. -/
def State.alive (s : State) : Prop := s.stopped = false ∧ s.pwr.lossStopped = false

/-- The byte at place `k` of pool `p`'s memory: block × block size + offset. -/
def State.byteAt (s : State) (p k : Nat) : Byte := Sparse.get (fun _ => 0) (s.pool p).mem k

/-- The parts of State beside the dictionary's registers; `bytes` is what the pools' memory holds, byte by byte, which is
within `mem`. -/
inductive Part where
  | dev | log | mgmt | nv | sched | rc | stand | sec | pwr | mem | chips | dec | intake
  | tok | comp | grade | deck | yard | lookout | landing | skd | out | status | freeCtr | pending | bytes
deriving DecidableEq, Repr

/-- A part holds the same in two states. -/
def Part.same (p : Part) (s t : State) : Prop :=
  match p with
  | .dev => t.dev = s.dev
  | .log => t.log = s.log
  | .mgmt => t.mgmt = s.mgmt
  | .nv => t.nv = s.nv
  | .sched => t.sched = s.sched
  | .rc => t.rc = s.rc
  | .stand => t.stand = s.stand
  | .sec => t.sec = s.sec
  | .pwr => t.pwr = s.pwr
  | .mem => t.mem = s.mem
  | .chips => t.chips = s.chips
  | .dec => t.dec = s.dec
  | .intake => t.intake = s.intake
  | .tok => t.tok = s.tok
  | .comp => t.comp = s.comp
  | .grade => t.grade = s.grade
  | .deck => t.deck = s.deck
  | .yard => t.yard = s.yard
  | .lookout => t.lookout = s.lookout
  | .landing => t.landing = s.landing
  | .skd => t.skd = s.skd
  | .out => t.out = s.out
  | .status => t.status = s.status
  | .freeCtr => t.freeCtr = s.freeCtr
  | .pending => t.pending = s.pending
  | .bytes => ∀ p k, t.byteAt p k = s.byteAt p k

/-- The objects of the dictionary, or families of like objects, by their indices. -/
inductive Block where
  | ident | cap | mask | mgmt | tally | smb | log | evt | hw | cal | clk | clkmon | gate | power | railPower
  | railVolt | therm | start | rc | ptp | xchk | launch | stand | syncComp | lk | lkCfg | lkConst | council
  | memb | lkCnt | coppice | sec | secCtl | sess | ctxSum | ctx | attest | scrub | landing | push | yard
  | geom | bolts | yardCfg | cruise | yardFault | shard | yardCtl | tier | layout | pool | arb | wHbm | wDdr
  | wNand | wChipper | wCsram | wLink | quota | chip | chipCfg | chipQ | dec | stream | contexts | island
  | islandCtl | intake | group | live | tok | vocab | vocabDigest | rollout | stopset | prep | modelCfg
  | kernel | model | grade | buck | season | deck | deckQuery | sched | seed | permTest | sect | replay
  | skd | connCtl | rel | path | rateCtl | key | portStat | tsch | kerf | service | subCtl | fi
deriving DecidableEq, Repr

/-- The first and the last index of an object's family. -/
def Block.range : Block → Nat × Nat
  | .ident => (0x1000, 0x1000)
  | .cap => (0x1010, 0x1010)
  | .mask => (0x1011, 0x1011)
  | .mgmt => (0x1100, 0x1100)
  | .tally => (0x1101, 0x1101)
  | .smb => (0x1110, 0x1110)
  | .log => (0x1200, 0x1200)
  | .evt => (0x1210, 0x1210)
  | .hw => (0x1300, 0x1300)
  | .cal => (0x1301, 0x1301)
  | .clk => (0x2000, 0x2000)
  | .clkmon => (0x2001, 0x2001)
  | .gate => (0x2010, 0x2010)
  | .power => (0x2020, 0x2020)
  | .railPower => (0x2030, 0x2030)
  | .railVolt => (0x2031, 0x2031)
  | .therm => (0x2040, 0x2040)
  | .start => (0x2050, 0x2050)
  | .rc => (0x2100, 0x2100)
  | .ptp => (0x2101, 0x2101)
  | .xchk => (0x2102, 0x2102)
  | .launch => (0x2110, 0x2110)
  | .stand => (0x2200, 0x2200)
  | .syncComp => (0x2201, 0x2201)
  | .lk => (0x2400, 0x2400)
  | .lkCfg => (0x2401, 0x2401)
  | .lkConst => (0x2402, 0x2402)
  | .council => (0x2410, 0x2410)
  | .memb => (0x2420, 0x2420)
  | .lkCnt => (0x2430, 0x2430)
  | .coppice => (0x2440, 0x2440)
  | .sec => (0x2600, 0x2600)
  | .secCtl => (0x2601, 0x2601)
  | .sess => (0x2610, 0x2610)
  | .ctxSum => (0x2620, 0x2620)
  | .ctx => (0x2640, 0x267F)
  | .attest => (0x2680, 0x2680)
  | .scrub => (0x2700, 0x2700)
  | .landing => (0x3000, 0x3000)
  | .push => (0x3100, 0x313F)
  | .yard => (0x3200, 0x3200)
  | .geom => (0x3201, 0x3201)
  | .bolts => (0x3210, 0x3210)
  | .yardCfg => (0x3220, 0x3220)
  | .cruise => (0x3230, 0x3230)
  | .yardFault => (0x3240, 0x3240)
  | .shard => (0x3250, 0x3250)
  | .yardCtl => (0x3260, 0x3260)
  | .tier => (0x3400, 0x3400)
  | .layout => (0x3410, 0x3410)
  | .pool => (0x3420, 0x3429)
  | .arb => (0x3460, 0x3460)
  | .wHbm => (0x3461, 0x3461)
  | .wDdr => (0x3462, 0x3462)
  | .wNand => (0x3463, 0x3463)
  | .wChipper => (0x3464, 0x3464)
  | .wCsram => (0x3465, 0x3465)
  | .wLink => (0x3466, 0x3466)
  | .quota => (0x3500, 0x353F)
  | .chip => (0x3600, 0x3600)
  | .chipCfg => (0x3610, 0x3610)
  | .chipQ => (0x3620, 0x3620)
  | .dec => (0x4000, 0x4000)
  | .stream => (0x4010, 0x4010)
  | .contexts => (0x4011, 0x4011)
  | .island => (0x4020, 0x4020)
  | .islandCtl => (0x4021, 0x4021)
  | .intake => (0x4200, 0x4200)
  | .group => (0x4280, 0x42BF)
  | .live => (0x4300, 0x43FF)
  | .tok => (0x4400, 0x4400)
  | .vocab => (0x4410, 0x4410)
  | .vocabDigest => (0x4411, 0x4411)
  | .rollout => (0x4420, 0x4420)
  | .stopset => (0x4440, 0x444F)
  | .prep => (0x4600, 0x4600)
  | .modelCfg => (0x4610, 0x4610)
  | .kernel => (0x4620, 0x4620)
  | .model => (0x4640, 0x467F)
  | .grade => (0x4700, 0x4700)
  | .buck => (0x4800, 0x4800)
  | .season => (0x4810, 0x4810)
  | .deck => (0x4820, 0x4820)
  | .deckQuery => (0x4821, 0x4821)
  | .sched => (0x4A00, 0x4A00)
  | .seed => (0x4A10, 0x4A10)
  | .permTest => (0x4A11, 0x4A11)
  | .sect => (0x4A20, 0x4A20)
  | .replay => (0x4A30, 0x4A30)
  | .skd => (0x5000, 0x5000)
  | .connCtl => (0x5010, 0x5010)
  | .rel => (0x5020, 0x5020)
  | .path => (0x5021, 0x5021)
  | .rateCtl => (0x5030, 0x5030)
  | .key => (0x5040, 0x5040)
  | .portStat => (0x5100, 0x511F)
  | .tsch => (0x5200, 0x5200)
  | .kerf => (0x5201, 0x5201)
  | .service => (0x5210, 0x5217)
  | .subCtl => (0x5220, 0x5220)
  | .fi => (0x5400, 0x5400)

/-- The entry that key `k` names belongs to the object. -/
def Block.has (b : Block) (k : Nat) : Prop := b.range.1 ≤ k / 256 ∧ k / 256 ≤ b.range.2

/-- What a command may change: parts of State, and objects of the dictionary. -/
structure Foot where
  parts : List Part
  blocks : List Block
deriving DecidableEq, Repr

/-- Nothing outside a footprint differs: every part that it does not name, and every entry of the dictionary in no
object that it names. Key 0 and its like name no entry, since indices begin at 0x1000. -/
def Spares (f : Foot) (s t : State) : Prop :=
  (∀ p, p ∉ f.parts → p.same s t) ∧
  ∀ k, 0x100000 ≤ k → (∀ b ∈ f.blocks, ¬ b.has k) → t.num k = s.num k ∧ t.blob k = s.blob k

/-- The register files are in canonical form: keys strictly rising, nothing listed that reads as its default. -/
def OdFile.Canonical (v : Variant) (od : OdFile) : Prop :=
  Sparse.wf (odDflt v) od.nums = true ∧ Sparse.wf (odDfltBytes v) od.blobs = true ∧
    Sparse.wf (fun _ => 0) od.vers = true

/-- The pools are listed in canonical form, and so is what each pool's blocks hold: rising addresses, no byte of zero. -/
def Memory.wf (v : Variant) (m : Memory) : Bool :=
  Sparse.wf (fun p => Pool.ofBlocks (v.poolBlocks p)) m.pools && m.pools.all fun p => Sparse.wf (fun _ => 0) p.2.mem

/-- The invariant: the dictionary's registers and the buffers' memory are in canonical form, and the error log holds no
more than the 1,024 entries of R569. -/
def State.Sound (s : State) : Prop :=
  s.od.Canonical s.dev.variant ∧ s.log.entries.length ≤ 1024 ∧ s.mem.wf s.dev.variant = true

/-- A secure request of session `x` that the device serves (R515, R558, R560): well formed and of a size it accepts, sealed
and verified, with a COUNTER above the last one and a REQ_ID above those it has answered. -/
def State.takes (s : State) (h : TallyHdr) (x : Session) : Prop :=
  h.wellFormed = true ∧ (h.path = 3 ∨ h.size ≤ s.num Reg.mgmt.tallyMaxMsg) ∧ s.num Reg.sec.bootState ≠ 3 ∧ h.session ≠ 0 ∧
    s.session? h.session = some x ∧ h.secure = true ∧ h.tagOk = true ∧ x.counter < h.counter ∧ ∀ k ∈ x.kept, k.reqId < h.reqId

/-- The state in which a served request runs: the session has accepted it, and it is counted. -/
def State.served (s : State) (h : TallyHdr) (x : Session) : State :=
  (s.putSession (x.accepted h s.now)).bump Reg.tally.tallyRequests

/-- What the device sent between `s` and `t`. -/
def State.sent (t s : State) (l : List Out) : Prop := t.out = s.out ++ l

/-- A request is answered from `s` to `t`: its status is `code`, and the first thing sent is the response with `body`. -/
def Answers (h : TallyHdr) (secure : Bool) (code : Nat) (body : Bytes) (s t : State) : Prop :=
  t.status = code ∧
    ∃ l, t.sent s (.tally h.path h.addr h.port h.session h.reqId h.counter code secure body :: l)

/-- Session `id` is open, and `p` holds of it. -/
def State.sessionHas (s : State) (id : Nat) (p : Session → Prop) : Prop := ∃ x, s.session? id = some x ∧ p x

/-- The events of pins that act in every state: power, reset, the trip comparator, TEST_EN and PWR_FAIL_N. -/
def pinEvent : Instr → Bool
  | .powerOn .. | .perstAssert .. | .perstDeassert .. | .hardwareTrip | .testEnAssert .. | .testEnDeassert ..
  | .pwrFailAssert .. | .pwrFailDeassert => true
  | _ => false

/-- The commands of the prep dies, the data lanes, the stand ring and start-up, which do nothing after PWR_FAIL_N (R542). -/
def needsPower : Instr → Bool
  | .fragmentLaunch .. | .launchPrefetch .. | .ringLinkUp .. | .ringLinkDown .. | .standHello .. | .formWindowEnd
  | .standMaster .. | .standHeartbeat .. | .masterMissed | .barrierArrive .. | .barrierArm .. | .barrierArmed ..
  | .standSyncEdge | .barrierTimeout .. | .barrierAbort .. | .decodeImage .. | .decodeFrame .. | .encodeFits ..
  | .streamOpen .. | .streamSubmit .. | .streamClose .. | .decodeDescriptorHead .. | .decodeComplete ..
  | .videoPictureDone .. | .islandSpeedSample .. | .frameData .. | .frameEnd .. | .frameTimeout .. | .frameStore ..
  | .settingsAck .. | .settingsUnacked .. | .fuseDecide .. | .fuseOutcome .. | .tokenize .. | .detokenize ..
  | .vocabLoad .. | .grammarLoad .. | .grammarCheck .. | .rolloutOpen .. | .rolloutClose .. | .tokenDescriptorHead ..
  | .tokenComplete .. | .rolloutChunk .. | .rolloutNotifyProcess .. | .rolloutTimeout .. | .launch ..
  | .kernelLoad .. | .kernelUnload .. | .modelLoad .. | .modelUnload .. | .computeDescriptorHead .. | .workItemEnd ..
  | .itemBudget .. | .engineLdSt .. | .engineMma .. | .engineAcc .. | .engineCvt .. | .engineValu .. | .engineVred ..
  | .engineVperm .. | .engineSync .. | .dmaTransfer .. | .dmaComplete .. | .gradeSignatures .. | .gradeDone
  | .prepareFragment | .fragmentReady .. | .retentionEnd .. | .yardRecovery .. | .skdWriteRx .. | .skdWriteImmRx ..
  | .skdReadReqRx .. | .skdReadRespRx .. | .skdAckRx .. | .skdLookoutRx .. | .noticeFenced ..
  | .noticeNoConnection .. | .noticeLookout .. | .noticeIngestResult .. | .noticeMsgDiscarded ..
  | .noticeReadError .. | .ackSend .. | .packetLost .. | .retransmitTimeout .. | .quarantineEnd .. | .rcPeriod
  | .keyGraceEnd .. | .earlyRotation .. | .linkDown .. | .linkUp .. | .skdTxqTail .. | .transferWrite ..
  | .transferWriteImm .. | .transferRead .. | .skdCqHead .. | .pauseFrameRx .. | .rocev2AckNak .. | .rocev2Cnp ..
  | .fiReorderRelease .. | .egressSelect .. | .contextSwitch .. | .secureBoot => true
  | _ => false

/-- The header of a command that a session carries. -/
def requestOf : Instr → Option TallyHdr
  | .dictionaryWrite (.tally h) _ _ _ | .sectionLoad (.tally h) _ | .settingsWrite (.tally h) _ _
  | .gradeStart (.tally h) | .gradeAbort (.tally h) | .seasonClear (.tally h) _ | .format (.tally h) _
  | .checkpointNow (.tally h) | .cruiseRestart (.tally h) | .connOpen (.tally h) _ | .connClose (.tally h) _
  | .subConfigure (.tally h) _ | .subRelease (.tally h) _ | .councilReseed (.tally h) _ | .define (.tally h) _
  | .destroy (.tally h) _ | .context0Program (.tally h) _ | .advanceSvn (.tally h) | .attestRequest (.tally h) _
  | .operatorKeysWrite (.tally h) _ | .sessionClose h | .clusterGateWrite (.tally h) _ | .portGateWrite (.tally h) _
  | .resetCmdDevice (.tally h) | .resetCmdDeviceForce (.tally h) | .tallyRead h _ _ _ _ | .tallyMeta h _ _
  | .blobBegin h _ _ _ _ | .blobData h _ _ _ | .blobEnd h _ | .blobAbort h _ | .subscribe h _ _ _ | .eventAck h _
  | .smbAlertClear (.tally h) _ | .logAckedWrite (.tally h) _ => some h
  | _ => none

/-- What command `c` leaves unchanged wherever it answers a next state: all that a footprint does not name. -/
def Within (c : Instr) (f : Foot) : Prop := ∀ s t, exec c s = .next t → Spares f s t

/-- The same of the parts alone. -/
def WithinParts (c : Instr) (l : List Part) : Prop := ∀ s t, exec c s = .next t → ∀ p, p ∉ l → p.same s t

end Sys2Proof.Machine
end

