-- ==== Sys2Proof/Certificates/Slice0/Obligations.lean ====
section
/-! DEFINITION. The statements for the provers. -/
open Sys2Proof Sys2Proof.Machine

/-- In every state whose queue begins with a command c, the step is the effect of c on the state with the rest of the
queue. The queue is the model's own way of giving the block its commands, first in first out. -/
def Obligations.StepRunsTheFrontCommand : Prop :=
  ∀ (c : Instr) (s : State) (l : List Instr), s.pending = c :: l → step s = exec c { s with pending := l }

/-- On an empty queue a step answers a next state. A stopped device stays as it is. On a running one within a ring only
the ring count differs: the uptime and the cycle within the ring are one more, and the grain is the lesser of the
cycle and 1,023. At the last cycle of a ring the next ring begins, as RING_BEGIN begins it. That a step without a
command is one REFCLK cycle is the model's choice (log entry 2). -/
def Obligations.AnEmptyQueuePassesOneCycle : Prop :=
  ∀ (s : State), s.pending = [] →
    (s.stopped = true → step s = .next s) ∧
    (s.running → s.rc.cyc + 1 < s.rc.len → ∃ t, step s = .next t ∧ t = { s with rc := t.rc } ∧
      t.rc.cyc = s.rc.cyc + 1 ∧ t.rc.upCycles = s.rc.upCycles + 1 ∧ t.rc.ring = s.rc.ring ∧
      t.grain = min (s.rc.cyc + 1) 1023) ∧
    (s.running → s.rc.len ≤ s.rc.cyc + 1 → step s = exec .ringBegin s)

/-- State.reset holds every entry of the dictionary at its default, but for LAST_RESET POWER_ON, the sequence number
and the one entry of the measurement log that context 0's program makes, and SEED_CHECK of seed 0; the ring count
is 0 at grain 0 and UNSET; no session, transfer, buffer, connection or command is open, no log entry held and
nothing sent; context 0 alone is defined; the device is held in reset. The identity of the device (variant, serial
number, UID) is the model's choice, log entry 3, and so is that a device after reset waits for PERST_N (log entry
4). -/
def Obligations.ResetState : Prop :=
  (∀ k, k ∉ [Reg.start.lastReset, Reg.attest.measSeq, Reg.attest.logEntries, Reg.seed.seedCheck] →
    State.reset.num k = odDflt State.reset.dev.variant k) ∧
  (∀ k, State.reset.blob k = odDfltBytes State.reset.dev.variant k) ∧ (∀ k, State.reset.ver k = 0) ∧
  State.reset.num Reg.start.lastReset = 1 ∧ State.reset.num Reg.attest.measSeq = 1 ∧
  State.reset.num Reg.attest.logEntries = 1 ∧ State.reset.num Reg.seed.seedCheck = seedCheck 0 0 ∧
  State.reset.rc.ring = 0 ∧ State.reset.grain = 0 ∧ State.reset.rc.state = .unset ∧ State.reset.now = 0 ∧
  State.reset.mgmt.sessions = [] ∧ State.reset.mgmt.challenges = [] ∧ State.reset.log.entries = [] ∧
  (∀ p, (State.reset.pool p).bufs = []) ∧ (∀ p k, State.reset.byteAt p k = 0) ∧ State.reset.skd.conns = [] ∧
  (∀ c, c ≠ 0 → (State.reset.ctx c).state = .undefined) ∧ (State.reset.ctx 0).state = .defined ∧
  State.reset.out = [] ∧ State.reset.pending = [] ∧ State.reset.stopped = true ∧ State.reset.pwr.inReset = true

/-- State.reset is sound: its registers and the pools' memory are in canonical form and its error log holds no more
than 1,024 entries. -/
def Obligations.ResetIsSound : Prop :=
  State.reset.Sound

/-- From every sound state, not only from those a run reaches, whatever stands in the queue: where the step answers a
next state, that state is sound. Sound: the dictionary's numbers, byte strings and change counts are in canonical
form (keys strictly rising, none that reads as its default), so are the pools and each pool's bytes, and the error
log holds no more than the 1,024 entries of R569. It covers all 312 commands and the cycle that passes on an empty
queue. -/
def Obligations.EveryStepKeepsTheInvariant : Prop :=
  ∀ (s t : State), s.Sound → step s = .next t → t.Sound

/-- No command faults or is refused by the model: in every state and with every operand it answers a next state (a
refusal by the device is such a state, with its status code), and so does every step. -/
def Obligations.EveryCommandAnswers : Prop :=
  (∀ (c : Instr) (s : State), ∃ t, exec c s = .next t) ∧ ∀ s : State, ∃ t, step s = .next t

/-- While the device is held in reset, or every clock has stopped after a trip, each command but the pins' own events
(power, PERST_N, the trip comparator, TEST_EN, PWR_FAIL_N) leaves the state as it is. After PWR_FAIL_N has stopped
the prep dies, the data lanes and the stand ring, none of their commands changes anything, in any state. -/
def Obligations.AStoppedDeviceIsInert : Prop :=
  ∀ (c : Instr) (s : State),
    (s.stopped = true → pinEvent c = false → exec c s = .next s) ∧
    (s.pwr.lossStopped = true → needsPower c = true → exec c s = .next s)

/-- Whatever the command, in every state: where it answers a next state, the queue of waiting commands and the device's
own constants (variant, serial number, stepping, UID, MAC addresses, keys and certificates) are as before. -/
def Obligations.CommandsLeaveTheQueueAndTheDevice : Prop :=
  ∀ (c : Instr) (s t : State), exec c s = .next t → t.pending = s.pending ∧ t.dev = s.dev

/-- Every command that a Tally or mailbox session carries (41 of them, reads, writes, transfers and subscriptions):
where it names a session that is not open, or is not secure, or its tag does not verify, it changes nothing but the
management's own: the error log and its alert, the counters of dropped messages, the mailbox's answer, what was
sent and the status. -/
def Obligations.UnauthenticatedRequestsChangeNothing : Prop :=
  ∀ (c : Instr) (s t : State) (h : TallyHdr), requestOf c = some h → h.session ≠ 0 →
    (s.session? h.session = none ∨ h.secure = false ∨ h.tagOk = false) → exec c s = .next t →
    Spares ⟨[.log, .mgmt, .out, .status], [.tally, .smb, .log]⟩ s t

/-- The entry that a command writes for a session, with the header that carries it. -/
def writeTarget : Instr → Option (TallyHdr × Nat × Nat)
  | .dictionaryWrite (.tally h) i b _ => some (h, i, b)
  | .sectionLoad (.tally h) _ => some (h, 0x4A20, 1)
  | .settingsWrite (.tally h) n _ => some (h, 0x4300 + n, 0x11)
  | .gradeStart (.tally h) | .gradeAbort (.tally h) => some (h, 0x4700, 3)
  | .seasonClear (.tally h) _ => some (h, 0x4810, 8)
  | .format (.tally h) _ | .checkpointNow (.tally h) | .cruiseRestart (.tally h) => some (h, 0x3260, 1)
  | .connOpen (.tally h) _ => some (h, 0x5010, 1)
  | .connClose (.tally h) _ => some (h, 0x5010, 2)
  | .subConfigure (.tally h) _ | .subRelease (.tally h) _ => some (h, 0x5220, 2)
  | .councilReseed (.tally h) _ => some (h, 0x2410, 5)
  | .define (.tally h) n | .destroy (.tally h) n => some (h, 0x2640 + n, 2)
  | .context0Program (.tally h) _ => some (h, 0x2640, 3)
  | .advanceSvn (.tally h) => some (h, 0x2601, 1)
  | .attestRequest (.tally h) _ => some (h, 0x2680, 1)
  | .operatorKeysWrite (.tally h) _ => some (h, 0x2610, 1)
  | .clusterGateWrite (.tally h) _ => some (h, 0x2010, 2)
  | .portGateWrite (.tally h) _ => some (h, 0x2010, 3)
  | .resetCmdDevice (.tally h) | .resetCmdDeviceForce (.tally h) => some (h, 0x2050, 3)
  | .smbAlertClear (.tally h) _ => some (h, 0x1110, 3)
  | .logAckedWrite (.tally h) _ => some (h, 0x1200, 2)
  | _ => none

/-- Every command that writes an entry for a session (DICTIONARY_WRITE of any entry, and the 24 commands that write one
entry of their own): where the session is a TENANT's, and the entry is neither in the block of a context of its
mask nor ATTEST_REQUEST, the command changes nothing but the management's own: the session, the error log and its
alert, the counters, the mailbox's answer, what was sent and the status. -/
def Obligations.ATenantWritesOnlyItsContexts : Prop :=
  ∀ (c : Instr) (s t : State) (h : TallyHdr) (idx sub : Nat) (x : Session),
    writeTarget c = some (h, idx, sub) → h.session ≠ 0 → s.session? h.session = some x → x.isTenant = true →
    (∀ k, ctxOfIndex idx = some k → x.mask.testBit k = false) → ¬ (idx = 0x2680 ∧ sub = 1) → exec c s = .next t →
    Spares ⟨[.log, .mgmt, .out, .status], [.tally, .smb, .log]⟩ s t

/-- On a member of a formed stand, running and with power, that has no barrier armed under the current term, a rising
edge on STAND_SYNC adds 1 to SPURIOUS_SYNC (modulo 2^64) and releases nothing: nothing waiting at a barrier leaves
it, nothing is sent, and no part of State or other entry of the dictionary's stand objects changes. -/
def Obligations.SpuriousSyncEdgesAreCounted : Prop :=
  ∀ (s : State), s.alive → s.inStand = true → (∀ n, s.stand.armedBarrier ≠ some (n, s.stand.term)) →
    Gives .standSyncEdge s fun t => t.num Reg.stand.spuriousSync = wrap 64 (s.num Reg.stand.spuriousSync + 1) ∧
      (∀ p : Part, p.same s t) ∧ ∀ k, k ≠ Reg.stand.spuriousSync → t.num k = s.num k ∧ t.blob k = s.blob k

/-- While STATE of the schedule is RUNNING, HOLD or REPLAY, a DICTIONARY_WRITE of each of the six entries changes
nothing but the management's own (session, log and alert, counters, what was sent, the status), over any path and
with any value; one that the device serves and that passes the checks every entry shares (the session may write it,
width, reserved codes, range) is answered BUSY 0x4A01. A transfer of a value to one of them that ends then changes
nothing either, but the log and the management's own. -/
def Obligations.RunSettingsAreBusyInARun : Prop :=
  ∀ (s : State), s.schedState = 3 ∨ s.schedState = 4 ∨ s.schedState = 5 →
    ∀ e ∈ [(0x4A10, 1), (0x4A10, 2), (0x4A11, 1), (0x4A11, 2), (0x4A00, 6), (0x4A30, 1)],
      (∀ via v t, exec (.dictionaryWrite via e.1 e.2 v) s = .next t →
        Spares ⟨[.log, .mgmt, .out, .status], [.tally, .smb, .log]⟩ s t) ∧
      (∀ h x v r, s.running → s.takes h x → (s.served h x).vet (.session h.session) e.1 e.2 v = .ok r →
        Gives (.dictionaryWrite (.tally h) e.1 e.2 v) s fun t => Answers h true 0x4A01 [] s t) ∧
      (∀ h x n tr t, s.takes h x → x.transfer? n = some tr → (tr.idx, tr.sub) = e → exec (.blobEnd h n) s = .next t →
        Spares ⟨[.log, .mgmt, .out, .status], [.tally, .smb, .log]⟩ s t)

/-- On a running device whose PTP is enabled and whose ring count is UNSET, a Sync of TAI time t below 2^64 rings
leaves the ring count t / 10,240 and the grain (t mod 10,240) / 10. In every state ring n at grain 0 stands for TAI
time n × 10,240 ns, and grain g for 10 × g ns later. -/
def Obligations.TheRingCountIsTaiByTheRules : Prop :=
  ∀ (s : State),
    (∀ off tai, s.running → s.flag Reg.ptp.ptpEnable = true → s.rc.state = .unset → tai < 2 ^ 64 * 10240 →
      Gives (.ptpSync off tai) s fun t => t.rc.ring = tai / 10240 ∧ t.grain = tai % 10240 / 10 ∧
        t.taiNow = tai / 10 * 10) ∧
    s.taiNow = s.rc.ring * 10240 + 10 * s.grain

/-- On a running device, a write of SSC_DEPTH_PPM or SSC_RATE_HZ outside a run that the device serves and that passes
the checks every entry shares is answered OK: the entry holds the value, the settings in effect and the PLL's state
are as before. At the end of the modulation period both settings take effect and the PLL's state stays. While STATE
of the schedule is ARMED, RUNNING, HOLD or REPLAY, a write of CORE_DIV, FABRIC_DIV, SSC_DEPTH_PPM or SSC_RATE_HZ
that passes those checks is answered BUSY 0x2001, and leaves the entry and the settings in effect. -/
def Obligations.SpreadSettingsWaitForTheirPeriod : Prop :=
  ∀ (s : State), s.running →
    (∀ h x sub v r, s.takes h x → s.inRun = false → (sub = 4 ∨ sub = 5) →
      (s.served h x).vet (.session h.session) 0x2000 sub v = .ok r →
      Gives (.dictionaryWrite (.tally h) 0x2000 sub v) s fun t => t.num (0x200000 + sub) = leNat v ∧ t.status = 0x2000 ∧
        t.pwr = s.pwr ∧ t.num Reg.clk.pllState = s.num Reg.clk.pllState) ∧
    (Gives .sscApply s fun t => t.pwr.effect.sscDepth = s.num Reg.clk.sscDepthPpm ∧
      t.pwr.effect.sscRate = s.num Reg.clk.sscRateHz ∧ t.pwr.effect.coreDiv = s.pwr.effect.coreDiv ∧
      t.pwr.effect.fabricDiv = s.pwr.effect.fabricDiv ∧ t.num Reg.clk.pllState = s.num Reg.clk.pllState) ∧
    (∀ h x sub v r, s.takes h x → s.inRun = true → 2 ≤ sub → sub ≤ 5 →
      (s.served h x).vet (.session h.session) 0x2000 sub v = .ok r →
      Gives (.dictionaryWrite (.tally h) 0x2000 sub v) s fun t => Answers h true 0x2001 [] s t ∧
        t.num (0x200000 + sub) = s.num (0x200000 + sub) ∧ t.pwr = s.pwr)

/-- On a running device, for a secure request that session x has the right to make (R560): a READ that the dictionary
allows answers 0x1100 with TYPE, LENGTH, VERSION and the bytes of the value from OFFSET that fit; META answers the
entry's descriptor; BLOB_BEGIN opens a transfer of zeros under the session's next free HANDLE and answers it;
BLOB_DATA lays its bytes over the staged ones; BLOB_ABORT ends the transfer; BLOB_END of a whole transfer of
GRADE_FILE whose digest agrees makes the staged bytes GRADE_FILE, GRADING_DIGEST their SHA-384 (zeros where empty),
and ends the transfer. A transfer 60 s without BLOB_DATA ends. -/
def Obligations.TallyReadsAndTransfersComplete : Prop :=
  ∀ (s : State) (h : TallyHdr) (x : Session), s.Sound → s.running → s.takes h x →
    (∀ idx sub off max u r v, (s.served h x).odRead (.session h.session) idx sub = .ok (u, r, v) →
      Gives (.tallyRead h idx sub off max) s fun t =>
        Answers h true 0x1100 (readBody r.ty.code (u.version (idx * 256 + sub)) v off (min max (s.readRoom h))) s t) ∧
    (∀ idx sub r, vendorTest idx = false → odRowOf idx sub = .ok r →
      s.mayRead (.session h.session) (if r.acc = .wo then { r with acc := .rw } else r) idx sub = true →
      Gives (.tallyMeta h idx sub) s fun t => Answers h true 0x1100
        (r.descriptor idx sub (odDflt s.dev.variant (idx * 256 + sub))
          ((absentIndex s.dev.variant idx && sub != 0) || absentSub s.dev.variant idx sub)) s t) ∧
    (∀ idx sub total digest, (s.served h x).transferRefusal (.session h.session) (x.accepted h s.now) idx sub total = none →
      Gives (.blobBegin h idx sub total digest) s fun t =>
        (t.sessionHas h.session fun y => y.transfers = x.transfers ++
          [⟨x.freeHandle, idx, sub, total, digest, zeros total, List.replicate total false, s.now⟩]) ∧
        Answers h true 0x1100 (beBytes 2 x.freeHandle) s t) ∧
    (∀ n off v tr, x.transfer? n = some tr → off + v.length ≤ tr.total →
      Gives (.blobData h n off v) s fun t =>
        (t.sessionHas h.session fun y => y.transfer? n = some { tr with
          staged := overlay tr.staged off v
          written := overlay tr.written off (List.replicate v.length true), lastAt := s.now }) ∧
        Answers h true 0x1100 [] s t) ∧
    (∀ n tr, x.transfer? n = some tr →
      Gives (.blobAbort h n) s fun t =>
        (t.sessionHas h.session fun y => y.transfers = x.transfers.filter fun u => u.handle != n) ∧ Answers h true 0x1100 [] s t) ∧
    (∀ n tr, x.transfer? n = some tr → tr.idx = 0x4700 → tr.sub = 2 → x.admin = true → s.grading = false →
      tr.written.contains false = false → tr.staged.length ≤ blobMax → sha384 tr.staged = tr.digest →
      Gives (.blobEnd h n) s fun t =>
        t.blob Reg.grade.gradeFile = tr.staged ∧
        t.blob Reg.grade.gradingDigest = (if tr.staged.isEmpty then zeros 48 else sha384 tr.staged) ∧
        (t.sessionHas h.session fun y => y.transfers = x.transfers.filter fun u => u.handle != n)) ∧
    (∀ n tr, x.transfer? n = some tr → tr.lastAt + 60 * cyclesPerS ≤ s.now →
      Gives (.blobTransferTimeout h.session n) s fun t =>
        t.sessionHas h.session fun y => y = x.endTransfer n)

/-- The mailbox body of an unsecured READ of DEVICE_UID (0x1000:06), OFFSET 0, MAX 8 (Tables 18-4, 18-5). -/
def readUidMessage : Bytes :=
  [0x54, 0x4C, 1, 1, 0, 3, 0, 12, 0, 0, 0, 0, 0, 0, 0, 7] ++ zeros 16 ++ [0x10, 0, 6, 0, 0, 0, 0, 0, 0, 0, 0, 8]

/-- On a running device: a served SUBSCRIBE replaces the session's subscription, or ends it on an empty mask, and
counts SUBSCRIPTIONS; a served EVENT_ACK removes the unacknowledged messages up to its COUNTER; EVENT_SEND, where a
message has room for an entry, leaves no entry due; EVENT_RESEND sends a message again 1 s after it was last sent.
MBOX_GO of an unsecured READ of DEVICE_UID, to a device that has booted, leaves DONE set, GO clear and the UID in
the response; outside 32 to 2,032 bytes it sets FORMAT_ERROR and DONE. An SMBus transaction whose PEC is right
selects the entry, answers the read or STATUS, or answers the alert while SMBALERT# is asserted. -/
def Obligations.EventsMailboxAndSmbusComplete : Prop :=
  ∀ (s : State), s.Sound → s.running →
    (∀ h x mask sev both, s.takes h x → Gives (.subscribe h mask sev both) s fun t =>
      (t.sessionHas h.session fun y => y.sub = if mask.isEmpty then none else some ⟨mask, sev, both, [], [], 0⟩) ∧
      t.num Reg.evt.subscriptions = (t.mgmt.sessions.filter fun y => y.sub.isSome).length ∧ Answers h true 0x1100 [] s t) ∧
    (∀ h x c, s.takes h x → Gives (.eventAck h c) s fun t =>
      (t.sessionHas h.session fun y => y.sub = x.sub.map fun (u : Subscription) =>
        { u with unacked := u.unacked.filter fun m => c < m.counter }) ∧ Answers h true 0x1100 [] s t) ∧
    (∀ id x u, s.session? id = some x → x.sub = some u → 120 ≤ s.num Reg.mgmt.tallyMaxMsg →
      Gives (.eventSend id) s fun t => t.sessionHas id fun y => ∃ v, y.sub = some v ∧ v.due = []) ∧
    (∀ id x u m, s.session? id = some x → x.sub = some u → (u.unacked.find? fun k => k.counter == m.counter) = some m →
      m.lastSentAt + cyclesPerS ≤ s.now → x.lastPath = 1 → (s.num Reg.mgmt.mgmtLinks).testBit 0 = true →
      Gives (.eventResend id m.counter) s fun t =>
        t.sent s [.event x.id u.bothPorts { m with lastSentAt := s.now }]) ∧
    (∀ len body irqEn vector, s.mgmt.mbox.go = false → len < 32 ∨ 2032 < len →
      Gives (.mboxGo len body irqEn vector) s fun t =>
        t.mgmt.mbox.go = false ∧ t.mgmt.mbox.done = true ∧ t.mgmt.mbox.formatError = true ∧ t.mgmt.mbox.rspLen = 0) ∧
    (∀ irqEn vector, s.mgmt.mbox.go = false → s.num Reg.sec.bootState ≠ 3 →
      Gives (.mboxGo 44 readUidMessage irqEn vector) s fun t =>
        t.mgmt.mbox.go = false ∧ t.mgmt.mbox.done = true ∧ t.mgmt.mbox.formatError = false ∧ t.status = 0x1100 ∧
        bytesAt t.mgmt.mbox.body 44 8 = leBytes 8 s.dev.uid) ∧
    (∀ idx sub off, Gives (.smbSelect true idx sub off) s fun t =>
      t.mgmt.smb = { s.mgmt.smb with idx := idx, sub := sub, offset := off }) ∧
    (∀ u r v, s.odRead .smbus s.mgmt.smb.idx s.mgmt.smb.sub = .ok (u, r, v) → Gives (.smbRead true) s fun t =>
      t.status = 0x1100 ∧ t.sent s ([.smbus
        (leBytes 2 0x1100 ++ leBytes 1 (if 254 < v.length then 0xFF else v.length) ++ (v.drop s.mgmt.smb.offset).take 29)])) ∧
    (s.num Reg.sec.bootState ≠ 3 → Gives (.smbStatus true) s fun t =>
      t.sent s [.smbus (leBytes 2 s.mgmt.smb.lastStatus)]) ∧
    (s.alertAsserted = true → Gives (.smbAlertResponse true) s fun t =>
      t.sent s [.smbus (leBytes 1 (2 * s.num Reg.smb.smbAddr))])

/-- On a running device that takes Tally messages: SESSION_HELLO for a key with a role adds a challenge under the next
SESSION_ID, draws one free value and ends OK; SESSION_PROOF of an open challenge, where fewer than 16 sessions are
open, ends the challenge and adds the session with its key's rights exactly where the signature verifies, and
SESSIONS_OPEN counts it; a served SESSION_CLOSE removes the session. CHALLENGE_TIMEOUT removes a challenge 10 s
old; the idle and lifetime timeouts close a session whose time is up. TEST_EN high for 1 us sets TEST_EN and
TEST_SINCE_RESET; low for 1 us it clears TEST_EN, returns every RWT number to its default and takes the sessions'
TEST rights. -/
def Obligations.SessionsAndTestEnComplete : Prop :=
  ∀ (s : State), s.Sound → s.running →
    (∀ h ki qc nc e, s.takesTally h = none → h.session = 0 → (keyEntries (s.blob Reg.sess.operatorKeys))[ki]? = some e →
      leAt e 0 1 % 8 ≠ 0 → Gives (.sessionHello h ki qc nc) s fun t =>
        t.status = 0x2600 ∧ t.freeCtr = s.freeCtr + 1 ∧ t.mgmt.nextSession = nextSessionId s.mgmt.nextSession ∧
        ∃ c, t.mgmt.challenges = s.mgmt.challenges ++ [c] ∧ c.session = s.mgmt.nextSession ∧ c.keyIndex = ki ∧
          c.startAt = s.now) ∧
    (∀ h sig c e, s.takesTally h = none → (s.mgmt.challenges.find? fun c => c.session == h.session) = some c →
      (keyEntries (s.blob Reg.sess.operatorKeys))[c.keyIndex]? = some e → s.mgmt.sessions.length < 16 →
      Gives (.sessionProof h sig) s fun t =>
        t.mgmt.challenges = s.mgmt.challenges.filter (fun x => x.session != h.session) ∧
        if Config.ecdsaVerify (keyOf e) (sha384 (c.transcript ++ c.signature)) sig then
          t.status = 0x2600 ∧ t.mgmt.sessions = s.mgmt.sessions ++ [s.newSession h c e] ∧
            t.num Reg.sess.sessionsOpen = s.mgmt.sessions.length + 1
        else t.status = 0x2612 ∧ t.mgmt.sessions.length = s.mgmt.sessions.length ∧
          t.num Reg.sess.authFailures = wrap 64 (s.num Reg.sess.authFailures + 1)) ∧
    (∀ h x, s.takes h x → Gives (.sessionClose h) s fun t =>
      t.status = 0x2600 ∧ t.mgmt.sessions = s.mgmt.sessions.filter (fun y => y.id != h.session) ∧
      t.num Reg.sess.sessionsOpen = t.mgmt.sessions.length) ∧
    (∀ n, Gives (.challengeTimeout n) s fun t =>
      ∀ c, c ∈ t.mgmt.challenges ↔ c ∈ s.mgmt.challenges ∧ (c.session = n → s.now < c.startAt + 1000000000)) ∧
    (∀ n x, s.session? n = some x → x.lastAt + s.num Reg.sess.sessionIdleS * cyclesPerS ≤ s.now →
      Gives (.sessionIdleTimeout n) s fun t => t.mgmt.sessions = s.mgmt.sessions.filter (fun y => y.id != n) ∧
        t.num Reg.sess.sessionsOpen = t.mgmt.sessions.length) ∧
    (∀ n x, s.session? n = some x → x.openedAt + s.num Reg.sess.sessionLifeS * cyclesPerS ≤ s.now →
      Gives (.sessionLifeTimeout n) s fun t => t.mgmt.sessions = s.mgmt.sessions.filter (fun y => y.id != n) ∧
        t.num Reg.sess.sessionsOpen = t.mgmt.sessions.length) ∧
    (∀ ns, 1000 ≤ ns → Gives (.testEnAssert ns) s fun t =>
      t.sec.testEn = true ∧ t.pwr.testEnPin = true ∧ t.num Reg.sec.testEnNow = 1 ∧ t.num Reg.sec.testSinceReset = 1) ∧
    (∀ ns, 1000 ≤ ns → s.sec.testEn = true → Gives (.testEnDeassert ns) s fun t =>
      t.sec.testEn = false ∧ t.pwr.testEnPin = false ∧ t.num Reg.sec.testEnNow = 0 ∧
      (∀ k ∈ rwtNums, t.num k = odDflt s.dev.variant k) ∧ ∀ y ∈ t.mgmt.sessions, y.test = false)

/-- On a running device that has booted: DICTIONARY_WRITE of SMB_ALERT_MASK over SMBus stores the value;
SMB_ALERT_CLEAR clears the bits set in its value. For a request of a session with the ADMIN role that the device
serves: LOG_ACKED_WRITE of a value from LOG_ACKED to LOG_WRITTEN acknowledges up to it; ATTEST_REQUEST of no
context leaves the report over its nonce in ATTEST_REPORT; ADVANCE_SVN raises FUSE_SVN to FW_SVN and never lowers
it; OPERATOR_KEYS_WRITE stores the keys and closes every session whose key is gone; RESET_CMD resets: the ring
count is as after reset, no session is open and LAST_RESET is 3 (DEVICE only outside a run, DEVICE_FORCE also in
one). -/
def Obligations.ManagementWritesComplete : Prop :=
  ∀ (s : State), s.Sound → s.running → s.num Reg.sec.bootState ≠ 3 →
    (∀ v, v.length = 2 → Gives (.dictionaryWrite (.smbus true) 0x1110 2 v) s fun t =>
      t.num Reg.smb.smbAlertMask = leNat v ∧ t.status = 0x1100 ∧ t.mgmt.smb.lastStatus = 0x1100) ∧
    (∀ v, v.length = 2 → Gives (.smbAlertClear (.smbus true) v) s fun t =>
      t.num Reg.smb.smbAlertStatus = s.num Reg.smb.smbAlertStatus - (s.num Reg.smb.smbAlertStatus &&& leNat v) ∧
      t.status = 0x1100) ∧
    ∀ h x, s.takes h x → x.admin = true →
      (∀ v, v.length = 4 → s.log.merged = true → s.log.acked ≤ leNat v → leNat v ≤ s.log.written →
        Gives (.logAckedWrite (.tally h) v) s fun t => t.log.acked = leNat v ∧ t.log.entries = s.log.entries) ∧
      (∀ nonce : Bytes, nonce.length = 48 → Gives (.attestRequest (.tally h) ([0xFF] ++ zeros 15 ++ nonce)) s fun t =>
        t.blob Reg.attest.attestReport = s.attestReport 0xFF nonce ∧ t.blob Reg.attest.measLog = [] ∧ t.status = 0x2600) ∧
      (Gives (.advanceSvn (.tally h)) s fun t =>
        t.nv.fuseSvn = max s.nv.fuseSvn (s.num Reg.sec.fwSvn) ∧ t.num Reg.sec.fuseSvn = t.nv.fuseSvn) ∧
      (∀ v, v.length % 128 = 0 → v.length ≤ 1024 → (keyEntries v).all keyEntryOk = true →
        Gives (.operatorKeysWrite (.tally h) v) s fun t =>
          t.blob Reg.sess.operatorKeys = v ∧ ∀ y ∈ t.mgmt.sessions, y.pubKey ∈ (keyEntries v).map keyOf) ∧
      (s.inRun = false → Gives (.resetCmdDevice (.tally h)) s fun t =>
        t.rc = RingCount.reset ∧ t.mgmt.sessions = [] ∧ t.num Reg.start.lastReset = 3 ∧ t.pwr.inReset = false) ∧
      (Gives (.resetCmdDeviceForce (.tally h)) s fun t =>
        t.rc = RingCount.reset ∧ t.mgmt.sessions = [] ∧ t.num Reg.start.lastReset = 3 ∧ t.pwr.inReset = false)

/-- On a running device: RING_BEGIN passes the ring's remaining cycles, begins the next ring (modulo 2^64) at cycle 0,
and gives it 1,025, 1,023 or 1,024 cycles as a slip forward, backward or none is due, which it consumes. PTP_SYNC
with PTP_ENABLE: in UNSET it sets ring and grain from the TAI time and enters ACQUIRING; in ACQUIRING or LOCKED
within STEP_THRESHOLD_NS it adds the offset (measured less ASYM_NS) to the integral and sets rate_corr by the
servo's formula in i64 arithmetic, clamped; beyond it and outside a run it steps the ring count. RC_LOCKED after 64
Syncs gives LOCKED with the integral folded into base_corr; SYNC_TIMEOUT gives HOLDOVER; HOLDOVER_EXPIRED,
CLOCK_OUTLIER and GM_MISMATCH give VOID, their cause in front. -/
def Obligations.RingCountCommandsComplete : Prop :=
  ∀ (s : State), s.Sound → s.running →
    (Gives .ringBegin s fun t =>
      let x := RingCount.ticks (s.rc.len - s.rc.cyc) s.rc
      t.rc.ring = wrap 64 (x.ring + 1) ∧ t.rc.cyc = 0 ∧ t.rc.upCycles = x.upCycles ∧
      t.rc.len = (if 0 < x.pending then 1025 else if x.pending < 0 then 1023 else 1024) ∧
      t.rc.pending = (if 0 < x.pending then x.pending - 1 else if x.pending < 0 then x.pending + 1 else 0)) ∧
    (s.num Reg.ptp.ptpEnable ≠ 0 →
      (∀ m tai, s.rc.state = .unset → Gives (.ptpSync m tai) s fun t =>
        t.rc.state = .acquiring ∧ t.rc.ring = wrap 64 (tai / 10240) ∧ t.rc.cyc = tai % 10240 / 10 ∧
        t.num Reg.rc.rcState = 1) ∧
      (∀ m tai off, off = m - i32Val (s.num Reg.ptp.asymNs) → s.rc.state = .acquiring ∨ s.rc.state = .locked →
        off.natAbs ≤ s.num Reg.ptp.stepThresholdNs → Gives (.ptpSync m tai) s fun t =>
          t.rc.rateCorr = clampTo rateClamp (i64 (s.rc.baseCorr + (i64 (i64 ((s.num Reg.ptp.kp : Int) * off +
            (s.num Reg.ptp.ki : Int) * i64 (s.rc.integ + off)) * 2 ^ 40)).tdiv 1000000000)) ∧
          t.rc.integ = i64 (s.rc.integ + off) ∧ t.rc.sinceSync = some 0 ∧ t.rc.ring = s.rc.ring ∧ t.rc.state = s.rc.state ∧
          t.rc.okRun = (if s.rc.state = .acquiring ∧ off.natAbs ≤ 20 then s.rc.okRun + 1 else 0)) ∧
      (∀ m tai off, off = m - i32Val (s.num Reg.ptp.asymNs) → s.rc.state = .acquiring ∨ s.rc.state = .locked →
        s.num Reg.ptp.stepThresholdNs < off.natAbs → s.inRun = false → Gives (.ptpSync m tai) s fun t =>
          t.rc.ring = wrap 64 (tai / 10240) ∧ t.rc.cyc = tai % 10240 / 10 ∧ t.rc.integ = 0 ∧ t.rc.state = s.rc.state)) ∧
    (s.rc.state = .acquiring → 64 ≤ s.rc.okRun → Gives .rcLocked s fun t =>
      t.rc.state = .locked ∧ t.rc.integ = 0 ∧
      t.rc.baseCorr = i64 (s.rc.baseCorr + (i64 ((s.num Reg.ptp.ki : Int) * s.rc.integ * 2 ^ 40)).tdiv 1000000000)) ∧
    (∀ n, s.rc.state = .locked → s.rc.sinceSync = some n → 3 * s.syncInterval ≤ n → Gives .syncTimeout s fun t =>
      t.rc = { s.rc with state := .holdover, holdRings := 0 } ∧ t.num Reg.rc.rcState = 3) ∧
    (s.rc.state = .holdover → s.num Reg.ptp.holdoverRings ≤ s.rc.holdRings → Gives .holdoverExpired s fun t =>
      t.rc.state = .void ∧ t.rc.causes = .holdoverExpired :: s.rc.causes.filter fun d => d != .holdoverExpired) ∧
    (s.num Reg.xchk.outlierRings ≤ s.rc.outlierRun → Gives .clockOutlier s fun t =>
      t.rc.state = .void ∧ t.rc.causes = .clockOutlier :: s.rc.causes.filter fun d => d != .clockOutlier) ∧
    (16 ≤ s.rc.gmRun → Gives .gmMismatch s fun t =>
      t.rc.state = .void ∧ t.rc.causes = .gmMismatch :: s.rc.causes.filter fun d => d != .gmMismatch)

/-- On a device that runs and has power: a ring link up is noted and HELLO sent; a link down is noted while the other
is up; a HELLO within the window is kept and relayed; the window's end forms the stand from the members heard, or a
conflict; MASTER of a higher term from a member is accepted; a healthy heartbeat ends its sender's silence; a
master missed for 2 rings is lost. ARRIVE reaches the master's barrier; ARM of the current term arms and answers
ARMED; ARMED is noted; a STAND_SYNC edge releases the armed barrier and disarms, or is counted spurious; a barrier
not released in time is aborted and its late members reported; an ABORT ends the barrier. -/
def Obligations.StandCommandsComplete : Prop :=
  ∀ (s : State), s.Sound → s.alive →
    (∀ east, s.portsMayRise = true → Gives (.ringLinkUp east) s fun t =>
      t.stand.links = setBit s.stand.links (linkBit east) ∧ t.num Reg.stand.ringLinks = t.stand.links ∧
      t.sent s [.stand (.hello s.standId s.dev.uid)]) ∧
    (∀ east, clearBit s.stand.links (linkBit east) ≠ 0 → Gives (.ringLinkDown east) s fun t =>
      t.stand = { s.stand with links := clearBit s.stand.links (linkBit east) } ∧
      t.num Reg.stand.ringLinks = t.stand.links) ∧
    (∀ m uid, uid ≠ s.dev.uid → s.stand.state = .forming → s.stand.hellos.contains ⟨m, uid⟩ = false →
      Gives (.standHello m uid) s fun t =>
        t.stand = { s.stand with hellos := s.stand.hellos ++ [⟨m, uid⟩] } ∧ t.sent s [.stand (.hello m uid)]) ∧
    (∀ t₀, s.stand.state = .forming → s.stand.windowOpenAt = some t₀ → t₀ + s.num Reg.stand.formWindowMs * 100000 ≤ s.now →
      Gives .formWindowEnd s fun t =>
        if s.idConflict then t.stand.state = .conflict
        else (t.stand.state = .member ∨ t.stand.state = .master) ∧
          t.stand.members = (s.stand.hellos.map (·.standId)).foldl (fun l m => insertId m l) [s.standId]) ∧
    (∀ m term, s.inStand = true → s.stand.members.contains m = true → s.stand.term < term →
      Gives (.standMaster m term) s fun t =>
        t.stand.masterId = m ∧ t.stand.term = term ∧ t.stand.state = if m = s.standId then .master else .member) ∧
    (∀ m, s.inStand = true → s.stand.members.contains m = true → m ≠ s.standId →
      Gives (.standHeartbeat m true) s fun t =>
        (∀ p ∈ t.stand.silentRings, p.1 = m → p.2 = 0) ∧ m ∉ t.stand.unhealthy ∧ t.stand.members = s.stand.members) ∧
    (s.stand.state = .member → 2 ≤ s.stand.silence s.stand.masterId → s.stand.members.contains s.stand.masterId = true →
      Gives .masterMissed s fun t => t.stand.members = s.stand.members.filter fun m => m != s.stand.masterId) ∧
    (∀ m n, s.stand.state = .master → s.stand.members.contains m = true → Gives (.barrierArrive m n) s fun t =>
      ∃ b, t.stand.barrier? n = some b ∧ m ∈ b.arrived) ∧
    (∀ n, s.inStand = true → Gives (.barrierArm n s.stand.term) s fun t =>
      t.stand.armedBarrier = some (n, s.stand.term) ∧ t.stand.nextBarrier = max s.stand.nextBarrier (n + 1) ∧
      t.sent s [.stand (.armed n)]) ∧
    (∀ m n b, s.stand.state = .master → s.stand.members.contains m = true → s.stand.barrier? n = some b →
      b.armed.contains m = false → Gives (.barrierArmed m n) s fun t =>
        t.stand.barrier? n = some { b with armed := b.armed ++ [m] }) ∧
    (∀ n, s.stand.armedBarrier = some (n, s.stand.term) → s.stand.waiting = [] → Gives .standSyncEdge s fun t =>
      t.stand.armedBarrier = none ∧ t.stand.barrier? n = none ∧
      t.sent s [.release n s.releaseInstant.1 s.releaseInstant.2.1 s.releaseInstant.2.2]) ∧
    (s.stand.armedBarrier = none → Gives .standSyncEdge s fun t =>
      t.num Reg.stand.spuriousSync = wrap 64 (s.num Reg.stand.spuriousSync + 1) ∧ t.out = s.out) ∧
    (∀ n b, s.stand.state = .master → s.stand.barrier? n = some b →
      b.firstRing + s.num Reg.stand.barrierTimeout ≤ s.rc.ring → s.stand.waiting = [] →
      Gives (.barrierTimeout n) s fun t =>
        t.stand.barrier? n = none ∧ t.num Reg.stand.barrierAborts = wrap 64 (s.num Reg.stand.barrierAborts + 1) ∧
        t.sent s [.stand (.abort n false), .late (s.stand.members.filter fun m => !b.arrived.contains m)]) ∧
    (∀ n lost, s.inStand = true → Gives (.barrierAbort n lost) s fun t =>
      t.stand.barrier? n = none ∧ (∀ w ∈ t.stand.waiting, w.barrier ≠ n) ∧ ∀ term, t.stand.armedBarrier ≠ some (n, term))

/-- A served SECTION_LOAD by an ADMIN session puts a section that passes its checks into NEXT (the slot's ACTIVE
section of a spare into ACTIVE) and ends OK, or ends with the code of the check that fails and leaves the slots.
RUN_START_REACHED of a loaded device that is LOCKED and pinned enters ARMED and begins the run's journal.
EPOCH_START makes a verified NEXT ACTIVE. STEP_DIGEST notes its step. REPLAY_INJECT marks the record injected, and
applies a recorded write. FRAGMENT_LAUNCH of a READY fragment at its instant sends its packets and counts in
LAUNCHES; LAUNCH_PREFETCH marks it prefetched; RETENTION_END frees a RETAINED entry. -/
def Obligations.ScheduleAndLaunchCommandsComplete : Prop :=
  ∀ (s : State), s.Sound → s.alive →
    (∀ h x v, s.takes h x → x.admin = true → v.length ≤ blobMax → Gives (.sectionLoad (.tally h) v) s fun t =>
      match s.sectionCheck v with
      | .error c => t.status = c ∧ t.sched.next = s.sched.next ∧ t.sched.active = s.sched.active
      | .ok sec => t.status = 0x4A00 ∧
          if s.isSlotActive sec then t.sched.active = some sec
          else t.sched.next = some sec ∧ t.sched.active = s.sched.active) ∧
    (∀ sec, s.schedState = schedLoaded → s.num Reg.sched.runStart = s.rc.ring → s.sched.next = some sec →
      s.rc.state = .locked → s.schedPinned = true → Gives .runStartReached s fun t =>
        t.schedState = schedArmed ∧ t.sched.current.runId = sec.hdr.runId ∧ t.sched.current.runStart = s.rc.ring) ∧
    (∀ sec, s.nextStart = s.rc.ring → (s.schedState = schedArmed ∨ s.schedState = schedRunning ∨ s.schedState = schedReplay) →
      s.sched.next = some sec → sec.verified = true → Gives .epochStart s fun t =>
        t.sched.active = some sec ∧ t.sched.next = none) ∧
    (∀ sec step, s.sched.active = some sec → s.started = true → step < sec.hdr.steps → step ≤ s.stepNow →
      s.sched.digested.contains (sec.hdr.epoch, step) = false → Gives (.stepDigest step) s fun t =>
        t.sched.digested = (s.sched.digested.filter fun p => p.1 == sec.hdr.epoch) ++ [(sec.hdr.epoch, step)]) ∧
    (∀ j r q, s.replayJournal = some j → (j.records.find? fun r => r.sequence == q) = some r → s.schedState = schedReplay →
      s.sched.injected.contains q = false →
      (s.num Reg.sched.runStart + (r.ring - j.runStart)) * 1024 + r.grain ≤ s.rc.ring * 1024 + s.grain →
      (r.type ≠ 0x13 → r.type ≠ 0x14 → Gives (.replayInject q) s fun t =>
        t.sched.injected = s.sched.injected ++ [q] ∧ t.sched.replayed = s.sched.replayed ++ [r]) ∧
      (∀ v, v.length = 2 → r.type = 0x14 → r.payload = [0x10, 0x11, 2] ++ v → Gives (.replayInject q) s fun t =>
        t.sched.injected = s.sched.injected ++ [q] ∧ t.num Reg.smb.smbAlertMask = leNat v)) ∧
    (∀ k e sec start c hold, s.entry? k = some e → s.sectionOf k.epoch = some (sec, start) → s.delivery k.consumer = some c →
      e.state = .ready → instant e.ring e.grain ≤ s.nowGrain → (s.schedState = 3 ∨ s.schedState = 5) →
      s.mayLaunch k = true → c.roce = false → s.bufPoisoned e.mem 0 e.frag.length = false →
      s.num (Reg.portStat.linkUp c.port) ≠ 0 → Gives (.fragmentLaunch k hold) s fun t =>
        (∃ f, t.entry? k = some f ∧ f.state = .sent ∧ f.unacked = (s.fragPkts c e sec).length) ∧
        t.num Reg.launch.launches = wrap 64 (s.num Reg.launch.launches + 1)) ∧
    (∀ k e, s.entry? k = some e → e.state = .ready → instant e.ring e.grain ≤ s.nowGrain + s.num Reg.launch.launchPrefetch →
      Gives (.launchPrefetch k) s fun t => t.entry? k = some { e with prefetched := true }) ∧
    (∀ k e, s.entry? k = some e → e.retain ≤ s.rc.ring → e.state = .retained → Gives (.retentionEnd k) s fun t =>
      t.entry? k = none)

/-- On a running device: PERSIST_COMMIT of a written entry commits its value to its store, the boot store or, while the
Yard is usable, the Yard, and it is pending no more; HEARTWOOD_UPDATE, HW_INTERVAL_S after the last, sets LAST_TAI
and raises UPDATE_SEQ; LOG_MIRROR_WRITE of a merged log with a usable Yard leaves every entry in the mirror;
LOG_WINDOW_CLOSE closes the window of an entry whose time is past; PTP_ANNOUNCE of a better master takes its
identity and its UTC offset; MGMT_LINK_CHANGE sets or clears the port's bit of MGMT_LINKS. -/
def Obligations.RecordsAndClocksComplete : Prop :=
  ∀ (s : State), s.Sound → s.running →
    (∀ k, s.nv.boot.pendingKeys.contains k = true → Gives (.persistCommit k) s fun t =>
      t.nv.boot = s.committed s.nv.boot k ∧ k ∉ t.nv.boot.pendingKeys) ∧
    (∀ k, s.nv.boot.pendingKeys.contains k = false → s.nv.yard.pendingKeys.contains k = true → s.yardUsable = true →
      Gives (.persistCommit k) s fun t => t.nv.yard = s.committed s.nv.yard k ∧ k ∉ t.nv.yard.pendingKeys) ∧
    (s.mgmt.hwLoaded = true → s.mgmt.hwAt + s.num Reg.hw.hwIntervalS * 100000000 ≤ s.now → Gives .heartwoodUpdate s fun t =>
      t.mgmt.hwAt = s.now ∧ t.num Reg.cal.lastTai = s.calendarTai ∧
      t.num Reg.hw.updateSeq = sat 64 (s.num Reg.hw.updateSeq + 1)) ∧
    (s.log.merged = true → s.yardUsable = true → Gives .logMirrorWrite s fun t =>
      t.nv.log.entries = s.log.allMirrored.entries ∧ t.nv.log.written = s.log.written ∧
      ∀ e ∈ t.log.entries, e.mirrored = true) ∧
    (∀ e, s.log.merged = true → e ∈ s.log.entries → e.closed = false → e.windowEnd ≤ s.now →
      (∀ f ∈ s.log.entries, f.seq = e.seq → f = e) → Gives (.logWindowClose e.seq) s fun t =>
        ∀ f ∈ t.log.entries, f.seq = e.seq → f.closed = true) ∧
    (∀ id utc, s.num Reg.ptp.ptpEnable ≠ 0 → Gives (.ptpAnnounce id true utc) s fun t =>
      t.rc.gmIdentity = id ∧ t.num Reg.ptp.gmIdentity = id ∧ t.num Reg.cal.utcOffsetS = i32Bits utc) ∧
    (∀ port up, port < 2 → Gives (.mgmtLinkChange port up) s fun t =>
      t.num Reg.mgmt.mgmtLinks =
        if up then setBit (s.num Reg.mgmt.mgmtLinks) port else clearBit (s.num Reg.mgmt.mgmtLinks) port)

/-- A Lookout frame that passes the checks of R449: of this domain, from a pair not revoked, under the current key epoch,
verified and new; this device has no ISOLATED to declare first. -/
def Sys2Proof.Machine.State.hears (s : State) (h : LkHdr) : Prop :=
  h.wellFormed = true ∧ h.domain = s.num Reg.lkCfg.domainId ∧ s.pairRevoked h.srcSlot h.generation = false ∧
    h.keyEpoch = s.num Reg.lk.lkKeyEpoch % 256 ∧ h.tagOk = true ∧ (s.seenFrom h).contains h.msgSeq = false ∧
    s.lookout.tellIsolated = false

/-- On a running device, for a frame that passes the checks of R449: outside the council a heartbeat of a known peer in
time marks it heard, and an ABORT of cause 1 that names this device's pair makes a MEMBER SUSPECTED; a council
member keeps a suspicion that another reports and probes it; PROBE of this device's pair is answered on the backup
paths; PROBE_REPLY casts an ALIVE vote; a VOTE is added to the suspicion; JOIN of a device on the roster is kept
for the leader; LATE is kept by the leader; STATUS_QUERY is answered; a STATUS_REPLY that revokes this device's
pair makes it a snag; SNAPSHOT lays down its bytes. A PLAIN FENCED naming this device's pair asks the council for
its status. -/
def Obligations.LookoutFramesComplete : Prop :=
  ∀ (s : State) (h : LkHdr), s.Sound → s.running → s.hears h →
    (∀ gm st ok tx rx l, s.inCouncil = false → (s.lookout.peers.any fun p => p.gen == h.generation) = true →
      h.ring = s.rc.ring → s.grain < s.num Reg.lkCfg.hbWindow → Gives (.lkHeartbeat h gm st ok tx rx l) s fun t =>
        ∀ p ∈ t.lookout.peers, p.gen = h.generation → p.heard = true) ∧
    (∀ subj gen ring m, s.inCouncil = true → subj ≠ s.mySlot → s.member? subj = some m → m.gen = gen → m.state ≠ 9 →
      s.lookout.suspicions = [] → s.pairRevoked subj gen = false →
      lowest (s.council.filter fun x => x != subj) ≠ s.mySlot → Gives (.lkSuspect h subj gen ring) s fun t =>
        t.suspicion? gen = some ⟨subj, gen, ring, some s.rc.ring, 0, [], [], false⟩ ∧
        ∀ x ∈ t.lookout.members, x.gen = gen → x.state = 6) ∧
    (∀ a : LkAbort, s.inCouncil = false → a.cause = 1 → a.replaced = s.mySlot → a.replacedGen = s.myGen → s.lkState = 5 →
      Gives (.lkAbort h a) s fun t => t.lkState = 6) ∧
    (∀ term, s.lkMaySend 5 = true → Gives (.lkProbe h s.mySlot s.myGen term) s fun t =>
      t.lookout.msgSeq = wrap 32 (s.lookout.msgSeq + 1) ∧
      ∃ a b, t.sent s [.lkFrame 1 (some h.srcSlot) a, .lkFrame 2 (some h.srcSlot) b]) ∧
    (∀ subj term x, s.suspicion? h.generation = some x → x.slot = subj → x.probing.isSome = true → x.vote = 0 →
      s.inCouncil = true → s.isLeader = false → Gives (.lkProbeReply h subj h.generation term) s fun t =>
        t.suspicion? h.generation = some { x with vote := 1, alive := x.alive ++ [s.mySlot] }) ∧
    (∀ prop x, s.inCouncil = true → s.council.contains h.srcSlot = true → s.suspicion? prop = some x →
      s.isLeader = false → Gives (.lkVote h (s.num Reg.lk.councilTerm) prop 1) s fun t =>
        t.suspicion? prop = some { x with alive := addVoter x.alive h.srcSlot }) ∧
    (∀ uid slot capset, s.inCouncil = true → s.roster.contains uid = true →
      (s.lookout.members.any fun m => m.uid == uid && m.state != 9) = false → s.num Reg.lk.domainState ≠ 1 →
      s.isLeader = false → Gives (.lkJoin h uid slot capset) s fun t =>
        t.status = 0x2400 ∧ t.lookout.joins = (s.lookout.joins.filter fun j => j.1 != uid) ++ [(uid, capset)]) ∧
    (∀ e k g, s.isLeader = true → Gives (.lkLate h e k g) s fun t =>
      t.lookout.late = s.lookout.late ++ [⟨e, k, h.srcSlot, g⟩]) ∧
    (∀ uid, s.inCouncil = true → s.lkMaySend 0x0C = true → Gives (.lkStatusQuery h uid) s fun t =>
      t.lookout.msgSeq = wrap 32 (s.lookout.msgSeq + 1) ∧
      ∃ a b, t.sent s [.lkFrame 1 (some h.srcSlot) a, .lkFrame 2 (some h.srcSlot) b]) ∧
    (s.lkState ≠ 9 → Gives (.lkStatusReply h s.dev.uid s.mySlot 9 s.myGen) s fun t =>
      t.lkState = 9 ∧ t.lookout.asked = false) ∧
    (∀ off b, s.inCouncil = true → h.srcSlot = s.num Reg.lk.leader → Gives (.lkSnapshot h off b) s fun t =>
      t.lookout.snapshot = s.lookout.snapshot.take off ++ zeros (off - s.lookout.snapshot.length) ++ b ++
        s.lookout.snapshot.drop (off + b.length)) ∧
    (s.myGen ≠ 0 → s.lookout.asked = false → Gives (.lkFenced h s.mySlot s.myGen) s fun t =>
      t.lookout.asked = true ∧ ∃ l, t.sent s (.lkPlain s.mySlot s.myGen :: l))

/-- A whole decision that this device applies at once (R464, R467): of the current term, its voters enough and of the council,
next in sequence, with nothing held back. -/
def Sys2Proof.Machine.State.ripe (s : State) (d : LkDecision) : Prop :=
  d.term = s.num Reg.lk.councilTerm ∧ s.council ≠ [] ∧
    s.majority ≤ (d.voters.filter fun v => v != 0xFFFF).eraseDups.length ∧
    (d.voters.filter fun v => v != 0xFFFF).eraseDups.all s.council.contains = true ∧
    d.seq = wrap 32 (s.num Reg.lk.decisionSeq + 1) ∧ d.count ≤ d.list.length ∧ s.lookout.partials = [] ∧ s.lookout.waiting = []

/-- On a running device outside the council, for a whole DECISION frame in the current term, with voters enough of the
council and the next DECISION_SEQ, nothing waiting: ALIVE ends the suspicion of the pair; DEAD puts it on the
revoked list; ADMIT adds the member with its new generation, and sets this device's slot, generation and state
where it is the one; COPPICE_START puts the spare into the slot in COPPICE; SLOT_READY makes it a MEMBER; CO_OPT
adds the slot to the council; EPOCH_SHIFT moves later launches; DOMAIN_HOLD holds from the first step past
STOP_GUARD; RESUME ends the hold; ORPHANED lists the shards; DEMOTE revokes the pair and drops the member; SCORES
sets every score. -/
def Obligations.DecisionsComplete : Prop :=
  ∀ (s : State) (h : LkHdr) (d : LkDecision), s.Sound → s.running → s.hears h → s.inCouncil = false → s.ripe d →
    (Gives (.decisionAlive h d) s fun t =>
      t.lookout.suspicions = s.lookout.suspicions.filter (fun x => x.gen != d.subjectGen) ∧
      (d.subject = s.mySlot → d.subjectGen = s.myGen → t.lkState = 5)) ∧
    (Gives (.decisionDead h d) s fun t =>
      (d.subject, d.subjectGen) ∈ t.lookout.revoked ∧ (d.subject = s.mySlot → d.subjectGen = s.myGen → t.lkState = 9)) ∧
    (Gives (.decisionAdmit h d) s fun t =>
      (∃ m ∈ t.lookout.members, m.uid = d.subjectUid ∧ m.slot = d.subject ∧ m.gen = d.newGen) ∧
      (d.subjectUid = s.dev.uid → t.mySlot = d.subject ∧ t.myGen = d.newGen ∧
        t.lkState = if d.subject = 0xFFFF then 2 else 5)) ∧
    (Gives (.decisionCoppiceStart h d) s fun t =>
      (∃ m ∈ t.lookout.members, m.uid = d.subjectUid ∧ m.slot = d.subject ∧ m.gen = d.newGen ∧ m.state = 4) ∧
      (d.subjectUid = s.dev.uid → t.mySlot = d.subject ∧ t.myGen = d.newGen ∧ t.lkState = 4 ∧
        t.num Reg.coppice.coppiceSlot = d.subject)) ∧
    (Gives (.decisionSlotReady h d) s fun t =>
      (∀ m ∈ t.lookout.members, m.gen = d.subjectGen → m.state = 5) ∧
      (d.subject = s.mySlot → d.subjectGen = s.myGen → t.lkState = 5)) ∧
    (Gives (.decisionCoOpt h d) s fun t =>
      t.blob Reg.council.council =
        slotBytes (if s.council.contains d.subject then s.council else insertRising d.subject s.council)) ∧
    (Gives (.decisionEpochShift h d) s fun t =>
      t.num Reg.lk.decisionSeq = d.seq ∧ t.sched.lateReported = false ∧
      (s.sched.active = none → t.sched.shiftRings = s.sched.shiftRings + d.shiftRings)) ∧
    (s.lookout.hold = none → Gives (.decisionDomainHold h d) s fun t =>
      t.num Reg.lk.domainState = 2 ∧ t.lookout.hold = s.stepFrom (s.rc.ring + s.num Reg.lkConst.stopGuard)) ∧
    (Gives (.decisionResume h d) s fun t =>
      t.lookout.hold = none ∧ t.lookout.stopped = [] ∧ t.num Reg.lk.domainState = 0) ∧
    (Gives (.decisionOrphaned h d) s fun t =>
      t.sched.orphans = s.sched.orphans ++ (d.list.map (·.1)).filter fun x => !s.sched.orphans.contains x) ∧
    (Gives (.decisionDemote h d) s fun t =>
      (d.subject, d.subjectGen) ∈ t.lookout.revoked ∧ ∀ m ∈ t.lookout.members, m.gen ≠ d.subjectGen) ∧
    (Gives (.decisionScores h d) s fun t =>
      t.num Reg.lk.decisionSeq = d.seq ∧ ∀ m ∈ t.lookout.members, m.slot ≠ 0xFFFF →
        m.score = ((d.list.find? fun p => p.1 == m.slot).map (·.2)).getD 0)

/-- On a running device, for a DECLARE that passes the checks of R449: VOID and ABSENT make the declarer REASSIGNED and
its slot taken over; RESUME makes it a MEMBER again; LOAD_LATE and COPPICE_DONE at the leader of a council that
needs more than one vote, nothing else being undecided, are proposed as EPOCH_SHIFT and SLOT_READY; ISOLATED at a
council member is a suspicion of its sender; REINGESTED, outside the council, takes its shard off the orphan list;
VERIFY_DONE, outside the council, leaves no member of its generation JOINED but a SPARE; HOLD_MEMBERSHIP holds a
domain of more than one member. -/
def Obligations.DeclarationsComplete : Prop :=
  ∀ (s : State) (h : LkHdr) (e k : Nat), s.Sound → s.running → s.hears h →
    (Gives (.declareVoid h e k) s fun t =>
      (∀ m ∈ t.lookout.members, m.gen = h.generation → m.state = 7) ∧
      ∃ x ∈ t.lookout.taken, x.slot = h.srcSlot ∧ x.until_ = none) ∧
    (Gives (.declareAbsent h e k) s fun t =>
      (∀ m ∈ t.lookout.members, m.gen = h.generation → m.state = 7) ∧
      ∃ x ∈ t.lookout.taken, x.slot = h.srcSlot ∧ x.until_ = none) ∧
    (Gives (.declareResume h e k) s fun t => ∀ m ∈ t.lookout.members, m.gen = h.generation → m.state = 5) ∧
    (s.isLeader = true → s.num Reg.lk.domainState ≠ 1 → s.lookout.suspicions = [] → s.lookout.proposals = [] →
      1 < s.majority →
      (Gives (.declareLoadLate h e k) s fun t => ∃ p, t.lookout.proposals = [p] ∧ p.accepts = [s.mySlot] ∧
        p.dec = { emptyDecision 7 0xFFFF 0 with epoch := e }) ∧
      (Gives (.declareCoppiceDone h e k) s fun t => ∃ p, t.lookout.proposals = [p] ∧ p.accepts = [s.mySlot] ∧
        p.dec = emptyDecision 5 h.srcSlot h.generation)) ∧
    (∀ m, s.inCouncil = true → h.srcSlot ≠ s.mySlot → s.member? h.srcSlot = some m → m.gen = h.generation → m.state ≠ 9 →
      s.lookout.suspicions = [] → lowest (s.council.filter fun x => x != h.srcSlot) ≠ s.mySlot →
      Gives (.declareIsolated h e k) s fun t =>
        t.suspicion? h.generation = some ⟨h.srcSlot, h.generation, s.rc.ring, some s.rc.ring, 0, [], [], false⟩) ∧
    (s.inCouncil = false → Gives (.declareReingested h e k) s fun t =>
      t.sched.orphans = s.sched.orphans.filter fun x => x != e * 2 ^ 32 + k) ∧
    (s.inCouncil = false → Gives (.declareVerifyDone h e k) s fun t =>
      t.lookout.members = s.lookout.members.map fun (m : Member) =>
        if m.gen = h.generation ∧ m.state = 2 then { m with state := 3 } else m) ∧
    (1 < s.serving.length → Gives (.declareHoldMembership h e k) s fun t => t.num Reg.lk.domainState = 1)

/-- On a running device: HEARTBEAT_WINDOW with every peer heard clears their misses; PROBE_TIMEOUT casts a DEAD vote;
VOTE_FALLBACK on a split vote revokes the pair; JOIN_SEND of an unjoined, locked device enters JOINING;
LATENESS_TALLY scores the latest devices of the step and SCORE_DECAY scales each score by 15/16; DECISION_MISSING
holds the domain; LOCKSTEP_FAULT fences the device; DELIVERY_FAULT sends an ABORT of the fragment;
COPPICE_SHARD_COPY asks for the next shard; SPARE_VERIFY makes an admitted device a SPARE; COUNCIL_RESEED by an
ADMIN session sets the council; LOAD_LATE is reported once. -/
def Obligations.LookoutEventsComplete : Prop :=
  ∀ (s : State), s.Sound → s.running →
    (s.beats = true → s.lookout.peers ≠ [] → (s.lookout.peers.all fun p => p.heard) = true → 0 < s.num Reg.lkConst.suspectMisses →
      Gives .heartbeatWindow s fun t => t.lookout.silent = 0 ∧
        t.lookout.peers = s.lookout.peers.map fun (p : LkPeer) => { p with missed := 0, heard := false }) ∧
    (∀ g x r, s.suspicion? g = some x → x.probing = some r → r + s.num Reg.lkCfg.probeRings ≤ s.rc.ring → x.vote = 0 →
      s.inCouncil = true → s.isLeader = false → Gives (.probeTimeout g) s fun t =>
        t.suspicion? g = some { x with vote := 2, dead := x.dead ++ [s.mySlot] }) ∧
    (∀ g x r, s.suspicion? g = some x → x.probing = some r → s.isLeader = true → s.num Reg.lk.domainState ≠ 1 →
      r + s.num Reg.lkCfg.probeRings + 4 ≤ s.rc.ring → s.majority ≤ x.alive.length + x.dead.length →
      x.alive.length < s.majority → x.dead.length < s.majority → Gives (.voteFallback g) s fun t =>
        (x.slot, x.gen) ∈ t.lookout.revoked) ∧
    (∀ slot, s.num Reg.lkCfg.domainId ≠ 0 → s.lkState = 0 → s.rc.state = .locked → s.num Reg.start.startState = 7 →
      s.roster ≠ [s.dev.uid] → Gives (.joinSend slot) s fun t => t.lkState = 1 ∧ t.lookout.joinAt = s.now) ∧
    (s.isLeader = true → s.num Reg.lkCfg.autoPreempt = 0 → s.lookout.suspicions = [] → s.lookout.proposals = [] →
      (∀ e k r sec start, s.firstLaunch e k = some r → s.sectionOf e = some (sec, start) → r + sec.hdr.stepPeriod ≤ s.rc.ring →
        Gives (.latenessTally e k) s fun t =>
          t.lookout.late = (s.lookout.late.filter fun x => !(x.epoch == e && x.step == k)) ∧
          t.lookout.members.map (·.score) = s.lookout.members.map fun (m : Member) =>
            let l := s.lookout.late.filter fun x => x.epoch == e && x.step == k
            let worst := (l.filter fun x => x.grains == l.foldl (fun m x => max m x.grains) 0).map (·.slot)
            if worst.contains m.slot && m.slot != 0xFFFF then sat 16 (m.score + s.num Reg.lkConst.scoreStep) else m.score) ∧
      (s.rc.ring % max 1 (s.num Reg.lkConst.scoreDecayRings) = 0 → 1 < s.majority → Gives .scoreDecay s fun t =>
        t.lookout.members.map (·.score) = s.lookout.members.map fun (m : Member) => m.score * 15 / 16)) ∧
    (∀ g x, s.suspicion? g = some x → x.ring + 256 ≤ s.rc.ring → 1 < s.serving.length → Gives (.decisionMissing g) s fun t =>
      t.num Reg.lk.domainState = 1) ∧
    (Gives .lockstepFault s fun t =>
      t.num Reg.lk.lockstep = 1 ∧ t.lkState = 0x0A ∧ t.stand = { s.stand with driving := false }) ∧
    (∀ k x sec start, s.entry? k = some x → s.sectionOf k.epoch = some (sec, start) → k.orig = none →
      s.bufPoisoned x.mem 0 x.frag.length = true → sec.hdr.guarded = true →
      (s.lookout.served.any fun v => v.epoch == k.epoch && v.step == k.step && v.consumer == k.consumer &&
        v.replaced == s.mySlot) = false → Gives (.deliveryFault k) s fun t =>
        t.num Reg.lkCnt.abortsSent = wrap 64 (s.num Reg.lkCnt.abortsSent + 1) ∧
        ∃ v ∈ t.lookout.served, v.epoch = k.epoch ∧ v.step = k.step ∧ v.consumer = k.consumer ∧ v.replaced = s.mySlot) ∧
    (∀ c l, s.lkState = 4 → s.lookout.coppice = c :: l → c.state = 0 →
      (s.lookout.coppice.all fun x => !s.holdsSealed x.shard) = true →
      (s.lookout.coppice.filter fun x => x.state == 1).length < s.num Reg.lkCfg.coppiceStreams →
      Gives .coppiceShardCopy s fun t => t.sent s [.coppiceCopy c.source c.shard]) ∧
    (∀ l, s.lkState = 2 → Gives (.spareVerify l) s fun t => t.lkState = 3) ∧
    (∀ h x v, s.takes h x → x.admin = true → v.length = 10 → s.lookout.suspicions = [] → s.lookout.proposals = [] →
      Gives (.councilReseed (.tally h) v) s fun t =>
        t.blob Reg.council.council = slotBytes (s.formCouncil (slotsOf v))) ∧
    (s.inCouncil = false → s.sched.next = none → s.sched.lateReported = false → s.rc.ring < s.nextStart →
      s.nextStart ≤ s.rc.ring + s.num Reg.sched.loadGuard → Gives .loadLate s fun t => t.sched.lateReported = true)

/-- On a device that runs and has power: a DECODE_IMAGE, DECODE_FRAME or ENCODE_FITS to a fitted unit whose queue has
room joins the queue with OK, or, where its context owns the cluster and is not resident there, the queue kept for
that context (the model's reading, log entry 70); STREAM_OPEN with room for its picture buffer opens the lowest
free handle on the lowest free slot, WAITING where there is none; STREAM_SUBMIT appends an access unit;
STREAM_CLOSE removes the stream, or waits for the picture in progress; a checked image at the head starts on a
unit; DECODE_COMPLETE frees its unit, counts, and ends refused media with 0x4010; a finished picture's stream goes
on to the next unit; an island speed sample is stored and the lowest kept. -/
def Obligations.DecodeCommandsComplete : Prop :=
  ∀ (s : State) (r : Requester) (d : DecodeDesc), s.Sound → s.alive →
    (∀ k c, (k, c) ∈ [(DecKind.image, Instr.decodeImage r d), (.frame, .decodeFrame r d), (.encode, .encodeFits r d)] →
      s.resident d.cluster ≠ some r.ctx → s.ownsCluster r.ctx d.cluster = true → s.decFitted k d = true →
      (s.decSaved r.ctx d.cluster k.cls).entries.length < 64 → Gives c s fun t => t.status = 0x4000 ∧
        (t.decSaved r.ctx d.cluster k.cls).entries = (s.decSaved r.ctx d.cluster k.cls).entries ++ [⟨k, r, d⟩]) ∧
    ((s.resident d.cluster = some r.ctx ∨ s.ownsCluster r.ctx d.cluster = false) → s.decFitted .image d = true →
      (s.decQueue d.cluster 0).entries.length < 64 →
      Gives (.decodeImage r d) s fun t => t.status = 0x4000 ∧
        (t.decQueue d.cluster 0).entries = (s.decQueue d.cluster 0).entries ++ [⟨.image, r, d⟩]) ∧
    ((s.resident d.cluster = some r.ctx ∨ s.ownsCluster r.ctx d.cluster = false) → s.decFitted .frame d = true →
      (s.decQueue d.cluster 2).entries.length < 64 →
      (Gives (.decodeFrame r d) s fun t => t.status = 0x4000 ∧
        (t.decQueue d.cluster 2).entries = (s.decQueue d.cluster 2).entries ++ [⟨.frame, r, d⟩]) ∧
      (Gives (.encodeFits r d) s fun t => t.status = 0x4000 ∧
        (t.decQueue d.cluster 2).entries = (s.decQueue d.cluster 2).entries ++ [⟨.encode, r, d⟩])) ∧
    (∀ i, s.decCheck ⟨.open_, r, d⟩ = none → (s.decQueue d.cluster 1).entries = [] → dpbBytes d.params ≤ d.outCap →
      s.mayAccess r d.outBuf 0 (dpbBytes d.params) = true → lowestFree 1024 (s.dec.streams.map fun x => x.handle - 1) = some i →
      Gives (.streamOpen r d) s fun t => t.status = 0x4000 ∧ t.dec.streams = s.dec.streams ++
        [⟨i + 1, d.cluster, r.ctx, d.outBuf, lowestFree 64 (s.slotsHeld d.cluster), false, [], [], 0, 0, none, []⟩] ∧
        t.num Reg.stream.streamsOpen = s.dec.streams.length + 1) ∧
    (∀ x, s.decCheck ⟨.submit, r, d⟩ = none → (s.decQueue d.cluster 1).entries = [] → s.stream? d.stream = some x →
      x.owner = r.ctx → x.cluster = d.cluster → x.closing = none → x.refused = false → x.queue.length < 16 →
      Gives (.streamSubmit r d) s fun t => t.stream? d.stream = some { x with queue := x.queue ++ [⟨.submit, r, d⟩] }) ∧
    (∀ x, s.decCheck ⟨.close, r, d⟩ = none → (s.decQueue d.cluster 1).entries = [] → s.stream? d.stream = some x →
      x.owner = r.ctx → x.closing = none → Gives (.streamClose r d) s fun t =>
        if (s.vunit x.cluster).current = some x.handle then t.stream? d.stream = some { x with closing := some ⟨.close, r, d⟩ }
        else t.stream? d.stream = none ∧ t.status = 0x4000) ∧
    (∀ e l u, (s.decQueue d.cluster 0).entries = e :: l → s.decCheck e = none → e.kind = .image →
      pickUnit 0 ((s.decQueue d.cluster 0).running.map (·.1)) e.desc.unit = some u →
      Gives (.decodeDescriptorHead d.cluster 0) s fun t => (t.decQueue d.cluster 0).entries = l ∧
        (t.decQueue d.cluster 0).running = (s.decQueue d.cluster 0).running ++ [(u, e)]) ∧
    (∀ cls u e o, (s.decQueue d.cluster cls).running.find? (fun x => x.1 == u) = some (u, e) →
      Gives (.decodeComplete d.cluster cls u o none) s fun t =>
        (∀ x ∈ (t.decQueue d.cluster cls).running, x.1 ≠ u) ∧
        (cls = 0 → t.num Reg.dec.imagesDone = wrap 64 (s.num Reg.dec.imagesDone + 1)) ∧
        (cls ≠ 0 → t.num Reg.dec.framesDone = wrap 64 (s.num Reg.dec.framesDone + 1)) ∧
        (s.inputOk e.req e.desc.inBuf e.desc.inLen = true → e.kind = .image → o.refusal ≠ 0 → t.status = 0x4010)) ∧
    (∀ x e l o, (s.vunit d.cluster).current = some x.handle → s.stream? x.handle = some x → x.queue = e :: l →
      x.closing = none → o.refusal = 0 → o.limits = false → o.outputs = 0 → s.inputOk e.req e.desc.inBuf e.desc.inLen = true →
      Gives (.videoPictureDone d.cluster o none) s fun t =>
        t.num Reg.dec.picturesDone = wrap 64 (s.num Reg.dec.picturesDone + 1) ∧
        t.stream? x.handle = some { x with
          queue := l, decoded := x.decoded + 1
          held := if e.desc.options.testBit 4 then x.held else x.held ++ [⟨e, o, x.decoded⟩] }) ∧
    (∀ v, s.hasCluster d.cluster = true → Gives (.islandSpeedSample d.cluster v) s fun t =>
      t.num (Reg.island.islandSpeed d.cluster) = wrap 16 v ∧
      t.num Reg.islandCtl.islandSpeedLow = min (s.num Reg.islandCtl.islandSpeedLow) (wrap 16 v))

/-- On a device that runs and has power: an accepted FRAME_DATA with new bytes of a frame in assembly that has no
FRAME_END yet adds them; an accepted FRAME_END of a frame that still lacks bytes keeps its generation and instant;
a frame that times out leaves its slot and is counted; the first frame waiting enters the catalogue; a settings
write of an admin session with a next generation, far enough ahead, is accepted and sent; an acknowledgement marks
its generation and every lower one; one not acknowledged at its ring is reported once; a fused frame whose layers
are all ready is decided and stored; a member's OUTCOME is kept and acknowledged. -/
def Obligations.IntakeCommandsComplete : Prop :=
  ∀ (s : State) (p : IntakePacket), s.Sound → s.alive →
    (∀ a, s.replaying = false → s.intakeAccepts p = true → p.payload ≠ [] → p.payload.length ≤ 8192 →
      p.offset + p.payload.length ≤ s.liveFrameBytes p.stream → (s.liveStream p.stream).done.contains p.frame = false →
      (s.liveStream p.stream).slots.find? (fun y => y.number == p.frame) = some a → a.ended = none →
      (keepNew a.got p.offset p.payload).length ≠ a.got.length → Gives (.frameData p) s fun t =>
        t.num Reg.intake.packets = wrap 64 (s.num Reg.intake.packets + 1) ∧
        ∃ b ∈ (t.liveStream p.stream).slots, b.number = p.frame ∧ b.got = keepNew a.got p.offset p.payload ∧ b.lastRx = p.rxTai) ∧
    (∀ a, s.replaying = false → s.intakeAccepts p = true → p.payload = [] →
      (s.liveStream p.stream).slots.find? (fun y => y.number == p.frame) = some a → a.ended = none →
      a.got.length ≠ s.liveFrameBytes p.stream → Gives (.frameEnd p) s fun t =>
        t.num Reg.intake.packets = wrap 64 (s.num Reg.intake.packets + 1) ∧
        ∃ b ∈ (t.liveStream p.stream).slots, b.number = p.frame ∧ b.ended = some p.generation ∧ b.soe = p.soe) ∧
    (∀ i n a, i < 256 → (s.liveStream i).slots.find? (fun y => y.number == n) = some a → a.number = n →
      a.lastRing + s.num Reg.intake.frameTimeout ≤ s.rc.ring → s.num (Reg.live.group i) = 0xFF → Gives (.frameTimeout i n) s fun t =>
        (∀ b ∈ (t.liveStream i).slots, b.number ≠ n) ∧ n ∈ (t.liveStream i).done ∧
        t.num (Reg.live.frames i) = wrap 64 (s.num (Reg.live.frames i) + 1)) ∧
    (∀ f l enc, s.intake.toStore = .frame f :: l → s.num (Reg.live.storeFormat f.stream) = 0 → Gives (.frameStore enc) s fun t =>
      t.intake.toStore = l ∧ t.intake.catalogue = s.intake.catalogue ++
        [⟨7, s.rawSample f, f.block, 3, f.stream, none, sha384 (s.rawSample f)⟩]) ∧
    (∀ h x i v, s.takes h x → x.admin = true → i < 256 → s.settingsRefusal i v = none → v.length ≤ 1036 → s.replaying = false →
      Gives (.settingsWrite (.tally h) i v) s fun t =>
        t.num (Reg.live.settingsGen i) = leAt v 0 4 ∧
        ∃ l, t.sent s (.settings i (leAt v 0 4) (leAt v 4 8) (v.drop 12) :: l)) ∧
    (s.replaying = false → s.intakeAccepts p = true → p.payload = [] → Gives (.settingsAck p) s fun t =>
      ∀ g ∈ (t.liveStream p.stream).settings, g.gen ≤ p.generation → g.acked = true) ∧
    (∀ i n g, (s.liveStream i).settings.find? (fun g => g.gen == n && !g.acked && !g.reported && g.effective ≤ s.rc.ring) = some g →
      Gives (.settingsUnacked i n) s fun t => ∀ h ∈ (t.liveStream i).settings, h.gen = n → h.reported = true) ∧
    (∀ g k f, (s.group g).frame? k = some f → (s.group g).open_ = [f] → f.decided = none → f.barrier = none →
      s.flag (Reg.group.standSpan g) = false → (s.groupLayers g).all (fun l => f.layers.any fun y => y.layer == l.1) = true →
      Gives (.fuseDecide g k) s fun t => (t.group g).open_ = [] ∧
        t.intake.toStore.length = s.intake.toStore.length + 1 ∧ (f.index, f.exposure, f.layers.map (·.layer)) ∈ (t.group g).past) ∧
    (∀ m g k ls, Gives (.fuseOutcome m g k false ls) s fun t => t.sent s [.fuseOutcomeAck m g k] ∧
      (m, ls.map fun (o : LayerOutcome) => o.layer) ∈ (t.group g).known)

/-- On a device that runs and has power: each of the seven token descriptors to a fitted cluster whose queue has room
joins the queue with OK, or, where its context owns the cluster and is not resident there, the queue kept for that
context (the model's reading, log entry 70); a checked head that needs no vocabulary starts on its idle unit; a
TOKENIZE that only counts and finds well-formed text completes with OK, its bytes counted and the number of its
tokens in its record; ROLLOUT_OPEN completes with its stream open; a chunk's slot is queued for its stream, and one
not yet freed is an overrun; a queued slot is processed, freed and its chunk counted or dropped; a rollout that
times out leaves its stream. -/
def Obligations.TokenCommandsComplete : Prop :=
  ∀ (s : State) (r : Requester) (d : TokenDesc), s.Sound → s.alive →
    (∀ k c, (k, c) ∈ [(TokKind.tokenize, Instr.tokenize r d), (.detokenize, .detokenize r d), (.vocabLoad, .vocabLoad r d),
        (.grammarLoad, .grammarLoad r d), (.grammarCheck, .grammarCheck r d), (.rolloutOpen, .rolloutOpen r d),
        (.rolloutClose, .rolloutClose r d)] →
      s.hasCluster d.cluster = true → s.resident d.cluster ≠ some r.ctx → s.ownsCluster r.ctx d.cluster = true →
      (s.tokSaved r.ctx d.cluster).entries.length < 64 → Gives c s fun t => t.status = 0x4400 ∧
        (t.tokSaved r.ctx d.cluster).entries = (s.tokSaved r.ctx d.cluster).entries ++ [⟨k, r, d⟩]) ∧
    ((s.resident d.cluster = some r.ctx ∨ s.ownsCluster r.ctx d.cluster = false) → s.hasCluster d.cluster = true →
      (s.tokQueue d.cluster).entries.length < 64 →
      let joins := fun (k : TokKind) (t : State) =>
        t.status = 0x4400 ∧ (t.tokQueue d.cluster).entries = (s.tokQueue d.cluster).entries ++ [⟨k, r, d⟩]
      Gives (.tokenize r d) s (joins .tokenize) ∧ Gives (.detokenize r d) s (joins .detokenize) ∧
      Gives (.vocabLoad r d) s (joins .vocabLoad) ∧ Gives (.grammarLoad r d) s (joins .grammarLoad) ∧
      Gives (.grammarCheck r d) s (joins .grammarCheck) ∧ Gives (.rolloutOpen r d) s (joins .rolloutOpen) ∧
      Gives (.rolloutClose r d) s (joins .rolloutClose)) ∧
    (∀ e l, (s.tokQueue d.cluster).entries = e :: l → e.kind.needsVocab = false → s.tokCheck e = none →
      e.desc.unit ≤ 1 → ((s.tokQueue d.cluster).running.any fun p => p.1 == e.desc.unit) = false →
      Gives (.tokenDescriptorHead d.cluster) s fun t => (t.tokQueue d.cluster).entries = l ∧
        (t.tokQueue d.cluster).running = (s.tokQueue d.cluster).running ++ [(e.desc.unit, e)]) ∧
    (∀ u e v, (s.tokQueue d.cluster).running.find? (fun p => p.1 == u) = some (u, e) → e.kind = .tokenize →
      s.inputOk e.req e.desc.inBuf e.desc.inLen = true → s.unitVocab e.desc.cluster u = some v →
      e.desc.options.testBit 1 = true → e.desc.policy ≠ 2 → Gives (.tokenComplete d.cluster u none) s fun t =>
        let x := tokenizeText v.image (s.bufRead e.desc.inBuf 0 e.desc.inLen) (e.desc.options.testBit 0) e.desc.policy
        t.status = 0x4400 ∧ (t.tokQueue d.cluster).running = (s.tokQueue d.cluster).running.eraseP (fun p => p.1 == u) ∧
        t.num Reg.tok.tokenizedBytes = wrap 64 (s.num Reg.tok.tokenizedBytes + e.desc.inLen) ∧
        ∃ y : TokResult, y.status = 0x4400 ∧ y.tokens = x.toks.length ∧
          .record e.desc.resultAddr (y.encode e.desc.sample) ∈ t.out) ∧
    (∀ u e i, (s.tokQueue d.cluster).running.find? (fun p => p.1 == u) = some (u, e) → e.kind = .rolloutOpen →
      e.desc.params = 2 ^ 33 → 64 + 16416 * 2 ≤ e.desc.inLen → s.mayAccess e.req e.desc.inBuf 0 (64 + 16416 * 2) = true →
      (s.tok.streams.filter fun x => x.entry.desc.cluster == e.desc.cluster).length < 16 →
      lowestFree 256 (s.tok.streams.map fun x => x.handle - 1) = some i → Gives (.tokenComplete d.cluster u none) s fun t =>
        t.status = 0x4400 ∧ t.tok.streams = s.tok.streams ++ [⟨i + 1, e, u, 2, 0, 0, [], [], [], []⟩] ∧
        t.num Reg.rollout.streamsOpen = s.tok.streams.length + 1) ∧
    (∀ h slot x, s.rolloutStream? h = some x → slot < x.slots → Gives (.rolloutChunk h slot) s fun t =>
      if x.unfreed.contains slot then t.num Reg.rollout.overruns = wrap 64 (s.num Reg.rollout.overruns + 1)
      else t.rolloutStream? h = some { x with unfreed := x.unfreed ++ [slot], notes := x.notes ++ [slot] }) ∧
    (∀ h x slot l, s.rolloutStream? h = some x → x.notes = slot :: l → s.resident x.entry.desc.cluster = some x.entry.req.ctx →
      Gives (.rolloutNotifyProcess h) s fun t =>
        (∃ y, t.rolloutStream? h = some y ∧ y.notes = l ∧ slot ∉ y.unfreed) ∧
        let hdr := s.bufRead x.entry.desc.inBuf (64 + 16416 * slot) 32
        let ids := s.bufRead x.entry.desc.inBuf (64 + 16416 * slot + 32) (4 * min 4096 (leAt hdr 4 2))
        if (x.dropCause hdr ids).isSome then t.num Reg.rollout.chunksDropped = wrap 64 (s.num Reg.rollout.chunksDropped + 1)
        else t.num Reg.rollout.chunks = wrap 64 (s.num Reg.rollout.chunks + 1)) ∧
    (∀ h x n y, s.rolloutStream? h = some x → x.rollouts.find? (fun z => z.id == n) = some y →
      y.lastRing + s.num Reg.rollout.rolloutTimeout ≤ s.rc.ring → Gives (.rolloutTimeout h n) s fun t =>
        ∃ z, t.rolloutStream? h = some z ∧ n ∈ z.done ∧ ∀ w ∈ z.rollouts, w.id ≠ n)

/-- On a device that runs and has power: LAUNCH, KERNEL_LOAD, KERNEL_UNLOAD, MODEL_LOAD and MODEL_UNLOAD to a fitted
cluster whose queue has room join the queue with OK, or, where their context owns the cluster and is not resident
there, the queue kept for that context (the model's reading, log entry 70). A checked KERNEL_UNLOAD at the head
removes its kernel and ends with OK; a checked LAUNCH at the head becomes the launch in progress with no item done.
An item that ends without a fault is counted: where it was the last, the launch is counted and over, else it has
one item more done. ITEM_BUDGET faults the item of a core with code 4. -/
def Obligations.ComputeCommandsComplete : Prop :=
  ∀ (s : State) (r : Requester) (d : ComputeDesc), s.Sound → s.alive →
    (∀ k c, (k, c) ∈ [(ComputeKind.launch, Instr.launch r d), (.kernelLoad, .kernelLoad r d), (.kernelUnload, .kernelUnload r d),
        (.modelLoad, .modelLoad r d), (.modelUnload, .modelUnload r d)] →
      s.hasCluster d.cluster = true → s.resident d.cluster ≠ some r.ctx → s.ownsCluster r.ctx d.cluster = true →
      (s.csSaved r.ctx d.cluster).queue.length < 64 → Gives c s fun t => t.status = 0x4600 ∧
        (t.csSaved r.ctx d.cluster).queue = (s.csSaved r.ctx d.cluster).queue ++ [⟨k, r, d⟩]) ∧
    ((s.resident d.cluster = some r.ctx ∨ s.ownsCluster r.ctx d.cluster = false) → s.hasCluster d.cluster = true →
      (s.cs d.cluster).queue.length < 64 →
      let joins := fun (k : ComputeKind) (t : State) =>
        t.status = 0x4600 ∧ (t.cs d.cluster).queue = (s.cs d.cluster).queue ++ [⟨k, r, d⟩]
      Gives (.launch r d) s (joins .launch) ∧ Gives (.kernelLoad r d) s (joins .kernelLoad) ∧
      Gives (.kernelUnload r d) s (joins .kernelUnload) ∧ Gives (.modelLoad r d) s (joins .modelLoad) ∧
      Gives (.modelUnload r d) s (joins .modelUnload)) ∧
    (∀ c e q, (s.cs c).queue = e :: q → (s.cs c).launch = none → (s.cs c).stopped = false → s.computeCheck e = none →
      e.desc.cluster = c → e.kind = .kernelUnload → Gives (.computeDescriptorHead c) s fun t =>
        t.status = 0x4600 ∧ (t.cs c).queue = q ∧
        (t.cs c).kernels = (s.cs c).kernels.filter (fun k => k.handle != e.desc.kernel) ∧
        (c < 16 → t.num (Reg.kernel.kernelsLoaded c) = (t.cs c).kernels.length)) ∧
    (∀ c e q, (s.cs c).queue = e :: q → (s.cs c).launch = none → (s.cs c).stopped = false → s.computeCheck e = none →
      e.kind = .launch → Gives (.computeDescriptorHead c) s fun t => (t.cs c).queue = q ∧
        let cores := bitsOf 8 e.desc.coreMask
        (t.cs c).launch = some ⟨e, cores.zip (List.range cores.length), 0, 0, none, ComputeFlags.none, 0⟩) ∧
    (∀ c i l n x, (s.cs c).launch = some l → (s.core c i).item = some n → (s.core c i).fault = none → x.fault = 0 →
      x.grade = none → Gives (.workItemEnd c i x) s fun t =>
        t.num Reg.prep.items = wrap 64 (s.num Reg.prep.items + 1) ∧
        if l.done + 1 + l.faulted = l.entry.desc.items then
          (t.cs c).launch = none ∧ t.num Reg.prep.launches = wrap 64 (s.num Reg.prep.launches + 1)
        else ∃ m, (t.cs c).launch = some m ∧ m.entry = l.entry ∧ m.done = l.done + 1 ∧ m.faulted = l.faulted ∧
          m.cycles = l.cycles + x.cycles) ∧
    (∀ c i pc n, (s.core c i).item = some n → (s.core c i).fault = none → Gives (.itemBudget c i pc) s fun t =>
      (t.core c i).fault = some (4, pc) ∧ (t.core c i).tile = (s.core c i).tile)

/-- No engine of the core waits or has an instruction queued. -/
def Sys2Proof.Machine.Core.idle (k : Core) : Prop := ∀ e, (k.engine e).wait = none ∧ (k.engine e).queue = []

/-- Engine `a` of `t` is as `x` left it, and so are its core's tile memory, flags and fault. -/
def Sys2Proof.Machine.EngineCtx.leaves (x : EngineCtx) (a : EngineAt) (t : State) : Prop :=
  (t.core a.cluster a.core).engine a.engine = x.eng ∧ (t.core a.cluster a.core).tile = x.core.tile ∧
    (t.core a.cluster a.core).flags = x.core.flags ∧ (t.core a.cluster a.core).fault = x.core.fault

/-- On a device that runs and has power, at an engine of a fitted cluster whose core has no fault and whose engines
wait for nothing: each instruction but SYNC leaves the engine's registers, the tile memory, the flags and the fault
of the core as Table 7-3 gives for it (ACC clear leaves zeros in its tile, a VRED its sum in the destination, a
load of a vector the bytes of tile memory); SYNC leaves the engine waiting unless what it waits for has come. A DMA
transfer that checks is in flight after it is issued; the oldest completes: it is no longer in flight, and a row
moved from cluster SRAM stands in tile memory. -/
def Obligations.EnginesAndDmaComplete : Prop :=
  ∀ (s : State) (a : EngineAt), s.Sound → s.alive → s.hasCluster a.cluster = true → a.core < 8 → a.engine < 2 →
    (s.core a.cluster a.core).fault = none → (s.core a.cluster a.core).idle →
    let x := s.engineCtx a.cluster a.core a.engine
    (∀ o, Gives (.engineLdSt a o) s ((runLdSt x a.pc o).leaves a)) ∧
    (∀ o, Gives (.engineMma a o) s ((runMma x a.pc o).leaves a)) ∧
    (∀ o, Gives (.engineAcc a o) s ((runAcc x a.pc o).leaves a)) ∧
    (∀ o, Gives (.engineCvt a o) s ((runCvt x a.pc o).leaves a)) ∧
    (∀ o, Gives (.engineValu a o) s ((runValu x a.pc o).leaves a)) ∧
    (∀ o, Gives (.engineVred a o) s ((runVred x a.pc o).leaves a)) ∧
    (∀ o, Gives (.engineVperm a o) s ((runVperm x a.pc o).leaves a)) ∧
    (∀ o, o ≠ .engine a.engine → Gives (.engineSync a o) s fun t =>
      ((t.core a.cluster a.core).engine a.engine).wait =
        if (s.core a.cluster a.core).syncMet a.engine o then none else some o) ∧
    (∀ o, s.dmaFault a.cluster a.core o = none → Gives (.dmaTransfer a.cluster a.core a.pc o) s fun t =>
      (t.core a.cluster a.core).dma = (s.core a.cluster a.core).dma ++ [o]) ∧
    (∀ o l, (s.core a.cluster a.core).dma = o :: l → Gives (.dmaComplete a.cluster a.core) s fun t =>
      (t.core a.cluster a.core).dma = l ∧
      ∀ f, o.toTile = true → o.far = .clusterSram f → o.rows = 1 → (t.core a.cluster a.core).tile =
        writeMem (s.core a.cluster a.core).tile o.tileAddr (readMem (s.cs a.cluster).sram f o.rowBytes)) ∧
    (∀ n, n < 8 → Gives (.engineAcc a ⟨.clear, .fpAcc n, 0⟩) s fun t =>
      ((t.core a.cluster a.core).engine a.engine).acc .fp n t.freeCtr = zeroCells) ∧
    (∀ o, o.lane.isLane = true → o.dst < 32 → o.a < 32 → Gives (.engineVred a o) s fun t =>
      ((t.core a.cluster a.core).engine a.engine).vec o.dst =
        vredVec o.lane (((s.core a.cluster a.core).engine a.engine).vec o.a) % 2 ^ 1024) ∧
    (∀ n d, n < 32 → d + 128 ≤ tileBytes → Gives (.engineLdSt a ⟨false, .vector n, .fp32, d⟩) s fun t =>
      ((t.core a.cluster a.core).engine a.engine).vec n = leNat (readMem (s.core a.cluster a.core).tile d 128) % 2 ^ 1024)

/-- On a device that runs and has power, for a request of an ADMIN session that it serves: GRADE_START of a file that
agrees with what the device holds starts the pass with an empty record; GRADE_ABORT of a pass in progress fails it;
SEASON_CLEAR with 1 outside a run discards every entry. GRADE_SIGNATURES of a device not yet heard are kept;
GRADE_DONE with no near-duplicate filter ends the pass with the partial record. PREPARE_FRAGMENT begins the next
fragment where its entry can be allocated; a fragment whose extents all have what the recipe makes of their items
becomes READY with its immediate value. -/
def Obligations.GradingAndBuckingComplete : Prop :=
  ∀ (s : State), s.Sound → s.alive →
    (∀ h x, s.takes h x → x.admin = true →
      (s.grading = false → s.gradeRefusal = none → Gives (.gradeStart (.tally h)) s fun t =>
        t.num Reg.grade.gradeState = 2 ∧ t.blob Reg.grade.slashRecord = [] ∧ t.grade = ⟨[], [], [], []⟩) ∧
      (s.grading = true → Gives (.gradeAbort (.tally h)) s fun t => t.num Reg.grade.gradeState = 6) ∧
      (s.started = false → Gives (.seasonClear (.tally h) [1]) s fun t =>
        t.deck.season = [] ∧ t.num Reg.season.seasonBytesUsed = 0)) ∧
    (∀ d f l, s.grading = true → s.grade.heard.contains (f * 65536 + d) = false → s.num Reg.grade.gradeState = 2 →
      Gives (.gradeSignatures d f l) s fun t => t.grade.heard = s.grade.heard ++ [f * 65536 + d] ∧
        t.grade.sigs = s.grade.sigs ++ l.map fun p => ⟨f, some d, p.1, p.2⟩) ∧
    (s.num Reg.grade.gradeState = 2 → s.gradedAll = true → (gradeKinds (s.blob Reg.grade.gradeFile)).contains 2 = false →
      s.grade.sigs = [] → Gives .gradeDone s fun t => t.num Reg.grade.gradeState = 5 ∧
        t.blob Reg.grade.slashRecord = s.partialRecord ∧ t.num Reg.grade.slashBytes = s.partialRecord.length) ∧
    (∀ k f ring grain m u, s.nextFragment = some (k, f, ring, grain) → s.deckRoom (s.reserveShare k.orig.isSome f.length) f.length = true →
      s.unitAlloc 0 none 7 f.length = some (m, u) → Gives .prepareFragment s fun t =>
        t.deck.begun = s.deck.begun ++ [k] ∧
        ∃ e, t.deck.entries = s.deck.entries ++ [e] ∧ e.key = k ∧ e.frag = f ∧ e.state = .preparing ∧ e.ring = ring ∧
          e.grain = grain ∧ e.mem = m) ∧
    (∀ k e x st c b items l, s.entry? k = some e → e.state = .preparing → s.sectionOf k.epoch = some (x, st) →
      s.sources k (s.skipped k.epoch) ((s.madeItems k.epoch e.frag.recipeIndex b items).map (·.1)) (x.extentsOf e.frag) =
        some l → b.prefixSlot = none →
      Gives (.fragmentReady k c b items) s fun t => ∃ y, t.entry? k = some y ∧ y.state = .ready ∧ y.mem = e.mem ∧
        y.immediate = immediateValue k.step c
          ((l.filterMap fun p => match p.2 with | .item _ i => some i | _ => none).any fun i => i.concealed != 0)
          (!(l.filterMap fun p => p.2.excl).isEmpty))

/-- On a running device whose Yard is READY, with no hold-up flush: an accepted write stands in the write buffer with
its LSA and data; a read of a sector not mapped gives zeros, of one in the write buffer its data, of one on NAND
that its guard fits its data; a good sample read is delivered; a partner's read is answered; a partner's good bytes
repair the sample; the first range of a copy creates it; a copy that agrees is SEALED; SEALED by the partner seals
the shard; one whose wait is over with no partner is SINGLE; a discard reads as zeros; a failed LUN's bolts are
RETIRED. -/
def Obligations.YardReadsAndWritesComplete : Prop :=
  ∀ (s : State), s.Sound → s.running → s.num Reg.yard.yardState = 2 → s.pwr.flushing = false →
    (∀ v k data tp u lbn j, s.writeRefusal v = none → s.wbRoom = true → s.lsaIn v k = some (lbn, j) →
      s.writeSector v k data tp = .ok u → Gives (.yardWrite v k data tp) s fun t => t.status = 0x3200 ∧
        ∃ w ∈ t.yard.wb, w.sector.lsa = lsaOf lbn j ∧ w.sector.data = (data ++ zeroSector).take 4096) ∧
    (∀ v k n lbn j, s.lsaIn v k = some (lbn, j) →
      (s.mapped lbn j = none → Gives (.yardRead v k ⟨.clean n, none, none⟩) s fun t =>
        t.status = 0x3200 ∧ t.sent s [.sector 0x3200 zeroSector zeroTuple]) ∧
      (∀ x i, s.mapped lbn j = some (x, i) → (s.yard.wb.any fun w => w.sector == x) = true →
        Gives (.yardRead v k ⟨.clean n, none, none⟩) s fun t => t.sent s [.sector 0x3200 x.data x.tuple]) ∧
      (∀ x i, s.mapped lbn j = some (x, some i) → (s.yard.wb.any fun w => w.sector == x) = false →
        s.yard.luns.contains (boltChannel i, boltLun i) = true → s.yard.erases = [] → guard64 x.data = x.tuple.guard →
        Gives (.yardRead v k ⟨.clean n, none, none⟩) s fun t => t.sent s [.sector 0x3200 x.data x.tuple])) ∧
    (∀ id d o l reads, s.shard? id = some d → s.yard.checks = [] → (s.readShard d o l reads).1 = .good →
      (Gives (.nandReadDone id o l reads) s fun t => ∃ r, t.sent s (.sample id o (s.readShard d o l reads).2.1 :: r)) ∧
      ∀ p, Gives (.partnerRead p id o l reads) s fun t =>
        ∃ r, t.sent s (.partnerReply p id o l (some (s.readShard d o l reads).2.1) :: r)) ∧
    (∀ id o l v f d, s.yard.fetches.find? (fun f => f.shard == id && f.offset == o && f.length == l) = some f →
      s.shard? id = some d → s.sampleMatch id o l v = true → Gives (.partnerReadReply id o l (some v)) s fun t =>
        f ∉ t.yard.fetches ∧ t.num Reg.yardFault.partnerRepairs = wrap 64 (s.num Reg.yardFault.partnerRepairs + 1)) ∧
    (∀ owner id c (b : Bytes), s.shard? id = none → s.yard.shards.length < s.num Reg.shard.shardsMax → b.length < 4096 →
      Gives (.partnerAppend owner id 0 c b) s fun t => t.status = 0x3200 ∧ t.sent s [.copyAnswer owner id 0x3200] ∧
        ∃ d, t.shard? id = some d ∧ d.owner_ = false ∧ d.owner = owner ∧ d.state = 1 ∧ d.bytes = b.length ∧ d.tail = b) ∧
    (∀ owner id d, s.shard? id = some d → d.tail = [] → sha384 (s.shardStored d) = d.digest →
      Gives (.partnerSeal owner id d.bytes d.digest) s fun t => (∃ r, t.sent s (.sealAnswer owner id true :: r)) ∧
        ∃ e, t.shard? id = some e ∧ e.state = 3 ∧ e.bytes = d.bytes) ∧
    (∀ id d, s.shard? id = some d → d.owner_ = true → d.state = 2 → Gives (.sealAnswer d.partner id true) s fun t =>
      t.shard? id = some { d with state := 3 } ∧ ∀ w ∈ t.yard.waits, w.shard ≠ id) ∧
    (∀ id d w refusing, s.shard? id = some d → s.yard.waits.find? (fun w => w.shard == id) = some w → d.state = 2 →
      w.since + 100000 * s.num Reg.yardCfg.partnerWaitMs ≤ s.now → s.num Reg.lkCfg.domainId = 0 →
      Gives (.partnerWaitTimeout id refusing) s fun t => t.shard? id = some { d with state := 4 }) ∧
    (∀ v base n first count, s.volumeRange v = some (base, n) → first + count ≤ n → 0 < s.boltSectors →
      s.boltSectors ≤ 65536 → Gives (.discard v first count) s fun t => t.status = 0x3200 ∧ ∀ i, i < count →
        t.mapped (base + (first + i) / s.boltSectors) ((first + i) % s.boltSectors) = none) ∧
    (∀ c l, s.yard.luns.contains (c, l) = true → (s.yard.bolts.map (·.idx)).Nodup → Gives (.lunFail c l) s fun t =>
      (c, l) ∉ t.yard.luns ∧ t.num Reg.yardFault.lunFails = wrap 64 (s.num Reg.yardFault.lunFails + 1) ∧
      ∀ b ∈ t.yard.bolts, boltChannel b.idx = c → boltLun b.idx = l → b.state = .retired)

/-- On a running device with a READY Yard and no hold-up flush: a passed wordline leaves the write buffer for its
bolt's cells; an erase that may begin is in progress after its intent is committed; a good one leaves the bolt
ERASED with its new count, a failed one RETIRED; FOLD takes the one full log bolt as its victim, and a fold with no
LBN left ends; WEAR_RELOCATE maps the LBN to the worn bolt; cruise moves on; its rate follows the bytes; a bolt
marked for refresh with nothing mapped is RELEASED and counted; JOURNAL_COMMIT leaves nothing staged; a due
CHECKPOINT begins and CHECKPOINT_DONE makes its slot current. An ADMIN session's FORMAT of an unformatted Yard
leaves it READY and empty; CHECKPOINT_NOW begins a checkpoint; CRUISE_RESTART starts at the first bolt.
YARD_RECOVERY with no anchor halts at UNFORMATTED, and with a good current slot goes on to step 0x06. -/
def Obligations.YardMaintenanceComplete : Prop :=
  ∀ (s : State), s.Sound → s.running → s.pwr.flushing = false →
    (s.num Reg.yard.yardState = 2 →
      (∀ i b, s.bolt? i = some b → s.yard.fold = none → 0 < s.wlSectors → (s.wordlineOf b).length = s.wlSectors →
        Gives (.wordlineProgramDone i true) s fun t => (∀ w ∈ s.wordlineOf b, w ∉ t.yard.wb) ∧
          ∃ c, t.bolt? i = some c ∧ c.cells = b.cells ++ (s.wordlineOf b).map (·.sector)) ∧
      (∀ i b, s.bolt? i = some b → s.mayErase b = true → Gives (.boltErase i) s fun t =>
        t.yard.erases = s.yard.erases ++ [⟨i, b.nextCount, s.yard.yseq, 0, []⟩] ∧ t.yard.staged = []) ∧
      (∀ i b r o, s.bolt? i = some b → b.state ≠ .retired → s.yard.erases.find? (fun r => r.bolt == i) = some r → r.waiting = [] →
        s.yard.anchorBolts.contains i = false → (s.yard.wb.all fun w => w.at_.isSome) = true → Gives (.eraseDone i o) s fun t =>
          (∀ x ∈ t.yard.erases, x.bolt ≠ i) ∧ ∃ c, t.bolt? i = some c ∧
            if o.good then c.state = .erased ∧ c.count = r.count ∧ c.cells = [] ∧ c.faults = 0 else c.state = .retired) ∧
      (∀ v, s.yard.fold = none → s.logRoom < s.num Reg.yardCfg.foldStart → s.boltsIn .fullLog = [v] → Gives .fold s fun t =>
        t.yard.fold = some ⟨v.idx, s.yard.yseq, s.lbnsIn v.idx, none⟩) ∧
      (∀ v f, s.yard.fold = some ⟨v, f, [], none⟩ → Gives .fold s fun t => t.yard.fold = none) ∧
      (∀ a d e, s.num Reg.yardCfg.wlSpread < s.wearSpread → s.wearSource = some a → s.wearTarget = some d →
        s.yard.lbns.find? (fun e => e.bolt == a.idx) = some e → Gives .wearRelocate s fun t =>
          t.lbn? e.lbn = some ⟨e.lbn, d.idx, s.boltSectors⟩) ∧
      (∀ b reads, s.flag Reg.cruise.cruiseEnable = true → s.cruiseBolt = some b →
        (b.state = .erased → Gives (.cruiseRead reads true) s fun t => t.num Reg.cruise.cruisePosition =
          if s.yard.bolts.any fun c => decide (b.idx < c.idx) && c.cruised then b.idx + 1 else 0) ∧
        (b.state ≠ .erased → (s.yard.cruiseWordline + 1) * max 1 s.wlSectors < b.cells.length →
          Gives (.cruiseRead reads true) s fun t => t.yard.cruiseWordline = s.yard.cruiseWordline + 1)) ∧
      (Gives .cruiseRateRecompute s fun t =>
        t.num Reg.cruise.cruiseRate = s.programmedBytes / max 1 (s.num Reg.cruise.cruiseDays * 86400)) ∧
      (∀ i b, s.bolt? i = some b → b.refresh = true → b.state = .fullLog → s.lbnsIn i = [] → Gives (.refresh i) s fun t =>
        t.num Reg.cruise.refreshes = wrap 64 (s.num Reg.cruise.refreshes + 1) ∧
        ∃ c, t.bolt? i = some c ∧ c.state = .released ∧ c.refresh = false) ∧
      (∀ a b, s.yard.staged ≠ [] → Gives (.journalCommit a b) s fun t => t.yard.staged = [] ∧
        (a = true → b = true → s.yard.pairs ≠ [] → s.yard.pairUsed < s.slcPages →
          t.yard.pages = s.yard.pages ++ numberPages s.yard.pageSeq (packPages s.yard.staged 0 []))) ∧
      (s.num Reg.yardCfg.checkpointBytes ≤ s.yard.sinceCkpt → s.yard.writing = none → Gives .checkpoint s fun t =>
        t.yard.writing.isSome = true ∧ t.yard.sinceCkpt = 0) ∧
      (∀ slot c fails, s.yard.writing = some (slot, c) → Gives (.checkpointDone fails) s fun t =>
        t.yard.writing = none ∧ (if slot = 0 then t.yard.slotA = some c else t.yard.slotB = some c) ∧
        ∃ a, t.yard.anchor = some a ∧ a.slot = slot)) ∧
    (∀ m : RecoveryMedia, s.pwr.lossStopped = false → s.startState = 4 →
      (s.yard.anchor = none → Gives (.yardRecovery m) s fun t => t.num Reg.yard.yardState = 4 ∧ t.startState = 0x84) ∧
      ∀ a k, s.yard.anchor = some a → m.anchorReadable = true → a.uid = s.dev.uid →
        a.geometryCrc = geometryCrc (((s.setN Reg.yard.yardState 1).putYard s.yard.onFlash).enumerate m.luns).yard.reports →
        a.slot = 0 → s.yard.slotA = some k → m.badSlotA = false → Gives (.yardRecovery m) s fun t =>
          6 ≤ t.startState ∧ t.yard.logBolts = a.logBolts) ∧
    ∀ h x, s.takes h x → x.admin = true → s.yard.writing = none →
      (s.num Reg.yard.yardState = 4 → ∀ fails, Gives (.format (.tally h) fails) s fun t =>
        t.num Reg.yard.yardState = 2 ∧ t.yard.lbns = [] ∧ t.yard.logs = [] ∧ t.yard.shards = [] ∧ t.yard.volumes = []) ∧
      (s.num Reg.yard.yardState = 2 → (Gives (.checkpointNow (.tally h)) s fun t => t.yard.writing.isSome = true) ∧
        (Gives (.cruiseRestart (.tally h)) s fun t =>
          t.num Reg.cruise.cruisePosition = 0 ∧ t.yard.cruiseDone = 0 ∧ t.yard.cruiseSince = s.now))

/-- On a running device: an ALLOC that passes its checks is granted at once where blocks are free, as a new buffer of
its owner and context, and else waits where it asks to; EXTEND lengthens the chain, PASS changes the owner, FREE
ends the handle and leaves the blocks to return, QUERY answers and changes no memory, the head of a wait queue is
granted, and freed blocks with nothing in flight go back to the free list. A corrected error is counted; an
uncorrectable one poisons a held block and retires a free one. An arbiter grants LAUNCH first, then the one class
that requests; a grant withdrawn is a dead cycle; after the interval a reserved grant is due. -/
def Obligations.PoolAndArbiterCommandsComplete : Prop :=
  ∀ (s : State) (r : Requester) (c : PoolCmd), s.Sound → s.running →
    (s.allocRefusal r c = none →
      (∀ p, s.allocPool c (c.wait r) = some p → Gives (.alloc r c) s fun t => t.status = 0x3400 ∧
        ∃ b, (t.pool p).bufs = (s.pool p).bufs ++ [b] ∧ b.owner = (c.wait r).owner ∧ b.ctx = (c.wait r).ctx ∧
          b.chain.length = (c.wait r).blocks ∧ b.inFlight = 0 ∧
          t.sent s [.poolAnswer r.id 0x3400 (b.handle p) (c.wait r).blocks b.owner (ctxByte b.ctx)]) ∧
      (s.allocPool c (c.wait r) = none → c.flags.testBit 0 = true → Gives (.alloc r c) s fun t =>
        (t.pool c.pool).waits = (s.pool c.pool).waits ++ [c.wait r] ∧ t.out = s.out)) ∧
    (∀ b, s.handleRefusal r c.handle true = none → s.buf? c.handle = some b →
      let p := hPool c.handle
      let n := ceilDiv c.bytes (poolBlockBytes p)
      (c.reservedOk r false true false = true → tooLarge p (b.chain.length + n) = false → s.overQuota p b.ctx n = false →
        s.overReserve p c.flags n = false → (s.pool p).canTake n = true → Gives (.extend r c) s fun t => t.status = 0x3400 ∧
          ∃ e, t.buf? c.handle = some e ∧ e.chain.length = b.chain.length + n ∧ e.chain.take b.chain.length = b.chain ∧
            e.owner = b.owner ∧ e.ctx = b.ctx) ∧
      (c.reservedOk r false false true = true → Gives (.pass r c) s fun t =>
        t.status = 0x3400 ∧ t.buf? c.handle = some { b with owner := c.owner })) ∧
    (∀ b, c.reservedOk r false false false = true → s.buf? c.handle = some b →
      (s.freeRefusal r c.handle = none → Gives (.free r c) s fun t => t.status = 0x3400 ∧ t.buf? c.handle = none ∧
        b ∈ (t.pool (hPool c.handle)).draining) ∧
      (s.handleRefusal r c.handle false = none → Gives (.query r c) s fun t => t.status = 0x3400 ∧ t.mem = s.mem ∧
        t.sent s [.poolAnswer r.id 0x3400 c.handle b.chain.length b.owner (ctxByte b.ctx)])) ∧
    (∀ p w l, (s.pool p).waits = w :: l → w.blocks ≤ (s.pool p).freeCount → w.extends_ = none → Gives (.waitGrant p) s fun t =>
      (t.pool p).waits = l ∧ ∃ b, (t.pool p).bufs = (s.pool p).bufs ++ [b] ∧ b.owner = w.owner ∧ b.ctx = w.ctx ∧
        b.chain.length = w.blocks) ∧
    (∀ h b, (s.pool (hPool h)).draining.find? (fun b => b.handle (hPool h) == h && b.inFlight == 0) = some b →
      (s.pool (hPool h)).poisoned = [] → Gives (.blocksReturn h) s fun t =>
        (∀ x ∈ (t.pool (hPool h)).draining, x.handle (hPool h) ≠ h) ∧ ∀ x ∈ b.chain, x ∈ (t.pool (hPool h)).freed) ∧
    (Gives (.memoryCorrected 0) s fun t => t.num Reg.tier.hbmCorrected = wrap 64 (s.num Reg.tier.hbmCorrected + 1)) ∧
    (Gives (.memoryCorrected 1) s fun t => t.num Reg.tier.ddrCorrected = wrap 64 (s.num Reg.tier.ddrCorrected + 1)) ∧
    (∀ p b, (poolTier p).isSome = true → s.dev.variant.hasPool p = true → b < (s.pool p).blocks →
      (s.pool p).retired.contains b = false → Gives (.memoryUncorrectable p b) s fun t =>
        if ((s.pool p).bufs ++ (s.pool p).draining).any fun x => x.chain.contains b then b ∈ (t.pool p).poisoned
        else b ∈ (t.pool p).retired ∧ b ∉ (t.pool p).freed) ∧
    (∀ k i reqs, arbHasLaunch k = true → Gives (.arbiterCycle k i reqs true true false) s fun t =>
      t.sent s [.grant k i none]) ∧
    (∀ k i q, q.cls < arbClasses s.dev.variant k → (s.arb k i).reservedDue = false →
      (s.arb k i).grants < s.num Reg.arb.starveInterval →
      (Gives (.arbiterCycle k i [q] false true false) s fun t =>
        t.sent s [.grant k i (some q.cls)] ∧ (t.arb k i).grants = (s.arb k i).grants + 1) ∧
      (Gives (.arbiterCycle k i [q] false true true) s fun t => t.out = s.out ∧
        t.num Reg.arb.deadCycles = wrap 64 (s.num Reg.arb.deadCycles + 1) ∧ q.cls ∈ (t.arb k i).withdrew)) ∧
    (∀ k i, s.num Reg.arb.starveInterval ≤ (s.arb k i).grants → Gives (.starveIntervalReached k i) s fun t =>
      (t.arb k i).reservedDue = true ∧ (t.arb k i).grants = 0)

/-- On a running device: a descriptor for a Chipper of the device whose pipeline holds fewer than 64 joins it with OK,
and QUEUE_DEPTH counts it; a checked head of an idle pipeline starts, unless it came after PWR_FAIL_N to one of
Chippers 0 to 7. A running request completes: it leaves the queue, its record is written, and where its output fits
its buffer its status is that of the compression or decompression of its input as far as it may be read. -/
def Obligations.ChipperCommandsComplete : Prop :=
  ∀ (s : State) (d : ChipDesc), s.Sound → s.running → d.chipper < 16 →
    ((s.chipPipe d.chipper false).queue.length < 64 → Gives (.compress d) s fun t => t.status = 0x3600 ∧
      (t.chipPipe d.chipper false).queue = (s.chipPipe d.chipper false).queue ++ [⟨d, s.pwr.flushing⟩] ∧
      t.num (Reg.chipQ.queueDepth d.chipper) =
        (s.chipPipe d.chipper false).queue.length + 1 + (s.chipPipe d.chipper true).queue.length) ∧
    ((s.chipPipe d.chipper true).queue.length < 64 → Gives (.decompress d) s fun t => t.status = 0x3600 ∧
      (t.chipPipe d.chipper true).queue = (s.chipPipe d.chipper true).queue ++ [⟨d, s.pwr.flushing⟩] ∧
      t.num (Reg.chipQ.queueDepth d.chipper) =
        (s.chipPipe d.chipper false).queue.length + ((s.chipPipe d.chipper true).queue.length + 1)) ∧
    (∀ de e l, (s.chipPipe d.chipper de).queue = e :: l → (s.chipPipe d.chipper de).busy = false →
      (e.afterPwrFail = false ∨ 8 ≤ d.chipper) → s.chipRefusal e.desc de = none →
      Gives (.chipperDescriptorHead d.chipper de) s fun t =>
        (t.chipPipe d.chipper de).busy = true ∧ (t.chipPipe d.chipper de).queue = e :: l) ∧
    (∀ de e l, (s.chipPipe d.chipper de).queue = e :: l → (s.chipPipe d.chipper de).busy = true → e.desc.chipper = d.chipper →
      Gives (.chipperComplete d.chipper de) s fun t =>
        (t.chipPipe d.chipper de).busy = false ∧ (t.chipPipe d.chipper de).queue = l ∧
        (∃ r, .record e.desc.resultAddr r ∈ t.out) ∧
        let w := s.chipWork e.desc de
        ∀ b, s.buf? e.desc.outBuf = some b →
          e.desc.outOff + w.written.length ≤ b.capacity (hPool e.desc.outBuf) → t.status = w.code)

/-- The completion queue of submission queue `q` has a free entry, and nothing is held for it. -/
def Sys2Proof.Machine.State.cqOpen (s : State) (q : Nat) (k : NvmeCq) : Prop :=
  ((s.sq? q).bind fun x => s.cq? x.cq) = some k ∧ k.room = true ∧ k.held = []

/-- The device may execute command `c` of queue `q`, with identifier `cid`, and post its completion to `k`. -/
def Sys2Proof.Machine.State.may (s : State) (q cid : Nat) (c : NvmeCmd) (k : NvmeCq) : Prop :=
  s.pwr.flushing = false ∧ s.cmd? q cid = some c ∧ c.dropped = false ∧ s.cqOpen q k

/-- From `s` to `t` command `cid` of queue `q` has completed: it is outstanding no longer, and its completion stands in queue
`k`, after what else was sent. -/
def Completed (q cid sct sc dw0 : Nat) (k : NvmeCq) (s t : State) : Prop :=
  t.status = sct * 256 + sc ∧ t.cmd? q cid = none ∧ t.cq? k.id = some { k with tail := k.tail + 1 } ∧
    ∃ l, t.sent s (l ++ .nvme k.id q cid sct sc dw0 :: (match k.vector with | some v => [.msix v] | none => []))

/-- It completed alone: one more command is counted. -/
def CompletedAlone (q cid sct sc dw0 : Nat) (k : NvmeCq) (s t : State) : Prop :=
  Completed q cid sct sc dw0 k s t ∧ t.num Reg.landing.commands = wrap 64 (s.num Reg.landing.commands + 1)

/-- On a running device outside a hold-up flush, for an outstanding admin command whose completion queue has room: each
command, in the case in which NVMe gives it its effect, has that effect (a queue created or deleted, data answered,
a feature set, a command aborted, an event told or its request kept), is outstanding no longer, is counted, and its
completion is posted with its status and Dword 0. An abort of a dispatched command declines. The tail doorbell
makes its commands outstanding, the head doorbell frees entries, and a dispatched command is so marked. -/
def Obligations.NvmeAdminCommandsComplete : Prop :=
  ∀ (s : State), s.Sound → s.running →
    (∀ cid c k, s.may 0 cid c k →
      (∀ n size v, 1 ≤ n → n ≤ 1024 → s.cq? n = none → 2 ≤ size → size ≤ 4096 → (∀ w, v = some w → 1 ≤ w ∧ w ≤ 1024) →
        Gives (.createIoCompletionQueue cid n size v) s fun t =>
          CompletedAlone 0 cid 0 0 0 k s t ∧ t.cq? n = some ⟨n, size, v, 0, 0, []⟩) ∧
      (∀ n, n ≠ 0 → s.cq? n ≠ none → (∀ x ∈ s.landing.sqs, x.cq ≠ n) → Gives (.deleteIoCompletionQueue cid n) s fun t =>
        CompletedAlone 0 cid 0 0 0 k s t ∧ t.cq? n = none) ∧
      (∀ n size m, 1 ≤ n → n ≤ 1024 → s.sq? n = none → 2 ≤ size → size ≤ 4096 → m ≠ 0 → s.cq? m ≠ none →
        Gives (.createIoSubmissionQueue cid n size m) s fun t =>
          CompletedAlone 0 cid 0 0 0 k s t ∧ t.sq? n = some ⟨n, m, size⟩) ∧
      (∀ n, n ≠ 0 → s.sq? n ≠ none → Gives (.deleteIoSubmissionQueue cid n) s fun t =>
        t.status = 0 ∧ t.cmd? 0 cid = none ∧ t.sq? n = none ∧ ∀ x ∈ t.landing.cmds, x.sq = n → x.dispatched = true) ∧
      (Gives (.identify cid 1 0) s fun t => CompletedAlone 0 cid 0 0 0 k s t ∧ t.freeCtr = s.freeCtr + 1 ∧
        .nvmeData 0 cid s.identifyController ∈ t.out) ∧
      (∀ n x v, s.space? n = some x → s.volume? 1 n = some v → Gives (.identify cid 0 n) s fun t =>
        CompletedAlone 0 cid 0 0 0 k s t ∧
        .nvmeData 0 cid (if x.attached then s.identifyNamespace x v else zeros 4096) ∈ t.out) ∧
      (Gives (.getLogPage cid 2) s fun t => CompletedAlone 0 cid 0 0 0 k s t ∧ .nvmeData 0 cid s.smartLog ∈ t.out) ∧
      (Gives (.getLogPage cid 6) s fun t => CompletedAlone 0 cid 0 0 0 k s t ∧ .nvmeData 0 cid s.selfTestLog ∈ t.out) ∧
      (∀ f v w, s.feature f = some w → f ≠ 7 → Gives (.setFeatures cid f v) s fun t =>
        CompletedAlone 0 cid 0 0 0 k s t ∧ t.feature f = some (if f = 6 then v % 2 else v % 2 ^ 32)) ∧
      (∀ f w, s.feature f = some w → Gives (.getFeatures cid f) s (CompletedAlone 0 cid 0 0 w k s)) ∧
      (∀ q n x, (s.landing.cmds.filter fun c => c.sq == 0 && c.opcode == 8).length ≤ 8 → s.cmd? q n = some x →
        (q ≠ 0 ∨ n ≠ cid) → Gives (.abort cid q n) s fun t =>
          if x.dispatched then CompletedAlone 0 cid 0 0 1 k s t ∧
            t.num Reg.landing.abortsDeclined = wrap 64 (s.num Reg.landing.abortsDeclined + 1)
          else t.status = 0 ∧ t.cmd? q n = none ∧ t.cmd? 0 cid = none ∧
            t.num Reg.landing.abortsHonoured = wrap 64 (s.num Reg.landing.abortsHonoured + 1)) ∧
      (∀ e l, s.landing.events = e :: l → Gives (.asynchronousEventRequest cid) s fun t =>
        CompletedAlone 0 cid 0 0 e k s t ∧ t.landing.events = l) ∧
      (s.landing.events = [] → s.landing.aers.length < 8 → Gives (.asynchronousEventRequest cid) s fun t =>
        t.landing.aers = s.landing.aers ++ [cid] ∧ t.cmd? 0 cid = some { c with dispatched := true })) ∧
    (∀ q cid c k o, s.may q cid c k → Gives (.invalidCommandOpcode q cid o) s (CompletedAlone q cid 0 1 0 k s)) ∧
    (∀ q l, s.pwr.flushing = false → s.sq? q ≠ none → (∀ h ∈ l, s.cmd? q h.cid = none) → Gives (.sqTailDoorbell q l) s fun t =>
      t.landing.cmds = s.landing.cmds ++ l.map fun h => (⟨q, h.cid, h.opcode, h.nsid, false, false⟩ : NvmeCmd)) ∧
    (∀ q c n, s.cq? q = some c → c.held = [] → (c.head + n) ≤ c.tail → n < c.size →
      Gives (.cqHeadDoorbell q ((c.head + n) % c.size)) s fun t => t.cq? q = some { c with head := c.head + n }) ∧
    (∀ q cid c, s.pwr.flushing = false → s.cmd? q cid = some c → Gives (.commandDispatch q cid) s fun t =>
      t.cmd? q cid = some { c with dispatched := true })

/-- On a running device outside a hold-up flush whose Yard takes writes, for an outstanding admin command whose
completion queue has room: a namespace created takes the lowest free NSID and is reported in Dword 0; an idle
namespace deleted is gone, with its volume; attachment changes a namespace's state once; Format NVM of an idle
namespace gives it its LBA format. A firmware part joins the image, and a commit of a trusted image of a sufficient
SVN fills slot 2 with its digest. A self-test starts where none runs, is aborted by code 0xF, resumes after 10 ms
without I/O, and ends with its result first in the log. A controller reset leaves the admin queues, no event
request, and only dispatched commands, whose completions are dropped. -/
def Obligations.NamespacesFirmwareSelfTestsComplete : Prop :=
  ∀ (s : State), s.Sound → s.running →
    (∀ cid c k, s.may 0 cid c k → s.writeStatus = none →
      (∀ size f n, f ≤ 1 → size ≠ 0 → s.freeNsid = some n → Gives (.namespaceManagement cid (.create size f)) s fun t =>
        CompletedAlone 0 cid 0 0 n k s t ∧ t.space? n = some ⟨n, f, false⟩ ∧
        t.num Reg.landing.namespaces = s.landing.spaces.length + 1) ∧
      (∀ n x v, s.space? n = some x → s.volume? 1 n = some v → s.nsBusy n cid = false →
        Gives (.namespaceManagement cid (.delete n)) s fun t =>
          t.status = 0 ∧ t.cmd? 0 cid = none ∧ t.space? n = none ∧ v ∉ t.yard.volumes) ∧
      (∀ n x v f ses l, s.space? n = some x → s.volume? 1 n = some v → s.nsBusy n cid = false → f ≤ 1 → ses ≤ 1 →
        Gives (.formatNvm cid n f ses l) s fun t =>
          t.status = 0 ∧ t.cmd? 0 cid = none ∧ t.space? n = some { x with lbaf := f })) ∧
    (∀ cid c k, s.may 0 cid c k →
      (∀ n x, s.space? n = some x → Gives (.namespaceAttachment cid n (!x.attached) [1]) s fun t =>
        CompletedAlone 0 cid 0 0 0 k s t ∧ t.space? n = some { x with attached := !x.attached }) ∧
      (∀ o b, (∀ p ∈ s.landing.image, o + b.length ≤ p.1 ∨ p.1 + p.2.length ≤ o) →
        Gives (.firmwareImageDownload cid o b) s fun t =>
          CompletedAlone 0 cid 0 0 0 k s t ∧ t.landing.image = s.landing.image ++ [(o, b)]) ∧
      (∀ a svn, a ≤ 1 → imageBytes s.landing.image ≠ [] → s.nv.fuseSvn ≤ svn →
        (imageBytes s.landing.image).length ≤ 32 * 2 ^ 20 → Gives (.firmwareCommit cid 2 a svn true) s fun t =>
          CompletedAlone 0 cid 1 0x0B 0 k s t ∧ t.nv.slot2 = ⟨svn, sha384 (imageBytes s.landing.image), true, true⟩) ∧
      (∀ n, (1 = n ∨ 2 = n) → s.landing.test = none → Gives (.deviceSelfTest cid 0 n) s fun t =>
        CompletedAlone 0 cid 0 0 0 k s t ∧ t.landing.test = some ⟨n, s.landing.cmds.any fun c => c.sq != 0⟩) ∧
      (∀ x, s.landing.test = some x → Gives (.deviceSelfTest cid 0 0xF) s fun t =>
        CompletedAlone 0 cid 0 0 0 k s t ∧ t.landing.test = none ∧ t.landing.results.head? = some ⟨x.kind, 1, 0, none⟩)) ∧
    (∀ x, s.landing.test = some x → s.ioOutstanding = 0 → s.landing.ioIdleAt + 1000000 ≤ s.now →
      Gives .selftestResume s fun t => t.landing.test = some { x with suspended := false }) ∧
    (∀ x, s.landing.test = some x → x.suspended = false →
      (Gives (.deviceSelfTestDone none) s fun t =>
        t.landing.test = none ∧ t.landing.results.head? = some ⟨x.kind, 0, 0, none⟩) ∧
      ∀ g lba, Gives (.deviceSelfTestDone (some (g, lba))) s fun t =>
        t.landing.test = none ∧ t.landing.results.head? = some ⟨x.kind, 7, g, some lba⟩) ∧
    (Gives .controllerReset s fun t =>
      t.landing.sqs = [NvmeSq.admin] ∧ t.landing.cqs = [NvmeCq.admin] ∧ t.landing.aers = [] ∧ t.landing.test = none ∧
      ∀ c ∈ t.landing.cmds, c.dispatched = true ∧ c.dropped = true)

/-- On a running device outside a hold-up flush, for an outstanding command whose completion queue has room, on an
attached namespace and a range inside it: a Write whose tuples pass and whose sectors the write buffer takes
completes with success at once where the volatile write cache is enabled and FUA is clear, its sectors held by the
Yard; a Read whose sectors pass their checks sends them and succeeds; Verify succeeds where they pass; Compare
succeeds exactly where the data agree, and fails with 0x285 otherwise; Write Zeroes and a deallocating Dataset
Management succeed; a Flush with nothing to write and nothing to pad succeeds at once. -/
def Obligations.NvmeIoCommandsComplete : Prop :=
  ∀ (s : State), s.Sound → s.running → ∀ q cid c k, s.may q cid c k →
    (∀ n slba p l stage x v nums u, s.writeStatus = none → s.ioTarget n slba l.length = .ok (x, v) →
      (stage = 0 ∨ s.bufPoisoned stage 0 (4096 * l.length) = false) → writeCheck x p 0 l = none →
      (s.yard.wb.length + l.length) * 4096 ≤ s.num Reg.yardCfg.wbDirtyMax → s.vwc = true →
      s.acceptAll v.first slba (x.lbaf == 0 || p.pract) 0 l = some (nums, u) →
      Gives (.nvmeWrite q cid n slba false p l stage) s fun t => CompletedAlone q cid 0 0 0 k s t ∧ t.yard = u.yard) ∧
    (∀ n slba count p reads x v u, s.yardUsable = true → s.ioTarget n slba count = .ok (x, v) →
      s.meetErases v.first slba count = some u → ∀ l,
      ((u.dispatch q cid).readCheck x p v.first slba count 0 reads).1 = .ok l →
      (Gives (.nvmeRead q cid n slba count p reads) s fun t =>
        CompletedAlone q cid 0 0 0 k s t ∧ .sectors q cid l ∈ t.out) ∧
      (Gives (.verify q cid n slba count p reads) s (CompletedAlone q cid 0 0 0 k s)) ∧
      ∀ data : List Bytes, data.length = count → Gives (.compare q cid n slba p data reads) s fun t =>
        if l.map (·.1) = data then CompletedAlone q cid 0 0 0 k s t else CompletedAlone q cid 2 0x85 0 k s t) ∧
    (∀ n slba count x v, s.writeStatus = none → s.ioTarget n slba (min count 512) = .ok (x, v) →
      slba + count ≤ v.sectors →
      (Gives (.writeZeroes q cid n slba count) s (CompletedAlone q cid 0 0 0 k s)) ∧
      (Gives (.datasetManagement q cid n true [(slba, count)]) s (CompletedAlone q cid 0 0 0 k s))) ∧
    (∀ n, s.yardUsable = true → (n = 0xFFFFFFFF ∨ s.space? n ≠ none) → s.yard.wb = [] → s.yard.staged = [] →
      (∀ b ∈ s.yard.bolts, b.state ≠ .openData ∧ b.state ≠ .openLog) → s.landing.waits = [] →
      Gives (.nvmeFlush q cid n) s (CompletedAlone q cid 0 0 0 k s))

/-- From `s` to `t`, the item `it` at the head of port `p` has completed with a status and DETAIL. -/
def ItemDone (p : Nat) (it : List Nat) (status detail : Nat) (s t : State) : Prop :=
  ∃ a b, t.sent s (a ++
    .pushEntry p (s.port p).cqTail status (pshOpcode (it.headD 0)) (pshTag (it.headD 0)) (detail % 2 ^ 32) :: b)

/-- On a running device outside a hold-up flush, at push port p: a first word of LENGTH above 1 begins an item with
room; a continuation word joins it, or, as its last word on a port that takes items and has none waiting, makes it
the item that waits; PSH_FLUSH discards the partial item, counts its words and drains with FLUSHED; PSH_STATUS
answers code, state and free words and clears the code; PSH_CQ_HEAD is stored. The item at the head, of each opcode
of Table 12-10, completes with an entry of its status, OPCODE, HOST_TAG and DETAIL; a seal that is not done at once
waits. A well-formed remote ingest is answered with the ingest's status and DETAIL. -/
def Obligations.PushPortsAndIngestComplete : Prop :=
  ∀ (s : State) (p : Nat), s.Sound → s.running → s.pwr.flushing = false → p < 64 →
    (∀ w, (s.port p).free ≠ 0 → 2 ≤ pshLength w → Gives (.pshFirst p w true) s fun t =>
      (t.port p).state = .inItem ∧ (t.port p).partial_ = [w] ∧ (t.port p).items = (s.port p).items) ∧
    (∀ w, (s.port p).free ≠ 0 → (s.port p).state = .inItem →
      (s.port p).partial_.length + 1 < pshLength ((s.port p).partial_.headD 0) → (s.port p).partial_ ≠ [] →
      Gives (.pshPush p w true) s fun t =>
        (t.port p).state = .inItem ∧ (t.port p).partial_ = (s.port p).partial_ ++ [w]) ∧
    (∀ w, (s.port p).free ≠ 0 → (s.port p).state = .inItem → (s.port p).items = [] → s.portTakes p = true →
      (s.port p).partial_ ≠ [] → (s.port p).partial_.length + 1 = pshLength ((s.port p).partial_.headD 0) →
      pshKnown (pshOpcode ((s.port p).partial_.headD 0)) = true →
      (∀ n, pshWords (pshOpcode ((s.port p).partial_.headD 0)) = some n → (s.port p).partial_.length + 1 = n) →
      Gives (.pshPush p w true) s fun t => (t.port p).state = .idle ∧ (t.port p).partial_ = [] ∧
        (t.port p).items = [(s.port p).partial_ ++ [w]]) ∧
    (Gives (.pshFlush p) s fun t =>
      (t.port p).state = .draining ∧ (t.port p).code = 0x3005 ∧ (t.port p).partial_ = [] ∧
      (t.port p).discarded = sat 32 ((s.port p).discarded + (s.port p).partial_.length)) ∧
    (Gives (.pshStatusRead p) s fun t =>
      t.sent s [.pshStatus p (s.port p).code (s.port p).state.code (s.port p).free] ∧ (t.port p).code = 0x3000) ∧
    (∀ h, Gives (.pshCqHead p h) s fun t => (t.port p).cqHead = wrap 32 h ∧
      ((s.port p).items = [] → (t.port p).signalled = false)) ∧
    (∀ it l, (s.port p).items = it :: l → (s.port p).room = true → (s.port p).sealing = none →
      (∀ refusing u, pshOpcode (it.headD 0) = 1 → s.shard? (it.getD 1 0) = none → s.writeRefusal (.system 0) = none →
        s.createShard (it.getD 1 0) true ((it.getD 2 0).testBit 0) (s.num Reg.lk.slot)
          ((s.choosePartner (it.getD 1 0) refusing).getD 0xFFFFFFFF) (some (s.portCtx p)) = .ok u →
        Gives (.shardOpen p refusing) s fun t => ItemDone p it 0x3000 0 s t ∧ t.yard = u.yard) ∧
      (∀ reads x v b, pshOpcode (it.headD 0) = 2 → s.space? (it.getD 1 0 % 2 ^ 32) = some x →
        s.volume? 1 (it.getD 1 0 % 2 ^ 32) = some v → s.foreignShard p (it.getD 4 0) = false → s.yardUsable = true →
        it.getD 2 0 + ceilDiv (it.getD 3 0 % 2 ^ 32) 4096 ≤ v.sectors →
        (s.nsBytes v (it.getD 2 0) (it.getD 3 0 % 2 ^ 32) reads).1 = some b →
        let r := (s.nsBytes v (it.getD 2 0) (it.getD 3 0 % 2 ^ 32) reads).2.ingest (it.getD 4 0)
          (it.getD 3 0 / 2 ^ 32 % 65536) 1 (it.getD 1 0 % 2 ^ 32)
          (leBytes 4 (it.getD 1 0 % 2 ^ 32) ++ leBytes 8 (it.getD 2 0) ++ leBytes 8 (it.getD 11 0)) b
          (((it.drop 5).take 6).flatMap (leBytes 8)) false
        Gives (.ingestNs p reads) s (ItemDone p it r.1 r.2.1 s)) ∧
      (∀ d u e, pshOpcode (it.headD 0) = 3 → s.shard? (it.getD 1 0) = some d → s.foreignShard p (it.getD 1 0) = false →
        d.owner_ = true → d.state = 1 → s.sealShard d = .ok u → u.shard? (it.getD 1 0) = some e →
        Gives (.shardSeal p) s fun t =>
          if e.state = 4 then ItemDone p it 0x3000 1 s t else (t.port p).sealing = some (it.getD 1 0)) ∧
      (∀ d, pshOpcode (it.headD 0) = 4 → s.shard? (it.getD 1 0) = some d → s.foreignShard p (it.getD 1 0) = false →
        Gives (.shardDelete p) s fun t => ItemDone p it 0x3000 0 s t ∧ t.yard = (s.deleteShard d).yard) ∧
      (0x100 ≤ pshOpcode (it.headD 0) → Gives (.contextMsg p) s fun t =>
        ItemDone p it 0x3000 0 s t ∧ t.landing.msgs = s.landing.msgs ++ [(s.portCtx p, it)])) ∧
    (∀ source m, s.replaying = false → ingestHeaderOk m = true → s.yardUsable = true →
      let r := s.ingest (leAt m 8 8) (leAt m 4 2) 2 source (leBytes 8 source) (m.drop 80) (bytesAt m 0x18 48) true
      Gives (.remoteIngest source m) s fun t => t.status = r.1 ∧
        ∃ l, t.sent s (l ++ [.ingestResult source (leAt m 0x14 4) r.1 r.2.1]))

/-- In every state, FIRMWARE_COMMIT changes slot 2 only where the image's certificate and signature verify and its SVN
is at least FUSE_SVN. On a running device an image for slot 2 that fails one of them completes with Invalid
Firmware Image (status type 1, code 7) and leaves slot 2, the fuses and every setting. One that passes stands in
slot 2, the firmware that runs stays what it was, and after the next reset (PERST_N low 1 us, then high, with the
PLL locked and power good) SECURE_BOOT runs it: BOOT_STATE, FW_SVN and FW_DIGEST are the image's. -/
def Obligations.FirmwareCommitChecksTheImage : Prop :=
  ∀ (s : State),
    (∀ cid slot action svn trusted t, exec (.firmwareCommit cid slot action svn trusted) s = .next t →
      t.nv.slot2 = s.nv.slot2 ∨ trusted = true ∧ s.nv.fuseSvn ≤ svn) ∧
    (s.running → ∀ cid c k slot action svn trusted, s.may 0 cid c k → (slot = 0 ∨ slot = 2) → action ≤ 1 →
      (trusted = false ∨ svn < s.nv.fuseSvn → Gives (.firmwareCommit cid slot action svn trusted) s fun t =>
        CompletedAlone 0 cid 1 7 0 k s t ∧ t.nv = s.nv) ∧
      (trusted = true → s.nv.fuseSvn ≤ svn → imageBytes s.landing.image ≠ [] →
        (imageBytes s.landing.image).length ≤ 32 * 2 ^ 20 → s.pwr.pwrFailLow = false →
        Gives (.firmwareCommit cid slot action svn trusted) s fun t =>
          t.nv.slot2 = ⟨svn, sha384 (imageBytes s.landing.image), true, true⟩ ∧
          t.num Reg.sec.fwSvn = s.num Reg.sec.fwSvn ∧ t.blob Reg.sec.fwDigest = s.blob Reg.sec.fwDigest ∧
          Gives (.perstAssert 1000) t fun u => ∀ strap mem, Gives (.perstDeassert strap true mem) u fun v =>
            Gives .secureBoot v fun w => w.num Reg.sec.bootState = 1 ∧ w.num Reg.sec.fwSvn = svn ∧
              w.blob Reg.sec.fwDigest = sha384 (imageBytes s.landing.image)))

/-- A received packet of a TYPE passes the receive checks of R396 on its open connection `c`, whose policer has credit. -/
def Sys2Proof.Machine.State.admits (s : State) (pkt : SkdRx) (type : Nat) (c : Conn) : Prop :=
  s.portFitted pkt.port = true ∧ s.portsSend = true ∧ s.sec.testEn = false ∧ pkt.version = 1 ∧ pkt.lengthsOk = true ∧
    s.conn? pkt.dstConn = some c ∧ c.state = .open_ ∧ pkt.addr = c.addr ∧
    (c.roce = false → s.peerMatches c pkt = true ∧ s.keyNamed c pkt.keyEpoch ≠ none) ∧ pkt.tagOk = true ∧
    (pkt.chipped = true → c.compress = true) ∧
    (type ≤ 4 → -((s.num (Reg.service.ingressBurst c.service) : Int) * 1000) ≤ ((s.portTx pkt.port).service c.service).police)

/-- Its PSN is not yet received and lies inside SEND_WINDOW. -/
def Sys2Proof.Machine.State.expects (s : State) (pkt : SkdRx) (c : Conn) : Prop :=
  psnDist c.rxCum pkt.psn < 2 ^ 31 ∧ psnDist c.rxCum pkt.psn < s.num Reg.rel.sendWindow ∧ pkt.psn ∉ c.rxAbove

/-- From `s` to `t` the packet is counted on its port and taken on connection `c`, with `rej` rejections, and `p` holds of the
connection. -/
def Taken (pkt : SkdRx) (c : Conn) (rej : Nat) (s t : State) (p : Conn → Prop) : Prop :=
  t.num (Reg.portStat.rxFrames pkt.port) = wrap 64 (s.num (Reg.portStat.rxFrames pkt.port) + 1) ∧
    ∃ d, t.conn? c.num = some d ∧ d.rxCount = c.rxCount + 1 ∧ d.rejects = c.rejects + rej ∧ p d

/-- On a device that runs and has power, for a packet that passes the receive checks of its open connection and, where
sequenced, is new and inside the window: it is counted on its port and its PSN is consumed; a WRITE inside a known
or new message adds to what is placed; a WRITE_IMM of a message not yet whole is held; a READ_REQ of a region it
may not read is counted as rejected, and an allowed one as taken; a READ_RESP that completes a read ends its
operation; an ACK removes every packet it covers from the unacknowledged ones; a Lookout packet of a PEER
connection has its frame's effect, another none; a Lookout notice and an ingest result are passed on; MSG_DISCARDED
of another status and READ_ERROR end their operation. A PLAIN notice is passed on and counted. -/
def Obligations.SkidderPacketsComplete : Prop :=
  ∀ (s : State) (pkt : SkdRx) (c : Conn), s.Sound → s.alive →
    (∀ e m, s.admits pkt 1 c → s.expects pkt c → s.writeAllowed c e pkt.payload.length = true →
      c.msg? pkt.msgId = some m → m.rejected = false → m.held = none → Gives (.skdWriteRx pkt e) s fun t =>
        Taken pkt c 0 s t fun d => d.msg? pkt.msgId = some { m with placed := m.placed + pkt.payload.length }) ∧
    (∀ e, s.admits pkt 1 c → s.expects pkt c → s.writeAllowed c e pkt.payload.length = true → e.remoteKey / 2 ^ 30 ≠ 3 →
      c.msg? pkt.msgId = none → c.rxMsgs.length < 64 → pkt.msgId ∉ c.rxDone → Gives (.skdWriteRx pkt e) s fun t =>
        Taken pkt c 0 s t fun d => d.msg? pkt.msgId =
          some ⟨pkt.msgId, e.remoteKey / 2 ^ 30, e.msgBytes, pkt.payload.length, 0, pkt.chipped, none, false⟩) ∧
    (∀ e m, s.admits pkt 2 c → s.expects pkt c → s.writeAllowed c e pkt.payload.length = true →
      s.immAllowed c e.immediate = true → c.msg? pkt.msgId = some m → m.rejected = false → m.held = none →
      m.placed + pkt.payload.length < m.total → Gives (.skdWriteImmRx pkt e) s fun t =>
        Taken pkt c 0 s t fun d => d.msg? pkt.msgId = some { m with held := some ⟨e.offset, e.immediate, pkt.payload⟩ }) ∧
    (∀ e, s.admits pkt 3 c → s.expects pkt c → Gives (.skdReadReqRx pkt e) s fun t =>
      Taken pkt c (if c.kind = 4 ∧ e.remoteKey / 2 ^ 30 = 1 ∧ e.remoteKey % 2 ^ 30 = c.tags.getD 1 0 ∧ 1 ≤ e.msgBytes ∧
        e.msgBytes ≤ s.num Reg.rel.readMax ∧ e.offset + e.msgBytes ≤ s.regionBytes c 1 then 0 else 1) s t fun _ => True) ∧
    (∀ e o, s.admits pkt 4 c → s.expects pkt c → (c.ops.find? fun o => o.isRead && o.msgId == pkt.msgId) = some o →
      e.remoteKey = 0 → e.offset + pkt.payload.length ≤ o.want →
      o.want ≤ sum (o.got.map fun g => g.2.length) + pkt.payload.length → Gives (.skdReadRespRx pkt e) s fun t =>
        Taken pkt c 0 s t fun d => ∀ x ∈ d.ops, x.msgId ≠ o.msgId) ∧
    (s.admits pkt 5 c → Gives (.skdAckRx pkt) s fun t =>
      t.num (Reg.portStat.rxFrames pkt.port) = wrap 64 (s.num (Reg.portStat.rxFrames pkt.port) + 1) ∧
      ∃ d, t.conn? c.num = some d ∧ ∀ u ∈ d.unacked, ackCovers pkt.payload u.pkt.psn = false) ∧
    (∀ f, s.admits pkt 7 c → (c.kind ≠ 2 → Gives (.skdLookoutRx pkt f) s fun t =>
        t.num (Reg.portStat.rxFrames pkt.port) = wrap 64 (s.num (Reg.portStat.rxFrames pkt.port) + 1) ∧
        t.lookout = s.lookout) ∧
      ∀ d ce u, c.kind = 2 → s.takePacket pkt 7 = .ok (d, ce, u) → Gives (.skdLookoutRx pkt f) s fun t =>
        u.lkBody f.hdr f.body = .next t) ∧
    (∀ n, s.admits pkt 6 c → s.expects pkt c → Gives (.noticeLookout pkt n) s fun t =>
      Taken pkt c 0 s t (fun _ => True) ∧ ∃ l, t.sent s (.lookoutNotice c.num n :: l)) ∧
    (s.admits pkt 6 c → s.expects pkt c → c.kind = 3 → Gives (.noticeIngestResult pkt) s fun t =>
      Taken pkt c 0 s t (fun _ => True) ∧ ∃ l, t.sent s
        (.ingestNotice c.num (beAt pkt.payload 8 4) (beAt pkt.payload 12 2) (beAt pkt.payload 16 8) :: l)) ∧
    (∀ o, s.admits pkt 6 c → s.expects pkt c → (c.ops.find? fun o => o.msgId == beAt pkt.payload 8 4 && !o.isRead) = some o →
      (beAt pkt.payload 12 2 ≠ 0x5015 ∨ o.again = true) → Gives (.noticeMsgDiscarded pkt) s fun t =>
        Taken pkt c 0 s t fun d => ∀ x ∈ d.ops, x.msgId ≠ o.msgId) ∧
    (∀ o, s.admits pkt 6 c → s.expects pkt c → (c.ops.find? fun o => o.isRead && o.msgId == beAt pkt.payload 8 4) = some o →
      Gives (.noticeReadError pkt) s fun t => Taken pkt c 0 s t fun d => ∀ x ∈ d.ops, x.msgId ≠ o.msgId) ∧
    (s.portFitted pkt.port = true → s.portsSend = true → s.sec.testEn = false →
      (Gives (.noticeNoConnection pkt) s fun t => t.sent s [.plainNotice pkt.dstConn 2] ∧
        t.num (Reg.portStat.rxFrames pkt.port) = wrap 64 (s.num (Reg.portStat.rxFrames pkt.port) + 1)) ∧
      Gives (.noticeFenced pkt) s fun t => (∃ l, t.sent s (.plainNotice pkt.dstConn 1 :: l)) ∧
        t.num (Reg.portStat.rxFrames pkt.port) = wrap 64 (s.num (Reg.portStat.rxFrames pkt.port) + 1))

/-- On a device that runs and has power, for a request of a session with the ADMIN role that the device serves:
CONN_OPEN of a descriptor that passes R388 and whose subscriber binds adds an OPEN connection of its fields under
the lowest free number, and CONNS_OPEN counts it; CONN_CLOSE of a connection frees its number; SUB_CONFIG of the
selected slot stores its place, rate and burst, or releases it. A page's tail offers its descriptors; a WRITE,
WRITE_IMM or READ transfer that is next and whose connection is an open TRANSFER connection of its context adds its
operation to the connection; SKD_CQ_HEAD is stored. -/
def Obligations.ConnectionsAndSubscribersComplete : Prop :=
  ∀ (s : State), s.Sound → s.alive →
    (∀ h x, s.takes h x → x.admin = true →
      (∀ v, v.length = 224 → s.openRefusal v = none →
        s.bindSub (leAt v 0x38 2) (leAt v 5 1) (leAt v 0x3A 1) s.freeConn ≠ none → Gives (.connOpen (.tally h) v) s fun t =>
          t.status = 0x5000 ∧ t.num Reg.skd.connsOpen = s.skd.conns.length + 1 ∧
          ∃ c, t.skd.conns = s.skd.conns ++ [c] ∧ c.num = s.freeConn ∧ c.state = .open_ ∧ c.kind = leAt v 0 1 ∧
            c.port = leAt v 5 1 ∧ c.peerConn = leAt v 8 4 ∧ c.secret = bytesAt v 0x40 32 ∧ c.nextPsn = 1 ∧ c.keyEpoch = 0) ∧
      (∀ v c, v.length = 2 → s.conn? (leNat v) = some c → Gives (.connClose (.tally h) v) s fun t =>
        t.status = 0x5000 ∧ t.conn? (leNat v) = none ∧ t.num Reg.skd.connsOpen = t.skd.conns.length) ∧
      (∀ v, v.length = 16 → leAt v 0 1 = 1 → s.subRefusal v (s.num Reg.subCtl.subSelect) = none →
        Gives (.subConfigure (.tally h) v) s fun t => ∃ y, t.sub? (s.num Reg.subCtl.subSelect) = some y ∧
          y.place = some (leAt v 1 1, leAt v 2 1) ∧ y.newRate = leAt v 4 4 ∧ y.newBurst = leAt v 8 4) ∧
      (∀ v, v.length = 16 → leAt v 0 1 = 2 → s.subRefusal v (s.num Reg.subCtl.subSelect) = none →
        Gives (.subRelease (.tally h) v) s fun t => t.sub? (s.num Reg.subCtl.subSelect) = none)) ∧
    (∀ ctx tail l, ctx < 64 → s.pageOn ctx = true → Gives (.skdTxqTail ctx tail l) s fun t =>
      t.page ctx = { s.page ctx with
        tail := wrap 32 tail
        waiting := (s.page ctx).waiting ++ l.take (wrap 32 (tail + 2 ^ 32 - (s.page ctx).tail)) }) ∧
    (∀ src d u c, s.fetch src d = some u → u.transferConn src d = some c →
      (∀ b, d.op = 1 → Gives (.transferWrite src d b) s fun t => ∃ e, t.conn? c.num = some e ∧
        e.nextMsg = wrap 32 (c.nextMsg + 1) ∧ e.ops = c.ops ++
          [⟨c.nextMsg, .transfer src d.tag 1 d.local_, 0, [], false, false, false, b, d.remoteKey, d.remoteOffset, none⟩]) ∧
      (∀ b, d.op = 2 → Gives (.transferWriteImm src d b) s fun t => ∃ e, t.conn? c.num = some e ∧
        e.nextMsg = wrap 32 (c.nextMsg + 1) ∧ e.ops = c.ops ++
          [⟨c.nextMsg, .transfer src d.tag 2 d.local_, 0, [], false, false, false, b, d.remoteKey, d.remoteOffset,
            some d.immediate⟩]) ∧
      (d.op = 3 → d.length ≠ 0 → d.length ≤ s.num Reg.rel.readMax → Gives (.transferRead src d) s fun t =>
        ∃ e, t.conn? c.num = some e ∧ e.nextMsg = wrap 32 (c.nextMsg + 1) ∧ e.ops = c.ops ++
          [⟨c.nextMsg, .transfer src d.tag 3 d.local_, d.length, [], true, false, false, [], d.remoteKey, d.remoteOffset,
            none⟩])) ∧
    (∀ ctx n, ctx < 64 → s.pageOn ctx = true → Gives (.skdCqHead ctx n) s fun t =>
      t.page ctx = { s.page ctx with cqHead := wrap 32 n })

/-- On a device that runs and has power: ACK_SEND puts an ACK of the connection's counts in its port's control queue; a
lost packet waits to be sent again, and a timed-out one as well, the rate halved, until its tries are spent: then
the connection is FAILED. Quarantine ends, the rate period, the end of a key's grace and an early rotation do to
their connections what R403, R408 and R411 say. A link's fall and rise set LINK_UP, PAUSE frames are counted.
EGRESS_SELECT sends the next frame of a due fragment, or of the control queue. A RoCEv2 ACK removes the packets
before its PSN, a CNP marks the period. A held frame is sent. -/
def Obligations.SkidderEventsComplete : Prop :=
  ∀ (s : State), s.Sound → s.alive →
    (∀ n c, s.conn? n = some c → c.state = .open_ → c.newAck ≠ 0 → c.port < s.skd.ports.length → Gives (.ackSend n) s fun t =>
      (∃ d, t.conn? n = some d ∧ d.newAck = 0) ∧ (t.portTx c.port).ctl = (s.portTx c.port).ctl ++
        [{ c.packet 5 with label := some c.ackLabel, payload := c.ackPayload }]) ∧
    (∀ n c psn u, s.conn? n = some c → c.state = .open_ → (c.unacked.find? fun u => u.pkt.psn == psn) = some u →
      u.queued = false → u.passed = true → u.at_ + c.srtt.getD 0 + s.num Reg.rel.reorderNs ≤ s.nowNs →
      Gives (.packetLost n psn) s fun t => ∃ d, t.conn? n = some d ∧
        if (if c.roce then 7 else s.num Reg.rel.retryLimit) ≤ u.tries then d.state = .failed
        else ∀ x ∈ d.unacked, x.pkt.psn = psn → x.queued = true) ∧
    (∀ n c psn u, s.conn? n = some c → c.state = .open_ → (c.unacked.find? fun u => u.pkt.psn == psn) = some u →
      u.queued = false → u.at_ + s.rto c u.tries ≤ s.nowNs → Gives (.retransmitTimeout n psn) s fun t =>
        ∃ d, t.conn? n = some d ∧ d.rate = max (c.rate / 2) (s.num Reg.rateCtl.rateMinMbps) ∧
        if (if c.roce then 7 else s.num Reg.rel.retryLimit) ≤ u.tries then d.state = .failed
        else ∀ x ∈ d.unacked, x.pkt.psn = psn → x.queued = true) ∧
    (∀ p l, Gives (.quarantineEnd p l) s fun t => ∀ q, q ∈ t.skd.quarantine ↔
      q ∈ s.skd.quarantine ∧ ¬(q.1 = p ∧ q.2.1 = l ∧ q.2.2 ≤ s.rc.ring)) ∧
    (s.rc.ring % max 1 (s.num Reg.rateCtl.rcPeriodRings) = 0 → Gives .rcPeriod s fun t =>
      t.skd.conns = s.skd.conns.map fun (c : Conn) => if c.state = .open_ then s.ratePeriod c else c) ∧
    (∀ n c r, s.conn? n = some c → c.graceUntil = some r → r ≤ s.rc.ring → Gives (.keyGraceEnd n) s fun t =>
      t.conn? n = some { c with graceUntil := none }) ∧
    (∀ n c, s.conn? n = some c → c.state = .open_ → c.roce = false → 2 ^ 47 ≤ c.serial → c.mayRotate = true →
      Gives (.earlyRotation n) s fun t =>
        t.num Reg.key.earlyRotations = wrap 64 (s.num Reg.key.earlyRotations + 1) ∧
        t.conn? n = some { c with
          keyEpoch := wrap 32 (c.keyEpoch + 1), serial := 0, graceUntil := some (s.rc.ring + s.num Reg.key.keyGraceRings) }) ∧
    (∀ p, s.portsMayRise = true → s.portFitted p = true → s.num (Reg.portStat.linkUp p) ≠ 0 → Gives (.linkDown p) s fun t =>
      t.num (Reg.portStat.linkUp p) = 0 ∧ t.sent s [.linkReport p]) ∧
    (∀ p, s.portFitted p = true → s.num (Reg.portStat.linkUp p) = 0 → (s.num Reg.gate.portGate).testBit p = false →
      Gives (.linkUp p) s fun t => t.num (Reg.portStat.linkUp p) = 1) ∧
    (∀ p, s.portFitted p = true → Gives (.pauseFrameRx p) s fun t =>
      t.num Reg.skd.pauseReceived = wrap 64 (s.num Reg.skd.pauseReceived + 1)) ∧
    (∀ p, s.portFitted p = true → s.num (Reg.portStat.linkUp p) ≠ 0 → s.portsSend = true → s.sec.testEn = false →
      p < s.skd.ports.length →
      (∀ q l, s.takeDue (s.portTx p).due = some (q, l) → Gives (.egressSelect p) s fun t =>
        (t.portTx p).due = l ∧ ∃ f, t.sent s [f]) ∧
      (∀ q l, (s.portTx p).due = [] → (s.portTx p).renew = [] → (s.portTx p).held = none → (s.portTx p).ctl = q :: l →
        0 ≤ (s.portTx p).ctlCredit → s.canSend q = true → s.fits p q = true → Gives (.egressSelect p) s fun t =>
          (t.portTx p).ctl = l ∧ ∃ f, t.sent s [f])) ∧
    (∀ n c psn, s.conn? n = some c → c.state = .open_ → c.roce = true → Gives (.rocev2AckNak n psn false) s fun t =>
      ∃ d, t.conn? n = some d ∧ d.unacked = c.unacked.filter fun u => !decide (2 ^ 31 ≤ psnDist (psnNext psn) u.pkt.psn)) ∧
    (∀ n c, s.conn? n = some c → c.state = .open_ → c.roce = true → Gives (.rocev2Cnp n) s fun t =>
      t.conn? n = some { c with markedP := c.markedP + 1 }) ∧
    (∀ p f, (s.skd.fiHeld.find? fun f => f.port == p) = some f → Gives (.fiReorderRelease p) s fun t =>
      t.sent s [.frame f] ∧ t.skd.fiHeld = s.skd.fiHeld.erase f)

/-- On a device that runs and has power, for a request of a session with the ADMIN role that the device serves: DEFINE
of an UNDEFINED context whose CLUSTER_MASK, program and pinning pass makes it DEFINED; DESTROY of a DEFINED context
not in use leaves it DESTROYING while it is resident on a cluster, and UNDEFINED where it is resident nowhere; a
write of context 0's PROGRAM stores it and starts context 0 again. A cluster that is due to change its resident,
all its items ended, is scrubbed: verified, the next context is resident on it from now and the scrub is counted;
not verified, it is FAULTED with no resident. Where items are in progress the cluster stops. -/
def Obligations.ContextCommandsComplete : Prop :=
  ∀ (s : State), s.Sound → s.alive →
    (∀ h x, s.takes h x → x.admin = true →
      (∀ k, k < 64 → (s.ctx k).state = .undefined → s.maskBad (s.num (Reg.ctx.clusterMask k)) = false →
        (s.blob (Reg.ctx.program k)).length ≤ 4194304 →
        (s.num (Reg.ctx.pinned k) ≠ 0 → s.pinClash k (s.num (Reg.ctx.clusterMask k)) = false) →
        Gives (.define (.tally h) k) s fun t => t.status = 0x2600 ∧ (t.ctx k).state = .defined ∧ t.num (Reg.ctx.state k) = 1) ∧
      (∀ k, 1 ≤ k → k < 64 → (s.ctx k).state = .defined → s.ctxBusy k = false → Gives (.destroy (.tally h) k) s fun t =>
        t.status = 0x2600 ∧ (t.ctx k).state = (if s.residentSomewhere k then .destroying else .undefined)) ∧
      (∀ v, v.length ≤ blobMax → s.ctxBusy 0 = false → (s.ctx 0).renew = false →
        Gives (.context0Program (.tally h) v) s fun t => t.blob (Reg.ctx.program 0) = v ∧
          (t.ctx 0).renew = s.residentSomewhere 0)) ∧
    (∀ c v su sw, s.hasCluster c = true → (s.cluster c).faulted = false →
      (∀ next, s.switchDue c = some next → s.itemsEnded c = false → Gives (.contextSwitch c v su sw) s fun t =>
        (t.cs c).stopped = true) ∧
      (∀ k, s.switchDue c = some (some k) → s.itemsEnded c = true → Gives (.contextSwitch c true su sw) s fun t =>
        (t.cluster c).resident = some k ∧ (t.cluster c).since = s.now ∧
        t.num Reg.scrub.scrubs = wrap 64 (s.num Reg.scrub.scrubs + 1)) ∧
      (∀ next, s.switchDue c = some next → s.itemsEnded c = true → Gives (.contextSwitch c false su sw) s fun t =>
        (t.cluster c).resident = none ∧ (t.cluster c).faulted = true ∧
        t.num Reg.scrub.scrubFails = wrap 32 (s.num Reg.scrub.scrubFails + 1)))

/-- What every POWER_ON and DEVICE reset leaves. -/
def AfterReset (last : Nat) (s t : State) : Prop :=
  t.rc = RingCount.reset ∧ t.mgmt.sessions = [] ∧ t.num Reg.start.lastReset = last ∧ t.num Reg.sec.fuseSvn = s.nv.fuseSvn ∧
    t.nv.fuseSvn = s.nv.fuseSvn

/-- In every state, POWER_ON and PERST_N low for 1 us leave the device in reset with no session open, the ring count as
after reset, LAST_RESET 1 and 2, and FUSE_SVN as the fuses hold it; a shorter level of PERST_N changes nothing.
PERST_N high samples the straps: the device is out of reset, and goes on to step 2 where the PLL locks and
PWR_FAIL_N is high, or stops at CLOCK_FAILED. In step 2 SECURE_BOOT runs slot 2 if its image passes, else slot 1,
trains the memory and goes on to step 4, or to MEM_FAILED; with neither it is BOOT_FAILED. A watchdog that expires
resets and starts up. A FUNCTION reset resets the NVMe controller. -/
def Obligations.StartUpAndResetsComplete : Prop :=
  ∀ (s : State),
    (∀ low, Gives (.powerOn low) s fun t => AfterReset 1 s t ∧ t.pwr.inReset = true ∧ t.pwr.perstLow = low) ∧
    (∀ ns, 1000 ≤ ns → Gives (.perstAssert ns) s fun t => AfterReset 2 s t ∧ t.pwr.inReset = true) ∧
    (∀ ns, ns < 1000 → Gives (.perstAssert ns) s fun t => t = s) ∧
    (∀ strap pll mem, s.pwr.inReset = true → Gives (.perstDeassert strap pll mem) s fun t =>
      t.pwr.inReset = false ∧ t.num Reg.stand.standId = strap % 8 ∧ t.num Reg.smb.smbAddr = 0x30 + strap % 8 ∧
      t.startState = (if pll then (if s.pwr.pwrFailLow then s.startState else 2) else 0x81)) ∧
    (s.alive → s.startState = 2 →
      (∀ i, i = s.nv.slot2 → i.passes s.nv.fuseSvn = true → Gives .secureBoot s fun t =>
        t.num Reg.sec.bootState = 1 ∧ t.num Reg.sec.fwSvn = i.svn ∧ t.blob Reg.sec.fwDigest = i.digest ∧
        t.startState = (if s.pwr.memory = none then 0x83 else 4)) ∧
      (∀ i, i = s.nv.slot1 → s.nv.slot2.passes s.nv.fuseSvn = false → i.passes s.nv.fuseSvn = true →
        Gives .secureBoot s fun t =>
          t.num Reg.sec.bootState = 2 ∧ t.num Reg.sec.fwSvn = i.svn ∧ t.blob Reg.sec.fwDigest = i.digest ∧
          t.startState = (if s.pwr.memory = none then 0x83 else 4)) ∧
      (s.nv.slot1.passes s.nv.fuseSvn = false → s.nv.slot2.passes s.nv.fuseSvn = false → Gives .secureBoot s fun t =>
        t.num Reg.sec.bootState = 3 ∧ t.startState = 0x82)) ∧
    (s.running → Gives .watchdogExpiry s fun t => AfterReset 4 s t ∧ t.pwr.inReset = false) ∧
    (s.running → Gives .functionLevelReset s fun t =>
      t.landing.sqs = [NvmeSq.admin] ∧ t.landing.cqs = [NvmeCq.admin] ∧ t.landing.features = [] ∧
      ∀ c ∈ t.landing.cmds, c.dispatched = true ∧ c.dropped = true)

/-- On a running device: a loss of lock past start-up sets PLL_STATE 1, counts UNLOCKS and enters VOID with cause
PLL_UNLOCK; a restart that is due sets PLL_STATE 2 and is counted; a relock sets PLL_STATE 0, counts RELOCKS and
clears the cause; spent attempts set PLL_STATE 3. SSC_APPLY puts the written depth and rate in effect. An idle unit
that may be gated is gated. For a request of a session with the ADMIN role that the device serves, CLUSTER_GATE and
PORT_GATE take a mask of fitted clusters or ports none of which newly gated is in use, and a newly gated port's
link is down. -/
def Obligations.ClocksAndGatesComplete : Prop :=
  ∀ (s : State), s.Sound → s.running →
    (s.num Reg.clk.pllState = 0 → s.startState ≠ 1 → s.startState ≠ 0x81 → Gives .pllLossOfLock s fun t =>
      t.num Reg.clk.pllState = 1 ∧ t.num Reg.clk.unlocks = wrap 32 (s.num Reg.clk.unlocks + 1) ∧ t.pwr.lossAt = some s.now ∧
      t.rc.state = .void ∧ .pllUnlock ∈ t.rc.causes) ∧
    (s.relockDue = true → Gives .pllRelockAttempt s fun t =>
      t.num Reg.clk.pllState = 2 ∧ t.pwr.attempts = s.pwr.attempts + 1 ∧ t.pwr.attemptAt = some s.now) ∧
    (s.num Reg.clk.pllState = 2 → Gives .pllRelock s fun t =>
      t.num Reg.clk.pllState = 0 ∧ t.num Reg.clk.relocks = wrap 32 (s.num Reg.clk.relocks + 1) ∧ t.pwr.lossAt = none ∧
      .pllUnlock ∉ t.rc.causes) ∧
    (∀ u, (s.num Reg.clk.pllState = 1 ∨ s.num Reg.clk.pllState = 2) → s.pwr.lossAt = some u →
      s.num Reg.clk.pllRetryLimit ≤ s.pwr.attempts → (∀ a, s.pwr.attemptAt = some a → a + 120000 ≤ s.now) →
      Gives .pllFailed s fun t => t.num Reg.clk.pllState = 3) ∧
    (Gives .sscApply s fun t => t.pwr.effect =
      { s.pwr.effect with sscDepth := s.num Reg.clk.sscDepthPpm, sscRate := s.num Reg.clk.sscRateHz }) ∧
    (∀ u, s.num Reg.gate.fineGating ≠ 0 → 7 ≤ u → u ∉ s.pwr.fineGated → Gives (.fineGateClose u) s fun t =>
      t.pwr.fineGated = s.pwr.fineGated ++ [u]) ∧
    (∀ h x, s.takes h x → x.admin = true →
      (∀ m, m < 2 ^ s.dev.variant.clusters → m < 2 ^ 16 →
        (∀ i, i < 16 → m.testBit i = true → (s.num Reg.gate.clusterGate).testBit i = false → s.clusterBusy i = false) →
        Gives (.clusterGateWrite (.tally h) m) s fun t => t.num Reg.gate.clusterGate = m) ∧
      (∀ m, m < 2 ^ 32 → (∀ i, i < 32 → m.testBit i = true → s.portFitted i = true) →
        (∀ i, i < 32 → m.testBit i = true → (s.num Reg.gate.portGate).testBit i = false → s.portBusy i = false) →
        Gives (.portGateWrite (.tally h) m) s fun t => t.num Reg.gate.portGate = m ∧
          ∀ i, i < 32 → m.testBit i = true → (s.num Reg.gate.portGate).testBit i = false →
            t.num (Reg.portStat.linkUp i) = 0))

/-- On a running device: RAIL_MEASURE of eleven rails stores each voltage and power and their total; the end of a whole
10 ms window sets POWER_TENANT_W to the mean; CAP_CONTROL lowers the admission by 16 over the cap, not below the
floor, raises it by 16 under 95 %, and without a cap sets it to 1,024 with CAP_STATE 0; a thermal change sets
TJ_MAX_DC and THERM_STATE, and at TRIP stops the clocks and drives THERM_TRIP_N, as THERMAL_TRIP does; the end of a
cooling hold returns the request to its level. HARDWARE_TRIP stops every clock in every state. PWR_FAIL_N low for
200 ns past START_STATE PLL stops the device's lanes and starts the flush, in START_STATE PLL it makes the device
wait; high again lets a waiting device go on to step 2. -/
def Obligations.PowerAndHeatComplete : Prop :=
  ∀ (s : State), s.Sound →
    (s.running →
      (∀ l, l.length = 11 → Gives (.railMeasure l) s fun t =>
        (∀ i, i < 11 → t.num (Reg.railVolt.railMv i) = (l.getD i (0, 0)).1 ∧
          t.num (Reg.railPower.railMw i) = (l.getD i (0, 0)).2) ∧
        t.num Reg.railPower.totalMw = sum (l.map (·.2)) ∧ t.pwr.windowCount = s.pwr.windowCount + 1) ∧
      (Gives .powerWindowEnd s fun t => t.pwr.windowWhole = true ∧ t.pwr.windowSum = 0 ∧ t.pwr.windowCount = 0 ∧
        (s.pwr.windowWhole = true → s.pwr.windowCount ≠ 0 →
          t.num Reg.sec.powerTenantW = tenantWatts s.pwr.windowSum s.pwr.windowCount)) ∧
      (Gives .capControl s fun t =>
        if s.num Reg.power.powerCapW = 0 then t.pwr.admission = 1024 ∧ t.num Reg.power.capState = 0
        else t.pwr.admission =
          if 1000 * s.num Reg.power.powerCapW < s.num Reg.railPower.totalMw then
            max (s.num Reg.power.capFloor) (s.pwr.admission - 16)
          else if 100 * s.num Reg.railPower.totalMw < 95 * (1000 * s.num Reg.power.powerCapW) then
            min 1024 (s.pwr.admission + 16)
          else s.pwr.admission) ∧
      (∀ tj, Gives (.thermalChange tj) s fun t => t.num Reg.therm.tjMaxDc = i32Bits tj ∧
        t.num Reg.therm.thermState = thermalNext s.warnDc (s.num Reg.therm.thermState) tj ∧
        (1150 ≤ tj → t.pwr.clocksStopped = true ∧ t.pwr.thermTripLow = true)) ∧
      (∀ tj : Int, 1150 ≤ tj → Gives (.thermalTrip tj) s fun t => t.num Reg.therm.thermState = 3 ∧ t.pwr.clocksStopped = true ∧
        t.pwr.thermTripLow = true ∧ ∃ l, t.sent s (l ++ [.pins true])) ∧
      (∀ u, s.pwr.coolingUntil = some u → u ≤ s.now → Gives .coolingHoldEnd s fun t => t.pwr.coolingUntil = none ∧
        t.num Reg.therm.coolingRequest = coolingLevel s.warnDc (i32Val (s.num Reg.therm.tjMaxDc)))) ∧
    (Gives .hardwareTrip s fun t => t.pwr.clocksStopped = true ∧ t.pwr.outputsOff = true ∧ t.pwr.thermTripLow = true ∧
      t.sent s [.pins true]) ∧
    (∀ ns, 200 ≤ ns →
      (s.running → s.startState ≠ 1 → s.pwr.lossStopped = false → Gives (.pwrFailAssert ns) s fun t =>
        t.pwr.pwrFailLow = true ∧ t.pwr.lossStopped = true ∧ t.pwr.flushing = true ∧
        ∀ p, p < s.dev.variant.lanes → t.num (Reg.portStat.linkUp p) = 0) ∧
      (s.startState = 1 → Gives (.pwrFailAssert ns) s fun t => t = s.putPwr { s.pwr with pwrFailLow := true })) ∧
    (Gives .pwrFailDeassert s fun t => t.pwr.pwrFailLow = false ∧
      (s.running → s.startState = 1 → t.startState = 2))

/-- In every state, where it answers a next state: each register command of push port p leaves the buffer, state and
ring of every other port; each engine instruction and DMA_TRANSFER of one core leaves every other core of its
cluster and of the others (tile memory, engines, accumulators, flags), and every cluster's and die's SRAM; a decode
or token descriptor leaves the queues of every other cluster; COMPRESS and DECOMPRESS leave every other pipeline of
every Chipper. -/
def Obligations.OtherInstancesStay : Prop :=
  ∀ (s t : State),
    (∀ p q c, (∃ w b h, c ∈ [Instr.pshFirst p w b, .pshPush p w b, .pshFlush p, .pshStatusRead p, .pshCqHead p h]) →
      q ≠ p → exec c s = .next t → t.port q = s.port q) ∧
    (∀ (a : EngineAt) c, (∃ o1 o2 o3 o4 o5 o6 o7 o8 o9, c ∈ [Instr.engineLdSt a o1, .engineMma a o2, .engineAcc a o3,
        .engineCvt a o4, .engineValu a o5, .engineVred a o6, .engineVperm a o7, .engineSync a o8,
        .dmaTransfer a.cluster a.core a.pc o9]) → exec c s = .next t →
      (∀ x i, ¬ (x = a.cluster ∧ i = a.core) → t.core x i = s.core x i) ∧ (∀ x, (t.cs x).sram = (s.cs x).sram) ∧
        t.comp.dieSram = s.comp.dieSram) ∧
    (∀ r (d : DecodeDesc) c, c ∈ [Instr.decodeImage r d, .decodeFrame r d, .encodeFits r d] → exec c s = .next t →
      ∀ x q, x ≠ d.cluster → t.decQueue x q = s.decQueue x q) ∧
    (∀ r (d : TokenDesc) c, c ∈ [Instr.tokenize r d, .detokenize r d, .vocabLoad r d, .grammarLoad r d, .grammarCheck r d,
        .rolloutOpen r d, .rolloutClose r d] → exec c s = .next t → ∀ x, x ≠ d.cluster → t.tokQueue x = s.tokQueue x) ∧
    (∀ (d : ChipDesc) c b, c = (if b then Instr.decompress d else .compress d) → exec c s = .next t →
      ∀ x y, ¬ (x = d.chipper ∧ y = b) → t.chipPipe x y = s.chipPipe x y)

/-- Place `k` of pool `p` is one of the `n` bytes from offset `off` on of the buffer that handle `h` names in `s`. -/
def Sys2Proof.Machine.State.covers (s : State) (h off n p k : Nat) : Prop :=
  p = hPool h ∧ ∃ b, s.buf? h = some b ∧ ∃ i, i < n ∧ k = b.place p (off + i)

/-- From `s` to `t` no byte changes outside the places that `P` names. -/
def OnlyBytes (P : Nat → Nat → Prop) (s t : State) : Prop := ∀ p k, ¬ P p k → t.byteAt p k = s.byteAt p k

/-- In every state, where it answers a next state: DECODE_COMPLETE leaves every byte of every pool outside the
request's output buffer from 0 up to its capacity; a TOKENIZE or DETOKENIZE that completes the same;
ROLLOUT_NOTIFY_PROCESS outside the 8 bytes of the stream's count of freed slots; WORK_ITEM_END outside its output;
DMA_COMPLETE outside the rows it moves out of the tile memory, and every byte where it moves them elsewhere;
FRAGMENT_READY outside the deck entry's memory up to its length; CHIPPER_COMPLETE outside OUT_BUFFER from its
offset on; BLOCKS_RETURN outside the blocks that return, which in a pool that is scrubbed read zero. The commands
of the frames whose footprint does not name the bytes leave every byte. -/
def Obligations.BytesChangeOnlyWhereACommandStores : Prop :=
  ∀ (s t : State),
    (∀ c q u o r n e, ((s.decQueue c q).running.find? fun x => x.1 == u) = some (n, e) →
      exec (.decodeComplete c q u o r) s = .next t → OnlyBytes (s.covers e.desc.outBuf 0 e.desc.outCap) s t) ∧
    (∀ c u r n e, ((s.tokQueue c).running.find? fun x => x.1 == u) = some (n, e) →
      (e.kind = .tokenize ∨ e.kind = .detokenize) →
      exec (.tokenComplete c u r) s = .next t → OnlyBytes (s.covers e.desc.outBuf 0 e.desc.outCap) s t) ∧
    (∀ h x, s.rolloutStream? h = some x → exec (.rolloutNotifyProcess h) s = .next t →
      OnlyBytes (s.covers x.entry.desc.inBuf 0 8) s t) ∧
    (∀ c i e, exec (.workItemEnd c i e) s = .next t → OnlyBytes (s.covers e.outBuf e.outOff e.outLen) s t) ∧
    (∀ c i o l, (s.core c i).dma = o :: l → exec (.dmaComplete c i) s = .next t →
      OnlyBytes (fun p k => o.toTile = false ∧ ∃ h off r, o.far = .buffer h off ∧ r < o.rows ∧
        s.covers h (off + o.farStride * r) o.rowBytes p k) s t) ∧
    (∀ k c b l e, s.entry? k = some e → exec (.fragmentReady k c b l) s = .next t →
      OnlyBytes (s.covers e.mem 0 e.frag.length) s t) ∧
    (∀ c d e l, (s.chipPipe c d).queue = e :: l → exec (.chipperComplete c d) s = .next t →
      OnlyBytes (fun p k => ∃ n, t.covers e.desc.outBuf e.desc.outOff n p k) s t) ∧
    (∀ h b, ((s.pool (hPool h)).draining.find? fun x => x.handle (hPool h) == h && x.inFlight == 0) = some b →
      exec (.blocksReturn h) s = .next t →
      OnlyBytes (fun p k => p = hPool h ∧ k / poolBlockBytes p ∈ b.chain) s t ∧
      (s.running → poolScrubbed (hPool h) = true → ∀ k, k / poolBlockBytes (hPool h) ∈ b.chain → t.byteAt (hPool h) k = 0))

/-- For each of 27 commands of these chapters (Dictionary, schedule and replay, Ring count, PTP and the stand), in
every state and with every operand: where it answers a next state, every part of State that its footprint does not
name is unchanged, and so is every entry of the dictionary in no object that its footprint names; the footprints
are written out in the statement, and name the part bytes only where a command may change a byte of the pools'
memory. Not here: dictionaryWrite, replayInject, which stand for a command or write of any kind and may change what
that one may. -/
def Obligations.FramesOfScheduleAndRingCount : Prop :=
  (∀ a b, Within (.sectionLoad a b) ⟨[.log, .mgmt, .nv, .sched, .mem, .deck, .lookout, .skd, .out, .status,
    .freeCtr], [.tally, .smb, .log, .gate, .lk, .memb, .lkCnt, .coppice, .pool, .deck, .sched, .replay, .key,
    .tsch]⟩) ∧
  Within .epochStart ⟨[.sched, .rc, .deck, .lookout, .skd], [.rc, .xchk, .lk, .memb, .lkCnt, .coppice, .deck,
    .sched, .replay, .key, .tsch]⟩ ∧
  Within .loadLate ⟨[.log, .mgmt, .sched, .mem, .deck, .lookout, .skd, .out, .status, .freeCtr], [.smb, .log, .lk,
    .council, .memb, .lkCnt, .coppice, .pool, .deck, .sched, .replay, .skd, .key, .tsch]⟩ ∧
  Within .runStartReached ⟨[.log, .mgmt, .sched, .lookout, .skd, .out], [.smb, .log, .lk, .deck, .sched, .replay]⟩ ∧
  (∀ a b, Within (.fragmentLaunch a b) ⟨[.log, .mgmt, .mem, .deck, .lookout, .skd, .out], [.smb, .log, .launch,
    .pool, .buck]⟩) ∧
  (∀ a, Within (.launchPrefetch a) ⟨[.deck], []⟩) ∧
  (∀ a, Within (.stepDigest a) ⟨[.log, .mgmt, .sched], [.smb, .log, .sched, .replay]⟩) ∧
  Within .ringBegin ⟨[.log, .mgmt, .sched, .rc, .stand, .pwr, .mem, .intake, .deck, .lookout, .skd, .out, .status,
    .freeCtr], [.smb, .log, .hw, .clk, .therm, .start, .rc, .xchk, .stand, .lk, .council, .memb, .lkCnt, .coppice,
    .pool, .deck, .sched, .replay, .skd, .key, .tsch]⟩ ∧
  (∀ a b, Within (.ptpSync a b) ⟨[.log, .mgmt, .nv, .sched, .rc, .pwr, .lookout, .skd, .out], [.smb, .log, .hw,
    .cal, .start, .rc, .xchk, .lk, .replay]⟩) ∧
  Within .rcLocked ⟨[.log, .mgmt, .nv, .rc, .lookout, .skd, .out], [.smb, .log, .hw, .cal, .start, .rc, .xchk]⟩ ∧
  Within .syncTimeout ⟨[.mgmt, .rc], [.rc, .xchk]⟩ ∧
  (∀ f : Foot, f = ⟨[.log, .mgmt, .rc, .lookout, .skd, .out], [.smb, .log, .rc, .xchk, .lk]⟩ →
    Within .holdoverExpired f ∧ Within .clockOutlier f ∧ Within .gmMismatch f) ∧
  (∀ f : Foot, f = ⟨[.stand, .out], [.stand]⟩ →
    (∀ a, Within (.ringLinkUp a) f) ∧ (∀ a b, Within (.standHello a b) f) ∧ Within .formWindowEnd f
    ∧ (∀ a b, Within (.standMaster a b) f) ∧ (∀ a b, Within (.standHeartbeat a b) f)
    ∧ (∀ a b, Within (.barrierArm a b) f)) ∧
  (∀ f : Foot, f = ⟨[.stand, .intake, .out], [.stand]⟩ →
    (∀ a, Within (.ringLinkDown a) f) ∧ Within .masterMissed f ∧ Within .standSyncEdge f
    ∧ (∀ a, Within (.barrierTimeout a) f) ∧ (∀ a b, Within (.barrierAbort a b) f)) ∧
  (∀ f : Foot, f = ⟨[.stand, .out], []⟩ →
    (∀ a b, Within (.barrierArrive a b) f) ∧ (∀ a b, Within (.barrierArmed a b) f))

/-- For each of 19 commands of these chapters (Decode units, Live intake), in every state and with every operand: where
it answers a next state, every part of State that its footprint does not name is unchanged, and so is every entry
of the dictionary in no object that its footprint names; the footprints are written out in the statement, and name
the part bytes only where a command may change a byte of the pools' memory. -/
def Obligations.FramesOfDecodeAndIntake : Prop :=
  (∀ f : Foot, f = ⟨[.log, .mgmt, .dec, .out, .status], [.smb, .log, .ctx, .dec]⟩ →
    (∀ a b, Within (.decodeImage a b) f) ∧ (∀ a b, Within (.decodeFrame a b) f)
    ∧ (∀ a b, Within (.encodeFits a b) f)) ∧
  (∀ f : Foot, f = ⟨[.log, .mgmt, .mem, .dec, .out, .status, .bytes], [.smb, .log, .ctx, .pool, .dec, .stream,
    .contexts]⟩ →
    (∀ a b, Within (.streamOpen a b) f) ∧ (∀ a b, Within (.streamSubmit a b) f)
    ∧ (∀ a b, Within (.streamClose a b) f) ∧ (∀ a b, Within (.decodeDescriptorHead a b) f)) ∧
  (∀ a b c d e, Within (.decodeComplete a b c d e) ⟨[.log, .mgmt, .sched, .mem, .dec, .grade, .out, .status,
    .bytes], [.smb, .log, .ctx, .pool, .dec, .grade]⟩) ∧
  (∀ a b c, Within (.videoPictureDone a b c) ⟨[.log, .mgmt, .sched, .mem, .dec, .grade, .out, .status, .bytes],
    [.smb, .log, .ctx, .pool, .dec, .stream, .contexts, .grade]⟩) ∧
  (∀ a b, Within (.islandSpeedSample a b) ⟨[.log, .mgmt], [.smb, .log, .island, .islandCtl]⟩) ∧
  (∀ a, Within (.frameData a) ⟨[.log, .mgmt, .sched, .stand, .mem, .intake, .out], [.smb, .log, .stand, .pool,
    .intake, .group, .live, .replay]⟩) ∧
  (∀ f : Foot, f = ⟨[.log, .mgmt, .sched, .stand, .intake, .out], [.smb, .log, .stand, .intake, .group, .live,
    .replay]⟩ →
    (∀ a, Within (.frameEnd a) f) ∧ (∀ a b, Within (.frameTimeout a b) f)) ∧
  (∀ a, Within (.frameStore a) ⟨[.log, .mgmt, .mem, .intake, .out, .status], [.smb, .log, .pool, .group]⟩) ∧
  (∀ a b c, Within (.settingsWrite a b c) ⟨[.log, .mgmt, .nv, .sched, .intake, .out, .status], [.tally, .smb,
    .log, .gate, .live, .replay]⟩) ∧
  (∀ a, Within (.settingsAck a) ⟨[.intake], [.intake]⟩) ∧
  (∀ a b, Within (.settingsUnacked a b) ⟨[.log, .mgmt, .intake], [.smb, .log]⟩) ∧
  (∀ a b, Within (.fuseDecide a b) ⟨[.log, .mgmt, .stand, .intake, .out], [.smb, .log, .stand, .group]⟩) ∧
  (∀ a b c d e, Within (.fuseOutcome a b c d e) ⟨[.stand, .intake, .out], [.stand]⟩)

/-- For each of 34 commands of these chapters (Token units, Prep compute), in every state and with every operand: where
it answers a next state, every part of State that its footprint does not name is unchanged, and so is every entry
of the dictionary in no object that its footprint names; the footprints are written out in the statement, and name
the part bytes only where a command may change a byte of the pools' memory. -/
def Obligations.FramesOfTokensAndCompute : Prop :=
  (∀ f : Foot, f = ⟨[.log, .mgmt, .tok, .out, .status], [.smb, .log, .ctx, .tok]⟩ →
    (∀ a b, Within (.tokenize a b) f) ∧ (∀ a b, Within (.detokenize a b) f) ∧ (∀ a b, Within (.vocabLoad a b) f)
    ∧ (∀ a b, Within (.grammarLoad a b) f) ∧ (∀ a b, Within (.grammarCheck a b) f)
    ∧ (∀ a b, Within (.rolloutOpen a b) f) ∧ (∀ a b, Within (.rolloutClose a b) f)) ∧
  (∀ a, Within (.tokenDescriptorHead a) ⟨[.log, .mgmt, .mem, .tok, .out, .status], [.smb, .log, .ctx, .pool,
    .tok]⟩) ∧
  (∀ a b c, Within (.tokenComplete a b c) ⟨[.log, .mgmt, .sched, .sec, .mem, .intake, .tok, .grade, .out, .status,
    .freeCtr, .bytes], [.smb, .log, .ctx, .attest, .pool, .tok, .vocab, .vocabDigest, .rollout, .grade, .replay]⟩) ∧
  (∀ a b, Within (.rolloutChunk a b) ⟨[.tok], [.rollout]⟩) ∧
  (∀ a, Within (.rolloutNotifyProcess a) ⟨[.log, .mgmt, .sched, .mem, .intake, .tok, .out, .bytes], [.smb, .log,
    .pool, .tok, .rollout, .replay]⟩) ∧
  (∀ a b, Within (.rolloutTimeout a b) ⟨[.log, .mgmt, .sched, .intake, .tok, .out], [.smb, .log, .tok, .rollout,
    .replay]⟩) ∧
  (∀ f : Foot, f = ⟨[.log, .mgmt, .comp, .out, .status], [.smb, .log, .prep]⟩ →
    (∀ a b, Within (.launch a b) f) ∧ (∀ a b, Within (.kernelLoad a b) f) ∧ (∀ a b, Within (.kernelUnload a b) f)
    ∧ (∀ a b, Within (.modelLoad a b) f) ∧ (∀ a b, Within (.modelUnload a b) f)) ∧
  (∀ a, Within (.computeDescriptorHead a) ⟨[.log, .mgmt, .sec, .mem, .comp, .out, .status, .bytes], [.smb, .log,
    .attest, .pool, .prep, .modelCfg, .kernel, .model]⟩) ∧
  (∀ a b c, Within (.workItemEnd a b c) ⟨[.log, .mgmt, .sched, .mem, .comp, .grade, .out, .status, .bytes], [.smb,
    .log, .ctx, .pool, .prep, .grade]⟩) ∧
  (∀ a b c, Within (.itemBudget a b c) ⟨[.comp], []⟩) ∧
  (∀ f : Foot, f = ⟨[.comp, .freeCtr], []⟩ →
    (∀ a b, Within (.engineLdSt a b) f) ∧ (∀ a b, Within (.engineMma a b) f) ∧ (∀ a b, Within (.engineAcc a b) f)
    ∧ (∀ a b, Within (.engineCvt a b) f) ∧ (∀ a b, Within (.engineValu a b) f)
    ∧ (∀ a b, Within (.engineVred a b) f) ∧ (∀ a b, Within (.engineVperm a b) f)
    ∧ (∀ a b, Within (.engineSync a b) f)) ∧
  (∀ a b c d, Within (.dmaTransfer a b c d) ⟨[.mem, .comp], [.pool]⟩) ∧
  (∀ a b, Within (.dmaComplete a b) ⟨[.mem, .comp, .freeCtr, .bytes], [.pool]⟩) ∧
  (∀ f : Foot, f = ⟨[.log, .mgmt, .nv, .sched, .grade, .out, .status], [.tally, .smb, .log, .gate, .grade,
    .replay]⟩ →
    (∀ a, Within (.gradeStart a) f) ∧ (∀ a, Within (.gradeAbort a) f)) ∧
  (∀ a b c, Within (.gradeSignatures a b c) ⟨[.grade], [.grade]⟩) ∧
  Within .gradeDone ⟨[.grade, .out], [.grade]⟩

/-- For each of 30 commands of these chapters (Bucking and the deck, The Yard), in every state and with every operand:
where it answers a next state, every part of State that its footprint does not name is unchanged, and so is every
entry of the dictionary in no object that its footprint names; the footprints are written out in the statement, and
name the part bytes only where a command may change a byte of the pools' memory. Of yardRecovery, which load or
reset entries of every object, the footprint names the parts alone. -/
def Obligations.FramesOfDeckAndYard : Prop :=
  Within .prepareFragment ⟨[.mem, .deck], [.pool, .deck]⟩ ∧
  (∀ a b c d, Within (.fragmentReady a b c d) ⟨[.log, .mgmt, .sched, .pwr, .mem, .deck, .out, .status, .freeCtr,
    .bytes], [.smb, .log, .therm, .pool, .buck, .season, .deck, .replay]⟩) ∧
  (∀ a, Within (.retentionEnd a) ⟨[.log, .mgmt, .mem, .deck, .skd, .out, .status], [.smb, .log, .pool, .deck,
    .key]⟩) ∧
  (∀ a b, Within (.seasonClear a b) ⟨[.log, .mgmt, .nv, .sched, .mem, .deck, .out, .status], [.tally, .smb, .log,
    .gate, .pool, .season, .replay]⟩) ∧
  (∀ f : Foot, f = ⟨[.log, .mgmt, .yard, .status], [.smb, .log, .yard, .bolts, .shard]⟩ →
    (∀ a b c d, Within (.yardWrite a b c d) f) ∧ (∀ a b c, Within (.discard a b c) f)) ∧
  (∀ f : Foot, f = ⟨[.log, .mgmt, .yard, .landing, .out, .status], [.smb, .log, .hw, .landing, .push, .yard,
    .bolts, .yardFault, .shard]⟩ →
    (∀ a b, Within (.wordlineProgramDone a b) f) ∧ (∀ a b c d e, Within (.partnerRead a b c d e) f)
    ∧ (∀ a b, Within (.eraseDone a b) f) ∧ (∀ a b, Within (.journalCommit a b) f)
    ∧ (∀ a, Within (.checkpointDone a) f)) ∧
  (∀ a b c, Within (.yardRead a b c) ⟨[.log, .mgmt, .yard, .out, .status], [.smb, .log, .hw, .yard, .bolts,
    .yardFault, .shard]⟩) ∧
  (∀ a b c d, Within (.nandReadDone a b c d) ⟨[.log, .mgmt, .yard, .landing, .out, .status], [.smb, .log, .hw,
    .landing, .push, .yard, .bolts, .yardFault, .shard, .grade]⟩) ∧
  (∀ a b c d, Within (.partnerReadReply a b c d) ⟨[.log, .mgmt, .yard, .landing, .out, .status], [.smb, .log,
    .landing, .push, .yard, .bolts, .yardFault, .shard, .grade]⟩) ∧
  (∀ f : Foot, f = ⟨[.yard, .landing, .out, .status], [.landing, .push, .yard, .bolts, .shard]⟩ →
    (∀ a, Within (.boltErase a) f) ∧ (∀ a b c, Within (.sealAnswer a b c) f) ∧ Within .checkpoint f) ∧
  (∀ f : Foot, f = ⟨[.yard, .landing, .out, .status], [.hw, .landing, .push, .yard, .bolts, .shard]⟩ →
    Within .fold f ∧ Within .wearRelocate f) ∧
  (∀ a b c d e, Within (.partnerAppend a b c d e) ⟨[.log, .mgmt, .yard, .out, .status], [.smb, .log, .yard,
    .bolts, .shard]⟩) ∧
  (∀ f : Foot, f = ⟨[.log, .mgmt, .yard, .landing, .out, .status], [.smb, .log, .landing, .push, .yard, .bolts,
    .shard]⟩ →
    (∀ a b c d, Within (.partnerSeal a b c d) f) ∧ (∀ a b, Within (.partnerWaitTimeout a b) f)) ∧
  (∀ a b, Within (.cruiseRead a b) ⟨[.log, .mgmt, .yard, .landing, .out, .status], [.smb, .log, .hw, .landing,
    .push, .yard, .bolts, .cruise, .yardFault, .shard]⟩) ∧
  Within .cruiseRateRecompute ⟨[.log, .mgmt, .landing, .out, .status], [.smb, .log, .landing, .push, .yard,
    .bolts, .cruise, .shard]⟩ ∧
  (∀ a, Within (.refresh a) ⟨[.yard, .landing, .out, .status], [.hw, .landing, .push, .yard, .bolts, .cruise,
    .shard]⟩) ∧
  (∀ a b, Within (.lunFail a b) ⟨[.log, .mgmt, .yard, .landing, .out, .status], [.smb, .log, .hw, .landing, .push,
    .yard, .geom, .bolts, .yardFault, .shard, .grade]⟩) ∧
  (∀ a, WithinParts (.yardRecovery a) [.log, .mgmt, .nv, .yard, .landing, .out, .status]) ∧
  (∀ f : Foot, f = ⟨[.log, .mgmt, .nv, .sched, .yard, .out, .status, .freeCtr], [.tally, .smb, .log, .hw, .gate,
    .power, .yard, .geom, .bolts, .yardCfg, .cruise, .yardFault, .shard, .yardCtl, .replay]⟩ →
    (∀ a b, Within (.format a b) f) ∧ (∀ a, Within (.checkpointNow a) f) ∧ (∀ a, Within (.cruiseRestart a) f))

/-- For each of 15 commands of these chapters (Buffer pools, memory errors and arbiters, Chippers), in every state and
with every operand: where it answers a next state, every part of State that its footprint does not name is
unchanged, and so is every entry of the dictionary in no object that its footprint names; the footprints are
written out in the statement, and name the part bytes only where a command may change a byte of the pools' memory. -/
def Obligations.FramesOfPoolsAndChippers : Prop :=
  (∀ f : Foot, f = ⟨[.log, .mgmt, .mem, .out, .status], [.smb, .log, .pool]⟩ →
    (∀ a b, Within (.alloc a b) f) ∧ (∀ a b, Within (.extend a b) f) ∧ (∀ a b, Within (.pass a b) f)
    ∧ (∀ a b, Within (.free a b) f) ∧ (∀ a, Within (.waitGrant a) f)) ∧
  (∀ a b, Within (.query a b) ⟨[.log, .mgmt, .out, .status], [.smb, .log, .pool]⟩) ∧
  (∀ a, Within (.blocksReturn a) ⟨[.mem, .bytes], [.pool]⟩) ∧
  (∀ a, Within (.memoryCorrected a) ⟨[], [.tier]⟩) ∧
  (∀ a b, Within (.memoryUncorrectable a b) ⟨[.log, .mgmt, .mem], [.smb, .log, .tier, .pool]⟩) ∧
  (∀ a b c d e g, Within (.arbiterCycle a b c d e g) ⟨[.mem, .out], [.arb]⟩) ∧
  (∀ a b, Within (.starveIntervalReached a b) ⟨[.mem], []⟩) ∧
  (∀ f : Foot, f = ⟨[.log, .mgmt, .chips, .status], [.smb, .log, .chip, .chipQ]⟩ →
    (∀ a, Within (.compress a) f) ∧ (∀ a, Within (.decompress a) f)) ∧
  (∀ a b, Within (.chipperDescriptorHead a b) ⟨[.log, .mgmt, .mem, .chips, .out, .status], [.smb, .log, .pool,
    .chip, .chipQ]⟩) ∧
  (∀ a b, Within (.chipperComplete a b) ⟨[.log, .mgmt, .mem, .chips, .out, .status, .bytes], [.smb, .log, .pool,
    .chip, .chipQ]⟩)

/-- For each of 41 commands of these chapters (The Landing), in every state and with every operand: where it answers a
next state, every part of State that its footprint does not name is unchanged, and so is every entry of the
dictionary in no object that its footprint names; the footprints are written out in the statement, and name the
part bytes only where a command may change a byte of the pools' memory. -/
def Obligations.FramesOfTheLanding : Prop :=
  (∀ f : Foot, f = ⟨[.landing, .out, .status], [.landing]⟩ →
    (∀ a b c d, Within (.createIoSubmissionQueue a b c d) f) ∧ (∀ a b, Within (.deleteIoSubmissionQueue a b) f)
    ∧ (∀ a b c d, Within (.createIoCompletionQueue a b c d) f) ∧ (∀ a b, Within (.deleteIoCompletionQueue a b) f)
    ∧ (∀ a b c, Within (.setFeatures a b c) f) ∧ (∀ a b, Within (.getFeatures a b) f)
    ∧ (∀ a b c, Within (.abort a b c) f) ∧ (∀ a, Within (.asynchronousEventRequest a) f)
    ∧ (∀ a b c d, Within (.namespaceAttachment a b c d) f) ∧ (∀ a b c, Within (.firmwareImageDownload a b c) f)
    ∧ (∀ a b c, Within (.deviceSelfTest a b c) f) ∧ (∀ a b c, Within (.invalidCommandOpcode a b c) f)) ∧
  (∀ f : Foot, f = ⟨[.landing, .out, .status, .freeCtr], [.landing]⟩ →
    (∀ a b c, Within (.identify a b c) f) ∧ (∀ a b, Within (.getLogPage a b) f)) ∧
  (∀ f : Foot, f = ⟨[.sched, .yard, .landing, .out, .status], [.landing, .yard, .bolts, .shard, .replay]⟩ →
    (∀ a b, Within (.namespaceManagement a b) f) ∧ (∀ a b c d e g h i, Within (.nvmeWrite a b c d e g h i) f)
    ∧ (∀ a b c d e, Within (.writeZeroes a b c d e) f) ∧ (∀ a b c d e, Within (.datasetManagement a b c d e) f)) ∧
  (∀ a b c d e, Within (.formatNvm a b c d e) ⟨[.log, .mgmt, .sched, .yard, .landing, .out, .status], [.smb, .log,
    .hw, .landing, .yard, .bolts, .yardFault, .shard, .replay]⟩) ∧
  (∀ a b c d e, Within (.firmwareCommit a b c d e) ⟨[.nv, .landing, .out, .status], [.landing]⟩) ∧
  (∀ a b c, Within (.nvmeFlush a b c) ⟨[.yard, .landing, .out, .status], [.landing, .yard, .bolts, .shard]⟩) ∧
  (∀ f : Foot, f = ⟨[.log, .mgmt, .yard, .landing, .out, .status], [.smb, .log, .hw, .landing, .yard, .yardFault]⟩
    →
    (∀ a b c d e g h, Within (.nvmeRead a b c d e g h) f) ∧ (∀ a b c d e g h, Within (.verify a b c d e g h) f)
    ∧ (∀ a b c d e g h, Within (.compare a b c d e g h) f)) ∧
  (∀ f : Foot, f = ⟨[.landing], []⟩ →
    (∀ a b, Within (.sqTailDoorbell a b) f) ∧ (∀ a b, Within (.commandDispatch a b) f) ∧ Within .controllerReset f
    ∧ Within .selftestResume f ∧ (∀ a, Within (.deviceSelfTestDone a) f)) ∧
  (∀ f : Foot, f = ⟨[.landing, .out], []⟩ →
    (∀ a b, Within (.cqHeadDoorbell a b) f) ∧ (∀ a, Within (.pshStatusRead a) f)) ∧
  (∀ f : Foot, f = ⟨[.sched, .landing, .out, .status], [.push, .replay]⟩ →
    (∀ a b c, Within (.pshFirst a b c) f) ∧ (∀ a b c, Within (.pshPush a b c) f)) ∧
  (∀ a, Within (.pshFlush a) ⟨[.landing], [.push]⟩) ∧
  (∀ f : Foot, f = ⟨[.landing, .out, .status], [.push]⟩ →
    (∀ a b, Within (.pshCqHead a b) f) ∧ (∀ a, Within (.contextMsg a) f)) ∧
  (∀ f : Foot, f = ⟨[.yard, .landing, .out, .status], [.push, .yard, .bolts, .shard]⟩ →
    (∀ a b, Within (.shardOpen a b) f) ∧ (∀ a, Within (.shardDelete a) f)) ∧
  (∀ a b, Within (.ingestNs a b) ⟨[.log, .mgmt, .sched, .intake, .yard, .landing, .out, .status], [.smb, .log,
    .hw, .landing, .push, .yard, .bolts, .yardFault, .shard, .replay]⟩) ∧
  (∀ a, Within (.shardSeal a) ⟨[.log, .mgmt, .yard, .landing, .out, .status], [.smb, .log, .push, .yard, .bolts,
    .shard]⟩) ∧
  (∀ a b, Within (.remoteIngest a b) ⟨[.sched, .intake, .yard, .out, .status], [.landing, .yard, .bolts, .shard,
    .replay]⟩)

/-- For each of 35 commands of these chapters (The Skidder, The traffic scheduler), in every state and with every
operand: where it answers a next state, every part of State that its footprint does not name is unchanged, and so
is every entry of the dictionary in no object that its footprint names; the footprints are written out in the
statement, and name the part bytes only where a command may change a byte of the pools' memory. -/
def Obligations.FramesOfTheSkidder : Prop :=
  (∀ a b, Within (.connOpen a b) ⟨[.log, .mgmt, .nv, .sched, .skd, .out, .status, .freeCtr], [.tally, .smb, .log,
    .gate, .replay, .skd, .tsch, .service]⟩) ∧
  (∀ a b, Within (.connClose a b) ⟨[.log, .mgmt, .nv, .sched, .mem, .skd, .out, .status], [.tally, .smb, .log,
    .gate, .pool, .replay, .skd, .tsch]⟩) ∧
  (∀ f : Foot, f = ⟨[.log, .mgmt, .sched, .mem, .intake, .tok, .deck, .yard, .skd, .out, .status, .bytes], [.smb,
    .log, .landing, .yard, .bolts, .shard, .pool, .rollout, .replay, .portStat, .service, .fi]⟩ →
    (∀ a b, Within (.skdWriteRx a b) f) ∧ (∀ a b, Within (.skdWriteImmRx a b) f)
    ∧ (∀ a b, Within (.skdReadReqRx a b) f) ∧ (∀ a b, Within (.skdReadRespRx a b) f)
    ∧ (∀ a, Within (.skdAckRx a) f) ∧ (∀ a, Within (.noticeNoConnection a) f)
    ∧ (∀ a, Within (.noticeIngestResult a) f) ∧ (∀ a, Within (.noticeMsgDiscarded a) f)
    ∧ (∀ a, Within (.noticeReadError a) f)) ∧
  (∀ f : Foot, f = ⟨[.log, .mgmt, .sched, .rc, .mem, .intake, .tok, .deck, .yard, .lookout, .skd, .out, .status,
    .freeCtr, .bytes], [.smb, .log, .lk, .council, .memb, .lkCnt, .coppice, .landing, .yard, .bolts, .shard, .pool,
    .rollout, .deck, .sched, .replay, .skd, .key, .portStat, .tsch, .service, .fi]⟩ →
    (∀ a b, Within (.skdLookoutRx a b) f) ∧ (∀ a b, Within (.noticeLookout a b) f)) ∧
  (∀ a, Within (.noticeFenced a) ⟨[.log, .mgmt, .sched, .mem, .intake, .tok, .deck, .yard, .lookout, .skd, .out,
    .status, .bytes], [.smb, .log, .landing, .yard, .bolts, .shard, .pool, .rollout, .replay, .portStat, .service,
    .fi]⟩) ∧
  (∀ f : Foot, f = ⟨[.skd], []⟩ →
    (∀ a, Within (.ackSend a) f) ∧ Within .rcPeriod f ∧ (∀ a, Within (.keyGraceEnd a) f)
    ∧ (∀ a b c, Within (.skdTxqTail a b c) f) ∧ (∀ a b, Within (.skdCqHead a b) f)
    ∧ (∀ a, Within (.rocev2Cnp a) f)) ∧
  (∀ f : Foot, f = ⟨[.log, .mgmt, .mem, .deck, .skd, .out, .status], [.smb, .log, .pool, .path, .tsch]⟩ →
    (∀ a b, Within (.packetLost a b) f) ∧ (∀ a b, Within (.retransmitTimeout a b) f)
    ∧ (∀ a b c, Within (.rocev2AckNak a b c) f)) ∧
  (∀ a b, Within (.quarantineEnd a b) ⟨[.skd], [.path]⟩) ∧
  (∀ a, Within (.earlyRotation a) ⟨[.skd], [.key]⟩) ∧
  (∀ a, Within (.linkDown a) ⟨[.out], [.portStat]⟩) ∧
  (∀ a, Within (.linkUp a) ⟨[.log, .mgmt, .mem, .deck, .skd, .out, .status], [.smb, .log, .pool, .path, .portStat,
    .tsch]⟩) ∧
  (∀ f : Foot, f = ⟨[.skd, .out, .status], []⟩ →
    (∀ a b c, Within (.transferWrite a b c) f) ∧ (∀ a b c, Within (.transferWriteImm a b c) f)
    ∧ (∀ a b, Within (.transferRead a b) f)) ∧
  (∀ a, Within (.pauseFrameRx a) ⟨[], [.skd]⟩) ∧
  (∀ a, Within (.fiReorderRelease a) ⟨[.log, .mgmt, .sched, .rc, .mem, .intake, .tok, .deck, .yard, .lookout,
    .skd, .out, .status, .freeCtr, .bytes], [.smb, .log, .lk, .council, .memb, .lkCnt, .coppice, .landing, .yard,
    .bolts, .shard, .pool, .rollout, .deck, .sched, .replay, .skd, .key, .portStat, .tsch, .service]⟩) ∧
  (∀ a, Within (.egressSelect a) ⟨[.skd, .out], [.launch, .key, .portStat, .tsch, .service, .fi]⟩) ∧
  (∀ f : Foot, f = ⟨[.log, .mgmt, .nv, .sched, .skd, .out, .status], [.tally, .smb, .log, .gate, .replay, .tsch]⟩
    →
    (∀ a b, Within (.subConfigure a b) f) ∧ (∀ a b, Within (.subRelease a b) f))

/-- For each of 45 commands of these chapters (Lookout), in every state and with every operand: where it answers a next
state, every part of State that its footprint does not name is unchanged, and so is every entry of the dictionary
in no object that its footprint names; the footprints are written out in the statement, and name the part bytes
only where a command may change a byte of the pools' memory. -/
def Obligations.FramesOfLookout : Prop :=
  (∀ a b c d e g h, Within (.lkHeartbeat a b c d e g h) ⟨[.log, .mgmt, .sched, .rc, .mem, .deck, .lookout, .skd,
    .out, .status, .freeCtr], [.smb, .log, .lk, .council, .memb, .lkCnt, .coppice, .pool, .deck, .sched, .replay,
    .skd, .key, .tsch]⟩) ∧
  (∀ f : Foot, f = ⟨[.log, .mgmt, .sched, .mem, .deck, .lookout, .skd, .out, .status, .freeCtr], [.smb, .log, .lk,
    .council, .memb, .lkCnt, .coppice, .pool, .deck, .sched, .replay, .skd, .key, .tsch]⟩ →
    Within .heartbeatWindow f ∧ (∀ a b c d, Within (.lkSuspect a b c d) f) ∧ (∀ a b, Within (.lkAbort a b) f)
    ∧ (∀ a b c d, Within (.lkProbeReply a b c d) f) ∧ (∀ a, Within (.probeTimeout a) f)
    ∧ (∀ a b c d, Within (.lkVote a b c d) f) ∧ (∀ a, Within (.voteFallback a) f)
    ∧ (∀ a b, Within (.decisionAlive a b) f) ∧ (∀ a b, Within (.decisionDead a b) f)
    ∧ (∀ a b, Within (.decisionAdmit a b) f) ∧ (∀ a b, Within (.decisionCoppiceStart a b) f)
    ∧ (∀ a b, Within (.decisionSlotReady a b) f) ∧ (∀ a b, Within (.decisionCoOpt a b) f)
    ∧ (∀ a b, Within (.decisionEpochShift a b) f) ∧ (∀ a b, Within (.decisionDomainHold a b) f)
    ∧ (∀ a b, Within (.decisionResume a b) f) ∧ (∀ a b, Within (.decisionOrphaned a b) f)
    ∧ (∀ a b, Within (.decisionDemote a b) f) ∧ (∀ a b, Within (.decisionScores a b) f)
    ∧ (∀ a b c, Within (.declareVoid a b c) f) ∧ (∀ a b c, Within (.declareAbsent a b c) f)
    ∧ (∀ a b c, Within (.declareResume a b c) f) ∧ (∀ a b c, Within (.declareLoadLate a b c) f)
    ∧ (∀ a b c, Within (.declareIsolated a b c) f) ∧ (∀ a b c, Within (.declareCoppiceDone a b c) f)
    ∧ (∀ a b c, Within (.declareReingested a b c) f) ∧ (∀ a b c, Within (.declareVerifyDone a b c) f)
    ∧ (∀ a b c, Within (.declareHoldMembership a b c) f) ∧ (∀ a b c d, Within (.lkJoin a b c d) f)
    ∧ (∀ a, Within (.joinSend a) f) ∧ (∀ a b, Within (.latenessTally a b) f) ∧ Within .scoreDecay f) ∧
  (∀ f : Foot, f = ⟨[.lookout, .skd, .out], [.lkCnt]⟩ →
    (∀ a b c d, Within (.lkProbe a b c d) f) ∧ (∀ a b c d, Within (.lkLate a b c d) f)
    ∧ (∀ a b, Within (.lkStatusQuery a b) f) ∧ (∀ a b c, Within (.lkSnapshot a b c) f)) ∧
  (∀ a b c d e, Within (.lkStatusReply a b c d e) ⟨[.log, .mgmt, .mem, .lookout, .skd, .out, .status], [.smb,
    .log, .lk, .lkCnt, .pool, .skd, .tsch]⟩) ∧
  (∀ a b c, Within (.lkFenced a b c) ⟨[.lookout, .skd, .out], []⟩) ∧
  (∀ a, Within (.decisionMissing a) ⟨[], [.lk]⟩) ∧
  Within .lockstepFault ⟨[.stand], [.smb, .lk]⟩ ∧
  (∀ a, Within (.deliveryFault a) ⟨[.deck, .lookout, .skd, .out], [.lkCnt]⟩) ∧
  Within .coppiceShardCopy ⟨[.lookout, .skd, .out], [.coppice]⟩ ∧
  (∀ a, Within (.spareVerify a) ⟨[.yard, .lookout, .skd, .out], [.lk]⟩) ∧
  (∀ a b, Within (.councilReseed a b) ⟨[.log, .mgmt, .nv, .sched, .mem, .deck, .lookout, .skd, .out, .status,
    .freeCtr], [.tally, .smb, .log, .gate, .lk, .council, .memb, .lkCnt, .coppice, .pool, .deck, .sched, .replay,
    .skd, .key, .tsch]⟩)

/-- For each of 38 commands of these chapters (Contexts, boot, attestation and sessions, Clocks, power, heat, resets
and start-up), in every state and with every operand: where it answers a next state, every part of State that its
footprint does not name is unchanged, and so is every entry of the dictionary in no object that its footprint
names; the footprints are written out in the statement, and name the part bytes only where a command may change a
byte of the pools' memory. Of powerOn, perstAssert, watchdogExpiry, which load or reset entries of every object,
the footprint names the parts alone. Not here: resetCmdDevice, resetCmdDeviceForce, which stand for a command or
write of any kind and may change what that one may. -/
def Obligations.FramesOfSecurityAndPower : Prop :=
  (∀ f : Foot, f = ⟨[.log, .mgmt, .nv, .sched, .stand, .sec, .mem, .dec, .intake, .tok, .comp, .landing, .skd,
    .out, .status], [.tally, .smb, .log, .gate, .stand, .ctxSum, .ctx, .attest, .push, .pool, .dec, .stream,
    .contexts, .intake, .group, .live, .tok, .vocab, .vocabDigest, .rollout, .modelCfg, .kernel, .model, .replay,
    .skd, .tsch]⟩ →
    (∀ a b, Within (.define a b) f) ∧ (∀ a b, Within (.destroy a b) f) ∧ (∀ a b, Within (.context0Program a b) f)) ∧
  (∀ a b c d, Within (.contextSwitch a b c d) ⟨[.log, .mgmt, .sched, .sec, .mem, .dec, .intake, .tok, .comp,
    .landing, .out, .status], [.smb, .log, .ctxSum, .ctx, .attest, .scrub, .pool, .dec, .stream, .contexts, .tok,
    .vocab, .vocabDigest, .rollout, .modelCfg, .kernel, .model, .replay]⟩) ∧
  Within .secureBoot ⟨[.mem, .bytes], [.smb, .start, .sec, .tier, .layout, .pool]⟩ ∧
  (∀ a, Within (.advanceSvn a) ⟨[.log, .mgmt, .nv, .sched, .out, .status], [.tally, .smb, .log, .gate, .sec,
    .secCtl, .replay]⟩) ∧
  (∀ a b, Within (.attestRequest a b) ⟨[.log, .mgmt, .nv, .sched, .out, .status], [.tally, .smb, .log, .gate,
    .attest, .replay]⟩) ∧
  (∀ a b, Within (.operatorKeysWrite a b) ⟨[.log, .mgmt, .nv, .sched, .out, .status], [.tally, .smb, .log, .evt,
    .gate, .sess, .replay]⟩) ∧
  (∀ a b c d, Within (.sessionHello a b c d) ⟨[.log, .mgmt, .out, .status, .freeCtr], [.tally, .smb, .log]⟩) ∧
  (∀ a b, Within (.sessionProof a b) ⟨[.log, .mgmt, .out, .status], [.tally, .smb, .log, .sess]⟩) ∧
  (∀ a, Within (.sessionClose a) ⟨[.log, .mgmt, .out, .status], [.tally, .smb, .log, .evt, .sess]⟩) ∧
  (∀ a, Within (.challengeTimeout a) ⟨[.mgmt], []⟩) ∧
  (∀ f : Foot, f = ⟨[.mgmt], [.evt, .sess]⟩ →
    (∀ a, Within (.sessionIdleTimeout a) f) ∧ (∀ a, Within (.sessionLifeTimeout a) f)) ∧
  (∀ a, Within (.testEnAssert a) ⟨[.sec, .pwr], [.sec]⟩) ∧
  (∀ a, Within (.testEnDeassert a) ⟨[.mgmt, .sched, .sec, .pwr], [.sec, .sched, .permTest, .fi]⟩) ∧
  Within .pllLossOfLock ⟨[.log, .mgmt, .rc, .stand, .pwr, .intake, .lookout, .skd, .out], [.smb, .log, .hw, .clk,
    .rc, .xchk, .stand, .lk]⟩ ∧
  (∀ f : Foot, f = ⟨[.pwr], [.clk]⟩ →
    Within .pllRelockAttempt f ∧ Within .sscApply f) ∧
  Within .pllRelock ⟨[.rc, .stand, .pwr, .out], [.clk, .rc, .xchk, .stand]⟩ ∧
  Within .pllFailed ⟨[], [.clk]⟩ ∧
  (∀ a, Within (.fineGateClose a) ⟨[.pwr], []⟩) ∧
  (∀ a b, Within (.clusterGateWrite a b) ⟨[.log, .mgmt, .nv, .sched, .comp, .out, .status], [.tally, .smb, .log,
    .gate, .replay]⟩) ∧
  (∀ a b, Within (.portGateWrite a b) ⟨[.log, .mgmt, .nv, .sched, .out, .status], [.tally, .smb, .log, .gate,
    .replay, .portStat]⟩) ∧
  (∀ a, Within (.railMeasure a) ⟨[.log, .mgmt, .pwr], [.smb, .log, .hw, .power, .railPower, .railVolt]⟩) ∧
  Within .capControl ⟨[.log, .mgmt, .pwr], [.smb, .log, .power]⟩ ∧
  Within .powerWindowEnd ⟨[.pwr], [.sec]⟩ ∧
  (∀ f : Foot, f = ⟨[.log, .mgmt, .nv, .stand, .pwr, .mem, .deck, .yard, .landing, .out, .status, .bytes], [.smb,
    .log, .hw, .cal, .therm, .start, .stand, .landing, .portStat]⟩ →
    (∀ a, Within (.thermalChange a) f) ∧ (∀ a, Within (.thermalTrip a) f)) ∧
  Within .hardwareTrip ⟨[.pwr, .out], []⟩ ∧
  Within .coolingHoldEnd ⟨[.pwr], [.smb, .therm]⟩ ∧
  (∀ f : List Part, f = [.log, .mgmt, .nv, .sched, .rc, .stand, .sec, .pwr, .mem, .chips, .dec, .intake, .tok,
    .comp, .grade, .deck, .yard, .lookout, .landing, .skd, .status, .bytes] →
    (∀ a, WithinParts (.powerOn a) f) ∧ (∀ a, WithinParts (.perstAssert a) f) ∧ WithinParts .watchdogExpiry f) ∧
  (∀ a b c, Within (.perstDeassert a b c) ⟨[.log, .mgmt, .sec, .pwr, .status], [.smb, .log, .start, .stand,
    .sec]⟩) ∧
  Within .functionLevelReset ⟨[.landing], []⟩ ∧
  (∀ a, Within (.pwrFailAssert a) ⟨[.mgmt, .nv, .stand, .pwr, .mem, .deck, .yard, .landing, .out, .status,
    .bytes], [.smb, .hw, .cal, .start, .stand, .landing, .portStat]⟩) ∧
  Within .pwrFailDeassert ⟨[.pwr], [.smb, .start]⟩

/-- For each of 22 commands of these chapters (Management: Tally, mailbox, SMBus, log, events, records), in every state
and with every operand: where it answers a next state, every part of State that its footprint does not name is
unchanged, and so is every entry of the dictionary in no object that its footprint names; the footprints are
written out in the statement, and name the part bytes only where a command may change a byte of the pools' memory.
Not here: blobEnd, mboxGo, which stand for a command or write of any kind and may change what that one may. -/
def Obligations.FramesOfManagement : Prop :=
  (∀ f : Foot, f = ⟨[.log, .mgmt, .out, .status], [.tally, .smb, .log]⟩ →
    (∀ a b c d e, Within (.tallyRead a b c d e) f) ∧ (∀ a b c, Within (.tallyMeta a b c) f)
    ∧ (∀ a b c d e, Within (.blobBegin a b c d e) f) ∧ (∀ a b c d, Within (.blobData a b c d) f)
    ∧ (∀ a b, Within (.blobAbort a b) f) ∧ (∀ a b, Within (.eventAck a b) f)) ∧
  (∀ a b, Within (.blobTransferTimeout a b) ⟨[.mgmt], []⟩) ∧
  (∀ a b c d, Within (.subscribe a b c d) ⟨[.log, .mgmt, .out, .status], [.tally, .smb, .log, .evt]⟩) ∧
  (∀ a, Within (.eventSend a) ⟨[.mgmt, .out], [.evt]⟩) ∧
  (∀ a b, Within (.eventResend a b) ⟨[.mgmt, .out], []⟩) ∧
  (∀ a b c d, Within (.smbSelect a b c d) ⟨[.mgmt], [.smb]⟩) ∧
  (∀ a, Within (.smbRead a) ⟨[.log, .mgmt, .out, .status], [.smb, .log]⟩) ∧
  (∀ f : Foot, f = ⟨[.out], [.smb]⟩ →
    (∀ a, Within (.smbStatus a) f) ∧ (∀ a, Within (.smbAlertResponse a) f)) ∧
  (∀ f : Foot, f = ⟨[.log, .mgmt, .nv, .sched, .out, .status], [.tally, .smb, .log, .gate, .replay]⟩ →
    (∀ a b, Within (.smbAlertClear a b) f) ∧ (∀ a b, Within (.logAckedWrite a b) f)) ∧
  (∀ a, Within (.logWindowClose a) ⟨[.log, .mgmt], []⟩) ∧
  Within .logMirrorWrite ⟨[.log, .nv], []⟩ ∧
  (∀ a, Within (.persistCommit a) ⟨[.mgmt, .nv, .out], []⟩) ∧
  Within .heartwoodUpdate ⟨[.mgmt, .nv], [.hw, .cal]⟩ ∧
  (∀ a b, Within (.mgmtLinkChange a b) ⟨[], [.mgmt]⟩) ∧
  (∀ a b c, Within (.ptpAnnounce a b c) ⟨[.rc], [.cal, .ptp]⟩)
end

