-- ==== Sys2Proof/Laws/Keep.lean ====
section
/-! SUPPORT. The relation that the frame lemmas of every operation are about: outside a set of zones (parts of State and
objects of the dictionary, numbered as the bits of a mask) nothing changes, and the invariant is kept. -/
namespace Sys2Proof.Laws
open Sys2Proof.Machine

/-- The bit of a part. -/
def partBit : Part → Nat
  | .dev => 0 | .log => 1 | .mgmt => 2 | .nv => 3 | .sched => 4 | .rc => 5 | .stand => 6 | .sec => 7 | .pwr => 8 | .mem => 9
  | .chips => 10 | .dec => 11 | .intake => 12 | .tok => 13 | .comp => 14 | .grade => 15 | .deck => 16 | .yard => 17
  | .lookout => 18 | .landing => 19 | .skd => 20 | .out => 21 | .status => 22 | .freeCtr => 23 | .pending => 24 | .bytes => 126

def allBlocks : List Block :=
  [.ident, .cap, .mask, .mgmt, .tally, .smb, .log, .evt, .hw, .cal, .clk, .clkmon, .gate, .power, .railPower,
   .railVolt, .therm, .start, .rc, .ptp, .xchk, .launch, .stand, .syncComp, .lk, .lkCfg, .lkConst, .council,
   .memb, .lkCnt, .coppice, .sec, .secCtl, .sess, .ctxSum, .ctx, .attest, .scrub, .landing, .push, .yard,
   .geom, .bolts, .yardCfg, .cruise, .yardFault, .shard, .yardCtl, .tier, .layout, .pool, .arb, .wHbm, .wDdr,
   .wNand, .wChipper, .wCsram, .wLink, .quota, .chip, .chipCfg, .chipQ, .dec, .stream, .contexts, .island,
   .islandCtl, .intake, .group, .live, .tok, .vocab, .vocabDigest, .rollout, .stopset, .prep, .modelCfg,
   .kernel, .model, .grade, .buck, .season, .deck, .deckQuery, .sched, .seed, .permTest, .sect, .replay,
   .skd, .connCtl, .rel, .path, .rateCtl, .key, .portStat, .tsch, .kerf, .service, .subCtl, .fi]

/-- The bit of an object. -/
def blockBit (b : Block) : Nat := 25 + b.ctorIdx

theorem mem_allBlocks (b : Block) : b ∈ allBlocks := by cases b <;> decide

/-- From `s` to `t` only the zones of mask `m` may have changed, and the invariant is kept. -/
structure Keeps (m : Nat) (s t : State) : Prop where
  dev : t.dev = s.dev
  part : ∀ p, m.testBit (partBit p) = false → p.same s t
  entry : ∀ b, m.testBit (blockBit b) = false → ∀ k, 0x100000 ≤ k → b.has k → t.num k = s.num k ∧ t.blob k = s.blob k
  sound : s.Sound → t.Sound

/-- A set of zones within another. -/
structure Sub (a b : Nat) : Prop where
  eq : a ||| b = b

theorem Sub.bit {a b n : Nat} (h : Sub a b) (hb : b.testBit n = false) : a.testBit n = false := by
  have : (a ||| b).testBit n = b.testBit n := by rw [h.eq]
  rw [Nat.testBit_or, hb] at this
  simpa using this

theorem Sub.trans {a b c : Nat} (h : Sub a b) (g : Sub b c) : Sub a c := by
  refine ⟨?_⟩
  rw [← g.eq, ← Nat.lor_assoc, h.eq]

theorem Sub.of {a b c : Nat} (g : Sub b c) (h : Sub a b) : Sub a c := h.trans g

theorem Sub.on {a b n : Nat} (h : Sub a b) (ha : a.testBit n = true) : b.testBit n = true := by
  cases hb : b.testBit n with
  | true => rfl
  | false => rw [h.bit hb] at ha; cases ha

theorem Keeps.refl (m : Nat) (s : State) : Keeps m s s :=
  ⟨rfl, fun p _ => by cases p <;> first | rfl | exact fun _ _ => rfl, fun _ _ _ _ _ => ⟨rfl, rfl⟩, id⟩

theorem Part.same_trans {p : Part} {s t u : State} (h : p.same s t) (g : p.same t u) : p.same s u := by
  cases p <;> first | exact Eq.trans g h | exact fun a b => (g a b).trans (h a b)

theorem Keeps.trans {m : Nat} {s t u : State} (h : Keeps m s t) (g : Keeps m t u) : Keeps m s u :=
  ⟨g.dev.trans h.dev, fun p hp => Part.same_trans (h.part p hp) (g.part p hp),
   fun b hb k hk hh => ⟨(g.entry b hb k hk hh).1.trans (h.entry b hb k hk hh).1,
     (g.entry b hb k hk hh).2.trans (h.entry b hb k hk hh).2⟩, fun x => g.sound (h.sound x)⟩

theorem Keeps.mono {a m : Nat} {s t : State} (h : Keeps a s t) (g : Sub a m) : Keeps m s t :=
  ⟨h.dev, fun p hp => h.part p (g.bit hp), fun b hb => h.entry b (g.bit hb), h.sound⟩

/-! ### Results that carry a state -/

/-- The state of a result, where it has one, satisfies `P`. -/
def OnOk {ε : Type} (P : State → Prop) (r : Except ε State) : Prop := ∀ t, r = .ok t → P t
def OnSome (P : State → Prop) (r : Option State) : Prop := ∀ t, r = some t → P t
def OnNext (P : State → Prop) (r : Host.Outcome State Fault Refusal) : Prop := ∀ t, r = .next t → P t

theorem OnOk.ok {ε : Type} {P : State → Prop} {t : State} (h : P t) : OnOk (ε := ε) P (.ok t) := fun _ e => by cases e; exact h
theorem OnOk.error {ε : Type} {P : State → Prop} {c : ε} : OnOk P (.error c) := fun _ e => by cases e
theorem OnSome.some {P : State → Prop} {t : State} (h : P t) : OnSome P (some t) := fun _ e => by cases e; exact h
theorem OnSome.none {P : State → Prop} : OnSome P none := fun _ e => by cases e
theorem OnNext.next {P : State → Prop} {t : State} (h : P t) : OnNext P (.next t) := fun _ e => by cases e; exact h

theorem keep_ite {α : Type} {P : α → Prop} {c : Prop} [Decidable c] {a b : α} (h : P a) (g : P b) :
    P (if c then a else b) := by split <;> assumption

theorem keep_cond {α : Type} {P : α → Prop} {c : Bool} {a b : α} (h : P a) (g : P b) :
    P (if c = true then a else b) := by split <;> assumption

theorem keep_foldl_mem {α β : Type} {P : β → Prop} {f : β → α → β} {l : List α} {s : β} (h : P s)
    (g : ∀ t, ∀ a ∈ l, P t → P (f t a)) : P (l.foldl f s) := by
  induction l generalizing s with
  | nil => exact h
  | cons a l ih => exact ih (g s a (by simp) h) fun t b hb => g t b (by simp [hb])

theorem keep_cut {P : State → Prop} {Q : Prop} {x : State} (h : P x) (g : P x → Q) : Q := g h

/-- A fold keeps what each of its steps keeps. -/
theorem keep_foldl {α β : Type} {P : β → Prop} {f : β → α → β} {l : List α} {s : β} (h : P s)
    (g : ∀ t a, P t → P (f t a)) : P (l.foldl f s) := by
  induction l generalizing s with
  | nil => exact h
  | cons a l ih => exact ih (g s a h)

/-! ### The log keeps its bound -/

theorem keepLog_length (l : List LogEntry) : (keepLog l).length ≤ 1024 := by
  simp only [keepLog, List.length_drop]; omega

theorem updNewest_length (p : LogEntry → Bool) (f : LogEntry → LogEntry) (l : List LogEntry) :
    (updNewest p f l).length = l.length := by
  unfold updNewest
  simp only
  split <;> simp

/-! ### Updates of parts -/

theorem memory_arbs {v : Variant} {m : Memory} {l : List Arbiter} (h : m.wf v = true) :
    Memory.wf v ⟨m.pools, l⟩ = true := h

/-- A state written out from `t`: each part is `t`'s or is in the mask. -/
theorem Keeps.lit {M m : Nat} {s t : State}
    {log mgmt nv sched rc stand sec pwr mem chips dec intake tok comp grade deck yard lookout landing skd out status freeCtr
      pending} (h : Keeps m s t)
    (hm : Sub M m := by assumption)
    (hlog : log = t.log ∨ M.testBit 1 = true ∧ (t.log.entries.length ≤ 1024 → log.entries.length ≤ 1024) := by
      first | exact Or.inl (by with_reducible rfl) | exact Or.inr ⟨by decide +kernel, fun h => by with_reducible exact h⟩ | exact Or.inr ⟨by decide +kernel, fun _ => by with_reducible exact keepLog_length _⟩ | exact Or.inr ⟨by decide +kernel, fun _ => Nat.zero_le _⟩ | exact Or.inr ⟨by decide +kernel, fun h => by simp only [ErrorLog.allMirrored, updNewest_length, List.length_map]; exact h⟩)
    (h2 : mgmt = t.mgmt ∨ M.testBit 2 = true := by first | exact Or.inr (by decide +kernel) | exact Or.inl (by with_reducible rfl))
    (h3 : nv = t.nv ∨ M.testBit 3 = true := by first | exact Or.inr (by decide +kernel) | exact Or.inl (by with_reducible rfl))
    (h4 : sched = t.sched ∨ M.testBit 4 = true := by first | exact Or.inr (by decide +kernel) | exact Or.inl (by with_reducible rfl))
    (h5 : rc = t.rc ∨ M.testBit 5 = true := by first | exact Or.inr (by decide +kernel) | exact Or.inl (by with_reducible rfl))
    (h6 : stand = t.stand ∨ M.testBit 6 = true := by first | exact Or.inr (by decide +kernel) | exact Or.inl (by with_reducible rfl))
    (h7 : sec = t.sec ∨ M.testBit 7 = true := by first | exact Or.inr (by decide +kernel) | exact Or.inl (by with_reducible rfl))
    (h8 : pwr = t.pwr ∨ M.testBit 8 = true := by first | exact Or.inr (by decide +kernel) | exact Or.inl (by with_reducible rfl))
    (h9 : mem = t.mem ∨ M.testBit 9 = true ∧ (t.mem.wf t.dev.variant = true → mem.wf t.dev.variant = true) ∧
        (M.testBit 126 = true ∨ mem.pools = t.mem.pools) := by
      first | exact Or.inl (by with_reducible rfl) | exact Or.inr ⟨by decide +kernel, fun h => by with_unfolding_all exact memory_arbs h, Or.inr rfl⟩)
    (h10 : chips = t.chips ∨ M.testBit 10 = true := by first | exact Or.inr (by decide +kernel) | exact Or.inl (by with_reducible rfl))
    (h11 : dec = t.dec ∨ M.testBit 11 = true := by first | exact Or.inr (by decide +kernel) | exact Or.inl (by with_reducible rfl))
    (h12 : intake = t.intake ∨ M.testBit 12 = true := by first | exact Or.inr (by decide +kernel) | exact Or.inl (by with_reducible rfl))
    (h13 : tok = t.tok ∨ M.testBit 13 = true := by first | exact Or.inr (by decide +kernel) | exact Or.inl (by with_reducible rfl))
    (h14 : comp = t.comp ∨ M.testBit 14 = true := by first | exact Or.inr (by decide +kernel) | exact Or.inl (by with_reducible rfl))
    (h15 : grade = t.grade ∨ M.testBit 15 = true := by first | exact Or.inr (by decide +kernel) | exact Or.inl (by with_reducible rfl))
    (h16 : deck = t.deck ∨ M.testBit 16 = true := by first | exact Or.inr (by decide +kernel) | exact Or.inl (by with_reducible rfl))
    (h17 : yard = t.yard ∨ M.testBit 17 = true := by first | exact Or.inr (by decide +kernel) | exact Or.inl (by with_reducible rfl))
    (h18 : lookout = t.lookout ∨ M.testBit 18 = true := by first | exact Or.inr (by decide +kernel) | exact Or.inl (by with_reducible rfl))
    (h19 : landing = t.landing ∨ M.testBit 19 = true := by first | exact Or.inr (by decide +kernel) | exact Or.inl (by with_reducible rfl))
    (h20 : skd = t.skd ∨ M.testBit 20 = true := by first | exact Or.inr (by decide +kernel) | exact Or.inl (by with_reducible rfl))
    (h21 : out = t.out ∨ M.testBit 21 = true := by first | exact Or.inr (by decide +kernel) | exact Or.inl (by with_reducible rfl))
    (h22 : status = t.status ∨ M.testBit 22 = true := by first | exact Or.inr (by decide +kernel) | exact Or.inl (by with_reducible rfl))
    (h23 : freeCtr = t.freeCtr ∨ M.testBit 23 = true := by first | exact Or.inr (by decide +kernel) | exact Or.inl (by with_reducible rfl))
    (h24 : pending = t.pending ∨ M.testBit 24 = true := by first | exact Or.inr (by decide +kernel) | exact Or.inl (by with_reducible rfl)) :
    Keeps m s ⟨t.dev, t.od, log, mgmt, nv, sched, rc, stand, sec, pwr, mem, chips, dec, intake, tok, comp, grade, deck, yard,
      lookout, landing, skd, out, status, freeCtr, pending⟩ := by
  refine h.trans (Keeps.mono (a := M) ⟨rfl, fun p hp => ?_, fun _ _ _ _ _ => ⟨rfl, rfl⟩, fun hs => ⟨hs.1, ?_, ?_⟩⟩ hm)
  · by_cases hb : p = .bytes
    · subst hb
      intro a b
      rcases h9 with e | ⟨_, _, e | e⟩
      · subst e; rfl
      · exact absurd e (by rw [show M.testBit 126 = false from hp]; decide)
      · show Sparse.get _ (Sparse.get _ mem.pools a).mem b = _
        rw [e]; rfl
    · cases p <;> simp only [partBit] at hp <;> simp_all [Part.same]
  · rcases hlog with e | e
    · rw [e]; exact hs.2.1
    · exact e.2 hs.2.1
  · rcases h9 with e | e
    · rw [e]; exact hs.2.2
    · exact e.2.1 hs.2.2

/-- The state of a pair. -/
theorem keep_of_snd {α : Type} {P : State → Prop} {r : α × State} {a : α} {t : State} (e : r = (a, t)) (h : P r.2) : P t := by
  subst e; exact h

theorem keep_of_fst {α : Type} {P : State → Prop} {r : State × α} {a : α} {t : State} (e : r = (t, a)) (h : P r.1) : P t := by
  subst e; exact h

theorem keep_of_snd2 {α β : Type} {P : State → Prop} {r : α × β × State} {a : α} {b : β} {t : State} (e : r = (a, b, t))
    (h : P r.2.2) : P t := by
  subst e; exact h

theorem keep_of_snd3 {α β γ : Type} {P : State → Prop} {r : α × β × γ × State} {a : α} {b : β} {c : γ} {t : State}
    (e : r = (a, b, c, t)) (h : P r.2.2.2) : P t := by
  subst e; exact h

/-- The value of an option or of a result satisfies `P`. -/
def OnSomeOf {α : Type} (P : α → Prop) (r : Option α) : Prop := ∀ x, r = some x → P x
def OnOkOf {ε α : Type} (P : α → Prop) (r : Except ε α) : Prop := ∀ x, r = .ok x → P x

theorem OnSomeOf.some {α : Type} {P : α → Prop} {x : α} (h : P x) : OnSomeOf P (some x) := fun _ e => by cases e; exact h
theorem OnSomeOf.none {α : Type} {P : α → Prop} : OnSomeOf P none := fun _ e => by cases e
theorem OnOkOf.ok {ε α : Type} {P : α → Prop} {x : α} (h : P x) : OnOkOf (ε := ε) P (.ok x) := fun _ e => by cases e; exact h
theorem OnOkOf.error {ε α : Type} {P : α → Prop} {c : ε} : OnOkOf P (.error c) := fun _ e => by cases e

theorem keep_of_some {P : State → Prop} {r : Option State} {t : State} (e : r = some t) (h : OnSome P r) : P t := h t e

theorem keep_of_next {P : State → Prop} {r : Host.Outcome State Fault Refusal} {t : State} (e : r = .next t) (h : OnNext P r) :
    P t := h t e

theorem keep_of_ok {ε : Type} {P : State → Prop} {r : Except ε State} {t : State} (e : r = .ok t) (h : OnOk P r) : P t := h t e

theorem keep_of_some_12 {α : Type} {P : State → Prop} {r : Option (α × State)} {a : α} {t : State} (e : r = some (a, t))
    (h : OnSomeOf (fun x => P x.2) r) : P t := h _ e

theorem keep_of_some_23 {α β : Type} {P : State → Prop} {r : Option (α × β × State)} {a : α} {b : β} {t : State}
    (e : r = some (a, b, t)) (h : OnSomeOf (fun x => P x.2.2) r) : P t := h _ e

theorem keep_of_ok_12 {ε α : Type} {P : State → Prop} {r : Except ε (α × State)} {a : α} {t : State} (e : r = .ok (a, t))
    (h : OnOkOf (fun x => P x.2) r) : P t := h _ e

theorem keep_of_ok_03 {ε α β : Type} {P : State → Prop} {r : Except ε (State × α × β)} {a : α} {b : β} {t : State}
    (e : r = .ok (t, a, b)) (h : OnOkOf (fun x => P x.1) r) : P t := h _ e

/-- A command's meaning: nothing on a stopped device. -/
theorem act_keeps {m : Nat} {s₀ s : State} {f : State → State} (h : Keeps m s₀ s) (hf : ∀ t, Keeps m s₀ t → Keeps m s₀ (f t)) :
    OnNext (Keeps m s₀) (act s f) :=
  OnNext.next (keep_ite (P := Keeps m s₀) h (hf s h))

theorem live_keeps {m : Nat} {s₀ s : State} {f : State → State} (h : Keeps m s₀ s) (hf : ∀ t, Keeps m s₀ t → Keeps m s₀ (f t)) :
    OnNext (Keeps m s₀) (live s f) :=
  act_keeps h fun _ ht => keep_ite (P := Keeps m s₀) ht (hf _ ht)

end Sys2Proof.Laws
end

