-- ==== Sys2Proof/Laws/Sparse.lean ====
section
/-! SUPPORT. Reads and writes of sparse maps: a write gives its key the value written, leaves every other key alone, and
keeps the canonical form. -/
namespace Sys2Proof.Laws
open Sys2Proof.Machine

variable {α : Type}

theorem sparse_get_insert (d : Nat → α) (l : List (Nat × α)) (k : Nat) (v : α) (j : Nat) :
    Sparse.get d (Sparse.insert l k v) j = if j = k then v else Sparse.get d l j := by
  induction l with
  | nil => simp only [Sparse.insert, Sparse.get, eq_comm]
  | cons p l ih =>
    obtain ⟨i, w⟩ := p
    simp only [Sparse.insert]
    split
    · simp only [Sparse.get, eq_comm]
    · split
      · next h =>
        subst h
        simp only [Sparse.get]
        rcases eq_or_ne j i with e | e
        · simp [e]
        · simp [e, Ne.symm e]
      · next h => simp only [Sparse.get, ih]; split <;> simp_all

theorem sparse_get_erase_ne (d : Nat → α) (l : List (Nat × α)) {k j : Nat} (h : j ≠ k) :
    Sparse.get d (Sparse.erase l k) j = Sparse.get d l j := by
  induction l with
  | nil => rfl
  | cons p l ih =>
    obtain ⟨i, w⟩ := p
    simp only [Sparse.erase]
    split
    · next e => subst e; simp [Sparse.get, Ne.symm h, ih]
    · simp only [Sparse.get, ih]

theorem sparse_get_set_ne [DecidableEq α] (d : Nat → α) (l : List (Nat × α)) {k j : Nat} (v : α) (h : j ≠ k) :
    Sparse.get d (Sparse.set d l k v) j = Sparse.get d l j := by
  unfold Sparse.set
  split
  · exact sparse_get_erase_ne d l h
  · rw [sparse_get_insert, if_neg h]

theorem rising_tail {o : Option Nat} {p : Nat × α} {l : List (Nat × α)} (h : Sparse.rising o (p :: l) = true) :
    Sparse.rising (some p.1) l = true := by
  cases o <;> simp_all [Sparse.rising]

theorem sparse_get_erase (d : Nat → α) (l : List (Nat × α)) (k : Nat) : Sparse.get d (Sparse.erase l k) k = d k := by
  induction l with
  | nil => rfl
  | cons p l ih =>
    obtain ⟨j, w⟩ := p
    simp only [Sparse.erase]
    split
    · exact ih
    · next e => simp only [Sparse.get, if_neg e]; exact ih

/-- What a key holds after a write. -/
theorem sparse_get_set [DecidableEq α] (d : Nat → α) (l : List (Nat × α)) (k : Nat) (v : α)
    (j : Nat) : Sparse.get d (Sparse.set d l k v) j = if j = k then v else Sparse.get d l j := by
  by_cases hj : j = k
  · subst hj
    simp only [if_pos]
    unfold Sparse.set
    split
    · next e => rw [sparse_get_erase, e]
    · rw [sparse_get_insert, if_pos rfl]
  · rw [if_neg hj, sparse_get_set_ne d l v hj]

theorem rising_lower {o : Option Nat} {i : Nat} {l : List (Nat × α)} (h : Sparse.rising (some i) l = true)
    (ho : ∀ j, o = some j → j ≤ i) : Sparse.rising o l = true := by
  cases l with
  | nil => cases o <;> rfl
  | cons p l =>
    cases o with
    | none => simp_all [Sparse.rising]
    | some j =>
      have := ho j rfl
      simp only [Sparse.rising, Bool.and_eq_true, decide_eq_true_eq] at h ⊢
      exact ⟨by omega, h.2⟩

theorem rising_erase {o : Option Nat} {l : List (Nat × α)} (h : Sparse.rising o l = true) (k : Nat) :
    Sparse.rising o (Sparse.erase l k) = true := by
  induction l generalizing o with
  | nil => exact h
  | cons p l ih =>
    have ht := rising_tail h
    obtain ⟨j, w⟩ := p
    simp only [Sparse.erase]
    split
    · refine ih (rising_lower ht fun i hi => ?_)
      subst hi; simp [Sparse.rising] at h; omega
    · cases o <;> simp_all [Sparse.rising]

theorem rising_insert {o : Option Nat} {l : List (Nat × α)} (h : Sparse.rising o l = true) (k : Nat) (v : α)
    (ho : ∀ j, o = some j → j < k) : Sparse.rising o (Sparse.insert l k v) = true := by
  induction l generalizing o with
  | nil => cases o <;> simp_all [Sparse.insert, Sparse.rising]
  | cons p l ih =>
    have ht := rising_tail h
    obtain ⟨j, w⟩ := p
    simp only [Sparse.insert]
    split
    · next hk => cases o <;> simp_all [Sparse.rising]
    · next hk =>
      split
      · next e => subst e; cases o <;> simp_all [Sparse.rising]
      · next e =>
        have := ih ht (fun i hi => by cases hi; simp; omega)
        cases o <;> simp_all [Sparse.rising]

theorem all_erase {q : Nat × α → Bool} {l : List (Nat × α)} (h : l.all q = true) (k : Nat) :
    (Sparse.erase l k).all q = true := by
  induction l with
  | nil => exact h
  | cons p l ih =>
    obtain ⟨j, w⟩ := p
    simp only [List.all_cons, Bool.and_eq_true] at h
    simp only [Sparse.erase]
    split
    · exact ih h.2
    · simp only [List.all_cons, Bool.and_eq_true]; exact ⟨h.1, ih h.2⟩

theorem all_insert {q : Nat × α → Bool} {l : List (Nat × α)} (h : l.all q = true) (k : Nat) (v : α)
    (hv : q (k, v) = true) : (Sparse.insert l k v).all q = true := by
  induction l with
  | nil => simp [Sparse.insert, hv]
  | cons p l ih =>
    obtain ⟨j, w⟩ := p
    simp only [List.all_cons, Bool.and_eq_true] at h
    simp only [Sparse.insert]
    split
    · simp [hv, h.1, h.2]
    · split
      · simp [hv, h.2]
      · simp [h.1, ih h.2]

/-- A write keeps the canonical form. -/
theorem sparse_set_wf [DecidableEq α] {d : Nat → α} {l : List (Nat × α)} (h : Sparse.wf d l = true) (k : Nat) (v : α) :
    Sparse.wf d (Sparse.set d l k v) = true := by
  simp only [Sparse.wf, Bool.and_eq_true] at h ⊢
  unfold Sparse.set
  split
  · exact ⟨rising_erase h.1 k, all_erase h.2 k⟩
  · next e => exact ⟨rising_insert h.1 k v (by simp), all_insert h.2 k v (by simp [e])⟩

end Sys2Proof.Laws
end

