-- ==== Sys2Proof/Laws/Ops.lean ====
section
/-! SUPPORT. What the named operations of Machine/Ops.lean change: the dictionary's registers, what is sent, the log and
the journal. -/
namespace Sys2Proof.Laws
open Sys2Proof.Machine

/-- No object outside the mask has an index from `lo` to `hi`. -/
def inside (M lo hi : Nat) : Bool :=
  allBlocks.all fun b => M.testBit (blockBit b) || decide (hi < b.range.1) || decide (b.range.2 < lo)

/-- A key that is no entry, or an entry of an object in the mask. -/
def OkKey (m k : Nat) : Prop := k < 0x100000 ∨ ∀ b, m.testBit (blockBit b) = false → ¬ b.has k

theorem OkKey.range {M m lo hi k : Nat} (hm : Sub M m) (h : inside M lo hi = true) (hlo : lo ≤ k / 256) (hhi : k / 256 ≤ hi) :
    OkKey m k := by
  refine Or.inr fun b hb hk => ?_
  have := List.all_eq_true.mp h b (mem_allBlocks b)
  rw [hm.bit hb] at this
  simp only [Bool.false_or, Bool.or_eq_true, decide_eq_true_eq] at this
  unfold Block.has at hk
  omega

theorem OkKey.lit {M m k : Nat} (hm : Sub M m) (h : inside M (k / 256) (k / 256) = true) : OkKey m k :=
  OkKey.range hm h (Nat.le_refl _) (Nat.le_refl _)

theorem OkKey.unit {M m count base i : Nat} (hm : Sub M m) (h : inside M (base / 256) (base / 256 + (count - 1)) = true) :
    OkKey m (unitKey count base i) := by
  unfold unitKey
  split
  · exact OkKey.range hm h (by omega) (by omega)
  · exact Or.inl (by decide)

theorem OkKey.run {M m count base n : Nat} (hm : Sub M m) (h : inside M (base / 256) ((base + (count - 1)) / 256) = true) :
    OkKey m (runKey count base n) := by
  unfold runKey
  split
  · exact OkKey.range hm h (by omega) (by omega)
  · exact Or.inl (by decide)

theorem OkKey.ne {m k : Nat} (h : OkKey m k) {b : Block} (hb : m.testBit (blockBit b) = false) {j : Nat}
    (hj : 0x100000 ≤ j) (hh : b.has j) : j ≠ k := by
  rintro rfl
  rcases h with h | h
  · omega
  · exact h b hb hh

/-! ### Reads after writes -/

@[simp] theorem num_touch (s : State) (k j : Nat) : (s.touch k).num j = s.num j := rfl
@[simp] theorem blob_touch (s : State) (k j : Nat) : (s.touch k).blob j = s.blob j := rfl

theorem num_setN_ne (s : State) {k j : Nat} (v : Nat) (h : j ≠ k) : (s.setN k v).num j = s.num j := by
  unfold State.setN
  split <;> exact sparse_get_set_ne _ _ v h

@[simp] theorem blob_setN (s : State) (k v j : Nat) : (s.setN k v).blob j = s.blob j := by
  unfold State.setN
  split <;> rfl

theorem blob_setB_ne (s : State) {k j : Nat} (v : Bytes) (h : j ≠ k) : (s.setB k v).blob j = s.blob j := by
  unfold State.setB
  split <;> exact sparse_get_set_ne _ _ v h

@[simp] theorem num_setB (s : State) (k : Nat) (v : Bytes) (j : Nat) : (s.setB k v).num j = s.num j := by
  unfold State.setB
  split <;> rfl

theorem num_setN (s : State) (k v j : Nat) :
    (s.setN k v).num j = if j = k then v else s.num j := by
  unfold State.setN
  split <;> exact sparse_get_set _ _ k v j

theorem blob_setB (s : State) (k : Nat) (v : Bytes) (j : Nat) :
    (s.setB k v).blob j = if j = k then v else s.blob j := by
  unfold State.setB
  split <;> exact sparse_get_set _ _ k v j

theorem canonical_touch {s : State} (h : s.od.Canonical s.dev.variant) (k : Nat) :
    (s.touch k).od.Canonical s.dev.variant :=
  ⟨h.1, h.2.1, sparse_set_wf h.2.2 _ _⟩

theorem canonical_setN {s : State} (h : s.od.Canonical s.dev.variant) (k v : Nat) :
    (s.setN k v).od.Canonical s.dev.variant := by
  unfold State.setN
  split
  · exact ⟨sparse_set_wf h.1 _ _, h.2.1, h.2.2⟩
  · exact ⟨sparse_set_wf h.1 _ _, h.2.1, sparse_set_wf h.2.2 _ _⟩

theorem canonical_setB {s : State} (h : s.od.Canonical s.dev.variant) (k : Nat) (v : Bytes) :
    (s.setB k v).od.Canonical s.dev.variant := by
  unfold State.setB
  split
  · exact ⟨h.1, sparse_set_wf h.2.1 _ _, h.2.2⟩
  · exact ⟨h.1, sparse_set_wf h.2.1 _ _, sparse_set_wf h.2.2 _ _⟩

/-- A write of an entry changes nothing but the register files. -/
theorem setN_dict (s : State) (k v : Nat) : ∃ od, s.setN k v = { s with od := od } := by
  unfold State.setN
  split
  · exact ⟨_, rfl⟩
  · exact ⟨_, by unfold State.touch; rfl⟩

theorem setB_dict (s : State) (k : Nat) (v : Bytes) : ∃ od, s.setB k v = { s with od := od } := by
  unfold State.setB
  split
  · exact ⟨_, rfl⟩
  · exact ⟨_, by unfold State.touch; rfl⟩

theorem same_dict (p : Part) (s : State) (od : OdFile) : p.same s { s with od := od } := by
  cases p <;> first | rfl | exact fun _ _ => rfl

/-! ### What each operation keeps -/

/-- A change of the dictionary's registers alone keeps all else. -/
theorem Keeps.dict {m : Nat} {t : State} {od : OdFile}
    (hv : t.od.Canonical t.dev.variant → od.Canonical t.dev.variant)
    (he : ∀ b, m.testBit (blockBit b) = false → ∀ k, 0x100000 ≤ k → b.has k →
      (⟨t.dev, od, t.log, t.mgmt, t.nv, t.sched, t.rc, t.stand, t.sec, t.pwr, t.mem, t.chips, t.dec, t.intake, t.tok, t.comp,
        t.grade, t.deck, t.yard, t.lookout, t.landing, t.skd, t.out, t.status, t.freeCtr, t.pending⟩ : State).num k = t.num k ∧
      (⟨t.dev, od, t.log, t.mgmt, t.nv, t.sched, t.rc, t.stand, t.sec, t.pwr, t.mem, t.chips, t.dec, t.intake, t.tok, t.comp,
        t.grade, t.deck, t.yard, t.lookout, t.landing, t.skd, t.out, t.status, t.freeCtr, t.pending⟩ : State).blob k = t.blob k) :
    Keeps m t ⟨t.dev, od, t.log, t.mgmt, t.nv, t.sched, t.rc, t.stand, t.sec, t.pwr, t.mem, t.chips, t.dec, t.intake, t.tok, t.comp,
      t.grade, t.deck, t.yard, t.lookout, t.landing, t.skd, t.out, t.status, t.freeCtr, t.pending⟩ :=
  ⟨rfl, fun p _ => by cases p <;> first | rfl | exact fun _ _ => rfl, he, fun hs => ⟨hv hs.1, hs.2⟩⟩

theorem touch_keeps {m : Nat} {s t : State} {k : Nat} (h : Keeps m s t) : Keeps m s (t.touch k) :=
  h.trans (Keeps.dict (fun hv => canonical_touch hv k) fun _ _ _ _ _ => ⟨rfl, rfl⟩)

theorem setN_keeps {m : Nat} {s t : State} {k v : Nat} (h : Keeps m s t)
    (hk : OkKey m k := by
      first | assumption | exact OkKey.lit ‹Sub _ _› (by decide +kernel) | with_unfolding_all exact OkKey.unit ‹Sub _ _› (by decide +kernel) | with_unfolding_all exact OkKey.run ‹Sub _ _› (by decide +kernel) | (split <;> exact OkKey.lit ‹Sub _ _› (by decide +kernel))) : Keeps m s (t.setN k v) := by
  refine h.trans ⟨?_, fun p _ => ?_, fun b hb j hj hh => ⟨num_setN_ne t v (hk.ne hb hj hh), blob_setN t k v j⟩, fun hs => ?_⟩
  · obtain ⟨od, e⟩ := setN_dict t k v
    rw [e]
  · obtain ⟨od, e⟩ := setN_dict t k v
    rw [e]; exact same_dict p t od
  · obtain ⟨od, e⟩ := setN_dict t k v
    have := canonical_setN hs.1 k v
    rw [e] at this ⊢
    exact ⟨this, hs.2⟩

theorem setB_keeps {m : Nat} {s t : State} {k : Nat} {v : Bytes} (h : Keeps m s t)
    (hk : OkKey m k := by
      first | assumption | exact OkKey.lit ‹Sub _ _› (by decide +kernel) | with_unfolding_all exact OkKey.unit ‹Sub _ _› (by decide +kernel) | with_unfolding_all exact OkKey.run ‹Sub _ _› (by decide +kernel) | (split <;> exact OkKey.lit ‹Sub _ _› (by decide +kernel))) :
    Keeps m s (t.setB k v) := by
  refine h.trans ⟨?_, fun p _ => ?_, fun b hb j hj hh => ⟨num_setB t k v j, blob_setB_ne t v (hk.ne hb hj hh)⟩, fun hs => ?_⟩
  · obtain ⟨od, e⟩ := setB_dict t k v
    rw [e]
  · obtain ⟨od, e⟩ := setB_dict t k v
    rw [e]; exact same_dict p t od
  · obtain ⟨od, e⟩ := setB_dict t k v
    have := canonical_setB hs.1 k v
    rw [e] at this ⊢
    exact ⟨this, hs.2⟩

theorem storeN_keeps {m : Nat} {s t : State} {k v : Nat} (h : Keeps m s t)
    (hk : OkKey m k := by
      first | assumption | exact OkKey.lit ‹Sub _ _› (by decide +kernel) | with_unfolding_all exact OkKey.unit ‹Sub _ _› (by decide +kernel) | with_unfolding_all exact OkKey.run ‹Sub _ _› (by decide +kernel) | (split <;> exact OkKey.lit ‹Sub _ _› (by decide +kernel))) : Keeps m s (t.storeN k v) :=
  h.trans ⟨rfl, fun p _ => by cases p <;> first | rfl | exact fun _ _ => rfl,
    fun _ hb _ hj hh => ⟨sparse_get_set_ne _ _ v (hk.ne hb hj hh), rfl⟩,
    fun hs => ⟨⟨sparse_set_wf hs.1.1 _ _, hs.1.2.1, sparse_set_wf hs.1.2.2 _ _⟩, hs.2⟩⟩

theorem storeB_keeps {m : Nat} {s t : State} {k : Nat} {v : Bytes} (h : Keeps m s t)
    (hk : OkKey m k := by
      first | assumption | exact OkKey.lit ‹Sub _ _› (by decide +kernel) | with_unfolding_all exact OkKey.unit ‹Sub _ _› (by decide +kernel) | with_unfolding_all exact OkKey.run ‹Sub _ _› (by decide +kernel) | (split <;> exact OkKey.lit ‹Sub _ _› (by decide +kernel))) :
    Keeps m s (t.storeB k v) :=
  h.trans ⟨rfl, fun p _ => by cases p <;> first | rfl | exact fun _ _ => rfl,
    fun _ hb _ hj hh => ⟨rfl, sparse_get_set_ne _ _ v (hk.ne hb hj hh)⟩,
    fun hs => ⟨⟨hs.1.1, sparse_set_wf hs.1.2.1 _ _, sparse_set_wf hs.1.2.2 _ _⟩, hs.2⟩⟩

theorem add_keeps {m : Nat} {s t : State} {k n : Nat} (h : Keeps m s t)
    (hk : OkKey m k := by
      first | assumption | exact OkKey.lit ‹Sub _ _› (by decide +kernel) | with_unfolding_all exact OkKey.unit ‹Sub _ _› (by decide +kernel) | with_unfolding_all exact OkKey.run ‹Sub _ _› (by decide +kernel) | (split <;> exact OkKey.lit ‹Sub _ _› (by decide +kernel))) : Keeps m s (t.add k n) :=
  setN_keeps h hk

theorem bump_keeps {m : Nat} {s t : State} {k : Nat} (h : Keeps m s t)
    (hk : OkKey m k := by
      first | assumption | exact OkKey.lit ‹Sub _ _› (by decide +kernel) | with_unfolding_all exact OkKey.unit ‹Sub _ _› (by decide +kernel) | with_unfolding_all exact OkKey.run ‹Sub _ _› (by decide +kernel) | (split <;> exact OkKey.lit ‹Sub _ _› (by decide +kernel))) : Keeps m s (t.bump k) :=
  setN_keeps h hk

theorem bump32_keeps {m : Nat} {s t : State} {k : Nat} (h : Keeps m s t)
    (hk : OkKey m k := by
      first | assumption | exact OkKey.lit ‹Sub _ _› (by decide +kernel) | with_unfolding_all exact OkKey.unit ‹Sub _ _› (by decide +kernel) | with_unfolding_all exact OkKey.run ‹Sub _ _› (by decide +kernel) | (split <;> exact OkKey.lit ‹Sub _ _› (by decide +kernel))) : Keeps m s (t.bump32 k) :=
  setN_keeps h hk

theorem bumpIf_keeps {m : Nat} {s t : State} {b : Bool} {k : Nat} (h : Keeps m s t)
    (hk : OkKey m k := by
      first | assumption | exact OkKey.lit ‹Sub _ _› (by decide +kernel) | with_unfolding_all exact OkKey.unit ‹Sub _ _› (by decide +kernel) | with_unfolding_all exact OkKey.run ‹Sub _ _› (by decide +kernel) | (split <;> exact OkKey.lit ‹Sub _ _› (by decide +kernel))) :
    Keeps m s (t.bumpIf b k) := by
  unfold State.bumpIf
  split
  · exact bump_keeps h hk
  · exact h

/-! ### The named operations -/

theorem emit_keeps {m : Nat} {s₀ s : State} {o : Out} (h : Keeps m s₀ s)
    (hm : Sub 0x200000 m := by first | assumption | exact Sub.of ‹Sub _ _› ⟨by decide +kernel⟩) :
    Keeps m s₀ (s.emit o) := by
  unfold State.emit
  exact Keeps.lit (M := 0x200000) h

theorem emits_keeps {m : Nat} {s₀ s : State} {o : List Out} (h : Keeps m s₀ s)
    (hm : Sub 0x200000 m := by first | assumption | exact Sub.of ‹Sub _ _› ⟨by decide +kernel⟩) :
    Keeps m s₀ (s.emits o) := by
  unfold State.emits
  exact Keeps.lit (M := 0x200000) h

theorem ends_keeps {m : Nat} {s₀ s : State} {c : Nat} (h : Keeps m s₀ s)
    (hm : Sub 0x400000 m := by first | assumption | exact Sub.of ‹Sub _ _› ⟨by decide +kernel⟩) :
    Keeps m s₀ (s.ends c) := by
  unfold State.ends
  exact Keeps.lit (M := 0x400000) h

theorem drawn_keeps {m : Nat} {s₀ s : State} (h : Keeps m s₀ s)
    (hm : Sub 0x800000 m := by first | assumption | exact Sub.of ‹Sub _ _› ⟨by decide +kernel⟩) :
    Keeps m s₀ (s.drawn) := by
  unfold State.drawn
  exact Keeps.lit (M := 0x800000) h

theorem result_keeps {m : Nat} {s₀ s : State} {c : Nat} {o : Out} (h : Keeps m s₀ s)
    (hm : Sub 0x1000000000200000 m := by first | assumption | exact Sub.of ‹Sub _ _› ⟨by decide +kernel⟩) :
    Keeps m s₀ (s.result c o) := by
  unfold State.result
  refine bumpIf_keeps ?_
  refine emit_keeps ?_
  exact h

theorem alert_keeps {m : Nat} {s₀ s : State} {b : Nat} (h : Keeps m s₀ s)
    (hm : Sub 0x40000000 m := by first | assumption | exact Sub.of ‹Sub _ _› ⟨by decide +kernel⟩) :
    Keeps m s₀ (s.alert b) := by
  unfold State.alert
  refine setN_keeps ?_
  exact h

theorem journal_keeps {m : Nat} {s₀ s : State} {a b : Nat} {r : Bool} {p : Bytes} (h : Keeps m s₀ s)
    (hm : Sub 0x20000000000000000000000000010 m := by first | assumption | exact Sub.of ‹Sub _ _› ⟨by decide +kernel⟩) :
    Keeps m s₀ (s.journal a b r p) := by
  unfold State.journal
  dsimp only
  repeat' with_reducible first | assumption | refine keep_ite (P := Keeps m s₀) ?_ ?_ | refine touch_keeps ?_ | refine bump_keeps ?_ | refine setN_keeps ?_ | refine Keeps.lit (M := 0x20000000000000000000000000010) ?_

theorem addEntry_keeps {m : Nat} {s₀ s : State} {e : LogEntry} (h : Keeps m s₀ s)
    (hm : Sub 0x40000006 m := by first | assumption | exact Sub.of ‹Sub _ _› ⟨by decide +kernel⟩) :
    Keeps m s₀ (s.addEntry e) := by
  unfold State.addEntry
  dsimp only
  repeat' with_reducible first | assumption | refine keep_ite (P := Keeps m s₀) ?_ ?_ | refine touch_keeps ?_ | refine bump_keeps ?_ | refine setN_keeps ?_ | refine alert_keeps ?_ | refine Keeps.lit (M := 0x40000006) ?_ (hlog := Or.inr ⟨by decide +kernel, fun _ => keepLog_length _⟩)

theorem coalesce_keeps {m : Nat} {s₀ s : State} {a c : Nat} {d : Bytes} {b : Bool} (h : Keeps m s₀ s)
    (hm : Sub 0x80000002 m := by first | assumption | exact Sub.of ‹Sub _ _› ⟨by decide +kernel⟩) :
    Keeps m s₀ (s.coalesce a c d b) := by
  unfold State.coalesce
  dsimp only
  repeat' with_reducible first | assumption | refine keep_ite (P := Keeps m s₀) ?_ ?_ | refine touch_keeps ?_ | refine bump_keeps ?_ | refine setN_keeps ?_ | refine Keeps.lit (M := 0x80000002) ?_ (hlog := Or.inr ⟨by decide +kernel, fun hl => by rw [updNewest_length]; exact hl⟩)

theorem storm_keeps {m : Nat} {s₀ s : State} {a c : Nat} {d : Bytes} (h : Keeps m s₀ s)
    (hm : Sub 0xc0000006 m := by first | assumption | exact Sub.of ‹Sub _ _› ⟨by decide +kernel⟩) :
    Keeps m s₀ (s.storm a c d) := by
  unfold State.storm
  dsimp only
  repeat' with_reducible first | assumption | refine keep_ite (P := Keeps m s₀) ?_ ?_ | refine touch_keeps ?_ | refine bump_keeps ?_ | refine setN_keeps ?_ | refine addEntry_keeps ?_ | refine Keeps.lit (M := 0xc0000006) ?_ (hlog := Or.inr ⟨by decide +kernel, fun hl => by rw [updNewest_length]; exact hl⟩)

theorem logOccurrence_keeps {m : Nat} {s₀ s : State} {a c x : Nat} {d : Bytes} {b : Bool} (h : Keeps m s₀ s)
    (hm : Sub 0xc0000006 m := by first | assumption | exact Sub.of ‹Sub _ _› ⟨by decide +kernel⟩) :
    Keeps m s₀ (s.logOccurrence a c b x d) := by
  unfold State.logOccurrence
  dsimp only
  split <;> (repeat' with_reducible first | assumption | refine keep_ite (P := Keeps m s₀) ?_ ?_ | refine touch_keeps ?_ | refine bump_keeps ?_ | refine setN_keeps ?_ | refine addEntry_keeps ?_ | refine coalesce_keeps ?_ | refine storm_keeps ?_)

theorem raise_keeps {m : Nat} {s₀ s : State} {c i x : Nat} {d : Bytes} (h : Keeps m s₀ s)
    (hm : Sub 0xc0000006 m := by first | assumption | exact Sub.of ‹Sub _ _› ⟨by decide +kernel⟩) :
    Keeps m s₀ (s.raise c i x d) := by
  unfold State.raise
  refine logOccurrence_keeps ?_
  exact h

theorem refuse_keeps {m : Nat} {s₀ s : State} {c i x : Nat} (h : Keeps m s₀ s)
    (hm : Sub 0xc0400006 m := by first | assumption | exact Sub.of ‹Sub _ _› ⟨by decide +kernel⟩) :
    Keeps m s₀ (s.refuse c i x) := by
  unfold State.refuse
  refine ends_keeps ?_
  refine logOccurrence_keeps ?_
  exact h

end Sys2Proof.Laws
end

