-- ==== Sys2Proof/Laws/KeepAccess.lean ====
section
/-! SUPPORT. What each operation of Machine/Access.lean changes: outside the zones of its mask it keeps everything, and it
keeps the invariant. -/
namespace Sys2Proof.Laws
open Sys2Proof.Machine
set_option Elab.async false
set_option linter.unreachableTactic false
set_option linter.unusedTactic false

theorem putSession_keeps {μ : Nat} {σ : State} {s : State} {x : Session} (hK : Keeps μ σ s)
    (hm : Sub 0x4 μ := by first | assumption | exact Sub.of ‹Sub _ _› ⟨by decide +kernel⟩) :
    Keeps μ σ (State.putSession s x) := by
  unfold State.putSession
  try dsimp only
  repeat' with_reducible first | assumption | refine keep_ite (P := Keeps μ σ) ?_ ?_ | (refine Keeps.lit (M := 0x4) ?_; first | assumption | refine keep_ite (P := Keeps μ σ) ?_ ?_) | refine OnOk.ok ?_ | exact OnOk.error | refine keep_ite (P := OnOk (Keeps μ σ)) ?_ ?_ | intro _ | split | dsimp only

theorem dropSession_keeps {μ : Nat} {σ : State} {s : State} {id : Nat} (hK : Keeps μ σ s)
    (hm : Sub 0x400000100000004 μ := by first | assumption | exact Sub.of ‹Sub _ _› ⟨by decide +kernel⟩) :
    Keeps μ σ (State.dropSession s id) := by
  unfold State.dropSession
  try dsimp only
  repeat' with_reducible first | assumption | refine setN_keeps ?_ | refine keep_ite (P := Keeps μ σ) ?_ ?_ | (refine Keeps.lit (M := 0x400000100000004) ?_; first | assumption | refine setN_keeps ?_ | refine keep_ite (P := Keeps μ σ) ?_ ?_) | refine OnOk.ok ?_ | exact OnOk.error | refine keep_ite (P := OnOk (Keeps μ σ)) ?_ ?_ | intro _ | split | dsimp only



theorem store_keeps {m : Nat} {s₀ : State} {s : State} {r : OdRow} {k : Nat} {v : Bytes} (h : Keeps m s₀ s)
    (hk : OkKey m k := by first | assumption | exact OkKey.lit ‹Sub _ _› (by decide +kernel) | with_unfolding_all exact OkKey.unit ‹Sub _ _› (by decide +kernel) | with_unfolding_all exact OkKey.run ‹Sub _ _› (by decide +kernel)) : Keeps m s₀ (s.store r k v) := by
  unfold State.store
  exact keep_ite (P := Keeps m s₀) (storeB_keeps h hk) (storeN_keeps h hk)

theorem markPersist_keeps {μ : Nat} {σ : State} {s : State} {idx : Nat} {k : Nat} (hK : Keeps μ σ s)
    (hm : Sub 0x8 μ := by first | assumption | exact Sub.of ‹Sub _ _› ⟨by decide +kernel⟩) :
    Keeps μ σ (State.markPersist s idx k) := by
  unfold State.markPersist
  try dsimp only
  repeat' with_reducible first | assumption | refine keep_ite (P := Keeps μ σ) ?_ ?_ | (refine Keeps.lit (M := 0x8) ?_; first | assumption | refine keep_ite (P := Keeps μ σ) ?_ ?_) | refine OnOk.ok ?_ | exact OnOk.error | refine keep_ite (P := OnOk (Keeps μ σ)) ?_ ?_ | intro _ | split | dsimp only

theorem journalWrite_keeps {μ : Nat} {σ : State} {s : State} {idx : Nat} {sub : Nat} {v : Bytes} (hK : Keeps μ σ s)
    (hm : Sub 0x20000000000000000000000000010 μ := by first | assumption | exact Sub.of ‹Sub _ _› ⟨by decide +kernel⟩) :
    Keeps μ σ (State.journalWrite s idx sub v) := by
  unfold State.journalWrite
  try dsimp only
  repeat' with_reducible first | assumption | refine journal_keeps ?_ | refine keep_ite (P := Keeps μ σ) ?_ ?_ | refine OnOk.ok ?_ | exact OnOk.error | refine keep_ite (P := OnOk (Keeps μ σ)) ?_ ?_ | intro _ | split | dsimp only

theorem accept_keeps {μ : Nat} {σ : State} {s : State} {r : OdRow} {idx : Nat} {sub : Nat} (hK : Keeps μ σ s)
    (hm : Sub 0x400008 μ := by first | assumption | exact Sub.of ‹Sub _ _› ⟨by decide +kernel⟩) :
    Keeps μ σ (State.accept s r idx sub) := by
  unfold State.accept
  try dsimp only
  repeat' with_reducible first | assumption | refine markPersist_keeps ?_ | refine ends_keeps ?_ | refine keep_ite (P := Keeps μ σ) ?_ ?_ | refine OnOk.ok ?_ | exact OnOk.error | refine keep_ite (P := OnOk (Keeps μ σ)) ?_ ?_ | intro _ | split | dsimp only

theorem refusedWrite_keeps {μ : Nat} {σ : State} {s : State} {idx : Nat} {sub : Nat} {c : Nat} (hK : Keeps μ σ s)
    (hm : Sub 0x20c0400006 μ := by first | assumption | exact Sub.of ‹Sub _ _› ⟨by decide +kernel⟩) :
    Keeps μ σ (State.refusedWrite s idx sub c) := by
  unfold State.refusedWrite
  try dsimp only
  repeat' with_reducible first | assumption | refine bump_keeps ?_ | refine refuse_keeps ?_ | refine keep_ite (P := Keeps μ σ) ?_ ?_ | refine OnOk.ok ?_ | exact OnOk.error | refine keep_ite (P := OnOk (Keeps μ σ)) ?_ ?_ | intro _ | split | dsimp only

theorem odWrite_keeps {m : Nat} {s₀ : State} {s : State} {who : Who} {idx : Nat} {sub : Nat} {v : Bytes}
    {apply : OdRow → State → Except Nat State} (h : Keeps m s₀ s)
    (ha : ∀ r t, Keeps m s₀ t → OnOk (Keeps m s₀) (apply r t))
    (hm : Sub 0x200000000000000000020c040001e m := by first | assumption | exact Sub.of ‹Sub _ _› ⟨by decide +kernel⟩) :
    Keeps m s₀ (s.odWrite who idx sub v apply) := by
  unfold State.odWrite
  split
  · refine refuse_keeps ?_
    exact h
  · split
    · refine refusedWrite_keeps ?_
      exact h
    · split
      · refine refuse_keeps ?_
        exact h
      · refine accept_keeps ?_
        exact ha _ _ (journalWrite_keeps h) _ ‹_›

theorem mboxDone_keeps {μ : Nat} {σ : State} {s : State} {rsp : Bytes} (hK : Keeps μ σ s)
    (hm : Sub 0x200004 μ := by first | assumption | exact Sub.of ‹Sub _ _› ⟨by decide +kernel⟩) :
    Keeps μ σ (State.mboxDone s rsp) := by
  unfold State.mboxDone
  try dsimp only
  repeat' with_reducible first | assumption | refine emit_keeps ?_ | refine keep_ite (P := Keeps μ σ) ?_ ?_ | (refine Keeps.lit (M := 0x200004) ?_; first | assumption | refine emit_keeps ?_ | refine keep_ite (P := Keeps μ σ) ?_ ?_) | refine OnOk.ok ?_ | exact OnOk.error | refine keep_ite (P := OnOk (Keeps μ σ)) ?_ ?_ | intro _ | split | dsimp only

theorem reply_keeps {μ : Nat} {σ : State} {s : State} {path : Nat} {addr : Nat} {port : Nat} {session : Nat} {reqId : Nat} {counter : Nat} {status : Nat} {secure : Bool} {body : Bytes} (hK : Keeps μ σ s)
    (hm : Sub 0x200004 μ := by first | assumption | exact Sub.of ‹Sub _ _› ⟨by decide +kernel⟩) :
    Keeps μ σ (State.reply s path addr port session reqId counter status secure body) := by
  unfold State.reply
  try dsimp only
  repeat' with_reducible first | assumption | refine emit_keeps ?_ | refine mboxDone_keeps ?_ | refine keep_ite (P := Keeps μ σ) ?_ ?_ | refine OnOk.ok ?_ | exact OnOk.error | refine keep_ite (P := OnOk (Keeps μ σ)) ?_ ?_ | intro _ | split | dsimp only

theorem answer_keeps {μ : Nat} {σ : State} {s : State} {h : TallyHdr} {secure : Bool} {body : Bytes} (hK : Keeps μ σ s)
    (hm : Sub 0x200004 μ := by first | assumption | exact Sub.of ‹Sub _ _› ⟨by decide +kernel⟩) :
    Keeps μ σ (State.answer s h secure body) := by
  unfold State.answer
  try dsimp only
  repeat' with_reducible first | assumption | refine reply_keeps ?_ | refine keep_ite (P := Keeps μ σ) ?_ ?_ | refine OnOk.ok ?_ | exact OnOk.error | refine keep_ite (P := OnOk (Keeps μ σ)) ?_ ?_ | intro _ | split | dsimp only

theorem request_keeps {m : Nat} {s₀ : State} {s : State} {h : TallyHdr} {open_ : Bool}
    {run : Who → State → State × Bytes × Option Nat} (h' : Keeps m s₀ s)
    (hr : ∀ w t, Keeps m s₀ t → Keeps m s₀ (run w t).1)
    (hm : Sub 0xe0600006 m := by first | assumption | exact Sub.of ‹Sub _ _› ⟨by decide +kernel⟩) :
    Keeps m s₀ (s.request h open_ run) := by
  unfold State.request
  try dsimp only
  repeat' with_reducible first | assumption | refine hr _ _ ?_ | refine answer_keeps ?_ | refine refuse_keeps ?_ | refine ends_keeps ?_ | refine bump_keeps ?_ | refine putSession_keeps ?_ | refine keep_ite (P := Keeps m s₀) ?_ ?_ | (refine Keeps.lit (M := 0xe0600006) ?_; first | assumption | refine putSession_keeps ?_ | refine hr _ _ ?_) | split

theorem writeVia_keeps {m : Nat} {s₀ : State} {s : State} {via : Via} {idx : Nat} {sub : Nat} {v : Bytes}
    {apply : OdRow → State → Except Nat State} (h : Keeps m s₀ s)
    (ha : ∀ r t, Keeps m s₀ t → OnOk (Keeps m s₀) (apply r t))
    (hm : Sub 0x200000000000000000020e060001e m := by first | assumption | exact Sub.of ‹Sub _ _› ⟨by decide +kernel⟩) :
    Keeps m s₀ (s.writeVia via idx sub v apply) := by
  unfold State.writeVia
  split
  · try dsimp only
    refine keep_ite (P := Keeps m s₀) ?_ ?_
    · refine bump_keeps ?_
      exact h
    · refine Keeps.lit (M := 0x200000000000000000020e060001e) ?_
      exact odWrite_keeps h ha
  · refine request_keeps h fun w t ht => ?_
    exact odWrite_keeps ht ha

end Sys2Proof.Laws
end

