-- ==== Sys2Proof/Laws/KeepAttest.lean ====
section
/-! SUPPORT. What each operation of Machine/Attest.lean changes: outside the zones of its mask it keeps everything, and it
keeps the invariant. -/
namespace Sys2Proof.Laws
open Sys2Proof.Machine
set_option Elab.async false
set_option linter.unreachableTactic false
set_option linter.unusedTactic false

theorem putCtx_keeps {μ : Nat} {σ : State} {s : State} {c : Nat} {x : Ctx} (hK : Keeps μ σ s)
    (hm : Sub 0x80 μ := by first | assumption | exact Sub.of ‹Sub _ _› ⟨by decide +kernel⟩) :
    Keeps μ σ (State.putCtx s c x) := by
  unfold State.putCtx
  try dsimp only
  repeat' with_reducible first | assumption | refine keep_ite (P := Keeps μ σ) ?_ ?_ | (refine Keeps.lit (M := 0x80) ?_; first | assumption | refine keep_ite (P := Keeps μ σ) ?_ ?_) | refine OnOk.ok ?_ | exact OnOk.error | refine keep_ite (P := OnOk (Keeps μ σ)) ?_ ?_ | intro _ | split | dsimp only

theorem logMeas_keeps {μ : Nat} {σ : State} {s : State} {kind : Nat} {c : Nat} {digest : Bytes} (hK : Keeps μ σ s)
    (hm : Sub 0x2000000000000080 μ := by first | assumption | exact Sub.of ‹Sub _ _› ⟨by decide +kernel⟩) :
    Keeps μ σ (State.logMeas s kind c digest) := by
  unfold State.logMeas
  try dsimp only
  repeat' with_reducible first | assumption | refine setN_keeps ?_ | refine keep_ite (P := Keeps μ σ) ?_ ?_ | (refine Keeps.lit (M := 0x2000000000000080) ?_; first | assumption | refine setN_keeps ?_ | refine keep_ite (P := Keeps μ σ) ?_ ?_) | refine OnOk.ok ?_ | exact OnOk.error | refine keep_ite (P := OnOk (Keeps μ σ)) ?_ ?_ | intro _ | split | dsimp only

theorem measure_keeps {μ : Nat} {σ : State} {s : State} {c : Nat} {kind : Nat} {digest : Bytes} (hK : Keeps μ σ s)
    (hm : Sub 0x2000000000000080 μ := by first | assumption | exact Sub.of ‹Sub _ _› ⟨by decide +kernel⟩) :
    Keeps μ σ (State.measure s c kind digest) := by
  unfold State.measure
  try dsimp only
  repeat' with_reducible first | assumption | refine putCtx_keeps ?_ | refine logMeas_keeps ?_ | refine keep_ite (P := Keeps μ σ) ?_ ?_ | refine OnOk.ok ?_ | exact OnOk.error | refine keep_ite (P := OnOk (Keeps μ σ)) ?_ ?_ | intro _ | split | dsimp only

end Sys2Proof.Laws
end

