-- ==== Sys2Proof/Laws/Memory.lean ====
section
/-! SUPPORT. The memories' canonical form: every operation on a pool, on a buffer's bytes, on tile memory and on the
clusters' memories keeps it. -/
namespace Sys2Proof.Laws
open Sys2Proof.Machine

/-- What a pool's blocks hold is in canonical form. -/
def Clean (p : Pool) : Prop := Sparse.wf (fun _ => 0) p.mem = true

theorem memory_wf_pools {v : Variant} {m : Memory} (h : m.wf v = true) :
    Sparse.wf (fun p => Pool.ofBlocks (v.poolBlocks p)) m.pools = true ∧ ∀ p ∈ m.pools, Clean p.2 := by
  simpa only [Clean, Memory.wf, Bool.and_eq_true, List.all_eq_true] using h

/-- The pool that a key holds is clean where the listed ones and the defaults are. -/
theorem clean_get {d : Nat → Pool} {l : List (Nat × Pool)} (hd : ∀ k, Clean (d k)) (h : ∀ p ∈ l, Clean p.2) (k : Nat) :
    Clean (Sparse.get d l k) := by
  induction l with
  | nil => exact hd k
  | cons p l ih =>
    obtain ⟨j, q⟩ := p
    simp only [Sparse.get]
    split
    · exact h (j, q) (by simp)
    · exact ih fun p hp => h p (by simp [hp])

/-- Every pool of a sound state holds its bytes in canonical form. -/
theorem pool_clean {s : State} (h : s.Sound) (p : Nat) : Clean (s.pool p) :=
  clean_get (d := fun p => Pool.ofBlocks (s.dev.variant.poolBlocks p)) (fun _ => rfl) (memory_wf_pools h.2.2).2 p

/-- A pool that is put keeps the canonical form where it is clean. -/
theorem memory_put {v : Variant} {m : Memory} {p : Nat} {q : Pool} (h : m.wf v = true) (hq : Clean q) :
    Memory.wf v { m with pools := Sparse.set (fun p => Pool.ofBlocks (v.poolBlocks p)) m.pools p q } = true := by
  obtain ⟨h1, h2⟩ := memory_wf_pools h
  have h3 := sparse_set_wf h1 p q
  simp only [Memory.wf, Bool.and_eq_true]
  refine ⟨h3, ?_⟩
  unfold Sparse.set
  have h2' : m.pools.all (fun p => Sparse.wf (fun _ => 0) p.2.mem) = true := by
    simp only [List.all_eq_true]; exact h2
  split
  · exact all_erase h2' p
  · exact all_insert h2' p q hq

theorem memory_loseTier0 {v : Variant} {m : Memory} (h : m.wf v = true) : (m.loseTier0 v).wf v = true := by
  have go : ∀ (l k : List (Nat × Pool)), Memory.wf v { m with pools := k } = true →
      Memory.wf v { m with pools := l.foldl (fun l p => if p.1 ≤ 7 then
        Sparse.set (fun p => Pool.ofBlocks (v.poolBlocks p)) l p.1 { p.2 with mem := [] } else l) k } = true := by
    intro l
    induction l with
    | nil => exact fun _ h => h
    | cons p l ih =>
      intro k hk
      refine ih _ ?_
      dsimp only
      split
      · exact memory_put (m := { m with pools := k }) hk rfl
      · exact hk
  exact go _ _ h

/-- Taking blocks changes no byte. -/
theorem take1_mem (p : Pool) : p.take1.2.mem = p.mem := by unfold Pool.take1; split <;> rfl
theorem take_mem (n : Nat) (p : Pool) : (Pool.take n p).2.mem = p.mem := by
  induction n generalizing p with
  | zero => rfl
  | succ n ih => unfold Pool.take; exact (ih _).trans (take1_mem p)

theorem taken_mem {p : Pool} {n : Nat} {l : List Nat} {q : Pool} (e : Pool.take n p = (l, q)) : q.mem = p.mem := by
  rw [← show (Pool.take n p).2 = q from congrArg Prod.snd e]; exact take_mem n p

/-- A pool put with the bytes it had leaves every byte of every pool. -/
theorem bytes_put {s : State} {p : Nat} {q : Pool} (hq : q.mem = (s.pool p).mem) (j k : Nat) :
    State.byteAt { s with mem := { s.mem with
      pools := Sparse.set (fun p => Pool.ofBlocks (s.dev.variant.poolBlocks p)) s.mem.pools p q } } j k = s.byteAt j k := by
  unfold State.byteAt State.pool
  dsimp only
  by_cases h : j = p
  · subst h; rw [sparse_get_set, if_pos rfl, hq]; rfl
  · rw [sparse_get_set_ne _ _ _ h]

theorem clean_take {p : Pool} {n : Nat} {l : List Nat} {q : Pool} (e : Pool.take n p = (l, q)) (h : Clean p) : Clean q := by
  have := take_mem n p
  rw [e] at this
  unfold Clean; rw [this]; exact h

theorem clean_taken {p : Pool} {n : Nat} (h : Clean p) : Clean (Pool.take n p).2 := clean_take rfl h

theorem clean_setBuf {p : Pool} {b : Buf} (h : Clean p) : Clean (p.setBuf b) := h

theorem clean_store {place : Nat → Nat} {v : Bytes} {x : Nat} {m : List (Nat × Byte)}
    (h : Sparse.wf (fun _ => (0 : Byte)) m = true) : Sparse.wf (fun _ => (0 : Byte)) (storeBytes place x v m) = true := by
  induction v generalizing x m with
  | nil => exact h
  | cons b v ih => exact ih (sparse_set_wf h _ _)

/-- What is left of rising keys is rising. -/
theorem rising_filter {α : Type} {o : Option Nat} {l : List (Nat × α)} (h : Sparse.rising o l = true) (q : Nat × α → Bool) :
    Sparse.rising o (l.filter q) = true := by
  induction l generalizing o with
  | nil => exact h
  | cons p l ih =>
    have ht := rising_tail h
    simp only [List.filter_cons]
    split
    · have := ih ht
      cases o <;> simp_all [Sparse.rising]
    · refine ih (rising_lower ht fun i hi => ?_)
      subst hi; simp [Sparse.rising] at h; omega

theorem wf_filter {α : Type} [DecidableEq α] {d : Nat → α} {l : List (Nat × α)} (h : Sparse.wf d l = true) (q : Nat × α → Bool) :
    Sparse.wf d (l.filter q) = true := by
  simp only [Sparse.wf, Bool.and_eq_true, List.all_eq_true] at h ⊢
  exact ⟨rising_filter h.1 q, fun p hp => h.2 p (List.mem_filter.mp hp).1⟩

theorem clean_returnBlock {n : Nat} {p : Pool} (h : Clean p) (b : Nat) : Clean (Pool.returnBlock n p b) := by
  have h1 : Clean (if poolScrubbed n then
      { p with mem := scrub (b * poolBlockBytes n) ((b + 1) * poolBlockBytes n) p.mem } else p) := by
    split
    · exact wf_filter h _
    · exact h
  unfold Pool.returnBlock
  dsimp only
  generalize (if poolScrubbed n = true then
      { p with mem := scrub (b * poolBlockBytes n) ((b + 1) * poolBlockBytes n) p.mem } else p) = r at h1 ⊢
  split
  · exact h1
  · exact h1

theorem clean_return {n : Nat} {l : List Nat} {p : Pool} (h : Clean p) : Clean (l.foldl (Pool.returnBlock n) p) := by
  induction l generalizing p with
  | nil => exact h
  | cons b l ih => exact ih (clean_returnBlock h b)

/-- Bytes stored in tile memory or a cluster's memory keep the canonical form. -/
theorem writeMem_wf {m : List (Nat × Byte)} (h : Sparse.wf (fun _ => (0 : Byte)) m = true) (a : Nat) (b : Bytes) :
    Sparse.wf (fun _ => (0 : Byte)) (writeMem m a b) = true := by
  unfold writeMem
  generalize b.zip (List.range b.length) = l
  induction l generalizing m with
  | nil => exact h
  | cons p l ih => exact ih (sparse_set_wf h _ _)

/-- The memory of the state after reset. -/
theorem reset_memory (v : Variant) : State.reset.mem.wf v = true := rfl

end Sys2Proof.Laws
end

