-- ==== Sys2Proof/Laws/KeepPools.lean ====
section
/-! SUPPORT. What each operation of Machine/Pools.lean changes: outside the zones of its mask it keeps everything, and it
keeps the invariant. -/
namespace Sys2Proof.Laws
open Sys2Proof.Machine
set_option Elab.async false
set_option linter.unreachableTactic false
set_option linter.unusedTactic false

theorem putPool_keeps {μ : Nat} {σ : State} {s : State} {p : Nat} {q : Pool} (hK : Keeps μ σ s)
    (hm : Sub 0x8000000000000000200 μ := by first | assumption | exact Sub.of ‹Sub _ _› ⟨by decide +kernel⟩)
    (hb : μ.testBit 126 = true ∨ q.mem = (s.pool p).mem := by
      first | exact Or.inl (Sub.on ‹Sub _ _› (by decide +kernel)) | (with_unfolding_all first | exact Or.inr rfl | exact Or.inr (take_mem _ _) | exact Or.inr (taken_mem ‹_›)))
    (hq : s.Sound → Clean q := by
      with_unfolding_all first | exact fun h => pool_clean h _ | exact fun h => clean_taken (pool_clean h _) | exact fun h => clean_take ‹_› (pool_clean h _) | exact fun h => clean_return (pool_clean h _) | exact fun h => clean_store (pool_clean h _) | exact fun _ => rfl) :
    Keeps μ σ (State.putPool s p q) := by
  have h0 : Keeps μ σ { s with mem := { s.mem with
      pools := Sparse.set (fun p => Pool.ofBlocks (s.dev.variant.poolBlocks p)) s.mem.pools p q } } :=
    hK.trans ⟨rfl, fun p' hp => by
        have := hm.bit hp
        cases p' <;> first
          | rfl
          | exact absurd this (by decide +kernel)
          | exact bytes_put (hb.resolve_left (by rw [show μ.testBit 126 = false from hp]; exact Bool.false_ne_true)),
      fun _ _ _ _ _ => ⟨rfl, rfl⟩, fun h => ⟨h.1, h.2.1, memory_put h.2.2 (hq h)⟩⟩
  unfold State.putPool
  dsimp only
  repeat' with_reducible first | exact h0 | refine setN_keeps ?_

theorem poolAnswer_keeps {μ : Nat} {σ : State} {s : State} {r : Requester} {code : Nat} {handle : Nat} {blocks : Nat} {owner : Nat} {ctx : Nat} (hK : Keeps μ σ s)
    (hm : Sub 0x600000 μ := by first | assumption | exact Sub.of ‹Sub _ _› ⟨by decide +kernel⟩) :
    Keeps μ σ (State.poolAnswer s r code handle blocks owner ctx) := by
  unfold State.poolAnswer
  try dsimp only
  repeat' with_reducible first | assumption | refine emit_keeps ?_ | refine ends_keeps ?_ | refine keep_ite (P := Keeps μ σ) ?_ ?_ | refine OnOk.ok ?_ | exact OnOk.error | refine keep_ite (P := OnOk (Keeps μ σ)) ?_ ?_ | intro _ | split | dsimp only

theorem poolRefuse_keeps {μ : Nat} {σ : State} {s : State} {r : Requester} {pool : Nat} {code : Nat} {detail : Bytes} (hK : Keeps μ σ s)
    (hm : Sub 0x80000000000c0600006 μ := by first | assumption | exact Sub.of ‹Sub _ _› ⟨by decide +kernel⟩) :
    Keeps μ σ (State.poolRefuse s r pool code detail) := by
  unfold State.poolRefuse
  try dsimp only
  repeat' with_reducible first | assumption | refine bump_keeps ?_ | refine logOccurrence_keeps ?_ | refine poolAnswer_keeps ?_ | refine keep_ite (P := Keeps μ σ) ?_ ?_ | refine OnOk.ok ?_ | exact OnOk.error | refine keep_ite (P := OnOk (Keeps μ σ)) ?_ ?_ | intro _ | split | dsimp only

theorem grantAlloc_keeps {μ : Nat} {σ : State} {s : State} {p : Nat} {w : PoolWait} (hK : Keeps μ σ s)
    (hm : Sub 0x8000000000000600200 μ := by first | assumption | exact Sub.of ‹Sub _ _› ⟨by decide +kernel⟩) :
    Keeps μ σ (State.grantAlloc s p w) := by
  unfold State.grantAlloc
  try dsimp only
  repeat' with_reducible first | assumption | refine putPool_keeps ?_ | refine poolAnswer_keeps ?_ | refine keep_ite (P := Keeps μ σ) ?_ ?_ | refine OnOk.ok ?_ | exact OnOk.error | refine keep_ite (P := OnOk (Keeps μ σ)) ?_ ?_ | intro _ | split | dsimp only

theorem grantExtend_keeps {μ : Nat} {σ : State} {s : State} {p : Nat} {w : PoolWait} {b : Buf} (hK : Keeps μ σ s)
    (hm : Sub 0x8000000000000600200 μ := by first | assumption | exact Sub.of ‹Sub _ _› ⟨by decide +kernel⟩) :
    Keeps μ σ (State.grantExtend s p w b) := by
  unfold State.grantExtend
  try dsimp only
  repeat' with_reducible first | assumption | refine putPool_keeps ?_ | refine poolAnswer_keeps ?_ | refine keep_ite (P := Keeps μ σ) ?_ ?_ | refine OnOk.ok ?_ | exact OnOk.error | refine keep_ite (P := OnOk (Keeps μ σ)) ?_ ?_ | intro _ | split | dsimp only

theorem joinWait_keeps {μ : Nat} {σ : State} {s : State} {p : Nat} {w : PoolWait} (hK : Keeps μ σ s)
    (hm : Sub 0x8000000000000000200 μ := by first | assumption | exact Sub.of ‹Sub _ _› ⟨by decide +kernel⟩) :
    Keeps μ σ (State.joinWait s p w) := by
  unfold State.joinWait
  try dsimp only
  repeat' with_reducible first | assumption | refine putPool_keeps ?_ | refine keep_ite (P := Keeps μ σ) ?_ ?_ | refine OnOk.ok ?_ | exact OnOk.error | refine keep_ite (P := OnOk (Keeps μ σ)) ?_ ?_ | intro _ | split | dsimp only

theorem allocBuf_keeps {μ : Nat} {σ : State} {s : State} {r : Requester} {c : PoolCmd} (hK : Keeps μ σ s)
    (hm : Sub 0x80000000000c0600206 μ := by first | assumption | exact Sub.of ‹Sub _ _› ⟨by decide +kernel⟩) :
    Keeps μ σ (State.allocBuf s r c) := by
  unfold State.allocBuf
  try dsimp only
  repeat' with_reducible first | assumption | refine poolRefuse_keeps ?_ | refine grantAlloc_keeps ?_ | refine joinWait_keeps ?_ | refine keep_ite (P := Keeps μ σ) ?_ ?_ | refine OnOk.ok ?_ | exact OnOk.error | refine keep_ite (P := OnOk (Keeps μ σ)) ?_ ?_ | intro _ | split | dsimp only

theorem execAlloc_keeps {μ : Nat} {σ : State} {req : Requester} {cmd : PoolCmd} {s : State} (hK : Keeps μ σ s)
    (hm : Sub 0x80000000000c0600206 μ := by first | assumption | exact Sub.of ‹Sub _ _› ⟨by decide +kernel⟩) :
    OnNext (Keeps μ σ) (execAlloc req cmd s) := by
  unfold execAlloc
  try dsimp only
  repeat' with_reducible first | assumption | refine allocBuf_keeps ?_ | refine OnNext.next ?_ | refine OnOk.ok ?_ | exact OnOk.error | refine OnSome.some ?_ | exact OnSome.none | refine OnSomeOf.some ?_ | exact OnSomeOf.none | refine OnOkOf.ok ?_ | exact OnOkOf.error | refine act_keeps ?_ ?_ | refine live_keeps ?_ ?_ | refine keep_ite (P := OnNext (Keeps μ σ)) ?_ ?_ | refine keep_ite (P := Keeps μ σ) ?_ ?_ | refine keep_ite (P := OnOk (Keeps μ σ)) ?_ ?_ | intro _ | split | dsimp only

theorem extendBuf_keeps {μ : Nat} {σ : State} {s : State} {r : Requester} {c : PoolCmd} (hK : Keeps μ σ s)
    (hm : Sub 0x80000000000c0600206 μ := by first | assumption | exact Sub.of ‹Sub _ _› ⟨by decide +kernel⟩) :
    Keeps μ σ (State.extendBuf s r c) := by
  unfold State.extendBuf
  try dsimp only
  repeat' with_reducible first | assumption | refine poolRefuse_keeps ?_ | refine grantExtend_keeps ?_ | refine joinWait_keeps ?_ | refine keep_ite (P := Keeps μ σ) ?_ ?_ | refine OnOk.ok ?_ | exact OnOk.error | refine keep_ite (P := OnOk (Keeps μ σ)) ?_ ?_ | intro _ | split | dsimp only

theorem execExtend_keeps {μ : Nat} {σ : State} {req : Requester} {cmd : PoolCmd} {s : State} (hK : Keeps μ σ s)
    (hm : Sub 0x80000000000c0600206 μ := by first | assumption | exact Sub.of ‹Sub _ _› ⟨by decide +kernel⟩) :
    OnNext (Keeps μ σ) (execExtend req cmd s) := by
  unfold execExtend
  try dsimp only
  repeat' with_reducible first | assumption | refine extendBuf_keeps ?_ | refine OnNext.next ?_ | refine OnOk.ok ?_ | exact OnOk.error | refine OnSome.some ?_ | exact OnSome.none | refine OnSomeOf.some ?_ | exact OnSomeOf.none | refine OnOkOf.ok ?_ | exact OnOkOf.error | refine act_keeps ?_ ?_ | refine live_keeps ?_ ?_ | refine keep_ite (P := OnNext (Keeps μ σ)) ?_ ?_ | refine keep_ite (P := Keeps μ σ) ?_ ?_ | refine keep_ite (P := OnOk (Keeps μ σ)) ?_ ?_ | intro _ | split | dsimp only

theorem passBuf_keeps {μ : Nat} {σ : State} {s : State} {r : Requester} {c : PoolCmd} (hK : Keeps μ σ s)
    (hm : Sub 0x80000000000c0600206 μ := by first | assumption | exact Sub.of ‹Sub _ _› ⟨by decide +kernel⟩) :
    Keeps μ σ (State.passBuf s r c) := by
  unfold State.passBuf
  try dsimp only
  repeat' with_reducible first | assumption | refine poolRefuse_keeps ?_ | refine putPool_keeps ?_ | refine poolAnswer_keeps ?_ | refine keep_ite (P := Keeps μ σ) ?_ ?_ | refine OnOk.ok ?_ | exact OnOk.error | refine keep_ite (P := OnOk (Keeps μ σ)) ?_ ?_ | intro _ | split | dsimp only

theorem execPass_keeps {μ : Nat} {σ : State} {req : Requester} {cmd : PoolCmd} {s : State} (hK : Keeps μ σ s)
    (hm : Sub 0x80000000000c0600206 μ := by first | assumption | exact Sub.of ‹Sub _ _› ⟨by decide +kernel⟩) :
    OnNext (Keeps μ σ) (execPass req cmd s) := by
  unfold execPass
  try dsimp only
  repeat' with_reducible first | assumption | refine passBuf_keeps ?_ | refine OnNext.next ?_ | refine OnOk.ok ?_ | exact OnOk.error | refine OnSome.some ?_ | exact OnSome.none | refine OnSomeOf.some ?_ | exact OnSomeOf.none | refine OnOkOf.ok ?_ | exact OnOkOf.error | refine act_keeps ?_ ?_ | refine live_keeps ?_ ?_ | refine keep_ite (P := OnNext (Keeps μ σ)) ?_ ?_ | refine keep_ite (P := Keeps μ σ) ?_ ?_ | refine keep_ite (P := OnOk (Keeps μ σ)) ?_ ?_ | intro _ | split | dsimp only

theorem releaseBuf_keeps {μ : Nat} {σ : State} {s : State} {p : Nat} {b : Buf} (hK : Keeps μ σ s)
    (hm : Sub 0x80000000000c0600206 μ := by first | assumption | exact Sub.of ‹Sub _ _› ⟨by decide +kernel⟩) :
    Keeps μ σ (State.releaseBuf s p b) := by
  unfold State.releaseBuf
  try dsimp only
  repeat' with_reducible first | assumption | refine putPool_keeps ?_ | refine poolRefuse_keeps ?_ | refine keep_ite (P := Keeps μ σ) ?_ ?_ | refine keep_foldl (P := Keeps μ σ) ?_ ?_ | refine OnOk.ok ?_ | exact OnOk.error | refine keep_ite (P := OnOk (Keeps μ σ)) ?_ ?_ | intro _ | split | dsimp only

theorem freeBuf_keeps {μ : Nat} {σ : State} {s : State} {r : Requester} {c : PoolCmd} (hK : Keeps μ σ s)
    (hm : Sub 0x80000000000c0600206 μ := by first | assumption | exact Sub.of ‹Sub _ _› ⟨by decide +kernel⟩) :
    Keeps μ σ (State.freeBuf s r c) := by
  unfold State.freeBuf
  try dsimp only
  repeat' with_reducible first | assumption | refine poolRefuse_keeps ?_ | refine releaseBuf_keeps ?_ | refine poolAnswer_keeps ?_ | refine keep_ite (P := Keeps μ σ) ?_ ?_ | refine OnOk.ok ?_ | exact OnOk.error | refine keep_ite (P := OnOk (Keeps μ σ)) ?_ ?_ | intro _ | split | dsimp only

theorem execFree_keeps {μ : Nat} {σ : State} {req : Requester} {cmd : PoolCmd} {s : State} (hK : Keeps μ σ s)
    (hm : Sub 0x80000000000c0600206 μ := by first | assumption | exact Sub.of ‹Sub _ _› ⟨by decide +kernel⟩) :
    OnNext (Keeps μ σ) (execFree req cmd s) := by
  unfold execFree
  try dsimp only
  repeat' with_reducible first | assumption | refine freeBuf_keeps ?_ | refine OnNext.next ?_ | refine OnOk.ok ?_ | exact OnOk.error | refine OnSome.some ?_ | exact OnSome.none | refine OnSomeOf.some ?_ | exact OnSomeOf.none | refine OnOkOf.ok ?_ | exact OnOkOf.error | refine act_keeps ?_ ?_ | refine live_keeps ?_ ?_ | refine keep_ite (P := OnNext (Keeps μ σ)) ?_ ?_ | refine keep_ite (P := Keeps μ σ) ?_ ?_ | refine keep_ite (P := OnOk (Keeps μ σ)) ?_ ?_ | intro _ | split | dsimp only

theorem queryBuf_keeps {μ : Nat} {σ : State} {s : State} {r : Requester} {c : PoolCmd} (hK : Keeps μ σ s)
    (hm : Sub 0x80000000000c0600006 μ := by first | assumption | exact Sub.of ‹Sub _ _› ⟨by decide +kernel⟩) :
    Keeps μ σ (State.queryBuf s r c) := by
  unfold State.queryBuf
  try dsimp only
  repeat' with_reducible first | assumption | refine poolRefuse_keeps ?_ | refine poolAnswer_keeps ?_ | refine keep_ite (P := Keeps μ σ) ?_ ?_ | refine OnOk.ok ?_ | exact OnOk.error | refine keep_ite (P := OnOk (Keeps μ σ)) ?_ ?_ | intro _ | split | dsimp only

theorem execQuery_keeps {μ : Nat} {σ : State} {req : Requester} {cmd : PoolCmd} {s : State} (hK : Keeps μ σ s)
    (hm : Sub 0x80000000000c0600006 μ := by first | assumption | exact Sub.of ‹Sub _ _› ⟨by decide +kernel⟩) :
    OnNext (Keeps μ σ) (execQuery req cmd s) := by
  unfold execQuery
  try dsimp only
  repeat' with_reducible first | assumption | refine queryBuf_keeps ?_ | refine OnNext.next ?_ | refine OnOk.ok ?_ | exact OnOk.error | refine OnSome.some ?_ | exact OnSome.none | refine OnSomeOf.some ?_ | exact OnSomeOf.none | refine OnOkOf.ok ?_ | exact OnOkOf.error | refine act_keeps ?_ ?_ | refine live_keeps ?_ ?_ | refine keep_ite (P := OnNext (Keeps μ σ)) ?_ ?_ | refine keep_ite (P := Keeps μ σ) ?_ ?_ | refine keep_ite (P := OnOk (Keeps μ σ)) ?_ ?_ | intro _ | split | dsimp only

theorem grantHead_keeps {μ : Nat} {σ : State} {s : State} {p : Nat} (hK : Keeps μ σ s)
    (hm : Sub 0x80000000000c0600206 μ := by first | assumption | exact Sub.of ‹Sub _ _› ⟨by decide +kernel⟩) :
    Keeps μ σ (State.grantHead s p) := by
  unfold State.grantHead
  try dsimp only
  repeat' with_reducible first | assumption | refine putPool_keeps ?_ | refine grantAlloc_keeps ?_ | refine grantExtend_keeps ?_ | refine poolRefuse_keeps ?_ | refine keep_ite (P := Keeps μ σ) ?_ ?_ | refine OnOk.ok ?_ | exact OnOk.error | refine keep_ite (P := OnOk (Keeps μ σ)) ?_ ?_ | intro _ | split | dsimp only

theorem execWaitGrant_keeps {μ : Nat} {σ : State} {pool : Nat} {s : State} (hK : Keeps μ σ s)
    (hm : Sub 0x80000000000c0600206 μ := by first | assumption | exact Sub.of ‹Sub _ _› ⟨by decide +kernel⟩) :
    OnNext (Keeps μ σ) (execWaitGrant pool s) := by
  unfold execWaitGrant
  try dsimp only
  repeat' with_reducible first | assumption | refine grantHead_keeps ?_ | refine OnNext.next ?_ | refine OnOk.ok ?_ | exact OnOk.error | refine OnSome.some ?_ | exact OnSome.none | refine OnSomeOf.some ?_ | exact OnSomeOf.none | refine OnOkOf.ok ?_ | exact OnOkOf.error | refine act_keeps ?_ ?_ | refine live_keeps ?_ ?_ | refine keep_ite (P := OnNext (Keeps μ σ)) ?_ ?_ | refine keep_ite (P := Keeps μ σ) ?_ ?_ | refine keep_ite (P := OnOk (Keeps μ σ)) ?_ ?_ | intro _ | split | dsimp only

theorem blocksReturn_keeps {μ : Nat} {σ : State} {s : State} {h : Nat} (hK : Keeps μ σ s)
    (hm : Sub 0x40000000000008000000000000000200 μ := by first | assumption | exact Sub.of ‹Sub _ _› ⟨by decide +kernel⟩) :
    Keeps μ σ (State.blocksReturn s h) := by
  unfold State.blocksReturn
  try dsimp only
  repeat' with_reducible first | assumption | refine putPool_keeps ?_ | refine keep_ite (P := Keeps μ σ) ?_ ?_ | refine keep_foldl (P := Keeps μ σ) ?_ ?_ | refine OnOk.ok ?_ | exact OnOk.error | refine keep_ite (P := OnOk (Keeps μ σ)) ?_ ?_ | intro _ | split | dsimp only

theorem execBlocksReturn_keeps {μ : Nat} {σ : State} {handle : Nat} {s : State} (hK : Keeps μ σ s)
    (hm : Sub 0x40000000000008000000000000000200 μ := by first | assumption | exact Sub.of ‹Sub _ _› ⟨by decide +kernel⟩) :
    OnNext (Keeps μ σ) (execBlocksReturn handle s) := by
  unfold execBlocksReturn
  try dsimp only
  repeat' with_reducible first | assumption | refine blocksReturn_keeps ?_ | refine OnNext.next ?_ | refine OnOk.ok ?_ | exact OnOk.error | refine OnSome.some ?_ | exact OnSome.none | refine OnSomeOf.some ?_ | exact OnSomeOf.none | refine OnOkOf.ok ?_ | exact OnOkOf.error | refine act_keeps ?_ ?_ | refine live_keeps ?_ ?_ | refine keep_ite (P := OnNext (Keeps μ σ)) ?_ ?_ | refine keep_ite (P := Keeps μ σ) ?_ ?_ | refine keep_ite (P := OnOk (Keeps μ σ)) ?_ ?_ | intro _ | split | dsimp only

theorem bufWrite_keeps {μ : Nat} {σ : State} {s : State} {h : Nat} {off : Nat} {v : Bytes} (hK : Keeps μ σ s)
    (hm : Sub 0x40000000000008000000000000000200 μ := by first | assumption | exact Sub.of ‹Sub _ _› ⟨by decide +kernel⟩) :
    Keeps μ σ (State.bufWrite s h off v) := by
  unfold State.bufWrite
  try dsimp only
  repeat' with_reducible first | assumption | refine putPool_keeps ?_ | refine keep_ite (P := Keeps μ σ) ?_ ?_ | refine OnOk.ok ?_ | exact OnOk.error | refine keep_ite (P := OnOk (Keeps μ σ)) ?_ ?_ | intro _ | split | dsimp only

theorem bufFlight_keeps {μ : Nat} {σ : State} {s : State} {h : Nat} {up : Bool} (hK : Keeps μ σ s)
    (hm : Sub 0x8000000000000000200 μ := by first | assumption | exact Sub.of ‹Sub _ _› ⟨by decide +kernel⟩) :
    Keeps μ σ (State.bufFlight s h up) := by
  unfold State.bufFlight
  try dsimp only
  repeat' with_reducible first | assumption | refine putPool_keeps ?_ | refine keep_ite (P := Keeps μ σ) ?_ ?_ | refine OnOk.ok ?_ | exact OnOk.error | refine keep_ite (P := OnOk (Keeps μ σ)) ?_ ?_ | intro _ | split | dsimp only

theorem unitAlloc_keeps {μ : Nat} {σ : State} {s : State} {id : Nat} {ctx : Option Nat} {p : Nat} {bytes : Nat} (hK : Keeps μ σ s)
    (hm : Sub 0x8000000000000000200 μ := by first | assumption | exact Sub.of ‹Sub _ _› ⟨by decide +kernel⟩) :
    OnSomeOf (fun x => Keeps μ σ x.2) (State.unitAlloc s id ctx p bytes) := by
  unfold State.unitAlloc
  try dsimp only
  repeat' with_reducible first | assumption | refine putPool_keeps ?_ | refine OnNext.next ?_ | refine OnOk.ok ?_ | exact OnOk.error | refine OnSome.some ?_ | exact OnSome.none | refine OnSomeOf.some ?_ | exact OnSomeOf.none | refine OnOkOf.ok ?_ | exact OnOkOf.error | refine act_keeps ?_ ?_ | refine live_keeps ?_ ?_ | refine keep_ite (P := OnSomeOf (fun x => Keeps μ σ x.2)) ?_ ?_ | refine keep_ite (P := Keeps μ σ) ?_ ?_ | refine keep_ite (P := OnOk (Keeps μ σ)) ?_ ?_ | intro _ | split | dsimp only

theorem unitFree_keeps {μ : Nat} {σ : State} {s : State} {h : Nat} (hK : Keeps μ σ s)
    (hm : Sub 0x80000000000c0600206 μ := by first | assumption | exact Sub.of ‹Sub _ _› ⟨by decide +kernel⟩) :
    Keeps μ σ (State.unitFree s h) := by
  unfold State.unitFree
  try dsimp only
  repeat' with_reducible first | assumption | refine releaseBuf_keeps ?_ | refine keep_ite (P := Keeps μ σ) ?_ ?_ | refine OnOk.ok ?_ | exact OnOk.error | refine keep_ite (P := OnOk (Keeps μ σ)) ?_ ?_ | intro _ | split | dsimp only

theorem unitPass_keeps {μ : Nat} {σ : State} {s : State} {h : Nat} {owner : Nat} (hK : Keeps μ σ s)
    (hm : Sub 0x8000000000000000200 μ := by first | assumption | exact Sub.of ‹Sub _ _› ⟨by decide +kernel⟩) :
    Keeps μ σ (State.unitPass s h owner) := by
  unfold State.unitPass
  try dsimp only
  repeat' with_reducible first | assumption | refine putPool_keeps ?_ | refine keep_ite (P := Keeps μ σ) ?_ ?_ | refine OnOk.ok ?_ | exact OnOk.error | refine keep_ite (P := OnOk (Keeps μ σ)) ?_ ?_ | intro _ | split | dsimp only

theorem freeContextIn_keeps {μ : Nat} {σ : State} {s : State} {c : Nat} {p : Nat} (hK : Keeps μ σ s)
    (hm : Sub 0x8000000000000600200 μ := by first | assumption | exact Sub.of ‹Sub _ _› ⟨by decide +kernel⟩) :
    Keeps μ σ (State.freeContextIn s c p) := by
  unfold State.freeContextIn
  try dsimp only
  repeat' with_reducible first | assumption | refine putPool_keeps ?_ | refine poolAnswer_keeps ?_ | refine keep_ite (P := Keeps μ σ) ?_ ?_ | refine keep_foldl (P := Keeps μ σ) ?_ ?_ | refine OnOk.ok ?_ | exact OnOk.error | refine keep_ite (P := OnOk (Keeps μ σ)) ?_ ?_ | intro _ | split | dsimp only

theorem freeContext_keeps {μ : Nat} {σ : State} {s : State} {c : Nat} (hK : Keeps μ σ s)
    (hm : Sub 0x8000000000000600200 μ := by first | assumption | exact Sub.of ‹Sub _ _› ⟨by decide +kernel⟩) :
    Keeps μ σ (State.freeContext s c) := by
  unfold State.freeContext
  try dsimp only
  repeat' with_reducible first | assumption | refine freeContextIn_keeps ?_ | refine keep_ite (P := Keeps μ σ) ?_ ?_ | refine keep_foldl (P := Keeps μ σ) ?_ ?_ | refine OnOk.ok ?_ | exact OnOk.error | refine keep_ite (P := OnOk (Keeps μ σ)) ?_ ?_ | intro _ | split | dsimp only

theorem poolLeave_keeps {μ : Nat} {σ : State} {s : State} {c : Nat} (hK : Keeps μ σ s)
    (hm : Sub 0x8000000000000000200 μ := by first | assumption | exact Sub.of ‹Sub _ _› ⟨by decide +kernel⟩) :
    Keeps μ σ (State.poolLeave s c) := by
  unfold State.poolLeave
  try dsimp only
  repeat' with_reducible first | assumption | refine putPool_keeps ?_ | refine keep_ite (P := Keeps μ σ) ?_ ?_ | refine keep_foldl (P := Keeps μ σ) ?_ ?_ | refine OnOk.ok ?_ | exact OnOk.error | refine keep_ite (P := OnOk (Keeps μ σ)) ?_ ?_ | intro _ | split | dsimp only

theorem poolRejoin_keeps {μ : Nat} {σ : State} {s : State} {c : Nat} (hK : Keeps μ σ s)
    (hm : Sub 0x8000000000000000200 μ := by first | assumption | exact Sub.of ‹Sub _ _› ⟨by decide +kernel⟩) :
    Keeps μ σ (State.poolRejoin s c) := by
  unfold State.poolRejoin
  try dsimp only
  repeat' with_reducible first | assumption | refine putPool_keeps ?_ | refine keep_ite (P := Keeps μ σ) ?_ ?_ | refine keep_foldl (P := Keeps μ σ) ?_ ?_ | refine OnOk.ok ?_ | exact OnOk.error | refine keep_ite (P := OnOk (Keeps μ σ)) ?_ ?_ | intro _ | split | dsimp only

theorem execMemoryCorrected_keeps {μ : Nat} {σ : State} {tier : Nat} {s : State} (hK : Keeps μ σ s)
    (hm : Sub 0x2000000000000000000 μ := by first | assumption | exact Sub.of ‹Sub _ _› ⟨by decide +kernel⟩) :
    OnNext (Keeps μ σ) (execMemoryCorrected tier s) := by
  unfold execMemoryCorrected
  try dsimp only
  repeat' with_reducible first | assumption | refine bump_keeps ?_ | refine OnNext.next ?_ | refine OnOk.ok ?_ | exact OnOk.error | refine OnSome.some ?_ | exact OnSome.none | refine OnSomeOf.some ?_ | exact OnSomeOf.none | refine OnOkOf.ok ?_ | exact OnOkOf.error | refine act_keeps ?_ ?_ | refine live_keeps ?_ ?_ | refine keep_ite (P := OnNext (Keeps μ σ)) ?_ ?_ | refine keep_ite (P := Keeps μ σ) ?_ ?_ | refine keep_ite (P := OnOk (Keeps μ σ)) ?_ ?_ | intro _ | split | dsimp only

theorem uncorrectable_keeps {μ : Nat} {σ : State} {s : State} {p : Nat} {b : Nat} (hK : Keeps μ σ s)
    (hm : Sub 0xa0000000000c0000206 μ := by first | assumption | exact Sub.of ‹Sub _ _› ⟨by decide +kernel⟩) :
    Keeps μ σ (State.uncorrectable s p b) := by
  unfold State.uncorrectable
  try dsimp only
  repeat' with_reducible first | assumption | refine bump_keeps ?_ | refine raise_keeps ?_ | refine putPool_keeps ?_ | refine keep_ite (P := Keeps μ σ) ?_ ?_ | refine OnOk.ok ?_ | exact OnOk.error | refine keep_ite (P := OnOk (Keeps μ σ)) ?_ ?_ | intro _ | split | dsimp only

theorem execMemoryUncorrectable_keeps {μ : Nat} {σ : State} {pool : Nat} {block : Nat} {s : State} (hK : Keeps μ σ s)
    (hm : Sub 0xa0000000000c0000206 μ := by first | assumption | exact Sub.of ‹Sub _ _› ⟨by decide +kernel⟩) :
    OnNext (Keeps μ σ) (execMemoryUncorrectable pool block s) := by
  unfold execMemoryUncorrectable
  try dsimp only
  repeat' with_reducible first | assumption | refine uncorrectable_keeps ?_ | refine OnNext.next ?_ | refine OnOk.ok ?_ | exact OnOk.error | refine OnSome.some ?_ | exact OnSome.none | refine OnSomeOf.some ?_ | exact OnSomeOf.none | refine OnOkOf.ok ?_ | exact OnOkOf.error | refine act_keeps ?_ ?_ | refine live_keeps ?_ ?_ | refine keep_ite (P := OnNext (Keeps μ σ)) ?_ ?_ | refine keep_ite (P := Keeps μ σ) ?_ ?_ | refine keep_ite (P := OnOk (Keeps μ σ)) ?_ ?_ | intro _ | split | dsimp only

theorem putArb_keeps {μ : Nat} {σ : State} {s : State} {a : Arbiter} (hK : Keeps μ σ s)
    (hm : Sub 0x200 μ := by first | assumption | exact Sub.of ‹Sub _ _› ⟨by decide +kernel⟩) :
    Keeps μ σ (State.putArb s a) := by
  unfold State.putArb
  try dsimp only
  repeat' with_reducible first | assumption | refine keep_ite (P := Keeps μ σ) ?_ ?_ | (refine Keeps.lit (M := 0x200) ?_; first | assumption | refine keep_ite (P := Keeps μ σ) ?_ ?_) | refine OnOk.ok ?_ | exact OnOk.error | refine keep_ite (P := OnOk (Keeps μ σ)) ?_ ?_ | intro _ | split | dsimp only

theorem execArbiterCycle_keeps {μ : Nat} {σ : State} {kind : Nat} {inst : Nat} {reqs : List ArbReq} {launch : Bool} {portFree : Bool} {withdraw : Bool} {s : State} (hK : Keeps μ σ s)
    (hm : Sub 0x10000000000000200200 μ := by first | assumption | exact Sub.of ‹Sub _ _› ⟨by decide +kernel⟩) :
    OnNext (Keeps μ σ) (execArbiterCycle kind inst reqs launch portFree withdraw s) := by
  unfold execArbiterCycle
  try dsimp only
  repeat' with_reducible first | assumption | refine putArb_keeps ?_ | refine emit_keeps ?_ | refine bumpIf_keeps ?_ | refine bump_keeps ?_ | refine OnNext.next ?_ | refine OnOk.ok ?_ | exact OnOk.error | refine OnSome.some ?_ | exact OnSome.none | refine OnSomeOf.some ?_ | exact OnSomeOf.none | refine OnOkOf.ok ?_ | exact OnOkOf.error | refine act_keeps ?_ ?_ | refine live_keeps ?_ ?_ | refine keep_ite (P := OnNext (Keeps μ σ)) ?_ ?_ | refine keep_ite (P := Keeps μ σ) ?_ ?_ | refine keep_ite (P := OnOk (Keeps μ σ)) ?_ ?_ | intro _ | split | dsimp only

theorem execStarveIntervalReached_keeps {μ : Nat} {σ : State} {kind : Nat} {inst : Nat} {s : State} (hK : Keeps μ σ s)
    (hm : Sub 0x200 μ := by first | assumption | exact Sub.of ‹Sub _ _› ⟨by decide +kernel⟩) :
    OnNext (Keeps μ σ) (execStarveIntervalReached kind inst s) := by
  unfold execStarveIntervalReached
  try dsimp only
  repeat' with_reducible first | assumption | refine putArb_keeps ?_ | refine OnNext.next ?_ | refine OnOk.ok ?_ | exact OnOk.error | refine OnSome.some ?_ | exact OnSome.none | refine OnSomeOf.some ?_ | exact OnSomeOf.none | refine OnOkOf.ok ?_ | exact OnOkOf.error | refine act_keeps ?_ ?_ | refine live_keeps ?_ ?_ | refine keep_ite (P := OnNext (Keeps μ σ)) ?_ ?_ | refine keep_ite (P := Keeps μ σ) ?_ ?_ | refine keep_ite (P := OnOk (Keeps μ σ)) ?_ ?_ | intro _ | split | dsimp only

end Sys2Proof.Laws
end

