-- ==== Sys2Proof/Laws/KeepPowerOps.lean ====
section
/-! SUPPORT. What each operation of Machine/PowerOps.lean changes: outside the zones of its mask it keeps everything, and it
keeps the invariant. -/
namespace Sys2Proof.Laws
open Sys2Proof.Machine
set_option Elab.async false
set_option linter.unreachableTactic false
set_option linter.unusedTactic false

theorem putPwr_keeps {μ : Nat} {σ : State} {s : State} {p : Power} (hK : Keeps μ σ s)
    (hm : Sub 0x100 μ := by first | assumption | exact Sub.of ‹Sub _ _› ⟨by decide +kernel⟩) :
    Keeps μ σ (State.putPwr s p) := by
  unfold State.putPwr
  try dsimp only
  repeat' with_reducible first | assumption | refine keep_ite (P := Keeps μ σ) ?_ ?_ | (refine Keeps.lit (M := 0x100) ?_; first | assumption | refine keep_ite (P := Keeps μ σ) ?_ ?_) | refine OnOk.ok ?_ | exact OnOk.error | refine keep_ite (P := OnOk (Keeps μ σ)) ?_ ?_ | intro _ | split | dsimp only

theorem coolingRegs_keeps {μ : Nat} {σ : State} {s : State} (hK : Keeps μ σ s)
    (hm : Sub 0x20040000000 μ := by first | assumption | exact Sub.of ‹Sub _ _› ⟨by decide +kernel⟩) :
    Keeps μ σ (State.coolingRegs s) := by
  unfold State.coolingRegs
  try dsimp only
  repeat' with_reducible first | assumption | refine setN_keeps ?_ | refine alert_keeps ?_ | refine keep_ite (P := Keeps μ σ) ?_ ?_ | refine OnOk.ok ?_ | exact OnOk.error | refine keep_ite (P := OnOk (Keeps μ σ)) ?_ ?_ | intro _ | split | dsimp only

theorem holdupRegs_keeps {μ : Nat} {σ : State} {s : State} (hK : Keeps μ σ s)
    (hm : Sub 0x4000000000 μ := by first | assumption | exact Sub.of ‹Sub _ _› ⟨by decide +kernel⟩) :
    Keeps μ σ (State.holdupRegs s) := by
  unfold State.holdupRegs
  try dsimp only
  repeat' with_reducible first | assumption | refine setN_keeps ?_ | refine keep_ite (P := Keeps μ σ) ?_ ?_ | refine OnOk.ok ?_ | exact OnOk.error | refine keep_ite (P := OnOk (Keeps μ σ)) ?_ ?_ | intro _ | split | dsimp only

theorem openClusters_keeps {μ : Nat} {σ : State} {s : State} {mask : Nat} (hK : Keeps μ σ s)
    (hm : Sub 0x2000000000 μ := by first | assumption | exact Sub.of ‹Sub _ _› ⟨by decide +kernel⟩) :
    Keeps μ σ (State.openClusters s mask) := by
  unfold State.openClusters
  try dsimp only
  repeat' with_reducible first | assumption | refine setN_keeps ?_ | refine keep_ite (P := Keeps μ σ) ?_ ?_ | refine OnOk.ok ?_ | exact OnOk.error | refine keep_ite (P := OnOk (Keeps μ σ)) ?_ ?_ | intro _ | split | dsimp only

theorem openPort_keeps {μ : Nat} {σ : State} {s : State} {p : Nat} (hK : Keeps μ σ s)
    (hm : Sub 0x2000000000 μ := by first | assumption | exact Sub.of ‹Sub _ _› ⟨by decide +kernel⟩) :
    Keeps μ σ (State.openPort s p) := by
  unfold State.openPort
  try dsimp only
  repeat' with_reducible first | assumption | refine setN_keeps ?_ | refine keep_ite (P := Keeps μ σ) ?_ ?_ | refine OnOk.ok ?_ | exact OnOk.error | refine keep_ite (P := OnOk (Keeps μ σ)) ?_ ?_ | intro _ | split | dsimp only

theorem startStep_keeps {μ : Nat} {σ : State} {s : State} {v : Nat} (hK : Keeps μ σ s)
    (hm : Sub 0x40040000000 μ := by first | assumption | exact Sub.of ‹Sub _ _› ⟨by decide +kernel⟩) :
    Keeps μ σ (State.startStep s v) := by
  unfold State.startStep
  try dsimp only
  repeat' with_reducible first | assumption | refine setN_keeps ?_ | refine alert_keeps ?_ | refine keep_ite (P := Keeps μ σ) ?_ ?_ | refine OnOk.ok ?_ | exact OnOk.error | refine keep_ite (P := OnOk (Keeps μ σ)) ?_ ?_ | intro _ | split | dsimp only

end Sys2Proof.Laws
end

