-- ==== Sys2Proof/Laws/KeepSchedOps.lean ====
section
/-! SUPPORT. What each operation of Machine/SchedOps.lean changes: outside the zones of its mask it keeps everything, and it
keeps the invariant. -/
namespace Sys2Proof.Laws
open Sys2Proof.Machine
set_option Elab.async false
set_option linter.unreachableTactic false
set_option linter.unusedTactic false

theorem excludeJournal_keeps {μ : Nat} {σ : State} {s : State} {epoch : Nat} {step : Nat} {sample : Nat} {reason : Nat} (hK : Keeps μ σ s)
    (hm : Sub 0x20000000000000000000000000010 μ := by first | assumption | exact Sub.of ‹Sub _ _› ⟨by decide +kernel⟩) :
    Keeps μ σ (State.excludeJournal s epoch step sample reason) := by
  unfold State.excludeJournal
  try dsimp only
  repeat' with_reducible first | assumption | refine journal_keeps ?_ | refine keep_ite (P := Keeps μ σ) ?_ ?_ | (refine Keeps.lit (M := 0x20000000000000000000000000010) ?_; first | assumption | refine journal_keeps ?_ | refine keep_ite (P := Keeps μ σ) ?_ ?_) | refine OnOk.ok ?_ | exact OnOk.error | refine keep_ite (P := OnOk (Keeps μ σ)) ?_ ?_ | intro _ | split | dsimp only

end Sys2Proof.Laws
end

