-- ==== Sys2Proof/Laws/KeepBucker.lean ====
section
/-! SUPPORT. What each operation of Machine/Bucker.lean changes: outside the zones of its mask it keeps everything, and it
keeps the invariant. -/
namespace Sys2Proof.Laws
open Sys2Proof.Machine
set_option Elab.async false
set_option linter.unreachableTactic false
set_option linter.unusedTactic false

theorem putDeck_keeps {μ : Nat} {σ : State} {s : State} {d : Deck} (hK : Keeps μ σ s)
    (hm : Sub 0x10000 μ := by first | assumption | exact Sub.of ‹Sub _ _› ⟨by decide +kernel⟩) :
    Keeps μ σ (State.putDeck s d) := by
  unfold State.putDeck
  try dsimp only
  repeat' with_reducible first | assumption | refine keep_ite (P := Keeps μ σ) ?_ ?_ | (refine Keeps.lit (M := 0x10000) ?_; first | assumption | refine keep_ite (P := Keeps μ σ) ?_ ?_) | refine OnOk.ok ?_ | exact OnOk.error | refine keep_ite (P := OnOk (Keeps μ σ)) ?_ ?_ | intro _ | split | dsimp only

theorem putEntry_keeps {μ : Nat} {σ : State} {s : State} {e : DeckEntry} (hK : Keeps μ σ s)
    (hm : Sub 0x10000 μ := by first | assumption | exact Sub.of ‹Sub _ _› ⟨by decide +kernel⟩) :
    Keeps μ σ (State.putEntry s e) := by
  unfold State.putEntry
  try dsimp only
  repeat' with_reducible first | assumption | refine putDeck_keeps ?_ | refine keep_ite (P := Keeps μ σ) ?_ ?_ | refine OnOk.ok ?_ | exact OnOk.error | refine keep_ite (P := OnOk (Keeps μ σ)) ?_ ?_ | intro _ | split | dsimp only

theorem deckRegs_keeps {μ : Nat} {σ : State} {s : State} (hK : Keeps μ σ s)
    (hm : Sub 0x800000000000000000000000000 μ := by first | assumption | exact Sub.of ‹Sub _ _› ⟨by decide +kernel⟩) :
    Keeps μ σ (State.deckRegs s) := by
  unfold State.deckRegs
  try dsimp only
  repeat' with_reducible first | assumption | refine setN_keeps ?_ | refine keep_ite (P := Keeps μ σ) ?_ ?_ | refine OnOk.ok ?_ | exact OnOk.error | refine keep_ite (P := OnOk (Keeps μ σ)) ?_ ?_ | intro _ | split | dsimp only

theorem freeEntry_keeps {μ : Nat} {σ : State} {s : State} {e : DeckEntry} (hK : Keeps μ σ s)
    (hm : Sub 0x8000000080000000000c0610206 μ := by first | assumption | exact Sub.of ‹Sub _ _› ⟨by decide +kernel⟩) :
    Keeps μ σ (State.freeEntry s e) := by
  unfold State.freeEntry
  try dsimp only
  repeat' with_reducible first | assumption | refine putDeck_keeps ?_ | refine unitFree_keeps ?_ | refine deckRegs_keeps ?_ | refine keep_ite (P := Keeps μ σ) ?_ ?_ | refine OnOk.ok ?_ | exact OnOk.error | refine keep_ite (P := OnOk (Keeps μ σ)) ?_ ?_ | intro _ | split | dsimp only

theorem prepare_keeps {μ : Nat} {σ : State} {s : State} (hK : Keeps μ σ s)
    (hm : Sub 0x800000008000000000000010200 μ := by first | assumption | exact Sub.of ‹Sub _ _› ⟨by decide +kernel⟩) :
    Keeps μ σ (State.prepare s) := by
  unfold State.prepare
  try dsimp only
  repeat' with_reducible first | assumption | refine unitAlloc_keeps ?_ | refine keep_of_some_12 ‹_› (unitAlloc_keeps ?_) | refine putDeck_keeps ?_ | refine deckRegs_keeps ?_ | refine keep_ite (P := Keeps μ σ) ?_ ?_ | refine OnOk.ok ?_ | exact OnOk.error | refine keep_ite (P := OnOk (Keeps μ σ)) ?_ ?_ | intro _ | split | dsimp only

theorem execPrepareFragment_keeps {μ : Nat} {σ : State} {s : State} (hK : Keeps μ σ s)
    (hm : Sub 0x800000008000000000000010200 μ := by first | assumption | exact Sub.of ‹Sub _ _› ⟨by decide +kernel⟩) :
    OnNext (Keeps μ σ) (execPrepareFragment s) := by
  unfold execPrepareFragment
  try dsimp only
  repeat' with_reducible first | assumption | refine prepare_keeps ?_ | refine OnNext.next ?_ | refine OnOk.ok ?_ | exact OnOk.error | refine OnSome.some ?_ | exact OnSome.none | refine OnSomeOf.some ?_ | exact OnSomeOf.none | refine OnOkOf.ok ?_ | exact OnOkOf.error | refine act_keeps ?_ ?_ | refine live_keeps ?_ ?_ | refine keep_ite (P := OnNext (Keeps μ σ)) ?_ ?_ | refine keep_ite (P := Keeps μ σ) ?_ ?_ | refine keep_ite (P := OnOk (Keeps μ σ)) ?_ ?_ | intro _ | split | dsimp only

theorem seasonRegs_keeps {μ : Nat} {σ : State} {s : State} (hK : Keeps μ σ s)
    (hm : Sub 0x400000000000000000000000000 μ := by first | assumption | exact Sub.of ‹Sub _ _› ⟨by decide +kernel⟩) :
    Keeps μ σ (State.seasonRegs s) := by
  unfold State.seasonRegs
  try dsimp only
  repeat' with_reducible first | assumption | refine setN_keeps ?_ | refine keep_ite (P := Keeps μ σ) ?_ ?_ | refine OnOk.ok ?_ | exact OnOk.error | refine keep_ite (P := OnOk (Keeps μ σ)) ?_ ?_ | intro _ | split | dsimp only

theorem seasonStore_keeps {μ : Nat} {σ : State} {s : State} {k : SeasonKey} {i : ItemContent} {epoch : Nat} (hK : Keeps μ σ s)
    (hm : Sub 0x4000000080000000000c0010206 μ := by first | assumption | exact Sub.of ‹Sub _ _› ⟨by decide +kernel⟩) :
    Keeps μ σ (State.seasonStore s k i epoch) := by
  unfold State.seasonStore
  try dsimp only
  repeat' with_reducible first | assumption | refine putDeck_keeps ?_ | refine seasonRegs_keeps ?_ | refine unitAlloc_keeps ?_ | refine keep_of_some_12 ‹_› (unitAlloc_keeps ?_) | refine bump_keeps ?_ | refine raise_keeps ?_ | refine keep_ite (P := Keeps μ σ) ?_ ?_ | refine OnOk.ok ?_ | exact OnOk.error | refine keep_ite (P := OnOk (Keeps μ σ)) ?_ ?_ | intro _ | split | dsimp only

theorem seasonItem_keeps {μ : Nat} {σ : State} {s : State} {epoch : Nat} {recipe : Nat} {slot : Nat} {planned : Bool} {r : SampleRec} {i : ItemContent} (hK : Keeps μ σ s)
    (hm : Sub 0x4000000080000000000c0610206 μ := by first | assumption | exact Sub.of ‹Sub _ _› ⟨by decide +kernel⟩) :
    Keeps μ σ (State.seasonItem s epoch recipe slot planned r i) := by
  unfold State.seasonItem
  try dsimp only
  repeat' with_reducible first | assumption | refine putDeck_keeps ?_ | refine unitFree_keeps ?_ | refine bump_keeps ?_ | refine bumpIf_keeps ?_ | refine seasonStore_keeps ?_ | refine keep_ite (P := Keeps μ σ) ?_ ?_ | refine OnOk.ok ?_ | exact OnOk.error | refine keep_ite (P := OnOk (Keeps μ σ)) ?_ ?_ | intro _ | split | dsimp only

theorem seasonDiscard_keeps {μ : Nat} {σ : State} {s : State} (hK : Keeps μ σ s)
    (hm : Sub 0x4000000080000000000c0610206 μ := by first | assumption | exact Sub.of ‹Sub _ _› ⟨by decide +kernel⟩) :
    Keeps μ σ (State.seasonDiscard s) := by
  unfold State.seasonDiscard
  try dsimp only
  repeat' with_reducible first | assumption | refine unitFree_keeps ?_ | refine putDeck_keeps ?_ | refine seasonRegs_keeps ?_ | refine keep_ite (P := Keeps μ σ) ?_ ?_ | refine keep_foldl (P := Keeps μ σ) ?_ ?_ | refine OnOk.ok ?_ | exact OnOk.error | refine keep_ite (P := OnOk (Keeps μ σ)) ?_ ?_ | intro _ | split | dsimp only

theorem seasonClear_keeps {μ : Nat} {σ : State} {s : State} {v : Nat} (hK : Keeps μ σ s)
    (hm : Sub 0x4000000080000000000c0610206 μ := by first | assumption | exact Sub.of ‹Sub _ _› ⟨by decide +kernel⟩) :
    OnOk (Keeps μ σ) (State.seasonClear s v) := by
  unfold State.seasonClear
  try dsimp only
  repeat' with_reducible first | assumption | refine seasonDiscard_keeps ?_ | refine OnNext.next ?_ | refine OnOk.ok ?_ | exact OnOk.error | refine OnSome.some ?_ | exact OnSome.none | refine OnSomeOf.some ?_ | exact OnSomeOf.none | refine OnOkOf.ok ?_ | exact OnOkOf.error | refine act_keeps ?_ ?_ | refine live_keeps ?_ ?_ | refine keep_ite (P := OnOk (Keeps μ σ)) ?_ ?_ | refine keep_ite (P := Keeps μ σ) ?_ ?_ | intro _ | split | dsimp only | refine keep_of_ok ‹_› ?_

theorem execSeasonClear_keeps {μ : Nat} {σ : State} {via : Via} {value : Bytes} {s : State} (hK : Keeps μ σ s)
    (hm : Sub 0x204000000080000000020e061021e μ := by first | assumption | exact Sub.of ‹Sub _ _› ⟨by decide +kernel⟩) :
    OnNext (Keeps μ σ) (execSeasonClear via value s) := by
  unfold execSeasonClear
  try dsimp only
  repeat' with_reducible first | assumption | refine writeVia_keeps ?_ ?_ | refine seasonClear_keeps ?_ | refine keep_of_ok ‹_› (seasonClear_keeps ?_) | refine OnNext.next ?_ | refine OnOk.ok ?_ | exact OnOk.error | refine OnSome.some ?_ | exact OnSome.none | refine OnSomeOf.some ?_ | exact OnSomeOf.none | refine OnOkOf.ok ?_ | exact OnOkOf.error | refine act_keeps ?_ ?_ | refine live_keeps ?_ ?_ | refine keep_ite (P := OnNext (Keeps μ σ)) ?_ ?_ | refine keep_ite (P := Keeps μ σ) ?_ ?_ | refine keep_ite (P := OnOk (Keeps μ σ)) ?_ ?_ | intro _ | split | dsimp only | refine keep_of_ok ‹_› ?_

theorem deckAlarm_keeps {μ : Nat} {σ : State} {s : State} {c : Nat} {level : Option Int} (hK : Keeps μ σ s)
    (hm : Sub 0x8000000000000000200c0010106 μ := by first | assumption | exact Sub.of ‹Sub _ _› ⟨by decide +kernel⟩) :
    Keeps μ σ (State.deckAlarm s c level) := by
  unfold State.deckAlarm
  try dsimp only
  repeat' with_reducible first | assumption | refine putDeck_keeps ?_ | refine putPwr_keeps ?_ | refine coolingRegs_keeps ?_ | refine bump_keeps ?_ | refine raise_keeps ?_ | refine keep_ite (P := Keeps μ σ) ?_ ?_ | refine OnOk.ok ?_ | exact OnOk.error | refine keep_ite (P := OnOk (Keeps μ σ)) ?_ ?_ | intro _ | split | dsimp only

theorem alarmNow_keeps {μ : Nat} {σ : State} {s : State} {c : Nat} (hK : Keeps μ σ s)
    (hm : Sub 0x8000000000000000200c0010106 μ := by first | assumption | exact Sub.of ‹Sub _ _› ⟨by decide +kernel⟩) :
    Keeps μ σ (State.alarmNow s c) := by
  unfold State.alarmNow
  try dsimp only
  repeat' with_reducible first | assumption | refine deckAlarm_keeps ?_ | refine setN_keeps ?_ | refine keep_ite (P := Keeps μ σ) ?_ ?_ | refine OnOk.ok ?_ | exact OnOk.error | refine keep_ite (P := OnOk (Keeps μ σ)) ?_ ?_ | intro _ | split | dsimp only

theorem buckCounts_keeps {μ : Nat} {σ : State} {s : State} {b : BuckBlock} {l : List (Extent × ExtentSource)} (hK : Keeps μ σ s)
    (hm : Sub 0x200000000000000000000000000 μ := by first | assumption | exact Sub.of ‹Sub _ _› ⟨by decide +kernel⟩) :
    Keeps μ σ (State.buckCounts s b l) := by
  unfold State.buckCounts
  try dsimp only
  repeat' with_reducible first | assumption | refine add_keeps ?_ | refine keep_ite (P := Keeps μ σ) ?_ ?_ | refine OnOk.ok ?_ | exact OnOk.error | refine keep_ite (P := OnOk (Keeps μ σ)) ?_ ?_ | intro _ | split | dsimp only

theorem seasonItems_keeps {μ : Nat} {σ : State} {s : State} {k : FragKey} {recipe : Nat} {b : BuckBlock} {items : List ItemContent} (hK : Keeps μ σ s)
    (hm : Sub 0x4000000080000000000c0610206 μ := by first | assumption | exact Sub.of ‹Sub _ _› ⟨by decide +kernel⟩) :
    Keeps μ σ (State.seasonItems s k recipe b items) := by
  unfold State.seasonItems
  try dsimp only
  repeat' with_reducible first | assumption | refine seasonItem_keeps ?_ | refine keep_ite (P := Keeps μ σ) ?_ ?_ | refine keep_foldl (P := Keeps μ σ) ?_ ?_ | refine OnOk.ok ?_ | exact OnOk.error | refine keep_ite (P := OnOk (Keeps μ σ)) ?_ ?_ | intro _ | split | dsimp only

theorem ready_keeps {μ : Nat} {σ : State} {s : State} {k : FragKey} {orphan : Nat → Bool} {contribution : Nat} {b : BuckBlock} {items : List ItemContent} (hK : Keeps μ σ s)
    (hm : Sub 0x40020e000000080000000200c0610316 μ := by first | assumption | exact Sub.of ‹Sub _ _› ⟨by decide +kernel⟩) :
    Keeps μ σ (State.ready s k orphan contribution b items) := by
  unfold State.ready
  try dsimp only
  repeat' with_reducible first | assumption | refine bufWrite_keeps ?_ | refine excludeJournal_keeps ?_ | refine buckCounts_keeps ?_ | refine seasonItems_keeps ?_ | refine putEntry_keeps ?_ | refine putDeck_keeps ?_ | refine alarmNow_keeps ?_ | refine keep_ite (P := Keeps μ σ) ?_ ?_ | refine keep_foldl (P := Keeps μ σ) ?_ ?_ | refine OnOk.ok ?_ | exact OnOk.error | refine keep_ite (P := OnOk (Keeps μ σ)) ?_ ?_ | intro _ | split | dsimp only

theorem makeReady_keeps {μ : Nat} {σ : State} {s : State} {key : FragKey} {contribution : Nat} {block : BuckBlock} {items : List ItemContent} (hK : Keeps μ σ s)
    (hm : Sub 0x40020e000000080000000200c0e10316 μ := by first | assumption | exact Sub.of ‹Sub _ _› ⟨by decide +kernel⟩) :
    Keeps μ σ (State.makeReady s key contribution block items) := by
  unfold State.makeReady
  try dsimp only
  repeat' with_reducible first | assumption | refine ready_keeps ?_ | refine drawn_keeps ?_ | refine keep_ite (P := Keeps μ σ) ?_ ?_ | refine keep_foldl (P := Keeps μ σ) ?_ ?_ | refine OnOk.ok ?_ | exact OnOk.error | refine keep_ite (P := OnOk (Keeps μ σ)) ?_ ?_ | intro _ | split | dsimp only

theorem execFragmentReady_keeps {μ : Nat} {σ : State} {key : FragKey} {contribution : Nat} {block : BuckBlock} {items : List ItemContent} {s : State} (hK : Keeps μ σ s)
    (hm : Sub 0x40020e000000080000000200c0e10316 μ := by first | assumption | exact Sub.of ‹Sub _ _› ⟨by decide +kernel⟩) :
    OnNext (Keeps μ σ) (execFragmentReady key contribution block items s) := by
  unfold execFragmentReady
  try dsimp only
  repeat' with_reducible first | assumption | refine makeReady_keeps ?_ | refine OnNext.next ?_ | refine OnOk.ok ?_ | exact OnOk.error | refine OnSome.some ?_ | exact OnSome.none | refine OnSomeOf.some ?_ | exact OnSomeOf.none | refine OnOkOf.ok ?_ | exact OnOkOf.error | refine act_keeps ?_ ?_ | refine live_keeps ?_ ?_ | refine keep_ite (P := OnNext (Keeps μ σ)) ?_ ?_ | refine keep_ite (P := Keeps μ σ) ?_ ?_ | refine keep_ite (P := OnOk (Keeps μ σ)) ?_ ?_ | intro _ | split | dsimp only

theorem deckRing_keeps {μ : Nat} {σ : State} {s : State} (hK : Keeps μ σ s)
    (hm : Sub 0x8000000000000000200c0010106 μ := by first | assumption | exact Sub.of ‹Sub _ _› ⟨by decide +kernel⟩) :
    Keeps μ σ (State.deckRing s) := by
  unfold State.deckRing
  try dsimp only
  repeat' with_reducible first | assumption | refine putDeck_keeps ?_ | refine deckAlarm_keeps ?_ | refine setN_keeps ?_ | refine keep_ite (P := Keeps μ σ) ?_ ?_ | refine keep_foldl (P := Keeps μ σ) ?_ ?_ | refine OnOk.ok ?_ | exact OnOk.error | refine keep_ite (P := OnOk (Keeps μ σ)) ?_ ?_ | intro _ | split | dsimp only

end Sys2Proof.Laws
end

