-- ==== Sys2Proof/Laws/KeepChipper.lean ====
section
/-! SUPPORT. What each operation of Machine/Chipper.lean changes: outside the zones of its mask it keeps everything, and it
keeps the invariant. -/
namespace Sys2Proof.Laws
open Sys2Proof.Machine
set_option Elab.async false
set_option linter.unreachableTactic false
set_option linter.unusedTactic false

theorem putChip_keeps {μ : Nat} {σ : State} {s : State} {p : ChipPipe} (hK : Keeps μ σ s)
    (hm : Sub 0x4000000000000000000400 μ := by first | assumption | exact Sub.of ‹Sub _ _› ⟨by decide +kernel⟩) :
    Keeps μ σ (State.putChip s p) := by
  unfold State.putChip
  try dsimp only
  repeat' with_reducible first | assumption | refine setN_keeps ?_ | refine keep_ite (P := Keeps μ σ) ?_ ?_ | (refine Keeps.lit (M := 0x4000000000000000000400) ?_; first | assumption | refine setN_keeps ?_ | refine keep_ite (P := Keeps μ σ) ?_ ?_) | refine OnOk.ok ?_ | exact OnOk.error | refine keep_ite (P := OnOk (Keeps μ σ)) ?_ ?_ | intro _ | split | dsimp only

theorem chipSubmit_keeps {μ : Nat} {σ : State} {s : State} {d : ChipDesc} {decomp : Bool} (hK : Keeps μ σ s)
    (hm : Sub 0x50000000000000c0400406 μ := by first | assumption | exact Sub.of ‹Sub _ _› ⟨by decide +kernel⟩) :
    Keeps μ σ (State.chipSubmit s d decomp) := by
  unfold State.chipSubmit
  try dsimp only
  repeat' with_reducible first | assumption | refine refuse_keeps ?_ | refine bump_keeps ?_ | refine putChip_keeps ?_ | refine ends_keeps ?_ | refine keep_ite (P := Keeps μ σ) ?_ ?_ | refine OnOk.ok ?_ | exact OnOk.error | refine keep_ite (P := OnOk (Keeps μ σ)) ?_ ?_ | intro _ | split | dsimp only

theorem execCompress_keeps {μ : Nat} {σ : State} {desc : ChipDesc} {s : State} (hK : Keeps μ σ s)
    (hm : Sub 0x50000000000000c0400406 μ := by first | assumption | exact Sub.of ‹Sub _ _› ⟨by decide +kernel⟩) :
    OnNext (Keeps μ σ) (execCompress desc s) := by
  unfold execCompress
  try dsimp only
  repeat' with_reducible first | assumption | refine chipSubmit_keeps ?_ | refine OnNext.next ?_ | refine OnOk.ok ?_ | exact OnOk.error | refine OnSome.some ?_ | exact OnSome.none | refine OnSomeOf.some ?_ | exact OnSomeOf.none | refine OnOkOf.ok ?_ | exact OnOkOf.error | refine act_keeps ?_ ?_ | refine live_keeps ?_ ?_ | refine keep_ite (P := OnNext (Keeps μ σ)) ?_ ?_ | refine keep_ite (P := Keeps μ σ) ?_ ?_ | refine keep_ite (P := OnOk (Keeps μ σ)) ?_ ?_ | intro _ | split | dsimp only

theorem execDecompress_keeps {μ : Nat} {σ : State} {desc : ChipDesc} {s : State} (hK : Keeps μ σ s)
    (hm : Sub 0x50000000000000c0400406 μ := by first | assumption | exact Sub.of ‹Sub _ _› ⟨by decide +kernel⟩) :
    OnNext (Keeps μ σ) (execDecompress desc s) := by
  unfold execDecompress
  try dsimp only
  repeat' with_reducible first | assumption | refine chipSubmit_keeps ?_ | refine OnNext.next ?_ | refine OnOk.ok ?_ | exact OnOk.error | refine OnSome.some ?_ | exact OnSome.none | refine OnSomeOf.some ?_ | exact OnSomeOf.none | refine OnOkOf.ok ?_ | exact OnOkOf.error | refine act_keeps ?_ ?_ | refine live_keeps ?_ ?_ | refine keep_ite (P := OnNext (Keeps μ σ)) ?_ ?_ | refine keep_ite (P := Keeps μ σ) ?_ ?_ | refine keep_ite (P := OnOk (Keeps μ σ)) ?_ ?_ | intro _ | split | dsimp only

theorem chipFinish_keeps {μ : Nat} {σ : State} {s : State} {d : ChipDesc} {decomp : Bool} {code : Nat} {rec : Bytes} (hK : Keeps μ σ s)
    (hm : Sub 0x50080000000000c0600606 μ := by first | assumption | exact Sub.of ‹Sub _ _› ⟨by decide +kernel⟩) :
    Keeps μ σ (State.chipFinish s d decomp code rec) := by
  unfold State.chipFinish
  try dsimp only
  repeat' with_reducible first | assumption | refine unitPass_keeps ?_ | refine putChip_keeps ?_ | refine emit_keeps ?_ | refine bump_keeps ?_ | refine ends_keeps ?_ | refine refuse_keeps ?_ | refine keep_ite (P := Keeps μ σ) ?_ ?_ | refine OnOk.ok ?_ | exact OnOk.error | refine keep_ite (P := OnOk (Keeps μ σ)) ?_ ?_ | intro _ | split | dsimp only

theorem chipHead_keeps {μ : Nat} {σ : State} {s : State} {c : Nat} {decomp : Bool} (hK : Keeps μ σ s)
    (hm : Sub 0x50080000000000c0600606 μ := by first | assumption | exact Sub.of ‹Sub _ _› ⟨by decide +kernel⟩) :
    Keeps μ σ (State.chipHead s c decomp) := by
  unfold State.chipHead
  try dsimp only
  repeat' with_reducible first | assumption | refine chipFinish_keeps ?_ | refine putChip_keeps ?_ | refine bufFlight_keeps ?_ | refine keep_ite (P := Keeps μ σ) ?_ ?_ | refine OnOk.ok ?_ | exact OnOk.error | refine keep_ite (P := OnOk (Keeps μ σ)) ?_ ?_ | intro _ | split | dsimp only

theorem execChipperDescriptorHead_keeps {μ : Nat} {σ : State} {chipper : Nat} {decomp : Bool} {s : State} (hK : Keeps μ σ s)
    (hm : Sub 0x50080000000000c0600606 μ := by first | assumption | exact Sub.of ‹Sub _ _› ⟨by decide +kernel⟩) :
    OnNext (Keeps μ σ) (execChipperDescriptorHead chipper decomp s) := by
  unfold execChipperDescriptorHead
  try dsimp only
  repeat' with_reducible first | assumption | refine chipHead_keeps ?_ | refine OnNext.next ?_ | refine OnOk.ok ?_ | exact OnOk.error | refine OnSome.some ?_ | exact OnSome.none | refine OnSomeOf.some ?_ | exact OnSomeOf.none | refine OnOkOf.ok ?_ | exact OnOkOf.error | refine act_keeps ?_ ?_ | refine live_keeps ?_ ?_ | refine keep_ite (P := OnNext (Keeps μ σ)) ?_ ?_ | refine keep_ite (P := Keeps μ σ) ?_ ?_ | refine keep_ite (P := OnOk (Keeps μ σ)) ?_ ?_ | intro _ | split | dsimp only

theorem growTo_keeps {μ : Nat} {σ : State} {s : State} {h : Nat} {need : Nat} {x0 : Nat} {x1 : Nat} (hK : Keeps μ σ s)
    (hm : Sub 0x8000000000000000200 μ := by first | assumption | exact Sub.of ‹Sub _ _› ⟨by decide +kernel⟩) :
    Keeps μ σ (State.growTo s h need x0 x1).1 := by
  induction x0 generalizing s h need x1 with
  | zero =>
    unfold State.growTo
    try dsimp only
    repeat' with_reducible first | assumption | refine bump_keeps ?_ | refine putPool_keeps ?_ | refine keep_ite (P := Keeps μ σ) ?_ ?_ | refine OnOk.ok ?_ | exact OnOk.error | refine keep_ite (P := OnOk (Keeps μ σ)) ?_ ?_ | intro _ | split | dsimp only
  | succ n ih =>
    unfold State.growTo
    try dsimp only
    repeat' with_reducible first | assumption | refine ih ?_ | refine keep_of_fst ‹_› (ih ?_) | refine bump_keeps ?_ | refine putPool_keeps ?_ | refine keep_ite (P := Keeps μ σ) ?_ ?_ | refine OnOk.ok ?_ | exact OnOk.error | refine keep_ite (P := OnOk (Keeps μ σ)) ?_ ?_ | intro _ | split | dsimp only

theorem chipComplete_keeps {μ : Nat} {σ : State} {s : State} {c : Nat} {decomp : Bool} (hK : Keeps μ σ s)
    (hm : Sub 0x400000000050080000000000c0600606 μ := by first | assumption | exact Sub.of ‹Sub _ _› ⟨by decide +kernel⟩) :
    Keeps μ σ (State.chipComplete s c decomp) := by
  unfold State.chipComplete
  try dsimp only
  repeat' with_reducible first | assumption | refine bufFlight_keeps ?_ | refine growTo_keeps ?_ | refine keep_of_fst ‹_› (growTo_keeps ?_) | refine bufWrite_keeps ?_ | refine add_keeps ?_ | refine chipFinish_keeps ?_ | refine keep_ite (P := Keeps μ σ) ?_ ?_ | refine OnOk.ok ?_ | exact OnOk.error | refine keep_ite (P := OnOk (Keeps μ σ)) ?_ ?_ | intro _ | split | dsimp only

theorem execChipperComplete_keeps {μ : Nat} {σ : State} {chipper : Nat} {decomp : Bool} {s : State} (hK : Keeps μ σ s)
    (hm : Sub 0x400000000050080000000000c0600606 μ := by first | assumption | exact Sub.of ‹Sub _ _› ⟨by decide +kernel⟩) :
    OnNext (Keeps μ σ) (execChipperComplete chipper decomp s) := by
  unfold execChipperComplete
  try dsimp only
  repeat' with_reducible first | assumption | refine chipComplete_keeps ?_ | refine OnNext.next ?_ | refine OnOk.ok ?_ | exact OnOk.error | refine OnSome.some ?_ | exact OnSome.none | refine OnSomeOf.some ?_ | exact OnSomeOf.none | refine OnOkOf.ok ?_ | exact OnOkOf.error | refine act_keeps ?_ ?_ | refine live_keeps ?_ ?_ | refine keep_ite (P := OnNext (Keeps μ σ)) ?_ ?_ | refine keep_ite (P := Keeps μ σ) ?_ ?_ | refine keep_ite (P := OnOk (Keeps μ σ)) ?_ ?_ | intro _ | split | dsimp only

end Sys2Proof.Laws
end

