-- ==== Sys2Proof/Laws/KeepGradeOps.lean ====
section
/-! SUPPORT. What each operation of Machine/GradeOps.lean changes: outside the zones of its mask it keeps everything, and it
keeps the invariant. -/
namespace Sys2Proof.Laws
open Sys2Proof.Machine
set_option Elab.async false
set_option linter.unreachableTactic false
set_option linter.unusedTactic false

theorem slash_keeps {μ : Nat} {σ : State} {s : State} {e : SlashEntry} (hK : Keeps μ σ s)
    (hm : Sub 0x100000000000000000000008000 μ := by first | assumption | exact Sub.of ‹Sub _ _› ⟨by decide +kernel⟩) :
    Keeps μ σ (State.slash s e) := by
  unfold State.slash
  try dsimp only
  repeat' with_reducible first | assumption | refine bump_keeps ?_ | refine keep_ite (P := Keeps μ σ) ?_ ?_ | (refine Keeps.lit (M := 0x100000000000000000000008000) ?_; first | assumption | refine bump_keeps ?_ | refine keep_ite (P := Keeps μ σ) ?_ ?_) | refine OnOk.ok ?_ | exact OnOk.error | refine keep_ite (P := OnOk (Keeps μ σ)) ?_ ?_ | intro _ | split | dsimp only

theorem pass_keeps {μ : Nat} {σ : State} {s : State} {sample : Nat} (hK : Keeps μ σ s)
    (hm : Sub 0x100000000000000000000008000 μ := by first | assumption | exact Sub.of ‹Sub _ _› ⟨by decide +kernel⟩) :
    Keeps μ σ (State.pass s sample) := by
  unfold State.pass
  try dsimp only
  repeat' with_reducible first | assumption | refine bump_keeps ?_ | refine keep_ite (P := Keeps μ σ) ?_ ?_ | (refine Keeps.lit (M := 0x100000000000000000000008000) ?_; first | assumption | refine bump_keeps ?_ | refine keep_ite (P := Keeps μ σ) ?_ ?_) | refine OnOk.ok ?_ | exact OnOk.error | refine keep_ite (P := OnOk (Keeps μ σ)) ?_ ?_ | intro _ | split | dsimp only

theorem refuseSample_keeps {μ : Nat} {σ : State} {s : State} {ctx : Nat} {sample : Nat} {reason : Nat} {slot : Nat} {detail : Nat} (hK : Keeps μ σ s)
    (hm : Sub 0x100000000000000000000008010 μ := by first | assumption | exact Sub.of ‹Sub _ _› ⟨by decide +kernel⟩) :
    Keeps μ σ (State.refuseSample s ctx sample reason slot detail) := by
  unfold State.refuseSample
  try dsimp only
  repeat' with_reducible first | assumption | refine slash_keeps ?_ | refine keep_ite (P := Keeps μ σ) ?_ ?_ | (refine Keeps.lit (M := 0x100000000000000000000008010) ?_; first | assumption | refine slash_keeps ?_ | refine keep_ite (P := Keeps μ σ) ?_ ?_) | refine OnOk.ok ?_ | exact OnOk.error | refine keep_ite (P := OnOk (Keeps μ σ)) ?_ ?_ | intro _ | split | dsimp only

end Sys2Proof.Laws
end

