-- ==== Sys2Proof/Laws/KeepDecodeUnits.lean ====
section
/-! SUPPORT. What each operation of Machine/DecodeUnits.lean changes: outside the zones of its mask it keeps everything, and it
keeps the invariant. -/
namespace Sys2Proof.Laws
open Sys2Proof.Machine
set_option Elab.async false
set_option linter.unreachableTactic false
set_option linter.unusedTactic false

theorem putDecQueue_keeps {μ : Nat} {σ : State} {s : State} {q : DecQueue} (hK : Keeps μ σ s)
    (hm : Sub 0x800 μ := by first | assumption | exact Sub.of ‹Sub _ _› ⟨by decide +kernel⟩) :
    Keeps μ σ (State.putDecQueue s q) := by
  unfold State.putDecQueue
  try dsimp only
  repeat' with_reducible first | assumption | refine keep_ite (P := Keeps μ σ) ?_ ?_ | (refine Keeps.lit (M := 0x800) ?_; first | assumption | refine keep_ite (P := Keeps μ σ) ?_ ?_) | refine OnOk.ok ?_ | exact OnOk.error | refine keep_ite (P := OnOk (Keeps μ σ)) ?_ ?_ | intro _ | split | dsimp only

theorem putDec_keeps {μ : Nat} {σ : State} {s : State} {d : Decoders} (hK : Keeps μ σ s)
    (hm : Sub 0x800 μ := by first | assumption | exact Sub.of ‹Sub _ _› ⟨by decide +kernel⟩) :
    Keeps μ σ (State.putDec s d) := by
  unfold State.putDec
  try dsimp only
  repeat' with_reducible first | assumption | refine keep_ite (P := Keeps μ σ) ?_ ?_ | (refine Keeps.lit (M := 0x800) ?_; first | assumption | refine keep_ite (P := Keeps μ σ) ?_ ?_) | refine OnOk.ok ?_ | exact OnOk.error | refine keep_ite (P := OnOk (Keeps μ σ)) ?_ ?_ | intro _ | split | dsimp only

theorem streamRegs_keeps {μ : Nat} {σ : State} {s : State} (hK : Keeps μ σ s)
    (hm : Sub 0x30000000000000000000000 μ := by first | assumption | exact Sub.of ‹Sub _ _› ⟨by decide +kernel⟩) :
    Keeps μ σ (State.streamRegs s) := by
  unfold State.streamRegs
  try dsimp only
  repeat' with_reducible first | assumption | refine setN_keeps ?_ | refine keep_ite (P := Keeps μ σ) ?_ ?_ | refine keep_foldl (P := Keeps μ σ) ?_ ?_ | refine OnOk.ok ?_ | exact OnOk.error | refine keep_ite (P := OnOk (Keeps μ σ)) ?_ ?_ | intro _ | split | dsimp only

theorem putStream_keeps {μ : Nat} {σ : State} {s : State} {x : VStream} (hK : Keeps μ σ s)
    (hm : Sub 0x800 μ := by first | assumption | exact Sub.of ‹Sub _ _› ⟨by decide +kernel⟩) :
    Keeps μ σ (State.putStream s x) := by
  unfold State.putStream
  try dsimp only
  repeat' with_reducible first | assumption | refine keep_ite (P := Keeps μ σ) ?_ ?_ | (refine Keeps.lit (M := 0x800) ?_; first | assumption | refine keep_ite (P := Keeps μ σ) ?_ ?_) | refine OnOk.ok ?_ | exact OnOk.error | refine keep_ite (P := OnOk (Keeps μ σ)) ?_ ?_ | intro _ | split | dsimp only

theorem putVunit_keeps {μ : Nat} {σ : State} {s : State} {u : VideoUnit} (hK : Keeps μ σ s)
    (hm : Sub 0x800 μ := by first | assumption | exact Sub.of ‹Sub _ _› ⟨by decide +kernel⟩) :
    Keeps μ σ (State.putVunit s u) := by
  unfold State.putVunit
  try dsimp only
  repeat' with_reducible first | assumption | refine keep_ite (P := Keeps μ σ) ?_ ?_ | (refine Keeps.lit (M := 0x800) ?_; first | assumption | refine keep_ite (P := Keeps μ σ) ?_ ?_) | refine OnOk.ok ?_ | exact OnOk.error | refine keep_ite (P := OnOk (Keeps μ σ)) ?_ ?_ | intro _ | split | dsimp only

theorem decRefuse_keeps {μ : Nat} {σ : State} {s : State} {e : DecEntry} {unit : Nat} {code : Nat} {cls : Nat} {detail : Nat} {required : Nat} {flags : Nat} (hK : Keeps μ σ s)
    (hm : Sub 0x80000010000000c0600006 μ := by first | assumption | exact Sub.of ‹Sub _ _› ⟨by decide +kernel⟩) :
    Keeps μ σ (State.decRefuse s e unit code cls detail required flags) := by
  unfold State.decRefuse
  try dsimp only
  repeat' with_reducible first | assumption | refine emit_keeps ?_ | refine result_keeps ?_ | refine bumpIf_keeps ?_ | refine refuse_keeps ?_ | refine keep_ite (P := Keeps μ σ) ?_ ?_ | refine OnOk.ok ?_ | exact OnOk.error | refine keep_ite (P := OnOk (Keeps μ σ)) ?_ ?_ | intro _ | split | dsimp only

theorem decOutput_keeps {μ : Nat} {σ : State} {s : State} {e : DecEntry} {unit : Nat} {o : MediaOutcome} {picture : Nat} {decodeNo : Nat} (hK : Keeps μ σ s)
    (hm : Sub 0x400000000080080010000000c0600206 μ := by first | assumption | exact Sub.of ‹Sub _ _› ⟨by decide +kernel⟩) :
    Keeps μ σ (State.decOutput s e unit o picture decodeNo) := by
  unfold State.decOutput
  try dsimp only
  repeat' with_reducible first | assumption | refine decRefuse_keeps ?_ | refine bufWrite_keeps ?_ | refine emit_keeps ?_ | refine raise_keeps ?_ | refine result_keeps ?_ | refine bumpIf_keeps ?_ | refine ends_keeps ?_ | refine keep_ite (P := Keeps μ σ) ?_ ?_ | refine OnOk.ok ?_ | exact OnOk.error | refine keep_ite (P := OnOk (Keeps μ σ)) ?_ ?_ | intro _ | split | dsimp only

theorem decSubmit_keeps {μ : Nat} {σ : State} {s : State} {k : DecKind} {r : Requester} {d : DecodeDesc} (hK : Keeps μ σ s)
    (hm : Sub 0x80000010000000c0600806 μ := by first | assumption | exact Sub.of ‹Sub _ _› ⟨by decide +kernel⟩) :
    Keeps μ σ (State.decSubmit s k r d) := by
  unfold State.decSubmit
  try dsimp only
  repeat' with_reducible first | assumption | refine decRefuse_keeps ?_ | refine bump_keeps ?_ | refine refuse_keeps ?_ | refine putDec_keeps ?_ | refine ends_keeps ?_ | refine putDecQueue_keeps ?_ | refine keep_ite (P := Keeps μ σ) ?_ ?_ | refine OnOk.ok ?_ | exact OnOk.error | refine keep_ite (P := OnOk (Keeps μ σ)) ?_ ?_ | intro _ | split | dsimp only

theorem execDecodeImage_keeps {μ : Nat} {σ : State} {req : Requester} {desc : DecodeDesc} {s : State} (hK : Keeps μ σ s)
    (hm : Sub 0x80000010000000c0600806 μ := by first | assumption | exact Sub.of ‹Sub _ _› ⟨by decide +kernel⟩) :
    OnNext (Keeps μ σ) (execDecodeImage req desc s) := by
  unfold execDecodeImage
  try dsimp only
  repeat' with_reducible first | assumption | refine decSubmit_keeps ?_ | refine OnNext.next ?_ | refine OnOk.ok ?_ | exact OnOk.error | refine OnSome.some ?_ | exact OnSome.none | refine OnSomeOf.some ?_ | exact OnSomeOf.none | refine OnOkOf.ok ?_ | exact OnOkOf.error | refine act_keeps ?_ ?_ | refine live_keeps ?_ ?_ | refine keep_ite (P := OnNext (Keeps μ σ)) ?_ ?_ | refine keep_ite (P := Keeps μ σ) ?_ ?_ | refine keep_ite (P := OnOk (Keeps μ σ)) ?_ ?_ | intro _ | split | dsimp only

theorem execDecodeFrame_keeps {μ : Nat} {σ : State} {req : Requester} {desc : DecodeDesc} {s : State} (hK : Keeps μ σ s)
    (hm : Sub 0x80000010000000c0600806 μ := by first | assumption | exact Sub.of ‹Sub _ _› ⟨by decide +kernel⟩) :
    OnNext (Keeps μ σ) (execDecodeFrame req desc s) := by
  unfold execDecodeFrame
  try dsimp only
  repeat' with_reducible first | assumption | refine decSubmit_keeps ?_ | refine OnNext.next ?_ | refine OnOk.ok ?_ | exact OnOk.error | refine OnSome.some ?_ | exact OnSome.none | refine OnSomeOf.some ?_ | exact OnSomeOf.none | refine OnOkOf.ok ?_ | exact OnOkOf.error | refine act_keeps ?_ ?_ | refine live_keeps ?_ ?_ | refine keep_ite (P := OnNext (Keeps μ σ)) ?_ ?_ | refine keep_ite (P := Keeps μ σ) ?_ ?_ | refine keep_ite (P := OnOk (Keeps μ σ)) ?_ ?_ | intro _ | split | dsimp only

theorem execEncodeFits_keeps {μ : Nat} {σ : State} {req : Requester} {desc : DecodeDesc} {s : State} (hK : Keeps μ σ s)
    (hm : Sub 0x80000010000000c0600806 μ := by first | assumption | exact Sub.of ‹Sub _ _› ⟨by decide +kernel⟩) :
    OnNext (Keeps μ σ) (execEncodeFits req desc s) := by
  unfold execEncodeFits
  try dsimp only
  repeat' with_reducible first | assumption | refine decSubmit_keeps ?_ | refine OnNext.next ?_ | refine OnOk.ok ?_ | exact OnOk.error | refine OnSome.some ?_ | exact OnSome.none | refine OnSomeOf.some ?_ | exact OnSomeOf.none | refine OnOkOf.ok ?_ | exact OnOkOf.error | refine act_keeps ?_ ?_ | refine live_keeps ?_ ?_ | refine keep_ite (P := OnNext (Keeps μ σ)) ?_ ?_ | refine keep_ite (P := Keeps μ σ) ?_ ?_ | refine keep_ite (P := OnOk (Keeps μ σ)) ?_ ?_ | intro _ | split | dsimp only

theorem serveVideo_keeps {μ : Nat} {σ : State} {s : State} {c : Nat} (hK : Keeps μ σ s)
    (hm : Sub 0x10000000000000000000800 μ := by first | assumption | exact Sub.of ‹Sub _ _› ⟨by decide +kernel⟩) :
    Keeps μ σ (State.serveVideo s c) := by
  unfold State.serveVideo
  try dsimp only
  repeat' with_reducible first | assumption | refine bumpIf_keeps ?_ | refine putVunit_keeps ?_ | refine keep_ite (P := Keeps μ σ) ?_ ?_ | refine OnOk.ok ?_ | exact OnOk.error | refine keep_ite (P := OnOk (Keeps μ σ)) ?_ ?_ | intro _ | split | dsimp only

theorem doOpen_keeps {μ : Nat} {σ : State} {s : State} {e : DecEntry} (hK : Keeps μ σ s)
    (hm : Sub 0x380000010000000c0600806 μ := by first | assumption | exact Sub.of ‹Sub _ _› ⟨by decide +kernel⟩) :
    Keeps μ σ (State.doOpen s e) := by
  unfold State.doOpen
  try dsimp only
  repeat' with_reducible first | assumption | refine decRefuse_keeps ?_ | refine bump_keeps ?_ | refine putDec_keeps ?_ | refine streamRegs_keeps ?_ | refine result_keeps ?_ | refine ends_keeps ?_ | refine keep_ite (P := Keeps μ σ) ?_ ?_ | refine OnOk.ok ?_ | exact OnOk.error | refine keep_ite (P := OnOk (Keeps μ σ)) ?_ ?_ | intro _ | split | dsimp only

theorem doSubmit_keeps {μ : Nat} {σ : State} {s : State} {e : DecEntry} (hK : Keeps μ σ s)
    (hm : Sub 0x180080010000000c0600a06 μ := by first | assumption | exact Sub.of ‹Sub _ _› ⟨by decide +kernel⟩) :
    Keeps μ σ (State.doSubmit s e) := by
  unfold State.doSubmit
  try dsimp only
  repeat' with_reducible first | assumption | refine decRefuse_keeps ?_ | refine bump_keeps ?_ | refine putStream_keeps ?_ | refine bufFlight_keeps ?_ | refine serveVideo_keeps ?_ | refine keep_ite (P := Keeps μ σ) ?_ ?_ | refine OnOk.ok ?_ | exact OnOk.error | refine keep_ite (P := OnOk (Keeps μ σ)) ?_ ?_ | intro _ | split | dsimp only

theorem writeHeld_keeps {μ : Nat} {σ : State} {s : State} {x : VStream} {p : HeldPicture} (hK : Keeps μ σ s)
    (hm : Sub 0x400000000180080010000000c0600a06 μ := by first | assumption | exact Sub.of ‹Sub _ _› ⟨by decide +kernel⟩) :
    Keeps μ σ (State.writeHeld s x p) := by
  unfold State.writeHeld
  try dsimp only
  repeat' with_reducible first | assumption | refine bumpIf_keeps ?_ | refine decOutput_keeps ?_ | refine putStream_keeps ?_ | refine keep_ite (P := Keeps μ σ) ?_ ?_ | refine OnOk.ok ?_ | exact OnOk.error | refine keep_ite (P := OnOk (Keeps μ σ)) ?_ ?_ | intro _ | split | dsimp only

theorem putOut_keeps {μ : Nat} {σ : State} {s : State} {h : Nat} {x0 : Nat} (hK : Keeps μ σ s)
    (hm : Sub 0x400000000180080010000000c0600a06 μ := by first | assumption | exact Sub.of ‹Sub _ _› ⟨by decide +kernel⟩) :
    Keeps μ σ (State.putOut s h x0) := by
  induction x0 generalizing s h with
  | zero =>
    unfold State.putOut
    try dsimp only
    repeat' with_reducible first | assumption | refine writeHeld_keeps ?_ | refine keep_ite (P := Keeps μ σ) ?_ ?_ | refine OnOk.ok ?_ | exact OnOk.error | refine keep_ite (P := OnOk (Keeps μ σ)) ?_ ?_ | intro _ | split | dsimp only
  | succ n ih =>
    unfold State.putOut
    try dsimp only
    repeat' with_reducible first | assumption | refine ih ?_ | refine writeHeld_keeps ?_ | refine keep_ite (P := Keeps μ σ) ?_ ?_ | refine OnOk.ok ?_ | exact OnOk.error | refine keep_ite (P := OnOk (Keeps μ σ)) ?_ ?_ | intro _ | split | dsimp only

theorem flushUnits_keeps {μ : Nat} {σ : State} {s : State} {code : Nat} {l : List DecEntry} (hK : Keeps μ σ s)
    (hm : Sub 0x80080010000000c0600206 μ := by first | assumption | exact Sub.of ‹Sub _ _› ⟨by decide +kernel⟩) :
    Keeps μ σ (State.flushUnits s code l) := by
  unfold State.flushUnits
  try dsimp only
  repeat' with_reducible first | assumption | refine bufFlight_keeps ?_ | refine decRefuse_keeps ?_ | refine keep_ite (P := Keeps μ σ) ?_ ?_ | refine keep_foldl (P := Keeps μ σ) ?_ ?_ | refine OnOk.ok ?_ | exact OnOk.error | refine keep_ite (P := OnOk (Keeps μ σ)) ?_ ?_ | intro _ | split | dsimp only

theorem promote_keeps {μ : Nat} {σ : State} {s : State} {c : Nat} (hK : Keeps μ σ s)
    (hm : Sub 0x800 μ := by first | assumption | exact Sub.of ‹Sub _ _› ⟨by decide +kernel⟩) :
    Keeps μ σ (State.promote s c) := by
  unfold State.promote
  try dsimp only
  repeat' with_reducible first | assumption | refine putStream_keeps ?_ | refine keep_ite (P := Keeps μ σ) ?_ ?_ | refine OnOk.ok ?_ | exact OnOk.error | refine keep_ite (P := OnOk (Keeps μ σ)) ?_ ?_ | intro _ | split | dsimp only

theorem finishClose_keeps {μ : Nat} {σ : State} {s : State} {x : VStream} {e : DecEntry} (hK : Keeps μ σ s)
    (hm : Sub 0x400000000380080010000000c0600a06 μ := by first | assumption | exact Sub.of ‹Sub _ _› ⟨by decide +kernel⟩) :
    Keeps μ σ (State.finishClose s x e) := by
  unfold State.finishClose
  try dsimp only
  repeat' with_reducible first | assumption | refine putOut_keeps ?_ | refine flushUnits_keeps ?_ | refine putDec_keeps ?_ | refine unitPass_keeps ?_ | refine promote_keeps ?_ | refine streamRegs_keeps ?_ | refine result_keeps ?_ | refine ends_keeps ?_ | refine serveVideo_keeps ?_ | refine keep_ite (P := Keeps μ σ) ?_ ?_ | refine OnOk.ok ?_ | exact OnOk.error | refine keep_ite (P := OnOk (Keeps μ σ)) ?_ ?_ | intro _ | split | dsimp only

theorem doClose_keeps {μ : Nat} {σ : State} {s : State} {e : DecEntry} (hK : Keeps μ σ s)
    (hm : Sub 0x400000000380080010000000c0600a06 μ := by first | assumption | exact Sub.of ‹Sub _ _› ⟨by decide +kernel⟩) :
    Keeps μ σ (State.doClose s e) := by
  unfold State.doClose
  try dsimp only
  repeat' with_reducible first | assumption | refine decRefuse_keeps ?_ | refine putStream_keeps ?_ | refine finishClose_keeps ?_ | refine keep_ite (P := Keeps μ σ) ?_ ?_ | refine OnOk.ok ?_ | exact OnOk.error | refine keep_ite (P := OnOk (Keeps μ σ)) ?_ ?_ | intro _ | split | dsimp only

theorem decHead_keeps {μ : Nat} {σ : State} {s : State} {c : Nat} {cls : Nat} (hK : Keeps μ σ s)
    (hm : Sub 0x400000000380080010000000c0600a06 μ := by first | assumption | exact Sub.of ‹Sub _ _› ⟨by decide +kernel⟩) :
    Keeps μ σ (State.decHead s c cls) := by
  unfold State.decHead
  try dsimp only
  repeat' with_reducible first | assumption | refine bump_keeps ?_ | refine putDecQueue_keeps ?_ | refine decRefuse_keeps ?_ | refine doOpen_keeps ?_ | refine doSubmit_keeps ?_ | refine doClose_keeps ?_ | refine bufFlight_keeps ?_ | refine keep_ite (P := Keeps μ σ) ?_ ?_ | refine OnOk.ok ?_ | exact OnOk.error | refine keep_ite (P := OnOk (Keeps μ σ)) ?_ ?_ | intro _ | split | dsimp only

theorem execDecodeDescriptorHead_keeps {μ : Nat} {σ : State} {cluster : Nat} {queue : Nat} {s : State} (hK : Keeps μ σ s)
    (hm : Sub 0x400000000380080010000000c0600a06 μ := by first | assumption | exact Sub.of ‹Sub _ _› ⟨by decide +kernel⟩) :
    OnNext (Keeps μ σ) (execDecodeDescriptorHead cluster queue s) := by
  unfold execDecodeDescriptorHead
  try dsimp only
  repeat' with_reducible first | assumption | refine decHead_keeps ?_ | refine OnNext.next ?_ | refine OnOk.ok ?_ | exact OnOk.error | refine OnSome.some ?_ | exact OnSome.none | refine OnSomeOf.some ?_ | exact OnSomeOf.none | refine OnOkOf.ok ?_ | exact OnOkOf.error | refine act_keeps ?_ ?_ | refine live_keeps ?_ ?_ | refine keep_ite (P := OnNext (Keeps μ σ)) ?_ ?_ | refine keep_ite (P := Keeps μ σ) ?_ ?_ | refine keep_ite (P := OnOk (Keeps μ σ)) ?_ ?_ | intro _ | split | dsimp only

theorem streamCmd_keeps {μ : Nat} {σ : State} {s : State} {k : DecKind} {r : Requester} {d : DecodeDesc} (hK : Keeps μ σ s)
    (hm : Sub 0x400000000380080010000000c0600a06 μ := by first | assumption | exact Sub.of ‹Sub _ _› ⟨by decide +kernel⟩) :
    Keeps μ σ (State.streamCmd s k r d) := by
  unfold State.streamCmd
  try dsimp only
  repeat' with_reducible first | assumption | refine decSubmit_keeps ?_ | refine decHead_keeps ?_ | refine keep_ite (P := Keeps μ σ) ?_ ?_ | refine OnOk.ok ?_ | exact OnOk.error | refine keep_ite (P := OnOk (Keeps μ σ)) ?_ ?_ | intro _ | split | dsimp only

theorem execStreamOpen_keeps {μ : Nat} {σ : State} {req : Requester} {desc : DecodeDesc} {s : State} (hK : Keeps μ σ s)
    (hm : Sub 0x400000000380080010000000c0600a06 μ := by first | assumption | exact Sub.of ‹Sub _ _› ⟨by decide +kernel⟩) :
    OnNext (Keeps μ σ) (execStreamOpen req desc s) := by
  unfold execStreamOpen
  try dsimp only
  repeat' with_reducible first | assumption | refine streamCmd_keeps ?_ | refine OnNext.next ?_ | refine OnOk.ok ?_ | exact OnOk.error | refine OnSome.some ?_ | exact OnSome.none | refine OnSomeOf.some ?_ | exact OnSomeOf.none | refine OnOkOf.ok ?_ | exact OnOkOf.error | refine act_keeps ?_ ?_ | refine live_keeps ?_ ?_ | refine keep_ite (P := OnNext (Keeps μ σ)) ?_ ?_ | refine keep_ite (P := Keeps μ σ) ?_ ?_ | refine keep_ite (P := OnOk (Keeps μ σ)) ?_ ?_ | intro _ | split | dsimp only

theorem execStreamSubmit_keeps {μ : Nat} {σ : State} {req : Requester} {desc : DecodeDesc} {s : State} (hK : Keeps μ σ s)
    (hm : Sub 0x400000000380080010000000c0600a06 μ := by first | assumption | exact Sub.of ‹Sub _ _› ⟨by decide +kernel⟩) :
    OnNext (Keeps μ σ) (execStreamSubmit req desc s) := by
  unfold execStreamSubmit
  try dsimp only
  repeat' with_reducible first | assumption | refine streamCmd_keeps ?_ | refine OnNext.next ?_ | refine OnOk.ok ?_ | exact OnOk.error | refine OnSome.some ?_ | exact OnSome.none | refine OnSomeOf.some ?_ | exact OnSomeOf.none | refine OnOkOf.ok ?_ | exact OnOkOf.error | refine act_keeps ?_ ?_ | refine live_keeps ?_ ?_ | refine keep_ite (P := OnNext (Keeps μ σ)) ?_ ?_ | refine keep_ite (P := Keeps μ σ) ?_ ?_ | refine keep_ite (P := OnOk (Keeps μ σ)) ?_ ?_ | intro _ | split | dsimp only

theorem execStreamClose_keeps {μ : Nat} {σ : State} {req : Requester} {desc : DecodeDesc} {s : State} (hK : Keeps μ σ s)
    (hm : Sub 0x400000000380080010000000c0600a06 μ := by first | assumption | exact Sub.of ‹Sub _ _› ⟨by decide +kernel⟩) :
    OnNext (Keeps μ σ) (execStreamClose req desc s) := by
  unfold execStreamClose
  try dsimp only
  repeat' with_reducible first | assumption | refine streamCmd_keeps ?_ | refine OnNext.next ?_ | refine OnOk.ok ?_ | exact OnOk.error | refine OnSome.some ?_ | exact OnSome.none | refine OnSomeOf.some ?_ | exact OnSomeOf.none | refine OnOkOf.ok ?_ | exact OnOkOf.error | refine act_keeps ?_ ?_ | refine live_keeps ?_ ?_ | refine keep_ite (P := OnNext (Keeps μ σ)) ?_ ?_ | refine keep_ite (P := Keeps μ σ) ?_ ?_ | refine keep_ite (P := OnOk (Keeps μ σ)) ?_ ?_ | intro _ | split | dsimp only

theorem decRecipe_keeps {μ : Nat} {σ : State} {s : State} {e : DecEntry} {o : MediaOutcome} {fraction : Nat} {recipe : Option RecipeStep} (hK : Keeps μ σ s)
    (hm : Sub 0x100000000000000000000008010 μ := by first | assumption | exact Sub.of ‹Sub _ _› ⟨by decide +kernel⟩) :
    Keeps μ σ (State.decRecipe s e o fraction recipe) := by
  unfold State.decRecipe
  try dsimp only
  repeat' with_reducible first | assumption | refine refuseSample_keeps ?_ | refine keep_ite (P := Keeps μ σ) ?_ ?_ | refine OnOk.ok ?_ | exact OnOk.error | refine keep_ite (P := OnOk (Keeps μ σ)) ?_ ?_ | intro _ | split | dsimp only

theorem videoStep_keeps {μ : Nat} {σ : State} {s : State} {h : Nat} {e : DecEntry} {o : MediaOutcome} {recipe : Option RecipeStep} (hK : Keeps μ σ s)
    (hm : Sub 0x100000000000000000000008810 μ := by first | assumption | exact Sub.of ‹Sub _ _› ⟨by decide +kernel⟩) :
    Keeps μ σ (State.videoStep s h e o recipe) := by
  unfold State.videoStep
  try dsimp only
  repeat' with_reducible first | assumption | refine putStream_keeps ?_ | refine decRecipe_keeps ?_ | refine keep_ite (P := Keeps μ σ) ?_ ?_ | refine OnOk.ok ?_ | exact OnOk.error | refine keep_ite (P := OnOk (Keeps μ σ)) ?_ ?_ | intro _ | split | dsimp only

theorem decComplete_keeps {μ : Nat} {σ : State} {s : State} {c : Nat} {cls : Nat} {unit : Nat} {o : MediaOutcome} {recipe : Option RecipeStep} (hK : Keeps μ σ s)
    (hm : Sub 0x400001000080080010000000c0608a16 μ := by first | assumption | exact Sub.of ‹Sub _ _› ⟨by decide +kernel⟩) :
    Keeps μ σ (State.decComplete s c cls unit o recipe) := by
  unfold State.decComplete
  try dsimp only
  repeat' with_reducible first | assumption | refine putDecQueue_keeps ?_ | refine bufFlight_keeps ?_ | refine bump_keeps ?_ | refine decRefuse_keeps ?_ | refine decRecipe_keeps ?_ | refine decOutput_keeps ?_ | refine keep_ite (P := Keeps μ σ) ?_ ?_ | refine OnOk.ok ?_ | exact OnOk.error | refine keep_ite (P := OnOk (Keeps μ σ)) ?_ ?_ | intro _ | split | dsimp only

theorem execDecodeComplete_keeps {μ : Nat} {σ : State} {cluster : Nat} {queue : Nat} {unit : Nat} {outcome : MediaOutcome} {recipe : Option RecipeStep} {s : State} (hK : Keeps μ σ s)
    (hm : Sub 0x400001000080080010000000c0608a16 μ := by first | assumption | exact Sub.of ‹Sub _ _› ⟨by decide +kernel⟩) :
    OnNext (Keeps μ σ) (execDecodeComplete cluster queue unit outcome recipe s) := by
  unfold execDecodeComplete
  try dsimp only
  repeat' with_reducible first | assumption | refine decComplete_keeps ?_ | refine OnNext.next ?_ | refine OnOk.ok ?_ | exact OnOk.error | refine OnSome.some ?_ | exact OnSome.none | refine OnSomeOf.some ?_ | exact OnSomeOf.none | refine OnOkOf.ok ?_ | exact OnOkOf.error | refine act_keeps ?_ ?_ | refine live_keeps ?_ ?_ | refine keep_ite (P := OnNext (Keeps μ σ)) ?_ ?_ | refine keep_ite (P := Keeps μ σ) ?_ ?_ | refine keep_ite (P := OnOk (Keeps μ σ)) ?_ ?_ | intro _ | split | dsimp only

theorem pictureDone_keeps {μ : Nat} {σ : State} {s : State} {c : Nat} {o : MediaOutcome} {recipe : Option RecipeStep} (hK : Keeps μ σ s)
    (hm : Sub 0x400001000380080010000000c0608a16 μ := by first | assumption | exact Sub.of ‹Sub _ _› ⟨by decide +kernel⟩) :
    Keeps μ σ (State.pictureDone s c o recipe) := by
  unfold State.pictureDone
  try dsimp only
  repeat' with_reducible first | assumption | refine putVunit_keeps ?_ | refine serveVideo_keeps ?_ | refine bufFlight_keeps ?_ | refine putStream_keeps ?_ | refine decRefuse_keeps ?_ | refine decRecipe_keeps ?_ | refine flushUnits_keeps ?_ | refine bump_keeps ?_ | refine putOut_keeps ?_ | refine videoStep_keeps ?_ | refine finishClose_keeps ?_ | refine keep_ite (P := Keeps μ σ) ?_ ?_ | refine OnOk.ok ?_ | exact OnOk.error | refine keep_ite (P := OnOk (Keeps μ σ)) ?_ ?_ | intro _ | split | dsimp only

theorem execVideoPictureDone_keeps {μ : Nat} {σ : State} {cluster : Nat} {outcome : MediaOutcome} {recipe : Option RecipeStep} {s : State} (hK : Keeps μ σ s)
    (hm : Sub 0x400001000380080010000000c0608a16 μ := by first | assumption | exact Sub.of ‹Sub _ _› ⟨by decide +kernel⟩) :
    OnNext (Keeps μ σ) (execVideoPictureDone cluster outcome recipe s) := by
  unfold execVideoPictureDone
  try dsimp only
  repeat' with_reducible first | assumption | refine pictureDone_keeps ?_ | refine OnNext.next ?_ | refine OnOk.ok ?_ | exact OnOk.error | refine OnSome.some ?_ | exact OnSome.none | refine OnSomeOf.some ?_ | exact OnSomeOf.none | refine OnOkOf.ok ?_ | exact OnOkOf.error | refine act_keeps ?_ ?_ | refine live_keeps ?_ ?_ | refine keep_ite (P := OnNext (Keeps μ σ)) ?_ ?_ | refine keep_ite (P := Keeps μ σ) ?_ ?_ | refine keep_ite (P := OnOk (Keeps μ σ)) ?_ ?_ | intro _ | split | dsimp only

theorem decLeave_keeps {μ : Nat} {σ : State} {s : State} {c : Nat} {ctx : Nat} (hK : Keeps μ σ s)
    (hm : Sub 0x8008000000000000000a00 μ := by first | assumption | exact Sub.of ‹Sub _ _› ⟨by decide +kernel⟩) :
    Keeps μ σ (State.decLeave s c ctx) := by
  unfold State.decLeave
  try dsimp only
  repeat' with_reducible first | assumption | refine bufFlight_keeps ?_ | refine putDec_keeps ?_ | refine putVunit_keeps ?_ | refine add_keeps ?_ | refine keep_ite (P := Keeps μ σ) ?_ ?_ | refine keep_foldl (P := Keeps μ σ) ?_ ?_ | refine OnOk.ok ?_ | exact OnOk.error | refine keep_ite (P := OnOk (Keeps μ σ)) ?_ ?_ | intro _ | split | dsimp only

theorem decReturn_keeps {μ : Nat} {σ : State} {s : State} {c : Nat} {ctx : Nat} (hK : Keeps μ σ s)
    (hm : Sub 0x10000000000000000000800 μ := by first | assumption | exact Sub.of ‹Sub _ _› ⟨by decide +kernel⟩) :
    Keeps μ σ (State.decReturn s c ctx) := by
  unfold State.decReturn
  try dsimp only
  repeat' with_reducible first | assumption | refine putDec_keeps ?_ | refine putDecQueue_keeps ?_ | refine serveVideo_keeps ?_ | refine keep_ite (P := Keeps μ σ) ?_ ?_ | refine keep_foldl (P := Keeps μ σ) ?_ ?_ | refine OnOk.ok ?_ | exact OnOk.error | refine keep_ite (P := OnOk (Keeps μ σ)) ?_ ?_ | intro _ | split | dsimp only

theorem decDestroy_keeps {μ : Nat} {σ : State} {s : State} {ctx : Nat} (hK : Keeps μ σ s)
    (hm : Sub 0x30000000000000000000800 μ := by first | assumption | exact Sub.of ‹Sub _ _› ⟨by decide +kernel⟩) :
    Keeps μ σ (State.decDestroy s ctx) := by
  unfold State.decDestroy
  try dsimp only
  repeat' with_reducible first | assumption | refine putDec_keeps ?_ | refine promote_keeps ?_ | refine streamRegs_keeps ?_ | refine keep_ite (P := Keeps μ σ) ?_ ?_ | refine keep_foldl (P := Keeps μ σ) ?_ ?_ | refine OnOk.ok ?_ | exact OnOk.error | refine keep_ite (P := OnOk (Keeps μ σ)) ?_ ?_ | intro _ | split | dsimp only

theorem execIslandSpeedSample_keeps {μ : Nat} {σ : State} {cluster : Nat} {speed : Nat} {s : State} (hK : Keeps μ σ s)
    (hm : Sub 0xc00000000000000c0000006 μ := by first | assumption | exact Sub.of ‹Sub _ _› ⟨by decide +kernel⟩) :
    OnNext (Keeps μ σ) (execIslandSpeedSample cluster speed s) := by
  unfold execIslandSpeedSample
  try dsimp only
  repeat' with_reducible first | assumption | refine setN_keeps ?_ | refine bump_keeps ?_ | refine raise_keeps ?_ | refine OnNext.next ?_ | refine OnOk.ok ?_ | exact OnOk.error | refine OnSome.some ?_ | exact OnSome.none | refine OnSomeOf.some ?_ | exact OnSomeOf.none | refine OnOkOf.ok ?_ | exact OnOkOf.error | refine act_keeps ?_ ?_ | refine live_keeps ?_ ?_ | refine keep_ite (P := OnNext (Keeps μ σ)) ?_ ?_ | refine keep_ite (P := Keeps μ σ) ?_ ?_ | refine keep_ite (P := OnOk (Keeps μ σ)) ?_ ?_ | intro _ | split | dsimp only

end Sys2Proof.Laws
end

