-- ==== Sys2Proof/Laws/KeepEngines.lean ====
section
/-! SUPPORT. What each operation of Machine/Engines.lean changes: outside the zones of its mask it keeps everything, and it
keeps the invariant. -/
namespace Sys2Proof.Laws
open Sys2Proof.Machine
set_option Elab.async false
set_option linter.unreachableTactic false
set_option linter.unusedTactic false

theorem putComp_keeps {μ : Nat} {σ : State} {s : State} {x : Compute} (hK : Keeps μ σ s)
    (hm : Sub 0x4000 μ := by first | assumption | exact Sub.of ‹Sub _ _› ⟨by decide +kernel⟩) :
    Keeps μ σ (State.putComp s x) := by
  unfold State.putComp
  try dsimp only
  repeat' with_reducible first | assumption | refine keep_ite (P := Keeps μ σ) ?_ ?_ | (refine Keeps.lit (M := 0x4000) ?_; first | assumption | refine keep_ite (P := Keeps μ σ) ?_ ?_) | refine OnOk.ok ?_ | exact OnOk.error | refine keep_ite (P := OnOk (Keeps μ σ)) ?_ ?_ | intro _ | split | dsimp only

theorem putCs_keeps {μ : Nat} {σ : State} {s : State} {x : ClusterState} (hK : Keeps μ σ s)
    (hm : Sub 0x4000 μ := by first | assumption | exact Sub.of ‹Sub _ _› ⟨by decide +kernel⟩) :
    Keeps μ σ (State.putCs s x) := by
  unfold State.putCs
  try dsimp only
  repeat' with_reducible first | assumption | refine putComp_keeps ?_ | refine keep_ite (P := Keeps μ σ) ?_ ?_ | refine OnOk.ok ?_ | exact OnOk.error | refine keep_ite (P := OnOk (Keeps μ σ)) ?_ ?_ | intro _ | split | dsimp only

theorem putCore_keeps {μ : Nat} {σ : State} {s : State} {c : Nat} {k : Core} (hK : Keeps μ σ s)
    (hm : Sub 0x4000 μ := by first | assumption | exact Sub.of ‹Sub _ _› ⟨by decide +kernel⟩) :
    Keeps μ σ (State.putCore s c k) := by
  unfold State.putCore
  try dsimp only
  repeat' with_reducible first | assumption | refine putCs_keeps ?_ | refine keep_ite (P := Keeps μ σ) ?_ ?_ | refine OnOk.ok ?_ | exact OnOk.error | refine keep_ite (P := OnOk (Keeps μ σ)) ?_ ?_ | intro _ | split | dsimp only

theorem engineExec_keeps {μ : Nat} {σ : State} {s : State} {c : Nat} {i : Nat} {e : Nat} {pc : Nat} {o : EngineOp} (hK : Keeps μ σ s)
    (hm : Sub 0x804000 μ := by first | assumption | exact Sub.of ‹Sub _ _› ⟨by decide +kernel⟩) :
    Keeps μ σ (State.engineExec s c i e pc o) := by
  unfold State.engineExec
  try dsimp only
  repeat' with_reducible first | assumption | refine putCore_keeps ?_ | refine drawn_keeps ?_ | refine keep_ite (P := Keeps μ σ) ?_ ?_ | refine OnOk.ok ?_ | exact OnOk.error | refine keep_ite (P := OnOk (Keeps μ σ)) ?_ ?_ | intro _ | split | dsimp only

theorem drainEngine_keeps {μ : Nat} {σ : State} {s : State} {c : Nat} {i : Nat} {e : Nat} {x0 : Nat} (hK : Keeps μ σ s)
    (hm : Sub 0x804000 μ := by first | assumption | exact Sub.of ‹Sub _ _› ⟨by decide +kernel⟩) :
    Keeps μ σ (State.drainEngine s c i e x0) := by
  induction x0 generalizing s c i e with
  | zero =>
    unfold State.drainEngine
    try dsimp only
    repeat' with_reducible first | assumption | refine putCore_keeps ?_ | refine engineExec_keeps ?_ | refine keep_ite (P := Keeps μ σ) ?_ ?_ | refine OnOk.ok ?_ | exact OnOk.error | refine keep_ite (P := OnOk (Keeps μ σ)) ?_ ?_ | intro _ | split | dsimp only
  | succ n ih =>
    unfold State.drainEngine
    try dsimp only
    repeat' with_reducible first | assumption | refine ih ?_ | refine putCore_keeps ?_ | refine engineExec_keeps ?_ | refine keep_ite (P := Keeps μ σ) ?_ ?_ | refine OnOk.ok ?_ | exact OnOk.error | refine keep_ite (P := OnOk (Keeps μ σ)) ?_ ?_ | intro _ | split | dsimp only

theorem wakeEngines_keeps {μ : Nat} {σ : State} {s : State} {c : Nat} {i : Nat} (hK : Keeps μ σ s)
    (hm : Sub 0x804000 μ := by first | assumption | exact Sub.of ‹Sub _ _› ⟨by decide +kernel⟩) :
    Keeps μ σ (State.wakeEngines s c i) := by
  unfold State.wakeEngines
  try dsimp only
  repeat' with_reducible first | assumption | refine putCore_keeps ?_ | refine drainEngine_keeps ?_ | refine keep_ite (P := Keeps μ σ) ?_ ?_ | refine keep_foldl (P := Keeps μ σ) ?_ ?_ | refine OnOk.ok ?_ | exact OnOk.error | refine keep_ite (P := OnOk (Keeps μ σ)) ?_ ?_ | intro _ | split | dsimp only

theorem issue_keeps {μ : Nat} {σ : State} {s : State} {a : EngineAt} {o : EngineOp} (hK : Keeps μ σ s)
    (hm : Sub 0x804000 μ := by first | assumption | exact Sub.of ‹Sub _ _› ⟨by decide +kernel⟩) :
    Keeps μ σ (State.issue s a o) := by
  unfold State.issue
  try dsimp only
  repeat' with_reducible first | assumption | refine putCore_keeps ?_ | refine wakeEngines_keeps ?_ | refine keep_ite (P := Keeps μ σ) ?_ ?_ | refine OnOk.ok ?_ | exact OnOk.error | refine keep_ite (P := OnOk (Keeps μ σ)) ?_ ?_ | intro _ | split | dsimp only

theorem execEngineLdSt_keeps {μ : Nat} {σ : State} {at_ : EngineAt} {op : LdSt} {s : State} (hK : Keeps μ σ s)
    (hm : Sub 0x804000 μ := by first | assumption | exact Sub.of ‹Sub _ _› ⟨by decide +kernel⟩) :
    OnNext (Keeps μ σ) (execEngineLdSt at_ op s) := by
  unfold execEngineLdSt
  try dsimp only
  repeat' with_reducible first | assumption | refine issue_keeps ?_ | refine OnNext.next ?_ | refine OnOk.ok ?_ | exact OnOk.error | refine OnSome.some ?_ | exact OnSome.none | refine OnSomeOf.some ?_ | exact OnSomeOf.none | refine OnOkOf.ok ?_ | exact OnOkOf.error | refine act_keeps ?_ ?_ | refine live_keeps ?_ ?_ | refine keep_ite (P := OnNext (Keeps μ σ)) ?_ ?_ | refine keep_ite (P := Keeps μ σ) ?_ ?_ | refine keep_ite (P := OnOk (Keeps μ σ)) ?_ ?_ | intro _ | split | dsimp only

theorem execEngineMma_keeps {μ : Nat} {σ : State} {at_ : EngineAt} {op : MmaOp} {s : State} (hK : Keeps μ σ s)
    (hm : Sub 0x804000 μ := by first | assumption | exact Sub.of ‹Sub _ _› ⟨by decide +kernel⟩) :
    OnNext (Keeps μ σ) (execEngineMma at_ op s) := by
  unfold execEngineMma
  try dsimp only
  repeat' with_reducible first | assumption | refine issue_keeps ?_ | refine OnNext.next ?_ | refine OnOk.ok ?_ | exact OnOk.error | refine OnSome.some ?_ | exact OnSome.none | refine OnSomeOf.some ?_ | exact OnSomeOf.none | refine OnOkOf.ok ?_ | exact OnOkOf.error | refine act_keeps ?_ ?_ | refine live_keeps ?_ ?_ | refine keep_ite (P := OnNext (Keeps μ σ)) ?_ ?_ | refine keep_ite (P := Keeps μ σ) ?_ ?_ | refine keep_ite (P := OnOk (Keeps μ σ)) ?_ ?_ | intro _ | split | dsimp only

theorem execEngineAcc_keeps {μ : Nat} {σ : State} {at_ : EngineAt} {op : AccOp} {s : State} (hK : Keeps μ σ s)
    (hm : Sub 0x804000 μ := by first | assumption | exact Sub.of ‹Sub _ _› ⟨by decide +kernel⟩) :
    OnNext (Keeps μ σ) (execEngineAcc at_ op s) := by
  unfold execEngineAcc
  try dsimp only
  repeat' with_reducible first | assumption | refine issue_keeps ?_ | refine OnNext.next ?_ | refine OnOk.ok ?_ | exact OnOk.error | refine OnSome.some ?_ | exact OnSome.none | refine OnSomeOf.some ?_ | exact OnSomeOf.none | refine OnOkOf.ok ?_ | exact OnOkOf.error | refine act_keeps ?_ ?_ | refine live_keeps ?_ ?_ | refine keep_ite (P := OnNext (Keeps μ σ)) ?_ ?_ | refine keep_ite (P := Keeps μ σ) ?_ ?_ | refine keep_ite (P := OnOk (Keeps μ σ)) ?_ ?_ | intro _ | split | dsimp only

theorem execEngineCvt_keeps {μ : Nat} {σ : State} {at_ : EngineAt} {op : CvtOp} {s : State} (hK : Keeps μ σ s)
    (hm : Sub 0x804000 μ := by first | assumption | exact Sub.of ‹Sub _ _› ⟨by decide +kernel⟩) :
    OnNext (Keeps μ σ) (execEngineCvt at_ op s) := by
  unfold execEngineCvt
  try dsimp only
  repeat' with_reducible first | assumption | refine issue_keeps ?_ | refine OnNext.next ?_ | refine OnOk.ok ?_ | exact OnOk.error | refine OnSome.some ?_ | exact OnSome.none | refine OnSomeOf.some ?_ | exact OnSomeOf.none | refine OnOkOf.ok ?_ | exact OnOkOf.error | refine act_keeps ?_ ?_ | refine live_keeps ?_ ?_ | refine keep_ite (P := OnNext (Keeps μ σ)) ?_ ?_ | refine keep_ite (P := Keeps μ σ) ?_ ?_ | refine keep_ite (P := OnOk (Keeps μ σ)) ?_ ?_ | intro _ | split | dsimp only

theorem execEngineValu_keeps {μ : Nat} {σ : State} {at_ : EngineAt} {op : ValuOp} {s : State} (hK : Keeps μ σ s)
    (hm : Sub 0x804000 μ := by first | assumption | exact Sub.of ‹Sub _ _› ⟨by decide +kernel⟩) :
    OnNext (Keeps μ σ) (execEngineValu at_ op s) := by
  unfold execEngineValu
  try dsimp only
  repeat' with_reducible first | assumption | refine issue_keeps ?_ | refine OnNext.next ?_ | refine OnOk.ok ?_ | exact OnOk.error | refine OnSome.some ?_ | exact OnSome.none | refine OnSomeOf.some ?_ | exact OnSomeOf.none | refine OnOkOf.ok ?_ | exact OnOkOf.error | refine act_keeps ?_ ?_ | refine live_keeps ?_ ?_ | refine keep_ite (P := OnNext (Keeps μ σ)) ?_ ?_ | refine keep_ite (P := Keeps μ σ) ?_ ?_ | refine keep_ite (P := OnOk (Keeps μ σ)) ?_ ?_ | intro _ | split | dsimp only

theorem execEngineVred_keeps {μ : Nat} {σ : State} {at_ : EngineAt} {op : VredOp} {s : State} (hK : Keeps μ σ s)
    (hm : Sub 0x804000 μ := by first | assumption | exact Sub.of ‹Sub _ _› ⟨by decide +kernel⟩) :
    OnNext (Keeps μ σ) (execEngineVred at_ op s) := by
  unfold execEngineVred
  try dsimp only
  repeat' with_reducible first | assumption | refine issue_keeps ?_ | refine OnNext.next ?_ | refine OnOk.ok ?_ | exact OnOk.error | refine OnSome.some ?_ | exact OnSome.none | refine OnSomeOf.some ?_ | exact OnSomeOf.none | refine OnOkOf.ok ?_ | exact OnOkOf.error | refine act_keeps ?_ ?_ | refine live_keeps ?_ ?_ | refine keep_ite (P := OnNext (Keeps μ σ)) ?_ ?_ | refine keep_ite (P := Keeps μ σ) ?_ ?_ | refine keep_ite (P := OnOk (Keeps μ σ)) ?_ ?_ | intro _ | split | dsimp only

theorem execEngineVperm_keeps {μ : Nat} {σ : State} {at_ : EngineAt} {op : VpermOp} {s : State} (hK : Keeps μ σ s)
    (hm : Sub 0x804000 μ := by first | assumption | exact Sub.of ‹Sub _ _› ⟨by decide +kernel⟩) :
    OnNext (Keeps μ σ) (execEngineVperm at_ op s) := by
  unfold execEngineVperm
  try dsimp only
  repeat' with_reducible first | assumption | refine issue_keeps ?_ | refine OnNext.next ?_ | refine OnOk.ok ?_ | exact OnOk.error | refine OnSome.some ?_ | exact OnSome.none | refine OnSomeOf.some ?_ | exact OnSomeOf.none | refine OnOkOf.ok ?_ | exact OnOkOf.error | refine act_keeps ?_ ?_ | refine live_keeps ?_ ?_ | refine keep_ite (P := OnNext (Keeps μ σ)) ?_ ?_ | refine keep_ite (P := Keeps μ σ) ?_ ?_ | refine keep_ite (P := OnOk (Keeps μ σ)) ?_ ?_ | intro _ | split | dsimp only

theorem execEngineSync_keeps {μ : Nat} {σ : State} {at_ : EngineAt} {target : SyncTarget} {s : State} (hK : Keeps μ σ s)
    (hm : Sub 0x804000 μ := by first | assumption | exact Sub.of ‹Sub _ _› ⟨by decide +kernel⟩) :
    OnNext (Keeps μ σ) (execEngineSync at_ target s) := by
  unfold execEngineSync
  try dsimp only
  repeat' with_reducible first | assumption | refine issue_keeps ?_ | refine OnNext.next ?_ | refine OnOk.ok ?_ | exact OnOk.error | refine OnSome.some ?_ | exact OnSome.none | refine OnSomeOf.some ?_ | exact OnSomeOf.none | refine OnOkOf.ok ?_ | exact OnOkOf.error | refine act_keeps ?_ ?_ | refine live_keeps ?_ ?_ | refine keep_ite (P := OnNext (Keeps μ σ)) ?_ ?_ | refine keep_ite (P := Keeps μ σ) ?_ ?_ | refine keep_ite (P := OnOk (Keeps μ σ)) ?_ ?_ | intro _ | split | dsimp only

theorem dmaIssue_keeps {μ : Nat} {σ : State} {s : State} {c : Nat} {i : Nat} {pc : Nat} {o : DmaOp} (hK : Keeps μ σ s)
    (hm : Sub 0x8000000000000004200 μ := by first | assumption | exact Sub.of ‹Sub _ _› ⟨by decide +kernel⟩) :
    Keeps μ σ (State.dmaIssue s c i pc o) := by
  unfold State.dmaIssue
  try dsimp only
  repeat' with_reducible first | assumption | refine putCore_keeps ?_ | refine bufFlight_keeps ?_ | refine keep_ite (P := Keeps μ σ) ?_ ?_ | refine OnOk.ok ?_ | exact OnOk.error | refine keep_ite (P := OnOk (Keeps μ σ)) ?_ ?_ | intro _ | split | dsimp only

theorem execDmaTransfer_keeps {μ : Nat} {σ : State} {cluster : Nat} {core : Nat} {pc : Nat} {op : DmaOp} {s : State} (hK : Keeps μ σ s)
    (hm : Sub 0x8000000000000004200 μ := by first | assumption | exact Sub.of ‹Sub _ _› ⟨by decide +kernel⟩) :
    OnNext (Keeps μ σ) (execDmaTransfer cluster core pc op s) := by
  unfold execDmaTransfer
  try dsimp only
  repeat' with_reducible first | assumption | refine dmaIssue_keeps ?_ | refine OnNext.next ?_ | refine OnOk.ok ?_ | exact OnOk.error | refine OnSome.some ?_ | exact OnSome.none | refine OnSomeOf.some ?_ | exact OnSomeOf.none | refine OnOkOf.ok ?_ | exact OnOkOf.error | refine act_keeps ?_ ?_ | refine live_keeps ?_ ?_ | refine keep_ite (P := OnNext (Keeps μ σ)) ?_ ?_ | refine keep_ite (P := Keeps μ σ) ?_ ?_ | refine keep_ite (P := OnOk (Keeps μ σ)) ?_ ?_ | intro _ | split | dsimp only

theorem dmaRow_keeps {μ : Nat} {σ : State} {s : State} {c : Nat} {i : Nat} {o : DmaOp} {k : Nat} (hK : Keeps μ σ s)
    (hm : Sub 0x40000000000008000000000000004200 μ := by first | assumption | exact Sub.of ‹Sub _ _› ⟨by decide +kernel⟩) :
    Keeps μ σ (State.dmaRow s c i o k) := by
  unfold State.dmaRow
  try dsimp only
  repeat' with_reducible first | assumption | refine putCore_keeps ?_ | refine putCs_keeps ?_ | refine putComp_keeps ?_ | refine bufWrite_keeps ?_ | refine keep_ite (P := Keeps μ σ) ?_ ?_ | refine OnOk.ok ?_ | exact OnOk.error | refine keep_ite (P := OnOk (Keeps μ σ)) ?_ ?_ | intro _ | split | dsimp only

theorem dmaDone_keeps {μ : Nat} {σ : State} {s : State} {c : Nat} {i : Nat} (hK : Keeps μ σ s)
    (hm : Sub 0x40000000000008000000000000804200 μ := by first | assumption | exact Sub.of ‹Sub _ _› ⟨by decide +kernel⟩) :
    Keeps μ σ (State.dmaDone s c i) := by
  unfold State.dmaDone
  try dsimp only
  repeat' with_reducible first | assumption | refine putCore_keeps ?_ | refine dmaRow_keeps ?_ | refine bufFlight_keeps ?_ | refine wakeEngines_keeps ?_ | refine keep_ite (P := Keeps μ σ) ?_ ?_ | refine keep_foldl (P := Keeps μ σ) ?_ ?_ | refine OnOk.ok ?_ | exact OnOk.error | refine keep_ite (P := OnOk (Keeps μ σ)) ?_ ?_ | intro _ | split | dsimp only

theorem execDmaComplete_keeps {μ : Nat} {σ : State} {cluster : Nat} {core : Nat} {s : State} (hK : Keeps μ σ s)
    (hm : Sub 0x40000000000008000000000000804200 μ := by first | assumption | exact Sub.of ‹Sub _ _› ⟨by decide +kernel⟩) :
    OnNext (Keeps μ σ) (execDmaComplete cluster core s) := by
  unfold execDmaComplete
  try dsimp only
  repeat' with_reducible first | assumption | refine dmaDone_keeps ?_ | refine OnNext.next ?_ | refine OnOk.ok ?_ | exact OnOk.error | refine OnSome.some ?_ | exact OnSome.none | refine OnSomeOf.some ?_ | exact OnSomeOf.none | refine OnOkOf.ok ?_ | exact OnOkOf.error | refine act_keeps ?_ ?_ | refine live_keeps ?_ ?_ | refine keep_ite (P := OnNext (Keeps μ σ)) ?_ ?_ | refine keep_ite (P := Keeps μ σ) ?_ ?_ | refine keep_ite (P := OnOk (Keeps μ σ)) ?_ ?_ | intro _ | split | dsimp only

end Sys2Proof.Laws
end

