-- ==== Sys2Proof/Laws/KeepStandOps.lean ====
section
/-! SUPPORT. What each operation of Machine/StandOps.lean changes: outside the zones of its mask it keeps everything, and it
keeps the invariant. -/
namespace Sys2Proof.Laws
open Sys2Proof.Machine
set_option Elab.async false
set_option linter.unreachableTactic false
set_option linter.unusedTactic false

theorem putStand_keeps {μ : Nat} {σ : State} {s : State} {x : Stand} (hK : Keeps μ σ s)
    (hm : Sub 0x40 μ := by first | assumption | exact Sub.of ‹Sub _ _› ⟨by decide +kernel⟩) :
    Keeps μ σ (State.putStand s x) := by
  unfold State.putStand
  try dsimp only
  repeat' with_reducible first | assumption | refine keep_ite (P := Keeps μ σ) ?_ ?_ | (refine Keeps.lit (M := 0x40) ?_; first | assumption | refine keep_ite (P := Keeps μ σ) ?_ ?_) | refine OnOk.ok ?_ | exact OnOk.error | refine keep_ite (P := OnOk (Keeps μ σ)) ?_ ?_ | intro _ | split | dsimp only

theorem standRegs_keeps {μ : Nat} {σ : State} {s : State} (hK : Keeps μ σ s)
    (hm : Sub 0x800000000000 μ := by first | assumption | exact Sub.of ‹Sub _ _› ⟨by decide +kernel⟩) :
    Keeps μ σ (State.standRegs s) := by
  unfold State.standRegs
  try dsimp only
  repeat' with_reducible first | assumption | refine setN_keeps ?_ | refine keep_ite (P := Keeps μ σ) ?_ ?_ | refine keep_foldl (P := Keeps μ σ) ?_ ?_ | refine OnOk.ok ?_ | exact OnOk.error | refine keep_ite (P := OnOk (Keeps μ σ)) ?_ ?_ | intro _ | split | dsimp only

theorem tryPulse_keeps {μ : Nat} {σ : State} {s : State} {n : Nat} (hK : Keeps μ σ s)
    (hm : Sub 0x200000 μ := by first | assumption | exact Sub.of ‹Sub _ _› ⟨by decide +kernel⟩) :
    Keeps μ σ (State.tryPulse s n) := by
  unfold State.tryPulse
  try dsimp only
  repeat' with_reducible first | assumption | refine emit_keeps ?_ | refine keep_ite (P := Keeps μ σ) ?_ ?_ | refine OnOk.ok ?_ | exact OnOk.error | refine keep_ite (P := OnOk (Keeps μ σ)) ?_ ?_ | intro _ | split | dsimp only

theorem tryArm_keeps {μ : Nat} {σ : State} {s : State} {n : Nat} (hK : Keeps μ σ s)
    (hm : Sub 0x200040 μ := by first | assumption | exact Sub.of ‹Sub _ _› ⟨by decide +kernel⟩) :
    Keeps μ σ (State.tryArm s n) := by
  unfold State.tryArm
  try dsimp only
  repeat' with_reducible first | assumption | refine emit_keeps ?_ | refine putStand_keeps ?_ | refine tryPulse_keeps ?_ | refine keep_ite (P := Keeps μ σ) ?_ ?_ | refine OnOk.ok ?_ | exact OnOk.error | refine keep_ite (P := OnOk (Keeps μ σ)) ?_ ?_ | intro _ | split | dsimp only

theorem masterArrive_keeps {μ : Nat} {σ : State} {s : State} {m : Nat} {n : Nat} (hK : Keeps μ σ s)
    (hm : Sub 0x200040 μ := by first | assumption | exact Sub.of ‹Sub _ _› ⟨by decide +kernel⟩) :
    Keeps μ σ (State.masterArrive s m n) := by
  unfold State.masterArrive
  try dsimp only
  repeat' with_reducible first | assumption | refine putStand_keeps ?_ | refine tryArm_keeps ?_ | refine keep_ite (P := Keeps μ σ) ?_ ?_ | refine OnOk.ok ?_ | exact OnOk.error | refine keep_ite (P := OnOk (Keeps μ σ)) ?_ ?_ | intro _ | split | dsimp only

theorem sendArrive_keeps {μ : Nat} {σ : State} {s : State} {n : Nat} (hK : Keeps μ σ s)
    (hm : Sub 0x200040 μ := by first | assumption | exact Sub.of ‹Sub _ _› ⟨by decide +kernel⟩) :
    Keeps μ σ (State.sendArrive s n) := by
  unfold State.sendArrive
  try dsimp only
  repeat' with_reducible first | assumption | refine masterArrive_keeps ?_ | refine emit_keeps ?_ | refine keep_ite (P := Keeps μ σ) ?_ ?_ | refine OnOk.ok ?_ | exact OnOk.error | refine keep_ite (P := OnOk (Keeps μ σ)) ?_ ?_ | intro _ | split | dsimp only

theorem arriveNext_keeps {μ : Nat} {σ : State} {s : State} {group : Nat} {frame : Nat} (hK : Keeps μ σ s)
    (hm : Sub 0x800000200040 μ := by first | assumption | exact Sub.of ‹Sub _ _› ⟨by decide +kernel⟩) :
    Keeps μ σ (State.arriveNext s group frame) := by
  unfold State.arriveNext
  try dsimp only
  repeat' with_reducible first | assumption | refine putStand_keeps ?_ | refine standRegs_keeps ?_ | refine sendArrive_keeps ?_ | refine keep_ite (P := Keeps μ σ) ?_ ?_ | refine OnOk.ok ?_ | exact OnOk.error | refine keep_ite (P := OnOk (Keeps μ σ)) ?_ ?_ | intro _ | split | dsimp only

theorem takeArmed_keeps {μ : Nat} {σ : State} {s : State} (hK : Keeps μ σ s)
    (hm : Sub 0x40 μ := by first | assumption | exact Sub.of ‹Sub _ _› ⟨by decide +kernel⟩) :
    OnSomeOf (fun x => Keeps μ σ x.2.2) (State.takeArmed s) := by
  unfold State.takeArmed
  try dsimp only
  repeat' with_reducible first | assumption | refine putStand_keeps ?_ | refine OnNext.next ?_ | refine OnOk.ok ?_ | exact OnOk.error | refine OnSome.some ?_ | exact OnSome.none | refine OnSomeOf.some ?_ | exact OnSomeOf.none | refine OnOkOf.ok ?_ | exact OnOkOf.error | refine act_keeps ?_ ?_ | refine live_keeps ?_ ?_ | refine keep_ite (P := OnSomeOf (fun x => Keeps μ σ x.2.2)) ?_ ?_ | refine keep_ite (P := Keeps μ σ) ?_ ?_ | refine keep_ite (P := OnOk (Keeps μ σ)) ?_ ?_ | intro _ | split | dsimp only

theorem takeAborted_keeps {μ : Nat} {σ : State} {s : State} {n : Nat} (hK : Keeps μ σ s)
    (hm : Sub 0x800000000040 μ := by first | assumption | exact Sub.of ‹Sub _ _› ⟨by decide +kernel⟩) :
    Keeps μ σ (State.takeAborted s n).2 := by
  unfold State.takeAborted
  try dsimp only
  repeat' with_reducible first | assumption | refine putStand_keeps ?_ | refine bump_keeps ?_ | refine keep_ite (P := Keeps μ σ) ?_ ?_ | refine OnOk.ok ?_ | exact OnOk.error | refine keep_ite (P := OnOk (Keeps μ σ)) ?_ ?_ | intro _ | split | dsimp only

theorem rearrive_keeps {μ : Nat} {σ : State} {s : State} (hK : Keeps μ σ s)
    (hm : Sub 0x200040 μ := by first | assumption | exact Sub.of ‹Sub _ _› ⟨by decide +kernel⟩) :
    Keeps μ σ (State.rearrive s) := by
  unfold State.rearrive
  try dsimp only
  repeat' with_reducible first | assumption | refine sendArrive_keeps ?_ | refine keep_ite (P := Keeps μ σ) ?_ ?_ | refine keep_foldl (P := Keeps μ σ) ?_ ?_ | refine OnOk.ok ?_ | exact OnOk.error | refine keep_ite (P := OnOk (Keeps μ σ)) ?_ ?_ | intro _ | split | dsimp only

theorem acceptMaster_keeps {μ : Nat} {σ : State} {s : State} {m : Nat} {term : Nat} (hK : Keeps μ σ s)
    (hm : Sub 0x800000200040 μ := by first | assumption | exact Sub.of ‹Sub _ _› ⟨by decide +kernel⟩) :
    Keeps μ σ (State.acceptMaster s m term) := by
  unfold State.acceptMaster
  try dsimp only
  repeat' with_reducible first | assumption | refine putStand_keeps ?_ | refine standRegs_keeps ?_ | refine rearrive_keeps ?_ | refine keep_ite (P := Keeps μ σ) ?_ ?_ | refine OnOk.ok ?_ | exact OnOk.error | refine keep_ite (P := OnOk (Keeps μ σ)) ?_ ?_ | intro _ | split | dsimp only

theorem announce_keeps {μ : Nat} {σ : State} {s : State} (hK : Keeps μ σ s)
    (hm : Sub 0x800000200040 μ := by first | assumption | exact Sub.of ‹Sub _ _› ⟨by decide +kernel⟩) :
    Keeps μ σ (State.announce s) := by
  unfold State.announce
  try dsimp only
  repeat' with_reducible first | assumption | refine emit_keeps ?_ | refine acceptMaster_keeps ?_ | refine keep_ite (P := Keeps μ σ) ?_ ?_ | refine OnOk.ok ?_ | exact OnOk.error | refine keep_ite (P := OnOk (Keeps μ σ)) ?_ ?_ | intro _ | split | dsimp only

end Sys2Proof.Laws
end

