-- ==== Sys2Proof/Laws/KeepIntake.lean ====
section
/-! SUPPORT. What each operation of Machine/Intake.lean changes: outside the zones of its mask it keeps everything, and it
keeps the invariant. -/
namespace Sys2Proof.Laws
open Sys2Proof.Machine
set_option Elab.async false
set_option linter.unreachableTactic false
set_option linter.unusedTactic false

theorem putLive_keeps {μ : Nat} {σ : State} {s : State} {x : LiveStream} (hK : Keeps μ σ s)
    (hm : Sub 0x1000 μ := by first | assumption | exact Sub.of ‹Sub _ _› ⟨by decide +kernel⟩) :
    Keeps μ σ (State.putLive s x) := by
  unfold State.putLive
  try dsimp only
  repeat' with_reducible first | assumption | refine keep_ite (P := Keeps μ σ) ?_ ?_ | (refine Keeps.lit (M := 0x1000) ?_; first | assumption | refine keep_ite (P := Keeps μ σ) ?_ ?_) | refine OnOk.ok ?_ | exact OnOk.error | refine keep_ite (P := OnOk (Keeps μ σ)) ?_ ?_ | intro _ | split | dsimp only

theorem dropPacket_keeps {μ : Nat} {σ : State} {s : State} (hK : Keeps μ σ s)
    (hm : Sub 0x100000000000000000000000 μ := by first | assumption | exact Sub.of ‹Sub _ _› ⟨by decide +kernel⟩) :
    Keeps μ σ (State.dropPacket s) := by
  unfold State.dropPacket
  try dsimp only
  repeat' with_reducible first | assumption | refine bump_keeps ?_ | refine keep_ite (P := Keeps μ σ) ?_ ?_ | refine OnOk.ok ?_ | exact OnOk.error | refine keep_ite (P := OnOk (Keeps μ σ)) ?_ ?_ | intro _ | split | dsimp only

theorem toStore_keeps {μ : Nat} {σ : State} {s : State} {x : StoreItem} (hK : Keeps μ σ s)
    (hm : Sub 0x1000 μ := by first | assumption | exact Sub.of ‹Sub _ _› ⟨by decide +kernel⟩) :
    Keeps μ σ (State.toStore s x) := by
  unfold State.toStore
  try dsimp only
  repeat' with_reducible first | assumption | refine keep_ite (P := Keeps μ σ) ?_ ?_ | (refine Keeps.lit (M := 0x1000) ?_; first | assumption | refine keep_ite (P := Keeps μ σ) ?_ ?_) | refine OnOk.ok ?_ | exact OnOk.error | refine keep_ite (P := OnOk (Keeps μ σ)) ?_ ?_ | intro _ | split | dsimp only

theorem putGroup_keeps {μ : Nat} {σ : State} {s : State} {x : FuseGroup} (hK : Keeps μ σ s)
    (hm : Sub 0x1000 μ := by first | assumption | exact Sub.of ‹Sub _ _› ⟨by decide +kernel⟩) :
    Keeps μ σ (State.putGroup s x) := by
  unfold State.putGroup
  try dsimp only
  repeat' with_reducible first | assumption | refine keep_ite (P := Keeps μ σ) ?_ ?_ | (refine Keeps.lit (M := 0x1000) ?_; first | assumption | refine keep_ite (P := Keeps μ σ) ?_ ?_) | refine OnOk.ok ?_ | exact OnOk.error | refine keep_ite (P := OnOk (Keeps μ σ)) ?_ ?_ | intro _ | split | dsimp only

theorem storeFused_keeps {μ : Nat} {σ : State} {s : State} {g : Nat} {f : FusedFrame} {layers : List Decided} {aborted : Bool} {barrier : Nat} {ring : Nat} {grain : Nat} (hK : Keeps μ σ s)
    (hm : Sub 0x1000 μ := by first | assumption | exact Sub.of ‹Sub _ _› ⟨by decide +kernel⟩) :
    Keeps μ σ (State.storeFused s g f layers aborted barrier ring grain) := by
  unfold State.storeFused
  try dsimp only
  repeat' with_reducible first | assumption | refine putGroup_keeps ?_ | refine toStore_keeps ?_ | refine keep_ite (P := Keeps μ σ) ?_ ?_ | refine OnOk.ok ?_ | exact OnOk.error | refine keep_ite (P := OnOk (Keeps μ σ)) ?_ ?_ | intro _ | split | dsimp only

theorem standRelease_keeps {μ : Nat} {σ : State} {s : State} (hK : Keeps μ σ s)
    (hm : Sub 0x201040 μ := by first | assumption | exact Sub.of ‹Sub _ _› ⟨by decide +kernel⟩) :
    Keeps μ σ (State.standRelease s) := by
  unfold State.standRelease
  try dsimp only
  repeat' with_reducible first | assumption | refine takeArmed_keeps ?_ | refine keep_of_some_23 ‹_› (takeArmed_keeps ?_) | refine emit_keeps ?_ | refine storeFused_keeps ?_ | refine keep_ite (P := Keeps μ σ) ?_ ?_ | refine keep_foldl (P := Keeps μ σ) ?_ ?_ | refine OnOk.ok ?_ | exact OnOk.error | refine keep_ite (P := OnOk (Keeps μ σ)) ?_ ?_ | intro _ | split | dsimp only

theorem standAborted_keeps {μ : Nat} {σ : State} {s : State} {n : Nat} {status : Nat} (hK : Keeps μ σ s)
    (hm : Sub 0x800000201040 μ := by first | assumption | exact Sub.of ‹Sub _ _› ⟨by decide +kernel⟩) :
    Keeps μ σ (State.standAborted s n status) := by
  unfold State.standAborted
  try dsimp only
  repeat' with_reducible first | assumption | refine takeAborted_keeps ?_ | refine keep_of_snd ‹_› (takeAborted_keeps ?_) | refine emit_keeps ?_ | refine storeFused_keeps ?_ | refine keep_ite (P := Keeps μ σ) ?_ ?_ | refine keep_foldl (P := Keeps μ σ) ?_ ?_ | refine OnOk.ok ?_ | exact OnOk.error | refine keep_ite (P := OnOk (Keeps μ σ)) ?_ ?_ | intro _ | split | dsimp only

theorem arriveWork_keeps {μ : Nat} {σ : State} {s : State} {g : Nat} {k : Nat} (hK : Keeps μ σ s)
    (hm : Sub 0x800000201040 μ := by first | assumption | exact Sub.of ‹Sub _ _› ⟨by decide +kernel⟩) :
    Keeps μ σ (State.arriveWork s g k) := by
  unfold State.arriveWork
  try dsimp only
  repeat' with_reducible first | assumption | refine putGroup_keeps ?_ | refine arriveNext_keeps ?_ | refine standRelease_keeps ?_ | refine keep_ite (P := Keeps μ σ) ?_ ?_ | refine OnOk.ok ?_ | exact OnOk.error | refine keep_ite (P := OnOk (Keeps μ σ)) ?_ ?_ | intro _ | split | dsimp only

theorem flushGroup_keeps {μ : Nat} {σ : State} {s : State} {g : Nat} {x0 : Nat} (hK : Keeps μ σ s)
    (hm : Sub 0x800000201040 μ := by first | assumption | exact Sub.of ‹Sub _ _› ⟨by decide +kernel⟩) :
    Keeps μ σ (State.flushGroup s g x0) := by
  induction x0 generalizing s g with
  | zero =>
    unfold State.flushGroup
    try dsimp only
    repeat' with_reducible first | assumption | refine storeFused_keeps ?_ | refine putGroup_keeps ?_ | refine emit_keeps ?_ | refine arriveWork_keeps ?_ | refine keep_ite (P := Keeps μ σ) ?_ ?_ | refine OnOk.ok ?_ | exact OnOk.error | refine keep_ite (P := OnOk (Keeps μ σ)) ?_ ?_ | intro _ | split | dsimp only
  | succ n ih =>
    unfold State.flushGroup
    try dsimp only
    repeat' with_reducible first | assumption | refine ih ?_ | refine storeFused_keeps ?_ | refine putGroup_keeps ?_ | refine emit_keeps ?_ | refine arriveWork_keeps ?_ | refine keep_ite (P := Keeps μ σ) ?_ ?_ | refine OnOk.ok ?_ | exact OnOk.error | refine keep_ite (P := OnOk (Keeps μ σ)) ?_ ?_ | intro _ | split | dsimp only

theorem dropFused_keeps {μ : Nat} {σ : State} {s : State} {g : Nat} {f : FusedFrame} (hK : Keeps μ σ s)
    (hm : Sub 0x2000000000000000c0001006 μ := by first | assumption | exact Sub.of ‹Sub _ _› ⟨by decide +kernel⟩) :
    Keeps μ σ (State.dropFused s g f) := by
  unfold State.dropFused
  try dsimp only
  repeat' with_reducible first | assumption | refine putGroup_keeps ?_ | refine bump_keeps ?_ | refine raise_keeps ?_ | refine toStore_keeps ?_ | refine keep_ite (P := Keeps μ σ) ?_ ?_ | refine keep_foldl (P := Keeps μ σ) ?_ ?_ | refine OnOk.ok ?_ | exact OnOk.error | refine keep_ite (P := OnOk (Keeps μ σ)) ?_ ?_ | intro _ | split | dsimp only

theorem tryDecide_keeps {μ : Nat} {σ : State} {s : State} {g : Nat} {k : Nat} {force : Bool} (hK : Keeps μ σ s)
    (hm : Sub 0x2000000000008000c0201046 μ := by first | assumption | exact Sub.of ‹Sub _ _› ⟨by decide +kernel⟩) :
    Keeps μ σ (State.tryDecide s g k force) := by
  unfold State.tryDecide
  try dsimp only
  repeat' with_reducible first | assumption | refine dropFused_keeps ?_ | refine flushGroup_keeps ?_ | refine putGroup_keeps ?_ | refine add_keeps ?_ | refine keep_ite (P := Keeps μ σ) ?_ ?_ | refine OnOk.ok ?_ | exact OnOk.error | refine keep_ite (P := OnOk (Keeps μ σ)) ?_ ?_ | intro _ | split | dsimp only

theorem openFused_keeps {μ : Nat} {σ : State} {s : State} {g : Nat} {k : Nat} {exposure : Nat} (hK : Keeps μ σ s)
    (hm : Sub 0x2000000000008000c0201046 μ := by first | assumption | exact Sub.of ‹Sub _ _› ⟨by decide +kernel⟩) :
    Keeps μ σ (State.openFused s g k exposure) := by
  unfold State.openFused
  try dsimp only
  repeat' with_reducible first | assumption | refine tryDecide_keeps ?_ | refine putGroup_keeps ?_ | refine keep_ite (P := Keeps μ σ) ?_ ?_ | refine OnOk.ok ?_ | exact OnOk.error | refine keep_ite (P := OnOk (Keeps μ σ)) ?_ ?_ | intro _ | split | dsimp only

theorem joinFused_keeps {μ : Nat} {σ : State} {s : State} {g : Nat} {f : Frame} {k : Nat} (hK : Keeps μ σ s)
    (hm : Sub 0x2000000000008000c0201046 μ := by first | assumption | exact Sub.of ‹Sub _ _› ⟨by decide +kernel⟩) :
    Keeps μ σ (State.joinFused s g f k) := by
  unfold State.joinFused
  try dsimp only
  repeat' with_reducible first | assumption | refine toStore_keeps ?_ | refine bump_keeps ?_ | refine putGroup_keeps ?_ | refine tryDecide_keeps ?_ | refine keep_ite (P := Keeps μ σ) ?_ ?_ | refine OnOk.ok ?_ | exact OnOk.error | refine keep_ite (P := OnOk (Keeps μ σ)) ?_ ?_ | intro _ | split | dsimp only

theorem afterFused_keeps {μ : Nat} {σ : State} {s : State} {g : Nat} {f : Frame} {layers : List Nat} (hK : Keeps μ σ s)
    (hm : Sub 0x200000000000000000001000 μ := by first | assumption | exact Sub.of ‹Sub _ _› ⟨by decide +kernel⟩) :
    Keeps μ σ (State.afterFused s g f layers) := by
  unfold State.afterFused
  try dsimp only
  repeat' with_reducible first | assumption | refine toStore_keeps ?_ | refine bump_keeps ?_ | refine keep_ite (P := Keeps μ σ) ?_ ?_ | refine OnOk.ok ?_ | exact OnOk.error | refine keep_ite (P := OnOk (Keeps μ σ)) ?_ ?_ | intro _ | split | dsimp only

theorem fuseAssign_keeps {μ : Nat} {σ : State} {s : State} {f : Frame} (hK : Keeps μ σ s)
    (hm : Sub 0x2000000000008000c0201046 μ := by first | assumption | exact Sub.of ‹Sub _ _› ⟨by decide +kernel⟩) :
    Keeps μ σ (State.fuseAssign s f) := by
  unfold State.fuseAssign
  try dsimp only
  repeat' with_reducible first | assumption | refine toStore_keeps ?_ | refine afterFused_keeps ?_ | refine joinFused_keeps ?_ | refine openFused_keeps ?_ | refine keep_ite (P := Keeps μ σ) ?_ ?_ | refine OnOk.ok ?_ | exact OnOk.error | refine keep_ite (P := OnOk (Keeps μ σ)) ?_ ?_ | intro _ | split | dsimp only

theorem completeFrame_keeps {μ : Nat} {σ : State} {s : State} {i : Nat} {a : AsmFrame} (hK : Keeps μ σ s)
    (hm : Sub 0x200007000000000008000c0201056 μ := by first | assumption | exact Sub.of ‹Sub _ _› ⟨by decide +kernel⟩) :
    Keeps μ σ (State.completeFrame s i a) := by
  unfold State.completeFrame
  try dsimp only
  repeat' with_reducible first | assumption | refine putLive_keeps ?_ | refine bump_keeps ?_ | refine bumpIf_keeps ?_ | refine add_keeps ?_ | refine journal_keeps ?_ | refine fuseAssign_keeps ?_ | refine keep_ite (P := Keeps μ σ) ?_ ?_ | refine OnOk.ok ?_ | exact OnOk.error | refine keep_ite (P := OnOk (Keeps μ σ)) ?_ ?_ | intro _ | split | dsimp only

theorem tryComplete_keeps {μ : Nat} {σ : State} {s : State} {i : Nat} {number : Nat} (hK : Keeps μ σ s)
    (hm : Sub 0x200007000000000008000c0201056 μ := by first | assumption | exact Sub.of ‹Sub _ _› ⟨by decide +kernel⟩) :
    Keeps μ σ (State.tryComplete s i number) := by
  unfold State.tryComplete
  try dsimp only
  repeat' with_reducible first | assumption | refine completeFrame_keeps ?_ | refine keep_ite (P := Keeps μ σ) ?_ ?_ | refine OnOk.ok ?_ | exact OnOk.error | refine keep_ite (P := OnOk (Keeps μ σ)) ?_ ?_ | intro _ | split | dsimp only

theorem takeSlot_keeps {μ : Nat} {σ : State} {s : State} {p : IntakePacket} (hK : Keeps μ σ s)
    (hm : Sub 0x200007000080000008000c0201256 μ := by first | assumption | exact Sub.of ‹Sub _ _› ⟨by decide +kernel⟩) :
    Keeps μ σ (State.takeSlot s p).1 := by
  unfold State.takeSlot
  try dsimp only
  repeat' with_reducible first | assumption | refine completeFrame_keeps ?_ | refine unitAlloc_keeps ?_ | refine keep_of_some_12 ‹_› (unitAlloc_keeps ?_) | refine keep_ite (P := Keeps μ σ) ?_ ?_ | refine OnOk.ok ?_ | exact OnOk.error | refine keep_ite (P := OnOk (Keeps μ σ)) ?_ ?_ | intro _ | split | dsimp only

theorem frameData_keeps {μ : Nat} {σ : State} {s : State} {p : IntakePacket} (hK : Keeps μ σ s)
    (hm : Sub 0x200007000080000008000c0201256 μ := by first | assumption | exact Sub.of ‹Sub _ _› ⟨by decide +kernel⟩) :
    Keeps μ σ (State.frameData s p) := by
  unfold State.frameData
  try dsimp only
  repeat' with_reducible first | assumption | refine dropPacket_keeps ?_ | refine takeSlot_keeps ?_ | refine keep_of_fst ‹_› (takeSlot_keeps ?_) | refine bump_keeps ?_ | refine putLive_keeps ?_ | refine tryComplete_keeps ?_ | refine keep_ite (P := Keeps μ σ) ?_ ?_ | refine OnOk.ok ?_ | exact OnOk.error | refine keep_ite (P := OnOk (Keeps μ σ)) ?_ ?_ | intro _ | split | dsimp only

theorem execFrameData_keeps {μ : Nat} {σ : State} {pkt : IntakePacket} {s : State} (hK : Keeps μ σ s)
    (hm : Sub 0x200007000080000008000c0201256 μ := by first | assumption | exact Sub.of ‹Sub _ _› ⟨by decide +kernel⟩) :
    OnNext (Keeps μ σ) (execFrameData pkt s) := by
  unfold execFrameData
  try dsimp only
  repeat' with_reducible first | assumption | refine frameData_keeps ?_ | refine OnNext.next ?_ | refine OnOk.ok ?_ | exact OnOk.error | refine OnSome.some ?_ | exact OnSome.none | refine OnSomeOf.some ?_ | exact OnSomeOf.none | refine OnOkOf.ok ?_ | exact OnOkOf.error | refine act_keeps ?_ ?_ | refine live_keeps ?_ ?_ | refine keep_ite (P := OnNext (Keeps μ σ)) ?_ ?_ | refine keep_ite (P := Keeps μ σ) ?_ ?_ | refine keep_ite (P := OnOk (Keeps μ σ)) ?_ ?_ | intro _ | split | dsimp only

theorem frameEnd_keeps {μ : Nat} {σ : State} {s : State} {p : IntakePacket} (hK : Keeps μ σ s)
    (hm : Sub 0x200007000000000008000c0201056 μ := by first | assumption | exact Sub.of ‹Sub _ _› ⟨by decide +kernel⟩) :
    Keeps μ σ (State.frameEnd s p) := by
  unfold State.frameEnd
  try dsimp only
  repeat' with_reducible first | assumption | refine dropPacket_keeps ?_ | refine bump_keeps ?_ | refine putLive_keeps ?_ | refine tryComplete_keeps ?_ | refine keep_ite (P := Keeps μ σ) ?_ ?_ | refine OnOk.ok ?_ | exact OnOk.error | refine keep_ite (P := OnOk (Keeps μ σ)) ?_ ?_ | intro _ | split | dsimp only

theorem execFrameEnd_keeps {μ : Nat} {σ : State} {pkt : IntakePacket} {s : State} (hK : Keeps μ σ s)
    (hm : Sub 0x200007000000000008000c0201056 μ := by first | assumption | exact Sub.of ‹Sub _ _› ⟨by decide +kernel⟩) :
    OnNext (Keeps μ σ) (execFrameEnd pkt s) := by
  unfold execFrameEnd
  try dsimp only
  repeat' with_reducible first | assumption | refine frameEnd_keeps ?_ | refine OnNext.next ?_ | refine OnOk.ok ?_ | exact OnOk.error | refine OnSome.some ?_ | exact OnSome.none | refine OnSomeOf.some ?_ | exact OnSomeOf.none | refine OnOkOf.ok ?_ | exact OnOkOf.error | refine act_keeps ?_ ?_ | refine live_keeps ?_ ?_ | refine keep_ite (P := OnNext (Keeps μ σ)) ?_ ?_ | refine keep_ite (P := Keeps μ σ) ?_ ?_ | refine keep_ite (P := OnOk (Keeps μ σ)) ?_ ?_ | intro _ | split | dsimp only

theorem execFrameTimeout_keeps {μ : Nat} {σ : State} {stream : Nat} {frame : Nat} {s : State} (hK : Keeps μ σ s)
    (hm : Sub 0x200007000000000008000c0201056 μ := by first | assumption | exact Sub.of ‹Sub _ _› ⟨by decide +kernel⟩) :
    OnNext (Keeps μ σ) (execFrameTimeout stream frame s) := by
  unfold execFrameTimeout
  try dsimp only
  repeat' with_reducible first | assumption | refine completeFrame_keeps ?_ | refine OnNext.next ?_ | refine OnOk.ok ?_ | exact OnOk.error | refine OnSome.some ?_ | exact OnSome.none | refine OnSomeOf.some ?_ | exact OnSomeOf.none | refine OnOkOf.ok ?_ | exact OnOkOf.error | refine act_keeps ?_ ?_ | refine live_keeps ?_ ?_ | refine keep_ite (P := OnNext (Keeps μ σ)) ?_ ?_ | refine keep_ite (P := Keeps μ σ) ?_ ?_ | refine keep_ite (P := OnOk (Keeps μ σ)) ?_ ?_ | intro _ | split | dsimp only

theorem catalogue_keeps {μ : Nat} {σ : State} {s : State} {e : CatEntry} (hK : Keeps μ σ s)
    (hm : Sub 0x1000 μ := by first | assumption | exact Sub.of ‹Sub _ _› ⟨by decide +kernel⟩) :
    Keeps μ σ (State.catalogue s e) := by
  unfold State.catalogue
  try dsimp only
  repeat' with_reducible first | assumption | refine keep_ite (P := Keeps μ σ) ?_ ?_ | (refine Keeps.lit (M := 0x1000) ?_; first | assumption | refine keep_ite (P := Keeps μ σ) ?_ ?_) | refine OnOk.ok ?_ | exact OnOk.error | refine keep_ite (P := OnOk (Keeps μ σ)) ?_ ?_ | intro _ | split | dsimp only

theorem freeStaging_keeps {μ : Nat} {σ : State} {s : State} {f : Frame} (hK : Keeps μ σ s)
    (hm : Sub 0x80000000000c0600206 μ := by first | assumption | exact Sub.of ‹Sub _ _› ⟨by decide +kernel⟩) :
    Keeps μ σ (State.freeStaging s f) := by
  unfold State.freeStaging
  try dsimp only
  repeat' with_reducible first | assumption | refine unitFree_keeps ?_ | refine keep_ite (P := Keeps μ σ) ?_ ?_ | refine OnOk.ok ?_ | exact OnOk.error | refine keep_ite (P := OnOk (Keeps μ σ)) ?_ ?_ | intro _ | split | dsimp only

theorem execFrameStore_keeps {μ : Nat} {σ : State} {encoded : List Bytes} {s : State} (hK : Keeps μ σ s)
    (hm : Sub 0x2000080000000000c0601206 μ := by first | assumption | exact Sub.of ‹Sub _ _› ⟨by decide +kernel⟩) :
    OnNext (Keeps μ σ) (execFrameStore encoded s) := by
  unfold execFrameStore
  try dsimp only
  repeat' with_reducible first | assumption | refine catalogue_keeps ?_ | refine freeStaging_keeps ?_ | refine bump_keeps ?_ | refine OnNext.next ?_ | refine OnOk.ok ?_ | exact OnOk.error | refine OnSome.some ?_ | exact OnSome.none | refine OnSomeOf.some ?_ | exact OnSomeOf.none | refine OnOkOf.ok ?_ | exact OnOkOf.error | refine act_keeps ?_ ?_ | refine live_keeps ?_ ?_ | refine keep_ite (P := OnNext (Keeps μ σ)) ?_ ?_ | refine keep_ite (P := Keeps μ σ) ?_ ?_ | refine keep_foldl (P := Keeps μ σ) ?_ ?_ | (refine Keeps.lit (M := 0x2000080000000000c0601206) ?_; first | assumption | refine catalogue_keeps ?_ | refine freeStaging_keeps ?_ | refine bump_keeps ?_ | refine keep_ite (P := Keeps μ σ) ?_ ?_ | refine keep_foldl (P := Keeps μ σ) ?_ ?_) | refine keep_ite (P := OnOk (Keeps μ σ)) ?_ ?_ | intro _ | split | dsimp only

theorem settingsApply_keeps {μ : Nat} {σ : State} {s : State} {i : Nat} {v : Bytes} (hK : Keeps μ σ s)
    (hm : Sub 0x400000000000000000201000 μ := by first | assumption | exact Sub.of ‹Sub _ _› ⟨by decide +kernel⟩) :
    OnOk (Keeps μ σ) (State.settingsApply s i v) := by
  unfold State.settingsApply
  try dsimp only
  repeat' with_reducible first | assumption | refine putLive_keeps ?_ | refine setN_keeps ?_ | refine touch_keeps ?_ | refine emit_keeps ?_ | refine OnNext.next ?_ | refine OnOk.ok ?_ | exact OnOk.error | refine OnSome.some ?_ | exact OnSome.none | refine OnSomeOf.some ?_ | exact OnSomeOf.none | refine OnOkOf.ok ?_ | exact OnOkOf.error | refine act_keeps ?_ ?_ | refine live_keeps ?_ ?_ | refine keep_ite (P := OnOk (Keeps μ σ)) ?_ ?_ | refine keep_ite (P := Keeps μ σ) ?_ ?_ | intro _ | split | dsimp only | refine keep_of_ok ‹_› ?_

theorem execSettingsWrite_keeps {μ : Nat} {σ : State} {via : Via} {stream : Nat} {value : Bytes} {s : State} (hK : Keeps μ σ s)
    (hm : Sub 0x200004000000000000020e060101e μ := by first | assumption | exact Sub.of ‹Sub _ _› ⟨by decide +kernel⟩) :
    OnNext (Keeps μ σ) (execSettingsWrite via stream value s) := by
  unfold execSettingsWrite
  try dsimp only
  repeat' with_reducible first | assumption | refine writeVia_keeps ?_ ?_ | refine settingsApply_keeps ?_ | refine keep_of_ok ‹_› (settingsApply_keeps ?_) | refine OnNext.next ?_ | refine OnOk.ok ?_ | exact OnOk.error | refine OnSome.some ?_ | exact OnSome.none | refine OnSomeOf.some ?_ | exact OnSomeOf.none | refine OnOkOf.ok ?_ | exact OnOkOf.error | refine act_keeps ?_ ?_ | refine live_keeps ?_ ?_ | refine keep_ite (P := OnNext (Keeps μ σ)) ?_ ?_ | refine keep_ite (P := Keeps μ σ) ?_ ?_ | refine keep_ite (P := OnOk (Keeps μ σ)) ?_ ?_ | intro _ | split | dsimp only | refine keep_of_ok ‹_› ?_

theorem execSettingsAck_keeps {μ : Nat} {σ : State} {pkt : IntakePacket} {s : State} (hK : Keeps μ σ s)
    (hm : Sub 0x100000000000000000001000 μ := by first | assumption | exact Sub.of ‹Sub _ _› ⟨by decide +kernel⟩) :
    OnNext (Keeps μ σ) (execSettingsAck pkt s) := by
  unfold execSettingsAck
  try dsimp only
  repeat' with_reducible first | assumption | refine dropPacket_keeps ?_ | refine bump_keeps ?_ | refine putLive_keeps ?_ | refine OnNext.next ?_ | refine OnOk.ok ?_ | exact OnOk.error | refine OnSome.some ?_ | exact OnSome.none | refine OnSomeOf.some ?_ | exact OnSomeOf.none | refine OnOkOf.ok ?_ | exact OnOkOf.error | refine act_keeps ?_ ?_ | refine live_keeps ?_ ?_ | refine keep_ite (P := OnNext (Keeps μ σ)) ?_ ?_ | refine keep_ite (P := Keeps μ σ) ?_ ?_ | refine keep_ite (P := OnOk (Keeps μ σ)) ?_ ?_ | intro _ | split | dsimp only

theorem execSettingsUnacked_keeps {μ : Nat} {σ : State} {stream : Nat} {generation : Nat} {s : State} (hK : Keeps μ σ s)
    (hm : Sub 0xc0001006 μ := by first | assumption | exact Sub.of ‹Sub _ _› ⟨by decide +kernel⟩) :
    OnNext (Keeps μ σ) (execSettingsUnacked stream generation s) := by
  unfold execSettingsUnacked
  try dsimp only
  repeat' with_reducible first | assumption | refine putLive_keeps ?_ | refine raise_keeps ?_ | refine OnNext.next ?_ | refine OnOk.ok ?_ | exact OnOk.error | refine OnSome.some ?_ | exact OnSome.none | refine OnSomeOf.some ?_ | exact OnSomeOf.none | refine OnOkOf.ok ?_ | exact OnOkOf.error | refine act_keeps ?_ ?_ | refine live_keeps ?_ ?_ | refine keep_ite (P := OnNext (Keeps μ σ)) ?_ ?_ | refine keep_ite (P := Keeps μ σ) ?_ ?_ | refine keep_ite (P := OnOk (Keeps μ σ)) ?_ ?_ | intro _ | split | dsimp only

theorem settingsResend_keeps {μ : Nat} {σ : State} {s : State} (hK : Keeps μ σ s)
    (hm : Sub 0x201000 μ := by first | assumption | exact Sub.of ‹Sub _ _› ⟨by decide +kernel⟩) :
    Keeps μ σ (State.settingsResend s) := by
  unfold State.settingsResend
  try dsimp only
  repeat' with_reducible first | assumption | refine putLive_keeps ?_ | refine emit_keeps ?_ | refine keep_ite (P := Keeps μ σ) ?_ ?_ | refine keep_foldl (P := Keeps μ σ) ?_ ?_ | refine OnOk.ok ?_ | exact OnOk.error | refine keep_ite (P := OnOk (Keeps μ σ)) ?_ ?_ | intro _ | split | dsimp only

theorem execFuseDecide_keeps {μ : Nat} {σ : State} {group : Nat} {index : Nat} {s : State} (hK : Keeps μ σ s)
    (hm : Sub 0x2000000000008000c0201046 μ := by first | assumption | exact Sub.of ‹Sub _ _› ⟨by decide +kernel⟩) :
    OnNext (Keeps μ σ) (execFuseDecide group index s) := by
  unfold execFuseDecide
  try dsimp only
  repeat' with_reducible first | assumption | refine tryDecide_keeps ?_ | refine OnNext.next ?_ | refine OnOk.ok ?_ | exact OnOk.error | refine OnSome.some ?_ | exact OnSome.none | refine OnSomeOf.some ?_ | exact OnSomeOf.none | refine OnOkOf.ok ?_ | exact OnOkOf.error | refine act_keeps ?_ ?_ | refine live_keeps ?_ ?_ | refine keep_ite (P := OnNext (Keeps μ σ)) ?_ ?_ | refine keep_ite (P := Keeps μ σ) ?_ ?_ | refine keep_ite (P := OnOk (Keeps μ σ)) ?_ ?_ | intro _ | split | dsimp only

theorem fuseOutcome_keeps {μ : Nat} {σ : State} {s : State} {m : Nat} {g : Nat} {k : Nat} {isAck : Bool} {ls : List LayerOutcome} (hK : Keeps μ σ s)
    (hm : Sub 0x800000201040 μ := by first | assumption | exact Sub.of ‹Sub _ _› ⟨by decide +kernel⟩) :
    Keeps μ σ (State.fuseOutcome s m g k isAck ls) := by
  unfold State.fuseOutcome
  try dsimp only
  repeat' with_reducible first | assumption | refine putGroup_keeps ?_ | refine flushGroup_keeps ?_ | refine emit_keeps ?_ | refine keep_ite (P := Keeps μ σ) ?_ ?_ | refine OnOk.ok ?_ | exact OnOk.error | refine keep_ite (P := OnOk (Keeps μ σ)) ?_ ?_ | intro _ | split | dsimp only

theorem execFuseOutcome_keeps {μ : Nat} {σ : State} {standId : Nat} {group : Nat} {index : Nat} {isAck : Bool} {layers : List LayerOutcome} {s : State} (hK : Keeps μ σ s)
    (hm : Sub 0x800000201040 μ := by first | assumption | exact Sub.of ‹Sub _ _› ⟨by decide +kernel⟩) :
    OnNext (Keeps μ σ) (execFuseOutcome standId group index isAck layers s) := by
  unfold execFuseOutcome
  try dsimp only
  repeat' with_reducible first | assumption | refine fuseOutcome_keeps ?_ | refine OnNext.next ?_ | refine OnOk.ok ?_ | exact OnOk.error | refine OnSome.some ?_ | exact OnSome.none | refine OnSomeOf.some ?_ | exact OnSomeOf.none | refine OnOkOf.ok ?_ | exact OnOkOf.error | refine act_keeps ?_ ?_ | refine live_keeps ?_ ?_ | refine keep_ite (P := OnNext (Keeps μ σ)) ?_ ?_ | refine keep_ite (P := Keeps μ σ) ?_ ?_ | refine keep_ite (P := OnOk (Keeps μ σ)) ?_ ?_ | intro _ | split | dsimp only

theorem liveEnable_keeps {μ : Nat} {σ : State} {s : State} {i : Nat} {v : Nat} (hK : Keeps μ σ s)
    (hm : Sub 0x200007000000000008000c0201056 μ := by first | assumption | exact Sub.of ‹Sub _ _› ⟨by decide +kernel⟩) :
    OnOk (Keeps μ σ) (State.liveEnable s i v) := by
  unfold State.liveEnable
  try dsimp only
  repeat' with_reducible first | assumption | refine completeFrame_keeps ?_ | refine storeN_keeps ?_ | refine OnNext.next ?_ | refine OnOk.ok ?_ | exact OnOk.error | refine OnSome.some ?_ | exact OnSome.none | refine OnSomeOf.some ?_ | exact OnSomeOf.none | refine OnOkOf.ok ?_ | exact OnOkOf.error | refine act_keeps ?_ ?_ | refine live_keeps ?_ ?_ | refine keep_ite (P := OnOk (Keeps μ σ)) ?_ ?_ | refine keep_ite (P := Keeps μ σ) ?_ ?_ | refine keep_foldl (P := Keeps μ σ) ?_ ?_ | intro _ | split | dsimp only | refine keep_of_ok ‹_› ?_

theorem groupEnable_keeps {μ : Nat} {σ : State} {s : State} {g : Nat} {v : Nat} (hK : Keeps μ σ s)
    (hm : Sub 0x2000000000008000c0201046 μ := by first | assumption | exact Sub.of ‹Sub _ _› ⟨by decide +kernel⟩) :
    OnOk (Keeps μ σ) (State.groupEnable s g v) := by
  unfold State.groupEnable
  try dsimp only
  repeat' with_reducible first | assumption | refine storeN_keeps ?_ | refine tryDecide_keeps ?_ | refine OnNext.next ?_ | refine OnOk.ok ?_ | exact OnOk.error | refine OnSome.some ?_ | exact OnSome.none | refine OnSomeOf.some ?_ | exact OnSomeOf.none | refine OnOkOf.ok ?_ | exact OnOkOf.error | refine act_keeps ?_ ?_ | refine live_keeps ?_ ?_ | refine keep_ite (P := OnOk (Keeps μ σ)) ?_ ?_ | refine keep_ite (P := Keeps μ σ) ?_ ?_ | refine keep_foldl (P := Keeps μ σ) ?_ ?_ | intro _ | split | dsimp only | refine keep_of_ok ‹_› ?_

end Sys2Proof.Laws
end

