-- ==== Sys2Proof/Laws/KeepTokenUnits.lean ====
section
/-! SUPPORT. What each operation of Machine/TokenUnits.lean changes: outside the zones of its mask it keeps everything, and it
keeps the invariant. -/
namespace Sys2Proof.Laws
open Sys2Proof.Machine
set_option Elab.async false
set_option linter.unreachableTactic false
set_option linter.unusedTactic false

theorem putTok_keeps {μ : Nat} {σ : State} {s : State} {t : Tokens} (hK : Keeps μ σ s)
    (hm : Sub 0x2000 μ := by first | assumption | exact Sub.of ‹Sub _ _› ⟨by decide +kernel⟩) :
    Keeps μ σ (State.putTok s t) := by
  unfold State.putTok
  try dsimp only
  repeat' with_reducible first | assumption | refine keep_ite (P := Keeps μ σ) ?_ ?_ | (refine Keeps.lit (M := 0x2000) ?_; first | assumption | refine keep_ite (P := Keeps μ σ) ?_ ?_) | refine OnOk.ok ?_ | exact OnOk.error | refine keep_ite (P := OnOk (Keeps μ σ)) ?_ ?_ | intro _ | split | dsimp only

theorem putTokQueue_keeps {μ : Nat} {σ : State} {s : State} {q : TokQueue} (hK : Keeps μ σ s)
    (hm : Sub 0x2000 μ := by first | assumption | exact Sub.of ‹Sub _ _› ⟨by decide +kernel⟩) :
    Keeps μ σ (State.putTokQueue s q) := by
  unfold State.putTokQueue
  try dsimp only
  repeat' with_reducible first | assumption | refine putTok_keeps ?_ | refine keep_ite (P := Keeps μ σ) ?_ ?_ | refine OnOk.ok ?_ | exact OnOk.error | refine keep_ite (P := OnOk (Keeps μ σ)) ?_ ?_ | intro _ | split | dsimp only

theorem vocabRegs_keeps {μ : Nat} {σ : State} {s : State} {c : Nat} (hK : Keeps μ σ s)
    (hm : Sub 0x3000000000000000000000000 μ := by first | assumption | exact Sub.of ‹Sub _ _› ⟨by decide +kernel⟩) :
    Keeps μ σ (State.vocabRegs s c) := by
  unfold State.vocabRegs
  try dsimp only
  repeat' with_reducible first | assumption | refine setN_keeps ?_ | refine setB_keeps ?_ | refine keep_ite (P := Keeps μ σ) ?_ ?_ | refine keep_foldl (P := Keeps μ σ) ?_ ?_ | refine OnOk.ok ?_ | exact OnOk.error | refine keep_ite (P := OnOk (Keeps μ σ)) ?_ ?_ | intro _ | split | dsimp only

theorem tokFinish_keeps {μ : Nat} {σ : State} {s : State} {e : TokEntry} {unit : Nat} {r : TokResult} {errs : List TokError} {count : Nat} {last : Nat} {bytes : Bytes} (hK : Keeps μ σ s)
    (hm : Sub 0x8000000010000000c0600006 μ := by first | assumption | exact Sub.of ‹Sub _ _› ⟨by decide +kernel⟩) :
    Keeps μ σ (State.tokFinish s e unit r errs count last bytes) := by
  unfold State.tokFinish
  try dsimp only
  repeat' with_reducible first | assumption | refine emit_keeps ?_ | refine raise_keeps ?_ | refine result_keeps ?_ | refine bumpIf_keeps ?_ | refine ends_keeps ?_ | refine refuse_keeps ?_ | refine keep_ite (P := Keeps μ σ) ?_ ?_ | refine OnOk.ok ?_ | exact OnOk.error | refine keep_ite (P := OnOk (Keeps μ σ)) ?_ ?_ | intro _ | split | dsimp only

theorem tokRefuse_keeps {μ : Nat} {σ : State} {s : State} {e : TokEntry} {unit : Nat} {code : Nat} {required : Nat} (hK : Keeps μ σ s)
    (hm : Sub 0x8000000010000000c0600006 μ := by first | assumption | exact Sub.of ‹Sub _ _› ⟨by decide +kernel⟩) :
    Keeps μ σ (State.tokRefuse s e unit code required) := by
  unfold State.tokRefuse
  try dsimp only
  repeat' with_reducible first | assumption | refine tokFinish_keeps ?_ | refine keep_ite (P := Keeps μ σ) ?_ ?_ | refine OnOk.ok ?_ | exact OnOk.error | refine keep_ite (P := OnOk (Keeps μ σ)) ?_ ?_ | intro _ | split | dsimp only

theorem tokSubmit_keeps {μ : Nat} {σ : State} {s : State} {k : TokKind} {r : Requester} {d : TokenDesc} (hK : Keeps μ σ s)
    (hm : Sub 0x8000000010000000c0602006 μ := by first | assumption | exact Sub.of ‹Sub _ _› ⟨by decide +kernel⟩) :
    Keeps μ σ (State.tokSubmit s k r d) := by
  unfold State.tokSubmit
  try dsimp only
  repeat' with_reducible first | assumption | refine tokRefuse_keeps ?_ | refine bump_keeps ?_ | refine refuse_keeps ?_ | refine putTok_keeps ?_ | refine ends_keeps ?_ | refine putTokQueue_keeps ?_ | refine keep_ite (P := Keeps μ σ) ?_ ?_ | refine OnOk.ok ?_ | exact OnOk.error | refine keep_ite (P := OnOk (Keeps μ σ)) ?_ ?_ | intro _ | split | dsimp only

theorem execTokenize_keeps {μ : Nat} {σ : State} {req : Requester} {desc : TokenDesc} {s : State} (hK : Keeps μ σ s)
    (hm : Sub 0x8000000010000000c0602006 μ := by first | assumption | exact Sub.of ‹Sub _ _› ⟨by decide +kernel⟩) :
    OnNext (Keeps μ σ) (execTokenize req desc s) := by
  unfold execTokenize
  try dsimp only
  repeat' with_reducible first | assumption | refine tokSubmit_keeps ?_ | refine OnNext.next ?_ | refine OnOk.ok ?_ | exact OnOk.error | refine OnSome.some ?_ | exact OnSome.none | refine OnSomeOf.some ?_ | exact OnSomeOf.none | refine OnOkOf.ok ?_ | exact OnOkOf.error | refine act_keeps ?_ ?_ | refine live_keeps ?_ ?_ | refine keep_ite (P := OnNext (Keeps μ σ)) ?_ ?_ | refine keep_ite (P := Keeps μ σ) ?_ ?_ | refine keep_ite (P := OnOk (Keeps μ σ)) ?_ ?_ | intro _ | split | dsimp only

theorem execDetokenize_keeps {μ : Nat} {σ : State} {req : Requester} {desc : TokenDesc} {s : State} (hK : Keeps μ σ s)
    (hm : Sub 0x8000000010000000c0602006 μ := by first | assumption | exact Sub.of ‹Sub _ _› ⟨by decide +kernel⟩) :
    OnNext (Keeps μ σ) (execDetokenize req desc s) := by
  unfold execDetokenize
  try dsimp only
  repeat' with_reducible first | assumption | refine tokSubmit_keeps ?_ | refine OnNext.next ?_ | refine OnOk.ok ?_ | exact OnOk.error | refine OnSome.some ?_ | exact OnSome.none | refine OnSomeOf.some ?_ | exact OnSomeOf.none | refine OnOkOf.ok ?_ | exact OnOkOf.error | refine act_keeps ?_ ?_ | refine live_keeps ?_ ?_ | refine keep_ite (P := OnNext (Keeps μ σ)) ?_ ?_ | refine keep_ite (P := Keeps μ σ) ?_ ?_ | refine keep_ite (P := OnOk (Keeps μ σ)) ?_ ?_ | intro _ | split | dsimp only

theorem execVocabLoad_keeps {μ : Nat} {σ : State} {req : Requester} {desc : TokenDesc} {s : State} (hK : Keeps μ σ s)
    (hm : Sub 0x8000000010000000c0602006 μ := by first | assumption | exact Sub.of ‹Sub _ _› ⟨by decide +kernel⟩) :
    OnNext (Keeps μ σ) (execVocabLoad req desc s) := by
  unfold execVocabLoad
  try dsimp only
  repeat' with_reducible first | assumption | refine tokSubmit_keeps ?_ | refine OnNext.next ?_ | refine OnOk.ok ?_ | exact OnOk.error | refine OnSome.some ?_ | exact OnSome.none | refine OnSomeOf.some ?_ | exact OnSomeOf.none | refine OnOkOf.ok ?_ | exact OnOkOf.error | refine act_keeps ?_ ?_ | refine live_keeps ?_ ?_ | refine keep_ite (P := OnNext (Keeps μ σ)) ?_ ?_ | refine keep_ite (P := Keeps μ σ) ?_ ?_ | refine keep_ite (P := OnOk (Keeps μ σ)) ?_ ?_ | intro _ | split | dsimp only

theorem execGrammarLoad_keeps {μ : Nat} {σ : State} {req : Requester} {desc : TokenDesc} {s : State} (hK : Keeps μ σ s)
    (hm : Sub 0x8000000010000000c0602006 μ := by first | assumption | exact Sub.of ‹Sub _ _› ⟨by decide +kernel⟩) :
    OnNext (Keeps μ σ) (execGrammarLoad req desc s) := by
  unfold execGrammarLoad
  try dsimp only
  repeat' with_reducible first | assumption | refine tokSubmit_keeps ?_ | refine OnNext.next ?_ | refine OnOk.ok ?_ | exact OnOk.error | refine OnSome.some ?_ | exact OnSome.none | refine OnSomeOf.some ?_ | exact OnSomeOf.none | refine OnOkOf.ok ?_ | exact OnOkOf.error | refine act_keeps ?_ ?_ | refine live_keeps ?_ ?_ | refine keep_ite (P := OnNext (Keeps μ σ)) ?_ ?_ | refine keep_ite (P := Keeps μ σ) ?_ ?_ | refine keep_ite (P := OnOk (Keeps μ σ)) ?_ ?_ | intro _ | split | dsimp only

theorem execGrammarCheck_keeps {μ : Nat} {σ : State} {req : Requester} {desc : TokenDesc} {s : State} (hK : Keeps μ σ s)
    (hm : Sub 0x8000000010000000c0602006 μ := by first | assumption | exact Sub.of ‹Sub _ _› ⟨by decide +kernel⟩) :
    OnNext (Keeps μ σ) (execGrammarCheck req desc s) := by
  unfold execGrammarCheck
  try dsimp only
  repeat' with_reducible first | assumption | refine tokSubmit_keeps ?_ | refine OnNext.next ?_ | refine OnOk.ok ?_ | exact OnOk.error | refine OnSome.some ?_ | exact OnSome.none | refine OnSomeOf.some ?_ | exact OnSomeOf.none | refine OnOkOf.ok ?_ | exact OnOkOf.error | refine act_keeps ?_ ?_ | refine live_keeps ?_ ?_ | refine keep_ite (P := OnNext (Keeps μ σ)) ?_ ?_ | refine keep_ite (P := Keeps μ σ) ?_ ?_ | refine keep_ite (P := OnOk (Keeps μ σ)) ?_ ?_ | intro _ | split | dsimp only

theorem execRolloutOpen_keeps {μ : Nat} {σ : State} {req : Requester} {desc : TokenDesc} {s : State} (hK : Keeps μ σ s)
    (hm : Sub 0x8000000010000000c0602006 μ := by first | assumption | exact Sub.of ‹Sub _ _› ⟨by decide +kernel⟩) :
    OnNext (Keeps μ σ) (execRolloutOpen req desc s) := by
  unfold execRolloutOpen
  try dsimp only
  repeat' with_reducible first | assumption | refine tokSubmit_keeps ?_ | refine OnNext.next ?_ | refine OnOk.ok ?_ | exact OnOk.error | refine OnSome.some ?_ | exact OnSome.none | refine OnSomeOf.some ?_ | exact OnSomeOf.none | refine OnOkOf.ok ?_ | exact OnOkOf.error | refine act_keeps ?_ ?_ | refine live_keeps ?_ ?_ | refine keep_ite (P := OnNext (Keeps μ σ)) ?_ ?_ | refine keep_ite (P := Keeps μ σ) ?_ ?_ | refine keep_ite (P := OnOk (Keeps μ σ)) ?_ ?_ | intro _ | split | dsimp only

theorem execRolloutClose_keeps {μ : Nat} {σ : State} {req : Requester} {desc : TokenDesc} {s : State} (hK : Keeps μ σ s)
    (hm : Sub 0x8000000010000000c0602006 μ := by first | assumption | exact Sub.of ‹Sub _ _› ⟨by decide +kernel⟩) :
    OnNext (Keeps μ σ) (execRolloutClose req desc s) := by
  unfold execRolloutClose
  try dsimp only
  repeat' with_reducible first | assumption | refine tokSubmit_keeps ?_ | refine OnNext.next ?_ | refine OnOk.ok ?_ | exact OnOk.error | refine OnSome.some ?_ | exact OnSome.none | refine OnSomeOf.some ?_ | exact OnSomeOf.none | refine OnOkOf.ok ?_ | exact OnOkOf.error | refine act_keeps ?_ ?_ | refine live_keeps ?_ ?_ | refine keep_ite (P := OnNext (Keeps μ σ)) ?_ ?_ | refine keep_ite (P := Keeps μ σ) ?_ ?_ | refine keep_ite (P := OnOk (Keeps μ σ)) ?_ ?_ | intro _ | split | dsimp only

theorem tokHead_keeps {μ : Nat} {σ : State} {s : State} {c : Nat} (hK : Keeps μ σ s)
    (hm : Sub 0x8000080010000000c0602206 μ := by first | assumption | exact Sub.of ‹Sub _ _› ⟨by decide +kernel⟩) :
    Keeps μ σ (State.tokHead s c) := by
  unfold State.tokHead
  try dsimp only
  repeat' with_reducible first | assumption | refine putTokQueue_keeps ?_ | refine tokRefuse_keeps ?_ | refine bufFlight_keeps ?_ | refine keep_ite (P := Keeps μ σ) ?_ ?_ | refine OnOk.ok ?_ | exact OnOk.error | refine keep_ite (P := OnOk (Keeps μ σ)) ?_ ?_ | intro _ | split | dsimp only

theorem execTokenDescriptorHead_keeps {μ : Nat} {σ : State} {cluster : Nat} {s : State} (hK : Keeps μ σ s)
    (hm : Sub 0x8000080010000000c0602206 μ := by first | assumption | exact Sub.of ‹Sub _ _› ⟨by decide +kernel⟩) :
    OnNext (Keeps μ σ) (execTokenDescriptorHead cluster s) := by
  unfold execTokenDescriptorHead
  try dsimp only
  repeat' with_reducible first | assumption | refine tokHead_keeps ?_ | refine OnNext.next ?_ | refine OnOk.ok ?_ | exact OnOk.error | refine OnSome.some ?_ | exact OnSome.none | refine OnSomeOf.some ?_ | exact OnSomeOf.none | refine OnOkOf.ok ?_ | exact OnOkOf.error | refine act_keeps ?_ ?_ | refine live_keeps ?_ ?_ | refine keep_ite (P := OnNext (Keeps μ σ)) ?_ ?_ | refine keep_ite (P := Keeps μ σ) ?_ ?_ | refine keep_ite (P := OnOk (Keeps μ σ)) ?_ ?_ | intro _ | split | dsimp only

theorem tokOutput_keeps {μ : Nat} {σ : State} {s : State} {e : TokEntry} {out : Bytes} {grain : Nat} (hK : Keeps μ σ s)
    (hm : Sub 0x40000000000008000000000000000200 μ := by first | assumption | exact Sub.of ‹Sub _ _› ⟨by decide +kernel⟩) :
    Keeps μ σ (State.tokOutput s e out grain).1 := by
  unfold State.tokOutput
  try dsimp only
  repeat' with_reducible first | assumption | refine bufWrite_keeps ?_ | refine keep_ite (P := Keeps μ σ) ?_ ?_ | refine OnOk.ok ?_ | exact OnOk.error | refine keep_ite (P := OnOk (Keeps μ σ)) ?_ ?_ | intro _ | split | dsimp only

theorem doTokenize_keeps {μ : Nat} {σ : State} {s : State} {e : TokEntry} {unit : Nat} {v : Bytes} {recipe : Option RecipeStep} (hK : Keeps μ σ s)
    (hm : Sub 0x400001008000080010000000c0e08216 μ := by first | assumption | exact Sub.of ‹Sub _ _› ⟨by decide +kernel⟩) :
    Keeps μ σ (State.doTokenize s e unit v recipe) := by
  unfold State.doTokenize
  try dsimp only
  repeat' with_reducible first | assumption | refine add_keeps ?_ | refine drawn_keeps ?_ | refine tokFinish_keeps ?_ | refine tokOutput_keeps ?_ | refine keep_of_fst ‹_› (tokOutput_keeps ?_) | refine bumpIf_keeps ?_ | refine refuseSample_keeps ?_ | refine keep_ite (P := Keeps μ σ) ?_ ?_ | refine keep_foldl (P := Keeps μ σ) ?_ ?_ | refine OnOk.ok ?_ | exact OnOk.error | refine keep_ite (P := OnOk (Keeps μ σ)) ?_ ?_ | intro _ | split | dsimp only

theorem doDetokenize_keeps {μ : Nat} {σ : State} {s : State} {e : TokEntry} {unit : Nat} {v : Bytes} (hK : Keeps μ σ s)
    (hm : Sub 0x400000008000080010000000c0600206 μ := by first | assumption | exact Sub.of ‹Sub _ _› ⟨by decide +kernel⟩) :
    Keeps μ σ (State.doDetokenize s e unit v) := by
  unfold State.doDetokenize
  try dsimp only
  repeat' with_reducible first | assumption | refine tokRefuse_keeps ?_ | refine add_keeps ?_ | refine tokFinish_keeps ?_ | refine tokOutput_keeps ?_ | refine keep_of_fst ‹_› (tokOutput_keeps ?_) | refine keep_ite (P := Keeps μ σ) ?_ ?_ | refine keep_foldl (P := Keeps μ σ) ?_ ?_ | refine OnOk.ok ?_ | exact OnOk.error | refine keep_ite (P := OnOk (Keeps μ σ)) ?_ ?_ | intro _ | split | dsimp only

theorem doVocabLoad_keeps {μ : Nat} {σ : State} {s : State} {e : TokEntry} {unit : Nat} (hK : Keeps μ σ s)
    (hm : Sub 0x400000038000080030000000c0602286 μ := by first | assumption | exact Sub.of ‹Sub _ _› ⟨by decide +kernel⟩) :
    Keeps μ σ (State.doVocabLoad s e unit) := by
  unfold State.doVocabLoad
  try dsimp only
  repeat' with_reducible first | assumption | refine tokRefuse_keeps ?_ | refine unitAlloc_keeps ?_ | refine keep_of_some_12 ‹_› (unitAlloc_keeps ?_) | refine bufWrite_keeps ?_ | refine unitFree_keeps ?_ | refine putTok_keeps ?_ | refine vocabRegs_keeps ?_ | refine measure_keeps ?_ | refine keep_ite (P := Keeps μ σ) ?_ ?_ | refine keep_foldl (P := Keeps μ σ) ?_ ?_ | refine OnOk.ok ?_ | exact OnOk.error | refine keep_ite (P := OnOk (Keeps μ σ)) ?_ ?_ | intro _ | split | dsimp only

theorem doGrammarLoad_keeps {μ : Nat} {σ : State} {s : State} {e : TokEntry} {unit : Nat} (hK : Keeps μ σ s)
    (hm : Sub 0x8000000030000000c0602086 μ := by first | assumption | exact Sub.of ‹Sub _ _› ⟨by decide +kernel⟩) :
    Keeps μ σ (State.doGrammarLoad s e unit) := by
  unfold State.doGrammarLoad
  try dsimp only
  repeat' with_reducible first | assumption | refine tokRefuse_keeps ?_ | refine putTok_keeps ?_ | refine measure_keeps ?_ | refine tokFinish_keeps ?_ | refine keep_ite (P := Keeps μ σ) ?_ ?_ | refine OnOk.ok ?_ | exact OnOk.error | refine keep_ite (P := OnOk (Keeps μ σ)) ?_ ?_ | intro _ | split | dsimp only

theorem doGrammarCheck_keeps {μ : Nat} {σ : State} {s : State} {e : TokEntry} {unit : Nat} (hK : Keeps μ σ s)
    (hm : Sub 0x8000000010000000c0600006 μ := by first | assumption | exact Sub.of ‹Sub _ _› ⟨by decide +kernel⟩) :
    Keeps μ σ (State.doGrammarCheck s e unit) := by
  unfold State.doGrammarCheck
  try dsimp only
  repeat' with_reducible first | assumption | refine tokRefuse_keeps ?_ | refine bumpIf_keeps ?_ | refine tokFinish_keeps ?_ | refine keep_ite (P := Keeps μ σ) ?_ ?_ | refine OnOk.ok ?_ | exact OnOk.error | refine keep_ite (P := OnOk (Keeps μ σ)) ?_ ?_ | intro _ | split | dsimp only

theorem putRollout_keeps {μ : Nat} {σ : State} {s : State} {x : RolloutStream} (hK : Keeps μ σ s)
    (hm : Sub 0x2000 μ := by first | assumption | exact Sub.of ‹Sub _ _› ⟨by decide +kernel⟩) :
    Keeps μ σ (State.putRollout s x) := by
  unfold State.putRollout
  try dsimp only
  repeat' with_reducible first | assumption | refine putTok_keeps ?_ | refine keep_ite (P := Keeps μ σ) ?_ ?_ | refine OnOk.ok ?_ | exact OnOk.error | refine keep_ite (P := OnOk (Keeps μ σ)) ?_ ?_ | intro _ | split | dsimp only

theorem rolloutRegs_keeps {μ : Nat} {σ : State} {s : State} (hK : Keeps μ σ s)
    (hm : Sub 0x4000000000000000000000000 μ := by first | assumption | exact Sub.of ‹Sub _ _› ⟨by decide +kernel⟩) :
    Keeps μ σ (State.rolloutRegs s) := by
  unfold State.rolloutRegs
  try dsimp only
  repeat' with_reducible first | assumption | refine setN_keeps ?_ | refine keep_ite (P := Keeps μ σ) ?_ ?_ | refine OnOk.ok ?_ | exact OnOk.error | refine keep_ite (P := OnOk (Keeps μ σ)) ?_ ?_ | intro _ | split | dsimp only

theorem doRolloutOpen_keeps {μ : Nat} {σ : State} {s : State} {e : TokEntry} {unit : Nat} (hK : Keeps μ σ s)
    (hm : Sub 0x48000000010000000c0602006 μ := by first | assumption | exact Sub.of ‹Sub _ _› ⟨by decide +kernel⟩) :
    Keeps μ σ (State.doRolloutOpen s e unit) := by
  unfold State.doRolloutOpen
  try dsimp only
  repeat' with_reducible first | assumption | refine tokRefuse_keeps ?_ | refine putTok_keeps ?_ | refine rolloutRegs_keeps ?_ | refine tokFinish_keeps ?_ | refine keep_ite (P := Keeps μ σ) ?_ ?_ | refine OnOk.ok ?_ | exact OnOk.error | refine keep_ite (P := OnOk (Keeps μ σ)) ?_ ?_ | intro _ | split | dsimp only

theorem captured_keeps {μ : Nat} {σ : State} {s : State} {mediaType : Nat} {source : Nat} {data : Bytes} {block : Bytes} (hK : Keeps μ σ s)
    (hm : Sub 0x20000000000000000000000001010 μ := by first | assumption | exact Sub.of ‹Sub _ _› ⟨by decide +kernel⟩) :
    Keeps μ σ (State.captured s mediaType source data block) := by
  unfold State.captured
  try dsimp only
  repeat' with_reducible first | assumption | refine catalogue_keeps ?_ | refine journal_keeps ?_ | refine keep_ite (P := Keeps μ σ) ?_ ?_ | refine OnOk.ok ?_ | exact OnOk.error | refine keep_ite (P := OnOk (Keeps μ σ)) ?_ ?_ | intro _ | split | dsimp only

theorem finishRollout_keeps {μ : Nat} {σ : State} {s : State} {x : RolloutStream} {r : Rollout} {why : Nat} (hK : Keeps μ σ s)
    (hm : Sub 0x200048000000000000000c0203016 μ := by first | assumption | exact Sub.of ‹Sub _ _› ⟨by decide +kernel⟩) :
    Keeps μ σ (State.finishRollout s x r why) := by
  unfold State.finishRollout
  try dsimp only
  repeat' with_reducible first | assumption | refine add_keeps ?_ | refine bumpIf_keeps ?_ | refine emit_keeps ?_ | refine raise_keeps ?_ | refine putRollout_keeps ?_ | refine bump_keeps ?_ | refine captured_keeps ?_ | refine keep_ite (P := Keeps μ σ) ?_ ?_ | refine keep_foldl (P := Keeps μ σ) ?_ ?_ | refine OnOk.ok ?_ | exact OnOk.error | refine keep_ite (P := OnOk (Keeps μ σ)) ?_ ?_ | intro _ | split | dsimp only

theorem closeRollouts_keeps {μ : Nat} {σ : State} {s : State} {x : RolloutStream} (hK : Keeps μ σ s)
    (hm : Sub 0x200048000000000000000c0203016 μ := by first | assumption | exact Sub.of ‹Sub _ _› ⟨by decide +kernel⟩) :
    Keeps μ σ (State.closeRollouts s x) := by
  unfold State.closeRollouts
  try dsimp only
  repeat' with_reducible first | assumption | refine finishRollout_keeps ?_ | refine keep_ite (P := Keeps μ σ) ?_ ?_ | refine keep_foldl (P := Keeps μ σ) ?_ ?_ | refine OnOk.ok ?_ | exact OnOk.error | refine keep_ite (P := OnOk (Keeps μ σ)) ?_ ?_ | intro _ | split | dsimp only

theorem doRolloutClose_keeps {μ : Nat} {σ : State} {s : State} {e : TokEntry} {unit : Nat} (hK : Keeps μ σ s)
    (hm : Sub 0x200048000080010000000c0603216 μ := by first | assumption | exact Sub.of ‹Sub _ _› ⟨by decide +kernel⟩) :
    Keeps μ σ (State.doRolloutClose s e unit) := by
  unfold State.doRolloutClose
  try dsimp only
  repeat' with_reducible first | assumption | refine tokRefuse_keeps ?_ | refine closeRollouts_keeps ?_ | refine putTok_keeps ?_ | refine rolloutRegs_keeps ?_ | refine unitPass_keeps ?_ | refine keep_ite (P := Keeps μ σ) ?_ ?_ | refine OnOk.ok ?_ | exact OnOk.error | refine keep_ite (P := OnOk (Keeps μ σ)) ?_ ?_ | intro _ | split | dsimp only

theorem tokRun_keeps {μ : Nat} {σ : State} {s : State} {e : TokEntry} {unit : Nat} {recipe : Option RecipeStep} (hK : Keeps μ σ s)
    (hm : Sub 0x400201078000080030000000c0e0b296 μ := by first | assumption | exact Sub.of ‹Sub _ _› ⟨by decide +kernel⟩) :
    Keeps μ σ (State.tokRun s e unit recipe) := by
  unfold State.tokRun
  try dsimp only
  repeat' with_reducible first | assumption | refine doRolloutClose_keeps ?_ | refine doRolloutOpen_keeps ?_ | refine tokRefuse_keeps ?_ | refine doTokenize_keeps ?_ | refine doDetokenize_keeps ?_ | refine doVocabLoad_keeps ?_ | refine doGrammarLoad_keeps ?_ | refine doGrammarCheck_keeps ?_ | refine keep_ite (P := Keeps μ σ) ?_ ?_ | refine OnOk.ok ?_ | exact OnOk.error | refine keep_ite (P := OnOk (Keeps μ σ)) ?_ ?_ | intro _ | split | dsimp only

theorem tokComplete_keeps {μ : Nat} {σ : State} {s : State} {c : Nat} {u : Nat} {recipe : Option RecipeStep} (hK : Keeps μ σ s)
    (hm : Sub 0x400201078000080030000000c0e0b296 μ := by first | assumption | exact Sub.of ‹Sub _ _› ⟨by decide +kernel⟩) :
    Keeps μ σ (State.tokComplete s c u recipe) := by
  unfold State.tokComplete
  try dsimp only
  repeat' with_reducible first | assumption | refine putTokQueue_keeps ?_ | refine bufFlight_keeps ?_ | refine tokRun_keeps ?_ | refine keep_ite (P := Keeps μ σ) ?_ ?_ | refine OnOk.ok ?_ | exact OnOk.error | refine keep_ite (P := OnOk (Keeps μ σ)) ?_ ?_ | intro _ | split | dsimp only

theorem execTokenComplete_keeps {μ : Nat} {σ : State} {cluster : Nat} {unit : Nat} {recipe : Option RecipeStep} {s : State} (hK : Keeps μ σ s)
    (hm : Sub 0x400201078000080030000000c0e0b296 μ := by first | assumption | exact Sub.of ‹Sub _ _› ⟨by decide +kernel⟩) :
    OnNext (Keeps μ σ) (execTokenComplete cluster unit recipe s) := by
  unfold execTokenComplete
  try dsimp only
  repeat' with_reducible first | assumption | refine tokComplete_keeps ?_ | refine OnNext.next ?_ | refine OnOk.ok ?_ | exact OnOk.error | refine OnSome.some ?_ | exact OnSome.none | refine OnSomeOf.some ?_ | exact OnSomeOf.none | refine OnOkOf.ok ?_ | exact OnOkOf.error | refine act_keeps ?_ ?_ | refine live_keeps ?_ ?_ | refine keep_ite (P := OnNext (Keeps μ σ)) ?_ ?_ | refine keep_ite (P := Keeps μ σ) ?_ ?_ | refine keep_ite (P := OnOk (Keeps μ σ)) ?_ ?_ | intro _ | split | dsimp only

theorem rolloutChunk_keeps {μ : Nat} {σ : State} {s : State} {h : Nat} {slot : Nat} (hK : Keeps μ σ s)
    (hm : Sub 0x4000000000000000000002000 μ := by first | assumption | exact Sub.of ‹Sub _ _› ⟨by decide +kernel⟩) :
    Keeps μ σ (State.rolloutChunk s h slot) := by
  unfold State.rolloutChunk
  try dsimp only
  repeat' with_reducible first | assumption | refine bump_keeps ?_ | refine putRollout_keeps ?_ | refine keep_ite (P := Keeps μ σ) ?_ ?_ | refine OnOk.ok ?_ | exact OnOk.error | refine keep_ite (P := OnOk (Keeps μ σ)) ?_ ?_ | intro _ | split | dsimp only

theorem execRolloutChunk_keeps {μ : Nat} {σ : State} {stream : Nat} {slot : Nat} {s : State} (hK : Keeps μ σ s)
    (hm : Sub 0x4000000000000000000002000 μ := by first | assumption | exact Sub.of ‹Sub _ _› ⟨by decide +kernel⟩) :
    OnNext (Keeps μ σ) (execRolloutChunk stream slot s) := by
  unfold execRolloutChunk
  try dsimp only
  repeat' with_reducible first | assumption | refine rolloutChunk_keeps ?_ | refine OnNext.next ?_ | refine OnOk.ok ?_ | exact OnOk.error | refine OnSome.some ?_ | exact OnSome.none | refine OnSomeOf.some ?_ | exact OnSomeOf.none | refine OnOkOf.ok ?_ | exact OnOkOf.error | refine act_keeps ?_ ?_ | refine live_keeps ?_ ?_ | refine keep_ite (P := OnNext (Keeps μ σ)) ?_ ?_ | refine keep_ite (P := Keeps μ σ) ?_ ?_ | refine keep_ite (P := OnOk (Keeps μ σ)) ?_ ?_ | intro _ | split | dsimp only

theorem acceptChunk_keeps {μ : Nat} {σ : State} {s : State} {x : RolloutStream} {hdr : Bytes} {ids : Bytes} (hK : Keeps μ σ s)
    (hm : Sub 0x200048000000000000000c0203016 μ := by first | assumption | exact Sub.of ‹Sub _ _› ⟨by decide +kernel⟩) :
    Keeps μ σ (State.acceptChunk s x hdr ids) := by
  unfold State.acceptChunk
  try dsimp only
  repeat' with_reducible first | assumption | refine putRollout_keeps ?_ | refine bump_keeps ?_ | refine finishRollout_keeps ?_ | refine keep_ite (P := Keeps μ σ) ?_ ?_ | refine OnOk.ok ?_ | exact OnOk.error | refine keep_ite (P := OnOk (Keeps μ σ)) ?_ ?_ | intro _ | split | dsimp only

theorem processChunk_keeps {μ : Nat} {σ : State} {s : State} {x : RolloutStream} {slot : Nat} (hK : Keeps μ σ s)
    (hm : Sub 0x400200048000080000000000c0203216 μ := by first | assumption | exact Sub.of ‹Sub _ _› ⟨by decide +kernel⟩) :
    Keeps μ σ (State.processChunk s x slot) := by
  unfold State.processChunk
  try dsimp only
  repeat' with_reducible first | assumption | refine acceptChunk_keeps ?_ | refine putRollout_keeps ?_ | refine bump_keeps ?_ | refine raise_keeps ?_ | refine bufWrite_keeps ?_ | refine keep_ite (P := Keeps μ σ) ?_ ?_ | refine OnOk.ok ?_ | exact OnOk.error | refine keep_ite (P := OnOk (Keeps μ σ)) ?_ ?_ | intro _ | split | dsimp only

theorem execRolloutNotifyProcess_keeps {μ : Nat} {σ : State} {stream : Nat} {s : State} (hK : Keeps μ σ s)
    (hm : Sub 0x400200048000080000000000c0203216 μ := by first | assumption | exact Sub.of ‹Sub _ _› ⟨by decide +kernel⟩) :
    OnNext (Keeps μ σ) (execRolloutNotifyProcess stream s) := by
  unfold execRolloutNotifyProcess
  try dsimp only
  repeat' with_reducible first | assumption | refine processChunk_keeps ?_ | refine OnNext.next ?_ | refine OnOk.ok ?_ | exact OnOk.error | refine OnSome.some ?_ | exact OnSome.none | refine OnSomeOf.some ?_ | exact OnSomeOf.none | refine OnOkOf.ok ?_ | exact OnOkOf.error | refine act_keeps ?_ ?_ | refine live_keeps ?_ ?_ | refine keep_ite (P := OnNext (Keeps μ σ)) ?_ ?_ | refine keep_ite (P := Keeps μ σ) ?_ ?_ | refine keep_ite (P := OnOk (Keeps μ σ)) ?_ ?_ | intro _ | split | dsimp only

theorem execRolloutTimeout_keeps {μ : Nat} {σ : State} {stream : Nat} {rollout : Nat} {s : State} (hK : Keeps μ σ s)
    (hm : Sub 0x200048000000000000000c0203016 μ := by first | assumption | exact Sub.of ‹Sub _ _› ⟨by decide +kernel⟩) :
    OnNext (Keeps μ σ) (execRolloutTimeout stream rollout s) := by
  unfold execRolloutTimeout
  try dsimp only
  repeat' with_reducible first | assumption | refine finishRollout_keeps ?_ | refine OnNext.next ?_ | refine OnOk.ok ?_ | exact OnOk.error | refine OnSome.some ?_ | exact OnSome.none | refine OnSomeOf.some ?_ | exact OnSomeOf.none | refine OnOkOf.ok ?_ | exact OnOkOf.error | refine act_keeps ?_ ?_ | refine live_keeps ?_ ?_ | refine keep_ite (P := OnNext (Keeps μ σ)) ?_ ?_ | refine keep_ite (P := Keeps μ σ) ?_ ?_ | refine keep_ite (P := OnOk (Keeps μ σ)) ?_ ?_ | intro _ | split | dsimp only

theorem tokLeave_keeps {μ : Nat} {σ : State} {s : State} {c : Nat} {ctx : Nat} (hK : Keeps μ σ s)
    (hm : Sub 0x800008000000000000002200 μ := by first | assumption | exact Sub.of ‹Sub _ _› ⟨by decide +kernel⟩) :
    Keeps μ σ (State.tokLeave s c ctx) := by
  unfold State.tokLeave
  try dsimp only
  repeat' with_reducible first | assumption | refine bufFlight_keeps ?_ | refine add_keeps ?_ | refine putTok_keeps ?_ | refine keep_ite (P := Keeps μ σ) ?_ ?_ | refine keep_foldl (P := Keeps μ σ) ?_ ?_ | refine OnOk.ok ?_ | exact OnOk.error | refine keep_ite (P := OnOk (Keeps μ σ)) ?_ ?_ | intro _ | split | dsimp only

theorem tokReturn_keeps {μ : Nat} {σ : State} {s : State} {c : Nat} {ctx : Nat} (hK : Keeps μ σ s)
    (hm : Sub 0x3000000000000000000002000 μ := by first | assumption | exact Sub.of ‹Sub _ _› ⟨by decide +kernel⟩) :
    Keeps μ σ (State.tokReturn s c ctx) := by
  unfold State.tokReturn
  try dsimp only
  repeat' with_reducible first | assumption | refine putTok_keeps ?_ | refine vocabRegs_keeps ?_ | refine keep_ite (P := Keeps μ σ) ?_ ?_ | refine OnOk.ok ?_ | exact OnOk.error | refine keep_ite (P := OnOk (Keeps μ σ)) ?_ ?_ | intro _ | split | dsimp only

theorem tokDestroy_keeps {μ : Nat} {σ : State} {s : State} {ctx : Nat} (hK : Keeps μ σ s)
    (hm : Sub 0x200078000000000000000c0203016 μ := by first | assumption | exact Sub.of ‹Sub _ _› ⟨by decide +kernel⟩) :
    Keeps μ σ (State.tokDestroy s ctx) := by
  unfold State.tokDestroy
  try dsimp only
  repeat' with_reducible first | assumption | refine closeRollouts_keeps ?_ | refine putTok_keeps ?_ | refine vocabRegs_keeps ?_ | refine rolloutRegs_keeps ?_ | refine keep_ite (P := Keeps μ σ) ?_ ?_ | refine keep_foldl (P := Keeps μ σ) ?_ ?_ | refine OnOk.ok ?_ | exact OnOk.error | refine keep_ite (P := OnOk (Keeps μ σ)) ?_ ?_ | intro _ | split | dsimp only

end Sys2Proof.Laws
end

