-- ==== Sys2Proof/Laws/KeepCompute.lean ====
section
/-! SUPPORT. What each operation of Machine/Compute.lean changes: outside the zones of its mask it keeps everything, and it
keeps the invariant. -/
namespace Sys2Proof.Laws
open Sys2Proof.Machine
set_option Elab.async false
set_option linter.unreachableTactic false
set_option linter.unusedTactic false

theorem computeEnds_keeps {μ : Nat} {σ : State} {s : State} {e : ComputeEntry} {code : Nat} {handle : Nat} (hK : Keeps μ σ s)
    (hm : Sub 0x100000000000000000c0600006 μ := by first | assumption | exact Sub.of ‹Sub _ _› ⟨by decide +kernel⟩) :
    Keeps μ σ (State.computeEnds s e code handle) := by
  unfold State.computeEnds
  try dsimp only
  repeat' with_reducible first | assumption | refine emit_keeps ?_ | refine bumpIf_keeps ?_ | refine ends_keeps ?_ | refine refuse_keeps ?_ | refine keep_ite (P := Keeps μ σ) ?_ ?_ | refine OnOk.ok ?_ | exact OnOk.error | refine keep_ite (P := OnOk (Keeps μ σ)) ?_ ?_ | intro _ | split | dsimp only

theorem computeSubmit_keeps {μ : Nat} {σ : State} {s : State} {k : ComputeKind} {r : Requester} {d : ComputeDesc} (hK : Keeps μ σ s)
    (hm : Sub 0x100000000000000000c0604006 μ := by first | assumption | exact Sub.of ‹Sub _ _› ⟨by decide +kernel⟩) :
    Keeps μ σ (State.computeSubmit s k r d) := by
  unfold State.computeSubmit
  try dsimp only
  repeat' with_reducible first | assumption | refine computeEnds_keeps ?_ | refine bump_keeps ?_ | refine refuse_keeps ?_ | refine putComp_keeps ?_ | refine putCs_keeps ?_ | refine ends_keeps ?_ | refine keep_ite (P := Keeps μ σ) ?_ ?_ | refine OnOk.ok ?_ | exact OnOk.error | refine keep_ite (P := OnOk (Keeps μ σ)) ?_ ?_ | intro _ | split | dsimp only

theorem execLaunch_keeps {μ : Nat} {σ : State} {req : Requester} {desc : ComputeDesc} {s : State} (hK : Keeps μ σ s)
    (hm : Sub 0x100000000000000000c0604006 μ := by first | assumption | exact Sub.of ‹Sub _ _› ⟨by decide +kernel⟩) :
    OnNext (Keeps μ σ) (execLaunch req desc s) := by
  unfold execLaunch
  try dsimp only
  repeat' with_reducible first | assumption | refine computeSubmit_keeps ?_ | refine OnNext.next ?_ | refine OnOk.ok ?_ | exact OnOk.error | refine OnSome.some ?_ | exact OnSome.none | refine OnSomeOf.some ?_ | exact OnSomeOf.none | refine OnOkOf.ok ?_ | exact OnOkOf.error | refine act_keeps ?_ ?_ | refine live_keeps ?_ ?_ | refine keep_ite (P := OnNext (Keeps μ σ)) ?_ ?_ | refine keep_ite (P := Keeps μ σ) ?_ ?_ | refine keep_ite (P := OnOk (Keeps μ σ)) ?_ ?_ | intro _ | split | dsimp only

theorem execKernelLoad_keeps {μ : Nat} {σ : State} {req : Requester} {desc : ComputeDesc} {s : State} (hK : Keeps μ σ s)
    (hm : Sub 0x100000000000000000c0604006 μ := by first | assumption | exact Sub.of ‹Sub _ _› ⟨by decide +kernel⟩) :
    OnNext (Keeps μ σ) (execKernelLoad req desc s) := by
  unfold execKernelLoad
  try dsimp only
  repeat' with_reducible first | assumption | refine computeSubmit_keeps ?_ | refine OnNext.next ?_ | refine OnOk.ok ?_ | exact OnOk.error | refine OnSome.some ?_ | exact OnSome.none | refine OnSomeOf.some ?_ | exact OnSomeOf.none | refine OnOkOf.ok ?_ | exact OnOkOf.error | refine act_keeps ?_ ?_ | refine live_keeps ?_ ?_ | refine keep_ite (P := OnNext (Keeps μ σ)) ?_ ?_ | refine keep_ite (P := Keeps μ σ) ?_ ?_ | refine keep_ite (P := OnOk (Keeps μ σ)) ?_ ?_ | intro _ | split | dsimp only

theorem execKernelUnload_keeps {μ : Nat} {σ : State} {req : Requester} {desc : ComputeDesc} {s : State} (hK : Keeps μ σ s)
    (hm : Sub 0x100000000000000000c0604006 μ := by first | assumption | exact Sub.of ‹Sub _ _› ⟨by decide +kernel⟩) :
    OnNext (Keeps μ σ) (execKernelUnload req desc s) := by
  unfold execKernelUnload
  try dsimp only
  repeat' with_reducible first | assumption | refine computeSubmit_keeps ?_ | refine OnNext.next ?_ | refine OnOk.ok ?_ | exact OnOk.error | refine OnSome.some ?_ | exact OnSome.none | refine OnSomeOf.some ?_ | exact OnSomeOf.none | refine OnOkOf.ok ?_ | exact OnOkOf.error | refine act_keeps ?_ ?_ | refine live_keeps ?_ ?_ | refine keep_ite (P := OnNext (Keeps μ σ)) ?_ ?_ | refine keep_ite (P := Keeps μ σ) ?_ ?_ | refine keep_ite (P := OnOk (Keeps μ σ)) ?_ ?_ | intro _ | split | dsimp only

theorem execModelLoad_keeps {μ : Nat} {σ : State} {req : Requester} {desc : ComputeDesc} {s : State} (hK : Keeps μ σ s)
    (hm : Sub 0x100000000000000000c0604006 μ := by first | assumption | exact Sub.of ‹Sub _ _› ⟨by decide +kernel⟩) :
    OnNext (Keeps μ σ) (execModelLoad req desc s) := by
  unfold execModelLoad
  try dsimp only
  repeat' with_reducible first | assumption | refine computeSubmit_keeps ?_ | refine OnNext.next ?_ | refine OnOk.ok ?_ | exact OnOk.error | refine OnSome.some ?_ | exact OnSome.none | refine OnSomeOf.some ?_ | exact OnSomeOf.none | refine OnOkOf.ok ?_ | exact OnOkOf.error | refine act_keeps ?_ ?_ | refine live_keeps ?_ ?_ | refine keep_ite (P := OnNext (Keeps μ σ)) ?_ ?_ | refine keep_ite (P := Keeps μ σ) ?_ ?_ | refine keep_ite (P := OnOk (Keeps μ σ)) ?_ ?_ | intro _ | split | dsimp only

theorem execModelUnload_keeps {μ : Nat} {σ : State} {req : Requester} {desc : ComputeDesc} {s : State} (hK : Keeps μ σ s)
    (hm : Sub 0x100000000000000000c0604006 μ := by first | assumption | exact Sub.of ‹Sub _ _› ⟨by decide +kernel⟩) :
    OnNext (Keeps μ σ) (execModelUnload req desc s) := by
  unfold execModelUnload
  try dsimp only
  repeat' with_reducible first | assumption | refine computeSubmit_keeps ?_ | refine OnNext.next ?_ | refine OnOk.ok ?_ | exact OnOk.error | refine OnSome.some ?_ | exact OnSome.none | refine OnSomeOf.some ?_ | exact OnSomeOf.none | refine OnOkOf.ok ?_ | exact OnOkOf.error | refine act_keeps ?_ ?_ | refine live_keeps ?_ ?_ | refine keep_ite (P := OnNext (Keeps μ σ)) ?_ ?_ | refine keep_ite (P := Keeps μ σ) ?_ ?_ | refine keep_ite (P := OnOk (Keeps μ σ)) ?_ ?_ | intro _ | split | dsimp only

theorem kernelRegs_keeps {μ : Nat} {σ : State} {s : State} {c : Nat} (hK : Keeps μ σ s)
    (hm : Sub 0x40000000000000000000000000 μ := by first | assumption | exact Sub.of ‹Sub _ _› ⟨by decide +kernel⟩) :
    Keeps μ σ (State.kernelRegs s c) := by
  unfold State.kernelRegs
  try dsimp only
  repeat' with_reducible first | assumption | refine setN_keeps ?_ | refine keep_ite (P := Keeps μ σ) ?_ ?_ | refine OnOk.ok ?_ | exact OnOk.error | refine keep_ite (P := OnOk (Keeps μ σ)) ?_ ?_ | intro _ | split | dsimp only

theorem modelRegs_keeps {μ : Nat} {σ : State} {s : State} (hK : Keeps μ σ s)
    (hm : Sub 0xa0000000000000000000000000 μ := by first | assumption | exact Sub.of ‹Sub _ _› ⟨by decide +kernel⟩) :
    Keeps μ σ (State.modelRegs s) := by
  unfold State.modelRegs
  try dsimp only
  repeat' with_reducible first | assumption | refine setN_keeps ?_ | refine setB_keeps ?_ | refine keep_ite (P := Keeps μ σ) ?_ ?_ | refine keep_foldl (P := Keeps μ σ) ?_ ?_ | refine OnOk.ok ?_ | exact OnOk.error | refine keep_ite (P := OnOk (Keeps μ σ)) ?_ ?_ | intro _ | split | dsimp only

theorem doKernelLoad_keeps {μ : Nat} {σ : State} {s : State} {e : ComputeEntry} (hK : Keeps μ σ s)
    (hm : Sub 0x500000000020000000c0604086 μ := by first | assumption | exact Sub.of ‹Sub _ _› ⟨by decide +kernel⟩) :
    Keeps μ σ (State.doKernelLoad s e) := by
  unfold State.doKernelLoad
  try dsimp only
  repeat' with_reducible first | assumption | refine computeEnds_keeps ?_ | refine putCs_keeps ?_ | refine kernelRegs_keeps ?_ | refine measure_keeps ?_ | refine keep_ite (P := Keeps μ σ) ?_ ?_ | refine OnOk.ok ?_ | exact OnOk.error | refine keep_ite (P := OnOk (Keeps μ σ)) ?_ ?_ | intro _ | split | dsimp only

theorem doKernelUnload_keeps {μ : Nat} {σ : State} {s : State} {e : ComputeEntry} (hK : Keeps μ σ s)
    (hm : Sub 0x500000000000000000c0604006 μ := by first | assumption | exact Sub.of ‹Sub _ _› ⟨by decide +kernel⟩) :
    Keeps μ σ (State.doKernelUnload s e) := by
  unfold State.doKernelUnload
  try dsimp only
  repeat' with_reducible first | assumption | refine putCs_keeps ?_ | refine kernelRegs_keeps ?_ | refine computeEnds_keeps ?_ | refine keep_ite (P := Keeps μ σ) ?_ ?_ | refine OnOk.ok ?_ | exact OnOk.error | refine keep_ite (P := OnOk (Keeps μ σ)) ?_ ?_ | intro _ | split | dsimp only

theorem doModelLoad_keeps {μ : Nat} {σ : State} {s : State} {e : ComputeEntry} (hK : Keeps μ σ s)
    (hm : Sub 0x400000f00000080020000000c0604286 μ := by first | assumption | exact Sub.of ‹Sub _ _› ⟨by decide +kernel⟩) :
    Keeps μ σ (State.doModelLoad s e) := by
  unfold State.doModelLoad
  try dsimp only
  repeat' with_reducible first | assumption | refine computeEnds_keeps ?_ | refine unitAlloc_keeps ?_ | refine keep_of_some_12 ‹_› (unitAlloc_keeps ?_) | refine bufWrite_keeps ?_ | refine putCs_keeps ?_ | refine putComp_keeps ?_ | refine kernelRegs_keeps ?_ | refine modelRegs_keeps ?_ | refine measure_keeps ?_ | refine keep_ite (P := Keeps μ σ) ?_ ?_ | refine keep_foldl (P := Keeps μ σ) ?_ ?_ | refine OnOk.ok ?_ | exact OnOk.error | refine keep_ite (P := OnOk (Keeps μ σ)) ?_ ?_ | intro _ | split | dsimp only

theorem dropModel_keeps {μ : Nat} {σ : State} {s : State} {m : Model} (hK : Keeps μ σ s)
    (hm : Sub 0xe00000080000000000c0604206 μ := by first | assumption | exact Sub.of ‹Sub _ _› ⟨by decide +kernel⟩) :
    Keeps μ σ (State.dropModel s m) := by
  unfold State.dropModel
  try dsimp only
  repeat' with_reducible first | assumption | refine putCs_keeps ?_ | refine putComp_keeps ?_ | refine unitFree_keeps ?_ | refine kernelRegs_keeps ?_ | refine modelRegs_keeps ?_ | refine keep_ite (P := Keeps μ σ) ?_ ?_ | refine OnOk.ok ?_ | exact OnOk.error | refine keep_ite (P := OnOk (Keeps μ σ)) ?_ ?_ | intro _ | split | dsimp only

theorem startItems_keeps {μ : Nat} {σ : State} {s : State} {c : Nat} (hK : Keeps μ σ s)
    (hm : Sub 0x4000 μ := by first | assumption | exact Sub.of ‹Sub _ _› ⟨by decide +kernel⟩) :
    Keeps μ σ (State.startItems s c) := by
  unfold State.startItems
  try dsimp only
  repeat' with_reducible first | assumption | refine putCore_keeps ?_ | refine keep_ite (P := Keeps μ σ) ?_ ?_ | refine keep_foldl (P := Keeps μ σ) ?_ ?_ | refine OnOk.ok ?_ | exact OnOk.error | refine keep_ite (P := OnOk (Keeps μ σ)) ?_ ?_ | intro _ | split | dsimp only

theorem computeHead_keeps {μ : Nat} {σ : State} {s : State} {c : Nat} (hK : Keeps μ σ s)
    (hm : Sub 0x400000f00000080020000000c0604286 μ := by first | assumption | exact Sub.of ‹Sub _ _› ⟨by decide +kernel⟩) :
    Keeps μ σ (State.computeHead s c) := by
  unfold State.computeHead
  try dsimp only
  repeat' with_reducible first | assumption | refine putCs_keeps ?_ | refine computeEnds_keeps ?_ | refine doKernelLoad_keeps ?_ | refine doKernelUnload_keeps ?_ | refine doModelLoad_keeps ?_ | refine dropModel_keeps ?_ | refine startItems_keeps ?_ | refine keep_ite (P := Keeps μ σ) ?_ ?_ | refine OnOk.ok ?_ | exact OnOk.error | refine keep_ite (P := OnOk (Keeps μ σ)) ?_ ?_ | intro _ | split | dsimp only

theorem execComputeDescriptorHead_keeps {μ : Nat} {σ : State} {cluster : Nat} {s : State} (hK : Keeps μ σ s)
    (hm : Sub 0x400000f00000080020000000c0604286 μ := by first | assumption | exact Sub.of ‹Sub _ _› ⟨by decide +kernel⟩) :
    OnNext (Keeps μ σ) (execComputeDescriptorHead cluster s) := by
  unfold execComputeDescriptorHead
  try dsimp only
  repeat' with_reducible first | assumption | refine computeHead_keeps ?_ | refine OnNext.next ?_ | refine OnOk.ok ?_ | exact OnOk.error | refine OnSome.some ?_ | exact OnSome.none | refine OnSomeOf.some ?_ | exact OnSomeOf.none | refine OnOkOf.ok ?_ | exact OnOkOf.error | refine act_keeps ?_ ?_ | refine live_keeps ?_ ?_ | refine keep_ite (P := OnNext (Keeps μ σ)) ?_ ?_ | refine keep_ite (P := Keeps μ σ) ?_ ?_ | refine keep_ite (P := OnOk (Keeps μ σ)) ?_ ?_ | intro _ | split | dsimp only

theorem gradeSample_keeps {μ : Nat} {σ : State} {s : State} {ctx : Nat} {g : SampleGrade} (hK : Keeps μ σ s)
    (hm : Sub 0x100000000000000000000008000 μ := by first | assumption | exact Sub.of ‹Sub _ _› ⟨by decide +kernel⟩) :
    Keeps μ σ (State.gradeSample s ctx g) := by
  unfold State.gradeSample
  try dsimp only
  repeat' with_reducible first | assumption | refine slash_keeps ?_ | refine pass_keeps ?_ | refine keep_ite (P := Keeps μ σ) ?_ ?_ | (refine Keeps.lit (M := 0x100000000000000000000008000) ?_; first | assumption | refine slash_keeps ?_ | refine pass_keeps ?_ | refine keep_ite (P := Keeps μ σ) ?_ ?_) | refine OnOk.ok ?_ | exact OnOk.error | refine keep_ite (P := OnOk (Keeps μ σ)) ?_ ?_ | intro _ | split | dsimp only

theorem launchEnds_keeps {μ : Nat} {σ : State} {s : State} {c : Nat} {l : Launch} (hK : Keeps μ σ s)
    (hm : Sub 0x100000000000000000c0604006 μ := by first | assumption | exact Sub.of ‹Sub _ _› ⟨by decide +kernel⟩) :
    Keeps μ σ (State.launchEnds s c l) := by
  unfold State.launchEnds
  try dsimp only
  repeat' with_reducible first | assumption | refine putCs_keeps ?_ | refine emit_keeps ?_ | refine bump_keeps ?_ | refine bumpIf_keeps ?_ | refine ends_keeps ?_ | refine refuse_keeps ?_ | refine keep_ite (P := Keeps μ σ) ?_ ?_ | refine OnOk.ok ?_ | exact OnOk.error | refine keep_ite (P := OnOk (Keeps μ σ)) ?_ ?_ | intro _ | split | dsimp only

theorem itemEnds_keeps {μ : Nat} {σ : State} {s : State} {c : Nat} {i : Nat} {e : ItemEnd} (hK : Keeps μ σ s)
    (hm : Sub 0x400001100000080010000000c060c216 μ := by first | assumption | exact Sub.of ‹Sub _ _› ⟨by decide +kernel⟩) :
    Keeps μ σ (State.itemEnds s c i e) := by
  unfold State.itemEnds
  try dsimp only
  repeat' with_reducible first | assumption | refine putCs_keeps ?_ | refine bump_keeps ?_ | refine bumpIf_keeps ?_ | refine add_keeps ?_ | refine bufWrite_keeps ?_ | refine refuseSample_keeps ?_ | refine gradeSample_keeps ?_ | refine launchEnds_keeps ?_ | refine startItems_keeps ?_ | refine keep_ite (P := Keeps μ σ) ?_ ?_ | refine OnOk.ok ?_ | exact OnOk.error | refine keep_ite (P := OnOk (Keeps μ σ)) ?_ ?_ | intro _ | split | dsimp only

theorem execWorkItemEnd_keeps {μ : Nat} {σ : State} {cluster : Nat} {core : Nat} {item : ItemEnd} {s : State} (hK : Keeps μ σ s)
    (hm : Sub 0x400001100000080010000000c060c216 μ := by first | assumption | exact Sub.of ‹Sub _ _› ⟨by decide +kernel⟩) :
    OnNext (Keeps μ σ) (execWorkItemEnd cluster core item s) := by
  unfold execWorkItemEnd
  try dsimp only
  repeat' with_reducible first | assumption | refine itemEnds_keeps ?_ | refine OnNext.next ?_ | refine OnOk.ok ?_ | exact OnOk.error | refine OnSome.some ?_ | exact OnSome.none | refine OnSomeOf.some ?_ | exact OnSomeOf.none | refine OnOkOf.ok ?_ | exact OnOkOf.error | refine act_keeps ?_ ?_ | refine live_keeps ?_ ?_ | refine keep_ite (P := OnNext (Keeps μ σ)) ?_ ?_ | refine keep_ite (P := Keeps μ σ) ?_ ?_ | refine keep_ite (P := OnOk (Keeps μ σ)) ?_ ?_ | intro _ | split | dsimp only

theorem execItemBudget_keeps {μ : Nat} {σ : State} {cluster : Nat} {core : Nat} {pc : Nat} {s : State} (hK : Keeps μ σ s)
    (hm : Sub 0x4000 μ := by first | assumption | exact Sub.of ‹Sub _ _› ⟨by decide +kernel⟩) :
    OnNext (Keeps μ σ) (execItemBudget cluster core pc s) := by
  unfold execItemBudget
  try dsimp only
  repeat' with_reducible first | assumption | refine putCore_keeps ?_ | refine OnNext.next ?_ | refine OnOk.ok ?_ | exact OnOk.error | refine OnSome.some ?_ | exact OnSome.none | refine OnSomeOf.some ?_ | exact OnSomeOf.none | refine OnOkOf.ok ?_ | exact OnOkOf.error | refine act_keeps ?_ ?_ | refine live_keeps ?_ ?_ | refine keep_ite (P := OnNext (Keeps μ σ)) ?_ ?_ | refine keep_ite (P := Keeps μ σ) ?_ ?_ | refine keep_ite (P := OnOk (Keeps μ σ)) ?_ ?_ | intro _ | split | dsimp only

theorem compLeave_keeps {μ : Nat} {σ : State} {s : State} {c : Nat} {ctx : Nat} (hK : Keeps μ σ s)
    (hm : Sub 0x40000000000000000000004000 μ := by first | assumption | exact Sub.of ‹Sub _ _› ⟨by decide +kernel⟩) :
    Keeps μ σ (State.compLeave s c ctx) := by
  unfold State.compLeave
  try dsimp only
  repeat' with_reducible first | assumption | refine putComp_keeps ?_ | refine kernelRegs_keeps ?_ | refine keep_ite (P := Keeps μ σ) ?_ ?_ | refine OnOk.ok ?_ | exact OnOk.error | refine keep_ite (P := OnOk (Keeps μ σ)) ?_ ?_ | intro _ | split | dsimp only

theorem compReturn_keeps {μ : Nat} {σ : State} {s : State} {c : Nat} {ctx : Nat} (hK : Keeps μ σ s)
    (hm : Sub 0x40000000000000000000004000 μ := by first | assumption | exact Sub.of ‹Sub _ _› ⟨by decide +kernel⟩) :
    Keeps μ σ (State.compReturn s c ctx) := by
  unfold State.compReturn
  try dsimp only
  repeat' with_reducible first | assumption | refine putCs_keeps ?_ | refine kernelRegs_keeps ?_ | refine putComp_keeps ?_ | refine startItems_keeps ?_ | refine keep_ite (P := Keeps μ σ) ?_ ?_ | refine OnOk.ok ?_ | exact OnOk.error | refine keep_ite (P := OnOk (Keeps μ σ)) ?_ ?_ | intro _ | split | dsimp only

theorem compDestroy_keeps {μ : Nat} {σ : State} {s : State} {ctx : Nat} (hK : Keeps μ σ s)
    (hm : Sub 0xe00000080000000000c0604206 μ := by first | assumption | exact Sub.of ‹Sub _ _› ⟨by decide +kernel⟩) :
    Keeps μ σ (State.compDestroy s ctx) := by
  unfold State.compDestroy
  try dsimp only
  repeat' with_reducible first | assumption | refine dropModel_keeps ?_ | refine putComp_keeps ?_ | refine kernelRegs_keeps ?_ | refine keep_ite (P := Keeps μ σ) ?_ ?_ | refine keep_foldl (P := Keeps μ σ) ?_ ?_ | refine OnOk.ok ?_ | exact OnOk.error | refine keep_ite (P := OnOk (Keeps μ σ)) ?_ ?_ | intro _ | split | dsimp only

end Sys2Proof.Laws
end

