-- ==== Sys2Proof/Laws/KeepRecords.lean ====
section
/-! SUPPORT. What each operation of Machine/Records.lean changes: outside the zones of its mask it keeps everything, and it
keeps the invariant. -/
namespace Sys2Proof.Laws
open Sys2Proof.Machine
set_option Elab.async false
set_option linter.unreachableTactic false
set_option linter.unusedTactic false

theorem sendHeld_keeps {μ : Nat} {σ : State} {s : State} {k : Nat} (hK : Keeps μ σ s)
    (hm : Sub 0x200004 μ := by first | assumption | exact Sub.of ‹Sub _ _› ⟨by decide +kernel⟩) :
    Keeps μ σ (State.sendHeld s k) := by
  unfold State.sendHeld
  try dsimp only
  repeat' with_reducible first | assumption | refine reply_keeps ?_ | refine keep_ite (P := Keeps μ σ) ?_ ?_ | refine keep_foldl (P := Keeps μ σ) ?_ ?_ | (refine Keeps.lit (M := 0x200004) ?_; first | assumption | refine reply_keeps ?_ | refine keep_ite (P := Keeps μ σ) ?_ ?_ | refine keep_foldl (P := Keeps μ σ) ?_ ?_) | refine OnOk.ok ?_ | exact OnOk.error | refine keep_ite (P := OnOk (Keeps μ σ)) ?_ ?_ | intro _ | split | dsimp only

theorem persistCommit_keeps {μ : Nat} {σ : State} {s : State} {k : Nat} (hK : Keeps μ σ s)
    (hm : Sub 0x20000c μ := by first | assumption | exact Sub.of ‹Sub _ _› ⟨by decide +kernel⟩) :
    Keeps μ σ (State.persistCommit s k) := by
  unfold State.persistCommit
  try dsimp only
  repeat' with_reducible first | assumption | refine sendHeld_keeps ?_ | refine keep_ite (P := Keeps μ σ) ?_ ?_ | (refine Keeps.lit (M := 0x20000c) ?_; first | assumption | refine sendHeld_keeps ?_ | refine keep_ite (P := Keeps μ σ) ?_ ?_) | refine OnOk.ok ?_ | exact OnOk.error | refine keep_ite (P := OnOk (Keeps μ σ)) ?_ ?_ | intro _ | split | dsimp only

theorem execPersistCommit_keeps {μ : Nat} {σ : State} {key : Nat} {s : State} (hK : Keeps μ σ s)
    (hm : Sub 0x20000c μ := by first | assumption | exact Sub.of ‹Sub _ _› ⟨by decide +kernel⟩) :
    OnNext (Keeps μ σ) (execPersistCommit key s) := by
  unfold execPersistCommit
  try dsimp only
  repeat' with_reducible first | assumption | refine persistCommit_keeps ?_ | refine OnNext.next ?_ | refine OnOk.ok ?_ | exact OnOk.error | refine OnSome.some ?_ | exact OnSome.none | refine OnSomeOf.some ?_ | exact OnSomeOf.none | refine OnOkOf.ok ?_ | exact OnOkOf.error | refine act_keeps ?_ ?_ | refine live_keeps ?_ ?_ | refine keep_ite (P := OnNext (Keeps μ σ)) ?_ ?_ | refine keep_ite (P := Keeps μ σ) ?_ ?_ | refine keep_ite (P := OnOk (Keeps μ σ)) ?_ ?_ | intro _ | split | dsimp only

/-- Loading settings keeps the canonical form. -/
theorem load_canonical {v : Variant} {st : Settings} {od : OdFile} (h : od.Canonical v) : (od.load v st).Canonical v := by
  have fold : ∀ {α : Type} [DecidableEq α] (d : Nat → α) (ps l : List (Nat × α)), Sparse.wf d l = true →
      Sparse.wf d (ps.foldl (fun l p => Sparse.set d l p.1 p.2) l) = true := by
    intro α _ d ps
    induction ps with
    | nil => exact fun l hl => hl
    | cons p ps ih => exact fun l hl => ih _ (sparse_set_wf hl _ _)
  exact ⟨fold _ _ _ h.1, fold _ _ _ h.2.1, h.2.2⟩

/-- Every object of the dictionary is in a mask. -/
def AllBlocks (m : Nat) : Prop := ∀ b, m.testBit (blockBit b) = true

theorem AllBlocks.of {M m : Nat} (hm : Sub M m) (h : (allBlocks.all fun b => M.testBit (blockBit b)) = true) : AllBlocks m :=
  fun b => hm.on (List.all_eq_true.mp h b (mem_allBlocks b))

/-- The registers are replaced as a whole. -/
theorem Keeps.replaced {μ : Nat} {σ t : State} {od : OdFile} (h : Keeps μ σ t) (ha : AllBlocks μ)
    (hv : t.od.Canonical t.dev.variant → od.Canonical t.dev.variant) : Keeps μ σ { t with od := od } :=
  h.trans (Keeps.dict hv fun b hb => by rw [ha b] at hb; cases hb)

theorem loadYardSettings_keeps {μ : Nat} {σ : State} {s : State} (hK : Keeps μ σ s)
    (hm : Sub 0x3ffffffffffffffffffffffffe00000e μ := by first | assumption | exact Sub.of ‹Sub _ _› ⟨by decide +kernel⟩) :
    Keeps μ σ (State.loadYardSettings s) := by
  unfold State.loadYardSettings
  have ha : AllBlocks μ := AllBlocks.of hm (by decide +kernel)
  have h1 : ∀ y : Settings, Keeps μ σ { s with od := s.od.load s.dev.variant y, nv := { s.nv with yard := y, sealedOk := true } } :=
    fun y => Keeps.replaced (t := { s with nv := { s.nv with yard := y, sealedOk := true } })
      (Keeps.lit (M := 0x3ffffffffffffffffffffffffe00000e) hK) ha fun hc => load_canonical hc
  dsimp only
  repeat' with_reducible first | exact h1 _ | refine raise_keeps ?_ | refine setN_keeps ?_ | split

theorem mirrorLog_keeps {μ : Nat} {σ : State} {s : State} (hK : Keeps μ σ s)
    (hm : Sub 0xa μ := by first | assumption | exact Sub.of ‹Sub _ _› ⟨by decide +kernel⟩) :
    Keeps μ σ (State.mirrorLog s) := by
  unfold State.mirrorLog
  try dsimp only
  repeat' with_reducible first | assumption | refine keep_ite (P := Keeps μ σ) ?_ ?_ | (refine Keeps.lit (M := 0xa) ?_; first | assumption | refine keep_ite (P := Keeps μ σ) ?_ ?_) | refine OnOk.ok ?_ | exact OnOk.error | refine keep_ite (P := OnOk (Keeps μ σ)) ?_ ?_ | intro _ | split | dsimp only

theorem logMirrorWrite_keeps {μ : Nat} {σ : State} {s : State} (hK : Keeps μ σ s)
    (hm : Sub 0xa μ := by first | assumption | exact Sub.of ‹Sub _ _› ⟨by decide +kernel⟩) :
    Keeps μ σ (State.logMirrorWrite s) := by
  unfold State.logMirrorWrite
  try dsimp only
  repeat' with_reducible first | assumption | refine mirrorLog_keeps ?_ | refine keep_ite (P := Keeps μ σ) ?_ ?_ | refine OnOk.ok ?_ | exact OnOk.error | refine keep_ite (P := OnOk (Keeps μ σ)) ?_ ?_ | intro _ | split | dsimp only

theorem execLogMirrorWrite_keeps {μ : Nat} {σ : State} {s : State} (hK : Keeps μ σ s)
    (hm : Sub 0xa μ := by first | assumption | exact Sub.of ‹Sub _ _› ⟨by decide +kernel⟩) :
    OnNext (Keeps μ σ) (execLogMirrorWrite s) := by
  unfold execLogMirrorWrite
  try dsimp only
  repeat' with_reducible first | assumption | refine logMirrorWrite_keeps ?_ | refine OnNext.next ?_ | refine OnOk.ok ?_ | exact OnOk.error | refine OnSome.some ?_ | exact OnSome.none | refine OnSomeOf.some ?_ | exact OnSomeOf.none | refine OnOkOf.ok ?_ | exact OnOkOf.error | refine act_keeps ?_ ?_ | refine live_keeps ?_ ?_ | refine keep_ite (P := OnNext (Keeps μ σ)) ?_ ?_ | refine keep_ite (P := Keeps μ σ) ?_ ?_ | refine keep_ite (P := OnOk (Keeps μ σ)) ?_ ?_ | intro _ | split | dsimp only

theorem touchLog_keeps {μ : Nat} {σ : State} {s : State} (hK : Keeps μ σ s)
    (hm : Sub 0x80000000 μ := by first | assumption | exact Sub.of ‹Sub _ _› ⟨by decide +kernel⟩) :
    Keeps μ σ (State.touchLog s) := by
  unfold State.touchLog
  try dsimp only
  repeat' with_reducible first | assumption | refine touch_keeps ?_ | refine keep_ite (P := Keeps μ σ) ?_ ?_ | refine OnOk.ok ?_ | exact OnOk.error | refine keep_ite (P := OnOk (Keeps μ σ)) ?_ ?_ | intro _ | split | dsimp only

theorem mergeEntry_keeps {μ : Nat} {σ : State} {s : State} {e : LogEntry} (hK : Keeps μ σ s)
    (hm : Sub 0xc0000006 μ := by first | assumption | exact Sub.of ‹Sub _ _› ⟨by decide +kernel⟩) :
    Keeps μ σ (State.mergeEntry s e) := by
  unfold State.mergeEntry
  try dsimp only
  repeat' with_reducible first | assumption | refine storm_keeps ?_ | refine add_keeps ?_ | refine keep_ite (P := Keeps μ σ) ?_ ?_ | (refine Keeps.lit (M := 0xc0000006) ?_; first | assumption | refine storm_keeps ?_ | refine add_keeps ?_ | refine keep_ite (P := Keeps μ σ) ?_ ?_) | refine OnOk.ok ?_ | exact OnOk.error | refine keep_ite (P := OnOk (Keeps μ σ)) ?_ ?_ | intro _ | split | dsimp only

theorem mergeLog_keeps {μ : Nat} {σ : State} {s : State} (hK : Keeps μ σ s)
    (hm : Sub 0xc000000e μ := by first | assumption | exact Sub.of ‹Sub _ _› ⟨by decide +kernel⟩) :
    Keeps μ σ (State.mergeLog s) := by
  unfold State.mergeLog
  try dsimp only
  repeat' with_reducible first | assumption | refine mergeEntry_keeps ?_ | refine mirrorLog_keeps ?_ | refine touchLog_keeps ?_ | refine keep_ite (P := Keeps μ σ) ?_ ?_ | refine keep_foldl (P := Keeps μ σ) ?_ ?_ | (refine Keeps.lit (M := 0xc000000e) ?_; first | assumption | refine mergeEntry_keeps ?_ | refine mirrorLog_keeps ?_ | refine touchLog_keeps ?_ | refine keep_ite (P := Keeps μ σ) ?_ ?_ | refine keep_foldl (P := Keeps μ σ) ?_ ?_) | refine OnOk.ok ?_ | exact OnOk.error | refine keep_ite (P := OnOk (Keeps μ σ)) ?_ ?_ | intro _ | split | dsimp only

theorem haltLog_keeps {μ : Nat} {σ : State} {s : State} (hK : Keeps μ σ s)
    (hm : Sub 0xc0000006 μ := by first | assumption | exact Sub.of ‹Sub _ _› ⟨by decide +kernel⟩) :
    Keeps μ σ (State.haltLog s) := by
  unfold State.haltLog
  try dsimp only
  repeat' with_reducible first | assumption | refine mergeEntry_keeps ?_ | refine touchLog_keeps ?_ | refine keep_ite (P := Keeps μ σ) ?_ ?_ | refine keep_foldl (P := Keeps μ σ) ?_ ?_ | (refine Keeps.lit (M := 0xc0000006) ?_; first | assumption | refine mergeEntry_keeps ?_ | refine touchLog_keeps ?_ | refine keep_ite (P := Keeps μ σ) ?_ ?_ | refine keep_foldl (P := Keeps μ σ) ?_ ?_) | refine OnOk.ok ?_ | exact OnOk.error | refine keep_ite (P := OnOk (Keeps μ σ)) ?_ ?_ | intro _ | split | dsimp only

theorem formatRecords_keeps {μ : Nat} {σ : State} {s : State} {loaded : Bool} (hK : Keeps μ σ s)
    (hm : Sub 0xc000000e μ := by first | assumption | exact Sub.of ‹Sub _ _› ⟨by decide +kernel⟩) :
    Keeps μ σ (State.formatRecords s loaded) := by
  unfold State.formatRecords
  try dsimp only
  repeat' with_reducible first | assumption | refine haltLog_keeps ?_ | refine mirrorLog_keeps ?_ | refine keep_ite (P := Keeps μ σ) ?_ ?_ | (refine Keeps.lit (M := 0xc000000e) ?_; first | assumption | refine haltLog_keeps ?_ | refine mirrorLog_keeps ?_ | refine keep_ite (P := Keeps μ σ) ?_ ?_) | refine OnOk.ok ?_ | exact OnOk.error | refine keep_ite (P := OnOk (Keeps μ σ)) ?_ ?_ | intro _ | split | dsimp only

theorem heartUpdate_keeps {μ : Nat} {σ : State} {s : State} (hK : Keeps μ σ s)
    (hm : Sub 0x60000000c μ := by first | assumption | exact Sub.of ‹Sub _ _› ⟨by decide +kernel⟩) :
    Keeps μ σ (State.heartUpdate s) := by
  unfold State.heartUpdate
  try dsimp only
  repeat' with_reducible first | assumption | refine setN_keeps ?_ | refine keep_ite (P := Keeps μ σ) ?_ ?_ | (refine Keeps.lit (M := 0x60000000c) ?_; first | assumption | refine setN_keeps ?_ | refine keep_ite (P := Keeps μ σ) ?_ ?_) | refine OnOk.ok ?_ | exact OnOk.error | refine keep_ite (P := OnOk (Keeps μ σ)) ?_ ?_ | intro _ | split | dsimp only

theorem heartInterval_keeps {μ : Nat} {σ : State} {s : State} (hK : Keeps μ σ s)
    (hm : Sub 0x60000000c μ := by first | assumption | exact Sub.of ‹Sub _ _› ⟨by decide +kernel⟩) :
    Keeps μ σ (State.heartInterval s) := by
  unfold State.heartInterval
  try dsimp only
  repeat' with_reducible first | assumption | refine heartUpdate_keeps ?_ | refine keep_ite (P := Keeps μ σ) ?_ ?_ | refine OnOk.ok ?_ | exact OnOk.error | refine keep_ite (P := OnOk (Keeps μ σ)) ?_ ?_ | intro _ | split | dsimp only

theorem execHeartwoodUpdate_keeps {μ : Nat} {σ : State} {s : State} (hK : Keeps μ σ s)
    (hm : Sub 0x60000000c μ := by first | assumption | exact Sub.of ‹Sub _ _› ⟨by decide +kernel⟩) :
    OnNext (Keeps μ σ) (execHeartwoodUpdate s) := by
  unfold execHeartwoodUpdate
  try dsimp only
  repeat' with_reducible first | assumption | refine heartInterval_keeps ?_ | refine OnNext.next ?_ | refine OnOk.ok ?_ | exact OnOk.error | refine OnSome.some ?_ | exact OnSome.none | refine OnSomeOf.some ?_ | exact OnSomeOf.none | refine OnOkOf.ok ?_ | exact OnOkOf.error | refine act_keeps ?_ ?_ | refine live_keeps ?_ ?_ | refine keep_ite (P := OnNext (Keeps μ σ)) ?_ ?_ | refine keep_ite (P := Keeps μ σ) ?_ ?_ | refine keep_ite (P := OnOk (Keeps μ σ)) ?_ ?_ | intro _ | split | dsimp only

theorem calendarNote_keeps {μ : Nat} {σ : State} {s : State} (hK : Keeps μ σ s)
    (hm : Sub 0x6c000000e μ := by first | assumption | exact Sub.of ‹Sub _ _› ⟨by decide +kernel⟩) :
    Keeps μ σ (State.calendarNote s) := by
  unfold State.calendarNote
  try dsimp only
  repeat' with_reducible first | assumption | refine setN_keeps ?_ | refine raise_keeps ?_ | refine heartUpdate_keeps ?_ | refine keep_ite (P := Keeps μ σ) ?_ ?_ | (refine Keeps.lit (M := 0x6c000000e) ?_; first | assumption | refine setN_keeps ?_ | refine raise_keeps ?_ | refine heartUpdate_keeps ?_ | refine keep_ite (P := Keeps μ σ) ?_ ?_) | refine OnOk.ok ?_ | exact OnOk.error | refine keep_ite (P := OnOk (Keeps μ σ)) ?_ ?_ | intro _ | split | dsimp only

theorem calendarLock_keeps {μ : Nat} {σ : State} {s : State} (hK : Keeps μ σ s)
    (hm : Sub 0x6c000000e μ := by first | assumption | exact Sub.of ‹Sub _ _› ⟨by decide +kernel⟩) :
    Keeps μ σ (State.calendarLock s) := by
  unfold State.calendarLock
  try dsimp only
  repeat' with_reducible first | assumption | refine calendarNote_keeps ?_ | refine keep_ite (P := Keeps μ σ) ?_ ?_ | (refine Keeps.lit (M := 0x6c000000e) ?_; first | assumption | refine calendarNote_keeps ?_ | refine keep_ite (P := Keeps μ σ) ?_ ?_) | refine OnOk.ok ?_ | exact OnOk.error | refine keep_ite (P := OnOk (Keeps μ σ)) ?_ ?_ | intro _ | split | dsimp only

theorem calendarLeave_keeps {μ : Nat} {σ : State} {s : State} (hK : Keeps μ σ s)
    (hm : Sub 0x4 μ := by first | assumption | exact Sub.of ‹Sub _ _› ⟨by decide +kernel⟩) :
    Keeps μ σ (State.calendarLeave s) := by
  unfold State.calendarLeave
  try dsimp only
  repeat' with_reducible first | assumption | refine keep_ite (P := Keeps μ σ) ?_ ?_ | (refine Keeps.lit (M := 0x4) ?_; first | assumption | refine keep_ite (P := Keeps μ σ) ?_ ?_) | refine OnOk.ok ?_ | exact OnOk.error | refine keep_ite (P := OnOk (Keeps μ σ)) ?_ ?_ | intro _ | split | dsimp only

theorem heartLoad_keeps {μ : Nat} {σ : State} {s : State} (hK : Keeps μ σ s)
    (hm : Sub 0x6c000000e μ := by first | assumption | exact Sub.of ‹Sub _ _› ⟨by decide +kernel⟩) :
    Keeps μ σ (State.heartLoad s) := by
  unfold State.heartLoad
  try dsimp only
  have hrc : ∀ n, OkKey μ (resetCounter n) := by
    intro n
    unfold resetCounter
    repeat' split
    all_goals exact OkKey.lit hm (by decide +kernel)
  have hcs : ∀ p ∈ hwCounters, OkKey μ p.1 := fun p hp =>
    OkKey.lit hm ((by decide +kernel : ∀ p ∈ hwCounters, inside 0x6c000000e (p.1 / 256) (p.1 / 256) = true) p hp)
  have hps : ∀ p ∈ [Reg.hw.eraseCountPeak, Reg.hw.tjPeakDc], OkKey μ p := fun p hp =>
    OkKey.lit hm ((by decide +kernel : ∀ p ∈ [Reg.hw.eraseCountPeak, Reg.hw.tjPeakDc], inside 0x6c000000e (p / 256) (p / 256) = true) p hp)
  repeat' with_reducible first | assumption | refine setN_keeps ?_ | refine raise_keeps ?_ | refine calendarNote_keeps ?_ | refine keep_ite (P := Keeps μ σ) ?_ ?_ | refine keep_foldl_mem (P := Keeps μ σ) ?_ ?_ | refine setN_keeps ?_ (hps _ ‹_›) | refine setN_keeps ?_ (hrc _) | refine setN_keeps ?_ (hcs _ ‹_›) | (refine Keeps.lit (M := 0x6c000000e) ?_; first | assumption | refine setN_keeps ?_ | refine raise_keeps ?_ | refine calendarNote_keeps ?_ | refine setN_keeps ?_ (hps _ ‹_›) | refine setN_keeps ?_ (hrc _) | refine setN_keeps ?_ (hcs _ ‹_›) | refine keep_ite (P := Keeps μ σ) ?_ ?_ | refine keep_foldl_mem (P := Keeps μ σ) ?_ ?_) | refine OnOk.ok ?_ | exact OnOk.error | refine keep_ite (P := OnOk (Keeps μ σ)) ?_ ?_ | intro _ | split | dsimp only

theorem logWindowClose_keeps {μ : Nat} {σ : State} {s : State} {q : Nat} (hK : Keeps μ σ s)
    (hm : Sub 0x6 μ := by first | assumption | exact Sub.of ‹Sub _ _› ⟨by decide +kernel⟩) :
    Keeps μ σ (State.logWindowClose s q) := by
  unfold State.logWindowClose
  try dsimp only
  repeat' with_reducible first | assumption | refine keep_ite (P := Keeps μ σ) ?_ ?_ | (refine Keeps.lit (M := 0x6) ?_; first | assumption | refine keep_ite (P := Keeps μ σ) ?_ ?_) | refine OnOk.ok ?_ | exact OnOk.error | refine keep_ite (P := OnOk (Keeps μ σ)) ?_ ?_ | intro _ | split | dsimp only

theorem execLogWindowClose_keeps {μ : Nat} {σ : State} {seq : Nat} {s : State} (hK : Keeps μ σ s)
    (hm : Sub 0x6 μ := by first | assumption | exact Sub.of ‹Sub _ _› ⟨by decide +kernel⟩) :
    OnNext (Keeps μ σ) (execLogWindowClose seq s) := by
  unfold execLogWindowClose
  try dsimp only
  repeat' with_reducible first | assumption | refine logWindowClose_keeps ?_ | refine OnNext.next ?_ | refine OnOk.ok ?_ | exact OnOk.error | refine OnSome.some ?_ | exact OnSome.none | refine OnSomeOf.some ?_ | exact OnSomeOf.none | refine OnOkOf.ok ?_ | exact OnOkOf.error | refine act_keeps ?_ ?_ | refine live_keeps ?_ ?_ | refine keep_ite (P := OnNext (Keeps μ σ)) ?_ ?_ | refine keep_ite (P := Keeps μ σ) ?_ ?_ | refine keep_ite (P := OnOk (Keeps μ σ)) ?_ ?_ | intro _ | split | dsimp only

theorem announced_keeps {μ : Nat} {σ : State} {s : State} {id : Nat} {better : Bool} {utc : Int} (hK : Keeps μ σ s)
    (hm : Sub 0x100400000020 μ := by first | assumption | exact Sub.of ‹Sub _ _› ⟨by decide +kernel⟩) :
    Keeps μ σ (State.announced s id better utc) := by
  unfold State.announced
  try dsimp only
  repeat' with_reducible first | assumption | refine setN_keeps ?_ | refine keep_ite (P := Keeps μ σ) ?_ ?_ | (refine Keeps.lit (M := 0x100400000020) ?_; first | assumption | refine setN_keeps ?_ | refine keep_ite (P := Keeps μ σ) ?_ ?_) | refine OnOk.ok ?_ | exact OnOk.error | refine keep_ite (P := OnOk (Keeps μ σ)) ?_ ?_ | intro _ | split | dsimp only

theorem execPtpAnnounce_keeps {μ : Nat} {σ : State} {clockIdentity : Nat} {better : Bool} {utcOffset : Int} {s : State} (hK : Keeps μ σ s)
    (hm : Sub 0x100400000020 μ := by first | assumption | exact Sub.of ‹Sub _ _› ⟨by decide +kernel⟩) :
    OnNext (Keeps μ σ) (execPtpAnnounce clockIdentity better utcOffset s) := by
  unfold execPtpAnnounce
  try dsimp only
  repeat' with_reducible first | assumption | refine announced_keeps ?_ | refine OnNext.next ?_ | refine OnOk.ok ?_ | exact OnOk.error | refine OnSome.some ?_ | exact OnSome.none | refine OnSomeOf.some ?_ | exact OnSomeOf.none | refine OnOkOf.ok ?_ | exact OnOkOf.error | refine act_keeps ?_ ?_ | refine live_keeps ?_ ?_ | refine keep_ite (P := OnNext (Keeps μ σ)) ?_ ?_ | refine keep_ite (P := Keeps μ σ) ?_ ?_ | refine keep_ite (P := OnOk (Keeps μ σ)) ?_ ?_ | intro _ | split | dsimp only

theorem execMgmtLinkChange_keeps {μ : Nat} {σ : State} {port : Nat} {up : Bool} {s : State} (hK : Keeps μ σ s)
    (hm : Sub 0x10000000 μ := by first | assumption | exact Sub.of ‹Sub _ _› ⟨by decide +kernel⟩) :
    OnNext (Keeps μ σ) (execMgmtLinkChange port up s) := by
  unfold execMgmtLinkChange
  try dsimp only
  repeat' with_reducible first | assumption | refine setN_keeps ?_ | refine OnNext.next ?_ | refine OnOk.ok ?_ | exact OnOk.error | refine OnSome.some ?_ | exact OnSome.none | refine OnSomeOf.some ?_ | exact OnSomeOf.none | refine OnOkOf.ok ?_ | exact OnOkOf.error | refine act_keeps ?_ ?_ | refine live_keeps ?_ ?_ | refine keep_ite (P := OnNext (Keeps μ σ)) ?_ ?_ | refine keep_ite (P := Keeps μ σ) ?_ ?_ | refine keep_ite (P := OnOk (Keeps μ σ)) ?_ ?_ | intro _ | split | dsimp only

end Sys2Proof.Laws
end

