-- ==== Sys2Proof/Laws/KeepYardOps.lean ====
section
/-! SUPPORT. What each operation of Machine/YardOps.lean changes: outside the zones of its mask it keeps everything, and it
keeps the invariant. -/
namespace Sys2Proof.Laws
open Sys2Proof.Machine
set_option Elab.async false
set_option linter.unreachableTactic false
set_option linter.unusedTactic false

theorem hwAdd_keeps {μ : Nat} {σ : State} {s : State} {w : Nat} {k : Nat} {n : Nat} (hK : Keeps μ σ s) (hk_k : OkKey μ k := by first | assumption | exact OkKey.lit ‹Sub _ _› (by decide +kernel) | with_unfolding_all exact OkKey.unit ‹Sub _ _› (by decide +kernel) | with_unfolding_all exact OkKey.run ‹Sub _ _› (by decide +kernel))
    (hm : Sub 0x0 μ := by first | assumption | exact Sub.of ‹Sub _ _› ⟨by decide +kernel⟩) :
    Keeps μ σ (State.hwAdd s w k n) := by
  unfold State.hwAdd
  try dsimp only
  repeat' with_reducible first | assumption | refine setN_keeps ?_ | refine keep_ite (P := Keeps μ σ) ?_ ?_ | refine OnOk.ok ?_ | exact OnOk.error | refine keep_ite (P := OnOk (Keeps μ σ)) ?_ ?_ | intro _ | split | dsimp only

theorem putYard_keeps {μ : Nat} {σ : State} {s : State} {y : Yard} (hK : Keeps μ σ s)
    (hm : Sub 0x20000 μ := by first | assumption | exact Sub.of ‹Sub _ _› ⟨by decide +kernel⟩) :
    Keeps μ σ (State.putYard s y) := by
  unfold State.putYard
  try dsimp only
  repeat' with_reducible first | assumption | refine keep_ite (P := Keeps μ σ) ?_ ?_ | (refine Keeps.lit (M := 0x20000) ?_; first | assumption | refine keep_ite (P := Keeps μ σ) ?_ ?_) | refine OnOk.ok ?_ | exact OnOk.error | refine keep_ite (P := OnOk (Keeps μ σ)) ?_ ?_ | intro _ | split | dsimp only

theorem putBolt_keeps {μ : Nat} {σ : State} {s : State} {b : Bolt} (hK : Keeps μ σ s)
    (hm : Sub 0x20000 μ := by first | assumption | exact Sub.of ‹Sub _ _› ⟨by decide +kernel⟩) :
    Keeps μ σ (State.putBolt s b) := by
  unfold State.putBolt
  try dsimp only
  repeat' with_reducible first | assumption | refine putYard_keeps ?_ | refine keep_ite (P := Keeps μ σ) ?_ ?_ | refine OnOk.ok ?_ | exact OnOk.error | refine keep_ite (P := OnOk (Keeps μ σ)) ?_ ?_ | intro _ | split | dsimp only

theorem modBolt_keeps {μ : Nat} {σ : State} {s : State} {i : Nat} {f : Bolt → Bolt} (hK : Keeps μ σ s)
    (hm : Sub 0x20000 μ := by first | assumption | exact Sub.of ‹Sub _ _› ⟨by decide +kernel⟩) :
    Keeps μ σ (State.modBolt s i f) := by
  unfold State.modBolt
  try dsimp only
  repeat' with_reducible first | assumption | refine putBolt_keeps ?_ | refine keep_ite (P := Keeps μ σ) ?_ ?_ | refine OnOk.ok ?_ | exact OnOk.error | refine keep_ite (P := OnOk (Keeps μ σ)) ?_ ?_ | intro _ | split | dsimp only

theorem spareCheck_keeps {μ : Nat} {σ : State} {s : State} (hK : Keeps μ σ s)
    (hm : Sub 0x200000000c0020006 μ := by first | assumption | exact Sub.of ‹Sub _ _› ⟨by decide +kernel⟩) :
    Keeps μ σ (State.spareCheck s) := by
  unfold State.spareCheck
  try dsimp only
  repeat' with_reducible first | assumption | refine raise_keeps ?_ | refine putYard_keeps ?_ | refine setN_keeps ?_ | refine alert_keeps ?_ | refine keep_ite (P := Keeps μ σ) ?_ ?_ | refine OnOk.ok ?_ | exact OnOk.error | refine keep_ite (P := OnOk (Keeps μ σ)) ?_ ?_ | intro _ | split | dsimp only

theorem yardRegs_keeps {μ : Nat} {σ : State} {s : State} (hK : Keeps μ σ s)
    (hm : Sub 0x8a0000000000000000 μ := by first | assumption | exact Sub.of ‹Sub _ _› ⟨by decide +kernel⟩) :
    Keeps μ σ (State.yardRegs s) := by
  unfold State.yardRegs
  try dsimp only
  repeat' with_reducible first | assumption | refine setN_keeps ?_ | refine keep_ite (P := Keeps μ σ) ?_ ?_ | refine keep_foldl (P := Keeps μ σ) ?_ ?_ | refine OnOk.ok ?_ | exact OnOk.error | refine keep_ite (P := OnOk (Keeps μ σ)) ?_ ?_ | intro _ | split | dsimp only

theorem takeYseq_keeps {μ : Nat} {σ : State} {s : State} (hK : Keeps μ σ s)
    (hm : Sub 0x20000 μ := by first | assumption | exact Sub.of ‹Sub _ _› ⟨by decide +kernel⟩) :
    Keeps μ σ (State.takeYseq s).2 := by
  unfold State.takeYseq
  try dsimp only
  repeat' with_reducible first | assumption | refine putYard_keeps ?_ | refine keep_ite (P := Keeps μ σ) ?_ ?_ | refine OnOk.ok ?_ | exact OnOk.error | refine keep_ite (P := OnOk (Keeps μ σ)) ?_ ?_ | intro _ | split | dsimp only

theorem yrec_keeps {μ : Nat} {σ : State} {s : State} {r : YRec} (hK : Keeps μ σ s)
    (hm : Sub 0x20000 μ := by first | assumption | exact Sub.of ‹Sub _ _› ⟨by decide +kernel⟩) :
    Keeps μ σ (State.yrec s r) := by
  unfold State.yrec
  try dsimp only
  repeat' with_reducible first | assumption | refine putYard_keeps ?_ | refine keep_ite (P := Keeps μ σ) ?_ ?_ | refine OnOk.ok ?_ | exact OnOk.error | refine keep_ite (P := OnOk (Keeps μ σ)) ?_ ?_ | intro _ | split | dsimp only

theorem commitYard_keeps {μ : Nat} {σ : State} {s : State} (hK : Keeps μ σ s)
    (hm : Sub 0x20000 μ := by first | assumption | exact Sub.of ‹Sub _ _› ⟨by decide +kernel⟩) :
    Keeps μ σ (State.commitYard s) := by
  unfold State.commitYard
  try dsimp only
  repeat' with_reducible first | assumption | refine putYard_keeps ?_ | refine keep_ite (P := Keeps μ σ) ?_ ?_ | refine OnOk.ok ?_ | exact OnOk.error | refine keep_ite (P := OnOk (Keeps μ σ)) ?_ ?_ | intro _ | split | dsimp only

theorem retireBolt_keeps {μ : Nat} {σ : State} {s : State} {i : Nat} {cause : Nat} (hK : Keeps μ σ s)
    (hm : Sub 0x4200000002c0020006 μ := by first | assumption | exact Sub.of ‹Sub _ _› ⟨by decide +kernel⟩) :
    Keeps μ σ (State.retireBolt s i cause) := by
  unfold State.retireBolt
  try dsimp only
  repeat' with_reducible first | assumption | refine putBolt_keeps ?_ | refine yrec_keeps ?_ | refine bump_keeps ?_ | refine hwAdd_keeps ?_ | refine spareCheck_keeps ?_ | refine keep_ite (P := Keeps μ σ) ?_ ?_ | refine OnOk.ok ?_ | exact OnOk.error | refine keep_ite (P := OnOk (Keeps μ σ)) ?_ ?_ | intro _ | split | dsimp only

theorem releaseBolt_keeps {μ : Nat} {σ : State} {s : State} {i : Nat} {record : Bool} (hK : Keeps μ σ s)
    (hm : Sub 0x20000 μ := by first | assumption | exact Sub.of ‹Sub _ _› ⟨by decide +kernel⟩) :
    Keeps μ σ (State.releaseBolt s i record) := by
  unfold State.releaseBolt
  try dsimp only
  repeat' with_reducible first | assumption | refine modBolt_keeps ?_ | refine yrec_keeps ?_ | refine keep_ite (P := Keeps μ σ) ?_ ?_ | refine OnOk.ok ?_ | exact OnOk.error | refine keep_ite (P := OnOk (Keeps μ σ)) ?_ ?_ | intro _ | split | dsimp only

theorem takeErased_keeps {μ : Nat} {σ : State} {s : State} {avoid : Option Nat} {x0 : Nat} (hK : Keeps μ σ s)
    (hm : Sub 0x20000 μ := by first | assumption | exact Sub.of ‹Sub _ _› ⟨by decide +kernel⟩) :
    OnSomeOf (fun x => Keeps μ σ x.2) (State.takeErased s avoid x0) := by
  induction x0 generalizing s avoid with
  | zero =>
    unfold State.takeErased
    try dsimp only
    repeat' with_reducible first | assumption | refine putYard_keeps ?_ | refine putBolt_keeps ?_ | refine OnNext.next ?_ | refine OnOk.ok ?_ | exact OnOk.error | refine OnSome.some ?_ | exact OnSome.none | refine OnSomeOf.some ?_ | exact OnSomeOf.none | refine OnOkOf.ok ?_ | exact OnOkOf.error | refine act_keeps ?_ ?_ | refine live_keeps ?_ ?_ | refine keep_ite (P := OnSomeOf (fun x => Keeps μ σ x.2)) ?_ ?_ | refine keep_ite (P := Keeps μ σ) ?_ ?_ | refine keep_ite (P := OnOk (Keeps μ σ)) ?_ ?_ | intro _ | split | dsimp only
  | succ n ih =>
    unfold State.takeErased
    try dsimp only
    repeat' with_reducible first | assumption | refine ih ?_ | refine keep_of_some_12 ‹_› (ih ?_) | refine putYard_keeps ?_ | refine putBolt_keeps ?_ | refine OnNext.next ?_ | refine OnOk.ok ?_ | exact OnOk.error | refine OnSome.some ?_ | exact OnSome.none | refine OnSomeOf.some ?_ | exact OnSomeOf.none | refine OnOkOf.ok ?_ | exact OnOkOf.error | refine act_keeps ?_ ?_ | refine live_keeps ?_ ?_ | refine keep_ite (P := OnSomeOf (fun x => Keeps μ σ x.2)) ?_ ?_ | refine keep_ite (P := Keeps μ σ) ?_ ?_ | refine keep_ite (P := OnOk (Keeps μ σ)) ?_ ?_ | intro _ | split | dsimp only

theorem openAs_keeps {μ : Nat} {σ : State} {s : State} {b : Bolt} {p : Purpose} {lbn : Nat} (hK : Keeps μ σ s)
    (hm : Sub 0x20000 μ := by first | assumption | exact Sub.of ‹Sub _ _› ⟨by decide +kernel⟩) :
    Keeps μ σ (State.openAs s b p lbn) := by
  unfold State.openAs
  try dsimp only
  repeat' with_reducible first | assumption | refine putBolt_keeps ?_ | refine yrec_keeps ?_ | refine keep_ite (P := Keeps μ σ) ?_ ?_ | refine OnOk.ok ?_ | exact OnOk.error | refine keep_ite (P := OnOk (Keeps μ σ)) ?_ ?_ | intro _ | split | dsimp only

theorem openBolt_keeps {μ : Nat} {σ : State} {s : State} {p : Purpose} {lbn : Nat} {avoid : Option Nat} (hK : Keeps μ σ s)
    (hm : Sub 0x20000 μ := by first | assumption | exact Sub.of ‹Sub _ _› ⟨by decide +kernel⟩) :
    OnSomeOf (fun x => Keeps μ σ x.2) (State.openBolt s p lbn avoid) := by
  unfold State.openBolt
  try dsimp only
  repeat' with_reducible first | assumption | refine takeErased_keeps ?_ | refine keep_of_some_12 ‹_› (takeErased_keeps ?_) | refine openAs_keeps ?_ | refine OnNext.next ?_ | refine OnOk.ok ?_ | exact OnOk.error | refine OnSome.some ?_ | exact OnSome.none | refine OnSomeOf.some ?_ | exact OnSomeOf.none | refine OnOkOf.ok ?_ | exact OnOkOf.error | refine act_keeps ?_ ?_ | refine live_keeps ?_ ?_ | refine keep_ite (P := OnSomeOf (fun x => Keeps μ σ x.2)) ?_ ?_ | refine keep_ite (P := Keeps μ σ) ?_ ?_ | refine keep_ite (P := OnOk (Keeps μ σ)) ?_ ?_ | intro _ | split | dsimp only

theorem putLbn_keeps {μ : Nat} {σ : State} {s : State} {e : LbnEntry} (hK : Keeps μ σ s)
    (hm : Sub 0x20000 μ := by first | assumption | exact Sub.of ‹Sub _ _› ⟨by decide +kernel⟩) :
    Keeps μ σ (State.putLbn s e) := by
  unfold State.putLbn
  try dsimp only
  repeat' with_reducible first | assumption | refine putYard_keeps ?_ | refine keep_ite (P := Keeps μ σ) ?_ ?_ | refine OnOk.ok ?_ | exact OnOk.error | refine keep_ite (P := OnOk (Keeps μ σ)) ?_ ?_ | intro _ | split | dsimp only

theorem putLog_keeps {μ : Nat} {σ : State} {s : State} {e : LogEnt} (hK : Keeps μ σ s)
    (hm : Sub 0x20000 μ := by first | assumption | exact Sub.of ‹Sub _ _› ⟨by decide +kernel⟩) :
    Keeps μ σ (State.putLog s e) := by
  unfold State.putLog
  try dsimp only
  repeat' with_reducible first | assumption | refine putYard_keeps ?_ | refine keep_ite (P := Keeps μ σ) ?_ ?_ | refine OnOk.ok ?_ | exact OnOk.error | refine keep_ite (P := OnOk (Keeps μ σ)) ?_ ?_ | intro _ | split | dsimp only

theorem closeBolt_keeps {μ : Nat} {σ : State} {s : State} {i : Nat} (hK : Keeps μ σ s)
    (hm : Sub 0x20000 μ := by first | assumption | exact Sub.of ‹Sub _ _› ⟨by decide +kernel⟩) :
    Keeps μ σ (State.closeBolt s i) := by
  unfold State.closeBolt
  try dsimp only
  repeat' with_reducible first | assumption | refine putBolt_keeps ?_ | refine yrec_keeps ?_ | refine keep_ite (P := Keeps μ σ) ?_ ?_ | refine OnOk.ok ?_ | exact OnOk.error | refine keep_ite (P := OnOk (Keeps μ σ)) ?_ ?_ | intro _ | split | dsimp only

theorem takePlace_keeps {μ : Nat} {σ : State} {s : State} {b : Bolt} (hK : Keeps μ σ s)
    (hm : Sub 0x20000 μ := by first | assumption | exact Sub.of ‹Sub _ _› ⟨by decide +kernel⟩) :
    Keeps μ σ (State.takePlace s b) := by
  unfold State.takePlace
  try dsimp only
  repeat' with_reducible first | assumption | refine putBolt_keeps ?_ | refine closeBolt_keeps ?_ | refine keep_ite (P := Keeps μ σ) ?_ ?_ | refine OnOk.ok ?_ | exact OnOk.error | refine keep_ite (P := OnOk (Keeps μ σ)) ?_ ?_ | intro _ | split | dsimp only

theorem logPlace_keeps {μ : Nat} {σ : State} {s : State} (hK : Keeps μ σ s)
    (hm : Sub 0x20000 μ := by first | assumption | exact Sub.of ‹Sub _ _› ⟨by decide +kernel⟩) :
    Keeps μ σ (State.logPlace s).2 := by
  unfold State.logPlace
  try dsimp only
  repeat' with_reducible first | assumption | refine takePlace_keeps ?_ | refine openBolt_keeps ?_ | refine keep_of_some_12 ‹_› (openBolt_keeps ?_) | refine keep_ite (P := Keeps μ σ) ?_ ?_ | refine OnOk.ok ?_ | exact OnOk.error | refine keep_ite (P := OnOk (Keeps μ σ)) ?_ ?_ | intro _ | split | dsimp only

theorem pushWb_keeps {μ : Nat} {σ : State} {s : State} {w : WbSector} (hK : Keeps μ σ s)
    (hm : Sub 0x20000 μ := by first | assumption | exact Sub.of ‹Sub _ _› ⟨by decide +kernel⟩) :
    Keeps μ σ (State.pushWb s w) := by
  unfold State.pushWb
  try dsimp only
  repeat' with_reducible first | assumption | refine putYard_keeps ?_ | refine keep_ite (P := Keeps μ σ) ?_ ?_ | refine OnOk.ok ?_ | exact OnOk.error | refine keep_ite (P := OnOk (Keeps μ σ)) ?_ ?_ | intro _ | split | dsimp only

theorem logPath_keeps {μ : Nat} {σ : State} {s : State} {lsa : Nat} {data : Bytes} {tuple : PiTuple} (hK : Keeps μ σ s)
    (hm : Sub 0x20000 μ := by first | assumption | exact Sub.of ‹Sub _ _› ⟨by decide +kernel⟩) :
    Keeps μ σ (State.logPath s lsa data tuple) := by
  unfold State.logPath
  try dsimp only
  repeat' with_reducible first | assumption | refine takeYseq_keeps ?_ | refine keep_of_snd ‹_› (takeYseq_keeps ?_) | refine logPlace_keeps ?_ | refine keep_of_snd ‹_› (logPlace_keeps ?_) | refine pushWb_keeps ?_ | refine putLog_keeps ?_ | refine keep_ite (P := Keeps μ σ) ?_ ?_ | refine OnOk.ok ?_ | exact OnOk.error | refine keep_ite (P := OnOk (Keeps μ σ)) ?_ ?_ | intro _ | split | dsimp only

theorem seqPath_keeps {μ : Nat} {σ : State} {s : State} {e : LbnEntry} {b : Bolt} {data : Bytes} {tuple : PiTuple} (hK : Keeps μ σ s)
    (hm : Sub 0x20000 μ := by first | assumption | exact Sub.of ‹Sub _ _› ⟨by decide +kernel⟩) :
    Keeps μ σ (State.seqPath s e b data tuple) := by
  unfold State.seqPath
  try dsimp only
  repeat' with_reducible first | assumption | refine takeYseq_keeps ?_ | refine keep_of_snd ‹_› (takeYseq_keeps ?_) | refine takePlace_keeps ?_ | refine pushWb_keeps ?_ | refine putLbn_keeps ?_ | refine putYard_keeps ?_ | refine keep_ite (P := Keeps μ σ) ?_ ?_ | refine OnOk.ok ?_ | exact OnOk.error | refine keep_ite (P := OnOk (Keeps μ σ)) ?_ ?_ | intro _ | split | dsimp only

theorem accept1_keeps {μ : Nat} {σ : State} {s : State} {lbn : Nat} {k : Nat} {data : Bytes} {tuple : PiTuple} (hK : Keeps μ σ s)
    (hm : Sub 0x20000 μ := by first | assumption | exact Sub.of ‹Sub _ _› ⟨by decide +kernel⟩) :
    OnSome (Keeps μ σ) (State.accept1 s lbn k data tuple) := by
  unfold State.accept1
  try dsimp only
  repeat' with_reducible first | assumption | refine openBolt_keeps ?_ | refine keep_of_some_12 ‹_› (openBolt_keeps ?_) | refine seqPath_keeps ?_ | refine logPath_keeps ?_ | refine OnNext.next ?_ | refine OnOk.ok ?_ | exact OnOk.error | refine OnSome.some ?_ | exact OnSome.none | refine OnSomeOf.some ?_ | exact OnSomeOf.none | refine OnOkOf.ok ?_ | exact OnOkOf.error | refine act_keeps ?_ ?_ | refine live_keeps ?_ ?_ | refine keep_ite (P := OnSome (Keeps μ σ)) ?_ ?_ | refine keep_ite (P := Keeps μ σ) ?_ ?_ | refine keep_ite (P := OnOk (Keeps μ σ)) ?_ ?_ | intro _ | split | dsimp only

theorem padBolt_keeps {μ : Nat} {σ : State} {s : State} {b : Bolt} (hK : Keeps μ σ s)
    (hm : Sub 0x20000 μ := by first | assumption | exact Sub.of ‹Sub _ _› ⟨by decide +kernel⟩) :
    Keeps μ σ (State.padBolt s b) := by
  unfold State.padBolt
  try dsimp only
  repeat' with_reducible first | assumption | refine pushWb_keeps ?_ | refine putBolt_keeps ?_ | refine keep_ite (P := Keeps μ σ) ?_ ?_ | refine keep_foldl (P := Keeps μ σ) ?_ ?_ | refine OnOk.ok ?_ | exact OnOk.error | refine keep_ite (P := OnOk (Keeps μ σ)) ?_ ?_ | intro _ | split | dsimp only

theorem padOpen_keeps {μ : Nat} {σ : State} {s : State} (hK : Keeps μ σ s)
    (hm : Sub 0x20000 μ := by first | assumption | exact Sub.of ‹Sub _ _› ⟨by decide +kernel⟩) :
    Keeps μ σ (State.padOpen s) := by
  unfold State.padOpen
  try dsimp only
  repeat' with_reducible first | assumption | refine padBolt_keeps ?_ | refine keep_ite (P := Keeps μ σ) ?_ ?_ | refine keep_foldl (P := Keeps μ σ) ?_ ?_ | refine OnOk.ok ?_ | exact OnOk.error | refine keep_ite (P := OnOk (Keeps μ σ)) ?_ ?_ | intro _ | split | dsimp only

theorem closePadded_keeps {μ : Nat} {σ : State} {s : State} (hK : Keeps μ σ s)
    (hm : Sub 0x20000 μ := by first | assumption | exact Sub.of ‹Sub _ _› ⟨by decide +kernel⟩) :
    Keeps μ σ (State.closePadded s) := by
  unfold State.closePadded
  try dsimp only
  repeat' with_reducible first | assumption | refine closeBolt_keeps ?_ | refine keep_ite (P := Keeps μ σ) ?_ ?_ | refine keep_foldl (P := Keeps μ σ) ?_ ?_ | refine OnOk.ok ?_ | exact OnOk.error | refine keep_ite (P := OnOk (Keeps μ σ)) ?_ ?_ | intro _ | split | dsimp only

theorem padAll_keeps {μ : Nat} {σ : State} {s : State} (hK : Keeps μ σ s)
    (hm : Sub 0x20000 μ := by first | assumption | exact Sub.of ‹Sub _ _› ⟨by decide +kernel⟩) :
    Keeps μ σ (State.padAll s) := by
  unfold State.padAll
  try dsimp only
  repeat' with_reducible first | assumption | refine padOpen_keeps ?_ | refine closePadded_keeps ?_ | refine keep_ite (P := Keeps μ σ) ?_ ?_ | refine OnOk.ok ?_ | exact OnOk.error | refine keep_ite (P := OnOk (Keeps μ σ)) ?_ ?_ | intro _ | split | dsimp only

theorem placeWaiting_keeps {μ : Nat} {σ : State} {s : State} {x0 : Nat} (hK : Keeps μ σ s)
    (hm : Sub 0x20000 μ := by first | assumption | exact Sub.of ‹Sub _ _› ⟨by decide +kernel⟩) :
    Keeps μ σ (State.placeWaiting s x0) := by
  induction x0 generalizing s with
  | zero =>
    unfold State.placeWaiting
    try dsimp only
    repeat' with_reducible first | assumption | refine logPlace_keeps ?_ | refine keep_of_snd ‹_› (logPlace_keeps ?_) | refine putYard_keeps ?_ | refine keep_ite (P := Keeps μ σ) ?_ ?_ | refine OnOk.ok ?_ | exact OnOk.error | refine keep_ite (P := OnOk (Keeps μ σ)) ?_ ?_ | intro _ | split | dsimp only
  | succ n ih =>
    unfold State.placeWaiting
    try dsimp only
    repeat' with_reducible first | assumption | refine ih ?_ | refine logPlace_keeps ?_ | refine keep_of_snd ‹_› (logPlace_keeps ?_) | refine putYard_keeps ?_ | refine keep_ite (P := Keeps μ σ) ?_ ?_ | refine OnOk.ok ?_ | exact OnOk.error | refine keep_ite (P := OnOk (Keeps μ σ)) ?_ ?_ | intro _ | split | dsimp only

theorem unmapLbn_keeps {μ : Nat} {σ : State} {s : State} {lbn : Nat} (hK : Keeps μ σ s)
    (hm : Sub 0x20000 μ := by first | assumption | exact Sub.of ‹Sub _ _› ⟨by decide +kernel⟩) :
    Keeps μ σ (State.unmapLbn s lbn) := by
  unfold State.unmapLbn
  try dsimp only
  repeat' with_reducible first | assumption | refine releaseBolt_keeps ?_ | refine putYard_keeps ?_ | refine yrec_keeps ?_ | refine keep_ite (P := Keeps μ σ) ?_ ?_ | refine OnOk.ok ?_ | exact OnOk.error | refine keep_ite (P := OnOk (Keeps μ σ)) ?_ ?_ | intro _ | split | dsimp only

theorem discardRange_keeps {μ : Nat} {σ : State} {s : State} {base : Nat} {first : Nat} {count : Nat} (hK : Keeps μ σ s)
    (hm : Sub 0x20000 μ := by first | assumption | exact Sub.of ‹Sub _ _› ⟨by decide +kernel⟩) :
    Keeps μ σ (State.discardRange s base first count) := by
  unfold State.discardRange
  try dsimp only
  repeat' with_reducible first | assumption | refine unmapLbn_keeps ?_ | refine putLog_keeps ?_ | refine yrec_keeps ?_ | refine keep_ite (P := Keeps μ σ) ?_ ?_ | refine keep_foldl (P := Keeps μ σ) ?_ ?_ | refine OnOk.ok ?_ | exact OnOk.error | refine keep_ite (P := OnOk (Keeps μ σ)) ?_ ?_ | intro _ | split | dsimp only

theorem putShard_keeps {μ : Nat} {σ : State} {s : State} {d : Shard} (hK : Keeps μ σ s)
    (hm : Sub 0x800000000000020000 μ := by first | assumption | exact Sub.of ‹Sub _ _› ⟨by decide +kernel⟩) :
    Keeps μ σ (State.putShard s d) := by
  unfold State.putShard
  try dsimp only
  repeat' with_reducible first | assumption | refine putYard_keeps ?_ | refine touch_keeps ?_ | refine keep_ite (P := Keeps μ σ) ?_ ?_ | refine OnOk.ok ?_ | exact OnOk.error | refine keep_ite (P := OnOk (Keeps μ σ)) ?_ ?_ | intro _ | split | dsimp only

end Sys2Proof.Laws
end

