-- ==== Sys2Proof/Laws/KeepYardMaint.lean ====
section
/-! SUPPORT. What each operation of Machine/YardMaint.lean changes: outside the zones of its mask it keeps everything, and it
keeps the invariant. -/
namespace Sys2Proof.Laws
open Sys2Proof.Machine
set_option Elab.async false
set_option linter.unreachableTactic false
set_option linter.unusedTactic false

theorem foldInto_keeps {μ : Nat} {σ : State} {s : State} {lbn : Nat} {f : Nat} {i : Nat} (hK : Keeps μ σ s)
    (hm : Sub 0x200020000 μ := by first | assumption | exact Sub.of ‹Sub _ _› ⟨by decide +kernel⟩) :
    Keeps μ σ (State.foldInto s lbn f i) := by
  unfold State.foldInto
  try dsimp only
  repeat' with_reducible first | assumption | refine modBolt_keeps ?_ | refine closeBolt_keeps ?_ | refine hwAdd_keeps ?_ | refine keep_ite (P := Keeps μ σ) ?_ ?_ | refine OnOk.ok ?_ | exact OnOk.error | refine keep_ite (P := OnOk (Keeps μ σ)) ?_ ?_ | intro _ | split | dsimp only

theorem foldCopy_keeps {μ : Nat} {σ : State} {s : State} {lbn : Nat} {f : Nat} (hK : Keeps μ σ s)
    (hm : Sub 0x200020000 μ := by first | assumption | exact Sub.of ‹Sub _ _› ⟨by decide +kernel⟩) :
    OnSomeOf (fun x => Keeps μ σ x.2) (State.foldCopy s lbn f) := by
  unfold State.foldCopy
  try dsimp only
  repeat' with_reducible first | assumption | refine openBolt_keeps ?_ | refine keep_of_some_12 ‹_› (openBolt_keeps ?_) | refine foldInto_keeps ?_ | refine OnNext.next ?_ | refine OnOk.ok ?_ | exact OnOk.error | refine OnSome.some ?_ | exact OnSome.none | refine OnSomeOf.some ?_ | exact OnSomeOf.none | refine OnOkOf.ok ?_ | exact OnOkOf.error | refine act_keeps ?_ ?_ | refine live_keeps ?_ ?_ | refine keep_ite (P := OnSomeOf (fun x => Keeps μ σ x.2)) ?_ ?_ | refine keep_ite (P := Keeps μ σ) ?_ ?_ | refine keep_ite (P := OnOk (Keeps μ σ)) ?_ ?_ | intro _ | split | dsimp only

theorem foldMap_keeps {μ : Nat} {σ : State} {s : State} {lbn : Nat} {new : Nat} {f : Nat} (hK : Keeps μ σ s)
    (hm : Sub 0x20000 μ := by first | assumption | exact Sub.of ‹Sub _ _› ⟨by decide +kernel⟩) :
    Keeps μ σ (State.foldMap s lbn new f) := by
  unfold State.foldMap
  try dsimp only
  repeat' with_reducible first | assumption | refine yrec_keeps ?_ | refine commitYard_keeps ?_ | refine putLbn_keeps ?_ | refine modBolt_keeps ?_ | refine putYard_keeps ?_ | refine releaseBolt_keeps ?_ | refine keep_ite (P := Keeps μ σ) ?_ ?_ | refine OnOk.ok ?_ | exact OnOk.error | refine keep_ite (P := OnOk (Keeps μ σ)) ?_ ?_ | intro _ | split | dsimp only

theorem relocateLbns_keeps {μ : Nat} {σ : State} {s : State} {f : Nat} {x0 : List Nat} (hK : Keeps μ σ s)
    (hm : Sub 0x200020000 μ := by first | assumption | exact Sub.of ‹Sub _ _› ⟨by decide +kernel⟩) :
    Keeps μ σ (State.relocateLbns s f x0) := by
  induction x0 generalizing s f with
  | nil =>
    unfold State.relocateLbns
    try dsimp only
    repeat' with_reducible first | assumption | refine foldCopy_keeps ?_ | refine keep_of_some_12 ‹_› (foldCopy_keeps ?_) | refine foldMap_keeps ?_ | refine keep_ite (P := Keeps μ σ) ?_ ?_ | refine OnOk.ok ?_ | exact OnOk.error | refine keep_ite (P := OnOk (Keeps μ σ)) ?_ ?_ | intro _ | split | dsimp only
  | cons a l ih =>
    unfold State.relocateLbns
    try dsimp only
    repeat' with_reducible first | assumption | refine ih ?_ | refine foldCopy_keeps ?_ | refine keep_of_some_12 ‹_› (foldCopy_keeps ?_) | refine foldMap_keeps ?_ | refine keep_ite (P := Keeps μ σ) ?_ ?_ | refine OnOk.ok ?_ | exact OnOk.error | refine keep_ite (P := OnOk (Keeps μ σ)) ?_ ?_ | intro _ | split | dsimp only

theorem moveSystem_keeps {μ : Nat} {σ : State} {s : State} {i : Nat} (hK : Keeps μ σ s)
    (hm : Sub 0x20000 μ := by first | assumption | exact Sub.of ‹Sub _ _› ⟨by decide +kernel⟩) :
    Keeps μ σ (State.moveSystem s i) := by
  unfold State.moveSystem
  try dsimp only
  repeat' with_reducible first | assumption | refine openBolt_keeps ?_ | refine keep_of_some_12 ‹_› (openBolt_keeps ?_) | refine putYard_keeps ?_ | refine keep_ite (P := Keeps μ σ) ?_ ?_ | refine OnOk.ok ?_ | exact OnOk.error | refine keep_ite (P := OnOk (Keeps μ σ)) ?_ ?_ | intro _ | split | dsimp only

theorem relocate_keeps {μ : Nat} {σ : State} {s : State} {i : Nat} (hK : Keeps μ σ s)
    (hm : Sub 0x200020000 μ := by first | assumption | exact Sub.of ‹Sub _ _› ⟨by decide +kernel⟩) :
    Keeps μ σ (State.relocate s i) := by
  unfold State.relocate
  try dsimp only
  repeat' with_reducible first | assumption | refine moveSystem_keeps ?_ | refine releaseBolt_keeps ?_ | refine relocateLbns_keeps ?_ | refine keep_ite (P := Keeps μ σ) ?_ ?_ | refine OnOk.ok ?_ | exact OnOk.error | refine keep_ite (P := OnOk (Keeps μ σ)) ?_ ?_ | intro _ | split | dsimp only

theorem relocateRetire_keeps {μ : Nat} {σ : State} {s : State} {i : Nat} {cause : Nat} (hK : Keeps μ σ s)
    (hm : Sub 0x4200000002c0020006 μ := by first | assumption | exact Sub.of ‹Sub _ _› ⟨by decide +kernel⟩) :
    Keeps μ σ (State.relocateRetire s i cause) := by
  unfold State.relocateRetire
  try dsimp only
  repeat' with_reducible first | assumption | refine closeBolt_keeps ?_ | refine relocate_keeps ?_ | refine retireBolt_keeps ?_ | refine keep_ite (P := Keeps μ σ) ?_ ?_ | refine OnOk.ok ?_ | exact OnOk.error | refine keep_ite (P := OnOk (Keeps μ σ)) ?_ ?_ | intro _ | split | dsimp only

theorem foldStep_keeps {μ : Nat} {σ : State} {s : State} (hK : Keeps μ σ s)
    (hm : Sub 0x200020000 μ := by first | assumption | exact Sub.of ‹Sub _ _› ⟨by decide +kernel⟩) :
    Keeps μ σ (State.foldStep s) := by
  unfold State.foldStep
  try dsimp only
  repeat' with_reducible first | assumption | refine putYard_keeps ?_ | refine foldMap_keeps ?_ | refine foldCopy_keeps ?_ | refine keep_of_some_12 ‹_› (foldCopy_keeps ?_) | refine releaseBolt_keeps ?_ | refine placeWaiting_keeps ?_ | refine keep_ite (P := Keeps μ σ) ?_ ?_ | refine keep_foldl (P := Keeps μ σ) ?_ ?_ | refine OnOk.ok ?_ | exact OnOk.error | refine keep_ite (P := OnOk (Keeps μ σ)) ?_ ?_ | intro _ | split | dsimp only

theorem wearRelocate_keeps {μ : Nat} {σ : State} {s : State} (hK : Keeps μ σ s)
    (hm : Sub 0x200020000 μ := by first | assumption | exact Sub.of ‹Sub _ _› ⟨by decide +kernel⟩) :
    Keeps μ σ (State.wearRelocate s) := by
  unfold State.wearRelocate
  try dsimp only
  repeat' with_reducible first | assumption | refine openAs_keeps ?_ | refine foldInto_keeps ?_ | refine foldMap_keeps ?_ | refine keep_ite (P := Keeps μ σ) ?_ ?_ | refine OnOk.ok ?_ | exact OnOk.error | refine keep_ite (P := OnOk (Keeps μ σ)) ?_ ?_ | intro _ | split | dsimp only

theorem refreshBolt_keeps {μ : Nat} {σ : State} {s : State} {i : Nat} (hK : Keeps μ σ s)
    (hm : Sub 0x200000000200020000 μ := by first | assumption | exact Sub.of ‹Sub _ _› ⟨by decide +kernel⟩) :
    Keeps μ σ (State.refreshBolt s i) := by
  unfold State.refreshBolt
  try dsimp only
  repeat' with_reducible first | assumption | refine relocate_keeps ?_ | refine bump_keeps ?_ | refine keep_ite (P := Keeps μ σ) ?_ ?_ | refine OnOk.ok ?_ | exact OnOk.error | refine keep_ite (P := OnOk (Keeps μ σ)) ?_ ?_ | intro _ | split | dsimp only

theorem beginErase_keeps {μ : Nat} {σ : State} {s : State} {i : Nat} (hK : Keeps μ σ s)
    (hm : Sub 0x20000 μ := by first | assumption | exact Sub.of ‹Sub _ _› ⟨by decide +kernel⟩) :
    Keeps μ σ (State.beginErase s i) := by
  unfold State.beginErase
  try dsimp only
  repeat' with_reducible first | assumption | refine yrec_keeps ?_ | refine commitYard_keeps ?_ | refine putYard_keeps ?_ | refine keep_ite (P := Keeps μ σ) ?_ ?_ | refine OnOk.ok ?_ | exact OnOk.error | refine keep_ite (P := OnOk (Keeps μ σ)) ?_ ?_ | intro _ | split | dsimp only

theorem endErase_keeps {μ : Nat} {σ : State} {s : State} {i : Nat} {o : EraseOutcome} (hK : Keeps μ σ s)
    (hm : Sub 0x4200000002c0020006 μ := by first | assumption | exact Sub.of ‹Sub _ _› ⟨by decide +kernel⟩) :
    Keeps μ σ (State.endErase s i o) := by
  unfold State.endErase
  try dsimp only
  repeat' with_reducible first | assumption | refine putYard_keeps ?_ | refine modBolt_keeps ?_ | refine retireBolt_keeps ?_ | refine hwAdd_keeps ?_ | refine setN_keeps ?_ | refine yrec_keeps ?_ | refine keep_ite (P := Keeps μ σ) ?_ ?_ | refine OnOk.ok ?_ | exact OnOk.error | refine keep_ite (P := OnOk (Keeps μ σ)) ?_ ?_ | intro _ | split | dsimp only

theorem openChain_keeps {μ : Nat} {σ : State} {x0 : Nat} {x1 : State} (hK : Keeps μ σ x1)
    (hm : Sub 0x20000 μ := by first | assumption | exact Sub.of ‹Sub _ _› ⟨by decide +kernel⟩) :
    Keeps μ σ (State.openChain x0 x1).2 := by
  induction x0 generalizing x1 with
  | zero =>
    unfold State.openChain
    try dsimp only
    repeat' with_reducible first | assumption | refine openBolt_keeps ?_ | refine keep_of_some_12 ‹_› (openBolt_keeps ?_) | refine keep_ite (P := Keeps μ σ) ?_ ?_ | refine OnOk.ok ?_ | exact OnOk.error | refine keep_ite (P := OnOk (Keeps μ σ)) ?_ ?_ | intro _ | split | dsimp only
  | succ n ih =>
    unfold State.openChain
    try dsimp only
    repeat' with_reducible first | assumption | refine ih ?_ | refine keep_of_snd ‹_› (ih ?_) | refine openBolt_keeps ?_ | refine keep_of_some_12 ‹_› (openBolt_keeps ?_) | refine keep_ite (P := Keeps μ σ) ?_ ?_ | refine OnOk.ok ?_ | exact OnOk.error | refine keep_ite (P := OnOk (Keeps μ σ)) ?_ ?_ | intro _ | split | dsimp only

theorem beginCkpt_keeps {μ : Nat} {σ : State} {s : State} (hK : Keeps μ σ s)
    (hm : Sub 0x20000 μ := by first | assumption | exact Sub.of ‹Sub _ _› ⟨by decide +kernel⟩) :
    Keeps μ σ (State.beginCkpt s) := by
  unfold State.beginCkpt
  try dsimp only
  repeat' with_reducible first | assumption | refine releaseBolt_keeps ?_ | refine putYard_keeps ?_ | refine openChain_keeps ?_ | refine keep_of_snd ‹_› (openChain_keeps ?_) | refine keep_ite (P := Keeps μ σ) ?_ ?_ | refine keep_foldl (P := Keeps μ σ) ?_ ?_ | refine OnOk.ok ?_ | exact OnOk.error | refine keep_ite (P := OnOk (Keeps μ σ)) ?_ ?_ | intro _ | split | dsimp only

theorem autoCkpt_keeps {μ : Nat} {σ : State} {s : State} (hK : Keeps μ σ s)
    (hm : Sub 0x20000 μ := by first | assumption | exact Sub.of ‹Sub _ _› ⟨by decide +kernel⟩) :
    Keeps μ σ (State.autoCkpt s) := by
  unfold State.autoCkpt
  try dsimp only
  repeat' with_reducible first | assumption | refine beginCkpt_keeps ?_ | refine keep_ite (P := Keeps μ σ) ?_ ?_ | refine OnOk.ok ?_ | exact OnOk.error | refine keep_ite (P := OnOk (Keeps μ σ)) ?_ ?_ | intro _ | split | dsimp only

theorem renewAnchor_keeps {μ : Nat} {σ : State} {s : State} {fails : List Nat} {i : Nat} (hK : Keeps μ σ s)
    (hm : Sub 0x4200000002c0020006 μ := by first | assumption | exact Sub.of ‹Sub _ _› ⟨by decide +kernel⟩) :
    Keeps μ σ (State.renewAnchor s fails i) := by
  unfold State.renewAnchor
  try dsimp only
  repeat' with_reducible first | assumption | refine beginErase_keeps ?_ | refine endErase_keeps ?_ | refine putYard_keeps ?_ | refine putBolt_keeps ?_ | refine keep_ite (P := Keeps μ σ) ?_ ?_ | refine OnOk.ok ?_ | exact OnOk.error | refine keep_ite (P := OnOk (Keeps μ σ)) ?_ ?_ | intro _ | split | dsimp only

theorem updateAnchor_keeps {μ : Nat} {σ : State} {s : State} {a : Anchor} {fails : List Nat} (hK : Keeps μ σ s)
    (hm : Sub 0x4200000002c0020006 μ := by first | assumption | exact Sub.of ‹Sub _ _› ⟨by decide +kernel⟩) :
    Keeps μ σ (State.updateAnchor s a fails) := by
  unfold State.updateAnchor
  try dsimp only
  repeat' with_reducible first | assumption | refine renewAnchor_keeps ?_ | refine putYard_keeps ?_ | refine keep_ite (P := Keeps μ σ) ?_ ?_ | refine keep_foldl (P := Keeps μ σ) ?_ ?_ | refine OnOk.ok ?_ | exact OnOk.error | refine keep_ite (P := OnOk (Keeps μ σ)) ?_ ?_ | intro _ | split | dsimp only

theorem trimJournal_keeps {μ : Nat} {σ : State} {s : State} (hK : Keeps μ σ s)
    (hm : Sub 0x20000 μ := by first | assumption | exact Sub.of ‹Sub _ _› ⟨by decide +kernel⟩) :
    Keeps μ σ (State.trimJournal s) := by
  unfold State.trimJournal
  try dsimp only
  repeat' with_reducible first | assumption | refine putYard_keeps ?_ | refine releaseBolt_keeps ?_ | refine keep_ite (P := Keeps μ σ) ?_ ?_ | refine keep_foldl (P := Keeps μ σ) ?_ ?_ | refine OnOk.ok ?_ | exact OnOk.error | refine keep_ite (P := OnOk (Keeps μ σ)) ?_ ?_ | intro _ | split | dsimp only

theorem endCkpt_keeps {μ : Nat} {σ : State} {s : State} {fails : List Nat} (hK : Keeps μ σ s)
    (hm : Sub 0x4200000002c0020006 μ := by first | assumption | exact Sub.of ‹Sub _ _› ⟨by decide +kernel⟩) :
    Keeps μ σ (State.endCkpt s fails) := by
  unfold State.endCkpt
  try dsimp only
  repeat' with_reducible first | assumption | refine putYard_keeps ?_ | refine yrec_keeps ?_ | refine commitYard_keeps ?_ | refine updateAnchor_keeps ?_ | refine trimJournal_keeps ?_ | refine keep_ite (P := Keeps μ σ) ?_ ?_ | refine OnOk.ok ?_ | exact OnOk.error | refine keep_ite (P := OnOk (Keeps μ σ)) ?_ ?_ | intro _ | split | dsimp only

theorem openPair_keeps {μ : Nat} {σ : State} {s : State} (hK : Keeps μ σ s)
    (hm : Sub 0x20000 μ := by first | assumption | exact Sub.of ‹Sub _ _› ⟨by decide +kernel⟩) :
    Keeps μ σ (State.openPair s) := by
  unfold State.openPair
  try dsimp only
  repeat' with_reducible first | assumption | refine openBolt_keeps ?_ | refine keep_of_some_12 ‹_› (openBolt_keeps ?_) | refine putYard_keeps ?_ | refine keep_ite (P := Keeps μ σ) ?_ ?_ | refine OnOk.ok ?_ | exact OnOk.error | refine keep_ite (P := OnOk (Keeps μ σ)) ?_ ?_ | intro _ | split | dsimp only

theorem journalCommit_keeps {μ : Nat} {σ : State} {s : State} {firstOk : Bool} {secondOk : Bool} (hK : Keeps μ σ s)
    (hm : Sub 0x4200000002c0020006 μ := by first | assumption | exact Sub.of ‹Sub _ _› ⟨by decide +kernel⟩) :
    Keeps μ σ (State.journalCommit s firstOk secondOk) := by
  unfold State.journalCommit
  try dsimp only
  repeat' with_reducible first | assumption | refine openPair_keeps ?_ | refine retireBolt_keeps ?_ | refine commitYard_keeps ?_ | refine keep_ite (P := Keeps μ σ) ?_ ?_ | refine OnOk.ok ?_ | exact OnOk.error | refine keep_ite (P := OnOk (Keeps μ σ)) ?_ ?_ | intro _ | split | dsimp only

theorem programPass_keeps {μ : Nat} {σ : State} {s : State} {b : Bolt} {l : List WbSector} (hK : Keeps μ σ s)
    (hm : Sub 0x200020000 μ := by first | assumption | exact Sub.of ‹Sub _ _› ⟨by decide +kernel⟩) :
    Keeps μ σ (State.programPass s b l) := by
  unfold State.programPass
  try dsimp only
  repeat' with_reducible first | assumption | refine putBolt_keeps ?_ | refine putYard_keeps ?_ | refine hwAdd_keeps ?_ | refine keep_ite (P := Keeps μ σ) ?_ ?_ | refine OnOk.ok ?_ | exact OnOk.error | refine keep_ite (P := OnOk (Keeps μ σ)) ?_ ?_ | intro _ | split | dsimp only

theorem programFail_keeps {μ : Nat} {σ : State} {s : State} {b : Bolt} {l : List WbSector} (hK : Keeps μ σ s)
    (hm : Sub 0x4200000002c0020006 μ := by first | assumption | exact Sub.of ‹Sub _ _› ⟨by decide +kernel⟩) :
    Keeps μ σ (State.programFail s b l) := by
  unfold State.programFail
  try dsimp only
  repeat' with_reducible first | assumption | refine putYard_keeps ?_ | refine closeBolt_keeps ?_ | refine logPath_keeps ?_ | refine relocateRetire_keeps ?_ | refine keep_ite (P := Keeps μ σ) ?_ ?_ | refine keep_foldl (P := Keeps μ σ) ?_ ?_ | refine OnOk.ok ?_ | exact OnOk.error | refine keep_ite (P := OnOk (Keeps μ σ)) ?_ ?_ | intro _ | split | dsimp only

theorem programDone_keeps {μ : Nat} {σ : State} {s : State} {i : Nat} {pass : Bool} (hK : Keeps μ σ s)
    (hm : Sub 0x4200000002c0020006 μ := by first | assumption | exact Sub.of ‹Sub _ _› ⟨by decide +kernel⟩) :
    Keeps μ σ (State.programDone s i pass) := by
  unfold State.programDone
  try dsimp only
  repeat' with_reducible first | assumption | refine putYard_keeps ?_ | refine retireBolt_keeps ?_ | refine programPass_keeps ?_ | refine programFail_keeps ?_ | refine keep_ite (P := Keeps μ σ) ?_ ?_ | refine OnOk.ok ?_ | exact OnOk.error | refine keep_ite (P := OnOk (Keeps μ σ)) ?_ ?_ | intro _ | split | dsimp only

theorem flushWb_keeps {μ : Nat} {σ : State} {s : State} (hK : Keeps μ σ s)
    (hm : Sub 0x200020000 μ := by first | assumption | exact Sub.of ‹Sub _ _› ⟨by decide +kernel⟩) :
    Keeps μ σ (State.flushWb s) := by
  unfold State.flushWb
  try dsimp only
  repeat' with_reducible first | assumption | refine placeWaiting_keeps ?_ | refine padAll_keeps ?_ | refine programPass_keeps ?_ | refine closeBolt_keeps ?_ | refine keep_ite (P := Keeps μ σ) ?_ ?_ | refine keep_foldl (P := Keeps μ σ) ?_ ?_ | refine OnOk.ok ?_ | exact OnOk.error | refine keep_ite (P := OnOk (Keeps μ σ)) ?_ ?_ | intro _ | split | dsimp only

theorem enumerate_keeps {μ : Nat} {σ : State} {s : State} {l : List LunReport} (hK : Keeps μ σ s)
    (hm : Sub 0x400000000c0020006 μ := by first | assumption | exact Sub.of ‹Sub _ _› ⟨by decide +kernel⟩) :
    Keeps μ σ (State.enumerate s l) := by
  unfold State.enumerate
  try dsimp only
  repeat' with_reducible first | assumption | refine raise_keeps ?_ | refine setN_keeps ?_ | refine putYard_keeps ?_ | refine keep_ite (P := Keeps μ σ) ?_ ?_ | refine keep_foldl (P := Keeps μ σ) ?_ ?_ | refine OnOk.ok ?_ | exact OnOk.error | refine keep_ite (P := OnOk (Keeps μ σ)) ?_ ?_ | intro _ | split | dsimp only

theorem replayRec_keeps {μ : Nat} {σ : State} {s : State} {e : YEntry} (hK : Keeps μ σ s)
    (hm : Sub 0x800000000000020000 μ := by first | assumption | exact Sub.of ‹Sub _ _› ⟨by decide +kernel⟩) :
    Keeps μ σ (State.replayRec s e) := by
  unfold State.replayRec
  try dsimp only
  repeat' with_reducible first | assumption | refine modBolt_keeps ?_ | refine putLbn_keeps ?_ | refine putYard_keeps ?_ | refine releaseBolt_keeps ?_ | refine putLog_keeps ?_ | refine putShard_keeps ?_ | refine keep_ite (P := Keeps μ σ) ?_ ?_ | refine keep_foldl (P := Keeps μ σ) ?_ ?_ | refine OnOk.ok ?_ | exact OnOk.error | refine keep_ite (P := OnOk (Keeps μ σ)) ?_ ?_ | intro _ | split | dsimp only

theorem classifyIntent_keeps {μ : Nat} {σ : State} {s : State} {i : Nat} {n : Nat} (hK : Keeps μ σ s)
    (hm : Sub 0x20000000000020000 μ := by first | assumption | exact Sub.of ‹Sub _ _› ⟨by decide +kernel⟩) :
    Keeps μ σ (State.classifyIntent s i n) := by
  unfold State.classifyIntent
  try dsimp only
  repeat' with_reducible first | assumption | refine putBolt_keeps ?_ | refine bump32_keeps ?_ | refine keep_ite (P := Keeps μ σ) ?_ ?_ | refine OnOk.ok ?_ | exact OnOk.error | refine keep_ite (P := OnOk (Keeps μ σ)) ?_ ?_ | intro _ | split | dsimp only

theorem adoptLog_keeps {μ : Nat} {σ : State} {s : State} {replayed : List YEntry} {x : StoredSector} (hK : Keeps μ σ s)
    (hm : Sub 0x20000 μ := by first | assumption | exact Sub.of ‹Sub _ _› ⟨by decide +kernel⟩) :
    Keeps μ σ (State.adoptLog s replayed x) := by
  unfold State.adoptLog
  try dsimp only
  repeat' with_reducible first | assumption | refine putLog_keeps ?_ | refine keep_ite (P := Keeps μ σ) ?_ ?_ | refine OnOk.ok ?_ | exact OnOk.error | refine keep_ite (P := OnOk (Keeps μ σ)) ?_ ?_ | intro _ | split | dsimp only

theorem scanBolt_keeps {μ : Nat} {σ : State} {s : State} {bad : List (Nat × Nat)} {replayed : List YEntry} {b : Bolt} (hK : Keeps μ σ s)
    (hm : Sub 0x20000 μ := by first | assumption | exact Sub.of ‹Sub _ _› ⟨by decide +kernel⟩) :
    Keeps μ σ (State.scanBolt s bad replayed b) := by
  unfold State.scanBolt
  try dsimp only
  repeat' with_reducible first | assumption | refine putBolt_keeps ?_ | refine closeBolt_keeps ?_ | refine putYard_keeps ?_ | refine adoptLog_keeps ?_ | refine keep_ite (P := Keeps μ σ) ?_ ?_ | refine keep_foldl (P := Keeps μ σ) ?_ ?_ | refine OnOk.ok ?_ | exact OnOk.error | refine keep_ite (P := OnOk (Keeps μ σ)) ?_ ?_ | intro _ | split | dsimp only

theorem recoverFrom_keeps {μ : Nat} {σ : State} {s : State} {c : Ckpt} {m : RecoveryMedia} {a : Anchor} (hK : Keeps μ σ s)
    (hm : Sub 0xf600000002c0020006 μ := by first | assumption | exact Sub.of ‹Sub _ _› ⟨by decide +kernel⟩) :
    Keeps μ σ (State.recoverFrom s c m a) := by
  unfold State.recoverFrom
  try dsimp only
  have hyc : ∀ p ∈ yardCounters.zip c.counters, OkKey μ p.1 := fun p hp =>
    OkKey.lit hm ((by decide +kernel : ∀ k ∈ yardCounters, inside 0xf600000002c0020006 (k / 256) (k / 256) = true) p.1 (List.of_mem_zip hp).1)
  repeat' with_reducible first | assumption | refine putYard_keeps ?_ | refine setN_keeps ?_ | refine replayRec_keeps ?_ | refine classifyIntent_keeps ?_ | refine adoptLog_keeps ?_ | refine scanBolt_keeps ?_ | refine releaseBolt_keeps ?_ | refine beginCkpt_keeps ?_ | refine endCkpt_keeps ?_ | refine spareCheck_keeps ?_ | refine keep_ite (P := Keeps μ σ) ?_ ?_ | refine keep_foldl_mem (P := Keeps μ σ) ?_ ?_ | refine setN_keeps ?_ (hyc _ ‹_›) | refine OnOk.ok ?_ | exact OnOk.error | refine keep_ite (P := OnOk (Keeps μ σ)) ?_ ?_ | intro _ | split | dsimp only

theorem recoverYard_keeps {μ : Nat} {σ : State} {s : State} {m : RecoveryMedia} (hK : Keeps μ σ s)
    (hm : Sub 0xf600000002c0020006 μ := by first | assumption | exact Sub.of ‹Sub _ _› ⟨by decide +kernel⟩) :
    Keeps μ σ (State.recoverYard s m) := by
  unfold State.recoverYard
  try dsimp only
  repeat' with_reducible first | assumption | refine setN_keeps ?_ | refine putYard_keeps ?_ | refine enumerate_keeps ?_ | refine alert_keeps ?_ | refine recoverFrom_keeps ?_ | refine keep_ite (P := Keeps μ σ) ?_ ?_ | refine OnOk.ok ?_ | exact OnOk.error | refine keep_ite (P := OnOk (Keeps μ σ)) ?_ ?_ | intro _ | split | dsimp only

theorem formatYard_keeps {μ : Nat} {σ : State} {s : State} {fails : List Nat} (hK : Keeps μ σ s)
    (hm : Sub 0x5600000042c082000e μ := by first | assumption | exact Sub.of ‹Sub _ _› ⟨by decide +kernel⟩) :
    Keeps μ σ (State.formatYard s fails) := by
  unfold State.formatYard
  try dsimp only
  repeat' with_reducible first | assumption | refine putYard_keeps ?_ | refine retireBolt_keeps ?_ | refine beginErase_keeps ?_ | refine endErase_keeps ?_ | refine modBolt_keeps ?_ | refine setN_keeps ?_ | refine drawn_keeps ?_ | refine openPair_keeps ?_ | refine beginCkpt_keeps ?_ | refine endCkpt_keeps ?_ | refine formatRecords_keeps ?_ | refine holdupRegs_keeps ?_ | refine keep_ite (P := Keeps μ σ) ?_ ?_ | refine keep_foldl (P := Keeps μ σ) ?_ ?_ | refine OnOk.ok ?_ | exact OnOk.error | refine keep_ite (P := OnOk (Keeps μ σ)) ?_ ?_ | intro _ | split | dsimp only

theorem powerLossFlush_keeps {μ : Nat} {σ : State} {s : State} (hK : Keeps μ σ s)
    (hm : Sub 0x200020000 μ := by first | assumption | exact Sub.of ‹Sub _ _› ⟨by decide +kernel⟩) :
    Keeps μ σ (State.powerLossFlush s) := by
  unfold State.powerLossFlush
  try dsimp only
  repeat' with_reducible first | assumption | refine putYard_keeps ?_ | refine flushWb_keeps ?_ | refine yrec_keeps ?_ | refine commitYard_keeps ?_ | refine keep_ite (P := Keeps μ σ) ?_ ?_ | refine OnOk.ok ?_ | exact OnOk.error | refine keep_ite (P := OnOk (Keeps μ σ)) ?_ ?_ | intro _ | split | dsimp only

end Sys2Proof.Laws
end

