-- ==== Sys2Proof/Laws/KeepYardRead.lean ====
section
/-! SUPPORT. What each operation of Machine/YardRead.lean changes: outside the zones of its mask it keeps everything, and it
keeps the invariant. -/
namespace Sys2Proof.Laws
open Sys2Proof.Machine
set_option Elab.async false
set_option linter.unreachableTactic false
set_option linter.unusedTactic false

theorem readFault_keeps {μ : Nat} {σ : State} {s : State} {i : Nat} (hK : Keeps μ σ s)
    (hm : Sub 0x4200000002c0020006 μ := by first | assumption | exact Sub.of ‹Sub _ _› ⟨by decide +kernel⟩) :
    Keeps μ σ (State.readFault s i) := by
  unfold State.readFault
  try dsimp only
  repeat' with_reducible first | assumption | refine bump_keeps ?_ | refine putBolt_keeps ?_ | refine relocateRetire_keeps ?_ | refine keep_ite (P := Keeps μ σ) ?_ ?_ | refine OnOk.ok ?_ | exact OnOk.error | refine keep_ite (P := OnOk (Keeps μ σ)) ?_ ?_ | intro _ | split | dsimp only

theorem readSector_keeps {μ : Nat} {σ : State} {s : State} {lbn : Nat} {k : Nat} {r : SectorRead} (hK : Keeps μ σ s)
    (hm : Sub 0x4200000002c0020006 μ := by first | assumption | exact Sub.of ‹Sub _ _› ⟨by decide +kernel⟩) :
    Keeps μ σ (State.readSector s lbn k r).2 := by
  unfold State.readSector
  try dsimp only
  repeat' with_reducible first | assumption | refine hwAdd_keeps ?_ | refine bump_keeps ?_ | refine readFault_keeps ?_ | refine keep_ite (P := Keeps μ σ) ?_ ?_ | refine OnOk.ok ?_ | exact OnOk.error | refine keep_ite (P := OnOk (Keeps μ σ)) ?_ ?_ | intro _ | split | dsimp only

theorem readRun_keeps {μ : Nat} {σ : State} {s : State} {base : Nat} {x0 : Nat} {x1 : Nat} {x2 : List SectorRead} (hK : Keeps μ σ s)
    (hm : Sub 0x4200000002c0020006 μ := by first | assumption | exact Sub.of ‹Sub _ _› ⟨by decide +kernel⟩) :
    Keeps μ σ (State.readRun s base x0 x1 x2).2 := by
  induction x0 generalizing s base x1 x2 with
  | zero =>
    unfold State.readRun
    try dsimp only
    repeat' with_reducible first | assumption | refine readSector_keeps ?_ | refine keep_of_snd ‹_› (readSector_keeps ?_) | refine keep_ite (P := Keeps μ σ) ?_ ?_ | refine OnOk.ok ?_ | exact OnOk.error | refine keep_ite (P := OnOk (Keeps μ σ)) ?_ ?_ | intro _ | split | dsimp only
  | succ n ih =>
    unfold State.readRun
    try dsimp only
    repeat' with_reducible first | assumption | refine ih ?_ | refine keep_of_snd ‹_› (ih ?_) | refine readSector_keeps ?_ | refine keep_of_snd ‹_› (readSector_keeps ?_) | refine keep_ite (P := Keeps μ σ) ?_ ?_ | refine OnOk.ok ?_ | exact OnOk.error | refine keep_ite (P := OnOk (Keeps μ σ)) ?_ ?_ | intro _ | split | dsimp only

theorem readShard_keeps {μ : Nat} {σ : State} {s : State} {d : Shard} {offset : Nat} {length : Nat} {reads : List SectorRead} (hK : Keeps μ σ s)
    (hm : Sub 0x4200000002c0020006 μ := by first | assumption | exact Sub.of ‹Sub _ _› ⟨by decide +kernel⟩) :
    Keeps μ σ (State.readShard s d offset length reads).2.2.2 := by
  unfold State.readShard
  try dsimp only
  repeat' with_reducible first | assumption | refine readRun_keeps ?_ | refine keep_of_snd ‹_› (readRun_keeps ?_) | refine keep_ite (P := Keeps μ σ) ?_ ?_ | refine OnOk.ok ?_ | exact OnOk.error | refine keep_ite (P := OnOk (Keeps μ σ)) ?_ ?_ | intro _ | split | dsimp only

theorem rewriteTags_keeps {μ : Nat} {σ : State} {s : State} {d : Shard} {l : List SectorGot} (hK : Keeps μ σ s)
    (hm : Sub 0x4000000000c0020006 μ := by first | assumption | exact Sub.of ‹Sub _ _› ⟨by decide +kernel⟩) :
    Keeps μ σ (State.rewriteTags s d l) := by
  unfold State.rewriteTags
  try dsimp only
  repeat' with_reducible first | assumption | refine bump_keeps ?_ | refine raise_keeps ?_ | refine logPath_keeps ?_ | refine yrec_keeps ?_ | refine keep_ite (P := Keeps μ σ) ?_ ?_ | refine keep_foldl (P := Keeps μ σ) ?_ ?_ | refine OnOk.ok ?_ | exact OnOk.error | refine keep_ite (P := OnOk (Keeps μ σ)) ?_ ?_ | intro _ | split | dsimp only

theorem sampleLost_keeps {μ : Nat} {σ : State} {s : State} {shard : Nat} {offset : Nat} (hK : Keeps μ σ s)
    (hm : Sub 0x1000000004000000000c0200006 μ := by first | assumption | exact Sub.of ‹Sub _ _› ⟨by decide +kernel⟩) :
    Keeps μ σ (State.sampleLost s shard offset) := by
  unfold State.sampleLost
  try dsimp only
  repeat' with_reducible first | assumption | refine bump_keeps ?_ | refine raise_keeps ?_ | refine setN_keeps ?_ | refine emit_keeps ?_ | refine keep_ite (P := Keeps μ σ) ?_ ?_ | refine OnOk.ok ?_ | exact OnOk.error | refine keep_ite (P := OnOk (Keeps μ σ)) ?_ ?_ | intro _ | split | dsimp only

theorem dataFault_keeps {μ : Nat} {σ : State} {s : State} {d : Shard} {offset : Nat} {length : Nat} {serve : Bool} (hK : Keeps μ σ s)
    (hm : Sub 0x1000000004000000000c0220006 μ := by first | assumption | exact Sub.of ‹Sub _ _› ⟨by decide +kernel⟩) :
    Keeps μ σ (State.dataFault s d offset length serve) := by
  unfold State.dataFault
  try dsimp only
  repeat' with_reducible first | assumption | refine bump_keeps ?_ | refine sampleLost_keeps ?_ | refine putYard_keeps ?_ | refine emit_keeps ?_ | refine keep_ite (P := Keeps μ σ) ?_ ?_ | refine OnOk.ok ?_ | exact OnOk.error | refine keep_ite (P := OnOk (Keeps μ σ)) ?_ ?_ | intro _ | split | dsimp only

theorem nandReadDone_keeps {μ : Nat} {σ : State} {s : State} {shard : Nat} {offset : Nat} {length : Nat} {reads : List SectorRead} (hK : Keeps μ σ s)
    (hm : Sub 0x1000000004200000002c0620006 μ := by first | assumption | exact Sub.of ‹Sub _ _› ⟨by decide +kernel⟩) :
    Keeps μ σ (State.nandReadDone s shard offset length reads) := by
  unfold State.nandReadDone
  try dsimp only
  repeat' with_reducible first | assumption | refine ends_keeps ?_ | refine putYard_keeps ?_ | refine readShard_keeps ?_ | refine keep_of_snd3 ‹_› (readShard_keeps ?_) | refine emit_keeps ?_ | refine rewriteTags_keeps ?_ | refine dataFault_keeps ?_ | refine keep_ite (P := Keeps μ σ) ?_ ?_ | refine OnOk.ok ?_ | exact OnOk.error | refine keep_ite (P := OnOk (Keeps μ σ)) ?_ ?_ | intro _ | split | dsimp only

theorem partnerRead_keeps {μ : Nat} {σ : State} {s : State} {device : Nat} {shard : Nat} {offset : Nat} {length : Nat} {reads : List SectorRead} (hK : Keeps μ σ s)
    (hm : Sub 0x4200000002c0620006 μ := by first | assumption | exact Sub.of ‹Sub _ _› ⟨by decide +kernel⟩) :
    Keeps μ σ (State.partnerRead s device shard offset length reads) := by
  unfold State.partnerRead
  try dsimp only
  repeat' with_reducible first | assumption | refine ends_keeps ?_ | refine emit_keeps ?_ | refine readShard_keeps ?_ | refine keep_of_snd3 ‹_› (readShard_keeps ?_) | refine rewriteTags_keeps ?_ | refine bump_keeps ?_ | refine keep_ite (P := Keeps μ σ) ?_ ?_ | refine OnOk.ok ?_ | exact OnOk.error | refine keep_ite (P := OnOk (Keeps μ σ)) ?_ ?_ | intro _ | split | dsimp only

theorem repair_keeps {μ : Nat} {σ : State} {s : State} {d : Shard} {off : Nat} {bytes : Bytes} (hK : Keeps μ σ s)
    (hm : Sub 0x20000 μ := by first | assumption | exact Sub.of ‹Sub _ _› ⟨by decide +kernel⟩) :
    Keeps μ σ (State.repair s d off bytes) := by
  unfold State.repair
  try dsimp only
  repeat' with_reducible first | assumption | refine logPath_keeps ?_ | refine keep_ite (P := Keeps μ σ) ?_ ?_ | refine keep_foldl (P := Keeps μ σ) ?_ ?_ | refine OnOk.ok ?_ | exact OnOk.error | refine keep_ite (P := OnOk (Keeps μ σ)) ?_ ?_ | intro _ | split | dsimp only

theorem partnerReply_keeps {μ : Nat} {σ : State} {s : State} {shard : Nat} {offset : Nat} {length : Nat} {bytes : Option Bytes} (hK : Keeps μ σ s)
    (hm : Sub 0x1000000004000000000c0620006 μ := by first | assumption | exact Sub.of ‹Sub _ _› ⟨by decide +kernel⟩) :
    Keeps μ σ (State.partnerReply s shard offset length bytes) := by
  unfold State.partnerReply
  try dsimp only
  repeat' with_reducible first | assumption | refine putYard_keeps ?_ | refine ends_keeps ?_ | refine sampleLost_keeps ?_ | refine repair_keeps ?_ | refine yrec_keeps ?_ | refine bump_keeps ?_ | refine setN_keeps ?_ | refine emit_keeps ?_ | refine keep_ite (P := Keeps μ σ) ?_ ?_ | refine keep_foldl (P := Keeps μ σ) ?_ ?_ | refine OnOk.ok ?_ | exact OnOk.error | refine keep_ite (P := OnOk (Keeps μ σ)) ?_ ?_ | intro _ | split | dsimp only

theorem serveSector_keeps {μ : Nat} {σ : State} {s : State} {v : VolumeRef} {lbn : Nat} {k : Nat} {r : SectorRead} (hK : Keeps μ σ s)
    (hm : Sub 0x4200000002c0620006 μ := by first | assumption | exact Sub.of ‹Sub _ _› ⟨by decide +kernel⟩) :
    Keeps μ σ (State.serveSector s v lbn k r) := by
  unfold State.serveSector
  try dsimp only
  repeat' with_reducible first | assumption | refine readSector_keeps ?_ | refine keep_of_snd ‹_› (readSector_keeps ?_) | refine ends_keeps ?_ | refine emit_keeps ?_ | refine keep_ite (P := Keeps μ σ) ?_ ?_ | refine OnOk.ok ?_ | exact OnOk.error | refine keep_ite (P := OnOk (Keeps μ σ)) ?_ ?_ | intro _ | split | dsimp only

theorem yardRead_keeps {μ : Nat} {σ : State} {s : State} {v : VolumeRef} {k : Nat} {r : SectorRead} (hK : Keeps μ σ s)
    (hm : Sub 0x4200000002c0620006 μ := by first | assumption | exact Sub.of ‹Sub _ _› ⟨by decide +kernel⟩) :
    Keeps μ σ (State.yardRead s v k r) := by
  unfold State.yardRead
  try dsimp only
  repeat' with_reducible first | assumption | refine refuse_keeps ?_ | refine serveSector_keeps ?_ | refine putYard_keeps ?_ | refine keep_ite (P := Keeps μ σ) ?_ ?_ | refine OnOk.ok ?_ | exact OnOk.error | refine keep_ite (P := OnOk (Keeps μ σ)) ?_ ?_ | intro _ | split | dsimp only

theorem serveWaiting_keeps {μ : Nat} {σ : State} {s : State} {l : List (VolumeRef × Nat × SectorRead)} (hK : Keeps μ σ s)
    (hm : Sub 0x4200000002c0620006 μ := by first | assumption | exact Sub.of ‹Sub _ _› ⟨by decide +kernel⟩) :
    Keeps μ σ (State.serveWaiting s l) := by
  unfold State.serveWaiting
  try dsimp only
  repeat' with_reducible first | assumption | refine serveSector_keeps ?_ | refine keep_ite (P := Keeps μ σ) ?_ ?_ | refine keep_foldl (P := Keeps μ σ) ?_ ?_ | refine OnOk.ok ?_ | exact OnOk.error | refine keep_ite (P := OnOk (Keeps μ σ)) ?_ ?_ | intro _ | split | dsimp only

theorem writeSector_keeps {μ : Nat} {σ : State} {s : State} {v : VolumeRef} {k : Nat} {data : Bytes} {tuple : PiTuple} (hK : Keeps μ σ s)
    (hm : Sub 0x20000 μ := by first | assumption | exact Sub.of ‹Sub _ _› ⟨by decide +kernel⟩) :
    OnOk (Keeps μ σ) (State.writeSector s v k data tuple) := by
  unfold State.writeSector
  try dsimp only
  repeat' with_reducible first | assumption | refine accept1_keeps ?_ | refine keep_of_some ‹_› (accept1_keeps ?_) | refine OnNext.next ?_ | refine OnOk.ok ?_ | exact OnOk.error | refine OnSome.some ?_ | exact OnSome.none | refine OnSomeOf.some ?_ | exact OnSomeOf.none | refine OnOkOf.ok ?_ | exact OnOkOf.error | refine act_keeps ?_ ?_ | refine live_keeps ?_ ?_ | refine keep_ite (P := OnOk (Keeps μ σ)) ?_ ?_ | refine keep_ite (P := Keeps μ σ) ?_ ?_ | intro _ | split | dsimp only | refine keep_of_ok ‹_› ?_

theorem yardWrite_keeps {μ : Nat} {σ : State} {s : State} {v : VolumeRef} {k : Nat} {data : Bytes} {tuple : PiTuple} (hK : Keeps μ σ s)
    (hm : Sub 0xc0420006 μ := by first | assumption | exact Sub.of ‹Sub _ _› ⟨by decide +kernel⟩) :
    Keeps μ σ (State.yardWrite s v k data tuple) := by
  unfold State.yardWrite
  try dsimp only
  repeat' with_reducible first | assumption | refine refuse_keeps ?_ | refine writeSector_keeps ?_ | refine keep_of_ok ‹_› (writeSector_keeps ?_) | refine ends_keeps ?_ | refine keep_ite (P := Keeps μ σ) ?_ ?_ | refine OnOk.ok ?_ | exact OnOk.error | refine keep_ite (P := OnOk (Keeps μ σ)) ?_ ?_ | intro _ | split | dsimp only | refine keep_of_ok ‹_› ?_

theorem appendStored_keeps {μ : Nat} {σ : State} {s : State} {d : Shard} {bytes : Bytes} (hK : Keeps μ σ s)
    (hm : Sub 0x20000 μ := by first | assumption | exact Sub.of ‹Sub _ _› ⟨by decide +kernel⟩) :
    OnOkOf (fun x => Keeps μ σ x.2) (State.appendStored s d bytes) := by
  unfold State.appendStored
  try dsimp only
  repeat' with_reducible first | assumption | refine writeSector_keeps ?_ | refine keep_of_ok ‹_› (writeSector_keeps ?_) | refine OnNext.next ?_ | refine OnOk.ok ?_ | exact OnOk.error | refine OnSome.some ?_ | exact OnSome.none | refine OnSomeOf.some ?_ | exact OnSomeOf.none | refine OnOkOf.ok ?_ | exact OnOkOf.error | refine act_keeps ?_ ?_ | refine live_keeps ?_ ?_ | refine keep_ite (P := OnOkOf (fun x => Keeps μ σ x.2)) ?_ ?_ | refine keep_ite (P := Keeps μ σ) ?_ ?_ | refine keep_foldl (P := Keeps μ σ) ?_ ?_ | refine keep_of_ok ‹_› (keep_foldl (P := OnOk (Keeps μ σ)) (OnOk.ok ?_) ?_) | exact keep_of_ok rfl ‹OnOk _ _› | refine keep_ite (P := OnOk (Keeps μ σ)) ?_ ?_ | intro _ | split | dsimp only | refine keep_of_ok ‹_› ?_

theorem flushTail_keeps {μ : Nat} {σ : State} {s : State} {d : Shard} (hK : Keeps μ σ s)
    (hm : Sub 0x20000 μ := by first | assumption | exact Sub.of ‹Sub _ _› ⟨by decide +kernel⟩) :
    Keeps μ σ (State.flushTail s d).2 := by
  unfold State.flushTail
  try dsimp only
  repeat' with_reducible first | assumption | refine writeSector_keeps ?_ | refine keep_of_ok ‹_› (writeSector_keeps ?_) | refine keep_ite (P := Keeps μ σ) ?_ ?_ | refine OnOk.ok ?_ | exact OnOk.error | refine keep_ite (P := OnOk (Keeps μ σ)) ?_ ?_ | intro _ | split | dsimp only | refine keep_of_ok ‹_› ?_

theorem noteShard_keeps {μ : Nat} {σ : State} {s : State} {d : Shard} (hK : Keeps μ σ s)
    (hm : Sub 0x800000000000020000 μ := by first | assumption | exact Sub.of ‹Sub _ _› ⟨by decide +kernel⟩) :
    Keeps μ σ (State.noteShard s d) := by
  unfold State.noteShard
  try dsimp only
  repeat' with_reducible first | assumption | refine putShard_keeps ?_ | refine yrec_keeps ?_ | refine keep_ite (P := Keeps μ σ) ?_ ?_ | refine OnOk.ok ?_ | exact OnOk.error | refine keep_ite (P := OnOk (Keeps μ σ)) ?_ ?_ | intro _ | split | dsimp only

theorem createShard_keeps {μ : Nat} {σ : State} {s : State} {id : Nat} {own : Bool} {compressed : Bool} {owner : Nat} {partner : Nat} {ctx : Option Nat} (hK : Keeps μ σ s)
    (hm : Sub 0x800000000000020000 μ := by first | assumption | exact Sub.of ‹Sub _ _› ⟨by decide +kernel⟩) :
    OnOk (Keeps μ σ) (State.createShard s id own compressed owner partner ctx) := by
  unfold State.createShard
  try dsimp only
  repeat' with_reducible first | assumption | refine putShard_keeps ?_ | refine yrec_keeps ?_ | refine OnNext.next ?_ | refine OnOk.ok ?_ | exact OnOk.error | refine OnSome.some ?_ | exact OnSome.none | refine OnSomeOf.some ?_ | exact OnSomeOf.none | refine OnOkOf.ok ?_ | exact OnOkOf.error | refine act_keeps ?_ ?_ | refine live_keeps ?_ ?_ | refine keep_ite (P := OnOk (Keeps μ σ)) ?_ ?_ | refine keep_ite (P := Keeps μ σ) ?_ ?_ | intro _ | split | dsimp only | refine keep_of_ok ‹_› ?_

theorem ownerAppend_keeps {μ : Nat} {σ : State} {s : State} {d : Shard} {content : Bytes} (hK : Keeps μ σ s)
    (hm : Sub 0x800000000000220000 μ := by first | assumption | exact Sub.of ‹Sub _ _› ⟨by decide +kernel⟩) :
    OnOk (Keeps μ σ) (State.ownerAppend s d content) := by
  unfold State.ownerAppend
  try dsimp only
  repeat' with_reducible first | assumption | refine appendStored_keeps ?_ | refine keep_of_ok_12 ‹_› (appendStored_keeps ?_) | refine noteShard_keeps ?_ | refine emit_keeps ?_ | refine OnNext.next ?_ | refine OnOk.ok ?_ | exact OnOk.error | refine OnSome.some ?_ | exact OnSome.none | refine OnSomeOf.some ?_ | exact OnSomeOf.none | refine OnOkOf.ok ?_ | exact OnOkOf.error | refine act_keeps ?_ ?_ | refine live_keeps ?_ ?_ | refine keep_ite (P := OnOk (Keeps μ σ)) ?_ ?_ | refine keep_ite (P := Keeps μ σ) ?_ ?_ | intro _ | split | dsimp only | refine keep_of_ok ‹_› ?_

theorem setSingle_keeps {μ : Nat} {σ : State} {s : State} {d : Shard} (hK : Keeps μ σ s)
    (hm : Sub 0x8000000000c0020006 μ := by first | assumption | exact Sub.of ‹Sub _ _› ⟨by decide +kernel⟩) :
    Keeps μ σ (State.setSingle s d) := by
  unfold State.setSingle
  try dsimp only
  repeat' with_reducible first | assumption | refine noteShard_keeps ?_ | refine raise_keeps ?_ | refine keep_ite (P := Keeps μ σ) ?_ ?_ | refine OnOk.ok ?_ | exact OnOk.error | refine keep_ite (P := OnOk (Keeps μ σ)) ?_ ?_ | intro _ | split | dsimp only

theorem sealShard_keeps {μ : Nat} {σ : State} {s : State} {d : Shard} (hK : Keeps μ σ s)
    (hm : Sub 0x8000000000c0220006 μ := by first | assumption | exact Sub.of ‹Sub _ _› ⟨by decide +kernel⟩) :
    OnOk (Keeps μ σ) (State.sealShard s d) := by
  unfold State.sealShard
  try dsimp only
  repeat' with_reducible first | assumption | refine appendStored_keeps ?_ | refine keep_of_ok_12 ‹_› (appendStored_keeps ?_) | refine emit_keeps ?_ | refine flushTail_keeps ?_ | refine keep_of_snd ‹_› (flushTail_keeps ?_) | refine noteShard_keeps ?_ | refine putYard_keeps ?_ | refine setSingle_keeps ?_ | refine OnNext.next ?_ | refine OnOk.ok ?_ | exact OnOk.error | refine OnSome.some ?_ | exact OnSome.none | refine OnSomeOf.some ?_ | exact OnSomeOf.none | refine OnOkOf.ok ?_ | exact OnOkOf.error | refine act_keeps ?_ ?_ | refine live_keeps ?_ ?_ | refine keep_ite (P := OnOk (Keeps μ σ)) ?_ ?_ | refine keep_ite (P := Keeps μ σ) ?_ ?_ | refine keep_of_ok_12 ‹_› (keep_ite (P := OnOkOf fun (x : Shard × State) => Keeps μ σ x.2) (appendStored_keeps ?_) (OnOkOf.ok ?_)) | intro _ | split | dsimp only | refine keep_of_ok ‹_› ?_

theorem partnerAppend_keeps {μ : Nat} {σ : State} {s : State} {owner : Nat} {id : Nat} {offset : Nat} {compressed : Bool} {bytes : Bytes} (hK : Keeps μ σ s)
    (hm : Sub 0x8000000000c0620006 μ := by first | assumption | exact Sub.of ‹Sub _ _› ⟨by decide +kernel⟩) :
    Keeps μ σ (State.partnerAppend s owner id offset compressed bytes) := by
  unfold State.partnerAppend
  try dsimp only
  repeat' with_reducible first | assumption | refine ends_keeps ?_ | refine emit_keeps ?_ | refine refuse_keeps ?_ | refine createShard_keeps ?_ | refine keep_of_ok ‹_› (createShard_keeps ?_) | refine discardRange_keeps ?_ | refine noteShard_keeps ?_ | refine appendStored_keeps ?_ | refine keep_of_ok_12 ‹_› (appendStored_keeps ?_) | refine keep_ite (P := Keeps μ σ) ?_ ?_ | refine OnOk.ok ?_ | exact OnOk.error | refine keep_ite (P := OnOk (Keeps μ σ)) ?_ ?_ | intro _ | split | dsimp only | refine keep_of_ok ‹_› ?_

theorem partnerSeal_keeps {μ : Nat} {σ : State} {s : State} {owner : Nat} {id : Nat} {bytes : Nat} {digest : Bytes} (hK : Keeps μ σ s)
    (hm : Sub 0x8000000000c0620006 μ := by first | assumption | exact Sub.of ‹Sub _ _› ⟨by decide +kernel⟩) :
    Keeps μ σ (State.partnerSeal s owner id bytes digest) := by
  unfold State.partnerSeal
  try dsimp only
  repeat' with_reducible first | assumption | refine refuse_keeps ?_ | refine emit_keeps ?_ | refine flushTail_keeps ?_ | refine keep_of_snd ‹_› (flushTail_keeps ?_) | refine noteShard_keeps ?_ | refine commitYard_keeps ?_ | refine ends_keeps ?_ | refine putShard_keeps ?_ | refine keep_ite (P := Keeps μ σ) ?_ ?_ | refine OnOk.ok ?_ | exact OnOk.error | refine keep_ite (P := OnOk (Keeps μ σ)) ?_ ?_ | intro _ | split | dsimp only

theorem resendCopy_keeps {μ : Nat} {σ : State} {s : State} {d : Shard} {p : Nat} (hK : Keeps μ σ s)
    (hm : Sub 0x200000 μ := by first | assumption | exact Sub.of ‹Sub _ _› ⟨by decide +kernel⟩) :
    Keeps μ σ (State.resendCopy s d p) := by
  unfold State.resendCopy
  try dsimp only
  repeat' with_reducible first | assumption | refine emit_keeps ?_ | refine keep_ite (P := Keeps μ σ) ?_ ?_ | refine OnOk.ok ?_ | exact OnOk.error | refine keep_ite (P := OnOk (Keeps μ σ)) ?_ ?_ | intro _ | split | dsimp only

theorem sealAnswer_keeps {μ : Nat} {σ : State} {s : State} {device : Nat} {id : Nat} {ok : Bool} (hK : Keeps μ σ s)
    (hm : Sub 0x800000000000620000 μ := by first | assumption | exact Sub.of ‹Sub _ _› ⟨by decide +kernel⟩) :
    Keeps μ σ (State.sealAnswer s device id ok) := by
  unfold State.sealAnswer
  try dsimp only
  repeat' with_reducible first | assumption | refine ends_keeps ?_ | refine putYard_keeps ?_ | refine noteShard_keeps ?_ | refine resendCopy_keeps ?_ | refine keep_ite (P := Keeps μ σ) ?_ ?_ | refine OnOk.ok ?_ | exact OnOk.error | refine keep_ite (P := OnOk (Keeps μ σ)) ?_ ?_ | intro _ | split | dsimp only

theorem partnerTimeout_keeps {μ : Nat} {σ : State} {s : State} {id : Nat} {refusing : List Nat} (hK : Keeps μ σ s)
    (hm : Sub 0x8000000000c0620006 μ := by first | assumption | exact Sub.of ‹Sub _ _› ⟨by decide +kernel⟩) :
    Keeps μ σ (State.partnerTimeout s id refusing) := by
  unfold State.partnerTimeout
  try dsimp only
  repeat' with_reducible first | assumption | refine setSingle_keeps ?_ | refine putYard_keeps ?_ | refine ends_keeps ?_ | refine noteShard_keeps ?_ | refine resendCopy_keeps ?_ | refine keep_ite (P := Keeps μ σ) ?_ ?_ | refine OnOk.ok ?_ | exact OnOk.error | refine keep_ite (P := OnOk (Keeps μ σ)) ?_ ?_ | intro _ | split | dsimp only

theorem removeShard_keeps {μ : Nat} {σ : State} {s : State} {d : Shard} (hK : Keeps μ σ s)
    (hm : Sub 0x20000 μ := by first | assumption | exact Sub.of ‹Sub _ _› ⟨by decide +kernel⟩) :
    Keeps μ σ (State.removeShard s d) := by
  unfold State.removeShard
  try dsimp only
  repeat' with_reducible first | assumption | refine discardRange_keeps ?_ | refine putYard_keeps ?_ | refine yrec_keeps ?_ | refine keep_ite (P := Keeps μ σ) ?_ ?_ | refine OnOk.ok ?_ | exact OnOk.error | refine keep_ite (P := OnOk (Keeps μ σ)) ?_ ?_ | intro _ | split | dsimp only

theorem deleteShard_keeps {μ : Nat} {σ : State} {s : State} {d : Shard} (hK : Keeps μ σ s)
    (hm : Sub 0x220000 μ := by first | assumption | exact Sub.of ‹Sub _ _› ⟨by decide +kernel⟩) :
    Keeps μ σ (State.deleteShard s d) := by
  unfold State.deleteShard
  try dsimp only
  repeat' with_reducible first | assumption | refine removeShard_keeps ?_ | refine emit_keeps ?_ | refine keep_ite (P := Keeps μ σ) ?_ ?_ | refine OnOk.ok ?_ | exact OnOk.error | refine keep_ite (P := OnOk (Keeps μ σ)) ?_ ?_ | intro _ | split | dsimp only

theorem cruiseSector_keeps {μ : Nat} {σ : State} {s : State} {i : Nat} {x : StoredSector} {r : SectorRead} (hK : Keeps μ σ s)
    (hm : Sub 0x4200000002c0020006 μ := by first | assumption | exact Sub.of ‹Sub _ _› ⟨by decide +kernel⟩) :
    Keeps μ σ (State.cruiseSector s i x r) := by
  unfold State.cruiseSector
  try dsimp only
  repeat' with_reducible first | assumption | refine modBolt_keeps ?_ | refine hwAdd_keeps ?_ | refine bump_keeps ?_ | refine readFault_keeps ?_ | refine putYard_keeps ?_ | refine logOccurrence_keeps ?_ | refine keep_ite (P := Keeps μ σ) ?_ ?_ | refine OnOk.ok ?_ | exact OnOk.error | refine keep_ite (P := OnOk (Keeps μ σ)) ?_ ?_ | intro _ | split | dsimp only

theorem cruiseSectors_keeps {μ : Nat} {σ : State} {s : State} {i : Nat} {x0 : List StoredSector} {x1 : List SectorRead} (hK : Keeps μ σ s)
    (hm : Sub 0x4200000002c0020006 μ := by first | assumption | exact Sub.of ‹Sub _ _› ⟨by decide +kernel⟩) :
    Keeps μ σ (State.cruiseSectors s i x0 x1) := by
  induction x0 generalizing s i x1 with
  | nil =>
    unfold State.cruiseSectors
    try dsimp only
    repeat' with_reducible first | assumption | refine cruiseSector_keeps ?_ | refine keep_ite (P := Keeps μ σ) ?_ ?_ | refine OnOk.ok ?_ | exact OnOk.error | refine keep_ite (P := OnOk (Keeps μ σ)) ?_ ?_ | intro _ | split | dsimp only
  | cons a l ih =>
    unfold State.cruiseSectors
    try dsimp only
    repeat' with_reducible first | assumption | refine ih ?_ | refine cruiseSector_keeps ?_ | refine keep_ite (P := Keeps μ σ) ?_ ?_ | refine OnOk.ok ?_ | exact OnOk.error | refine keep_ite (P := OnOk (Keeps μ σ)) ?_ ?_ | intro _ | split | dsimp only

theorem cruiseNext_keeps {μ : Nat} {σ : State} {s : State} {i : Nat} (hK : Keeps μ σ s)
    (hm : Sub 0x200000000000020000 μ := by first | assumption | exact Sub.of ‹Sub _ _› ⟨by decide +kernel⟩) :
    Keeps μ σ (State.cruiseNext s i) := by
  unfold State.cruiseNext
  try dsimp only
  repeat' with_reducible first | assumption | refine putYard_keeps ?_ | refine setN_keeps ?_ | refine bump_keeps ?_ | refine keep_ite (P := Keeps μ σ) ?_ ?_ | refine OnOk.ok ?_ | exact OnOk.error | refine keep_ite (P := OnOk (Keeps μ σ)) ?_ ?_ | intro _ | split | dsimp only

theorem cruiseRead_keeps {μ : Nat} {σ : State} {s : State} {reads : List SectorRead} {blazeGood : Bool} (hK : Keeps μ σ s)
    (hm : Sub 0x6200000002c0020006 μ := by first | assumption | exact Sub.of ‹Sub _ _› ⟨by decide +kernel⟩) :
    Keeps μ σ (State.cruiseRead s reads blazeGood) := by
  unfold State.cruiseRead
  try dsimp only
  repeat' with_reducible first | assumption | refine setN_keeps ?_ | refine modBolt_keeps ?_ | refine cruiseNext_keeps ?_ | refine cruiseSectors_keeps ?_ | refine putYard_keeps ?_ | refine keep_ite (P := Keeps μ σ) ?_ ?_ | refine OnOk.ok ?_ | exact OnOk.error | refine keep_ite (P := OnOk (Keeps μ σ)) ?_ ?_ | intro _ | split | dsimp only

theorem cruiseRate_keeps {μ : Nat} {σ : State} {s : State} (hK : Keeps μ σ s)
    (hm : Sub 0x2000000000c0000006 μ := by first | assumption | exact Sub.of ‹Sub _ _› ⟨by decide +kernel⟩) :
    Keeps μ σ (State.cruiseRate s) := by
  unfold State.cruiseRate
  try dsimp only
  repeat' with_reducible first | assumption | refine setN_keeps ?_ | refine raise_keeps ?_ | refine keep_ite (P := Keeps μ σ) ?_ ?_ | refine OnOk.ok ?_ | exact OnOk.error | refine keep_ite (P := OnOk (Keeps μ σ)) ?_ ?_ | intro _ | split | dsimp only

theorem lunFail_keeps {μ : Nat} {σ : State} {s : State} {channel : Nat} {lun : Nat} (hK : Keeps μ σ s)
    (hm : Sub 0x1000000004600000002c0220006 μ := by first | assumption | exact Sub.of ‹Sub _ _› ⟨by decide +kernel⟩) :
    Keeps μ σ (State.lunFail s channel lun) := by
  unfold State.lunFail
  try dsimp only
  repeat' with_reducible first | assumption | refine putYard_keeps ?_ | refine retireBolt_keeps ?_ | refine setN_keeps ?_ | refine bump_keeps ?_ | refine raise_keeps ?_ | refine dataFault_keeps ?_ | refine keep_ite (P := Keeps μ σ) ?_ ?_ | refine keep_foldl (P := Keeps μ σ) ?_ ?_ | refine OnOk.ok ?_ | exact OnOk.error | refine keep_ite (P := OnOk (Keeps μ σ)) ?_ ?_ | intro _ | split | dsimp only

theorem yardCommand_keeps {μ : Nat} {σ : State} {s : State} {v : Nat} {fails : List Nat} (hK : Keeps μ σ s)
    (hm : Sub 0xfe00000042c082000e μ := by first | assumption | exact Sub.of ‹Sub _ _› ⟨by decide +kernel⟩) :
    OnOk (Keeps μ σ) (State.yardCommand s v fails) := by
  unfold State.yardCommand
  try dsimp only
  repeat' with_reducible first | assumption | refine formatYard_keeps ?_ | refine yardRegs_keeps ?_ | refine beginCkpt_keeps ?_ | refine setN_keeps ?_ | refine putYard_keeps ?_ | refine OnNext.next ?_ | refine OnOk.ok ?_ | exact OnOk.error | refine OnSome.some ?_ | exact OnSome.none | refine OnSomeOf.some ?_ | exact OnSomeOf.none | refine OnOkOf.ok ?_ | exact OnOkOf.error | refine act_keeps ?_ ?_ | refine live_keeps ?_ ?_ | refine keep_ite (P := OnOk (Keeps μ σ)) ?_ ?_ | refine keep_ite (P := Keeps μ σ) ?_ ?_ | intro _ | split | dsimp only | refine keep_of_ok ‹_› ?_

theorem writeYardCommand_keeps {μ : Nat} {σ : State} {s : State} {via : Via} {v : Nat} {fails : List Nat} (hK : Keeps μ σ s)
    (hm : Sub 0x20000000001fe00000062e0e2001e μ := by first | assumption | exact Sub.of ‹Sub _ _› ⟨by decide +kernel⟩) :
    Keeps μ σ (State.writeYardCommand s via v fails) := by
  unfold State.writeYardCommand
  try dsimp only
  repeat' with_reducible first | assumption | refine writeVia_keeps ?_ ?_ | refine yardCommand_keeps ?_ | refine keep_of_ok ‹_› (yardCommand_keeps ?_) | refine store_keeps ?_ | refine keep_ite (P := Keeps μ σ) ?_ ?_ | refine OnOk.ok ?_ | exact OnOk.error | refine keep_ite (P := OnOk (Keeps μ σ)) ?_ ?_ | intro _ | split | dsimp only | refine keep_of_ok ‹_› ?_

end Sys2Proof.Laws
end

