-- ==== Sys2Proof/Laws/KeepGrade.lean ====
section
/-! SUPPORT. What each operation of Machine/Grade.lean changes: outside the zones of its mask it keeps everything, and it
keeps the invariant. -/
namespace Sys2Proof.Laws
open Sys2Proof.Machine
set_option Elab.async false
set_option linter.unreachableTactic false
set_option linter.unusedTactic false

theorem gradeStart_keeps {μ : Nat} {σ : State} {s : State} (hK : Keeps μ σ s)
    (hm : Sub 0x100000000000000000000008000 μ := by first | assumption | exact Sub.of ‹Sub _ _› ⟨by decide +kernel⟩) :
    OnOk (Keeps μ σ) (State.gradeStart s) := by
  unfold State.gradeStart
  try dsimp only
  repeat' with_reducible first | assumption | refine setN_keeps ?_ | refine setB_keeps ?_ | refine OnNext.next ?_ | refine OnOk.ok ?_ | exact OnOk.error | refine OnSome.some ?_ | exact OnSome.none | refine OnSomeOf.some ?_ | exact OnSomeOf.none | refine OnOkOf.ok ?_ | exact OnOkOf.error | refine act_keeps ?_ ?_ | refine live_keeps ?_ ?_ | refine keep_ite (P := OnOk (Keeps μ σ)) ?_ ?_ | refine keep_ite (P := Keeps μ σ) ?_ ?_ | (refine Keeps.lit (M := 0x100000000000000000000008000) ?_; first | assumption | refine setN_keeps ?_ | refine setB_keeps ?_ | refine keep_ite (P := Keeps μ σ) ?_ ?_) | intro _ | split | dsimp only | refine keep_of_ok ‹_› ?_

theorem gradeAbort_keeps {μ : Nat} {σ : State} {s : State} (hK : Keeps μ σ s)
    (hm : Sub 0x100000000000000000000008000 μ := by first | assumption | exact Sub.of ‹Sub _ _› ⟨by decide +kernel⟩) :
    OnOk (Keeps μ σ) (State.gradeAbort s) := by
  unfold State.gradeAbort
  try dsimp only
  repeat' with_reducible first | assumption | refine setN_keeps ?_ | refine OnNext.next ?_ | refine OnOk.ok ?_ | exact OnOk.error | refine OnSome.some ?_ | exact OnSome.none | refine OnSomeOf.some ?_ | exact OnSomeOf.none | refine OnOkOf.ok ?_ | exact OnOkOf.error | refine act_keeps ?_ ?_ | refine live_keeps ?_ ?_ | refine keep_ite (P := OnOk (Keeps μ σ)) ?_ ?_ | refine keep_ite (P := Keeps μ σ) ?_ ?_ | (refine Keeps.lit (M := 0x100000000000000000000008000) ?_; first | assumption | refine setN_keeps ?_ | refine keep_ite (P := Keeps μ σ) ?_ ?_) | intro _ | split | dsimp only | refine keep_of_ok ‹_› ?_

theorem gradeControl_keeps {μ : Nat} {σ : State} {s : State} {v : Nat} (hK : Keeps μ σ s)
    (hm : Sub 0x100000000000000000000008000 μ := by first | assumption | exact Sub.of ‹Sub _ _› ⟨by decide +kernel⟩) :
    OnOk (Keeps μ σ) (State.gradeControl s v) := by
  unfold State.gradeControl
  try dsimp only
  repeat' with_reducible first | assumption | refine gradeStart_keeps ?_ | refine keep_of_ok ‹_› (gradeStart_keeps ?_) | refine gradeAbort_keeps ?_ | refine keep_of_ok ‹_› (gradeAbort_keeps ?_) | refine OnNext.next ?_ | refine OnOk.ok ?_ | exact OnOk.error | refine OnSome.some ?_ | exact OnSome.none | refine OnSomeOf.some ?_ | exact OnSomeOf.none | refine OnOkOf.ok ?_ | exact OnOkOf.error | refine act_keeps ?_ ?_ | refine live_keeps ?_ ?_ | refine keep_ite (P := OnOk (Keeps μ σ)) ?_ ?_ | refine keep_ite (P := Keeps μ σ) ?_ ?_ | intro _ | split | dsimp only | refine keep_of_ok ‹_› ?_

theorem execGradeStart_keeps {μ : Nat} {σ : State} {via : Via} {s : State} (hK : Keeps μ σ s)
    (hm : Sub 0x201000000000000000020e060801e μ := by first | assumption | exact Sub.of ‹Sub _ _› ⟨by decide +kernel⟩) :
    OnNext (Keeps μ σ) (execGradeStart via s) := by
  unfold execGradeStart
  try dsimp only
  repeat' with_reducible first | assumption | refine writeVia_keeps ?_ ?_ | refine gradeControl_keeps ?_ | refine keep_of_ok ‹_› (gradeControl_keeps ?_) | refine store_keeps ?_ | refine OnNext.next ?_ | refine OnOk.ok ?_ | exact OnOk.error | refine OnSome.some ?_ | exact OnSome.none | refine OnSomeOf.some ?_ | exact OnSomeOf.none | refine OnOkOf.ok ?_ | exact OnOkOf.error | refine act_keeps ?_ ?_ | refine live_keeps ?_ ?_ | refine keep_ite (P := OnNext (Keeps μ σ)) ?_ ?_ | refine keep_ite (P := Keeps μ σ) ?_ ?_ | refine keep_ite (P := OnOk (Keeps μ σ)) ?_ ?_ | intro _ | split | dsimp only | refine keep_of_ok ‹_› ?_

theorem execGradeAbort_keeps {μ : Nat} {σ : State} {via : Via} {s : State} (hK : Keeps μ σ s)
    (hm : Sub 0x201000000000000000020e060801e μ := by first | assumption | exact Sub.of ‹Sub _ _› ⟨by decide +kernel⟩) :
    OnNext (Keeps μ σ) (execGradeAbort via s) := by
  unfold execGradeAbort
  try dsimp only
  repeat' with_reducible first | assumption | refine writeVia_keeps ?_ ?_ | refine gradeControl_keeps ?_ | refine keep_of_ok ‹_› (gradeControl_keeps ?_) | refine store_keeps ?_ | refine OnNext.next ?_ | refine OnOk.ok ?_ | exact OnOk.error | refine OnSome.some ?_ | exact OnSome.none | refine OnSomeOf.some ?_ | exact OnSomeOf.none | refine OnOkOf.ok ?_ | exact OnOkOf.error | refine act_keeps ?_ ?_ | refine live_keeps ?_ ?_ | refine keep_ite (P := OnNext (Keeps μ σ)) ?_ ?_ | refine keep_ite (P := Keeps μ σ) ?_ ?_ | refine keep_ite (P := OnOk (Keeps μ σ)) ?_ ?_ | intro _ | split | dsimp only | refine keep_of_ok ‹_› ?_

theorem dupSearch_keeps {μ : Nat} {σ : State} {s : State} (hK : Keeps μ σ s)
    (hm : Sub 0x100000000000000000000008000 μ := by first | assumption | exact Sub.of ‹Sub _ _› ⟨by decide +kernel⟩) :
    Keeps μ σ (State.dupSearch s) := by
  unfold State.dupSearch
  try dsimp only
  repeat' with_reducible first | assumption | refine add_keeps ?_ | refine slash_keeps ?_ | refine keep_ite (P := Keeps μ σ) ?_ ?_ | refine keep_foldl (P := Keeps μ σ) ?_ ?_ | refine OnOk.ok ?_ | exact OnOk.error | refine keep_ite (P := OnOk (Keeps μ σ)) ?_ ?_ | intro _ | split | dsimp only

theorem gradeFinish_keeps {μ : Nat} {σ : State} {s : State} (hK : Keeps μ σ s)
    (hm : Sub 0x100000000000000000000008000 μ := by first | assumption | exact Sub.of ‹Sub _ _› ⟨by decide +kernel⟩) :
    Keeps μ σ (State.gradeFinish s) := by
  unfold State.gradeFinish
  try dsimp only
  repeat' with_reducible first | assumption | refine dupSearch_keeps ?_ | refine pass_keeps ?_ | refine setB_keeps ?_ | refine setN_keeps ?_ | refine keep_ite (P := Keeps μ σ) ?_ ?_ | refine keep_foldl (P := Keeps μ σ) ?_ ?_ | refine OnOk.ok ?_ | exact OnOk.error | refine keep_ite (P := OnOk (Keeps μ σ)) ?_ ?_ | intro _ | split | dsimp only

theorem gradeDone_keeps {μ : Nat} {σ : State} {s : State} (hK : Keeps μ σ s)
    (hm : Sub 0x100000000000000000000208000 μ := by first | assumption | exact Sub.of ‹Sub _ _› ⟨by decide +kernel⟩) :
    Keeps μ σ (State.gradeDone s) := by
  unfold State.gradeDone
  try dsimp only
  repeat' with_reducible first | assumption | refine emit_keeps ?_ | refine gradeFinish_keeps ?_ | refine setN_keeps ?_ | refine keep_ite (P := Keeps μ σ) ?_ ?_ | refine keep_foldl (P := Keeps μ σ) ?_ ?_ | refine OnOk.ok ?_ | exact OnOk.error | refine keep_ite (P := OnOk (Keeps μ σ)) ?_ ?_ | intro _ | split | dsimp only

theorem execGradeDone_keeps {μ : Nat} {σ : State} {s : State} (hK : Keeps μ σ s)
    (hm : Sub 0x100000000000000000000208000 μ := by first | assumption | exact Sub.of ‹Sub _ _› ⟨by decide +kernel⟩) :
    OnNext (Keeps μ σ) (execGradeDone s) := by
  unfold execGradeDone
  try dsimp only
  repeat' with_reducible first | assumption | refine gradeDone_keeps ?_ | refine OnNext.next ?_ | refine OnOk.ok ?_ | exact OnOk.error | refine OnSome.some ?_ | exact OnSome.none | refine OnSomeOf.some ?_ | exact OnSomeOf.none | refine OnOkOf.ok ?_ | exact OnOkOf.error | refine act_keeps ?_ ?_ | refine live_keeps ?_ ?_ | refine keep_ite (P := OnNext (Keeps μ σ)) ?_ ?_ | refine keep_ite (P := Keeps μ σ) ?_ ?_ | refine keep_ite (P := OnOk (Keeps μ σ)) ?_ ?_ | intro _ | split | dsimp only

theorem gradeSignatures_keeps {μ : Nat} {σ : State} {s : State} {device : Nat} {filter : Nat} {l : List (Nat × Nat)} (hK : Keeps μ σ s)
    (hm : Sub 0x100000000000000000000008000 μ := by first | assumption | exact Sub.of ‹Sub _ _› ⟨by decide +kernel⟩) :
    Keeps μ σ (State.gradeSignatures s device filter l) := by
  unfold State.gradeSignatures
  try dsimp only
  repeat' with_reducible first | assumption | refine gradeFinish_keeps ?_ | refine keep_ite (P := Keeps μ σ) ?_ ?_ | (refine Keeps.lit (M := 0x100000000000000000000008000) ?_; first | assumption | refine gradeFinish_keeps ?_ | refine keep_ite (P := Keeps μ σ) ?_ ?_) | refine OnOk.ok ?_ | exact OnOk.error | refine keep_ite (P := OnOk (Keeps μ σ)) ?_ ?_ | intro _ | split | dsimp only

theorem execGradeSignatures_keeps {μ : Nat} {σ : State} {device : Nat} {filter : Nat} {signatures : List (Nat × Nat)} {s : State} (hK : Keeps μ σ s)
    (hm : Sub 0x100000000000000000000008000 μ := by first | assumption | exact Sub.of ‹Sub _ _› ⟨by decide +kernel⟩) :
    OnNext (Keeps μ σ) (execGradeSignatures device filter signatures s) := by
  unfold execGradeSignatures
  try dsimp only
  repeat' with_reducible first | assumption | refine gradeSignatures_keeps ?_ | refine OnNext.next ?_ | refine OnOk.ok ?_ | exact OnOk.error | refine OnSome.some ?_ | exact OnSome.none | refine OnSomeOf.some ?_ | exact OnSomeOf.none | refine OnOkOf.ok ?_ | exact OnOkOf.error | refine act_keeps ?_ ?_ | refine live_keeps ?_ ?_ | refine keep_ite (P := OnNext (Keeps μ σ)) ?_ ?_ | refine keep_ite (P := Keeps μ σ) ?_ ?_ | refine keep_ite (P := OnOk (Keeps μ σ)) ?_ ?_ | intro _ | split | dsimp only

end Sys2Proof.Laws
end

