-- ==== Sys2Proof/Laws/KeepLanding.lean ====
section
/-! SUPPORT. What each operation of Machine/Landing.lean changes: outside the zones of its mask it keeps everything, and it
keeps the invariant. -/
namespace Sys2Proof.Laws
open Sys2Proof.Machine
set_option Elab.async false
set_option linter.unreachableTactic false
set_option linter.unusedTactic false

theorem putLanding_keeps {μ : Nat} {σ : State} {s : State} {l : Landing} (hK : Keeps μ σ s)
    (hm : Sub 0x80000 μ := by first | assumption | exact Sub.of ‹Sub _ _› ⟨by decide +kernel⟩) :
    Keeps μ σ (State.putLanding s l) := by
  unfold State.putLanding
  try dsimp only
  repeat' with_reducible first | assumption | refine keep_ite (P := Keeps μ σ) ?_ ?_ | (refine Keeps.lit (M := 0x80000) ?_; first | assumption | refine keep_ite (P := Keeps μ σ) ?_ ?_) | refine OnOk.ok ?_ | exact OnOk.error | refine keep_ite (P := OnOk (Keeps μ σ)) ?_ ?_ | intro _ | split | dsimp only

theorem putCq_keeps {μ : Nat} {σ : State} {s : State} {c : NvmeCq} (hK : Keeps μ σ s)
    (hm : Sub 0x80000 μ := by first | assumption | exact Sub.of ‹Sub _ _› ⟨by decide +kernel⟩) :
    Keeps μ σ (State.putCq s c) := by
  unfold State.putCq
  try dsimp only
  repeat' with_reducible first | assumption | refine putLanding_keeps ?_ | refine keep_ite (P := Keeps μ σ) ?_ ?_ | refine OnOk.ok ?_ | exact OnOk.error | refine keep_ite (P := OnOk (Keeps μ σ)) ?_ ?_ | intro _ | split | dsimp only

theorem postCq_keeps {μ : Nat} {σ : State} {s : State} {c : NvmeCq} {x : Completion} (hK : Keeps μ σ s)
    (hm : Sub 0x280000 μ := by first | assumption | exact Sub.of ‹Sub _ _› ⟨by decide +kernel⟩) :
    Keeps μ σ (State.postCq s c x) := by
  unfold State.postCq
  try dsimp only
  repeat' with_reducible first | assumption | refine putCq_keeps ?_ | refine emit_keeps ?_ | refine keep_ite (P := Keeps μ σ) ?_ ?_ | refine OnOk.ok ?_ | exact OnOk.error | refine keep_ite (P := OnOk (Keeps μ σ)) ?_ ?_ | intro _ | split | dsimp only

theorem complete_keeps {μ : Nat} {σ : State} {s : State} {q : Nat} {cid : Nat} {sct : Nat} {sc : Nat} {dw0 : Nat} (hK : Keeps μ σ s)
    (hm : Sub 0x8000000000680000 μ := by first | assumption | exact Sub.of ‹Sub _ _› ⟨by decide +kernel⟩) :
    Keeps μ σ (State.complete s q cid sct sc dw0) := by
  unfold State.complete
  try dsimp only
  repeat' with_reducible first | assumption | refine putLanding_keeps ?_ | refine bump_keeps ?_ | refine ends_keeps ?_ | refine postCq_keeps ?_ | refine keep_ite (P := Keeps μ σ) ?_ ?_ | refine OnOk.ok ?_ | exact OnOk.error | refine keep_ite (P := OnOk (Keeps μ σ)) ?_ ?_ | intro _ | split | dsimp only

theorem nvme_keeps {μ : Nat} {σ : State} {s : State} {q : Nat} {cid : Nat} {f : State → State} (hK : Keeps μ σ s) (hf_f : ∀ v0, Keeps μ σ v0 → Keeps μ σ (f v0))
    (hm : Sub 0x0 μ := by first | assumption | exact Sub.of ‹Sub _ _› ⟨by decide +kernel⟩) :
    Keeps μ σ (State.nvme s q cid f) := by
  unfold State.nvme
  try dsimp only
  repeat' with_reducible first | assumption | refine hf_f _ ?_ | refine keep_ite (P := Keeps μ σ) ?_ ?_ | refine OnOk.ok ?_ | exact OnOk.error | refine keep_ite (P := OnOk (Keeps μ σ)) ?_ ?_ | intro _ | split | dsimp only

theorem admin_keeps {μ : Nat} {σ : State} {s : State} {cid : Nat} {f : State → State} (hK : Keeps μ σ s) (hf_f : ∀ v0, Keeps μ σ v0 → Keeps μ σ (f v0))
    (hm : Sub 0x0 μ := by first | assumption | exact Sub.of ‹Sub _ _› ⟨by decide +kernel⟩) :
    Keeps μ σ (State.admin s cid f) := by
  unfold State.admin
  try dsimp only
  repeat' with_reducible first | assumption | refine hf_f _ ?_ | refine nvme_keeps ?_ ?_ | refine keep_ite (P := Keeps μ σ) ?_ ?_ | refine OnOk.ok ?_ | exact OnOk.error | refine keep_ite (P := OnOk (Keeps μ σ)) ?_ ?_ | intro _ | split | dsimp only

theorem sqDoorbell_keeps {μ : Nat} {σ : State} {s : State} {q : Nat} {l : List NvmeHead} (hK : Keeps μ σ s)
    (hm : Sub 0x80000 μ := by first | assumption | exact Sub.of ‹Sub _ _› ⟨by decide +kernel⟩) :
    Keeps μ σ (State.sqDoorbell s q l) := by
  unfold State.sqDoorbell
  try dsimp only
  repeat' with_reducible first | assumption | refine putLanding_keeps ?_ | refine keep_ite (P := Keeps μ σ) ?_ ?_ | refine OnOk.ok ?_ | exact OnOk.error | refine keep_ite (P := OnOk (Keeps μ σ)) ?_ ?_ | intro _ | split | dsimp only

theorem execSqTailDoorbell_keeps {μ : Nat} {σ : State} {sq : Nat} {commands : List NvmeHead} {s : State} (hK : Keeps μ σ s)
    (hm : Sub 0x80000 μ := by first | assumption | exact Sub.of ‹Sub _ _› ⟨by decide +kernel⟩) :
    OnNext (Keeps μ σ) (execSqTailDoorbell sq commands s) := by
  unfold execSqTailDoorbell
  try dsimp only
  repeat' with_reducible first | assumption | refine sqDoorbell_keeps ?_ | refine OnNext.next ?_ | refine OnOk.ok ?_ | exact OnOk.error | refine OnSome.some ?_ | exact OnSome.none | refine OnSomeOf.some ?_ | exact OnSomeOf.none | refine OnOkOf.ok ?_ | exact OnOkOf.error | refine act_keeps ?_ ?_ | refine live_keeps ?_ ?_ | refine keep_ite (P := OnNext (Keeps μ σ)) ?_ ?_ | refine keep_ite (P := Keeps μ σ) ?_ ?_ | refine keep_ite (P := OnOk (Keeps μ σ)) ?_ ?_ | intro _ | split | dsimp only

theorem postHeld_keeps {μ : Nat} {σ : State} {s : State} {q : Nat} {x0 : Nat} (hK : Keeps μ σ s)
    (hm : Sub 0x280000 μ := by first | assumption | exact Sub.of ‹Sub _ _› ⟨by decide +kernel⟩) :
    Keeps μ σ (State.postHeld s q x0) := by
  induction x0 generalizing s q with
  | zero =>
    unfold State.postHeld
    try dsimp only
    repeat' with_reducible first | assumption | refine putCq_keeps ?_ | refine postCq_keeps ?_ | refine keep_ite (P := Keeps μ σ) ?_ ?_ | refine OnOk.ok ?_ | exact OnOk.error | refine keep_ite (P := OnOk (Keeps μ σ)) ?_ ?_ | intro _ | split | dsimp only
  | succ n ih =>
    unfold State.postHeld
    try dsimp only
    repeat' with_reducible first | assumption | refine ih ?_ | refine putCq_keeps ?_ | refine postCq_keeps ?_ | refine keep_ite (P := Keeps μ σ) ?_ ?_ | refine OnOk.ok ?_ | exact OnOk.error | refine keep_ite (P := OnOk (Keeps μ σ)) ?_ ?_ | intro _ | split | dsimp only

theorem cqDoorbell_keeps {μ : Nat} {σ : State} {s : State} {q : Nat} {head : Nat} (hK : Keeps μ σ s)
    (hm : Sub 0x280000 μ := by first | assumption | exact Sub.of ‹Sub _ _› ⟨by decide +kernel⟩) :
    Keeps μ σ (State.cqDoorbell s q head) := by
  unfold State.cqDoorbell
  try dsimp only
  repeat' with_reducible first | assumption | refine putCq_keeps ?_ | refine postHeld_keeps ?_ | refine keep_ite (P := Keeps μ σ) ?_ ?_ | refine OnOk.ok ?_ | exact OnOk.error | refine keep_ite (P := OnOk (Keeps μ σ)) ?_ ?_ | intro _ | split | dsimp only

theorem execCqHeadDoorbell_keeps {μ : Nat} {σ : State} {cq : Nat} {head : Nat} {s : State} (hK : Keeps μ σ s)
    (hm : Sub 0x280000 μ := by first | assumption | exact Sub.of ‹Sub _ _› ⟨by decide +kernel⟩) :
    OnNext (Keeps μ σ) (execCqHeadDoorbell cq head s) := by
  unfold execCqHeadDoorbell
  try dsimp only
  repeat' with_reducible first | assumption | refine cqDoorbell_keeps ?_ | refine OnNext.next ?_ | refine OnOk.ok ?_ | exact OnOk.error | refine OnSome.some ?_ | exact OnSome.none | refine OnSomeOf.some ?_ | exact OnSomeOf.none | refine OnOkOf.ok ?_ | exact OnOkOf.error | refine act_keeps ?_ ?_ | refine live_keeps ?_ ?_ | refine keep_ite (P := OnNext (Keeps μ σ)) ?_ ?_ | refine keep_ite (P := Keeps μ σ) ?_ ?_ | refine keep_ite (P := OnOk (Keeps μ σ)) ?_ ?_ | intro _ | split | dsimp only

theorem dispatch_keeps {μ : Nat} {σ : State} {s : State} {q : Nat} {cid : Nat} (hK : Keeps μ σ s)
    (hm : Sub 0x80000 μ := by first | assumption | exact Sub.of ‹Sub _ _› ⟨by decide +kernel⟩) :
    Keeps μ σ (State.dispatch s q cid) := by
  unfold State.dispatch
  try dsimp only
  repeat' with_reducible first | assumption | refine putLanding_keeps ?_ | refine keep_ite (P := Keeps μ σ) ?_ ?_ | refine OnOk.ok ?_ | exact OnOk.error | refine keep_ite (P := OnOk (Keeps μ σ)) ?_ ?_ | intro _ | split | dsimp only

theorem execCommandDispatch_keeps {μ : Nat} {σ : State} {sq : Nat} {cid : Nat} {s : State} (hK : Keeps μ σ s)
    (hm : Sub 0x80000 μ := by first | assumption | exact Sub.of ‹Sub _ _› ⟨by decide +kernel⟩) :
    OnNext (Keeps μ σ) (execCommandDispatch sq cid s) := by
  unfold execCommandDispatch
  try dsimp only
  repeat' with_reducible first | assumption | refine dispatch_keeps ?_ | refine OnNext.next ?_ | refine OnOk.ok ?_ | exact OnOk.error | refine OnSome.some ?_ | exact OnSome.none | refine OnSomeOf.some ?_ | exact OnSomeOf.none | refine OnOkOf.ok ?_ | exact OnOkOf.error | refine act_keeps ?_ ?_ | refine live_keeps ?_ ?_ | refine keep_ite (P := OnNext (Keeps μ σ)) ?_ ?_ | refine keep_ite (P := Keeps μ σ) ?_ ?_ | refine keep_ite (P := OnOk (Keeps μ σ)) ?_ ?_ | intro _ | split | dsimp only

theorem execCreateIoCompletionQueue_keeps {μ : Nat} {σ : State} {cid : Nat} {qid : Nat} {size : Nat} {vector : Option Nat} {s : State} (hK : Keeps μ σ s)
    (hm : Sub 0x8000000000680000 μ := by first | assumption | exact Sub.of ‹Sub _ _› ⟨by decide +kernel⟩) :
    OnNext (Keeps μ σ) (execCreateIoCompletionQueue cid qid size vector s) := by
  unfold execCreateIoCompletionQueue
  try dsimp only
  repeat' with_reducible first | assumption | refine admin_keeps ?_ ?_ | refine complete_keeps ?_ | refine putLanding_keeps ?_ | refine OnNext.next ?_ | refine OnOk.ok ?_ | exact OnOk.error | refine OnSome.some ?_ | exact OnSome.none | refine OnSomeOf.some ?_ | exact OnSomeOf.none | refine OnOkOf.ok ?_ | exact OnOkOf.error | refine act_keeps ?_ ?_ | refine live_keeps ?_ ?_ | refine keep_ite (P := OnNext (Keeps μ σ)) ?_ ?_ | refine keep_ite (P := Keeps μ σ) ?_ ?_ | refine keep_ite (P := OnOk (Keeps μ σ)) ?_ ?_ | intro _ | split | dsimp only

theorem execDeleteIoCompletionQueue_keeps {μ : Nat} {σ : State} {cid : Nat} {qid : Nat} {s : State} (hK : Keeps μ σ s)
    (hm : Sub 0x8000000000680000 μ := by first | assumption | exact Sub.of ‹Sub _ _› ⟨by decide +kernel⟩) :
    OnNext (Keeps μ σ) (execDeleteIoCompletionQueue cid qid s) := by
  unfold execDeleteIoCompletionQueue
  try dsimp only
  repeat' with_reducible first | assumption | refine admin_keeps ?_ ?_ | refine complete_keeps ?_ | refine putLanding_keeps ?_ | refine OnNext.next ?_ | refine OnOk.ok ?_ | exact OnOk.error | refine OnSome.some ?_ | exact OnSome.none | refine OnSomeOf.some ?_ | exact OnSomeOf.none | refine OnOkOf.ok ?_ | exact OnOkOf.error | refine act_keeps ?_ ?_ | refine live_keeps ?_ ?_ | refine keep_ite (P := OnNext (Keeps μ σ)) ?_ ?_ | refine keep_ite (P := Keeps μ σ) ?_ ?_ | refine keep_ite (P := OnOk (Keeps μ σ)) ?_ ?_ | intro _ | split | dsimp only

theorem execCreateIoSubmissionQueue_keeps {μ : Nat} {σ : State} {cid : Nat} {qid : Nat} {size : Nat} {cqid : Nat} {s : State} (hK : Keeps μ σ s)
    (hm : Sub 0x8000000000680000 μ := by first | assumption | exact Sub.of ‹Sub _ _› ⟨by decide +kernel⟩) :
    OnNext (Keeps μ σ) (execCreateIoSubmissionQueue cid qid size cqid s) := by
  unfold execCreateIoSubmissionQueue
  try dsimp only
  repeat' with_reducible first | assumption | refine admin_keeps ?_ ?_ | refine complete_keeps ?_ | refine putLanding_keeps ?_ | refine OnNext.next ?_ | refine OnOk.ok ?_ | exact OnOk.error | refine OnSome.some ?_ | exact OnSome.none | refine OnSomeOf.some ?_ | exact OnSomeOf.none | refine OnOkOf.ok ?_ | exact OnOkOf.error | refine act_keeps ?_ ?_ | refine live_keeps ?_ ?_ | refine keep_ite (P := OnNext (Keeps μ σ)) ?_ ?_ | refine keep_ite (P := Keeps μ σ) ?_ ?_ | refine keep_ite (P := OnOk (Keeps μ σ)) ?_ ?_ | intro _ | split | dsimp only

theorem endFetched_keeps {μ : Nat} {σ : State} {s : State} {p : NvmeCmd → Bool} {sct : Nat} {sc : Nat} (hK : Keeps μ σ s)
    (hm : Sub 0x8000000000680000 μ := by first | assumption | exact Sub.of ‹Sub _ _› ⟨by decide +kernel⟩) :
    Keeps μ σ (State.endFetched s p sct sc) := by
  unfold State.endFetched
  try dsimp only
  repeat' with_reducible first | assumption | refine complete_keeps ?_ | refine keep_ite (P := Keeps μ σ) ?_ ?_ | refine keep_foldl (P := Keeps μ σ) ?_ ?_ | refine OnOk.ok ?_ | exact OnOk.error | refine keep_ite (P := OnOk (Keeps μ σ)) ?_ ?_ | intro _ | split | dsimp only

theorem execDeleteIoSubmissionQueue_keeps {μ : Nat} {σ : State} {cid : Nat} {qid : Nat} {s : State} (hK : Keeps μ σ s)
    (hm : Sub 0x8000000000680000 μ := by first | assumption | exact Sub.of ‹Sub _ _› ⟨by decide +kernel⟩) :
    OnNext (Keeps μ σ) (execDeleteIoSubmissionQueue cid qid s) := by
  unfold execDeleteIoSubmissionQueue
  try dsimp only
  repeat' with_reducible first | assumption | refine admin_keeps ?_ ?_ | refine complete_keeps ?_ | refine endFetched_keeps ?_ | refine putLanding_keeps ?_ | refine OnNext.next ?_ | refine OnOk.ok ?_ | exact OnOk.error | refine OnSome.some ?_ | exact OnSome.none | refine OnSomeOf.some ?_ | exact OnSomeOf.none | refine OnOkOf.ok ?_ | exact OnOkOf.error | refine act_keeps ?_ ?_ | refine live_keeps ?_ ?_ | refine keep_ite (P := OnNext (Keeps μ σ)) ?_ ?_ | refine keep_ite (P := Keeps μ σ) ?_ ?_ | refine keep_ite (P := OnOk (Keeps μ σ)) ?_ ?_ | intro _ | split | dsimp only

theorem execIdentify_keeps {μ : Nat} {σ : State} {cid : Nat} {cns : Nat} {nsid : Nat} {s : State} (hK : Keeps μ σ s)
    (hm : Sub 0x8000000000e80000 μ := by first | assumption | exact Sub.of ‹Sub _ _› ⟨by decide +kernel⟩) :
    OnNext (Keeps μ σ) (execIdentify cid cns nsid s) := by
  unfold execIdentify
  try dsimp only
  repeat' with_reducible first | assumption | refine admin_keeps ?_ ?_ | refine drawn_keeps ?_ | refine emit_keeps ?_ | refine complete_keeps ?_ | refine OnNext.next ?_ | refine OnOk.ok ?_ | exact OnOk.error | refine OnSome.some ?_ | exact OnSome.none | refine OnSomeOf.some ?_ | exact OnSomeOf.none | refine OnOkOf.ok ?_ | exact OnOkOf.error | refine act_keeps ?_ ?_ | refine live_keeps ?_ ?_ | refine keep_ite (P := OnNext (Keeps μ σ)) ?_ ?_ | refine keep_ite (P := Keeps μ σ) ?_ ?_ | refine keep_ite (P := OnOk (Keeps μ σ)) ?_ ?_ | intro _ | split | dsimp only

theorem execGetLogPage_keeps {μ : Nat} {σ : State} {cid : Nat} {lid : Nat} {s : State} (hK : Keeps μ σ s)
    (hm : Sub 0x8000000000e80000 μ := by first | assumption | exact Sub.of ‹Sub _ _› ⟨by decide +kernel⟩) :
    OnNext (Keeps μ σ) (execGetLogPage cid lid s) := by
  unfold execGetLogPage
  try dsimp only
  repeat' with_reducible first | assumption | refine admin_keeps ?_ ?_ | refine drawn_keeps ?_ | refine emit_keeps ?_ | refine complete_keeps ?_ | refine OnNext.next ?_ | refine OnOk.ok ?_ | exact OnOk.error | refine OnSome.some ?_ | exact OnSome.none | refine OnSomeOf.some ?_ | exact OnSomeOf.none | refine OnOkOf.ok ?_ | exact OnOkOf.error | refine act_keeps ?_ ?_ | refine live_keeps ?_ ?_ | refine keep_ite (P := OnNext (Keeps μ σ)) ?_ ?_ | refine keep_ite (P := Keeps μ σ) ?_ ?_ | refine keep_ite (P := OnOk (Keeps μ σ)) ?_ ?_ | intro _ | split | dsimp only

theorem execSetFeatures_keeps {μ : Nat} {σ : State} {cid : Nat} {fid : Nat} {value : Nat} {s : State} (hK : Keeps μ σ s)
    (hm : Sub 0x8000000000680000 μ := by first | assumption | exact Sub.of ‹Sub _ _› ⟨by decide +kernel⟩) :
    OnNext (Keeps μ σ) (execSetFeatures cid fid value s) := by
  unfold execSetFeatures
  try dsimp only
  repeat' with_reducible first | assumption | refine admin_keeps ?_ ?_ | refine complete_keeps ?_ | refine putLanding_keeps ?_ | refine OnNext.next ?_ | refine OnOk.ok ?_ | exact OnOk.error | refine OnSome.some ?_ | exact OnSome.none | refine OnSomeOf.some ?_ | exact OnSomeOf.none | refine OnOkOf.ok ?_ | exact OnOkOf.error | refine act_keeps ?_ ?_ | refine live_keeps ?_ ?_ | refine keep_ite (P := OnNext (Keeps μ σ)) ?_ ?_ | refine keep_ite (P := Keeps μ σ) ?_ ?_ | refine keep_ite (P := OnOk (Keeps μ σ)) ?_ ?_ | intro _ | split | dsimp only

theorem execGetFeatures_keeps {μ : Nat} {σ : State} {cid : Nat} {fid : Nat} {s : State} (hK : Keeps μ σ s)
    (hm : Sub 0x8000000000680000 μ := by first | assumption | exact Sub.of ‹Sub _ _› ⟨by decide +kernel⟩) :
    OnNext (Keeps μ σ) (execGetFeatures cid fid s) := by
  unfold execGetFeatures
  try dsimp only
  repeat' with_reducible first | assumption | refine admin_keeps ?_ ?_ | refine complete_keeps ?_ | refine OnNext.next ?_ | refine OnOk.ok ?_ | exact OnOk.error | refine OnSome.some ?_ | exact OnSome.none | refine OnSomeOf.some ?_ | exact OnSomeOf.none | refine OnOkOf.ok ?_ | exact OnOkOf.error | refine act_keeps ?_ ?_ | refine live_keeps ?_ ?_ | refine keep_ite (P := OnNext (Keeps μ σ)) ?_ ?_ | refine keep_ite (P := Keeps μ σ) ?_ ?_ | refine keep_ite (P := OnOk (Keeps μ σ)) ?_ ?_ | intro _ | split | dsimp only

theorem execAbort_keeps {μ : Nat} {σ : State} {cid : Nat} {sqid : Nat} {named : Nat} {s : State} (hK : Keeps μ σ s)
    (hm : Sub 0x8000000000680000 μ := by first | assumption | exact Sub.of ‹Sub _ _› ⟨by decide +kernel⟩) :
    OnNext (Keeps μ σ) (execAbort cid sqid named s) := by
  unfold execAbort
  try dsimp only
  repeat' with_reducible first | assumption | refine admin_keeps ?_ ?_ | refine complete_keeps ?_ | refine bump_keeps ?_ | refine OnNext.next ?_ | refine OnOk.ok ?_ | exact OnOk.error | refine OnSome.some ?_ | exact OnSome.none | refine OnSomeOf.some ?_ | exact OnSomeOf.none | refine OnOkOf.ok ?_ | exact OnOkOf.error | refine act_keeps ?_ ?_ | refine live_keeps ?_ ?_ | refine keep_ite (P := OnNext (Keeps μ σ)) ?_ ?_ | refine keep_ite (P := Keeps μ σ) ?_ ?_ | refine keep_ite (P := OnOk (Keeps μ σ)) ?_ ?_ | intro _ | split | dsimp only

theorem asyncEvent_keeps {μ : Nat} {σ : State} {s : State} {dw0 : Nat} (hK : Keeps μ σ s)
    (hm : Sub 0x8000000000680000 μ := by first | assumption | exact Sub.of ‹Sub _ _› ⟨by decide +kernel⟩) :
    Keeps μ σ (State.asyncEvent s dw0) := by
  unfold State.asyncEvent
  try dsimp only
  repeat' with_reducible first | assumption | refine putLanding_keeps ?_ | refine complete_keeps ?_ | refine keep_ite (P := Keeps μ σ) ?_ ?_ | refine OnOk.ok ?_ | exact OnOk.error | refine keep_ite (P := OnOk (Keeps μ σ)) ?_ ?_ | intro _ | split | dsimp only

theorem execAsynchronousEventRequest_keeps {μ : Nat} {σ : State} {cid : Nat} {s : State} (hK : Keeps μ σ s)
    (hm : Sub 0x8000000000680000 μ := by first | assumption | exact Sub.of ‹Sub _ _› ⟨by decide +kernel⟩) :
    OnNext (Keeps μ σ) (execAsynchronousEventRequest cid s) := by
  unfold execAsynchronousEventRequest
  try dsimp only
  repeat' with_reducible first | assumption | refine admin_keeps ?_ ?_ | refine putLanding_keeps ?_ | refine complete_keeps ?_ | refine dispatch_keeps ?_ | refine OnNext.next ?_ | refine OnOk.ok ?_ | exact OnOk.error | refine OnSome.some ?_ | exact OnSome.none | refine OnSomeOf.some ?_ | exact OnSomeOf.none | refine OnOkOf.ok ?_ | exact OnOkOf.error | refine act_keeps ?_ ?_ | refine live_keeps ?_ ?_ | refine keep_ite (P := OnNext (Keeps μ σ)) ?_ ?_ | refine keep_ite (P := Keeps μ σ) ?_ ?_ | refine keep_ite (P := OnOk (Keeps μ σ)) ?_ ?_ | intro _ | split | dsimp only

theorem hostRecord_keeps {μ : Nat} {σ : State} {s : State} {q : Nat} {entry : Bytes} {data : Option Bytes} (hK : Keeps μ σ s)
    (hm : Sub 0x20000000000000000000000000010 μ := by first | assumption | exact Sub.of ‹Sub _ _› ⟨by decide +kernel⟩) :
    Keeps μ σ (State.hostRecord s q entry data) := by
  unfold State.hostRecord
  try dsimp only
  repeat' with_reducible first | assumption | refine journal_keeps ?_ | refine keep_ite (P := Keeps μ σ) ?_ ?_ | refine OnOk.ok ?_ | exact OnOk.error | refine keep_ite (P := OnOk (Keeps μ σ)) ?_ ?_ | intro _ | split | dsimp only

theorem nsCount_keeps {μ : Nat} {σ : State} {s : State} (hK : Keeps μ σ s)
    (hm : Sub 0x8000000000000000 μ := by first | assumption | exact Sub.of ‹Sub _ _› ⟨by decide +kernel⟩) :
    Keeps μ σ (State.nsCount s) := by
  unfold State.nsCount
  try dsimp only
  repeat' with_reducible first | assumption | refine setN_keeps ?_ | refine keep_ite (P := Keeps μ σ) ?_ ?_ | refine OnOk.ok ?_ | exact OnOk.error | refine keep_ite (P := OnOk (Keeps μ σ)) ?_ ?_ | intro _ | split | dsimp only

theorem endTest_keeps {μ : Nat} {σ : State} {s : State} {result : Nat} {segment : Nat} {lba : Option Nat} (hK : Keeps μ σ s)
    (hm : Sub 0x80000 μ := by first | assumption | exact Sub.of ‹Sub _ _› ⟨by decide +kernel⟩) :
    Keeps μ σ (State.endTest s result segment lba) := by
  unfold State.endTest
  try dsimp only
  repeat' with_reducible first | assumption | refine putLanding_keeps ?_ | refine keep_ite (P := Keeps μ σ) ?_ ?_ | refine OnOk.ok ?_ | exact OnOk.error | refine keep_ite (P := OnOk (Keeps μ σ)) ?_ ?_ | intro _ | split | dsimp only

theorem createNs_keeps {μ : Nat} {σ : State} {s : State} {cid : Nat} {nsze : Nat} {lbaf : Nat} (hK : Keeps μ σ s)
    (hm : Sub 0x200000000000080000000006a0010 μ := by first | assumption | exact Sub.of ‹Sub _ _› ⟨by decide +kernel⟩) :
    Keeps μ σ (State.createNs s cid nsze lbaf) := by
  unfold State.createNs
  try dsimp only
  repeat' with_reducible first | assumption | refine complete_keeps ?_ | refine hostRecord_keeps ?_ | refine putYard_keeps ?_ | refine yrec_keeps ?_ | refine putLanding_keeps ?_ | refine nsCount_keeps ?_ | refine keep_ite (P := Keeps μ σ) ?_ ?_ | refine OnOk.ok ?_ | exact OnOk.error | refine keep_ite (P := OnOk (Keeps μ σ)) ?_ ?_ | intro _ | split | dsimp only

theorem deleteNs_keeps {μ : Nat} {σ : State} {s : State} {cid : Nat} {n : Nat} (hK : Keeps μ σ s)
    (hm : Sub 0x200000000000080000000006a0010 μ := by first | assumption | exact Sub.of ‹Sub _ _› ⟨by decide +kernel⟩) :
    Keeps μ σ (State.deleteNs s cid n) := by
  unfold State.deleteNs
  try dsimp only
  repeat' with_reducible first | assumption | refine hostRecord_keeps ?_ | refine endFetched_keeps ?_ | refine endTest_keeps ?_ | refine discardRange_keeps ?_ | refine putYard_keeps ?_ | refine yrec_keeps ?_ | refine putLanding_keeps ?_ | refine nsCount_keeps ?_ | refine complete_keeps ?_ | refine keep_ite (P := Keeps μ σ) ?_ ?_ | refine OnOk.ok ?_ | exact OnOk.error | refine keep_ite (P := OnOk (Keeps μ σ)) ?_ ?_ | intro _ | split | dsimp only

theorem execNamespaceManagement_keeps {μ : Nat} {σ : State} {cid : Nat} {op : NsOp} {s : State} (hK : Keeps μ σ s)
    (hm : Sub 0x200000000008a80000000006a0010 μ := by first | assumption | exact Sub.of ‹Sub _ _› ⟨by decide +kernel⟩) :
    OnNext (Keeps μ σ) (execNamespaceManagement cid op s) := by
  unfold execNamespaceManagement
  try dsimp only
  repeat' with_reducible first | assumption | refine admin_keeps ?_ ?_ | refine complete_keeps ?_ | refine createNs_keeps ?_ | refine yardRegs_keeps ?_ | refine deleteNs_keeps ?_ | refine OnNext.next ?_ | refine OnOk.ok ?_ | exact OnOk.error | refine OnSome.some ?_ | exact OnSome.none | refine OnSomeOf.some ?_ | exact OnSomeOf.none | refine OnOkOf.ok ?_ | exact OnOkOf.error | refine act_keeps ?_ ?_ | refine live_keeps ?_ ?_ | refine keep_ite (P := OnNext (Keeps μ σ)) ?_ ?_ | refine keep_ite (P := Keeps μ σ) ?_ ?_ | refine keep_ite (P := OnOk (Keeps μ σ)) ?_ ?_ | intro _ | split | dsimp only

theorem execNamespaceAttachment_keeps {μ : Nat} {σ : State} {cid : Nat} {nsid : Nat} {attach : Bool} {controllers : List Nat} {s : State} (hK : Keeps μ σ s)
    (hm : Sub 0x8000000000680000 μ := by first | assumption | exact Sub.of ‹Sub _ _› ⟨by decide +kernel⟩) :
    OnNext (Keeps μ σ) (execNamespaceAttachment cid nsid attach controllers s) := by
  unfold execNamespaceAttachment
  try dsimp only
  repeat' with_reducible first | assumption | refine admin_keeps ?_ ?_ | refine complete_keeps ?_ | refine putLanding_keeps ?_ | refine OnNext.next ?_ | refine OnOk.ok ?_ | exact OnOk.error | refine OnSome.some ?_ | exact OnSome.none | refine OnSomeOf.some ?_ | exact OnSomeOf.none | refine OnOkOf.ok ?_ | exact OnOkOf.error | refine act_keeps ?_ ?_ | refine live_keeps ?_ ?_ | refine keep_ite (P := OnNext (Keeps μ σ)) ?_ ?_ | refine keep_ite (P := Keeps μ σ) ?_ ?_ | refine keep_ite (P := OnOk (Keeps μ σ)) ?_ ?_ | intro _ | split | dsimp only

theorem formatNs_keeps {μ : Nat} {σ : State} {s : State} {cid : Nat} {n : Nat} {lbaf : Nat} {ses : Nat} {fails : List Nat} (hK : Keeps μ σ s)
    (hm : Sub 0x200000000004280000002c06a0016 μ := by first | assumption | exact Sub.of ‹Sub _ _› ⟨by decide +kernel⟩) :
    Keeps μ σ (State.formatNs s cid n lbaf ses fails) := by
  unfold State.formatNs
  try dsimp only
  repeat' with_reducible first | assumption | refine hostRecord_keeps ?_ | refine endFetched_keeps ?_ | refine endTest_keeps ?_ | refine discardRange_keeps ?_ | refine commitYard_keeps ?_ | refine beginErase_keeps ?_ | refine endErase_keeps ?_ | refine putLanding_keeps ?_ | refine complete_keeps ?_ | refine keep_ite (P := Keeps μ σ) ?_ ?_ | refine keep_foldl (P := Keeps μ σ) ?_ ?_ | refine OnOk.ok ?_ | exact OnOk.error | refine keep_ite (P := OnOk (Keeps μ σ)) ?_ ?_ | intro _ | split | dsimp only

theorem execFormatNvm_keeps {μ : Nat} {σ : State} {cid : Nat} {nsid : Nat} {lbaf : Nat} {ses : Nat} {eraseFails : List Nat} {s : State} (hK : Keeps μ σ s)
    (hm : Sub 0x20000000000ca80000002c06a0016 μ := by first | assumption | exact Sub.of ‹Sub _ _› ⟨by decide +kernel⟩) :
    OnNext (Keeps μ σ) (execFormatNvm cid nsid lbaf ses eraseFails s) := by
  unfold execFormatNvm
  try dsimp only
  repeat' with_reducible first | assumption | refine admin_keeps ?_ ?_ | refine complete_keeps ?_ | refine formatNs_keeps ?_ | refine yardRegs_keeps ?_ | refine OnNext.next ?_ | refine OnOk.ok ?_ | exact OnOk.error | refine OnSome.some ?_ | exact OnSome.none | refine OnSomeOf.some ?_ | exact OnSomeOf.none | refine OnOkOf.ok ?_ | exact OnOkOf.error | refine act_keeps ?_ ?_ | refine live_keeps ?_ ?_ | refine keep_ite (P := OnNext (Keeps μ σ)) ?_ ?_ | refine keep_ite (P := Keeps μ σ) ?_ ?_ | refine keep_ite (P := OnOk (Keeps μ σ)) ?_ ?_ | intro _ | split | dsimp only

theorem execFirmwareImageDownload_keeps {μ : Nat} {σ : State} {cid : Nat} {offset : Nat} {bytes : Bytes} {s : State} (hK : Keeps μ σ s)
    (hm : Sub 0x8000000000680000 μ := by first | assumption | exact Sub.of ‹Sub _ _› ⟨by decide +kernel⟩) :
    OnNext (Keeps μ σ) (execFirmwareImageDownload cid offset bytes s) := by
  unfold execFirmwareImageDownload
  try dsimp only
  repeat' with_reducible first | assumption | refine admin_keeps ?_ ?_ | refine complete_keeps ?_ | refine putLanding_keeps ?_ | refine OnNext.next ?_ | refine OnOk.ok ?_ | exact OnOk.error | refine OnSome.some ?_ | exact OnSome.none | refine OnSomeOf.some ?_ | exact OnSomeOf.none | refine OnOkOf.ok ?_ | exact OnOkOf.error | refine act_keeps ?_ ?_ | refine live_keeps ?_ ?_ | refine keep_ite (P := OnNext (Keeps μ σ)) ?_ ?_ | refine keep_ite (P := Keeps μ σ) ?_ ?_ | refine keep_ite (P := OnOk (Keeps μ σ)) ?_ ?_ | intro _ | split | dsimp only

theorem execFirmwareCommit_keeps {μ : Nat} {σ : State} {cid : Nat} {slot : Nat} {action : Nat} {svn : Nat} {trusted : Bool} {s : State} (hK : Keeps μ σ s)
    (hm : Sub 0x8000000000680008 μ := by first | assumption | exact Sub.of ‹Sub _ _› ⟨by decide +kernel⟩) :
    OnNext (Keeps μ σ) (execFirmwareCommit cid slot action svn trusted s) := by
  unfold execFirmwareCommit
  try dsimp only
  repeat' with_reducible first | assumption | refine admin_keeps ?_ ?_ | refine complete_keeps ?_ | refine putLanding_keeps ?_ | refine OnNext.next ?_ | refine OnOk.ok ?_ | exact OnOk.error | refine OnSome.some ?_ | exact OnSome.none | refine OnSomeOf.some ?_ | exact OnSomeOf.none | refine OnOkOf.ok ?_ | exact OnOkOf.error | refine act_keeps ?_ ?_ | refine live_keeps ?_ ?_ | refine keep_ite (P := OnNext (Keeps μ σ)) ?_ ?_ | refine keep_ite (P := Keeps μ σ) ?_ ?_ | (refine Keeps.lit (M := 0x8000000000680008) ?_; first | assumption | refine admin_keeps ?_ ?_ | refine complete_keeps ?_ | refine putLanding_keeps ?_ | refine keep_ite (P := Keeps μ σ) ?_ ?_) | refine keep_ite (P := OnOk (Keeps μ σ)) ?_ ?_ | intro _ | split | dsimp only

theorem execDeviceSelfTest_keeps {μ : Nat} {σ : State} {cid : Nat} {nsid : Nat} {code : Nat} {s : State} (hK : Keeps μ σ s)
    (hm : Sub 0x8000000000680000 μ := by first | assumption | exact Sub.of ‹Sub _ _› ⟨by decide +kernel⟩) :
    OnNext (Keeps μ σ) (execDeviceSelfTest cid nsid code s) := by
  unfold execDeviceSelfTest
  try dsimp only
  repeat' with_reducible first | assumption | refine admin_keeps ?_ ?_ | refine complete_keeps ?_ | refine endTest_keeps ?_ | refine putLanding_keeps ?_ | refine OnNext.next ?_ | refine OnOk.ok ?_ | exact OnOk.error | refine OnSome.some ?_ | exact OnSome.none | refine OnSomeOf.some ?_ | exact OnSomeOf.none | refine OnOkOf.ok ?_ | exact OnOkOf.error | refine act_keeps ?_ ?_ | refine live_keeps ?_ ?_ | refine keep_ite (P := OnNext (Keeps μ σ)) ?_ ?_ | refine keep_ite (P := Keeps μ σ) ?_ ?_ | refine keep_ite (P := OnOk (Keeps μ σ)) ?_ ?_ | intro _ | split | dsimp only

theorem execSelftestResume_keeps {μ : Nat} {σ : State} {s : State} (hK : Keeps μ σ s)
    (hm : Sub 0x80000 μ := by first | assumption | exact Sub.of ‹Sub _ _› ⟨by decide +kernel⟩) :
    OnNext (Keeps μ σ) (execSelftestResume s) := by
  unfold execSelftestResume
  try dsimp only
  repeat' with_reducible first | assumption | refine putLanding_keeps ?_ | refine OnNext.next ?_ | refine OnOk.ok ?_ | exact OnOk.error | refine OnSome.some ?_ | exact OnSome.none | refine OnSomeOf.some ?_ | exact OnSomeOf.none | refine OnOkOf.ok ?_ | exact OnOkOf.error | refine act_keeps ?_ ?_ | refine live_keeps ?_ ?_ | refine keep_ite (P := OnNext (Keeps μ σ)) ?_ ?_ | refine keep_ite (P := Keeps μ σ) ?_ ?_ | refine keep_ite (P := OnOk (Keeps μ σ)) ?_ ?_ | intro _ | split | dsimp only

theorem execDeviceSelfTestDone_keeps {μ : Nat} {σ : State} {failing : Option (Nat × Nat)} {s : State} (hK : Keeps μ σ s)
    (hm : Sub 0x80000 μ := by first | assumption | exact Sub.of ‹Sub _ _› ⟨by decide +kernel⟩) :
    OnNext (Keeps μ σ) (execDeviceSelfTestDone failing s) := by
  unfold execDeviceSelfTestDone
  try dsimp only
  repeat' with_reducible first | assumption | refine endTest_keeps ?_ | refine OnNext.next ?_ | refine OnOk.ok ?_ | exact OnOk.error | refine OnSome.some ?_ | exact OnSome.none | refine OnSomeOf.some ?_ | exact OnSomeOf.none | refine OnOkOf.ok ?_ | exact OnOkOf.error | refine act_keeps ?_ ?_ | refine live_keeps ?_ ?_ | refine keep_ite (P := OnNext (Keeps μ σ)) ?_ ?_ | refine keep_ite (P := Keeps μ σ) ?_ ?_ | refine keep_ite (P := OnOk (Keeps μ σ)) ?_ ?_ | intro _ | split | dsimp only

theorem acceptAll_keeps {μ : Nat} {σ : State} {s : State} {base : Nat} {slba : Nat} {gen : Bool} {x0 : Nat} {x1 : List (Bytes × PiTuple)} (hK : Keeps μ σ s)
    (hm : Sub 0x20000 μ := by first | assumption | exact Sub.of ‹Sub _ _› ⟨by decide +kernel⟩) :
    OnSomeOf (fun x => Keeps μ σ x.2) (State.acceptAll s base slba gen x0 x1) := by
  induction x1 generalizing s base slba gen x0 with
  | nil =>
    unfold State.acceptAll
    try dsimp only
    repeat' with_reducible first | assumption | refine accept1_keeps ?_ | refine keep_of_some ‹_› (accept1_keeps ?_) | refine OnNext.next ?_ | refine OnOk.ok ?_ | exact OnOk.error | refine OnSome.some ?_ | exact OnSome.none | refine OnSomeOf.some ?_ | exact OnSomeOf.none | refine OnOkOf.ok ?_ | exact OnOkOf.error | refine act_keeps ?_ ?_ | refine live_keeps ?_ ?_ | refine keep_ite (P := OnSomeOf (fun x => Keeps μ σ x.2)) ?_ ?_ | refine keep_ite (P := Keeps μ σ) ?_ ?_ | refine keep_ite (P := OnOk (Keeps μ σ)) ?_ ?_ | intro _ | split | dsimp only
  | cons a l ih =>
    unfold State.acceptAll
    try dsimp only
    repeat' with_reducible first | assumption | refine ih ?_ | refine keep_of_some_12 ‹_› (ih ?_) | refine accept1_keeps ?_ | refine keep_of_some ‹_› (accept1_keeps ?_) | refine OnNext.next ?_ | refine OnOk.ok ?_ | exact OnOk.error | refine OnSome.some ?_ | exact OnSome.none | refine OnSomeOf.some ?_ | exact OnSomeOf.none | refine OnOkOf.ok ?_ | exact OnOkOf.error | refine act_keeps ?_ ?_ | refine live_keeps ?_ ?_ | refine keep_ite (P := OnSomeOf (fun x => Keeps μ σ x.2)) ?_ ?_ | refine keep_ite (P := Keeps μ σ) ?_ ?_ | refine keep_ite (P := OnOk (Keeps μ σ)) ?_ ?_ | intro _ | split | dsimp only

theorem waitNand_keeps {μ : Nat} {σ : State} {s : State} {q : Nat} {cid : Nat} {sectors : List Nat} (hK : Keeps μ σ s)
    (hm : Sub 0x80000 μ := by first | assumption | exact Sub.of ‹Sub _ _› ⟨by decide +kernel⟩) :
    Keeps μ σ (State.waitNand s q cid sectors) := by
  unfold State.waitNand
  try dsimp only
  repeat' with_reducible first | assumption | refine dispatch_keeps ?_ | refine putLanding_keeps ?_ | refine keep_ite (P := Keeps μ σ) ?_ ?_ | refine OnOk.ok ?_ | exact OnOk.error | refine keep_ite (P := OnOk (Keeps μ σ)) ?_ ?_ | intro _ | split | dsimp only

theorem settleWaits_keeps {μ : Nat} {σ : State} {s : State} (hK : Keeps μ σ s)
    (hm : Sub 0x8000000000680000 μ := by first | assumption | exact Sub.of ‹Sub _ _› ⟨by decide +kernel⟩) :
    Keeps μ σ (State.settleWaits s) := by
  unfold State.settleWaits
  try dsimp only
  repeat' with_reducible first | assumption | refine putLanding_keeps ?_ | refine complete_keeps ?_ | refine keep_ite (P := Keeps μ σ) ?_ ?_ | refine keep_foldl (P := Keeps μ σ) ?_ ?_ | refine OnOk.ok ?_ | exact OnOk.error | refine keep_ite (P := OnOk (Keeps μ σ)) ?_ ?_ | intro _ | split | dsimp only

theorem nvmeWrite_keeps {μ : Nat} {σ : State} {s : State} {q : Nat} {cid : Nat} {nsid : Nat} {slba : Nat} {fua : Bool} {p : PiCheck} {l : List (Bytes × PiTuple)} {stage : Nat} (hK : Keeps μ σ s)
    (hm : Sub 0x200000000000080000000006a0010 μ := by first | assumption | exact Sub.of ‹Sub _ _› ⟨by decide +kernel⟩) :
    Keeps μ σ (State.nvmeWrite s q cid nsid slba fua p l stage) := by
  unfold State.nvmeWrite
  try dsimp only
  repeat' with_reducible first | assumption | refine complete_keeps ?_ | refine acceptAll_keeps ?_ | refine keep_of_some_12 ‹_› (acceptAll_keeps ?_) | refine hostRecord_keeps ?_ | refine padAll_keeps ?_ | refine waitNand_keeps ?_ | refine settleWaits_keeps ?_ | refine dispatch_keeps ?_ | refine keep_ite (P := Keeps μ σ) ?_ ?_ | refine OnOk.ok ?_ | exact OnOk.error | refine keep_ite (P := OnOk (Keeps μ σ)) ?_ ?_ | intro _ | split | dsimp only | refine keep_of_ok ‹_› ?_

theorem execNvmeWrite_keeps {μ : Nat} {σ : State} {sq : Nat} {cid : Nat} {nsid : Nat} {slba : Nat} {fua : Bool} {pi : PiCheck} {sectors : List (Bytes × PiTuple)} {stage : Nat} {s : State} (hK : Keeps μ σ s)
    (hm : Sub 0x200000000008a80000000006a0010 μ := by first | assumption | exact Sub.of ‹Sub _ _› ⟨by decide +kernel⟩) :
    OnNext (Keeps μ σ) (execNvmeWrite sq cid nsid slba fua pi sectors stage s) := by
  unfold execNvmeWrite
  try dsimp only
  repeat' with_reducible first | assumption | refine nvme_keeps ?_ ?_ | refine nvmeWrite_keeps ?_ | refine yardRegs_keeps ?_ | refine OnNext.next ?_ | refine OnOk.ok ?_ | exact OnOk.error | refine OnSome.some ?_ | exact OnSome.none | refine OnSomeOf.some ?_ | exact OnSomeOf.none | refine OnOkOf.ok ?_ | exact OnOkOf.error | refine act_keeps ?_ ?_ | refine live_keeps ?_ ?_ | refine keep_ite (P := OnNext (Keeps μ σ)) ?_ ?_ | refine keep_ite (P := Keeps μ σ) ?_ ?_ | refine keep_ite (P := OnOk (Keeps μ σ)) ?_ ?_ | intro _ | split | dsimp only

theorem nvmeFlush_keeps {μ : Nat} {σ : State} {s : State} {q : Nat} {cid : Nat} {nsid : Nat} (hK : Keeps μ σ s)
    (hm : Sub 0x80000000006a0000 μ := by first | assumption | exact Sub.of ‹Sub _ _› ⟨by decide +kernel⟩) :
    Keeps μ σ (State.nvmeFlush s q cid nsid) := by
  unfold State.nvmeFlush
  try dsimp only
  repeat' with_reducible first | assumption | refine complete_keeps ?_ | refine padAll_keeps ?_ | refine waitNand_keeps ?_ | refine settleWaits_keeps ?_ | refine keep_ite (P := Keeps μ σ) ?_ ?_ | refine OnOk.ok ?_ | exact OnOk.error | refine keep_ite (P := OnOk (Keeps μ σ)) ?_ ?_ | intro _ | split | dsimp only

theorem execNvmeFlush_keeps {μ : Nat} {σ : State} {sq : Nat} {cid : Nat} {nsid : Nat} {s : State} (hK : Keeps μ σ s)
    (hm : Sub 0x8a80000000006a0000 μ := by first | assumption | exact Sub.of ‹Sub _ _› ⟨by decide +kernel⟩) :
    OnNext (Keeps μ σ) (execNvmeFlush sq cid nsid s) := by
  unfold execNvmeFlush
  try dsimp only
  repeat' with_reducible first | assumption | refine nvme_keeps ?_ ?_ | refine nvmeFlush_keeps ?_ | refine yardRegs_keeps ?_ | refine OnNext.next ?_ | refine OnOk.ok ?_ | exact OnOk.error | refine OnSome.some ?_ | exact OnSome.none | refine OnSomeOf.some ?_ | exact OnSomeOf.none | refine OnOkOf.ok ?_ | exact OnOkOf.error | refine act_keeps ?_ ?_ | refine live_keeps ?_ ?_ | refine keep_ite (P := OnNext (Keeps μ σ)) ?_ ?_ | refine keep_ite (P := Keeps μ σ) ?_ ?_ | refine keep_ite (P := OnOk (Keeps μ σ)) ?_ ?_ | intro _ | split | dsimp only

theorem readCheck_keeps {μ : Nat} {σ : State} {s : State} {x : Namespace} {p : PiCheck} {base : Nat} {slba : Nat} {x0 : Nat} {x1 : Nat} {x2 : List SectorRead} (hK : Keeps μ σ s)
    (hm : Sub 0x4200000002c0020006 μ := by first | assumption | exact Sub.of ‹Sub _ _› ⟨by decide +kernel⟩) :
    Keeps μ σ (State.readCheck s x p base slba x0 x1 x2).2 := by
  induction x0 generalizing s x p base slba x1 x2 with
  | zero =>
    unfold State.readCheck
    try dsimp only
    repeat' with_reducible first | assumption | refine readSector_keeps ?_ | refine keep_of_snd ‹_› (readSector_keeps ?_) | refine keep_ite (P := Keeps μ σ) ?_ ?_ | refine OnOk.ok ?_ | exact OnOk.error | refine keep_ite (P := OnOk (Keeps μ σ)) ?_ ?_ | intro _ | split | dsimp only | refine keep_of_ok ‹_› ?_
  | succ n ih =>
    unfold State.readCheck
    try dsimp only
    repeat' with_reducible first | assumption | refine ih ?_ | refine keep_of_snd ‹_› (ih ?_) | refine readSector_keeps ?_ | refine keep_of_snd ‹_› (readSector_keeps ?_) | refine keep_ite (P := Keeps μ σ) ?_ ?_ | refine OnOk.ok ?_ | exact OnOk.error | refine keep_ite (P := OnOk (Keeps μ σ)) ?_ ?_ | intro _ | split | dsimp only | refine keep_of_ok ‹_› ?_

theorem meetErases_keeps {μ : Nat} {σ : State} {s : State} {base : Nat} {slba : Nat} {count : Nat} (hK : Keeps μ σ s)
    (hm : Sub 0x20000 μ := by first | assumption | exact Sub.of ‹Sub _ _› ⟨by decide +kernel⟩) :
    OnSome (Keeps μ σ) (State.meetErases s base slba count) := by
  unfold State.meetErases
  try dsimp only
  repeat' with_reducible first | assumption | refine putYard_keeps ?_ | refine OnNext.next ?_ | refine OnOk.ok ?_ | exact OnOk.error | refine OnSome.some ?_ | exact OnSome.none | refine OnSomeOf.some ?_ | exact OnSomeOf.none | refine OnOkOf.ok ?_ | exact OnOkOf.error | refine act_keeps ?_ ?_ | refine live_keeps ?_ ?_ | refine keep_ite (P := OnSome (Keeps μ σ)) ?_ ?_ | refine keep_ite (P := Keeps μ σ) ?_ ?_ | refine keep_ite (P := OnOk (Keeps μ σ)) ?_ ?_ | intro _ | split | dsimp only

theorem ioRead_keeps {μ : Nat} {σ : State} {s : State} {q : Nat} {cid : Nat} {nsid : Nat} {slba : Nat} {count : Nat} {p : PiCheck} {reads : List SectorRead} {f : State → List (Bytes × PiTuple) → State} (hK : Keeps μ σ s) (hf_f : ∀ v0 v1, Keeps μ σ v0 → Keeps μ σ (f v0 v1))
    (hm : Sub 0x4280000002c06a0006 μ := by first | assumption | exact Sub.of ‹Sub _ _› ⟨by decide +kernel⟩) :
    Keeps μ σ (State.ioRead s q cid nsid slba count p reads f) := by
  unfold State.ioRead
  try dsimp only
  repeat' with_reducible first | assumption | refine hf_f _ _ ?_ | refine complete_keeps ?_ | refine meetErases_keeps ?_ | refine keep_of_some ‹_› (meetErases_keeps ?_) | refine dispatch_keeps ?_ | refine readCheck_keeps ?_ | refine keep_of_snd ‹_› (readCheck_keeps ?_) | refine keep_ite (P := Keeps μ σ) ?_ ?_ | refine OnOk.ok ?_ | exact OnOk.error | refine keep_ite (P := OnOk (Keeps μ σ)) ?_ ?_ | intro _ | split | dsimp only | refine keep_of_ok ‹_› ?_

theorem execNvmeRead_keeps {μ : Nat} {σ : State} {sq : Nat} {cid : Nat} {nsid : Nat} {slba : Nat} {count : Nat} {pi : PiCheck} {reads : List SectorRead} {s : State} (hK : Keeps μ σ s)
    (hm : Sub 0x4280000002c06a0006 μ := by first | assumption | exact Sub.of ‹Sub _ _› ⟨by decide +kernel⟩) :
    OnNext (Keeps μ σ) (execNvmeRead sq cid nsid slba count pi reads s) := by
  unfold execNvmeRead
  try dsimp only
  repeat' with_reducible first | assumption | refine nvme_keeps ?_ ?_ | refine ioRead_keeps ?_ ?_ | refine emit_keeps ?_ | refine complete_keeps ?_ | refine OnNext.next ?_ | refine OnOk.ok ?_ | exact OnOk.error | refine OnSome.some ?_ | exact OnSome.none | refine OnSomeOf.some ?_ | exact OnSomeOf.none | refine OnOkOf.ok ?_ | exact OnOkOf.error | refine act_keeps ?_ ?_ | refine live_keeps ?_ ?_ | refine keep_ite (P := OnNext (Keeps μ σ)) ?_ ?_ | refine keep_ite (P := Keeps μ σ) ?_ ?_ | refine keep_ite (P := OnOk (Keeps μ σ)) ?_ ?_ | intro _ | split | dsimp only

theorem execVerify_keeps {μ : Nat} {σ : State} {sq : Nat} {cid : Nat} {nsid : Nat} {slba : Nat} {count : Nat} {pi : PiCheck} {reads : List SectorRead} {s : State} (hK : Keeps μ σ s)
    (hm : Sub 0x4280000002c06a0006 μ := by first | assumption | exact Sub.of ‹Sub _ _› ⟨by decide +kernel⟩) :
    OnNext (Keeps μ σ) (execVerify sq cid nsid slba count pi reads s) := by
  unfold execVerify
  try dsimp only
  repeat' with_reducible first | assumption | refine nvme_keeps ?_ ?_ | refine ioRead_keeps ?_ ?_ | refine complete_keeps ?_ | refine OnNext.next ?_ | refine OnOk.ok ?_ | exact OnOk.error | refine OnSome.some ?_ | exact OnSome.none | refine OnSomeOf.some ?_ | exact OnSomeOf.none | refine OnOkOf.ok ?_ | exact OnOkOf.error | refine act_keeps ?_ ?_ | refine live_keeps ?_ ?_ | refine keep_ite (P := OnNext (Keeps μ σ)) ?_ ?_ | refine keep_ite (P := Keeps μ σ) ?_ ?_ | refine keep_ite (P := OnOk (Keeps μ σ)) ?_ ?_ | intro _ | split | dsimp only

theorem execCompare_keeps {μ : Nat} {σ : State} {sq : Nat} {cid : Nat} {nsid : Nat} {slba : Nat} {pi : PiCheck} {data : List Bytes} {reads : List SectorRead} {s : State} (hK : Keeps μ σ s)
    (hm : Sub 0x4280000002c06a0006 μ := by first | assumption | exact Sub.of ‹Sub _ _› ⟨by decide +kernel⟩) :
    OnNext (Keeps μ σ) (execCompare sq cid nsid slba pi data reads s) := by
  unfold execCompare
  try dsimp only
  repeat' with_reducible first | assumption | refine nvme_keeps ?_ ?_ | refine ioRead_keeps ?_ ?_ | refine complete_keeps ?_ | refine OnNext.next ?_ | refine OnOk.ok ?_ | exact OnOk.error | refine OnSome.some ?_ | exact OnSome.none | refine OnSomeOf.some ?_ | exact OnSomeOf.none | refine OnOkOf.ok ?_ | exact OnOkOf.error | refine act_keeps ?_ ?_ | refine live_keeps ?_ ?_ | refine keep_ite (P := OnNext (Keeps μ σ)) ?_ ?_ | refine keep_ite (P := Keeps μ σ) ?_ ?_ | refine keep_ite (P := OnOk (Keeps μ σ)) ?_ ?_ | intro _ | split | dsimp only

theorem ioDiscard_keeps {μ : Nat} {σ : State} {s : State} {q : Nat} {cid : Nat} {nsid : Nat} {opcode : Nat} {ranges : List (Nat × Nat)} (hK : Keeps μ σ s)
    (hm : Sub 0x200000000000080000000006a0010 μ := by first | assumption | exact Sub.of ‹Sub _ _› ⟨by decide +kernel⟩) :
    Keeps μ σ (State.ioDiscard s q cid nsid opcode ranges) := by
  unfold State.ioDiscard
  try dsimp only
  repeat' with_reducible first | assumption | refine complete_keeps ?_ | refine dispatch_keeps ?_ | refine discardRange_keeps ?_ | refine hostRecord_keeps ?_ | refine keep_ite (P := Keeps μ σ) ?_ ?_ | refine keep_foldl (P := Keeps μ σ) ?_ ?_ | refine OnOk.ok ?_ | exact OnOk.error | refine keep_ite (P := OnOk (Keeps μ σ)) ?_ ?_ | intro _ | split | dsimp only | refine keep_of_ok ‹_› ?_

theorem execWriteZeroes_keeps {μ : Nat} {σ : State} {sq : Nat} {cid : Nat} {nsid : Nat} {slba : Nat} {count : Nat} {s : State} (hK : Keeps μ σ s)
    (hm : Sub 0x200000000008a80000000006a0010 μ := by first | assumption | exact Sub.of ‹Sub _ _› ⟨by decide +kernel⟩) :
    OnNext (Keeps μ σ) (execWriteZeroes sq cid nsid slba count s) := by
  unfold execWriteZeroes
  try dsimp only
  repeat' with_reducible first | assumption | refine nvme_keeps ?_ ?_ | refine ioDiscard_keeps ?_ | refine yardRegs_keeps ?_ | refine OnNext.next ?_ | refine OnOk.ok ?_ | exact OnOk.error | refine OnSome.some ?_ | exact OnSome.none | refine OnSomeOf.some ?_ | exact OnSomeOf.none | refine OnOkOf.ok ?_ | exact OnOkOf.error | refine act_keeps ?_ ?_ | refine live_keeps ?_ ?_ | refine keep_ite (P := OnNext (Keeps μ σ)) ?_ ?_ | refine keep_ite (P := Keeps μ σ) ?_ ?_ | refine keep_ite (P := OnOk (Keeps μ σ)) ?_ ?_ | intro _ | split | dsimp only

theorem execDatasetManagement_keeps {μ : Nat} {σ : State} {sq : Nat} {cid : Nat} {nsid : Nat} {deallocate : Bool} {ranges : List (Nat × Nat)} {s : State} (hK : Keeps μ σ s)
    (hm : Sub 0x200000000008a80000000006a0010 μ := by first | assumption | exact Sub.of ‹Sub _ _› ⟨by decide +kernel⟩) :
    OnNext (Keeps μ σ) (execDatasetManagement sq cid nsid deallocate ranges s) := by
  unfold execDatasetManagement
  try dsimp only
  repeat' with_reducible first | assumption | refine nvme_keeps ?_ ?_ | refine ioDiscard_keeps ?_ | refine yardRegs_keeps ?_ | refine complete_keeps ?_ | refine OnNext.next ?_ | refine OnOk.ok ?_ | exact OnOk.error | refine OnSome.some ?_ | exact OnSome.none | refine OnSomeOf.some ?_ | exact OnSomeOf.none | refine OnOkOf.ok ?_ | exact OnOkOf.error | refine act_keeps ?_ ?_ | refine live_keeps ?_ ?_ | refine keep_ite (P := OnNext (Keeps μ σ)) ?_ ?_ | refine keep_ite (P := Keeps μ σ) ?_ ?_ | refine keep_ite (P := OnOk (Keeps μ σ)) ?_ ?_ | intro _ | split | dsimp only

theorem execInvalidCommandOpcode_keeps {μ : Nat} {σ : State} {sq : Nat} {cid : Nat} {_opcode : Nat} {s : State} (hK : Keeps μ σ s)
    (hm : Sub 0x8000000000680000 μ := by first | assumption | exact Sub.of ‹Sub _ _› ⟨by decide +kernel⟩) :
    OnNext (Keeps μ σ) (execInvalidCommandOpcode sq cid _opcode s) := by
  unfold execInvalidCommandOpcode
  try dsimp only
  repeat' with_reducible first | assumption | refine nvme_keeps ?_ ?_ | refine complete_keeps ?_ | refine OnNext.next ?_ | refine OnOk.ok ?_ | exact OnOk.error | refine OnSome.some ?_ | exact OnSome.none | refine OnSomeOf.some ?_ | exact OnSomeOf.none | refine OnOkOf.ok ?_ | exact OnOkOf.error | refine act_keeps ?_ ?_ | refine live_keeps ?_ ?_ | refine keep_ite (P := OnNext (Keeps μ σ)) ?_ ?_ | refine keep_ite (P := Keeps μ σ) ?_ ?_ | refine keep_ite (P := OnOk (Keeps μ σ)) ?_ ?_ | intro _ | split | dsimp only

theorem nvmeReset_keeps {μ : Nat} {σ : State} {s : State} (hK : Keeps μ σ s)
    (hm : Sub 0x80000 μ := by first | assumption | exact Sub.of ‹Sub _ _› ⟨by decide +kernel⟩) :
    Keeps μ σ (State.nvmeReset s) := by
  unfold State.nvmeReset
  try dsimp only
  repeat' with_reducible first | assumption | refine endTest_keeps ?_ | refine putLanding_keeps ?_ | refine keep_ite (P := Keeps μ σ) ?_ ?_ | refine OnOk.ok ?_ | exact OnOk.error | refine keep_ite (P := OnOk (Keeps μ σ)) ?_ ?_ | intro _ | split | dsimp only

theorem execControllerReset_keeps {μ : Nat} {σ : State} {s : State} (hK : Keeps μ σ s)
    (hm : Sub 0x80000 μ := by first | assumption | exact Sub.of ‹Sub _ _› ⟨by decide +kernel⟩) :
    OnNext (Keeps μ σ) (execControllerReset s) := by
  unfold execControllerReset
  try dsimp only
  repeat' with_reducible first | assumption | refine nvmeReset_keeps ?_ | refine OnNext.next ?_ | refine OnOk.ok ?_ | exact OnOk.error | refine OnSome.some ?_ | exact OnSome.none | refine OnSomeOf.some ?_ | exact OnSomeOf.none | refine OnOkOf.ok ?_ | exact OnOkOf.error | refine act_keeps ?_ ?_ | refine live_keeps ?_ ?_ | refine keep_ite (P := OnNext (Keeps μ σ)) ?_ ?_ | refine keep_ite (P := Keeps μ σ) ?_ ?_ | refine keep_ite (P := OnOk (Keeps μ σ)) ?_ ?_ | intro _ | split | dsimp only

theorem landPowerFail_keeps {μ : Nat} {σ : State} {s : State} (hK : Keeps μ σ s)
    (hm : Sub 0x8000000000680000 μ := by first | assumption | exact Sub.of ‹Sub _ _› ⟨by decide +kernel⟩) :
    Keeps μ σ (State.landPowerFail s) := by
  unfold State.landPowerFail
  try dsimp only
  repeat' with_reducible first | assumption | refine endFetched_keeps ?_ | refine keep_ite (P := Keeps μ σ) ?_ ?_ | refine OnOk.ok ?_ | exact OnOk.error | refine keep_ite (P := OnOk (Keeps μ σ)) ?_ ?_ | intro _ | split | dsimp only

end Sys2Proof.Laws
end

