-- ==== Sys2Proof/Laws/KeepPush.lean ====
section
/-! SUPPORT. What each operation of Machine/Push.lean changes: outside the zones of its mask it keeps everything, and it
keeps the invariant. -/
namespace Sys2Proof.Laws
open Sys2Proof.Machine
set_option Elab.async false
set_option linter.unreachableTactic false
set_option linter.unusedTactic false

theorem putPort_keeps {μ : Nat} {σ : State} {s : State} {x : PushPort} (hK : Keeps μ σ s)
    (hm : Sub 0x80000 μ := by first | assumption | exact Sub.of ‹Sub _ _› ⟨by decide +kernel⟩) :
    Keeps μ σ (State.putPort s x) := by
  unfold State.putPort
  try dsimp only
  repeat' with_reducible first | assumption | refine putLanding_keeps ?_ | refine keep_ite (P := Keeps μ σ) ?_ ?_ | refine OnOk.ok ?_ | exact OnOk.error | refine keep_ite (P := OnOk (Keeps μ σ)) ?_ ?_ | intro _ | split | dsimp only

theorem pshDiscard_keeps {μ : Nat} {σ : State} {s : State} {x : PushPort} {n : Nat} (hK : Keeps μ σ s)
    (hm : Sub 0x10000000000080000 μ := by first | assumption | exact Sub.of ‹Sub _ _› ⟨by decide +kernel⟩) :
    Keeps μ σ (State.pshDiscard s x n) := by
  unfold State.pshDiscard
  try dsimp only
  repeat' with_reducible first | assumption | refine putPort_keeps ?_ | refine add_keeps ?_ | refine keep_ite (P := Keeps μ σ) ?_ ?_ | refine OnOk.ok ?_ | exact OnOk.error | refine keep_ite (P := OnOk (Keeps μ σ)) ?_ ?_ | intro _ | split | dsimp only

theorem itemDone_keeps {μ : Nat} {σ : State} {s : State} {p : Nat} {status : Nat} {detail : Nat} (hK : Keeps μ σ s)
    (hm : Sub 0x10000000000680000 μ := by first | assumption | exact Sub.of ‹Sub _ _› ⟨by decide +kernel⟩) :
    Keeps μ σ (State.itemDone s p status detail) := by
  unfold State.itemDone
  try dsimp only
  repeat' with_reducible first | assumption | refine putPort_keeps ?_ | refine bump_keeps ?_ | refine emit_keeps ?_ | refine ends_keeps ?_ | refine keep_ite (P := Keeps μ σ) ?_ ?_ | refine OnOk.ok ?_ | exact OnOk.error | refine keep_ite (P := OnOk (Keeps μ σ)) ?_ ?_ | intro _ | split | dsimp only

theorem portAdvance_keeps {μ : Nat} {σ : State} {s : State} {p : Nat} {x0 : Nat} (hK : Keeps μ σ s)
    (hm : Sub 0x10000000000680000 μ := by first | assumption | exact Sub.of ‹Sub _ _› ⟨by decide +kernel⟩) :
    Keeps μ σ (State.portAdvance s p x0) := by
  induction x0 generalizing s p with
  | zero =>
    unfold State.portAdvance
    try dsimp only
    repeat' with_reducible first | assumption | refine itemDone_keeps ?_ | refine keep_ite (P := Keeps μ σ) ?_ ?_ | refine OnOk.ok ?_ | exact OnOk.error | refine keep_ite (P := OnOk (Keeps μ σ)) ?_ ?_ | intro _ | split | dsimp only
  | succ n ih =>
    unfold State.portAdvance
    try dsimp only
    repeat' with_reducible first | assumption | refine ih ?_ | refine itemDone_keeps ?_ | refine keep_ite (P := Keeps μ σ) ?_ ?_ | refine OnOk.ok ?_ | exact OnOk.error | refine keep_ite (P := OnOk (Keeps μ σ)) ?_ ?_ | intro _ | split | dsimp only

theorem itemComplete_keeps {μ : Nat} {σ : State} {s : State} {p : Nat} {words : List Nat} (hK : Keeps μ σ s)
    (hm : Sub 0x20000000000010000000000680010 μ := by first | assumption | exact Sub.of ‹Sub _ _› ⟨by decide +kernel⟩) :
    Keeps μ σ (State.itemComplete s p words) := by
  unfold State.itemComplete
  try dsimp only
  repeat' with_reducible first | assumption | refine journal_keeps ?_ | refine putPort_keeps ?_ | refine portAdvance_keeps ?_ | refine pshDiscard_keeps ?_ | refine keep_ite (P := Keeps μ σ) ?_ ?_ | refine OnOk.ok ?_ | exact OnOk.error | refine keep_ite (P := OnOk (Keeps μ σ)) ?_ ?_ | intro _ | split | dsimp only

theorem drain_keeps {μ : Nat} {σ : State} {s : State} {x : PushPort} {code : Nat} {more : Nat} (hK : Keeps μ σ s)
    (hm : Sub 0x10000000000080000 μ := by first | assumption | exact Sub.of ‹Sub _ _› ⟨by decide +kernel⟩) :
    Keeps μ σ (State.drain s x code more) := by
  unfold State.drain
  try dsimp only
  repeat' with_reducible first | assumption | refine pshDiscard_keeps ?_ | refine keep_ite (P := Keeps μ σ) ?_ ?_ | refine OnOk.ok ?_ | exact OnOk.error | refine keep_ite (P := OnOk (Keeps μ σ)) ?_ ?_ | intro _ | split | dsimp only

theorem beginItem_keeps {μ : Nat} {σ : State} {s : State} {x : PushPort} {w : Nat} (hK : Keeps μ σ s)
    (hm : Sub 0x20000000000010000000000680010 μ := by first | assumption | exact Sub.of ‹Sub _ _› ⟨by decide +kernel⟩) :
    Keeps μ σ (State.beginItem s x w) := by
  unfold State.beginItem
  try dsimp only
  repeat' with_reducible first | assumption | refine drain_keeps ?_ | refine bump_keeps ?_ | refine putPort_keeps ?_ | refine itemComplete_keeps ?_ | refine keep_ite (P := Keeps μ σ) ?_ ?_ | refine OnOk.ok ?_ | exact OnOk.error | refine keep_ite (P := OnOk (Keeps μ σ)) ?_ ?_ | intro _ | split | dsimp only

theorem pshFirst_keeps {μ : Nat} {σ : State} {s : State} {p : Nat} {w : Nat} {wide : Bool} (hK : Keeps μ σ s)
    (hm : Sub 0x20000000000010000000000680010 μ := by first | assumption | exact Sub.of ‹Sub _ _› ⟨by decide +kernel⟩) :
    Keeps μ σ (State.pshFirst s p w wide) := by
  unfold State.pshFirst
  try dsimp only
  repeat' with_reducible first | assumption | refine pshDiscard_keeps ?_ | refine drain_keeps ?_ | refine bump_keeps ?_ | refine beginItem_keeps ?_ | refine keep_ite (P := Keeps μ σ) ?_ ?_ | refine OnOk.ok ?_ | exact OnOk.error | refine keep_ite (P := OnOk (Keeps μ σ)) ?_ ?_ | intro _ | split | dsimp only

theorem pshPush_keeps {μ : Nat} {σ : State} {s : State} {p : Nat} {w : Nat} {wide : Bool} (hK : Keeps μ σ s)
    (hm : Sub 0x20000000000010000000000680010 μ := by first | assumption | exact Sub.of ‹Sub _ _› ⟨by decide +kernel⟩) :
    Keeps μ σ (State.pshPush s p w wide) := by
  unfold State.pshPush
  try dsimp only
  repeat' with_reducible first | assumption | refine pshDiscard_keeps ?_ | refine drain_keeps ?_ | refine bump_keeps ?_ | refine putPort_keeps ?_ | refine itemComplete_keeps ?_ | refine keep_ite (P := Keeps μ σ) ?_ ?_ | refine OnOk.ok ?_ | exact OnOk.error | refine keep_ite (P := OnOk (Keeps μ σ)) ?_ ?_ | intro _ | split | dsimp only

theorem execPshFirst_keeps {μ : Nat} {σ : State} {port : Nat} {word : Nat} {wide : Bool} {s : State} (hK : Keeps μ σ s)
    (hm : Sub 0x20000000000010000000000680010 μ := by first | assumption | exact Sub.of ‹Sub _ _› ⟨by decide +kernel⟩) :
    OnNext (Keeps μ σ) (execPshFirst port word wide s) := by
  unfold execPshFirst
  try dsimp only
  repeat' with_reducible first | assumption | refine pshFirst_keeps ?_ | refine OnNext.next ?_ | refine OnOk.ok ?_ | exact OnOk.error | refine OnSome.some ?_ | exact OnSome.none | refine OnSomeOf.some ?_ | exact OnSomeOf.none | refine OnOkOf.ok ?_ | exact OnOkOf.error | refine act_keeps ?_ ?_ | refine live_keeps ?_ ?_ | refine keep_ite (P := OnNext (Keeps μ σ)) ?_ ?_ | refine keep_ite (P := Keeps μ σ) ?_ ?_ | refine keep_ite (P := OnOk (Keeps μ σ)) ?_ ?_ | intro _ | split | dsimp only

theorem execPshPush_keeps {μ : Nat} {σ : State} {port : Nat} {word : Nat} {wide : Bool} {s : State} (hK : Keeps μ σ s)
    (hm : Sub 0x20000000000010000000000680010 μ := by first | assumption | exact Sub.of ‹Sub _ _› ⟨by decide +kernel⟩) :
    OnNext (Keeps μ σ) (execPshPush port word wide s) := by
  unfold execPshPush
  try dsimp only
  repeat' with_reducible first | assumption | refine pshPush_keeps ?_ | refine OnNext.next ?_ | refine OnOk.ok ?_ | exact OnOk.error | refine OnSome.some ?_ | exact OnSome.none | refine OnSomeOf.some ?_ | exact OnSomeOf.none | refine OnOkOf.ok ?_ | exact OnOkOf.error | refine act_keeps ?_ ?_ | refine live_keeps ?_ ?_ | refine keep_ite (P := OnNext (Keeps μ σ)) ?_ ?_ | refine keep_ite (P := Keeps μ σ) ?_ ?_ | refine keep_ite (P := OnOk (Keeps μ σ)) ?_ ?_ | intro _ | split | dsimp only

theorem execPshFlush_keeps {μ : Nat} {σ : State} {port : Nat} {s : State} (hK : Keeps μ σ s)
    (hm : Sub 0x10000000000080000 μ := by first | assumption | exact Sub.of ‹Sub _ _› ⟨by decide +kernel⟩) :
    OnNext (Keeps μ σ) (execPshFlush port s) := by
  unfold execPshFlush
  try dsimp only
  repeat' with_reducible first | assumption | refine drain_keeps ?_ | refine bump_keeps ?_ | refine OnNext.next ?_ | refine OnOk.ok ?_ | exact OnOk.error | refine OnSome.some ?_ | exact OnSome.none | refine OnSomeOf.some ?_ | exact OnSomeOf.none | refine OnOkOf.ok ?_ | exact OnOkOf.error | refine act_keeps ?_ ?_ | refine live_keeps ?_ ?_ | refine keep_ite (P := OnNext (Keeps μ σ)) ?_ ?_ | refine keep_ite (P := Keeps μ σ) ?_ ?_ | refine keep_ite (P := OnOk (Keeps μ σ)) ?_ ?_ | intro _ | split | dsimp only

theorem execPshStatusRead_keeps {μ : Nat} {σ : State} {port : Nat} {s : State} (hK : Keeps μ σ s)
    (hm : Sub 0x280000 μ := by first | assumption | exact Sub.of ‹Sub _ _› ⟨by decide +kernel⟩) :
    OnNext (Keeps μ σ) (execPshStatusRead port s) := by
  unfold execPshStatusRead
  try dsimp only
  repeat' with_reducible first | assumption | refine emit_keeps ?_ | refine putPort_keeps ?_ | refine OnNext.next ?_ | refine OnOk.ok ?_ | exact OnOk.error | refine OnSome.some ?_ | exact OnSome.none | refine OnSomeOf.some ?_ | exact OnSomeOf.none | refine OnOkOf.ok ?_ | exact OnOkOf.error | refine act_keeps ?_ ?_ | refine live_keeps ?_ ?_ | refine keep_ite (P := OnNext (Keeps μ σ)) ?_ ?_ | refine keep_ite (P := Keeps μ σ) ?_ ?_ | refine keep_ite (P := OnOk (Keeps μ σ)) ?_ ?_ | intro _ | split | dsimp only

theorem execPshCqHead_keeps {μ : Nat} {σ : State} {port : Nat} {head : Nat} {s : State} (hK : Keeps μ σ s)
    (hm : Sub 0x10000000000680000 μ := by first | assumption | exact Sub.of ‹Sub _ _› ⟨by decide +kernel⟩) :
    OnNext (Keeps μ σ) (execPshCqHead port head s) := by
  unfold execPshCqHead
  try dsimp only
  repeat' with_reducible first | assumption | refine putPort_keeps ?_ | refine portAdvance_keeps ?_ | refine OnNext.next ?_ | refine OnOk.ok ?_ | exact OnOk.error | refine OnSome.some ?_ | exact OnSome.none | refine OnSomeOf.some ?_ | exact OnSomeOf.none | refine OnOkOf.ok ?_ | exact OnOkOf.error | refine act_keeps ?_ ?_ | refine live_keeps ?_ ?_ | refine keep_ite (P := OnNext (Keeps μ σ)) ?_ ?_ | refine keep_ite (P := Keeps μ σ) ?_ ?_ | refine keep_ite (P := OnOk (Keeps μ σ)) ?_ ?_ | intro _ | split | dsimp only

theorem portEnable_keeps {μ : Nat} {σ : State} {s : State} {p : Nat} {v : Nat} (hK : Keeps μ σ s)
    (hm : Sub 0x10000000000080000 μ := by first | assumption | exact Sub.of ‹Sub _ _› ⟨by decide +kernel⟩) :
    Keeps μ σ (State.portEnable s p v) := by
  unfold State.portEnable
  try dsimp only
  repeat' with_reducible first | assumption | refine putPort_keeps ?_ | refine setN_keeps ?_ | refine keep_ite (P := Keeps μ σ) ?_ ?_ | refine OnOk.ok ?_ | exact OnOk.error | refine keep_ite (P := OnOk (Keeps μ σ)) ?_ ?_ | intro _ | split | dsimp only

theorem itemEnd_keeps {μ : Nat} {σ : State} {s : State} {p : Nat} {status : Nat} {detail : Nat} (hK : Keeps μ σ s)
    (hm : Sub 0x10000000000680000 μ := by first | assumption | exact Sub.of ‹Sub _ _› ⟨by decide +kernel⟩) :
    Keeps μ σ (State.itemEnd s p status detail) := by
  unfold State.itemEnd
  try dsimp only
  repeat' with_reducible first | assumption | refine itemDone_keeps ?_ | refine portAdvance_keeps ?_ | refine keep_ite (P := Keeps μ σ) ?_ ?_ | refine OnOk.ok ?_ | exact OnOk.error | refine keep_ite (P := OnOk (Keeps μ σ)) ?_ ?_ | intro _ | split | dsimp only

theorem execShardOpen_keeps {μ : Nat} {σ : State} {port : Nat} {refusing : List Nat} {s : State} (hK : Keeps μ σ s)
    (hm : Sub 0x8b00000000006a0000 μ := by first | assumption | exact Sub.of ‹Sub _ _› ⟨by decide +kernel⟩) :
    OnNext (Keeps μ σ) (execShardOpen port refusing s) := by
  unfold execShardOpen
  try dsimp only
  repeat' with_reducible first | assumption | refine itemEnd_keeps ?_ | refine createShard_keeps ?_ | refine keep_of_ok ‹_› (createShard_keeps ?_) | refine yardRegs_keeps ?_ | refine OnNext.next ?_ | refine OnOk.ok ?_ | exact OnOk.error | refine OnSome.some ?_ | exact OnSome.none | refine OnSomeOf.some ?_ | exact OnSomeOf.none | refine OnOkOf.ok ?_ | exact OnOkOf.error | refine act_keeps ?_ ?_ | refine live_keeps ?_ ?_ | refine keep_ite (P := OnNext (Keeps μ σ)) ?_ ?_ | refine keep_ite (P := Keeps μ σ) ?_ ?_ | refine keep_ite (P := OnOk (Keeps μ σ)) ?_ ?_ | intro _ | split | dsimp only | refine keep_of_ok ‹_› ?_

theorem ingest_keeps {μ : Nat} {σ : State} {s : State} {id : Nat} {media : Nat} {kind : Nat} {source : Nat} {meta_ : Bytes} {content : Bytes} {digest : Bytes} {remote : Bool} (hK : Keeps μ σ s)
    (hm : Sub 0x20000000000808000000000221010 μ := by first | assumption | exact Sub.of ‹Sub _ _› ⟨by decide +kernel⟩) :
    Keeps μ σ (State.ingest s id media kind source meta_ content digest remote).2.2 := by
  unfold State.ingest
  try dsimp only
  repeat' with_reducible first | assumption | refine bump_keeps ?_ | refine ownerAppend_keeps ?_ | refine keep_of_ok ‹_› (ownerAppend_keeps ?_) | refine catalogue_keeps ?_ | refine journal_keeps ?_ | refine keep_ite (P := Keeps μ σ) ?_ ?_ | refine OnOk.ok ?_ | exact OnOk.error | refine keep_ite (P := OnOk (Keeps μ σ)) ?_ ?_ | intro _ | split | dsimp only | refine keep_of_ok ‹_› ?_

theorem nsBytes_keeps {μ : Nat} {σ : State} {s : State} {v : YVolume} {slba : Nat} {len : Nat} {reads : List SectorRead} (hK : Keeps μ σ s)
    (hm : Sub 0x4200000002c0020006 μ := by first | assumption | exact Sub.of ‹Sub _ _› ⟨by decide +kernel⟩) :
    Keeps μ σ (State.nsBytes s v slba len reads).2 := by
  unfold State.nsBytes
  try dsimp only
  repeat' with_reducible first | assumption | refine readRun_keeps ?_ | refine keep_of_snd ‹_› (readRun_keeps ?_) | refine keep_ite (P := Keeps μ σ) ?_ ?_ | refine OnOk.ok ?_ | exact OnOk.error | refine keep_ite (P := OnOk (Keeps μ σ)) ?_ ?_ | intro _ | split | dsimp only

theorem execIngestNs_keeps {μ : Nat} {σ : State} {port : Nat} {reads : List SectorRead} {s : State} (hK : Keeps μ σ s)
    (hm : Sub 0x20000000000cb80000002c06a1016 μ := by first | assumption | exact Sub.of ‹Sub _ _› ⟨by decide +kernel⟩) :
    OnNext (Keeps μ σ) (execIngestNs port reads s) := by
  unfold execIngestNs
  try dsimp only
  repeat' with_reducible first | assumption | refine itemEnd_keeps ?_ | refine bump_keeps ?_ | refine nsBytes_keeps ?_ | refine keep_of_snd ‹_› (nsBytes_keeps ?_) | refine ingest_keeps ?_ | refine keep_of_snd2 ‹_› (ingest_keeps ?_) | refine yardRegs_keeps ?_ | refine OnNext.next ?_ | refine OnOk.ok ?_ | exact OnOk.error | refine OnSome.some ?_ | exact OnSome.none | refine OnSomeOf.some ?_ | exact OnSomeOf.none | refine OnOkOf.ok ?_ | exact OnOkOf.error | refine act_keeps ?_ ?_ | refine live_keeps ?_ ?_ | refine keep_ite (P := OnNext (Keeps μ σ)) ?_ ?_ | refine keep_ite (P := Keeps μ σ) ?_ ?_ | refine keep_ite (P := OnOk (Keeps μ σ)) ?_ ?_ | intro _ | split | dsimp only

theorem execShardSeal_keeps {μ : Nat} {σ : State} {port : Nat} {s : State} (hK : Keeps μ σ s)
    (hm : Sub 0x8b00000000c06a0006 μ := by first | assumption | exact Sub.of ‹Sub _ _› ⟨by decide +kernel⟩) :
    OnNext (Keeps μ σ) (execShardSeal port s) := by
  unfold execShardSeal
  try dsimp only
  repeat' with_reducible first | assumption | refine itemEnd_keeps ?_ | refine sealShard_keeps ?_ | refine keep_of_ok ‹_› (sealShard_keeps ?_) | refine putPort_keeps ?_ | refine yardRegs_keeps ?_ | refine OnNext.next ?_ | refine OnOk.ok ?_ | exact OnOk.error | refine OnSome.some ?_ | exact OnSome.none | refine OnSomeOf.some ?_ | exact OnSomeOf.none | refine OnOkOf.ok ?_ | exact OnOkOf.error | refine act_keeps ?_ ?_ | refine live_keeps ?_ ?_ | refine keep_ite (P := OnNext (Keeps μ σ)) ?_ ?_ | refine keep_ite (P := Keeps μ σ) ?_ ?_ | refine keep_ite (P := OnOk (Keeps μ σ)) ?_ ?_ | intro _ | split | dsimp only | refine keep_of_ok ‹_› ?_

theorem execShardDelete_keeps {μ : Nat} {σ : State} {port : Nat} {s : State} (hK : Keeps μ σ s)
    (hm : Sub 0x8b00000000006a0000 μ := by first | assumption | exact Sub.of ‹Sub _ _› ⟨by decide +kernel⟩) :
    OnNext (Keeps μ σ) (execShardDelete port s) := by
  unfold execShardDelete
  try dsimp only
  repeat' with_reducible first | assumption | refine itemEnd_keeps ?_ | refine deleteShard_keeps ?_ | refine yardRegs_keeps ?_ | refine OnNext.next ?_ | refine OnOk.ok ?_ | exact OnOk.error | refine OnSome.some ?_ | exact OnSome.none | refine OnSomeOf.some ?_ | exact OnSomeOf.none | refine OnOkOf.ok ?_ | exact OnOkOf.error | refine act_keeps ?_ ?_ | refine live_keeps ?_ ?_ | refine keep_ite (P := OnNext (Keeps μ σ)) ?_ ?_ | refine keep_ite (P := Keeps μ σ) ?_ ?_ | refine keep_ite (P := OnOk (Keeps μ σ)) ?_ ?_ | intro _ | split | dsimp only

theorem execContextMsg_keeps {μ : Nat} {σ : State} {port : Nat} {s : State} (hK : Keeps μ σ s)
    (hm : Sub 0x10000000000680000 μ := by first | assumption | exact Sub.of ‹Sub _ _› ⟨by decide +kernel⟩) :
    OnNext (Keeps μ σ) (execContextMsg port s) := by
  unfold execContextMsg
  try dsimp only
  repeat' with_reducible first | assumption | refine putLanding_keeps ?_ | refine itemEnd_keeps ?_ | refine OnNext.next ?_ | refine OnOk.ok ?_ | exact OnOk.error | refine OnSome.some ?_ | exact OnSome.none | refine OnSomeOf.some ?_ | exact OnSomeOf.none | refine OnOkOf.ok ?_ | exact OnOkOf.error | refine act_keeps ?_ ?_ | refine live_keeps ?_ ?_ | refine keep_ite (P := OnNext (Keeps μ σ)) ?_ ?_ | refine keep_ite (P := Keeps μ σ) ?_ ?_ | refine keep_ite (P := OnOk (Keeps μ σ)) ?_ ?_ | intro _ | split | dsimp only

theorem remoteIngest_keeps {μ : Nat} {σ : State} {s : State} {source : Nat} {m : Bytes} (hK : Keeps μ σ s)
    (hm : Sub 0x200000000008a8000000000621010 μ := by first | assumption | exact Sub.of ‹Sub _ _› ⟨by decide +kernel⟩) :
    Keeps μ σ (State.remoteIngest s source m) := by
  unfold State.remoteIngest
  try dsimp only
  repeat' with_reducible first | assumption | refine ends_keeps ?_ | refine emit_keeps ?_ | refine bump_keeps ?_ | refine ingest_keeps ?_ | refine keep_of_snd2 ‹_› (ingest_keeps ?_) | refine yardRegs_keeps ?_ | refine keep_ite (P := Keeps μ σ) ?_ ?_ | refine OnOk.ok ?_ | exact OnOk.error | refine keep_ite (P := OnOk (Keeps μ σ)) ?_ ?_ | intro _ | split | dsimp only

theorem execRemoteIngest_keeps {μ : Nat} {σ : State} {source : Nat} {message : Bytes} {s : State} (hK : Keeps μ σ s)
    (hm : Sub 0x200000000008a8000000000621010 μ := by first | assumption | exact Sub.of ‹Sub _ _› ⟨by decide +kernel⟩) :
    OnNext (Keeps μ σ) (execRemoteIngest source message s) := by
  unfold execRemoteIngest
  try dsimp only
  repeat' with_reducible first | assumption | refine remoteIngest_keeps ?_ | refine OnNext.next ?_ | refine OnOk.ok ?_ | exact OnOk.error | refine OnSome.some ?_ | exact OnSome.none | refine OnSomeOf.some ?_ | exact OnSomeOf.none | refine OnOkOf.ok ?_ | exact OnOkOf.error | refine act_keeps ?_ ?_ | refine live_keeps ?_ ?_ | refine keep_ite (P := OnNext (Keeps μ σ)) ?_ ?_ | refine keep_ite (P := Keeps μ σ) ?_ ?_ | refine keep_ite (P := OnOk (Keeps μ σ)) ?_ ?_ | intro _ | split | dsimp only

theorem settleSeals_keeps {μ : Nat} {σ : State} {s : State} (hK : Keeps μ σ s)
    (hm : Sub 0x10000000000680000 μ := by first | assumption | exact Sub.of ‹Sub _ _› ⟨by decide +kernel⟩) :
    Keeps μ σ (State.settleSeals s) := by
  unfold State.settleSeals
  try dsimp only
  repeat' with_reducible first | assumption | refine itemEnd_keeps ?_ | refine keep_ite (P := Keeps μ σ) ?_ ?_ | refine keep_foldl (P := Keeps μ σ) ?_ ?_ | refine OnOk.ok ?_ | exact OnOk.error | refine keep_ite (P := OnOk (Keeps μ σ)) ?_ ?_ | intro _ | split | dsimp only

theorem landSettle_keeps {μ : Nat} {σ : State} {s : State} (hK : Keeps μ σ s)
    (hm : Sub 0x18000000000680000 μ := by first | assumption | exact Sub.of ‹Sub _ _› ⟨by decide +kernel⟩) :
    Keeps μ σ (State.landSettle s) := by
  unfold State.landSettle
  try dsimp only
  repeat' with_reducible first | assumption | refine settleWaits_keeps ?_ | refine settleSeals_keeps ?_ | refine keep_ite (P := Keeps μ σ) ?_ ?_ | refine OnOk.ok ?_ | exact OnOk.error | refine keep_ite (P := OnOk (Keeps μ σ)) ?_ ?_ | intro _ | split | dsimp only

end Sys2Proof.Laws
end

