-- ==== Sys2Proof/Laws/KeepNetOps.lean ====
section
/-! SUPPORT. What each operation of Machine/NetOps.lean changes: outside the zones of its mask it keeps everything, and it
keeps the invariant. -/
namespace Sys2Proof.Laws
open Sys2Proof.Machine
set_option Elab.async false
set_option linter.unreachableTactic false
set_option linter.unusedTactic false

theorem putSkd_keeps {μ : Nat} {σ : State} {s : State} {x : Skidder} (hK : Keeps μ σ s)
    (hm : Sub 0x100000 μ := by first | assumption | exact Sub.of ‹Sub _ _› ⟨by decide +kernel⟩) :
    Keeps μ σ (State.putSkd s x) := by
  unfold State.putSkd
  try dsimp only
  repeat' with_reducible first | assumption | refine keep_ite (P := Keeps μ σ) ?_ ?_ | (refine Keeps.lit (M := 0x100000) ?_; first | assumption | refine keep_ite (P := Keeps μ σ) ?_ ?_) | refine OnOk.ok ?_ | exact OnOk.error | refine keep_ite (P := OnOk (Keeps μ σ)) ?_ ?_ | intro _ | split | dsimp only

theorem putConn_keeps {μ : Nat} {σ : State} {s : State} {c : Conn} (hK : Keeps μ σ s)
    (hm : Sub 0x100000 μ := by first | assumption | exact Sub.of ‹Sub _ _› ⟨by decide +kernel⟩) :
    Keeps μ σ (State.putConn s c) := by
  unfold State.putConn
  try dsimp only
  repeat' with_reducible first | assumption | refine putSkd_keeps ?_ | refine keep_ite (P := Keeps μ σ) ?_ ?_ | refine OnOk.ok ?_ | exact OnOk.error | refine keep_ite (P := OnOk (Keeps μ σ)) ?_ ?_ | intro _ | split | dsimp only

theorem putPortTx_keeps {μ : Nat} {σ : State} {s : State} {p : Nat} {x : PortTx} (hK : Keeps μ σ s)
    (hm : Sub 0x100000 μ := by first | assumption | exact Sub.of ‹Sub _ _› ⟨by decide +kernel⟩) :
    Keeps μ σ (State.putPortTx s p x) := by
  unfold State.putPortTx
  try dsimp only
  repeat' with_reducible first | assumption | refine putSkd_keeps ?_ | refine keep_ite (P := Keeps μ σ) ?_ ?_ | refine OnOk.ok ?_ | exact OnOk.error | refine keep_ite (P := OnOk (Keeps μ σ)) ?_ ?_ | intro _ | split | dsimp only

theorem putPage_keeps {μ : Nat} {σ : State} {s : State} {x : SkdPage} (hK : Keeps μ σ s)
    (hm : Sub 0x100000 μ := by first | assumption | exact Sub.of ‹Sub _ _› ⟨by decide +kernel⟩) :
    Keeps μ σ (State.putPage s x) := by
  unfold State.putPage
  try dsimp only
  repeat' with_reducible first | assumption | refine putSkd_keeps ?_ | refine keep_ite (P := Keeps μ σ) ?_ ?_ | refine OnOk.ok ?_ | exact OnOk.error | refine keep_ite (P := OnOk (Keeps μ σ)) ?_ ?_ | intro _ | split | dsimp only

theorem putWire_keeps {μ : Nat} {σ : State} {s : State} {f : NetFrame} {p : TxPkt} {serial : Nat} (hK : Keeps μ σ s)
    (hm : Sub 0x21000000000000000000000000300000 μ := by first | assumption | exact Sub.of ‹Sub _ _› ⟨by decide +kernel⟩) :
    Keeps μ σ (State.putWire s f p serial) := by
  unfold State.putWire
  try dsimp only
  repeat' with_reducible first | assumption | refine bump_keeps ?_ | refine emit_keeps ?_ | refine putSkd_keeps ?_ | refine keep_ite (P := Keeps μ σ) ?_ ?_ | refine OnOk.ok ?_ | exact OnOk.error | refine keep_ite (P := OnOk (Keeps μ σ)) ?_ ?_ | intro _ | split | dsimp only

theorem rotateEarly_keeps {μ : Nat} {σ : State} {s : State} {c : Conn} (hK : Keeps μ σ s)
    (hm : Sub 0x800000000000000000000000100000 μ := by first | assumption | exact Sub.of ‹Sub _ _› ⟨by decide +kernel⟩) :
    Keeps μ σ (State.rotateEarly s c) := by
  unfold State.rotateEarly
  try dsimp only
  repeat' with_reducible first | assumption | refine bump_keeps ?_ | refine putConn_keeps ?_ | refine keep_ite (P := Keeps μ σ) ?_ ?_ | refine OnOk.ok ?_ | exact OnOk.error | refine keep_ite (P := OnOk (Keeps μ σ)) ?_ ?_ | intro _ | split | dsimp only

theorem roceOut_keeps {μ : Nat} {σ : State} {c : Conn} {p : TxPkt} {s : State} (hK : Keeps μ σ s)
    (hm : Sub 0x1000000000000000000000000200000 μ := by first | assumption | exact Sub.of ‹Sub _ _› ⟨by decide +kernel⟩) :
    Keeps μ σ (State.roceOut c p s) := by
  unfold State.roceOut
  try dsimp only
  repeat' with_reducible first | assumption | refine bump_keeps ?_ | refine emit_keeps ?_ | refine keep_ite (P := Keeps μ σ) ?_ ?_ | refine OnOk.ok ?_ | exact OnOk.error | refine keep_ite (P := OnOk (Keeps μ σ)) ?_ ?_ | intro _ | split | dsimp only

theorem start_keeps {μ : Nat} {σ : State} {s : State} {port : Nat} {p : TxPkt} (hK : Keeps μ σ s)
    (hm : Sub 0x21000000000000000000400000300000 μ := by first | assumption | exact Sub.of ‹Sub _ _› ⟨by decide +kernel⟩) :
    Keeps μ σ (State.start s port p) := by
  unfold State.start
  try dsimp only
  repeat' with_reducible first | assumption | refine putWire_keeps ?_ | refine putConn_keeps ?_ | refine bumpIf_keeps ?_ | refine bump_keeps ?_ | refine putSkd_keeps ?_ | refine roceOut_keeps ?_ | refine keep_ite (P := Keeps μ σ) ?_ ?_ | refine OnOk.ok ?_ | exact OnOk.error | refine keep_ite (P := OnOk (Keeps μ σ)) ?_ ?_ | intro _ | split | dsimp only

theorem transmit_keeps {μ : Nat} {σ : State} {s : State} {port : Nat} {p : TxPkt} (hK : Keeps μ σ s)
    (hm : Sub 0x21800000000000000000400000300000 μ := by first | assumption | exact Sub.of ‹Sub _ _› ⟨by decide +kernel⟩) :
    Keeps μ σ (State.transmit s port p) := by
  unfold State.transmit
  try dsimp only
  repeat' with_reducible first | assumption | refine start_keeps ?_ | refine rotateEarly_keeps ?_ | refine keep_ite (P := Keeps μ σ) ?_ ?_ | refine OnOk.ok ?_ | exact OnOk.error | refine keep_ite (P := OnOk (Keeps μ σ)) ?_ ?_ | intro _ | split | dsimp only

end Sys2Proof.Laws
end

