-- ==== Sys2Proof/Laws/KeepShaper.lean ====
section
/-! SUPPORT. What each operation of Machine/Shaper.lean changes: outside the zones of its mask it keeps everything, and it
keeps the invariant. -/
namespace Sys2Proof.Laws
open Sys2Proof.Machine
set_option Elab.async false
set_option linter.unreachableTactic false
set_option linter.unusedTactic false

theorem putSub_keeps {μ : Nat} {σ : State} {s : State} {x : SubSlot} (hK : Keeps μ σ s)
    (hm : Sub 0x100000 μ := by first | assumption | exact Sub.of ‹Sub _ _› ⟨by decide +kernel⟩) :
    Keeps μ σ (State.putSub s x) := by
  unfold State.putSub
  try dsimp only
  repeat' with_reducible first | assumption | refine putSkd_keeps ?_ | refine keep_ite (P := Keeps μ σ) ?_ ?_ | refine OnOk.ok ?_ | exact OnOk.error | refine keep_ite (P := OnOk (Keeps μ σ)) ?_ ?_ | intro _ | split | dsimp only

theorem subRegs_keeps {μ : Nat} {σ : State} {s : State} (hK : Keeps μ σ s)
    (hm : Sub 0x2000000000000000000000000000000 μ := by first | assumption | exact Sub.of ‹Sub _ _› ⟨by decide +kernel⟩) :
    Keeps μ σ (State.subRegs s) := by
  unfold State.subRegs
  try dsimp only
  repeat' with_reducible first | assumption | refine setN_keeps ?_ | refine keep_ite (P := Keeps μ σ) ?_ ?_ | refine OnOk.ok ?_ | exact OnOk.error | refine keep_ite (P := OnOk (Keeps μ σ)) ?_ ?_ | intro _ | split | dsimp only

theorem pushCtl_keeps {μ : Nat} {σ : State} {s : State} {port : Nat} {p : TxPkt} (hK : Keeps μ σ s)
    (hm : Sub 0x100000 μ := by first | assumption | exact Sub.of ‹Sub _ _› ⟨by decide +kernel⟩) :
    Keeps μ σ (State.pushCtl s port p) := by
  unfold State.pushCtl
  try dsimp only
  repeat' with_reducible first | assumption | refine putPortTx_keeps ?_ | refine keep_ite (P := Keeps μ σ) ?_ ?_ | refine OnOk.ok ?_ | exact OnOk.error | refine keep_ite (P := OnOk (Keeps μ σ)) ?_ ?_ | intro _ | split | dsimp only

theorem pushQueue_keeps {μ : Nat} {σ : State} {s : State} {c : Conn} {p : TxPkt} (hK : Keeps μ σ s)
    (hm : Sub 0x100000 μ := by first | assumption | exact Sub.of ‹Sub _ _› ⟨by decide +kernel⟩) :
    Keeps μ σ (State.pushQueue s c p) := by
  unfold State.pushQueue
  try dsimp only
  repeat' with_reducible first | assumption | refine putPortTx_keeps ?_ | refine putSub_keeps ?_ | refine keep_ite (P := Keeps μ σ) ?_ ?_ | refine OnOk.ok ?_ | exact OnOk.error | refine keep_ite (P := OnOk (Keeps μ σ)) ?_ ?_ | intro _ | split | dsimp only

theorem offer_keeps {μ : Nat} {σ : State} {s : State} {n : Nat} {x0 : Nat} (hK : Keeps μ σ s)
    (hm : Sub 0x100000 μ := by first | assumption | exact Sub.of ‹Sub _ _› ⟨by decide +kernel⟩) :
    Keeps μ σ (State.offer s n x0) := by
  induction x0 generalizing s n with
  | zero =>
    unfold State.offer
    try dsimp only
    repeat' with_reducible first | assumption | refine putConn_keeps ?_ | refine pushQueue_keeps ?_ | refine keep_ite (P := Keeps μ σ) ?_ ?_ | refine OnOk.ok ?_ | exact OnOk.error | refine keep_ite (P := OnOk (Keeps μ σ)) ?_ ?_ | intro _ | split | dsimp only
  | succ n ih =>
    unfold State.offer
    try dsimp only
    repeat' with_reducible first | assumption | refine ih ?_ | refine putConn_keeps ?_ | refine pushQueue_keeps ?_ | refine keep_ite (P := Keeps μ σ) ?_ ?_ | refine OnOk.ok ?_ | exact OnOk.error | refine keep_ite (P := OnOk (Keeps μ σ)) ?_ ?_ | intro _ | split | dsimp only

theorem queuePkts_keeps {μ : Nat} {σ : State} {s : State} {n : Nat} {l : List TxPkt} (hK : Keeps μ σ s)
    (hm : Sub 0x100000 μ := by first | assumption | exact Sub.of ‹Sub _ _› ⟨by decide +kernel⟩) :
    Keeps μ σ (State.queuePkts s n l) := by
  unfold State.queuePkts
  try dsimp only
  repeat' with_reducible first | assumption | refine putConn_keeps ?_ | refine offer_keeps ?_ | refine keep_ite (P := Keeps μ σ) ?_ ?_ | refine OnOk.ok ?_ | exact OnOk.error | refine keep_ite (P := OnOk (Keeps μ σ)) ?_ ?_ | intro _ | split | dsimp only

theorem portRing_keeps {μ : Nat} {σ : State} {s : State} {port : Nat} (hK : Keeps μ σ s)
    (hm : Sub 0x100000 μ := by first | assumption | exact Sub.of ‹Sub _ _› ⟨by decide +kernel⟩) :
    Keeps μ σ (State.portRing s port) := by
  unfold State.portRing
  try dsimp only
  repeat' with_reducible first | assumption | refine putPortTx_keeps ?_ | refine keep_ite (P := Keeps μ σ) ?_ ?_ | refine OnOk.ok ?_ | exact OnOk.error | refine keep_ite (P := OnOk (Keeps μ σ)) ?_ ?_ | intro _ | split | dsimp only

theorem creditRing_keeps {μ : Nat} {σ : State} {s : State} (hK : Keeps μ σ s)
    (hm : Sub 0x100000 μ := by first | assumption | exact Sub.of ‹Sub _ _› ⟨by decide +kernel⟩) :
    Keeps μ σ (State.creditRing s) := by
  unfold State.creditRing
  try dsimp only
  repeat' with_reducible first | assumption | refine putSkd_keeps ?_ | refine portRing_keeps ?_ | refine offer_keeps ?_ | refine keep_ite (P := Keeps μ σ) ?_ ?_ | refine keep_foldl (P := Keeps μ σ) ?_ ?_ | refine OnOk.ok ?_ | exact OnOk.error | refine keep_ite (P := OnOk (Keeps μ σ)) ?_ ?_ | intro _ | split | dsimp only

theorem popSub_keeps {μ : Nat} {σ : State} {s : State} {port : Nat} {v : Nat} {slot : Nat} (hK : Keeps μ σ s)
    (hm : Sub 0x100000 μ := by first | assumption | exact Sub.of ‹Sub _ _› ⟨by decide +kernel⟩) :
    Keeps μ σ (State.popSub s port v slot) := by
  unfold State.popSub
  try dsimp only
  repeat' with_reducible first | assumption | refine putPortTx_keeps ?_ | refine putSub_keeps ?_ | refine keep_ite (P := Keeps μ σ) ?_ ?_ | refine OnOk.ok ?_ | exact OnOk.error | refine keep_ite (P := OnOk (Keeps μ σ)) ?_ ?_ | intro _ | split | dsimp only

theorem chargeSvc_keeps {μ : Nat} {σ : State} {s : State} {port : Nat} {v : Nat} {slot : Nat} {len : Nat} (hK : Keeps μ σ s)
    (hm : Sub 0xa000000000000000000000000100000 μ := by first | assumption | exact Sub.of ‹Sub _ _› ⟨by decide +kernel⟩) :
    Keeps μ σ (State.chargeSvc s port v slot len) := by
  unfold State.chargeSvc
  try dsimp only
  repeat' with_reducible first | assumption | refine putPortTx_keeps ?_ | refine putSub_keeps ?_ | refine add_keeps ?_ | refine keep_ite (P := Keeps μ σ) ?_ ?_ | refine OnOk.ok ?_ | exact OnOk.error | refine keep_ite (P := OnOk (Keeps μ σ)) ?_ ?_ | intro _ | split | dsimp only

theorem startUnsched_keeps {μ : Nat} {σ : State} {s : State} {port : Nat} {from_ : Option (Nat × Nat)} {p : TxPkt} (hK : Keeps μ σ s)
    (hm : Sub 0x2b800000000000000000400000300000 μ := by first | assumption | exact Sub.of ‹Sub _ _› ⟨by decide +kernel⟩) :
    Keeps μ σ (State.startUnsched s port from_ p) := by
  unfold State.startUnsched
  try dsimp only
  repeat' with_reducible first | assumption | refine chargeSvc_keeps ?_ | refine putPortTx_keeps ?_ | refine add_keeps ?_ | refine transmit_keeps ?_ | refine keep_ite (P := Keeps μ σ) ?_ ?_ | refine OnOk.ok ?_ | exact OnOk.error | refine keep_ite (P := OnOk (Keeps μ σ)) ?_ ?_ | intro _ | split | dsimp only

theorem startOrHold_keeps {μ : Nat} {σ : State} {s : State} {port : Nat} {from_ : Option (Nat × Nat)} {p : TxPkt} (hK : Keeps μ σ s)
    (hm : Sub 0x2b800000000000000000400000300000 μ := by first | assumption | exact Sub.of ‹Sub _ _› ⟨by decide +kernel⟩) :
    Keeps μ σ (State.startOrHold s port from_ p) := by
  unfold State.startOrHold
  try dsimp only
  repeat' with_reducible first | assumption | refine startUnsched_keeps ?_ | refine bump_keeps ?_ | refine putPortTx_keeps ?_ | refine keep_ite (P := Keeps μ σ) ?_ ?_ | refine OnOk.ok ?_ | exact OnOk.error | refine keep_ite (P := OnOk (Keeps μ σ)) ?_ ?_ | intro _ | split | dsimp only

theorem egressService_keeps {μ : Nat} {σ : State} {s : State} {port : Nat} (hK : Keeps μ σ s)
    (hm : Sub 0x2b800000000000000000400000300000 μ := by first | assumption | exact Sub.of ‹Sub _ _› ⟨by decide +kernel⟩) :
    Keeps μ σ (State.egressService s port) := by
  unfold State.egressService
  try dsimp only
  repeat' with_reducible first | assumption | refine putPortTx_keeps ?_ | refine popSub_keeps ?_ | refine startOrHold_keeps ?_ | refine keep_ite (P := Keeps μ σ) ?_ ?_ | refine OnOk.ok ?_ | exact OnOk.error | refine keep_ite (P := OnOk (Keeps μ σ)) ?_ ?_ | intro _ | split | dsimp only

theorem egress_keeps {μ : Nat} {σ : State} {s : State} {port : Nat} (hK : Keeps μ σ s)
    (hm : Sub 0x2b800000000000000000400000300000 μ := by first | assumption | exact Sub.of ‹Sub _ _› ⟨by decide +kernel⟩) :
    Keeps μ σ (State.egress s port) := by
  unfold State.egress
  try dsimp only
  repeat' with_reducible first | assumption | refine putPortTx_keeps ?_ | refine transmit_keeps ?_ | refine startUnsched_keeps ?_ | refine startOrHold_keeps ?_ | refine bump_keeps ?_ | refine egressService_keeps ?_ | refine keep_ite (P := Keeps μ σ) ?_ ?_ | refine OnOk.ok ?_ | exact OnOk.error | refine keep_ite (P := OnOk (Keeps μ σ)) ?_ ?_ | intro _ | split | dsimp only

theorem execEgressSelect_keeps {μ : Nat} {σ : State} {port : Nat} {s : State} (hK : Keeps μ σ s)
    (hm : Sub 0x2b800000000000000000400000300000 μ := by first | assumption | exact Sub.of ‹Sub _ _› ⟨by decide +kernel⟩) :
    OnNext (Keeps μ σ) (execEgressSelect port s) := by
  unfold execEgressSelect
  try dsimp only
  repeat' with_reducible first | assumption | refine egress_keeps ?_ | refine OnNext.next ?_ | refine OnOk.ok ?_ | exact OnOk.error | refine OnSome.some ?_ | exact OnSome.none | refine OnSomeOf.some ?_ | exact OnSomeOf.none | refine OnOkOf.ok ?_ | exact OnOkOf.error | refine act_keeps ?_ ?_ | refine live_keeps ?_ ?_ | refine keep_ite (P := OnNext (Keeps μ σ)) ?_ ?_ | refine keep_ite (P := Keeps μ σ) ?_ ?_ | refine keep_ite (P := OnOk (Keeps μ σ)) ?_ ?_ | intro _ | split | dsimp only

theorem bindSub_keeps {μ : Nat} {σ : State} {s : State} {field : Nat} {port : Nat} {service : Nat} {num : Nat} (hK : Keeps μ σ s)
    (hm : Sub 0xa0000000000000000000000c0100006 μ := by first | assumption | exact Sub.of ‹Sub _ _› ⟨by decide +kernel⟩) :
    OnSomeOf (fun x => Keeps μ σ x.2.2) (State.bindSub s field port service num) := by
  unfold State.bindSub
  try dsimp only
  repeat' with_reducible first | assumption | refine putSkd_keeps ?_ | refine bump_keeps ?_ | refine raise_keeps ?_ | refine putSub_keeps ?_ | refine OnNext.next ?_ | refine OnOk.ok ?_ | exact OnOk.error | refine OnSome.some ?_ | exact OnSome.none | refine OnSomeOf.some ?_ | exact OnSomeOf.none | refine OnOkOf.ok ?_ | exact OnOkOf.error | refine act_keeps ?_ ?_ | refine live_keeps ?_ ?_ | refine keep_ite (P := OnSomeOf (fun x => Keeps μ σ x.2.2)) ?_ ?_ | refine keep_ite (P := Keeps μ σ) ?_ ?_ | refine keep_ite (P := OnOk (Keeps μ σ)) ?_ ?_ | intro _ | split | dsimp only

theorem unbind_keeps {μ : Nat} {σ : State} {s : State} {c : Conn} (hK : Keeps μ σ s)
    (hm : Sub 0x2000000000000000000000000100000 μ := by first | assumption | exact Sub.of ‹Sub _ _› ⟨by decide +kernel⟩) :
    Keeps μ σ (State.unbind s c) := by
  unfold State.unbind
  try dsimp only
  repeat' with_reducible first | assumption | refine putSkd_keeps ?_ | refine subRegs_keeps ?_ | refine keep_ite (P := Keeps μ σ) ?_ ?_ | refine OnOk.ok ?_ | exact OnOk.error | refine keep_ite (P := OnOk (Keeps μ σ)) ?_ ?_ | intro _ | split | dsimp only

theorem reserveSubs_keeps {μ : Nat} {σ : State} {s : State} (hK : Keeps μ σ s)
    (hm : Sub 0x2000000000000000000000000100000 μ := by first | assumption | exact Sub.of ‹Sub _ _› ⟨by decide +kernel⟩) :
    Keeps μ σ (State.reserveSubs s) := by
  unfold State.reserveSubs
  try dsimp only
  repeat' with_reducible first | assumption | refine putSkd_keeps ?_ | refine setN_keeps ?_ | refine subRegs_keeps ?_ | refine keep_ite (P := Keeps μ σ) ?_ ?_ | refine OnOk.ok ?_ | exact OnOk.error | refine keep_ite (P := OnOk (Keeps μ σ)) ?_ ?_ | intro _ | split | dsimp only

theorem subConfig_keeps {μ : Nat} {σ : State} {s : State} {v : Bytes} (hK : Keeps μ σ s)
    (hm : Sub 0x2000000000000000000000000100000 μ := by first | assumption | exact Sub.of ‹Sub _ _› ⟨by decide +kernel⟩) :
    OnOk (Keeps μ σ) (State.subConfig s v) := by
  unfold State.subConfig
  try dsimp only
  repeat' with_reducible first | assumption | refine putSkd_keeps ?_ | refine subRegs_keeps ?_ | refine putSub_keeps ?_ | refine OnNext.next ?_ | refine OnOk.ok ?_ | exact OnOk.error | refine OnSome.some ?_ | exact OnSome.none | refine OnSomeOf.some ?_ | exact OnSomeOf.none | refine OnOkOf.ok ?_ | exact OnOkOf.error | refine act_keeps ?_ ?_ | refine live_keeps ?_ ?_ | refine keep_ite (P := OnOk (Keeps μ σ)) ?_ ?_ | refine keep_ite (P := Keeps μ σ) ?_ ?_ | intro _ | split | dsimp only | refine keep_of_ok ‹_› ?_

theorem execSubConfigure_keeps {μ : Nat} {σ : State} {via : Via} {value : Bytes} {s : State} (hK : Keeps μ σ s)
    (hm : Sub 0x20200000000000000000020e070001e μ := by first | assumption | exact Sub.of ‹Sub _ _› ⟨by decide +kernel⟩) :
    OnNext (Keeps μ σ) (execSubConfigure via value s) := by
  unfold execSubConfigure
  try dsimp only
  repeat' with_reducible first | assumption | refine writeVia_keeps ?_ ?_ | refine subConfig_keeps ?_ | refine keep_of_ok ‹_› (subConfig_keeps ?_) | refine OnNext.next ?_ | refine OnOk.ok ?_ | exact OnOk.error | refine OnSome.some ?_ | exact OnSome.none | refine OnSomeOf.some ?_ | exact OnSomeOf.none | refine OnOkOf.ok ?_ | exact OnOkOf.error | refine act_keeps ?_ ?_ | refine live_keeps ?_ ?_ | refine keep_ite (P := OnNext (Keeps μ σ)) ?_ ?_ | refine keep_ite (P := Keeps μ σ) ?_ ?_ | refine keep_ite (P := OnOk (Keeps μ σ)) ?_ ?_ | intro _ | split | dsimp only | refine keep_of_ok ‹_› ?_

theorem execSubRelease_keeps {μ : Nat} {σ : State} {via : Via} {value : Bytes} {s : State} (hK : Keeps μ σ s)
    (hm : Sub 0x20200000000000000000020e070001e μ := by first | assumption | exact Sub.of ‹Sub _ _› ⟨by decide +kernel⟩) :
    OnNext (Keeps μ σ) (execSubRelease via value s) := by
  unfold execSubRelease
  try dsimp only
  repeat' with_reducible first | assumption | refine writeVia_keeps ?_ ?_ | refine subConfig_keeps ?_ | refine keep_of_ok ‹_› (subConfig_keeps ?_) | refine OnNext.next ?_ | refine OnOk.ok ?_ | exact OnOk.error | refine OnSome.some ?_ | exact OnSome.none | refine OnSomeOf.some ?_ | exact OnSomeOf.none | refine OnOkOf.ok ?_ | exact OnOkOf.error | refine act_keeps ?_ ?_ | refine live_keeps ?_ ?_ | refine keep_ite (P := OnNext (Keeps μ σ)) ?_ ?_ | refine keep_ite (P := Keeps μ σ) ?_ ?_ | refine keep_ite (P := OnOk (Keeps μ σ)) ?_ ?_ | intro _ | split | dsimp only | refine keep_of_ok ‹_› ?_

theorem police_keeps {μ : Nat} {σ : State} {s : State} {port v len : Nat} (hK : Keeps μ σ s)
    (hm : Sub 0x8000000000000000000000000100000 μ := by first | assumption | exact Sub.of ‹Sub _ _› ⟨by decide +kernel⟩) :
    Keeps μ σ (State.police s port v len).2 ∧ OnSomeOf (fun x => Keeps μ σ x.2) (State.police s port v len).1 := by
  unfold State.police
  dsimp only
  split
  · exact ⟨hK, OnSomeOf.some (putPortTx_keeps hK)⟩
  · split
    · refine ⟨hK, OnSomeOf.some ?_⟩
      refine bump_keeps ?_
      exact putPortTx_keeps hK
    · refine ⟨?_, OnSomeOf.none⟩
      refine bump_keeps ?_
      exact hK

end Sys2Proof.Laws
end

