-- ==== Sys2Proof/Laws/KeepSkidder.lean ====
section
/-! SUPPORT. What each operation of Machine/Skidder.lean changes: outside the zones of its mask it keeps everything, and it
keeps the invariant. -/
namespace Sys2Proof.Laws
open Sys2Proof.Machine
set_option Elab.async false
set_option linter.unreachableTactic false
set_option linter.unusedTactic false

theorem notice_keeps {μ : Nat} {σ : State} {s : State} {c : Conn} {code : Nat} {body : Bytes} (hK : Keeps μ σ s)
    (hm : Sub 0x100000 μ := by first | assumption | exact Sub.of ‹Sub _ _› ⟨by decide +kernel⟩) :
    Keeps μ σ (State.notice s c code body) := by
  unfold State.notice
  try dsimp only
  repeat' with_reducible first | assumption | refine pushCtl_keeps ?_ | refine keep_ite (P := Keeps μ σ) ?_ ?_ | refine OnOk.ok ?_ | exact OnOk.error | refine keep_ite (P := OnOk (Keeps μ σ)) ?_ ?_ | intro _ | split | dsimp only

theorem transferEnds_keeps {μ : Nat} {σ : State} {s : State} {src : TransferSrc} {tag : Nat} {op : Nat} {status : Nat} (hK : Keeps μ σ s)
    (hm : Sub 0x700000 μ := by first | assumption | exact Sub.of ‹Sub _ _› ⟨by decide +kernel⟩) :
    Keeps μ σ (State.transferEnds s src tag op status) := by
  unfold State.transferEnds
  try dsimp only
  repeat' with_reducible first | assumption | refine putPage_keeps ?_ | refine emit_keeps ?_ | refine ends_keeps ?_ | refine keep_ite (P := Keeps μ σ) ?_ ?_ | refine OnOk.ok ?_ | exact OnOk.error | refine keep_ite (P := OnOk (Keeps μ σ)) ?_ ?_ | intro _ | split | dsimp only

theorem readDone_keeps {μ : Nat} {σ : State} {s : State} {op : NetOp} (hK : Keeps μ σ s)
    (hm : Sub 0x40000000000008000000000000200200 μ := by first | assumption | exact Sub.of ‹Sub _ _› ⟨by decide +kernel⟩) :
    Keeps μ σ (State.readDone s op) := by
  unfold State.readDone
  try dsimp only
  repeat' with_reducible first | assumption | refine emit_keeps ?_ | refine bufWrite_keeps ?_ | refine keep_ite (P := Keeps μ σ) ?_ ?_ | refine keep_foldl (P := Keeps μ σ) ?_ ?_ | refine OnOk.ok ?_ | exact OnOk.error | refine keep_ite (P := OnOk (Keeps μ σ)) ?_ ?_ | intro _ | split | dsimp only

theorem opEnds_keeps {μ : Nat} {σ : State} {s : State} {op : NetOp} {status : Nat} (hK : Keeps μ σ s)
    (hm : Sub 0x700000 μ := by first | assumption | exact Sub.of ‹Sub _ _› ⟨by decide +kernel⟩) :
    Keeps μ σ (State.opEnds s op status) := by
  unfold State.opEnds
  try dsimp only
  repeat' with_reducible first | assumption | refine transferEnds_keeps ?_ | refine ends_keeps ?_ | refine keep_ite (P := Keeps μ σ) ?_ ?_ | refine OnOk.ok ?_ | exact OnOk.error | refine keep_ite (P := OnOk (Keeps μ σ)) ?_ ?_ | intro _ | split | dsimp only

theorem sendWrites_keeps {μ : Nat} {σ : State} {s : State} {c : Conn} {user : OpUser} {key : Nat} {offset : Nat} {imm : Option Nat} {raw : Bytes} {again : Bool} (hK : Keeps μ σ s)
    (hm : Sub 0x100000 μ := by first | assumption | exact Sub.of ‹Sub _ _› ⟨by decide +kernel⟩) :
    Keeps μ σ (State.sendWrites s c user key offset imm raw again) := by
  unfold State.sendWrites
  try dsimp only
  repeat' with_reducible first | assumption | refine putConn_keeps ?_ | refine queuePkts_keeps ?_ | refine keep_ite (P := Keeps μ σ) ?_ ?_ | refine OnOk.ok ?_ | exact OnOk.error | refine keep_ite (P := OnOk (Keeps μ σ)) ?_ ?_ | intro _ | split | dsimp only

theorem dropMessages_keeps {μ : Nat} {σ : State} {s : State} {c : Conn} (hK : Keeps μ σ s)
    (hm : Sub 0x80000000000c0700206 μ := by first | assumption | exact Sub.of ‹Sub _ _› ⟨by decide +kernel⟩) :
    Keeps μ σ (State.dropMessages s c) := by
  unfold State.dropMessages
  try dsimp only
  repeat' with_reducible first | assumption | refine unitFree_keeps ?_ | refine putConn_keeps ?_ | refine keep_ite (P := Keeps μ σ) ?_ ?_ | refine keep_foldl (P := Keeps μ σ) ?_ ?_ | refine OnOk.ok ?_ | exact OnOk.error | refine keep_ite (P := OnOk (Keeps μ σ)) ?_ ?_ | intro _ | split | dsimp only

theorem leaveOpen_keeps {μ : Nat} {σ : State} {s : State} {c : Conn} {next : ConnState} {status : Nat} (hK : Keeps μ σ s)
    (hm : Sub 0x20000000000080000000000c0700206 μ := by first | assumption | exact Sub.of ‹Sub _ _› ⟨by decide +kernel⟩) :
    Keeps μ σ (State.leaveOpen s c next status) := by
  unfold State.leaveOpen
  try dsimp only
  repeat' with_reducible first | assumption | refine dropMessages_keeps ?_ | refine putConn_keeps ?_ | refine unbind_keeps ?_ | refine opEnds_keeps ?_ | refine keep_ite (P := Keeps μ σ) ?_ ?_ | refine keep_foldl (P := Keeps μ σ) ?_ ?_ | refine OnOk.ok ?_ | exact OnOk.error | refine keep_ite (P := OnOk (Keeps μ σ)) ?_ ?_ | intro _ | split | dsimp only

theorem connRegs_keeps {μ : Nat} {σ : State} {s : State} (hK : Keeps μ σ s)
    (hm : Sub 0x2040000000000000000000000000000 μ := by first | assumption | exact Sub.of ‹Sub _ _› ⟨by decide +kernel⟩) :
    Keeps μ σ (State.connRegs s) := by
  unfold State.connRegs
  try dsimp only
  repeat' with_reducible first | assumption | refine setN_keeps ?_ | refine subRegs_keeps ?_ | refine keep_ite (P := Keeps μ σ) ?_ ?_ | refine OnOk.ok ?_ | exact OnOk.error | refine keep_ite (P := OnOk (Keeps μ σ)) ?_ ?_ | intro _ | split | dsimp only

theorem closeConn_keeps {μ : Nat} {σ : State} {s : State} {c : Conn} {status : Nat} (hK : Keeps μ σ s)
    (hm : Sub 0x20400000000080000000000c0700206 μ := by first | assumption | exact Sub.of ‹Sub _ _› ⟨by decide +kernel⟩) :
    Keeps μ σ (State.closeConn s c status) := by
  unfold State.closeConn
  try dsimp only
  repeat' with_reducible first | assumption | refine leaveOpen_keeps ?_ | refine putSkd_keeps ?_ | refine connRegs_keeps ?_ | refine keep_ite (P := Keeps μ σ) ?_ ?_ | refine OnOk.ok ?_ | exact OnOk.error | refine keep_ite (P := OnOk (Keeps μ σ)) ?_ ?_ | intro _ | split | dsimp only

theorem fenceConn_keeps {μ : Nat} {σ : State} {s : State} {c : Conn} (hK : Keeps μ σ s)
    (hm : Sub 0x20000000000080000000000c0700206 μ := by first | assumption | exact Sub.of ‹Sub _ _› ⟨by decide +kernel⟩) :
    Keeps μ σ (State.fenceConn s c) := by
  unfold State.fenceConn
  try dsimp only
  repeat' with_reducible first | assumption | refine leaveOpen_keeps ?_ | refine putConn_keeps ?_ | refine keep_ite (P := Keeps μ σ) ?_ ?_ | refine OnOk.ok ?_ | exact OnOk.error | refine keep_ite (P := OnOk (Keeps μ σ)) ?_ ?_ | intro _ | split | dsimp only

theorem fencePeers_keeps {μ : Nat} {σ : State} {s : State} {slot : Nat} {gen : Nat} (hK : Keeps μ σ s)
    (hm : Sub 0x20000000000080000000000c0700206 μ := by first | assumption | exact Sub.of ‹Sub _ _› ⟨by decide +kernel⟩) :
    Keeps μ σ (State.fencePeers s slot gen) := by
  unfold State.fencePeers
  try dsimp only
  repeat' with_reducible first | assumption | refine fenceConn_keeps ?_ | refine keep_ite (P := Keeps μ σ) ?_ ?_ | refine keep_foldl (P := Keeps μ σ) ?_ ?_ | refine OnOk.ok ?_ | exact OnOk.error | refine keep_ite (P := OnOk (Keeps μ σ)) ?_ ?_ | intro _ | split | dsimp only

theorem openConn_keeps {μ : Nat} {σ : State} {s : State} {v : Bytes} (hK : Keeps μ σ s)
    (hm : Sub 0xa0400000000000000000020c0900006 μ := by first | assumption | exact Sub.of ‹Sub _ _› ⟨by decide +kernel⟩) :
    OnOkOf (fun x => Keeps μ σ x.2) (State.openConn s v) := by
  unfold State.openConn
  try dsimp only
  repeat' with_reducible first | assumption | refine bindSub_keeps ?_ | refine keep_of_some_23 ‹_› (bindSub_keeps ?_) | refine drawn_keeps ?_ | refine putSkd_keeps ?_ | refine openPort_keeps ?_ | refine connRegs_keeps ?_ | refine OnNext.next ?_ | refine OnOk.ok ?_ | exact OnOk.error | refine OnSome.some ?_ | exact OnSome.none | refine OnSomeOf.some ?_ | exact OnSomeOf.none | refine OnOkOf.ok ?_ | exact OnOkOf.error | refine act_keeps ?_ ?_ | refine live_keeps ?_ ?_ | refine keep_ite (P := OnOkOf (fun x => Keeps μ σ x.2)) ?_ ?_ | refine keep_ite (P := Keeps μ σ) ?_ ?_ | refine keep_ite (P := OnOk (Keeps μ σ)) ?_ ?_ | intro _ | split | dsimp only | refine keep_of_ok ‹_› ?_

theorem noteOpen_keeps {μ : Nat} {σ : State} {s : State} {via : Via} {status : Nat} {num : Nat} (hK : Keeps μ σ s)
    (hm : Sub 0x4 μ := by first | assumption | exact Sub.of ‹Sub _ _› ⟨by decide +kernel⟩) :
    Keeps μ σ (State.noteOpen s via status num) := by
  unfold State.noteOpen
  try dsimp only
  repeat' with_reducible first | assumption | refine putSession_keeps ?_ | refine keep_ite (P := Keeps μ σ) ?_ ?_ | refine OnOk.ok ?_ | exact OnOk.error | refine keep_ite (P := OnOk (Keeps μ σ)) ?_ ?_ | intro _ | split | dsimp only

theorem connOpenWrite_keeps {μ : Nat} {σ : State} {s : State} {v : Bytes} (hK : Keeps μ σ s)
    (hm : Sub 0xa0400000000000000000020c0900006 μ := by first | assumption | exact Sub.of ‹Sub _ _› ⟨by decide +kernel⟩) :
    OnOk (Keeps μ σ) (State.connOpenWrite s v) := by
  unfold State.connOpenWrite
  try dsimp only
  repeat' with_reducible first | assumption | refine openConn_keeps ?_ | refine keep_of_ok_12 ‹_› (openConn_keeps ?_) | refine OnNext.next ?_ | refine OnOk.ok ?_ | exact OnOk.error | refine OnSome.some ?_ | exact OnSome.none | refine OnSomeOf.some ?_ | exact OnSomeOf.none | refine OnOkOf.ok ?_ | exact OnOkOf.error | refine act_keeps ?_ ?_ | refine live_keeps ?_ ?_ | refine keep_ite (P := OnOk (Keeps μ σ)) ?_ ?_ | refine keep_ite (P := Keeps μ σ) ?_ ?_ | intro _ | split | dsimp only | refine keep_of_ok ‹_› ?_

theorem execConnOpen_keeps {μ : Nat} {σ : State} {via : Via} {value : Bytes} {s : State} (hK : Keeps μ σ s)
    (hm : Sub 0xa0600000000000000000020e0f0001e μ := by first | assumption | exact Sub.of ‹Sub _ _› ⟨by decide +kernel⟩) :
    OnNext (Keeps μ σ) (execConnOpen via value s) := by
  unfold execConnOpen
  try dsimp only
  repeat' with_reducible first | assumption | refine writeVia_keeps ?_ ?_ | refine connOpenWrite_keeps ?_ | refine keep_of_ok ‹_› (connOpenWrite_keeps ?_) | refine noteOpen_keeps ?_ | refine OnNext.next ?_ | refine OnOk.ok ?_ | exact OnOk.error | refine OnSome.some ?_ | exact OnSome.none | refine OnSomeOf.some ?_ | exact OnSomeOf.none | refine OnOkOf.ok ?_ | exact OnOkOf.error | refine act_keeps ?_ ?_ | refine live_keeps ?_ ?_ | refine keep_ite (P := OnNext (Keeps μ σ)) ?_ ?_ | refine keep_ite (P := Keeps μ σ) ?_ ?_ | refine keep_ite (P := OnOk (Keeps μ σ)) ?_ ?_ | intro _ | split | dsimp only | refine keep_of_ok ‹_› ?_

theorem connCloseWrite_keeps {μ : Nat} {σ : State} {s : State} {n : Nat} (hK : Keeps μ σ s)
    (hm : Sub 0x20400000000080000000000c0700206 μ := by first | assumption | exact Sub.of ‹Sub _ _› ⟨by decide +kernel⟩) :
    OnOk (Keeps μ σ) (State.connCloseWrite s n) := by
  unfold State.connCloseWrite
  try dsimp only
  repeat' with_reducible first | assumption | refine closeConn_keeps ?_ | refine OnNext.next ?_ | refine OnOk.ok ?_ | exact OnOk.error | refine OnSome.some ?_ | exact OnSome.none | refine OnSomeOf.some ?_ | exact OnSomeOf.none | refine OnOkOf.ok ?_ | exact OnOkOf.error | refine act_keeps ?_ ?_ | refine live_keeps ?_ ?_ | refine keep_ite (P := OnOk (Keeps μ σ)) ?_ ?_ | refine keep_ite (P := Keeps μ σ) ?_ ?_ | intro _ | split | dsimp only | refine keep_of_ok ‹_› ?_

theorem execConnClose_keeps {μ : Nat} {σ : State} {via : Via} {value : Bytes} {s : State} (hK : Keeps μ σ s)
    (hm : Sub 0x20600000000080000000020e070021e μ := by first | assumption | exact Sub.of ‹Sub _ _› ⟨by decide +kernel⟩) :
    OnNext (Keeps μ σ) (execConnClose via value s) := by
  unfold execConnClose
  try dsimp only
  repeat' with_reducible first | assumption | refine writeVia_keeps ?_ ?_ | refine connCloseWrite_keeps ?_ | refine keep_of_ok ‹_› (connCloseWrite_keeps ?_) | refine OnNext.next ?_ | refine OnOk.ok ?_ | exact OnOk.error | refine OnSome.some ?_ | exact OnSome.none | refine OnSomeOf.some ?_ | exact OnSomeOf.none | refine OnOkOf.ok ?_ | exact OnOkOf.error | refine act_keeps ?_ ?_ | refine live_keeps ?_ ?_ | refine keep_ite (P := OnNext (Keeps μ σ)) ?_ ?_ | refine keep_ite (P := Keeps μ σ) ?_ ?_ | refine keep_ite (P := OnOk (Keeps μ σ)) ?_ ?_ | intro _ | split | dsimp only | refine keep_of_ok ‹_› ?_

theorem quarRegs_keeps {μ : Nat} {σ : State} {s : State} (hK : Keeps μ σ s)
    (hm : Sub 0x200000000000000000000000000000 μ := by first | assumption | exact Sub.of ‹Sub _ _› ⟨by decide +kernel⟩) :
    Keeps μ σ (State.quarRegs s) := by
  unfold State.quarRegs
  try dsimp only
  repeat' with_reducible first | assumption | refine setN_keeps ?_ | refine keep_ite (P := Keeps μ σ) ?_ ?_ | refine keep_foldl (P := Keeps μ σ) ?_ ?_ | refine OnOk.ok ?_ | exact OnOk.error | refine keep_ite (P := OnOk (Keeps μ σ)) ?_ ?_ | intro _ | split | dsimp only

theorem noteLoss_keeps {μ : Nat} {σ : State} {s : State} {port : Nat} {label : Nat} (hK : Keeps μ σ s)
    (hm : Sub 0x2000000000000000000000c0100006 μ := by first | assumption | exact Sub.of ‹Sub _ _› ⟨by decide +kernel⟩) :
    Keeps μ σ (State.noteLoss s port label) := by
  unfold State.noteLoss
  try dsimp only
  repeat' with_reducible first | assumption | refine putSkd_keeps ?_ | refine quarRegs_keeps ?_ | refine raise_keeps ?_ | refine keep_ite (P := Keeps μ σ) ?_ ?_ | refine OnOk.ok ?_ | exact OnOk.error | refine keep_ite (P := OnOk (Keeps μ σ)) ?_ ?_ | intro _ | split | dsimp only

theorem failConn_keeps {μ : Nat} {σ : State} {s : State} {c : Conn} (hK : Keeps μ σ s)
    (hm : Sub 0x20000000000080000000000c0710206 μ := by first | assumption | exact Sub.of ‹Sub _ _› ⟨by decide +kernel⟩) :
    Keeps μ σ (State.failConn s c) := by
  unfold State.failConn
  try dsimp only
  repeat' with_reducible first | assumption | refine leaveOpen_keeps ?_ | refine putEntry_keeps ?_ | refine logOccurrence_keeps ?_ | refine emit_keeps ?_ | refine keep_ite (P := Keeps μ σ) ?_ ?_ | refine keep_foldl (P := Keeps μ σ) ?_ ?_ | refine OnOk.ok ?_ | exact OnOk.error | refine keep_ite (P := OnOk (Keeps μ σ)) ?_ ?_ | intro _ | split | dsimp only

theorem lose_keeps {μ : Nat} {σ : State} {s : State} {c : Conn} {u : Sent} (hK : Keeps μ σ s)
    (hm : Sub 0x22000000000080000000000c0710206 μ := by first | assumption | exact Sub.of ‹Sub _ _› ⟨by decide +kernel⟩) :
    Keeps μ σ (State.lose s c u) := by
  unfold State.lose
  try dsimp only
  repeat' with_reducible first | assumption | refine noteLoss_keeps ?_ | refine failConn_keeps ?_ | refine putConn_keeps ?_ | refine queuePkts_keeps ?_ | refine keep_ite (P := Keeps μ σ) ?_ ?_ | refine OnOk.ok ?_ | exact OnOk.error | refine keep_ite (P := OnOk (Keeps μ σ)) ?_ ?_ | intro _ | split | dsimp only

theorem packetLost_keeps {μ : Nat} {σ : State} {s : State} {n : Nat} {psn : Nat} (hK : Keeps μ σ s)
    (hm : Sub 0x22000000000080000000000c0710206 μ := by first | assumption | exact Sub.of ‹Sub _ _› ⟨by decide +kernel⟩) :
    Keeps μ σ (State.packetLost s n psn) := by
  unfold State.packetLost
  try dsimp only
  repeat' with_reducible first | assumption | refine lose_keeps ?_ | refine keep_ite (P := Keeps μ σ) ?_ ?_ | refine OnOk.ok ?_ | exact OnOk.error | refine keep_ite (P := OnOk (Keeps μ σ)) ?_ ?_ | intro _ | split | dsimp only

theorem execPacketLost_keeps {μ : Nat} {σ : State} {conn : Nat} {psn : Nat} {s : State} (hK : Keeps μ σ s)
    (hm : Sub 0x22000000000080000000000c0710206 μ := by first | assumption | exact Sub.of ‹Sub _ _› ⟨by decide +kernel⟩) :
    OnNext (Keeps μ σ) (execPacketLost conn psn s) := by
  unfold execPacketLost
  try dsimp only
  repeat' with_reducible first | assumption | refine packetLost_keeps ?_ | refine OnNext.next ?_ | refine OnOk.ok ?_ | exact OnOk.error | refine OnSome.some ?_ | exact OnSome.none | refine OnSomeOf.some ?_ | exact OnSomeOf.none | refine OnOkOf.ok ?_ | exact OnOkOf.error | refine act_keeps ?_ ?_ | refine live_keeps ?_ ?_ | refine keep_ite (P := OnNext (Keeps μ σ)) ?_ ?_ | refine keep_ite (P := Keeps μ σ) ?_ ?_ | refine keep_ite (P := OnOk (Keeps μ σ)) ?_ ?_ | intro _ | split | dsimp only

theorem retransmitTimeout_keeps {μ : Nat} {σ : State} {s : State} {n : Nat} {psn : Nat} (hK : Keeps μ σ s)
    (hm : Sub 0x22000000000080000000000c0710206 μ := by first | assumption | exact Sub.of ‹Sub _ _› ⟨by decide +kernel⟩) :
    Keeps μ σ (State.retransmitTimeout s n psn) := by
  unfold State.retransmitTimeout
  try dsimp only
  repeat' with_reducible first | assumption | refine putConn_keeps ?_ | refine lose_keeps ?_ | refine keep_ite (P := Keeps μ σ) ?_ ?_ | refine OnOk.ok ?_ | exact OnOk.error | refine keep_ite (P := OnOk (Keeps μ σ)) ?_ ?_ | intro _ | split | dsimp only

theorem execRetransmitTimeout_keeps {μ : Nat} {σ : State} {conn : Nat} {psn : Nat} {s : State} (hK : Keeps μ σ s)
    (hm : Sub 0x22000000000080000000000c0710206 μ := by first | assumption | exact Sub.of ‹Sub _ _› ⟨by decide +kernel⟩) :
    OnNext (Keeps μ σ) (execRetransmitTimeout conn psn s) := by
  unfold execRetransmitTimeout
  try dsimp only
  repeat' with_reducible first | assumption | refine retransmitTimeout_keeps ?_ | refine OnNext.next ?_ | refine OnOk.ok ?_ | exact OnOk.error | refine OnSome.some ?_ | exact OnSome.none | refine OnSomeOf.some ?_ | exact OnSomeOf.none | refine OnOkOf.ok ?_ | exact OnOkOf.error | refine act_keeps ?_ ?_ | refine live_keeps ?_ ?_ | refine keep_ite (P := OnNext (Keeps μ σ)) ?_ ?_ | refine keep_ite (P := Keeps μ σ) ?_ ?_ | refine keep_ite (P := OnOk (Keeps μ σ)) ?_ ?_ | intro _ | split | dsimp only

theorem execQuarantineEnd_keeps {μ : Nat} {σ : State} {port : Nat} {label : Nat} {s : State} (hK : Keeps μ σ s)
    (hm : Sub 0x200000000000000000000000100000 μ := by first | assumption | exact Sub.of ‹Sub _ _› ⟨by decide +kernel⟩) :
    OnNext (Keeps μ σ) (execQuarantineEnd port label s) := by
  unfold execQuarantineEnd
  try dsimp only
  repeat' with_reducible first | assumption | refine putSkd_keeps ?_ | refine quarRegs_keeps ?_ | refine OnNext.next ?_ | refine OnOk.ok ?_ | exact OnOk.error | refine OnSome.some ?_ | exact OnSome.none | refine OnSomeOf.some ?_ | exact OnSomeOf.none | refine OnOkOf.ok ?_ | exact OnOkOf.error | refine act_keeps ?_ ?_ | refine live_keeps ?_ ?_ | refine keep_ite (P := OnNext (Keeps μ σ)) ?_ ?_ | refine keep_ite (P := Keeps μ σ) ?_ ?_ | refine keep_ite (P := OnOk (Keeps μ σ)) ?_ ?_ | intro _ | split | dsimp only

theorem execRcPeriod_keeps {μ : Nat} {σ : State} {s : State} (hK : Keeps μ σ s)
    (hm : Sub 0x100000 μ := by first | assumption | exact Sub.of ‹Sub _ _› ⟨by decide +kernel⟩) :
    OnNext (Keeps μ σ) (execRcPeriod s) := by
  unfold execRcPeriod
  try dsimp only
  repeat' with_reducible first | assumption | refine putSkd_keeps ?_ | refine OnNext.next ?_ | refine OnOk.ok ?_ | exact OnOk.error | refine OnSome.some ?_ | exact OnSome.none | refine OnSomeOf.some ?_ | exact OnSomeOf.none | refine OnOkOf.ok ?_ | exact OnOkOf.error | refine act_keeps ?_ ?_ | refine live_keeps ?_ ?_ | refine keep_ite (P := OnNext (Keeps μ σ)) ?_ ?_ | refine keep_ite (P := Keeps μ σ) ?_ ?_ | refine keep_ite (P := OnOk (Keeps μ σ)) ?_ ?_ | intro _ | split | dsimp only

theorem advanceKeys_keeps {μ : Nat} {σ : State} {s : State} (hK : Keeps μ σ s)
    (hm : Sub 0x100000 μ := by first | assumption | exact Sub.of ‹Sub _ _› ⟨by decide +kernel⟩) :
    Keeps μ σ (State.advanceKeys s) := by
  unfold State.advanceKeys
  try dsimp only
  repeat' with_reducible first | assumption | refine putSkd_keeps ?_ | refine keep_ite (P := Keeps μ σ) ?_ ?_ | refine OnOk.ok ?_ | exact OnOk.error | refine keep_ite (P := OnOk (Keeps μ σ)) ?_ ?_ | intro _ | split | dsimp only

theorem execKeyGraceEnd_keeps {μ : Nat} {σ : State} {conn : Nat} {s : State} (hK : Keeps μ σ s)
    (hm : Sub 0x100000 μ := by first | assumption | exact Sub.of ‹Sub _ _› ⟨by decide +kernel⟩) :
    OnNext (Keeps μ σ) (execKeyGraceEnd conn s) := by
  unfold execKeyGraceEnd
  try dsimp only
  repeat' with_reducible first | assumption | refine putConn_keeps ?_ | refine OnNext.next ?_ | refine OnOk.ok ?_ | exact OnOk.error | refine OnSome.some ?_ | exact OnSome.none | refine OnSomeOf.some ?_ | exact OnSomeOf.none | refine OnOkOf.ok ?_ | exact OnOkOf.error | refine act_keeps ?_ ?_ | refine live_keeps ?_ ?_ | refine keep_ite (P := OnNext (Keeps μ σ)) ?_ ?_ | refine keep_ite (P := Keeps μ σ) ?_ ?_ | refine keep_ite (P := OnOk (Keeps μ σ)) ?_ ?_ | intro _ | split | dsimp only

theorem execEarlyRotation_keeps {μ : Nat} {σ : State} {conn : Nat} {s : State} (hK : Keeps μ σ s)
    (hm : Sub 0x800000000000000000000000100000 μ := by first | assumption | exact Sub.of ‹Sub _ _› ⟨by decide +kernel⟩) :
    OnNext (Keeps μ σ) (execEarlyRotation conn s) := by
  unfold execEarlyRotation
  try dsimp only
  repeat' with_reducible first | assumption | refine rotateEarly_keeps ?_ | refine OnNext.next ?_ | refine OnOk.ok ?_ | exact OnOk.error | refine OnSome.some ?_ | exact OnSome.none | refine OnSomeOf.some ?_ | exact OnSomeOf.none | refine OnOkOf.ok ?_ | exact OnOkOf.error | refine act_keeps ?_ ?_ | refine live_keeps ?_ ?_ | refine keep_ite (P := OnNext (Keeps μ σ)) ?_ ?_ | refine keep_ite (P := Keeps μ σ) ?_ ?_ | refine keep_ite (P := OnOk (Keeps μ σ)) ?_ ?_ | intro _ | split | dsimp only

theorem execLinkDown_keeps {μ : Nat} {σ : State} {port : Nat} {s : State} (hK : Keeps μ σ s)
    (hm : Sub 0x1000000000000000000000000200000 μ := by first | assumption | exact Sub.of ‹Sub _ _› ⟨by decide +kernel⟩) :
    OnNext (Keeps μ σ) (execLinkDown port s) := by
  unfold execLinkDown
  try dsimp only
  repeat' with_reducible first | assumption | refine setN_keeps ?_ | refine emit_keeps ?_ | refine OnNext.next ?_ | refine OnOk.ok ?_ | exact OnOk.error | refine OnSome.some ?_ | exact OnSome.none | refine OnSomeOf.some ?_ | exact OnSomeOf.none | refine OnOkOf.ok ?_ | exact OnOkOf.error | refine act_keeps ?_ ?_ | refine live_keeps ?_ ?_ | refine keep_ite (P := OnNext (Keeps μ σ)) ?_ ?_ | refine keep_ite (P := Keeps μ σ) ?_ ?_ | refine keep_ite (P := OnOk (Keeps μ σ)) ?_ ?_ | intro _ | split | dsimp only

theorem execLinkUp_keeps {μ : Nat} {σ : State} {port : Nat} {s : State} (hK : Keeps μ σ s)
    (hm : Sub 0x32000000000080000000000c0710206 μ := by first | assumption | exact Sub.of ‹Sub _ _› ⟨by decide +kernel⟩) :
    OnNext (Keeps μ σ) (execLinkUp port s) := by
  unfold execLinkUp
  try dsimp only
  repeat' with_reducible first | assumption | refine setN_keeps ?_ | refine lose_keeps ?_ | refine OnNext.next ?_ | refine OnOk.ok ?_ | exact OnOk.error | refine OnSome.some ?_ | exact OnSome.none | refine OnSomeOf.some ?_ | exact OnSomeOf.none | refine OnOkOf.ok ?_ | exact OnOkOf.error | refine act_keeps ?_ ?_ | refine live_keeps ?_ ?_ | refine keep_ite (P := OnNext (Keeps μ σ)) ?_ ?_ | refine keep_ite (P := Keeps μ σ) ?_ ?_ | refine keep_foldl (P := Keeps μ σ) ?_ ?_ | refine keep_ite (P := OnOk (Keeps μ σ)) ?_ ?_ | intro _ | split | dsimp only

theorem execPauseFrameRx_keeps {μ : Nat} {σ : State} {port : Nat} {s : State} (hK : Keeps μ σ s)
    (hm : Sub 0x40000000000000000000000000000 μ := by first | assumption | exact Sub.of ‹Sub _ _› ⟨by decide +kernel⟩) :
    OnNext (Keeps μ σ) (execPauseFrameRx port s) := by
  unfold execPauseFrameRx
  try dsimp only
  repeat' with_reducible first | assumption | refine bump_keeps ?_ | refine OnNext.next ?_ | refine OnOk.ok ?_ | exact OnOk.error | refine OnSome.some ?_ | exact OnSome.none | refine OnSomeOf.some ?_ | exact OnSomeOf.none | refine OnOkOf.ok ?_ | exact OnOkOf.error | refine act_keeps ?_ ?_ | refine live_keeps ?_ ?_ | refine keep_ite (P := OnNext (Keeps μ σ)) ?_ ?_ | refine keep_ite (P := Keeps μ σ) ?_ ?_ | refine keep_ite (P := OnOk (Keeps μ σ)) ?_ ?_ | intro _ | split | dsimp only

theorem execSkdTxqTail_keeps {μ : Nat} {σ : State} {ctx : Nat} {tail : Nat} {descs : List TransferDesc} {s : State} (hK : Keeps μ σ s)
    (hm : Sub 0x100000 μ := by first | assumption | exact Sub.of ‹Sub _ _› ⟨by decide +kernel⟩) :
    OnNext (Keeps μ σ) (execSkdTxqTail ctx tail descs s) := by
  unfold execSkdTxqTail
  try dsimp only
  repeat' with_reducible first | assumption | refine putPage_keeps ?_ | refine OnNext.next ?_ | refine OnOk.ok ?_ | exact OnOk.error | refine OnSome.some ?_ | exact OnSome.none | refine OnSomeOf.some ?_ | exact OnSomeOf.none | refine OnOkOf.ok ?_ | exact OnOkOf.error | refine act_keeps ?_ ?_ | refine live_keeps ?_ ?_ | refine keep_ite (P := OnNext (Keeps μ σ)) ?_ ?_ | refine keep_ite (P := Keeps μ σ) ?_ ?_ | refine keep_ite (P := OnOk (Keeps μ σ)) ?_ ?_ | intro _ | split | dsimp only

theorem fetch_keeps {μ : Nat} {σ : State} {s : State} {src : TransferSrc} {d : TransferDesc} (hK : Keeps μ σ s)
    (hm : Sub 0x100000 μ := by first | assumption | exact Sub.of ‹Sub _ _› ⟨by decide +kernel⟩) :
    OnSome (Keeps μ σ) (State.fetch s src d) := by
  unfold State.fetch
  try dsimp only
  repeat' with_reducible first | assumption | refine putPage_keeps ?_ | refine OnNext.next ?_ | refine OnOk.ok ?_ | exact OnOk.error | refine OnSome.some ?_ | exact OnSome.none | refine OnSomeOf.some ?_ | exact OnSomeOf.none | refine OnOkOf.ok ?_ | exact OnOkOf.error | refine act_keeps ?_ ?_ | refine live_keeps ?_ ?_ | refine keep_ite (P := OnSome (Keeps μ σ)) ?_ ?_ | refine keep_ite (P := Keeps μ σ) ?_ ?_ | refine keep_ite (P := OnOk (Keeps μ σ)) ?_ ?_ | intro _ | split | dsimp only

theorem transferWrite_keeps {μ : Nat} {σ : State} {s : State} {src : TransferSrc} {d : TransferDesc} {imm : Option Nat} {data : Bytes} (hK : Keeps μ σ s)
    (hm : Sub 0x700000 μ := by first | assumption | exact Sub.of ‹Sub _ _› ⟨by decide +kernel⟩) :
    Keeps μ σ (State.transferWrite s src d imm data) := by
  unfold State.transferWrite
  try dsimp only
  repeat' with_reducible first | assumption | refine fetch_keeps ?_ | refine keep_of_some ‹_› (fetch_keeps ?_) | refine transferEnds_keeps ?_ | refine sendWrites_keeps ?_ | refine keep_ite (P := Keeps μ σ) ?_ ?_ | refine OnOk.ok ?_ | exact OnOk.error | refine keep_ite (P := OnOk (Keeps μ σ)) ?_ ?_ | intro _ | split | dsimp only

theorem execTransferWrite_keeps {μ : Nat} {σ : State} {src : TransferSrc} {desc : TransferDesc} {data : Bytes} {s : State} (hK : Keeps μ σ s)
    (hm : Sub 0x700000 μ := by first | assumption | exact Sub.of ‹Sub _ _› ⟨by decide +kernel⟩) :
    OnNext (Keeps μ σ) (execTransferWrite src desc data s) := by
  unfold execTransferWrite
  try dsimp only
  repeat' with_reducible first | assumption | refine transferWrite_keeps ?_ | refine OnNext.next ?_ | refine OnOk.ok ?_ | exact OnOk.error | refine OnSome.some ?_ | exact OnSome.none | refine OnSomeOf.some ?_ | exact OnSomeOf.none | refine OnOkOf.ok ?_ | exact OnOkOf.error | refine act_keeps ?_ ?_ | refine live_keeps ?_ ?_ | refine keep_ite (P := OnNext (Keeps μ σ)) ?_ ?_ | refine keep_ite (P := Keeps μ σ) ?_ ?_ | refine keep_ite (P := OnOk (Keeps μ σ)) ?_ ?_ | intro _ | split | dsimp only

theorem execTransferWriteImm_keeps {μ : Nat} {σ : State} {src : TransferSrc} {desc : TransferDesc} {data : Bytes} {s : State} (hK : Keeps μ σ s)
    (hm : Sub 0x700000 μ := by first | assumption | exact Sub.of ‹Sub _ _› ⟨by decide +kernel⟩) :
    OnNext (Keeps μ σ) (execTransferWriteImm src desc data s) := by
  unfold execTransferWriteImm
  try dsimp only
  repeat' with_reducible first | assumption | refine transferWrite_keeps ?_ | refine OnNext.next ?_ | refine OnOk.ok ?_ | exact OnOk.error | refine OnSome.some ?_ | exact OnSome.none | refine OnSomeOf.some ?_ | exact OnSomeOf.none | refine OnOkOf.ok ?_ | exact OnOkOf.error | refine act_keeps ?_ ?_ | refine live_keeps ?_ ?_ | refine keep_ite (P := OnNext (Keeps μ σ)) ?_ ?_ | refine keep_ite (P := Keeps μ σ) ?_ ?_ | refine keep_ite (P := OnOk (Keeps μ σ)) ?_ ?_ | intro _ | split | dsimp only

theorem execTransferRead_keeps {μ : Nat} {σ : State} {src : TransferSrc} {desc : TransferDesc} {s : State} (hK : Keeps μ σ s)
    (hm : Sub 0x700000 μ := by first | assumption | exact Sub.of ‹Sub _ _› ⟨by decide +kernel⟩) :
    OnNext (Keeps μ σ) (execTransferRead src desc s) := by
  unfold execTransferRead
  try dsimp only
  repeat' with_reducible first | assumption | refine fetch_keeps ?_ | refine keep_of_some ‹_› (fetch_keeps ?_) | refine transferEnds_keeps ?_ | refine putConn_keeps ?_ | refine queuePkts_keeps ?_ | refine OnNext.next ?_ | refine OnOk.ok ?_ | exact OnOk.error | refine OnSome.some ?_ | exact OnSome.none | refine OnSomeOf.some ?_ | exact OnSomeOf.none | refine OnOkOf.ok ?_ | exact OnOkOf.error | refine act_keeps ?_ ?_ | refine live_keeps ?_ ?_ | refine keep_ite (P := OnNext (Keeps μ σ)) ?_ ?_ | refine keep_ite (P := Keeps μ σ) ?_ ?_ | refine keep_ite (P := OnOk (Keeps μ σ)) ?_ ?_ | intro _ | split | dsimp only

theorem execSkdCqHead_keeps {μ : Nat} {σ : State} {ctx : Nat} {head : Nat} {s : State} (hK : Keeps μ σ s)
    (hm : Sub 0x100000 μ := by first | assumption | exact Sub.of ‹Sub _ _› ⟨by decide +kernel⟩) :
    OnNext (Keeps μ σ) (execSkdCqHead ctx head s) := by
  unfold execSkdCqHead
  try dsimp only
  repeat' with_reducible first | assumption | refine putPage_keeps ?_ | refine OnNext.next ?_ | refine OnOk.ok ?_ | exact OnOk.error | refine OnSome.some ?_ | exact OnSome.none | refine OnSomeOf.some ?_ | exact OnSomeOf.none | refine OnOkOf.ok ?_ | exact OnOkOf.error | refine act_keeps ?_ ?_ | refine live_keeps ?_ ?_ | refine keep_ite (P := OnNext (Keeps μ σ)) ?_ ?_ | refine keep_ite (P := Keeps μ σ) ?_ ?_ | refine keep_ite (P := OnOk (Keeps μ σ)) ?_ ?_ | intro _ | split | dsimp only

theorem execRocev2Cnp_keeps {μ : Nat} {σ : State} {conn : Nat} {s : State} (hK : Keeps μ σ s)
    (hm : Sub 0x100000 μ := by first | assumption | exact Sub.of ‹Sub _ _› ⟨by decide +kernel⟩) :
    OnNext (Keeps μ σ) (execRocev2Cnp conn s) := by
  unfold execRocev2Cnp
  try dsimp only
  repeat' with_reducible first | assumption | refine putConn_keeps ?_ | refine OnNext.next ?_ | refine OnOk.ok ?_ | exact OnOk.error | refine OnSome.some ?_ | exact OnSome.none | refine OnSomeOf.some ?_ | exact OnSomeOf.none | refine OnOkOf.ok ?_ | exact OnOkOf.error | refine act_keeps ?_ ?_ | refine live_keeps ?_ ?_ | refine keep_ite (P := OnNext (Keeps μ σ)) ?_ ?_ | refine keep_ite (P := Keeps μ σ) ?_ ?_ | refine keep_ite (P := OnOk (Keeps μ σ)) ?_ ?_ | intro _ | split | dsimp only

end Sys2Proof.Laws
end

