-- ==== Sys2Proof/Laws/KeepContexts.lean ====
section
/-! SUPPORT. What each operation of Machine/Contexts.lean changes: outside the zones of its mask it keeps everything, and it
keeps the invariant. -/
namespace Sys2Proof.Laws
open Sys2Proof.Machine
set_option Elab.async false
set_option linter.unreachableTactic false
set_option linter.unusedTactic false

theorem putSec_keeps {μ : Nat} {σ : State} {s : State} {x : Security} (hK : Keeps μ σ s)
    (hm : Sub 0x80 μ := by first | assumption | exact Sub.of ‹Sub _ _› ⟨by decide +kernel⟩) :
    Keeps μ σ (State.putSec s x) := by
  unfold State.putSec
  try dsimp only
  repeat' with_reducible first | assumption | refine keep_ite (P := Keeps μ σ) ?_ ?_ | (refine Keeps.lit (M := 0x80) ?_; first | assumption | refine keep_ite (P := Keeps μ σ) ?_ ?_) | refine OnOk.ok ?_ | exact OnOk.error | refine keep_ite (P := OnOk (Keeps μ σ)) ?_ ?_ | intro _ | split | dsimp only

theorem putCluster_keeps {μ : Nat} {σ : State} {s : State} {c : Nat} {x : Cluster} (hK : Keeps μ σ s)
    (hm : Sub 0x80 μ := by first | assumption | exact Sub.of ‹Sub _ _› ⟨by decide +kernel⟩) :
    Keeps μ σ (State.putCluster s c x) := by
  unfold State.putCluster
  try dsimp only
  repeat' with_reducible first | assumption | refine putSec_keeps ?_ | refine keep_ite (P := Keeps μ σ) ?_ ?_ | refine OnOk.ok ?_ | exact OnOk.error | refine keep_ite (P := OnOk (Keeps μ σ)) ?_ ?_ | intro _ | split | dsimp only

theorem ctxRegs_keeps {μ : Nat} {σ : State} {s : State} {k : Nat} (hK : Keeps μ σ s)
    (hm : Sub 0x1800000000000000 μ := by first | assumption | exact Sub.of ‹Sub _ _› ⟨by decide +kernel⟩) :
    Keeps μ σ (State.ctxRegs s k) := by
  unfold State.ctxRegs
  try dsimp only
  repeat' with_reducible first | assumption | refine setN_keeps ?_ | refine keep_ite (P := Keeps μ σ) ?_ ?_ | refine OnOk.ok ?_ | exact OnOk.error | refine keep_ite (P := OnOk (Keeps μ σ)) ?_ ?_ | intro _ | split | dsimp only

theorem residentRegs_keeps {μ : Nat} {σ : State} {s : State} {k : Nat} (hK : Keeps μ σ s)
    (hm : Sub 0x1800000000000000 μ := by first | assumption | exact Sub.of ‹Sub _ _› ⟨by decide +kernel⟩) :
    Keeps μ σ (State.residentRegs s k) := by
  unfold State.residentRegs
  try dsimp only
  repeat' with_reducible first | assumption | refine setN_keeps ?_ | refine keep_ite (P := Keeps μ σ) ?_ ?_ | refine OnOk.ok ?_ | exact OnOk.error | refine keep_ite (P := OnOk (Keeps μ σ)) ?_ ?_ | intro _ | split | dsimp only

theorem ctxStop_keeps {μ : Nat} {σ : State} {s : State} {k : Nat} (hK : Keeps μ σ s)
    (hm : Sub 0x20600e7f380080110008000c0707a56 μ := by first | assumption | exact Sub.of ‹Sub _ _› ⟨by decide +kernel⟩) :
    Keeps μ σ (State.ctxStop s k) := by
  unfold State.ctxStop
  extract_lets s1 s2 s3 sr s4 s5
  have h1 : Keeps μ σ s1 := by
    unfold s1
    refine keep_foldl (P := Keeps μ σ) hK fun t a h => ?_
    refine closeConn_keeps ?_
    exact h
  clear_value s1
  have h2 : Keeps μ σ s2 := by
    unfold s2
    refine keep_foldl (P := Keeps μ σ) h1 fun t a h => ?_
    refine setN_keeps ?_
    exact h
  clear_value s2
  have h3 : Keeps μ σ s3 := by
    unfold s3
    refine keep_foldl (P := Keeps μ σ) h2 fun t a h => ?_
    split
    · refine keep_of_ok ‹_› (liveEnable_keeps ?_)
      exact h
    · exact h
  clear_value s3
  have h4 : Keeps μ σ s4 := by
    unfold s4
    refine putSkd_keeps ?_
    exact h3
  clear_value s4
  have h5 : Keeps μ σ s5 := by
    unfold s5
    refine keep_foldl (P := Keeps μ σ) h4 fun t a h => ?_
    refine flushUnits_keeps ?_
    exact h
  clear_value s5
  refine compDestroy_keeps ?_
  refine tokDestroy_keeps ?_
  refine decDestroy_keeps ?_
  exact h5


theorem dropMsgs_keeps {μ : Nat} {σ : State} {s : State} {k : Nat} (hK : Keeps μ σ s)
    (hm : Sub 0x80000 μ := by first | assumption | exact Sub.of ‹Sub _ _› ⟨by decide +kernel⟩) :
    Keeps μ σ (State.dropMsgs s k) := by
  unfold State.dropMsgs
  try dsimp only
  repeat' with_reducible first | assumption | refine keep_ite (P := Keeps μ σ) ?_ ?_ | (refine Keeps.lit (M := 0x80000) ?_; first | assumption | refine keep_ite (P := Keeps μ σ) ?_ ?_) | refine OnOk.ok ?_ | exact OnOk.error | refine keep_ite (P := OnOk (Keeps μ σ)) ?_ ?_ | intro _ | split | dsimp only

theorem ctxEnd_keeps {μ : Nat} {σ : State} {s : State} {k : Nat} (hK : Keeps μ σ s)
    (hm : Sub 0x200e78300080038000000c0687a96 μ := by first | assumption | exact Sub.of ‹Sub _ _› ⟨by decide +kernel⟩) :
    Keeps μ σ (State.ctxEnd s k) := by
  unfold State.ctxEnd
  try dsimp only
  repeat' with_reducible first | assumption | refine decDestroy_keeps ?_ | refine tokDestroy_keeps ?_ | refine compDestroy_keeps ?_ | refine freeContext_keeps ?_ | refine dropMsgs_keeps ?_ | refine putSec_keeps ?_ | refine setN_keeps ?_ | refine putCtx_keeps ?_ | refine measure_keeps ?_ | refine ctxRegs_keeps ?_ | refine keep_ite (P := Keeps μ σ) ?_ ?_ | refine OnOk.ok ?_ | exact OnOk.error | refine keep_ite (P := OnOk (Keeps μ σ)) ?_ ?_ | intro _ | split | dsimp only

theorem ctxSettle_keeps {μ : Nat} {σ : State} {s : State} {k : Nat} (hK : Keeps μ σ s)
    (hm : Sub 0x200e78300080038000000c0687a96 μ := by first | assumption | exact Sub.of ‹Sub _ _› ⟨by decide +kernel⟩) :
    Keeps μ σ (State.ctxSettle s k) := by
  unfold State.ctxSettle
  try dsimp only
  repeat' with_reducible first | assumption | refine ctxEnd_keeps ?_ | refine keep_ite (P := Keeps μ σ) ?_ ?_ | refine OnOk.ok ?_ | exact OnOk.error | refine keep_ite (P := OnOk (Keeps μ σ)) ?_ ?_ | intro _ | split | dsimp only

theorem defineCtx_keeps {μ : Nat} {σ : State} {s : State} {k : Nat} (hK : Keeps μ σ s)
    (hm : Sub 0x3800002000000080 μ := by first | assumption | exact Sub.of ‹Sub _ _› ⟨by decide +kernel⟩) :
    OnOk (Keeps μ σ) (State.defineCtx s k) := by
  unfold State.defineCtx
  try dsimp only
  repeat' with_reducible first | assumption | refine openClusters_keeps ?_ | refine putCtx_keeps ?_ | refine ctxRegs_keeps ?_ | refine measure_keeps ?_ | refine OnNext.next ?_ | refine OnOk.ok ?_ | exact OnOk.error | refine OnSome.some ?_ | exact OnSome.none | refine OnSomeOf.some ?_ | exact OnSomeOf.none | refine OnOkOf.ok ?_ | exact OnOkOf.error | refine act_keeps ?_ ?_ | refine live_keeps ?_ ?_ | refine keep_ite (P := OnOk (Keeps μ σ)) ?_ ?_ | refine keep_ite (P := Keeps μ σ) ?_ ?_ | intro _ | split | dsimp only | refine keep_of_ok ‹_› ?_

theorem destroyCtx_keeps {μ : Nat} {σ : State} {s : State} {k : Nat} (hK : Keeps μ σ s)
    (hm : Sub 0x20600e7f380080138008000c0787ad6 μ := by first | assumption | exact Sub.of ‹Sub _ _› ⟨by decide +kernel⟩) :
    OnOk (Keeps μ σ) (State.destroyCtx s k) := by
  unfold State.destroyCtx
  try dsimp only
  repeat' with_reducible first | assumption | refine putCtx_keeps ?_ | refine ctxRegs_keeps ?_ | refine ctxStop_keeps ?_ | refine ctxSettle_keeps ?_ | refine OnNext.next ?_ | refine OnOk.ok ?_ | exact OnOk.error | refine OnSome.some ?_ | exact OnSome.none | refine OnSomeOf.some ?_ | exact OnSomeOf.none | refine OnOkOf.ok ?_ | exact OnOkOf.error | refine act_keeps ?_ ?_ | refine live_keeps ?_ ?_ | refine keep_ite (P := OnOk (Keeps μ σ)) ?_ ?_ | refine keep_ite (P := Keeps μ σ) ?_ ?_ | intro _ | split | dsimp only | refine keep_of_ok ‹_› ?_

theorem ctxAction_keeps {μ : Nat} {σ : State} {s : State} {k : Nat} {v : Nat} (hK : Keeps μ σ s)
    (hm : Sub 0x20600e7f380080138008020c0787ad6 μ := by first | assumption | exact Sub.of ‹Sub _ _› ⟨by decide +kernel⟩) :
    OnOk (Keeps μ σ) (State.ctxAction s k v) := by
  unfold State.ctxAction
  try dsimp only
  repeat' with_reducible first | assumption | refine defineCtx_keeps ?_ | refine keep_of_ok ‹_› (defineCtx_keeps ?_) | refine destroyCtx_keeps ?_ | refine keep_of_ok ‹_› (destroyCtx_keeps ?_) | refine OnNext.next ?_ | refine OnOk.ok ?_ | exact OnOk.error | refine OnSome.some ?_ | exact OnSome.none | refine OnSomeOf.some ?_ | exact OnSomeOf.none | refine OnOkOf.ok ?_ | exact OnOkOf.error | refine act_keeps ?_ ?_ | refine live_keeps ?_ ?_ | refine keep_ite (P := OnOk (Keeps μ σ)) ?_ ?_ | refine keep_ite (P := Keeps μ σ) ?_ ?_ | intro _ | split | dsimp only | refine keep_of_ok ‹_› ?_

theorem execDefine_keeps {μ : Nat} {σ : State} {via : Via} {ctx : Nat} {s : State} (hK : Keeps μ σ s)
    (hm : Sub 0x20600e7f380080138008020e0787ade μ := by first | assumption | exact Sub.of ‹Sub _ _› ⟨by decide +kernel⟩) :
    OnNext (Keeps μ σ) (execDefine via ctx s) := by
  unfold execDefine
  try dsimp only
  repeat' with_reducible first | assumption | refine writeVia_keeps ?_ ?_ | refine ctxAction_keeps ?_ | refine keep_of_ok ‹_› (ctxAction_keeps ?_) | refine OnNext.next ?_ | refine OnOk.ok ?_ | exact OnOk.error | refine OnSome.some ?_ | exact OnSome.none | refine OnSomeOf.some ?_ | exact OnSomeOf.none | refine OnOkOf.ok ?_ | exact OnOkOf.error | refine act_keeps ?_ ?_ | refine live_keeps ?_ ?_ | refine keep_ite (P := OnNext (Keeps μ σ)) ?_ ?_ | refine keep_ite (P := Keeps μ σ) ?_ ?_ | refine keep_ite (P := OnOk (Keeps μ σ)) ?_ ?_ | intro _ | split | dsimp only | refine keep_of_ok ‹_› ?_

theorem execDestroy_keeps {μ : Nat} {σ : State} {via : Via} {ctx : Nat} {s : State} (hK : Keeps μ σ s)
    (hm : Sub 0x20600e7f380080138008020e0787ade μ := by first | assumption | exact Sub.of ‹Sub _ _› ⟨by decide +kernel⟩) :
    OnNext (Keeps μ σ) (execDestroy via ctx s) := by
  unfold execDestroy
  try dsimp only
  repeat' with_reducible first | assumption | refine writeVia_keeps ?_ ?_ | refine ctxAction_keeps ?_ | refine keep_of_ok ‹_› (ctxAction_keeps ?_) | refine OnNext.next ?_ | refine OnOk.ok ?_ | exact OnOk.error | refine OnSome.some ?_ | exact OnSome.none | refine OnSomeOf.some ?_ | exact OnSomeOf.none | refine OnOkOf.ok ?_ | exact OnOkOf.error | refine act_keeps ?_ ?_ | refine live_keeps ?_ ?_ | refine keep_ite (P := OnNext (Keeps μ σ)) ?_ ?_ | refine keep_ite (P := Keeps μ σ) ?_ ?_ | refine keep_ite (P := OnOk (Keeps μ σ)) ?_ ?_ | intro _ | split | dsimp only | refine keep_of_ok ‹_› ?_

theorem program0_keeps {μ : Nat} {σ : State} {s : State} {v : Bytes} (hK : Keeps μ σ s)
    (hm : Sub 0x20600e7f380080138008000c0787ad6 μ := by first | assumption | exact Sub.of ‹Sub _ _› ⟨by decide +kernel⟩) :
    OnOk (Keeps μ σ) (State.program0 s v) := by
  unfold State.program0
  try dsimp only
  repeat' with_reducible first | assumption | refine storeB_keeps ?_ | refine putCtx_keeps ?_ | refine ctxStop_keeps ?_ | refine ctxSettle_keeps ?_ | refine OnNext.next ?_ | refine OnOk.ok ?_ | exact OnOk.error | refine OnSome.some ?_ | exact OnSome.none | refine OnSomeOf.some ?_ | exact OnSomeOf.none | refine OnOkOf.ok ?_ | exact OnOkOf.error | refine act_keeps ?_ ?_ | refine live_keeps ?_ ?_ | refine keep_ite (P := OnOk (Keeps μ σ)) ?_ ?_ | refine keep_ite (P := Keeps μ σ) ?_ ?_ | intro _ | split | dsimp only | refine keep_of_ok ‹_› ?_

theorem execContext0Program_keeps {μ : Nat} {σ : State} {via : Via} {program : Bytes} {s : State} (hK : Keeps μ σ s)
    (hm : Sub 0x20600e7f380080138008020e0787ade μ := by first | assumption | exact Sub.of ‹Sub _ _› ⟨by decide +kernel⟩) :
    OnNext (Keeps μ σ) (execContext0Program via program s) := by
  unfold execContext0Program
  try dsimp only
  repeat' with_reducible first | assumption | refine writeVia_keeps ?_ ?_ | refine program0_keeps ?_ | refine keep_of_ok ‹_› (program0_keeps ?_) | refine OnNext.next ?_ | refine OnOk.ok ?_ | exact OnOk.error | refine OnSome.some ?_ | exact OnSome.none | refine OnSomeOf.some ?_ | exact OnSomeOf.none | refine OnOkOf.ok ?_ | exact OnOkOf.error | refine act_keeps ?_ ?_ | refine live_keeps ?_ ?_ | refine keep_ite (P := OnNext (Keeps μ σ)) ?_ ?_ | refine keep_ite (P := Keeps μ σ) ?_ ?_ | refine keep_ite (P := OnOk (Keeps μ σ)) ?_ ?_ | intro _ | split | dsimp only | refine keep_of_ok ‹_› ?_

theorem leaveCluster_keeps {μ : Nat} {σ : State} {s : State} {c : Nat} (hK : Keeps μ σ s)
    (hm : Sub 0x40808008001800000000006a80 μ := by first | assumption | exact Sub.of ‹Sub _ _› ⟨by decide +kernel⟩) :
    Keeps μ σ (State.leaveCluster s c) := by
  unfold State.leaveCluster
  try dsimp only
  repeat' with_reducible first | assumption | refine decLeave_keeps ?_ | refine tokLeave_keeps ?_ | refine compLeave_keeps ?_ | refine putCluster_keeps ?_ | refine residentRegs_keeps ?_ | refine poolLeave_keeps ?_ | refine keep_ite (P := Keeps μ σ) ?_ ?_ | refine OnOk.ok ?_ | exact OnOk.error | refine keep_ite (P := OnOk (Keeps μ σ)) ?_ ?_ | intro _ | split | dsimp only

theorem scrubCluster_keeps {μ : Nat} {σ : State} {s : State} {c : Nat} {us : Nat} {verified : Bool} (hK : Keeps μ σ s)
    (hm : Sub 0x40000000c0000086 μ := by first | assumption | exact Sub.of ‹Sub _ _› ⟨by decide +kernel⟩) :
    Keeps μ σ (State.scrubCluster s c us verified) := by
  unfold State.scrubCluster
  try dsimp only
  repeat' with_reducible first | assumption | refine bump_keeps ?_ | refine setN_keeps ?_ | refine putCluster_keeps ?_ | refine bump32_keeps ?_ | refine raise_keeps ?_ | refine keep_ite (P := Keeps μ σ) ?_ ?_ | refine OnOk.ok ?_ | exact OnOk.error | refine keep_ite (P := OnOk (Keeps μ σ)) ?_ ?_ | intro _ | split | dsimp only

theorem enterCluster_keeps {μ : Nat} {σ : State} {s : State} {c : Nat} {k : Nat} {us : Nat} (hK : Keeps μ σ s)
    (hm : Sub 0x43010008005800000000006a80 μ := by first | assumption | exact Sub.of ‹Sub _ _› ⟨by decide +kernel⟩) :
    Keeps μ σ (State.enterCluster s c k us) := by
  unfold State.enterCluster
  try dsimp only
  repeat' with_reducible first | assumption | refine poolRejoin_keeps ?_ | refine putCluster_keeps ?_ | refine residentRegs_keeps ?_ | refine decReturn_keeps ?_ | refine tokReturn_keeps ?_ | refine compReturn_keeps ?_ | refine bump_keeps ?_ | refine setN_keeps ?_ | refine keep_ite (P := Keeps μ σ) ?_ ?_ | refine OnOk.ok ?_ | exact OnOk.error | refine keep_ite (P := OnOk (Keeps μ σ)) ?_ ?_ | intro _ | split | dsimp only

theorem contextSwitch_keeps {μ : Nat} {σ : State} {s : State} {c : Nat} {verified : Bool} {scrubUs : Nat} {switchUs : Nat} (hK : Keeps μ σ s)
    (hm : Sub 0x200e78380080078000000c0687a96 μ := by first | assumption | exact Sub.of ‹Sub _ _› ⟨by decide +kernel⟩) :
    Keeps μ σ (State.contextSwitch s c verified scrubUs switchUs) := by
  unfold State.contextSwitch
  try dsimp only
  repeat' with_reducible first | assumption | refine putCluster_keeps ?_ | refine putCs_keeps ?_ | refine leaveCluster_keeps ?_ | refine scrubCluster_keeps ?_ | refine enterCluster_keeps ?_ | refine ctxSettle_keeps ?_ | refine keep_ite (P := Keeps μ σ) ?_ ?_ | refine OnOk.ok ?_ | exact OnOk.error | refine keep_ite (P := OnOk (Keeps μ σ)) ?_ ?_ | intro _ | split | dsimp only

theorem execContextSwitch_keeps {μ : Nat} {σ : State} {cluster : Nat} {verified : Bool} {scrubUs : Nat} {switchUs : Nat} {s : State} (hK : Keeps μ σ s)
    (hm : Sub 0x200e78380080078000000c0687a96 μ := by first | assumption | exact Sub.of ‹Sub _ _› ⟨by decide +kernel⟩) :
    OnNext (Keeps μ σ) (execContextSwitch cluster verified scrubUs switchUs s) := by
  unfold execContextSwitch
  try dsimp only
  repeat' with_reducible first | assumption | refine contextSwitch_keeps ?_ | refine OnNext.next ?_ | refine OnOk.ok ?_ | exact OnOk.error | refine OnSome.some ?_ | exact OnSome.none | refine OnSomeOf.some ?_ | exact OnSomeOf.none | refine OnOkOf.ok ?_ | exact OnOkOf.error | refine act_keeps ?_ ?_ | refine live_keeps ?_ ?_ | refine keep_ite (P := OnNext (Keeps μ σ)) ?_ ?_ | refine keep_ite (P := Keeps μ σ) ?_ ?_ | refine keep_ite (P := OnOk (Keeps μ σ)) ?_ ?_ | intro _ | split | dsimp only

end Sys2Proof.Laws
end

