-- ==== Sys2Proof/Laws/KeepSkdRecv.lean ====
section
/-! SUPPORT. What each operation of Machine/SkdRecv.lean changes: outside the zones of its mask it keeps everything, and it
keeps the invariant. -/
namespace Sys2Proof.Laws
open Sys2Proof.Machine
set_option Elab.async false
set_option linter.unreachableTactic false
set_option linter.unusedTactic false

theorem sendAck_keeps {μ : Nat} {σ : State} {s : State} {n : Nat} (hK : Keeps μ σ s)
    (hm : Sub 0x100000 μ := by first | assumption | exact Sub.of ‹Sub _ _› ⟨by decide +kernel⟩) :
    Keeps μ σ (State.sendAck s n) := by
  unfold State.sendAck
  try dsimp only
  repeat' with_reducible first | assumption | refine putConn_keeps ?_ | refine pushCtl_keeps ?_ | refine keep_ite (P := Keeps μ σ) ?_ ?_ | refine OnOk.ok ?_ | exact OnOk.error | refine keep_ite (P := OnOk (Keeps μ σ)) ?_ ?_ | intro _ | split | dsimp only

theorem execAckSend_keeps {μ : Nat} {σ : State} {conn : Nat} {s : State} (hK : Keeps μ σ s)
    (hm : Sub 0x100000 μ := by first | assumption | exact Sub.of ‹Sub _ _› ⟨by decide +kernel⟩) :
    OnNext (Keeps μ σ) (execAckSend conn s) := by
  unfold execAckSend
  try dsimp only
  repeat' with_reducible first | assumption | refine sendAck_keeps ?_ | refine OnNext.next ?_ | refine OnOk.ok ?_ | exact OnOk.error | refine OnSome.some ?_ | exact OnSome.none | refine OnSomeOf.some ?_ | exact OnSomeOf.none | refine OnOkOf.ok ?_ | exact OnOkOf.error | refine act_keeps ?_ ?_ | refine live_keeps ?_ ?_ | refine keep_ite (P := OnNext (Keeps μ σ)) ?_ ?_ | refine keep_ite (P := Keeps μ σ) ?_ ?_ | refine keep_ite (P := OnOk (Keeps μ σ)) ?_ ?_ | intro _ | split | dsimp only

theorem consume_keeps {μ : Nat} {σ : State} {s : State} {n : Nat} {pkt : SkdRx} {ce : Bool} {rejected : Bool} (hK : Keeps μ σ s)
    (hm : Sub 0x1000000000000000000000000100000 μ := by first | assumption | exact Sub.of ‹Sub _ _› ⟨by decide +kernel⟩) :
    Keeps μ σ (State.consume s n pkt ce rejected) := by
  unfold State.consume
  try dsimp only
  repeat' with_reducible first | assumption | refine putConn_keeps ?_ | refine bumpIf_keeps ?_ | refine sendAck_keeps ?_ | refine keep_ite (P := Keeps μ σ) ?_ ?_ | refine OnOk.ok ?_ | exact OnOk.error | refine keep_ite (P := OnOk (Keeps μ σ)) ?_ ?_ | intro _ | split | dsimp only

theorem noConnection_keeps {μ : Nat} {σ : State} {s : State} {pkt : SkdRx} (hK : Keeps μ σ s)
    (hm : Sub 0x1000000000000000000000000100000 μ := by first | assumption | exact Sub.of ‹Sub _ _› ⟨by decide +kernel⟩) :
    Keeps μ σ (State.noConnection s pkt) := by
  unfold State.noConnection
  try dsimp only
  repeat' with_reducible first | assumption | refine bump_keeps ?_ | refine putSkd_keeps ?_ | refine pushCtl_keeps ?_ | refine keep_ite (P := Keeps μ σ) ?_ ?_ | refine OnOk.ok ?_ | exact OnOk.error | refine keep_ite (P := OnOk (Keeps μ σ)) ?_ ?_ | intro _ | split | dsimp only

theorem fencedDrop_keeps {μ : Nat} {σ : State} {s : State} {c : Conn} {pkt : SkdRx} (hK : Keeps μ σ s)
    (hm : Sub 0x1000000000000000000000000100000 μ := by first | assumption | exact Sub.of ‹Sub _ _› ⟨by decide +kernel⟩) :
    Keeps μ σ (State.fencedDrop s c pkt) := by
  unfold State.fencedDrop
  try dsimp only
  repeat' with_reducible first | assumption | refine bump_keeps ?_ | refine putConn_keeps ?_ | refine notice_keeps ?_ | refine keep_ite (P := Keeps μ σ) ?_ ?_ | refine OnOk.ok ?_ | exact OnOk.error | refine keep_ite (P := OnOk (Keeps μ σ)) ?_ ?_ | intro _ | split | dsimp only

/-- The state of a result, whichever of the two it is. -/
def OnEither {α β : Type} (P : State → Prop) (r : Except State (α × β × State)) : Prop :=
  (∀ t, r = .error t → P t) ∧ ∀ x, r = .ok x → P x.2.2

theorem OnEither.error {α β : Type} {P : State → Prop} {t : State} (h : P t) : OnEither (α := α) (β := β) P (.error t) :=
  ⟨fun _ e => by cases e; exact h, fun _ e => by cases e⟩

theorem OnEither.ok {α β : Type} {P : State → Prop} {a : α} {b : β} {t : State} (h : P t) : OnEither P (.ok (a, b, t)) :=
  ⟨fun _ e => (by cases e), fun _ e => (by cases e; exact h)⟩

theorem keep_of_either_err {α β : Type} {P : State → Prop} {r : Except State (α × β × State)} {t : State} (e : r = .error t)
    (h : OnEither P r) : P t := h.1 t e

theorem keep_of_either_ok {α β : Type} {P : State → Prop} {r : Except State (α × β × State)} {a : α} {b : β} {t : State}
    (e : r = .ok (a, b, t)) (h : OnEither P r) : P t := h.2 _ e

/-- A packet refused or admitted leaves the same zones alone. -/
theorem takePacket_keeps {μ : Nat} {σ : State} {s : State} {pkt : SkdRx} {type : Nat} (hK : Keeps μ σ s)
    (hm : Sub 0x9000000000000000000000000100000 μ := by first | assumption | exact Sub.of ‹Sub _ _› ⟨by decide +kernel⟩) :
    OnEither (Keeps μ σ) (State.takePacket s pkt type) := by
  have hb : Keeps μ σ (s.bump (Reg.portStat.rxFrames pkt.port)) := by
    refine bump_keeps ?_
    exact hK
  unfold State.takePacket
  extract_lets s1
  have h1 : Keeps μ σ s1 := hb
  clear_value s1
  refine keep_ite (P := OnEither (Keeps μ σ)) (OnEither.error ?_) ?_
  · refine bump_keeps ?_
    exact h1
  split
  · refine OnEither.error ?_
    refine noConnection_keeps ?_
    exact h1
  · rename_i c _
    refine keep_ite (P := OnEither (Keeps μ σ)) (OnEither.error ?_) ?_
    · refine noConnection_keeps ?_
      exact h1
    refine keep_ite (P := OnEither (Keeps μ σ)) (OnEither.error ?_) ?_
    · refine bump_keeps ?_
      exact h1
    refine keep_ite (P := OnEither (Keeps μ σ)) (OnEither.error ?_) ?_
    · refine fencedDrop_keeps ?_
      exact h1
    extract_lets pk policed
    have hp : Keeps μ σ policed.2 ∧ OnSomeOf (fun x => Keeps μ σ x.2) policed.1 := by
      unfold policed
      split
      · exact police_keeps h1
      · exact ⟨h1, OnSomeOf.some h1⟩
    clear_value policed
    obtain ⟨o, t⟩ := policed
    rcases o with _ | ⟨marked, u⟩
    · exact OnEither.error hp.1
    · have hu : Keeps μ σ u := hp.2 _ rfl
      dsimp only
      have hv : Keeps μ σ (u.bumpIf (pkt.ce || marked) (Reg.portStat.ceMarked pkt.port)) := by
        refine bumpIf_keeps ?_
        exact hu
      generalize u.bumpIf (pkt.ce || marked) (Reg.portStat.ceMarked pkt.port) = v at hv
      repeat' with_reducible first | assumption | refine OnEither.error ?_ | refine OnEither.ok ?_ | refine bump_keeps ?_ | refine putConn_keeps ?_ | refine sendAck_keeps ?_ | refine consume_keeps ?_ | refine keep_ite (P := OnEither (Keeps μ σ)) ?_ ?_ | refine keep_ite (P := Keeps μ σ) ?_ ?_ | split

theorem beginMsg_keeps {μ : Nat} {σ : State} {s : State} {c : Conn} {pkt : SkdRx} {e : SkdExt} (hK : Keeps μ σ s)
    (hm : Sub 0x8000000000000100200 μ := by first | assumption | exact Sub.of ‹Sub _ _› ⟨by decide +kernel⟩) :
    OnSomeOf (fun x => Keeps μ σ x.2.2) (State.beginMsg s c pkt e) := by
  unfold State.beginMsg
  try dsimp only
  repeat' with_reducible first | assumption | refine putConn_keeps ?_ | refine unitAlloc_keeps ?_ | refine keep_of_some_12 ‹_› (unitAlloc_keeps ?_) | refine OnNext.next ?_ | refine OnOk.ok ?_ | exact OnOk.error | refine OnSome.some ?_ | exact OnSome.none | refine OnSomeOf.some ?_ | exact OnSomeOf.none | refine OnOkOf.ok ?_ | exact OnOkOf.error | refine act_keeps ?_ ?_ | refine live_keeps ?_ ?_ | refine keep_ite (P := OnSomeOf (fun x => Keeps μ σ x.2.2)) ?_ ?_ | refine keep_ite (P := Keeps μ σ) ?_ ?_ | refine keep_ite (P := OnOk (Keeps μ σ)) ?_ ?_ | intro _ | split | dsimp only

theorem placeMsg_keeps {μ : Nat} {σ : State} {s : State} {c : Conn} {m : RxMsg} {off : Nat} {b : Bytes} (hK : Keeps μ σ s)
    (hm : Sub 0x40000000000008000000000000000200 μ := by first | assumption | exact Sub.of ‹Sub _ _› ⟨by decide +kernel⟩) :
    Keeps μ σ (State.placeMsg s c m off b) := by
  unfold State.placeMsg
  try dsimp only
  repeat' with_reducible first | assumption | refine bufWrite_keeps ?_ | refine keep_ite (P := Keeps μ σ) ?_ ?_ | refine OnOk.ok ?_ | exact OnOk.error | refine keep_ite (P := OnOk (Keeps μ σ)) ?_ ?_ | intro _ | split | dsimp only

theorem endMsg_keeps {μ : Nat} {σ : State} {s : State} {n : Nat} {m : RxMsg} (hK : Keeps μ σ s)
    (hm : Sub 0x80000000000c0700206 μ := by first | assumption | exact Sub.of ‹Sub _ _› ⟨by decide +kernel⟩) :
    Keeps μ σ (State.endMsg s n m) := by
  unfold State.endMsg
  try dsimp only
  repeat' with_reducible first | assumption | refine unitFree_keeps ?_ | refine putConn_keeps ?_ | refine keep_ite (P := Keeps μ σ) ?_ ?_ | refine OnOk.ok ?_ | exact OnOk.error | refine keep_ite (P := OnOk (Keeps μ σ)) ?_ ?_ | intro _ | split | dsimp only

theorem discarded_keeps {μ : Nat} {σ : State} {s : State} {c : Conn} {id : Nat} {status : Nat} (hK : Keeps μ σ s)
    (hm : Sub 0x100000 μ := by first | assumption | exact Sub.of ‹Sub _ _› ⟨by decide +kernel⟩) :
    Keeps μ σ (State.discarded s c id status) := by
  unfold State.discarded
  try dsimp only
  repeat' with_reducible first | assumption | refine notice_keeps ?_ | refine keep_ite (P := Keeps μ σ) ?_ ?_ | refine OnOk.ok ?_ | exact OnOk.error | refine keep_ite (P := OnOk (Keeps μ σ)) ?_ ?_ | intro _ | split | dsimp only

theorem deliver_keeps {μ : Nat} {σ : State} {s : State} {c : Conn} {m : RxMsg} {imm : Nat} (hK : Keeps μ σ s)
    (hm : Sub 0x200040000008a8000000000723010 μ := by first | assumption | exact Sub.of ‹Sub _ _› ⟨by decide +kernel⟩) :
    Keeps μ σ (State.deliver s c m imm) := by
  unfold State.deliver
  try dsimp only
  repeat' with_reducible first | assumption | refine rolloutChunk_keeps ?_ | refine discarded_keeps ?_ | refine remoteIngest_keeps ?_ | refine notice_keeps ?_ | refine emit_keeps ?_ | refine keep_ite (P := Keeps μ σ) ?_ ?_ | refine OnOk.ok ?_ | exact OnOk.error | refine keep_ite (P := OnOk (Keeps μ σ)) ?_ ?_ | intro _ | split | dsimp only

theorem tryFinish_keeps {μ : Nat} {σ : State} {s : State} {n : Nat} {id : Nat} (hK : Keeps μ σ s)
    (hm : Sub 0x400200040000088a80000000c0723216 μ := by first | assumption | exact Sub.of ‹Sub _ _› ⟨by decide +kernel⟩) :
    Keeps μ σ (State.tryFinish s n id) := by
  unfold State.tryFinish
  try dsimp only
  repeat' with_reducible first | assumption | refine endMsg_keeps ?_ | refine placeMsg_keeps ?_ | refine deliver_keeps ?_ | refine keep_ite (P := Keeps μ σ) ?_ ?_ | refine OnOk.ok ?_ | exact OnOk.error | refine keep_ite (P := OnOk (Keeps μ σ)) ?_ ?_ | intro _ | split | dsimp only

theorem rejectWrite_keeps {μ : Nat} {σ : State} {s : State} {c : Conn} {pkt : SkdRx} {ce : Bool} {final : Bool} (hK : Keeps μ σ s)
    (hm : Sub 0x10000000000080000000000c0700206 μ := by first | assumption | exact Sub.of ‹Sub _ _› ⟨by decide +kernel⟩) :
    Keeps μ σ (State.rejectWrite s c pkt ce final) := by
  unfold State.rejectWrite
  try dsimp only
  repeat' with_reducible first | assumption | refine putConn_keeps ?_ | refine endMsg_keeps ?_ | refine consume_keeps ?_ | refine keep_ite (P := Keeps μ σ) ?_ ?_ | refine OnOk.ok ?_ | exact OnOk.error | refine keep_ite (P := OnOk (Keeps μ σ)) ?_ ?_ | intro _ | split | dsimp only

theorem takeWrite_keeps {μ : Nat} {σ : State} {s : State} {c : Conn} {pkt : SkdRx} {ce : Bool} {e : SkdExt} {final : Bool} (hK : Keeps μ σ s)
    (hm : Sub 0x410200040000088a80000000c0723216 μ := by first | assumption | exact Sub.of ‹Sub _ _› ⟨by decide +kernel⟩) :
    Keeps μ σ (State.takeWrite s c pkt ce e final) := by
  unfold State.takeWrite
  try dsimp only
  repeat' with_reducible first | assumption | refine rejectWrite_keeps ?_ | refine beginMsg_keeps ?_ | refine keep_of_some_23 ‹_› (beginMsg_keeps ?_) | refine consume_keeps ?_ | refine discarded_keeps ?_ | refine putConn_keeps ?_ | refine placeMsg_keeps ?_ | refine tryFinish_keeps ?_ | refine keep_ite (P := Keeps μ σ) ?_ ?_ | refine OnOk.ok ?_ | exact OnOk.error | refine keep_ite (P := OnOk (Keeps μ σ)) ?_ ?_ | intro _ | split | dsimp only

theorem takeRead_keeps {μ : Nat} {σ : State} {s : State} {c : Conn} {pkt : SkdRx} {ce : Bool} {e : SkdExt} (hK : Keeps μ σ s)
    (hm : Sub 0x1000000000000000000000000100000 μ := by first | assumption | exact Sub.of ‹Sub _ _› ⟨by decide +kernel⟩) :
    Keeps μ σ (State.takeRead s c pkt ce e) := by
  unfold State.takeRead
  try dsimp only
  repeat' with_reducible first | assumption | refine notice_keeps ?_ | refine consume_keeps ?_ | refine queuePkts_keeps ?_ | refine keep_ite (P := Keeps μ σ) ?_ ?_ | refine OnOk.ok ?_ | exact OnOk.error | refine keep_ite (P := OnOk (Keeps μ σ)) ?_ ?_ | intro _ | split | dsimp only

theorem takeResp_keeps {μ : Nat} {σ : State} {s : State} {c : Conn} {pkt : SkdRx} {ce : Bool} {e : SkdExt} (hK : Keeps μ σ s)
    (hm : Sub 0x41000000000008000000000000700200 μ := by first | assumption | exact Sub.of ‹Sub _ _› ⟨by decide +kernel⟩) :
    Keeps μ σ (State.takeResp s c pkt ce e) := by
  unfold State.takeResp
  try dsimp only
  repeat' with_reducible first | assumption | refine consume_keeps ?_ | refine putConn_keeps ?_ | refine readDone_keeps ?_ | refine opEnds_keeps ?_ | refine keep_ite (P := Keeps μ σ) ?_ ?_ | refine OnOk.ok ?_ | exact OnOk.error | refine keep_ite (P := OnOk (Keeps μ σ)) ?_ ?_ | intro _ | split | dsimp only

theorem ackDeck_keeps {μ : Nat} {σ : State} {s : State} {l : List Sent} (hK : Keeps μ σ s)
    (hm : Sub 0x10000 μ := by first | assumption | exact Sub.of ‹Sub _ _› ⟨by decide +kernel⟩) :
    Keeps μ σ (State.ackDeck s l) := by
  unfold State.ackDeck
  try dsimp only
  repeat' with_reducible first | assumption | refine putEntry_keeps ?_ | refine keep_ite (P := Keeps μ σ) ?_ ?_ | refine keep_foldl (P := Keeps μ σ) ?_ ?_ | refine OnOk.ok ?_ | exact OnOk.error | refine keep_ite (P := OnOk (Keeps μ σ)) ?_ ?_ | intro _ | split | dsimp only

theorem settleOps_keeps {μ : Nat} {σ : State} {s : State} {n : Nat} (hK : Keeps μ σ s)
    (hm : Sub 0x700000 μ := by first | assumption | exact Sub.of ‹Sub _ _› ⟨by decide +kernel⟩) :
    Keeps μ σ (State.settleOps s n) := by
  unfold State.settleOps
  try dsimp only
  repeat' with_reducible first | assumption | refine putConn_keeps ?_ | refine opEnds_keeps ?_ | refine keep_ite (P := Keeps μ σ) ?_ ?_ | refine keep_foldl (P := Keeps μ σ) ?_ ?_ | refine OnOk.ok ?_ | exact OnOk.error | refine keep_ite (P := OnOk (Keeps μ σ)) ?_ ?_ | intro _ | split | dsimp only

theorem takeAck_keeps {μ : Nat} {σ : State} {s : State} {c : Conn} {p : Bytes} (hK : Keeps μ σ s)
    (hm : Sub 0x710000 μ := by first | assumption | exact Sub.of ‹Sub _ _› ⟨by decide +kernel⟩) :
    Keeps μ σ (State.takeAck s c p) := by
  unfold State.takeAck
  try dsimp only
  repeat' with_reducible first | assumption | refine putConn_keeps ?_ | refine putSkd_keeps ?_ | refine putPortTx_keeps ?_ | refine ackDeck_keeps ?_ | refine settleOps_keeps ?_ | refine offer_keeps ?_ | refine keep_ite (P := Keeps μ σ) ?_ ?_ | refine keep_foldl (P := Keeps μ σ) ?_ ?_ | refine OnOk.ok ?_ | exact OnOk.error | refine keep_ite (P := OnOk (Keeps μ σ)) ?_ ?_ | intro _ | split | dsimp only

theorem takePlain_keeps {μ : Nat} {σ : State} {s : State} {pkt : SkdRx} {code : Nat} (hK : Keeps μ σ s)
    (hm : Sub 0x1000000000000000000000000200000 μ := by first | assumption | exact Sub.of ‹Sub _ _› ⟨by decide +kernel⟩) :
    Keeps μ σ (State.takePlain s pkt code) := by
  unfold State.takePlain
  try dsimp only
  repeat' with_reducible first | assumption | refine bump_keeps ?_ | refine emit_keeps ?_ | refine keep_ite (P := Keeps μ σ) ?_ ?_ | refine OnOk.ok ?_ | exact OnOk.error | refine keep_ite (P := OnOk (Keeps μ σ)) ?_ ?_ | intro _ | split | dsimp only

theorem takeDiscarded_keeps {μ : Nat} {σ : State} {s : State} {n : Nat} {p : Bytes} (hK : Keeps μ σ s)
    (hm : Sub 0x700000 μ := by first | assumption | exact Sub.of ‹Sub _ _› ⟨by decide +kernel⟩) :
    Keeps μ σ (State.takeDiscarded s n p) := by
  unfold State.takeDiscarded
  try dsimp only
  repeat' with_reducible first | assumption | refine putConn_keeps ?_ | refine sendWrites_keeps ?_ | refine opEnds_keeps ?_ | refine keep_ite (P := Keeps μ σ) ?_ ?_ | refine OnOk.ok ?_ | exact OnOk.error | refine keep_ite (P := OnOk (Keeps μ σ)) ?_ ?_ | intro _ | split | dsimp only

theorem takeReadError_keeps {μ : Nat} {σ : State} {s : State} {n : Nat} {p : Bytes} (hK : Keeps μ σ s)
    (hm : Sub 0x700000 μ := by first | assumption | exact Sub.of ‹Sub _ _› ⟨by decide +kernel⟩) :
    Keeps μ σ (State.takeReadError s n p) := by
  unfold State.takeReadError
  try dsimp only
  repeat' with_reducible first | assumption | refine putConn_keeps ?_ | refine opEnds_keeps ?_ | refine keep_ite (P := Keeps μ σ) ?_ ?_ | refine OnOk.ok ?_ | exact OnOk.error | refine keep_ite (P := OnOk (Keeps μ σ)) ?_ ?_ | intro _ | split | dsimp only

theorem handle_keeps {μ : Nat} {σ : State} {s : State} {lk : State → SkdBody → Nat → State} {pkt : SkdRx} {body : SkdBody} (hK : Keeps μ σ s) (hf_lk : ∀ v0 v1 v2, Keeps μ σ v0 → Keeps μ σ (lk v0 v1 v2))
    (hm : Sub 0x490200040000088a80000000c0733216 μ := by first | assumption | exact Sub.of ‹Sub _ _› ⟨by decide +kernel⟩) :
    Keeps μ σ (State.handle s lk pkt body) := by
  unfold State.handle
  try dsimp only
  repeat' with_reducible first | assumption | refine hf_lk _ _ _ ?_ | refine takePlain_keeps ?_ | refine takePacket_keeps ?_ | refine keep_of_either_err ‹_› (takePacket_keeps ?_) | refine keep_of_either_ok ‹_› (takePacket_keeps ?_) | refine takeWrite_keeps ?_ | refine takeRead_keeps ?_ | refine takeResp_keeps ?_ | refine takeAck_keeps ?_ | refine consume_keeps ?_ | refine emit_keeps ?_ | refine takeDiscarded_keeps ?_ | refine takeReadError_keeps ?_ | refine keep_ite (P := Keeps μ σ) ?_ ?_ | refine OnOk.ok ?_ | exact OnOk.error | refine keep_ite (P := OnOk (Keeps μ σ)) ?_ ?_ | intro _ | split | dsimp only | refine keep_of_ok ‹_› ?_

theorem receive_keeps {μ : Nat} {σ : State} {s : State} {lk : State → SkdBody → Nat → State} {pkt : SkdRx} {body : SkdBody} (hK : Keeps μ σ s) (hf_lk : ∀ v0 v1 v2, Keeps μ σ v0 → Keeps μ σ (lk v0 v1 v2))
    (hm : Sub 0x690200040000088a80000000c0733216 μ := by first | assumption | exact Sub.of ‹Sub _ _› ⟨by decide +kernel⟩) :
    Keeps μ σ (State.receive s lk pkt body) := by
  unfold State.receive
  try dsimp only
  repeat' with_reducible first | assumption | refine hf_lk _ _ _ ?_ | refine bump_keeps ?_ | refine handle_keeps ?_ ?_ | refine putSkd_keeps ?_ | refine keep_ite (P := Keeps μ σ) ?_ ?_ | refine OnOk.ok ?_ | exact OnOk.error | refine keep_ite (P := OnOk (Keeps μ σ)) ?_ ?_ | intro _ | split | dsimp only

theorem noLookout_keeps {μ : Nat} {σ : State} {s : State} {w1 : SkdBody} {w2 : Nat} (hK : Keeps μ σ s)
    (hm : Sub 0x0 μ := by first | assumption | exact Sub.of ‹Sub _ _› ⟨by decide +kernel⟩) :
    Keeps μ σ (noLookout s w1 w2) := by
  unfold noLookout
  try dsimp only
  repeat' with_reducible first | assumption | refine keep_ite (P := Keeps μ σ) ?_ ?_ | refine OnOk.ok ?_ | exact OnOk.error | refine keep_ite (P := OnOk (Keeps μ σ)) ?_ ?_ | intro _ | split | dsimp only

theorem execSkdWriteRx_keeps {μ : Nat} {σ : State} {pkt : SkdRx} {ext : SkdExt} {s : State} (hK : Keeps μ σ s)
    (hm : Sub 0x690200040000088a80000000c0733216 μ := by first | assumption | exact Sub.of ‹Sub _ _› ⟨by decide +kernel⟩) :
    OnNext (Keeps μ σ) (execSkdWriteRx pkt ext s) := by
  unfold execSkdWriteRx
  try dsimp only
  repeat' with_reducible first | assumption | refine receive_keeps ?_ ?_ | refine noLookout_keeps ?_ | refine OnNext.next ?_ | refine OnOk.ok ?_ | exact OnOk.error | refine OnSome.some ?_ | exact OnSome.none | refine OnSomeOf.some ?_ | exact OnSomeOf.none | refine OnOkOf.ok ?_ | exact OnOkOf.error | refine act_keeps ?_ ?_ | refine live_keeps ?_ ?_ | refine keep_ite (P := OnNext (Keeps μ σ)) ?_ ?_ | refine keep_ite (P := Keeps μ σ) ?_ ?_ | refine keep_ite (P := OnOk (Keeps μ σ)) ?_ ?_ | intro _ | split | dsimp only

theorem execSkdWriteImmRx_keeps {μ : Nat} {σ : State} {pkt : SkdRx} {ext : SkdExt} {s : State} (hK : Keeps μ σ s)
    (hm : Sub 0x690200040000088a80000000c0733216 μ := by first | assumption | exact Sub.of ‹Sub _ _› ⟨by decide +kernel⟩) :
    OnNext (Keeps μ σ) (execSkdWriteImmRx pkt ext s) := by
  unfold execSkdWriteImmRx
  try dsimp only
  repeat' with_reducible first | assumption | refine receive_keeps ?_ ?_ | refine noLookout_keeps ?_ | refine OnNext.next ?_ | refine OnOk.ok ?_ | exact OnOk.error | refine OnSome.some ?_ | exact OnSome.none | refine OnSomeOf.some ?_ | exact OnSomeOf.none | refine OnOkOf.ok ?_ | exact OnOkOf.error | refine act_keeps ?_ ?_ | refine live_keeps ?_ ?_ | refine keep_ite (P := OnNext (Keeps μ σ)) ?_ ?_ | refine keep_ite (P := Keeps μ σ) ?_ ?_ | refine keep_ite (P := OnOk (Keeps μ σ)) ?_ ?_ | intro _ | split | dsimp only

theorem execSkdReadReqRx_keeps {μ : Nat} {σ : State} {pkt : SkdRx} {ext : SkdExt} {s : State} (hK : Keeps μ σ s)
    (hm : Sub 0x690200040000088a80000000c0733216 μ := by first | assumption | exact Sub.of ‹Sub _ _› ⟨by decide +kernel⟩) :
    OnNext (Keeps μ σ) (execSkdReadReqRx pkt ext s) := by
  unfold execSkdReadReqRx
  try dsimp only
  repeat' with_reducible first | assumption | refine receive_keeps ?_ ?_ | refine noLookout_keeps ?_ | refine OnNext.next ?_ | refine OnOk.ok ?_ | exact OnOk.error | refine OnSome.some ?_ | exact OnSome.none | refine OnSomeOf.some ?_ | exact OnSomeOf.none | refine OnOkOf.ok ?_ | exact OnOkOf.error | refine act_keeps ?_ ?_ | refine live_keeps ?_ ?_ | refine keep_ite (P := OnNext (Keeps μ σ)) ?_ ?_ | refine keep_ite (P := Keeps μ σ) ?_ ?_ | refine keep_ite (P := OnOk (Keeps μ σ)) ?_ ?_ | intro _ | split | dsimp only

theorem execSkdReadRespRx_keeps {μ : Nat} {σ : State} {pkt : SkdRx} {ext : SkdExt} {s : State} (hK : Keeps μ σ s)
    (hm : Sub 0x690200040000088a80000000c0733216 μ := by first | assumption | exact Sub.of ‹Sub _ _› ⟨by decide +kernel⟩) :
    OnNext (Keeps μ σ) (execSkdReadRespRx pkt ext s) := by
  unfold execSkdReadRespRx
  try dsimp only
  repeat' with_reducible first | assumption | refine receive_keeps ?_ ?_ | refine noLookout_keeps ?_ | refine OnNext.next ?_ | refine OnOk.ok ?_ | exact OnOk.error | refine OnSome.some ?_ | exact OnSome.none | refine OnSomeOf.some ?_ | exact OnSomeOf.none | refine OnOkOf.ok ?_ | exact OnOkOf.error | refine act_keeps ?_ ?_ | refine live_keeps ?_ ?_ | refine keep_ite (P := OnNext (Keeps μ σ)) ?_ ?_ | refine keep_ite (P := Keeps μ σ) ?_ ?_ | refine keep_ite (P := OnOk (Keeps μ σ)) ?_ ?_ | intro _ | split | dsimp only

theorem execSkdAckRx_keeps {μ : Nat} {σ : State} {pkt : SkdRx} {s : State} (hK : Keeps μ σ s)
    (hm : Sub 0x690200040000088a80000000c0733216 μ := by first | assumption | exact Sub.of ‹Sub _ _› ⟨by decide +kernel⟩) :
    OnNext (Keeps μ σ) (execSkdAckRx pkt s) := by
  unfold execSkdAckRx
  try dsimp only
  repeat' with_reducible first | assumption | refine receive_keeps ?_ ?_ | refine noLookout_keeps ?_ | refine OnNext.next ?_ | refine OnOk.ok ?_ | exact OnOk.error | refine OnSome.some ?_ | exact OnSome.none | refine OnSomeOf.some ?_ | exact OnSomeOf.none | refine OnOkOf.ok ?_ | exact OnOkOf.error | refine act_keeps ?_ ?_ | refine live_keeps ?_ ?_ | refine keep_ite (P := OnNext (Keeps μ σ)) ?_ ?_ | refine keep_ite (P := Keeps μ σ) ?_ ?_ | refine keep_ite (P := OnOk (Keeps μ σ)) ?_ ?_ | intro _ | split | dsimp only

theorem execNoticeNoConnection_keeps {μ : Nat} {σ : State} {pkt : SkdRx} {s : State} (hK : Keeps μ σ s)
    (hm : Sub 0x690200040000088a80000000c0733216 μ := by first | assumption | exact Sub.of ‹Sub _ _› ⟨by decide +kernel⟩) :
    OnNext (Keeps μ σ) (execNoticeNoConnection pkt s) := by
  unfold execNoticeNoConnection
  try dsimp only
  repeat' with_reducible first | assumption | refine receive_keeps ?_ ?_ | refine noLookout_keeps ?_ | refine OnNext.next ?_ | refine OnOk.ok ?_ | exact OnOk.error | refine OnSome.some ?_ | exact OnSome.none | refine OnSomeOf.some ?_ | exact OnSomeOf.none | refine OnOkOf.ok ?_ | exact OnOkOf.error | refine act_keeps ?_ ?_ | refine live_keeps ?_ ?_ | refine keep_ite (P := OnNext (Keeps μ σ)) ?_ ?_ | refine keep_ite (P := Keeps μ σ) ?_ ?_ | refine keep_ite (P := OnOk (Keeps μ σ)) ?_ ?_ | intro _ | split | dsimp only

theorem execNoticeIngestResult_keeps {μ : Nat} {σ : State} {pkt : SkdRx} {s : State} (hK : Keeps μ σ s)
    (hm : Sub 0x690200040000088a80000000c0733216 μ := by first | assumption | exact Sub.of ‹Sub _ _› ⟨by decide +kernel⟩) :
    OnNext (Keeps μ σ) (execNoticeIngestResult pkt s) := by
  unfold execNoticeIngestResult
  try dsimp only
  repeat' with_reducible first | assumption | refine receive_keeps ?_ ?_ | refine noLookout_keeps ?_ | refine OnNext.next ?_ | refine OnOk.ok ?_ | exact OnOk.error | refine OnSome.some ?_ | exact OnSome.none | refine OnSomeOf.some ?_ | exact OnSomeOf.none | refine OnOkOf.ok ?_ | exact OnOkOf.error | refine act_keeps ?_ ?_ | refine live_keeps ?_ ?_ | refine keep_ite (P := OnNext (Keeps μ σ)) ?_ ?_ | refine keep_ite (P := Keeps μ σ) ?_ ?_ | refine keep_ite (P := OnOk (Keeps μ σ)) ?_ ?_ | intro _ | split | dsimp only

theorem execNoticeMsgDiscarded_keeps {μ : Nat} {σ : State} {pkt : SkdRx} {s : State} (hK : Keeps μ σ s)
    (hm : Sub 0x690200040000088a80000000c0733216 μ := by first | assumption | exact Sub.of ‹Sub _ _› ⟨by decide +kernel⟩) :
    OnNext (Keeps μ σ) (execNoticeMsgDiscarded pkt s) := by
  unfold execNoticeMsgDiscarded
  try dsimp only
  repeat' with_reducible first | assumption | refine receive_keeps ?_ ?_ | refine noLookout_keeps ?_ | refine OnNext.next ?_ | refine OnOk.ok ?_ | exact OnOk.error | refine OnSome.some ?_ | exact OnSome.none | refine OnSomeOf.some ?_ | exact OnSomeOf.none | refine OnOkOf.ok ?_ | exact OnOkOf.error | refine act_keeps ?_ ?_ | refine live_keeps ?_ ?_ | refine keep_ite (P := OnNext (Keeps μ σ)) ?_ ?_ | refine keep_ite (P := Keeps μ σ) ?_ ?_ | refine keep_ite (P := OnOk (Keeps μ σ)) ?_ ?_ | intro _ | split | dsimp only

theorem execNoticeReadError_keeps {μ : Nat} {σ : State} {pkt : SkdRx} {s : State} (hK : Keeps μ σ s)
    (hm : Sub 0x690200040000088a80000000c0733216 μ := by first | assumption | exact Sub.of ‹Sub _ _› ⟨by decide +kernel⟩) :
    OnNext (Keeps μ σ) (execNoticeReadError pkt s) := by
  unfold execNoticeReadError
  try dsimp only
  repeat' with_reducible first | assumption | refine receive_keeps ?_ ?_ | refine noLookout_keeps ?_ | refine OnNext.next ?_ | refine OnOk.ok ?_ | exact OnOk.error | refine OnSome.some ?_ | exact OnSome.none | refine OnSomeOf.some ?_ | exact OnSomeOf.none | refine OnOkOf.ok ?_ | exact OnOkOf.error | refine act_keeps ?_ ?_ | refine live_keeps ?_ ?_ | refine keep_ite (P := OnNext (Keeps μ σ)) ?_ ?_ | refine keep_ite (P := Keeps μ σ) ?_ ?_ | refine keep_ite (P := OnOk (Keeps μ σ)) ?_ ?_ | intro _ | split | dsimp only

theorem execRocev2AckNak_keeps {μ : Nat} {σ : State} {conn : Nat} {psn : Nat} {nak : Bool} {s : State} (hK : Keeps μ σ s)
    (hm : Sub 0x22000000000080000000000c0710206 μ := by first | assumption | exact Sub.of ‹Sub _ _› ⟨by decide +kernel⟩) :
    OnNext (Keeps μ σ) (execRocev2AckNak conn psn nak s) := by
  unfold execRocev2AckNak
  try dsimp only
  repeat' with_reducible first | assumption | refine putConn_keeps ?_ | refine ackDeck_keeps ?_ | refine settleOps_keeps ?_ | refine offer_keeps ?_ | refine lose_keeps ?_ | refine OnNext.next ?_ | refine OnOk.ok ?_ | exact OnOk.error | refine OnSome.some ?_ | exact OnSome.none | refine OnSomeOf.some ?_ | exact OnSomeOf.none | refine OnOkOf.ok ?_ | exact OnOkOf.error | refine act_keeps ?_ ?_ | refine live_keeps ?_ ?_ | refine keep_ite (P := OnNext (Keeps μ σ)) ?_ ?_ | refine keep_ite (P := Keeps μ σ) ?_ ?_ | refine keep_ite (P := OnOk (Keeps μ σ)) ?_ ?_ | intro _ | split | dsimp only

end Sys2Proof.Laws
end

