-- ==== Sys2Proof/Laws/KeepLkOps.lean ====
section
/-! SUPPORT. What each operation of Machine/LkOps.lean changes: outside the zones of its mask it keeps everything, and it
keeps the invariant. -/
namespace Sys2Proof.Laws
open Sys2Proof.Machine
set_option Elab.async false
set_option linter.unreachableTactic false
set_option linter.unusedTactic false

theorem putLk_keeps {μ : Nat} {σ : State} {s : State} {x : Lookout} (hK : Keeps μ σ s)
    (hm : Sub 0x40000 μ := by first | assumption | exact Sub.of ‹Sub _ _› ⟨by decide +kernel⟩) :
    Keeps μ σ (State.putLk s x) := by
  unfold State.putLk
  try dsimp only
  repeat' with_reducible first | assumption | refine keep_ite (P := Keeps μ σ) ?_ ?_ | (refine Keeps.lit (M := 0x40000) ?_; first | assumption | refine keep_ite (P := Keeps μ σ) ?_ ?_) | refine OnOk.ok ?_ | exact OnOk.error | refine keep_ite (P := OnOk (Keeps μ σ)) ?_ ?_ | intro _ | split | dsimp only

theorem reviewLeader_keeps {μ : Nat} {σ : State} {s : State} (hK : Keeps μ σ s)
    (hm : Sub 0x2000000000000 μ := by first | assumption | exact Sub.of ‹Sub _ _› ⟨by decide +kernel⟩) :
    Keeps μ σ (State.reviewLeader s) := by
  unfold State.reviewLeader
  try dsimp only
  repeat' with_reducible first | assumption | refine setN_keeps ?_ | refine keep_ite (P := Keeps μ σ) ?_ ?_ | refine OnOk.ok ?_ | exact OnOk.error | refine keep_ite (P := OnOk (Keeps μ σ)) ?_ ?_ | intro _ | split | dsimp only

theorem lkRegs_keeps {μ : Nat} {σ : State} {s : State} (hK : Keeps μ σ s)
    (hm : Sub 0x8000000000000000e2000000000000 μ := by first | assumption | exact Sub.of ‹Sub _ _› ⟨by decide +kernel⟩) :
    Keeps μ σ (State.lkRegs s) := by
  unfold State.lkRegs
  try dsimp only
  repeat' with_reducible first | assumption | refine setN_keeps ?_ | refine setB_keeps ?_ | refine keep_ite (P := Keeps μ σ) ?_ ?_ | refine OnOk.ok ?_ | exact OnOk.error | refine keep_ite (P := OnOk (Keeps μ σ)) ?_ ?_ | intro _ | split | dsimp only

theorem setMember_keeps {μ : Nat} {σ : State} {s : State} {gen : Nat} {st : Nat} (hK : Keeps μ σ s)
    (hm : Sub 0x40000 μ := by first | assumption | exact Sub.of ‹Sub _ _› ⟨by decide +kernel⟩) :
    Keeps μ σ (State.setMember s gen st) := by
  unfold State.setMember
  try dsimp only
  repeat' with_reducible first | assumption | refine putLk_keeps ?_ | refine keep_ite (P := Keeps μ σ) ?_ ?_ | refine OnOk.ok ?_ | exact OnOk.error | refine keep_ite (P := OnOk (Keeps μ σ)) ?_ ?_ | intro _ | split | dsimp only

theorem lkCopy_keeps {μ : Nat} {σ : State} {s : State} {kind : Nat} {payload : Bytes} {plain : Bool} {join : Option Nat} {dest : Option Nat} {path : Nat} (hK : Keeps μ σ s)
    (hm : Sub 0x340000 μ := by first | assumption | exact Sub.of ‹Sub _ _› ⟨by decide +kernel⟩) :
    Keeps μ σ (State.lkCopy s kind payload plain join dest path) := by
  unfold State.lkCopy
  try dsimp only
  repeat' with_reducible first | assumption | refine putLk_keeps ?_ | refine pushCtl_keeps ?_ | refine emit_keeps ?_ | refine keep_ite (P := Keeps μ σ) ?_ ?_ | refine OnOk.ok ?_ | exact OnOk.error | refine keep_ite (P := OnOk (Keeps μ σ)) ?_ ?_ | intro _ | split | dsimp only

theorem lkSendAs_keeps {μ : Nat} {σ : State} {s : State} {kind : Nat} {payload : Bytes} {plain : Bool} {join : Option Nat} {dest : Option Nat} (hK : Keeps μ σ s)
    (hm : Sub 0x340000 μ := by first | assumption | exact Sub.of ‹Sub _ _› ⟨by decide +kernel⟩) :
    Keeps μ σ (State.lkSendAs s kind payload plain join dest) := by
  unfold State.lkSendAs
  try dsimp only
  repeat' with_reducible first | assumption | refine lkCopy_keeps ?_ | refine putLk_keeps ?_ | refine keep_ite (P := Keeps μ σ) ?_ ?_ | refine keep_foldl (P := Keeps μ σ) ?_ ?_ | refine OnOk.ok ?_ | exact OnOk.error | refine keep_ite (P := OnOk (Keeps μ σ)) ?_ ?_ | intro _ | split | dsimp only

theorem lkCast_keeps {μ : Nat} {σ : State} {s : State} {kind : Nat} {payload : Bytes} (hK : Keeps μ σ s)
    (hm : Sub 0x340000 μ := by first | assumption | exact Sub.of ‹Sub _ _› ⟨by decide +kernel⟩) :
    Keeps μ σ (State.lkCast s kind payload) := by
  unfold State.lkCast
  try dsimp only
  repeat' with_reducible first | assumption | refine lkSendAs_keeps ?_ | refine keep_ite (P := Keeps μ σ) ?_ ?_ | refine OnOk.ok ?_ | exact OnOk.error | refine keep_ite (P := OnOk (Keeps μ σ)) ?_ ?_ | intro _ | split | dsimp only

theorem lkTo_keeps {μ : Nat} {σ : State} {s : State} {kind : Nat} {payload : Bytes} {slot : Nat} (hK : Keeps μ σ s)
    (hm : Sub 0x340000 μ := by first | assumption | exact Sub.of ‹Sub _ _› ⟨by decide +kernel⟩) :
    Keeps μ σ (State.lkTo s kind payload slot) := by
  unfold State.lkTo
  try dsimp only
  repeat' with_reducible first | assumption | refine lkSendAs_keeps ?_ | refine keep_ite (P := Keeps μ σ) ?_ ?_ | refine OnOk.ok ?_ | exact OnOk.error | refine keep_ite (P := OnOk (Keeps μ σ)) ?_ ?_ | intro _ | split | dsimp only

theorem lkCouncil_keeps {μ : Nat} {σ : State} {s : State} {kind : Nat} {payload : Bytes} (hK : Keeps μ σ s)
    (hm : Sub 0x340000 μ := by first | assumption | exact Sub.of ‹Sub _ _› ⟨by decide +kernel⟩) :
    Keeps μ σ (State.lkCouncil s kind payload) := by
  unfold State.lkCouncil
  try dsimp only
  repeat' with_reducible first | assumption | refine lkTo_keeps ?_ | refine keep_ite (P := Keeps μ σ) ?_ ?_ | refine keep_foldl (P := Keeps μ σ) ?_ ?_ | refine OnOk.ok ?_ | exact OnOk.error | refine keep_ite (P := OnOk (Keeps μ σ)) ?_ ?_ | intro _ | split | dsimp only

theorem declare_keeps {μ : Nat} {σ : State} {s : State} {what : Nat} {epoch : Nat} {step : Nat} (hK : Keeps μ σ s)
    (hm : Sub 0x340000 μ := by first | assumption | exact Sub.of ‹Sub _ _› ⟨by decide +kernel⟩) :
    Keeps μ σ (State.declare s what epoch step) := by
  unfold State.declare
  try dsimp only
  repeat' with_reducible first | assumption | refine lkCast_keeps ?_ | refine keep_ite (P := Keeps μ σ) ?_ ?_ | refine OnOk.ok ?_ | exact OnOk.error | refine keep_ite (P := OnOk (Keeps μ σ)) ?_ ?_ | intro _ | split | dsimp only

theorem noteSeq_keeps {μ : Nat} {σ : State} {s : State} {h : LkHdr} (hK : Keeps μ σ s)
    (hm : Sub 0x40000 μ := by first | assumption | exact Sub.of ‹Sub _ _› ⟨by decide +kernel⟩) :
    Keeps μ σ (State.noteSeq s h) := by
  unfold State.noteSeq
  try dsimp only
  repeat' with_reducible first | assumption | refine putLk_keeps ?_ | refine keep_ite (P := Keeps μ σ) ?_ ?_ | refine OnOk.ok ?_ | exact OnOk.error | refine keep_ite (P := OnOk (Keeps μ σ)) ?_ ?_ | intro _ | split | dsimp only

/-- Both states of a pair. -/
def OnPair (P : State → Prop) (r : Option State × State) : Prop := P r.2 ∧ OnSome P r.1

theorem OnPair.none {P : State → Prop} {t : State} (h : P t) : OnPair P (none, t) := ⟨h, OnSome.none⟩

theorem OnPair.some {P : State → Prop} {t u : State} (h : P t) (g : P u) : OnPair P (some u, t) := ⟨h, OnSome.some g⟩

theorem keep_of_pair_some {P : State → Prop} {r : Option State × State} {t u : State} (e : r = (some u, t)) (h : OnPair P r) :
    P u := by
  subst e; exact h.2 _ rfl

theorem keep_of_pair_none {P : State → Prop} {r : Option State × State} {o : Option State} {t : State} (e : r = (o, t))
    (h : OnPair P r) : P t := by
  subst e; exact h.1

theorem lkAdmit_keeps {μ : Nat} {σ : State} {s : State} {kind : Nat} {h : LkHdr} (hK : Keeps μ σ s)
    (hm : Sub 0x40000000340000 μ := by first | assumption | exact Sub.of ‹Sub _ _› ⟨by decide +kernel⟩) :
    OnPair (Keeps μ σ) (State.lkAdmit s kind h) := by
  unfold State.lkAdmit
  dsimp only
  repeat' with_reducible first | assumption | refine OnPair.none ?_ | refine OnPair.some ?_ ?_ | refine bump_keeps ?_ | refine putLk_keeps ?_ | refine lkSendAs_keeps ?_ | refine declare_keeps ?_ | refine noteSeq_keeps ?_ | refine keep_ite (P := OnPair (Keeps μ σ)) ?_ ?_ | refine keep_ite (P := Keeps μ σ) ?_ ?_

theorem lkFrame_keeps {μ : Nat} {σ : State} {s : State} {kind : Nat} {h : LkHdr} {f : State → State} (hK : Keeps μ σ s) (hf_f : ∀ v0, Keeps μ σ v0 → Keeps μ σ (f v0))
    (hm : Sub 0x40000000340000 μ := by first | assumption | exact Sub.of ‹Sub _ _› ⟨by decide +kernel⟩) :
    Keeps μ σ (State.lkFrame s kind h f) := by
  unfold State.lkFrame
  try dsimp only
  repeat' with_reducible first | assumption | refine hf_f _ ?_ | refine lkAdmit_keeps ?_ | refine keep_of_snd ‹_› (lkAdmit_keeps ?_) | refine keep_ite (P := Keeps μ σ) ?_ ?_ | refine keep_of_pair_some ‹_› (lkAdmit_keeps ?_) | refine keep_of_pair_none ‹_› (lkAdmit_keeps ?_) | refine OnOk.ok ?_ | exact OnOk.error | refine keep_ite (P := OnOk (Keeps μ σ)) ?_ ?_ | intro _ | split | dsimp only

theorem setAttempt_keeps {μ : Nat} {σ : State} {s : State} {epoch : Nat} {step : Nat} {consumer : Nat} {attempt : Nat} (hK : Keeps μ σ s)
    (hm : Sub 0x40000 μ := by first | assumption | exact Sub.of ‹Sub _ _› ⟨by decide +kernel⟩) :
    Keeps μ σ (State.setAttempt s epoch step consumer attempt) := by
  unfold State.setAttempt
  try dsimp only
  repeat' with_reducible first | assumption | refine putLk_keeps ?_ | refine keep_ite (P := Keeps μ σ) ?_ ?_ | refine OnOk.ok ?_ | exact OnOk.error | refine keep_ite (P := OnOk (Keeps μ σ)) ?_ ?_ | intro _ | split | dsimp only

theorem cancelWrites_keeps {μ : Nat} {σ : State} {s : State} {k : FragKey} (hK : Keeps μ σ s)
    (hm : Sub 0x100000 μ := by first | assumption | exact Sub.of ‹Sub _ _› ⟨by decide +kernel⟩) :
    Keeps μ σ (State.cancelWrites s k) := by
  unfold State.cancelWrites
  try dsimp only
  repeat' with_reducible first | assumption | refine putSkd_keeps ?_ | refine keep_ite (P := Keeps μ σ) ?_ ?_ | refine OnOk.ok ?_ | exact OnOk.error | refine keep_ite (P := OnOk (Keeps μ σ)) ?_ ?_ | intro _ | split | dsimp only

theorem renewEntry_keeps {μ : Nat} {σ : State} {s : State} {e : DeckEntry} {attempt : Nat} {floor : Nat} (hK : Keeps μ σ s)
    (hm : Sub 0x110000 μ := by first | assumption | exact Sub.of ‹Sub _ _› ⟨by decide +kernel⟩) :
    Keeps μ σ (State.renewEntry s e attempt floor) := by
  unfold State.renewEntry
  try dsimp only
  repeat' with_reducible first | assumption | refine cancelWrites_keeps ?_ | refine putEntry_keeps ?_ | refine keep_ite (P := Keeps μ σ) ?_ ?_ | refine OnOk.ok ?_ | exact OnOk.error | refine keep_ite (P := OnOk (Keeps μ σ)) ?_ ?_ | intro _ | split | dsimp only

theorem activate_keeps {μ : Nat} {σ : State} {s : State} {x : Section} {start : Nat} {f : Fragment} {attempt : Nat} {floor : Option Nat} (hK : Keeps μ σ s)
    (hm : Sub 0x10000 μ := by first | assumption | exact Sub.of ‹Sub _ _› ⟨by decide +kernel⟩) :
    Keeps μ σ (State.activate s x start f attempt floor) := by
  unfold State.activate
  try dsimp only
  repeat' with_reducible first | assumption | refine putDeck_keeps ?_ | refine keep_ite (P := Keeps μ σ) ?_ ?_ | refine OnOk.ok ?_ | exact OnOk.error | refine keep_ite (P := OnOk (Keeps μ σ)) ?_ ?_ | intro _ | split | dsimp only

theorem activateTaken_keeps {μ : Nat} {σ : State} {s : State} {t : Taken} (hK : Keeps μ σ s)
    (hm : Sub 0x10000 μ := by first | assumption | exact Sub.of ‹Sub _ _› ⟨by decide +kernel⟩) :
    Keeps μ σ (State.activateTaken s t) := by
  unfold State.activateTaken
  try dsimp only
  repeat' with_reducible first | assumption | refine activate_keeps ?_ | refine keep_ite (P := Keeps μ σ) ?_ ?_ | refine keep_foldl (P := Keeps μ σ) ?_ ?_ | refine OnOk.ok ?_ | exact OnOk.error | refine keep_ite (P := OnOk (Keeps μ σ)) ?_ ?_ | intro _ | split | dsimp only

theorem activateAll_keeps {μ : Nat} {σ : State} {s : State} (hK : Keeps μ σ s)
    (hm : Sub 0x8000000000000000e2000000010000 μ := by first | assumption | exact Sub.of ‹Sub _ _› ⟨by decide +kernel⟩) :
    Keeps μ σ (State.activateAll s) := by
  unfold State.activateAll
  try dsimp only
  repeat' with_reducible first | assumption | refine activateTaken_keeps ?_ | refine lkRegs_keeps ?_ | refine keep_ite (P := Keeps μ σ) ?_ ?_ | refine keep_foldl (P := Keeps μ σ) ?_ ?_ | refine OnOk.ok ?_ | exact OnOk.error | refine keep_ite (P := OnOk (Keeps μ σ)) ?_ ?_ | intro _ | split | dsimp only

theorem takeOver_keeps {μ : Nat} {σ : State} {s : State} {slot : Nat} {gen : Nat} {from_ : Nat} (hK : Keeps μ σ s)
    (hm : Sub 0x50000 μ := by first | assumption | exact Sub.of ‹Sub _ _› ⟨by decide +kernel⟩) :
    Keeps μ σ (State.takeOver s slot gen from_) := by
  unfold State.takeOver
  try dsimp only
  repeat' with_reducible first | assumption | refine putLk_keeps ?_ | refine activateTaken_keeps ?_ | refine keep_ite (P := Keeps μ σ) ?_ ?_ | refine OnOk.ok ?_ | exact OnOk.error | refine keep_ite (P := OnOk (Keeps μ σ)) ?_ ?_ | intro _ | split | dsimp only

theorem dropTakeover_keeps {μ : Nat} {σ : State} {s : State} {slot : Nat} {ring : Nat} (hK : Keeps μ σ s)
    (hm : Sub 0x8008000000080000e20000c0650206 μ := by first | assumption | exact Sub.of ‹Sub _ _› ⟨by decide +kernel⟩) :
    Keeps μ σ (State.dropTakeover s slot ring) := by
  unfold State.dropTakeover
  try dsimp only
  repeat' with_reducible first | assumption | refine putLk_keeps ?_ | refine putDeck_keeps ?_ | refine freeEntry_keeps ?_ | refine lkRegs_keeps ?_ | refine keep_ite (P := Keeps μ σ) ?_ ?_ | refine keep_foldl (P := Keeps μ σ) ?_ ?_ | refine OnOk.ok ?_ | exact OnOk.error | refine keep_ite (P := OnOk (Keeps μ σ)) ?_ ?_ | intro _ | split | dsimp only

theorem tellConsumer_keeps {μ : Nat} {σ : State} {s : State} {n : LkNotice} (hK : Keeps μ σ s)
    (hm : Sub 0x100000 μ := by first | assumption | exact Sub.of ‹Sub _ _› ⟨by decide +kernel⟩) :
    Keeps μ σ (State.tellConsumer s n) := by
  unfold State.tellConsumer
  try dsimp only
  repeat' with_reducible first | assumption | refine notice_keeps ?_ | refine keep_ite (P := Keeps μ σ) ?_ ?_ | refine OnOk.ok ?_ | exact OnOk.error | refine keep_ite (P := OnOk (Keeps μ σ)) ?_ ?_ | intro _ | split | dsimp only

theorem stopNotices_keeps {μ : Nat} {σ : State} {s : State} {epoch : Nat} {step : Nat} {slot : Nat} {gen : Nat} (hK : Keeps μ σ s)
    (hm : Sub 0x100000 μ := by first | assumption | exact Sub.of ‹Sub _ _› ⟨by decide +kernel⟩) :
    Keeps μ σ (State.stopNotices s epoch step slot gen) := by
  unfold State.stopNotices
  try dsimp only
  repeat' with_reducible first | assumption | refine tellConsumer_keeps ?_ | refine keep_ite (P := Keeps μ σ) ?_ ?_ | refine keep_foldl (P := Keeps μ σ) ?_ ?_ | refine OnOk.ok ?_ | exact OnOk.error | refine keep_ite (P := OnOk (Keeps μ σ)) ?_ ?_ | intro _ | split | dsimp only

theorem applyEntry_keeps {μ : Nat} {σ : State} {s : State} {a : LkAbort} {e : LkEntry} (hK : Keeps μ σ s)
    (hm : Sub 0x40000000150000 μ := by first | assumption | exact Sub.of ‹Sub _ _› ⟨by decide +kernel⟩) :
    Keeps μ σ (State.applyEntry s a e) := by
  unfold State.applyEntry
  try dsimp only
  repeat' with_reducible first | assumption | refine putLk_keeps ?_ | refine setAttempt_keeps ?_ | refine bump_keeps ?_ | refine renewEntry_keeps ?_ | refine activate_keeps ?_ | refine tellConsumer_keeps ?_ | refine keep_ite (P := Keeps μ σ) ?_ ?_ | refine keep_foldl (P := Keeps μ σ) ?_ ?_ | refine OnOk.ok ?_ | exact OnOk.error | refine keep_ite (P := OnOk (Keeps μ σ)) ?_ ?_ | intro _ | split | dsimp only

theorem unguardedStop_keeps {μ : Nat} {σ : State} {s : State} {slot : Nat} {gen : Nat} {ring : Nat} (hK : Keeps μ σ s)
    (hm : Sub 0x140000 μ := by first | assumption | exact Sub.of ‹Sub _ _› ⟨by decide +kernel⟩) :
    Keeps μ σ (State.unguardedStop s slot gen ring) := by
  unfold State.unguardedStop
  try dsimp only
  repeat' with_reducible first | assumption | refine putLk_keeps ?_ | refine stopNotices_keeps ?_ | refine keep_ite (P := Keeps μ σ) ?_ ?_ | refine OnOk.ok ?_ | exact OnOk.error | refine keep_ite (P := OnOk (Keeps μ σ)) ?_ ?_ | intro _ | split | dsimp only

end Sys2Proof.Laws
end

