-- ==== Sys2Proof/Laws/KeepCouncil.lean ====
section
/-! SUPPORT. What each operation of Machine/Council.lean changes: outside the zones of its mask it keeps everything, and it
keeps the invariant. -/
namespace Sys2Proof.Laws
open Sys2Proof.Machine
set_option Elab.async false
set_option linter.unreachableTactic false
set_option linter.unusedTactic false

theorem recompose_keeps {μ : Nat} {σ : State} {s : State} (hK : Keeps μ σ s)
    (hm : Sub 0x8000000000000000f2000000000000 μ := by first | assumption | exact Sub.of ‹Sub _ _› ⟨by decide +kernel⟩) :
    Keeps μ σ (State.recompose s) := by
  unfold State.recompose
  try dsimp only
  repeat' with_reducible first | assumption | refine setB_keeps ?_ | refine reviewLeader_keeps ?_ | refine lkRegs_keeps ?_ | refine keep_ite (P := Keeps μ σ) ?_ ?_ | refine keep_foldl (P := Keeps μ σ) ?_ ?_ | refine OnOk.ok ?_ | exact OnOk.error | refine keep_ite (P := OnOk (Keeps μ σ)) ?_ ?_ | intro _ | split | dsimp only

theorem sendVote_keeps {μ : Nat} {σ : State} {s : State} {proposal : Nat} {vote : Nat} (hK : Keeps μ σ s)
    (hm : Sub 0x340000 μ := by first | assumption | exact Sub.of ‹Sub _ _› ⟨by decide +kernel⟩) :
    Keeps μ σ (State.sendVote s proposal vote) := by
  unfold State.sendVote
  try dsimp only
  repeat' with_reducible first | assumption | refine lkCouncil_keeps ?_ | refine keep_ite (P := Keeps μ σ) ?_ ?_ | refine OnOk.ok ?_ | exact OnOk.error | refine keep_ite (P := OnOk (Keeps μ σ)) ?_ ?_ | intro _ | split | dsimp only

theorem propose_keeps {μ : Nat} {σ : State} {s : State} {d : LkDecision} (hK : Keeps μ σ s)
    (hm : Sub 0x340000 μ := by first | assumption | exact Sub.of ‹Sub _ _› ⟨by decide +kernel⟩) :
    Keeps μ σ (State.propose s d) := by
  unfold State.propose
  try dsimp only
  repeat' with_reducible first | assumption | refine putLk_keeps ?_ | refine sendVote_keeps ?_ | refine keep_ite (P := Keeps μ σ) ?_ ?_ | refine OnOk.ok ?_ | exact OnOk.error | refine keep_ite (P := OnOk (Keeps μ σ)) ?_ ?_ | intro _ | split | dsimp only

theorem putSuspicion_keeps {μ : Nat} {σ : State} {s : State} {x : Suspicion} (hK : Keeps μ σ s)
    (hm : Sub 0x40000 μ := by first | assumption | exact Sub.of ‹Sub _ _› ⟨by decide +kernel⟩) :
    Keeps μ σ (State.putSuspicion s x) := by
  unfold State.putSuspicion
  try dsimp only
  repeat' with_reducible first | assumption | refine putLk_keeps ?_ | refine keep_ite (P := Keeps μ σ) ?_ ?_ | refine OnOk.ok ?_ | exact OnOk.error | refine keep_ite (P := OnOk (Keeps μ σ)) ?_ ?_ | intro _ | split | dsimp only

theorem sendProbe_keeps {μ : Nat} {σ : State} {s : State} {x : Suspicion} (hK : Keeps μ σ s)
    (hm : Sub 0x340000 μ := by first | assumption | exact Sub.of ‹Sub _ _› ⟨by decide +kernel⟩) :
    Keeps μ σ (State.sendProbe s x) := by
  unfold State.sendProbe
  try dsimp only
  repeat' with_reducible first | assumption | refine lkTo_keeps ?_ | refine keep_ite (P := Keeps μ σ) ?_ ?_ | refine OnOk.ok ?_ | exact OnOk.error | refine keep_ite (P := OnOk (Keeps μ σ)) ?_ ?_ | intro _ | split | dsimp only

theorem checkHold_keeps {μ : Nat} {σ : State} {s : State} (hK : Keeps μ σ s)
    (hm : Sub 0x2000000340000 μ := by first | assumption | exact Sub.of ‹Sub _ _› ⟨by decide +kernel⟩) :
    Keeps μ σ (State.checkHold s) := by
  unfold State.checkHold
  try dsimp only
  repeat' with_reducible first | assumption | refine declare_keeps ?_ | refine setN_keeps ?_ | refine keep_ite (P := Keeps μ σ) ?_ ?_ | refine OnOk.ok ?_ | exact OnOk.error | refine keep_ite (P := OnOk (Keeps μ σ)) ?_ ?_ | intro _ | split | dsimp only

theorem checkDomainHold_keeps {μ : Nat} {σ : State} {s : State} {slot : Nat} (hK : Keeps μ σ s)
    (hm : Sub 0x340000 μ := by first | assumption | exact Sub.of ‹Sub _ _› ⟨by decide +kernel⟩) :
    Keeps μ σ (State.checkDomainHold s slot) := by
  unfold State.checkDomainHold
  try dsimp only
  repeat' with_reducible first | assumption | refine propose_keeps ?_ | refine keep_ite (P := Keeps μ σ) ?_ ?_ | refine OnOk.ok ?_ | exact OnOk.error | refine keep_ite (P := OnOk (Keeps μ σ)) ?_ ?_ | intro _ | split | dsimp only

theorem learnSuspicion_keeps {μ : Nat} {σ : State} {s : State} {slot : Nat} {gen : Nat} {ring : Nat} (hK : Keeps μ σ s)
    (hm : Sub 0x2000000340000 μ := by first | assumption | exact Sub.of ‹Sub _ _› ⟨by decide +kernel⟩) :
    Keeps μ σ (State.learnSuspicion s slot gen ring) := by
  unfold State.learnSuspicion
  try dsimp only
  repeat' with_reducible first | assumption | refine putLk_keeps ?_ | refine setMember_keeps ?_ | refine reviewLeader_keeps ?_ | refine sendProbe_keeps ?_ | refine checkHold_keeps ?_ | refine checkDomainHold_keeps ?_ | refine keep_ite (P := Keeps μ σ) ?_ ?_ | refine OnOk.ok ?_ | exact OnOk.error | refine keep_ite (P := OnOk (Keeps μ σ)) ?_ ?_ | intro _ | split | dsimp only

theorem shiftLaunches_keeps {μ : Nat} {σ : State} {s : State} {epoch : Nat} {shift : Nat} (hK : Keeps μ σ s)
    (hm : Sub 0x20000000000000000000000050010 μ := by first | assumption | exact Sub.of ‹Sub _ _› ⟨by decide +kernel⟩) :
    Keeps μ σ (State.shiftLaunches s epoch shift) := by
  unfold State.shiftLaunches
  try dsimp only
  repeat' with_reducible first | assumption | refine journal_keeps ?_ | refine putLk_keeps ?_ | refine putDeck_keeps ?_ | refine keep_ite (P := Keeps μ σ) ?_ ?_ | (refine Keeps.lit (M := 0x20000000000000000000000050010) ?_; first | assumption | refine journal_keeps ?_ | refine putLk_keeps ?_ | refine putDeck_keeps ?_ | refine keep_ite (P := Keeps μ σ) ?_ ?_) | refine OnOk.ok ?_ | exact OnOk.error | refine keep_ite (P := OnOk (Keeps μ σ)) ?_ ?_ | intro _ | split | dsimp only

theorem becomeSnag_keeps {μ : Nat} {σ : State} {s : State} (hK : Keeps μ σ s)
    (hm : Sub 0x20400000000080000020000c0700206 μ := by first | assumption | exact Sub.of ‹Sub _ _› ⟨by decide +kernel⟩) :
    Keeps μ σ (State.becomeSnag s) := by
  unfold State.becomeSnag
  try dsimp only
  repeat' with_reducible first | assumption | refine setN_keeps ?_ | refine closeConn_keeps ?_ | refine keep_ite (P := Keeps μ σ) ?_ ?_ | refine keep_foldl (P := Keeps μ σ) ?_ ?_ | refine OnOk.ok ?_ | exact OnOk.error | refine keep_ite (P := OnOk (Keeps μ σ)) ?_ ?_ | intro _ | split | dsimp only

theorem revoke_keeps {μ : Nat} {σ : State} {s : State} {slot : Nat} {gen : Nat} (hK : Keeps μ σ s)
    (hm : Sub 0x28000000000080000e20000c0740206 μ := by first | assumption | exact Sub.of ‹Sub _ _› ⟨by decide +kernel⟩) :
    Keeps μ σ (State.revoke s slot gen) := by
  unfold State.revoke
  try dsimp only
  repeat' with_reducible first | assumption | refine putLk_keeps ?_ | refine fencePeers_keeps ?_ | refine lkRegs_keeps ?_ | refine keep_ite (P := Keeps μ σ) ?_ ?_ | refine OnOk.ok ?_ | exact OnOk.error | refine keep_ite (P := OnOk (Keeps μ σ)) ?_ ?_ | intro _ | split | dsimp only

theorem revokedNotices_keeps {μ : Nat} {σ : State} {s : State} {slot : Nat} {gen : Nat} (hK : Keeps μ σ s)
    (hm : Sub 0x100000 μ := by first | assumption | exact Sub.of ‹Sub _ _› ⟨by decide +kernel⟩) :
    Keeps μ σ (State.revokedNotices s slot gen) := by
  unfold State.revokedNotices
  try dsimp only
  repeat' with_reducible first | assumption | refine tellConsumer_keeps ?_ | refine keep_ite (P := Keeps μ σ) ?_ ?_ | refine keep_foldl (P := Keeps μ σ) ?_ ?_ | refine OnOk.ok ?_ | exact OnOk.error | refine keep_ite (P := OnOk (Keeps μ σ)) ?_ ?_ | intro _ | split | dsimp only

theorem checkResume_keeps {μ : Nat} {σ : State} {s : State} (hK : Keeps μ σ s)
    (hm : Sub 0x340000 μ := by first | assumption | exact Sub.of ‹Sub _ _› ⟨by decide +kernel⟩) :
    Keeps μ σ (State.checkResume s) := by
  unfold State.checkResume
  try dsimp only
  repeat' with_reducible first | assumption | refine propose_keeps ?_ | refine keep_ite (P := Keeps μ σ) ?_ ?_ | refine OnOk.ok ?_ | exact OnOk.error | refine keep_ite (P := OnOk (Keeps μ σ)) ?_ ?_ | intro _ | split | dsimp only

theorem checkCoppice_keeps {μ : Nat} {σ : State} {s : State} (hK : Keeps μ σ s)
    (hm : Sub 0xc0740006 μ := by first | assumption | exact Sub.of ‹Sub _ _› ⟨by decide +kernel⟩) :
    Keeps μ σ (State.checkCoppice s) := by
  unfold State.checkCoppice
  try dsimp only
  repeat' with_reducible first | assumption | refine propose_keeps ?_ | refine refuse_keeps ?_ | refine keep_ite (P := Keeps μ σ) ?_ ?_ | refine keep_foldl (P := Keeps μ σ) ?_ ?_ | refine OnOk.ok ?_ | exact OnOk.error | refine keep_ite (P := OnOk (Keeps μ σ)) ?_ ?_ | intro _ | split | dsimp only

theorem followUp_keeps {μ : Nat} {σ : State} {s : State} (hK : Keeps μ σ s)
    (hm : Sub 0xc0740006 μ := by first | assumption | exact Sub.of ‹Sub _ _› ⟨by decide +kernel⟩) :
    Keeps μ σ (State.followUp s) := by
  unfold State.followUp
  try dsimp only
  repeat' with_reducible first | assumption | refine propose_keeps ?_ | refine checkCoppice_keeps ?_ | refine checkResume_keeps ?_ | refine keep_ite (P := Keeps μ σ) ?_ ?_ | refine OnOk.ok ?_ | exact OnOk.error | refine keep_ite (P := OnOk (Keeps μ σ)) ?_ ?_ | intro _ | split | dsimp only

theorem applyAlive_keeps {μ : Nat} {σ : State} {s : State} {d : LkDecision} (hK : Keeps μ σ s)
    (hm : Sub 0x8008000000080000e20000c0650206 μ := by first | assumption | exact Sub.of ‹Sub _ _› ⟨by decide +kernel⟩) :
    Keeps μ σ (State.applyAlive s d) := by
  unfold State.applyAlive
  try dsimp only
  repeat' with_reducible first | assumption | refine putLk_keeps ?_ | refine setMember_keeps ?_ | refine reviewLeader_keeps ?_ | refine dropTakeover_keeps ?_ | refine bump_keeps ?_ | refine setN_keeps ?_ | refine keep_ite (P := Keeps μ σ) ?_ ?_ | refine OnOk.ok ?_ | exact OnOk.error | refine keep_ite (P := OnOk (Keeps μ σ)) ?_ ?_ | intro _ | split | dsimp only

theorem applyDead_keeps {μ : Nat} {σ : State} {s : State} {d : LkDecision} (hK : Keeps μ σ s)
    (hm : Sub 0x28400000000080000f20000c0740206 μ := by first | assumption | exact Sub.of ‹Sub _ _› ⟨by decide +kernel⟩) :
    Keeps μ σ (State.applyDead s d) := by
  unfold State.applyDead
  try dsimp only
  repeat' with_reducible first | assumption | refine revoke_keeps ?_ | refine setMember_keeps ?_ | refine recompose_keeps ?_ | refine becomeSnag_keeps ?_ | refine revokedNotices_keeps ?_ | refine followUp_keeps ?_ | refine keep_ite (P := Keeps μ σ) ?_ ?_ | refine OnOk.ok ?_ | exact OnOk.error | refine keep_ite (P := OnOk (Keeps μ σ)) ?_ ?_ | intro _ | split | dsimp only

theorem applyAdmit_keeps {μ : Nat} {σ : State} {s : State} {d : LkDecision} (hK : Keeps μ σ s)
    (hm : Sub 0x8000000000000000f20000c0f40006 μ := by first | assumption | exact Sub.of ‹Sub _ _› ⟨by decide +kernel⟩) :
    Keeps μ σ (State.applyAdmit s d) := by
  unfold State.applyAdmit
  try dsimp only
  repeat' with_reducible first | assumption | refine drawn_keeps ?_ | refine putLk_keeps ?_ | refine setN_keeps ?_ | refine recompose_keeps ?_ | refine followUp_keeps ?_ | refine keep_ite (P := Keeps μ σ) ?_ ?_ | refine OnOk.ok ?_ | exact OnOk.error | refine keep_ite (P := OnOk (Keeps μ σ)) ?_ ?_ | intro _ | split | dsimp only

theorem applyCoppiceStart_keeps {μ : Nat} {σ : State} {s : State} {d : LkDecision} (hK : Keeps μ σ s)
    (hm : Sub 0x8000000000000000e2000000840000 μ := by first | assumption | exact Sub.of ‹Sub _ _› ⟨by decide +kernel⟩) :
    Keeps μ σ (State.applyCoppiceStart s d) := by
  unfold State.applyCoppiceStart
  try dsimp only
  repeat' with_reducible first | assumption | refine putLk_keeps ?_ | refine setN_keeps ?_ | refine drawn_keeps ?_ | refine lkRegs_keeps ?_ | refine keep_ite (P := Keeps μ σ) ?_ ?_ | refine OnOk.ok ?_ | exact OnOk.error | refine keep_ite (P := OnOk (Keeps μ σ)) ?_ ?_ | intro _ | split | dsimp only

theorem applySlotReady_keeps {μ : Nat} {σ : State} {s : State} {d : LkDecision} (hK : Keeps μ σ s)
    (hm : Sub 0x8008000000080000f20000c0750206 μ := by first | assumption | exact Sub.of ‹Sub _ _› ⟨by decide +kernel⟩) :
    Keeps μ σ (State.applySlotReady s d) := by
  unfold State.applySlotReady
  try dsimp only
  repeat' with_reducible first | assumption | refine putLk_keeps ?_ | refine dropTakeover_keeps ?_ | refine setN_keeps ?_ | refine recompose_keeps ?_ | refine followUp_keeps ?_ | refine keep_ite (P := Keeps μ σ) ?_ ?_ | refine OnOk.ok ?_ | exact OnOk.error | refine keep_ite (P := OnOk (Keeps μ σ)) ?_ ?_ | intro _ | split | dsimp only

theorem applyCoOpt_keeps {μ : Nat} {σ : State} {s : State} {d : LkDecision} (hK : Keeps μ σ s)
    (hm : Sub 0x120000c0740006 μ := by first | assumption | exact Sub.of ‹Sub _ _› ⟨by decide +kernel⟩) :
    Keeps μ σ (State.applyCoOpt s d) := by
  unfold State.applyCoOpt
  try dsimp only
  repeat' with_reducible first | assumption | refine setB_keeps ?_ | refine reviewLeader_keeps ?_ | refine lkTo_keeps ?_ | refine followUp_keeps ?_ | refine keep_ite (P := Keeps μ σ) ?_ ?_ | refine keep_foldl (P := Keeps μ σ) ?_ ?_ | refine OnOk.ok ?_ | exact OnOk.error | refine keep_ite (P := OnOk (Keeps μ σ)) ?_ ?_ | intro _ | split | dsimp only

theorem applyDomainHold_keeps {μ : Nat} {σ : State} {s : State} {d : LkDecision} (hK : Keeps μ σ s)
    (hm : Sub 0x42000000140000 μ := by first | assumption | exact Sub.of ‹Sub _ _› ⟨by decide +kernel⟩) :
    Keeps μ σ (State.applyDomainHold s d) := by
  unfold State.applyDomainHold
  try dsimp only
  repeat' with_reducible first | assumption | refine setN_keeps ?_ | refine bump_keeps ?_ | refine putLk_keeps ?_ | refine stopNotices_keeps ?_ | refine keep_ite (P := Keeps μ σ) ?_ ?_ | refine OnOk.ok ?_ | exact OnOk.error | refine keep_ite (P := OnOk (Keeps μ σ)) ?_ ?_ | intro _ | split | dsimp only

theorem applyResume_keeps {μ : Nat} {σ : State} {s : State} {d : LkDecision} (hK : Keeps μ σ s)
    (hm : Sub 0x8220000000000000e2000000150010 μ := by first | assumption | exact Sub.of ‹Sub _ _› ⟨by decide +kernel⟩) :
    Keeps μ σ (State.applyResume s d) := by
  unfold State.applyResume
  try dsimp only
  repeat' with_reducible first | assumption | refine shiftLaunches_keeps ?_ | refine putLk_keeps ?_ | refine setN_keeps ?_ | refine activate_keeps ?_ | refine putDeck_keeps ?_ | refine tellConsumer_keeps ?_ | refine lkRegs_keeps ?_ | refine keep_ite (P := Keeps μ σ) ?_ ?_ | refine keep_foldl (P := Keeps μ σ) ?_ ?_ | refine OnOk.ok ?_ | exact OnOk.error | refine keep_ite (P := OnOk (Keeps μ σ)) ?_ ?_ | intro _ | split | dsimp only

theorem applyOrphaned_keeps {μ : Nat} {σ : State} {s : State} {d : LkDecision} (hK : Keeps μ σ s)
    (hm : Sub 0x8000000000000000e2000000340010 μ := by first | assumption | exact Sub.of ‹Sub _ _› ⟨by decide +kernel⟩) :
    Keeps μ σ (State.applyOrphaned s d) := by
  unfold State.applyOrphaned
  try dsimp only
  repeat' with_reducible first | assumption | refine emit_keeps ?_ | refine propose_keeps ?_ | refine lkRegs_keeps ?_ | refine keep_ite (P := Keeps μ σ) ?_ ?_ | refine keep_foldl (P := Keeps μ σ) ?_ ?_ | (refine Keeps.lit (M := 0x8000000000000000e2000000340010) ?_; first | assumption | refine emit_keeps ?_ | refine propose_keeps ?_ | refine lkRegs_keeps ?_ | refine keep_ite (P := Keeps μ σ) ?_ ?_ | refine keep_foldl (P := Keeps μ σ) ?_ ?_) | refine OnOk.ok ?_ | exact OnOk.error | refine keep_ite (P := OnOk (Keeps μ σ)) ?_ ?_ | intro _ | split | dsimp only

theorem applyDemote_keeps {μ : Nat} {σ : State} {s : State} {d : LkDecision} (hK : Keeps μ σ s)
    (hm : Sub 0x28400000000080000f20000c0740206 μ := by first | assumption | exact Sub.of ‹Sub _ _› ⟨by decide +kernel⟩) :
    Keeps μ σ (State.applyDemote s d) := by
  unfold State.applyDemote
  try dsimp only
  repeat' with_reducible first | assumption | refine revoke_keeps ?_ | refine putLk_keeps ?_ | refine recompose_keeps ?_ | refine becomeSnag_keeps ?_ | refine keep_ite (P := Keeps μ σ) ?_ ?_ | refine OnOk.ok ?_ | exact OnOk.error | refine keep_ite (P := OnOk (Keeps μ σ)) ?_ ?_ | intro _ | split | dsimp only

theorem applyScores_keeps {μ : Nat} {σ : State} {s : State} {d : LkDecision} (hK : Keeps μ σ s)
    (hm : Sub 0x2000000040000 μ := by first | assumption | exact Sub.of ‹Sub _ _› ⟨by decide +kernel⟩) :
    Keeps μ σ (State.applyScores s d) := by
  unfold State.applyScores
  try dsimp only
  repeat' with_reducible first | assumption | refine putLk_keeps ?_ | refine setN_keeps ?_ | refine keep_ite (P := Keeps μ σ) ?_ ?_ | refine OnOk.ok ?_ | exact OnOk.error | refine keep_ite (P := OnOk (Keeps μ σ)) ?_ ?_ | intro _ | split | dsimp only

theorem applyOutcome_keeps {μ : Nat} {σ : State} {s : State} {d : LkDecision} (hK : Keeps μ σ s)
    (hm : Sub 0x28628000000080000f20000c0f50216 μ := by first | assumption | exact Sub.of ‹Sub _ _› ⟨by decide +kernel⟩) :
    Keeps μ σ (State.applyOutcome s d) := by
  unfold State.applyOutcome
  try dsimp only
  repeat' with_reducible first | assumption | refine applyAlive_keeps ?_ | refine applyDead_keeps ?_ | refine applyAdmit_keeps ?_ | refine applyCoppiceStart_keeps ?_ | refine applySlotReady_keeps ?_ | refine applyCoOpt_keeps ?_ | refine shiftLaunches_keeps ?_ | refine applyDomainHold_keeps ?_ | refine applyResume_keeps ?_ | refine applyOrphaned_keeps ?_ | refine applyDemote_keeps ?_ | refine applyScores_keeps ?_ | refine keep_ite (P := Keeps μ σ) ?_ ?_ | refine OnOk.ok ?_ | exact OnOk.error | refine keep_ite (P := OnOk (Keeps μ σ)) ?_ ?_ | intro _ | split | dsimp only

theorem applyDecision_keeps {μ : Nat} {σ : State} {s : State} {d : LkDecision} (hK : Keeps μ σ s)
    (hm : Sub 0x28628000000080000f20000c0f50216 μ := by first | assumption | exact Sub.of ‹Sub _ _› ⟨by decide +kernel⟩) :
    Keeps μ σ (State.applyDecision s d) := by
  unfold State.applyDecision
  try dsimp only
  repeat' with_reducible first | assumption | refine setN_keeps ?_ | refine putLk_keeps ?_ | refine applyOutcome_keeps ?_ | refine lkRegs_keeps ?_ | refine keep_ite (P := Keeps μ σ) ?_ ?_ | refine OnOk.ok ?_ | exact OnOk.error | refine keep_ite (P := OnOk (Keeps μ σ)) ?_ ?_ | intro _ | split | dsimp only

theorem decide__keeps {μ : Nat} {σ : State} {s : State} {d : LkDecision} {voters : List Nat} (hK : Keeps μ σ s)
    (hm : Sub 0x28628000000080000f20000c0f50216 μ := by first | assumption | exact Sub.of ‹Sub _ _› ⟨by decide +kernel⟩) :
    Keeps μ σ (State.decide_ s d voters) := by
  unfold State.decide_
  try dsimp only
  repeat' with_reducible first | assumption | refine lkCast_keeps ?_ | refine applyDecision_keeps ?_ | refine keep_ite (P := Keeps μ σ) ?_ ?_ | refine keep_foldl (P := Keeps μ σ) ?_ ?_ | refine OnOk.ok ?_ | exact OnOk.error | refine keep_ite (P := OnOk (Keeps μ σ)) ?_ ?_ | intro _ | split | dsimp only

theorem settleVotes_keeps {μ : Nat} {σ : State} {s : State} {x0 : Nat} (hK : Keeps μ σ s)
    (hm : Sub 0x28628000000080000f20000c0f50216 μ := by first | assumption | exact Sub.of ‹Sub _ _› ⟨by decide +kernel⟩) :
    Keeps μ σ (State.settleVotes s x0) := by
  induction x0 generalizing s with
  | zero =>
    unfold State.settleVotes
    try dsimp only
    repeat' with_reducible first | assumption | refine decide__keeps ?_ | refine keep_ite (P := Keeps μ σ) ?_ ?_ | refine OnOk.ok ?_ | exact OnOk.error | refine keep_ite (P := OnOk (Keeps μ σ)) ?_ ?_ | intro _ | split | dsimp only
  | succ n ih =>
    unfold State.settleVotes
    try dsimp only
    repeat' with_reducible first | assumption | refine ih ?_ | refine decide__keeps ?_ | refine keep_ite (P := Keeps μ σ) ?_ ?_ | refine OnOk.ok ?_ | exact OnOk.error | refine keep_ite (P := OnOk (Keeps μ σ)) ?_ ?_ | intro _ | split | dsimp only

theorem settle_keeps {μ : Nat} {σ : State} {s : State} (hK : Keeps μ σ s)
    (hm : Sub 0x28628000000080000f20000c0f50216 μ := by first | assumption | exact Sub.of ‹Sub _ _› ⟨by decide +kernel⟩) :
    Keeps μ σ (State.settle s) := by
  unfold State.settle
  try dsimp only
  repeat' with_reducible first | assumption | refine settleVotes_keeps ?_ | refine keep_ite (P := Keeps μ σ) ?_ ?_ | refine OnOk.ok ?_ | exact OnOk.error | refine keep_ite (P := OnOk (Keeps μ σ)) ?_ ?_ | intro _ | split | dsimp only

theorem castVote_keeps {μ : Nat} {σ : State} {s : State} {x : Suspicion} {vote : Nat} (hK : Keeps μ σ s)
    (hm : Sub 0x28628000000080000f20000c0f50216 μ := by first | assumption | exact Sub.of ‹Sub _ _› ⟨by decide +kernel⟩) :
    Keeps μ σ (State.castVote s x vote) := by
  unfold State.castVote
  try dsimp only
  repeat' with_reducible first | assumption | refine putSuspicion_keeps ?_ | refine sendVote_keeps ?_ | refine settle_keeps ?_ | refine keep_ite (P := Keeps μ σ) ?_ ?_ | refine OnOk.ok ?_ | exact OnOk.error | refine keep_ite (P := OnOk (Keeps μ σ)) ?_ ?_ | intro _ | split | dsimp only

end Sys2Proof.Laws
end

