-- ==== Sys2Proof/Laws/KeepLookout.lean ====
section
/-! SUPPORT. What each operation of Machine/Lookout.lean changes: outside the zones of its mask it keeps everything, and it
keeps the invariant. -/
namespace Sys2Proof.Laws
open Sys2Proof.Machine
set_option Elab.async false
set_option linter.unreachableTactic false
set_option linter.unusedTactic false

theorem sendHeartbeats_keeps {μ : Nat} {σ : State} {s : State} (hK : Keeps μ σ s)
    (hm : Sub 0x340000 μ := by first | assumption | exact Sub.of ‹Sub _ _› ⟨by decide +kernel⟩) :
    Keeps μ σ (State.sendHeartbeats s) := by
  unfold State.sendHeartbeats
  try dsimp only
  repeat' with_reducible first | assumption | refine lkCopy_keeps ?_ | refine putLk_keeps ?_ | refine keep_ite (P := Keeps μ σ) ?_ ?_ | refine keep_foldl (P := Keeps μ σ) ?_ ?_ | refine OnOk.ok ?_ | exact OnOk.error | refine keep_ite (P := OnOk (Keeps μ σ)) ?_ ?_ | intro _ | split | dsimp only

theorem becomeSuspected_keeps {μ : Nat} {σ : State} {s : State} (hK : Keeps μ σ s)
    (hm : Sub 0x2000000000000 μ := by first | assumption | exact Sub.of ‹Sub _ _› ⟨by decide +kernel⟩) :
    Keeps μ σ (State.becomeSuspected s) := by
  unfold State.becomeSuspected
  try dsimp only
  repeat' with_reducible first | assumption | refine setN_keeps ?_ | refine keep_ite (P := Keeps μ σ) ?_ ?_ | refine OnOk.ok ?_ | exact OnOk.error | refine keep_ite (P := OnOk (Keeps μ σ)) ?_ ?_ | intro _ | split | dsimp only

theorem heardAgain_keeps {μ : Nat} {σ : State} {s : State} {gen : Nat} (hK : Keeps μ σ s)
    (hm : Sub 0x28628000000080000f20000c0f50216 μ := by first | assumption | exact Sub.of ‹Sub _ _› ⟨by decide +kernel⟩) :
    Keeps μ σ (State.heardAgain s gen) := by
  unfold State.heardAgain
  try dsimp only
  repeat' with_reducible first | assumption | refine putLk_keeps ?_ | refine reviewLeader_keeps ?_ | refine propose_keeps ?_ | refine settle_keeps ?_ | refine keep_ite (P := Keeps μ σ) ?_ ?_ | refine OnOk.ok ?_ | exact OnOk.error | refine keep_ite (P := OnOk (Keeps μ σ)) ?_ ?_ | intro _ | split | dsimp only

theorem heartbeat_keeps {μ : Nat} {σ : State} {s : State} {h : LkHdr} {gmHash : Nat} {echoTx : Nat} {echoRx : Nat} {suspects : List Nat} (hK : Keeps μ σ s)
    (hm : Sub 0x28628000000080000f20000c0f50236 μ := by first | assumption | exact Sub.of ‹Sub _ _› ⟨by decide +kernel⟩) :
    Keeps μ σ (State.heartbeat s h gmHash echoTx echoRx suspects) := by
  unfold State.heartbeat
  try dsimp only
  repeat' with_reducible first | assumption | refine putLk_keeps ?_ | refine becomeSuspected_keeps ?_ | refine heardAgain_keeps ?_ | refine lkRegs_keeps ?_ | refine keep_ite (P := Keeps μ σ) ?_ ?_ | refine keep_foldl (P := Keeps μ σ) ?_ ?_ | (refine Keeps.lit (M := 0x28628000000080000f20000c0f50236) ?_; first | assumption | refine putLk_keeps ?_ | refine becomeSuspected_keeps ?_ | refine heardAgain_keeps ?_ | refine lkRegs_keeps ?_ | refine keep_ite (P := Keeps μ σ) ?_ ?_ | refine keep_foldl (P := Keeps μ σ) ?_ ?_) | refine OnOk.ok ?_ | exact OnOk.error | refine keep_ite (P := OnOk (Keeps μ σ)) ?_ ?_ | intro _ | split | dsimp only

theorem execLkHeartbeat_keeps {μ : Nat} {σ : State} {hdr : LkHdr} {gmHash : Nat} {_lkState : Nat} {_lockstepOk : Bool} {echoTx : Nat} {echoRx : Nat} {suspects : List Nat} {s : State} (hK : Keeps μ σ s)
    (hm : Sub 0x28628000000080000f20000c0f50236 μ := by first | assumption | exact Sub.of ‹Sub _ _› ⟨by decide +kernel⟩) :
    OnNext (Keeps μ σ) (execLkHeartbeat hdr gmHash _lkState _lockstepOk echoTx echoRx suspects s) := by
  unfold execLkHeartbeat
  try dsimp only
  repeat' with_reducible first | assumption | refine lkFrame_keeps ?_ ?_ | refine heartbeat_keeps ?_ | refine OnNext.next ?_ | refine OnOk.ok ?_ | exact OnOk.error | refine OnSome.some ?_ | exact OnSome.none | refine OnSomeOf.some ?_ | exact OnSomeOf.none | refine OnOkOf.ok ?_ | exact OnOkOf.error | refine act_keeps ?_ ?_ | refine live_keeps ?_ ?_ | refine keep_ite (P := OnNext (Keeps μ σ)) ?_ ?_ | refine keep_ite (P := Keeps μ σ) ?_ ?_ | refine keep_ite (P := OnOk (Keeps μ σ)) ?_ ?_ | intro _ | split | dsimp only

theorem suspect_keeps {μ : Nat} {σ : State} {s : State} {slot : Nat} {gen : Nat} (hK : Keeps μ σ s)
    (hm : Sub 0x28628000000080000f20000c0f50216 μ := by first | assumption | exact Sub.of ‹Sub _ _› ⟨by decide +kernel⟩) :
    Keeps μ σ (State.suspect s slot gen) := by
  unfold State.suspect
  try dsimp only
  repeat' with_reducible first | assumption | refine bump_keeps ?_ | refine learnSuspicion_keeps ?_ | refine lkCast_keeps ?_ | refine applyEntry_keeps ?_ | refine takeOver_keeps ?_ | refine unguardedStop_keeps ?_ | refine lkCouncil_keeps ?_ | refine settle_keeps ?_ | refine lkRegs_keeps ?_ | refine keep_ite (P := Keeps μ σ) ?_ ?_ | refine keep_foldl (P := Keeps μ σ) ?_ ?_ | refine OnOk.ok ?_ | exact OnOk.error | refine keep_ite (P := OnOk (Keeps μ σ)) ?_ ?_ | intro _ | split | dsimp only

theorem heartbeatWindow_keeps {μ : Nat} {σ : State} {s : State} (hK : Keeps μ σ s)
    (hm : Sub 0x28628000000080000f20000c0f50216 μ := by first | assumption | exact Sub.of ‹Sub _ _› ⟨by decide +kernel⟩) :
    Keeps μ σ (State.heartbeatWindow s) := by
  unfold State.heartbeatWindow
  try dsimp only
  repeat' with_reducible first | assumption | refine putLk_keeps ?_ | refine setN_keeps ?_ | refine bump_keeps ?_ | refine suspect_keeps ?_ | refine keep_ite (P := Keeps μ σ) ?_ ?_ | refine keep_foldl (P := Keeps μ σ) ?_ ?_ | refine OnOk.ok ?_ | exact OnOk.error | refine keep_ite (P := OnOk (Keeps μ σ)) ?_ ?_ | intro _ | split | dsimp only

theorem execHeartbeatWindow_keeps {μ : Nat} {σ : State} {s : State} (hK : Keeps μ σ s)
    (hm : Sub 0x28628000000080000f20000c0f50216 μ := by first | assumption | exact Sub.of ‹Sub _ _› ⟨by decide +kernel⟩) :
    OnNext (Keeps μ σ) (execHeartbeatWindow s) := by
  unfold execHeartbeatWindow
  try dsimp only
  repeat' with_reducible first | assumption | refine heartbeatWindow_keeps ?_ | refine OnNext.next ?_ | refine OnOk.ok ?_ | exact OnOk.error | refine OnSome.some ?_ | exact OnSome.none | refine OnSomeOf.some ?_ | exact OnSomeOf.none | refine OnOkOf.ok ?_ | exact OnOkOf.error | refine act_keeps ?_ ?_ | refine live_keeps ?_ ?_ | refine keep_ite (P := OnNext (Keeps μ σ)) ?_ ?_ | refine keep_ite (P := Keeps μ σ) ?_ ?_ | refine keep_ite (P := OnOk (Keeps μ σ)) ?_ ?_ | intro _ | split | dsimp only

theorem execLkSuspect_keeps {μ : Nat} {σ : State} {hdr : LkHdr} {subject : Nat} {subjectGen : Nat} {suspectRing : Nat} {s : State} (hK : Keeps μ σ s)
    (hm : Sub 0x28628000000080000f20000c0f50216 μ := by first | assumption | exact Sub.of ‹Sub _ _› ⟨by decide +kernel⟩) :
    OnNext (Keeps μ σ) (execLkSuspect hdr subject subjectGen suspectRing s) := by
  unfold execLkSuspect
  try dsimp only
  repeat' with_reducible first | assumption | refine lkFrame_keeps ?_ ?_ | refine learnSuspicion_keeps ?_ | refine settle_keeps ?_ | refine OnNext.next ?_ | refine OnOk.ok ?_ | exact OnOk.error | refine OnSome.some ?_ | exact OnSome.none | refine OnSomeOf.some ?_ | exact OnSomeOf.none | refine OnOkOf.ok ?_ | exact OnOkOf.error | refine act_keeps ?_ ?_ | refine live_keeps ?_ ?_ | refine keep_ite (P := OnNext (Keeps μ σ)) ?_ ?_ | refine keep_ite (P := Keeps μ σ) ?_ ?_ | refine keep_ite (P := OnOk (Keeps μ σ)) ?_ ?_ | intro _ | split | dsimp only

theorem takeAbort_keeps {μ : Nat} {σ : State} {s : State} {a : LkAbort} (hK : Keeps μ σ s)
    (hm : Sub 0x28628000000080000f20000c0f50216 μ := by first | assumption | exact Sub.of ‹Sub _ _› ⟨by decide +kernel⟩) :
    Keeps μ σ (State.takeAbort s a) := by
  unfold State.takeAbort
  try dsimp only
  repeat' with_reducible first | assumption | refine learnSuspicion_keeps ?_ | refine becomeSuspected_keeps ?_ | refine applyEntry_keeps ?_ | refine unguardedStop_keeps ?_ | refine settle_keeps ?_ | refine lkRegs_keeps ?_ | refine keep_ite (P := Keeps μ σ) ?_ ?_ | refine keep_foldl (P := Keeps μ σ) ?_ ?_ | refine OnOk.ok ?_ | exact OnOk.error | refine keep_ite (P := OnOk (Keeps μ σ)) ?_ ?_ | intro _ | split | dsimp only

theorem execLkAbort_keeps {μ : Nat} {σ : State} {hdr : LkHdr} {a : LkAbort} {s : State} (hK : Keeps μ σ s)
    (hm : Sub 0x28628000000080000f20000c0f50216 μ := by first | assumption | exact Sub.of ‹Sub _ _› ⟨by decide +kernel⟩) :
    OnNext (Keeps μ σ) (execLkAbort hdr a s) := by
  unfold execLkAbort
  try dsimp only
  repeat' with_reducible first | assumption | refine lkFrame_keeps ?_ ?_ | refine takeAbort_keeps ?_ | refine OnNext.next ?_ | refine OnOk.ok ?_ | exact OnOk.error | refine OnSome.some ?_ | exact OnSome.none | refine OnSomeOf.some ?_ | exact OnSomeOf.none | refine OnOkOf.ok ?_ | exact OnOkOf.error | refine act_keeps ?_ ?_ | refine live_keeps ?_ ?_ | refine keep_ite (P := OnNext (Keeps μ σ)) ?_ ?_ | refine keep_ite (P := Keeps μ σ) ?_ ?_ | refine keep_ite (P := OnOk (Keeps μ σ)) ?_ ?_ | intro _ | split | dsimp only

theorem deliveryFault_keeps {μ : Nat} {σ : State} {s : State} {k : FragKey} (hK : Keeps μ σ s)
    (hm : Sub 0x40000000350000 μ := by first | assumption | exact Sub.of ‹Sub _ _› ⟨by decide +kernel⟩) :
    Keeps μ σ (State.deliveryFault s k) := by
  unfold State.deliveryFault
  try dsimp only
  repeat' with_reducible first | assumption | refine lkCast_keeps ?_ | refine bump_keeps ?_ | refine applyEntry_keeps ?_ | refine keep_ite (P := Keeps μ σ) ?_ ?_ | refine keep_foldl (P := Keeps μ σ) ?_ ?_ | refine OnOk.ok ?_ | exact OnOk.error | refine keep_ite (P := OnOk (Keeps μ σ)) ?_ ?_ | intro _ | split | dsimp only

theorem execDeliveryFault_keeps {μ : Nat} {σ : State} {key : FragKey} {s : State} (hK : Keeps μ σ s)
    (hm : Sub 0x40000000350000 μ := by first | assumption | exact Sub.of ‹Sub _ _› ⟨by decide +kernel⟩) :
    OnNext (Keeps μ σ) (execDeliveryFault key s) := by
  unfold execDeliveryFault
  try dsimp only
  repeat' with_reducible first | assumption | refine deliveryFault_keeps ?_ | refine OnNext.next ?_ | refine OnOk.ok ?_ | exact OnOk.error | refine OnSome.some ?_ | exact OnSome.none | refine OnSomeOf.some ?_ | exact OnSomeOf.none | refine OnOkOf.ok ?_ | exact OnOkOf.error | refine act_keeps ?_ ?_ | refine live_keeps ?_ ?_ | refine keep_ite (P := OnNext (Keeps μ σ)) ?_ ?_ | refine keep_ite (P := Keeps μ σ) ?_ ?_ | refine keep_ite (P := OnOk (Keeps μ σ)) ?_ ?_ | intro _ | split | dsimp only

theorem execLkProbe_keeps {μ : Nat} {σ : State} {hdr : LkHdr} {subject : Nat} {subjectGen : Nat} {term : Nat} {s : State} (hK : Keeps μ σ s)
    (hm : Sub 0x40000000340000 μ := by first | assumption | exact Sub.of ‹Sub _ _› ⟨by decide +kernel⟩) :
    OnNext (Keeps μ σ) (execLkProbe hdr subject subjectGen term s) := by
  unfold execLkProbe
  try dsimp only
  repeat' with_reducible first | assumption | refine lkFrame_keeps ?_ ?_ | refine lkTo_keeps ?_ | refine OnNext.next ?_ | refine OnOk.ok ?_ | exact OnOk.error | refine OnSome.some ?_ | exact OnSome.none | refine OnSomeOf.some ?_ | exact OnSomeOf.none | refine OnOkOf.ok ?_ | exact OnOkOf.error | refine act_keeps ?_ ?_ | refine live_keeps ?_ ?_ | refine keep_ite (P := OnNext (Keeps μ σ)) ?_ ?_ | refine keep_ite (P := Keeps μ σ) ?_ ?_ | refine keep_ite (P := OnOk (Keeps μ σ)) ?_ ?_ | intro _ | split | dsimp only

theorem execLkProbeReply_keeps {μ : Nat} {σ : State} {hdr : LkHdr} {subject : Nat} {subjectGen : Nat} {_term : Nat} {s : State} (hK : Keeps μ σ s)
    (hm : Sub 0x28628000000080000f20000c0f50216 μ := by first | assumption | exact Sub.of ‹Sub _ _› ⟨by decide +kernel⟩) :
    OnNext (Keeps μ σ) (execLkProbeReply hdr subject subjectGen _term s) := by
  unfold execLkProbeReply
  try dsimp only
  repeat' with_reducible first | assumption | refine lkFrame_keeps ?_ ?_ | refine castVote_keeps ?_ | refine OnNext.next ?_ | refine OnOk.ok ?_ | exact OnOk.error | refine OnSome.some ?_ | exact OnSome.none | refine OnSomeOf.some ?_ | exact OnSomeOf.none | refine OnOkOf.ok ?_ | exact OnOkOf.error | refine act_keeps ?_ ?_ | refine live_keeps ?_ ?_ | refine keep_ite (P := OnNext (Keeps μ σ)) ?_ ?_ | refine keep_ite (P := Keeps μ σ) ?_ ?_ | refine keep_ite (P := OnOk (Keeps μ σ)) ?_ ?_ | intro _ | split | dsimp only

theorem sendProbes_keeps {μ : Nat} {σ : State} {s : State} (hK : Keeps μ σ s)
    (hm : Sub 0x340000 μ := by first | assumption | exact Sub.of ‹Sub _ _› ⟨by decide +kernel⟩) :
    Keeps μ σ (State.sendProbes s) := by
  unfold State.sendProbes
  try dsimp only
  repeat' with_reducible first | assumption | refine sendProbe_keeps ?_ | refine keep_ite (P := Keeps μ σ) ?_ ?_ | refine keep_foldl (P := Keeps μ σ) ?_ ?_ | refine OnOk.ok ?_ | exact OnOk.error | refine keep_ite (P := OnOk (Keeps μ σ)) ?_ ?_ | intro _ | split | dsimp only

theorem execProbeTimeout_keeps {μ : Nat} {σ : State} {subjectGen : Nat} {s : State} (hK : Keeps μ σ s)
    (hm : Sub 0x28628000000080000f20000c0f50216 μ := by first | assumption | exact Sub.of ‹Sub _ _› ⟨by decide +kernel⟩) :
    OnNext (Keeps μ σ) (execProbeTimeout subjectGen s) := by
  unfold execProbeTimeout
  try dsimp only
  repeat' with_reducible first | assumption | refine castVote_keeps ?_ | refine OnNext.next ?_ | refine OnOk.ok ?_ | exact OnOk.error | refine OnSome.some ?_ | exact OnSome.none | refine OnSomeOf.some ?_ | exact OnSomeOf.none | refine OnOkOf.ok ?_ | exact OnOkOf.error | refine act_keeps ?_ ?_ | refine live_keeps ?_ ?_ | refine keep_ite (P := OnNext (Keeps μ σ)) ?_ ?_ | refine keep_ite (P := Keeps μ σ) ?_ ?_ | refine keep_ite (P := OnOk (Keeps μ σ)) ?_ ?_ | intro _ | split | dsimp only

theorem seeTerm_keeps {μ : Nat} {σ : State} {s : State} {term : Nat} (hK : Keeps μ σ s)
    (hm : Sub 0x2000000000000 μ := by first | assumption | exact Sub.of ‹Sub _ _› ⟨by decide +kernel⟩) :
    Keeps μ σ (State.seeTerm s term) := by
  unfold State.seeTerm
  try dsimp only
  repeat' with_reducible first | assumption | refine setN_keeps ?_ | refine keep_ite (P := Keeps μ σ) ?_ ?_ | refine OnOk.ok ?_ | exact OnOk.error | refine keep_ite (P := OnOk (Keeps μ σ)) ?_ ?_ | intro _ | split | dsimp only

theorem takeVote_keeps {μ : Nat} {σ : State} {s : State} {voter : Nat} {term : Nat} {proposal : Nat} {vote : Nat} (hK : Keeps μ σ s)
    (hm : Sub 0x28628000000080000f20000c0f50216 μ := by first | assumption | exact Sub.of ‹Sub _ _› ⟨by decide +kernel⟩) :
    Keeps μ σ (State.takeVote s voter term proposal vote) := by
  unfold State.takeVote
  try dsimp only
  repeat' with_reducible first | assumption | refine seeTerm_keeps ?_ | refine putSuspicion_keeps ?_ | refine settle_keeps ?_ | refine putLk_keeps ?_ | refine sendVote_keeps ?_ | refine keep_ite (P := Keeps μ σ) ?_ ?_ | refine OnOk.ok ?_ | exact OnOk.error | refine keep_ite (P := OnOk (Keeps μ σ)) ?_ ?_ | intro _ | split | dsimp only

theorem execLkVote_keeps {μ : Nat} {σ : State} {hdr : LkHdr} {term : Nat} {proposal : Nat} {vote : Nat} {s : State} (hK : Keeps μ σ s)
    (hm : Sub 0x28628000000080000f20000c0f50216 μ := by first | assumption | exact Sub.of ‹Sub _ _› ⟨by decide +kernel⟩) :
    OnNext (Keeps μ σ) (execLkVote hdr term proposal vote s) := by
  unfold execLkVote
  try dsimp only
  repeat' with_reducible first | assumption | refine lkFrame_keeps ?_ ?_ | refine takeVote_keeps ?_ | refine OnNext.next ?_ | refine OnOk.ok ?_ | exact OnOk.error | refine OnSome.some ?_ | exact OnSome.none | refine OnSomeOf.some ?_ | exact OnSomeOf.none | refine OnOkOf.ok ?_ | exact OnOkOf.error | refine act_keeps ?_ ?_ | refine live_keeps ?_ ?_ | refine keep_ite (P := OnNext (Keeps μ σ)) ?_ ?_ | refine keep_ite (P := Keeps μ σ) ?_ ?_ | refine keep_ite (P := OnOk (Keeps μ σ)) ?_ ?_ | intro _ | split | dsimp only

theorem execVoteFallback_keeps {μ : Nat} {σ : State} {subjectGen : Nat} {s : State} (hK : Keeps μ σ s)
    (hm : Sub 0x28628000000080000f20000c0f50216 μ := by first | assumption | exact Sub.of ‹Sub _ _› ⟨by decide +kernel⟩) :
    OnNext (Keeps μ σ) (execVoteFallback subjectGen s) := by
  unfold execVoteFallback
  try dsimp only
  repeat' with_reducible first | assumption | refine decide__keeps ?_ | refine settle_keeps ?_ | refine OnNext.next ?_ | refine OnOk.ok ?_ | exact OnOk.error | refine OnSome.some ?_ | exact OnSome.none | refine OnSomeOf.some ?_ | exact OnSomeOf.none | refine OnOkOf.ok ?_ | exact OnOkOf.error | refine act_keeps ?_ ?_ | refine live_keeps ?_ ?_ | refine keep_ite (P := OnNext (Keeps μ σ)) ?_ ?_ | refine keep_ite (P := Keeps μ σ) ?_ ?_ | refine keep_ite (P := OnOk (Keeps μ σ)) ?_ ?_ | intro _ | split | dsimp only

theorem drainDecisions_keeps {μ : Nat} {σ : State} {s : State} {x0 : Nat} (hK : Keeps μ σ s)
    (hm : Sub 0x28628000000080000f20000c0f50216 μ := by first | assumption | exact Sub.of ‹Sub _ _› ⟨by decide +kernel⟩) :
    Keeps μ σ (State.drainDecisions s x0) := by
  induction x0 generalizing s with
  | zero =>
    unfold State.drainDecisions
    try dsimp only
    repeat' with_reducible first | assumption | refine putLk_keeps ?_ | refine applyDecision_keeps ?_ | refine keep_ite (P := Keeps μ σ) ?_ ?_ | refine OnOk.ok ?_ | exact OnOk.error | refine keep_ite (P := OnOk (Keeps μ σ)) ?_ ?_ | intro _ | split | dsimp only
  | succ n ih =>
    unfold State.drainDecisions
    try dsimp only
    repeat' with_reducible first | assumption | refine ih ?_ | refine putLk_keeps ?_ | refine applyDecision_keeps ?_ | refine keep_ite (P := Keeps μ σ) ?_ ?_ | refine OnOk.ok ?_ | exact OnOk.error | refine keep_ite (P := OnOk (Keeps μ σ)) ?_ ?_ | intro _ | split | dsimp only

theorem orderDecision_keeps {μ : Nat} {σ : State} {s : State} {d : LkDecision} (hK : Keeps μ σ s)
    (hm : Sub 0x28628000000080000f20000c0f50216 μ := by first | assumption | exact Sub.of ‹Sub _ _› ⟨by decide +kernel⟩) :
    Keeps μ σ (State.orderDecision s d) := by
  unfold State.orderDecision
  try dsimp only
  repeat' with_reducible first | assumption | refine applyDecision_keeps ?_ | refine drainDecisions_keeps ?_ | refine putLk_keeps ?_ | refine emit_keeps ?_ | refine keep_ite (P := Keeps μ σ) ?_ ?_ | refine OnOk.ok ?_ | exact OnOk.error | refine keep_ite (P := OnOk (Keeps μ σ)) ?_ ?_ | intro _ | split | dsimp only

theorem takeDecision_keeps {μ : Nat} {σ : State} {s : State} {d : LkDecision} (hK : Keeps μ σ s)
    (hm : Sub 0x28628000000080000f20000c0f50216 μ := by first | assumption | exact Sub.of ‹Sub _ _› ⟨by decide +kernel⟩) :
    Keeps μ σ (State.takeDecision s d) := by
  unfold State.takeDecision
  try dsimp only
  repeat' with_reducible first | assumption | refine seeTerm_keeps ?_ | refine setN_keeps ?_ | refine putLk_keeps ?_ | refine orderDecision_keeps ?_ | refine keep_ite (P := Keeps μ σ) ?_ ?_ | refine OnOk.ok ?_ | exact OnOk.error | refine keep_ite (P := OnOk (Keeps μ σ)) ?_ ?_ | intro _ | split | dsimp only

theorem decisionFrame_keeps {μ : Nat} {σ : State} {s : State} {h : LkHdr} {d : LkDecision} {outcome : Nat} (hK : Keeps μ σ s)
    (hm : Sub 0x28628000000080000f20000c0f50216 μ := by first | assumption | exact Sub.of ‹Sub _ _› ⟨by decide +kernel⟩) :
    Keeps μ σ (State.decisionFrame s h d outcome) := by
  unfold State.decisionFrame
  try dsimp only
  repeat' with_reducible first | assumption | refine lkFrame_keeps ?_ ?_ | refine takeDecision_keeps ?_ | refine keep_ite (P := Keeps μ σ) ?_ ?_ | refine OnOk.ok ?_ | exact OnOk.error | refine keep_ite (P := OnOk (Keeps μ σ)) ?_ ?_ | intro _ | split | dsimp only

theorem execDecisionAlive_keeps {μ : Nat} {σ : State} {hdr : LkHdr} {d : LkDecision} {s : State} (hK : Keeps μ σ s)
    (hm : Sub 0x28628000000080000f20000c0f50216 μ := by first | assumption | exact Sub.of ‹Sub _ _› ⟨by decide +kernel⟩) :
    OnNext (Keeps μ σ) (execDecisionAlive hdr d s) := by
  unfold execDecisionAlive
  try dsimp only
  repeat' with_reducible first | assumption | refine decisionFrame_keeps ?_ | refine OnNext.next ?_ | refine OnOk.ok ?_ | exact OnOk.error | refine OnSome.some ?_ | exact OnSome.none | refine OnSomeOf.some ?_ | exact OnSomeOf.none | refine OnOkOf.ok ?_ | exact OnOkOf.error | refine act_keeps ?_ ?_ | refine live_keeps ?_ ?_ | refine keep_ite (P := OnNext (Keeps μ σ)) ?_ ?_ | refine keep_ite (P := Keeps μ σ) ?_ ?_ | refine keep_ite (P := OnOk (Keeps μ σ)) ?_ ?_ | intro _ | split | dsimp only

theorem execDecisionDead_keeps {μ : Nat} {σ : State} {hdr : LkHdr} {d : LkDecision} {s : State} (hK : Keeps μ σ s)
    (hm : Sub 0x28628000000080000f20000c0f50216 μ := by first | assumption | exact Sub.of ‹Sub _ _› ⟨by decide +kernel⟩) :
    OnNext (Keeps μ σ) (execDecisionDead hdr d s) := by
  unfold execDecisionDead
  try dsimp only
  repeat' with_reducible first | assumption | refine decisionFrame_keeps ?_ | refine OnNext.next ?_ | refine OnOk.ok ?_ | exact OnOk.error | refine OnSome.some ?_ | exact OnSome.none | refine OnSomeOf.some ?_ | exact OnSomeOf.none | refine OnOkOf.ok ?_ | exact OnOkOf.error | refine act_keeps ?_ ?_ | refine live_keeps ?_ ?_ | refine keep_ite (P := OnNext (Keeps μ σ)) ?_ ?_ | refine keep_ite (P := Keeps μ σ) ?_ ?_ | refine keep_ite (P := OnOk (Keeps μ σ)) ?_ ?_ | intro _ | split | dsimp only

theorem execDecisionAdmit_keeps {μ : Nat} {σ : State} {hdr : LkHdr} {d : LkDecision} {s : State} (hK : Keeps μ σ s)
    (hm : Sub 0x28628000000080000f20000c0f50216 μ := by first | assumption | exact Sub.of ‹Sub _ _› ⟨by decide +kernel⟩) :
    OnNext (Keeps μ σ) (execDecisionAdmit hdr d s) := by
  unfold execDecisionAdmit
  try dsimp only
  repeat' with_reducible first | assumption | refine decisionFrame_keeps ?_ | refine OnNext.next ?_ | refine OnOk.ok ?_ | exact OnOk.error | refine OnSome.some ?_ | exact OnSome.none | refine OnSomeOf.some ?_ | exact OnSomeOf.none | refine OnOkOf.ok ?_ | exact OnOkOf.error | refine act_keeps ?_ ?_ | refine live_keeps ?_ ?_ | refine keep_ite (P := OnNext (Keeps μ σ)) ?_ ?_ | refine keep_ite (P := Keeps μ σ) ?_ ?_ | refine keep_ite (P := OnOk (Keeps μ σ)) ?_ ?_ | intro _ | split | dsimp only

theorem execDecisionCoppiceStart_keeps {μ : Nat} {σ : State} {hdr : LkHdr} {d : LkDecision} {s : State} (hK : Keeps μ σ s)
    (hm : Sub 0x28628000000080000f20000c0f50216 μ := by first | assumption | exact Sub.of ‹Sub _ _› ⟨by decide +kernel⟩) :
    OnNext (Keeps μ σ) (execDecisionCoppiceStart hdr d s) := by
  unfold execDecisionCoppiceStart
  try dsimp only
  repeat' with_reducible first | assumption | refine decisionFrame_keeps ?_ | refine OnNext.next ?_ | refine OnOk.ok ?_ | exact OnOk.error | refine OnSome.some ?_ | exact OnSome.none | refine OnSomeOf.some ?_ | exact OnSomeOf.none | refine OnOkOf.ok ?_ | exact OnOkOf.error | refine act_keeps ?_ ?_ | refine live_keeps ?_ ?_ | refine keep_ite (P := OnNext (Keeps μ σ)) ?_ ?_ | refine keep_ite (P := Keeps μ σ) ?_ ?_ | refine keep_ite (P := OnOk (Keeps μ σ)) ?_ ?_ | intro _ | split | dsimp only

theorem execDecisionSlotReady_keeps {μ : Nat} {σ : State} {hdr : LkHdr} {d : LkDecision} {s : State} (hK : Keeps μ σ s)
    (hm : Sub 0x28628000000080000f20000c0f50216 μ := by first | assumption | exact Sub.of ‹Sub _ _› ⟨by decide +kernel⟩) :
    OnNext (Keeps μ σ) (execDecisionSlotReady hdr d s) := by
  unfold execDecisionSlotReady
  try dsimp only
  repeat' with_reducible first | assumption | refine decisionFrame_keeps ?_ | refine OnNext.next ?_ | refine OnOk.ok ?_ | exact OnOk.error | refine OnSome.some ?_ | exact OnSome.none | refine OnSomeOf.some ?_ | exact OnSomeOf.none | refine OnOkOf.ok ?_ | exact OnOkOf.error | refine act_keeps ?_ ?_ | refine live_keeps ?_ ?_ | refine keep_ite (P := OnNext (Keeps μ σ)) ?_ ?_ | refine keep_ite (P := Keeps μ σ) ?_ ?_ | refine keep_ite (P := OnOk (Keeps μ σ)) ?_ ?_ | intro _ | split | dsimp only

theorem execDecisionCoOpt_keeps {μ : Nat} {σ : State} {hdr : LkHdr} {d : LkDecision} {s : State} (hK : Keeps μ σ s)
    (hm : Sub 0x28628000000080000f20000c0f50216 μ := by first | assumption | exact Sub.of ‹Sub _ _› ⟨by decide +kernel⟩) :
    OnNext (Keeps μ σ) (execDecisionCoOpt hdr d s) := by
  unfold execDecisionCoOpt
  try dsimp only
  repeat' with_reducible first | assumption | refine decisionFrame_keeps ?_ | refine OnNext.next ?_ | refine OnOk.ok ?_ | exact OnOk.error | refine OnSome.some ?_ | exact OnSome.none | refine OnSomeOf.some ?_ | exact OnSomeOf.none | refine OnOkOf.ok ?_ | exact OnOkOf.error | refine act_keeps ?_ ?_ | refine live_keeps ?_ ?_ | refine keep_ite (P := OnNext (Keeps μ σ)) ?_ ?_ | refine keep_ite (P := Keeps μ σ) ?_ ?_ | refine keep_ite (P := OnOk (Keeps μ σ)) ?_ ?_ | intro _ | split | dsimp only

theorem execDecisionEpochShift_keeps {μ : Nat} {σ : State} {hdr : LkHdr} {d : LkDecision} {s : State} (hK : Keeps μ σ s)
    (hm : Sub 0x28628000000080000f20000c0f50216 μ := by first | assumption | exact Sub.of ‹Sub _ _› ⟨by decide +kernel⟩) :
    OnNext (Keeps μ σ) (execDecisionEpochShift hdr d s) := by
  unfold execDecisionEpochShift
  try dsimp only
  repeat' with_reducible first | assumption | refine decisionFrame_keeps ?_ | refine OnNext.next ?_ | refine OnOk.ok ?_ | exact OnOk.error | refine OnSome.some ?_ | exact OnSome.none | refine OnSomeOf.some ?_ | exact OnSomeOf.none | refine OnOkOf.ok ?_ | exact OnOkOf.error | refine act_keeps ?_ ?_ | refine live_keeps ?_ ?_ | refine keep_ite (P := OnNext (Keeps μ σ)) ?_ ?_ | refine keep_ite (P := Keeps μ σ) ?_ ?_ | refine keep_ite (P := OnOk (Keeps μ σ)) ?_ ?_ | intro _ | split | dsimp only

theorem execDecisionDomainHold_keeps {μ : Nat} {σ : State} {hdr : LkHdr} {d : LkDecision} {s : State} (hK : Keeps μ σ s)
    (hm : Sub 0x28628000000080000f20000c0f50216 μ := by first | assumption | exact Sub.of ‹Sub _ _› ⟨by decide +kernel⟩) :
    OnNext (Keeps μ σ) (execDecisionDomainHold hdr d s) := by
  unfold execDecisionDomainHold
  try dsimp only
  repeat' with_reducible first | assumption | refine decisionFrame_keeps ?_ | refine OnNext.next ?_ | refine OnOk.ok ?_ | exact OnOk.error | refine OnSome.some ?_ | exact OnSome.none | refine OnSomeOf.some ?_ | exact OnSomeOf.none | refine OnOkOf.ok ?_ | exact OnOkOf.error | refine act_keeps ?_ ?_ | refine live_keeps ?_ ?_ | refine keep_ite (P := OnNext (Keeps μ σ)) ?_ ?_ | refine keep_ite (P := Keeps μ σ) ?_ ?_ | refine keep_ite (P := OnOk (Keeps μ σ)) ?_ ?_ | intro _ | split | dsimp only

theorem execDecisionResume_keeps {μ : Nat} {σ : State} {hdr : LkHdr} {d : LkDecision} {s : State} (hK : Keeps μ σ s)
    (hm : Sub 0x28628000000080000f20000c0f50216 μ := by first | assumption | exact Sub.of ‹Sub _ _› ⟨by decide +kernel⟩) :
    OnNext (Keeps μ σ) (execDecisionResume hdr d s) := by
  unfold execDecisionResume
  try dsimp only
  repeat' with_reducible first | assumption | refine decisionFrame_keeps ?_ | refine OnNext.next ?_ | refine OnOk.ok ?_ | exact OnOk.error | refine OnSome.some ?_ | exact OnSome.none | refine OnSomeOf.some ?_ | exact OnSomeOf.none | refine OnOkOf.ok ?_ | exact OnOkOf.error | refine act_keeps ?_ ?_ | refine live_keeps ?_ ?_ | refine keep_ite (P := OnNext (Keeps μ σ)) ?_ ?_ | refine keep_ite (P := Keeps μ σ) ?_ ?_ | refine keep_ite (P := OnOk (Keeps μ σ)) ?_ ?_ | intro _ | split | dsimp only

theorem execDecisionOrphaned_keeps {μ : Nat} {σ : State} {hdr : LkHdr} {d : LkDecision} {s : State} (hK : Keeps μ σ s)
    (hm : Sub 0x28628000000080000f20000c0f50216 μ := by first | assumption | exact Sub.of ‹Sub _ _› ⟨by decide +kernel⟩) :
    OnNext (Keeps μ σ) (execDecisionOrphaned hdr d s) := by
  unfold execDecisionOrphaned
  try dsimp only
  repeat' with_reducible first | assumption | refine decisionFrame_keeps ?_ | refine OnNext.next ?_ | refine OnOk.ok ?_ | exact OnOk.error | refine OnSome.some ?_ | exact OnSome.none | refine OnSomeOf.some ?_ | exact OnSomeOf.none | refine OnOkOf.ok ?_ | exact OnOkOf.error | refine act_keeps ?_ ?_ | refine live_keeps ?_ ?_ | refine keep_ite (P := OnNext (Keeps μ σ)) ?_ ?_ | refine keep_ite (P := Keeps μ σ) ?_ ?_ | refine keep_ite (P := OnOk (Keeps μ σ)) ?_ ?_ | intro _ | split | dsimp only

theorem execDecisionDemote_keeps {μ : Nat} {σ : State} {hdr : LkHdr} {d : LkDecision} {s : State} (hK : Keeps μ σ s)
    (hm : Sub 0x28628000000080000f20000c0f50216 μ := by first | assumption | exact Sub.of ‹Sub _ _› ⟨by decide +kernel⟩) :
    OnNext (Keeps μ σ) (execDecisionDemote hdr d s) := by
  unfold execDecisionDemote
  try dsimp only
  repeat' with_reducible first | assumption | refine decisionFrame_keeps ?_ | refine OnNext.next ?_ | refine OnOk.ok ?_ | exact OnOk.error | refine OnSome.some ?_ | exact OnSome.none | refine OnSomeOf.some ?_ | exact OnSomeOf.none | refine OnOkOf.ok ?_ | exact OnOkOf.error | refine act_keeps ?_ ?_ | refine live_keeps ?_ ?_ | refine keep_ite (P := OnNext (Keeps μ σ)) ?_ ?_ | refine keep_ite (P := Keeps μ σ) ?_ ?_ | refine keep_ite (P := OnOk (Keeps μ σ)) ?_ ?_ | intro _ | split | dsimp only

theorem execDecisionScores_keeps {μ : Nat} {σ : State} {hdr : LkHdr} {d : LkDecision} {s : State} (hK : Keeps μ σ s)
    (hm : Sub 0x28628000000080000f20000c0f50216 μ := by first | assumption | exact Sub.of ‹Sub _ _› ⟨by decide +kernel⟩) :
    OnNext (Keeps μ σ) (execDecisionScores hdr d s) := by
  unfold execDecisionScores
  try dsimp only
  repeat' with_reducible first | assumption | refine decisionFrame_keeps ?_ | refine OnNext.next ?_ | refine OnOk.ok ?_ | exact OnOk.error | refine OnSome.some ?_ | exact OnSome.none | refine OnSomeOf.some ?_ | exact OnSomeOf.none | refine OnOkOf.ok ?_ | exact OnOkOf.error | refine act_keeps ?_ ?_ | refine live_keeps ?_ ?_ | refine keep_ite (P := OnNext (Keeps μ σ)) ?_ ?_ | refine keep_ite (P := Keeps μ σ) ?_ ?_ | refine keep_ite (P := OnOk (Keeps μ σ)) ?_ ?_ | intro _ | split | dsimp only

theorem declaredVoid_keeps {μ : Nat} {σ : State} {s : State} {h : LkHdr} (hK : Keeps μ σ s)
    (hm : Sub 0x8000000000000000e2000000050000 μ := by first | assumption | exact Sub.of ‹Sub _ _› ⟨by decide +kernel⟩) :
    Keeps μ σ (State.declaredVoid s h) := by
  unfold State.declaredVoid
  try dsimp only
  repeat' with_reducible first | assumption | refine setMember_keeps ?_ | refine takeOver_keeps ?_ | refine lkRegs_keeps ?_ | refine keep_ite (P := Keeps μ σ) ?_ ?_ | refine OnOk.ok ?_ | exact OnOk.error | refine keep_ite (P := OnOk (Keeps μ σ)) ?_ ?_ | intro _ | split | dsimp only

theorem declaredResume_keeps {μ : Nat} {σ : State} {s : State} {h : LkHdr} {epoch : Nat} (hK : Keeps μ σ s)
    (hm : Sub 0x8008000000080000e20000c0650206 μ := by first | assumption | exact Sub.of ‹Sub _ _› ⟨by decide +kernel⟩) :
    Keeps μ σ (State.declaredResume s h epoch) := by
  unfold State.declaredResume
  try dsimp only
  repeat' with_reducible first | assumption | refine setMember_keeps ?_ | refine dropTakeover_keeps ?_ | refine keep_ite (P := Keeps μ σ) ?_ ?_ | refine OnOk.ok ?_ | exact OnOk.error | refine keep_ite (P := OnOk (Keeps μ σ)) ?_ ?_ | intro _ | split | dsimp only

theorem declared_keeps {μ : Nat} {σ : State} {s : State} {h : LkHdr} {what : Nat} {epoch : Nat} {step : Nat} (hK : Keeps μ σ s)
    (hm : Sub 0x28628000000080000f20000c0f50216 μ := by first | assumption | exact Sub.of ‹Sub _ _› ⟨by decide +kernel⟩) :
    Keeps μ σ (State.declared s h what epoch step) := by
  unfold State.declared
  try dsimp only
  repeat' with_reducible first | assumption | refine declaredVoid_keeps ?_ | refine declaredResume_keeps ?_ | refine propose_keeps ?_ | refine settle_keeps ?_ | refine learnSuspicion_keeps ?_ | refine checkResume_keeps ?_ | refine lkRegs_keeps ?_ | refine putLk_keeps ?_ | refine checkCoppice_keeps ?_ | refine setN_keeps ?_ | refine keep_ite (P := Keeps μ σ) ?_ ?_ | (refine Keeps.lit (M := 0x28628000000080000f20000c0f50216) ?_; first | assumption | refine declaredVoid_keeps ?_ | refine declaredResume_keeps ?_ | refine propose_keeps ?_ | refine settle_keeps ?_ | refine learnSuspicion_keeps ?_ | refine checkResume_keeps ?_ | refine lkRegs_keeps ?_ | refine putLk_keeps ?_ | refine checkCoppice_keeps ?_ | refine setN_keeps ?_ | refine keep_ite (P := Keeps μ σ) ?_ ?_) | refine OnOk.ok ?_ | exact OnOk.error | refine keep_ite (P := OnOk (Keeps μ σ)) ?_ ?_ | intro _ | split | dsimp only

theorem execDeclareVoid_keeps {μ : Nat} {σ : State} {hdr : LkHdr} {epoch : Nat} {step : Nat} {s : State} (hK : Keeps μ σ s)
    (hm : Sub 0x28628000000080000f20000c0f50216 μ := by first | assumption | exact Sub.of ‹Sub _ _› ⟨by decide +kernel⟩) :
    OnNext (Keeps μ σ) (execDeclareVoid hdr epoch step s) := by
  unfold execDeclareVoid
  try dsimp only
  repeat' with_reducible first | assumption | refine lkFrame_keeps ?_ ?_ | refine declared_keeps ?_ | refine OnNext.next ?_ | refine OnOk.ok ?_ | exact OnOk.error | refine OnSome.some ?_ | exact OnSome.none | refine OnSomeOf.some ?_ | exact OnSomeOf.none | refine OnOkOf.ok ?_ | exact OnOkOf.error | refine act_keeps ?_ ?_ | refine live_keeps ?_ ?_ | refine keep_ite (P := OnNext (Keeps μ σ)) ?_ ?_ | refine keep_ite (P := Keeps μ σ) ?_ ?_ | refine keep_ite (P := OnOk (Keeps μ σ)) ?_ ?_ | intro _ | split | dsimp only

theorem execDeclareAbsent_keeps {μ : Nat} {σ : State} {hdr : LkHdr} {epoch : Nat} {step : Nat} {s : State} (hK : Keeps μ σ s)
    (hm : Sub 0x28628000000080000f20000c0f50216 μ := by first | assumption | exact Sub.of ‹Sub _ _› ⟨by decide +kernel⟩) :
    OnNext (Keeps μ σ) (execDeclareAbsent hdr epoch step s) := by
  unfold execDeclareAbsent
  try dsimp only
  repeat' with_reducible first | assumption | refine lkFrame_keeps ?_ ?_ | refine declared_keeps ?_ | refine OnNext.next ?_ | refine OnOk.ok ?_ | exact OnOk.error | refine OnSome.some ?_ | exact OnSome.none | refine OnSomeOf.some ?_ | exact OnSomeOf.none | refine OnOkOf.ok ?_ | exact OnOkOf.error | refine act_keeps ?_ ?_ | refine live_keeps ?_ ?_ | refine keep_ite (P := OnNext (Keeps μ σ)) ?_ ?_ | refine keep_ite (P := Keeps μ σ) ?_ ?_ | refine keep_ite (P := OnOk (Keeps μ σ)) ?_ ?_ | intro _ | split | dsimp only

theorem execDeclareResume_keeps {μ : Nat} {σ : State} {hdr : LkHdr} {epoch : Nat} {step : Nat} {s : State} (hK : Keeps μ σ s)
    (hm : Sub 0x28628000000080000f20000c0f50216 μ := by first | assumption | exact Sub.of ‹Sub _ _› ⟨by decide +kernel⟩) :
    OnNext (Keeps μ σ) (execDeclareResume hdr epoch step s) := by
  unfold execDeclareResume
  try dsimp only
  repeat' with_reducible first | assumption | refine lkFrame_keeps ?_ ?_ | refine declared_keeps ?_ | refine OnNext.next ?_ | refine OnOk.ok ?_ | exact OnOk.error | refine OnSome.some ?_ | exact OnSome.none | refine OnSomeOf.some ?_ | exact OnSomeOf.none | refine OnOkOf.ok ?_ | exact OnOkOf.error | refine act_keeps ?_ ?_ | refine live_keeps ?_ ?_ | refine keep_ite (P := OnNext (Keeps μ σ)) ?_ ?_ | refine keep_ite (P := Keeps μ σ) ?_ ?_ | refine keep_ite (P := OnOk (Keeps μ σ)) ?_ ?_ | intro _ | split | dsimp only

theorem execDeclareLoadLate_keeps {μ : Nat} {σ : State} {hdr : LkHdr} {epoch : Nat} {step : Nat} {s : State} (hK : Keeps μ σ s)
    (hm : Sub 0x28628000000080000f20000c0f50216 μ := by first | assumption | exact Sub.of ‹Sub _ _› ⟨by decide +kernel⟩) :
    OnNext (Keeps μ σ) (execDeclareLoadLate hdr epoch step s) := by
  unfold execDeclareLoadLate
  try dsimp only
  repeat' with_reducible first | assumption | refine lkFrame_keeps ?_ ?_ | refine declared_keeps ?_ | refine OnNext.next ?_ | refine OnOk.ok ?_ | exact OnOk.error | refine OnSome.some ?_ | exact OnSome.none | refine OnSomeOf.some ?_ | exact OnSomeOf.none | refine OnOkOf.ok ?_ | exact OnOkOf.error | refine act_keeps ?_ ?_ | refine live_keeps ?_ ?_ | refine keep_ite (P := OnNext (Keeps μ σ)) ?_ ?_ | refine keep_ite (P := Keeps μ σ) ?_ ?_ | refine keep_ite (P := OnOk (Keeps μ σ)) ?_ ?_ | intro _ | split | dsimp only

theorem execDeclareIsolated_keeps {μ : Nat} {σ : State} {hdr : LkHdr} {epoch : Nat} {step : Nat} {s : State} (hK : Keeps μ σ s)
    (hm : Sub 0x28628000000080000f20000c0f50216 μ := by first | assumption | exact Sub.of ‹Sub _ _› ⟨by decide +kernel⟩) :
    OnNext (Keeps μ σ) (execDeclareIsolated hdr epoch step s) := by
  unfold execDeclareIsolated
  try dsimp only
  repeat' with_reducible first | assumption | refine lkFrame_keeps ?_ ?_ | refine declared_keeps ?_ | refine OnNext.next ?_ | refine OnOk.ok ?_ | exact OnOk.error | refine OnSome.some ?_ | exact OnSome.none | refine OnSomeOf.some ?_ | exact OnSomeOf.none | refine OnOkOf.ok ?_ | exact OnOkOf.error | refine act_keeps ?_ ?_ | refine live_keeps ?_ ?_ | refine keep_ite (P := OnNext (Keeps μ σ)) ?_ ?_ | refine keep_ite (P := Keeps μ σ) ?_ ?_ | refine keep_ite (P := OnOk (Keeps μ σ)) ?_ ?_ | intro _ | split | dsimp only

theorem execDeclareCoppiceDone_keeps {μ : Nat} {σ : State} {hdr : LkHdr} {epoch : Nat} {step : Nat} {s : State} (hK : Keeps μ σ s)
    (hm : Sub 0x28628000000080000f20000c0f50216 μ := by first | assumption | exact Sub.of ‹Sub _ _› ⟨by decide +kernel⟩) :
    OnNext (Keeps μ σ) (execDeclareCoppiceDone hdr epoch step s) := by
  unfold execDeclareCoppiceDone
  try dsimp only
  repeat' with_reducible first | assumption | refine lkFrame_keeps ?_ ?_ | refine declared_keeps ?_ | refine OnNext.next ?_ | refine OnOk.ok ?_ | exact OnOk.error | refine OnSome.some ?_ | exact OnSome.none | refine OnSomeOf.some ?_ | exact OnSomeOf.none | refine OnOkOf.ok ?_ | exact OnOkOf.error | refine act_keeps ?_ ?_ | refine live_keeps ?_ ?_ | refine keep_ite (P := OnNext (Keeps μ σ)) ?_ ?_ | refine keep_ite (P := Keeps μ σ) ?_ ?_ | refine keep_ite (P := OnOk (Keeps μ σ)) ?_ ?_ | intro _ | split | dsimp only

theorem execDeclareReingested_keeps {μ : Nat} {σ : State} {hdr : LkHdr} {epoch : Nat} {step : Nat} {s : State} (hK : Keeps μ σ s)
    (hm : Sub 0x28628000000080000f20000c0f50216 μ := by first | assumption | exact Sub.of ‹Sub _ _› ⟨by decide +kernel⟩) :
    OnNext (Keeps μ σ) (execDeclareReingested hdr epoch step s) := by
  unfold execDeclareReingested
  try dsimp only
  repeat' with_reducible first | assumption | refine lkFrame_keeps ?_ ?_ | refine declared_keeps ?_ | refine OnNext.next ?_ | refine OnOk.ok ?_ | exact OnOk.error | refine OnSome.some ?_ | exact OnSome.none | refine OnSomeOf.some ?_ | exact OnSomeOf.none | refine OnOkOf.ok ?_ | exact OnOkOf.error | refine act_keeps ?_ ?_ | refine live_keeps ?_ ?_ | refine keep_ite (P := OnNext (Keeps μ σ)) ?_ ?_ | refine keep_ite (P := Keeps μ σ) ?_ ?_ | refine keep_ite (P := OnOk (Keeps μ σ)) ?_ ?_ | intro _ | split | dsimp only

theorem execDeclareVerifyDone_keeps {μ : Nat} {σ : State} {hdr : LkHdr} {epoch : Nat} {step : Nat} {s : State} (hK : Keeps μ σ s)
    (hm : Sub 0x28628000000080000f20000c0f50216 μ := by first | assumption | exact Sub.of ‹Sub _ _› ⟨by decide +kernel⟩) :
    OnNext (Keeps μ σ) (execDeclareVerifyDone hdr epoch step s) := by
  unfold execDeclareVerifyDone
  try dsimp only
  repeat' with_reducible first | assumption | refine lkFrame_keeps ?_ ?_ | refine declared_keeps ?_ | refine OnNext.next ?_ | refine OnOk.ok ?_ | exact OnOk.error | refine OnSome.some ?_ | exact OnSome.none | refine OnSomeOf.some ?_ | exact OnSomeOf.none | refine OnOkOf.ok ?_ | exact OnOkOf.error | refine act_keeps ?_ ?_ | refine live_keeps ?_ ?_ | refine keep_ite (P := OnNext (Keeps μ σ)) ?_ ?_ | refine keep_ite (P := Keeps μ σ) ?_ ?_ | refine keep_ite (P := OnOk (Keeps μ σ)) ?_ ?_ | intro _ | split | dsimp only

theorem execDeclareHoldMembership_keeps {μ : Nat} {σ : State} {hdr : LkHdr} {epoch : Nat} {step : Nat} {s : State} (hK : Keeps μ σ s)
    (hm : Sub 0x28628000000080000f20000c0f50216 μ := by first | assumption | exact Sub.of ‹Sub _ _› ⟨by decide +kernel⟩) :
    OnNext (Keeps μ σ) (execDeclareHoldMembership hdr epoch step s) := by
  unfold execDeclareHoldMembership
  try dsimp only
  repeat' with_reducible first | assumption | refine lkFrame_keeps ?_ ?_ | refine declared_keeps ?_ | refine OnNext.next ?_ | refine OnOk.ok ?_ | exact OnOk.error | refine OnSome.some ?_ | exact OnSome.none | refine OnSomeOf.some ?_ | exact OnSomeOf.none | refine OnOkOf.ok ?_ | exact OnOkOf.error | refine act_keeps ?_ ?_ | refine live_keeps ?_ ?_ | refine keep_ite (P := OnNext (Keeps μ σ)) ?_ ?_ | refine keep_ite (P := Keeps μ σ) ?_ ?_ | refine keep_ite (P := OnOk (Keeps μ σ)) ?_ ?_ | intro _ | split | dsimp only

theorem declareAway_keeps {μ : Nat} {σ : State} {s : State} {what : Nat} (hK : Keeps μ σ s)
    (hm : Sub 0x2000000340000 μ := by first | assumption | exact Sub.of ‹Sub _ _› ⟨by decide +kernel⟩) :
    Keeps μ σ (State.declareAway s what) := by
  unfold State.declareAway
  try dsimp only
  repeat' with_reducible first | assumption | refine declare_keeps ?_ | refine setN_keeps ?_ | refine putLk_keeps ?_ | refine keep_ite (P := Keeps μ σ) ?_ ?_ | refine OnOk.ok ?_ | exact OnOk.error | refine keep_ite (P := OnOk (Keeps μ σ)) ?_ ?_ | intro _ | split | dsimp only

theorem declareBack_keeps {μ : Nat} {σ : State} {s : State} (hK : Keeps μ σ s)
    (hm : Sub 0x340000 μ := by first | assumption | exact Sub.of ‹Sub _ _› ⟨by decide +kernel⟩) :
    Keeps μ σ (State.declareBack s) := by
  unfold State.declareBack
  try dsimp only
  repeat' with_reducible first | assumption | refine declare_keeps ?_ | refine putLk_keeps ?_ | refine keep_ite (P := Keeps μ σ) ?_ ?_ | refine OnOk.ok ?_ | exact OnOk.error | refine keep_ite (P := OnOk (Keeps μ σ)) ?_ ?_ | intro _ | split | dsimp only

theorem takeJoin_keeps {μ : Nat} {σ : State} {s : State} {uid : Nat} {slot : Nat} {capset : Bytes} (hK : Keeps μ σ s)
    (hm : Sub 0x28628000000080000f20000c0f50216 μ := by first | assumption | exact Sub.of ‹Sub _ _› ⟨by decide +kernel⟩) :
    Keeps μ σ (State.takeJoin s uid slot capset) := by
  unfold State.takeJoin
  try dsimp only
  repeat' with_reducible first | assumption | refine refuse_keeps ?_ | refine putLk_keeps ?_ | refine propose_keeps ?_ | refine settle_keeps ?_ | refine ends_keeps ?_ | refine keep_ite (P := Keeps μ σ) ?_ ?_ | refine OnOk.ok ?_ | exact OnOk.error | refine keep_ite (P := OnOk (Keeps μ σ)) ?_ ?_ | intro _ | split | dsimp only

theorem execLkJoin_keeps {μ : Nat} {σ : State} {hdr : LkHdr} {uid : Nat} {slot : Nat} {capset : Bytes} {s : State} (hK : Keeps μ σ s)
    (hm : Sub 0x28628000000080000f20000c0f50216 μ := by first | assumption | exact Sub.of ‹Sub _ _› ⟨by decide +kernel⟩) :
    OnNext (Keeps μ σ) (execLkJoin hdr uid slot capset s) := by
  unfold execLkJoin
  try dsimp only
  repeat' with_reducible first | assumption | refine lkFrame_keeps ?_ ?_ | refine takeJoin_keeps ?_ | refine OnNext.next ?_ | refine OnOk.ok ?_ | exact OnOk.error | refine OnSome.some ?_ | exact OnSome.none | refine OnSomeOf.some ?_ | exact OnSomeOf.none | refine OnOkOf.ok ?_ | exact OnOkOf.error | refine act_keeps ?_ ?_ | refine live_keeps ?_ ?_ | refine keep_ite (P := OnNext (Keeps μ σ)) ?_ ?_ | refine keep_ite (P := Keeps μ σ) ?_ ?_ | refine keep_ite (P := OnOk (Keeps μ σ)) ?_ ?_ | intro _ | split | dsimp only

theorem joinSend_keeps {μ : Nat} {σ : State} {s : State} {slot : Nat} (hK : Keeps μ σ s)
    (hm : Sub 0x28628000000080000f20000c0f50216 μ := by first | assumption | exact Sub.of ‹Sub _ _› ⟨by decide +kernel⟩) :
    Keeps μ σ (State.joinSend s slot) := by
  unfold State.joinSend
  try dsimp only
  repeat' with_reducible first | assumption | refine lkSendAs_keeps ?_ | refine setN_keeps ?_ | refine putLk_keeps ?_ | refine applyDecision_keeps ?_ | refine keep_ite (P := Keeps μ σ) ?_ ?_ | refine OnOk.ok ?_ | exact OnOk.error | refine keep_ite (P := OnOk (Keeps μ σ)) ?_ ?_ | intro _ | split | dsimp only

theorem execJoinSend_keeps {μ : Nat} {σ : State} {slot : Nat} {s : State} (hK : Keeps μ σ s)
    (hm : Sub 0x28628000000080000f20000c0f50216 μ := by first | assumption | exact Sub.of ‹Sub _ _› ⟨by decide +kernel⟩) :
    OnNext (Keeps μ σ) (execJoinSend slot s) := by
  unfold execJoinSend
  try dsimp only
  repeat' with_reducible first | assumption | refine joinSend_keeps ?_ | refine OnNext.next ?_ | refine OnOk.ok ?_ | exact OnOk.error | refine OnSome.some ?_ | exact OnSome.none | refine OnSomeOf.some ?_ | exact OnSomeOf.none | refine OnOkOf.ok ?_ | exact OnOkOf.error | refine act_keeps ?_ ?_ | refine live_keeps ?_ ?_ | refine keep_ite (P := OnNext (Keeps μ σ)) ?_ ?_ | refine keep_ite (P := Keeps μ σ) ?_ ?_ | refine keep_ite (P := OnOk (Keeps μ σ)) ?_ ?_ | intro _ | split | dsimp only

theorem execLkLate_keeps {μ : Nat} {σ : State} {hdr : LkHdr} {epoch : Nat} {step : Nat} {grains : Nat} {s : State} (hK : Keeps μ σ s)
    (hm : Sub 0x40000000340000 μ := by first | assumption | exact Sub.of ‹Sub _ _› ⟨by decide +kernel⟩) :
    OnNext (Keeps μ σ) (execLkLate hdr epoch step grains s) := by
  unfold execLkLate
  try dsimp only
  repeat' with_reducible first | assumption | refine lkFrame_keeps ?_ ?_ | refine putLk_keeps ?_ | refine OnNext.next ?_ | refine OnOk.ok ?_ | exact OnOk.error | refine OnSome.some ?_ | exact OnSome.none | refine OnSomeOf.some ?_ | exact OnSomeOf.none | refine OnOkOf.ok ?_ | exact OnOkOf.error | refine act_keeps ?_ ?_ | refine live_keeps ?_ ?_ | refine keep_ite (P := OnNext (Keeps μ σ)) ?_ ?_ | refine keep_ite (P := Keeps μ σ) ?_ ?_ | refine keep_ite (P := OnOk (Keeps μ σ)) ?_ ?_ | intro _ | split | dsimp only

theorem checkSuspects_keeps {μ : Nat} {σ : State} {s : State} (hK : Keeps μ σ s)
    (hm : Sub 0x28628000000080000f20000c0f50216 μ := by first | assumption | exact Sub.of ‹Sub _ _› ⟨by decide +kernel⟩) :
    Keeps μ σ (State.checkSuspects s) := by
  unfold State.checkSuspects
  try dsimp only
  repeat' with_reducible first | assumption | refine raise_keeps ?_ | refine putLk_keeps ?_ | refine checkCoppice_keeps ?_ | refine settle_keeps ?_ | refine keep_ite (P := Keeps μ σ) ?_ ?_ | refine keep_foldl (P := Keeps μ σ) ?_ ?_ | refine OnOk.ok ?_ | exact OnOk.error | refine keep_ite (P := OnOk (Keeps μ σ)) ?_ ?_ | intro _ | split | dsimp only

theorem latenessTally_keeps {μ : Nat} {σ : State} {s : State} {epoch : Nat} {step : Nat} (hK : Keeps μ σ s)
    (hm : Sub 0x28628000000080000f20000c0f50216 μ := by first | assumption | exact Sub.of ‹Sub _ _› ⟨by decide +kernel⟩) :
    Keeps μ σ (State.latenessTally s epoch step) := by
  unfold State.latenessTally
  try dsimp only
  repeat' with_reducible first | assumption | refine putLk_keeps ?_ | refine checkSuspects_keeps ?_ | refine keep_ite (P := Keeps μ σ) ?_ ?_ | refine keep_foldl (P := Keeps μ σ) ?_ ?_ | refine OnOk.ok ?_ | exact OnOk.error | refine keep_ite (P := OnOk (Keeps μ σ)) ?_ ?_ | intro _ | split | dsimp only

theorem execLatenessTally_keeps {μ : Nat} {σ : State} {epoch : Nat} {step : Nat} {s : State} (hK : Keeps μ σ s)
    (hm : Sub 0x28628000000080000f20000c0f50216 μ := by first | assumption | exact Sub.of ‹Sub _ _› ⟨by decide +kernel⟩) :
    OnNext (Keeps μ σ) (execLatenessTally epoch step s) := by
  unfold execLatenessTally
  try dsimp only
  repeat' with_reducible first | assumption | refine latenessTally_keeps ?_ | refine OnNext.next ?_ | refine OnOk.ok ?_ | exact OnOk.error | refine OnSome.some ?_ | exact OnSome.none | refine OnSomeOf.some ?_ | exact OnSomeOf.none | refine OnOkOf.ok ?_ | exact OnOkOf.error | refine act_keeps ?_ ?_ | refine live_keeps ?_ ?_ | refine keep_ite (P := OnNext (Keeps μ σ)) ?_ ?_ | refine keep_ite (P := Keeps μ σ) ?_ ?_ | refine keep_ite (P := OnOk (Keeps μ σ)) ?_ ?_ | intro _ | split | dsimp only

theorem scoreDecay_keeps {μ : Nat} {σ : State} {s : State} (hK : Keeps μ σ s)
    (hm : Sub 0x28628000000080000f20000c0f50216 μ := by first | assumption | exact Sub.of ‹Sub _ _› ⟨by decide +kernel⟩) :
    Keeps μ σ (State.scoreDecay s) := by
  unfold State.scoreDecay
  try dsimp only
  repeat' with_reducible first | assumption | refine putLk_keeps ?_ | refine propose_keeps ?_ | refine settle_keeps ?_ | refine checkSuspects_keeps ?_ | refine keep_ite (P := Keeps μ σ) ?_ ?_ | refine OnOk.ok ?_ | exact OnOk.error | refine keep_ite (P := OnOk (Keeps μ σ)) ?_ ?_ | intro _ | split | dsimp only

theorem execScoreDecay_keeps {μ : Nat} {σ : State} {s : State} (hK : Keeps μ σ s)
    (hm : Sub 0x28628000000080000f20000c0f50216 μ := by first | assumption | exact Sub.of ‹Sub _ _› ⟨by decide +kernel⟩) :
    OnNext (Keeps μ σ) (execScoreDecay s) := by
  unfold execScoreDecay
  try dsimp only
  repeat' with_reducible first | assumption | refine scoreDecay_keeps ?_ | refine OnNext.next ?_ | refine OnOk.ok ?_ | exact OnOk.error | refine OnSome.some ?_ | exact OnSome.none | refine OnSomeOf.some ?_ | exact OnSomeOf.none | refine OnOkOf.ok ?_ | exact OnOkOf.error | refine act_keeps ?_ ?_ | refine live_keeps ?_ ?_ | refine keep_ite (P := OnNext (Keeps μ σ)) ?_ ?_ | refine keep_ite (P := Keeps μ σ) ?_ ?_ | refine keep_ite (P := OnOk (Keeps μ σ)) ?_ ?_ | intro _ | split | dsimp only

theorem sendLates_keeps {μ : Nat} {σ : State} {s : State} (hK : Keeps μ σ s)
    (hm : Sub 0x340000 μ := by first | assumption | exact Sub.of ‹Sub _ _› ⟨by decide +kernel⟩) :
    Keeps μ σ (State.sendLates s) := by
  unfold State.sendLates
  try dsimp only
  repeat' with_reducible first | assumption | refine putLk_keeps ?_ | refine lkTo_keeps ?_ | refine keep_ite (P := Keeps μ σ) ?_ ?_ | refine keep_foldl (P := Keeps μ σ) ?_ ?_ | refine OnOk.ok ?_ | exact OnOk.error | refine keep_ite (P := OnOk (Keeps μ σ)) ?_ ?_ | intro _ | split | dsimp only

theorem execLkStatusQuery_keeps {μ : Nat} {σ : State} {hdr : LkHdr} {uid : Nat} {s : State} (hK : Keeps μ σ s)
    (hm : Sub 0x40000000340000 μ := by first | assumption | exact Sub.of ‹Sub _ _› ⟨by decide +kernel⟩) :
    OnNext (Keeps μ σ) (execLkStatusQuery hdr uid s) := by
  unfold execLkStatusQuery
  try dsimp only
  repeat' with_reducible first | assumption | refine lkFrame_keeps ?_ ?_ | refine lkSendAs_keeps ?_ | refine OnNext.next ?_ | refine OnOk.ok ?_ | exact OnOk.error | refine OnSome.some ?_ | exact OnSome.none | refine OnSomeOf.some ?_ | exact OnSomeOf.none | refine OnOkOf.ok ?_ | exact OnOkOf.error | refine act_keeps ?_ ?_ | refine live_keeps ?_ ?_ | refine keep_ite (P := OnNext (Keeps μ σ)) ?_ ?_ | refine keep_ite (P := Keeps μ σ) ?_ ?_ | refine keep_ite (P := OnOk (Keeps μ σ)) ?_ ?_ | intro _ | split | dsimp only

theorem execLkStatusReply_keeps {μ : Nat} {σ : State} {hdr : LkHdr} {uid : Nat} {slot : Nat} {lkState : Nat} {generation : Nat} {s : State} (hK : Keeps μ σ s)
    (hm : Sub 0x20400000000080000420000c0740206 μ := by first | assumption | exact Sub.of ‹Sub _ _› ⟨by decide +kernel⟩) :
    OnNext (Keeps μ σ) (execLkStatusReply hdr uid slot lkState generation s) := by
  unfold execLkStatusReply
  try dsimp only
  repeat' with_reducible first | assumption | refine lkFrame_keeps ?_ ?_ | refine putLk_keeps ?_ | refine becomeSnag_keeps ?_ | refine OnNext.next ?_ | refine OnOk.ok ?_ | exact OnOk.error | refine OnSome.some ?_ | exact OnSome.none | refine OnSomeOf.some ?_ | exact OnSomeOf.none | refine OnOkOf.ok ?_ | exact OnOkOf.error | refine act_keeps ?_ ?_ | refine live_keeps ?_ ?_ | refine keep_ite (P := OnNext (Keeps μ σ)) ?_ ?_ | refine keep_ite (P := Keeps μ σ) ?_ ?_ | refine keep_ite (P := OnOk (Keeps μ σ)) ?_ ?_ | intro _ | split | dsimp only

theorem askStatus_keeps {μ : Nat} {σ : State} {s : State} {slot : Nat} {gen : Nat} (hK : Keeps μ σ s)
    (hm : Sub 0x340000 μ := by first | assumption | exact Sub.of ‹Sub _ _› ⟨by decide +kernel⟩) :
    Keeps μ σ (State.askStatus s slot gen) := by
  unfold State.askStatus
  try dsimp only
  repeat' with_reducible first | assumption | refine putLk_keeps ?_ | refine lkCouncil_keeps ?_ | refine keep_ite (P := Keeps μ σ) ?_ ?_ | refine OnOk.ok ?_ | exact OnOk.error | refine keep_ite (P := OnOk (Keeps μ σ)) ?_ ?_ | intro _ | split | dsimp only

theorem execLkFenced_keeps {μ : Nat} {σ : State} {_hdr : LkHdr} {slot : Nat} {generation : Nat} {s : State} (hK : Keeps μ σ s)
    (hm : Sub 0x340000 μ := by first | assumption | exact Sub.of ‹Sub _ _› ⟨by decide +kernel⟩) :
    OnNext (Keeps μ σ) (execLkFenced _hdr slot generation s) := by
  unfold execLkFenced
  try dsimp only
  repeat' with_reducible first | assumption | refine emit_keeps ?_ | refine askStatus_keeps ?_ | refine OnNext.next ?_ | refine OnOk.ok ?_ | exact OnOk.error | refine OnSome.some ?_ | exact OnSome.none | refine OnSomeOf.some ?_ | exact OnSomeOf.none | refine OnOkOf.ok ?_ | exact OnOkOf.error | refine act_keeps ?_ ?_ | refine live_keeps ?_ ?_ | refine keep_ite (P := OnNext (Keeps μ σ)) ?_ ?_ | refine keep_ite (P := Keeps μ σ) ?_ ?_ | refine keep_ite (P := OnOk (Keeps μ σ)) ?_ ?_ | intro _ | split | dsimp only

theorem execLkSnapshot_keeps {μ : Nat} {σ : State} {hdr : LkHdr} {offset : Nat} {bytes : Bytes} {s : State} (hK : Keeps μ σ s)
    (hm : Sub 0x40000000340000 μ := by first | assumption | exact Sub.of ‹Sub _ _› ⟨by decide +kernel⟩) :
    OnNext (Keeps μ σ) (execLkSnapshot hdr offset bytes s) := by
  unfold execLkSnapshot
  try dsimp only
  repeat' with_reducible first | assumption | refine lkFrame_keeps ?_ ?_ | refine putLk_keeps ?_ | refine OnNext.next ?_ | refine OnOk.ok ?_ | exact OnOk.error | refine OnSome.some ?_ | exact OnSome.none | refine OnSomeOf.some ?_ | exact OnSomeOf.none | refine OnOkOf.ok ?_ | exact OnOkOf.error | refine act_keeps ?_ ?_ | refine live_keeps ?_ ?_ | refine keep_ite (P := OnNext (Keeps μ σ)) ?_ ?_ | refine keep_ite (P := Keeps μ σ) ?_ ?_ | refine keep_ite (P := OnOk (Keeps μ σ)) ?_ ?_ | intro _ | split | dsimp only

theorem execSpareVerify_keeps {μ : Nat} {σ : State} {failed : List Nat} {s : State} (hK : Keeps μ σ s)
    (hm : Sub 0x2000000360000 μ := by first | assumption | exact Sub.of ‹Sub _ _› ⟨by decide +kernel⟩) :
    OnNext (Keeps μ σ) (execSpareVerify failed s) := by
  unfold execSpareVerify
  try dsimp only
  repeat' with_reducible first | assumption | refine deleteShard_keeps ?_ | refine setN_keeps ?_ | refine declare_keeps ?_ | refine OnNext.next ?_ | refine OnOk.ok ?_ | exact OnOk.error | refine OnSome.some ?_ | exact OnSome.none | refine OnSomeOf.some ?_ | exact OnSomeOf.none | refine OnOkOf.ok ?_ | exact OnOkOf.error | refine act_keeps ?_ ?_ | refine live_keeps ?_ ?_ | refine keep_ite (P := OnNext (Keeps μ σ)) ?_ ?_ | refine keep_ite (P := Keeps μ σ) ?_ ?_ | refine keep_foldl (P := Keeps μ σ) ?_ ?_ | refine keep_ite (P := OnOk (Keeps μ σ)) ?_ ?_ | intro _ | split | dsimp only

theorem execDecisionMissing_keeps {μ : Nat} {σ : State} {subjectGen : Nat} {s : State} (hK : Keeps μ σ s)
    (hm : Sub 0x2000000000000 μ := by first | assumption | exact Sub.of ‹Sub _ _› ⟨by decide +kernel⟩) :
    OnNext (Keeps μ σ) (execDecisionMissing subjectGen s) := by
  unfold execDecisionMissing
  try dsimp only
  repeat' with_reducible first | assumption | refine setN_keeps ?_ | refine OnNext.next ?_ | refine OnOk.ok ?_ | exact OnOk.error | refine OnSome.some ?_ | exact OnSome.none | refine OnSomeOf.some ?_ | exact OnSomeOf.none | refine OnOkOf.ok ?_ | exact OnOkOf.error | refine act_keeps ?_ ?_ | refine live_keeps ?_ ?_ | refine keep_ite (P := OnNext (Keeps μ σ)) ?_ ?_ | refine keep_ite (P := Keeps μ σ) ?_ ?_ | refine keep_ite (P := OnOk (Keeps μ σ)) ?_ ?_ | intro _ | split | dsimp only

theorem execLockstepFault_keeps {μ : Nat} {σ : State} {s : State} (hK : Keeps μ σ s)
    (hm : Sub 0x2000040000040 μ := by first | assumption | exact Sub.of ‹Sub _ _› ⟨by decide +kernel⟩) :
    OnNext (Keeps μ σ) (execLockstepFault s) := by
  unfold execLockstepFault
  try dsimp only
  repeat' with_reducible first | assumption | refine setN_keeps ?_ | refine alert_keeps ?_ | refine putStand_keeps ?_ | refine OnNext.next ?_ | refine OnOk.ok ?_ | exact OnOk.error | refine OnSome.some ?_ | exact OnSome.none | refine OnSomeOf.some ?_ | exact OnSomeOf.none | refine OnOkOf.ok ?_ | exact OnOkOf.error | refine act_keeps ?_ ?_ | refine live_keeps ?_ ?_ | refine keep_ite (P := OnNext (Keeps μ σ)) ?_ ?_ | refine keep_ite (P := Keeps μ σ) ?_ ?_ | refine keep_ite (P := OnOk (Keeps μ σ)) ?_ ?_ | intro _ | split | dsimp only

theorem councilReseed_keeps {μ : Nat} {σ : State} {s : State} {v : Bytes} (hK : Keeps μ σ s)
    (hm : Sub 0x28628000000080000f20000c0f50216 μ := by first | assumption | exact Sub.of ‹Sub _ _› ⟨by decide +kernel⟩) :
    OnOk (Keeps μ σ) (State.councilReseed s v) := by
  unfold State.councilReseed
  try dsimp only
  repeat' with_reducible first | assumption | refine setB_keeps ?_ | refine reviewLeader_keeps ?_ | refine setN_keeps ?_ | refine putLk_keeps ?_ | refine settle_keeps ?_ | refine lkRegs_keeps ?_ | refine OnNext.next ?_ | refine OnOk.ok ?_ | exact OnOk.error | refine OnSome.some ?_ | exact OnSome.none | refine OnSomeOf.some ?_ | exact OnSomeOf.none | refine OnOkOf.ok ?_ | exact OnOkOf.error | refine act_keeps ?_ ?_ | refine live_keeps ?_ ?_ | refine keep_ite (P := OnOk (Keeps μ σ)) ?_ ?_ | refine keep_ite (P := Keeps μ σ) ?_ ?_ | intro _ | split | dsimp only | refine keep_of_ok ‹_› ?_

theorem execCouncilReseed_keeps {μ : Nat} {σ : State} {via : Via} {value : Bytes} {s : State} (hK : Keeps μ σ s)
    (hm : Sub 0x28628000000080000f20020e0f5021e μ := by first | assumption | exact Sub.of ‹Sub _ _› ⟨by decide +kernel⟩) :
    OnNext (Keeps μ σ) (execCouncilReseed via value s) := by
  unfold execCouncilReseed
  try dsimp only
  repeat' with_reducible first | assumption | refine writeVia_keeps ?_ ?_ | refine councilReseed_keeps ?_ | refine keep_of_ok ‹_› (councilReseed_keeps ?_) | refine OnNext.next ?_ | refine OnOk.ok ?_ | exact OnOk.error | refine OnSome.some ?_ | exact OnSome.none | refine OnSomeOf.some ?_ | exact OnSomeOf.none | refine OnOkOf.ok ?_ | exact OnOkOf.error | refine act_keeps ?_ ?_ | refine live_keeps ?_ ?_ | refine keep_ite (P := OnNext (Keeps μ σ)) ?_ ?_ | refine keep_ite (P := Keeps μ σ) ?_ ?_ | refine keep_ite (P := OnOk (Keeps μ σ)) ?_ ?_ | intro _ | split | dsimp only | refine keep_of_ok ‹_› ?_

theorem coppiceSettle_keeps {μ : Nat} {σ : State} {s : State} (hK : Keeps μ σ s)
    (hm : Sub 0x80000000340000 μ := by first | assumption | exact Sub.of ‹Sub _ _› ⟨by decide +kernel⟩) :
    Keeps μ σ (State.coppiceSettle s) := by
  unfold State.coppiceSettle
  try dsimp only
  repeat' with_reducible first | assumption | refine putLk_keeps ?_ | refine setN_keeps ?_ | refine declare_keeps ?_ | refine keep_ite (P := Keeps μ σ) ?_ ?_ | refine OnOk.ok ?_ | exact OnOk.error | refine keep_ite (P := OnOk (Keeps μ σ)) ?_ ?_ | intro _ | split | dsimp only

theorem coppiceCopy_keeps {μ : Nat} {σ : State} {s : State} (hK : Keeps μ σ s)
    (hm : Sub 0x80000000340000 μ := by first | assumption | exact Sub.of ‹Sub _ _› ⟨by decide +kernel⟩) :
    Keeps μ σ (State.coppiceCopy s) := by
  unfold State.coppiceCopy
  try dsimp only
  repeat' with_reducible first | assumption | refine putLk_keeps ?_ | refine coppiceSettle_keeps ?_ | refine emit_keeps ?_ | refine keep_ite (P := Keeps μ σ) ?_ ?_ | refine OnOk.ok ?_ | exact OnOk.error | refine keep_ite (P := OnOk (Keeps μ σ)) ?_ ?_ | intro _ | split | dsimp only

theorem execCoppiceShardCopy_keeps {μ : Nat} {σ : State} {s : State} (hK : Keeps μ σ s)
    (hm : Sub 0x80000000340000 μ := by first | assumption | exact Sub.of ‹Sub _ _› ⟨by decide +kernel⟩) :
    OnNext (Keeps μ σ) (execCoppiceShardCopy s) := by
  unfold execCoppiceShardCopy
  try dsimp only
  repeat' with_reducible first | assumption | refine coppiceCopy_keeps ?_ | refine OnNext.next ?_ | refine OnOk.ok ?_ | exact OnOk.error | refine OnSome.some ?_ | exact OnSome.none | refine OnSomeOf.some ?_ | exact OnSomeOf.none | refine OnOkOf.ok ?_ | exact OnOkOf.error | refine act_keeps ?_ ?_ | refine live_keeps ?_ ?_ | refine keep_ite (P := OnNext (Keeps μ σ)) ?_ ?_ | refine keep_ite (P := Keeps μ σ) ?_ ?_ | refine keep_ite (P := OnOk (Keeps μ σ)) ?_ ?_ | intro _ | split | dsimp only

theorem lookoutRing_keeps {μ : Nat} {σ : State} {s : State} (hK : Keeps μ σ s)
    (hm : Sub 0x28628000000080000f20000c0f50216 μ := by first | assumption | exact Sub.of ‹Sub _ _› ⟨by decide +kernel⟩) :
    Keeps μ σ (State.lookoutRing s) := by
  unfold State.lookoutRing
  try dsimp only
  repeat' with_reducible first | assumption | refine sendHeartbeats_keeps ?_ | refine sendProbes_keeps ?_ | refine setN_keeps ?_ | refine sendLates_keeps ?_ | refine propose_keeps ?_ | refine settle_keeps ?_ | refine coppiceSettle_keeps ?_ | refine keep_ite (P := Keeps μ σ) ?_ ?_ | refine keep_foldl (P := Keeps μ σ) ?_ ?_ | refine OnOk.ok ?_ | exact OnOk.error | refine keep_ite (P := OnOk (Keeps μ σ)) ?_ ?_ | intro _ | split | dsimp only

theorem lookoutEpoch_keeps {μ : Nat} {σ : State} {s : State} (hK : Keeps μ σ s)
    (hm : Sub 0x8000000000000000e2000000050000 μ := by first | assumption | exact Sub.of ‹Sub _ _› ⟨by decide +kernel⟩) :
    Keeps μ σ (State.lookoutEpoch s) := by
  unfold State.lookoutEpoch
  try dsimp only
  repeat' with_reducible first | assumption | refine setN_keeps ?_ | refine putLk_keeps ?_ | refine activateAll_keeps ?_ | refine keep_ite (P := Keeps μ σ) ?_ ?_ | refine OnOk.ok ?_ | exact OnOk.error | refine keep_ite (P := OnOk (Keeps μ σ)) ?_ ?_ | intro _ | split | dsimp only

theorem setPeers_keeps {μ : Nat} {σ : State} {s : State} (hK : Keeps μ σ s)
    (hm : Sub 0x8000000000000000e2000000040000 μ := by first | assumption | exact Sub.of ‹Sub _ _› ⟨by decide +kernel⟩) :
    Keeps μ σ (State.setPeers s) := by
  unfold State.setPeers
  try dsimp only
  repeat' with_reducible first | assumption | refine putLk_keeps ?_ | refine lkRegs_keeps ?_ | refine keep_ite (P := Keeps μ σ) ?_ ?_ | refine OnOk.ok ?_ | exact OnOk.error | refine keep_ite (P := OnOk (Keeps μ σ)) ?_ ?_ | intro _ | split | dsimp only

end Sys2Proof.Laws
end

