-- ==== Sys2Proof/Laws/KeepLaunch.lean ====
section
/-! SUPPORT. What each operation of Machine/Launch.lean changes: outside the zones of its mask it keeps everything, and it
keeps the invariant. -/
namespace Sys2Proof.Laws
open Sys2Proof.Machine
set_option Elab.async false
set_option linter.unreachableTactic false
set_option linter.unusedTactic false

theorem launchReport_keeps {μ : Nat} {σ : State} {s : State} {k : FragKey} {cause : LateCause} {grains : Nat} (hK : Keeps μ σ s)
    (hm : Sub 0x250000 μ := by first | assumption | exact Sub.of ‹Sub _ _› ⟨by decide +kernel⟩) :
    Keeps μ σ (State.launchReport s k cause grains) := by
  unfold State.launchReport
  try dsimp only
  repeat' with_reducible first | assumption | refine putDeck_keeps ?_ | refine emit_keeps ?_ | refine putLk_keeps ?_ | refine keep_ite (P := Keeps μ σ) ?_ ?_ | refine OnOk.ok ?_ | exact OnOk.error | refine keep_ite (P := OnOk (Keeps μ σ)) ?_ ?_ | intro _ | split | dsimp only

theorem sendFragment_keeps {μ : Nat} {σ : State} {s : State} {c : Conn} {e : DeckEntry} {x : Section} (hK : Keeps μ σ s)
    (hm : Sub 0x200000008000000400000110200 μ := by first | assumption | exact Sub.of ‹Sub _ _› ⟨by decide +kernel⟩) :
    Keeps μ σ (State.sendFragment s c e x) := by
  unfold State.sendFragment
  try dsimp only
  repeat' with_reducible first | assumption | refine putConn_keeps ?_ | refine putPortTx_keeps ?_ | refine putEntry_keeps ?_ | refine unitPass_keeps ?_ | refine bump_keeps ?_ | refine keep_ite (P := Keeps μ σ) ?_ ?_ | refine OnOk.ok ?_ | exact OnOk.error | refine keep_ite (P := OnOk (Keeps μ σ)) ?_ ?_ | intro _ | split | dsimp only

theorem countLate_keeps {μ : Nat} {σ : State} {s : State} {e : DeckEntry} {hold : Nat} (hK : Keeps μ σ s)
    (hm : Sub 0x400000250000 μ := by first | assumption | exact Sub.of ‹Sub _ _› ⟨by decide +kernel⟩) :
    Keeps μ σ (State.countLate s e hold) := by
  unfold State.countLate
  try dsimp only
  repeat' with_reducible first | assumption | refine setN_keeps ?_ | refine bumpIf_keeps ?_ | refine launchReport_keeps ?_ | refine bump_keeps ?_ | refine keep_ite (P := Keeps μ σ) ?_ ?_ | refine OnOk.ok ?_ | exact OnOk.error | refine keep_ite (P := OnOk (Keeps μ σ)) ?_ ?_ | intro _ | split | dsimp only

theorem launch_keeps {μ : Nat} {σ : State} {s : State} {k : FragKey} {hold : Nat} (hK : Keeps μ σ s)
    (hm : Sub 0x2000000080000004000c0350206 μ := by first | assumption | exact Sub.of ‹Sub _ _› ⟨by decide +kernel⟩) :
    Keeps μ σ (State.launch s k hold) := by
  unfold State.launch
  try dsimp only
  repeat' with_reducible first | assumption | refine raise_keeps ?_ | refine launchReport_keeps ?_ | refine countLate_keeps ?_ | refine sendFragment_keeps ?_ | refine keep_ite (P := Keeps μ σ) ?_ ?_ | refine OnOk.ok ?_ | exact OnOk.error | refine keep_ite (P := OnOk (Keeps μ σ)) ?_ ?_ | intro _ | split | dsimp only

theorem execFragmentLaunch_keeps {μ : Nat} {σ : State} {key : FragKey} {refreshHold : Nat} {s : State} (hK : Keeps μ σ s)
    (hm : Sub 0x2000000080000004000c0350206 μ := by first | assumption | exact Sub.of ‹Sub _ _› ⟨by decide +kernel⟩) :
    OnNext (Keeps μ σ) (execFragmentLaunch key refreshHold s) := by
  unfold execFragmentLaunch
  try dsimp only
  repeat' with_reducible first | assumption | refine launch_keeps ?_ | refine OnNext.next ?_ | refine OnOk.ok ?_ | exact OnOk.error | refine OnSome.some ?_ | exact OnSome.none | refine OnSomeOf.some ?_ | exact OnSomeOf.none | refine OnOkOf.ok ?_ | exact OnOkOf.error | refine act_keeps ?_ ?_ | refine live_keeps ?_ ?_ | refine keep_ite (P := OnNext (Keeps μ σ)) ?_ ?_ | refine keep_ite (P := Keeps μ σ) ?_ ?_ | refine keep_ite (P := OnOk (Keeps μ σ)) ?_ ?_ | intro _ | split | dsimp only

theorem prefetch_keeps {μ : Nat} {σ : State} {s : State} {k : FragKey} (hK : Keeps μ σ s)
    (hm : Sub 0x10000 μ := by first | assumption | exact Sub.of ‹Sub _ _› ⟨by decide +kernel⟩) :
    Keeps μ σ (State.prefetch s k) := by
  unfold State.prefetch
  try dsimp only
  repeat' with_reducible first | assumption | refine putEntry_keeps ?_ | refine keep_ite (P := Keeps μ σ) ?_ ?_ | refine OnOk.ok ?_ | exact OnOk.error | refine keep_ite (P := OnOk (Keeps μ σ)) ?_ ?_ | intro _ | split | dsimp only

theorem execLaunchPrefetch_keeps {μ : Nat} {σ : State} {key : FragKey} {s : State} (hK : Keeps μ σ s)
    (hm : Sub 0x10000 μ := by first | assumption | exact Sub.of ‹Sub _ _› ⟨by decide +kernel⟩) :
    OnNext (Keeps μ σ) (execLaunchPrefetch key s) := by
  unfold execLaunchPrefetch
  try dsimp only
  repeat' with_reducible first | assumption | refine prefetch_keeps ?_ | refine OnNext.next ?_ | refine OnOk.ok ?_ | exact OnOk.error | refine OnSome.some ?_ | exact OnSome.none | refine OnSomeOf.some ?_ | exact OnSomeOf.none | refine OnOkOf.ok ?_ | exact OnOkOf.error | refine act_keeps ?_ ?_ | refine live_keeps ?_ ?_ | refine keep_ite (P := OnNext (Keeps μ σ)) ?_ ?_ | refine keep_ite (P := Keeps μ σ) ?_ ?_ | refine keep_ite (P := OnOk (Keeps μ σ)) ?_ ?_ | intro _ | split | dsimp only

theorem retention_keeps {μ : Nat} {σ : State} {s : State} {k : FragKey} (hK : Keeps μ σ s)
    (hm : Sub 0x8008000000080000000000c0710206 μ := by first | assumption | exact Sub.of ‹Sub _ _› ⟨by decide +kernel⟩) :
    Keeps μ σ (State.retention s k) := by
  unfold State.retention
  try dsimp only
  repeat' with_reducible first | assumption | refine freeEntry_keeps ?_ | refine cancelWrites_keeps ?_ | refine add_keeps ?_ | refine emit_keeps ?_ | refine keep_ite (P := Keeps μ σ) ?_ ?_ | refine OnOk.ok ?_ | exact OnOk.error | refine keep_ite (P := OnOk (Keeps μ σ)) ?_ ?_ | intro _ | split | dsimp only

theorem execRetentionEnd_keeps {μ : Nat} {σ : State} {key : FragKey} {s : State} (hK : Keeps μ σ s)
    (hm : Sub 0x8008000000080000000000c0710206 μ := by first | assumption | exact Sub.of ‹Sub _ _› ⟨by decide +kernel⟩) :
    OnNext (Keeps μ σ) (execRetentionEnd key s) := by
  unfold execRetentionEnd
  try dsimp only
  repeat' with_reducible first | assumption | refine retention_keeps ?_ | refine OnNext.next ?_ | refine OnOk.ok ?_ | exact OnOk.error | refine OnSome.some ?_ | exact OnSome.none | refine OnSomeOf.some ?_ | exact OnSomeOf.none | refine OnOkOf.ok ?_ | exact OnOkOf.error | refine act_keeps ?_ ?_ | refine live_keeps ?_ ?_ | refine keep_ite (P := OnNext (Keeps μ σ)) ?_ ?_ | refine keep_ite (P := Keeps μ σ) ?_ ?_ | refine keep_ite (P := OnOk (Keeps μ σ)) ?_ ?_ | intro _ | split | dsimp only

theorem lkBody_keeps {μ : Nat} {σ : State} {s : State} {h : LkHdr} {x0 : LkBody} (hK : Keeps μ σ s)
    (hm : Sub 0x28628000000080000f20000c0f50236 μ := by first | assumption | exact Sub.of ‹Sub _ _› ⟨by decide +kernel⟩) :
    OnNext (Keeps μ σ) (State.lkBody s h x0) := by
  cases x0 <;> (unfold State.lkBody; try dsimp only) <;> (repeat' with_reducible first | assumption | refine decisionFrame_keeps ?_ | refine declared_keeps ?_ | refine execLkHeartbeat_keeps ?_ | refine keep_of_next ‹_› (execLkHeartbeat_keeps ?_) | refine execLkSuspect_keeps ?_ | refine keep_of_next ‹_› (execLkSuspect_keeps ?_) | refine execLkAbort_keeps ?_ | refine keep_of_next ‹_› (execLkAbort_keeps ?_) | refine execLkProbe_keeps ?_ | refine keep_of_next ‹_› (execLkProbe_keeps ?_) | refine execLkProbeReply_keeps ?_ | refine keep_of_next ‹_› (execLkProbeReply_keeps ?_) | refine execLkVote_keeps ?_ | refine keep_of_next ‹_› (execLkVote_keeps ?_) | refine execLkJoin_keeps ?_ | refine keep_of_next ‹_› (execLkJoin_keeps ?_) | refine execLkLate_keeps ?_ | refine keep_of_next ‹_› (execLkLate_keeps ?_) | refine execLkStatusQuery_keeps ?_ | refine keep_of_next ‹_› (execLkStatusQuery_keeps ?_) | refine execLkStatusReply_keeps ?_ | refine keep_of_next ‹_› (execLkStatusReply_keeps ?_) | refine execLkSnapshot_keeps ?_ | refine keep_of_next ‹_› (execLkSnapshot_keeps ?_) | refine execLkFenced_keeps ?_ | refine keep_of_next ‹_› (execLkFenced_keeps ?_) | refine OnNext.next ?_ | refine OnOk.ok ?_ | exact OnOk.error | refine OnSome.some ?_ | exact OnSome.none | refine OnSomeOf.some ?_ | exact OnSomeOf.none | refine OnOkOf.ok ?_ | exact OnOkOf.error | refine act_keeps ?_ ?_ | refine live_keeps ?_ ?_ | refine keep_ite (P := OnNext (Keeps μ σ)) ?_ ?_ | refine keep_ite (P := Keeps μ σ) ?_ ?_ | refine keep_ite (P := OnOk (Keeps μ σ)) ?_ ?_ | intro _ | split | dsimp only)

theorem lookoutTakes_keeps {μ : Nat} {σ : State} {s : State} {b : SkdBody} {conn : Nat} (hK : Keeps μ σ s)
    (hm : Sub 0x28628000000080000f20000c0f50236 μ := by first | assumption | exact Sub.of ‹Sub _ _› ⟨by decide +kernel⟩) :
    Keeps μ σ (lookoutTakes s b conn) := by
  unfold lookoutTakes
  try dsimp only
  repeat' with_reducible first | assumption | refine lkBody_keeps ?_ | refine keep_of_next ‹_› (lkBody_keeps ?_) | refine emit_keeps ?_ | refine keep_ite (P := Keeps μ σ) ?_ ?_ | refine OnOk.ok ?_ | exact OnOk.error | refine keep_ite (P := OnOk (Keeps μ σ)) ?_ ?_ | intro _ | split | dsimp only

theorem execSkdLookoutRx_keeps {μ : Nat} {σ : State} {pkt : SkdRx} {frame : LkFrame} {s : State} (hK : Keeps μ σ s)
    (hm : Sub 0x6b8628040000088a80f20000c0f73236 μ := by first | assumption | exact Sub.of ‹Sub _ _› ⟨by decide +kernel⟩) :
    OnNext (Keeps μ σ) (execSkdLookoutRx pkt frame s) := by
  unfold execSkdLookoutRx
  try dsimp only
  repeat' with_reducible first | assumption | refine receive_keeps ?_ ?_ | refine lookoutTakes_keeps ?_ | refine OnNext.next ?_ | refine OnOk.ok ?_ | exact OnOk.error | refine OnSome.some ?_ | exact OnSome.none | refine OnSomeOf.some ?_ | exact OnSomeOf.none | refine OnOkOf.ok ?_ | exact OnOkOf.error | refine act_keeps ?_ ?_ | refine live_keeps ?_ ?_ | refine keep_ite (P := OnNext (Keeps μ σ)) ?_ ?_ | refine keep_ite (P := Keeps μ σ) ?_ ?_ | refine keep_ite (P := OnOk (Keeps μ σ)) ?_ ?_ | intro _ | split | dsimp only

theorem execNoticeLookout_keeps {μ : Nat} {σ : State} {pkt : SkdRx} {notice : LkNotice} {s : State} (hK : Keeps μ σ s)
    (hm : Sub 0x6b8628040000088a80f20000c0f73236 μ := by first | assumption | exact Sub.of ‹Sub _ _› ⟨by decide +kernel⟩) :
    OnNext (Keeps μ σ) (execNoticeLookout pkt notice s) := by
  unfold execNoticeLookout
  try dsimp only
  repeat' with_reducible first | assumption | refine receive_keeps ?_ ?_ | refine lookoutTakes_keeps ?_ | refine OnNext.next ?_ | refine OnOk.ok ?_ | exact OnOk.error | refine OnSome.some ?_ | exact OnSome.none | refine OnSomeOf.some ?_ | exact OnSomeOf.none | refine OnOkOf.ok ?_ | exact OnOkOf.error | refine act_keeps ?_ ?_ | refine live_keeps ?_ ?_ | refine keep_ite (P := OnNext (Keeps μ σ)) ?_ ?_ | refine keep_ite (P := Keeps μ σ) ?_ ?_ | refine keep_ite (P := OnOk (Keeps μ σ)) ?_ ?_ | intro _ | split | dsimp only

theorem fencedTakes_keeps {μ : Nat} {σ : State} {slot : Nat} {gen : Nat} {s : State} {w3 : SkdBody} {w4 : Nat} (hK : Keeps μ σ s)
    (hm : Sub 0x340000 μ := by first | assumption | exact Sub.of ‹Sub _ _› ⟨by decide +kernel⟩) :
    Keeps μ σ (fencedTakes slot gen s w3 w4) := by
  unfold fencedTakes
  try dsimp only
  repeat' with_reducible first | assumption | refine askStatus_keeps ?_ | refine keep_ite (P := Keeps μ σ) ?_ ?_ | refine OnOk.ok ?_ | exact OnOk.error | refine keep_ite (P := OnOk (Keeps μ σ)) ?_ ?_ | intro _ | split | dsimp only

theorem execNoticeFenced_keeps {μ : Nat} {σ : State} {pkt : SkdRx} {s : State} (hK : Keeps μ σ s)
    (hm : Sub 0x690200040000088a80000000c0773216 μ := by first | assumption | exact Sub.of ‹Sub _ _› ⟨by decide +kernel⟩) :
    OnNext (Keeps μ σ) (execNoticeFenced pkt s) := by
  unfold execNoticeFenced
  try dsimp only
  repeat' with_reducible first | assumption | refine receive_keeps ?_ ?_ | refine fencedTakes_keeps ?_ | refine OnNext.next ?_ | refine OnOk.ok ?_ | exact OnOk.error | refine OnSome.some ?_ | exact OnSome.none | refine OnSomeOf.some ?_ | exact OnSomeOf.none | refine OnOkOf.ok ?_ | exact OnOkOf.error | refine act_keeps ?_ ?_ | refine live_keeps ?_ ?_ | refine keep_ite (P := OnNext (Keeps μ σ)) ?_ ?_ | refine keep_ite (P := Keeps μ σ) ?_ ?_ | refine keep_ite (P := OnOk (Keeps μ σ)) ?_ ?_ | intro _ | split | dsimp only

theorem releaseHeld_keeps {μ : Nat} {σ : State} {s : State} {port : Nat} (hK : Keeps μ σ s)
    (hm : Sub 0x4b8628040000088a80f20000c0f73236 μ := by first | assumption | exact Sub.of ‹Sub _ _› ⟨by decide +kernel⟩) :
    Keeps μ σ (State.releaseHeld s port) := by
  unfold State.releaseHeld
  try dsimp only
  repeat' with_reducible first | assumption | refine putSkd_keeps ?_ | refine emit_keeps ?_ | refine handle_keeps ?_ ?_ | refine fencedTakes_keeps ?_ | refine lookoutTakes_keeps ?_ | refine keep_ite (P := Keeps μ σ) ?_ ?_ | refine OnOk.ok ?_ | exact OnOk.error | refine keep_ite (P := OnOk (Keeps μ σ)) ?_ ?_ | intro _ | split | dsimp only

theorem execFiReorderRelease_keeps {μ : Nat} {σ : State} {port : Nat} {s : State} (hK : Keeps μ σ s)
    (hm : Sub 0x4b8628040000088a80f20000c0f73236 μ := by first | assumption | exact Sub.of ‹Sub _ _› ⟨by decide +kernel⟩) :
    OnNext (Keeps μ σ) (execFiReorderRelease port s) := by
  unfold execFiReorderRelease
  try dsimp only
  repeat' with_reducible first | assumption | refine releaseHeld_keeps ?_ | refine OnNext.next ?_ | refine OnOk.ok ?_ | exact OnOk.error | refine OnSome.some ?_ | exact OnSome.none | refine OnSomeOf.some ?_ | exact OnSomeOf.none | refine OnOkOf.ok ?_ | exact OnOkOf.error | refine act_keeps ?_ ?_ | refine live_keeps ?_ ?_ | refine keep_ite (P := OnNext (Keeps μ σ)) ?_ ?_ | refine keep_ite (P := Keeps μ σ) ?_ ?_ | refine keep_ite (P := OnOk (Keeps μ σ)) ?_ ?_ | intro _ | split | dsimp only

end Sys2Proof.Laws
end

