-- ==== Sys2Proof/Laws/KeepStand.lean ====
section
/-! SUPPORT. What each operation of Machine/Stand.lean changes: outside the zones of its mask it keeps everything, and it
keeps the invariant. -/
namespace Sys2Proof.Laws
open Sys2Proof.Machine
set_option Elab.async false
set_option linter.unreachableTactic false
set_option linter.unusedTactic false

theorem linkUp_keeps {μ : Nat} {σ : State} {s : State} {east : Bool} (hK : Keeps μ σ s)
    (hm : Sub 0x800000200040 μ := by first | assumption | exact Sub.of ‹Sub _ _› ⟨by decide +kernel⟩) :
    Keeps μ σ (State.linkUp s east) := by
  unfold State.linkUp
  try dsimp only
  repeat' with_reducible first | assumption | refine putStand_keeps ?_ | refine standRegs_keeps ?_ | refine emit_keeps ?_ | refine keep_ite (P := Keeps μ σ) ?_ ?_ | refine OnOk.ok ?_ | exact OnOk.error | refine keep_ite (P := OnOk (Keeps μ σ)) ?_ ?_ | intro _ | split | dsimp only

theorem execRingLinkUp_keeps {μ : Nat} {σ : State} {east : Bool} {s : State} (hK : Keeps μ σ s)
    (hm : Sub 0x800000200040 μ := by first | assumption | exact Sub.of ‹Sub _ _› ⟨by decide +kernel⟩) :
    OnNext (Keeps μ σ) (execRingLinkUp east s) := by
  unfold execRingLinkUp
  try dsimp only
  repeat' with_reducible first | assumption | refine linkUp_keeps ?_ | refine OnNext.next ?_ | refine OnOk.ok ?_ | exact OnOk.error | refine OnSome.some ?_ | exact OnSome.none | refine OnSomeOf.some ?_ | exact OnSomeOf.none | refine OnOkOf.ok ?_ | exact OnOkOf.error | refine act_keeps ?_ ?_ | refine live_keeps ?_ ?_ | refine keep_ite (P := OnNext (Keeps μ σ)) ?_ ?_ | refine keep_ite (P := Keeps μ σ) ?_ ?_ | refine keep_ite (P := OnOk (Keeps μ σ)) ?_ ?_ | intro _ | split | dsimp only

theorem abortLost_keeps {μ : Nat} {σ : State} {s : State} {n : Nat} (hK : Keeps μ σ s)
    (hm : Sub 0x800000201040 μ := by first | assumption | exact Sub.of ‹Sub _ _› ⟨by decide +kernel⟩) :
    Keeps μ σ (State.abortLost s n) := by
  unfold State.abortLost
  try dsimp only
  repeat' with_reducible first | assumption | refine emit_keeps ?_ | refine standAborted_keeps ?_ | refine keep_ite (P := Keeps μ σ) ?_ ?_ | refine OnOk.ok ?_ | exact OnOk.error | refine keep_ite (P := OnOk (Keeps μ σ)) ?_ ?_ | intro _ | split | dsimp only

theorem loseMembers_keeps {μ : Nat} {σ : State} {s : State} {lost : List Nat} (hK : Keeps μ σ s)
    (hm : Sub 0x800000201040 μ := by first | assumption | exact Sub.of ‹Sub _ _› ⟨by decide +kernel⟩) :
    Keeps μ σ (State.loseMembers s lost) := by
  unfold State.loseMembers
  try dsimp only
  repeat' with_reducible first | assumption | refine putStand_keeps ?_ | refine standRegs_keeps ?_ | refine announce_keeps ?_ | refine abortLost_keeps ?_ | refine keep_ite (P := Keeps μ σ) ?_ ?_ | refine keep_foldl (P := Keeps μ σ) ?_ ?_ | refine OnOk.ok ?_ | exact OnOk.error | refine keep_ite (P := OnOk (Keeps μ σ)) ?_ ?_ | intro _ | split | dsimp only

theorem linkDown_keeps {μ : Nat} {σ : State} {s : State} {east : Bool} (hK : Keeps μ σ s)
    (hm : Sub 0x800000201040 μ := by first | assumption | exact Sub.of ‹Sub _ _› ⟨by decide +kernel⟩) :
    Keeps μ σ (State.linkDown s east) := by
  unfold State.linkDown
  try dsimp only
  repeat' with_reducible first | assumption | refine putStand_keeps ?_ | refine standRegs_keeps ?_ | refine loseMembers_keeps ?_ | refine keep_ite (P := Keeps μ σ) ?_ ?_ | refine OnOk.ok ?_ | exact OnOk.error | refine keep_ite (P := OnOk (Keeps μ σ)) ?_ ?_ | intro _ | split | dsimp only

theorem execRingLinkDown_keeps {μ : Nat} {σ : State} {east : Bool} {s : State} (hK : Keeps μ σ s)
    (hm : Sub 0x800000201040 μ := by first | assumption | exact Sub.of ‹Sub _ _› ⟨by decide +kernel⟩) :
    OnNext (Keeps μ σ) (execRingLinkDown east s) := by
  unfold execRingLinkDown
  try dsimp only
  repeat' with_reducible first | assumption | refine linkDown_keeps ?_ | refine OnNext.next ?_ | refine OnOk.ok ?_ | exact OnOk.error | refine OnSome.some ?_ | exact OnSome.none | refine OnSomeOf.some ?_ | exact OnSomeOf.none | refine OnOkOf.ok ?_ | exact OnOkOf.error | refine act_keeps ?_ ?_ | refine live_keeps ?_ ?_ | refine keep_ite (P := OnNext (Keeps μ σ)) ?_ ?_ | refine keep_ite (P := Keeps μ σ) ?_ ?_ | refine keep_ite (P := OnOk (Keeps μ σ)) ?_ ?_ | intro _ | split | dsimp only

theorem admitMember_keeps {μ : Nat} {σ : State} {s : State} {m : Nat} (hK : Keeps μ σ s)
    (hm : Sub 0x800000000040 μ := by first | assumption | exact Sub.of ‹Sub _ _› ⟨by decide +kernel⟩) :
    Keeps μ σ (State.admitMember s m) := by
  unfold State.admitMember
  try dsimp only
  repeat' with_reducible first | assumption | refine putStand_keeps ?_ | refine standRegs_keeps ?_ | refine keep_ite (P := Keeps μ σ) ?_ ?_ | refine OnOk.ok ?_ | exact OnOk.error | refine keep_ite (P := OnOk (Keeps μ σ)) ?_ ?_ | intro _ | split | dsimp only

theorem standHello_keeps {μ : Nat} {σ : State} {s : State} {m : Nat} {uid : Nat} (hK : Keeps μ σ s)
    (hm : Sub 0x800000200040 μ := by first | assumption | exact Sub.of ‹Sub _ _› ⟨by decide +kernel⟩) :
    Keeps μ σ (State.standHello s m uid) := by
  unfold State.standHello
  try dsimp only
  repeat' with_reducible first | assumption | refine admitMember_keeps ?_ | refine emit_keeps ?_ | refine putStand_keeps ?_ | refine keep_ite (P := Keeps μ σ) ?_ ?_ | refine OnOk.ok ?_ | exact OnOk.error | refine keep_ite (P := OnOk (Keeps μ σ)) ?_ ?_ | intro _ | split | dsimp only

theorem execStandHello_keeps {μ : Nat} {σ : State} {standId : Nat} {uid : Nat} {s : State} (hK : Keeps μ σ s)
    (hm : Sub 0x800000200040 μ := by first | assumption | exact Sub.of ‹Sub _ _› ⟨by decide +kernel⟩) :
    OnNext (Keeps μ σ) (execStandHello standId uid s) := by
  unfold execStandHello
  try dsimp only
  repeat' with_reducible first | assumption | refine standHello_keeps ?_ | refine OnNext.next ?_ | refine OnOk.ok ?_ | exact OnOk.error | refine OnSome.some ?_ | exact OnSome.none | refine OnSomeOf.some ?_ | exact OnSomeOf.none | refine OnOkOf.ok ?_ | exact OnOkOf.error | refine act_keeps ?_ ?_ | refine live_keeps ?_ ?_ | refine keep_ite (P := OnNext (Keeps μ σ)) ?_ ?_ | refine keep_ite (P := Keeps μ σ) ?_ ?_ | refine keep_ite (P := OnOk (Keeps μ σ)) ?_ ?_ | intro _ | split | dsimp only

theorem formStand_keeps {μ : Nat} {σ : State} {s : State} (hK : Keeps μ σ s)
    (hm : Sub 0x800000200040 μ := by first | assumption | exact Sub.of ‹Sub _ _› ⟨by decide +kernel⟩) :
    Keeps μ σ (State.formStand s) := by
  unfold State.formStand
  try dsimp only
  repeat' with_reducible first | assumption | refine putStand_keeps ?_ | refine standRegs_keeps ?_ | refine announce_keeps ?_ | refine keep_ite (P := Keeps μ σ) ?_ ?_ | refine keep_foldl (P := Keeps μ σ) ?_ ?_ | refine OnOk.ok ?_ | exact OnOk.error | refine keep_ite (P := OnOk (Keeps μ σ)) ?_ ?_ | intro _ | split | dsimp only

theorem formWindowEnd_keeps {μ : Nat} {σ : State} {s : State} (hK : Keeps μ σ s)
    (hm : Sub 0x800000200040 μ := by first | assumption | exact Sub.of ‹Sub _ _› ⟨by decide +kernel⟩) :
    Keeps μ σ (State.formWindowEnd s) := by
  unfold State.formWindowEnd
  try dsimp only
  repeat' with_reducible first | assumption | refine putStand_keeps ?_ | refine standRegs_keeps ?_ | refine formStand_keeps ?_ | refine keep_ite (P := Keeps μ σ) ?_ ?_ | refine OnOk.ok ?_ | exact OnOk.error | refine keep_ite (P := OnOk (Keeps μ σ)) ?_ ?_ | intro _ | split | dsimp only

theorem execFormWindowEnd_keeps {μ : Nat} {σ : State} {s : State} (hK : Keeps μ σ s)
    (hm : Sub 0x800000200040 μ := by first | assumption | exact Sub.of ‹Sub _ _› ⟨by decide +kernel⟩) :
    OnNext (Keeps μ σ) (execFormWindowEnd s) := by
  unfold execFormWindowEnd
  try dsimp only
  repeat' with_reducible first | assumption | refine formWindowEnd_keeps ?_ | refine OnNext.next ?_ | refine OnOk.ok ?_ | exact OnOk.error | refine OnSome.some ?_ | exact OnSome.none | refine OnSomeOf.some ?_ | exact OnSomeOf.none | refine OnOkOf.ok ?_ | exact OnOkOf.error | refine act_keeps ?_ ?_ | refine live_keeps ?_ ?_ | refine keep_ite (P := OnNext (Keeps μ σ)) ?_ ?_ | refine keep_ite (P := Keeps μ σ) ?_ ?_ | refine keep_ite (P := OnOk (Keeps μ σ)) ?_ ?_ | intro _ | split | dsimp only

theorem leaveStand_keeps {μ : Nat} {σ : State} {s : State} (hK : Keeps μ σ s)
    (hm : Sub 0x800000201040 μ := by first | assumption | exact Sub.of ‹Sub _ _› ⟨by decide +kernel⟩) :
    Keeps μ σ (State.leaveStand s) := by
  unfold State.leaveStand
  try dsimp only
  repeat' with_reducible first | assumption | refine standAborted_keeps ?_ | refine putStand_keeps ?_ | refine standRegs_keeps ?_ | refine keep_ite (P := Keeps μ σ) ?_ ?_ | refine keep_foldl (P := Keeps μ σ) ?_ ?_ | refine OnOk.ok ?_ | exact OnOk.error | refine keep_ite (P := OnOk (Keeps μ σ)) ?_ ?_ | intro _ | split | dsimp only

theorem rejoinStand_keeps {μ : Nat} {σ : State} {s : State} (hK : Keeps μ σ s)
    (hm : Sub 0x800000200040 μ := by first | assumption | exact Sub.of ‹Sub _ _› ⟨by decide +kernel⟩) :
    Keeps μ σ (State.rejoinStand s) := by
  unfold State.rejoinStand
  try dsimp only
  repeat' with_reducible first | assumption | refine putStand_keeps ?_ | refine standRegs_keeps ?_ | refine emit_keeps ?_ | refine announce_keeps ?_ | refine keep_ite (P := Keeps μ σ) ?_ ?_ | refine OnOk.ok ?_ | exact OnOk.error | refine keep_ite (P := OnOk (Keeps μ σ)) ?_ ?_ | intro _ | split | dsimp only

theorem standMaster_keeps {μ : Nat} {σ : State} {s : State} {m : Nat} {term : Nat} (hK : Keeps μ σ s)
    (hm : Sub 0x800000200040 μ := by first | assumption | exact Sub.of ‹Sub _ _› ⟨by decide +kernel⟩) :
    Keeps μ σ (State.standMaster s m term) := by
  unfold State.standMaster
  try dsimp only
  repeat' with_reducible first | assumption | refine putStand_keeps ?_ | refine acceptMaster_keeps ?_ | refine keep_ite (P := Keeps μ σ) ?_ ?_ | refine OnOk.ok ?_ | exact OnOk.error | refine keep_ite (P := OnOk (Keeps μ σ)) ?_ ?_ | intro _ | split | dsimp only

theorem execStandMaster_keeps {μ : Nat} {σ : State} {standId : Nat} {term : Nat} {s : State} (hK : Keeps μ σ s)
    (hm : Sub 0x800000200040 μ := by first | assumption | exact Sub.of ‹Sub _ _› ⟨by decide +kernel⟩) :
    OnNext (Keeps μ σ) (execStandMaster standId term s) := by
  unfold execStandMaster
  try dsimp only
  repeat' with_reducible first | assumption | refine standMaster_keeps ?_ | refine OnNext.next ?_ | refine OnOk.ok ?_ | exact OnOk.error | refine OnSome.some ?_ | exact OnSome.none | refine OnSomeOf.some ?_ | exact OnSomeOf.none | refine OnOkOf.ok ?_ | exact OnOkOf.error | refine act_keeps ?_ ?_ | refine live_keeps ?_ ?_ | refine keep_ite (P := OnNext (Keeps μ σ)) ?_ ?_ | refine keep_ite (P := Keeps μ σ) ?_ ?_ | refine keep_ite (P := OnOk (Keeps μ σ)) ?_ ?_ | intro _ | split | dsimp only

theorem standHeartbeat_keeps {μ : Nat} {σ : State} {s : State} {m : Nat} {healthy : Bool} (hK : Keeps μ σ s)
    (hm : Sub 0x800000200040 μ := by first | assumption | exact Sub.of ‹Sub _ _› ⟨by decide +kernel⟩) :
    Keeps μ σ (State.standHeartbeat s m healthy) := by
  unfold State.standHeartbeat
  try dsimp only
  repeat' with_reducible first | assumption | refine putStand_keeps ?_ | refine announce_keeps ?_ | refine keep_ite (P := Keeps μ σ) ?_ ?_ | refine OnOk.ok ?_ | exact OnOk.error | refine keep_ite (P := OnOk (Keeps μ σ)) ?_ ?_ | intro _ | split | dsimp only

theorem execStandHeartbeat_keeps {μ : Nat} {σ : State} {standId : Nat} {healthy : Bool} {s : State} (hK : Keeps μ σ s)
    (hm : Sub 0x800000200040 μ := by first | assumption | exact Sub.of ‹Sub _ _› ⟨by decide +kernel⟩) :
    OnNext (Keeps μ σ) (execStandHeartbeat standId healthy s) := by
  unfold execStandHeartbeat
  try dsimp only
  repeat' with_reducible first | assumption | refine standHeartbeat_keeps ?_ | refine OnNext.next ?_ | refine OnOk.ok ?_ | exact OnOk.error | refine OnSome.some ?_ | exact OnSome.none | refine OnSomeOf.some ?_ | exact OnSomeOf.none | refine OnOkOf.ok ?_ | exact OnOkOf.error | refine act_keeps ?_ ?_ | refine live_keeps ?_ ?_ | refine keep_ite (P := OnNext (Keeps μ σ)) ?_ ?_ | refine keep_ite (P := Keeps μ σ) ?_ ?_ | refine keep_ite (P := OnOk (Keeps μ σ)) ?_ ?_ | intro _ | split | dsimp only

theorem masterMissed_keeps {μ : Nat} {σ : State} {s : State} (hK : Keeps μ σ s)
    (hm : Sub 0x800000201040 μ := by first | assumption | exact Sub.of ‹Sub _ _› ⟨by decide +kernel⟩) :
    Keeps μ σ (State.masterMissed s) := by
  unfold State.masterMissed
  try dsimp only
  repeat' with_reducible first | assumption | refine loseMembers_keeps ?_ | refine keep_ite (P := Keeps μ σ) ?_ ?_ | refine OnOk.ok ?_ | exact OnOk.error | refine keep_ite (P := OnOk (Keeps μ σ)) ?_ ?_ | intro _ | split | dsimp only

theorem execMasterMissed_keeps {μ : Nat} {σ : State} {s : State} (hK : Keeps μ σ s)
    (hm : Sub 0x800000201040 μ := by first | assumption | exact Sub.of ‹Sub _ _› ⟨by decide +kernel⟩) :
    OnNext (Keeps μ σ) (execMasterMissed s) := by
  unfold execMasterMissed
  try dsimp only
  repeat' with_reducible first | assumption | refine masterMissed_keeps ?_ | refine OnNext.next ?_ | refine OnOk.ok ?_ | exact OnOk.error | refine OnSome.some ?_ | exact OnSome.none | refine OnSomeOf.some ?_ | exact OnSomeOf.none | refine OnOkOf.ok ?_ | exact OnOkOf.error | refine act_keeps ?_ ?_ | refine live_keeps ?_ ?_ | refine keep_ite (P := OnNext (Keeps μ σ)) ?_ ?_ | refine keep_ite (P := Keeps μ σ) ?_ ?_ | refine keep_ite (P := OnOk (Keeps μ σ)) ?_ ?_ | intro _ | split | dsimp only

theorem standRing_keeps {μ : Nat} {σ : State} {s : State} (hK : Keeps μ σ s)
    (hm : Sub 0x800000201040 μ := by first | assumption | exact Sub.of ‹Sub _ _› ⟨by decide +kernel⟩) :
    Keeps μ σ (State.standRing s) := by
  unfold State.standRing
  try dsimp only
  repeat' with_reducible first | assumption | refine emit_keeps ?_ | refine putStand_keeps ?_ | refine loseMembers_keeps ?_ | refine tryArm_keeps ?_ | refine keep_ite (P := Keeps μ σ) ?_ ?_ | refine keep_foldl (P := Keeps μ σ) ?_ ?_ | refine OnOk.ok ?_ | exact OnOk.error | refine keep_ite (P := OnOk (Keeps μ σ)) ?_ ?_ | intro _ | split | dsimp only

theorem execBarrierArrive_keeps {μ : Nat} {σ : State} {standId : Nat} {barrier : Nat} {s : State} (hK : Keeps μ σ s)
    (hm : Sub 0x200040 μ := by first | assumption | exact Sub.of ‹Sub _ _› ⟨by decide +kernel⟩) :
    OnNext (Keeps μ σ) (execBarrierArrive standId barrier s) := by
  unfold execBarrierArrive
  try dsimp only
  repeat' with_reducible first | assumption | refine masterArrive_keeps ?_ | refine OnNext.next ?_ | refine OnOk.ok ?_ | exact OnOk.error | refine OnSome.some ?_ | exact OnSome.none | refine OnSomeOf.some ?_ | exact OnSomeOf.none | refine OnOkOf.ok ?_ | exact OnOkOf.error | refine act_keeps ?_ ?_ | refine live_keeps ?_ ?_ | refine keep_ite (P := OnNext (Keeps μ σ)) ?_ ?_ | refine keep_ite (P := Keeps μ σ) ?_ ?_ | refine keep_ite (P := OnOk (Keeps μ σ)) ?_ ?_ | intro _ | split | dsimp only

theorem execBarrierArm_keeps {μ : Nat} {σ : State} {barrier : Nat} {term : Nat} {s : State} (hK : Keeps μ σ s)
    (hm : Sub 0x800000200040 μ := by first | assumption | exact Sub.of ‹Sub _ _› ⟨by decide +kernel⟩) :
    OnNext (Keeps μ σ) (execBarrierArm barrier term s) := by
  unfold execBarrierArm
  try dsimp only
  repeat' with_reducible first | assumption | refine putStand_keeps ?_ | refine standRegs_keeps ?_ | refine emit_keeps ?_ | refine OnNext.next ?_ | refine OnOk.ok ?_ | exact OnOk.error | refine OnSome.some ?_ | exact OnSome.none | refine OnSomeOf.some ?_ | exact OnSomeOf.none | refine OnOkOf.ok ?_ | exact OnOkOf.error | refine act_keeps ?_ ?_ | refine live_keeps ?_ ?_ | refine keep_ite (P := OnNext (Keeps μ σ)) ?_ ?_ | refine keep_ite (P := Keeps μ σ) ?_ ?_ | refine keep_ite (P := OnOk (Keeps μ σ)) ?_ ?_ | intro _ | split | dsimp only

theorem masterArmed_keeps {μ : Nat} {σ : State} {s : State} {m : Nat} {n : Nat} (hK : Keeps μ σ s)
    (hm : Sub 0x200040 μ := by first | assumption | exact Sub.of ‹Sub _ _› ⟨by decide +kernel⟩) :
    Keeps μ σ (State.masterArmed s m n) := by
  unfold State.masterArmed
  try dsimp only
  repeat' with_reducible first | assumption | refine putStand_keeps ?_ | refine tryPulse_keeps ?_ | refine keep_ite (P := Keeps μ σ) ?_ ?_ | refine OnOk.ok ?_ | exact OnOk.error | refine keep_ite (P := OnOk (Keeps μ σ)) ?_ ?_ | intro _ | split | dsimp only

theorem execBarrierArmed_keeps {μ : Nat} {σ : State} {standId : Nat} {barrier : Nat} {s : State} (hK : Keeps μ σ s)
    (hm : Sub 0x200040 μ := by first | assumption | exact Sub.of ‹Sub _ _› ⟨by decide +kernel⟩) :
    OnNext (Keeps μ σ) (execBarrierArmed standId barrier s) := by
  unfold execBarrierArmed
  try dsimp only
  repeat' with_reducible first | assumption | refine masterArmed_keeps ?_ | refine OnNext.next ?_ | refine OnOk.ok ?_ | exact OnOk.error | refine OnSome.some ?_ | exact OnSome.none | refine OnSomeOf.some ?_ | exact OnSomeOf.none | refine OnOkOf.ok ?_ | exact OnOkOf.error | refine act_keeps ?_ ?_ | refine live_keeps ?_ ?_ | refine keep_ite (P := OnNext (Keeps μ σ)) ?_ ?_ | refine keep_ite (P := Keeps μ σ) ?_ ?_ | refine keep_ite (P := OnOk (Keeps μ σ)) ?_ ?_ | intro _ | split | dsimp only

theorem execStandSyncEdge_keeps {μ : Nat} {σ : State} {s : State} (hK : Keeps μ σ s)
    (hm : Sub 0x800000201040 μ := by first | assumption | exact Sub.of ‹Sub _ _› ⟨by decide +kernel⟩) :
    OnNext (Keeps μ σ) (execStandSyncEdge s) := by
  unfold execStandSyncEdge
  try dsimp only
  repeat' with_reducible first | assumption | refine takeArmed_keeps ?_ | refine keep_of_some_23 ‹_› (takeArmed_keeps ?_) | refine standRelease_keeps ?_ | refine bump_keeps ?_ | refine OnNext.next ?_ | refine OnOk.ok ?_ | exact OnOk.error | refine OnSome.some ?_ | exact OnSome.none | refine OnSomeOf.some ?_ | exact OnSomeOf.none | refine OnOkOf.ok ?_ | exact OnOkOf.error | refine act_keeps ?_ ?_ | refine live_keeps ?_ ?_ | refine keep_ite (P := OnNext (Keeps μ σ)) ?_ ?_ | refine keep_ite (P := Keeps μ σ) ?_ ?_ | refine keep_ite (P := OnOk (Keeps μ σ)) ?_ ?_ | intro _ | split | dsimp only

theorem barrierTimeout_keeps {μ : Nat} {σ : State} {s : State} {n : Nat} (hK : Keeps μ σ s)
    (hm : Sub 0x800000201040 μ := by first | assumption | exact Sub.of ‹Sub _ _› ⟨by decide +kernel⟩) :
    Keeps μ σ (State.barrierTimeout s n) := by
  unfold State.barrierTimeout
  try dsimp only
  repeat' with_reducible first | assumption | refine emit_keeps ?_ | refine standAborted_keeps ?_ | refine keep_ite (P := Keeps μ σ) ?_ ?_ | refine OnOk.ok ?_ | exact OnOk.error | refine keep_ite (P := OnOk (Keeps μ σ)) ?_ ?_ | intro _ | split | dsimp only

theorem execBarrierTimeout_keeps {μ : Nat} {σ : State} {barrier : Nat} {s : State} (hK : Keeps μ σ s)
    (hm : Sub 0x800000201040 μ := by first | assumption | exact Sub.of ‹Sub _ _› ⟨by decide +kernel⟩) :
    OnNext (Keeps μ σ) (execBarrierTimeout barrier s) := by
  unfold execBarrierTimeout
  try dsimp only
  repeat' with_reducible first | assumption | refine barrierTimeout_keeps ?_ | refine OnNext.next ?_ | refine OnOk.ok ?_ | exact OnOk.error | refine OnSome.some ?_ | exact OnSome.none | refine OnSomeOf.some ?_ | exact OnSomeOf.none | refine OnOkOf.ok ?_ | exact OnOkOf.error | refine act_keeps ?_ ?_ | refine live_keeps ?_ ?_ | refine keep_ite (P := OnNext (Keeps μ σ)) ?_ ?_ | refine keep_ite (P := Keeps μ σ) ?_ ?_ | refine keep_ite (P := OnOk (Keeps μ σ)) ?_ ?_ | intro _ | split | dsimp only

theorem execBarrierAbort_keeps {μ : Nat} {σ : State} {barrier : Nat} {memberLost : Bool} {s : State} (hK : Keeps μ σ s)
    (hm : Sub 0x800000201040 μ := by first | assumption | exact Sub.of ‹Sub _ _› ⟨by decide +kernel⟩) :
    OnNext (Keeps μ σ) (execBarrierAbort barrier memberLost s) := by
  unfold execBarrierAbort
  try dsimp only
  repeat' with_reducible first | assumption | refine standAborted_keeps ?_ | refine OnNext.next ?_ | refine OnOk.ok ?_ | exact OnOk.error | refine OnSome.some ?_ | exact OnSome.none | refine OnSomeOf.some ?_ | exact OnSomeOf.none | refine OnOkOf.ok ?_ | exact OnOkOf.error | refine act_keeps ?_ ?_ | refine live_keeps ?_ ?_ | refine keep_ite (P := OnNext (Keeps μ σ)) ?_ ?_ | refine keep_ite (P := Keeps μ σ) ?_ ?_ | refine keep_ite (P := OnOk (Keeps μ σ)) ?_ ?_ | intro _ | split | dsimp only

end Sys2Proof.Laws
end

