-- ==== Sys2Proof/Laws/KeepSessions.lean ====
section
/-! SUPPORT. What each operation of Machine/Sessions.lean changes: outside the zones of its mask it keeps everything, and it
keeps the invariant. -/
namespace Sys2Proof.Laws
open Sys2Proof.Machine
set_option Elab.async false
set_option linter.unreachableTactic false
set_option linter.unusedTactic false

theorem attest_keeps {μ : Nat} {σ : State} {s : State} {via : Via} {v : Bytes} (hK : Keeps μ σ s)
    (hm : Sub 0x2000000000000000 μ := by first | assumption | exact Sub.of ‹Sub _ _› ⟨by decide +kernel⟩) :
    OnOk (Keeps μ σ) (State.attest s via v) := by
  unfold State.attest
  try dsimp only
  repeat' with_reducible first | assumption | refine storeB_keeps ?_ | refine setB_keeps ?_ | refine OnNext.next ?_ | refine OnOk.ok ?_ | exact OnOk.error | refine OnSome.some ?_ | exact OnSome.none | refine OnSomeOf.some ?_ | exact OnSomeOf.none | refine OnOkOf.ok ?_ | exact OnOkOf.error | refine act_keeps ?_ ?_ | refine live_keeps ?_ ?_ | refine keep_ite (P := OnOk (Keeps μ σ)) ?_ ?_ | refine keep_ite (P := Keeps μ σ) ?_ ?_ | intro _ | split | dsimp only | refine keep_of_ok ‹_› ?_

theorem execAttestRequest_keeps {μ : Nat} {σ : State} {via : Via} {value : Bytes} {s : State} (hK : Keeps μ σ s)
    (hm : Sub 0x200000000000020000020e060001e μ := by first | assumption | exact Sub.of ‹Sub _ _› ⟨by decide +kernel⟩) :
    OnNext (Keeps μ σ) (execAttestRequest via value s) := by
  unfold execAttestRequest
  try dsimp only
  repeat' with_reducible first | assumption | refine writeVia_keeps ?_ ?_ | refine attest_keeps ?_ | refine keep_of_ok ‹_› (attest_keeps ?_) | refine OnNext.next ?_ | refine OnOk.ok ?_ | exact OnOk.error | refine OnSome.some ?_ | exact OnSome.none | refine OnSomeOf.some ?_ | exact OnSomeOf.none | refine OnOkOf.ok ?_ | exact OnOkOf.error | refine act_keeps ?_ ?_ | refine live_keeps ?_ ?_ | refine keep_ite (P := OnNext (Keeps μ σ)) ?_ ?_ | refine keep_ite (P := Keeps μ σ) ?_ ?_ | refine keep_ite (P := OnOk (Keeps μ σ)) ?_ ?_ | intro _ | split | dsimp only | refine keep_of_ok ‹_› ?_

theorem secCommand_keeps {μ : Nat} {σ : State} {s : State} {v : Nat} (hK : Keeps μ σ s)
    (hm : Sub 0x300000000000008 μ := by first | assumption | exact Sub.of ‹Sub _ _› ⟨by decide +kernel⟩) :
    OnOk (Keeps μ σ) (State.secCommand s v) := by
  unfold State.secCommand
  try dsimp only
  repeat' with_reducible first | assumption | refine storeN_keeps ?_ | refine setN_keeps ?_ | refine OnNext.next ?_ | refine OnOk.ok ?_ | exact OnOk.error | refine OnSome.some ?_ | exact OnSome.none | refine OnSomeOf.some ?_ | exact OnSomeOf.none | refine OnOkOf.ok ?_ | exact OnOkOf.error | refine act_keeps ?_ ?_ | refine live_keeps ?_ ?_ | refine keep_ite (P := OnOk (Keeps μ σ)) ?_ ?_ | refine keep_ite (P := Keeps μ σ) ?_ ?_ | (refine Keeps.lit (M := 0x300000000000008) ?_; first | assumption | refine storeN_keeps ?_ | refine setN_keeps ?_ | refine keep_ite (P := Keeps μ σ) ?_ ?_) | intro _ | split | dsimp only | refine keep_of_ok ‹_› ?_

theorem execAdvanceSvn_keeps {μ : Nat} {σ : State} {via : Via} {s : State} (hK : Keeps μ σ s)
    (hm : Sub 0x200000000000003000020e060001e μ := by first | assumption | exact Sub.of ‹Sub _ _› ⟨by decide +kernel⟩) :
    OnNext (Keeps μ σ) (execAdvanceSvn via s) := by
  unfold execAdvanceSvn
  try dsimp only
  repeat' with_reducible first | assumption | refine writeVia_keeps ?_ ?_ | refine secCommand_keeps ?_ | refine keep_of_ok ‹_› (secCommand_keeps ?_) | refine OnNext.next ?_ | refine OnOk.ok ?_ | exact OnOk.error | refine OnSome.some ?_ | exact OnSome.none | refine OnSomeOf.some ?_ | exact OnSomeOf.none | refine OnOkOf.ok ?_ | exact OnOkOf.error | refine act_keeps ?_ ?_ | refine live_keeps ?_ ?_ | refine keep_ite (P := OnNext (Keeps μ σ)) ?_ ?_ | refine keep_ite (P := Keeps μ σ) ?_ ?_ | refine keep_ite (P := OnOk (Keeps μ σ)) ?_ ?_ | intro _ | split | dsimp only | refine keep_of_ok ‹_› ?_

theorem operatorKeys_keeps {μ : Nat} {σ : State} {s : State} {v : Bytes} (hK : Keeps μ σ s)
    (hm : Sub 0x400000100000004 μ := by first | assumption | exact Sub.of ‹Sub _ _› ⟨by decide +kernel⟩) :
    OnOk (Keeps μ σ) (State.operatorKeys s v) := by
  unfold State.operatorKeys
  try dsimp only
  repeat' with_reducible first | assumption | refine dropSession_keeps ?_ | refine storeB_keeps ?_ | refine OnNext.next ?_ | refine OnOk.ok ?_ | exact OnOk.error | refine OnSome.some ?_ | exact OnSome.none | refine OnSomeOf.some ?_ | exact OnSomeOf.none | refine OnOkOf.ok ?_ | exact OnOkOf.error | refine act_keeps ?_ ?_ | refine live_keeps ?_ ?_ | refine keep_ite (P := OnOk (Keeps μ σ)) ?_ ?_ | refine keep_ite (P := Keeps μ σ) ?_ ?_ | refine keep_foldl (P := Keeps μ σ) ?_ ?_ | intro _ | split | dsimp only | refine keep_of_ok ‹_› ?_

theorem execOperatorKeysWrite_keeps {μ : Nat} {σ : State} {via : Via} {value : Bytes} {s : State} (hK : Keeps μ σ s)
    (hm : Sub 0x200000000000004000021e060001e μ := by first | assumption | exact Sub.of ‹Sub _ _› ⟨by decide +kernel⟩) :
    OnNext (Keeps μ σ) (execOperatorKeysWrite via value s) := by
  unfold execOperatorKeysWrite
  try dsimp only
  repeat' with_reducible first | assumption | refine writeVia_keeps ?_ ?_ | refine operatorKeys_keeps ?_ | refine keep_of_ok ‹_› (operatorKeys_keeps ?_) | refine OnNext.next ?_ | refine OnOk.ok ?_ | exact OnOk.error | refine OnSome.some ?_ | exact OnSome.none | refine OnSomeOf.some ?_ | exact OnSomeOf.none | refine OnOkOf.ok ?_ | exact OnOkOf.error | refine act_keeps ?_ ?_ | refine live_keeps ?_ ?_ | refine keep_ite (P := OnNext (Keeps μ σ)) ?_ ?_ | refine keep_ite (P := Keeps μ σ) ?_ ?_ | refine keep_ite (P := OnOk (Keeps μ σ)) ?_ ?_ | intro _ | split | dsimp only | refine keep_of_ok ‹_› ?_

theorem takesTally_keeps {μ : Nat} {σ : State} {s : State} {h : TallyHdr} (hK : Keeps μ σ s)
    (hm : Sub 0x20400000 μ := by first | assumption | exact Sub.of ‹Sub _ _› ⟨by decide +kernel⟩) :
    OnSome (Keeps μ σ) (State.takesTally s h) := by
  unfold State.takesTally
  try dsimp only
  repeat' with_reducible first | assumption | refine bump_keeps ?_ | refine ends_keeps ?_ | refine OnNext.next ?_ | refine OnOk.ok ?_ | exact OnOk.error | refine OnSome.some ?_ | exact OnSome.none | refine OnSomeOf.some ?_ | exact OnSomeOf.none | refine OnOkOf.ok ?_ | exact OnOkOf.error | refine act_keeps ?_ ?_ | refine live_keeps ?_ ?_ | refine keep_ite (P := OnSome (Keeps μ σ)) ?_ ?_ | refine keep_ite (P := Keeps μ σ) ?_ ?_ | refine keep_ite (P := OnOk (Keeps μ σ)) ?_ ?_ | intro _ | split | dsimp only

theorem hello_keeps {μ : Nat} {σ : State} {s : State} {h : TallyHdr} {ki : Nat} {qc : Bytes} {nc : Bytes} (hK : Keeps μ σ s)
    (hm : Sub 0xe0e00006 μ := by first | assumption | exact Sub.of ‹Sub _ _› ⟨by decide +kernel⟩) :
    Keeps μ σ (State.hello s h ki qc nc) := by
  unfold State.hello
  try dsimp only
  repeat' with_reducible first | assumption | refine takesTally_keeps ?_ | refine keep_of_some ‹_› (takesTally_keeps ?_) | refine refuse_keeps ?_ | refine answer_keeps ?_ | refine bump_keeps ?_ | refine drawn_keeps ?_ | refine ends_keeps ?_ | refine keep_ite (P := Keeps μ σ) ?_ ?_ | (refine Keeps.lit (M := 0xe0e00006) ?_; first | assumption | refine takesTally_keeps ?_ | refine keep_of_some ‹_› (takesTally_keeps ?_) | refine refuse_keeps ?_ | refine answer_keeps ?_ | refine bump_keeps ?_ | refine drawn_keeps ?_ | refine ends_keeps ?_ | refine keep_ite (P := Keeps μ σ) ?_ ?_) | refine OnOk.ok ?_ | exact OnOk.error | refine keep_ite (P := OnOk (Keeps μ σ)) ?_ ?_ | intro _ | split | dsimp only

theorem execSessionHello_keeps {μ : Nat} {σ : State} {hdr : TallyHdr} {keyIndex : Nat} {qc : Bytes} {nc : Bytes} {s : State} (hK : Keeps μ σ s)
    (hm : Sub 0xe0e00006 μ := by first | assumption | exact Sub.of ‹Sub _ _› ⟨by decide +kernel⟩) :
    OnNext (Keeps μ σ) (execSessionHello hdr keyIndex qc nc s) := by
  unfold execSessionHello
  try dsimp only
  repeat' with_reducible first | assumption | refine hello_keeps ?_ | refine OnNext.next ?_ | refine OnOk.ok ?_ | exact OnOk.error | refine OnSome.some ?_ | exact OnSome.none | refine OnSomeOf.some ?_ | exact OnSomeOf.none | refine OnOkOf.ok ?_ | exact OnOkOf.error | refine act_keeps ?_ ?_ | refine live_keeps ?_ ?_ | refine keep_ite (P := OnNext (Keeps μ σ)) ?_ ?_ | refine keep_ite (P := Keeps μ σ) ?_ ?_ | refine keep_ite (P := OnOk (Keeps μ σ)) ?_ ?_ | intro _ | split | dsimp only

theorem proof_keeps {μ : Nat} {σ : State} {s : State} {h : TallyHdr} {signature : Bytes} (hK : Keeps μ σ s)
    (hm : Sub 0x4000000e0600006 μ := by first | assumption | exact Sub.of ‹Sub _ _› ⟨by decide +kernel⟩) :
    Keeps μ σ (State.proof s h signature) := by
  unfold State.proof
  try dsimp only
  repeat' with_reducible first | assumption | refine takesTally_keeps ?_ | refine keep_of_some ‹_› (takesTally_keeps ?_) | refine refuse_keeps ?_ | refine answer_keeps ?_ | refine bump_keeps ?_ | refine setN_keeps ?_ | refine ends_keeps ?_ | refine keep_ite (P := Keeps μ σ) ?_ ?_ | (refine Keeps.lit (M := 0x4000000e0600006) ?_; first | assumption | refine takesTally_keeps ?_ | refine keep_of_some ‹_› (takesTally_keeps ?_) | refine refuse_keeps ?_ | refine answer_keeps ?_ | refine bump_keeps ?_ | refine setN_keeps ?_ | refine ends_keeps ?_ | refine keep_ite (P := Keeps μ σ) ?_ ?_) | refine OnOk.ok ?_ | exact OnOk.error | refine keep_ite (P := OnOk (Keeps μ σ)) ?_ ?_ | intro _ | split | dsimp only

theorem execSessionProof_keeps {μ : Nat} {σ : State} {hdr : TallyHdr} {signature : Bytes} {s : State} (hK : Keeps μ σ s)
    (hm : Sub 0x4000000e0600006 μ := by first | assumption | exact Sub.of ‹Sub _ _› ⟨by decide +kernel⟩) :
    OnNext (Keeps μ σ) (execSessionProof hdr signature s) := by
  unfold execSessionProof
  try dsimp only
  repeat' with_reducible first | assumption | refine proof_keeps ?_ | refine OnNext.next ?_ | refine OnOk.ok ?_ | exact OnOk.error | refine OnSome.some ?_ | exact OnSome.none | refine OnSomeOf.some ?_ | exact OnSomeOf.none | refine OnOkOf.ok ?_ | exact OnOkOf.error | refine act_keeps ?_ ?_ | refine live_keeps ?_ ?_ | refine keep_ite (P := OnNext (Keeps μ σ)) ?_ ?_ | refine keep_ite (P := Keeps μ σ) ?_ ?_ | refine keep_ite (P := OnOk (Keeps μ σ)) ?_ ?_ | intro _ | split | dsimp only

theorem sessionClose_keeps {μ : Nat} {σ : State} {s : State} {h : TallyHdr} (hK : Keeps μ σ s)
    (hm : Sub 0x4000001e0600006 μ := by first | assumption | exact Sub.of ‹Sub _ _› ⟨by decide +kernel⟩) :
    Keeps μ σ (State.sessionClose s h) := by
  unfold State.sessionClose
  try dsimp only
  repeat' with_reducible first | assumption | refine request_keeps ?_ ?_ | refine dropSession_keeps ?_ | refine ends_keeps ?_ | refine keep_ite (P := Keeps μ σ) ?_ ?_ | refine OnOk.ok ?_ | exact OnOk.error | refine keep_ite (P := OnOk (Keeps μ σ)) ?_ ?_ | intro _ | split | dsimp only

theorem execSessionClose_keeps {μ : Nat} {σ : State} {hdr : TallyHdr} {s : State} (hK : Keeps μ σ s)
    (hm : Sub 0x4000001e0600006 μ := by first | assumption | exact Sub.of ‹Sub _ _› ⟨by decide +kernel⟩) :
    OnNext (Keeps μ σ) (execSessionClose hdr s) := by
  unfold execSessionClose
  try dsimp only
  repeat' with_reducible first | assumption | refine sessionClose_keeps ?_ | refine OnNext.next ?_ | refine OnOk.ok ?_ | exact OnOk.error | refine OnSome.some ?_ | exact OnSome.none | refine OnSomeOf.some ?_ | exact OnSomeOf.none | refine OnOkOf.ok ?_ | exact OnOkOf.error | refine act_keeps ?_ ?_ | refine live_keeps ?_ ?_ | refine keep_ite (P := OnNext (Keeps μ σ)) ?_ ?_ | refine keep_ite (P := Keeps μ σ) ?_ ?_ | refine keep_ite (P := OnOk (Keeps μ σ)) ?_ ?_ | intro _ | split | dsimp only

theorem execChallengeTimeout_keeps {μ : Nat} {σ : State} {session : Nat} {s : State} (hK : Keeps μ σ s)
    (hm : Sub 0x4 μ := by first | assumption | exact Sub.of ‹Sub _ _› ⟨by decide +kernel⟩) :
    OnNext (Keeps μ σ) (execChallengeTimeout session s) := by
  unfold execChallengeTimeout
  try dsimp only
  repeat' with_reducible first | assumption | refine OnNext.next ?_ | refine OnOk.ok ?_ | exact OnOk.error | refine OnSome.some ?_ | exact OnSome.none | refine OnSomeOf.some ?_ | exact OnSomeOf.none | refine OnOkOf.ok ?_ | exact OnOkOf.error | refine act_keeps ?_ ?_ | refine live_keeps ?_ ?_ | refine keep_ite (P := OnNext (Keeps μ σ)) ?_ ?_ | refine keep_ite (P := Keeps μ σ) ?_ ?_ | (refine Keeps.lit (M := 0x4) ?_; first | assumption | refine keep_ite (P := Keeps μ σ) ?_ ?_) | refine keep_ite (P := OnOk (Keeps μ σ)) ?_ ?_ | intro _ | split | dsimp only

theorem execSessionIdleTimeout_keeps {μ : Nat} {σ : State} {session : Nat} {s : State} (hK : Keeps μ σ s)
    (hm : Sub 0x400000100000004 μ := by first | assumption | exact Sub.of ‹Sub _ _› ⟨by decide +kernel⟩) :
    OnNext (Keeps μ σ) (execSessionIdleTimeout session s) := by
  unfold execSessionIdleTimeout
  try dsimp only
  repeat' with_reducible first | assumption | refine dropSession_keeps ?_ | refine OnNext.next ?_ | refine OnOk.ok ?_ | exact OnOk.error | refine OnSome.some ?_ | exact OnSome.none | refine OnSomeOf.some ?_ | exact OnSomeOf.none | refine OnOkOf.ok ?_ | exact OnOkOf.error | refine act_keeps ?_ ?_ | refine live_keeps ?_ ?_ | refine keep_ite (P := OnNext (Keeps μ σ)) ?_ ?_ | refine keep_ite (P := Keeps μ σ) ?_ ?_ | refine keep_ite (P := OnOk (Keeps μ σ)) ?_ ?_ | intro _ | split | dsimp only

theorem execSessionLifeTimeout_keeps {μ : Nat} {σ : State} {session : Nat} {s : State} (hK : Keeps μ σ s)
    (hm : Sub 0x400000100000004 μ := by first | assumption | exact Sub.of ‹Sub _ _› ⟨by decide +kernel⟩) :
    OnNext (Keeps μ σ) (execSessionLifeTimeout session s) := by
  unfold execSessionLifeTimeout
  try dsimp only
  repeat' with_reducible first | assumption | refine dropSession_keeps ?_ | refine OnNext.next ?_ | refine OnOk.ok ?_ | exact OnOk.error | refine OnSome.some ?_ | exact OnSome.none | refine OnSomeOf.some ?_ | exact OnSomeOf.none | refine OnOkOf.ok ?_ | exact OnOkOf.error | refine act_keeps ?_ ?_ | refine live_keeps ?_ ?_ | refine keep_ite (P := OnNext (Keeps μ σ)) ?_ ?_ | refine keep_ite (P := Keeps μ σ) ?_ ?_ | refine keep_ite (P := OnOk (Keeps μ σ)) ?_ ?_ | intro _ | split | dsimp only

theorem testOn_keeps {μ : Nat} {σ : State} {s : State} (hK : Keeps μ σ s)
    (hm : Sub 0x100000000000080 μ := by first | assumption | exact Sub.of ‹Sub _ _› ⟨by decide +kernel⟩) :
    Keeps μ σ (State.testOn s) := by
  unfold State.testOn
  try dsimp only
  repeat' with_reducible first | assumption | refine putSec_keeps ?_ | refine setN_keeps ?_ | refine keep_ite (P := Keeps μ σ) ?_ ?_ | refine OnOk.ok ?_ | exact OnOk.error | refine keep_ite (P := OnOk (Keeps μ σ)) ?_ ?_ | intro _ | split | dsimp only

theorem testOff_keeps {μ : Nat} {σ : State} {s : State} (hK : Keeps μ σ s)
    (hm : Sub 0x2000a000000000000100000000000094 μ := by first | assumption | exact Sub.of ‹Sub _ _› ⟨by decide +kernel⟩) :
    Keeps μ σ (State.testOff s) := by
  unfold State.testOff
  try dsimp only
  have hrw : ∀ p ∈ rwtNums, OkKey μ p := fun p hp =>
    OkKey.lit hm ((by decide +kernel : ∀ k ∈ rwtNums, inside 0x2000a000000000000100000000000094 (k / 256) (k / 256) = true) p hp)
  repeat' with_reducible first | assumption | refine putSec_keeps ?_ | refine setN_keeps ?_ | refine setB_keeps ?_ | refine keep_ite (P := Keeps μ σ) ?_ ?_ | refine keep_foldl_mem (P := Keeps μ σ) ?_ ?_ | refine setN_keeps ?_ (hrw _ ‹_›) | (refine Keeps.lit (M := 0x2000a000000000000100000000000094) ?_; first | assumption | refine putSec_keeps ?_ | refine setN_keeps ?_ | refine setB_keeps ?_ | refine setN_keeps ?_ (hrw _ ‹_›) | refine keep_ite (P := Keeps μ σ) ?_ ?_ | refine keep_foldl_mem (P := Keeps μ σ) ?_ ?_) | refine OnOk.ok ?_ | exact OnOk.error | refine keep_ite (P := OnOk (Keeps μ σ)) ?_ ?_ | intro _ | split | dsimp only

theorem testPinHigh_keeps {μ : Nat} {σ : State} {s : State} {heldNs : Nat} (hK : Keeps μ σ s)
    (hm : Sub 0x100000000000180 μ := by first | assumption | exact Sub.of ‹Sub _ _› ⟨by decide +kernel⟩) :
    Keeps μ σ (State.testPinHigh s heldNs) := by
  unfold State.testPinHigh
  try dsimp only
  repeat' with_reducible first | assumption | refine testOn_keeps ?_ | refine keep_ite (P := Keeps μ σ) ?_ ?_ | (refine Keeps.lit (M := 0x100000000000180) ?_; first | assumption | refine testOn_keeps ?_ | refine keep_ite (P := Keeps μ σ) ?_ ?_) | refine OnOk.ok ?_ | exact OnOk.error | refine keep_ite (P := OnOk (Keeps μ σ)) ?_ ?_ | intro _ | split | dsimp only

theorem execTestEnAssert_keeps {μ : Nat} {σ : State} {heldNs : Nat} {s : State} (hK : Keeps μ σ s)
    (hm : Sub 0x100000000000180 μ := by first | assumption | exact Sub.of ‹Sub _ _› ⟨by decide +kernel⟩) :
    OnNext (Keeps μ σ) (execTestEnAssert heldNs s) := by
  unfold execTestEnAssert
  try dsimp only
  repeat' with_reducible first | assumption | refine testPinHigh_keeps ?_ | refine OnNext.next ?_ | refine OnOk.ok ?_ | exact OnOk.error | refine OnSome.some ?_ | exact OnSome.none | refine OnSomeOf.some ?_ | exact OnSomeOf.none | refine OnOkOf.ok ?_ | exact OnOkOf.error | refine act_keeps ?_ ?_ | refine live_keeps ?_ ?_ | refine keep_ite (P := OnNext (Keeps μ σ)) ?_ ?_ | refine keep_ite (P := Keeps μ σ) ?_ ?_ | refine keep_ite (P := OnOk (Keeps μ σ)) ?_ ?_ | intro _ | split | dsimp only

theorem testPinLow_keeps {μ : Nat} {σ : State} {s : State} {heldNs : Nat} (hK : Keeps μ σ s)
    (hm : Sub 0x2000a000000000000100000000000194 μ := by first | assumption | exact Sub.of ‹Sub _ _› ⟨by decide +kernel⟩) :
    Keeps μ σ (State.testPinLow s heldNs) := by
  unfold State.testPinLow
  try dsimp only
  repeat' with_reducible first | assumption | refine testOff_keeps ?_ | refine keep_ite (P := Keeps μ σ) ?_ ?_ | (refine Keeps.lit (M := 0x2000a000000000000100000000000194) ?_; first | assumption | refine testOff_keeps ?_ | refine keep_ite (P := Keeps μ σ) ?_ ?_) | refine OnOk.ok ?_ | exact OnOk.error | refine keep_ite (P := OnOk (Keeps μ σ)) ?_ ?_ | intro _ | split | dsimp only

theorem execTestEnDeassert_keeps {μ : Nat} {σ : State} {heldNs : Nat} {s : State} (hK : Keeps μ σ s)
    (hm : Sub 0x2000a000000000000100000000000194 μ := by first | assumption | exact Sub.of ‹Sub _ _› ⟨by decide +kernel⟩) :
    OnNext (Keeps μ σ) (execTestEnDeassert heldNs s) := by
  unfold execTestEnDeassert
  try dsimp only
  repeat' with_reducible first | assumption | refine testPinLow_keeps ?_ | refine OnNext.next ?_ | refine OnOk.ok ?_ | exact OnOk.error | refine OnSome.some ?_ | exact OnSome.none | refine OnSomeOf.some ?_ | exact OnSomeOf.none | refine OnOkOf.ok ?_ | exact OnOkOf.error | refine act_keeps ?_ ?_ | refine live_keeps ?_ ?_ | refine keep_ite (P := OnNext (Keeps μ σ)) ?_ ?_ | refine keep_ite (P := Keeps μ σ) ?_ ?_ | refine keep_ite (P := OnOk (Keeps μ σ)) ?_ ?_ | intro _ | split | dsimp only

end Sys2Proof.Laws
end

