-- ==== Sys2Proof/Laws/KeepSchedule.lean ====
section
/-! SUPPORT. What each operation of Machine/Schedule.lean changes: outside the zones of its mask it keeps everything, and it
keeps the invariant. -/
namespace Sys2Proof.Laws
open Sys2Proof.Machine
set_option Elab.async false
set_option linter.unreachableTactic false
set_option linter.unusedTactic false

theorem putSched_keeps {μ : Nat} {σ : State} {s : State} {x : Sched} (hK : Keeps μ σ s)
    (hm : Sub 0x10 μ := by first | assumption | exact Sub.of ‹Sub _ _› ⟨by decide +kernel⟩) :
    Keeps μ σ (State.putSched s x) := by
  unfold State.putSched
  try dsimp only
  repeat' with_reducible first | assumption | refine keep_ite (P := Keeps μ σ) ?_ ?_ | (refine Keeps.lit (M := 0x10) ?_; first | assumption | refine keep_ite (P := Keeps μ σ) ?_ ?_) | refine OnOk.ok ?_ | exact OnOk.error | refine keep_ite (P := OnOk (Keeps μ σ)) ?_ ?_ | intro _ | split | dsimp only

theorem schedRegs_keeps {μ : Nat} {σ : State} {s : State} (hK : Keeps μ σ s)
    (hm : Sub 0x2000000000000000000000000000 μ := by first | assumption | exact Sub.of ‹Sub _ _› ⟨by decide +kernel⟩) :
    Keeps μ σ (State.schedRegs s) := by
  unfold State.schedRegs
  try dsimp only
  repeat' with_reducible first | assumption | refine setB_keeps ?_ | refine setN_keeps ?_ | refine keep_ite (P := Keeps μ σ) ?_ ?_ | refine OnOk.ok ?_ | exact OnOk.error | refine keep_ite (P := OnOk (Keeps μ σ)) ?_ ?_ | intro _ | split | dsimp only

theorem dropPrepared_keeps {μ : Nat} {σ : State} {s : State} {epoch : Nat} (hK : Keeps μ σ s)
    (hm : Sub 0x8000000080000000000c0610206 μ := by first | assumption | exact Sub.of ‹Sub _ _› ⟨by decide +kernel⟩) :
    Keeps μ σ (State.dropPrepared s epoch) := by
  unfold State.dropPrepared
  try dsimp only
  repeat' with_reducible first | assumption | refine freeEntry_keeps ?_ | refine putDeck_keeps ?_ | refine keep_ite (P := Keeps μ σ) ?_ ?_ | refine keep_foldl (P := Keeps μ σ) ?_ ?_ | refine OnOk.ok ?_ | exact OnOk.error | refine keep_ite (P := OnOk (Keeps μ σ)) ?_ ?_ | intro _ | split | dsimp only

theorem slotsChanged_keeps {μ : Nat} {σ : State} {s : State} (hK : Keeps μ σ s)
    (hm : Sub 0x28028000000000000e2000000150000 μ := by first | assumption | exact Sub.of ‹Sub _ _› ⟨by decide +kernel⟩) :
    Keeps μ σ (State.slotsChanged s) := by
  unfold State.slotsChanged
  try dsimp only
  repeat' with_reducible first | assumption | refine schedRegs_keeps ?_ | refine reserveSubs_keeps ?_ | refine setPeers_keeps ?_ | refine activateAll_keeps ?_ | refine deckRegs_keeps ?_ | refine keep_ite (P := Keeps μ σ) ?_ ?_ | refine OnOk.ok ?_ | exact OnOk.error | refine keep_ite (P := OnOk (Keeps μ σ)) ?_ ?_ | intro _ | split | dsimp only

theorem beginJournal_keeps {μ : Nat} {σ : State} {s : State} {x : Section} (hK : Keeps μ σ s)
    (hm : Sub 0x20800000000000000000000000010 μ := by first | assumption | exact Sub.of ‹Sub _ _› ⟨by decide +kernel⟩) :
    Keeps μ σ (State.beginJournal s x) := by
  unfold State.beginJournal
  try dsimp only
  repeat' with_reducible first | assumption | refine putSched_keeps ?_ | refine setN_keeps ?_ | refine journal_keeps ?_ | refine keep_ite (P := Keeps μ σ) ?_ ?_ | refine OnOk.ok ?_ | exact OnOk.error | refine keep_ite (P := OnOk (Keeps μ σ)) ?_ ?_ | intro _ | split | dsimp only

theorem journalEpoch_keeps {μ : Nat} {σ : State} {s : State} {x : Section} (hK : Keeps μ σ s)
    (hm : Sub 0x20000000000000000000000000010 μ := by first | assumption | exact Sub.of ‹Sub _ _› ⟨by decide +kernel⟩) :
    Keeps μ σ (State.journalEpoch s x) := by
  unfold State.journalEpoch
  try dsimp only
  repeat' with_reducible first | assumption | refine journal_keeps ?_ | refine keep_ite (P := Keeps μ σ) ?_ ?_ | refine OnOk.ok ?_ | exact OnOk.error | refine keep_ite (P := OnOk (Keeps μ σ)) ?_ ?_ | intro _ | split | dsimp only

theorem loadSection_keeps {μ : Nat} {σ : State} {s : State} {x : Section} (hK : Keeps μ σ s)
    (hm : Sub 0x28228000000080000e20000c0f50216 μ := by first | assumption | exact Sub.of ‹Sub _ _› ⟨by decide +kernel⟩) :
    Keeps μ σ (State.loadSection s x) := by
  unfold State.loadSection
  try dsimp only
  repeat' with_reducible first | assumption | refine drawn_keeps ?_ | refine putSched_keeps ?_ | refine setN_keeps ?_ | refine beginJournal_keeps ?_ | refine journalEpoch_keeps ?_ | refine slotsChanged_keeps ?_ | refine dropPrepared_keeps ?_ | refine keep_ite (P := Keeps μ σ) ?_ ?_ | refine OnOk.ok ?_ | exact OnOk.error | refine keep_ite (P := OnOk (Keeps μ σ)) ?_ ?_ | intro _ | split | dsimp only

theorem sectionLoad_keeps {μ : Nat} {σ : State} {s : State} {v : Bytes} (hK : Keeps μ σ s)
    (hm : Sub 0x28228000000080000e20000c0f50216 μ := by first | assumption | exact Sub.of ‹Sub _ _› ⟨by decide +kernel⟩) :
    OnOk (Keeps μ σ) (State.sectionLoad s v) := by
  unfold State.sectionLoad
  try dsimp only
  repeat' with_reducible first | assumption | refine loadSection_keeps ?_ | refine OnNext.next ?_ | refine OnOk.ok ?_ | exact OnOk.error | refine OnSome.some ?_ | exact OnSome.none | refine OnSomeOf.some ?_ | exact OnSomeOf.none | refine OnOkOf.ok ?_ | exact OnOkOf.error | refine act_keeps ?_ ?_ | refine live_keeps ?_ ?_ | refine keep_ite (P := OnOk (Keeps μ σ)) ?_ ?_ | refine keep_ite (P := Keeps μ σ) ?_ ?_ | intro _ | split | dsimp only | refine keep_of_ok ‹_› ?_

theorem execSectionLoad_keeps {μ : Nat} {σ : State} {via : Via} {value : Bytes} {s : State} (hK : Keeps μ σ s)
    (hm : Sub 0x28228000000080000e20020e0f5021e μ := by first | assumption | exact Sub.of ‹Sub _ _› ⟨by decide +kernel⟩) :
    OnNext (Keeps μ σ) (execSectionLoad via value s) := by
  unfold execSectionLoad
  try dsimp only
  repeat' with_reducible first | assumption | refine writeVia_keeps ?_ ?_ | refine sectionLoad_keeps ?_ | refine keep_of_ok ‹_› (sectionLoad_keeps ?_) | refine OnNext.next ?_ | refine OnOk.ok ?_ | exact OnOk.error | refine OnSome.some ?_ | exact OnSome.none | refine OnSomeOf.some ?_ | exact OnSomeOf.none | refine OnOkOf.ok ?_ | exact OnOkOf.error | refine act_keeps ?_ ?_ | refine live_keeps ?_ ?_ | refine keep_ite (P := OnNext (Keeps μ σ)) ?_ ?_ | refine keep_ite (P := Keeps μ σ) ?_ ?_ | refine keep_ite (P := OnOk (Keeps μ σ)) ?_ ?_ | intro _ | split | dsimp only | refine keep_of_ok ‹_› ?_

theorem runStart_keeps {μ : Nat} {σ : State} {s : State} (hK : Keeps μ σ s)
    (hm : Sub 0x228000000000000020000c0340016 μ := by first | assumption | exact Sub.of ‹Sub _ _› ⟨by decide +kernel⟩) :
    Keeps μ σ (State.runStart s) := by
  unfold State.runStart
  try dsimp only
  repeat' with_reducible first | assumption | refine raise_keeps ?_ | refine declareAway_keeps ?_ | refine setN_keeps ?_ | refine beginJournal_keeps ?_ | refine keep_ite (P := Keeps μ σ) ?_ ?_ | refine OnOk.ok ?_ | exact OnOk.error | refine keep_ite (P := OnOk (Keeps μ σ)) ?_ ?_ | intro _ | split | dsimp only

theorem execRunStartReached_keeps {μ : Nat} {σ : State} {s : State} (hK : Keeps μ σ s)
    (hm : Sub 0x228000000000000020000c0340016 μ := by first | assumption | exact Sub.of ‹Sub _ _› ⟨by decide +kernel⟩) :
    OnNext (Keeps μ σ) (execRunStartReached s) := by
  unfold execRunStartReached
  try dsimp only
  repeat' with_reducible first | assumption | refine runStart_keeps ?_ | refine OnNext.next ?_ | refine OnOk.ok ?_ | exact OnOk.error | refine OnSome.some ?_ | exact OnSome.none | refine OnSomeOf.some ?_ | exact OnSomeOf.none | refine OnOkOf.ok ?_ | exact OnOkOf.error | refine act_keeps ?_ ?_ | refine live_keeps ?_ ?_ | refine keep_ite (P := OnNext (Keeps μ σ)) ?_ ?_ | refine keep_ite (P := Keeps μ σ) ?_ ?_ | refine keep_ite (P := OnOk (Keeps μ σ)) ?_ ?_ | intro _ | split | dsimp only

theorem enterEpoch_keeps {μ : Nat} {σ : State} {s : State} {x : Section} (hK : Keeps μ σ s)
    (hm : Sub 0x28228000000000000e2000000150010 μ := by first | assumption | exact Sub.of ‹Sub _ _› ⟨by decide +kernel⟩) :
    Keeps μ σ (State.enterEpoch s x) := by
  unfold State.enterEpoch
  try dsimp only
  repeat' with_reducible first | assumption | refine putSched_keeps ?_ | refine setN_keeps ?_ | refine journalEpoch_keeps ?_ | refine slotsChanged_keeps ?_ | refine advanceKeys_keeps ?_ | refine lookoutEpoch_keeps ?_ | refine keep_ite (P := Keeps μ σ) ?_ ?_ | refine OnOk.ok ?_ | exact OnOk.error | refine keep_ite (P := OnOk (Keeps μ σ)) ?_ ?_ | intro _ | split | dsimp only

theorem epochStarts_keeps {μ : Nat} {σ : State} {s : State} (hK : Keeps μ σ s)
    (hm : Sub 0x28228000000000000e2280000150030 μ := by first | assumption | exact Sub.of ‹Sub _ _› ⟨by decide +kernel⟩) :
    Keeps μ σ (State.epochStarts s) := by
  unfold State.epochStarts
  try dsimp only
  repeat' with_reducible first | assumption | refine leaveVoid_keeps ?_ | refine enterEpoch_keeps ?_ | refine keep_ite (P := Keeps μ σ) ?_ ?_ | refine OnOk.ok ?_ | exact OnOk.error | refine keep_ite (P := OnOk (Keeps μ σ)) ?_ ?_ | intro _ | split | dsimp only

theorem execEpochStart_keeps {μ : Nat} {σ : State} {s : State} (hK : Keeps μ σ s)
    (hm : Sub 0x28228000000000000e2280000150030 μ := by first | assumption | exact Sub.of ‹Sub _ _› ⟨by decide +kernel⟩) :
    OnNext (Keeps μ σ) (execEpochStart s) := by
  unfold execEpochStart
  try dsimp only
  repeat' with_reducible first | assumption | refine epochStarts_keeps ?_ | refine OnNext.next ?_ | refine OnOk.ok ?_ | exact OnOk.error | refine OnSome.some ?_ | exact OnSome.none | refine OnSomeOf.some ?_ | exact OnSomeOf.none | refine OnOkOf.ok ?_ | exact OnOkOf.error | refine act_keeps ?_ ?_ | refine live_keeps ?_ ?_ | refine keep_ite (P := OnNext (Keeps μ σ)) ?_ ?_ | refine keep_ite (P := Keeps μ σ) ?_ ?_ | refine keep_ite (P := OnOk (Keeps μ σ)) ?_ ?_ | intro _ | split | dsimp only

theorem loadLate_keeps {μ : Nat} {σ : State} {s : State} (hK : Keeps μ σ s)
    (hm : Sub 0x28628000000080000f20000c0f50216 μ := by first | assumption | exact Sub.of ‹Sub _ _› ⟨by decide +kernel⟩) :
    Keeps μ σ (State.loadLate s) := by
  unfold State.loadLate
  try dsimp only
  repeat' with_reducible first | assumption | refine putSched_keeps ?_ | refine raise_keeps ?_ | refine declare_keeps ?_ | refine propose_keeps ?_ | refine settle_keeps ?_ | refine keep_ite (P := Keeps μ σ) ?_ ?_ | refine OnOk.ok ?_ | exact OnOk.error | refine keep_ite (P := OnOk (Keeps μ σ)) ?_ ?_ | intro _ | split | dsimp only

theorem execLoadLate_keeps {μ : Nat} {σ : State} {s : State} (hK : Keeps μ σ s)
    (hm : Sub 0x28628000000080000f20000c0f50216 μ := by first | assumption | exact Sub.of ‹Sub _ _› ⟨by decide +kernel⟩) :
    OnNext (Keeps μ σ) (execLoadLate s) := by
  unfold execLoadLate
  try dsimp only
  repeat' with_reducible first | assumption | refine loadLate_keeps ?_ | refine OnNext.next ?_ | refine OnOk.ok ?_ | exact OnOk.error | refine OnSome.some ?_ | exact OnSome.none | refine OnSomeOf.some ?_ | exact OnSomeOf.none | refine OnOkOf.ok ?_ | exact OnOkOf.error | refine act_keeps ?_ ?_ | refine live_keeps ?_ ?_ | refine keep_ite (P := OnNext (Keeps μ σ)) ?_ ?_ | refine keep_ite (P := Keeps μ σ) ?_ ?_ | refine keep_ite (P := OnOk (Keeps μ σ)) ?_ ?_ | intro _ | split | dsimp only

theorem diverged_keeps {μ : Nat} {σ : State} {s : State} {step : Nat} (hK : Keeps μ σ s)
    (hm : Sub 0x220000000000000000000c0000016 μ := by first | assumption | exact Sub.of ‹Sub _ _› ⟨by decide +kernel⟩) :
    Keeps μ σ (State.diverged s step) := by
  unfold State.diverged
  try dsimp only
  repeat' with_reducible first | assumption | refine setN_keeps ?_ | refine raise_keeps ?_ | refine putSched_keeps ?_ | refine keep_ite (P := Keeps μ σ) ?_ ?_ | refine OnOk.ok ?_ | exact OnOk.error | refine keep_ite (P := OnOk (Keeps μ σ)) ?_ ?_ | intro _ | split | dsimp only

theorem stepDigest_keeps {μ : Nat} {σ : State} {s : State} {step : Nat} (hK : Keeps μ σ s)
    (hm : Sub 0x220000000000000000000c0000016 μ := by first | assumption | exact Sub.of ‹Sub _ _› ⟨by decide +kernel⟩) :
    Keeps μ σ (State.stepDigest s step) := by
  unfold State.stepDigest
  try dsimp only
  repeat' with_reducible first | assumption | refine putSched_keeps ?_ | refine journal_keeps ?_ | refine diverged_keeps ?_ | refine keep_ite (P := Keeps μ σ) ?_ ?_ | refine OnOk.ok ?_ | exact OnOk.error | refine keep_ite (P := OnOk (Keeps μ σ)) ?_ ?_ | intro _ | split | dsimp only

theorem execStepDigest_keeps {μ : Nat} {σ : State} {step : Nat} {s : State} (hK : Keeps μ σ s)
    (hm : Sub 0x220000000000000000000c0000016 μ := by first | assumption | exact Sub.of ‹Sub _ _› ⟨by decide +kernel⟩) :
    OnNext (Keeps μ σ) (execStepDigest step s) := by
  unfold execStepDigest
  try dsimp only
  repeat' with_reducible first | assumption | refine stepDigest_keeps ?_ | refine OnNext.next ?_ | refine OnOk.ok ?_ | exact OnOk.error | refine OnSome.some ?_ | exact OnSome.none | refine OnSomeOf.some ?_ | exact OnSomeOf.none | refine OnOkOf.ok ?_ | exact OnOkOf.error | refine act_keeps ?_ ?_ | refine live_keeps ?_ ?_ | refine keep_ite (P := OnNext (Keeps μ σ)) ?_ ?_ | refine keep_ite (P := Keeps μ σ) ?_ ?_ | refine keep_ite (P := OnOk (Keeps μ σ)) ?_ ?_ | intro _ | split | dsimp only

end Sys2Proof.Laws
end

