-- ==== Sys2Proof/Laws/KeepStart.lean ====
section
/-! SUPPORT. What each operation of Machine/Start.lean changes: outside the zones of its mask it keeps everything, and it
keeps the invariant. -/
namespace Sys2Proof.Laws
open Sys2Proof.Machine
set_option Elab.async false
set_option linter.unreachableTactic false
set_option linter.unusedTactic false

theorem clocksFromOd_keeps {μ : Nat} {σ : State} {s : State} (hK : Keeps μ σ s)
    (hm : Sub 0x100 μ := by first | assumption | exact Sub.of ‹Sub _ _› ⟨by decide +kernel⟩) :
    Keeps μ σ (State.clocksFromOd s) := by
  unfold State.clocksFromOd
  try dsimp only
  repeat' with_reducible first | assumption | refine putPwr_keeps ?_ | refine keep_ite (P := Keeps μ σ) ?_ ?_ | refine OnOk.ok ?_ | exact OnOk.error | refine keep_ite (P := OnOk (Keeps μ σ)) ?_ ?_ | intro _ | split | dsimp only

/-- The registers of the reset state are in canonical form, whatever the variant. -/
theorem reset_canonical (v : Variant) : State.reset.od.Canonical v := by
  cases v <;> exact ⟨by decide +kernel, by decide +kernel, by decide +kernel⟩

theorem wiped_keeps {μ : Nat} {σ : State} {s : State} (hK : Keeps μ σ s)
    (hm : Sub 0x7ffffffffffffffffffffffffe5ffffe μ := by first | assumption | exact Sub.of ‹Sub _ _› ⟨by decide +kernel⟩) :
    Keeps μ σ (State.wiped s) := by
  refine hK.trans ⟨rfl, fun p hp => ?_, fun b h => ?_, fun _ => ⟨reset_canonical _, Nat.zero_le _, rfl⟩⟩
  · have := hm.bit hp
    cases p <;> first | rfl | exact absurd this (by decide +kernel)
  · rw [AllBlocks.of hm (by decide +kernel) b] at h
    cases h

theorem bootSettings_keeps {μ : Nat} {σ : State} {s : State} (hK : Keeps μ σ s)
    (hm : Sub 0x3ffffffffffffffffffffffffe000000 μ := by first | assumption | exact Sub.of ‹Sub _ _› ⟨by decide +kernel⟩) :
    Keeps μ σ (State.bootSettings s) :=
  Keeps.replaced hK (AllBlocks.of hm (by decide +kernel)) fun _ => load_canonical (reset_canonical _)

theorem skidderFrom_keeps {μ : Nat} {σ : State} {s : State} {subs : List SubSlot} (hK : Keeps μ σ s)
    (hm : Sub 0x100000 μ := by first | assumption | exact Sub.of ‹Sub _ _› ⟨by decide +kernel⟩) :
    Keeps μ σ (State.skidderFrom s subs) := by
  unfold State.skidderFrom
  try dsimp only
  repeat' with_reducible first | assumption | refine keep_ite (P := Keeps μ σ) ?_ ?_ | (refine Keeps.lit (M := 0x100000) ?_; first | assumption | refine keep_ite (P := Keeps μ σ) ?_ ?_) | refine OnOk.ok ?_ | exact OnOk.error | refine keep_ite (P := OnOk (Keeps μ σ)) ?_ ?_ | intro _ | split | dsimp only

theorem versionsReset_keeps {μ : Nat} {σ : State} {s : State} (hK : Keeps μ σ s)
    (hm : Sub 0x3ffffffffffffffffffffffffe000000 μ := by first | assumption | exact Sub.of ‹Sub _ _› ⟨by decide +kernel⟩) :
    Keeps μ σ (State.versionsReset s) :=
  Keeps.replaced hK (AllBlocks.of hm (by decide +kernel)) fun hc => ⟨hc.1, hc.2.1, rfl⟩

theorem deviceReset_keeps {μ : Nat} {σ : State} {s : State} {last : Nat} (hK : Keeps μ σ s)
    (hm : Sub 0x7ffffffffffffffffffffffffe5ffffe μ := by first | assumption | exact Sub.of ‹Sub _ _› ⟨by decide +kernel⟩) :
    Keeps μ σ (State.deviceReset s last) := by
  unfold State.deviceReset
  try dsimp only
  repeat' with_reducible first | assumption | refine wiped_keeps ?_ | refine bootSettings_keeps ?_ | refine clocksFromOd_keeps ?_ | refine skidderFrom_keeps ?_ | refine setN_keeps ?_ | refine versionsReset_keeps ?_ | refine keep_ite (P := Keeps μ σ) ?_ ?_ | refine OnOk.ok ?_ | exact OnOk.error | refine keep_ite (P := OnOk (Keeps μ σ)) ?_ ?_ | intro _ | split | dsimp only

theorem startUp_keeps {μ : Nat} {σ : State} {s : State} (hK : Keeps μ σ s)
    (hm : Sub 0x1008400c0400186 μ := by first | assumption | exact Sub.of ‹Sub _ _› ⟨by decide +kernel⟩) :
    Keeps μ σ (State.startUp s) := by
  unfold State.startUp
  try dsimp only
  repeat' with_reducible first | assumption | refine putPwr_keeps ?_ | refine setN_keeps ?_ | refine testOn_keeps ?_ | refine startStep_keeps ?_ | refine refuse_keeps ?_ | refine keep_ite (P := Keeps μ σ) ?_ ?_ | refine OnOk.ok ?_ | exact OnOk.error | refine keep_ite (P := OnOk (Keeps μ σ)) ?_ ?_ | intro _ | split | dsimp only

theorem booted_keeps {μ : Nat} {σ : State} {s : State} {state : Nat} {i : FwImage} (hK : Keeps μ σ s)
    (hm : Sub 0x100000000000000 μ := by first | assumption | exact Sub.of ‹Sub _ _› ⟨by decide +kernel⟩) :
    Keeps μ σ (State.booted s state i) := by
  unfold State.booted
  try dsimp only
  repeat' with_reducible first | assumption | refine setN_keeps ?_ | refine setB_keeps ?_ | refine keep_ite (P := Keeps μ σ) ?_ ?_ | refine OnOk.ok ?_ | exact OnOk.error | refine keep_ite (P := OnOk (Keeps μ σ)) ?_ ?_ | intro _ | split | dsimp only

theorem sizePool_keeps {μ : Nat} {σ : State} {s : State} {p : Nat} {n : Nat} (hK : Keeps μ σ s)
    (hm : Sub 0x40000000000008000000000000000200 μ := by first | assumption | exact Sub.of ‹Sub _ _› ⟨by decide +kernel⟩) :
    Keeps μ σ (State.sizePool s p n) := by
  unfold State.sizePool
  try dsimp only
  repeat' with_reducible first | assumption | refine putPool_keeps ?_ | refine setN_keeps ?_ | refine keep_ite (P := Keeps μ σ) ?_ ?_ | refine OnOk.ok ?_ | exact OnOk.error | refine keep_ite (P := OnOk (Keeps μ σ)) ?_ ?_ | intro _ | split | dsimp only

theorem divideTier1_keeps {μ : Nat} {σ : State} {s : State} {bytes : Nat} (hK : Keeps μ σ s)
    (hm : Sub 0x4000000000000c000000000000000200 μ := by first | assumption | exact Sub.of ‹Sub _ _› ⟨by decide +kernel⟩) :
    Keeps μ σ (State.divideTier1 s bytes) := by
  unfold State.divideTier1
  try dsimp only
  repeat' with_reducible first | assumption | refine setN_keeps ?_ | refine sizePool_keeps ?_ | refine keep_ite (P := Keeps μ σ) ?_ ?_ | refine OnOk.ok ?_ | exact OnOk.error | refine keep_ite (P := OnOk (Keeps μ σ)) ?_ ?_ | intro _ | split | dsimp only

theorem trainMemory_keeps {μ : Nat} {σ : State} {s : State} (hK : Keeps μ σ s)
    (hm : Sub 0x4000000000000e000000040040000200 μ := by first | assumption | exact Sub.of ‹Sub _ _› ⟨by decide +kernel⟩) :
    Keeps μ σ (State.trainMemory s) := by
  unfold State.trainMemory
  try dsimp only
  repeat' with_reducible first | assumption | refine startStep_keeps ?_ | refine setN_keeps ?_ | refine divideTier1_keeps ?_ | refine keep_ite (P := Keeps μ σ) ?_ ?_ | refine OnOk.ok ?_ | exact OnOk.error | refine keep_ite (P := OnOk (Keeps μ σ)) ?_ ?_ | intro _ | split | dsimp only

theorem secureBoot_keeps {μ : Nat} {σ : State} {s : State} (hK : Keeps μ σ s)
    (hm : Sub 0x4000000000000e000100040040000200 μ := by first | assumption | exact Sub.of ‹Sub _ _› ⟨by decide +kernel⟩) :
    Keeps μ σ (State.secureBoot s) := by
  unfold State.secureBoot
  try dsimp only
  repeat' with_reducible first | assumption | refine booted_keeps ?_ | refine trainMemory_keeps ?_ | refine setN_keeps ?_ | refine startStep_keeps ?_ | refine keep_ite (P := Keeps μ σ) ?_ ?_ | refine OnOk.ok ?_ | exact OnOk.error | refine keep_ite (P := OnOk (Keeps μ σ)) ?_ ?_ | intro _ | split | dsimp only

theorem execSecureBoot_keeps {μ : Nat} {σ : State} {s : State} (hK : Keeps μ σ s)
    (hm : Sub 0x4000000000000e000100040040000200 μ := by first | assumption | exact Sub.of ‹Sub _ _› ⟨by decide +kernel⟩) :
    OnNext (Keeps μ σ) (execSecureBoot s) := by
  unfold execSecureBoot
  try dsimp only
  repeat' with_reducible first | assumption | refine secureBoot_keeps ?_ | refine OnNext.next ?_ | refine OnOk.ok ?_ | exact OnOk.error | refine OnSome.some ?_ | exact OnSome.none | refine OnSomeOf.some ?_ | exact OnSomeOf.none | refine OnOkOf.ok ?_ | exact OnOkOf.error | refine act_keeps ?_ ?_ | refine live_keeps ?_ ?_ | refine keep_ite (P := OnNext (Keeps μ σ)) ?_ ?_ | refine keep_ite (P := Keeps μ σ) ?_ ?_ | refine keep_ite (P := OnOk (Keeps μ σ)) ?_ ?_ | intro _ | split | dsimp only

theorem unsafeNoted_keeps {μ : Nat} {σ : State} {s : State} (hK : Keeps μ σ s)
    (hm : Sub 0x200000000 μ := by first | assumption | exact Sub.of ‹Sub _ _› ⟨by decide +kernel⟩) :
    Keeps μ σ (State.unsafeNoted s) := by
  unfold State.unsafeNoted
  try dsimp only
  repeat' with_reducible first | assumption | refine setN_keeps ?_ | refine keep_ite (P := Keeps μ σ) ?_ ?_ | refine OnOk.ok ?_ | exact OnOk.error | refine keep_ite (P := OnOk (Keeps μ σ)) ?_ ?_ | intro _ | split | dsimp only

theorem derivedSettings_keeps {μ : Nat} {σ : State} {s : State} (hK : Keeps μ σ s)
    (hm : Sub 0x4100000000000000000000000000 μ := by first | assumption | exact Sub.of ‹Sub _ _› ⟨by decide +kernel⟩) :
    Keeps μ σ (State.derivedSettings s) := by
  unfold State.derivedSettings
  try dsimp only
  repeat' with_reducible first | assumption | refine setN_keeps ?_ | refine setB_keeps ?_ | refine keep_ite (P := Keeps μ σ) ?_ ?_ | refine OnOk.ok ?_ | exact OnOk.error | refine keep_ite (P := OnOk (Keeps μ σ)) ?_ ?_ | intro _ | split | dsimp only

theorem yardStart_keeps {μ : Nat} {σ : State} {s : State} {m : RecoveryMedia} (hK : Keeps μ σ s)
    (hm : Sub 0x3ffffffffffffffffffffffffe6a000e μ := by first | assumption | exact Sub.of ‹Sub _ _› ⟨by decide +kernel⟩) :
    Keeps μ σ (State.yardStart s m) := by
  unfold State.yardStart
  try dsimp only
  repeat' with_reducible first | assumption | refine recoverYard_keeps ?_ | refine heartLoad_keeps ?_ | refine unsafeNoted_keeps ?_ | refine asyncEvent_keeps ?_ | refine mergeLog_keeps ?_ | refine holdupRegs_keeps ?_ | refine startStep_keeps ?_ | refine loadYardSettings_keeps ?_ | refine derivedSettings_keeps ?_ | refine startSettle_keeps ?_ | refine haltLog_keeps ?_ | refine keep_ite (P := Keeps μ σ) ?_ ?_ | refine OnOk.ok ?_ | exact OnOk.error | refine keep_ite (P := OnOk (Keeps μ σ)) ?_ ?_ | intro _ | split | dsimp only

theorem execYardRecovery_keeps {μ : Nat} {σ : State} {media : RecoveryMedia} {s : State} (hK : Keeps μ σ s)
    (hm : Sub 0x3ffffffffffffffffffffffffe6a000e μ := by first | assumption | exact Sub.of ‹Sub _ _› ⟨by decide +kernel⟩) :
    OnNext (Keeps μ σ) (execYardRecovery media s) := by
  unfold execYardRecovery
  try dsimp only
  repeat' with_reducible first | assumption | refine yardStart_keeps ?_ | refine OnNext.next ?_ | refine OnOk.ok ?_ | exact OnOk.error | refine OnSome.some ?_ | exact OnSome.none | refine OnSomeOf.some ?_ | exact OnSomeOf.none | refine OnOkOf.ok ?_ | exact OnOkOf.error | refine act_keeps ?_ ?_ | refine live_keeps ?_ ?_ | refine keep_ite (P := OnNext (Keeps μ σ)) ?_ ?_ | refine keep_ite (P := Keeps μ σ) ?_ ?_ | refine keep_ite (P := OnOk (Keeps μ σ)) ?_ ?_ | intro _ | split | dsimp only

theorem execPowerOn_keeps {μ : Nat} {σ : State} {perstLow : Bool} {s : State} (hK : Keeps μ σ s)
    (hm : Sub 0x7ffffffffffffffffffffffffe5ffffe μ := by first | assumption | exact Sub.of ‹Sub _ _› ⟨by decide +kernel⟩) :
    OnNext (Keeps μ σ) (execPowerOn perstLow s) := by
  unfold execPowerOn
  try dsimp only
  repeat' with_reducible first | assumption | refine deviceReset_keeps ?_ | refine putPwr_keeps ?_ | refine OnNext.next ?_ | refine OnOk.ok ?_ | exact OnOk.error | refine OnSome.some ?_ | exact OnSome.none | refine OnSomeOf.some ?_ | exact OnSomeOf.none | refine OnOkOf.ok ?_ | exact OnOkOf.error | refine act_keeps ?_ ?_ | refine live_keeps ?_ ?_ | refine keep_ite (P := OnNext (Keeps μ σ)) ?_ ?_ | refine keep_ite (P := Keeps μ σ) ?_ ?_ | refine keep_ite (P := OnOk (Keeps μ σ)) ?_ ?_ | intro _ | split | dsimp only

theorem execPerstAssert_keeps {μ : Nat} {σ : State} {heldNs : Nat} {s : State} (hK : Keeps μ σ s)
    (hm : Sub 0x7ffffffffffffffffffffffffe5ffffe μ := by first | assumption | exact Sub.of ‹Sub _ _› ⟨by decide +kernel⟩) :
    OnNext (Keeps μ σ) (execPerstAssert heldNs s) := by
  unfold execPerstAssert
  try dsimp only
  repeat' with_reducible first | assumption | refine deviceReset_keeps ?_ | refine OnNext.next ?_ | refine OnOk.ok ?_ | exact OnOk.error | refine OnSome.some ?_ | exact OnSome.none | refine OnSomeOf.some ?_ | exact OnSomeOf.none | refine OnOkOf.ok ?_ | exact OnOkOf.error | refine act_keeps ?_ ?_ | refine live_keeps ?_ ?_ | refine keep_ite (P := OnNext (Keeps μ σ)) ?_ ?_ | refine keep_ite (P := Keeps μ σ) ?_ ?_ | refine keep_ite (P := OnOk (Keeps μ σ)) ?_ ?_ | intro _ | split | dsimp only

theorem execPerstDeassert_keeps {μ : Nat} {σ : State} {strap : Nat} {pllLocks : Bool} {memory : Option (Nat × Nat)} {s : State} (hK : Keeps μ σ s)
    (hm : Sub 0x1008400c0400186 μ := by first | assumption | exact Sub.of ‹Sub _ _› ⟨by decide +kernel⟩) :
    OnNext (Keeps μ σ) (execPerstDeassert strap pllLocks memory s) := by
  unfold execPerstDeassert
  try dsimp only
  repeat' with_reducible first | assumption | refine putPwr_keeps ?_ | refine startUp_keeps ?_ | refine OnNext.next ?_ | refine OnOk.ok ?_ | exact OnOk.error | refine OnSome.some ?_ | exact OnSome.none | refine OnSomeOf.some ?_ | exact OnSomeOf.none | refine OnOkOf.ok ?_ | exact OnOkOf.error | refine act_keeps ?_ ?_ | refine live_keeps ?_ ?_ | refine keep_ite (P := OnNext (Keeps μ σ)) ?_ ?_ | refine keep_ite (P := Keeps μ σ) ?_ ?_ | refine keep_ite (P := OnOk (Keeps μ σ)) ?_ ?_ | intro _ | split | dsimp only

theorem resetFromWithin_keeps {μ : Nat} {σ : State} {s : State} {last : Nat} (hK : Keeps μ σ s)
    (hm : Sub 0x7ffffffffffffffffffffffffe5ffffe μ := by first | assumption | exact Sub.of ‹Sub _ _› ⟨by decide +kernel⟩) :
    Keeps μ σ (State.resetFromWithin s last) := by
  unfold State.resetFromWithin
  try dsimp only
  repeat' with_reducible first | assumption | refine deviceReset_keeps ?_ | refine startUp_keeps ?_ | refine keep_ite (P := Keeps μ σ) ?_ ?_ | refine OnOk.ok ?_ | exact OnOk.error | refine keep_ite (P := OnOk (Keeps μ σ)) ?_ ?_ | intro _ | split | dsimp only

theorem resetCmd_keeps {μ : Nat} {σ : State} {s : State} {v : Nat} (hK : Keeps μ σ s)
    (hm : Sub 0x7ffffffffffffffffffffffffe5ffffe μ := by first | assumption | exact Sub.of ‹Sub _ _› ⟨by decide +kernel⟩) :
    OnOk (Keeps μ σ) (State.resetCmd s v) := by
  unfold State.resetCmd
  try dsimp only
  repeat' with_reducible first | assumption | refine resetFromWithin_keeps ?_ | refine OnNext.next ?_ | refine OnOk.ok ?_ | exact OnOk.error | refine OnSome.some ?_ | exact OnSome.none | refine OnSomeOf.some ?_ | exact OnSomeOf.none | refine OnOkOf.ok ?_ | exact OnOkOf.error | refine act_keeps ?_ ?_ | refine live_keeps ?_ ?_ | refine keep_ite (P := OnOk (Keeps μ σ)) ?_ ?_ | refine keep_ite (P := Keeps μ σ) ?_ ?_ | intro _ | split | dsimp only | refine keep_of_ok ‹_› ?_

theorem execResetCmdDevice_keeps {μ : Nat} {σ : State} {via : Via} {s : State} (hK : Keeps μ σ s)
    (hm : Sub 0x7ffffffffffffffffffffffffe7ffffe μ := by first | assumption | exact Sub.of ‹Sub _ _› ⟨by decide +kernel⟩) :
    OnNext (Keeps μ σ) (execResetCmdDevice via s) := by
  unfold execResetCmdDevice
  try dsimp only
  repeat' with_reducible first | assumption | refine writeVia_keeps ?_ ?_ | refine resetCmd_keeps ?_ | refine keep_of_ok ‹_› (resetCmd_keeps ?_) | refine OnNext.next ?_ | refine OnOk.ok ?_ | exact OnOk.error | refine OnSome.some ?_ | exact OnSome.none | refine OnSomeOf.some ?_ | exact OnSomeOf.none | refine OnOkOf.ok ?_ | exact OnOkOf.error | refine act_keeps ?_ ?_ | refine live_keeps ?_ ?_ | refine keep_ite (P := OnNext (Keeps μ σ)) ?_ ?_ | refine keep_ite (P := Keeps μ σ) ?_ ?_ | refine keep_ite (P := OnOk (Keeps μ σ)) ?_ ?_ | intro _ | split | dsimp only | refine keep_of_ok ‹_› ?_

theorem execResetCmdDeviceForce_keeps {μ : Nat} {σ : State} {via : Via} {s : State} (hK : Keeps μ σ s)
    (hm : Sub 0x7ffffffffffffffffffffffffe7ffffe μ := by first | assumption | exact Sub.of ‹Sub _ _› ⟨by decide +kernel⟩) :
    OnNext (Keeps μ σ) (execResetCmdDeviceForce via s) := by
  unfold execResetCmdDeviceForce
  try dsimp only
  repeat' with_reducible first | assumption | refine writeVia_keeps ?_ ?_ | refine resetCmd_keeps ?_ | refine keep_of_ok ‹_› (resetCmd_keeps ?_) | refine OnNext.next ?_ | refine OnOk.ok ?_ | exact OnOk.error | refine OnSome.some ?_ | exact OnSome.none | refine OnSomeOf.some ?_ | exact OnSomeOf.none | refine OnOkOf.ok ?_ | exact OnOkOf.error | refine act_keeps ?_ ?_ | refine live_keeps ?_ ?_ | refine keep_ite (P := OnNext (Keeps μ σ)) ?_ ?_ | refine keep_ite (P := Keeps μ σ) ?_ ?_ | refine keep_ite (P := OnOk (Keeps μ σ)) ?_ ?_ | intro _ | split | dsimp only | refine keep_of_ok ‹_› ?_

theorem execWatchdogExpiry_keeps {μ : Nat} {σ : State} {s : State} (hK : Keeps μ σ s)
    (hm : Sub 0x7ffffffffffffffffffffffffe5ffffe μ := by first | assumption | exact Sub.of ‹Sub _ _› ⟨by decide +kernel⟩) :
    OnNext (Keeps μ σ) (execWatchdogExpiry s) := by
  unfold execWatchdogExpiry
  try dsimp only
  repeat' with_reducible first | assumption | refine resetFromWithin_keeps ?_ | refine OnNext.next ?_ | refine OnOk.ok ?_ | exact OnOk.error | refine OnSome.some ?_ | exact OnSome.none | refine OnSomeOf.some ?_ | exact OnSomeOf.none | refine OnOkOf.ok ?_ | exact OnOkOf.error | refine act_keeps ?_ ?_ | refine live_keeps ?_ ?_ | refine keep_ite (P := OnNext (Keeps μ σ)) ?_ ?_ | refine keep_ite (P := Keeps μ σ) ?_ ?_ | refine keep_ite (P := OnOk (Keeps μ σ)) ?_ ?_ | intro _ | split | dsimp only

theorem execFunctionLevelReset_keeps {μ : Nat} {σ : State} {s : State} (hK : Keeps μ σ s)
    (hm : Sub 0x80000 μ := by first | assumption | exact Sub.of ‹Sub _ _› ⟨by decide +kernel⟩) :
    OnNext (Keeps μ σ) (execFunctionLevelReset s) := by
  unfold execFunctionLevelReset
  try dsimp only
  repeat' with_reducible first | assumption | refine nvmeReset_keeps ?_ | refine OnNext.next ?_ | refine OnOk.ok ?_ | exact OnOk.error | refine OnSome.some ?_ | exact OnSome.none | refine OnSomeOf.some ?_ | exact OnSomeOf.none | refine OnOkOf.ok ?_ | exact OnOkOf.error | refine act_keeps ?_ ?_ | refine live_keeps ?_ ?_ | refine keep_ite (P := OnNext (Keeps μ σ)) ?_ ?_ | refine keep_ite (P := Keeps μ σ) ?_ ?_ | refine keep_ite (P := OnOk (Keeps μ σ)) ?_ ?_ | intro _ | split | dsimp only

end Sys2Proof.Laws
end

