-- ==== Sys2Proof/Laws/KeepDictionary.lean ====
section
/-! SUPPORT. What each operation of Machine/Dictionary.lean changes: outside the zones of its mask it keeps everything, and it
keeps the invariant. -/
namespace Sys2Proof.Laws
open Sys2Proof.Machine
set_option Elab.async false
set_option linter.unreachableTactic false
set_option linter.unusedTactic false

theorem busyOr_keeps {μ : Nat} {σ : State} {b : Bool} {code : Nat} {t : State} (hK : Keeps μ σ t)
    (hm : Sub 0x0 μ := by first | assumption | exact Sub.of ‹Sub _ _› ⟨by decide +kernel⟩) :
    OnOk (Keeps μ σ) (busyOr b code t) := by
  unfold busyOr
  try dsimp only
  repeat' with_reducible first | assumption | refine OnNext.next ?_ | refine OnOk.ok ?_ | exact OnOk.error | refine OnSome.some ?_ | exact OnSome.none | refine OnSomeOf.some ?_ | exact OnSomeOf.none | refine OnOkOf.ok ?_ | exact OnOkOf.error | refine act_keeps ?_ ?_ | refine live_keeps ?_ ?_ | refine keep_ite (P := OnOk (Keeps μ σ)) ?_ ?_ | refine keep_ite (P := Keeps μ σ) ?_ ?_ | intro _ | split | dsimp only | refine keep_of_ok ‹_› ?_

theorem runWrite_keeps {μ : Nat} {σ : State} {s : State} {r : OdRow} {k : Nat} {v : Bytes} (hK : Keeps μ σ s)
    (hm : Sub 0x3ffffffffffffffffffffffffe610216 μ := by first | assumption | exact Sub.of ‹Sub _ _› ⟨by decide +kernel⟩) :
    OnOk (Keeps μ σ) (State.runWrite s r k v) := by
  unfold State.runWrite
  try dsimp only
  have hall : ∀ k, OkKey μ k := fun k => Or.inr fun b hb => by
    rw [AllBlocks.of hm (by decide +kernel) b] at hb; cases hb
  repeat' with_reducible first | assumption | refine store_keeps ?_ | refine putSched_keeps ?_ | refine seasonDiscard_keeps ?_ | refine setN_keeps ?_ | refine OnNext.next ?_ | refine OnOk.ok ?_ | exact OnOk.error | refine OnSome.some ?_ | exact OnSome.none | refine OnSomeOf.some ?_ | exact OnSomeOf.none | refine OnOkOf.ok ?_ | exact OnOkOf.error | refine act_keeps ?_ ?_ | refine live_keeps ?_ ?_ | refine keep_ite (P := OnOk (Keeps μ σ)) ?_ ?_ | refine keep_ite (P := Keeps μ σ) ?_ ?_ | refine store_keeps ?_ (hall _) | refine storeN_keeps ?_ (hall _) | intro _ | split | dsimp only | refine keep_of_ok ‹_› ?_

theorem streamWrite_keeps {μ : Nat} {σ : State} {s : State} {r : OdRow} {i : Nat} {sub : Nat} {v : Bytes} (hK : Keeps μ σ s)
    (hm : Sub 0x3ffffffffffffffffffffffffe201056 μ := by first | assumption | exact Sub.of ‹Sub _ _› ⟨by decide +kernel⟩) :
    OnOk (Keeps μ σ) (State.streamWrite s r i sub v) := by
  unfold State.streamWrite
  try dsimp only
  have hall : ∀ k, OkKey μ k := fun k => Or.inr fun b hb => by
    rw [AllBlocks.of hm (by decide +kernel) b] at hb; cases hb
  repeat' with_reducible first | assumption | refine liveEnable_keeps ?_ | refine keep_of_ok ‹_› (liveEnable_keeps ?_) | refine settingsApply_keeps ?_ | refine keep_of_ok ‹_› (settingsApply_keeps ?_) | refine store_keeps ?_ | refine busyOr_keeps ?_ | refine keep_of_ok ‹_› (busyOr_keeps ?_) | refine OnNext.next ?_ | refine OnOk.ok ?_ | exact OnOk.error | refine OnSome.some ?_ | exact OnSome.none | refine OnSomeOf.some ?_ | exact OnSomeOf.none | refine OnOkOf.ok ?_ | exact OnOkOf.error | refine act_keeps ?_ ?_ | refine live_keeps ?_ ?_ | refine keep_ite (P := OnOk (Keeps μ σ)) ?_ ?_ | refine keep_ite (P := Keeps μ σ) ?_ ?_ | refine store_keeps ?_ (hall _) | refine storeN_keeps ?_ (hall _) | intro _ | split | dsimp only | refine keep_of_ok ‹_› ?_

theorem groupWrite_keeps {μ : Nat} {σ : State} {s : State} {r : OdRow} {g : Nat} {sub : Nat} {v : Bytes} (hK : Keeps μ σ s)
    (hm : Sub 0x3ffffffffffffffffffffffffe201046 μ := by first | assumption | exact Sub.of ‹Sub _ _› ⟨by decide +kernel⟩) :
    OnOk (Keeps μ σ) (State.groupWrite s r g sub v) := by
  unfold State.groupWrite
  try dsimp only
  have hall : ∀ k, OkKey μ k := fun k => Or.inr fun b hb => by
    rw [AllBlocks.of hm (by decide +kernel) b] at hb; cases hb
  repeat' with_reducible first | assumption | refine groupEnable_keeps ?_ | refine keep_of_ok ‹_› (groupEnable_keeps ?_) | refine store_keeps ?_ | refine busyOr_keeps ?_ | refine keep_of_ok ‹_› (busyOr_keeps ?_) | refine OnNext.next ?_ | refine OnOk.ok ?_ | exact OnOk.error | refine OnSome.some ?_ | exact OnSome.none | refine OnSomeOf.some ?_ | exact OnSomeOf.none | refine OnOkOf.ok ?_ | exact OnOkOf.error | refine act_keeps ?_ ?_ | refine live_keeps ?_ ?_ | refine keep_ite (P := OnOk (Keeps μ σ)) ?_ ?_ | refine keep_ite (P := Keeps μ σ) ?_ ?_ | refine store_keeps ?_ (hall _) | refine storeN_keeps ?_ (hall _) | intro _ | split | dsimp only | refine keep_of_ok ‹_› ?_

theorem ctxWrite_keeps {μ : Nat} {σ : State} {s : State} {r : OdRow} {k : Nat} {sub : Nat} {v : Bytes} (hK : Keeps μ σ s)
    (hm : Sub 0x3ffffffffffffffffffffffffe787ad6 μ := by first | assumption | exact Sub.of ‹Sub _ _› ⟨by decide +kernel⟩) :
    OnOk (Keeps μ σ) (State.ctxWrite s r k sub v) := by
  unfold State.ctxWrite
  try dsimp only
  have hall : ∀ k, OkKey μ k := fun k => Or.inr fun b hb => by
    rw [AllBlocks.of hm (by decide +kernel) b] at hb; cases hb
  repeat' with_reducible first | assumption | refine store_keeps ?_ | refine ctxAction_keeps ?_ | refine keep_of_ok ‹_› (ctxAction_keeps ?_) | refine program0_keeps ?_ | refine keep_of_ok ‹_› (program0_keeps ?_) | refine openClusters_keeps ?_ | refine busyOr_keeps ?_ | refine keep_of_ok ‹_› (busyOr_keeps ?_) | refine OnNext.next ?_ | refine OnOk.ok ?_ | exact OnOk.error | refine OnSome.some ?_ | exact OnSome.none | refine OnSomeOf.some ?_ | exact OnSomeOf.none | refine OnOkOf.ok ?_ | exact OnOkOf.error | refine act_keeps ?_ ?_ | refine live_keeps ?_ ?_ | refine keep_ite (P := OnOk (Keeps μ σ)) ?_ ?_ | refine keep_ite (P := Keeps μ σ) ?_ ?_ | refine store_keeps ?_ (hall _) | refine storeN_keeps ?_ (hall _) | intro _ | split | dsimp only | refine keep_of_ok ‹_› ?_

theorem powerWrite_keeps {μ : Nat} {σ : State} {s : State} {r : OdRow} {k : Nat} {v : Bytes} (hK : Keeps μ σ s)
    (hm : Sub 0x3ffffffffffffffffffffffffe000100 μ := by first | assumption | exact Sub.of ‹Sub _ _› ⟨by decide +kernel⟩) :
    OnOk (Keeps μ σ) (State.powerWrite s r k v) := by
  unfold State.powerWrite
  try dsimp only
  have hall : ∀ k, OkKey μ k := fun k => Or.inr fun b hb => by
    rw [AllBlocks.of hm (by decide +kernel) b] at hb; cases hb
  repeat' with_reducible first | assumption | refine store_keeps ?_ | refine touch_keeps ?_ | refine putPwr_keeps ?_ | refine setN_keeps ?_ | refine OnNext.next ?_ | refine OnOk.ok ?_ | exact OnOk.error | refine OnSome.some ?_ | exact OnSome.none | refine OnSomeOf.some ?_ | exact OnSomeOf.none | refine OnOkOf.ok ?_ | exact OnOkOf.error | refine act_keeps ?_ ?_ | refine live_keeps ?_ ?_ | refine keep_ite (P := OnOk (Keeps μ σ)) ?_ ?_ | refine keep_ite (P := Keeps μ σ) ?_ ?_ | refine store_keeps ?_ (hall _) | refine storeN_keeps ?_ (hall _) | intro _ | split | dsimp only | refine keep_of_ok ‹_› ?_

theorem clockWrite_keeps {μ : Nat} {σ : State} {s : State} {r : OdRow} {sub : Nat} {v : Bytes} (hK : Keeps μ σ s)
    (hm : Sub 0x3ffffffffffffffffffffffffe000000 μ := by first | assumption | exact Sub.of ‹Sub _ _› ⟨by decide +kernel⟩) :
    OnOk (Keeps μ σ) (State.clockWrite s r sub v) := by
  unfold State.clockWrite
  try dsimp only
  have hall : ∀ k, OkKey μ k := fun k => Or.inr fun b hb => by
    rw [AllBlocks.of hm (by decide +kernel) b] at hb; cases hb
  repeat' with_reducible first | assumption | refine store_keeps ?_ | refine OnNext.next ?_ | refine OnOk.ok ?_ | exact OnOk.error | refine OnSome.some ?_ | exact OnSome.none | refine OnSomeOf.some ?_ | exact OnSomeOf.none | refine OnOkOf.ok ?_ | exact OnOkOf.error | refine act_keeps ?_ ?_ | refine live_keeps ?_ ?_ | refine keep_ite (P := OnOk (Keeps μ σ)) ?_ ?_ | refine keep_ite (P := Keeps μ σ) ?_ ?_ | refine store_keeps ?_ (hall _) | refine storeN_keeps ?_ (hall _) | intro _ | split | dsimp only | refine keep_of_ok ‹_› ?_

theorem logAckedWrite_keeps {μ : Nat} {σ : State} {s : State} {v : Nat} (hK : Keeps μ σ s)
    (hm : Sub 0x80000002 μ := by first | assumption | exact Sub.of ‹Sub _ _› ⟨by decide +kernel⟩) :
    OnOk (Keeps μ σ) (State.logAckedWrite s v) := by
  unfold State.logAckedWrite
  try dsimp only
  repeat' with_reducible first | assumption | refine touch_keeps ?_ | refine touchLog_keeps ?_ | refine OnNext.next ?_ | refine OnOk.ok ?_ | exact OnOk.error | refine OnSome.some ?_ | exact OnSome.none | refine OnSomeOf.some ?_ | exact OnSomeOf.none | refine OnOkOf.ok ?_ | exact OnOkOf.error | refine act_keeps ?_ ?_ | refine live_keeps ?_ ?_ | refine keep_ite (P := OnOk (Keeps μ σ)) ?_ ?_ | refine keep_ite (P := Keeps μ σ) ?_ ?_ | refine Keeps.lit (M := 0x80000002) (t := s.touch Reg.log.logAcked) ?_ (hlog := Or.inr ⟨by decide +kernel, fun h => by with_unfolding_all exact h⟩) | (refine Keeps.lit (M := 0x80000002) ?_; first | assumption | refine touch_keeps ?_ | refine touchLog_keeps ?_ | refine Keeps.lit (M := @M) (t := s.touch Reg.log.logAcked) ?_ (hlog := Or.inr ⟨by decide +kernel, fun h => by with_unfolding_all exact h⟩) | refine keep_ite (P := Keeps μ σ) ?_ ?_) | intro _ | split | dsimp only | refine keep_of_ok ‹_› ?_

theorem alertClear_keeps {μ : Nat} {σ : State} {s : State} {v : Nat} (hK : Keeps μ σ s)
    (hm : Sub 0x40000004 μ := by first | assumption | exact Sub.of ‹Sub _ _› ⟨by decide +kernel⟩) :
    Keeps μ σ (State.alertClear s v) := by
  unfold State.alertClear
  try dsimp only
  repeat' with_reducible first | assumption | refine storeN_keeps ?_ | refine keep_ite (P := Keeps μ σ) ?_ ?_ | (refine Keeps.lit (M := 0x40000004) ?_; first | assumption | refine storeN_keeps ?_ | refine keep_ite (P := Keeps μ σ) ?_ ?_) | refine OnOk.ok ?_ | exact OnOk.error | refine keep_ite (P := OnOk (Keeps μ σ)) ?_ ?_ | intro _ | split | dsimp only

theorem odApply_keeps {μ : Nat} {σ : State} {s : State} {via : Via} {idx : Nat} {sub : Nat} {v : Bytes} {r : OdRow} (hK : Keeps μ σ s)
    (hm : Sub 0x7ffffffffffffffffffffffffefffffe μ := by first | assumption | exact Sub.of ‹Sub _ _› ⟨by decide +kernel⟩) :
    OnOk (Keeps μ σ) (State.odApply s via idx sub v r) := by
  unfold State.odApply
  try dsimp only
  have hall : ∀ k, OkKey μ k := fun k => Or.inr fun b hb => by
    rw [AllBlocks.of hm (by decide +kernel) b] at hb; cases hb
  repeat' with_reducible first | assumption | refine store_keeps ?_ | refine ctxWrite_keeps ?_ | refine keep_of_ok ‹_› (ctxWrite_keeps ?_) | refine portEnable_keeps ?_ | refine groupWrite_keeps ?_ | refine keep_of_ok ‹_› (groupWrite_keeps ?_) | refine streamWrite_keeps ?_ | refine keep_of_ok ‹_› (streamWrite_keeps ?_) | refine alertClear_keeps ?_ | refine logAckedWrite_keeps ?_ | refine keep_of_ok ‹_› (logAckedWrite_keeps ?_) | refine clockWrite_keeps ?_ | refine keep_of_ok ‹_› (clockWrite_keeps ?_) | refine powerWrite_keeps ?_ | refine keep_of_ok ‹_› (powerWrite_keeps ?_) | refine clusterGateApply_keeps ?_ | refine keep_of_ok ‹_› (clusterGateApply_keeps ?_) | refine portGateApply_keeps ?_ | refine keep_of_ok ‹_› (portGateApply_keeps ?_) | refine coolingRegs_keeps ?_ | refine resetCmd_keeps ?_ | refine keep_of_ok ‹_› (resetCmd_keeps ?_) | refine councilReseed_keeps ?_ | refine keep_of_ok ‹_› (councilReseed_keeps ?_) | refine touch_keeps ?_ | refine secCommand_keeps ?_ | refine keep_of_ok ‹_› (secCommand_keeps ?_) | refine operatorKeys_keeps ?_ | refine keep_of_ok ‹_› (operatorKeys_keeps ?_) | refine attest_keeps ?_ | refine keep_of_ok ‹_› (attest_keeps ?_) | refine yardCommand_keeps ?_ | refine keep_of_ok ‹_› (yardCommand_keeps ?_) | refine setB_keeps ?_ | refine gradeControl_keeps ?_ | refine keep_of_ok ‹_› (gradeControl_keeps ?_) | refine seasonClear_keeps ?_ | refine keep_of_ok ‹_› (seasonClear_keeps ?_) | refine runWrite_keeps ?_ | refine keep_of_ok ‹_› (runWrite_keeps ?_) | refine sectionLoad_keeps ?_ | refine keep_of_ok ‹_› (sectionLoad_keeps ?_) | refine connOpenWrite_keeps ?_ | refine keep_of_ok ‹_› (connOpenWrite_keeps ?_) | refine connCloseWrite_keeps ?_ | refine keep_of_ok ‹_› (connCloseWrite_keeps ?_) | refine subConfig_keeps ?_ | refine keep_of_ok ‹_› (subConfig_keeps ?_) | refine busyOr_keeps ?_ | refine keep_of_ok ‹_› (busyOr_keeps ?_) | refine OnNext.next ?_ | refine OnOk.ok ?_ | exact OnOk.error | refine OnSome.some ?_ | exact OnSome.none | refine OnSomeOf.some ?_ | exact OnSomeOf.none | refine OnOkOf.ok ?_ | exact OnOkOf.error | refine act_keeps ?_ ?_ | refine live_keeps ?_ ?_ | refine keep_ite (P := OnOk (Keeps μ σ)) ?_ ?_ | refine keep_ite (P := Keeps μ σ) ?_ ?_ | refine store_keeps ?_ (hall _) | refine storeN_keeps ?_ (hall _) | intro _ | split | dsimp only | refine keep_of_ok ‹_› ?_

theorem keepOpen_keeps {μ : Nat} {σ : State} {t : State} {via : Via} {idx : Nat} {sub : Nat} {s : State} (hK : Keeps μ σ t)
    (hm : Sub 0x4 μ := by first | assumption | exact Sub.of ‹Sub _ _› ⟨by decide +kernel⟩) :
    Keeps μ σ (State.keepOpen t via idx sub s) := by
  unfold State.keepOpen
  try dsimp only
  repeat' with_reducible first | assumption | refine noteOpen_keeps ?_ | refine keep_ite (P := Keeps μ σ) ?_ ?_ | refine OnOk.ok ?_ | exact OnOk.error | refine keep_ite (P := OnOk (Keeps μ σ)) ?_ ?_ | intro _ | split | dsimp only

theorem execDictionaryWrite_keeps {μ : Nat} {σ : State} {via : Via} {idx : Nat} {sub : Nat} {value : Bytes} {s : State} (hK : Keeps μ σ s)
    (hm : Sub 0x7ffffffffffffffffffffffffefffffe μ := by first | assumption | exact Sub.of ‹Sub _ _› ⟨by decide +kernel⟩) :
    OnNext (Keeps μ σ) (execDictionaryWrite via idx sub value s) := by
  unfold execDictionaryWrite
  try dsimp only
  repeat' with_reducible first | assumption | refine writeVia_keeps ?_ ?_ | refine odApply_keeps ?_ | refine keep_of_ok ‹_› (odApply_keeps ?_) | refine keepOpen_keeps ?_ | refine OnNext.next ?_ | refine OnOk.ok ?_ | exact OnOk.error | refine OnSome.some ?_ | exact OnSome.none | refine OnSomeOf.some ?_ | exact OnSomeOf.none | refine OnOkOf.ok ?_ | exact OnOkOf.error | refine act_keeps ?_ ?_ | refine live_keeps ?_ ?_ | refine keep_ite (P := OnNext (Keeps μ σ)) ?_ ?_ | refine keep_ite (P := Keeps μ σ) ?_ ?_ | refine keep_ite (P := OnOk (Keeps μ σ)) ?_ ?_ | intro _ | split | dsimp only | refine keep_of_ok ‹_› ?_

theorem execLogAckedWrite_keeps {μ : Nat} {σ : State} {via : Via} {value : Bytes} {s : State} (hK : Keeps μ σ s)
    (hm : Sub 0x200000000000000000020e060001e μ := by first | assumption | exact Sub.of ‹Sub _ _› ⟨by decide +kernel⟩) :
    OnNext (Keeps μ σ) (execLogAckedWrite via value s) := by
  unfold execLogAckedWrite
  try dsimp only
  repeat' with_reducible first | assumption | refine writeVia_keeps ?_ ?_ | refine logAckedWrite_keeps ?_ | refine keep_of_ok ‹_› (logAckedWrite_keeps ?_) | refine OnNext.next ?_ | refine OnOk.ok ?_ | exact OnOk.error | refine OnSome.some ?_ | exact OnSome.none | refine OnSomeOf.some ?_ | exact OnSomeOf.none | refine OnOkOf.ok ?_ | exact OnOkOf.error | refine act_keeps ?_ ?_ | refine live_keeps ?_ ?_ | refine keep_ite (P := OnNext (Keeps μ σ)) ?_ ?_ | refine keep_ite (P := Keeps μ σ) ?_ ?_ | refine keep_ite (P := OnOk (Keeps μ σ)) ?_ ?_ | intro _ | split | dsimp only | refine keep_of_ok ‹_› ?_

theorem execSmbAlertClear_keeps {μ : Nat} {σ : State} {via : Via} {value : Bytes} {s : State} (hK : Keeps μ σ s)
    (hm : Sub 0x200000000000000000020e060001e μ := by first | assumption | exact Sub.of ‹Sub _ _› ⟨by decide +kernel⟩) :
    OnNext (Keeps μ σ) (execSmbAlertClear via value s) := by
  unfold execSmbAlertClear
  try dsimp only
  repeat' with_reducible first | assumption | refine writeVia_keeps ?_ ?_ | refine alertClear_keeps ?_ | refine OnNext.next ?_ | refine OnOk.ok ?_ | exact OnOk.error | refine OnSome.some ?_ | exact OnSome.none | refine OnSomeOf.some ?_ | exact OnSomeOf.none | refine OnOkOf.ok ?_ | exact OnOkOf.error | refine act_keeps ?_ ?_ | refine live_keeps ?_ ?_ | refine keep_ite (P := OnNext (Keeps μ σ)) ?_ ?_ | refine keep_ite (P := Keeps μ σ) ?_ ?_ | refine keep_ite (P := OnOk (Keeps μ σ)) ?_ ?_ | intro _ | split | dsimp only | refine keep_of_ok ‹_› ?_

theorem noteFollower_keeps {μ : Nat} {σ : State} {s : State} {k : Nat} {v : Bytes} (hK : Keeps μ σ s)
    (hm : Sub 0x4 μ := by first | assumption | exact Sub.of ‹Sub _ _› ⟨by decide +kernel⟩) :
    Keeps μ σ (State.noteFollower s k v) := by
  unfold State.noteFollower
  try dsimp only
  repeat' with_reducible first | assumption | refine touch_keeps ?_ | refine keep_ite (P := Keeps μ σ) ?_ ?_ | (refine Keeps.lit (M := 0x4) ?_; first | assumption | refine touch_keeps ?_ | refine keep_ite (P := Keeps μ σ) ?_ ?_) | refine OnOk.ok ?_ | exact OnOk.error | refine keep_ite (P := OnOk (Keeps μ σ)) ?_ ?_ | intro _ | split | dsimp only

theorem coarseRead_keeps {μ : Nat} {σ : State} {s : State} {k : Nat} (hK : Keeps μ σ s)
    (hm : Sub 0x4 μ := by first | assumption | exact Sub.of ‹Sub _ _› ⟨by decide +kernel⟩) :
    Keeps μ σ (State.coarseRead s k).1 := by
  unfold State.coarseRead
  try dsimp only
  repeat' with_reducible first | assumption | refine keep_ite (P := Keeps μ σ) ?_ ?_ | (refine Keeps.lit (M := 0x4) ?_; first | assumption | refine keep_ite (P := Keeps μ σ) ?_ ?_) | refine OnOk.ok ?_ | exact OnOk.error | refine keep_ite (P := OnOk (Keeps μ σ)) ?_ ?_ | intro _ | split | dsimp only

theorem odRead_keeps {μ : Nat} {σ : State} {s : State} {who : Who} {idx : Nat} {sub : Nat} (hK : Keeps μ σ s)
    (hm : Sub 0x4 μ := by first | assumption | exact Sub.of ‹Sub _ _› ⟨by decide +kernel⟩) :
    OnOkOf (fun x => Keeps μ σ x.1) (State.odRead s who idx sub) := by
  unfold State.odRead
  try dsimp only
  repeat' with_reducible first | assumption | refine coarseRead_keeps ?_ | refine keep_of_fst ‹_› (coarseRead_keeps ?_) | refine noteFollower_keeps ?_ | refine OnNext.next ?_ | refine OnOk.ok ?_ | exact OnOk.error | refine OnSome.some ?_ | exact OnSome.none | refine OnSomeOf.some ?_ | exact OnSomeOf.none | refine OnOkOf.ok ?_ | exact OnOkOf.error | refine act_keeps ?_ ?_ | refine live_keeps ?_ ?_ | refine keep_ite (P := OnOkOf (fun x => Keeps μ σ x.1)) ?_ ?_ | refine keep_ite (P := Keeps μ σ) ?_ ?_ | refine keep_ite (P := OnOk (Keeps μ σ)) ?_ ?_ | intro _ | split | dsimp only | refine keep_of_ok ‹_› ?_

end Sys2Proof.Laws
end

