-- ==== Sys2Proof/Laws/KeepMgmt.lean ====
section
/-! SUPPORT. What each operation of Machine/Mgmt.lean changes: outside the zones of its mask it keeps everything, and it
keeps the invariant. -/
namespace Sys2Proof.Laws
open Sys2Proof.Machine
set_option Elab.async false
set_option linter.unreachableTactic false
set_option linter.unusedTactic false

theorem tallyRead_keeps {μ : Nat} {σ : State} {s : State} {h : TallyHdr} {idx : Nat} {sub : Nat} {offset : Nat} {max : Nat} (hK : Keeps μ σ s)
    (hm : Sub 0xe0600006 μ := by first | assumption | exact Sub.of ‹Sub _ _› ⟨by decide +kernel⟩) :
    Keeps μ σ (State.tallyRead s h idx sub offset max) := by
  unfold State.tallyRead
  try dsimp only
  repeat' with_reducible first | assumption | refine request_keeps ?_ ?_ | refine odRead_keeps ?_ | refine keep_of_ok_03 ‹_› (odRead_keeps ?_) | refine refuse_keeps ?_ | refine ends_keeps ?_ | refine keep_ite (P := Keeps μ σ) ?_ ?_ | refine OnOk.ok ?_ | exact OnOk.error | refine keep_ite (P := OnOk (Keeps μ σ)) ?_ ?_ | intro _ | split | dsimp only | refine keep_of_ok ‹_› ?_

theorem execTallyRead_keeps {μ : Nat} {σ : State} {hdr : TallyHdr} {idx : Nat} {sub : Nat} {offset : Nat} {max : Nat} {s : State} (hK : Keeps μ σ s)
    (hm : Sub 0xe0600006 μ := by first | assumption | exact Sub.of ‹Sub _ _› ⟨by decide +kernel⟩) :
    OnNext (Keeps μ σ) (execTallyRead hdr idx sub offset max s) := by
  unfold execTallyRead
  try dsimp only
  repeat' with_reducible first | assumption | refine tallyRead_keeps ?_ | refine OnNext.next ?_ | refine OnOk.ok ?_ | exact OnOk.error | refine OnSome.some ?_ | exact OnSome.none | refine OnSomeOf.some ?_ | exact OnSomeOf.none | refine OnOkOf.ok ?_ | exact OnOkOf.error | refine act_keeps ?_ ?_ | refine live_keeps ?_ ?_ | refine keep_ite (P := OnNext (Keeps μ σ)) ?_ ?_ | refine keep_ite (P := Keeps μ σ) ?_ ?_ | refine keep_ite (P := OnOk (Keeps μ σ)) ?_ ?_ | intro _ | split | dsimp only

theorem tallyMeta_keeps {μ : Nat} {σ : State} {s : State} {h : TallyHdr} {idx : Nat} {sub : Nat} (hK : Keeps μ σ s)
    (hm : Sub 0xe0600006 μ := by first | assumption | exact Sub.of ‹Sub _ _› ⟨by decide +kernel⟩) :
    Keeps μ σ (State.tallyMeta s h idx sub) := by
  unfold State.tallyMeta
  try dsimp only
  repeat' with_reducible first | assumption | refine request_keeps ?_ ?_ | refine refuse_keeps ?_ | refine ends_keeps ?_ | refine keep_ite (P := Keeps μ σ) ?_ ?_ | refine OnOk.ok ?_ | exact OnOk.error | refine keep_ite (P := OnOk (Keeps μ σ)) ?_ ?_ | intro _ | split | dsimp only | refine keep_of_ok ‹_› ?_

theorem execTallyMeta_keeps {μ : Nat} {σ : State} {hdr : TallyHdr} {idx : Nat} {sub : Nat} {s : State} (hK : Keeps μ σ s)
    (hm : Sub 0xe0600006 μ := by first | assumption | exact Sub.of ‹Sub _ _› ⟨by decide +kernel⟩) :
    OnNext (Keeps μ σ) (execTallyMeta hdr idx sub s) := by
  unfold execTallyMeta
  try dsimp only
  repeat' with_reducible first | assumption | refine tallyMeta_keeps ?_ | refine OnNext.next ?_ | refine OnOk.ok ?_ | exact OnOk.error | refine OnSome.some ?_ | exact OnSome.none | refine OnSomeOf.some ?_ | exact OnSomeOf.none | refine OnOkOf.ok ?_ | exact OnOkOf.error | refine act_keeps ?_ ?_ | refine live_keeps ?_ ?_ | refine keep_ite (P := OnNext (Keeps μ σ)) ?_ ?_ | refine keep_ite (P := Keeps μ σ) ?_ ?_ | refine keep_ite (P := OnOk (Keeps μ σ)) ?_ ?_ | intro _ | split | dsimp only

theorem blobBegin_keeps {μ : Nat} {σ : State} {s : State} {h : TallyHdr} {idx : Nat} {sub : Nat} {total : Nat} {digest : Bytes} (hK : Keeps μ σ s)
    (hm : Sub 0xe0600006 μ := by first | assumption | exact Sub.of ‹Sub _ _› ⟨by decide +kernel⟩) :
    Keeps μ σ (State.blobBegin s h idx sub total digest) := by
  unfold State.blobBegin
  try dsimp only
  repeat' with_reducible first | assumption | refine request_keeps ?_ ?_ | refine refuse_keeps ?_ | refine putSession_keeps ?_ | refine ends_keeps ?_ | refine keep_ite (P := Keeps μ σ) ?_ ?_ | refine OnOk.ok ?_ | exact OnOk.error | refine keep_ite (P := OnOk (Keeps μ σ)) ?_ ?_ | intro _ | split | dsimp only

theorem execBlobBegin_keeps {μ : Nat} {σ : State} {hdr : TallyHdr} {idx : Nat} {sub : Nat} {total : Nat} {digest : Bytes} {s : State} (hK : Keeps μ σ s)
    (hm : Sub 0xe0600006 μ := by first | assumption | exact Sub.of ‹Sub _ _› ⟨by decide +kernel⟩) :
    OnNext (Keeps μ σ) (execBlobBegin hdr idx sub total digest s) := by
  unfold execBlobBegin
  try dsimp only
  repeat' with_reducible first | assumption | refine blobBegin_keeps ?_ | refine OnNext.next ?_ | refine OnOk.ok ?_ | exact OnOk.error | refine OnSome.some ?_ | exact OnSome.none | refine OnSomeOf.some ?_ | exact OnSomeOf.none | refine OnOkOf.ok ?_ | exact OnOkOf.error | refine act_keeps ?_ ?_ | refine live_keeps ?_ ?_ | refine keep_ite (P := OnNext (Keeps μ σ)) ?_ ?_ | refine keep_ite (P := Keeps μ σ) ?_ ?_ | refine keep_ite (P := OnOk (Keeps μ σ)) ?_ ?_ | intro _ | split | dsimp only

theorem blobData_keeps {μ : Nat} {σ : State} {s : State} {h : TallyHdr} {n : Nat} {off : Nat} {v : Bytes} (hK : Keeps μ σ s)
    (hm : Sub 0xe0600006 μ := by first | assumption | exact Sub.of ‹Sub _ _› ⟨by decide +kernel⟩) :
    Keeps μ σ (State.blobData s h n off v) := by
  unfold State.blobData
  try dsimp only
  repeat' with_reducible first | assumption | refine request_keeps ?_ ?_ | refine refuse_keeps ?_ | refine putSession_keeps ?_ | refine ends_keeps ?_ | refine keep_ite (P := Keeps μ σ) ?_ ?_ | refine OnOk.ok ?_ | exact OnOk.error | refine keep_ite (P := OnOk (Keeps μ σ)) ?_ ?_ | intro _ | split | dsimp only

theorem execBlobData_keeps {μ : Nat} {σ : State} {hdr : TallyHdr} {handle : Nat} {offset : Nat} {bytes : Bytes} {s : State} (hK : Keeps μ σ s)
    (hm : Sub 0xe0600006 μ := by first | assumption | exact Sub.of ‹Sub _ _› ⟨by decide +kernel⟩) :
    OnNext (Keeps μ σ) (execBlobData hdr handle offset bytes s) := by
  unfold execBlobData
  try dsimp only
  repeat' with_reducible first | assumption | refine blobData_keeps ?_ | refine OnNext.next ?_ | refine OnOk.ok ?_ | exact OnOk.error | refine OnSome.some ?_ | exact OnSome.none | refine OnSomeOf.some ?_ | exact OnSomeOf.none | refine OnOkOf.ok ?_ | exact OnOkOf.error | refine act_keeps ?_ ?_ | refine live_keeps ?_ ?_ | refine keep_ite (P := OnNext (Keeps μ σ)) ?_ ?_ | refine keep_ite (P := Keeps μ σ) ?_ ?_ | refine keep_ite (P := OnOk (Keeps μ σ)) ?_ ?_ | intro _ | split | dsimp only

theorem blobEnd_keeps {μ : Nat} {σ : State} {s : State} {h : TallyHdr} {n : Nat} (hK : Keeps μ σ s)
    (hm : Sub 0x7ffffffffffffffffffffffffefffffe μ := by first | assumption | exact Sub.of ‹Sub _ _› ⟨by decide +kernel⟩) :
    Keeps μ σ (State.blobEnd s h n) := by
  unfold State.blobEnd
  try dsimp only
  repeat' with_reducible first | assumption | refine request_keeps ?_ ?_ | refine refuse_keeps ?_ | refine putSession_keeps ?_ | refine odWrite_keeps ?_ ?_ | refine odApply_keeps ?_ | refine keep_of_ok ‹_› (odApply_keeps ?_) | refine keepOpen_keeps ?_ | refine keep_ite (P := Keeps μ σ) ?_ ?_ | refine OnOk.ok ?_ | exact OnOk.error | refine keep_ite (P := OnOk (Keeps μ σ)) ?_ ?_ | intro _ | split | dsimp only | refine keep_of_ok ‹_› ?_

theorem execBlobEnd_keeps {μ : Nat} {σ : State} {hdr : TallyHdr} {handle : Nat} {s : State} (hK : Keeps μ σ s)
    (hm : Sub 0x7ffffffffffffffffffffffffefffffe μ := by first | assumption | exact Sub.of ‹Sub _ _› ⟨by decide +kernel⟩) :
    OnNext (Keeps μ σ) (execBlobEnd hdr handle s) := by
  unfold execBlobEnd
  try dsimp only
  repeat' with_reducible first | assumption | refine blobEnd_keeps ?_ | refine OnNext.next ?_ | refine OnOk.ok ?_ | exact OnOk.error | refine OnSome.some ?_ | exact OnSome.none | refine OnSomeOf.some ?_ | exact OnSomeOf.none | refine OnOkOf.ok ?_ | exact OnOkOf.error | refine act_keeps ?_ ?_ | refine live_keeps ?_ ?_ | refine keep_ite (P := OnNext (Keeps μ σ)) ?_ ?_ | refine keep_ite (P := Keeps μ σ) ?_ ?_ | refine keep_ite (P := OnOk (Keeps μ σ)) ?_ ?_ | intro _ | split | dsimp only

theorem blobAbort_keeps {μ : Nat} {σ : State} {s : State} {h : TallyHdr} {n : Nat} (hK : Keeps μ σ s)
    (hm : Sub 0xe0600006 μ := by first | assumption | exact Sub.of ‹Sub _ _› ⟨by decide +kernel⟩) :
    Keeps μ σ (State.blobAbort s h n) := by
  unfold State.blobAbort
  try dsimp only
  repeat' with_reducible first | assumption | refine request_keeps ?_ ?_ | refine refuse_keeps ?_ | refine putSession_keeps ?_ | refine ends_keeps ?_ | refine keep_ite (P := Keeps μ σ) ?_ ?_ | refine OnOk.ok ?_ | exact OnOk.error | refine keep_ite (P := OnOk (Keeps μ σ)) ?_ ?_ | intro _ | split | dsimp only

theorem execBlobAbort_keeps {μ : Nat} {σ : State} {hdr : TallyHdr} {handle : Nat} {s : State} (hK : Keeps μ σ s)
    (hm : Sub 0xe0600006 μ := by first | assumption | exact Sub.of ‹Sub _ _› ⟨by decide +kernel⟩) :
    OnNext (Keeps μ σ) (execBlobAbort hdr handle s) := by
  unfold execBlobAbort
  try dsimp only
  repeat' with_reducible first | assumption | refine blobAbort_keeps ?_ | refine OnNext.next ?_ | refine OnOk.ok ?_ | exact OnOk.error | refine OnSome.some ?_ | exact OnSome.none | refine OnSomeOf.some ?_ | exact OnSomeOf.none | refine OnOkOf.ok ?_ | exact OnOkOf.error | refine act_keeps ?_ ?_ | refine live_keeps ?_ ?_ | refine keep_ite (P := OnNext (Keeps μ σ)) ?_ ?_ | refine keep_ite (P := Keeps μ σ) ?_ ?_ | refine keep_ite (P := OnOk (Keeps μ σ)) ?_ ?_ | intro _ | split | dsimp only

theorem execBlobTransferTimeout_keeps {μ : Nat} {σ : State} {session : Nat} {handle : Nat} {s : State} (hK : Keeps μ σ s)
    (hm : Sub 0x4 μ := by first | assumption | exact Sub.of ‹Sub _ _› ⟨by decide +kernel⟩) :
    OnNext (Keeps μ σ) (execBlobTransferTimeout session handle s) := by
  unfold execBlobTransferTimeout
  try dsimp only
  repeat' with_reducible first | assumption | refine putSession_keeps ?_ | refine OnNext.next ?_ | refine OnOk.ok ?_ | exact OnOk.error | refine OnSome.some ?_ | exact OnSome.none | refine OnSomeOf.some ?_ | exact OnSomeOf.none | refine OnOkOf.ok ?_ | exact OnOkOf.error | refine act_keeps ?_ ?_ | refine live_keeps ?_ ?_ | refine keep_ite (P := OnNext (Keeps μ σ)) ?_ ?_ | refine keep_ite (P := Keeps μ σ) ?_ ?_ | refine keep_ite (P := OnOk (Keeps μ σ)) ?_ ?_ | intro _ | split | dsimp only

theorem tallyWrite_keeps {μ : Nat} {σ : State} {s : State} {h : TallyHdr} {idx : Nat} {sub : Nat} {v : Bytes} (hK : Keeps μ σ s)
    (hm : Sub 0x7ffffffffffffffffffffffffefffffe μ := by first | assumption | exact Sub.of ‹Sub _ _› ⟨by decide +kernel⟩) :
    Keeps μ σ (State.tallyWrite s h idx sub v) := by
  unfold State.tallyWrite
  try dsimp only
  repeat' with_reducible first | assumption | refine writeVia_keeps ?_ ?_ | refine odApply_keeps ?_ | refine keep_of_ok ‹_› (odApply_keeps ?_) | refine keepOpen_keeps ?_ | refine keep_ite (P := Keeps μ σ) ?_ ?_ | refine OnOk.ok ?_ | exact OnOk.error | refine keep_ite (P := OnOk (Keeps μ σ)) ?_ ?_ | intro _ | split | dsimp only | refine keep_of_ok ‹_› ?_

theorem subsReg_keeps {μ : Nat} {σ : State} {s : State} (hK : Keeps μ σ s)
    (hm : Sub 0x100000000 μ := by first | assumption | exact Sub.of ‹Sub _ _› ⟨by decide +kernel⟩) :
    Keeps μ σ (State.subsReg s) := by
  unfold State.subsReg
  try dsimp only
  repeat' with_reducible first | assumption | refine setN_keeps ?_ | refine keep_ite (P := Keeps μ σ) ?_ ?_ | refine OnOk.ok ?_ | exact OnOk.error | refine keep_ite (P := OnOk (Keeps μ σ)) ?_ ?_ | intro _ | split | dsimp only

theorem subscribe_keeps {μ : Nat} {σ : State} {s : State} {h : TallyHdr} {mask : List Nat} {severity : Nat} {both : Bool} (hK : Keeps μ σ s)
    (hm : Sub 0x1e0600006 μ := by first | assumption | exact Sub.of ‹Sub _ _› ⟨by decide +kernel⟩) :
    Keeps μ σ (State.subscribe s h mask severity both) := by
  unfold State.subscribe
  try dsimp only
  repeat' with_reducible first | assumption | refine request_keeps ?_ ?_ | refine putSession_keeps ?_ | refine subsReg_keeps ?_ | refine ends_keeps ?_ | refine keep_ite (P := Keeps μ σ) ?_ ?_ | refine OnOk.ok ?_ | exact OnOk.error | refine keep_ite (P := OnOk (Keeps μ σ)) ?_ ?_ | intro _ | split | dsimp only

theorem execSubscribe_keeps {μ : Nat} {σ : State} {hdr : TallyHdr} {sourceMask : List Nat} {minSeverity : Nat} {bothPorts : Bool} {s : State} (hK : Keeps μ σ s)
    (hm : Sub 0x1e0600006 μ := by first | assumption | exact Sub.of ‹Sub _ _› ⟨by decide +kernel⟩) :
    OnNext (Keeps μ σ) (execSubscribe hdr sourceMask minSeverity bothPorts s) := by
  unfold execSubscribe
  try dsimp only
  repeat' with_reducible first | assumption | refine subscribe_keeps ?_ | refine OnNext.next ?_ | refine OnOk.ok ?_ | exact OnOk.error | refine OnSome.some ?_ | exact OnSome.none | refine OnSomeOf.some ?_ | exact OnSomeOf.none | refine OnOkOf.ok ?_ | exact OnOkOf.error | refine act_keeps ?_ ?_ | refine live_keeps ?_ ?_ | refine keep_ite (P := OnNext (Keeps μ σ)) ?_ ?_ | refine keep_ite (P := Keeps μ σ) ?_ ?_ | refine keep_ite (P := OnOk (Keeps μ σ)) ?_ ?_ | intro _ | split | dsimp only

theorem eventAck_keeps {μ : Nat} {σ : State} {s : State} {h : TallyHdr} {c : Nat} (hK : Keeps μ σ s)
    (hm : Sub 0xe0600006 μ := by first | assumption | exact Sub.of ‹Sub _ _› ⟨by decide +kernel⟩) :
    Keeps μ σ (State.eventAck s h c) := by
  unfold State.eventAck
  try dsimp only
  repeat' with_reducible first | assumption | refine request_keeps ?_ ?_ | refine putSession_keeps ?_ | refine ends_keeps ?_ | refine keep_ite (P := Keeps μ σ) ?_ ?_ | refine OnOk.ok ?_ | exact OnOk.error | refine keep_ite (P := OnOk (Keeps μ σ)) ?_ ?_ | intro _ | split | dsimp only

theorem execEventAck_keeps {μ : Nat} {σ : State} {hdr : TallyHdr} {counter : Nat} {s : State} (hK : Keeps μ σ s)
    (hm : Sub 0xe0600006 μ := by first | assumption | exact Sub.of ‹Sub _ _› ⟨by decide +kernel⟩) :
    OnNext (Keeps μ σ) (execEventAck hdr counter s) := by
  unfold execEventAck
  try dsimp only
  repeat' with_reducible first | assumption | refine eventAck_keeps ?_ | refine OnNext.next ?_ | refine OnOk.ok ?_ | exact OnOk.error | refine OnSome.some ?_ | exact OnSome.none | refine OnSomeOf.some ?_ | exact OnSomeOf.none | refine OnOkOf.ok ?_ | exact OnOkOf.error | refine act_keeps ?_ ?_ | refine live_keeps ?_ ?_ | refine keep_ite (P := OnNext (Keeps μ σ)) ?_ ?_ | refine keep_ite (P := Keeps μ σ) ?_ ?_ | refine keep_ite (P := OnOk (Keeps μ σ)) ?_ ?_ | intro _ | split | dsimp only

theorem eventOut_keeps {μ : Nat} {σ : State} {s : State} {x : Session} {u : Subscription} {m : EventMsg} (hK : Keeps μ σ s)
    (hm : Sub 0x200000 μ := by first | assumption | exact Sub.of ‹Sub _ _› ⟨by decide +kernel⟩) :
    Keeps μ σ (State.eventOut s x u m) := by
  unfold State.eventOut
  try dsimp only
  repeat' with_reducible first | assumption | refine emit_keeps ?_ | refine keep_ite (P := Keeps μ σ) ?_ ?_ | refine OnOk.ok ?_ | exact OnOk.error | refine keep_ite (P := OnOk (Keeps μ σ)) ?_ ?_ | intro _ | split | dsimp only

theorem eventOne_keeps {μ : Nat} {σ : State} {s : State} {id : Nat} (hK : Keeps μ σ s)
    (hm : Sub 0x100200004 μ := by first | assumption | exact Sub.of ‹Sub _ _› ⟨by decide +kernel⟩) :
    Keeps μ σ (State.eventOne s id) := by
  unfold State.eventOne
  try dsimp only
  repeat' with_reducible first | assumption | refine putSession_keeps ?_ | refine bump_keeps ?_ | refine bumpIf_keeps ?_ | refine eventOut_keeps ?_ | refine keep_ite (P := Keeps μ σ) ?_ ?_ | refine OnOk.ok ?_ | exact OnOk.error | refine keep_ite (P := OnOk (Keeps μ σ)) ?_ ?_ | intro _ | split | dsimp only

theorem eventSend_keeps {μ : Nat} {σ : State} {s : State} {id : Nat} (hK : Keeps μ σ s)
    (hm : Sub 0x100200004 μ := by first | assumption | exact Sub.of ‹Sub _ _› ⟨by decide +kernel⟩) :
    Keeps μ σ (State.eventSend s id) := by
  unfold State.eventSend
  try dsimp only
  repeat' with_reducible first | assumption | refine eventOne_keeps ?_ | refine keep_ite (P := Keeps μ σ) ?_ ?_ | refine keep_foldl (P := Keeps μ σ) ?_ ?_ | refine OnOk.ok ?_ | exact OnOk.error | refine keep_ite (P := OnOk (Keeps μ σ)) ?_ ?_ | intro _ | split | dsimp only

theorem execEventSend_keeps {μ : Nat} {σ : State} {session : Nat} {s : State} (hK : Keeps μ σ s)
    (hm : Sub 0x100200004 μ := by first | assumption | exact Sub.of ‹Sub _ _› ⟨by decide +kernel⟩) :
    OnNext (Keeps μ σ) (execEventSend session s) := by
  unfold execEventSend
  try dsimp only
  repeat' with_reducible first | assumption | refine eventSend_keeps ?_ | refine OnNext.next ?_ | refine OnOk.ok ?_ | exact OnOk.error | refine OnSome.some ?_ | exact OnSome.none | refine OnSomeOf.some ?_ | exact OnSomeOf.none | refine OnOkOf.ok ?_ | exact OnOkOf.error | refine act_keeps ?_ ?_ | refine live_keeps ?_ ?_ | refine keep_ite (P := OnNext (Keeps μ σ)) ?_ ?_ | refine keep_ite (P := Keeps μ σ) ?_ ?_ | refine keep_ite (P := OnOk (Keeps μ σ)) ?_ ?_ | intro _ | split | dsimp only

theorem eventResend_keeps {μ : Nat} {σ : State} {s : State} {id : Nat} {c : Nat} (hK : Keeps μ σ s)
    (hm : Sub 0x200004 μ := by first | assumption | exact Sub.of ‹Sub _ _› ⟨by decide +kernel⟩) :
    Keeps μ σ (State.eventResend s id c) := by
  unfold State.eventResend
  try dsimp only
  repeat' with_reducible first | assumption | refine putSession_keeps ?_ | refine eventOut_keeps ?_ | refine keep_ite (P := Keeps μ σ) ?_ ?_ | refine OnOk.ok ?_ | exact OnOk.error | refine keep_ite (P := OnOk (Keeps μ σ)) ?_ ?_ | intro _ | split | dsimp only

theorem execEventResend_keeps {μ : Nat} {σ : State} {session : Nat} {counter : Nat} {s : State} (hK : Keeps μ σ s)
    (hm : Sub 0x200004 μ := by first | assumption | exact Sub.of ‹Sub _ _› ⟨by decide +kernel⟩) :
    OnNext (Keeps μ σ) (execEventResend session counter s) := by
  unfold execEventResend
  try dsimp only
  repeat' with_reducible first | assumption | refine eventResend_keeps ?_ | refine OnNext.next ?_ | refine OnOk.ok ?_ | exact OnOk.error | refine OnSome.some ?_ | exact OnSome.none | refine OnSomeOf.some ?_ | exact OnSomeOf.none | refine OnOkOf.ok ?_ | exact OnOkOf.error | refine act_keeps ?_ ?_ | refine live_keeps ?_ ?_ | refine keep_ite (P := OnNext (Keeps μ σ)) ?_ ?_ | refine keep_ite (P := Keeps μ σ) ?_ ?_ | refine keep_ite (P := OnOk (Keeps μ σ)) ?_ ?_ | intro _ | split | dsimp only

theorem runMessage_keeps {μ : Nat} {σ : State} {s : State} {h : TallyHdr} {type : Nat} {b : Bytes} (hK : Keeps μ σ s)
    (hm : Sub 0x7ffffffffffffffffffffffffefffffe μ := by first | assumption | exact Sub.of ‹Sub _ _› ⟨by decide +kernel⟩) :
    Keeps μ σ (State.runMessage s h type b) := by
  unfold State.runMessage
  try dsimp only
  repeat' with_reducible first | assumption | refine tallyRead_keeps ?_ | refine tallyWrite_keeps ?_ | refine tallyMeta_keeps ?_ | refine blobBegin_keeps ?_ | refine blobData_keeps ?_ | refine blobEnd_keeps ?_ | refine blobAbort_keeps ?_ | refine hello_keeps ?_ | refine proof_keeps ?_ | refine sessionClose_keeps ?_ | refine subscribe_keeps ?_ | refine eventAck_keeps ?_ | refine request_keeps ?_ ?_ | refine refuse_keeps ?_ | refine keep_ite (P := Keeps μ σ) ?_ ?_ | refine OnOk.ok ?_ | exact OnOk.error | refine keep_ite (P := OnOk (Keeps μ σ)) ?_ ?_ | intro _ | split | dsimp only

theorem mboxGo_keeps {μ : Nat} {σ : State} {s : State} {len : Nat} {body : Bytes} {irqEn : Bool} {vector : Nat} (hK : Keeps μ σ s)
    (hm : Sub 0x7ffffffffffffffffffffffffefffffe μ := by first | assumption | exact Sub.of ‹Sub _ _› ⟨by decide +kernel⟩) :
    Keeps μ σ (State.mboxGo s len body irqEn vector) := by
  unfold State.mboxGo
  try dsimp only
  repeat' with_reducible first | assumption | refine refuse_keeps ?_ | refine mboxDone_keeps ?_ | refine runMessage_keeps ?_ | refine keep_ite (P := Keeps μ σ) ?_ ?_ | (refine Keeps.lit (M := 0x7ffffffffffffffffffffffffefffffe) ?_; first | assumption | refine refuse_keeps ?_ | refine mboxDone_keeps ?_ | refine runMessage_keeps ?_ | refine keep_ite (P := Keeps μ σ) ?_ ?_) | refine OnOk.ok ?_ | exact OnOk.error | refine keep_ite (P := OnOk (Keeps μ σ)) ?_ ?_ | intro _ | split | dsimp only

theorem execMboxGo_keeps {μ : Nat} {σ : State} {reqLen : Nat} {body : Bytes} {irqEn : Bool} {vector : Nat} {s : State} (hK : Keeps μ σ s)
    (hm : Sub 0x7ffffffffffffffffffffffffefffffe μ := by first | assumption | exact Sub.of ‹Sub _ _› ⟨by decide +kernel⟩) :
    OnNext (Keeps μ σ) (execMboxGo reqLen body irqEn vector s) := by
  unfold execMboxGo
  try dsimp only
  repeat' with_reducible first | assumption | refine mboxGo_keeps ?_ | refine OnNext.next ?_ | refine OnOk.ok ?_ | exact OnOk.error | refine OnSome.some ?_ | exact OnSome.none | refine OnSomeOf.some ?_ | exact OnSomeOf.none | refine OnOkOf.ok ?_ | exact OnOkOf.error | refine act_keeps ?_ ?_ | refine live_keeps ?_ ?_ | refine keep_ite (P := OnNext (Keeps μ σ)) ?_ ?_ | refine keep_ite (P := Keeps μ σ) ?_ ?_ | refine keep_ite (P := OnOk (Keeps μ σ)) ?_ ?_ | intro _ | split | dsimp only

theorem smbus_keeps {μ : Nat} {σ : State} {s : State} {pecOk : Bool} {f : State → State} (hK : Keeps μ σ s) (hf_f : ∀ v0, Keeps μ σ v0 → Keeps μ σ (f v0))
    (hm : Sub 0x40000000 μ := by first | assumption | exact Sub.of ‹Sub _ _› ⟨by decide +kernel⟩) :
    Keeps μ σ (State.smbus s pecOk f) := by
  unfold State.smbus
  try dsimp only
  repeat' with_reducible first | assumption | refine hf_f _ ?_ | refine bump_keeps ?_ | refine keep_ite (P := Keeps μ σ) ?_ ?_ | refine OnOk.ok ?_ | exact OnOk.error | refine keep_ite (P := OnOk (Keeps μ σ)) ?_ ?_ | intro _ | split | dsimp only

theorem putSmb_keeps {μ : Nat} {σ : State} {s : State} {x : SmBus} (hK : Keeps μ σ s)
    (hm : Sub 0x4 μ := by first | assumption | exact Sub.of ‹Sub _ _› ⟨by decide +kernel⟩) :
    Keeps μ σ (State.putSmb s x) := by
  unfold State.putSmb
  try dsimp only
  repeat' with_reducible first | assumption | refine keep_ite (P := Keeps μ σ) ?_ ?_ | (refine Keeps.lit (M := 0x4) ?_; first | assumption | refine keep_ite (P := Keeps μ σ) ?_ ?_) | refine OnOk.ok ?_ | exact OnOk.error | refine keep_ite (P := OnOk (Keeps μ σ)) ?_ ?_ | intro _ | split | dsimp only

theorem execSmbSelect_keeps {μ : Nat} {σ : State} {pecOk : Bool} {idx : Nat} {sub : Nat} {offset : Nat} {s : State} (hK : Keeps μ σ s)
    (hm : Sub 0x40000004 μ := by first | assumption | exact Sub.of ‹Sub _ _› ⟨by decide +kernel⟩) :
    OnNext (Keeps μ σ) (execSmbSelect pecOk idx sub offset s) := by
  unfold execSmbSelect
  try dsimp only
  repeat' with_reducible first | assumption | refine smbus_keeps ?_ ?_ | refine putSmb_keeps ?_ | refine OnNext.next ?_ | refine OnOk.ok ?_ | exact OnOk.error | refine OnSome.some ?_ | exact OnSome.none | refine OnSomeOf.some ?_ | exact OnSomeOf.none | refine OnOkOf.ok ?_ | exact OnOkOf.error | refine act_keeps ?_ ?_ | refine live_keeps ?_ ?_ | refine keep_ite (P := OnNext (Keeps μ σ)) ?_ ?_ | refine keep_ite (P := Keeps μ σ) ?_ ?_ | refine keep_ite (P := OnOk (Keeps μ σ)) ?_ ?_ | intro _ | split | dsimp only

theorem smbRead_keeps {μ : Nat} {σ : State} {s : State} (hK : Keeps μ σ s)
    (hm : Sub 0xc0600006 μ := by first | assumption | exact Sub.of ‹Sub _ _› ⟨by decide +kernel⟩) :
    Keeps μ σ (State.smbRead s) := by
  unfold State.smbRead
  try dsimp only
  repeat' with_reducible first | assumption | refine odRead_keeps ?_ | refine keep_of_ok_03 ‹_› (odRead_keeps ?_) | refine refuse_keeps ?_ | refine emit_keeps ?_ | refine ends_keeps ?_ | refine keep_ite (P := Keeps μ σ) ?_ ?_ | refine OnOk.ok ?_ | exact OnOk.error | refine keep_ite (P := OnOk (Keeps μ σ)) ?_ ?_ | intro _ | split | dsimp only | refine keep_of_ok ‹_› ?_

theorem execSmbRead_keeps {μ : Nat} {σ : State} {pecOk : Bool} {s : State} (hK : Keeps μ σ s)
    (hm : Sub 0xc0600006 μ := by first | assumption | exact Sub.of ‹Sub _ _› ⟨by decide +kernel⟩) :
    OnNext (Keeps μ σ) (execSmbRead pecOk s) := by
  unfold execSmbRead
  try dsimp only
  repeat' with_reducible first | assumption | refine smbus_keeps ?_ ?_ | refine smbRead_keeps ?_ | refine OnNext.next ?_ | refine OnOk.ok ?_ | exact OnOk.error | refine OnSome.some ?_ | exact OnSome.none | refine OnSomeOf.some ?_ | exact OnSomeOf.none | refine OnOkOf.ok ?_ | exact OnOkOf.error | refine act_keeps ?_ ?_ | refine live_keeps ?_ ?_ | refine keep_ite (P := OnNext (Keeps μ σ)) ?_ ?_ | refine keep_ite (P := Keeps μ σ) ?_ ?_ | refine keep_ite (P := OnOk (Keeps μ σ)) ?_ ?_ | intro _ | split | dsimp only

theorem execSmbStatus_keeps {μ : Nat} {σ : State} {pecOk : Bool} {s : State} (hK : Keeps μ σ s)
    (hm : Sub 0x40200000 μ := by first | assumption | exact Sub.of ‹Sub _ _› ⟨by decide +kernel⟩) :
    OnNext (Keeps μ σ) (execSmbStatus pecOk s) := by
  unfold execSmbStatus
  try dsimp only
  repeat' with_reducible first | assumption | refine smbus_keeps ?_ ?_ | refine emit_keeps ?_ | refine OnNext.next ?_ | refine OnOk.ok ?_ | exact OnOk.error | refine OnSome.some ?_ | exact OnSome.none | refine OnSomeOf.some ?_ | exact OnSomeOf.none | refine OnOkOf.ok ?_ | exact OnOkOf.error | refine act_keeps ?_ ?_ | refine live_keeps ?_ ?_ | refine keep_ite (P := OnNext (Keeps μ σ)) ?_ ?_ | refine keep_ite (P := Keeps μ σ) ?_ ?_ | refine keep_ite (P := OnOk (Keeps μ σ)) ?_ ?_ | intro _ | split | dsimp only

theorem execSmbAlertResponse_keeps {μ : Nat} {σ : State} {pecOk : Bool} {s : State} (hK : Keeps μ σ s)
    (hm : Sub 0x40200000 μ := by first | assumption | exact Sub.of ‹Sub _ _› ⟨by decide +kernel⟩) :
    OnNext (Keeps μ σ) (execSmbAlertResponse pecOk s) := by
  unfold execSmbAlertResponse
  try dsimp only
  repeat' with_reducible first | assumption | refine smbus_keeps ?_ ?_ | refine emit_keeps ?_ | refine OnNext.next ?_ | refine OnOk.ok ?_ | exact OnOk.error | refine OnSome.some ?_ | exact OnSome.none | refine OnSomeOf.some ?_ | exact OnSomeOf.none | refine OnOkOf.ok ?_ | exact OnOkOf.error | refine act_keeps ?_ ?_ | refine live_keeps ?_ ?_ | refine keep_ite (P := OnNext (Keeps μ σ)) ?_ ?_ | refine keep_ite (P := Keeps μ σ) ?_ ?_ | refine keep_ite (P := OnOk (Keeps μ σ)) ?_ ?_ | intro _ | split | dsimp only

theorem injectWrite_keeps {μ : Nat} {σ : State} {s : State} {p : Bytes} (hK : Keeps μ σ s)
    (hm : Sub 0x7ffffffffffffffffffffffffefffffe μ := by first | assumption | exact Sub.of ‹Sub _ _› ⟨by decide +kernel⟩) :
    Keeps μ σ (State.injectWrite s p) := by
  unfold State.injectWrite
  try dsimp only
  repeat' with_reducible first | assumption | refine odApply_keeps ?_ | refine keep_of_ok ‹_› (odApply_keeps ?_) | refine keep_ite (P := Keeps μ σ) ?_ ?_ | refine OnOk.ok ?_ | exact OnOk.error | refine keep_ite (P := OnOk (Keeps μ σ)) ?_ ?_ | intro _ | split | dsimp only | refine keep_of_ok ‹_› ?_

theorem injectItem_keeps {μ : Nat} {σ : State} {s : State} {p : Bytes} (hK : Keeps μ σ s)
    (hm : Sub 0x10000000000680000 μ := by first | assumption | exact Sub.of ‹Sub _ _› ⟨by decide +kernel⟩) :
    Keeps μ σ (State.injectItem s p) := by
  unfold State.injectItem
  try dsimp only
  repeat' with_reducible first | assumption | refine putPort_keeps ?_ | refine portAdvance_keeps ?_ | refine keep_ite (P := Keeps μ σ) ?_ ?_ | refine OnOk.ok ?_ | exact OnOk.error | refine keep_ite (P := OnOk (Keeps μ σ)) ?_ ?_ | intro _ | split | dsimp only

theorem replayInject_keeps {μ : Nat} {σ : State} {s : State} {q : Nat} (hK : Keeps μ σ s)
    (hm : Sub 0x7ffffffffffffffffffffffffefffffe μ := by first | assumption | exact Sub.of ‹Sub _ _› ⟨by decide +kernel⟩) :
    Keeps μ σ (State.replayInject s q) := by
  unfold State.replayInject
  try dsimp only
  repeat' with_reducible first | assumption | refine putSched_keeps ?_ | refine injectWrite_keeps ?_ | refine injectItem_keeps ?_ | refine keep_ite (P := Keeps μ σ) ?_ ?_ | refine OnOk.ok ?_ | exact OnOk.error | refine keep_ite (P := OnOk (Keeps μ σ)) ?_ ?_ | intro _ | split | dsimp only

theorem execReplayInject_keeps {μ : Nat} {σ : State} {sequence : Nat} {s : State} (hK : Keeps μ σ s)
    (hm : Sub 0x7ffffffffffffffffffffffffefffffe μ := by first | assumption | exact Sub.of ‹Sub _ _› ⟨by decide +kernel⟩) :
    OnNext (Keeps μ σ) (execReplayInject sequence s) := by
  unfold execReplayInject
  try dsimp only
  repeat' with_reducible first | assumption | refine replayInject_keeps ?_ | refine OnNext.next ?_ | refine OnOk.ok ?_ | exact OnOk.error | refine OnSome.some ?_ | exact OnSome.none | refine OnSomeOf.some ?_ | exact OnSomeOf.none | refine OnOkOf.ok ?_ | exact OnOkOf.error | refine act_keeps ?_ ?_ | refine live_keeps ?_ ?_ | refine keep_ite (P := OnNext (Keeps μ σ)) ?_ ?_ | refine keep_ite (P := Keeps μ σ) ?_ ?_ | refine keep_ite (P := OnOk (Keeps μ σ)) ?_ ?_ | intro _ | split | dsimp only

end Sys2Proof.Laws
end

