-- ==== Sys2Proof/Laws/KeepYardRows.lean ====
section
/-! SUPPORT. What each operation of Machine/YardRows.lean changes: outside the zones of its mask it keeps everything, and it
keeps the invariant. -/
namespace Sys2Proof.Laws
open Sys2Proof.Machine
set_option Elab.async false
set_option linter.unreachableTactic false
set_option linter.unusedTactic false

theorem yardAct_keeps {μ : Nat} {σ : State} {s : State} {f : State → State} (hK : Keeps μ σ s) (hf_f : ∀ v0, Keeps μ σ v0 → Keeps μ σ (f v0))
    (hm : Sub 0x8b8000000000680000 μ := by first | assumption | exact Sub.of ‹Sub _ _› ⟨by decide +kernel⟩) :
    Keeps μ σ (State.yardAct s f) := by
  unfold State.yardAct
  try dsimp only
  repeat' with_reducible first | assumption | refine hf_f _ ?_ | refine yardRegs_keeps ?_ | refine landSettle_keeps ?_ | refine keep_ite (P := Keeps μ σ) ?_ ?_ | refine OnOk.ok ?_ | exact OnOk.error | refine keep_ite (P := OnOk (Keeps μ σ)) ?_ ?_ | intro _ | split | dsimp only

theorem yardBegin_keeps {μ : Nat} {σ : State} {s : State} {f : State → State} (hK : Keeps μ σ s) (hf_f : ∀ v0, Keeps μ σ v0 → Keeps μ σ (f v0))
    (hm : Sub 0x8b8000000000680000 μ := by first | assumption | exact Sub.of ‹Sub _ _› ⟨by decide +kernel⟩) :
    Keeps μ σ (State.yardBegin s f) := by
  unfold State.yardBegin
  try dsimp only
  repeat' with_reducible first | assumption | refine hf_f _ ?_ | refine yardAct_keeps ?_ ?_ | refine keep_ite (P := Keeps μ σ) ?_ ?_ | refine OnOk.ok ?_ | exact OnOk.error | refine keep_ite (P := OnOk (Keeps μ σ)) ?_ ?_ | intro _ | split | dsimp only

theorem execYardWrite_keeps {μ : Nat} {σ : State} {volume : VolumeRef} {sector : Nat} {data : Bytes} {tuple : PiTuple} {s : State} (hK : Keeps μ σ s)
    (hm : Sub 0x8a00000000c0420006 μ := by first | assumption | exact Sub.of ‹Sub _ _› ⟨by decide +kernel⟩) :
    OnNext (Keeps μ σ) (execYardWrite volume sector data tuple s) := by
  unfold execYardWrite
  try dsimp only
  repeat' with_reducible first | assumption | refine yardWrite_keeps ?_ | refine yardRegs_keeps ?_ | refine OnNext.next ?_ | refine OnOk.ok ?_ | exact OnOk.error | refine OnSome.some ?_ | exact OnSome.none | refine OnSomeOf.some ?_ | exact OnSomeOf.none | refine OnOkOf.ok ?_ | exact OnOkOf.error | refine act_keeps ?_ ?_ | refine live_keeps ?_ ?_ | refine keep_ite (P := OnNext (Keeps μ σ)) ?_ ?_ | refine keep_ite (P := Keeps μ σ) ?_ ?_ | refine keep_ite (P := OnOk (Keeps μ σ)) ?_ ?_ | intro _ | split | dsimp only

theorem execWordlineProgramDone_keeps {μ : Nat} {σ : State} {bolt : Nat} {pass : Bool} {s : State} (hK : Keeps μ σ s)
    (hm : Sub 0xcb80000002c06a0006 μ := by first | assumption | exact Sub.of ‹Sub _ _› ⟨by decide +kernel⟩) :
    OnNext (Keeps μ σ) (execWordlineProgramDone bolt pass s) := by
  unfold execWordlineProgramDone
  try dsimp only
  repeat' with_reducible first | assumption | refine yardAct_keeps ?_ ?_ | refine programDone_keeps ?_ | refine OnNext.next ?_ | refine OnOk.ok ?_ | exact OnOk.error | refine OnSome.some ?_ | exact OnSome.none | refine OnSomeOf.some ?_ | exact OnSomeOf.none | refine OnOkOf.ok ?_ | exact OnOkOf.error | refine act_keeps ?_ ?_ | refine live_keeps ?_ ?_ | refine keep_ite (P := OnNext (Keeps μ σ)) ?_ ?_ | refine keep_ite (P := Keeps μ σ) ?_ ?_ | refine keep_ite (P := OnOk (Keeps μ σ)) ?_ ?_ | intro _ | split | dsimp only

theorem execYardRead_keeps {μ : Nat} {σ : State} {volume : VolumeRef} {sector : Nat} {read : SectorRead} {s : State} (hK : Keeps μ σ s)
    (hm : Sub 0xca00000002c0620006 μ := by first | assumption | exact Sub.of ‹Sub _ _› ⟨by decide +kernel⟩) :
    OnNext (Keeps μ σ) (execYardRead volume sector read s) := by
  unfold execYardRead
  try dsimp only
  repeat' with_reducible first | assumption | refine yardRead_keeps ?_ | refine yardRegs_keeps ?_ | refine OnNext.next ?_ | refine OnOk.ok ?_ | exact OnOk.error | refine OnSome.some ?_ | exact OnSome.none | refine OnSomeOf.some ?_ | exact OnSomeOf.none | refine OnOkOf.ok ?_ | exact OnOkOf.error | refine act_keeps ?_ ?_ | refine live_keeps ?_ ?_ | refine keep_ite (P := OnNext (Keeps μ σ)) ?_ ?_ | refine keep_ite (P := Keeps μ σ) ?_ ?_ | refine keep_ite (P := OnOk (Keeps μ σ)) ?_ ?_ | intro _ | split | dsimp only

theorem execNandReadDone_keeps {μ : Nat} {σ : State} {shard : Nat} {offset : Nat} {length : Nat} {reads : List SectorRead} {s : State} (hK : Keeps μ σ s)
    (hm : Sub 0x100000000cb80000002c06a0006 μ := by first | assumption | exact Sub.of ‹Sub _ _› ⟨by decide +kernel⟩) :
    OnNext (Keeps μ σ) (execNandReadDone shard offset length reads s) := by
  unfold execNandReadDone
  try dsimp only
  repeat' with_reducible first | assumption | refine yardAct_keeps ?_ ?_ | refine nandReadDone_keeps ?_ | refine OnNext.next ?_ | refine OnOk.ok ?_ | exact OnOk.error | refine OnSome.some ?_ | exact OnSome.none | refine OnSomeOf.some ?_ | exact OnSomeOf.none | refine OnOkOf.ok ?_ | exact OnOkOf.error | refine act_keeps ?_ ?_ | refine live_keeps ?_ ?_ | refine keep_ite (P := OnNext (Keeps μ σ)) ?_ ?_ | refine keep_ite (P := Keeps μ σ) ?_ ?_ | refine keep_ite (P := OnOk (Keeps μ σ)) ?_ ?_ | intro _ | split | dsimp only

theorem execPartnerRead_keeps {μ : Nat} {σ : State} {device : Nat} {shard : Nat} {offset : Nat} {length : Nat} {reads : List SectorRead} {s : State} (hK : Keeps μ σ s)
    (hm : Sub 0xcb80000002c06a0006 μ := by first | assumption | exact Sub.of ‹Sub _ _› ⟨by decide +kernel⟩) :
    OnNext (Keeps μ σ) (execPartnerRead device shard offset length reads s) := by
  unfold execPartnerRead
  try dsimp only
  repeat' with_reducible first | assumption | refine yardBegin_keeps ?_ ?_ | refine partnerRead_keeps ?_ | refine OnNext.next ?_ | refine OnOk.ok ?_ | exact OnOk.error | refine OnSome.some ?_ | exact OnSome.none | refine OnSomeOf.some ?_ | exact OnSomeOf.none | refine OnOkOf.ok ?_ | exact OnOkOf.error | refine act_keeps ?_ ?_ | refine live_keeps ?_ ?_ | refine keep_ite (P := OnNext (Keeps μ σ)) ?_ ?_ | refine keep_ite (P := Keeps μ σ) ?_ ?_ | refine keep_ite (P := OnOk (Keeps μ σ)) ?_ ?_ | intro _ | split | dsimp only

theorem execPartnerReadReply_keeps {μ : Nat} {σ : State} {shard : Nat} {offset : Nat} {length : Nat} {bytes : Option Bytes} {s : State} (hK : Keeps μ σ s)
    (hm : Sub 0x100000000cb80000000c06a0006 μ := by first | assumption | exact Sub.of ‹Sub _ _› ⟨by decide +kernel⟩) :
    OnNext (Keeps μ σ) (execPartnerReadReply shard offset length bytes s) := by
  unfold execPartnerReadReply
  try dsimp only
  repeat' with_reducible first | assumption | refine yardBegin_keeps ?_ ?_ | refine partnerReply_keeps ?_ | refine OnNext.next ?_ | refine OnOk.ok ?_ | exact OnOk.error | refine OnSome.some ?_ | exact OnSome.none | refine OnSomeOf.some ?_ | exact OnSomeOf.none | refine OnOkOf.ok ?_ | exact OnOkOf.error | refine act_keeps ?_ ?_ | refine live_keeps ?_ ?_ | refine keep_ite (P := OnNext (Keeps μ σ)) ?_ ?_ | refine keep_ite (P := Keeps μ σ) ?_ ?_ | refine keep_ite (P := OnOk (Keeps μ σ)) ?_ ?_ | intro _ | split | dsimp only

theorem execBoltErase_keeps {μ : Nat} {σ : State} {bolt : Nat} {s : State} (hK : Keeps μ σ s)
    (hm : Sub 0x8b80000000006a0000 μ := by first | assumption | exact Sub.of ‹Sub _ _› ⟨by decide +kernel⟩) :
    OnNext (Keeps μ σ) (execBoltErase bolt s) := by
  unfold execBoltErase
  try dsimp only
  repeat' with_reducible first | assumption | refine yardBegin_keeps ?_ ?_ | refine beginErase_keeps ?_ | refine OnNext.next ?_ | refine OnOk.ok ?_ | exact OnOk.error | refine OnSome.some ?_ | exact OnSome.none | refine OnSomeOf.some ?_ | exact OnSomeOf.none | refine OnOkOf.ok ?_ | exact OnOkOf.error | refine act_keeps ?_ ?_ | refine live_keeps ?_ ?_ | refine keep_ite (P := OnNext (Keeps μ σ)) ?_ ?_ | refine keep_ite (P := Keeps μ σ) ?_ ?_ | refine keep_ite (P := OnOk (Keeps μ σ)) ?_ ?_ | intro _ | split | dsimp only

theorem execEraseDone_keeps {μ : Nat} {σ : State} {bolt : Nat} {outcome : EraseOutcome} {s : State} (hK : Keeps μ σ s)
    (hm : Sub 0xcb80000002c06a0006 μ := by first | assumption | exact Sub.of ‹Sub _ _› ⟨by decide +kernel⟩) :
    OnNext (Keeps μ σ) (execEraseDone bolt outcome s) := by
  unfold execEraseDone
  try dsimp only
  repeat' with_reducible first | assumption | refine yardAct_keeps ?_ ?_ | refine endErase_keeps ?_ | refine placeWaiting_keeps ?_ | refine serveWaiting_keeps ?_ | refine OnNext.next ?_ | refine OnOk.ok ?_ | exact OnOk.error | refine OnSome.some ?_ | exact OnSome.none | refine OnSomeOf.some ?_ | exact OnSomeOf.none | refine OnOkOf.ok ?_ | exact OnOkOf.error | refine act_keeps ?_ ?_ | refine live_keeps ?_ ?_ | refine keep_ite (P := OnNext (Keeps μ σ)) ?_ ?_ | refine keep_ite (P := Keeps μ σ) ?_ ?_ | refine keep_ite (P := OnOk (Keeps μ σ)) ?_ ?_ | intro _ | split | dsimp only

theorem execFold_keeps {μ : Nat} {σ : State} {s : State} (hK : Keeps μ σ s)
    (hm : Sub 0x8b80000002006a0000 μ := by first | assumption | exact Sub.of ‹Sub _ _› ⟨by decide +kernel⟩) :
    OnNext (Keeps μ σ) (execFold s) := by
  unfold execFold
  try dsimp only
  repeat' with_reducible first | assumption | refine yardBegin_keeps ?_ ?_ | refine foldStep_keeps ?_ | refine OnNext.next ?_ | refine OnOk.ok ?_ | exact OnOk.error | refine OnSome.some ?_ | exact OnSome.none | refine OnSomeOf.some ?_ | exact OnSomeOf.none | refine OnOkOf.ok ?_ | exact OnOkOf.error | refine act_keeps ?_ ?_ | refine live_keeps ?_ ?_ | refine keep_ite (P := OnNext (Keeps μ σ)) ?_ ?_ | refine keep_ite (P := Keeps μ σ) ?_ ?_ | refine keep_ite (P := OnOk (Keeps μ σ)) ?_ ?_ | intro _ | split | dsimp only

theorem execWearRelocate_keeps {μ : Nat} {σ : State} {s : State} (hK : Keeps μ σ s)
    (hm : Sub 0x8b80000002006a0000 μ := by first | assumption | exact Sub.of ‹Sub _ _› ⟨by decide +kernel⟩) :
    OnNext (Keeps μ σ) (execWearRelocate s) := by
  unfold execWearRelocate
  try dsimp only
  repeat' with_reducible first | assumption | refine yardBegin_keeps ?_ ?_ | refine wearRelocate_keeps ?_ | refine OnNext.next ?_ | refine OnOk.ok ?_ | exact OnOk.error | refine OnSome.some ?_ | exact OnSome.none | refine OnSomeOf.some ?_ | exact OnSomeOf.none | refine OnOkOf.ok ?_ | exact OnOkOf.error | refine act_keeps ?_ ?_ | refine live_keeps ?_ ?_ | refine keep_ite (P := OnNext (Keeps μ σ)) ?_ ?_ | refine keep_ite (P := Keeps μ σ) ?_ ?_ | refine keep_ite (P := OnOk (Keeps μ σ)) ?_ ?_ | intro _ | split | dsimp only

theorem execPartnerAppend_keeps {μ : Nat} {σ : State} {owner : Nat} {shard : Nat} {offset : Nat} {compressed : Bool} {bytes : Bytes} {s : State} (hK : Keeps μ σ s)
    (hm : Sub 0x8a00000000c0620006 μ := by first | assumption | exact Sub.of ‹Sub _ _› ⟨by decide +kernel⟩) :
    OnNext (Keeps μ σ) (execPartnerAppend owner shard offset compressed bytes s) := by
  unfold execPartnerAppend
  try dsimp only
  repeat' with_reducible first | assumption | refine partnerAppend_keeps ?_ | refine yardRegs_keeps ?_ | refine OnNext.next ?_ | refine OnOk.ok ?_ | exact OnOk.error | refine OnSome.some ?_ | exact OnSome.none | refine OnSomeOf.some ?_ | exact OnSomeOf.none | refine OnOkOf.ok ?_ | exact OnOkOf.error | refine act_keeps ?_ ?_ | refine live_keeps ?_ ?_ | refine keep_ite (P := OnNext (Keeps μ σ)) ?_ ?_ | refine keep_ite (P := Keeps μ σ) ?_ ?_ | refine keep_ite (P := OnOk (Keeps μ σ)) ?_ ?_ | intro _ | split | dsimp only

theorem execPartnerSeal_keeps {μ : Nat} {σ : State} {owner : Nat} {shard : Nat} {bytes : Nat} {digest : Bytes} {s : State} (hK : Keeps μ σ s)
    (hm : Sub 0x8b80000000c06a0006 μ := by first | assumption | exact Sub.of ‹Sub _ _› ⟨by decide +kernel⟩) :
    OnNext (Keeps μ σ) (execPartnerSeal owner shard bytes digest s) := by
  unfold execPartnerSeal
  try dsimp only
  repeat' with_reducible first | assumption | refine yardBegin_keeps ?_ ?_ | refine partnerSeal_keeps ?_ | refine OnNext.next ?_ | refine OnOk.ok ?_ | exact OnOk.error | refine OnSome.some ?_ | exact OnSome.none | refine OnSomeOf.some ?_ | exact OnSomeOf.none | refine OnOkOf.ok ?_ | exact OnOkOf.error | refine act_keeps ?_ ?_ | refine live_keeps ?_ ?_ | refine keep_ite (P := OnNext (Keeps μ σ)) ?_ ?_ | refine keep_ite (P := Keeps μ σ) ?_ ?_ | refine keep_ite (P := OnOk (Keeps μ σ)) ?_ ?_ | intro _ | split | dsimp only

theorem execSealAnswer_keeps {μ : Nat} {σ : State} {device : Nat} {shard : Nat} {sealed : Bool} {s : State} (hK : Keeps μ σ s)
    (hm : Sub 0x8b80000000006a0000 μ := by first | assumption | exact Sub.of ‹Sub _ _› ⟨by decide +kernel⟩) :
    OnNext (Keeps μ σ) (execSealAnswer device shard sealed s) := by
  unfold execSealAnswer
  try dsimp only
  repeat' with_reducible first | assumption | refine yardAct_keeps ?_ ?_ | refine sealAnswer_keeps ?_ | refine OnNext.next ?_ | refine OnOk.ok ?_ | exact OnOk.error | refine OnSome.some ?_ | exact OnSome.none | refine OnSomeOf.some ?_ | exact OnSomeOf.none | refine OnOkOf.ok ?_ | exact OnOkOf.error | refine act_keeps ?_ ?_ | refine live_keeps ?_ ?_ | refine keep_ite (P := OnNext (Keeps μ σ)) ?_ ?_ | refine keep_ite (P := Keeps μ σ) ?_ ?_ | refine keep_ite (P := OnOk (Keeps μ σ)) ?_ ?_ | intro _ | split | dsimp only

theorem execPartnerWaitTimeout_keeps {μ : Nat} {σ : State} {shard : Nat} {refusing : List Nat} {s : State} (hK : Keeps μ σ s)
    (hm : Sub 0x8b80000000c06a0006 μ := by first | assumption | exact Sub.of ‹Sub _ _› ⟨by decide +kernel⟩) :
    OnNext (Keeps μ σ) (execPartnerWaitTimeout shard refusing s) := by
  unfold execPartnerWaitTimeout
  try dsimp only
  repeat' with_reducible first | assumption | refine yardAct_keeps ?_ ?_ | refine partnerTimeout_keeps ?_ | refine OnNext.next ?_ | refine OnOk.ok ?_ | exact OnOk.error | refine OnSome.some ?_ | exact OnSome.none | refine OnSomeOf.some ?_ | exact OnSomeOf.none | refine OnOkOf.ok ?_ | exact OnOkOf.error | refine act_keeps ?_ ?_ | refine live_keeps ?_ ?_ | refine keep_ite (P := OnNext (Keeps μ σ)) ?_ ?_ | refine keep_ite (P := Keeps μ σ) ?_ ?_ | refine keep_ite (P := OnOk (Keeps μ σ)) ?_ ?_ | intro _ | split | dsimp only

theorem discardCmd_keeps {μ : Nat} {σ : State} {s : State} {v : VolumeRef} {first : Nat} {count : Nat} (hK : Keeps μ σ s)
    (hm : Sub 0xc0420006 μ := by first | assumption | exact Sub.of ‹Sub _ _› ⟨by decide +kernel⟩) :
    Keeps μ σ (State.discardCmd s v first count) := by
  unfold State.discardCmd
  try dsimp only
  repeat' with_reducible first | assumption | refine refuse_keeps ?_ | refine discardRange_keeps ?_ | refine ends_keeps ?_ | refine keep_ite (P := Keeps μ σ) ?_ ?_ | refine OnOk.ok ?_ | exact OnOk.error | refine keep_ite (P := OnOk (Keeps μ σ)) ?_ ?_ | intro _ | split | dsimp only

theorem execDiscard_keeps {μ : Nat} {σ : State} {volume : VolumeRef} {first : Nat} {count : Nat} {s : State} (hK : Keeps μ σ s)
    (hm : Sub 0x8a00000000c0420006 μ := by first | assumption | exact Sub.of ‹Sub _ _› ⟨by decide +kernel⟩) :
    OnNext (Keeps μ σ) (execDiscard volume first count s) := by
  unfold execDiscard
  try dsimp only
  repeat' with_reducible first | assumption | refine discardCmd_keeps ?_ | refine yardRegs_keeps ?_ | refine OnNext.next ?_ | refine OnOk.ok ?_ | exact OnOk.error | refine OnSome.some ?_ | exact OnSome.none | refine OnSomeOf.some ?_ | exact OnSomeOf.none | refine OnOkOf.ok ?_ | exact OnOkOf.error | refine act_keeps ?_ ?_ | refine live_keeps ?_ ?_ | refine keep_ite (P := OnNext (Keeps μ σ)) ?_ ?_ | refine keep_ite (P := Keeps μ σ) ?_ ?_ | refine keep_ite (P := OnOk (Keeps μ σ)) ?_ ?_ | intro _ | split | dsimp only

theorem execCruiseRead_keeps {μ : Nat} {σ : State} {reads : List SectorRead} {blazeGood : Bool} {s : State} (hK : Keeps μ σ s)
    (hm : Sub 0xeb80000002c06a0006 μ := by first | assumption | exact Sub.of ‹Sub _ _› ⟨by decide +kernel⟩) :
    OnNext (Keeps μ σ) (execCruiseRead reads blazeGood s) := by
  unfold execCruiseRead
  try dsimp only
  repeat' with_reducible first | assumption | refine yardBegin_keeps ?_ ?_ | refine cruiseRead_keeps ?_ | refine OnNext.next ?_ | refine OnOk.ok ?_ | exact OnOk.error | refine OnSome.some ?_ | exact OnSome.none | refine OnSomeOf.some ?_ | exact OnSomeOf.none | refine OnOkOf.ok ?_ | exact OnOkOf.error | refine act_keeps ?_ ?_ | refine live_keeps ?_ ?_ | refine keep_ite (P := OnNext (Keeps μ σ)) ?_ ?_ | refine keep_ite (P := Keeps μ σ) ?_ ?_ | refine keep_ite (P := OnOk (Keeps μ σ)) ?_ ?_ | intro _ | split | dsimp only

theorem execCruiseRateRecompute_keeps {μ : Nat} {σ : State} {s : State} (hK : Keeps μ σ s)
    (hm : Sub 0xab80000000c0680006 μ := by first | assumption | exact Sub.of ‹Sub _ _› ⟨by decide +kernel⟩) :
    OnNext (Keeps μ σ) (execCruiseRateRecompute s) := by
  unfold execCruiseRateRecompute
  try dsimp only
  repeat' with_reducible first | assumption | refine yardAct_keeps ?_ ?_ | refine cruiseRate_keeps ?_ | refine OnNext.next ?_ | refine OnOk.ok ?_ | exact OnOk.error | refine OnSome.some ?_ | exact OnSome.none | refine OnSomeOf.some ?_ | exact OnSomeOf.none | refine OnOkOf.ok ?_ | exact OnOkOf.error | refine act_keeps ?_ ?_ | refine live_keeps ?_ ?_ | refine keep_ite (P := OnNext (Keeps μ σ)) ?_ ?_ | refine keep_ite (P := Keeps μ σ) ?_ ?_ | refine keep_ite (P := OnOk (Keeps μ σ)) ?_ ?_ | intro _ | split | dsimp only

theorem execRefresh_keeps {μ : Nat} {σ : State} {bolt : Nat} {s : State} (hK : Keeps μ σ s)
    (hm : Sub 0xab80000002006a0000 μ := by first | assumption | exact Sub.of ‹Sub _ _› ⟨by decide +kernel⟩) :
    OnNext (Keeps μ σ) (execRefresh bolt s) := by
  unfold execRefresh
  try dsimp only
  repeat' with_reducible first | assumption | refine yardBegin_keeps ?_ ?_ | refine refreshBolt_keeps ?_ | refine OnNext.next ?_ | refine OnOk.ok ?_ | exact OnOk.error | refine OnSome.some ?_ | exact OnSome.none | refine OnSomeOf.some ?_ | exact OnSomeOf.none | refine OnOkOf.ok ?_ | exact OnOkOf.error | refine act_keeps ?_ ?_ | refine live_keeps ?_ ?_ | refine keep_ite (P := OnNext (Keeps μ σ)) ?_ ?_ | refine keep_ite (P := Keeps μ σ) ?_ ?_ | refine keep_ite (P := OnOk (Keeps μ σ)) ?_ ?_ | intro _ | split | dsimp only

theorem execLunFail_keeps {μ : Nat} {σ : State} {channel : Nat} {lun : Nat} {s : State} (hK : Keeps μ σ s)
    (hm : Sub 0x100000000cf80000002c06a0006 μ := by first | assumption | exact Sub.of ‹Sub _ _› ⟨by decide +kernel⟩) :
    OnNext (Keeps μ σ) (execLunFail channel lun s) := by
  unfold execLunFail
  try dsimp only
  repeat' with_reducible first | assumption | refine yardAct_keeps ?_ ?_ | refine lunFail_keeps ?_ | refine OnNext.next ?_ | refine OnOk.ok ?_ | exact OnOk.error | refine OnSome.some ?_ | exact OnSome.none | refine OnSomeOf.some ?_ | exact OnSomeOf.none | refine OnOkOf.ok ?_ | exact OnOkOf.error | refine act_keeps ?_ ?_ | refine live_keeps ?_ ?_ | refine keep_ite (P := OnNext (Keeps μ σ)) ?_ ?_ | refine keep_ite (P := Keeps μ σ) ?_ ?_ | refine keep_ite (P := OnOk (Keeps μ σ)) ?_ ?_ | intro _ | split | dsimp only

theorem execJournalCommit_keeps {μ : Nat} {σ : State} {firstPass : Bool} {secondPass : Bool} {s : State} (hK : Keeps μ σ s)
    (hm : Sub 0xcb80000002c06a0006 μ := by first | assumption | exact Sub.of ‹Sub _ _› ⟨by decide +kernel⟩) :
    OnNext (Keeps μ σ) (execJournalCommit firstPass secondPass s) := by
  unfold execJournalCommit
  try dsimp only
  repeat' with_reducible first | assumption | refine yardAct_keeps ?_ ?_ | refine journalCommit_keeps ?_ | refine OnNext.next ?_ | refine OnOk.ok ?_ | exact OnOk.error | refine OnSome.some ?_ | exact OnSome.none | refine OnSomeOf.some ?_ | exact OnSomeOf.none | refine OnOkOf.ok ?_ | exact OnOkOf.error | refine act_keeps ?_ ?_ | refine live_keeps ?_ ?_ | refine keep_ite (P := OnNext (Keeps μ σ)) ?_ ?_ | refine keep_ite (P := Keeps μ σ) ?_ ?_ | refine keep_ite (P := OnOk (Keeps μ σ)) ?_ ?_ | intro _ | split | dsimp only

theorem execCheckpoint_keeps {μ : Nat} {σ : State} {s : State} (hK : Keeps μ σ s)
    (hm : Sub 0x8b80000000006a0000 μ := by first | assumption | exact Sub.of ‹Sub _ _› ⟨by decide +kernel⟩) :
    OnNext (Keeps μ σ) (execCheckpoint s) := by
  unfold execCheckpoint
  try dsimp only
  repeat' with_reducible first | assumption | refine yardBegin_keeps ?_ ?_ | refine autoCkpt_keeps ?_ | refine OnNext.next ?_ | refine OnOk.ok ?_ | exact OnOk.error | refine OnSome.some ?_ | exact OnSome.none | refine OnSomeOf.some ?_ | exact OnSomeOf.none | refine OnOkOf.ok ?_ | exact OnOkOf.error | refine act_keeps ?_ ?_ | refine live_keeps ?_ ?_ | refine keep_ite (P := OnNext (Keeps μ σ)) ?_ ?_ | refine keep_ite (P := Keeps μ σ) ?_ ?_ | refine keep_ite (P := OnOk (Keeps μ σ)) ?_ ?_ | intro _ | split | dsimp only

theorem execCheckpointDone_keeps {μ : Nat} {σ : State} {anchorEraseFails : List Nat} {s : State} (hK : Keeps μ σ s)
    (hm : Sub 0xcb80000002c06a0006 μ := by first | assumption | exact Sub.of ‹Sub _ _› ⟨by decide +kernel⟩) :
    OnNext (Keeps μ σ) (execCheckpointDone anchorEraseFails s) := by
  unfold execCheckpointDone
  try dsimp only
  repeat' with_reducible first | assumption | refine yardAct_keeps ?_ ?_ | refine endCkpt_keeps ?_ | refine OnNext.next ?_ | refine OnOk.ok ?_ | exact OnOk.error | refine OnSome.some ?_ | exact OnSome.none | refine OnSomeOf.some ?_ | exact OnSomeOf.none | refine OnOkOf.ok ?_ | exact OnOkOf.error | refine act_keeps ?_ ?_ | refine live_keeps ?_ ?_ | refine keep_ite (P := OnNext (Keeps μ σ)) ?_ ?_ | refine keep_ite (P := Keeps μ σ) ?_ ?_ | refine keep_ite (P := OnOk (Keeps μ σ)) ?_ ?_ | intro _ | split | dsimp only

theorem execFormat_keeps {μ : Nat} {σ : State} {via : Via} {eraseFails : List Nat} {s : State} (hK : Keeps μ σ s)
    (hm : Sub 0x20000000001fe00000062e0e2001e μ := by first | assumption | exact Sub.of ‹Sub _ _› ⟨by decide +kernel⟩) :
    OnNext (Keeps μ σ) (execFormat via eraseFails s) := by
  unfold execFormat
  try dsimp only
  repeat' with_reducible first | assumption | refine writeYardCommand_keeps ?_ | refine OnNext.next ?_ | refine OnOk.ok ?_ | exact OnOk.error | refine OnSome.some ?_ | exact OnSome.none | refine OnSomeOf.some ?_ | exact OnSomeOf.none | refine OnOkOf.ok ?_ | exact OnOkOf.error | refine act_keeps ?_ ?_ | refine live_keeps ?_ ?_ | refine keep_ite (P := OnNext (Keeps μ σ)) ?_ ?_ | refine keep_ite (P := Keeps μ σ) ?_ ?_ | refine keep_ite (P := OnOk (Keeps μ σ)) ?_ ?_ | intro _ | split | dsimp only

theorem execCheckpointNow_keeps {μ : Nat} {σ : State} {via : Via} {s : State} (hK : Keeps μ σ s)
    (hm : Sub 0x20000000001fe00000062e0e2001e μ := by first | assumption | exact Sub.of ‹Sub _ _› ⟨by decide +kernel⟩) :
    OnNext (Keeps μ σ) (execCheckpointNow via s) := by
  unfold execCheckpointNow
  try dsimp only
  repeat' with_reducible first | assumption | refine writeYardCommand_keeps ?_ | refine OnNext.next ?_ | refine OnOk.ok ?_ | exact OnOk.error | refine OnSome.some ?_ | exact OnSome.none | refine OnSomeOf.some ?_ | exact OnSomeOf.none | refine OnOkOf.ok ?_ | exact OnOkOf.error | refine act_keeps ?_ ?_ | refine live_keeps ?_ ?_ | refine keep_ite (P := OnNext (Keeps μ σ)) ?_ ?_ | refine keep_ite (P := Keeps μ σ) ?_ ?_ | refine keep_ite (P := OnOk (Keeps μ σ)) ?_ ?_ | intro _ | split | dsimp only

theorem execCruiseRestart_keeps {μ : Nat} {σ : State} {via : Via} {s : State} (hK : Keeps μ σ s)
    (hm : Sub 0x20000000001fe00000062e0e2001e μ := by first | assumption | exact Sub.of ‹Sub _ _› ⟨by decide +kernel⟩) :
    OnNext (Keeps μ σ) (execCruiseRestart via s) := by
  unfold execCruiseRestart
  try dsimp only
  repeat' with_reducible first | assumption | refine writeYardCommand_keeps ?_ | refine OnNext.next ?_ | refine OnOk.ok ?_ | exact OnOk.error | refine OnSome.some ?_ | exact OnSome.none | refine OnSomeOf.some ?_ | exact OnSomeOf.none | refine OnOkOf.ok ?_ | exact OnOkOf.error | refine act_keeps ?_ ?_ | refine live_keeps ?_ ?_ | refine keep_ite (P := OnNext (Keeps μ σ)) ?_ ?_ | refine keep_ite (P := Keeps μ σ) ?_ ?_ | refine keep_ite (P := OnOk (Keeps μ σ)) ?_ ?_ | intro _ | split | dsimp only

end Sys2Proof.Laws
end

