-- ==== Sys2Proof/Laws/State.lean ====
section
/-! SUPPORT. What each update of State leaves in every field, so that no proof unfolds a record update. -/
namespace Sys2Proof.Laws
open Sys2Proof.Machine
set_option Elab.async false

/-! ### The dictionary's updates: every other field stands -/

@[simp] theorem touch_dev (s : State) (k : Nat) : (s.touch k).dev = s.dev := rfl
@[simp] theorem touch_log (s : State) (k : Nat) : (s.touch k).log = s.log := rfl
@[simp] theorem touch_mgmt (s : State) (k : Nat) : (s.touch k).mgmt = s.mgmt := rfl
@[simp] theorem touch_nv (s : State) (k : Nat) : (s.touch k).nv = s.nv := rfl
@[simp] theorem touch_sched (s : State) (k : Nat) : (s.touch k).sched = s.sched := rfl
@[simp] theorem touch_rc (s : State) (k : Nat) : (s.touch k).rc = s.rc := rfl
@[simp] theorem touch_stand (s : State) (k : Nat) : (s.touch k).stand = s.stand := rfl
@[simp] theorem touch_sec (s : State) (k : Nat) : (s.touch k).sec = s.sec := rfl
@[simp] theorem touch_pwr (s : State) (k : Nat) : (s.touch k).pwr = s.pwr := rfl
@[simp] theorem touch_mem (s : State) (k : Nat) : (s.touch k).mem = s.mem := rfl
@[simp] theorem touch_chips (s : State) (k : Nat) : (s.touch k).chips = s.chips := rfl
@[simp] theorem touch_dec (s : State) (k : Nat) : (s.touch k).dec = s.dec := rfl
@[simp] theorem touch_intake (s : State) (k : Nat) : (s.touch k).intake = s.intake := rfl
@[simp] theorem touch_tok (s : State) (k : Nat) : (s.touch k).tok = s.tok := rfl
@[simp] theorem touch_comp (s : State) (k : Nat) : (s.touch k).comp = s.comp := rfl
@[simp] theorem touch_grade (s : State) (k : Nat) : (s.touch k).grade = s.grade := rfl
@[simp] theorem touch_deck (s : State) (k : Nat) : (s.touch k).deck = s.deck := rfl
@[simp] theorem touch_yard (s : State) (k : Nat) : (s.touch k).yard = s.yard := rfl
@[simp] theorem touch_lookout (s : State) (k : Nat) : (s.touch k).lookout = s.lookout := rfl
@[simp] theorem touch_landing (s : State) (k : Nat) : (s.touch k).landing = s.landing := rfl
@[simp] theorem touch_skd (s : State) (k : Nat) : (s.touch k).skd = s.skd := rfl
@[simp] theorem touch_out (s : State) (k : Nat) : (s.touch k).out = s.out := rfl
@[simp] theorem touch_status (s : State) (k : Nat) : (s.touch k).status = s.status := rfl
@[simp] theorem touch_freeCtr (s : State) (k : Nat) : (s.touch k).freeCtr = s.freeCtr := rfl
@[simp] theorem touch_pending (s : State) (k : Nat) : (s.touch k).pending = s.pending := rfl
@[simp] theorem setN_dev (s : State) (k v : Nat) : (s.setN k v).dev = s.dev := by obtain ⟨_, h⟩ := setN_dict s k v; rw [h]
@[simp] theorem setN_log (s : State) (k v : Nat) : (s.setN k v).log = s.log := by obtain ⟨_, h⟩ := setN_dict s k v; rw [h]
@[simp] theorem setN_mgmt (s : State) (k v : Nat) : (s.setN k v).mgmt = s.mgmt := by obtain ⟨_, h⟩ := setN_dict s k v; rw [h]
@[simp] theorem setN_nv (s : State) (k v : Nat) : (s.setN k v).nv = s.nv := by obtain ⟨_, h⟩ := setN_dict s k v; rw [h]
@[simp] theorem setN_sched (s : State) (k v : Nat) : (s.setN k v).sched = s.sched := by obtain ⟨_, h⟩ := setN_dict s k v; rw [h]
@[simp] theorem setN_rc (s : State) (k v : Nat) : (s.setN k v).rc = s.rc := by obtain ⟨_, h⟩ := setN_dict s k v; rw [h]
@[simp] theorem setN_stand (s : State) (k v : Nat) : (s.setN k v).stand = s.stand := by obtain ⟨_, h⟩ := setN_dict s k v; rw [h]
@[simp] theorem setN_sec (s : State) (k v : Nat) : (s.setN k v).sec = s.sec := by obtain ⟨_, h⟩ := setN_dict s k v; rw [h]
@[simp] theorem setN_pwr (s : State) (k v : Nat) : (s.setN k v).pwr = s.pwr := by obtain ⟨_, h⟩ := setN_dict s k v; rw [h]
@[simp] theorem setN_mem (s : State) (k v : Nat) : (s.setN k v).mem = s.mem := by obtain ⟨_, h⟩ := setN_dict s k v; rw [h]
@[simp] theorem setN_chips (s : State) (k v : Nat) : (s.setN k v).chips = s.chips := by obtain ⟨_, h⟩ := setN_dict s k v; rw [h]
@[simp] theorem setN_dec (s : State) (k v : Nat) : (s.setN k v).dec = s.dec := by obtain ⟨_, h⟩ := setN_dict s k v; rw [h]
@[simp] theorem setN_intake (s : State) (k v : Nat) : (s.setN k v).intake = s.intake := by obtain ⟨_, h⟩ := setN_dict s k v; rw [h]
@[simp] theorem setN_tok (s : State) (k v : Nat) : (s.setN k v).tok = s.tok := by obtain ⟨_, h⟩ := setN_dict s k v; rw [h]
@[simp] theorem setN_comp (s : State) (k v : Nat) : (s.setN k v).comp = s.comp := by obtain ⟨_, h⟩ := setN_dict s k v; rw [h]
@[simp] theorem setN_grade (s : State) (k v : Nat) : (s.setN k v).grade = s.grade := by obtain ⟨_, h⟩ := setN_dict s k v; rw [h]
@[simp] theorem setN_deck (s : State) (k v : Nat) : (s.setN k v).deck = s.deck := by obtain ⟨_, h⟩ := setN_dict s k v; rw [h]
@[simp] theorem setN_yard (s : State) (k v : Nat) : (s.setN k v).yard = s.yard := by obtain ⟨_, h⟩ := setN_dict s k v; rw [h]
@[simp] theorem setN_lookout (s : State) (k v : Nat) : (s.setN k v).lookout = s.lookout := by obtain ⟨_, h⟩ := setN_dict s k v; rw [h]
@[simp] theorem setN_landing (s : State) (k v : Nat) : (s.setN k v).landing = s.landing := by obtain ⟨_, h⟩ := setN_dict s k v; rw [h]
@[simp] theorem setN_skd (s : State) (k v : Nat) : (s.setN k v).skd = s.skd := by obtain ⟨_, h⟩ := setN_dict s k v; rw [h]
@[simp] theorem setN_out (s : State) (k v : Nat) : (s.setN k v).out = s.out := by obtain ⟨_, h⟩ := setN_dict s k v; rw [h]
@[simp] theorem setN_status (s : State) (k v : Nat) : (s.setN k v).status = s.status := by obtain ⟨_, h⟩ := setN_dict s k v; rw [h]
@[simp] theorem setN_freeCtr (s : State) (k v : Nat) : (s.setN k v).freeCtr = s.freeCtr := by obtain ⟨_, h⟩ := setN_dict s k v; rw [h]
@[simp] theorem setN_pending (s : State) (k v : Nat) : (s.setN k v).pending = s.pending := by obtain ⟨_, h⟩ := setN_dict s k v; rw [h]
@[simp] theorem setB_dev (s : State) (k : Nat) (v : Bytes) : (s.setB k v).dev = s.dev := by obtain ⟨_, h⟩ := setB_dict s k v; rw [h]
@[simp] theorem setB_log (s : State) (k : Nat) (v : Bytes) : (s.setB k v).log = s.log := by obtain ⟨_, h⟩ := setB_dict s k v; rw [h]
@[simp] theorem setB_mgmt (s : State) (k : Nat) (v : Bytes) : (s.setB k v).mgmt = s.mgmt := by obtain ⟨_, h⟩ := setB_dict s k v; rw [h]
@[simp] theorem setB_nv (s : State) (k : Nat) (v : Bytes) : (s.setB k v).nv = s.nv := by obtain ⟨_, h⟩ := setB_dict s k v; rw [h]
@[simp] theorem setB_sched (s : State) (k : Nat) (v : Bytes) : (s.setB k v).sched = s.sched := by obtain ⟨_, h⟩ := setB_dict s k v; rw [h]
@[simp] theorem setB_rc (s : State) (k : Nat) (v : Bytes) : (s.setB k v).rc = s.rc := by obtain ⟨_, h⟩ := setB_dict s k v; rw [h]
@[simp] theorem setB_stand (s : State) (k : Nat) (v : Bytes) : (s.setB k v).stand = s.stand := by obtain ⟨_, h⟩ := setB_dict s k v; rw [h]
@[simp] theorem setB_sec (s : State) (k : Nat) (v : Bytes) : (s.setB k v).sec = s.sec := by obtain ⟨_, h⟩ := setB_dict s k v; rw [h]
@[simp] theorem setB_pwr (s : State) (k : Nat) (v : Bytes) : (s.setB k v).pwr = s.pwr := by obtain ⟨_, h⟩ := setB_dict s k v; rw [h]
@[simp] theorem setB_mem (s : State) (k : Nat) (v : Bytes) : (s.setB k v).mem = s.mem := by obtain ⟨_, h⟩ := setB_dict s k v; rw [h]
@[simp] theorem setB_chips (s : State) (k : Nat) (v : Bytes) : (s.setB k v).chips = s.chips := by obtain ⟨_, h⟩ := setB_dict s k v; rw [h]
@[simp] theorem setB_dec (s : State) (k : Nat) (v : Bytes) : (s.setB k v).dec = s.dec := by obtain ⟨_, h⟩ := setB_dict s k v; rw [h]
@[simp] theorem setB_intake (s : State) (k : Nat) (v : Bytes) : (s.setB k v).intake = s.intake := by obtain ⟨_, h⟩ := setB_dict s k v; rw [h]
@[simp] theorem setB_tok (s : State) (k : Nat) (v : Bytes) : (s.setB k v).tok = s.tok := by obtain ⟨_, h⟩ := setB_dict s k v; rw [h]
@[simp] theorem setB_comp (s : State) (k : Nat) (v : Bytes) : (s.setB k v).comp = s.comp := by obtain ⟨_, h⟩ := setB_dict s k v; rw [h]
@[simp] theorem setB_grade (s : State) (k : Nat) (v : Bytes) : (s.setB k v).grade = s.grade := by obtain ⟨_, h⟩ := setB_dict s k v; rw [h]
@[simp] theorem setB_deck (s : State) (k : Nat) (v : Bytes) : (s.setB k v).deck = s.deck := by obtain ⟨_, h⟩ := setB_dict s k v; rw [h]
@[simp] theorem setB_yard (s : State) (k : Nat) (v : Bytes) : (s.setB k v).yard = s.yard := by obtain ⟨_, h⟩ := setB_dict s k v; rw [h]
@[simp] theorem setB_lookout (s : State) (k : Nat) (v : Bytes) : (s.setB k v).lookout = s.lookout := by obtain ⟨_, h⟩ := setB_dict s k v; rw [h]
@[simp] theorem setB_landing (s : State) (k : Nat) (v : Bytes) : (s.setB k v).landing = s.landing := by obtain ⟨_, h⟩ := setB_dict s k v; rw [h]
@[simp] theorem setB_skd (s : State) (k : Nat) (v : Bytes) : (s.setB k v).skd = s.skd := by obtain ⟨_, h⟩ := setB_dict s k v; rw [h]
@[simp] theorem setB_out (s : State) (k : Nat) (v : Bytes) : (s.setB k v).out = s.out := by obtain ⟨_, h⟩ := setB_dict s k v; rw [h]
@[simp] theorem setB_status (s : State) (k : Nat) (v : Bytes) : (s.setB k v).status = s.status := by obtain ⟨_, h⟩ := setB_dict s k v; rw [h]
@[simp] theorem setB_freeCtr (s : State) (k : Nat) (v : Bytes) : (s.setB k v).freeCtr = s.freeCtr := by obtain ⟨_, h⟩ := setB_dict s k v; rw [h]
@[simp] theorem setB_pending (s : State) (k : Nat) (v : Bytes) : (s.setB k v).pending = s.pending := by obtain ⟨_, h⟩ := setB_dict s k v; rw [h]
@[simp] theorem add_dev (s : State) (k n : Nat) : (s.add k n).dev = s.dev := setN_dev _ _ _
@[simp] theorem add_log (s : State) (k n : Nat) : (s.add k n).log = s.log := setN_log _ _ _
@[simp] theorem add_mgmt (s : State) (k n : Nat) : (s.add k n).mgmt = s.mgmt := setN_mgmt _ _ _
@[simp] theorem add_nv (s : State) (k n : Nat) : (s.add k n).nv = s.nv := setN_nv _ _ _
@[simp] theorem add_sched (s : State) (k n : Nat) : (s.add k n).sched = s.sched := setN_sched _ _ _
@[simp] theorem add_rc (s : State) (k n : Nat) : (s.add k n).rc = s.rc := setN_rc _ _ _
@[simp] theorem add_stand (s : State) (k n : Nat) : (s.add k n).stand = s.stand := setN_stand _ _ _
@[simp] theorem add_sec (s : State) (k n : Nat) : (s.add k n).sec = s.sec := setN_sec _ _ _
@[simp] theorem add_pwr (s : State) (k n : Nat) : (s.add k n).pwr = s.pwr := setN_pwr _ _ _
@[simp] theorem add_mem (s : State) (k n : Nat) : (s.add k n).mem = s.mem := setN_mem _ _ _
@[simp] theorem add_chips (s : State) (k n : Nat) : (s.add k n).chips = s.chips := setN_chips _ _ _
@[simp] theorem add_dec (s : State) (k n : Nat) : (s.add k n).dec = s.dec := setN_dec _ _ _
@[simp] theorem add_intake (s : State) (k n : Nat) : (s.add k n).intake = s.intake := setN_intake _ _ _
@[simp] theorem add_tok (s : State) (k n : Nat) : (s.add k n).tok = s.tok := setN_tok _ _ _
@[simp] theorem add_comp (s : State) (k n : Nat) : (s.add k n).comp = s.comp := setN_comp _ _ _
@[simp] theorem add_grade (s : State) (k n : Nat) : (s.add k n).grade = s.grade := setN_grade _ _ _
@[simp] theorem add_deck (s : State) (k n : Nat) : (s.add k n).deck = s.deck := setN_deck _ _ _
@[simp] theorem add_yard (s : State) (k n : Nat) : (s.add k n).yard = s.yard := setN_yard _ _ _
@[simp] theorem add_lookout (s : State) (k n : Nat) : (s.add k n).lookout = s.lookout := setN_lookout _ _ _
@[simp] theorem add_landing (s : State) (k n : Nat) : (s.add k n).landing = s.landing := setN_landing _ _ _
@[simp] theorem add_skd (s : State) (k n : Nat) : (s.add k n).skd = s.skd := setN_skd _ _ _
@[simp] theorem add_out (s : State) (k n : Nat) : (s.add k n).out = s.out := setN_out _ _ _
@[simp] theorem add_status (s : State) (k n : Nat) : (s.add k n).status = s.status := setN_status _ _ _
@[simp] theorem add_freeCtr (s : State) (k n : Nat) : (s.add k n).freeCtr = s.freeCtr := setN_freeCtr _ _ _
@[simp] theorem add_pending (s : State) (k n : Nat) : (s.add k n).pending = s.pending := setN_pending _ _ _
@[simp] theorem bump_dev (s : State) (k : Nat) : (s.bump k).dev = s.dev := add_dev _ _ _
@[simp] theorem bump_log (s : State) (k : Nat) : (s.bump k).log = s.log := add_log _ _ _
@[simp] theorem bump_mgmt (s : State) (k : Nat) : (s.bump k).mgmt = s.mgmt := add_mgmt _ _ _
@[simp] theorem bump_nv (s : State) (k : Nat) : (s.bump k).nv = s.nv := add_nv _ _ _
@[simp] theorem bump_sched (s : State) (k : Nat) : (s.bump k).sched = s.sched := add_sched _ _ _
@[simp] theorem bump_rc (s : State) (k : Nat) : (s.bump k).rc = s.rc := add_rc _ _ _
@[simp] theorem bump_stand (s : State) (k : Nat) : (s.bump k).stand = s.stand := add_stand _ _ _
@[simp] theorem bump_sec (s : State) (k : Nat) : (s.bump k).sec = s.sec := add_sec _ _ _
@[simp] theorem bump_pwr (s : State) (k : Nat) : (s.bump k).pwr = s.pwr := add_pwr _ _ _
@[simp] theorem bump_mem (s : State) (k : Nat) : (s.bump k).mem = s.mem := add_mem _ _ _
@[simp] theorem bump_chips (s : State) (k : Nat) : (s.bump k).chips = s.chips := add_chips _ _ _
@[simp] theorem bump_dec (s : State) (k : Nat) : (s.bump k).dec = s.dec := add_dec _ _ _
@[simp] theorem bump_intake (s : State) (k : Nat) : (s.bump k).intake = s.intake := add_intake _ _ _
@[simp] theorem bump_tok (s : State) (k : Nat) : (s.bump k).tok = s.tok := add_tok _ _ _
@[simp] theorem bump_comp (s : State) (k : Nat) : (s.bump k).comp = s.comp := add_comp _ _ _
@[simp] theorem bump_grade (s : State) (k : Nat) : (s.bump k).grade = s.grade := add_grade _ _ _
@[simp] theorem bump_deck (s : State) (k : Nat) : (s.bump k).deck = s.deck := add_deck _ _ _
@[simp] theorem bump_yard (s : State) (k : Nat) : (s.bump k).yard = s.yard := add_yard _ _ _
@[simp] theorem bump_lookout (s : State) (k : Nat) : (s.bump k).lookout = s.lookout := add_lookout _ _ _
@[simp] theorem bump_landing (s : State) (k : Nat) : (s.bump k).landing = s.landing := add_landing _ _ _
@[simp] theorem bump_skd (s : State) (k : Nat) : (s.bump k).skd = s.skd := add_skd _ _ _
@[simp] theorem bump_out (s : State) (k : Nat) : (s.bump k).out = s.out := add_out _ _ _
@[simp] theorem bump_status (s : State) (k : Nat) : (s.bump k).status = s.status := add_status _ _ _
@[simp] theorem bump_freeCtr (s : State) (k : Nat) : (s.bump k).freeCtr = s.freeCtr := add_freeCtr _ _ _
@[simp] theorem bump_pending (s : State) (k : Nat) : (s.bump k).pending = s.pending := add_pending _ _ _
@[simp] theorem bump32_dev (s : State) (k : Nat) : (s.bump32 k).dev = s.dev := setN_dev _ _ _
@[simp] theorem bump32_log (s : State) (k : Nat) : (s.bump32 k).log = s.log := setN_log _ _ _
@[simp] theorem bump32_mgmt (s : State) (k : Nat) : (s.bump32 k).mgmt = s.mgmt := setN_mgmt _ _ _
@[simp] theorem bump32_nv (s : State) (k : Nat) : (s.bump32 k).nv = s.nv := setN_nv _ _ _
@[simp] theorem bump32_sched (s : State) (k : Nat) : (s.bump32 k).sched = s.sched := setN_sched _ _ _
@[simp] theorem bump32_rc (s : State) (k : Nat) : (s.bump32 k).rc = s.rc := setN_rc _ _ _
@[simp] theorem bump32_stand (s : State) (k : Nat) : (s.bump32 k).stand = s.stand := setN_stand _ _ _
@[simp] theorem bump32_sec (s : State) (k : Nat) : (s.bump32 k).sec = s.sec := setN_sec _ _ _
@[simp] theorem bump32_pwr (s : State) (k : Nat) : (s.bump32 k).pwr = s.pwr := setN_pwr _ _ _
@[simp] theorem bump32_mem (s : State) (k : Nat) : (s.bump32 k).mem = s.mem := setN_mem _ _ _
@[simp] theorem bump32_chips (s : State) (k : Nat) : (s.bump32 k).chips = s.chips := setN_chips _ _ _
@[simp] theorem bump32_dec (s : State) (k : Nat) : (s.bump32 k).dec = s.dec := setN_dec _ _ _
@[simp] theorem bump32_intake (s : State) (k : Nat) : (s.bump32 k).intake = s.intake := setN_intake _ _ _
@[simp] theorem bump32_tok (s : State) (k : Nat) : (s.bump32 k).tok = s.tok := setN_tok _ _ _
@[simp] theorem bump32_comp (s : State) (k : Nat) : (s.bump32 k).comp = s.comp := setN_comp _ _ _
@[simp] theorem bump32_grade (s : State) (k : Nat) : (s.bump32 k).grade = s.grade := setN_grade _ _ _
@[simp] theorem bump32_deck (s : State) (k : Nat) : (s.bump32 k).deck = s.deck := setN_deck _ _ _
@[simp] theorem bump32_yard (s : State) (k : Nat) : (s.bump32 k).yard = s.yard := setN_yard _ _ _
@[simp] theorem bump32_lookout (s : State) (k : Nat) : (s.bump32 k).lookout = s.lookout := setN_lookout _ _ _
@[simp] theorem bump32_landing (s : State) (k : Nat) : (s.bump32 k).landing = s.landing := setN_landing _ _ _
@[simp] theorem bump32_skd (s : State) (k : Nat) : (s.bump32 k).skd = s.skd := setN_skd _ _ _
@[simp] theorem bump32_out (s : State) (k : Nat) : (s.bump32 k).out = s.out := setN_out _ _ _
@[simp] theorem bump32_status (s : State) (k : Nat) : (s.bump32 k).status = s.status := setN_status _ _ _
@[simp] theorem bump32_freeCtr (s : State) (k : Nat) : (s.bump32 k).freeCtr = s.freeCtr := setN_freeCtr _ _ _
@[simp] theorem bump32_pending (s : State) (k : Nat) : (s.bump32 k).pending = s.pending := setN_pending _ _ _
@[simp] theorem alert_dev (s : State) (k : Nat) : (s.alert k).dev = s.dev := setN_dev _ _ _
@[simp] theorem alert_log (s : State) (k : Nat) : (s.alert k).log = s.log := setN_log _ _ _
@[simp] theorem alert_mgmt (s : State) (k : Nat) : (s.alert k).mgmt = s.mgmt := setN_mgmt _ _ _
@[simp] theorem alert_nv (s : State) (k : Nat) : (s.alert k).nv = s.nv := setN_nv _ _ _
@[simp] theorem alert_sched (s : State) (k : Nat) : (s.alert k).sched = s.sched := setN_sched _ _ _
@[simp] theorem alert_rc (s : State) (k : Nat) : (s.alert k).rc = s.rc := setN_rc _ _ _
@[simp] theorem alert_stand (s : State) (k : Nat) : (s.alert k).stand = s.stand := setN_stand _ _ _
@[simp] theorem alert_sec (s : State) (k : Nat) : (s.alert k).sec = s.sec := setN_sec _ _ _
@[simp] theorem alert_pwr (s : State) (k : Nat) : (s.alert k).pwr = s.pwr := setN_pwr _ _ _
@[simp] theorem alert_mem (s : State) (k : Nat) : (s.alert k).mem = s.mem := setN_mem _ _ _
@[simp] theorem alert_chips (s : State) (k : Nat) : (s.alert k).chips = s.chips := setN_chips _ _ _
@[simp] theorem alert_dec (s : State) (k : Nat) : (s.alert k).dec = s.dec := setN_dec _ _ _
@[simp] theorem alert_intake (s : State) (k : Nat) : (s.alert k).intake = s.intake := setN_intake _ _ _
@[simp] theorem alert_tok (s : State) (k : Nat) : (s.alert k).tok = s.tok := setN_tok _ _ _
@[simp] theorem alert_comp (s : State) (k : Nat) : (s.alert k).comp = s.comp := setN_comp _ _ _
@[simp] theorem alert_grade (s : State) (k : Nat) : (s.alert k).grade = s.grade := setN_grade _ _ _
@[simp] theorem alert_deck (s : State) (k : Nat) : (s.alert k).deck = s.deck := setN_deck _ _ _
@[simp] theorem alert_yard (s : State) (k : Nat) : (s.alert k).yard = s.yard := setN_yard _ _ _
@[simp] theorem alert_lookout (s : State) (k : Nat) : (s.alert k).lookout = s.lookout := setN_lookout _ _ _
@[simp] theorem alert_landing (s : State) (k : Nat) : (s.alert k).landing = s.landing := setN_landing _ _ _
@[simp] theorem alert_skd (s : State) (k : Nat) : (s.alert k).skd = s.skd := setN_skd _ _ _
@[simp] theorem alert_out (s : State) (k : Nat) : (s.alert k).out = s.out := setN_out _ _ _
@[simp] theorem alert_status (s : State) (k : Nat) : (s.alert k).status = s.status := setN_status _ _ _
@[simp] theorem alert_freeCtr (s : State) (k : Nat) : (s.alert k).freeCtr = s.freeCtr := setN_freeCtr _ _ _
@[simp] theorem alert_pending (s : State) (k : Nat) : (s.alert k).pending = s.pending := setN_pending _ _ _
@[simp] theorem bumpIf_dev (s : State) (b : Bool) (k : Nat) : (s.bumpIf b k).dev = s.dev := by cases b; rfl; exact bump_dev _ _
@[simp] theorem bumpIf_log (s : State) (b : Bool) (k : Nat) : (s.bumpIf b k).log = s.log := by cases b; rfl; exact bump_log _ _
@[simp] theorem bumpIf_mgmt (s : State) (b : Bool) (k : Nat) : (s.bumpIf b k).mgmt = s.mgmt := by cases b; rfl; exact bump_mgmt _ _
@[simp] theorem bumpIf_nv (s : State) (b : Bool) (k : Nat) : (s.bumpIf b k).nv = s.nv := by cases b; rfl; exact bump_nv _ _
@[simp] theorem bumpIf_sched (s : State) (b : Bool) (k : Nat) : (s.bumpIf b k).sched = s.sched := by cases b; rfl; exact bump_sched _ _
@[simp] theorem bumpIf_rc (s : State) (b : Bool) (k : Nat) : (s.bumpIf b k).rc = s.rc := by cases b; rfl; exact bump_rc _ _
@[simp] theorem bumpIf_stand (s : State) (b : Bool) (k : Nat) : (s.bumpIf b k).stand = s.stand := by cases b; rfl; exact bump_stand _ _
@[simp] theorem bumpIf_sec (s : State) (b : Bool) (k : Nat) : (s.bumpIf b k).sec = s.sec := by cases b; rfl; exact bump_sec _ _
@[simp] theorem bumpIf_pwr (s : State) (b : Bool) (k : Nat) : (s.bumpIf b k).pwr = s.pwr := by cases b; rfl; exact bump_pwr _ _
@[simp] theorem bumpIf_mem (s : State) (b : Bool) (k : Nat) : (s.bumpIf b k).mem = s.mem := by cases b; rfl; exact bump_mem _ _
@[simp] theorem bumpIf_chips (s : State) (b : Bool) (k : Nat) : (s.bumpIf b k).chips = s.chips := by cases b; rfl; exact bump_chips _ _
@[simp] theorem bumpIf_dec (s : State) (b : Bool) (k : Nat) : (s.bumpIf b k).dec = s.dec := by cases b; rfl; exact bump_dec _ _
@[simp] theorem bumpIf_intake (s : State) (b : Bool) (k : Nat) : (s.bumpIf b k).intake = s.intake := by cases b; rfl; exact bump_intake _ _
@[simp] theorem bumpIf_tok (s : State) (b : Bool) (k : Nat) : (s.bumpIf b k).tok = s.tok := by cases b; rfl; exact bump_tok _ _
@[simp] theorem bumpIf_comp (s : State) (b : Bool) (k : Nat) : (s.bumpIf b k).comp = s.comp := by cases b; rfl; exact bump_comp _ _
@[simp] theorem bumpIf_grade (s : State) (b : Bool) (k : Nat) : (s.bumpIf b k).grade = s.grade := by cases b; rfl; exact bump_grade _ _
@[simp] theorem bumpIf_deck (s : State) (b : Bool) (k : Nat) : (s.bumpIf b k).deck = s.deck := by cases b; rfl; exact bump_deck _ _
@[simp] theorem bumpIf_yard (s : State) (b : Bool) (k : Nat) : (s.bumpIf b k).yard = s.yard := by cases b; rfl; exact bump_yard _ _
@[simp] theorem bumpIf_lookout (s : State) (b : Bool) (k : Nat) : (s.bumpIf b k).lookout = s.lookout := by cases b; rfl; exact bump_lookout _ _
@[simp] theorem bumpIf_landing (s : State) (b : Bool) (k : Nat) : (s.bumpIf b k).landing = s.landing := by cases b; rfl; exact bump_landing _ _
@[simp] theorem bumpIf_skd (s : State) (b : Bool) (k : Nat) : (s.bumpIf b k).skd = s.skd := by cases b; rfl; exact bump_skd _ _
@[simp] theorem bumpIf_out (s : State) (b : Bool) (k : Nat) : (s.bumpIf b k).out = s.out := by cases b; rfl; exact bump_out _ _
@[simp] theorem bumpIf_status (s : State) (b : Bool) (k : Nat) : (s.bumpIf b k).status = s.status := by cases b; rfl; exact bump_status _ _
@[simp] theorem bumpIf_freeCtr (s : State) (b : Bool) (k : Nat) : (s.bumpIf b k).freeCtr = s.freeCtr := by cases b; rfl; exact bump_freeCtr _ _
@[simp] theorem bumpIf_pending (s : State) (b : Bool) (k : Nat) : (s.bumpIf b k).pending = s.pending := by cases b; rfl; exact bump_pending _ _

/-! ### What is sent, the status and the free values -/

@[simp] theorem emit_dev (s : State) (o : Out) : (s.emit o).dev = s.dev := rfl
@[simp] theorem emit_od (s : State) (o : Out) : (s.emit o).od = s.od := rfl
@[simp] theorem emit_log (s : State) (o : Out) : (s.emit o).log = s.log := rfl
@[simp] theorem emit_mgmt (s : State) (o : Out) : (s.emit o).mgmt = s.mgmt := rfl
@[simp] theorem emit_nv (s : State) (o : Out) : (s.emit o).nv = s.nv := rfl
@[simp] theorem emit_sched (s : State) (o : Out) : (s.emit o).sched = s.sched := rfl
@[simp] theorem emit_rc (s : State) (o : Out) : (s.emit o).rc = s.rc := rfl
@[simp] theorem emit_stand (s : State) (o : Out) : (s.emit o).stand = s.stand := rfl
@[simp] theorem emit_sec (s : State) (o : Out) : (s.emit o).sec = s.sec := rfl
@[simp] theorem emit_pwr (s : State) (o : Out) : (s.emit o).pwr = s.pwr := rfl
@[simp] theorem emit_mem (s : State) (o : Out) : (s.emit o).mem = s.mem := rfl
@[simp] theorem emit_chips (s : State) (o : Out) : (s.emit o).chips = s.chips := rfl
@[simp] theorem emit_dec (s : State) (o : Out) : (s.emit o).dec = s.dec := rfl
@[simp] theorem emit_intake (s : State) (o : Out) : (s.emit o).intake = s.intake := rfl
@[simp] theorem emit_tok (s : State) (o : Out) : (s.emit o).tok = s.tok := rfl
@[simp] theorem emit_comp (s : State) (o : Out) : (s.emit o).comp = s.comp := rfl
@[simp] theorem emit_grade (s : State) (o : Out) : (s.emit o).grade = s.grade := rfl
@[simp] theorem emit_deck (s : State) (o : Out) : (s.emit o).deck = s.deck := rfl
@[simp] theorem emit_yard (s : State) (o : Out) : (s.emit o).yard = s.yard := rfl
@[simp] theorem emit_lookout (s : State) (o : Out) : (s.emit o).lookout = s.lookout := rfl
@[simp] theorem emit_landing (s : State) (o : Out) : (s.emit o).landing = s.landing := rfl
@[simp] theorem emit_skd (s : State) (o : Out) : (s.emit o).skd = s.skd := rfl
@[simp] theorem emit_out (s : State) (o : Out) : (s.emit o).out = s.out ++ [o] := rfl
@[simp] theorem emit_status (s : State) (o : Out) : (s.emit o).status = s.status := rfl
@[simp] theorem emit_freeCtr (s : State) (o : Out) : (s.emit o).freeCtr = s.freeCtr := rfl
@[simp] theorem emit_pending (s : State) (o : Out) : (s.emit o).pending = s.pending := rfl
@[simp] theorem num_emit (s : State) (o : Out) (j : Nat) : (s.emit o).num j = s.num j := rfl
@[simp] theorem blob_emit (s : State) (o : Out) (j : Nat) : (s.emit o).blob j = s.blob j := rfl
@[simp] theorem ver_emit (s : State) (o : Out) (j : Nat) : (s.emit o).ver j = s.ver j := rfl
@[simp] theorem emits_dev (s : State) (l : List Out) : (s.emits l).dev = s.dev := rfl
@[simp] theorem emits_od (s : State) (l : List Out) : (s.emits l).od = s.od := rfl
@[simp] theorem emits_log (s : State) (l : List Out) : (s.emits l).log = s.log := rfl
@[simp] theorem emits_mgmt (s : State) (l : List Out) : (s.emits l).mgmt = s.mgmt := rfl
@[simp] theorem emits_nv (s : State) (l : List Out) : (s.emits l).nv = s.nv := rfl
@[simp] theorem emits_sched (s : State) (l : List Out) : (s.emits l).sched = s.sched := rfl
@[simp] theorem emits_rc (s : State) (l : List Out) : (s.emits l).rc = s.rc := rfl
@[simp] theorem emits_stand (s : State) (l : List Out) : (s.emits l).stand = s.stand := rfl
@[simp] theorem emits_sec (s : State) (l : List Out) : (s.emits l).sec = s.sec := rfl
@[simp] theorem emits_pwr (s : State) (l : List Out) : (s.emits l).pwr = s.pwr := rfl
@[simp] theorem emits_mem (s : State) (l : List Out) : (s.emits l).mem = s.mem := rfl
@[simp] theorem emits_chips (s : State) (l : List Out) : (s.emits l).chips = s.chips := rfl
@[simp] theorem emits_dec (s : State) (l : List Out) : (s.emits l).dec = s.dec := rfl
@[simp] theorem emits_intake (s : State) (l : List Out) : (s.emits l).intake = s.intake := rfl
@[simp] theorem emits_tok (s : State) (l : List Out) : (s.emits l).tok = s.tok := rfl
@[simp] theorem emits_comp (s : State) (l : List Out) : (s.emits l).comp = s.comp := rfl
@[simp] theorem emits_grade (s : State) (l : List Out) : (s.emits l).grade = s.grade := rfl
@[simp] theorem emits_deck (s : State) (l : List Out) : (s.emits l).deck = s.deck := rfl
@[simp] theorem emits_yard (s : State) (l : List Out) : (s.emits l).yard = s.yard := rfl
@[simp] theorem emits_lookout (s : State) (l : List Out) : (s.emits l).lookout = s.lookout := rfl
@[simp] theorem emits_landing (s : State) (l : List Out) : (s.emits l).landing = s.landing := rfl
@[simp] theorem emits_skd (s : State) (l : List Out) : (s.emits l).skd = s.skd := rfl
@[simp] theorem emits_out (s : State) (l : List Out) : (s.emits l).out = s.out ++ l := rfl
@[simp] theorem emits_status (s : State) (l : List Out) : (s.emits l).status = s.status := rfl
@[simp] theorem emits_freeCtr (s : State) (l : List Out) : (s.emits l).freeCtr = s.freeCtr := rfl
@[simp] theorem emits_pending (s : State) (l : List Out) : (s.emits l).pending = s.pending := rfl
@[simp] theorem num_emits (s : State) (l : List Out) (j : Nat) : (s.emits l).num j = s.num j := rfl
@[simp] theorem blob_emits (s : State) (l : List Out) (j : Nat) : (s.emits l).blob j = s.blob j := rfl
@[simp] theorem ver_emits (s : State) (l : List Out) (j : Nat) : (s.emits l).ver j = s.ver j := rfl
@[simp] theorem ends_dev (s : State) (c : Nat) : (s.ends c).dev = s.dev := rfl
@[simp] theorem ends_od (s : State) (c : Nat) : (s.ends c).od = s.od := rfl
@[simp] theorem ends_log (s : State) (c : Nat) : (s.ends c).log = s.log := rfl
@[simp] theorem ends_mgmt (s : State) (c : Nat) : (s.ends c).mgmt = s.mgmt := rfl
@[simp] theorem ends_nv (s : State) (c : Nat) : (s.ends c).nv = s.nv := rfl
@[simp] theorem ends_sched (s : State) (c : Nat) : (s.ends c).sched = s.sched := rfl
@[simp] theorem ends_rc (s : State) (c : Nat) : (s.ends c).rc = s.rc := rfl
@[simp] theorem ends_stand (s : State) (c : Nat) : (s.ends c).stand = s.stand := rfl
@[simp] theorem ends_sec (s : State) (c : Nat) : (s.ends c).sec = s.sec := rfl
@[simp] theorem ends_pwr (s : State) (c : Nat) : (s.ends c).pwr = s.pwr := rfl
@[simp] theorem ends_mem (s : State) (c : Nat) : (s.ends c).mem = s.mem := rfl
@[simp] theorem ends_chips (s : State) (c : Nat) : (s.ends c).chips = s.chips := rfl
@[simp] theorem ends_dec (s : State) (c : Nat) : (s.ends c).dec = s.dec := rfl
@[simp] theorem ends_intake (s : State) (c : Nat) : (s.ends c).intake = s.intake := rfl
@[simp] theorem ends_tok (s : State) (c : Nat) : (s.ends c).tok = s.tok := rfl
@[simp] theorem ends_comp (s : State) (c : Nat) : (s.ends c).comp = s.comp := rfl
@[simp] theorem ends_grade (s : State) (c : Nat) : (s.ends c).grade = s.grade := rfl
@[simp] theorem ends_deck (s : State) (c : Nat) : (s.ends c).deck = s.deck := rfl
@[simp] theorem ends_yard (s : State) (c : Nat) : (s.ends c).yard = s.yard := rfl
@[simp] theorem ends_lookout (s : State) (c : Nat) : (s.ends c).lookout = s.lookout := rfl
@[simp] theorem ends_landing (s : State) (c : Nat) : (s.ends c).landing = s.landing := rfl
@[simp] theorem ends_skd (s : State) (c : Nat) : (s.ends c).skd = s.skd := rfl
@[simp] theorem ends_out (s : State) (c : Nat) : (s.ends c).out = s.out := rfl
@[simp] theorem ends_status (s : State) (c : Nat) : (s.ends c).status = c := rfl
@[simp] theorem ends_freeCtr (s : State) (c : Nat) : (s.ends c).freeCtr = s.freeCtr := rfl
@[simp] theorem ends_pending (s : State) (c : Nat) : (s.ends c).pending = s.pending := rfl
@[simp] theorem num_ends (s : State) (c : Nat) (j : Nat) : (s.ends c).num j = s.num j := rfl
@[simp] theorem blob_ends (s : State) (c : Nat) (j : Nat) : (s.ends c).blob j = s.blob j := rfl
@[simp] theorem ver_ends (s : State) (c : Nat) (j : Nat) : (s.ends c).ver j = s.ver j := rfl
@[simp] theorem drawn_dev (s : State) : (s.drawn).dev = s.dev := rfl
@[simp] theorem drawn_od (s : State) : (s.drawn).od = s.od := rfl
@[simp] theorem drawn_log (s : State) : (s.drawn).log = s.log := rfl
@[simp] theorem drawn_mgmt (s : State) : (s.drawn).mgmt = s.mgmt := rfl
@[simp] theorem drawn_nv (s : State) : (s.drawn).nv = s.nv := rfl
@[simp] theorem drawn_sched (s : State) : (s.drawn).sched = s.sched := rfl
@[simp] theorem drawn_rc (s : State) : (s.drawn).rc = s.rc := rfl
@[simp] theorem drawn_stand (s : State) : (s.drawn).stand = s.stand := rfl
@[simp] theorem drawn_sec (s : State) : (s.drawn).sec = s.sec := rfl
@[simp] theorem drawn_pwr (s : State) : (s.drawn).pwr = s.pwr := rfl
@[simp] theorem drawn_mem (s : State) : (s.drawn).mem = s.mem := rfl
@[simp] theorem drawn_chips (s : State) : (s.drawn).chips = s.chips := rfl
@[simp] theorem drawn_dec (s : State) : (s.drawn).dec = s.dec := rfl
@[simp] theorem drawn_intake (s : State) : (s.drawn).intake = s.intake := rfl
@[simp] theorem drawn_tok (s : State) : (s.drawn).tok = s.tok := rfl
@[simp] theorem drawn_comp (s : State) : (s.drawn).comp = s.comp := rfl
@[simp] theorem drawn_grade (s : State) : (s.drawn).grade = s.grade := rfl
@[simp] theorem drawn_deck (s : State) : (s.drawn).deck = s.deck := rfl
@[simp] theorem drawn_yard (s : State) : (s.drawn).yard = s.yard := rfl
@[simp] theorem drawn_lookout (s : State) : (s.drawn).lookout = s.lookout := rfl
@[simp] theorem drawn_landing (s : State) : (s.drawn).landing = s.landing := rfl
@[simp] theorem drawn_skd (s : State) : (s.drawn).skd = s.skd := rfl
@[simp] theorem drawn_out (s : State) : (s.drawn).out = s.out := rfl
@[simp] theorem drawn_status (s : State) : (s.drawn).status = s.status := rfl
@[simp] theorem drawn_freeCtr (s : State) : (s.drawn).freeCtr = s.freeCtr + 1 := rfl
@[simp] theorem drawn_pending (s : State) : (s.drawn).pending = s.pending := rfl
@[simp] theorem num_drawn (s : State) (j : Nat) : (s.drawn).num j = s.num j := rfl
@[simp] theorem blob_drawn (s : State) (j : Nat) : (s.drawn).blob j = s.blob j := rfl
@[simp] theorem ver_drawn (s : State) (j : Nat) : (s.drawn).ver j = s.ver j := rfl

/-! ### The units: an update replaces one part -/

@[simp] theorem putPwr_dev (s : State) (x : Power) : (s.putPwr x).dev = s.dev := rfl
@[simp] theorem putPwr_od (s : State) (x : Power) : (s.putPwr x).od = s.od := rfl
@[simp] theorem putPwr_log (s : State) (x : Power) : (s.putPwr x).log = s.log := rfl
@[simp] theorem putPwr_mgmt (s : State) (x : Power) : (s.putPwr x).mgmt = s.mgmt := rfl
@[simp] theorem putPwr_nv (s : State) (x : Power) : (s.putPwr x).nv = s.nv := rfl
@[simp] theorem putPwr_sched (s : State) (x : Power) : (s.putPwr x).sched = s.sched := rfl
@[simp] theorem putPwr_rc (s : State) (x : Power) : (s.putPwr x).rc = s.rc := rfl
@[simp] theorem putPwr_stand (s : State) (x : Power) : (s.putPwr x).stand = s.stand := rfl
@[simp] theorem putPwr_sec (s : State) (x : Power) : (s.putPwr x).sec = s.sec := rfl
@[simp] theorem putPwr_pwr (s : State) (x : Power) : (s.putPwr x).pwr = x := rfl
@[simp] theorem putPwr_mem (s : State) (x : Power) : (s.putPwr x).mem = s.mem := rfl
@[simp] theorem putPwr_chips (s : State) (x : Power) : (s.putPwr x).chips = s.chips := rfl
@[simp] theorem putPwr_dec (s : State) (x : Power) : (s.putPwr x).dec = s.dec := rfl
@[simp] theorem putPwr_intake (s : State) (x : Power) : (s.putPwr x).intake = s.intake := rfl
@[simp] theorem putPwr_tok (s : State) (x : Power) : (s.putPwr x).tok = s.tok := rfl
@[simp] theorem putPwr_comp (s : State) (x : Power) : (s.putPwr x).comp = s.comp := rfl
@[simp] theorem putPwr_grade (s : State) (x : Power) : (s.putPwr x).grade = s.grade := rfl
@[simp] theorem putPwr_deck (s : State) (x : Power) : (s.putPwr x).deck = s.deck := rfl
@[simp] theorem putPwr_yard (s : State) (x : Power) : (s.putPwr x).yard = s.yard := rfl
@[simp] theorem putPwr_lookout (s : State) (x : Power) : (s.putPwr x).lookout = s.lookout := rfl
@[simp] theorem putPwr_landing (s : State) (x : Power) : (s.putPwr x).landing = s.landing := rfl
@[simp] theorem putPwr_skd (s : State) (x : Power) : (s.putPwr x).skd = s.skd := rfl
@[simp] theorem putPwr_out (s : State) (x : Power) : (s.putPwr x).out = s.out := rfl
@[simp] theorem putPwr_status (s : State) (x : Power) : (s.putPwr x).status = s.status := rfl
@[simp] theorem putPwr_freeCtr (s : State) (x : Power) : (s.putPwr x).freeCtr = s.freeCtr := rfl
@[simp] theorem putPwr_pending (s : State) (x : Power) : (s.putPwr x).pending = s.pending := rfl
@[simp] theorem num_putPwr (s : State) (x : Power) (j : Nat) : (s.putPwr x).num j = s.num j := rfl
@[simp] theorem blob_putPwr (s : State) (x : Power) (j : Nat) : (s.putPwr x).blob j = s.blob j := rfl
@[simp] theorem ver_putPwr (s : State) (x : Power) (j : Nat) : (s.putPwr x).ver j = s.ver j := rfl
@[simp] theorem putSched_dev (s : State) (x : Sched) : (s.putSched x).dev = s.dev := rfl
@[simp] theorem putSched_od (s : State) (x : Sched) : (s.putSched x).od = s.od := rfl
@[simp] theorem putSched_log (s : State) (x : Sched) : (s.putSched x).log = s.log := rfl
@[simp] theorem putSched_mgmt (s : State) (x : Sched) : (s.putSched x).mgmt = s.mgmt := rfl
@[simp] theorem putSched_nv (s : State) (x : Sched) : (s.putSched x).nv = s.nv := rfl
@[simp] theorem putSched_sched (s : State) (x : Sched) : (s.putSched x).sched = x := rfl
@[simp] theorem putSched_rc (s : State) (x : Sched) : (s.putSched x).rc = s.rc := rfl
@[simp] theorem putSched_stand (s : State) (x : Sched) : (s.putSched x).stand = s.stand := rfl
@[simp] theorem putSched_sec (s : State) (x : Sched) : (s.putSched x).sec = s.sec := rfl
@[simp] theorem putSched_pwr (s : State) (x : Sched) : (s.putSched x).pwr = s.pwr := rfl
@[simp] theorem putSched_mem (s : State) (x : Sched) : (s.putSched x).mem = s.mem := rfl
@[simp] theorem putSched_chips (s : State) (x : Sched) : (s.putSched x).chips = s.chips := rfl
@[simp] theorem putSched_dec (s : State) (x : Sched) : (s.putSched x).dec = s.dec := rfl
@[simp] theorem putSched_intake (s : State) (x : Sched) : (s.putSched x).intake = s.intake := rfl
@[simp] theorem putSched_tok (s : State) (x : Sched) : (s.putSched x).tok = s.tok := rfl
@[simp] theorem putSched_comp (s : State) (x : Sched) : (s.putSched x).comp = s.comp := rfl
@[simp] theorem putSched_grade (s : State) (x : Sched) : (s.putSched x).grade = s.grade := rfl
@[simp] theorem putSched_deck (s : State) (x : Sched) : (s.putSched x).deck = s.deck := rfl
@[simp] theorem putSched_yard (s : State) (x : Sched) : (s.putSched x).yard = s.yard := rfl
@[simp] theorem putSched_lookout (s : State) (x : Sched) : (s.putSched x).lookout = s.lookout := rfl
@[simp] theorem putSched_landing (s : State) (x : Sched) : (s.putSched x).landing = s.landing := rfl
@[simp] theorem putSched_skd (s : State) (x : Sched) : (s.putSched x).skd = s.skd := rfl
@[simp] theorem putSched_out (s : State) (x : Sched) : (s.putSched x).out = s.out := rfl
@[simp] theorem putSched_status (s : State) (x : Sched) : (s.putSched x).status = s.status := rfl
@[simp] theorem putSched_freeCtr (s : State) (x : Sched) : (s.putSched x).freeCtr = s.freeCtr := rfl
@[simp] theorem putSched_pending (s : State) (x : Sched) : (s.putSched x).pending = s.pending := rfl
@[simp] theorem num_putSched (s : State) (x : Sched) (j : Nat) : (s.putSched x).num j = s.num j := rfl
@[simp] theorem blob_putSched (s : State) (x : Sched) (j : Nat) : (s.putSched x).blob j = s.blob j := rfl
@[simp] theorem ver_putSched (s : State) (x : Sched) (j : Nat) : (s.putSched x).ver j = s.ver j := rfl
@[simp] theorem putDeck_dev (s : State) (x : Deck) : (s.putDeck x).dev = s.dev := rfl
@[simp] theorem putDeck_od (s : State) (x : Deck) : (s.putDeck x).od = s.od := rfl
@[simp] theorem putDeck_log (s : State) (x : Deck) : (s.putDeck x).log = s.log := rfl
@[simp] theorem putDeck_mgmt (s : State) (x : Deck) : (s.putDeck x).mgmt = s.mgmt := rfl
@[simp] theorem putDeck_nv (s : State) (x : Deck) : (s.putDeck x).nv = s.nv := rfl
@[simp] theorem putDeck_sched (s : State) (x : Deck) : (s.putDeck x).sched = s.sched := rfl
@[simp] theorem putDeck_rc (s : State) (x : Deck) : (s.putDeck x).rc = s.rc := rfl
@[simp] theorem putDeck_stand (s : State) (x : Deck) : (s.putDeck x).stand = s.stand := rfl
@[simp] theorem putDeck_sec (s : State) (x : Deck) : (s.putDeck x).sec = s.sec := rfl
@[simp] theorem putDeck_pwr (s : State) (x : Deck) : (s.putDeck x).pwr = s.pwr := rfl
@[simp] theorem putDeck_mem (s : State) (x : Deck) : (s.putDeck x).mem = s.mem := rfl
@[simp] theorem putDeck_chips (s : State) (x : Deck) : (s.putDeck x).chips = s.chips := rfl
@[simp] theorem putDeck_dec (s : State) (x : Deck) : (s.putDeck x).dec = s.dec := rfl
@[simp] theorem putDeck_intake (s : State) (x : Deck) : (s.putDeck x).intake = s.intake := rfl
@[simp] theorem putDeck_tok (s : State) (x : Deck) : (s.putDeck x).tok = s.tok := rfl
@[simp] theorem putDeck_comp (s : State) (x : Deck) : (s.putDeck x).comp = s.comp := rfl
@[simp] theorem putDeck_grade (s : State) (x : Deck) : (s.putDeck x).grade = s.grade := rfl
@[simp] theorem putDeck_deck (s : State) (x : Deck) : (s.putDeck x).deck = x := rfl
@[simp] theorem putDeck_yard (s : State) (x : Deck) : (s.putDeck x).yard = s.yard := rfl
@[simp] theorem putDeck_lookout (s : State) (x : Deck) : (s.putDeck x).lookout = s.lookout := rfl
@[simp] theorem putDeck_landing (s : State) (x : Deck) : (s.putDeck x).landing = s.landing := rfl
@[simp] theorem putDeck_skd (s : State) (x : Deck) : (s.putDeck x).skd = s.skd := rfl
@[simp] theorem putDeck_out (s : State) (x : Deck) : (s.putDeck x).out = s.out := rfl
@[simp] theorem putDeck_status (s : State) (x : Deck) : (s.putDeck x).status = s.status := rfl
@[simp] theorem putDeck_freeCtr (s : State) (x : Deck) : (s.putDeck x).freeCtr = s.freeCtr := rfl
@[simp] theorem putDeck_pending (s : State) (x : Deck) : (s.putDeck x).pending = s.pending := rfl
@[simp] theorem num_putDeck (s : State) (x : Deck) (j : Nat) : (s.putDeck x).num j = s.num j := rfl
@[simp] theorem blob_putDeck (s : State) (x : Deck) (j : Nat) : (s.putDeck x).blob j = s.blob j := rfl
@[simp] theorem ver_putDeck (s : State) (x : Deck) (j : Nat) : (s.putDeck x).ver j = s.ver j := rfl
@[simp] theorem putDec_dev (s : State) (x : Decoders) : (s.putDec x).dev = s.dev := rfl
@[simp] theorem putDec_od (s : State) (x : Decoders) : (s.putDec x).od = s.od := rfl
@[simp] theorem putDec_log (s : State) (x : Decoders) : (s.putDec x).log = s.log := rfl
@[simp] theorem putDec_mgmt (s : State) (x : Decoders) : (s.putDec x).mgmt = s.mgmt := rfl
@[simp] theorem putDec_nv (s : State) (x : Decoders) : (s.putDec x).nv = s.nv := rfl
@[simp] theorem putDec_sched (s : State) (x : Decoders) : (s.putDec x).sched = s.sched := rfl
@[simp] theorem putDec_rc (s : State) (x : Decoders) : (s.putDec x).rc = s.rc := rfl
@[simp] theorem putDec_stand (s : State) (x : Decoders) : (s.putDec x).stand = s.stand := rfl
@[simp] theorem putDec_sec (s : State) (x : Decoders) : (s.putDec x).sec = s.sec := rfl
@[simp] theorem putDec_pwr (s : State) (x : Decoders) : (s.putDec x).pwr = s.pwr := rfl
@[simp] theorem putDec_mem (s : State) (x : Decoders) : (s.putDec x).mem = s.mem := rfl
@[simp] theorem putDec_chips (s : State) (x : Decoders) : (s.putDec x).chips = s.chips := rfl
@[simp] theorem putDec_dec (s : State) (x : Decoders) : (s.putDec x).dec = x := rfl
@[simp] theorem putDec_intake (s : State) (x : Decoders) : (s.putDec x).intake = s.intake := rfl
@[simp] theorem putDec_tok (s : State) (x : Decoders) : (s.putDec x).tok = s.tok := rfl
@[simp] theorem putDec_comp (s : State) (x : Decoders) : (s.putDec x).comp = s.comp := rfl
@[simp] theorem putDec_grade (s : State) (x : Decoders) : (s.putDec x).grade = s.grade := rfl
@[simp] theorem putDec_deck (s : State) (x : Decoders) : (s.putDec x).deck = s.deck := rfl
@[simp] theorem putDec_yard (s : State) (x : Decoders) : (s.putDec x).yard = s.yard := rfl
@[simp] theorem putDec_lookout (s : State) (x : Decoders) : (s.putDec x).lookout = s.lookout := rfl
@[simp] theorem putDec_landing (s : State) (x : Decoders) : (s.putDec x).landing = s.landing := rfl
@[simp] theorem putDec_skd (s : State) (x : Decoders) : (s.putDec x).skd = s.skd := rfl
@[simp] theorem putDec_out (s : State) (x : Decoders) : (s.putDec x).out = s.out := rfl
@[simp] theorem putDec_status (s : State) (x : Decoders) : (s.putDec x).status = s.status := rfl
@[simp] theorem putDec_freeCtr (s : State) (x : Decoders) : (s.putDec x).freeCtr = s.freeCtr := rfl
@[simp] theorem putDec_pending (s : State) (x : Decoders) : (s.putDec x).pending = s.pending := rfl
@[simp] theorem num_putDec (s : State) (x : Decoders) (j : Nat) : (s.putDec x).num j = s.num j := rfl
@[simp] theorem blob_putDec (s : State) (x : Decoders) (j : Nat) : (s.putDec x).blob j = s.blob j := rfl
@[simp] theorem ver_putDec (s : State) (x : Decoders) (j : Nat) : (s.putDec x).ver j = s.ver j := rfl
@[simp] theorem putSec_dev (s : State) (x : Security) : (s.putSec x).dev = s.dev := rfl
@[simp] theorem putSec_od (s : State) (x : Security) : (s.putSec x).od = s.od := rfl
@[simp] theorem putSec_log (s : State) (x : Security) : (s.putSec x).log = s.log := rfl
@[simp] theorem putSec_mgmt (s : State) (x : Security) : (s.putSec x).mgmt = s.mgmt := rfl
@[simp] theorem putSec_nv (s : State) (x : Security) : (s.putSec x).nv = s.nv := rfl
@[simp] theorem putSec_sched (s : State) (x : Security) : (s.putSec x).sched = s.sched := rfl
@[simp] theorem putSec_rc (s : State) (x : Security) : (s.putSec x).rc = s.rc := rfl
@[simp] theorem putSec_stand (s : State) (x : Security) : (s.putSec x).stand = s.stand := rfl
@[simp] theorem putSec_sec (s : State) (x : Security) : (s.putSec x).sec = x := rfl
@[simp] theorem putSec_pwr (s : State) (x : Security) : (s.putSec x).pwr = s.pwr := rfl
@[simp] theorem putSec_mem (s : State) (x : Security) : (s.putSec x).mem = s.mem := rfl
@[simp] theorem putSec_chips (s : State) (x : Security) : (s.putSec x).chips = s.chips := rfl
@[simp] theorem putSec_dec (s : State) (x : Security) : (s.putSec x).dec = s.dec := rfl
@[simp] theorem putSec_intake (s : State) (x : Security) : (s.putSec x).intake = s.intake := rfl
@[simp] theorem putSec_tok (s : State) (x : Security) : (s.putSec x).tok = s.tok := rfl
@[simp] theorem putSec_comp (s : State) (x : Security) : (s.putSec x).comp = s.comp := rfl
@[simp] theorem putSec_grade (s : State) (x : Security) : (s.putSec x).grade = s.grade := rfl
@[simp] theorem putSec_deck (s : State) (x : Security) : (s.putSec x).deck = s.deck := rfl
@[simp] theorem putSec_yard (s : State) (x : Security) : (s.putSec x).yard = s.yard := rfl
@[simp] theorem putSec_lookout (s : State) (x : Security) : (s.putSec x).lookout = s.lookout := rfl
@[simp] theorem putSec_landing (s : State) (x : Security) : (s.putSec x).landing = s.landing := rfl
@[simp] theorem putSec_skd (s : State) (x : Security) : (s.putSec x).skd = s.skd := rfl
@[simp] theorem putSec_out (s : State) (x : Security) : (s.putSec x).out = s.out := rfl
@[simp] theorem putSec_status (s : State) (x : Security) : (s.putSec x).status = s.status := rfl
@[simp] theorem putSec_freeCtr (s : State) (x : Security) : (s.putSec x).freeCtr = s.freeCtr := rfl
@[simp] theorem putSec_pending (s : State) (x : Security) : (s.putSec x).pending = s.pending := rfl
@[simp] theorem num_putSec (s : State) (x : Security) (j : Nat) : (s.putSec x).num j = s.num j := rfl
@[simp] theorem blob_putSec (s : State) (x : Security) (j : Nat) : (s.putSec x).blob j = s.blob j := rfl
@[simp] theorem ver_putSec (s : State) (x : Security) (j : Nat) : (s.putSec x).ver j = s.ver j := rfl
@[simp] theorem putTok_dev (s : State) (x : Tokens) : (s.putTok x).dev = s.dev := rfl
@[simp] theorem putTok_od (s : State) (x : Tokens) : (s.putTok x).od = s.od := rfl
@[simp] theorem putTok_log (s : State) (x : Tokens) : (s.putTok x).log = s.log := rfl
@[simp] theorem putTok_mgmt (s : State) (x : Tokens) : (s.putTok x).mgmt = s.mgmt := rfl
@[simp] theorem putTok_nv (s : State) (x : Tokens) : (s.putTok x).nv = s.nv := rfl
@[simp] theorem putTok_sched (s : State) (x : Tokens) : (s.putTok x).sched = s.sched := rfl
@[simp] theorem putTok_rc (s : State) (x : Tokens) : (s.putTok x).rc = s.rc := rfl
@[simp] theorem putTok_stand (s : State) (x : Tokens) : (s.putTok x).stand = s.stand := rfl
@[simp] theorem putTok_sec (s : State) (x : Tokens) : (s.putTok x).sec = s.sec := rfl
@[simp] theorem putTok_pwr (s : State) (x : Tokens) : (s.putTok x).pwr = s.pwr := rfl
@[simp] theorem putTok_mem (s : State) (x : Tokens) : (s.putTok x).mem = s.mem := rfl
@[simp] theorem putTok_chips (s : State) (x : Tokens) : (s.putTok x).chips = s.chips := rfl
@[simp] theorem putTok_dec (s : State) (x : Tokens) : (s.putTok x).dec = s.dec := rfl
@[simp] theorem putTok_intake (s : State) (x : Tokens) : (s.putTok x).intake = s.intake := rfl
@[simp] theorem putTok_tok (s : State) (x : Tokens) : (s.putTok x).tok = x := rfl
@[simp] theorem putTok_comp (s : State) (x : Tokens) : (s.putTok x).comp = s.comp := rfl
@[simp] theorem putTok_grade (s : State) (x : Tokens) : (s.putTok x).grade = s.grade := rfl
@[simp] theorem putTok_deck (s : State) (x : Tokens) : (s.putTok x).deck = s.deck := rfl
@[simp] theorem putTok_yard (s : State) (x : Tokens) : (s.putTok x).yard = s.yard := rfl
@[simp] theorem putTok_lookout (s : State) (x : Tokens) : (s.putTok x).lookout = s.lookout := rfl
@[simp] theorem putTok_landing (s : State) (x : Tokens) : (s.putTok x).landing = s.landing := rfl
@[simp] theorem putTok_skd (s : State) (x : Tokens) : (s.putTok x).skd = s.skd := rfl
@[simp] theorem putTok_out (s : State) (x : Tokens) : (s.putTok x).out = s.out := rfl
@[simp] theorem putTok_status (s : State) (x : Tokens) : (s.putTok x).status = s.status := rfl
@[simp] theorem putTok_freeCtr (s : State) (x : Tokens) : (s.putTok x).freeCtr = s.freeCtr := rfl
@[simp] theorem putTok_pending (s : State) (x : Tokens) : (s.putTok x).pending = s.pending := rfl
@[simp] theorem num_putTok (s : State) (x : Tokens) (j : Nat) : (s.putTok x).num j = s.num j := rfl
@[simp] theorem blob_putTok (s : State) (x : Tokens) (j : Nat) : (s.putTok x).blob j = s.blob j := rfl
@[simp] theorem ver_putTok (s : State) (x : Tokens) (j : Nat) : (s.putTok x).ver j = s.ver j := rfl
@[simp] theorem putSkd_dev (s : State) (x : Skidder) : (s.putSkd x).dev = s.dev := rfl
@[simp] theorem putSkd_od (s : State) (x : Skidder) : (s.putSkd x).od = s.od := rfl
@[simp] theorem putSkd_log (s : State) (x : Skidder) : (s.putSkd x).log = s.log := rfl
@[simp] theorem putSkd_mgmt (s : State) (x : Skidder) : (s.putSkd x).mgmt = s.mgmt := rfl
@[simp] theorem putSkd_nv (s : State) (x : Skidder) : (s.putSkd x).nv = s.nv := rfl
@[simp] theorem putSkd_sched (s : State) (x : Skidder) : (s.putSkd x).sched = s.sched := rfl
@[simp] theorem putSkd_rc (s : State) (x : Skidder) : (s.putSkd x).rc = s.rc := rfl
@[simp] theorem putSkd_stand (s : State) (x : Skidder) : (s.putSkd x).stand = s.stand := rfl
@[simp] theorem putSkd_sec (s : State) (x : Skidder) : (s.putSkd x).sec = s.sec := rfl
@[simp] theorem putSkd_pwr (s : State) (x : Skidder) : (s.putSkd x).pwr = s.pwr := rfl
@[simp] theorem putSkd_mem (s : State) (x : Skidder) : (s.putSkd x).mem = s.mem := rfl
@[simp] theorem putSkd_chips (s : State) (x : Skidder) : (s.putSkd x).chips = s.chips := rfl
@[simp] theorem putSkd_dec (s : State) (x : Skidder) : (s.putSkd x).dec = s.dec := rfl
@[simp] theorem putSkd_intake (s : State) (x : Skidder) : (s.putSkd x).intake = s.intake := rfl
@[simp] theorem putSkd_tok (s : State) (x : Skidder) : (s.putSkd x).tok = s.tok := rfl
@[simp] theorem putSkd_comp (s : State) (x : Skidder) : (s.putSkd x).comp = s.comp := rfl
@[simp] theorem putSkd_grade (s : State) (x : Skidder) : (s.putSkd x).grade = s.grade := rfl
@[simp] theorem putSkd_deck (s : State) (x : Skidder) : (s.putSkd x).deck = s.deck := rfl
@[simp] theorem putSkd_yard (s : State) (x : Skidder) : (s.putSkd x).yard = s.yard := rfl
@[simp] theorem putSkd_lookout (s : State) (x : Skidder) : (s.putSkd x).lookout = s.lookout := rfl
@[simp] theorem putSkd_landing (s : State) (x : Skidder) : (s.putSkd x).landing = s.landing := rfl
@[simp] theorem putSkd_skd (s : State) (x : Skidder) : (s.putSkd x).skd = x := rfl
@[simp] theorem putSkd_out (s : State) (x : Skidder) : (s.putSkd x).out = s.out := rfl
@[simp] theorem putSkd_status (s : State) (x : Skidder) : (s.putSkd x).status = s.status := rfl
@[simp] theorem putSkd_freeCtr (s : State) (x : Skidder) : (s.putSkd x).freeCtr = s.freeCtr := rfl
@[simp] theorem putSkd_pending (s : State) (x : Skidder) : (s.putSkd x).pending = s.pending := rfl
@[simp] theorem num_putSkd (s : State) (x : Skidder) (j : Nat) : (s.putSkd x).num j = s.num j := rfl
@[simp] theorem blob_putSkd (s : State) (x : Skidder) (j : Nat) : (s.putSkd x).blob j = s.blob j := rfl
@[simp] theorem ver_putSkd (s : State) (x : Skidder) (j : Nat) : (s.putSkd x).ver j = s.ver j := rfl
@[simp] theorem putStand_dev (s : State) (x : Stand) : (s.putStand x).dev = s.dev := rfl
@[simp] theorem putStand_od (s : State) (x : Stand) : (s.putStand x).od = s.od := rfl
@[simp] theorem putStand_log (s : State) (x : Stand) : (s.putStand x).log = s.log := rfl
@[simp] theorem putStand_mgmt (s : State) (x : Stand) : (s.putStand x).mgmt = s.mgmt := rfl
@[simp] theorem putStand_nv (s : State) (x : Stand) : (s.putStand x).nv = s.nv := rfl
@[simp] theorem putStand_sched (s : State) (x : Stand) : (s.putStand x).sched = s.sched := rfl
@[simp] theorem putStand_rc (s : State) (x : Stand) : (s.putStand x).rc = s.rc := rfl
@[simp] theorem putStand_stand (s : State) (x : Stand) : (s.putStand x).stand = x := rfl
@[simp] theorem putStand_sec (s : State) (x : Stand) : (s.putStand x).sec = s.sec := rfl
@[simp] theorem putStand_pwr (s : State) (x : Stand) : (s.putStand x).pwr = s.pwr := rfl
@[simp] theorem putStand_mem (s : State) (x : Stand) : (s.putStand x).mem = s.mem := rfl
@[simp] theorem putStand_chips (s : State) (x : Stand) : (s.putStand x).chips = s.chips := rfl
@[simp] theorem putStand_dec (s : State) (x : Stand) : (s.putStand x).dec = s.dec := rfl
@[simp] theorem putStand_intake (s : State) (x : Stand) : (s.putStand x).intake = s.intake := rfl
@[simp] theorem putStand_tok (s : State) (x : Stand) : (s.putStand x).tok = s.tok := rfl
@[simp] theorem putStand_comp (s : State) (x : Stand) : (s.putStand x).comp = s.comp := rfl
@[simp] theorem putStand_grade (s : State) (x : Stand) : (s.putStand x).grade = s.grade := rfl
@[simp] theorem putStand_deck (s : State) (x : Stand) : (s.putStand x).deck = s.deck := rfl
@[simp] theorem putStand_yard (s : State) (x : Stand) : (s.putStand x).yard = s.yard := rfl
@[simp] theorem putStand_lookout (s : State) (x : Stand) : (s.putStand x).lookout = s.lookout := rfl
@[simp] theorem putStand_landing (s : State) (x : Stand) : (s.putStand x).landing = s.landing := rfl
@[simp] theorem putStand_skd (s : State) (x : Stand) : (s.putStand x).skd = s.skd := rfl
@[simp] theorem putStand_out (s : State) (x : Stand) : (s.putStand x).out = s.out := rfl
@[simp] theorem putStand_status (s : State) (x : Stand) : (s.putStand x).status = s.status := rfl
@[simp] theorem putStand_freeCtr (s : State) (x : Stand) : (s.putStand x).freeCtr = s.freeCtr := rfl
@[simp] theorem putStand_pending (s : State) (x : Stand) : (s.putStand x).pending = s.pending := rfl
@[simp] theorem num_putStand (s : State) (x : Stand) (j : Nat) : (s.putStand x).num j = s.num j := rfl
@[simp] theorem blob_putStand (s : State) (x : Stand) (j : Nat) : (s.putStand x).blob j = s.blob j := rfl
@[simp] theorem ver_putStand (s : State) (x : Stand) (j : Nat) : (s.putStand x).ver j = s.ver j := rfl
@[simp] theorem putRc_dev (s : State) (x : RingCount) : (s.putRc x).dev = s.dev := rfl
@[simp] theorem putRc_od (s : State) (x : RingCount) : (s.putRc x).od = s.od := rfl
@[simp] theorem putRc_log (s : State) (x : RingCount) : (s.putRc x).log = s.log := rfl
@[simp] theorem putRc_mgmt (s : State) (x : RingCount) : (s.putRc x).mgmt = s.mgmt := rfl
@[simp] theorem putRc_nv (s : State) (x : RingCount) : (s.putRc x).nv = s.nv := rfl
@[simp] theorem putRc_sched (s : State) (x : RingCount) : (s.putRc x).sched = s.sched := rfl
@[simp] theorem putRc_rc (s : State) (x : RingCount) : (s.putRc x).rc = x := rfl
@[simp] theorem putRc_stand (s : State) (x : RingCount) : (s.putRc x).stand = s.stand := rfl
@[simp] theorem putRc_sec (s : State) (x : RingCount) : (s.putRc x).sec = s.sec := rfl
@[simp] theorem putRc_pwr (s : State) (x : RingCount) : (s.putRc x).pwr = s.pwr := rfl
@[simp] theorem putRc_mem (s : State) (x : RingCount) : (s.putRc x).mem = s.mem := rfl
@[simp] theorem putRc_chips (s : State) (x : RingCount) : (s.putRc x).chips = s.chips := rfl
@[simp] theorem putRc_dec (s : State) (x : RingCount) : (s.putRc x).dec = s.dec := rfl
@[simp] theorem putRc_intake (s : State) (x : RingCount) : (s.putRc x).intake = s.intake := rfl
@[simp] theorem putRc_tok (s : State) (x : RingCount) : (s.putRc x).tok = s.tok := rfl
@[simp] theorem putRc_comp (s : State) (x : RingCount) : (s.putRc x).comp = s.comp := rfl
@[simp] theorem putRc_grade (s : State) (x : RingCount) : (s.putRc x).grade = s.grade := rfl
@[simp] theorem putRc_deck (s : State) (x : RingCount) : (s.putRc x).deck = s.deck := rfl
@[simp] theorem putRc_yard (s : State) (x : RingCount) : (s.putRc x).yard = s.yard := rfl
@[simp] theorem putRc_lookout (s : State) (x : RingCount) : (s.putRc x).lookout = s.lookout := rfl
@[simp] theorem putRc_landing (s : State) (x : RingCount) : (s.putRc x).landing = s.landing := rfl
@[simp] theorem putRc_skd (s : State) (x : RingCount) : (s.putRc x).skd = s.skd := rfl
@[simp] theorem putRc_out (s : State) (x : RingCount) : (s.putRc x).out = s.out := rfl
@[simp] theorem putRc_status (s : State) (x : RingCount) : (s.putRc x).status = s.status := rfl
@[simp] theorem putRc_freeCtr (s : State) (x : RingCount) : (s.putRc x).freeCtr = s.freeCtr := rfl
@[simp] theorem putRc_pending (s : State) (x : RingCount) : (s.putRc x).pending = s.pending := rfl
@[simp] theorem num_putRc (s : State) (x : RingCount) (j : Nat) : (s.putRc x).num j = s.num j := rfl
@[simp] theorem blob_putRc (s : State) (x : RingCount) (j : Nat) : (s.putRc x).blob j = s.blob j := rfl
@[simp] theorem ver_putRc (s : State) (x : RingCount) (j : Nat) : (s.putRc x).ver j = s.ver j := rfl
@[simp] theorem putYard_dev (s : State) (x : Yard) : (s.putYard x).dev = s.dev := rfl
@[simp] theorem putYard_od (s : State) (x : Yard) : (s.putYard x).od = s.od := rfl
@[simp] theorem putYard_log (s : State) (x : Yard) : (s.putYard x).log = s.log := rfl
@[simp] theorem putYard_mgmt (s : State) (x : Yard) : (s.putYard x).mgmt = s.mgmt := rfl
@[simp] theorem putYard_nv (s : State) (x : Yard) : (s.putYard x).nv = s.nv := rfl
@[simp] theorem putYard_sched (s : State) (x : Yard) : (s.putYard x).sched = s.sched := rfl
@[simp] theorem putYard_rc (s : State) (x : Yard) : (s.putYard x).rc = s.rc := rfl
@[simp] theorem putYard_stand (s : State) (x : Yard) : (s.putYard x).stand = s.stand := rfl
@[simp] theorem putYard_sec (s : State) (x : Yard) : (s.putYard x).sec = s.sec := rfl
@[simp] theorem putYard_pwr (s : State) (x : Yard) : (s.putYard x).pwr = s.pwr := rfl
@[simp] theorem putYard_mem (s : State) (x : Yard) : (s.putYard x).mem = s.mem := rfl
@[simp] theorem putYard_chips (s : State) (x : Yard) : (s.putYard x).chips = s.chips := rfl
@[simp] theorem putYard_dec (s : State) (x : Yard) : (s.putYard x).dec = s.dec := rfl
@[simp] theorem putYard_intake (s : State) (x : Yard) : (s.putYard x).intake = s.intake := rfl
@[simp] theorem putYard_tok (s : State) (x : Yard) : (s.putYard x).tok = s.tok := rfl
@[simp] theorem putYard_comp (s : State) (x : Yard) : (s.putYard x).comp = s.comp := rfl
@[simp] theorem putYard_grade (s : State) (x : Yard) : (s.putYard x).grade = s.grade := rfl
@[simp] theorem putYard_deck (s : State) (x : Yard) : (s.putYard x).deck = s.deck := rfl
@[simp] theorem putYard_yard (s : State) (x : Yard) : (s.putYard x).yard = x := rfl
@[simp] theorem putYard_lookout (s : State) (x : Yard) : (s.putYard x).lookout = s.lookout := rfl
@[simp] theorem putYard_landing (s : State) (x : Yard) : (s.putYard x).landing = s.landing := rfl
@[simp] theorem putYard_skd (s : State) (x : Yard) : (s.putYard x).skd = s.skd := rfl
@[simp] theorem putYard_out (s : State) (x : Yard) : (s.putYard x).out = s.out := rfl
@[simp] theorem putYard_status (s : State) (x : Yard) : (s.putYard x).status = s.status := rfl
@[simp] theorem putYard_freeCtr (s : State) (x : Yard) : (s.putYard x).freeCtr = s.freeCtr := rfl
@[simp] theorem putYard_pending (s : State) (x : Yard) : (s.putYard x).pending = s.pending := rfl
@[simp] theorem num_putYard (s : State) (x : Yard) (j : Nat) : (s.putYard x).num j = s.num j := rfl
@[simp] theorem blob_putYard (s : State) (x : Yard) (j : Nat) : (s.putYard x).blob j = s.blob j := rfl
@[simp] theorem ver_putYard (s : State) (x : Yard) (j : Nat) : (s.putYard x).ver j = s.ver j := rfl
@[simp] theorem putLanding_dev (s : State) (x : Landing) : (s.putLanding x).dev = s.dev := rfl
@[simp] theorem putLanding_od (s : State) (x : Landing) : (s.putLanding x).od = s.od := rfl
@[simp] theorem putLanding_log (s : State) (x : Landing) : (s.putLanding x).log = s.log := rfl
@[simp] theorem putLanding_mgmt (s : State) (x : Landing) : (s.putLanding x).mgmt = s.mgmt := rfl
@[simp] theorem putLanding_nv (s : State) (x : Landing) : (s.putLanding x).nv = s.nv := rfl
@[simp] theorem putLanding_sched (s : State) (x : Landing) : (s.putLanding x).sched = s.sched := rfl
@[simp] theorem putLanding_rc (s : State) (x : Landing) : (s.putLanding x).rc = s.rc := rfl
@[simp] theorem putLanding_stand (s : State) (x : Landing) : (s.putLanding x).stand = s.stand := rfl
@[simp] theorem putLanding_sec (s : State) (x : Landing) : (s.putLanding x).sec = s.sec := rfl
@[simp] theorem putLanding_pwr (s : State) (x : Landing) : (s.putLanding x).pwr = s.pwr := rfl
@[simp] theorem putLanding_mem (s : State) (x : Landing) : (s.putLanding x).mem = s.mem := rfl
@[simp] theorem putLanding_chips (s : State) (x : Landing) : (s.putLanding x).chips = s.chips := rfl
@[simp] theorem putLanding_dec (s : State) (x : Landing) : (s.putLanding x).dec = s.dec := rfl
@[simp] theorem putLanding_intake (s : State) (x : Landing) : (s.putLanding x).intake = s.intake := rfl
@[simp] theorem putLanding_tok (s : State) (x : Landing) : (s.putLanding x).tok = s.tok := rfl
@[simp] theorem putLanding_comp (s : State) (x : Landing) : (s.putLanding x).comp = s.comp := rfl
@[simp] theorem putLanding_grade (s : State) (x : Landing) : (s.putLanding x).grade = s.grade := rfl
@[simp] theorem putLanding_deck (s : State) (x : Landing) : (s.putLanding x).deck = s.deck := rfl
@[simp] theorem putLanding_yard (s : State) (x : Landing) : (s.putLanding x).yard = s.yard := rfl
@[simp] theorem putLanding_lookout (s : State) (x : Landing) : (s.putLanding x).lookout = s.lookout := rfl
@[simp] theorem putLanding_landing (s : State) (x : Landing) : (s.putLanding x).landing = x := rfl
@[simp] theorem putLanding_skd (s : State) (x : Landing) : (s.putLanding x).skd = s.skd := rfl
@[simp] theorem putLanding_out (s : State) (x : Landing) : (s.putLanding x).out = s.out := rfl
@[simp] theorem putLanding_status (s : State) (x : Landing) : (s.putLanding x).status = s.status := rfl
@[simp] theorem putLanding_freeCtr (s : State) (x : Landing) : (s.putLanding x).freeCtr = s.freeCtr := rfl
@[simp] theorem putLanding_pending (s : State) (x : Landing) : (s.putLanding x).pending = s.pending := rfl
@[simp] theorem num_putLanding (s : State) (x : Landing) (j : Nat) : (s.putLanding x).num j = s.num j := rfl
@[simp] theorem blob_putLanding (s : State) (x : Landing) (j : Nat) : (s.putLanding x).blob j = s.blob j := rfl
@[simp] theorem ver_putLanding (s : State) (x : Landing) (j : Nat) : (s.putLanding x).ver j = s.ver j := rfl
@[simp] theorem putComp_dev (s : State) (x : Compute) : (s.putComp x).dev = s.dev := rfl
@[simp] theorem putComp_od (s : State) (x : Compute) : (s.putComp x).od = s.od := rfl
@[simp] theorem putComp_log (s : State) (x : Compute) : (s.putComp x).log = s.log := rfl
@[simp] theorem putComp_mgmt (s : State) (x : Compute) : (s.putComp x).mgmt = s.mgmt := rfl
@[simp] theorem putComp_nv (s : State) (x : Compute) : (s.putComp x).nv = s.nv := rfl
@[simp] theorem putComp_sched (s : State) (x : Compute) : (s.putComp x).sched = s.sched := rfl
@[simp] theorem putComp_rc (s : State) (x : Compute) : (s.putComp x).rc = s.rc := rfl
@[simp] theorem putComp_stand (s : State) (x : Compute) : (s.putComp x).stand = s.stand := rfl
@[simp] theorem putComp_sec (s : State) (x : Compute) : (s.putComp x).sec = s.sec := rfl
@[simp] theorem putComp_pwr (s : State) (x : Compute) : (s.putComp x).pwr = s.pwr := rfl
@[simp] theorem putComp_mem (s : State) (x : Compute) : (s.putComp x).mem = s.mem := rfl
@[simp] theorem putComp_chips (s : State) (x : Compute) : (s.putComp x).chips = s.chips := rfl
@[simp] theorem putComp_dec (s : State) (x : Compute) : (s.putComp x).dec = s.dec := rfl
@[simp] theorem putComp_intake (s : State) (x : Compute) : (s.putComp x).intake = s.intake := rfl
@[simp] theorem putComp_tok (s : State) (x : Compute) : (s.putComp x).tok = s.tok := rfl
@[simp] theorem putComp_comp (s : State) (x : Compute) : (s.putComp x).comp = x := rfl
@[simp] theorem putComp_grade (s : State) (x : Compute) : (s.putComp x).grade = s.grade := rfl
@[simp] theorem putComp_deck (s : State) (x : Compute) : (s.putComp x).deck = s.deck := rfl
@[simp] theorem putComp_yard (s : State) (x : Compute) : (s.putComp x).yard = s.yard := rfl
@[simp] theorem putComp_lookout (s : State) (x : Compute) : (s.putComp x).lookout = s.lookout := rfl
@[simp] theorem putComp_landing (s : State) (x : Compute) : (s.putComp x).landing = s.landing := rfl
@[simp] theorem putComp_skd (s : State) (x : Compute) : (s.putComp x).skd = s.skd := rfl
@[simp] theorem putComp_out (s : State) (x : Compute) : (s.putComp x).out = s.out := rfl
@[simp] theorem putComp_status (s : State) (x : Compute) : (s.putComp x).status = s.status := rfl
@[simp] theorem putComp_freeCtr (s : State) (x : Compute) : (s.putComp x).freeCtr = s.freeCtr := rfl
@[simp] theorem putComp_pending (s : State) (x : Compute) : (s.putComp x).pending = s.pending := rfl
@[simp] theorem num_putComp (s : State) (x : Compute) (j : Nat) : (s.putComp x).num j = s.num j := rfl
@[simp] theorem blob_putComp (s : State) (x : Compute) (j : Nat) : (s.putComp x).blob j = s.blob j := rfl
@[simp] theorem ver_putComp (s : State) (x : Compute) (j : Nat) : (s.putComp x).ver j = s.ver j := rfl
@[simp] theorem putLk_dev (s : State) (x : Lookout) : (s.putLk x).dev = s.dev := rfl
@[simp] theorem putLk_od (s : State) (x : Lookout) : (s.putLk x).od = s.od := rfl
@[simp] theorem putLk_log (s : State) (x : Lookout) : (s.putLk x).log = s.log := rfl
@[simp] theorem putLk_mgmt (s : State) (x : Lookout) : (s.putLk x).mgmt = s.mgmt := rfl
@[simp] theorem putLk_nv (s : State) (x : Lookout) : (s.putLk x).nv = s.nv := rfl
@[simp] theorem putLk_sched (s : State) (x : Lookout) : (s.putLk x).sched = s.sched := rfl
@[simp] theorem putLk_rc (s : State) (x : Lookout) : (s.putLk x).rc = s.rc := rfl
@[simp] theorem putLk_stand (s : State) (x : Lookout) : (s.putLk x).stand = s.stand := rfl
@[simp] theorem putLk_sec (s : State) (x : Lookout) : (s.putLk x).sec = s.sec := rfl
@[simp] theorem putLk_pwr (s : State) (x : Lookout) : (s.putLk x).pwr = s.pwr := rfl
@[simp] theorem putLk_mem (s : State) (x : Lookout) : (s.putLk x).mem = s.mem := rfl
@[simp] theorem putLk_chips (s : State) (x : Lookout) : (s.putLk x).chips = s.chips := rfl
@[simp] theorem putLk_dec (s : State) (x : Lookout) : (s.putLk x).dec = s.dec := rfl
@[simp] theorem putLk_intake (s : State) (x : Lookout) : (s.putLk x).intake = s.intake := rfl
@[simp] theorem putLk_tok (s : State) (x : Lookout) : (s.putLk x).tok = s.tok := rfl
@[simp] theorem putLk_comp (s : State) (x : Lookout) : (s.putLk x).comp = s.comp := rfl
@[simp] theorem putLk_grade (s : State) (x : Lookout) : (s.putLk x).grade = s.grade := rfl
@[simp] theorem putLk_deck (s : State) (x : Lookout) : (s.putLk x).deck = s.deck := rfl
@[simp] theorem putLk_yard (s : State) (x : Lookout) : (s.putLk x).yard = s.yard := rfl
@[simp] theorem putLk_lookout (s : State) (x : Lookout) : (s.putLk x).lookout = x := rfl
@[simp] theorem putLk_landing (s : State) (x : Lookout) : (s.putLk x).landing = s.landing := rfl
@[simp] theorem putLk_skd (s : State) (x : Lookout) : (s.putLk x).skd = s.skd := rfl
@[simp] theorem putLk_out (s : State) (x : Lookout) : (s.putLk x).out = s.out := rfl
@[simp] theorem putLk_status (s : State) (x : Lookout) : (s.putLk x).status = s.status := rfl
@[simp] theorem putLk_freeCtr (s : State) (x : Lookout) : (s.putLk x).freeCtr = s.freeCtr := rfl
@[simp] theorem putLk_pending (s : State) (x : Lookout) : (s.putLk x).pending = s.pending := rfl
@[simp] theorem num_putLk (s : State) (x : Lookout) (j : Nat) : (s.putLk x).num j = s.num j := rfl
@[simp] theorem blob_putLk (s : State) (x : Lookout) (j : Nat) : (s.putLk x).blob j = s.blob j := rfl
@[simp] theorem ver_putLk (s : State) (x : Lookout) (j : Nat) : (s.putLk x).ver j = s.ver j := rfl

end Sys2Proof.Laws
end

