-- ==== Sys2Proof/Laws/Requests.lean ====
section
/-! SUPPORT. What a request that the device serves leaves: the state in which it ran, with its answer kept and sent. -/
namespace Sys2Proof.Laws
open Sys2Proof.Machine
set_option Elab.async false

/-- A command of a running device runs its operation. -/
theorem act_run {s : State} (h : s.running) (f : State → State) : act s f = .next (f s) := by
  unfold act; rw [h]; rfl
theorem live_run {s : State} (h : s.alive) (f : State → State) : live s f = .next (f s) := by
  unfold live act; rw [h.1]; dsimp only; rw [h.2]; rfl


/-- A command of a running device completes with what its operation leaves. -/
theorem gives_act {c s f p} (hr : s.running) (h : exec c s = act s f) (hp : p (f s)) : Gives c s p := ⟨_, h.trans (act_run hr f), hp⟩
theorem gives_live {c s f p} (hr : s.alive) (h : exec c s = live s f) (hp : p (f s)) : Gives c s p := ⟨_, h.trans (live_run hr f), hp⟩

theorem takes_session_id {s : State} {h : TallyHdr} {x : Session} (ht : s.takes h x) : x.id = h.session := by
  have := List.find?_some ht.2.2.2.2.1
  simpa using this

/-- The session as it is found after it was put back. -/
theorem session_putSession {s : State} {x y : Session} (hx : s.session? y.id = some x) :
    (s.putSession y).session? y.id = some y := by
  unfold State.session? State.putSession at *
  revert hx
  induction s.mgmt.sessions with
  | nil => intro hx; cases hx
  | cons z l ih =>
    intro hx
    simp only [List.map_cons, List.find?_cons] at hx ⊢
    by_cases hz : z.id = y.id
    · simp [hz]
    · simp only [hz, if_false]
      rw [show (z.id == y.id) = false from by simpa using hz] at hx ⊢
      exact ih hx

/-- Another session is not touched. -/
theorem session_putSession_ne {s : State} {y : Session} {i : Nat} (hi : i ≠ y.id) :
    (s.putSession y).session? i = s.session? i := by
  unfold State.session? State.putSession
  dsimp only
  induction s.mgmt.sessions with
  | nil => rfl
  | cons z l ih =>
    simp only [List.map_cons, List.find?_cons]
    by_cases hz : z.id = y.id
    · have h1 : (y.id == i) = false := by simpa using fun e => hi e.symm
      have h2 : (z.id == i) = false := by rw [hz]; exact h1
      rw [if_pos hz, h1, h2]
      exact ih
    · rw [if_neg hz, ih]

/-- The session under which a request is served has accepted it. -/
theorem served_session {s : State} {h : TallyHdr} {x : Session} (ht : s.takes h x) :
    (s.served h x).session? h.session = some (x.accepted h s.now) := by
  have e : (x.accepted h s.now).id = h.session := takes_session_id (x := x) ht
  unfold State.served
  have : ∀ t : State, (t.bump Reg.tally.tallyRequests).session? h.session = t.session? h.session := by
    intro t
    unfold State.session?
    rw [bump_mgmt]
  rw [this, ← e]
  exact session_putSession (x := x) (by rw [e]; exact ht.2.2.2.2.1)

/-- A served request's answer is kept with its session. -/
def keptFor (t : State) (h : TallyHdr) (body : Bytes) : State :=
  match t.session? h.session with
  | none => t
  | some y => t.putSession (y.keep ⟨h.reqId, t.status, body⟩)

/-- A served request runs in the state that accepted it; its answer is kept and sent. -/
theorem request_served {s : State} {h : TallyHdr} {x : Session} {open_ : Bool}
    {run : Who → State → State × Bytes × Option Nat} (ht : s.takes h x)
    (hn : (run (.session h.session) (s.served h x)).2.2 = none) :
    s.request h open_ run =
      (keptFor (run (.session h.session) (s.served h x)).1 h (run (.session h.session) (s.served h x)).2.1).answer h true
        (run (.session h.session) (s.served h x)).2.1 := by
  obtain ⟨h1, h2, h3, h4, h5, h6, h7, h8, h9⟩ := ht
  have e1 : (!h.wellFormed || (h.path != 3 && decide (h.size > s.num Reg.mgmt.tallyMaxMsg))) = false := by
    rcases h2 with h2 | h2 <;> simp [h1, h2]
  have e2 : (x.kept.find? fun k => k.reqId == h.reqId) = none := by
    rw [List.find?_eq_none]
    intro k hk
    have := h9 k hk
    simp only [beq_iff_eq]
    omega
  unfold State.request
  rw [e1]
  simp only [Bool.false_eq_true, if_false, h3, h4, h5, h6, h7, Bool.not_true, Bool.or_self, Nat.not_le.mpr h8, e2]
  refine (if_neg ?_).trans ?_
  · split
    · exact Bool.false_ne_true
    · rename_i k l hk
      have := h9 k (by rw [hk]; simp)
      simp only [decide_eq_true_eq]
      omega
  change (match (run (.session h.session) (s.served h x)).2.2 with | some k => _ | none => _) = _
  rw [hn]
  rfl

/-- A served request whose answer waits for its store: what it did stands, and what is sent and kept is management's. -/
theorem request_served_keeps {s : State} {h : TallyHdr} {x : Session} {open_ : Bool}
    {run : Who → State → State × Bytes × Option Nat} (ht : s.takes h x) :
    Keeps 0x200004 (run (.session h.session) (s.served h x)).1 (s.request h open_ run) := by
  obtain ⟨h1, h2, h3, h4, h5, h6, h7, h8, h9⟩ := ht
  have e1 : (!h.wellFormed || (h.path != 3 && decide (h.size > s.num Reg.mgmt.tallyMaxMsg))) = false := by
    rcases h2 with h2 | h2 <;> simp [h1, h2]
  have e2 : (x.kept.find? fun k => k.reqId == h.reqId) = none := by
    rw [List.find?_eq_none]
    intro k hk
    have := h9 k hk
    simp only [beq_iff_eq]
    omega
  unfold State.request
  rw [e1]
  simp only [Bool.false_eq_true, if_false, h3, h4, h5, h6, h7, Bool.not_true, Bool.or_self, Nat.not_le.mpr h8, e2]
  rw [if_neg (by
    split
    · exact Bool.false_ne_true
    · rename_i k l hk
      have := h9 k (by rw [hk]; simp)
      simp only [decide_eq_true_eq]
      omega)]
  have hK : Keeps 0x200004 (run (.session h.session) (s.served h x)).1 (run (.session h.session) (s.served h x)).1 := Keeps.refl _ _
  have hk : Keeps 0x200004 (run (.session h.session) (s.served h x)).1
      (keptFor (run (.session h.session) (s.served h x)).1 h (run (.session h.session) (s.served h x)).2.1) := by
    unfold keptFor
    split
    · exact hK
    · exact Keeps.lit (M := 0x200004) hK ⟨by decide +kernel⟩
  change Keeps _ _ (match (run (.session h.session) (s.served h x)).2.2 with
    | some k => if (keptFor (run (.session h.session) (s.served h x)).1 h (run (.session h.session) (s.served h x)).2.1).answerWaits k
        = true then _ else _
    | none => _)
  split
  · split
    · exact Keeps.lit (M := 0x200004) hk ⟨by decide +kernel⟩
    · exact answer_keeps hk ⟨by decide +kernel⟩
  · exact answer_keeps hk ⟨by decide +kernel⟩

/-! ### What a served request that ends at once leaves -/

theorem keptFor_out (t : State) (h b) : (keptFor t h b).out = t.out := by unfold keptFor; split <;> rfl
theorem keptFor_status (t : State) (h b) : (keptFor t h b).status = t.status := by unfold keptFor; split <;> rfl
theorem mboxDone_out (t : State) (b) : ∃ l, (t.mboxDone b).out = t.out ++ l := by
  unfold State.mboxDone; dsimp only; split
  · exact ⟨_, rfl⟩
  · exact ⟨[], by simp⟩
theorem mboxDone_status (t : State) (b) : (t.mboxDone b).status = t.status := by
  unfold State.mboxDone; dsimp only; split <;> rfl
theorem mboxDone_sessions (t : State) (b) : (t.mboxDone b).mgmt.sessions = t.mgmt.sessions := by
  unfold State.mboxDone; dsimp only; split <;> rfl
theorem answer_status (t : State) (h a b) : (t.answer h a b).status = t.status := by
  unfold State.answer State.reply; dsimp only; split
  · rw [mboxDone_status]; rfl
  · rfl
theorem answer_sessions (t : State) (h a b) : (t.answer h a b).mgmt.sessions = t.mgmt.sessions := by
  unfold State.answer State.reply; dsimp only; split
  · rw [mboxDone_sessions]; rfl
  · rfl
theorem answer_out (t : State) (h a b) : ∃ l, (t.answer h a b).out = t.out ++ .tally h.path h.addr h.port h.session h.reqId h.counter t.status a b :: l := by
  unfold State.answer State.reply; dsimp only; split
  · obtain ⟨l, e⟩ := mboxDone_out (t.emit (.tally h.path h.addr h.port h.session h.reqId h.counter t.status a b)) (tallyMessage (t.emit (.tally h.path h.addr h.port h.session h.reqId h.counter t.status a b)).mgmt.mbox.type h.path h.session h.reqId h.counter t.status (if a = true then some ((Option.map (fun x => x.key) ((t.emit (.tally h.path h.addr h.port h.session h.reqId h.counter t.status a b)).session? h.session)).getD (t.emit (.tally h.path h.addr h.port h.session h.reqId h.counter t.status a b)).mgmt.mbox.key) else none) b)
    refine ⟨l, ?_⟩
    rw [e]; simp
  · exact ⟨[], by simp⟩
theorem answers_kept {s t : State} {h : TallyHdr} {b : Bytes} {c : Nat} (ho : t.out = s.out) (hs : t.status = c) : Answers h true c b s ((keptFor t h b).answer h true b) := by
  obtain ⟨l, e⟩ := answer_out (keptFor t h b) h true b
  refine ⟨by rw [answer_status, keptFor_status, hs], l, ?_⟩
  show _ = _ ++ _
  rw [e, keptFor_out, keptFor_status, hs, ho]
theorem keptFor_session {t : State} {h : TallyHdr} {b : Bytes} {y : Session} (hy : t.session? h.session = some y) :
    (keptFor t h b).session? h.session = some (y.keep ⟨h.reqId, t.status, b⟩) := by
  unfold keptFor; rw [hy]; dsimp only
  have := List.find?_some hy
  have e : y.id = h.session := by simpa using this
  have := session_putSession (s := t) (x := y) (y := y.keep ⟨h.reqId, t.status, b⟩) (by show t.session? y.id = _; rw [e]; exact hy)
  rw [← this]; show _ = _; rw [show (y.keep ⟨h.reqId, t.status, b⟩).id = h.session from e]
theorem answer_session (t : State) (h a b) (i : Nat): (t.answer h a b).session? i = t.session? i := by
  unfold State.session?; rw [answer_sessions]
theorem served_out (s : State) (h x) : (s.served h x).out = s.out := by unfold State.served; simp; rfl

theorem putS {t : State} {i : Nat} {x y : Session} (hx : t.session? i = some x) (e : y.id = x.id) : (t.putSession y).session? i = some y := by
  have := List.find?_some hx
  have e2 : x.id = i := by simpa using this
  have hx' : t.session? y.id = some x := by rw [e, e2]; exact hx
  have := session_putSession hx'
  rw [e, e2] at this; exact this

-- sessionHas after answer
theorem has_kept {t : State} {h : TallyHdr} {b : Bytes} {y : Session} {p : Session → Prop} (hy : t.session? h.session = some y)
   (hp : ∀ k, p (y.keep k)) : ((keptFor t h b).answer h true b).sessionHas h.session p := by
  exact ⟨_, by rw [answer_session, keptFor_session hy], hp _⟩

theorem mayRead_served {s : State} {h x} (ht : s.takes h x) (w r i j) : (s.served h x).mayRead (.session w) r i j = s.mayRead (.session w) r i j := by
  unfold State.mayRead
  split; rfl
  by_cases hw : w = h.session
  · subst hw
    simp only [served_session ht, ht.2.2.2.2.1]; rfl
  · have : (s.served h x).session? w = s.session? w := by
      unfold State.served
      rw [show ((s.putSession (x.accepted h s.now)).bump Reg.tally.tallyRequests).session? w = (s.putSession (x.accepted h s.now)).session? w from by unfold State.session?; rw [bump_mgmt]]
      exact session_putSession_ne (by rw [show (x.accepted h s.now).id = h.session from takes_session_id (x:=x) ht]; exact hw)
    simp only [this]

theorem served_now (s : State) (h : TallyHdr) (x : Session) : (s.served h x).now = s.now := by
  unfold State.served State.now
  rw [bump_rc]
  rfl

theorem served_num {s : State} {h : TallyHdr} {x : Session} {k : Nat} (hk : k ≠ Reg.tally.tallyRequests) :
    (s.served h x).num k = s.num k := by
  unfold State.served State.bump State.add
  rw [num_setN_ne _ _ hk]
  rfl

theorem served_dev {s : State} {h x} : (s.served h x).dev = s.dev := by unfold State.served; simp; rfl
theorem odRead_out {s u : State} {w i j r v} (h : s.odRead w i j = .ok (u, r, v)) : u.out = s.out ∧ u.mgmt.sessions = s.mgmt.sessions := by
  unfold State.odRead at h
  split at h; cases h
  split at h; cases h
  dsimp only at h
  split at h; cases h
  split at h
  · cases h
    unfold State.coarseRead; dsimp only
    split
    · split <;> exact ⟨rfl, rfl⟩
    · exact ⟨rfl, rfl⟩
  · cases h
    unfold State.noteFollower
    split
    · exact ⟨rfl, rfl⟩
    split
    · split <;> exact ⟨rfl, rfl⟩
    · exact ⟨rfl, rfl⟩
theorem room_served {s : State} {h x} : (s.served h x).readRoom h = s.readRoom h := by
  unfold State.readRoom
  have : (s.served h x).num Reg.mgmt.tallyMaxMsg = s.num Reg.mgmt.tallyMaxMsg := by
    unfold State.served State.bump State.add
    rw [num_setN_ne _ _ (by decide)]; rfl
  rw [this]


end Sys2Proof.Laws
end

