-- ==== Sys2Proof/Tests/Slice0.lean ====
section
/-! SUPPORT. Tests: ill-formed commands that WellFormed refuses, small steps whose results are worked out from the spec, and
for every statement with hypotheses a witness that meets them. -/
namespace Sys2Proof.Tests
open Sys2Proof Sys2Proof.Machine
set_option Elab.async false

/-! ### Well-formed commands: each check of WellFormed.lean refuses an ill-formed term -/

/-- A well-formed TallyHdr; each field out of its range is refused. -/
def tTallyHdr : TallyHdr := ⟨1, 0, 0, true, 32, true, 1, 1, 1, true⟩
theorem test_wf_TallyHdr : tTallyHdr.wf = true ∧ ([{ tTallyHdr with port := 2 ^ 16 }, { tTallyHdr with session := 2 ^ 32 },
    { tTallyHdr with reqId := 2 ^ 32 }, { tTallyHdr with counter := 2 ^ 64 }, { tTallyHdr with path := 4 },
    { tTallyHdr with path := 0 }].all fun p => !p.wf) = true := by
  decide +kernel

/-- A well-formed DecodeDesc; each field out of its range is refused. -/
def tDecodeDesc : DecodeDesc := ⟨0, 0, 0, 0, 0, 0, 0, 0, 0, 0, 0, 0, 0, 0⟩
theorem test_wf_DecodeDesc : tDecodeDesc.wf = true ∧ ([{ tDecodeDesc with mediaType := 2 ^ 16 }, { tDecodeDesc with cluster := 2 ^ 8 },
    { tDecodeDesc with unit := 2 ^ 8 }, { tDecodeDesc with outFormat := 2 ^ 16 },
    { tDecodeDesc with inBuf := 2 ^ 32 }, { tDecodeDesc with inLen := 2 ^ 32 },
    { tDecodeDesc with outBuf := 2 ^ 32 }, { tDecodeDesc with outCap := 2 ^ 32 },
    { tDecodeDesc with sample := 2 ^ 64 }, { tDecodeDesc with stream := 2 ^ 32 },
    { tDecodeDesc with options := 2 ^ 32 }, { tDecodeDesc with resultAddr := 2 ^ 64 },
    { tDecodeDesc with errorAddr := 2 ^ 64 }, { tDecodeDesc with params := 2 ^ 64 }].all fun p => !p.wf) = true := by
  decide +kernel

/-- A well-formed IntakePacket; each field out of its range is refused. -/
def tIntakePacket : IntakePacket := ⟨0, 0, [], true, 0, 0, 0, 0, 0, [], 0⟩
theorem test_wf_IntakePacket : tIntakePacket.wf = true ∧ ([{ tIntakePacket with udpPort := 2 ^ 16 }, { tIntakePacket with stream := 2 ^ 16 },
    { tIntakePacket with frame := 2 ^ 32 }, { tIntakePacket with generation := 2 ^ 32 },
    { tIntakePacket with soe := 2 ^ 64 }, { tIntakePacket with offset := 2 ^ 32 },
    { tIntakePacket with rxTai := 2 ^ 64 }, { tIntakePacket with port := 32 },
    { tIntakePacket with payload := List.replicate 8193 0 }].all fun p => !p.wf) = true := by
  decide +kernel

/-- A well-formed LayerOutcome; each field out of its range is refused. -/
def tLayerOutcome : LayerOutcome := ⟨0, 0, 0, 0, 0, 0, 0⟩
theorem test_wf_LayerOutcome : tLayerOutcome.wf = true ∧ ([{ tLayerOutcome with layer := 2 ^ 8 }, { tLayerOutcome with outcome := 2 ^ 8 },
    { tLayerOutcome with flags := 2 ^ 8 }, { tLayerOutcome with stream := 2 ^ 16 },
    { tLayerOutcome with frame := 2 ^ 32 }, { tLayerOutcome with settingsGen := 2 ^ 32 },
    { tLayerOutcome with soe := 2 ^ 64 }].all fun p => !p.wf) = true := by
  decide +kernel

/-- A well-formed TokenDesc; each field out of its range is refused. -/
def tTokenDesc : TokenDesc := ⟨0, 0, 0, 0, 0, 0, 0, 0, 0, 0, 0, 0, 0⟩
theorem test_wf_TokenDesc : tTokenDesc.wf = true ∧ ([{ tTokenDesc with options := 2 ^ 16 }, { tTokenDesc with cluster := 2 ^ 8 },
    { tTokenDesc with unit := 2 ^ 8 }, { tTokenDesc with policy := 2 ^ 16 },
    { tTokenDesc with inBuf := 2 ^ 32 }, { tTokenDesc with inLen := 2 ^ 32 },
    { tTokenDesc with outBuf := 2 ^ 32 }, { tTokenDesc with outCap := 2 ^ 32 },
    { tTokenDesc with sample := 2 ^ 64 }, { tTokenDesc with vocabTag := 2 ^ 64 },
    { tTokenDesc with resultAddr := 2 ^ 64 }, { tTokenDesc with errorAddr := 2 ^ 64 },
    { tTokenDesc with params := 2 ^ 64 }].all fun p => !p.wf) = true := by
  decide +kernel

/-- A well-formed ComputeDesc; each field out of its range is refused. -/
def tComputeDesc : ComputeDesc := ⟨0, 0, 0, 0, 0, 0, 0, 0, 0, 0, 0, 0, 0, 0⟩
theorem test_wf_ComputeDesc : tComputeDesc.wf = true ∧ ([{ tComputeDesc with options := 2 ^ 16 }, { tComputeDesc with cluster := 2 ^ 8 },
    { tComputeDesc with coreMask := 2 ^ 8 }, { tComputeDesc with reproClass := 2 ^ 8 },
    { tComputeDesc with kernel := 2 ^ 32 }, { tComputeDesc with items := 2 ^ 32 },
    { tComputeDesc with argBuf := 2 ^ 32 }, { tComputeDesc with sampleTable := 2 ^ 32 },
    { tComputeDesc with partition_ := 2 ^ 16 }, { tComputeDesc with slotBase := 2 ^ 16 },
    { tComputeDesc with epoch := 2 ^ 32 }, { tComputeDesc with model := 2 ^ 64 },
    { tComputeDesc with resultAddr := 2 ^ 64 }].all fun p => !p.wf) = true := by
  decide +kernel

/-- A well-formed FragKey; each field out of its range is refused. -/
def tFragKey : FragKey := ⟨0, 0, 0, none⟩
theorem test_wf_FragKey : tFragKey.wf = true ∧ ([{ tFragKey with epoch := 2 ^ 32 }, { tFragKey with step := 2 ^ 32 },
    { tFragKey with consumer := 2 ^ 32 }].all fun p => !p.wf) = true := by
  decide +kernel

/-- A well-formed PiTuple; each field out of its range is refused. -/
def tPiTuple : PiTuple := ⟨0, 0, 0⟩
theorem test_wf_PiTuple : tPiTuple.wf = true ∧ ([{ tPiTuple with guard := 2 ^ 64 }, { tPiTuple with app := 2 ^ 16 }, { tPiTuple with ref := 2 ^ 48 }].all fun p => !p.wf) = true := by
  decide +kernel

/-- A well-formed PoolCmd; each field out of its range is refused. -/
def tPoolCmd : PoolCmd := ⟨0, 0, 0, 0, 0, 0, 0⟩
theorem test_wf_PoolCmd : tPoolCmd.wf = true ∧ ([{ tPoolCmd with flags := 2 ^ 8 }, { tPoolCmd with owner := 2 ^ 16 }, { tPoolCmd with handle := 2 ^ 32 },
    { tPoolCmd with bytes := 2 ^ 32 }, { tPoolCmd with pool := 2 ^ 8 }, { tPoolCmd with context := 2 ^ 8 },
    { tPoolCmd with reserved := 2 ^ 16 }].all fun p => !p.wf) = true := by
  decide +kernel

/-- A well-formed ChipDesc; each field out of its range is refused. -/
def tChipDesc : ChipDesc := ⟨0, 0, 0, 0, 0, 0, 0, 0, 0, 0, 0, 0, 0, 0⟩
theorem test_wf_ChipDesc : tChipDesc.wf = true ∧ ([{ tChipDesc with flags := 2 ^ 8 }, { tChipDesc with blockLog2 := 2 ^ 8 },
    { tChipDesc with cls := 2 ^ 8 }, { tChipDesc with chipper := 2 ^ 8 },
    { tChipDesc with returnTo := 2 ^ 16 }, { tChipDesc with inBuf := 2 ^ 32 },
    { tChipDesc with inOff := 2 ^ 32 }, { tChipDesc with inLen := 2 ^ 32 },
    { tChipDesc with outBuf := 2 ^ 32 }, { tChipDesc with outOff := 2 ^ 32 },
    { tChipDesc with outLimit := 2 ^ 64 }, { tChipDesc with tag := 2 ^ 64 },
    { tChipDesc with resultAddr := 2 ^ 64 }].all fun p => !p.wf) = true := by
  decide +kernel

/-- A well-formed NvmeHead; each field out of its range is refused. -/
def tNvmeHead : NvmeHead := ⟨0, 0, 0⟩
theorem test_wf_NvmeHead : tNvmeHead.wf = true ∧ ([{ tNvmeHead with cid := 2 ^ 16 }, { tNvmeHead with opcode := 2 ^ 8 }, { tNvmeHead with nsid := 2 ^ 32 }].all fun p => !p.wf) = true := by
  decide +kernel

/-- A well-formed PiCheck; each field out of its range is refused. -/
def tPiCheck : PiCheck := ⟨true, true, true, true, 0, 0, 0⟩
theorem test_wf_PiCheck : tPiCheck.wf = true ∧ ([{ tPiCheck with lbat := 2 ^ 16 }, { tPiCheck with lbatm := 2 ^ 16 }, { tPiCheck with ilbrt := 2 ^ 48 }].all fun p => !p.wf) = true := by
  decide +kernel

/-- A well-formed SkdRx; each field out of its range is refused. -/
def tSkdRx : SkdRx := ⟨0, [], 0, true, true, true, true, 0, 0, 0, 0, 0, 0, 0, 0, 0, true, true, []⟩
theorem test_wf_SkdRx : tSkdRx.wf = true ∧ ([{ tSkdRx with version := 2 ^ 4 }, { tSkdRx with label := 2 ^ 6 }, { tSkdRx with keyEpoch := 2 ^ 8 },
    { tSkdRx with dstConn := 2 ^ 16 }, { tSkdRx with srcConn := 2 ^ 16 }, { tSkdRx with srcSlot := 2 ^ 16 },
    { tSkdRx with generation := 2 ^ 32 }, { tSkdRx with psn := 2 ^ 32 }, { tSkdRx with msgId := 2 ^ 32 },
    { tSkdRx with serial := 2 ^ 64 }, { tSkdRx with port := 32 }].all fun p => !p.wf) = true := by
  decide +kernel

/-- A well-formed SkdExt; each field out of its range is refused. -/
def tSkdExt : SkdExt := ⟨0, 0, 0, 0⟩
theorem test_wf_SkdExt : tSkdExt.wf = true ∧ ([{ tSkdExt with remoteKey := 2 ^ 32 }, { tSkdExt with msgBytes := 2 ^ 32 },
    { tSkdExt with offset := 2 ^ 64 }, { tSkdExt with immediate := 2 ^ 32 }].all fun p => !p.wf) = true := by
  decide +kernel

/-- A well-formed TransferDesc; each field out of its range is refused. -/
def tTransferDesc : TransferDesc := ⟨0, 0, 0, 0, 0, 0, 0, 0⟩
theorem test_wf_TransferDesc : tTransferDesc.wf = true ∧ ([{ tTransferDesc with op := 2 ^ 8 }, { tTransferDesc with conn := 2 ^ 16 },
    { tTransferDesc with immediate := 2 ^ 32 }, { tTransferDesc with local_ := 2 ^ 64 },
    { tTransferDesc with length := 2 ^ 32 }, { tTransferDesc with remoteKey := 2 ^ 32 },
    { tTransferDesc with remoteOffset := 2 ^ 64 }, { tTransferDesc with tag := 2 ^ 64 }].all fun p => !p.wf) = true := by
  decide +kernel

/-- A well-formed LkHdr; each field out of its range is refused. -/
def tLkHdr : LkHdr := ⟨true, 0, 0, 0, true, true, 0, 0, 0, 0, 0, 0, true, 0⟩
theorem test_wf_LkHdr : tLkHdr.wf = true ∧ ([{ tLkHdr with domain := 2 ^ 32 }, { tLkHdr with srcSlot := 2 ^ 16 },
    { tLkHdr with generation := 2 ^ 32 }, { tLkHdr with ring := 2 ^ 64 }, { tLkHdr with grain := 2 ^ 16 },
    { tLkHdr with keyEpoch := 2 ^ 8 }, { tLkHdr with msgSeq := 2 ^ 32 }, { tLkHdr with txCount := 2 ^ 64 },
    { tLkHdr with path := 3 }].all fun p => !p.wf) = true := by
  decide +kernel

/-- A well-formed LkEntry; each field out of its range is refused. -/
def tLkEntry : LkEntry := ⟨0, 0, 0, 0, 0⟩
theorem test_wf_LkEntry : tLkEntry.wf = true ∧ ([{ tLkEntry with epoch := 2 ^ 32 }, { tLkEntry with step := 2 ^ 32 },
    { tLkEntry with consumer := 2 ^ 32 }, { tLkEntry with attempt := 2 ^ 16 },
    { tLkEntry with server := 2 ^ 16 }].all fun p => !p.wf) = true := by
  decide +kernel

/-- A well-formed LkAbort; each field out of its range is refused. -/
def tLkAbort : LkAbort := ⟨0, 0, 0, 0, []⟩
theorem test_wf_LkAbort : tLkAbort.wf = true ∧ ([{ tLkAbort with replaced := 2 ^ 16 }, { tLkAbort with cause := 2 ^ 8 },
    { tLkAbort with replacedGen := 2 ^ 32 }, { tLkAbort with suspectRing := 2 ^ 64 },
    { tLkAbort with entries := [⟨2 ^ 32, 0, 0, 0, 0⟩] }].all fun p => !p.wf) = true := by
  decide +kernel

/-- A well-formed LkDecision; each field out of its range is refused. -/
def tLkDecision : LkDecision := ⟨0, 0, 0, [], 0, 0, 0, 0, 0, 0, 0, 0, []⟩
theorem test_wf_LkDecision : tLkDecision.wf = true ∧ ([{ tLkDecision with term := 2 ^ 32 }, { tLkDecision with seq := 2 ^ 32 },
    { tLkDecision with outcome := 2 ^ 8 }, { tLkDecision with subject := 2 ^ 16 },
    { tLkDecision with subjectGen := 2 ^ 32 }, { tLkDecision with newGen := 2 ^ 32 },
    { tLkDecision with subjectUid := 2 ^ 64 }, { tLkDecision with epoch := 2 ^ 32 },
    { tLkDecision with resumeStep := 2 ^ 32 }, { tLkDecision with shiftRings := 2 ^ 32 },
    { tLkDecision with count := 2 ^ 32 }, { tLkDecision with voters := List.replicate 6 0 },
    { tLkDecision with voters := [2 ^ 16] }].all fun p => !p.wf) = true := by
  decide +kernel

/-- A well-formed LkNotice; each field out of its range is refused. -/
def tLkNotice : LkNotice := ⟨0, true, 0, 0, 0, 0, 0, 0, 0, 0, 0⟩
theorem test_wf_LkNotice : tLkNotice.wf = true ∧ ([{ tLkNotice with kind := 2 ^ 8 }, { tLkNotice with attempt := 2 ^ 16 },
    { tLkNotice with epoch := 2 ^ 32 }, { tLkNotice with step := 2 ^ 32 },
    { tLkNotice with consumer := 2 ^ 32 }, { tLkNotice with replacedSlot := 2 ^ 16 },
    { tLkNotice with serverSlot := 2 ^ 16 }, { tLkNotice with replacedGen := 2 ^ 32 },
    { tLkNotice with serverGen := 2 ^ 32 }, { tLkNotice with relaunchRing := 2 ^ 64 }].all fun p => !p.wf) = true := by
  decide +kernel

/-- A well-formed Requester; each field out of its range is refused. -/
def tRequester : Requester := ⟨0x1000, 0⟩
theorem test_wf_Requester : tRequester.wf = true ∧ ([{ tRequester with id := 2 ^ 16 }, { tRequester with ctx := 64 }].all fun p => !p.wf) = true := by
  decide +kernel

/-- A well-formed EngineAt; each field out of its range is refused. -/
def tEngineAt : EngineAt := ⟨0, 0, 0, 0⟩
theorem test_wf_EngineAt : tEngineAt.wf = true ∧ ([{ tEngineAt with cluster := 16 }, { tEngineAt with core := 8 }].all fun p => !p.wf) = true := by
  decide +kernel

theorem test_wf_Via : (Via.tally tTallyHdr).wf = true ∧ (Via.smbus true).wf = true ∧
    (Via.tally { tTallyHdr with path := 0 }).wf = false := by decide

theorem test_wf_TransferSrc : ([TransferSrc.page 63, .core 15 63].all TransferSrc.wf) = true ∧
    ([TransferSrc.page 64, .core 16 0, .core 0 64].all fun p => !p.wf) = true := by decide

/-- Lookout's payloads: each field past its width. -/
theorem test_wf_LkBody : ([LkBody.heartbeat (2 ^ 16) 0 true 0 0 [], .heartbeat 0 256 true 0 0 [], .suspect (2 ^ 16) 0 0,
    .suspect 0 (2 ^ 32) 0, .suspect 0 0 (2 ^ 64), .abort { tLkAbort with cause := 256 }, .probe (2 ^ 16) 0 0, .probe 0 (2 ^ 32) 0,
    .probe 0 0 (2 ^ 32), .probeReply (2 ^ 16) 0 0, .probeReply 0 (2 ^ 32) 0, .probeReply 0 0 (2 ^ 32), .vote (2 ^ 32) 0 0,
    .vote 0 (2 ^ 32) 0, .vote 0 0 256, .decision { tLkDecision with outcome := 256 }, .join (2 ^ 64) 0 (List.replicate 48 0),
    .join 0 (2 ^ 16) (List.replicate 48 0), .join 0 0 [], .late (2 ^ 32) 0 0, .late 0 (2 ^ 32) 0, .late 0 0 (2 ^ 32),
    .declare 256 0 0, .declare 0 (2 ^ 32) 0, .declare 0 0 (2 ^ 32), .statusQuery (2 ^ 64), .statusReply (2 ^ 64) 0 0 0,
    .statusReply 0 (2 ^ 16) 0 0, .statusReply 0 0 256 0, .statusReply 0 0 0 (2 ^ 32), .snapshot (2 ^ 32) [], .fenced (2 ^ 16) 0,
    .fenced 0 (2 ^ 32)].all fun p => !p.wf) = true ∧ (LkFrame.mk tLkHdr (.statusQuery 0)).wf = true ∧
    (LkFrame.mk { tLkHdr with path := 3 } (.statusQuery 0)).wf = false := by decide

/-! Every command whose operands are checked: well-formed operands are accepted, and each operand in turn is refused. -/

theorem test_wf_accepts_1 : ([.dictionaryWrite (.smbus true) 0 0 [], .sectionLoad (.smbus true) [], .fragmentLaunch tFragKey 0,
    .launchPrefetch tFragKey, .stepDigest 0, .replayInject 0, .standHello 0 0, .standMaster 0 0,
    .standHeartbeat 0 true, .barrierArrive 0 0, .barrierArm 0 0, .barrierArmed 0 0, .barrierTimeout 0,
    .barrierAbort 0 true, .decodeImage tRequester tDecodeDesc, .decodeFrame tRequester tDecodeDesc,
    .encodeFits tRequester tDecodeDesc, .streamOpen tRequester tDecodeDesc, .streamSubmit tRequester tDecodeDesc,
    .streamClose tRequester tDecodeDesc, .decodeDescriptorHead 0 0,
    .decodeComplete 0 0 0 ⟨0, false, none, [], 0, 0, 0, ⟨0, 0, 0, 0, 0, 0, 0, 0, 0, 0, 0⟩, false, false, false, false, 0, 0⟩ none,
    .videoPictureDone 0 ⟨0, false, none, [], 0, 0, 0, ⟨0, 0, 0, 0, 0, 0, 0, 0, 0, 0, 0⟩, false, false, false, false, 0, 0⟩ none,
    .islandSpeedSample 0 0, .frameData tIntakePacket, .frameEnd tIntakePacket, .frameTimeout 0 0,
    .settingsWrite (.smbus true) 0 [], .settingsAck tIntakePacket, .settingsUnacked 0 0,
    .fuseOutcome 0 0 0 true [], .tokenize tRequester tTokenDesc, .detokenize tRequester tTokenDesc,
    .vocabLoad tRequester tTokenDesc, .grammarLoad tRequester tTokenDesc, .grammarCheck tRequester tTokenDesc,
    .rolloutOpen tRequester tTokenDesc, .rolloutClose tRequester tTokenDesc, .tokenDescriptorHead 0,
    .tokenComplete 0 0 none, .rolloutChunk 0 0, .rolloutNotifyProcess 0, .rolloutTimeout 0 0,
    .launch tRequester tComputeDesc, .kernelLoad tRequester tComputeDesc, .kernelUnload tRequester tComputeDesc,
    .modelLoad tRequester tComputeDesc, .modelUnload tRequester tComputeDesc, .computeDescriptorHead 0,
    .workItemEnd 0 0 ⟨0, 0, 0, 0, 0, 0, 0, none⟩, .itemBudget 0 0 0,
    .engineLdSt tEngineAt ⟨false, .vector 0, .fp32, 0⟩, .engineMma tEngineAt ⟨.int8, 0⟩,
    .engineAcc tEngineAt ⟨.clear, .fpAcc 0, 0⟩,
    .engineCvt tEngineAt ⟨.fpAcc 0, .fp32, false, false, false, 0, 0, 0, 0⟩,
    .engineValu tEngineAt ⟨.add, .fp32, 0, 0, 0, 0⟩, .engineVred tEngineAt ⟨.fp32, 0, 0⟩,
    .engineVperm tEngineAt ⟨.permute, .fp32, 0, 0, 0, 0⟩, .engineSync tEngineAt .dma,
    .dmaTransfer 0 0 0 ⟨true, 0, 0, .clusterSram 0, 0, 0, 0⟩] : List Instr).all Instr.wf = true := by decide

theorem test_wf_accepts_2 : ([.dmaComplete 0 0, .gradeStart (.smbus true), .gradeAbort (.smbus true),
    .fragmentReady tFragKey 0 ⟨0, 0, 0, 0, 0, 0, none⟩ [], .retentionEnd tFragKey, .seasonClear (.smbus true) [],
    .yardWrite (.ns 1) 0 [] tPiTuple, .lunFail 0 0, .format (.smbus true) [], .checkpointNow (.smbus true),
    .cruiseRestart (.smbus true), .alloc tRequester tPoolCmd, .extend tRequester tPoolCmd,
    .pass tRequester tPoolCmd, .free tRequester tPoolCmd, .query tRequester tPoolCmd, .compress tChipDesc,
    .decompress tChipDesc, .chipperDescriptorHead 0 true, .chipperComplete 0 true,
    .createIoSubmissionQueue 0 0 0 0, .deleteIoSubmissionQueue 0 0, .createIoCompletionQueue 0 0 0 none,
    .deleteIoCompletionQueue 0 0, .identify 0 0 0, .getLogPage 0 0, .setFeatures 0 0 0, .getFeatures 0 0,
    .abort 0 0 0, .asynchronousEventRequest 0, .namespaceManagement 0 (.delete 1),
    .namespaceAttachment 0 0 true [], .formatNvm 0 0 0 0 [], .firmwareImageDownload 0 0 [],
    .firmwareCommit 0 0 0 0 true, .deviceSelfTest 0 0 0, .nvmeFlush 0 0 0, .nvmeWrite 0 0 0 0 true tPiCheck [] 0,
    .nvmeRead 0 0 0 0 0 tPiCheck [], .writeZeroes 0 0 0 0 0, .datasetManagement 0 0 0 true [],
    .verify 0 0 0 0 0 tPiCheck [], .compare 0 0 0 0 tPiCheck [] [], .invalidCommandOpcode 0 0 0,
    .sqTailDoorbell 0 [], .commandDispatch 0 0, .pshFirst 0 0 true, .pshPush 0 0 true, .pshFlush 0,
    .pshStatusRead 0, .pshCqHead 0 0, .shardOpen 0 [], .ingestNs 0 [], .shardSeal 0, .shardDelete 0, .contextMsg 0,
    .connOpen (.smbus true) [], .connClose (.smbus true) [], .skdWriteRx tSkdRx tSkdExt,
    .skdWriteImmRx tSkdRx tSkdExt] : List Instr).all Instr.wf = true := by decide

theorem test_wf_accepts_3 : ([.skdReadReqRx tSkdRx tSkdExt, .skdReadRespRx tSkdRx tSkdExt, .skdAckRx tSkdRx,
    .skdLookoutRx tSkdRx ⟨tLkHdr, .statusQuery 0⟩, .noticeFenced tSkdRx, .noticeNoConnection tSkdRx,
    .noticeLookout tSkdRx tLkNotice, .noticeIngestResult tSkdRx, .noticeMsgDiscarded tSkdRx,
    .noticeReadError tSkdRx, .ackSend 0, .packetLost 0 0, .retransmitTimeout 0 0, .quarantineEnd 0 0,
    .keyGraceEnd 0, .earlyRotation 0, .linkDown 0, .linkUp 0, .skdTxqTail 0 0 [],
    .transferWrite (.page 0) tTransferDesc [], .transferWriteImm (.page 0) tTransferDesc [],
    .transferRead (.page 0) tTransferDesc, .skdCqHead 0 0, .pauseFrameRx 0, .rocev2AckNak 0 0 true, .rocev2Cnp 0,
    .fiReorderRelease 0, .egressSelect 0, .subConfigure (.smbus true) [], .subRelease (.smbus true) [],
    .lkHeartbeat tLkHdr 0 0 true 0 0 [], .lkSuspect tLkHdr 0 0 0, .lkAbort tLkHdr tLkAbort, .lkProbe tLkHdr 0 0 0,
    .lkProbeReply tLkHdr 0 0 0, .probeTimeout 0, .lkVote tLkHdr 0 0 0, .voteFallback 0,
    .decisionAlive tLkHdr tLkDecision, .decisionDead tLkHdr tLkDecision, .decisionAdmit tLkHdr tLkDecision,
    .decisionCoppiceStart tLkHdr tLkDecision, .decisionSlotReady tLkHdr tLkDecision,
    .decisionCoOpt tLkHdr tLkDecision, .decisionEpochShift tLkHdr tLkDecision,
    .decisionDomainHold tLkHdr tLkDecision, .decisionResume tLkHdr tLkDecision,
    .decisionOrphaned tLkHdr tLkDecision, .decisionDemote tLkHdr tLkDecision, .decisionScores tLkHdr tLkDecision,
    .declareVoid tLkHdr 0 0, .declareAbsent tLkHdr 0 0, .declareResume tLkHdr 0 0, .declareLoadLate tLkHdr 0 0,
    .declareIsolated tLkHdr 0 0, .declareCoppiceDone tLkHdr 0 0, .declareReingested tLkHdr 0 0,
    .declareVerifyDone tLkHdr 0 0, .declareHoldMembership tLkHdr 0 0, .lkJoin tLkHdr 0 0 []] : List Instr).all Instr.wf = true := by decide

theorem test_wf_accepts_4 : ([.joinSend 0, .lkLate tLkHdr 0 0 0, .latenessTally 0 0, .lkStatusQuery tLkHdr 0, .lkStatusReply tLkHdr 0 0 0 0,
    .lkSnapshot tLkHdr 0 [], .lkFenced tLkHdr 0 0, .decisionMissing 0, .deliveryFault tFragKey,
    .councilReseed (.smbus true) [], .define (.smbus true) 0, .destroy (.smbus true) 0,
    .context0Program (.smbus true) [], .contextSwitch 0 true 0 0, .advanceSvn (.smbus true),
    .attestRequest (.smbus true) [], .operatorKeysWrite (.smbus true) [], .sessionHello tTallyHdr 0 [] [],
    .sessionProof tTallyHdr [], .sessionClose tTallyHdr, .challengeTimeout 0, .sessionIdleTimeout 0,
    .sessionLifeTimeout 0, .clusterGateWrite (.smbus true) 0, .portGateWrite (.smbus true) 0,
    .resetCmdDevice (.smbus true), .resetCmdDeviceForce (.smbus true), .tallyRead tTallyHdr 0 0 0 0,
    .tallyMeta tTallyHdr 0 0, .blobBegin tTallyHdr 0 0 0 [], .blobData tTallyHdr 0 0 [], .blobEnd tTallyHdr 0,
    .blobAbort tTallyHdr 0, .blobTransferTimeout 0 0, .subscribe tTallyHdr [] 0 true, .eventAck tTallyHdr 0,
    .eventSend 0, .eventResend 0 0, .smbSelect true 0 0 0, .smbAlertClear (.smbus true) [],
    .logAckedWrite (.smbus true) [], .mgmtLinkChange 0 true] : List Instr).all Instr.wf = true := by decide

theorem test_wf_refuses_1 : ([.dictionaryWrite (.tally { tTallyHdr with path := 4 }) 0 0 [], .dictionaryWrite (.smbus true) (2 ^ 16) 0 [],
    .dictionaryWrite (.smbus true) 0 (2 ^ 8) [], .sectionLoad (.tally { tTallyHdr with path := 4 }) [],
    .fragmentLaunch { tFragKey with step := 2 ^ 32 } 0, .launchPrefetch { tFragKey with step := 2 ^ 32 },
    .stepDigest (2 ^ 32), .replayInject (2 ^ 32), .standHello (2 ^ 8) 0, .standHello 0 (2 ^ 64),
    .standMaster (2 ^ 8) 0, .standMaster 0 (2 ^ 32), .standHeartbeat (2 ^ 8) true, .barrierArrive (2 ^ 8) 0,
    .barrierArrive 0 (2 ^ 32), .barrierArm (2 ^ 32) 0, .barrierArm 0 (2 ^ 32), .barrierArmed (2 ^ 8) 0,
    .barrierArmed 0 (2 ^ 32), .barrierTimeout (2 ^ 32), .barrierAbort (2 ^ 32) true,
    .decodeImage ⟨0, 64⟩ tDecodeDesc, .decodeImage tRequester { tDecodeDesc with unit := 256 },
    .decodeFrame ⟨0, 64⟩ tDecodeDesc, .decodeFrame tRequester { tDecodeDesc with unit := 256 },
    .encodeFits ⟨0, 64⟩ tDecodeDesc, .encodeFits tRequester { tDecodeDesc with unit := 256 },
    .streamOpen ⟨0, 64⟩ tDecodeDesc, .streamOpen tRequester { tDecodeDesc with unit := 256 },
    .streamSubmit ⟨0, 64⟩ tDecodeDesc, .streamSubmit tRequester { tDecodeDesc with unit := 256 },
    .streamClose ⟨0, 64⟩ tDecodeDesc, .streamClose tRequester { tDecodeDesc with unit := 256 },
    .decodeDescriptorHead 16 0,
    .decodeComplete 16 0 0 ⟨0, false, none, [], 0, 0, 0, ⟨0, 0, 0, 0, 0, 0, 0, 0, 0, 0, 0⟩, false, false, false, false, 0, 0⟩ none,
    .videoPictureDone 16 ⟨0, false, none, [], 0, 0, 0, ⟨0, 0, 0, 0, 0, 0, 0, 0, 0, 0, 0⟩, false, false, false, false, 0, 0⟩ none,
    .islandSpeedSample 16 0, .frameData { tIntakePacket with port := 32 },
    .frameEnd { tIntakePacket with port := 32 }, .frameTimeout (2 ^ 8) 0,
    .settingsWrite (.tally { tTallyHdr with path := 4 }) 0 [], .settingsWrite (.smbus true) (2 ^ 8) [],
    .settingsAck { tIntakePacket with port := 32 }, .settingsUnacked (2 ^ 8) 0, .settingsUnacked 0 (2 ^ 32),
    .fuseOutcome (2 ^ 8) 0 0 true [], .tokenize ⟨0, 64⟩ tTokenDesc,
    .tokenize tRequester { tTokenDesc with unit := 256 }, .detokenize ⟨0, 64⟩ tTokenDesc,
    .detokenize tRequester { tTokenDesc with unit := 256 }, .vocabLoad ⟨0, 64⟩ tTokenDesc,
    .vocabLoad tRequester { tTokenDesc with unit := 256 }, .grammarLoad ⟨0, 64⟩ tTokenDesc,
    .grammarLoad tRequester { tTokenDesc with unit := 256 }, .grammarCheck ⟨0, 64⟩ tTokenDesc,
    .grammarCheck tRequester { tTokenDesc with unit := 256 }, .rolloutOpen ⟨0, 64⟩ tTokenDesc,
    .rolloutOpen tRequester { tTokenDesc with unit := 256 }, .rolloutClose ⟨0, 64⟩ tTokenDesc,
    .rolloutClose tRequester { tTokenDesc with unit := 256 }] : List Instr).all fun c => !c.wf = true := by decide

theorem test_wf_refuses_2 : ([.tokenDescriptorHead 16, .tokenComplete 16 0 none, .rolloutChunk (2 ^ 8) 0, .rolloutChunk 0 (2 ^ 16),
    .rolloutNotifyProcess (2 ^ 8), .rolloutTimeout (2 ^ 8) 0, .launch ⟨0, 64⟩ tComputeDesc,
    .launch tRequester { tComputeDesc with cluster := 256 }, .kernelLoad ⟨0, 64⟩ tComputeDesc,
    .kernelLoad tRequester { tComputeDesc with cluster := 256 }, .kernelUnload ⟨0, 64⟩ tComputeDesc,
    .kernelUnload tRequester { tComputeDesc with cluster := 256 }, .modelLoad ⟨0, 64⟩ tComputeDesc,
    .modelLoad tRequester { tComputeDesc with cluster := 256 }, .modelUnload ⟨0, 64⟩ tComputeDesc,
    .modelUnload tRequester { tComputeDesc with cluster := 256 }, .computeDescriptorHead 16,
    .workItemEnd 16 0 ⟨0, 0, 0, 0, 0, 0, 0, none⟩, .workItemEnd 0 8 ⟨0, 0, 0, 0, 0, 0, 0, none⟩,
    .itemBudget 16 0 0, .itemBudget 0 8 0, .engineLdSt { tEngineAt with core := 8 } ⟨false, .vector 0, .fp32, 0⟩,
    .engineMma { tEngineAt with core := 8 } ⟨.int8, 0⟩,
    .engineAcc { tEngineAt with core := 8 } ⟨.clear, .fpAcc 0, 0⟩,
    .engineCvt { tEngineAt with core := 8 } ⟨.fpAcc 0, .fp32, false, false, false, 0, 0, 0, 0⟩,
    .engineValu { tEngineAt with core := 8 } ⟨.add, .fp32, 0, 0, 0, 0⟩,
    .engineVred { tEngineAt with core := 8 } ⟨.fp32, 0, 0⟩,
    .engineVperm { tEngineAt with core := 8 } ⟨.permute, .fp32, 0, 0, 0, 0⟩,
    .engineSync { tEngineAt with core := 8 } .dma, .dmaTransfer 16 0 0 ⟨true, 0, 0, .clusterSram 0, 0, 0, 0⟩,
    .dmaTransfer 0 8 0 ⟨true, 0, 0, .clusterSram 0, 0, 0, 0⟩, .dmaComplete 16 0, .dmaComplete 0 8,
    .gradeStart (.tally { tTallyHdr with path := 4 }), .gradeAbort (.tally { tTallyHdr with path := 4 }),
    .fragmentReady { tFragKey with step := 2 ^ 32 } 0 ⟨0, 0, 0, 0, 0, 0, none⟩ [],
    .retentionEnd { tFragKey with step := 2 ^ 32 }, .seasonClear (.tally { tTallyHdr with path := 4 }) [],
    .yardWrite (.ns 1) 0 [] ⟨2 ^ 64, 0, 0⟩, .lunFail 32 0, .format (.tally { tTallyHdr with path := 4 }) [],
    .checkpointNow (.tally { tTallyHdr with path := 4 }), .cruiseRestart (.tally { tTallyHdr with path := 4 }),
    .alloc ⟨0, 64⟩ tPoolCmd, .alloc tRequester { tPoolCmd with pool := 256 }, .extend ⟨0, 64⟩ tPoolCmd,
    .extend tRequester { tPoolCmd with pool := 256 }, .pass ⟨0, 64⟩ tPoolCmd,
    .pass tRequester { tPoolCmd with pool := 256 }, .free ⟨0, 64⟩ tPoolCmd,
    .free tRequester { tPoolCmd with pool := 256 }, .query ⟨0, 64⟩ tPoolCmd,
    .query tRequester { tPoolCmd with pool := 256 }, .compress { tChipDesc with chipper := 256 },
    .decompress { tChipDesc with chipper := 256 }, .chipperDescriptorHead 16 true, .chipperComplete 16 true,
    .createIoSubmissionQueue (2 ^ 16) 0 0 0, .createIoSubmissionQueue 0 (2 ^ 16) 0 0,
    .deleteIoSubmissionQueue (2 ^ 16) 0] : List Instr).all fun c => !c.wf = true := by decide

theorem test_wf_refuses_3 : ([.deleteIoSubmissionQueue 0 (2 ^ 16), .createIoCompletionQueue (2 ^ 16) 0 0 none,
    .createIoCompletionQueue 0 (2 ^ 16) 0 none, .deleteIoCompletionQueue (2 ^ 16) 0,
    .deleteIoCompletionQueue 0 (2 ^ 16), .identify (2 ^ 16) 0 0, .identify 0 0 (2 ^ 32), .getLogPage (2 ^ 16) 0,
    .setFeatures (2 ^ 16) 0 0, .getFeatures (2 ^ 16) 0, .abort (2 ^ 16) 0 0, .asynchronousEventRequest (2 ^ 16),
    .namespaceManagement (2 ^ 16) (.delete 1), .namespaceAttachment (2 ^ 16) 0 true [],
    .namespaceAttachment 0 (2 ^ 32) true [], .formatNvm (2 ^ 16) 0 0 0 [], .formatNvm 0 (2 ^ 32) 0 0 [],
    .firmwareImageDownload (2 ^ 16) 0 [], .firmwareCommit (2 ^ 16) 0 0 0 true, .firmwareCommit 0 (2 ^ 16) 0 0 true,
    .deviceSelfTest (2 ^ 16) 0 0, .deviceSelfTest 0 (2 ^ 32) 0, .nvmeFlush (2 ^ 16) 0 0, .nvmeFlush 0 (2 ^ 16) 0,
    .nvmeFlush 0 0 (2 ^ 32), .nvmeWrite (2 ^ 16) 0 0 0 true tPiCheck [] 0,
    .nvmeWrite 0 (2 ^ 16) 0 0 true tPiCheck [] 0, .nvmeWrite 0 0 (2 ^ 32) 0 true tPiCheck [] 0,
    .nvmeWrite 0 0 0 0 true { tPiCheck with lbat := 2 ^ 16 } [] 0, .nvmeRead (2 ^ 16) 0 0 0 0 tPiCheck [],
    .nvmeRead 0 (2 ^ 16) 0 0 0 tPiCheck [], .nvmeRead 0 0 (2 ^ 32) 0 0 tPiCheck [],
    .nvmeRead 0 0 0 0 0 { tPiCheck with lbat := 2 ^ 16 } [], .writeZeroes (2 ^ 16) 0 0 0 0,
    .writeZeroes 0 (2 ^ 16) 0 0 0, .writeZeroes 0 0 (2 ^ 32) 0 0, .datasetManagement (2 ^ 16) 0 0 true [],
    .datasetManagement 0 (2 ^ 16) 0 true [], .datasetManagement 0 0 (2 ^ 32) true [],
    .verify (2 ^ 16) 0 0 0 0 tPiCheck [], .verify 0 (2 ^ 16) 0 0 0 tPiCheck [],
    .verify 0 0 (2 ^ 32) 0 0 tPiCheck [], .verify 0 0 0 0 0 { tPiCheck with lbat := 2 ^ 16 } [],
    .compare (2 ^ 16) 0 0 0 tPiCheck [] [], .compare 0 (2 ^ 16) 0 0 tPiCheck [] [],
    .compare 0 0 (2 ^ 32) 0 tPiCheck [] [], .compare 0 0 0 0 { tPiCheck with lbat := 2 ^ 16 } [] [],
    .invalidCommandOpcode (2 ^ 16) 0 0, .invalidCommandOpcode 0 (2 ^ 16) 0, .sqTailDoorbell (2 ^ 16) [],
    .commandDispatch (2 ^ 16) 0, .commandDispatch 0 (2 ^ 16), .pshFirst 64 0 true, .pshPush 64 0 true,
    .pshFlush 64, .pshStatusRead 64, .pshCqHead 64 0, .shardOpen 64 [], .ingestNs 64 [], .shardSeal 64] : List Instr).all fun c => !c.wf = true := by decide

theorem test_wf_refuses_4 : ([.shardDelete 64, .contextMsg 64, .connOpen (.tally { tTallyHdr with path := 4 }) [],
    .connClose (.tally { tTallyHdr with path := 4 }) [], .skdWriteRx { tSkdRx with port := 32 } tSkdExt,
    .skdWriteRx tSkdRx ⟨2 ^ 32, 0, 0, 0⟩, .skdWriteImmRx { tSkdRx with port := 32 } tSkdExt,
    .skdWriteImmRx tSkdRx ⟨2 ^ 32, 0, 0, 0⟩, .skdReadReqRx { tSkdRx with port := 32 } tSkdExt,
    .skdReadReqRx tSkdRx ⟨2 ^ 32, 0, 0, 0⟩, .skdReadRespRx { tSkdRx with port := 32 } tSkdExt,
    .skdReadRespRx tSkdRx ⟨2 ^ 32, 0, 0, 0⟩, .skdAckRx { tSkdRx with port := 32 },
    .skdLookoutRx { tSkdRx with port := 32 } ⟨tLkHdr, .statusQuery 0⟩,
    .skdLookoutRx tSkdRx ⟨{ tLkHdr with path := 3 }, .statusQuery 0⟩, .noticeFenced { tSkdRx with port := 32 },
    .noticeNoConnection { tSkdRx with port := 32 }, .noticeLookout { tSkdRx with port := 32 } tLkNotice,
    .noticeLookout tSkdRx { tLkNotice with kind := 256 }, .noticeIngestResult { tSkdRx with port := 32 },
    .noticeMsgDiscarded { tSkdRx with port := 32 }, .noticeReadError { tSkdRx with port := 32 }, .ackSend (2 ^ 16),
    .packetLost (2 ^ 16) 0, .packetLost 0 (2 ^ 32), .retransmitTimeout (2 ^ 16) 0, .retransmitTimeout 0 (2 ^ 32),
    .quarantineEnd 32 0, .quarantineEnd 0 (2 ^ 6), .keyGraceEnd (2 ^ 16), .earlyRotation (2 ^ 16), .linkDown 32,
    .linkUp 32, .skdTxqTail 64 0 [], .transferWrite (.page 64) tTransferDesc [],
    .transferWrite (.page 0) { tTransferDesc with op := 256 } [], .transferWriteImm (.page 64) tTransferDesc [],
    .transferWriteImm (.page 0) { tTransferDesc with op := 256 } [], .transferRead (.page 64) tTransferDesc,
    .transferRead (.page 0) { tTransferDesc with op := 256 }, .skdCqHead 64 0, .pauseFrameRx 32,
    .rocev2AckNak (2 ^ 16) 0 true, .rocev2AckNak 0 (2 ^ 32) true, .rocev2Cnp (2 ^ 16), .fiReorderRelease 32,
    .egressSelect 32, .subConfigure (.tally { tTallyHdr with path := 4 }) [],
    .subRelease (.tally { tTallyHdr with path := 4 }) [], .lkHeartbeat { tLkHdr with path := 3 } 0 0 true 0 0 [],
    .lkSuspect { tLkHdr with path := 3 } 0 0 0, .lkSuspect tLkHdr (2 ^ 16) 0 0, .lkSuspect tLkHdr 0 (2 ^ 32) 0,
    .lkAbort { tLkHdr with path := 3 } tLkAbort, .lkAbort tLkHdr { tLkAbort with cause := 256 },
    .lkProbe { tLkHdr with path := 3 } 0 0 0, .lkProbe tLkHdr (2 ^ 16) 0 0, .lkProbe tLkHdr 0 (2 ^ 32) 0,
    .lkProbe tLkHdr 0 0 (2 ^ 32), .lkProbeReply { tLkHdr with path := 3 } 0 0 0] : List Instr).all fun c => !c.wf = true := by decide

theorem test_wf_refuses_5 : ([.lkProbeReply tLkHdr (2 ^ 16) 0 0, .lkProbeReply tLkHdr 0 (2 ^ 32) 0, .lkProbeReply tLkHdr 0 0 (2 ^ 32),
    .probeTimeout (2 ^ 32), .lkVote { tLkHdr with path := 3 } 0 0 0, .lkVote tLkHdr (2 ^ 32) 0 0,
    .lkVote tLkHdr 0 (2 ^ 32) 0, .lkVote tLkHdr 0 0 (2 ^ 8), .voteFallback (2 ^ 32),
    .decisionAlive { tLkHdr with path := 3 } tLkDecision,
    .decisionAlive tLkHdr { tLkDecision with outcome := 256 }, .decisionDead { tLkHdr with path := 3 } tLkDecision,
    .decisionDead tLkHdr { tLkDecision with outcome := 256 }, .decisionAdmit { tLkHdr with path := 3 } tLkDecision,
    .decisionAdmit tLkHdr { tLkDecision with outcome := 256 },
    .decisionCoppiceStart { tLkHdr with path := 3 } tLkDecision,
    .decisionCoppiceStart tLkHdr { tLkDecision with outcome := 256 },
    .decisionSlotReady { tLkHdr with path := 3 } tLkDecision,
    .decisionSlotReady tLkHdr { tLkDecision with outcome := 256 },
    .decisionCoOpt { tLkHdr with path := 3 } tLkDecision,
    .decisionCoOpt tLkHdr { tLkDecision with outcome := 256 },
    .decisionEpochShift { tLkHdr with path := 3 } tLkDecision,
    .decisionEpochShift tLkHdr { tLkDecision with outcome := 256 },
    .decisionDomainHold { tLkHdr with path := 3 } tLkDecision,
    .decisionDomainHold tLkHdr { tLkDecision with outcome := 256 },
    .decisionResume { tLkHdr with path := 3 } tLkDecision,
    .decisionResume tLkHdr { tLkDecision with outcome := 256 },
    .decisionOrphaned { tLkHdr with path := 3 } tLkDecision,
    .decisionOrphaned tLkHdr { tLkDecision with outcome := 256 },
    .decisionDemote { tLkHdr with path := 3 } tLkDecision,
    .decisionDemote tLkHdr { tLkDecision with outcome := 256 },
    .decisionScores { tLkHdr with path := 3 } tLkDecision,
    .decisionScores tLkHdr { tLkDecision with outcome := 256 }, .declareVoid { tLkHdr with path := 3 } 0 0,
    .declareVoid tLkHdr (2 ^ 32) 0, .declareVoid tLkHdr 0 (2 ^ 32), .declareAbsent { tLkHdr with path := 3 } 0 0,
    .declareAbsent tLkHdr (2 ^ 32) 0, .declareAbsent tLkHdr 0 (2 ^ 32),
    .declareResume { tLkHdr with path := 3 } 0 0, .declareResume tLkHdr (2 ^ 32) 0,
    .declareResume tLkHdr 0 (2 ^ 32), .declareLoadLate { tLkHdr with path := 3 } 0 0,
    .declareLoadLate tLkHdr (2 ^ 32) 0, .declareLoadLate tLkHdr 0 (2 ^ 32),
    .declareIsolated { tLkHdr with path := 3 } 0 0, .declareIsolated tLkHdr (2 ^ 32) 0,
    .declareIsolated tLkHdr 0 (2 ^ 32), .declareCoppiceDone { tLkHdr with path := 3 } 0 0,
    .declareCoppiceDone tLkHdr (2 ^ 32) 0, .declareCoppiceDone tLkHdr 0 (2 ^ 32),
    .declareReingested { tLkHdr with path := 3 } 0 0, .declareReingested tLkHdr (2 ^ 32) 0,
    .declareReingested tLkHdr 0 (2 ^ 32), .declareVerifyDone { tLkHdr with path := 3 } 0 0,
    .declareVerifyDone tLkHdr (2 ^ 32) 0, .declareVerifyDone tLkHdr 0 (2 ^ 32),
    .declareHoldMembership { tLkHdr with path := 3 } 0 0, .declareHoldMembership tLkHdr (2 ^ 32) 0,
    .declareHoldMembership tLkHdr 0 (2 ^ 32)] : List Instr).all fun c => !c.wf = true := by decide

theorem test_wf_refuses_6 : ([.lkJoin { tLkHdr with path := 3 } 0 0 [], .lkJoin tLkHdr (2 ^ 64) 0 [], .lkJoin tLkHdr 0 (2 ^ 16) [],
    .joinSend (2 ^ 16), .lkLate { tLkHdr with path := 3 } 0 0 0, .lkLate tLkHdr (2 ^ 32) 0 0,
    .lkLate tLkHdr 0 (2 ^ 32) 0, .latenessTally (2 ^ 32) 0, .latenessTally 0 (2 ^ 32),
    .lkStatusQuery { tLkHdr with path := 3 } 0, .lkStatusQuery tLkHdr (2 ^ 64),
    .lkStatusReply { tLkHdr with path := 3 } 0 0 0 0, .lkStatusReply tLkHdr (2 ^ 64) 0 0 0,
    .lkStatusReply tLkHdr 0 (2 ^ 16) 0 0, .lkStatusReply tLkHdr 0 0 0 (2 ^ 32),
    .lkSnapshot { tLkHdr with path := 3 } 0 [], .lkFenced { tLkHdr with path := 3 } 0 0,
    .lkFenced tLkHdr (2 ^ 16) 0, .lkFenced tLkHdr 0 (2 ^ 32), .decisionMissing (2 ^ 32),
    .deliveryFault { tFragKey with step := 2 ^ 32 }, .councilReseed (.tally { tTallyHdr with path := 4 }) [],
    .define (.tally { tTallyHdr with path := 4 }) 0, .define (.smbus true) 64,
    .destroy (.tally { tTallyHdr with path := 4 }) 0, .destroy (.smbus true) 64,
    .context0Program (.tally { tTallyHdr with path := 4 }) [], .contextSwitch 16 true 0 0,
    .advanceSvn (.tally { tTallyHdr with path := 4 }), .attestRequest (.tally { tTallyHdr with path := 4 }) [],
    .operatorKeysWrite (.tally { tTallyHdr with path := 4 }) [],
    .sessionHello { tTallyHdr with path := 0 } 0 [] [], .sessionProof { tTallyHdr with path := 0 } [],
    .sessionClose { tTallyHdr with path := 0 }, .challengeTimeout (2 ^ 32), .sessionIdleTimeout (2 ^ 32),
    .sessionLifeTimeout (2 ^ 32), .clusterGateWrite (.tally { tTallyHdr with path := 4 }) 0,
    .portGateWrite (.tally { tTallyHdr with path := 4 }) 0, .resetCmdDevice (.tally { tTallyHdr with path := 4 }),
    .resetCmdDeviceForce (.tally { tTallyHdr with path := 4 }), .tallyRead { tTallyHdr with path := 0 } 0 0 0 0,
    .tallyRead tTallyHdr (2 ^ 16) 0 0 0, .tallyRead tTallyHdr 0 (2 ^ 8) 0 0,
    .tallyMeta { tTallyHdr with path := 0 } 0 0, .tallyMeta tTallyHdr (2 ^ 16) 0, .tallyMeta tTallyHdr 0 (2 ^ 8),
    .blobBegin { tTallyHdr with path := 0 } 0 0 0 [], .blobBegin tTallyHdr (2 ^ 16) 0 0 [],
    .blobBegin tTallyHdr 0 (2 ^ 8) 0 [], .blobData { tTallyHdr with path := 0 } 0 0 [],
    .blobEnd { tTallyHdr with path := 0 } 0, .blobAbort { tTallyHdr with path := 0 } 0,
    .blobTransferTimeout (2 ^ 32) 0, .subscribe { tTallyHdr with path := 0 } [] 0 true,
    .eventAck { tTallyHdr with path := 0 } 0, .eventAck tTallyHdr (2 ^ 64), .eventSend (2 ^ 32),
    .eventResend (2 ^ 32) 0, .eventResend 0 (2 ^ 64)] : List Instr).all fun c => !c.wf = true := by decide

theorem test_wf_refuses_7 : ([.smbSelect true (2 ^ 16) 0 0, .smbSelect true 0 (2 ^ 8) 0,
    .smbAlertClear (.tally { tTallyHdr with path := 4 }) [],
    .logAckedWrite (.tally { tTallyHdr with path := 4 }) [], .mgmtLinkChange 2 true] : List Instr).all fun c => !c.wf = true := by decide
/-! ### The states of the witnesses -/

/-- The device out of reset, before start-up. -/
def tRun : State := { State.reset with pwr := { State.reset.pwr with inReset := false, perstLow := false } }

theorem tRun_sound : tRun.Sound :=
  ⟨⟨by decide +kernel, by decide +kernel, by decide +kernel⟩, by decide +kernel, by decide +kernel⟩

/-- `s` with numbers in its dictionary. -/
@[irreducible] def tNums (s : State) (l : List (Nat × Nat)) : State := l.foldl (fun s p => s.setN p.1 p.2) s

theorem tSetN_sound {s : State} (h : s.Sound) (k v : Nat) : (s.setN k v).Sound := by
  obtain ⟨od, e⟩ := Laws.setN_dict s k v
  have := Laws.canonical_setN h.1 k v
  rw [e] at this ⊢
  exact ⟨this, h.2⟩

theorem tNums_sound {s : State} (h : s.Sound) (l : List (Nat × Nat)) : (tNums s l).Sound := by
  unfold tNums
  induction l generalizing s with
  | nil => exact h
  | cons p l ih => exact ih (tSetN_sound h p.1 p.2)

/-- What soundness rests on. -/
theorem tSound {s t : State} (h : s.Sound) (e : t.od = s.od ∧ t.dev = s.dev ∧ t.log = s.log ∧ t.mem = s.mem) : t.Sound := by
  unfold State.Sound
  rw [e.1, e.2.1, e.2.2.1, e.2.2.2]
  exact h

theorem tOk {ε α : Type} {x : Except ε α} (h : x.isOk = true) : ∃ y, x = .ok y := by
  cases x with
  | error e => cases h
  | ok y => exact ⟨y, rfl⟩

theorem tOkEq {ε α : Type} {x : Except ε α} {a : α} (h : x.toOption = some a) : x = .ok a := by
  cases x with
  | error e => cases h
  | ok y => exact congrArg _ (Option.some.inj h)

theorem tSome {α : Type} {x : Option α} (h : x.isSome = true) : ∃ y, x = some y := by
  cases x with
  | none => cases h
  | some y => exact ⟨y, rfl⟩

/-- An open ADMIN and TEST session, and a request of it. -/
def tSes : Session :=
  ⟨1, true, false, true, 0, zeros 97, zeros 32, 0, [], 0, 0, 1, 0, 0, 0, 0, [], 1, none, 1, []⟩
def tHdr : TallyHdr := ⟨1, 0, 0, true, 100, true, 1, 1, 1, true⟩
def tOpen (x : Session) (s : State) : State := { s with mgmt := { s.mgmt with sessions := [x] } }
def tSes1 : State := tOpen tSes tRun
theorem tSes1_sound : tSes1.Sound := tSound tRun_sound ⟨rfl, rfl, rfl, rfl⟩

theorem tRunning {s : State} (h : s.stopped = false) : s.running := h
theorem tAlive {s : State} (h : s.stopped = false ∧ s.pwr.lossStopped = false) : s.alive := h
theorem tTakes {s : State} {h : TallyHdr} {x : Session} (e : h.wellFormed = true ∧
    (h.path = 3 ∨ h.size ≤ s.num Reg.mgmt.tallyMaxMsg) ∧ s.num Reg.sec.bootState ≠ 3 ∧ h.session ≠ 0 ∧
    s.session? h.session = some x ∧ h.secure = true ∧ h.tagOk = true ∧ x.counter < h.counter ∧
    ∀ k ∈ x.kept, k.reqId < h.reqId) : s.takes h x := e
theorem tSes1_takes : tSes1.takes tHdr tSes := tTakes (by decide +kernel)
theorem tSes1_running : tSes1.running := tRunning (by decide +kernel)

theorem tSetB_sound {s : State} (h : s.Sound) (k : Nat) (v : Bytes) : (s.setB k v).Sound := by
  obtain ⟨od, e⟩ := Laws.setB_dict s k v
  have := Laws.canonical_setB h.1 k v
  rw [e] at this ⊢
  exact ⟨this, h.2⟩

/-- A key with the ADMIN role (R513). -/
def tKey : Bytes := [1] ++ zeros 127
def tLater (n : Nat) (s : State) : State := { s with rc := { s.rc with upCycles := n } }

/-- An open connection that delivers to consumer 0 by port 0. -/
def tConn : Conn :=
  { num := 1, kind := 1, roce := false, target := false, compress := false, ipv4 := false, ctx := 0, port := 0, peerConn := 9,
    peerSlot := 2, peerGen := 1, consumer := 0, addr := zeros 16, mask := 1, slotBytes := 4096, mtu := 4096, stream := 0,
    service := 2, secret := zeros 32, rkeys := zeros 32, sub := 0, state := .open_, keyEpoch := 0, graceUntil := none,
    confirmed := 0, serial := 1, nextPsn := 0, nextMsg := 0, backlog := [], unacked := [], ops := [], srtt := none, rttvar := 0,
    rate := 1000, alpha := 0, clean := 0, ackedP := 0, markedP := 0, credit := 0, rxCum := 0, rxAbove := [], newAck := 0,
    newCe := 0, newRej := 0, ackLabel := 0, ackEcho := 0, rxMsgs := [], rxDone := [], lastLabel := 0, tags := [],
    answered := false, rejects := 0, txCount := 0, rxCount := 0 }

def tHeader : SchedHeader :=
  ⟨false, false, true, 0, 0, 0, 0, zeros 48, zeros 48, zeros 48, 0, 0, 4, 1000, 10, 0, 1, 1, 0, 1, 1, 0, 0, 4, 0, 7, zeros 48,
    zeros 48⟩
/-- One fragment of step 0 for consumer 0. -/
def tFrag : Fragment := ⟨0, 0, 0, 0, false, 0, 64, 1, 0, 1, 0, 0, 0, 0, 0⟩
def tSection : Section := ⟨tHeader, 0, [tFrag], [], [⟨0, 0, 64, 0, 0⟩], [], 0, true⟩
def tKeyF : FragKey := ⟨0, 0, 0, none⟩
def tDeckEntry : DeckEntry := ⟨tKeyF, tFrag, .ready, 0, 0, 0, 0, 0, 0, 0, 0, false, false⟩

/-- Pool 1 with one buffer of two blocks for context 0, the blocks poisoned as given. -/
def tPool (poisoned : List Nat) : Pool :=
  { Pool.ofBlocks 4096 with fresh := 2, bufs := [⟨0, 0, some 0, 1, [0, 1], 0⟩], poisoned := poisoned }
def tPooled (p : Pool) (s : State) : State := { s with mem := { s.mem with pools := [(1, p)] } }
theorem tPooled_sound {p : Pool} {s : State} (h : s.Sound) (hm : s.mem = tRun.mem ∧ s.dev = tRun.dev)
    (hp : ({ tRun.mem with pools := [(1, p)] } : Memory).wf tRun.dev.variant = true) : (tPooled p s).Sound := by
  refine ⟨h.1, h.2.1, ?_⟩
  show ({ s.mem with pools := [(1, p)] } : Memory).wf s.dev.variant = true
  rw [hm.1, hm.2]
  exact hp

/-- Context 0 resident on cluster 0. -/
def tRes (s : State) : State := { s with sec := { s.sec with clusters := [(0, ⟨some 0, 0, false⟩)] } }
theorem tRes_sound {s : State} (h : s.Sound) : (tRes s).Sound := tSound h ⟨rfl, rfl, rfl, rfl⟩
/-- A core's request of context 0. -/
def tReq : Requester := ⟨0x1000, 0⟩
/-- The device with a buffer of context 0 (handle 2^27), context 0 resident. -/
def tBuf : State := tPooled (tPool []) (tRes tRun)
theorem tBuf_sound : tBuf.Sound := tPooled_sound (tRes_sound tRun_sound) ⟨rfl, rfl⟩ (by decide +kernel)
/-! ### Witnesses: each clause of each statement has a state and operands that meet its hypotheses -/

/-- A session with a transfer of GRADE_FILE. -/
def tTransfer : Transfer := ⟨1, 0x4700, 2, 1, sha384 [7], [7], [true], 0⟩
def tSesX : Session := { tSes with transfers := [tTransfer] }
def tOld : State := { tOpen tSesX tRun with rc := { tRun.rc with upCycles := 60 * cyclesPerS } }

theorem witness_TallyReadsAndTransfersComplete :
    (tOpen tSesX tRun).Sound ∧ (tOpen tSesX tRun).running ∧ (tOpen tSesX tRun).takes tHdr tSesX ∧
    (∃ y, ((tOpen tSesX tRun).served tHdr tSesX).odRead (.session 1) 0x1000 6 = .ok y) ∧
    (∃ r, odRowOf 0x1000 6 = .ok r ∧ vendorTest 0x1000 = false ∧
      (tOpen tSesX tRun).mayRead (.session 1) (if r.acc = .wo then { r with acc := .rw } else r) 0x1000 6 = true) ∧
    ((tOpen tSesX tRun).served tHdr tSesX).transferRefusal (.session 1) (tSesX.accepted tHdr 0) 0x4700 2 5 = none ∧
    tSesX.transfer? 1 = some tTransfer ∧ 0 + [(1 : Byte)].length ≤ tTransfer.total ∧
    tTransfer.idx = 0x4700 ∧ tTransfer.sub = 2 ∧ tSesX.admin = true ∧ (tOpen tSesX tRun).grading = false ∧
    tTransfer.written.contains false = false ∧ tTransfer.staged.length ≤ blobMax ∧
    sha384 tTransfer.staged = tTransfer.digest ∧ tTransfer.lastAt + 60 * cyclesPerS ≤ tOld.now := by
  refine ⟨tSound tRun_sound ⟨rfl, rfl, rfl, rfl⟩, tRunning (by decide +kernel), tTakes (by decide +kernel),
    tOk (by decide +kernel), ⟨_, rfl, by decide +kernel, by decide +kernel⟩, ?_⟩
  exact ⟨by decide +kernel, by decide +kernel, by decide +kernel, by decide +kernel, by decide +kernel, by decide +kernel,
    by decide +kernel, by decide +kernel, by decide +kernel, by decide +kernel, by decide +kernel⟩

def tEntry : LogEntry :=
  ⟨0, 0x12FF, 0x1201, false, false, false, false, false, false, false, 1, 0xFF, 1, 0, 0, 0, [], [], 0, false, false⟩
def tSub : Subscription := ⟨[0x12], 0, false, [tEntry], [⟨1, 0, [tEntry], 0⟩], 0⟩
def tSesSub : Session := { tSes with sub := some tSub }
def tEvents : State := tLater cyclesPerS (tNums (tOpen tSesSub tRun) [(Reg.mgmt.mgmtLinks, 1), (Reg.smb.smbAlertStatus, 2),
  (Reg.smb.smbAlertMask, 2)])
def tSmb : State := { tEvents with mgmt := { tEvents.mgmt with smb := ⟨0x1000, 6, 0, 0x1100, 30⟩ } }

theorem witness_EventsMailboxAndSmbusComplete :
    tEvents.Sound ∧ tEvents.running ∧ tSes1.takes tHdr tSes ∧ tEvents.session? 1 = some tSesSub ∧ tSesSub.sub = some tSub ∧
    120 ≤ tEvents.num Reg.mgmt.tallyMaxMsg ∧
    (tSub.unacked.find? fun k => k.counter == 1) = some ⟨1, 0, [tEntry], 0⟩ ∧ 0 + cyclesPerS ≤ tEvents.now ∧
    tSesSub.lastPath = 1 ∧ (tEvents.num Reg.mgmt.mgmtLinks).testBit 0 = true ∧ tEvents.mgmt.mbox.go = false ∧
    (31 < 32 ∨ 2032 < 31) ∧ tEvents.num Reg.sec.bootState ≠ 3 ∧ tSmb.Sound ∧ tSmb.running ∧
    (∃ y, tSmb.odRead .smbus tSmb.mgmt.smb.idx tSmb.mgmt.smb.sub = .ok y) ∧ tEvents.alertAsserted = true := by
  have h : tEvents.Sound := tSound (tNums_sound (tSound tRun_sound (t := tOpen tSesSub tRun) ⟨rfl, rfl, rfl, rfl⟩) _)
    ⟨rfl, rfl, rfl, rfl⟩
  refine ⟨h, tRunning (by decide +kernel), tSes1_takes, by decide +kernel, rfl, by decide +kernel, by decide +kernel, by decide +kernel,
    rfl, by decide +kernel, by decide +kernel, by decide +kernel, by decide +kernel, tSound h ⟨rfl, rfl, rfl, rfl⟩,
    tRunning (by decide +kernel), tOk (by decide +kernel), by decide +kernel⟩

def tKeys : State := tRun.setB Reg.sess.operatorKeys tKey
def tHello : TallyHdr := { tHdr with session := 0 }
def tChallenge : Challenge := ⟨1, 0, 0, [], [], 0⟩
def tProof : State := { tKeys with mgmt := { tKeys.mgmt with challenges := [tChallenge] } }
def tIdle : State := tLater (100000 * cyclesPerS) tSes1
def tTest : State := { tRun with sec := { tRun.sec with testEn := true } }

theorem witness_SessionsAndTestEnComplete :
    tKeys.Sound ∧ tKeys.running ∧ tKeys.takesTally tHello = none ∧ tHello.session = 0 ∧
    (keyEntries (tKeys.blob Reg.sess.operatorKeys))[0]? = some tKey ∧ leAt tKey 0 1 % 8 ≠ 0 ∧
    tProof.Sound ∧ tProof.running ∧ tProof.takesTally tHdr = none ∧
    (tProof.mgmt.challenges.find? fun c => c.session == tHdr.session) = some tChallenge ∧
    (keyEntries (tProof.blob Reg.sess.operatorKeys))[tChallenge.keyIndex]? = some tKey ∧ tProof.mgmt.sessions.length < 16 ∧
    tSes1.Sound ∧ tSes1.running ∧ tSes1.takes tHdr tSes ∧ tIdle.Sound ∧ tIdle.running ∧ tIdle.session? 1 = some tSes ∧
    tSes.lastAt + tIdle.num Reg.sess.sessionIdleS * cyclesPerS ≤ tIdle.now ∧
    tSes.openedAt + tIdle.num Reg.sess.sessionLifeS * cyclesPerS ≤ tIdle.now ∧
    tTest.Sound ∧ tTest.running ∧ tTest.sec.testEn = true := by
  have h : tKeys.Sound := tSetB_sound tRun_sound _ _
  refine ⟨h, tRunning (by decide +kernel), by decide +kernel, rfl, by decide +kernel, by decide +kernel,
    tSound h ⟨rfl, rfl, rfl, rfl⟩, tRunning (by decide +kernel), by decide +kernel, by decide +kernel, by decide +kernel, by decide +kernel,
    tSes1_sound, tSes1_running, tSes1_takes, tSound tSes1_sound ⟨rfl, rfl, rfl, rfl⟩, tRunning (by decide +kernel), by decide +kernel,
    by decide +kernel, by decide +kernel, tSound tRun_sound ⟨rfl, rfl, rfl, rfl⟩, tRunning (by decide +kernel), rfl⟩

def tMerged : State := { tSes1 with log := { tSes1.log with merged := true } }

theorem witness_ManagementWritesComplete :
    tSes1.Sound ∧ tSes1.running ∧ tSes1.num Reg.sec.bootState ≠ 3 ∧ [(1 : Byte), 2].length = 2 ∧ tSes1.takes tHdr tSes ∧
    tSes.admin = true ∧ tSes1.inRun = false ∧ tKey.length % 128 = 0 ∧ tKey.length ≤ 1024 ∧
    (keyEntries tKey).all keyEntryOk = true ∧ (zeros 48).length = 48 ∧
    tMerged.Sound ∧ tMerged.running ∧ tMerged.num Reg.sec.bootState ≠ 3 ∧ tMerged.takes tHdr tSes ∧ (zeros 4).length = 4 ∧
    tMerged.log.merged = true ∧ tMerged.log.acked ≤ leNat (zeros 4) ∧ leNat (zeros 4) ≤ tMerged.log.written := by
  have h : tMerged.Sound := ⟨tSes1_sound.1, Nat.zero_le _, tSes1_sound.2.2⟩
  refine ⟨tSes1_sound, tSes1_running, by decide +kernel, rfl, tSes1_takes, rfl, by decide +kernel, by decide +kernel,
    by decide +kernel, by decide +kernel, by decide +kernel, h, tRunning (by decide +kernel), by decide +kernel,
    tTakes (by decide +kernel), by decide +kernel, rfl, by decide +kernel, by decide +kernel⟩
def tRc (x : RingCount → RingCount) : State := { tRun with rc := x tRun.rc }
def tPtp (x : RingCount → RingCount) : State := tNums (tRc x) [(Reg.ptp.ptpEnable, 1)]
theorem tRc_sound (x : RingCount → RingCount) : (tRc x).Sound := tSound tRun_sound ⟨rfl, rfl, rfl, rfl⟩
def tOut : State := tNums (tRc fun x => { x with outlierRun := 100000, gmRun := 16 }) [(Reg.xchk.outlierRings, 1)]

theorem witness_RingCountCommandsComplete :
    tRun.Sound ∧ tRun.running ∧
    (∃ s : State, s.Sound ∧ s.running ∧ s.num Reg.ptp.ptpEnable ≠ 0 ∧ s.rc.state = .unset) ∧
    (∃ s : State, s.Sound ∧ s.running ∧ s.num Reg.ptp.ptpEnable ≠ 0 ∧ s.rc.state = .acquiring ∧
      (20 - i32Val (s.num Reg.ptp.asymNs)).natAbs ≤ s.num Reg.ptp.stepThresholdNs ∧
      s.num Reg.ptp.stepThresholdNs < ((10 ^ 9 : Int) - i32Val (s.num Reg.ptp.asymNs)).natAbs ∧ s.inRun = false ∧ 64 ≤ s.rc.okRun) ∧
    (∃ (s : State) (n : Nat), s.Sound ∧ s.running ∧ s.num Reg.ptp.ptpEnable ≠ 0 ∧ s.rc.state = .locked ∧ s.rc.sinceSync = some n ∧
      3 * s.syncInterval ≤ n) ∧
    (∃ s : State, s.Sound ∧ s.running ∧ s.rc.state = .holdover ∧ s.num Reg.ptp.holdoverRings ≤ s.rc.holdRings) ∧
    (∃ s : State, s.Sound ∧ s.running ∧ s.num Reg.xchk.outlierRings ≤ s.rc.outlierRun ∧ 16 ≤ s.rc.gmRun) := by
  refine ⟨tRun_sound, tRunning (by decide +kernel), ⟨tPtp id, tNums_sound (tRc_sound _) _, tRunning (by decide +kernel), ?_⟩,
    ⟨tPtp fun x => { x with state := .acquiring, okRun := 64 }, tNums_sound (tRc_sound _) _, tRunning (by decide +kernel), ?_⟩,
    ⟨tPtp fun x => { x with state := .locked, sinceSync := some (10 ^ 12) }, 10 ^ 12, tNums_sound (tRc_sound _) _,
      tRunning (by decide +kernel), ?_⟩,
    ⟨tRc fun x => { x with state := .holdover, holdRings := 10 ^ 12 }, tRc_sound _, tRunning (by decide +kernel), ?_⟩,
    ⟨tOut, tNums_sound (tRc_sound _) _, tRunning (by decide +kernel), ?_⟩⟩ <;> decide +kernel

def tStand (x : Stand → Stand) : State := { tRun with stand := x tRun.stand }
theorem tStand_sound (x : Stand → Stand) : (tStand x).Sound := tSound tRun_sound ⟨rfl, rfl, rfl, rfl⟩
def tMember : State := tStand fun x =>
  { x with state := .member, members := [0, 1], masterId := 1, silentRings := [(1, 2)], armedBarrier := some (5, 0), links := 3 }
def tBarrier : Barrier := ⟨5, [0], [], true, 0⟩
def tMaster : State := { tStand fun x =>
  { x with state := .master, members := [0, 1], masterId := 0, barriers := [tBarrier] } with rc := { tRun.rc with ring := 10 ^ 9 } }
def tForming : State := tLater (10 ^ 12) (tStand fun x => { x with state := .forming, windowOpenAt := some 0 })

theorem witness_StandCommandsComplete :
    (∃ s : State, s.Sound ∧ s.alive ∧ s.portsMayRise = true) ∧
    (tMember.Sound ∧ tMember.alive ∧ clearBit tMember.stand.links (linkBit true) ≠ 0 ∧ tMember.inStand = true ∧
      tMember.stand.members.contains 1 = true ∧ tMember.stand.term < 1 ∧ (1 : Nat) ≠ tMember.standId ∧
      tMember.stand.state = .member ∧ 2 ≤ tMember.stand.silence tMember.stand.masterId ∧
      tMember.stand.members.contains tMember.stand.masterId = true ∧
      tMember.stand.armedBarrier = some (5, tMember.stand.term) ∧ tMember.stand.waiting = []) ∧
    (tForming.Sound ∧ tForming.alive ∧ (7 : Nat) ≠ tForming.dev.uid ∧ tForming.stand.state = .forming ∧
      tForming.stand.hellos.contains ⟨3, 7⟩ = false ∧ tForming.stand.windowOpenAt = some 0 ∧
      0 + tForming.num Reg.stand.formWindowMs * 100000 ≤ tForming.now ∧ tForming.stand.armedBarrier = none) ∧
    (tMaster.Sound ∧ tMaster.alive ∧ tMaster.stand.state = .master ∧ tMaster.stand.members.contains 1 = true ∧
      tMaster.stand.barrier? 5 = some tBarrier ∧ tBarrier.armed.contains 1 = false ∧
      tBarrier.firstRing + tMaster.num Reg.stand.barrierTimeout ≤ tMaster.rc.ring ∧ tMaster.stand.waiting = []) := by
  refine ⟨⟨tNums tRun [(Reg.start.startState, 3)], tNums_sound tRun_sound _, tAlive (by decide +kernel), by decide +kernel⟩,
    ⟨tStand_sound _, tAlive (by decide +kernel), by decide +kernel⟩,
    ⟨tSound tRun_sound ⟨rfl, rfl, rfl, rfl⟩, tAlive (by decide +kernel), by decide +kernel⟩,
    ⟨tSound tRun_sound ⟨rfl, rfl, rfl, rfl⟩, tAlive (by decide +kernel), by decide +kernel⟩⟩

def tSched (x : Sched → Sched) (l : List (Nat × Nat)) : State := tNums { tRun with sched := x tRun.sched } l
theorem tSched_sound (x : Sched → Sched) (l : List (Nat × Nat)) : (tSched x l).Sound :=
  tNums_sound (s := { tRun with sched := x tRun.sched }) (tSound tRun_sound ⟨rfl, rfl, rfl, rfl⟩) l
def tRecord (type : Nat) : JRecord := ⟨type, false, 0, 0, 0, 3, [0x10, 0x11, 2] ++ [1, 2]⟩
def tReplay (type : Nat) : State := tSched (fun x => { x with kept := [⟨0, 0, false, [tRecord type]⟩] }) [(Reg.sched.state, 5)]
def tLaunch : State :=
  { tSched (fun x => { x with active := some tSection }) [(Reg.sched.state, 3), (Reg.portStat.linkUp 0, 1)] with
    deck := { tRun.deck with entries := [tDeckEntry] }, skd := { tRun.skd with conns := [tConn] } }
def tRetained : DeckEntry := { tDeckEntry with state := .retained }

theorem witness_ScheduleAndLaunchCommandsComplete :
    (tSes1.Sound ∧ tSes1.alive ∧ tSes1.takes tHdr tSes ∧ tSes.admin = true ∧ ([] : Bytes).length ≤ blobMax) ∧
    (∃ s : State, s.Sound ∧ s.alive ∧ s.schedState = schedLoaded ∧ s.num Reg.sched.runStart = s.rc.ring ∧
      s.sched.next = some tSection ∧ s.rc.state = .locked ∧ s.schedPinned = true) ∧
    (∃ s : State, s.Sound ∧ s.alive ∧ s.nextStart = s.rc.ring ∧ s.schedState = schedArmed ∧ s.sched.next = some tSection ∧
      tSection.verified = true) ∧
    (tLaunch.Sound ∧ tLaunch.alive ∧ tLaunch.sched.active = some tSection ∧ tLaunch.started = true ∧ 0 < tSection.hdr.steps ∧
      0 ≤ tLaunch.stepNow ∧ tLaunch.sched.digested.contains (tSection.hdr.epoch, 0) = false ∧
      tLaunch.entry? tKeyF = some tDeckEntry ∧ tLaunch.sectionOf tKeyF.epoch = some (tSection, 0) ∧
      tLaunch.delivery tKeyF.consumer = some tConn ∧ tDeckEntry.state = .ready ∧
      instant tDeckEntry.ring tDeckEntry.grain ≤ tLaunch.nowGrain ∧ tLaunch.schedState = 3 ∧ tLaunch.mayLaunch tKeyF = true ∧
      tConn.roce = false ∧ tLaunch.bufPoisoned tDeckEntry.mem 0 tDeckEntry.frag.length = false ∧
      tLaunch.num (Reg.portStat.linkUp tConn.port) ≠ 0 ∧
      instant tDeckEntry.ring tDeckEntry.grain ≤ tLaunch.nowGrain + tLaunch.num Reg.launch.launchPrefetch) ∧
    (∀ type, type = 0x11 ∨ type = 0x14 → ∃ j, (tReplay type).Sound ∧ (tReplay type).alive ∧ (tReplay type).replayJournal = some j ∧
      (j.records.find? fun r => r.sequence == 3) = some (tRecord type) ∧ (tReplay type).schedState = schedReplay ∧
      (tReplay type).sched.injected.contains 3 = false ∧
      ((tReplay type).num Reg.sched.runStart + ((tRecord type).ring - j.runStart)) * 1024 + (tRecord type).grain ≤
        (tReplay type).rc.ring * 1024 + (tReplay type).grain) ∧
    (∃ s : State, s.Sound ∧ s.alive ∧ s.entry? tKeyF = some tRetained ∧ tRetained.retain ≤ s.rc.ring ∧
      tRetained.state = .retained) := by
  refine ⟨⟨tSes1_sound, tAlive (by decide +kernel), tSes1_takes, rfl, by decide +kernel⟩,
    ⟨{ tSched (fun x => { x with next := some tSection }) [(Reg.sched.state, 1), (Reg.ctx.pinned 0, 1)] with
        rc := { tRun.rc with state := .locked } },
      tSound (tSched_sound (fun x => { x with next := some tSection }) [(Reg.sched.state, 1), (Reg.ctx.pinned 0, 1)])
        ⟨rfl, rfl, rfl, rfl⟩, tAlive (by decide +kernel), by decide +kernel⟩,
    ⟨tSched (fun x => { x with next := some tSection }) [(Reg.sched.state, 2)], tSched_sound _ _, tAlive (by decide +kernel),
      by decide +kernel⟩,
    ⟨tSound (tSched_sound (fun x => { x with active := some tSection }) [(Reg.sched.state, 3), (Reg.portStat.linkUp 0, 1)])
        ⟨rfl, rfl, rfl, rfl⟩, tAlive (by decide +kernel), by decide +kernel⟩, ?_,
    ⟨{ tRun with deck := { tRun.deck with entries := [tRetained] } }, tSound tRun_sound ⟨rfl, rfl, rfl, rfl⟩,
      tAlive (by decide +kernel), by decide +kernel⟩⟩
  rintro type (rfl | rfl)
  · exact ⟨⟨0, 0, false, [tRecord 0x11]⟩, tSched_sound _ _, tAlive (by decide +kernel), by decide +kernel⟩
  · exact ⟨⟨0, 0, false, [tRecord 0x14]⟩, tSched_sound _ _, tAlive (by decide +kernel), by decide +kernel⟩

def tRecords : State := tLater (10 ^ 14) { tNums tRun [(Reg.yard.yardState, 2), (Reg.ptp.ptpEnable, 1)] with
  nv := { tRun.nv with boot := ⟨[], [], [Reg.smb.smbAlertMask]⟩, yard := ⟨[], [], [Reg.lkCfg.hbWindow]⟩ }
  mgmt := { tRun.mgmt with hwLoaded := true }, log := ⟨[tEntry], 1, 0, true⟩ }

theorem witness_RecordsAndClocksComplete :
    tRecords.Sound ∧ tRecords.running ∧ tRecords.nv.boot.pendingKeys.contains Reg.smb.smbAlertMask = true ∧
    tRecords.nv.boot.pendingKeys.contains Reg.lkCfg.hbWindow = false ∧
    tRecords.nv.yard.pendingKeys.contains Reg.lkCfg.hbWindow = true ∧ tRecords.yardUsable = true ∧
    tRecords.mgmt.hwLoaded = true ∧ tRecords.mgmt.hwAt + tRecords.num Reg.hw.hwIntervalS * 100000000 ≤ tRecords.now ∧
    tRecords.log.merged = true ∧ tEntry ∈ tRecords.log.entries ∧ tEntry.closed = false ∧ tEntry.windowEnd ≤ tRecords.now ∧
    (∀ f ∈ tRecords.log.entries, f.seq = tEntry.seq → f = tEntry) ∧ tRecords.num Reg.ptp.ptpEnable ≠ 0 := by
  have h := tNums_sound tRun_sound [(Reg.yard.yardState, 2), (Reg.ptp.ptpEnable, 1)]
  exact ⟨⟨h.1, by decide +kernel, h.2.2⟩, tRunning (by decide +kernel), by decide +kernel⟩

/-! ### Witnesses: Lookout -/

def tLk (x : Lookout → Lookout) (l : List (Nat × Nat)) (c : List Nat) : State :=
  tNums (({ tRun with lookout := x tRun.lookout } : State).setB Reg.council.council (slotBytes c)) l
theorem tLk_sound (x : Lookout → Lookout) (l : List (Nat × Nat)) (c : List Nat) : (tLk x l c).Sound :=
  tNums_sound (s := ({ tRun with lookout := x tRun.lookout } : State).setB Reg.council.council (slotBytes c))
    (tSetB_sound (s := { tRun with lookout := x tRun.lookout }) (tSound tRun_sound ⟨rfl, rfl, rfl, rfl⟩) _ _) l

/-- A frame of slot 2, generation 9. -/
def tFrameHdr : LkHdr := ⟨true, 0, 2, 0, false, true, 9, 0, 0, 0, 1, 0, true, 0⟩
def tMem (slot gen state : Nat) : Member := ⟨slot, 100 + slot, gen, state, 0, 0, zeros 48⟩
def tSlot (n : Nat) : List (Nat × Nat) := [(Reg.lk.slot, n), (Reg.lk.generation, 7)]
def tSus : Suspicion := ⟨2, 9, 0, some 0, 0, [], [], false⟩
theorem tHears {s : State} {h : LkHdr} (e : h.wellFormed = true ∧ h.domain = s.num Reg.lkCfg.domainId ∧
    s.pairRevoked h.srcSlot h.generation = false ∧ h.keyEpoch = s.num Reg.lk.lkKeyEpoch % 256 ∧ h.tagOk = true ∧
    (s.seenFrom h).contains h.msgSeq = false ∧ s.lookout.tellIsolated = false) : s.hears h := e

/-- Outside the council: a member of slot 1 that has slot 2 as a peer. -/
def tPeer : State := tLk (fun x => { x with peers := [⟨2, 9, false, 0, 0, 0⟩] }) (tSlot 1 ++ [(Reg.lk.lkState, 5)]) []
/-- In a council of slots 0 and 1, led by slot 0. -/
def tVoter (subjects : List Suspicion) : State :=
  tLk (fun x => { x with suspicions := subjects, members := [tMem 0 6 5, tMem 1 7 5, tMem 2 9 5] })
    (tSlot 1 ++ [(Reg.lk.lkState, 5), (Reg.lk.leader, 0), (Reg.lk.domainState, 0)]) [0, 1, 2]
/-- The leader of that council. -/
def tLeader (subjects : List Suspicion) : State :=
  tLk (fun x => { x with suspicions := subjects, members := [tMem 0 7 5, tMem 1 6 5, tMem 2 9 5] })
    (tSlot 0 ++ [(Reg.lk.lkState, 5), (Reg.lk.leader, 0), (Reg.lk.domainState, 0)]) [0, 1, 2]
def tRoster : State := tSetRoster
where tSetRoster : State := (tVoter []).setB Reg.council.roster (leBytes 8 55)

theorem witness_LookoutFramesComplete :
    (tPeer.Sound ∧ tPeer.running ∧ tPeer.hears tFrameHdr ∧ tPeer.inCouncil = false ∧
      (tPeer.lookout.peers.any fun p => p.gen == tFrameHdr.generation) = true ∧ tFrameHdr.ring = tPeer.rc.ring ∧
      tPeer.grain < tPeer.num Reg.lkCfg.hbWindow ∧ tPeer.lkState = 5 ∧ (1 : Nat) = tPeer.mySlot ∧ (7 : Nat) = tPeer.myGen ∧
      tPeer.lkMaySend 5 = true ∧ tPeer.lkState ≠ 9 ∧ tPeer.myGen ≠ 0 ∧ tPeer.lookout.asked = false) ∧
    ((tVoter []).Sound ∧ (tVoter []).running ∧ (tVoter []).hears tFrameHdr ∧ (tVoter []).inCouncil = true ∧
      (2 : Nat) ≠ (tVoter []).mySlot ∧ (tVoter []).member? 2 = some (tMem 2 9 5) ∧ (tVoter []).lookout.suspicions = [] ∧
      (tVoter []).pairRevoked 2 9 = false ∧ lowest ((tVoter []).council.filter fun x => x != 2) ≠ (tVoter []).mySlot ∧
      (tVoter []).lkMaySend 0x0C = true) ∧
    ((tVoter [tSus]).Sound ∧ (tVoter [tSus]).running ∧ (tVoter [tSus]).hears tFrameHdr ∧
      (tVoter [tSus]).suspicion? tFrameHdr.generation = some tSus ∧ tSus.probing.isSome = true ∧ tSus.vote = 0 ∧
      (tVoter [tSus]).inCouncil = true ∧ (tVoter [tSus]).isLeader = false ∧
      (tVoter [tSus]).council.contains tFrameHdr.srcSlot = true) ∧
    (tRoster.Sound ∧ tRoster.running ∧ tRoster.hears tFrameHdr ∧ tRoster.inCouncil = true ∧ tRoster.roster.contains 55 = true ∧
      (tRoster.lookout.members.any fun m => m.uid == 55 && m.state != 9) = false ∧ tRoster.num Reg.lk.domainState ≠ 1 ∧
      tRoster.isLeader = false) ∧
    ((tLeader []).Sound ∧ (tLeader []).running ∧ (tLeader []).hears tFrameHdr ∧ (tLeader []).isLeader = true) ∧
    (∃ s : State, s.Sound ∧ s.running ∧ s.hears tFrameHdr ∧ s.inCouncil = true ∧ tFrameHdr.srcSlot = s.num Reg.lk.leader) := by
  refine ⟨⟨tLk_sound _ _ _, tRunning (by decide +kernel), tHears (by decide +kernel), by decide +kernel⟩,
    ⟨tLk_sound _ _ _, tRunning (by decide +kernel), tHears (by decide +kernel), by decide +kernel⟩,
    ⟨tLk_sound _ _ _, tRunning (by decide +kernel), tHears (by decide +kernel), by decide +kernel⟩,
    ⟨tSetB_sound (s := tVoter []) (tLk_sound _ _ _) _ _, tRunning (by decide +kernel), tHears (by decide +kernel),
      by decide +kernel⟩,
    ⟨tLk_sound _ _ _, tRunning (by decide +kernel), tHears (by decide +kernel), by decide +kernel⟩,
    ⟨tLk id (tSlot 1 ++ [(Reg.lk.leader, 2)]) [1, 2], tLk_sound _ _ _, tRunning (by decide +kernel),
      tHears (by decide +kernel), by decide +kernel⟩⟩

/-- A device of no slot under a council of slots 0, 2 and 4. -/
def tPlainMember : State :=
  tLk (fun x => { x with members := [tMem 0 6 5, tMem 1 7 5, tMem 2 9 5] }) (tSlot 1 ++ [(Reg.lk.lkState, 5)]) [0, 2, 4]
def tDecision : LkDecision := ⟨0, 1, 0, [0, 2, 4], 2, 9, 0, 0, 0, 0, 0, 0, []⟩

theorem witness_DecisionsComplete :
    tPlainMember.Sound ∧ tPlainMember.running ∧ tPlainMember.hears tFrameHdr ∧ tPlainMember.inCouncil = false ∧
    tPlainMember.ripe tDecision ∧ tPlainMember.lookout.hold = none ∧ tPlainMember.sched.active = none := by
  refine ⟨tLk_sound _ _ _, tRunning (by decide +kernel), tHears (by decide +kernel), by decide +kernel, ?_, by decide +kernel⟩
  unfold State.ripe
  decide +kernel

theorem witness_DeclarationsComplete :
    ((tLeader []).Sound ∧ (tLeader []).running ∧ (tLeader []).hears tFrameHdr ∧ (tLeader []).isLeader = true ∧
      (tLeader []).num Reg.lk.domainState ≠ 1 ∧ (tLeader []).lookout.suspicions = [] ∧ (tLeader []).lookout.proposals = [] ∧
      1 < (tLeader []).majority ∧ 1 < (tLeader []).serving.length) ∧
    ((tVoter []).Sound ∧ (tVoter []).running ∧ (tVoter []).hears tFrameHdr ∧ (tVoter []).inCouncil = true ∧
      tFrameHdr.srcSlot ≠ (tVoter []).mySlot ∧ (tVoter []).member? tFrameHdr.srcSlot = some (tMem 2 9 5) ∧
      (tVoter []).lookout.suspicions = [] ∧ lowest ((tVoter []).council.filter fun x => x != tFrameHdr.srcSlot) ≠ (tVoter []).mySlot) ∧
    (tPlainMember.Sound ∧ tPlainMember.running ∧ tPlainMember.hears tFrameHdr ∧ tPlainMember.inCouncil = false) := by
  refine ⟨⟨tLk_sound _ _ _, tRunning (by decide +kernel), tHears (by decide +kernel), by decide +kernel⟩,
    ⟨tLk_sound _ _ _, tRunning (by decide +kernel), tHears (by decide +kernel), by decide +kernel⟩,
    ⟨tLk_sound _ _ _, tRunning (by decide +kernel), tHears (by decide +kernel), by decide +kernel⟩⟩

def tHeard : State := tLk (fun x => { x with peers := [⟨2, 9, true, 0, 0, 0⟩] }) (tSlot 1 ++ [(Reg.lk.lkState, 5)]) []
def tLate (s : State) : State := { s with rc := { s.rc with ring := 2 ^ 20 } }
theorem tLate_sound {s : State} (h : s.Sound) : (tLate s).Sound := tSound h ⟨rfl, rfl, rfl, rfl⟩
/-- A vote that four voters split. -/
def tSplit : Suspicion := ⟨2, 9, 0, some 0, 1, [0], [1], false⟩
def tJoiner : State :=
  tNums { tRun with rc := { tRun.rc with state := .locked } } [(Reg.lkCfg.domainId, 3), (Reg.start.startState, 7)]
def tActive (s : State) : State := { s with sched := { s.sched with active := some tSection } }
theorem tActive_sound {s : State} (h : s.Sound) : (tActive s).Sound := tSound h ⟨rfl, rfl, rfl, rfl⟩
def tGuarded : Section := { tSection with hdr := { tHeader with guarded := true } }
def tBadEntry : DeckEntry := { tDeckEntry with mem := 2 ^ 27 }
def tPoison : State := tPooled (tPool [0]) { tRun with
  sched := { tRun.sched with active := some tGuarded }, deck := { tRun.deck with entries := [tBadEntry] } }
def tCopying : State :=
  tLk (fun x => { x with coppice := [⟨5, 2, 0⟩] }) (tSlot 1 ++ [(Reg.lk.lkState, 4)]) []
def tAdmitted : State := tLk id (tSlot 1 ++ [(Reg.lk.lkState, 2)]) []
def tDecays : State := tNums (tActive (tLate (tLeader []))) [(Reg.lkCfg.autoPreempt, 0)]

theorem witness_LookoutEventsComplete :
    (tHeard.Sound ∧ tHeard.running ∧ tHeard.beats = true ∧ tHeard.lookout.peers ≠ [] ∧
      (tHeard.lookout.peers.all fun p => p.heard) = true ∧ 0 < tHeard.num Reg.lkConst.suspectMisses) ∧
    (∃ s : State, s.Sound ∧ s.running ∧ s.suspicion? 9 = some tSus ∧ tSus.probing = some 0 ∧
      0 + s.num Reg.lkCfg.probeRings ≤ s.rc.ring ∧ tSus.vote = 0 ∧ s.inCouncil = true ∧ s.isLeader = false ∧
      tSus.ring + 256 ≤ s.rc.ring ∧ 1 < s.serving.length) ∧
    (∃ s : State, s.Sound ∧ s.running ∧ s.suspicion? 9 = some tSplit ∧ tSplit.probing = some 0 ∧ s.isLeader = true ∧
      s.num Reg.lk.domainState ≠ 1 ∧ 0 + s.num Reg.lkCfg.probeRings + 4 ≤ s.rc.ring ∧
      s.majority ≤ tSplit.alive.length + tSplit.dead.length ∧ tSplit.alive.length < s.majority ∧
      tSplit.dead.length < s.majority) ∧
    (tJoiner.Sound ∧ tJoiner.running ∧ tJoiner.num Reg.lkCfg.domainId ≠ 0 ∧ tJoiner.lkState = 0 ∧
      tJoiner.rc.state = .locked ∧ tJoiner.num Reg.start.startState = 7 ∧ tJoiner.roster ≠ [tJoiner.dev.uid]) ∧
    (∃ s : State, s.Sound ∧ s.running ∧ s.isLeader = true ∧ s.num Reg.lkCfg.autoPreempt = 0 ∧ s.lookout.suspicions = [] ∧
      s.lookout.proposals = [] ∧ (∃ r, s.firstLaunch 0 0 = some r ∧ r + tSection.hdr.stepPeriod ≤ s.rc.ring) ∧
      s.sectionOf 0 = some (tSection, 0) ∧ s.rc.ring % max 1 (s.num Reg.lkConst.scoreDecayRings) = 0 ∧ 1 < s.majority) ∧
    (tPoison.Sound ∧ tPoison.running ∧ tPoison.entry? tKeyF = some tBadEntry ∧
      tPoison.sectionOf tKeyF.epoch = some (tGuarded, 0) ∧ tKeyF.orig = none ∧
      tPoison.bufPoisoned tBadEntry.mem 0 tBadEntry.frag.length = true ∧ tGuarded.hdr.guarded = true ∧
      (tPoison.lookout.served.any fun v => v.epoch == tKeyF.epoch && v.step == tKeyF.step && v.consumer == tKeyF.consumer &&
        v.replaced == tPoison.mySlot) = false) ∧
    (tCopying.Sound ∧ tCopying.running ∧ tCopying.lkState = 4 ∧ tCopying.lookout.coppice = [⟨5, 2, 0⟩] ∧
      (tCopying.lookout.coppice.all fun x => !tCopying.holdsSealed x.shard) = true ∧
      (tCopying.lookout.coppice.filter fun x => x.state == 1).length < tCopying.num Reg.lkCfg.coppiceStreams) ∧
    (tAdmitted.Sound ∧ tAdmitted.running ∧ tAdmitted.lkState = 2) ∧
    (tSes1.Sound ∧ tSes1.running ∧ tSes1.takes tHdr tSes ∧ tSes.admin = true ∧ (zeros 10).length = 10 ∧
      tSes1.lookout.suspicions = [] ∧ tSes1.lookout.proposals = []) ∧
    (∃ s : State, s.Sound ∧ s.running ∧ s.inCouncil = false ∧ s.sched.next = none ∧ s.sched.lateReported = false ∧
      s.rc.ring < s.nextStart ∧ s.nextStart ≤ s.rc.ring + s.num Reg.sched.loadGuard) := by
  refine ⟨⟨tLk_sound _ _ _, tRunning (by decide +kernel), by decide +kernel⟩,
    ⟨tLate (tVoter [tSus]), tLate_sound (tLk_sound _ _ _), tRunning (by decide +kernel), by decide +kernel⟩,
    ⟨tLate (tLeader [tSplit]), tLate_sound (tLk_sound _ _ _), tRunning (by decide +kernel), by decide +kernel⟩,
    ⟨tNums_sound (s := { tRun with rc := { tRun.rc with state := .locked } }) (tSound tRun_sound ⟨rfl, rfl, rfl, rfl⟩) _,
      tRunning (by decide +kernel), by decide +kernel⟩,
    ⟨tDecays, tNums_sound (tActive_sound (tLate_sound (tLk_sound _ _ _))) _, tRunning (by decide +kernel), by decide +kernel,
      by decide +kernel, by decide +kernel, by decide +kernel, ⟨(tDecays.firstLaunch 0 0).getD 0, by decide +kernel⟩,
      by decide +kernel⟩,
    ⟨tPooled_sound (tSound tRun_sound ⟨rfl, rfl, rfl, rfl⟩) ⟨rfl, rfl⟩ (by decide +kernel), tRunning (by decide +kernel),
      by decide +kernel⟩,
    ⟨tLk_sound _ _ _, tRunning (by decide +kernel), by decide +kernel⟩,
    ⟨tLk_sound _ _ _, tRunning (by decide +kernel), by decide +kernel⟩,
    ⟨tSes1_sound, tSes1_running, tSes1_takes, by decide +kernel⟩,
    ⟨tActive tRun, tActive_sound tRun_sound, tRunning (by decide +kernel), by decide +kernel⟩⟩

/-! ### Witnesses: decode units, intake, tokens, compute -/

def tDesc (mt f p st : Nat) : DecodeDesc := ⟨mt, 0, 0, f, 2 ^ 27, 16, 2 ^ 27, 131072, 0, st, 0, 0, 0, p⟩
def tDec (x : Decoders → Decoders) : State := { tBuf with dec := x tBuf.dec }
theorem tDec_sound (x : Decoders → Decoders) : (tDec x).Sound := tSound tBuf_sound ⟨rfl, rfl, rfl, rfl⟩
def tImage : DecEntry := ⟨.image, tReq, tDesc 1 0 0 0⟩
def tUnitOf (cls : Nat) (e : DecEntry) : State := tDec fun x => { x with queues := [⟨0, cls, [e], [(0, e)]⟩] }
def tWaiting : State := tDec fun x => { x with queues := [⟨0, 0, [tImage], []⟩] }
def tSubmit : DecEntry := ⟨.submit, tReq, tDesc 3 0 0 1⟩
def tStream : VStream := ⟨1, 0, 0, 2 ^ 27, some 0, false, [tSubmit], [], 0, 0, none, []⟩
def tVideo : State := tDec fun x => { x with streams := [tStream] }
def tPicture : State := tDec fun x => { x with streams := [tStream], units := [⟨0, some 1, 0, 1⟩] }
def tOutcome (refusal : Nat) : MediaOutcome :=
  ⟨refusal, false, none, [], 0, 0, 8, ⟨0, 0, 0, 0, 0, 0, 0, 0, 0, 0, 0⟩, false, false, false, false, 0, 0⟩

def tSec (x : Security → Security) : State := { tBuf with sec := x tBuf.sec }
theorem tSec_sound (x : Security → Security) : (tSec x).Sound := tSound tBuf_sound ⟨rfl, rfl, rfl, rfl⟩
/-- Context 0 owns cluster 0, where context 3 is resident. -/
def tAway : State :=
  tNums (tSec fun x => { x with
    clusters := [(0, ⟨some 3, 0, false⟩)], ctxs := [(0, { Ctx.undefined with state := .defined })] }) [(Reg.ctx.clusterMask 0, 1)]
theorem tAway_sound : tAway.Sound := tNums_sound (tSec_sound _) _
theorem witness_away : tAway.Sound ∧ tAway.alive ∧ tAway.resident 0 ≠ some tReq.ctx ∧ tAway.ownsCluster tReq.ctx 0 = true ∧
    tAway.hasCluster 0 = true ∧ tAway.decFitted .image (tDesc 1 0 0 0) = true ∧ (tAway.decSaved 0 0 0).entries = [] ∧
    tAway.decFitted .frame (tDesc 1 0 0 0) = true ∧ (tAway.decSaved 0 0 2).entries = [] ∧ (tAway.tokSaved 0 0).entries = [] ∧
    (tAway.csSaved 0 0).queue = [] ∧ tBuf.resident 0 = some tReq.ctx :=
  ⟨tAway_sound, tAlive (by decide +kernel), by decide +kernel⟩

theorem witness_DecodeCommandsComplete :
    (tBuf.Sound ∧ tBuf.alive ∧ tBuf.decFitted .image (tDesc 1 0 0 0) = true ∧ (tBuf.decQueue 0 0).entries.length < 64 ∧
      tBuf.decFitted .frame (tDesc 1 0 0 0) = true ∧ (tBuf.decQueue 0 2).entries.length < 64 ∧ tBuf.hasCluster 0 = true) ∧
    (∃ d i, d = tDesc 3 0 (2 ^ 32 + 8 * 2 ^ 40) 0 ∧ tBuf.decCheck ⟨.open_, tReq, d⟩ = none ∧
      (tBuf.decQueue d.cluster 1).entries = [] ∧ dpbBytes d.params ≤ d.outCap ∧
      tBuf.mayAccess tReq d.outBuf 0 (dpbBytes d.params) = true ∧
      lowestFree 1024 (tBuf.dec.streams.map fun x => x.handle - 1) = some i) ∧
    (tVideo.Sound ∧ tVideo.alive ∧ tVideo.decCheck tSubmit = none ∧ tVideo.decCheck { tSubmit with kind := .close } = none ∧
      (tVideo.decQueue 0 1).entries = [] ∧ tVideo.stream? 1 = some tStream ∧ tStream.owner = tReq.ctx ∧ tStream.cluster = 0 ∧
      tStream.closing = none ∧ tStream.refused = false ∧ tStream.queue.length < 16) ∧
    (tWaiting.Sound ∧ tWaiting.alive ∧ (tWaiting.decQueue 0 0).entries = [tImage] ∧ tWaiting.decCheck tImage = none ∧
      tImage.kind = .image ∧ pickUnit 0 ((tWaiting.decQueue 0 0).running.map (·.1)) tImage.desc.unit = some 0) ∧
    (∀ cls, cls = 0 ∨ cls = 2 → (tUnitOf cls tImage).Sound ∧ (tUnitOf cls tImage).alive ∧
      ((tUnitOf cls tImage).decQueue 0 cls).running.find? (fun x => x.1 == 0) = some (0, tImage) ∧
      (tUnitOf cls tImage).inputOk tImage.req tImage.desc.inBuf tImage.desc.inLen = true ∧ (tOutcome 1).refusal ≠ 0) ∧
    (tPicture.Sound ∧ tPicture.alive ∧ (tPicture.vunit 0).current = some tStream.handle ∧
      tPicture.stream? tStream.handle = some tStream ∧ tStream.queue = [tSubmit] ∧ tStream.closing = none ∧
      (tOutcome 0).refusal = 0 ∧ (tOutcome 0).limits = false ∧ (tOutcome 0).outputs = 0 ∧
      tPicture.inputOk tSubmit.req tSubmit.desc.inBuf tSubmit.desc.inLen = true) := by
  refine ⟨⟨tBuf_sound, tAlive (by decide +kernel), by decide +kernel⟩, ⟨_, 0, rfl, by decide +kernel⟩,
    ⟨tDec_sound _, tAlive (by decide +kernel), by decide +kernel⟩, ⟨tDec_sound _, tAlive (by decide +kernel), by decide +kernel⟩,
    ?_, ⟨tDec_sound _, tAlive (by decide +kernel), by decide +kernel⟩⟩
  rintro cls (rfl | rfl) <;> exact ⟨tDec_sound _, tAlive (by decide +kernel), by decide +kernel⟩

/-! Live stream 0: 4 by 1 pixels of 8 bits, enabled on port 0 at UDP port 0 from address zero. -/

def tPacket (payload : Bytes) : IntakePacket := ⟨0, 0, zeros 16, true, 0, 5, 1, 0, 0, payload, 77⟩
def tLiveRegs : List (Nat × Nat) :=
  [(Reg.live.enable 0, 1), (Reg.live.width 0, 4), (Reg.live.height 0, 1), (Reg.live.bits 0, 8), (Reg.live.packing 0, 0),
    (Reg.live.port 0, 0), (Reg.live.udpPort 0, 0), (Reg.live.group 0, 0xFF), (Reg.live.storeFormat 0, 0)]
def tLive (x : Intake → Intake) (l : List (Nat × Nat)) : State := tNums { tRun with intake := x tRun.intake } (tLiveRegs ++ l)
theorem tLive_sound (x : Intake → Intake) (l : List (Nat × Nat)) : (tLive x l).Sound :=
  tNums_sound (s := { tRun with intake := x tRun.intake }) (tSound tRun_sound ⟨rfl, rfl, rfl, rfl⟩) _
def tAsm : AsmFrame := ⟨5, 0, [], none, 0, 0, 0⟩
def tStreamSet (g : List SettingsGen) : Intake → Intake := fun x => { x with streams := [⟨0, [tAsm], [], some 5, g⟩] }
def tAssembly : State := tLive (tStreamSet []) []
theorem tAssembly_sound : tAssembly.Sound := tLive_sound _ _
def tSettings : SettingsGen := ⟨1, 0, [], 1, false, false⟩
def tFrame : Frame := ⟨0, 5, 0, zeros 4, 8, 0, 0, ⟨0, 0, 0, 4, 0, 0, []⟩, 0⟩
def tStored : State := tLive (fun x => { x with toStore := [.frame tFrame] }) []
def tWriter : State := tOpen tSes tAssembly
theorem tWriter_sound : tWriter.Sound := tSound tAssembly_sound ⟨rfl, rfl, rfl, rfl⟩
/-- Settings generation 1 from ring 2^16 on. -/
def tSettingsBytes : Bytes := leBytes 4 1 ++ leBytes 8 65536
def tFused : FusedFrame := ⟨3, 0, [⟨0, tFrame⟩], none, 0, 0, [], [], none⟩
def tGroup : State :=
  tLive (fun x => { x with groups := [⟨2, [tFused], [], 0, [], [], []⟩] }) [(Reg.live.group 0, 2), (Reg.live.layer 0, 0)]

theorem witness_IntakeCommandsComplete :
    (tAssembly.Sound ∧ tAssembly.alive ∧ tAssembly.replaying = false ∧ (tPacket [1, 2]).payload ≠ [] ∧
      tAssembly.intakeAccepts (tPacket [1, 2]) = true ∧ (tPacket [1, 2]).payload.length ≤ 8192 ∧
      (tPacket [1, 2]).offset + (tPacket [1, 2]).payload.length ≤ tAssembly.liveFrameBytes 0 ∧
      (tAssembly.liveStream 0).done.contains 5 = false ∧
      (tAssembly.liveStream 0).slots.find? (fun y => y.number == 5) = some tAsm ∧ tAsm.ended = none ∧ tAsm.number = 5 ∧
      (keepNew tAsm.got 0 [1, 2]).length ≠ tAsm.got.length ∧ tAssembly.intakeAccepts (tPacket []) = true ∧
      tAsm.got.length ≠ tAssembly.liveFrameBytes 0) ∧
    (∃ s : State, s.Sound ∧ s.alive ∧ (s.liveStream 0).slots.find? (fun y => y.number == 5) = some tAsm ∧
      tAsm.lastRing + s.num Reg.intake.frameTimeout ≤ s.rc.ring ∧ s.num (Reg.live.group 0) = 0xFF) ∧
    (tStored.Sound ∧ tStored.alive ∧ tStored.intake.toStore = [.frame tFrame] ∧
      tStored.num (Reg.live.storeFormat tFrame.stream) = 0) ∧
    (tWriter.Sound ∧ tWriter.alive ∧ tWriter.takes tHdr tSes ∧ tSes.admin = true ∧
      tWriter.settingsRefusal 0 tSettingsBytes = none ∧ tSettingsBytes.length ≤ 1036 ∧ tWriter.replaying = false) ∧
    (∃ s : State, s.Sound ∧ s.alive ∧ (s.liveStream 0).settings.find?
      (fun g => g.gen == 1 && !g.acked && !g.reported && g.effective ≤ s.rc.ring) = some tSettings) ∧
    (tGroup.Sound ∧ tGroup.alive ∧ (tGroup.group 2).frame? 3 = some tFused ∧ (tGroup.group 2).open_ = [tFused] ∧
      tFused.decided = none ∧ tFused.barrier = none ∧ tGroup.flag (Reg.group.standSpan 2) = false ∧
      (tGroup.groupLayers 2).all (fun l => tFused.layers.any fun y => y.layer == l.1) = true) := by
  refine ⟨⟨tLive_sound _ _, tAlive (by decide +kernel), by decide +kernel⟩,
    ⟨{ tAssembly with rc := { tAssembly.rc with ring := 10 ^ 9 } }, tSound tAssembly_sound ⟨rfl, rfl, rfl, rfl⟩,
      tAlive (by decide +kernel), by decide +kernel⟩,
    ⟨tLive_sound _ _, tAlive (by decide +kernel), by decide +kernel⟩,
    ⟨tWriter_sound, tAlive (by decide +kernel), tTakes (by decide +kernel), rfl,
      by decide +kernel⟩,
    ⟨tLive (tStreamSet [tSettings]) [], tLive_sound _ _, tAlive (by decide +kernel), by decide +kernel⟩,
    ⟨tLive_sound _ _, tAlive (by decide +kernel), by decide +kernel⟩⟩

def tTok (k : TokKind) (options params : Nat) : TokEntry :=
  ⟨k, tReq, ⟨options, 0, 0, 0, 2 ^ 27, 40000, 2 ^ 27, 4096, 0, 0, 0, 0, params⟩⟩
def tTokens (x : Tokens → Tokens) : State := { tBuf with tok := x tBuf.tok }
theorem tTokens_sound (x : Tokens → Tokens) : (tTokens x).Sound := tSound tBuf_sound ⟨rfl, rfl, rfl, rfl⟩
def tLoad : TokEntry := tTok .vocabLoad 0 0
def tTokHead : State := tTokens fun x => { x with queues := [⟨0, [tLoad], []⟩] }
def tTokRun (e : TokEntry) : State :=
  tTokens fun x => { x with queues := [⟨0, [], [(0, e)]⟩], vocabs := [⟨0, 0, 0, [], 0, true⟩] }
def tRollout : RolloutStream := ⟨1, tTok .rolloutOpen 0 (2 ^ 33), 0, 2, 0, 0, [1], [1], [⟨4, [], 0, 0, false⟩], []⟩
def tRolling : State :=
  { tTokens fun x => { x with streams := [tRollout] } with rc := { tRun.rc with ring := 10 ^ 9 } }

theorem witness_TokenCommandsComplete :
    (tBuf.Sound ∧ tBuf.alive ∧ tBuf.hasCluster 0 = true ∧ (tBuf.tokQueue 0).entries.length < 64) ∧
    (tTokHead.Sound ∧ tTokHead.alive ∧ (tTokHead.tokQueue 0).entries = [tLoad] ∧ tLoad.kind.needsVocab = false ∧
      tTokHead.tokCheck tLoad = none ∧ tLoad.desc.unit ≤ 1 ∧
      ((tTokHead.tokQueue 0).running.any fun p => p.1 == tLoad.desc.unit) = false) ∧
    (∃ e v, e = tTok .tokenize 2 0 ∧ (tTokRun e).Sound ∧ (tTokRun e).alive ∧
      ((tTokRun e).tokQueue 0).running.find? (fun p => p.1 == 0) = some (0, e) ∧ e.kind = .tokenize ∧
      (tTokRun e).inputOk e.req e.desc.inBuf e.desc.inLen = true ∧ (tTokRun e).unitVocab e.desc.cluster 0 = some v ∧
      e.desc.options.testBit 1 = true ∧ e.desc.policy ≠ 2) ∧
    (∃ e, e = tTok .rolloutOpen 0 (2 ^ 33) ∧ (tTokRun e).Sound ∧ (tTokRun e).alive ∧
      ((tTokRun e).tokQueue 0).running.find? (fun p => p.1 == 0) = some (0, e) ∧ e.kind = .rolloutOpen ∧ e.desc.params = 2 ^ 33 ∧
      64 + 16416 * 2 ≤ e.desc.inLen ∧ (tTokRun e).mayAccess e.req e.desc.inBuf 0 (64 + 16416 * 2) = true ∧
      ((tTokRun e).tok.streams.filter fun x => x.entry.desc.cluster == e.desc.cluster).length < 16 ∧
      lowestFree 256 ((tTokRun e).tok.streams.map fun x => x.handle - 1) = some 0) ∧
    (tRolling.Sound ∧ tRolling.alive ∧ tRolling.rolloutStream? 1 = some tRollout ∧ (1 : Nat) < tRollout.slots ∧
      tRollout.notes = [1] ∧ tRolling.resident tRollout.entry.desc.cluster = some tRollout.entry.req.ctx ∧
      tRollout.rollouts.find? (fun z => z.id == 4) = some ⟨4, [], 0, 0, false⟩ ∧
      0 + tRolling.num Reg.rollout.rolloutTimeout ≤ tRolling.rc.ring) := by
  refine ⟨⟨tBuf_sound, tAlive (by decide +kernel), by decide +kernel⟩,
    ⟨tTokens_sound _, tAlive (by decide +kernel), by decide +kernel⟩,
    ⟨_, ⟨0, 0, 0, [], 0, true⟩, rfl, tTokens_sound _, tAlive (by decide +kernel), by decide +kernel⟩,
    ⟨_, rfl, tTokens_sound _, tAlive (by decide +kernel), by decide +kernel⟩,
    ⟨tSound tBuf_sound ⟨rfl, rfl, rfl, rfl⟩, tAlive (by decide +kernel), by decide +kernel⟩⟩

def tComp (x : Compute → Compute) : State := { tBuf with comp := x tBuf.comp }
theorem tComp_sound (x : Compute → Compute) : (tComp x).Sound := tSound tBuf_sound ⟨rfl, rfl, rfl, rfl⟩
def tCompute (k : ComputeKind) : ComputeEntry := ⟨k, tReq, ⟨0, 0, 1, 1, 9, 2, 0, 0, 0, 0, 0, 0, 0, 0⟩⟩
def tKernel : Kernel := ⟨9, 0, zeros 48, 3, 64, 0, 0, none⟩
def tCompHead (k : ComputeKind) : State :=
  tComp fun x => { x with clusters := [{ ClusterState.empty 0 with kernels := [tKernel], queue := [tCompute k] }] }
def tCore : Core := { (ClusterState.empty 0).core 0 with item := some 0, dma := [⟨true, 0, 0, .clusterSram 0, 0, 1, 16⟩] }
def tLaunched : Launch := ⟨tCompute .launch, [(0, 0)], 0, 0, none, ComputeFlags.none, 0⟩
def tWorking : State :=
  tComp fun x => { x with clusters := [{ ClusterState.empty 0 with kernels := [tKernel], launch := some tLaunched, cores := [tCore] }] }

theorem witness_ComputeCommandsComplete :
    (tBuf.Sound ∧ tBuf.alive ∧ tBuf.hasCluster 0 = true ∧ tBuf.resident 0 = some tReq.ctx ∧ (tBuf.cs 0).queue.length < 64) ∧
    (∀ k, k = .kernelUnload ∨ k = .launch → (tCompHead k).Sound ∧ (tCompHead k).alive ∧
      ((tCompHead k).cs 0).queue = [tCompute k] ∧ ((tCompHead k).cs 0).launch = none ∧ ((tCompHead k).cs 0).stopped = false ∧
      (tCompHead k).computeCheck (tCompute k) = none ∧ (tCompute k).desc.cluster = 0) ∧
    (tWorking.Sound ∧ tWorking.alive ∧ (tWorking.cs 0).launch = some tLaunched ∧ (tWorking.core 0 0).item = some 0 ∧
      (tWorking.core 0 0).fault = none) := by
  refine ⟨⟨tBuf_sound, tAlive (by decide +kernel), by decide +kernel⟩, ?_,
    ⟨tComp_sound _, tAlive (by decide +kernel), by decide +kernel⟩⟩
  rintro k (rfl | rfl) <;> exact ⟨tComp_sound _, tAlive (by decide +kernel), by decide +kernel⟩

theorem witness_EnginesAndDmaComplete :
    tWorking.Sound ∧ tWorking.alive ∧ tWorking.hasCluster 0 = true ∧ (tWorking.core 0 0).fault = none ∧
    (tWorking.core 0 0).idle ∧ SyncTarget.dma ≠ .engine 0 ∧
    tWorking.dmaFault 0 0 ⟨true, 0, 0, .clusterSram 0, 0, 1, 16⟩ = none ∧
    (tWorking.core 0 0).dma = [⟨true, 0, 0, .clusterSram 0, 0, 1, 16⟩] ∧ NumFmt.fp32.isLane = true := by
  refine ⟨tComp_sound _, tAlive (by decide +kernel), by decide +kernel, by decide +kernel, ?_, by decide +kernel⟩
  intro e
  have : ((tWorking.core 0 0).engine e).wait = none ∧ ((tWorking.core 0 0).engine e).queue = [] := ⟨rfl, rfl⟩
  exact this

/-! ### Witnesses: grading, deck, Yard, pools, Chippers -/

/-- A grading file of one GRAMMAR filter for context 0 (Tables 7-11, 7-12), of no manifest. -/
def tGradeFile : Bytes :=
  ascii "FLWGRADE" ++ leBytes 2 1 ++ [1, 0] ++ leBytes 2 1 ++ zeros 10 ++ leBytes 8 (State.reset.num Reg.seed.seedCheck) ++ zeros 224 ++
     [3, 0] ++ leBytes 2 3 ++ zeros 60
def tManifest : Manifest := ⟨zeros 48, zeros 48, zeros 48, false, 0, 0, [], [], []⟩
def tGradeSched : State := { tSes1 with sched := { tSes1.sched with manifest := some tManifest, recipeSet := some (zeros 48) } }
theorem tGradeSched_sound : tGradeSched.Sound := tSound tSes1_sound ⟨rfl, rfl, rfl, rfl⟩
def tGradeReady : State := tGradeSched.setB Reg.grade.gradeFile tGradeFile
theorem tGradeReady_sound : tGradeReady.Sound := tSetB_sound tGradeSched_sound _ _
def tGrading : State := tNums tGradeReady [(Reg.grade.gradeState, 2)]
theorem tGrading_sound : tGrading.Sound := tNums_sound tGradeReady_sound _
/-- One fragment of padding for consumer 0. -/
def tPadded : Section := { tSection with extents := [⟨padPosition, 0, 64, 0, 0⟩] }
def tPreparing : DeckEntry := { tDeckEntry with state := .preparing }
def tDeckOf (l : List DeckEntry) : State :=
  { tRun with sched := { tRun.sched with active := some tPadded }, deck := { tRun.deck with entries := l } }
theorem tDeckOf_sound (l : List DeckEntry) : (tDeckOf l).Sound := tSound tRun_sound ⟨rfl, rfl, rfl, rfl⟩
def tRoomy : State := tNums (tDeckOf []) [(Reg.deck.deckPoolBytes, 1048576)]
def tBlock : BuckBlock := ⟨0, 1, 0, 64, 0, 0, none⟩

theorem witness_GradingAndBuckingComplete :
    (tGradeReady.Sound ∧ tGradeReady.alive ∧ tGradeReady.takes tHdr tSes ∧ tSes.admin = true ∧ tGradeReady.grading = false ∧
      tGradeReady.gradeRefusal = none ∧ tGradeReady.started = false) ∧
    (tGrading.Sound ∧ tGrading.alive ∧ tGrading.takes tHdr tSes ∧ tSes.admin = true ∧ tGrading.grading = true ∧
      tGrading.grade.heard.contains (0 * 65536 + 4) = false ∧ tGrading.num Reg.grade.gradeState = 2 ∧ tGrading.gradedAll = true ∧
      (gradeKinds (tGrading.blob Reg.grade.gradeFile)).contains 2 = false ∧ tGrading.grade.sigs = []) ∧
    (tRoomy.Sound ∧ tRoomy.alive ∧ (∃ m u, tRoomy.nextFragment = some (tKeyF, tFrag, tRoomy.rc.ring, 0) ∧
      tRoomy.deckRoom (tRoomy.reserveShare tKeyF.orig.isSome tFrag.length) tFrag.length = true ∧
      tRoomy.unitAlloc 0 none 7 tFrag.length = some (m, u))) ∧
    ((tDeckOf [tPreparing]).Sound ∧ (tDeckOf [tPreparing]).alive ∧ (tDeckOf [tPreparing]).entry? tKeyF = some tPreparing ∧
      tPreparing.state = .preparing ∧ (tDeckOf [tPreparing]).sectionOf tKeyF.epoch = some (tPadded, 0) ∧
      (∃ l, (tDeckOf [tPreparing]).sources tKeyF ((tDeckOf [tPreparing]).skipped tKeyF.epoch)
        (((tDeckOf [tPreparing]).madeItems tKeyF.epoch tPreparing.frag.recipeIndex tBlock []).map (·.1))
        (tPadded.extentsOf tPreparing.frag) = some l) ∧ tBlock.prefixSlot = none) := by
  refine ⟨⟨tGradeReady_sound, tAlive (by decide +kernel), tTakes (by decide +kernel), by decide +kernel⟩,
    ⟨tGrading_sound, tAlive (by decide +kernel), tTakes (by decide +kernel), by decide +kernel⟩,
    ⟨tNums_sound (tDeckOf_sound []) _, tAlive (by decide +kernel), ?_⟩,
    ⟨tDeckOf_sound _, tAlive (by decide +kernel), by decide +kernel, by decide +kernel, by decide +kernel,
      tSome (by decide +kernel), by decide +kernel⟩⟩
  obtain ⟨⟨m, u⟩, h⟩ := tSome (x := tRoomy.unitAlloc 0 none 7 tFrag.length) (by decide +kernel)
  exact ⟨m, u, by decide +kernel, by decide +kernel, h⟩

/-! The Yard in service with bolts of 8 sectors and wordlines of 4. -/

def tYardRegs : List (Nat × Nat) :=
  [(Reg.yard.yardState, 2), (Reg.geom.cellBits, 1), (Reg.geom.planes, 1), (Reg.geom.pagesPerBlock, 3)]
def tY (x : Yard → Yard) : State := { tSes1 with yard := x tSes1.yard, rc := { tSes1.rc with upCycles := 10 ^ 12 } }
theorem tY_sound (x : Yard → Yard) : (tY x).Sound := tSound tSes1_sound ⟨rfl, rfl, rfl, rfl⟩
def tYard (x : Yard → Yard) (l : List (Nat × Nat)) : State := tNums (tY x) (tYardRegs ++ l)
theorem tYard_sound (x : Yard → Yard) (l : List (Nat × Nat)) : (tYard x l).Sound := tNums_sound (tY_sound x) _
def tTuple (v : Bytes) : PiTuple := ⟨guard64 v, 0, 0⟩
def tSector (n : Nat) : StoredSector := ⟨1, n, n, [7], tTuple [7]⟩
def tBolt (st : BoltState) (cells : List StoredSector) : Bolt := ⟨0, st, 0, 0, 0, false, false, 0, cells.length, [], cells⟩
def tVolume : YVolume := ⟨1, 1, 0, 1, 8⟩
def tNs (x : Yard → Yard) : State := tYard (fun y => x { y with volumes := [tVolume] }) []
def tLogged : StoredSector := { tSector 1 with kind := 2 }
/-- Sector 1 of namespace 1 in the write buffer of the log path. -/
def tBuffered : State := tNs fun y => { y with logs := [⟨1, 1, false⟩], wb := [⟨none, tLogged⟩] }
/-- Sector 0 of namespace 1 in bolt 0. -/
def tOnFlash : State := tNs fun y => { y with lbns := [⟨0, 0, 1⟩], bolts := [tBolt .openData [tSector 0]], luns := [(0, 0)] }
def tShard (st : Nat) : Shard := ⟨5, true, st, false, 1, 2, 0, 0, 0, sha384 [], [], 0, [], none⟩
def tShards (st : Nat) : State :=
  tYard (fun y => { y with shards := [tShard st], waits := [⟨5, 0, []⟩], fetches := [⟨5, 0, 0, 1⟩], luns := [(0, 0)] }) []

theorem witness_YardReadsAndWritesComplete :
    ((tNs id).Sound ∧ (tNs id).running ∧ (tNs id).num Reg.yard.yardState = 2 ∧ (tNs id).pwr.flushing = false ∧
      (tNs id).writeRefusal (.ns 1) = none ∧ (tNs id).wbRoom = true ∧ (tNs id).lsaIn (.ns 1) 1 = some (0, 1) ∧
      (∃ u, (tNs id).writeSector (.ns 1) 1 [7] (tTuple [7]) = .ok u) ∧ (tNs id).mapped 0 1 = none ∧
      (tNs id).volumeRange (.ns 1) = some (0, 8) ∧ (0 : Nat) + 8 ≤ 8 ∧ 0 < (tNs id).boltSectors ∧ (tNs id).boltSectors ≤ 65536) ∧
    (tBuffered.Sound ∧ tBuffered.running ∧ tBuffered.num Reg.yard.yardState = 2 ∧ tBuffered.pwr.flushing = false ∧
      tBuffered.lsaIn (.ns 1) 1 = some (0, 1) ∧ (∃ i, tBuffered.mapped 0 1 = some (tLogged, i)) ∧
      (tBuffered.yard.wb.any fun w => w.sector == tLogged) = true) ∧
    (tOnFlash.Sound ∧ tOnFlash.running ∧ tOnFlash.num Reg.yard.yardState = 2 ∧ tOnFlash.pwr.flushing = false ∧
      tOnFlash.lsaIn (.ns 1) 0 = some (0, 0) ∧ tOnFlash.mapped 0 0 = some (tSector 0, some 0) ∧
      (tOnFlash.yard.wb.any fun w => w.sector == tSector 0) = false ∧
      tOnFlash.yard.luns.contains (boltChannel 0, boltLun 0) = true ∧ tOnFlash.yard.erases = [] ∧
      guard64 (tSector 0).data = (tSector 0).tuple.guard ∧ (tOnFlash.yard.bolts.map (·.idx)).Nodup) ∧
    ((tShards 3).Sound ∧ (tShards 3).running ∧ (tShards 3).num Reg.yard.yardState = 2 ∧ (tShards 3).pwr.flushing = false ∧
      (tShards 3).shard? 5 = some (tShard 3) ∧ (tShards 3).yard.checks = [] ∧
      ((tShards 3).readShard (tShard 3) 0 0 []).1 = .good ∧
      (tShards 3).yard.fetches.find? (fun f => f.shard == 5 && f.offset == 0 && f.length == 0) = some ⟨5, 0, 0, 1⟩ ∧
      (tShards 3).sampleMatch 5 0 0 [] = true ∧ (tShards 3).shard? 6 = none ∧
      (tShards 3).yard.shards.length < (tShards 3).num Reg.shard.shardsMax ∧ ([7] : Bytes).length < 4096 ∧
      (tShard 3).tail = [] ∧ sha384 ((tShards 3).shardStored (tShard 3)) = (tShard 3).digest) ∧
    ((tShards 2).Sound ∧ (tShards 2).running ∧ (tShards 2).num Reg.yard.yardState = 2 ∧ (tShards 2).pwr.flushing = false ∧
      (tShards 2).shard? 5 = some (tShard 2) ∧ (tShard 2).owner_ = true ∧ (tShard 2).state = 2 ∧
      (tShards 2).yard.waits.find? (fun w => w.shard == 5) = some ⟨5, 0, []⟩ ∧
      0 + 100000 * (tShards 2).num Reg.yardCfg.partnerWaitMs ≤ (tShards 2).now ∧ (tShards 2).num Reg.lkCfg.domainId = 0) := by
  refine ⟨⟨tYard_sound _ _, tRunning (by decide +kernel), by decide +kernel, by decide +kernel, by decide +kernel,
      by decide +kernel, by decide +kernel, tOk (by decide +kernel), by decide +kernel⟩,
    ⟨tYard_sound _ _, tRunning (by decide +kernel), by decide +kernel, by decide +kernel, by decide +kernel,
      ⟨none, by decide +kernel⟩, by decide +kernel⟩,
    ⟨tYard_sound _ _, tRunning (by decide +kernel), by decide +kernel⟩,
    ⟨tYard_sound _ _, tRunning (by decide +kernel), by decide +kernel⟩,
    ⟨tYard_sound _ _, tRunning (by decide +kernel), by decide +kernel⟩⟩

def tWb (i : Nat) : WbSector := ⟨some (0, i), tSector i⟩
def tProgram : State := tYard (fun y => { y with bolts := [tBolt .openData []], wb := [tWb 0, tWb 1, tWb 2, tWb 3] }) []
def tErasable : State := tYard (fun y => { y with bolts := [tBolt .released []] }) []
def tErasing : State := tYard (fun y => { y with bolts := [tBolt .released []], erases := [⟨0, 1, 0, 0, []⟩] }) []
def tFoldable : State := tYard (fun y => { y with bolts := [tBolt .fullLog []] }) []
def tFolding : State := tYard (fun y => { y with bolts := [tBolt .fullLog []], fold := some ⟨0, 0, [], none⟩ }) []
def tWorn : Bolt := { tBolt .erased [] with idx := 1, count := 10 ^ 6, blaze := [⟨false, 10 ^ 6, 0, 0, 0, tSes1.dev.uid, 0, 0⟩] }
def tWear : State := tYard (fun y => { y with bolts := [tBolt .fullData [], tWorn], lbns := [⟨0, 0, 8⟩] }) []
def tCruising (b : Bolt) : State := tYard (fun y => { y with bolts := [b] }) [(Reg.cruise.cruiseEnable, 1)]
def tFull : Bolt := tBolt .fullData [tSector 0, tSector 1, tSector 2, tSector 3, tSector 4]
def tRefresh : Bolt := { tBolt .fullLog [] with refresh := true }
def tJournal : State :=
  tYard (fun y => { y with staged := [⟨1, .release 0⟩], pairs := [⟨0, 1, 0⟩], sinceCkpt := 10 ^ 12 }) []
def tCkpt : Ckpt := ⟨0, [], [], [], [], [], 0, 0, [], []⟩
def tWriting : State := tYard (fun y => { y with writing := some (0, tCkpt) }) []
def tRecovery (a : Option Anchor) : State := tYard (fun y => { y with anchor := a, slotA := some tCkpt }) [(Reg.start.startState, 4)]
def tAnchor : Anchor := ⟨1, State.reset.dev.uid, 0, 0, 0, 0, 0, 0, 0, 0, 256⟩
def tMedia : RecoveryMedia := ⟨[], true, false, false, none, [], 0⟩

theorem witness_YardMaintenanceComplete :
    (tProgram.Sound ∧ tProgram.running ∧ tProgram.pwr.flushing = false ∧ tProgram.num Reg.yard.yardState = 2 ∧
      tProgram.bolt? 0 = some (tBolt .openData []) ∧ tProgram.yard.fold = none ∧ 0 < tProgram.wlSectors ∧
      (tProgram.wordlineOf (tBolt .openData [])).length = tProgram.wlSectors) ∧
    (tErasable.Sound ∧ tErasable.running ∧ tErasable.pwr.flushing = false ∧ tErasable.num Reg.yard.yardState = 2 ∧
      tErasable.bolt? 0 = some (tBolt .released []) ∧ tErasable.mayErase (tBolt .released []) = true) ∧
    (tErasing.Sound ∧ tErasing.running ∧ tErasing.pwr.flushing = false ∧ tErasing.num Reg.yard.yardState = 2 ∧
      tErasing.bolt? 0 = some (tBolt .released []) ∧ (tBolt .released []).state ≠ .retired ∧
      tErasing.yard.erases.find? (fun r => r.bolt == 0) = some ⟨0, 1, 0, 0, []⟩ ∧
      tErasing.yard.anchorBolts.contains 0 = false ∧ (tErasing.yard.wb.all fun w => w.at_.isSome) = true) ∧
    (tFoldable.Sound ∧ tFoldable.running ∧ tFoldable.pwr.flushing = false ∧ tFoldable.num Reg.yard.yardState = 2 ∧
      tFoldable.yard.fold = none ∧ tFoldable.logRoom < tFoldable.num Reg.yardCfg.foldStart ∧
      tFoldable.boltsIn .fullLog = [tBolt .fullLog []]) ∧
    (tFolding.Sound ∧ tFolding.running ∧ tFolding.pwr.flushing = false ∧ tFolding.num Reg.yard.yardState = 2 ∧
      tFolding.yard.fold = some ⟨0, 0, [], none⟩) ∧
    (tWear.Sound ∧ tWear.running ∧ tWear.pwr.flushing = false ∧ tWear.num Reg.yard.yardState = 2 ∧
      tWear.num Reg.yardCfg.wlSpread < tWear.wearSpread ∧ tWear.wearSource = some (tBolt .fullData []) ∧
      tWear.wearTarget = some tWorn ∧ tWear.yard.lbns.find? (fun e => e.bolt == 0) = some ⟨0, 0, 8⟩) ∧
    (∀ b, b = tBolt .erased [] ∨ b = tFull → (tCruising b).Sound ∧ (tCruising b).running ∧ (tCruising b).pwr.flushing = false ∧
      (tCruising b).num Reg.yard.yardState = 2 ∧ (tCruising b).flag Reg.cruise.cruiseEnable = true ∧
      (tCruising b).cruiseBolt = some b ∧ (b.state ≠ .erased →
        ((tCruising b).yard.cruiseWordline + 1) * max 1 (tCruising b).wlSectors < b.cells.length)) ∧
    (∃ s : State, s.Sound ∧ s.running ∧ s.pwr.flushing = false ∧ s.num Reg.yard.yardState = 2 ∧ s.bolt? 0 = some tRefresh ∧
      tRefresh.refresh = true ∧ tRefresh.state = .fullLog ∧ s.lbnsIn 0 = []) ∧
    (tJournal.Sound ∧ tJournal.running ∧ tJournal.pwr.flushing = false ∧ tJournal.num Reg.yard.yardState = 2 ∧
      tJournal.yard.staged ≠ [] ∧ tJournal.yard.pairs ≠ [] ∧ tJournal.yard.pairUsed < tJournal.slcPages ∧
      tJournal.num Reg.yardCfg.checkpointBytes ≤ tJournal.yard.sinceCkpt ∧ tJournal.yard.writing = none ∧
      tJournal.takes tHdr tSes ∧ tSes.admin = true) ∧
    (tWriting.Sound ∧ tWriting.running ∧ tWriting.pwr.flushing = false ∧ tWriting.num Reg.yard.yardState = 2 ∧
      tWriting.yard.writing = some (0, tCkpt)) ∧
    (∀ a, a = none ∨ a = some tAnchor → (tRecovery a).Sound ∧ (tRecovery a).running ∧ (tRecovery a).pwr.flushing = false ∧
      (tRecovery a).pwr.lossStopped = false ∧ (tRecovery a).startState = 4 ∧ (tRecovery a).yard.anchor = a ∧
      tMedia.anchorReadable = true ∧ tAnchor.uid = (tRecovery a).dev.uid ∧ tAnchor.geometryCrc = geometryCrc
        ((((tRecovery a).setN Reg.yard.yardState 1).putYard (tRecovery a).yard.onFlash).enumerate tMedia.luns).yard.reports ∧
      tAnchor.slot = 0 ∧ (tRecovery a).yard.slotA = some tCkpt ∧ tMedia.badSlotA = false) ∧
    (∃ s : State, s.Sound ∧ s.running ∧ s.pwr.flushing = false ∧ s.takes tHdr tSes ∧ tSes.admin = true ∧
      s.yard.writing = none ∧ s.num Reg.yard.yardState = 4) := by
  refine ⟨⟨tYard_sound _ _, tRunning (by decide +kernel), by decide +kernel⟩,
    ⟨tYard_sound _ _, tRunning (by decide +kernel), by decide +kernel⟩,
    ⟨tYard_sound _ _, tRunning (by decide +kernel), by decide +kernel⟩,
    ⟨tYard_sound _ _, tRunning (by decide +kernel), by decide +kernel⟩,
    ⟨tYard_sound _ _, tRunning (by decide +kernel), by decide +kernel⟩,
    ⟨tYard_sound _ _, tRunning (by decide +kernel), by decide +kernel⟩, ?_,
    ⟨tYard (fun y => { y with bolts := [tRefresh] }) [], tYard_sound _ _, tRunning (by decide +kernel), by decide +kernel⟩,
    ⟨tYard_sound _ _, tRunning (by decide +kernel), by decide +kernel, by decide +kernel, by decide +kernel, by decide +kernel,
      by decide +kernel, by decide +kernel, by decide +kernel, tTakes (by decide +kernel), by decide +kernel⟩,
    ⟨tYard_sound _ _, tRunning (by decide +kernel), by decide +kernel⟩, ?_,
    ⟨tYard id [(Reg.yard.yardState, 4)], tYard_sound _ _, tRunning (by decide +kernel), by decide +kernel,
      tTakes (by decide +kernel), by decide +kernel⟩⟩
  · rintro b (rfl | rfl) <;> exact ⟨tYard_sound _ _, tRunning (by decide +kernel), by decide +kernel⟩
  · rintro a (rfl | rfl) <;> exact ⟨tYard_sound _ _, tRunning (by decide +kernel), by decide +kernel⟩

def tAlloc (flags bytes : Nat) : PoolCmd := ⟨flags, 0, 0, bytes, 1, 0, 0⟩
def tHandle (bytes owner : Nat) : PoolCmd := ⟨0, owner, 2 ^ 27, bytes, 0, 0, 0⟩
/-- Buffer 2^27 owned by the requester of the witnesses. -/
def tOwned : Buf := ⟨0, 0, some 0, 0x1000, [0, 1], 0⟩
def tMine : State := tPooled { Pool.ofBlocks 4096 with fresh := 2, bufs := [tOwned] } (tRes tRun)
theorem tMine_sound : tMine.Sound := tPooled_sound (tRes_sound tRun_sound) ⟨rfl, rfl⟩ (by decide +kernel)
/-- A pool of one block, held, that an ALLOC of one block waits for. -/
def tTight : State := tPooled { Pool.ofBlocks 1 with fresh := 1, bufs := [⟨0, 0, some 0, 1, [0], 0⟩] } (tRes tRun)
def tQueued : PoolWait := ⟨tReq, none, 0x1000, some 0, 1⟩
def tGrantable : State := tPooled { Pool.ofBlocks 4096 with waits := [tQueued] } (tRes tRun)
def tDrain : State := tPooled { Pool.ofBlocks 4096 with fresh := 2, draining := [tOwned] } (tRes tRun)
def tStarved : State := { tRun with mem := { tRun.mem with arbs := [⟨0, 0, [], 10 ^ 9, false, []⟩] } }

theorem witness_PoolAndArbiterCommandsComplete :
    (tMine.Sound ∧ tMine.running ∧ tMine.allocRefusal tReq (tAlloc 0 70000) = none ∧
      tMine.allocPool (tAlloc 0 70000) ((tAlloc 0 70000).wait tReq) = some 1 ∧
      tMine.handleRefusal tReq (2 ^ 27) true = none ∧ tMine.buf? (2 ^ 27) = some tOwned ∧
      (tHandle 70000 0).reservedOk tReq false true false = true ∧ tooLarge 1 (tOwned.chain.length + 2) = false ∧
      tMine.overQuota 1 tOwned.ctx 2 = false ∧ tMine.overReserve 1 0 2 = false ∧ (tMine.pool 1).canTake 2 = true ∧
      (tHandle 0 0x2000).reservedOk tReq false false true = true ∧ (tHandle 0 0).reservedOk tReq false false false = true ∧
      tMine.freeRefusal tReq (2 ^ 27) = none ∧ tMine.handleRefusal tReq (2 ^ 27) false = none ∧
      (poolTier 1).isSome = true ∧ tMine.dev.variant.hasPool 1 = true ∧ (0 : Nat) < (tMine.pool 1).blocks ∧
      (tMine.pool 1).retired.contains 0 = false ∧ arbHasLaunch 0 = true ∧ (0 : Nat) < arbClasses tMine.dev.variant 0 ∧
      (tMine.arb 0 0).reservedDue = false ∧ (tMine.arb 0 0).grants < tMine.num Reg.arb.starveInterval) ∧
    (tTight.Sound ∧ tTight.running ∧ tTight.allocRefusal tReq (tAlloc 1 4096) = none ∧
      tTight.allocPool (tAlloc 1 4096) ((tAlloc 1 4096).wait tReq) = none ∧ (tAlloc 1 4096).flags.testBit 0 = true) ∧
    (tGrantable.Sound ∧ tGrantable.running ∧ (tGrantable.pool 1).waits = [tQueued] ∧
      tQueued.blocks ≤ (tGrantable.pool 1).freeCount ∧ tQueued.extends_ = none) ∧
    (tDrain.Sound ∧ tDrain.running ∧ hPool (2 ^ 27) = 1 ∧ (tDrain.pool 1).draining.find?
      (fun b => b.handle 1 == 2 ^ 27 && b.inFlight == 0) = some tOwned ∧ (tDrain.pool 1).poisoned = []) ∧
    (tStarved.Sound ∧ tStarved.running ∧ tStarved.num Reg.arb.starveInterval ≤ (tStarved.arb 0 0).grants) := by
  refine ⟨⟨tMine_sound, tRunning (by decide +kernel), by decide +kernel⟩,
    ⟨tPooled_sound (tRes_sound tRun_sound) ⟨rfl, rfl⟩ (by decide +kernel), tRunning (by decide +kernel), by decide +kernel⟩,
    ⟨tPooled_sound (tRes_sound tRun_sound) ⟨rfl, rfl⟩ (by decide +kernel), tRunning (by decide +kernel), by decide +kernel⟩,
    ⟨tPooled_sound (tRes_sound tRun_sound) ⟨rfl, rfl⟩ (by decide +kernel), tRunning (by decide +kernel), by decide +kernel⟩,
    ⟨⟨tRun_sound.1, tRun_sound.2.1, by decide +kernel⟩, tRunning (by decide +kernel), by decide +kernel⟩⟩

/-- A descriptor of class 1 for Chipper 0 whose output buffer is 2^27. -/
def tChip : ChipDesc := ⟨0, 0, 1, 0, 0, 2 ^ 27, 0, 16, 2 ^ 27, 4096, 65536, 0, 0, 0⟩
def tChipOwned : Buf := { tOwned with owner := 0x7000 }
def tPipe (busy : Bool) : State :=
  { tPooled { Pool.ofBlocks 4096 with fresh := 2, bufs := [tChipOwned] } tRun with chips := [⟨0, true, [⟨tChip, false⟩], busy⟩] }
theorem tPipe_sound (busy : Bool) : (tPipe busy).Sound :=
  tSound (s := tPooled { Pool.ofBlocks 4096 with fresh := 2, bufs := [tChipOwned] } tRun)
    (tPooled_sound tRun_sound ⟨rfl, rfl⟩ (by decide +kernel)) ⟨rfl, rfl, rfl, rfl⟩

theorem witness_ChipperCommandsComplete :
    (tRun.Sound ∧ tRun.running ∧ tChip.chipper < 16 ∧ (tRun.chipPipe tChip.chipper false).queue.length < 64 ∧
      (tRun.chipPipe tChip.chipper true).queue.length < 64) ∧
    ((tPipe false).Sound ∧ (tPipe false).running ∧ ((tPipe false).chipPipe 0 true).queue = [⟨tChip, false⟩] ∧
      ((tPipe false).chipPipe 0 true).busy = false ∧ (tPipe false).chipRefusal tChip true = none) ∧
    ((tPipe true).Sound ∧ (tPipe true).running ∧ ((tPipe true).chipPipe 0 true).queue = [⟨tChip, false⟩] ∧
      ((tPipe true).chipPipe 0 true).busy = true ∧
      (tPipe true).buf? tChip.outBuf = some tChipOwned ∧
      tChip.outOff + ((tPipe true).chipWork tChip true).written.length ≤
        tChipOwned.capacity (hPool tChip.outBuf)) := by
  refine ⟨⟨tRun_sound, tRunning (by decide +kernel), by decide +kernel⟩,
    ⟨tPipe_sound _, tRunning (by decide +kernel), by decide +kernel⟩,
    ⟨tPipe_sound _, tRunning (by decide +kernel), by decide +kernel⟩⟩

/-! ### Witnesses: the Landing -/

/-- Outstanding: admin commands 1 (not dispatched), 2 (dispatched) and 3, and command 7 of queue 1. -/
def tCmd (q cid op : Nat) (d : Bool) : NvmeCmd := ⟨q, cid, op, 0, d, false⟩
def tLanding : Landing :=
  { Landing.empty with
    sqs := [NvmeSq.admin, ⟨1, 1, 64⟩], cqs := [NvmeCq.admin, ⟨1, 64, some 1, 2, 0, []⟩, ⟨2, 64, none, 0, 0, []⟩],
    cmds := [tCmd 0 1 6 false, tCmd 0 2 6 true, tCmd 0 3 8 false, tCmd 1 7 2 false], spaces := [⟨1, 0, true⟩, ⟨2, 1, true⟩] }
def tNvmeBase (x : Landing → Landing) : State :=
  { tRun with
    landing := x tLanding
    rc := { tRun.rc with upCycles := 10 ^ 12 }
    yard := { tRun.yard with volumes := [⟨1, 1, 0, 1, 8⟩, ⟨1, 2, 1, 1, 8⟩] } }
def tNvme (x : Landing → Landing) (l : List (Nat × Nat)) : State := tNums (tNvmeBase x) (tYardRegs ++ l)
theorem tNvmeBase_sound (x : Landing → Landing) : (tNvmeBase x).Sound := tSound tRun_sound ⟨rfl, rfl, rfl, rfl⟩
theorem tNvme_sound (x : Landing → Landing) (l : List (Nat × Nat)) : (tNvme x l).Sound := tNums_sound (tNvmeBase_sound x) _
def tHost : State := tNvme id []
theorem tMay {s : State} {q cid : Nat} {c : NvmeCmd} {k : NvmeCq} (e : s.pwr.flushing = false ∧ s.cmd? q cid = some c ∧
    c.dropped = false ∧ ((s.sq? q).bind fun x => s.cq? x.cq) = some k ∧ k.room = true ∧ k.held = []) : s.may q cid c k :=
  ⟨e.1, e.2.1, e.2.2.1, e.2.2.2⟩

theorem witness_NvmeAdminCommandsComplete :
    (tHost.Sound ∧ tHost.running ∧ tHost.may 0 1 (tCmd 0 1 6 false) NvmeCq.admin ∧
      tHost.may 1 7 (tCmd 1 7 2 false) ⟨1, 64, some 1, 2, 0, []⟩ ∧ tHost.cq? 1024 = none ∧ tHost.sq? 1024 = none ∧
      tHost.cq? 2 ≠ none ∧ (∀ x ∈ tHost.landing.sqs, x.cq ≠ 2) ∧ tHost.sq? 1 ≠ none ∧ tHost.space? 1 = some ⟨1, 0, true⟩ ∧
      tHost.volume? 1 1 = some ⟨1, 1, 0, 1, 8⟩ ∧ tHost.feature 1 = some 0 ∧
      (tHost.landing.cmds.filter fun c => c.sq == 0 && c.opcode == 8).length ≤ 8 ∧
      tHost.cmd? 0 2 = some (tCmd 0 2 6 true) ∧ tHost.cmd? 1 7 = some (tCmd 1 7 2 false) ∧ tHost.landing.events = [] ∧
      tHost.landing.aers.length < 8 ∧ tHost.cmd? 1 9 = none ∧ tHost.cq? 1 = some ⟨1, 64, some 1, 2, 0, []⟩ ∧ (0 + 2 : Nat) ≤ 2) ∧
    (∃ s : State, s.Sound ∧ s.running ∧ s.may 0 1 (tCmd 0 1 6 false) NvmeCq.admin ∧ s.landing.events = [5]) := by
  refine ⟨⟨tNvme_sound _ _, tRunning (by decide +kernel), tMay (by decide +kernel), tMay (by decide +kernel), by decide +kernel⟩,
    ⟨tNvme (fun x => { x with events := [5] }) [], tNvme_sound _ _, tRunning (by decide +kernel), tMay (by decide +kernel),
      by decide +kernel⟩⟩

def tTesting (suspended : Bool) : State := tNvme (fun x => { x with cmds := [tCmd 0 1 6 false], test := some ⟨1, suspended⟩ }) []
def tImaged : State := tNvme (fun x => { x with image := [(0, [1, 2, 3])] }) []

theorem witness_NamespacesFirmwareSelfTestsComplete :
    (tHost.Sound ∧ tHost.running ∧ tHost.may 0 1 (tCmd 0 1 6 false) NvmeCq.admin ∧ tHost.writeStatus = none ∧
      tHost.freeNsid = some 3 ∧ tHost.space? 1 = some ⟨1, 0, true⟩ ∧ tHost.volume? 1 1 = some ⟨1, 1, 0, 1, 8⟩ ∧
      tHost.nsBusy 1 1 = false ∧ (∀ p ∈ tHost.landing.image, 4096 + 16 ≤ p.1 ∨ p.1 + p.2.length ≤ 4096) ∧
      tHost.landing.test = none) ∧
    (tImaged.Sound ∧ tImaged.running ∧ tImaged.may 0 1 (tCmd 0 1 6 false) NvmeCq.admin ∧
      (∀ p ∈ tImaged.landing.image, 3 + 16 ≤ p.1 ∨ p.1 + p.2.length ≤ 3) ∧ imageBytes tImaged.landing.image ≠ [] ∧
      tImaged.nv.fuseSvn ≤ 0 ∧ (imageBytes tImaged.landing.image).length ≤ 32 * 2 ^ 20) ∧
    ((tTesting true).Sound ∧ (tTesting true).running ∧ (tTesting true).may 0 1 (tCmd 0 1 6 false) NvmeCq.admin ∧
      (tTesting true).landing.test = some ⟨1, true⟩ ∧ (tTesting true).ioOutstanding = 0 ∧
      (tTesting true).landing.ioIdleAt + 1000000 ≤ (tTesting true).now) ∧
    ((tTesting false).Sound ∧ (tTesting false).running ∧ (tTesting false).landing.test = some ⟨1, false⟩) := by
  refine ⟨⟨tNvme_sound _ _, tRunning (by decide +kernel), tMay (by decide +kernel), by decide +kernel⟩,
    ⟨tNvme_sound _ _, tRunning (by decide +kernel), tMay (by decide +kernel), by decide +kernel⟩,
    ⟨tNvme_sound _ _, tRunning (by decide +kernel), tMay (by decide +kernel), by decide +kernel⟩,
    ⟨tNvme_sound _ _, tRunning (by decide +kernel), by decide +kernel⟩⟩

def tNoCheck : PiCheck := ⟨false, false, false, false, 0, 0, 0⟩
def tCached : State := tNvme (fun x => { x with features := [(6, 1)] }) []
def tSecond : YVolume := ⟨1, 2, 1, 1, 8⟩

theorem witness_NvmeIoCommandsComplete :
    (tCached.Sound ∧ tCached.running ∧ tCached.may 1 7 (tCmd 1 7 2 false) ⟨1, 64, some 1, 2, 0, []⟩ ∧
      tCached.writeStatus = none ∧ tCached.ioTarget 2 1 1 = .ok (⟨2, 1, true⟩, tSecond) ∧
      writeCheck ⟨2, 1, true⟩ tNoCheck 0 [([7], ⟨0, 0, 0⟩)] = none ∧
      (tCached.yard.wb.length + 1) * 4096 ≤ tCached.num Reg.yardCfg.wbDirtyMax ∧ tCached.vwc = true ∧
      (∃ nums u, tCached.acceptAll tSecond.first 1 false 0 [([7], ⟨0, 0, 0⟩)] = some (nums, u)) ∧
      tCached.yardUsable = true ∧
      (∃ u, tCached.meetErases tSecond.first 1 1 = some u ∧
        ∃ l, ((u.dispatch 1 7).readCheck ⟨2, 1, true⟩ tNoCheck tSecond.first 1 1 0 []).1 = .ok l) ∧
      (1 : Nat) + 1 ≤ tSecond.sectors ∧ tCached.ioTarget 2 1 (min 1 512) = .ok (⟨2, 1, true⟩, tSecond) ∧
      tCached.yard.wb = [] ∧ tCached.yard.staged = [] ∧
      (∀ b ∈ tCached.yard.bolts, b.state ≠ .openData ∧ b.state ≠ .openLog) ∧ tCached.landing.waits = []) := by
  refine ⟨tNvme_sound _ _, tRunning (by decide +kernel), tMay (by decide +kernel), by decide +kernel,
    tOkEq (by decide +kernel), by decide +kernel, by decide +kernel, by decide +kernel, ?_, by decide +kernel,
    ?_, by decide +kernel, tOkEq (by decide +kernel), by decide +kernel⟩
  · obtain ⟨⟨n, u⟩, h⟩ := tSome (x := tCached.acceptAll tSecond.first 1 false 0 [([7], ⟨0, 0, 0⟩)]) (by decide +kernel)
    exact ⟨n, u, h⟩
  · have h : (tCached.meetErases tSecond.first 1 1).any (fun u =>
        ((u.dispatch 1 7).readCheck ⟨2, 1, true⟩ tNoCheck tSecond.first 1 1 0 []).1.isOk) = true := by decide +kernel
    obtain ⟨u, e, k⟩ := (Option.any_eq_true _ _).1 h
    exact ⟨u, e, tOk k⟩

def tPort (x : PushPort → PushPort) (l : List (Nat × Nat)) : State :=
  tNvme (fun y => { y with ports := [x (PushPort.fresh 0)] }) ((Reg.push.enable 0, 1) :: l)
/-- The first word of an item: OPCODE and LENGTH. -/
def tWord (op len : Nat) : Nat := op + 65536 * len
def tItem (it : List Nat) : State := tPort (fun x => { x with items := [it] }) []
def tOwnShard : Shard := ⟨5, true, 1, false, 1, 0xFFFFFFFF, 0, 0, 0, zeros 48, [], 0, [], none⟩
def tShardItem (it : List Nat) : State := { tItem it with yard := { (tItem it).yard with shards := [tOwnShard] } }
theorem tItem_sound (it : List Nat) : (tItem it).Sound := tNvme_sound _ _
theorem tShardItem_sound (it : List Nat) : (tShardItem it).Sound := tSound (tItem_sound it) ⟨rfl, rfl, rfl, rfl⟩

theorem witness_PushPortsAndIngestComplete :
    (∃ s : State, s.Sound ∧ s.running ∧ s.pwr.flushing = false ∧ (s.port 0).free ≠ 0 ∧ 2 ≤ pshLength (tWord 4 2) ∧
      s.replaying = false ∧ s.yardUsable = true) ∧
    (∃ s : State, s.Sound ∧ s.running ∧ s.pwr.flushing = false ∧ (s.port 0).free ≠ 0 ∧ (s.port 0).state = .inItem ∧
      (s.port 0).partial_.length + 1 < pshLength ((s.port 0).partial_.headD 0) ∧ (s.port 0).partial_ ≠ []) ∧
    (∃ s : State, s.Sound ∧ s.running ∧ s.pwr.flushing = false ∧ (s.port 0).free ≠ 0 ∧ (s.port 0).state = .inItem ∧
      (s.port 0).items = [] ∧ s.portTakes 0 = true ∧ (s.port 0).partial_ ≠ [] ∧
      (s.port 0).partial_.length + 1 = pshLength ((s.port 0).partial_.headD 0) ∧
      pshKnown (pshOpcode ((s.port 0).partial_.headD 0)) = true ∧
      ∀ n, pshWords (pshOpcode ((s.port 0).partial_.headD 0)) = some n → (s.port 0).partial_.length + 1 = n) ∧
    (∃ it, it = [tWord 1 3, 6, 0] ∧ (tItem it).Sound ∧ (tItem it).running ∧ (tItem it).pwr.flushing = false ∧
      ((tItem it).port 0).items = [it] ∧ ((tItem it).port 0).room = true ∧ ((tItem it).port 0).sealing = none ∧
      pshOpcode (it.headD 0) = 1 ∧ (tItem it).shard? (it.getD 1 0) = none ∧ (tItem it).writeRefusal (.system 0) = none ∧
      ∃ u, (tItem it).createShard (it.getD 1 0) true ((it.getD 2 0).testBit 0) ((tItem it).num Reg.lk.slot)
        (((tItem it).choosePartner (it.getD 1 0) []).getD 0xFFFFFFFF) (some ((tItem it).portCtx 0)) = .ok u) ∧
    (∃ it, it = [tWord 2 12, 1, 0, 16, 6, 0, 0, 0, 0, 0, 0, 0] ∧ (tItem it).Sound ∧ (tItem it).running ∧
      (tItem it).pwr.flushing = false ∧ ((tItem it).port 0).items = [it] ∧ ((tItem it).port 0).room = true ∧
      ((tItem it).port 0).sealing = none ∧ pshOpcode (it.headD 0) = 2 ∧
      (tItem it).space? (it.getD 1 0 % 2 ^ 32) = some ⟨1, 0, true⟩ ∧ (tItem it).yardUsable = true ∧
      (tItem it).volume? 1 (it.getD 1 0 % 2 ^ 32) = some ⟨1, 1, 0, 1, 8⟩ ∧ (tItem it).foreignShard 0 (it.getD 4 0) = false ∧
      it.getD 2 0 + ceilDiv (it.getD 3 0 % 2 ^ 32) 4096 ≤ 8 ∧
      ∃ b, ((tItem it).nsBytes ⟨1, 1, 0, 1, 8⟩ (it.getD 2 0) (it.getD 3 0 % 2 ^ 32) []).1 = some b) ∧
    (∃ it, it = [tWord 3 2, 5] ∧ (tShardItem it).Sound ∧ (tShardItem it).running ∧ (tShardItem it).pwr.flushing = false ∧
      ((tShardItem it).port 0).items = [it] ∧ ((tShardItem it).port 0).room = true ∧ ((tShardItem it).port 0).sealing = none ∧
      pshOpcode (it.headD 0) = 3 ∧ (tShardItem it).shard? (it.getD 1 0) = some tOwnShard ∧
      (tShardItem it).foreignShard 0 (it.getD 1 0) = false ∧ tOwnShard.owner_ = true ∧ tOwnShard.state = 1 ∧
      ∃ u e, (tShardItem it).sealShard tOwnShard = .ok u ∧ u.shard? (it.getD 1 0) = some e) ∧
    (∃ it, it = [tWord 4 2, 5] ∧ (tShardItem it).Sound ∧ (tShardItem it).running ∧ (tShardItem it).pwr.flushing = false ∧
      ((tShardItem it).port 0).items = [it] ∧ ((tShardItem it).port 0).room = true ∧ ((tShardItem it).port 0).sealing = none ∧
      pshOpcode (it.headD 0) = 4 ∧ (tShardItem it).shard? (it.getD 1 0) = some tOwnShard ∧
      (tShardItem it).foreignShard 0 (it.getD 1 0) = false) ∧
    (∃ it, it = [tWord 0x100 1] ∧ (tItem it).Sound ∧ (tItem it).running ∧ (tItem it).pwr.flushing = false ∧
      ((tItem it).port 0).items = [it] ∧ ((tItem it).port 0).room = true ∧ ((tItem it).port 0).sealing = none ∧
      0x100 ≤ pshOpcode (it.headD 0)) := by
  refine ⟨⟨tPort id [], tNvme_sound _ _, tRunning (by decide +kernel), by decide +kernel⟩,
    ⟨tPort (fun x => { x with state := .inItem, partial_ := [tWord 1 3] }) [], tNvme_sound _ _, tRunning (by decide +kernel),
      by decide +kernel⟩,
    ⟨tPort (fun x => { x with state := .inItem, partial_ := [tWord 4 2] }) [], tNvme_sound _ _, tRunning (by decide +kernel),
      by decide +kernel, by decide +kernel, by decide +kernel, by decide +kernel, by decide +kernel, by decide +kernel,
      by decide +kernel, by decide +kernel, ?_⟩,
    ⟨_, rfl, tItem_sound _, tRunning (by decide +kernel), by decide +kernel, by decide +kernel, by decide +kernel,
      by decide +kernel, by decide +kernel, by decide +kernel, by decide +kernel, tOk (by decide +kernel)⟩,
    ⟨_, rfl, tItem_sound _, tRunning (by decide +kernel), by decide +kernel, by decide +kernel, by decide +kernel,
      by decide +kernel, by decide +kernel, by decide +kernel, by decide +kernel, by decide +kernel, by decide +kernel,
      by decide +kernel, tSome (by decide +kernel)⟩,
    ⟨_, rfl, tShardItem_sound _, tRunning (by decide +kernel), by decide +kernel, by decide +kernel, by decide +kernel,
      by decide +kernel, by decide +kernel, by decide +kernel, by decide +kernel, by decide +kernel, by decide +kernel, ?_⟩,
    ⟨_, rfl, tShardItem_sound _, tRunning (by decide +kernel), by decide +kernel⟩,
    ⟨_, rfl, tItem_sound _, tRunning (by decide +kernel), by decide +kernel⟩⟩
  · intro n h
    have e : pshWords (pshOpcode (((tPort (fun x => { x with state := .inItem, partial_ := [tWord 4 2] }) []).port 0).partial_.headD
      0)) = some 2 := by decide +kernel
    rw [e] at h
    cases h
    decide +kernel
  · obtain ⟨u, h⟩ := tOk (x := (tShardItem [tWord 3 2, 5]).sealShard tOwnShard) (by decide +kernel)
    have : ((tShardItem [tWord 3 2, 5]).sealShard tOwnShard).toOption.bind (fun u => u.shard? 5) ≠ none := by decide +kernel
    rw [h] at this
    obtain ⟨e, he⟩ := Option.ne_none_iff_exists'.1 this
    exact ⟨u, e, h, he⟩

theorem witness_FirmwareCommitChecksTheImage :
    tImaged.running ∧ tImaged.may 0 1 (tCmd 0 1 6 false) NvmeCq.admin ∧ tImaged.nv.fuseSvn ≤ 3 ∧
    imageBytes tImaged.landing.image ≠ [] ∧ (imageBytes tImaged.landing.image).length ≤ 32 * 2 ^ 20 ∧
    tImaged.pwr.pwrFailLow = false :=
  ⟨tRunning (by decide +kernel), tMay (by decide +kernel), by decide +kernel⟩

/-! ### Witnesses: the Skidder and contexts -/

def tPkt (payload : Bytes) : SkdRx :=
  ⟨0, zeros 16, 1, true, false, false, false, 0, 0, 1, 9, 2, 1, 0, 3, 1, false, true, payload⟩
def tEnd (kind : Nat) (x : Conn → Conn) : Conn := x { tConn with kind := kind, stream := 1 }
def tStreamR : RolloutStream :=
  ⟨1, ⟨.rolloutOpen, tReq, ⟨0, 0, 0, 0, 2 ^ 27, 40000, 0, 0, 0, 0, 0, 0, 2 ^ 33⟩⟩, 0, 2, 0, 0, [], [], [], []⟩
def tLinkBase (c : Conn) (x : Skidder → Skidder) : State :=
  { tSes1 with
    skd := x { tSes1.skd with conns := [c] }
    tok := { tSes1.tok with streams := [tStreamR] }
    rc := { tSes1.rc with upCycles := 10 ^ 12 } }
theorem tLinkBase_sound (c : Conn) (x : Skidder → Skidder) : (tLinkBase c x).Sound := tSound tSes1_sound ⟨rfl, rfl, rfl, rfl⟩
def tLink (c : Conn) (x : Skidder → Skidder) (l : List (Nat × Nat)) : State :=
  tNums (tLinkBase c x) ((Reg.mask.laneMask, 2 ^ 32 - 1) :: l)
theorem tLink_sound (c : Conn) (x : Skidder → Skidder) (l : List (Nat × Nat)) : (tLink c x l).Sound :=
  tNums_sound (tLinkBase_sound c x) _

theorem tAdmits {s : State} {pkt : SkdRx} {n : Nat} {c : Conn} (e : s.portFitted pkt.port = true ∧ s.portsSend = true ∧
    s.sec.testEn = false ∧ pkt.version = 1 ∧ pkt.lengthsOk = true ∧ s.conn? pkt.dstConn = some c ∧ c.state = .open_ ∧
    pkt.addr = c.addr ∧ (c.roce = false → s.peerMatches c pkt = true ∧ s.keyNamed c pkt.keyEpoch ≠ none) ∧ pkt.tagOk = true ∧
    (pkt.chipped = true → c.compress = true) ∧
    (n ≤ 4 → -((s.num (Reg.service.ingressBurst c.service) : Int) * 1000) ≤ ((s.portTx pkt.port).service c.service).police)) :
    s.admits pkt n c := e
theorem tExpects {s : State} {pkt : SkdRx} {c : Conn} (e : psnDist c.rxCum pkt.psn < 2 ^ 31 ∧
    psnDist c.rxCum pkt.psn < s.num Reg.rel.sendWindow ∧ pkt.psn ∉ c.rxAbove) : s.expects pkt c := e

/-- A PEER connection with a message of 64 bytes in reception, none of it placed. -/
def tMsgRx : RxMsg := ⟨3, 3, 64, 0, 0, false, none, false⟩
def tPeerEnd : Conn := tEnd 2 fun c => { c with rxMsgs := [tMsgRx] }
def tAt : State := tLink tPeerEnd id []
def tKey3 (offset imm : Nat) : SkdExt := ⟨3 * 2 ^ 30, 64, offset, imm⟩
/-- A ROLLOUT connection, whose region 0 has REG_TAG 5. -/
def tRollEnd : Conn := tEnd 4 fun c => { c with tags := [5, 6] }
def tAtRoll : State := tLink tRollEnd id []
def tReadOp : NetOp := ⟨3, .message, 2, [], true, false, false, [], 0, 0, none⟩
def tReader : Conn := tEnd 1 fun c => { c with ops := [tReadOp] }
def tAtReader : State := tLink tReader id []
def tIngestEnd : Conn := tEnd 3 id
def tAtIngest : State := tLink tIngestEnd id []
def tWriteOp : NetOp := ⟨7, .message, 0, [], false, false, true, [], 0, 0, none⟩
def tWriterEnd : Conn := tEnd 3 fun c => { c with ops := [tWriteOp] }
def tAtWriter : State := tLink tWriterEnd id []
def tDiscard : Bytes := zeros 8 ++ [0, 0, 0, 7, 0x50, 0x15] ++ zeros 10
def tReadErr : Bytes := zeros 8 ++ [0, 0, 0, 3] ++ zeros 12

theorem witness_SkidderPacketsComplete :
    (tAt.Sound ∧ tAt.alive ∧ (∀ n, tAt.admits (tPkt [1, 2]) n tPeerEnd) ∧ tAt.expects (tPkt [1, 2]) tPeerEnd ∧
      tAt.writeAllowed tPeerEnd (tKey3 0 1) 2 = true ∧ tPeerEnd.msg? 3 = some tMsgRx ∧ tMsgRx.rejected = false ∧
      tMsgRx.held = none ∧ tAt.immAllowed tPeerEnd 1 = true ∧ tMsgRx.placed + 2 < tMsgRx.total ∧ tPeerEnd.kind = 2 ∧
      (∃ d ce u, tAt.takePacket (tPkt [1, 2]) 7 = .ok (d, ce, u)) ∧ tAt.portFitted 0 = true ∧ tAt.portsSend = true ∧
      tAt.sec.testEn = false) ∧
    (tAtRoll.Sound ∧ tAtRoll.alive ∧ (∀ n, tAtRoll.admits (tPkt [1, 2]) n tRollEnd) ∧ tAtRoll.expects (tPkt [1, 2]) tRollEnd ∧
      tAtRoll.writeAllowed tRollEnd ⟨5, 64, 0, 0⟩ 2 = true ∧ (5 : Nat) / 2 ^ 30 ≠ 3 ∧ tRollEnd.msg? 3 = none ∧
      tRollEnd.rxMsgs.length < 64 ∧ 3 ∉ tRollEnd.rxDone ∧ tRollEnd.kind ≠ 2) ∧
    (tAtReader.Sound ∧ tAtReader.alive ∧ (∀ n, tAtReader.admits (tPkt [1, 2]) n tReader) ∧
      tAtReader.expects (tPkt [1, 2]) tReader ∧ (tReader.ops.find? fun o => o.isRead && o.msgId == 3) = some tReadOp ∧
      (0 : Nat) + 2 ≤ tReadOp.want ∧ tReadOp.want ≤ sum (tReadOp.got.map fun g => g.2.length) + 2 ∧
      (∀ n, tAtReader.admits (tPkt tReadErr) n tReader) ∧ tAtReader.expects (tPkt tReadErr) tReader ∧
      (tReader.ops.find? fun o => o.isRead && o.msgId == beAt tReadErr 8 4) = some tReadOp) ∧
    (tAtIngest.Sound ∧ tAtIngest.alive ∧ (∀ n, tAtIngest.admits (tPkt [1, 2]) n tIngestEnd) ∧
      tAtIngest.expects (tPkt [1, 2]) tIngestEnd ∧ tIngestEnd.kind = 3) ∧
    (tAtWriter.Sound ∧ tAtWriter.alive ∧ (∀ n, tAtWriter.admits (tPkt tDiscard) n tWriterEnd) ∧
      tAtWriter.expects (tPkt tDiscard) tWriterEnd ∧
      (tWriterEnd.ops.find? fun o => o.msgId == beAt tDiscard 8 4 && !o.isRead) = some tWriteOp ∧
      (beAt tDiscard 12 2 ≠ 0x5015 ∨ tWriteOp.again = true)) := by
  refine ⟨⟨tLink_sound _ _ _, tAlive (by decide +kernel), fun n => tAdmits ⟨by decide +kernel, by decide +kernel,
        by decide +kernel, by decide +kernel, by decide +kernel, by decide +kernel, by decide +kernel, by decide +kernel,
        by decide +kernel, by decide +kernel, by decide +kernel, fun _ => by decide +kernel⟩, tExpects (by decide +kernel),
      by decide +kernel, by decide +kernel, by decide +kernel, by decide +kernel, by decide +kernel, by decide +kernel,
      by decide +kernel, ?_, by decide +kernel⟩,
    ⟨tLink_sound _ _ _, tAlive (by decide +kernel), fun n => tAdmits ⟨by decide +kernel, by decide +kernel,
        by decide +kernel, by decide +kernel, by decide +kernel, by decide +kernel, by decide +kernel, by decide +kernel,
        by decide +kernel, by decide +kernel, by decide +kernel, fun _ => by decide +kernel⟩, tExpects (by decide +kernel),
      by decide +kernel⟩,
    ⟨tLink_sound _ _ _, tAlive (by decide +kernel), fun n => tAdmits ⟨by decide +kernel, by decide +kernel,
        by decide +kernel, by decide +kernel, by decide +kernel, by decide +kernel, by decide +kernel, by decide +kernel,
        by decide +kernel, by decide +kernel, by decide +kernel, fun _ => by decide +kernel⟩, tExpects (by decide +kernel),
      by decide +kernel, by decide +kernel, by decide +kernel,
      fun n => tAdmits ⟨by decide +kernel, by decide +kernel,
        by decide +kernel, by decide +kernel, by decide +kernel, by decide +kernel, by decide +kernel, by decide +kernel,
        by decide +kernel, by decide +kernel, by decide +kernel, fun _ => by decide +kernel⟩, tExpects (by decide +kernel),
      by decide +kernel⟩,
    ⟨tLink_sound _ _ _, tAlive (by decide +kernel), fun n => tAdmits ⟨by decide +kernel, by decide +kernel,
        by decide +kernel, by decide +kernel, by decide +kernel, by decide +kernel, by decide +kernel, by decide +kernel,
        by decide +kernel, by decide +kernel, by decide +kernel, fun _ => by decide +kernel⟩, tExpects (by decide +kernel),
      by decide +kernel⟩,
    ⟨tLink_sound _ _ _, tAlive (by decide +kernel), fun n => tAdmits ⟨by decide +kernel, by decide +kernel,
        by decide +kernel, by decide +kernel, by decide +kernel, by decide +kernel, by decide +kernel, by decide +kernel,
        by decide +kernel, by decide +kernel, by decide +kernel, fun _ => by decide +kernel⟩, tExpects (by decide +kernel),
      by decide +kernel⟩⟩
  obtain ⟨⟨d, ce, u⟩, h⟩ := tOk (x := tAt.takePacket (tPkt [1, 2]) 7) (by decide +kernel)
  exact ⟨d, ce, u, h⟩

/-- The descriptor of a ROLLOUT connection to connection 9 of slot 2, generation 1, on port 0 (Table 13-4). -/
def tConnDesc : Bytes :=
  [4, 0, 0, 0, 0, 0, 0, 0] ++ leBytes 4 9 ++ leBytes 4 2 ++ leBytes 4 1 ++ zeros 20 ++ leBytes 8 1 ++ zeros 4 ++ leBytes 2 4096 ++
    leBytes 2 1 ++ leBytes 2 0 ++ [0] ++ zeros 165
def tTransferEnd : Conn := tEnd 5 id
def tRead : TransferDesc := ⟨3, 1, 0, 0, 64, 0, 0, 0⟩
def tHostPage : State := tLink tTransferEnd (fun x => { x with pages := [⟨0, 16, 3, 2, 16, 0, 0, 1025, 0x5000, [tRead]⟩] })
  [(Reg.connCtl.hostTransfer, 1), (Reg.subCtl.subSelect, 7)]
/-- Configure subscriber slot 7 for service 1 of port 0. -/
def tSubDesc (action : Nat) : Bytes := leBytes 1 action ++ [0, 1, 0] ++ leBytes 4 1000 ++ leBytes 4 8192 ++ zeros 4
def tSubSlot : SubSlot := ⟨7, .configured, some (0, 1), 1000, 8192, 1000, 8192, 0, [], 0⟩

theorem witness_ConnectionsAndSubscribersComplete :
    (tHostPage.Sound ∧ tHostPage.alive ∧ tHostPage.takes tHdr tSes ∧ tSes.admin = true ∧ tConnDesc.length = 224 ∧
      tHostPage.openRefusal tConnDesc = none ∧
      tHostPage.bindSub (leAt tConnDesc 0x38 2) (leAt tConnDesc 5 1) (leAt tConnDesc 0x3A 1) tHostPage.freeConn ≠ none ∧
      (leBytes 2 1).length = 2 ∧ tHostPage.conn? (leNat (leBytes 2 1)) = some tTransferEnd ∧ (tSubDesc 1).length = 16 ∧
      leAt (tSubDesc 1) 0 1 = 1 ∧ tHostPage.subRefusal (tSubDesc 1) (tHostPage.num Reg.subCtl.subSelect) = none ∧
      tHostPage.pageOn 0 = true ∧ (∃ u, tHostPage.fetch (.page 0) tRead = some u ∧
        u.transferConn (.page 0) tRead = some tTransferEnd) ∧ tRead.op = 3 ∧ tRead.length ≠ 0 ∧
      tRead.length ≤ tHostPage.num Reg.rel.readMax) ∧
    (∀ n, n = 1 ∨ n = 2 → ∃ u, tHostPage.fetch (.core 0 0) { tRead with op := n } = some u ∧
      u.transferConn (.core 0 0) { tRead with op := n } = some tTransferEnd) ∧
    (∃ s : State, s.Sound ∧ s.alive ∧ s.takes tHdr tSes ∧ (tSubDesc 2).length = 16 ∧ leAt (tSubDesc 2) 0 1 = 2 ∧
      s.subRefusal (tSubDesc 2) (s.num Reg.subCtl.subSelect) = none ∧ s.sub? 7 = some tSubSlot) := by
  refine ⟨⟨tLink_sound _ _ _, tAlive (by decide +kernel), tTakes (by decide +kernel), by decide +kernel, by decide +kernel,
      by decide +kernel, ?_, by decide +kernel, by decide +kernel, by decide +kernel, by decide +kernel, by decide +kernel,
      by decide +kernel, ?_, by decide +kernel⟩, ?_,
    ⟨tLink tTransferEnd (fun x => { x with subs := [tSubSlot] }) [(Reg.subCtl.subSelect, 7)], tLink_sound _ _ _,
      tAlive (by decide +kernel), tTakes (by decide +kernel), by decide +kernel⟩⟩
  · exact fun h => by
      have : (tHostPage.bindSub (leAt tConnDesc 0x38 2) (leAt tConnDesc 5 1) (leAt tConnDesc 0x3A 1)
        tHostPage.freeConn).isSome = true := by decide +kernel
      rw [h] at this
      cases this
  · exact (Option.any_eq_true _ _).1 (by decide +kernel : (tHostPage.fetch (.page 0) tRead).any
      (fun u => decide (u.transferConn (.page 0) tRead = some tTransferEnd)) = true) |>.imp fun u h => ⟨h.1, of_decide_eq_true h.2⟩
  · rintro n (rfl | rfl) <;> exact ⟨_, rfl, by decide +kernel⟩

def tPortsOf (p : PortTx) : List PortTx := p :: List.replicate 31 PortTx.reset
/-- Two packets of connection 1: one unsequenced for the control queue, one sent and not acknowledged. -/
def tTx : TxPkt := ⟨1, 5, false, false, false, false, none, 0, 0, none, [], none, 0, false, false, zeros 16, none⟩
def tSent : Sent := ⟨{ tTx with type := 1, psn := 4 }, 0, 1, 0, 0, true, false⟩
def tSending : Conn := tEnd 2 fun c => { c with unacked := [tSent], newAck := 1 }
def tNetEvents : State := tLink tSending id [(Reg.start.startState, 3), (Reg.portStat.linkUp 0, 1)]
def tRoceEnd : Conn := tEnd 1 fun c => { c with roce := true }
def tNetFrame : NetFrame := ⟨0, 0, false, 0, 0, zeros 16, []⟩
def tEgress (p : PortTx) : State := tLink tSending (fun x => { x with ports := tPortsOf p }) [(Reg.portStat.linkUp 0, 1)]
def tDueFirst : PortTx := { PortTx.reset with due := [[tTx]] }
def tCtlFirst : PortTx := { PortTx.reset with ctl := [tTx] }

theorem witness_SkidderEventsComplete :
    (tNetEvents.Sound ∧ tNetEvents.alive ∧ tNetEvents.conn? 1 = some tSending ∧ tSending.state = .open_ ∧ tSending.newAck ≠ 0 ∧
      tSending.port < tNetEvents.skd.ports.length ∧ (tSending.unacked.find? fun u => u.pkt.psn == 4) = some tSent ∧
      tSent.queued = false ∧ tSent.passed = true ∧
      tSent.at_ + tSending.srtt.getD 0 + tNetEvents.num Reg.rel.reorderNs ≤ tNetEvents.nowNs ∧
      tSent.at_ + tNetEvents.rto tSending tSent.tries ≤ tNetEvents.nowNs ∧
      tNetEvents.rc.ring % max 1 (tNetEvents.num Reg.rateCtl.rcPeriodRings) = 0 ∧ tNetEvents.portsMayRise = true ∧
      tNetEvents.portFitted 0 = true ∧ tNetEvents.num (Reg.portStat.linkUp 0) ≠ 0) ∧
    (∃ (s : State) (c : Conn), s.Sound ∧ s.alive ∧ s.conn? 1 = some c ∧ c.state = .open_ ∧ c.graceUntil = some 0 ∧
      0 ≤ s.rc.ring ∧ c.roce = false ∧ 2 ^ 47 ≤ c.serial ∧ c.mayRotate = true ∧ s.portFitted 0 = true ∧
      s.num (Reg.portStat.linkUp 0) = 0 ∧ (s.num Reg.gate.portGate).testBit 0 = false) ∧
    (∃ q l, (tEgress tDueFirst).Sound ∧ (tEgress tDueFirst).alive ∧ (tEgress tDueFirst).portFitted 0 = true ∧
      (tEgress tDueFirst).num (Reg.portStat.linkUp 0) ≠ 0 ∧ (tEgress tDueFirst).portsSend = true ∧
      (tEgress tDueFirst).sec.testEn = false ∧ 0 < (tEgress tDueFirst).skd.ports.length ∧
      (tEgress tDueFirst).takeDue ((tEgress tDueFirst).portTx 0).due = some (q, l)) ∧
    ((tEgress tCtlFirst).Sound ∧ (tEgress tCtlFirst).alive ∧ (tEgress tCtlFirst).portFitted 0 = true ∧
      (tEgress tCtlFirst).num (Reg.portStat.linkUp 0) ≠ 0 ∧ (tEgress tCtlFirst).portsSend = true ∧
      (tEgress tCtlFirst).sec.testEn = false ∧ 0 < (tEgress tCtlFirst).skd.ports.length ∧
      ((tEgress tCtlFirst).portTx 0).due = [] ∧ ((tEgress tCtlFirst).portTx 0).renew = [] ∧
      ((tEgress tCtlFirst).portTx 0).held = none ∧ ((tEgress tCtlFirst).portTx 0).ctl = [tTx] ∧
      0 ≤ ((tEgress tCtlFirst).portTx 0).ctlCredit ∧ (tEgress tCtlFirst).canSend tTx = true ∧
      (tEgress tCtlFirst).fits 0 tTx = true) ∧
    (∃ s : State, s.Sound ∧ s.alive ∧ s.conn? 1 = some tRoceEnd ∧ tRoceEnd.state = .open_ ∧ tRoceEnd.roce = true ∧
      (s.skd.fiHeld.find? fun f => f.port == 0) = some tNetFrame) := by
  refine ⟨⟨tLink_sound _ _ _, tAlive (by decide +kernel), by decide +kernel⟩,
    ⟨tLink (tEnd 2 fun c => { c with graceUntil := some 0, serial := 2 ^ 47 }) id [],
      tEnd 2 fun c => { c with graceUntil := some 0, serial := 2 ^ 47 }, tLink_sound _ _ _, tAlive (by decide +kernel),
      by decide +kernel⟩, ?_,
    ⟨tLink_sound _ _ _, tAlive (by decide +kernel), by decide +kernel⟩,
    ⟨tLink tRoceEnd (fun x => { x with fiHeld := [tNetFrame] }) [], tLink_sound _ _ _, tAlive (by decide +kernel),
      by decide +kernel⟩⟩
  obtain ⟨⟨q, l⟩, h⟩ := tSome (x := (tEgress tDueFirst).takeDue ((tEgress tDueFirst).portTx 0).due) (by decide +kernel)
  exact ⟨q, l, tLink_sound _ _ _, tAlive (by decide +kernel), by decide +kernel, by decide +kernel, by decide +kernel,
    by decide +kernel, by decide +kernel, h⟩

def tCtx (k : Nat) : State :=
  { tSes1 with sec := { tSes1.sec with clusters := [(0, ⟨some k, 0, false⟩)] }, rc := { tSes1.rc with upCycles := 10 ^ 12 } }
theorem tCtx_sound (k : Nat) : (tCtx k).Sound := tSound tSes1_sound ⟨rfl, rfl, rfl, rfl⟩
def tDefinable : State := tNums (tCtx 0) [(Reg.ctx.clusterMask 5, 1)]
/-- Contexts 0 and 3 DEFINED on cluster 0, which holds the undefined context 5. -/
def tDefined : State :=
  { tCtx 5 with sec := { (tCtx 5).sec with ctxs := [(0, { Ctx.undefined with state := .defined }), (3, { Ctx.undefined with state := .defined })] } }
theorem tDefined_sound : tDefined.Sound := tSound (tCtx_sound 5) ⟨rfl, rfl, rfl, rfl⟩
def tSwitchNums : State := tNums tDefined [(Reg.ctx.clusterMask 3, 1), (Reg.ctx.clusterMask 0, 0)]
/-- A launch of context 3 waits; with `busy`, a core still runs a work item. -/
def tToSwitch (busy : Bool) : State :=
  { tSwitchNums with comp := { tSwitchNums.comp with clusters := [{ ClusterState.empty 0 with
      queue := [⟨.launch, ⟨0x1000, 3⟩, ⟨0, 0, 1, 1, 9, 2, 0, 0, 0, 0, 0, 0, 0, 0⟩⟩]
      cores := [{ (ClusterState.empty 0).core 0 with item := if busy then some 0 else none }] }] } }
theorem tToSwitch_sound (busy : Bool) : (tToSwitch busy).Sound :=
  tSound (s := tSwitchNums) (tNums_sound tDefined_sound _) ⟨rfl, rfl, rfl, rfl⟩

theorem witness_ContextCommandsComplete :
    (tDefinable.Sound ∧ tDefinable.alive ∧ tDefinable.takes tHdr tSes ∧ tSes.admin = true ∧
      (tDefinable.ctx 5).state = .undefined ∧ tDefinable.maskBad (tDefinable.num (Reg.ctx.clusterMask 5)) = false ∧
      (tDefinable.blob (Reg.ctx.program 5)).length ≤ 4194304 ∧ tDefinable.num (Reg.ctx.pinned 5) = 0 ∧
      tDefinable.ctxBusy 0 = false ∧ (tDefinable.ctx 0).renew = false) ∧
    (tDefined.Sound ∧ tDefined.alive ∧ tDefined.takes tHdr tSes ∧ tSes.admin = true ∧ (tDefined.ctx 3).state = .defined ∧
      tDefined.ctxBusy 3 = false) ∧
    ((tToSwitch true).Sound ∧ (tToSwitch true).alive ∧ (tToSwitch true).hasCluster 0 = true ∧
      ((tToSwitch true).cluster 0).faulted = false ∧ (tToSwitch true).switchDue 0 = some (some 3) ∧
      (tToSwitch true).itemsEnded 0 = false) ∧
    ((tToSwitch false).Sound ∧ (tToSwitch false).alive ∧ (tToSwitch false).hasCluster 0 = true ∧
      ((tToSwitch false).cluster 0).faulted = false ∧ (tToSwitch false).switchDue 0 = some (some 3) ∧
      (tToSwitch false).itemsEnded 0 = true) := by
  refine ⟨⟨tNums_sound (tCtx_sound 0) _, tAlive (by decide +kernel), tTakes (by decide +kernel), by decide +kernel⟩,
    ⟨tDefined_sound, tAlive (by decide +kernel), tTakes (by decide +kernel), by decide +kernel⟩,
    ⟨tToSwitch_sound _, tAlive (by decide +kernel), by decide +kernel⟩,
    ⟨tToSwitch_sound _, tAlive (by decide +kernel), by decide +kernel⟩⟩

/-! ### Witnesses: start-up, clocks, power, and the statements about every command -/

def tPwr (x : Power → Power) (l : List (Nat × Nat)) : State := tNums (tPwrBase x) l
where tPwrBase (x : Power → Power) : State :=
  { tSes1 with pwr := x tSes1.pwr, rc := { tSes1.rc with upCycles := 10 ^ 12 } }
theorem tPwr_sound (x : Power → Power) (l : List (Nat × Nat)) : (tPwr x l).Sound :=
  tNums_sound (s := tPwr.tPwrBase x) (tSound tSes1_sound ⟨rfl, rfl, rfl, rfl⟩) l

theorem witness_StartUpAndResetsComplete :
    State.reset.pwr.inReset = true ∧
    (∃ s : State, s.alive ∧ s.startState = 2 ∧ s.nv.slot2.passes s.nv.fuseSvn = true) ∧
    (∃ s : State, s.alive ∧ s.startState = 2 ∧ s.nv.slot2.passes s.nv.fuseSvn = false ∧
      s.nv.slot1.passes s.nv.fuseSvn = true) ∧
    (∃ s : State, s.alive ∧ s.startState = 2 ∧ s.nv.slot1.passes s.nv.fuseSvn = false ∧
      s.nv.slot2.passes s.nv.fuseSvn = false) ∧ tRun.running := by
  refine ⟨by decide +kernel,
    ⟨{ tPwr id [(Reg.start.startState, 2)] with nv := { tRun.nv with slot2 := ⟨0, zeros 48, true, true⟩ } },
      tAlive (by decide +kernel), by decide +kernel⟩,
    ⟨tPwr id [(Reg.start.startState, 2)], tAlive (by decide +kernel), by decide +kernel⟩,
    ⟨{ tPwr id [(Reg.start.startState, 2)] with nv := { tRun.nv with fuseSvn := 1 } },
      tAlive (by decide +kernel), by decide +kernel⟩, tRunning (by decide +kernel)⟩

theorem witness_ClocksAndGatesComplete :
    (∃ s : State, s.Sound ∧ s.running ∧ s.num Reg.clk.pllState = 0 ∧ s.startState ≠ 1 ∧ s.startState ≠ 0x81 ∧
      s.num Reg.gate.fineGating ≠ 0 ∧ 7 ∉ s.pwr.fineGated ∧ s.takes tHdr tSes ∧ tSes.admin = true ∧
      (2 : Nat) < 2 ^ s.dev.variant.clusters ∧
      (∀ i, i < 16 → (2 : Nat).testBit i = true → (s.num Reg.gate.clusterGate).testBit i = false → s.clusterBusy i = false) ∧
      (∀ i, i < 32 → (32 : Nat).testBit i = true → s.portFitted i = true) ∧
      (∀ i, i < 32 → (32 : Nat).testBit i = true → (s.num Reg.gate.portGate).testBit i = false → s.portBusy i = false)) ∧
    (∃ s : State, s.Sound ∧ s.running ∧ s.relockDue = true) ∧
    (∃ s : State, s.Sound ∧ s.running ∧ s.num Reg.clk.pllState = 2) ∧
    (∃ s : State, s.Sound ∧ s.running ∧ s.num Reg.clk.pllState = 1 ∧ s.pwr.lossAt = some 0 ∧
      s.num Reg.clk.pllRetryLimit ≤ s.pwr.attempts ∧ ∀ a, s.pwr.attemptAt = some a → a + 120000 ≤ s.now) := by
  refine ⟨⟨tPwr id [(Reg.start.startState, 7), (Reg.gate.fineGating, 1), (Reg.mask.laneMask, 2 ^ 32 - 1),
        (Reg.ctx.clusterMask 0, 1)], tPwr_sound _ _,
      tRunning (by decide +kernel), by decide +kernel, by decide +kernel, by decide +kernel, by decide +kernel,
      by decide +kernel, tTakes (by decide +kernel), by decide +kernel⟩,
    ⟨tPwr (fun x => { x with lossAt := some 0 }) [(Reg.clk.pllState, 1)], tPwr_sound _ _, tRunning (by decide +kernel),
      by decide +kernel⟩,
    ⟨tPwr id [(Reg.clk.pllState, 2)], tPwr_sound _ _, tRunning (by decide +kernel), by decide +kernel⟩,
    ⟨tPwr (fun x => { x with lossAt := some 0, attempts := 1000, attemptAt := some 0 }) [(Reg.clk.pllState, 1)], tPwr_sound _ _,
      tRunning (by decide +kernel), by decide +kernel, by decide +kernel, by decide +kernel, ?_⟩⟩
  have e : (tPwr (fun x => { x with lossAt := some 0, attempts := 1000, attemptAt := some 0 })
    [(Reg.clk.pllState, 1)]).pwr.attemptAt = some 0 := by decide +kernel
  intro a h
  rw [e] at h
  cases h
  decide +kernel

theorem witness_PowerAndHeatComplete :
    (∃ s : State, s.Sound ∧ s.running ∧ (List.replicate 11 (1000, 500) : List (Nat × Nat)).length = 11 ∧
      s.pwr.windowWhole = true ∧ s.pwr.windowCount ≠ 0 ∧ s.pwr.coolingUntil = some 0 ∧ 0 ≤ s.now ∧ s.startState ≠ 1 ∧
      s.pwr.lossStopped = false) ∧
    (∃ s : State, s.Sound ∧ s.running ∧ s.startState = 1) := by
  refine ⟨⟨tPwr (fun x => { x with windowWhole := true, windowCount := 1, coolingUntil := some 0 }) [(Reg.start.startState, 7)],
      tPwr_sound _ _, tRunning (by decide +kernel), by decide +kernel⟩,
    ⟨tPwr id [(Reg.start.startState, 1)], tPwr_sound _ _, tRunning (by decide +kernel), by decide +kernel⟩⟩

/-! Commands that answer a next state, as `witness` of a hypothesis `exec c s = .next t`. -/

/-- Whether an outcome is a next state. -/
def tIsNext (o : Host.Outcome State Fault Refusal) : Bool :=
  match o with
  | .next _ => true
  | _ => false
theorem tNext {o : Host.Outcome State Fault Refusal} (h : tIsNext o = true) : ∃ t, o = .next t := by
  cases o with
  | next t => exact ⟨t, rfl⟩
  | fault f => cases h
  | refused r => cases h

theorem witness_AnEmptyQueuePassesOneCycle :
    State.reset.pending = [] ∧ State.reset.stopped = true ∧ tRun.pending = [] ∧ tRun.running ∧ tRun.rc.cyc + 1 < tRun.rc.len ∧
    (∃ s : State, s.pending = [] ∧ s.running ∧ s.rc.len ≤ s.rc.cyc + 1) :=
  ⟨rfl, by decide +kernel, rfl, tRunning (by decide +kernel), by decide +kernel,
    ⟨{ tRun with rc := { tRun.rc with cyc := 1023 } }, rfl, tRunning (by decide +kernel), by decide +kernel⟩⟩

theorem witness_EveryStepKeepsTheInvariant :
    tRun.Sound ∧ (∃ t, step tRun = .next t) ∧ ∃ t, step { tRun with pending := [.epochStart] } = .next t :=
  ⟨tRun_sound, tNext (by decide +kernel), tNext (by decide +kernel)⟩

theorem witness_AStoppedDeviceIsInert :
    State.reset.stopped = true ∧ pinEvent .epochStart = false ∧
    (∃ s : State, s.pwr.lossStopped = true ∧ needsPower .secureBoot = true) :=
  ⟨by decide +kernel, rfl, ⟨{ tRun with pwr := { tRun.pwr with lossStopped := true } }, rfl, rfl⟩⟩

theorem witness_CommandsLeaveTheQueueAndTheDevice : ∃ t, exec .epochStart { tRun with pending := [.rcLocked] } = .next t :=
  tNext (by decide +kernel)

theorem witness_UnauthenticatedRequestsChangeNothing :
    requestOf (.gradeStart (.tally tHdr)) = some tHdr ∧ tHdr.session ≠ 0 ∧ tRun.session? tHdr.session = none ∧
    { tHdr with secure := false }.secure = false ∧ { tHdr with tagOk := false }.tagOk = false ∧
    (∃ t, exec (.gradeStart (.tally tHdr)) tRun = .next t) ∧
    (∃ t, exec (.gradeStart (.tally { tHdr with secure := false })) tSes1 = .next t) ∧
    ∃ t, exec (.gradeStart (.tally { tHdr with tagOk := false })) tSes1 = .next t :=
  ⟨rfl, by decide +kernel, by decide +kernel, rfl, rfl, tNext (by decide +kernel), tNext (by decide +kernel),
    tNext (by decide +kernel)⟩

/-- A TENANT of context 3. -/
def tTenant : Session := { tSes with admin := false, tenant := true, test := false, mask := 8 }
def tOfTenant : State := tOpen tTenant tRun

theorem witness_ATenantWritesOnlyItsContexts :
    writeTarget (.define (.tally tHdr) 5) = some (tHdr, 0x2645, 2) ∧ tHdr.session ≠ 0 ∧
    tOfTenant.session? tHdr.session = some tTenant ∧ tTenant.isTenant = true ∧
    (∀ k, ctxOfIndex 0x2645 = some k → tTenant.mask.testBit k = false) ∧ ¬ (0x2645 = 0x2680 ∧ 2 = 1) ∧
    ∃ t, exec (.define (.tally tHdr) 5) tOfTenant = .next t := by
  refine ⟨rfl, by decide +kernel, by decide +kernel, by decide +kernel, ?_, by decide, tNext (by decide +kernel)⟩
  intro k h
  have e : ctxOfIndex 0x2645 = some 5 := by decide +kernel
  rw [e] at h
  cases h
  decide +kernel

theorem witness_SpuriousSyncEdgesAreCounted :
    ∃ s : State, s.alive ∧ s.inStand = true ∧ ∀ n, s.stand.armedBarrier ≠ some (n, s.stand.term) :=
  ⟨{ tRun with stand := { tRun.stand with state := .member, members := [0, 1] } }, tAlive (by decide +kernel), by decide +kernel,
    fun n h => by cases h⟩

/-- The six settings of R69 in RUN. -/
def tInRun : State := tNums tSes1 [(Reg.sched.state, 3)]

def tTr : Transfer := ⟨1, 0x4A30, 1, 1, sha384 [0], [0], [true], 0⟩
def tSesT : Session := { tSes with transfers := [tTr] }

theorem witness_RunSettingsAreBusyInARun :
    tInRun.schedState = 3 ∧ tInRun.running ∧ tInRun.takes tHdr tSes ∧
    (∃ r, (tInRun.served tHdr tSes).vet (.session tHdr.session) 0x4A30 1 (zeros 1) = .ok r) ∧
    (∃ t, exec (.dictionaryWrite (.tally tHdr) 0x4A30 1 (zeros 1)) tInRun = .next t) ∧
    (∃ (s : State) (x : Session) (tr : Transfer), s.schedState = 3 ∧ s.takes tHdr x ∧ x.transfer? 1 = some tr ∧
      (tr.idx, tr.sub) = (0x4A30, 1) ∧ ∃ t, exec (.blobEnd tHdr 1) s = .next t) := by
  refine ⟨by decide +kernel, tRunning (by decide +kernel), tTakes (by decide +kernel), tOk (by decide +kernel),
    tNext (by decide +kernel),
    ⟨tNums (tOpen tSesT tRun) [(Reg.sched.state, 3)], tSesT, tTr, by decide +kernel, tTakes (by decide +kernel),
      by decide +kernel, by decide +kernel, tNext (by decide +kernel)⟩⟩

theorem witness_TheRingCountIsTaiByTheRules :
    ∃ s : State, s.running ∧ s.flag Reg.ptp.ptpEnable = true ∧ s.rc.state = .unset ∧ (123456789 : Nat) < 2 ^ 64 * 10240 :=
  ⟨tNums tRun [(Reg.ptp.ptpEnable, 1)], tRunning (by decide +kernel), by decide +kernel⟩

theorem witness_SpreadSettingsWaitForTheirPeriod :
    (tSes1.running ∧ tSes1.takes tHdr tSes ∧ tSes1.inRun = false ∧
      (∃ r, (tSes1.served tHdr tSes).vet (.session tHdr.session) 0x2000 4 (leBytes 2 1000) = .ok r) ∧
      ∃ r, (tSes1.served tHdr tSes).vet (.session tHdr.session) 0x2000 5 (leBytes 2 31000) = .ok r) ∧
    (tInRun.running ∧ tInRun.takes tHdr tSes ∧ tInRun.inRun = true ∧
      ∃ r, (tInRun.served tHdr tSes).vet (.session tHdr.session) 0x2000 4 (leBytes 2 1000) = .ok r) :=
  ⟨⟨tSes1_running, tSes1_takes, by decide +kernel, tOk (by decide +kernel), tOk (by decide +kernel)⟩,
    tRunning (by decide +kernel), tTakes (by decide +kernel), by decide +kernel, tOk (by decide +kernel)⟩

def tEng : EngineAt := ⟨0, 0, 0, 0⟩

theorem witness_OtherInstancesStay :
    (1 : Nat) ≠ 0 ∧ (∃ t, exec (.pshFlush 0) tRun = .next t) ∧ (∃ t, exec (.engineSync tEng .dma) tRun = .next t) ∧
    (∃ t, exec (.decodeImage ⟨0x1000, 0⟩ ⟨1, 0, 0, 0, 0, 0, 0, 0, 0, 0, 0, 0, 0, 0⟩) tRun = .next t) ∧
    (∃ t, exec (.vocabLoad ⟨0x1000, 0⟩ ⟨0, 0, 0, 0, 0, 0, 0, 0, 0, 0, 0, 0, 0⟩) tRun = .next t) ∧
    ∃ t, exec (.compress ⟨0, 0, 1, 0, 0, 0, 0, 0, 0, 0, 0, 0, 0, 0⟩) tRun = .next t :=
  ⟨by decide, tNext (by decide +kernel), tNext (by decide +kernel), tNext (by decide +kernel), tNext (by decide +kernel),
    tNext (by decide +kernel)⟩

/-- One command of each statement of frames answers a next state. -/
theorem witness_FramesOfScheduleAndRingCount : ∃ t, exec .ringBegin tRun = .next t := tNext (by decide +kernel)
theorem witness_FramesOfDecodeAndIntake : ∃ t, exec (.islandSpeedSample 0 7) tRun = .next t := tNext (by decide +kernel)
theorem witness_FramesOfTokensAndCompute : ∃ t, exec (.engineSync tEng .dma) tRun = .next t := tNext (by decide +kernel)
theorem witness_FramesOfDeckAndYard : ∃ t, exec .prepareFragment tRun = .next t := tNext (by decide +kernel)
theorem witness_FramesOfPoolsAndChippers : ∃ t, exec (.memoryCorrected 0) tRun = .next t := tNext (by decide +kernel)
theorem witness_FramesOfTheLanding : ∃ t, exec .controllerReset tRun = .next t := tNext (by decide +kernel)
theorem witness_FramesOfTheSkidder : ∃ t, exec .rcPeriod tRun = .next t := tNext (by decide +kernel)
theorem witness_FramesOfLookout : ∃ t, exec .lockstepFault tRun = .next t := tNext (by decide +kernel)
theorem witness_FramesOfSecurityAndPower : ∃ t, exec .hardwareTrip tRun = .next t := tNext (by decide +kernel)
theorem witness_FramesOfManagement : ∃ t, exec (.eventSend 1) tRun = .next t := tNext (by decide +kernel)

/-! ### The worked examples of the spec -/

/-- Table 2-6. -/
def tRoundTable : RoundFn :=
  .table (([[3, 0, 2, 1], [1, 3, 0, 2], [2, 1, 3, 0], [0, 2, 1, 3], [3, 1, 0, 2], [1, 0, 3, 2]] : List (List Nat)).flatMap
    fun r => r.map (BitVec.ofNat 8) ++ zeros 12)
/-- Table 2-8. -/
theorem test_feistel : (List.range 16).map (feistel tRoundTable · 4) =
    [3, 15, 11, 7, 14, 2, 6, 10, 0, 12, 8, 4, 13, 1, 5, 9] := by decide +kernel
/-- Table 2-9. -/
theorem test_permute : (List.range 10).map (permute tRoundTable · 10) = [3, 9, 4, 7, 5, 2, 6, 8, 0, 1] := by decide +kernel
/-- The document lengths of Table 2-9, in epoch order. -/
def tLengths : List Nat := [3, 2, 20, 6, 7, 12, 4, 10, 5, 9]
/-- Table 2-10. -/
theorem test_packSplit : (packSplit 16 tLengths).map (·.map fun p => (p.position, p.offset, p.tokens)) =
    [[(0, 0, 3), (1, 0, 2), (2, 0, 11)], [(2, 11, 9), (3, 0, 6), (4, 0, 1)], [(4, 1, 6), (5, 0, 10)],
      [(5, 10, 2), (6, 0, 4), (7, 0, 10)], [(8, 0, 5), (9, 0, 9)]] := by decide +kernel
/-- Table 2-11. -/
theorem test_packFit : (packFit 16 2 tLengths).map (·.map fun p => (p.position, p.offset, p.tokens)) =
    [[(2, 0, 16)], [(0, 0, 3), (1, 0, 2), (2, 16, 4), (3, 0, 6)], [(5, 0, 12)], [(4, 0, 7), (6, 0, 4), (8, 0, 5)],
      [(7, 0, 10)], [(9, 0, 9)]] := by decide +kernel

/-- Chapter 3: TAI 1,900,000,000 s and 5,000,100 ns is ring count 185,546,875,000,488, grain 298. -/
def tSynced : State :=
  (match exec (.ptpSync 20 (1900000000000000000 + 5000100)) (tNums tRun [(Reg.ptp.ptpEnable, 1)]) with
    | .next t => t
    | _ => tRun)
theorem test_ptpSync : (tSynced.rc.ring, tSynced.grain, tSynced.rc.state) = (185546875000488, 298, .acquiring) := by
  decide +kernel

/-- Chapter 6: the stop string "\n\nUser:" begins at byte 5, in token 0. -/
theorem test_stopString :
    let ss : StopSet := ⟨[ascii "\n\nUser:"], []⟩
    ((addBytes ss 2 (ascii "er:") (addBytes ss 1 (ascii "\nUs") (addBytes ss 0 (ascii "done.\n") Detok.start))).stop.map
      fun x => (x.1, x.2.1)) = some (5, 0) := by decide +kernel

/-- Chapter 7: the exact dot product of (1, 4,096, −4,096) and (1, 8,192, 8,192) is 1.0, 2^48 units. -/
theorem test_exactDot :
    (exactMac (exactMac (exactMac AccCell.zero (.fin false 1 0) (.fin false 1 0)) (.fin false 1 12) (.fin false 1 13))
      (.fin true 1 12) (.fin false 1 13)).exactValue = .fin false (2 ^ 48) (-48) := by decide +kernel

/-- Chapter 7: the MXFP4 block of 10.0, 7.25, −0.625 and 0.1875. -/
def tMxBlock (r : List (Option Nat)) : Nat × List Nat × Bool :=
  mxBlock .e2m1 ((([FVal.fin false 10 0, FVal.fin false 29 (-2), FVal.fin true 5 (-3), FVal.fin false 3 (-4)] ++
    List.replicate 28 (FVal.fin false 0 0)).zip (r ++ List.replicate 28 none)))
theorem test_mxNearest : ((tMxBlock [none, none, none, none]).1, (packBits 4 (tMxBlock [none, none, none, none]).2.1).take 3) =
    (0x80, [0x66, 0x09, 0]) := by decide +kernel
theorem test_mxStochastic :
    (packBits 4 (tMxBlock [some 0x9C41, some 0x3A71, some 0x52E0, some 0xF00D]).2.1).take 3 = [0x57, 0x18, 0] := by
  decide +kernel

/-- Chapter 8: device 1 sends 0x0001_0000 for contribution 1 of step 0, and 0x8001_0000 where an item is excluded. -/
theorem test_immediate : (immediateValue 0 1 false false, immediateValue 0 1 false true) = (0x00010000, 0x80010000) := by
  decide +kernel

/-- Table 10-11: cycles 4 to 8 of the trace, from the credits after cycle 3. -/
def tTrace : List (Arbiter × ArbGrant) :=
  let w := fun (c : Nat) => [4, 2, 1, 0].getD c 0
  let reqs := fun (l : List (Nat × Nat)) => l.map fun p => (⟨p.1, 1, p.2⟩ : ArbReq)
  let c4 := Arbiter.cycle ⟨0, 0, [(0, -2), (1, -1), (2, 3)], 3, false, []⟩ w 4096 4 (reqs [(0, 0), (1, 1), (2, 3), (3, 3)])
    false true false
  let c5 := c4.1.cycle w 4096 4 (reqs [(0, 1), (1, 2), (2, 0), (3, 4)]) false true false
  let c6 := c5.1.cycle w 4096 4 (reqs [(0, 2), (1, 3), (2, 1), (3, 0)]) false true false
  let c7 := c6.1.cycle w 4096 4 (reqs [(0, 0), (1, 4), (2, 2), (3, 1)]) false true true
  let c8 := c7.1.cycle w 4096 4 (reqs [(1, 5), (2, 3), (3, 2)]) false true false
  [c4, c5, c6, c7, c8]
theorem test_arbiterTrace : tTrace.map (fun c => (c.2, [0, 1, 2, 3].map c.1.credit)) =
    [(.cls 2 false, [2, 1, -3, 0]), (.cls 3 true, [6, 3, -2, 0]), (.cls 0 false, [3, 5, -1, 0]), (.dead 0, [7, 7, 0, 0]),
      (.cls 1 false, [7, 6, 1, 0])] := by decide +kernel

/-- Table 11-3: the payload of the 17 bytes, after 16 bytes of stream header and 12 of block header; 37 bytes in all. -/
theorem test_chipStream :
    let b := chipStream (ascii "ABCDABCDABCDABCD!") 12 false
    (b.length, b.drop 28) = (37, [0x48, 0x41, 0x42, 0x43, 0x44, 0x6C, 0x05, 0x10, 0x21]) := by decide +kernel
theorem test_chipDecompress :
    (chipDecompress (chipStream (ascii "ABCDABCDABCDABCD!") 12 false) 100).written = ascii "ABCDABCDABCDABCD!" := by
  decide +kernel

/-- Chapter 12: a flush in the sixth word of an item, four stale words, then a whole SHARD_SEAL item on port 3. -/
def tDo (s : State) (c : Instr) : State :=
  match exec c s with
  | .next t => t
  | _ => s
def tFlushed : State :=
  ([.pshFirst 3 (2 + 65536 * 12) true, .pshPush 3 1 true, .pshPush 3 2 true, .pshPush 3 3 true, .pshPush 3 4 true,
    .pshPush 3 5 true, .pshFlush 3] : List Instr).foldl tDo (tNums tRun [(Reg.push.enable 3, 1)])
theorem test_pushFlush : ((tFlushed.port 3).state, (tFlushed.port 3).discarded) = (.draining, 6) := by decide +kernel
def tSealed : State :=
  ([.pshPush 3 6 true, .pshPush 3 7 true, .pshPush 3 8 true, .pshPush 3 9 true, .pshFirst 3 (3 + 65536 * 2) true,
    .pshPush 3 77 true] : List Instr).foldl tDo tFlushed
theorem test_pushStatus : ((tSealed.port 3).discarded, (tDo tSealed (.pshStatusRead 3)).out.drop tSealed.out.length) =
    (10, [.pshStatus 3 0x3005 0 4094]) := by decide +kernel

/-- Table 14-2: at 1,000 Mb/s, a debt of 4,254 bytes is refilled to +866 in four rings; an idle refill stops at 0. -/
theorem test_refill :
    (((refill · 1000 8192000 true)^[4]) (-4254000), ((refill · 1000 8192000 false)^[3]) (-3388000)) = (866000, 0) := by
  decide +kernel

/-- Chapter 17: FLUSH_US 207,600 gives PF_LEAD_US 208,600 and HOLDUP_MJ 19,870. -/
def tHeld : State := (tNums tRun [(Reg.yardCfg.flushUs, 207600)]).holdupRegs
theorem test_holdup : (tHeld.num Reg.power.pfLeadUs, tHeld.num Reg.power.holdupMj) = (208600, 19870) := by decide +kernel

/-- From State.reset (log entry 4): PERST_DEASSERT, then SECURE_BOOT, starts the trusted image of slot 1. -/
theorem test_startUp :
    let s := tDo (tDo State.reset (.perstDeassert 5 true none)) .secureBoot
    (s.pwr.inReset, s.num Reg.stand.standId, s.num Reg.sec.bootState) = (false, 5, 2) := by decide +kernel

/-- Commands that store, each in a state where it does. -/
theorem witness_BytesChangeOnlyWhereACommandStores :
    (∃ t, exec (.decodeComplete 0 0 0 (tOutcome 1) none) (tUnitOf 0 tImage) = .next t) ∧
    ((tUnitOf 0 tImage).decQueue 0 0).running.find? (fun x => x.1 == 0) = some (0, tImage) ∧
    (∃ e, e = tTok .tokenize 2 0 ∧ ((tTokRun e).tokQueue 0).running.find? (fun p => p.1 == 0) = some (0, e) ∧
      e.kind = .tokenize ∧ ∃ t, exec (.tokenComplete 0 0 none) (tTokRun e) = .next t) ∧
    tRolling.rolloutStream? 1 = some tRollout ∧ (∃ t, exec (.rolloutNotifyProcess 1) tRolling = .next t) ∧
    (tWorking.core 0 0).dma = [⟨true, 0, 0, .clusterSram 0, 0, 1, 16⟩] ∧ (∃ t, exec (.dmaComplete 0 0) tWorking = .next t) ∧
    (tDeckOf [tPreparing]).entry? tKeyF = some tPreparing ∧
    (∃ t, exec (.fragmentReady tKeyF 0 tBlock []) (tDeckOf [tPreparing]) = .next t) ∧
    ((tPipe true).chipPipe 0 true).queue = [⟨tChip, false⟩] ∧ (∃ t, exec (.chipperComplete 0 true) (tPipe true) = .next t) ∧
    (tDrain.pool (hPool (2 ^ 27))).draining.find? (fun b => b.handle (hPool (2 ^ 27)) == 2 ^ 27 && b.inFlight == 0) =
      some tOwned ∧ tDrain.running ∧ poolScrubbed (hPool (2 ^ 27)) = true ∧
    ∃ t, exec (.blocksReturn (2 ^ 27)) tDrain = .next t := by
  refine ⟨tNext (by decide +kernel), by decide +kernel, ⟨_, rfl, by decide +kernel, rfl, tNext (by decide +kernel)⟩,
    by decide +kernel, tNext (by decide +kernel), by decide +kernel, tNext (by decide +kernel), by decide +kernel,
    tNext (by decide +kernel), by decide +kernel, tNext (by decide +kernel), by decide +kernel, tRunning (by decide +kernel),
    by decide +kernel, tNext (by decide +kernel)⟩

/-! ### Transforms of Table 7-6, by hand -/

/-- Words 2^31 and 2^32 - 1 for every slot, FILL 0x44332211. -/
def tSlotCtx : SlotCtx := ⟨fun j => if j = 0 then 2 ^ 31 else 2 ^ 32 - 1, fun _ _ => 0, fun _ => 0, 0x44332211⟩
/-- An image of one channel of bytes. -/
def tImageOf (w h : Nat) (l : List Nat) : Made := ⟨⟨1, w, h, 1, true, .uint 1⟩, l.map (BitVec.ofNat 8), false⟩
def tBytesOf (m : Made) : List Nat := m.bytes.map BitVec.toNat
/-- CROP of 2 × 1 from 3 × 2: x0 = (2^31 × 2) >> 32 = 1 and y0 = ((2^32 - 1) × 2) >> 32 = 1. -/
theorem test_crop : tBytesOf ((tImageOf 3 2 [1, 2, 3, 4, 5, 6]).slot tSlotCtx (.crop 2 1)) = [5, 6] := by decide +kernel
/-- A window of 4 × 1 over an image of 2 × 1: what is outside takes bytes 2 and 3 of FILL. -/
theorem test_cropFill : tBytesOf ((tImageOf 2 1 [7, 8]).slot tSlotCtx (.crop 4 1)) = [7, 8, 0x33, 0x44] := by decide +kernel
/-- RESIZE of 4 × 1 to 2 × 1: one box halving, (a + b + 1) >> 1. -/
theorem test_resize : tBytesOf ((tImageOf 4 1 [10, 20, 30, 40]).slot tSlotCtx (.resize 2 1)) = [15, 35] := by decide +kernel
/-- FLIP with a threshold above the word mirrors each row. -/
theorem test_flip : tBytesOf ((tImageOf 2 2 [1, 2, 3, 4]).slot tSlotCtx (.flip (2 ^ 31 + 1))) = [2, 1, 4, 3] := by decide +kernel
/-- GREY of white: (19,595 + 38,470 + 7,471) × 255 = 65,536 × 255. -/
theorem test_grey : tBytesOf ((⟨⟨1, 1, 1, 3, false, .uint 1⟩, [255#8, 255#8, 255#8], false⟩ : Made).slot tSlotCtx .grey) =
    [255] := by decide +kernel
/-- SPAN_MASK: start 1, length 5, clamped to a document of three tokens. -/
theorem test_spanMask : ((⟨⟨1, 3, 1, 1, true, .uint 4⟩, leBytes 4 9 ++ leBytes 4 8 ++ leBytes 4 7, false⟩ : Made).slot tSlotCtx
    (.spanMask 1 1 5 5 99)).bytes = leBytes 4 9 ++ leBytes 4 99 ++ leBytes 4 99 := by decide +kernel
/-- GAIN_OFFSET with gain 1 + UNIT × 0 and offset 0.5: 3 becomes 3.5 in FP32. -/
theorem test_gainOffset : ((tImageOf 1 1 [3]).slot tSlotCtx (.gainOffset 0x3F800000 0x3F800000 0x3F000000 0x3F000000)).bytes =
    leBytes 4 0x40600000 := by decide +kernel
end Sys2Proof.Tests
end

section
/-! Statements of scope: what every command leaves alone (R1, R2, R4), and the state after reset (R13). -/
namespace Sys2Proof.Proofs
open Sys2Proof.Machine Sys2Proof.Laws

/-! ### Every command, by its own frame lemma -/

/-- Every zone but the queue of waiting commands. -/
def allButQueue : Nat := 2 ^ 127 - 1 - 2 ^ partBit .pending

/-- No command of the table touches the queue or the device's constants, and each keeps the invariant; one arm per
command, as `exec` has it. The second fact in the context is what the frame lemmas compare their own zones with. -/
theorem exec_keeps_allButQueue (c : Instr) (s : State) : OnNext (Keeps allButQueue s) (exec c s) :=
  have h : Keeps allButQueue s s := .refl _ s
  have _ : Sub allButQueue allButQueue := ⟨Nat.or_self _⟩
  match c with
  | .dictionaryWrite .. => execDictionaryWrite_keeps h
  | .sectionLoad .. => execSectionLoad_keeps h
  | .epochStart => execEpochStart_keeps h
  | .loadLate => execLoadLate_keeps h
  | .runStartReached => execRunStartReached_keeps h
  | .fragmentLaunch .. => execFragmentLaunch_keeps h
  | .launchPrefetch .. => execLaunchPrefetch_keeps h
  | .stepDigest .. => execStepDigest_keeps h
  | .replayInject .. => execReplayInject_keeps h
  | .ringBegin => execRingBegin_keeps h
  | .ptpSync .. => execPtpSync_keeps h
  | .rcLocked => execRcLocked_keeps h
  | .syncTimeout => execSyncTimeout_keeps h
  | .holdoverExpired => execHoldoverExpired_keeps h
  | .clockOutlier => execClockOutlier_keeps h
  | .gmMismatch => execGmMismatch_keeps h
  | .ringLinkUp .. => execRingLinkUp_keeps h
  | .ringLinkDown .. => execRingLinkDown_keeps h
  | .standHello .. => execStandHello_keeps h
  | .formWindowEnd => execFormWindowEnd_keeps h
  | .standMaster .. => execStandMaster_keeps h
  | .standHeartbeat .. => execStandHeartbeat_keeps h
  | .masterMissed => execMasterMissed_keeps h
  | .barrierArrive .. => execBarrierArrive_keeps h
  | .barrierArm .. => execBarrierArm_keeps h
  | .barrierArmed .. => execBarrierArmed_keeps h
  | .standSyncEdge => execStandSyncEdge_keeps h
  | .barrierTimeout .. => execBarrierTimeout_keeps h
  | .barrierAbort .. => execBarrierAbort_keeps h
  | .decodeImage .. => execDecodeImage_keeps h
  | .decodeFrame .. => execDecodeFrame_keeps h
  | .encodeFits .. => execEncodeFits_keeps h
  | .streamOpen .. => execStreamOpen_keeps h
  | .streamSubmit .. => execStreamSubmit_keeps h
  | .streamClose .. => execStreamClose_keeps h
  | .decodeDescriptorHead .. => execDecodeDescriptorHead_keeps h
  | .decodeComplete .. => execDecodeComplete_keeps h
  | .videoPictureDone .. => execVideoPictureDone_keeps h
  | .islandSpeedSample .. => execIslandSpeedSample_keeps h
  | .frameData .. => execFrameData_keeps h
  | .frameEnd .. => execFrameEnd_keeps h
  | .frameTimeout .. => execFrameTimeout_keeps h
  | .frameStore .. => execFrameStore_keeps h
  | .settingsWrite .. => execSettingsWrite_keeps h
  | .settingsAck .. => execSettingsAck_keeps h
  | .settingsUnacked .. => execSettingsUnacked_keeps h
  | .fuseDecide .. => execFuseDecide_keeps h
  | .fuseOutcome .. => execFuseOutcome_keeps h
  | .tokenize .. => execTokenize_keeps h
  | .detokenize .. => execDetokenize_keeps h
  | .vocabLoad .. => execVocabLoad_keeps h
  | .grammarLoad .. => execGrammarLoad_keeps h
  | .grammarCheck .. => execGrammarCheck_keeps h
  | .rolloutOpen .. => execRolloutOpen_keeps h
  | .rolloutClose .. => execRolloutClose_keeps h
  | .tokenDescriptorHead .. => execTokenDescriptorHead_keeps h
  | .tokenComplete .. => execTokenComplete_keeps h
  | .rolloutChunk .. => execRolloutChunk_keeps h
  | .rolloutNotifyProcess .. => execRolloutNotifyProcess_keeps h
  | .rolloutTimeout .. => execRolloutTimeout_keeps h
  | .launch .. => execLaunch_keeps h
  | .kernelLoad .. => execKernelLoad_keeps h
  | .kernelUnload .. => execKernelUnload_keeps h
  | .modelLoad .. => execModelLoad_keeps h
  | .modelUnload .. => execModelUnload_keeps h
  | .computeDescriptorHead .. => execComputeDescriptorHead_keeps h
  | .workItemEnd .. => execWorkItemEnd_keeps h
  | .itemBudget .. => execItemBudget_keeps h
  | .engineLdSt .. => execEngineLdSt_keeps h
  | .engineMma .. => execEngineMma_keeps h
  | .engineAcc .. => execEngineAcc_keeps h
  | .engineCvt .. => execEngineCvt_keeps h
  | .engineValu .. => execEngineValu_keeps h
  | .engineVred .. => execEngineVred_keeps h
  | .engineVperm .. => execEngineVperm_keeps h
  | .engineSync .. => execEngineSync_keeps h
  | .dmaTransfer .. => execDmaTransfer_keeps h
  | .dmaComplete .. => execDmaComplete_keeps h
  | .gradeStart .. => execGradeStart_keeps h
  | .gradeAbort .. => execGradeAbort_keeps h
  | .gradeSignatures .. => execGradeSignatures_keeps h
  | .gradeDone => execGradeDone_keeps h
  | .prepareFragment => execPrepareFragment_keeps h
  | .fragmentReady .. => execFragmentReady_keeps h
  | .retentionEnd .. => execRetentionEnd_keeps h
  | .seasonClear .. => execSeasonClear_keeps h
  | .yardWrite .. => execYardWrite_keeps h
  | .wordlineProgramDone .. => execWordlineProgramDone_keeps h
  | .yardRead .. => execYardRead_keeps h
  | .nandReadDone .. => execNandReadDone_keeps h
  | .partnerRead .. => execPartnerRead_keeps h
  | .partnerReadReply .. => execPartnerReadReply_keeps h
  | .boltErase .. => execBoltErase_keeps h
  | .eraseDone .. => execEraseDone_keeps h
  | .fold => execFold_keeps h
  | .wearRelocate => execWearRelocate_keeps h
  | .partnerAppend .. => execPartnerAppend_keeps h
  | .partnerSeal .. => execPartnerSeal_keeps h
  | .sealAnswer .. => execSealAnswer_keeps h
  | .partnerWaitTimeout .. => execPartnerWaitTimeout_keeps h
  | .discard .. => execDiscard_keeps h
  | .cruiseRead .. => execCruiseRead_keeps h
  | .cruiseRateRecompute => execCruiseRateRecompute_keeps h
  | .refresh .. => execRefresh_keeps h
  | .lunFail .. => execLunFail_keeps h
  | .journalCommit .. => execJournalCommit_keeps h
  | .checkpoint => execCheckpoint_keeps h
  | .checkpointDone .. => execCheckpointDone_keeps h
  | .yardRecovery .. => execYardRecovery_keeps h
  | .format .. => execFormat_keeps h
  | .checkpointNow .. => execCheckpointNow_keeps h
  | .cruiseRestart .. => execCruiseRestart_keeps h
  | .alloc .. => execAlloc_keeps h
  | .extend .. => execExtend_keeps h
  | .pass .. => execPass_keeps h
  | .free .. => execFree_keeps h
  | .query .. => execQuery_keeps h
  | .waitGrant .. => execWaitGrant_keeps h
  | .blocksReturn .. => execBlocksReturn_keeps h
  | .memoryCorrected .. => execMemoryCorrected_keeps h
  | .memoryUncorrectable .. => execMemoryUncorrectable_keeps h
  | .arbiterCycle .. => execArbiterCycle_keeps h
  | .starveIntervalReached .. => execStarveIntervalReached_keeps h
  | .compress .. => execCompress_keeps h
  | .decompress .. => execDecompress_keeps h
  | .chipperDescriptorHead .. => execChipperDescriptorHead_keeps h
  | .chipperComplete .. => execChipperComplete_keeps h
  | .createIoSubmissionQueue .. => execCreateIoSubmissionQueue_keeps h
  | .deleteIoSubmissionQueue .. => execDeleteIoSubmissionQueue_keeps h
  | .createIoCompletionQueue .. => execCreateIoCompletionQueue_keeps h
  | .deleteIoCompletionQueue .. => execDeleteIoCompletionQueue_keeps h
  | .identify .. => execIdentify_keeps h
  | .getLogPage .. => execGetLogPage_keeps h
  | .setFeatures .. => execSetFeatures_keeps h
  | .getFeatures .. => execGetFeatures_keeps h
  | .abort .. => execAbort_keeps h
  | .asynchronousEventRequest .. => execAsynchronousEventRequest_keeps h
  | .namespaceManagement .. => execNamespaceManagement_keeps h
  | .namespaceAttachment .. => execNamespaceAttachment_keeps h
  | .formatNvm .. => execFormatNvm_keeps h
  | .firmwareImageDownload .. => execFirmwareImageDownload_keeps h
  | .firmwareCommit .. => execFirmwareCommit_keeps h
  | .deviceSelfTest .. => execDeviceSelfTest_keeps h
  | .nvmeFlush .. => execNvmeFlush_keeps h
  | .nvmeWrite .. => execNvmeWrite_keeps h
  | .nvmeRead .. => execNvmeRead_keeps h
  | .writeZeroes .. => execWriteZeroes_keeps h
  | .datasetManagement .. => execDatasetManagement_keeps h
  | .verify .. => execVerify_keeps h
  | .compare .. => execCompare_keeps h
  | .invalidCommandOpcode _ _ opcode => execInvalidCommandOpcode_keeps (_opcode := opcode) h
  | .sqTailDoorbell .. => execSqTailDoorbell_keeps h
  | .cqHeadDoorbell .. => execCqHeadDoorbell_keeps h
  | .commandDispatch .. => execCommandDispatch_keeps h
  | .controllerReset => execControllerReset_keeps h
  | .selftestResume => execSelftestResume_keeps h
  | .pshFirst .. => execPshFirst_keeps h
  | .pshPush .. => execPshPush_keeps h
  | .pshFlush .. => execPshFlush_keeps h
  | .pshStatusRead .. => execPshStatusRead_keeps h
  | .pshCqHead .. => execPshCqHead_keeps h
  | .shardOpen .. => execShardOpen_keeps h
  | .ingestNs .. => execIngestNs_keeps h
  | .shardSeal .. => execShardSeal_keeps h
  | .shardDelete .. => execShardDelete_keeps h
  | .contextMsg .. => execContextMsg_keeps h
  | .remoteIngest .. => execRemoteIngest_keeps h
  | .deviceSelfTestDone .. => execDeviceSelfTestDone_keeps h
  | .connOpen .. => execConnOpen_keeps h
  | .connClose .. => execConnClose_keeps h
  | .skdWriteRx .. => execSkdWriteRx_keeps h
  | .skdWriteImmRx .. => execSkdWriteImmRx_keeps h
  | .skdReadReqRx .. => execSkdReadReqRx_keeps h
  | .skdReadRespRx .. => execSkdReadRespRx_keeps h
  | .skdAckRx .. => execSkdAckRx_keeps h
  | .skdLookoutRx .. => execSkdLookoutRx_keeps h
  | .noticeFenced .. => execNoticeFenced_keeps h
  | .noticeNoConnection .. => execNoticeNoConnection_keeps h
  | .noticeLookout .. => execNoticeLookout_keeps h
  | .noticeIngestResult .. => execNoticeIngestResult_keeps h
  | .noticeMsgDiscarded .. => execNoticeMsgDiscarded_keeps h
  | .noticeReadError .. => execNoticeReadError_keeps h
  | .ackSend .. => execAckSend_keeps h
  | .packetLost .. => execPacketLost_keeps h
  | .retransmitTimeout .. => execRetransmitTimeout_keeps h
  | .quarantineEnd .. => execQuarantineEnd_keeps h
  | .rcPeriod => execRcPeriod_keeps h
  | .keyGraceEnd .. => execKeyGraceEnd_keeps h
  | .earlyRotation .. => execEarlyRotation_keeps h
  | .linkDown .. => execLinkDown_keeps h
  | .linkUp .. => execLinkUp_keeps h
  | .skdTxqTail .. => execSkdTxqTail_keeps h
  | .transferWrite .. => execTransferWrite_keeps h
  | .transferWriteImm .. => execTransferWriteImm_keeps h
  | .transferRead .. => execTransferRead_keeps h
  | .skdCqHead .. => execSkdCqHead_keeps h
  | .pauseFrameRx .. => execPauseFrameRx_keeps h
  | .rocev2AckNak .. => execRocev2AckNak_keeps h
  | .rocev2Cnp .. => execRocev2Cnp_keeps h
  | .fiReorderRelease .. => execFiReorderRelease_keeps h
  | .egressSelect .. => execEgressSelect_keeps h
  | .subConfigure .. => execSubConfigure_keeps h
  | .subRelease .. => execSubRelease_keeps h
  | .lkHeartbeat _ _ lkState lockstepOk _ _ _ => execLkHeartbeat_keeps (_lkState := lkState) (_lockstepOk := lockstepOk) h
  | .heartbeatWindow => execHeartbeatWindow_keeps h
  | .lkSuspect .. => execLkSuspect_keeps h
  | .lkAbort .. => execLkAbort_keeps h
  | .lkProbe .. => execLkProbe_keeps h
  | .lkProbeReply _ _ _ term => execLkProbeReply_keeps (_term := term) h
  | .probeTimeout .. => execProbeTimeout_keeps h
  | .lkVote .. => execLkVote_keeps h
  | .voteFallback .. => execVoteFallback_keeps h
  | .decisionAlive .. => execDecisionAlive_keeps h
  | .decisionDead .. => execDecisionDead_keeps h
  | .decisionAdmit .. => execDecisionAdmit_keeps h
  | .decisionCoppiceStart .. => execDecisionCoppiceStart_keeps h
  | .decisionSlotReady .. => execDecisionSlotReady_keeps h
  | .decisionCoOpt .. => execDecisionCoOpt_keeps h
  | .decisionEpochShift .. => execDecisionEpochShift_keeps h
  | .decisionDomainHold .. => execDecisionDomainHold_keeps h
  | .decisionResume .. => execDecisionResume_keeps h
  | .decisionOrphaned .. => execDecisionOrphaned_keeps h
  | .decisionDemote .. => execDecisionDemote_keeps h
  | .decisionScores .. => execDecisionScores_keeps h
  | .declareVoid .. => execDeclareVoid_keeps h
  | .declareAbsent .. => execDeclareAbsent_keeps h
  | .declareResume .. => execDeclareResume_keeps h
  | .declareLoadLate .. => execDeclareLoadLate_keeps h
  | .declareIsolated .. => execDeclareIsolated_keeps h
  | .declareCoppiceDone .. => execDeclareCoppiceDone_keeps h
  | .declareReingested .. => execDeclareReingested_keeps h
  | .declareVerifyDone .. => execDeclareVerifyDone_keeps h
  | .declareHoldMembership .. => execDeclareHoldMembership_keeps h
  | .lkJoin .. => execLkJoin_keeps h
  | .joinSend .. => execJoinSend_keeps h
  | .lkLate .. => execLkLate_keeps h
  | .latenessTally .. => execLatenessTally_keeps h
  | .scoreDecay => execScoreDecay_keeps h
  | .lkStatusQuery .. => execLkStatusQuery_keeps h
  | .lkStatusReply .. => execLkStatusReply_keeps h
  | .lkSnapshot .. => execLkSnapshot_keeps h
  | .lkFenced hdr _ _ => execLkFenced_keeps (_hdr := hdr) h
  | .decisionMissing .. => execDecisionMissing_keeps h
  | .lockstepFault => execLockstepFault_keeps h
  | .deliveryFault .. => execDeliveryFault_keeps h
  | .coppiceShardCopy => execCoppiceShardCopy_keeps h
  | .spareVerify .. => execSpareVerify_keeps h
  | .councilReseed .. => execCouncilReseed_keeps h
  | .define .. => execDefine_keeps h
  | .destroy .. => execDestroy_keeps h
  | .context0Program .. => execContext0Program_keeps h
  | .contextSwitch .. => execContextSwitch_keeps h
  | .secureBoot => execSecureBoot_keeps h
  | .advanceSvn .. => execAdvanceSvn_keeps h
  | .attestRequest .. => execAttestRequest_keeps h
  | .operatorKeysWrite .. => execOperatorKeysWrite_keeps h
  | .sessionHello .. => execSessionHello_keeps h
  | .sessionProof .. => execSessionProof_keeps h
  | .sessionClose .. => execSessionClose_keeps h
  | .challengeTimeout .. => execChallengeTimeout_keeps h
  | .sessionIdleTimeout .. => execSessionIdleTimeout_keeps h
  | .sessionLifeTimeout .. => execSessionLifeTimeout_keeps h
  | .testEnAssert .. => execTestEnAssert_keeps h
  | .testEnDeassert .. => execTestEnDeassert_keeps h
  | .pllLossOfLock => execPllLossOfLock_keeps h
  | .pllRelockAttempt => execPllRelockAttempt_keeps h
  | .pllRelock => execPllRelock_keeps h
  | .pllFailed => execPllFailed_keeps h
  | .sscApply => execSscApply_keeps h
  | .fineGateClose .. => execFineGateClose_keeps h
  | .clusterGateWrite .. => execClusterGateWrite_keeps h
  | .portGateWrite .. => execPortGateWrite_keeps h
  | .railMeasure .. => execRailMeasure_keeps h
  | .capControl => execCapControl_keeps h
  | .powerWindowEnd => execPowerWindowEnd_keeps h
  | .thermalChange .. => execThermalChange_keeps h
  | .thermalTrip .. => execThermalTrip_keeps h
  | .hardwareTrip => execHardwareTrip_keeps h
  | .coolingHoldEnd => execCoolingHoldEnd_keeps h
  | .powerOn .. => execPowerOn_keeps h
  | .perstAssert .. => execPerstAssert_keeps h
  | .perstDeassert .. => execPerstDeassert_keeps h
  | .resetCmdDevice .. => execResetCmdDevice_keeps h
  | .resetCmdDeviceForce .. => execResetCmdDeviceForce_keeps h
  | .watchdogExpiry => execWatchdogExpiry_keeps h
  | .functionLevelReset => execFunctionLevelReset_keeps h
  | .pwrFailAssert .. => execPwrFailAssert_keeps h
  | .pwrFailDeassert => execPwrFailDeassert_keeps h
  | .tallyRead .. => execTallyRead_keeps h
  | .tallyMeta .. => execTallyMeta_keeps h
  | .blobBegin .. => execBlobBegin_keeps h
  | .blobData .. => execBlobData_keeps h
  | .blobEnd .. => execBlobEnd_keeps h
  | .blobAbort .. => execBlobAbort_keeps h
  | .blobTransferTimeout .. => execBlobTransferTimeout_keeps h
  | .subscribe .. => execSubscribe_keeps h
  | .eventAck .. => execEventAck_keeps h
  | .eventSend .. => execEventSend_keeps h
  | .eventResend .. => execEventResend_keeps h
  | .mboxGo .. => execMboxGo_keeps h
  | .smbSelect .. => execSmbSelect_keeps h
  | .smbRead .. => execSmbRead_keeps h
  | .smbStatus .. => execSmbStatus_keeps h
  | .smbAlertResponse .. => execSmbAlertResponse_keeps h
  | .smbAlertClear .. => execSmbAlertClear_keeps h
  | .logWindowClose .. => execLogWindowClose_keeps h
  | .logMirrorWrite => execLogMirrorWrite_keeps h
  | .logAckedWrite .. => execLogAckedWrite_keeps h
  | .persistCommit .. => execPersistCommit_keeps h
  | .heartwoodUpdate => execHeartwoodUpdate_keeps h
  | .mgmtLinkChange .. => execMgmtLinkChange_keeps h
  | .ptpAnnounce .. => execPtpAnnounce_keeps h

/-- Settles O8, from the frame lemma of each command. -/
theorem commandsLeaveTheQueueAndTheDevice : Obligations.CommandsLeaveTheQueueAndTheDevice := by
  intro c s t ht
  have h : Keeps allButQueue s t := exec_keeps_allButQueue c s t ht
  exact ⟨h.part .pending (by decide +kernel), h.dev⟩

/-! ### The state after reset (R13, R78, R492) -/

/-- An entry that reset does not set holds its default. -/
theorem num_reset {k : Nat}
    (h : k ∉ [Reg.start.lastReset, Reg.attest.measSeq, Reg.attest.logEntries, Reg.seed.seedCheck]) :
    State.reset.num k = odDflt State.reset.dev.variant k := by
  simp only [List.mem_cons, List.not_mem_nil, or_false, not_or] at h
  obtain ⟨h₁, h₂, h₃, h₄⟩ := h
  simp only [State.num, State.reset, Sparse.get, Ne.symm h₁, Ne.symm h₂, Ne.symm h₃, Ne.symm h₄, if_false]

/-- Reset lists no pool: each is an untouched one of its blocks. -/
theorem pool_reset (p : Nat) : State.reset.pool p = Pool.ofBlocks (State.reset.dev.variant.poolBlocks p) := rfl

/-- Context 0 alone is listed after reset (R492). -/
theorem ctx_reset (c : Nat) : State.reset.ctx c = if c = 0 then Ctx.zero else Ctx.undefined := by
  by_cases h : c = 0
  · rw [h]; rfl
  · have h0 : ((0 : Nat) == c) = false := by simpa using Ne.symm h
    simp only [State.ctx, State.reset, Security.reset, List.find?_cons, h0, List.find?_nil, h, if_false, Option.map_none,
      Option.getD_none]

/-- Settles O3: the entries by `num_reset`, the pools by `pool_reset`, the contexts by `ctx_reset`; all else stands in
`State.reset` as the statement has it. -/
theorem resetState : Obligations.ResetState := by
  have hpool (p : Nat) : (State.reset.pool p).bufs = [] := by rw [pool_reset]; rfl
  have hbyte (p k : Nat) : State.reset.byteAt p k = 0 := by rw [State.byteAt, pool_reset]; rfl
  have hctx (c : Nat) (h : c ≠ 0) : (State.reset.ctx c).state = .undefined := by rw [ctx_reset, if_neg h]; rfl
  have hctx0 : (State.reset.ctx 0).state = .defined := by rw [ctx_reset, if_pos rfl]; rfl
  exact ⟨fun _ => num_reset, fun _ => rfl, fun _ => rfl, rfl, rfl, rfl, rfl, rfl, rfl, rfl, rfl, rfl, rfl, rfl, hpool, hbyte,
    rfl, hctx, hctx0, rfl, rfl, rfl, rfl⟩

end Sys2Proof.Proofs
end

section
/-! Keys of no object. The frames speak of every key of the dictionary, `Keeps` of the keys that some object has; what an
operation leaves of the keys that no object has stands here, as one equation per operation. -/
namespace Sys2Proof.Proofs
open Sys2Proof.Machine Sys2Proof.Laws
set_option Elab.async false

/-! ### What the register files list for keys of no object -/

/-- Some object of the dictionary has key `k`, or it is below the first index. -/
def inObject (k : Nat) : Bool :=
  decide (k < 0x100000) || allBlocks.any fun b => decide (b.range.1 ≤ k / 256) && decide (k / 256 ≤ b.range.2)

/-- What a register file lists for keys that no object has. -/
def strayOf {α : Type} (l : List (Nat × α)) : List (Nat × α) := l.filter fun p => !inObject p.1

/-- The same of the dictionary's numbers and byte strings. -/
def strays (od : OdFile) : List (Nat × Nat) × List (Nat × Bytes) := (strayOf od.nums, strayOf od.blobs)

theorem inObject_iff {k : Nat} (hk : 0x100000 ≤ k) : inObject k = true ↔ ∃ b : Block, b.has k := by
  have hlow : ¬ k < 0x100000 := by omega
  simp only [inObject, hlow, decide_false, Bool.false_or, List.any_eq_true, Bool.and_eq_true, decide_eq_true_eq, Block.has]
  exact ⟨fun ⟨b, _, h⟩ => ⟨b, h⟩, fun ⟨b, h⟩ => ⟨b, mem_allBlocks b, h⟩⟩

/-- One object has all the indices from `lo` to `hi`. -/
def spannedBy (lo hi : Nat) : Bool := allBlocks.any fun b => decide (b.range.1 ≤ lo) && decide (hi ≤ b.range.2)

theorem inObject_of_spanned {k lo hi : Nat} (h : spannedBy lo hi = true) (hlo : lo ≤ k / 256) (hhi : k / 256 ≤ hi) :
    inObject k = true := by
  simp only [spannedBy, List.any_eq_true, Bool.and_eq_true, decide_eq_true_eq] at h
  obtain ⟨b, hb, h₁, h₂⟩ := h
  simp only [inObject, Bool.or_eq_true, List.any_eq_true, Bool.and_eq_true, decide_eq_true_eq]
  exact Or.inr ⟨b, hb, by omega, by omega⟩

/-- The entry of one unit of a family has an object where the family's indices have one. -/
theorem inObject_unitKey {count base i : Nat} (h : spannedBy (base / 256) (base / 256 + (count - 1)) = true) :
    inObject (unitKey count base i) = true := by
  unfold unitKey
  split
  · exact inObject_of_spanned h (by omega) (by omega)
  · decide

theorem strayOf_erase {α : Type} (l : List (Nat × α)) {k : Nat} (hk : inObject k = true) :
    strayOf (Sparse.erase l k) = strayOf l := by
  induction l with
  | nil => rfl
  | cons p l ih =>
    obtain ⟨j, w⟩ := p
    simp only [strayOf] at ih ⊢
    by_cases h : j = k
    · subst h
      simp [Sparse.erase, hk, ih]
    · simp [Sparse.erase, h, List.filter_cons, ih]

theorem strayOf_insert {α : Type} (l : List (Nat × α)) {k : Nat} (v : α) (hk : inObject k = true) :
    strayOf (Sparse.insert l k v) = strayOf l := by
  induction l with
  | nil => simp [Sparse.insert, strayOf, hk]
  | cons p l ih =>
    obtain ⟨j, w⟩ := p
    simp only [strayOf] at ih ⊢
    by_cases hlt : k < j
    · simp [Sparse.insert, hlt, hk]
    · by_cases h : j = k
      · subst h
        simp [Sparse.insert, hk]
      · simp [Sparse.insert, hlt, h, List.filter_cons, ih]

/-- A write of an object's entry lists nothing for a key of no object. -/
theorem strayOf_set {α : Type} [DecidableEq α] (d : Nat → α) (l : List (Nat × α)) {k : Nat} (v : α) (hk : inObject k = true) :
    strayOf (Sparse.set d l k v) = strayOf l := by
  unfold Sparse.set
  split
  · exact strayOf_erase l hk
  · exact strayOf_insert l v hk

/-- What a key of no object reads as follows from what is listed for such keys. -/
theorem get_strayOf {α : Type} (d : Nat → α) (l : List (Nat × α)) {k : Nat} (hk : inObject k = false) :
    Sparse.get d (strayOf l) k = Sparse.get d l k := by
  induction l with
  | nil => rfl
  | cons p l ih =>
    obtain ⟨j, w⟩ := p
    simp only [strayOf] at ih ⊢
    by_cases h : j = k
    · subst h
      simp [Sparse.get, hk]
    · by_cases hj : inObject j = true <;> simp [Sparse.get, h, hj, ih]

/-! ### The zones that a footprint names -/

/-- The zones of a footprint, as the bits of a mask. -/
def footMask (f : Foot) : Nat := (f.parts.map partBit ++ f.blocks.map blockBit).foldr (fun n m => 2 ^ n ||| m) 0

theorem testBit_foldr_two_pow (l : List Nat) (i : Nat) :
    (l.foldr (fun n m => 2 ^ n ||| m) 0).testBit i = true ↔ i ∈ l := by
  induction l with
  | nil => simp
  | cons n l ih =>
    simp only [List.foldr_cons, Nat.testBit_or, Nat.testBit_two_pow, Bool.or_eq_true, decide_eq_true_eq, ih, List.mem_cons]
    exact or_congr eq_comm Iff.rfl

theorem partBit_eq (p : Part) : partBit p = if p = .bytes then 126 else p.ctorIdx := by cases p <;> rfl

theorem partBit_injective : Function.Injective partBit := by
  have hlt (p : Part) : p.ctorIdx < 126 := by cases p <;> decide
  intro p q h
  have hp := hlt p
  have hq := hlt q
  rw [partBit_eq, partBit_eq] at h
  split at h <;> split at h
  · next hp hq => rw [hp, hq]
  · omega
  · omega
  · exact Function.LeftInverse.injective Part.ofNat_ctorIdx h

theorem blockBit_injective : Function.Injective blockBit := fun _ _ h =>
  Function.LeftInverse.injective Block.ofNat_ctorIdx (Nat.add_left_cancel h)

theorem partBit_ne_blockBit (p : Part) (b : Block) : partBit p ≠ blockBit b := by
  have hp : partBit p < 25 ∨ partBit p = 126 := by cases p <;> decide
  have hb : 25 ≤ blockBit b ∧ blockBit b < 126 :=
    (by decide : ∀ b ∈ allBlocks, 25 ≤ blockBit b ∧ blockBit b < 126) b (mem_allBlocks b)
  omega

theorem testBit_footMask_part {f : Foot} {p : Part} (h : p ∉ f.parts) : (footMask f).testBit (partBit p) = false := by
  rw [Bool.eq_false_iff, ne_eq, footMask, testBit_foldr_two_pow, List.mem_append, List.mem_map, List.mem_map]
  rintro (⟨q, hq, e⟩ | ⟨b, _, e⟩)
  · exact h (partBit_injective e ▸ hq)
  · exact partBit_ne_blockBit p b e.symm

theorem testBit_footMask_block {f : Foot} {b : Block} (h : b ∉ f.blocks) : (footMask f).testBit (blockBit b) = false := by
  rw [Bool.eq_false_iff, ne_eq, footMask, testBit_foldr_two_pow, List.mem_append, List.mem_map, List.mem_map]
  rintro (⟨p, _, e⟩ | ⟨q, hq, e⟩)
  · exact partBit_ne_blockBit p b e
  · exact h (blockBit_injective e ▸ hq)

/-- A footprint is kept to where its zones are, and no key outside the objects is written. -/
theorem spares_of_keeps {f : Foot} {s t : State} (h : Keeps (footMask f) s t) (hs : strays t.od = strays s.od) :
    Spares f s t := by
  refine ⟨fun p hp => h.part p (testBit_footMask_part hp), fun k hk hb => ?_⟩
  by_cases hin : inObject k = true
  · obtain ⟨b, hbk⟩ := (inObject_iff hk).mp hin
    exact h.entry b (testBit_footMask_block fun hm => hb b hm hbk) k hk hbk
  · have hin : inObject k = false := by simpa using hin
    obtain ⟨hn, hbl⟩ := Prod.mk.inj hs
    constructor
    · rw [State.num, ← get_strayOf _ _ hin, hn, get_strayOf _ _ hin, h.dev, State.num]
    · rw [State.blob, ← get_strayOf _ _ hin, hbl, get_strayOf _ _ hin, h.dev, State.blob]

/-! ### The dictionary's updates, what is sent and the log -/

@[simp] theorem strays_touch (s : State) (k : Nat) : strays (s.touch k).od = strays s.od := rfl

@[simp] theorem strays_setN (s : State) (k v : Nat) (hk : inObject k = true) : strays (s.setN k v).od = strays s.od := by
  unfold State.setN strays
  split <;> simp [strayOf_set _ _ _ hk, State.touch]

@[simp] theorem strays_setB (s : State) (k : Nat) (v : Bytes) (hk : inObject k = true) :
    strays (s.setB k v).od = strays s.od := by
  unfold State.setB strays
  split <;> simp [strayOf_set _ _ _ hk, State.touch]

@[simp] theorem strays_add (s : State) (k n : Nat) (hk : inObject k = true) : strays (s.add k n).od = strays s.od :=
  strays_setN _ _ _ hk

@[simp] theorem strays_bump (s : State) (k : Nat) (hk : inObject k = true) : strays (s.bump k).od = strays s.od :=
  strays_setN _ _ _ hk

/-- A choice of states that agree on the keys of no object. -/
@[simp] theorem strays_ite (c : Prop) {_ : Decidable c} (s t : State) :
    strays (if c then s else t).od = if c then strays s.od else strays t.od := by split <;> rfl

@[simp] theorem strays_bumpIf (s : State) (b : Bool) (k : Nat) (hk : inObject k = true) :
    strays (s.bumpIf b k).od = strays s.od := by simp [State.bumpIf, hk]

/-- A fold of steps that list nothing new for such keys. -/
theorem strays_foldl {α : Type} {f : State → α → State} (h : ∀ t a, strays (f t a).od = strays t.od) (l : List α) (s : State) :
    strays (l.foldl f s).od = strays s.od := by
  induction l generalizing s with
  | nil => rfl
  | cons a l ih => exact (ih (f s a)).trans (h s a)

@[simp] theorem strays_emit (s : State) (o : Out) : strays (s.emit o).od = strays s.od := rfl
@[simp] theorem strays_ends (s : State) (c : Nat) : strays (s.ends c).od = strays s.od := rfl
@[simp] theorem strays_drawn (s : State) : strays s.drawn.od = strays s.od := rfl

@[simp] theorem strays_alert (s : State) (bit : Nat) : strays (s.alert bit).od = strays s.od :=
  strays_setN _ _ _ (by decide +kernel)

@[simp] theorem strays_journal (s : State) (a b : Nat) (r : Bool) (p : Bytes) : strays (s.journal a b r p).od = strays s.od := by
  unfold State.journal
  split
  · rfl
  · dsimp only
    split <;> simp (disch := decide +kernel)

@[simp] theorem strays_addEntry (s : State) (e : LogEntry) : strays (s.addEntry e).od = strays s.od := by
  simp [State.addEntry]

@[simp] theorem strays_coalesce (s : State) (a c : Nat) (d : Bytes) (b : Bool) : strays (s.coalesce a c d b).od = strays s.od := by
  simp (disch := decide +kernel) [State.coalesce]

@[simp] theorem strays_storm (s : State) (a c : Nat) (d : Bytes) : strays (s.storm a c d).od = strays s.od := by
  simp (disch := decide +kernel) [State.storm]

@[simp] theorem strays_logOccurrence (s : State) (a c : Nat) (e : Bool) (x : Nat) (d : Bytes) :
    strays (s.logOccurrence a c e x d).od = strays s.od := by
  unfold State.logOccurrence
  dsimp only
  split <;> simp

@[simp] theorem strays_raise (s : State) (c i x : Nat) (d : Bytes) : strays (s.raise c i x d).od = strays s.od := by
  simp [State.raise]

@[simp] theorem strays_refuse (s : State) (c i x : Nat) : strays (s.refuse c i x).od = strays s.od := by
  simp [State.refuse]

end Sys2Proof.Proofs
end

section
/-! Requests that the device serves: what they leave of the keys of no object, and how one that fails is answered. -/
namespace Sys2Proof.Proofs
open Sys2Proof.Machine Sys2Proof.Laws
set_option Elab.async false

/-! ### Requests: the keys of no object, and the answer to a refused one -/

@[simp] theorem strays_putSession (s : State) (x : Session) : strays (s.putSession x).od = strays s.od := rfl

@[simp] theorem strays_mboxDone (s : State) (b : Bytes) : strays (s.mboxDone b).od = strays s.od := by
  unfold State.mboxDone
  dsimp only
  split <;> rfl

@[simp] theorem strays_answer (s : State) (h : TallyHdr) (b : Bool) (l : Bytes) : strays (s.answer h b l).od = strays s.od := by
  simp [State.answer, State.reply]

@[simp] theorem strays_served (s : State) (h : TallyHdr) (x : Session) : strays (s.served h x).od = strays s.od := by
  simp (disch := decide +kernel) [State.served]

/-- What is left once a served request has run: its answer is kept, and sent or held for its store. -/
def delivered (h : TallyHdr) (r : State × Bytes × Option Nat) : State :=
  let t := keptFor r.1 h r.2.1
  match r.2.2 with
  | some k =>
    if t.answerWaits k then
      { t with mgmt := { t.mgmt with heldAnswers := t.mgmt.heldAnswers ++
          [⟨k, h.path, h.addr, h.port, h.session, h.reqId, h.counter, t.status⟩] } }
    else t.answer h true r.2.1
  | none => t.answer h true r.2.1

theorem strays_keptFor (s : State) (h : TallyHdr) (b : Bytes) : strays (keptFor s h b).od = strays s.od := by
  unfold keptFor
  split <;> rfl

theorem strays_delivered (h : TallyHdr) (r : State × Bytes × Option Nat) : strays (delivered h r).od = strays r.1.od := by
  unfold delivered
  dsimp only
  split
  · simp [strays_keptFor]
  · simp [strays_keptFor]

/-- A request lists nothing for keys of no object where what it runs lists nothing. -/
theorem strays_request {s : State} {h : TallyHdr} {o : Bool} {run : Who → State → State × Bytes × Option Nat}
    (h₀ : o = true → strays (run .noSession (s.bump Reg.tally.tallyRequests)).1.od = strays s.od)
    (h₁ : ∀ x, s.session? h.session = some x → strays (run (.session h.session) (s.served h x)).1.od = strays s.od) :
    strays (s.request h o run).od = strays s.od := by
  unfold State.request
  split
  · simp (disch := decide +kernel)
  split
  · rfl
  split
  · split
    · next ho => simp [h₀ ho]
    · simp
  split
  · simp
  next x hx =>
  split
  · simp
  split
  · simp (disch := decide +kernel)
  split
  · simp (disch := decide +kernel)
  refine (strays_ite _ _ _).trans ?_
  refine (ite_congr rfl (fun _ => ?_) fun _ => ?_).trans (ite_self _)
  · simp (disch := decide +kernel)
  · exact (strays_delivered h (run (.session h.session) (s.served h x))).trans (h₁ x hx)

/-- A request that the device serves runs in the state that has accepted it. -/
theorem request_takes {s : State} {h : TallyHdr} {x : Session} {o : Bool}
    {run : Who → State → State × Bytes × Option Nat} (ht : s.takes h x) :
    s.request h o run = delivered h (run (.session h.session) (s.served h x)) := by
  obtain ⟨hwell, hsize, hboot, hsess, hx, hsec, htag, hctr, hreq⟩ := ht
  have hdrop : (!h.wellFormed || (h.path != 3 && decide (h.size > s.num Reg.mgmt.tallyMaxMsg))) = false := by
    rcases hsize with hsize | hsize <;> simp [hwell, hsize]
  have hnew : (x.kept.find? fun k => k.reqId == h.reqId) = none := by
    simp only [List.find?_eq_none, beq_iff_eq]
    intro k hk
    have := hreq k hk
    omega
  have hlate : (match x.kept with | [] => false | k :: _ => decide (h.reqId < k.reqId)) = false := by
    split
    · rfl
    · next k l hk =>
      have := hreq k (by simp [hk])
      simpa using this.le
  unfold State.request
  simp only [hdrop, Bool.false_eq_true, if_false, hboot, hsess, hx, hsec, htag, Bool.not_true, Bool.or_self, Nat.not_le.mpr hctr,
    hnew]
  exact if_neg (Bool.eq_false_iff.mp hlate)

/-- A served request that ends with an error is answered at once. -/
theorem delivered_failed {h : TallyHdr} {r : State × Bytes × Option Nat} (hc : isOk r.1.status = false) :
    delivered h r = (keptFor r.1 h r.2.1).answer h true r.2.1 := by
  unfold delivered
  dsimp only
  split
  · rw [State.answerWaits, keptFor_status, hc]
    rfl
  · rfl

end Sys2Proof.Proofs
end

section
/-! What each operation that the schedule, the ring count and the stand use leaves of the keys of no object: the operations
in the order in which they are built on one another. -/
namespace Sys2Proof.Proofs
open Sys2Proof.Machine Sys2Proof.Laws
set_option Elab.async false

/-! ### Writes and answers -/

@[simp] theorem strays_markPersist (s : State) (idx k : Nat) : strays (s.markPersist idx k).od = strays s.od := by
  simp [State.markPersist]

@[simp] theorem strays_journalWrite (s : State) (idx sub : Nat) (v : Bytes) :
    strays (s.journalWrite idx sub v).od = strays s.od := by
  simp [State.journalWrite]

@[simp] theorem strays_accept (s : State) (r : OdRow) (idx sub : Nat) :
    strays (s.accept r idx sub).od = strays s.od := by
  simp [State.accept]

@[simp] theorem strays_refusedWrite (s : State) (idx sub c : Nat) :
    strays (s.refusedWrite idx sub c).od = strays s.od := by
  simp (disch := decide +kernel) [State.refusedWrite]

@[simp] theorem strays_reply (s : State) (path addr port session reqId counter status : Nat) (secure : Bool)
    (body : Bytes) :
    strays (s.reply path addr port session reqId counter status secure body).od = strays s.od := by
  simp [State.reply]

/-! ### Buffers -/

/-- The same of the entry of one unit of a family. -/
theorem strays_setN_unit (s : State) (count base i v : Nat)
    (h : spannedBy (base / 256) (base / 256 + (count - 1)) = true) :
    strays (s.setN (unitKey count base i) v).od = strays s.od := strays_setN _ _ _ (inObject_unitKey h)

@[simp] theorem strays_putPool (s : State) (p : Nat) (q : Pool) : strays (s.putPool p q).od = strays s.od := by
  simp (disch := decide +kernel) [State.putPool, Reg.pool.blocks, Reg.pool.free, Reg.pool.freeLow, Reg.pool.waiters,
    Reg.pool.blocksRetired, Reg.pool.scrubPending, strays_setN_unit]

@[simp] theorem strays_poolAnswer (s : State) (r : Requester) (code handle blocks owner ctx : Nat) :
    strays (s.poolAnswer r code handle blocks owner ctx).od = strays s.od := by
  simp [State.poolAnswer]

@[simp] theorem strays_poolRefuse (s : State) (r : Requester) (pool code : Nat) (detail : Bytes) :
    strays (s.poolRefuse r pool code detail).od = strays s.od := by
  unfold State.poolRefuse
  dsimp only
  split <;> simp (disch := decide +kernel) [State.bump, State.add, Reg.pool.noBuffer, Reg.pool.notLastOwner,
    Reg.pool.doubleFrees, strays_setN_unit]

@[simp] theorem strays_releaseBuf (s : State) (p : Nat) (b : Buf) : strays (s.releaseBuf p b).od = strays s.od :=
  (strays_foldl (fun _ _ => strays_poolRefuse ..) _ _).trans (strays_putPool ..)

@[simp] theorem strays_unitFree (s : State) (h : Nat) : strays (s.unitFree h).od = strays s.od := by
  unfold State.unitFree
  split <;> simp

@[simp] theorem strays_unitPass (s : State) (h owner : Nat) : strays (s.unitPass h owner).od = strays s.od := by
  unfold State.unitPass
  split <;> simp

/-! ### Power and start-up steps -/

@[simp] theorem strays_putPwr (s : State) (p : Power) : strays (s.putPwr p).od = strays s.od := by simp [State.putPwr]

@[simp] theorem strays_coolingRegs (s : State) : strays s.coolingRegs.od = strays s.od := by
  simp (disch := decide +kernel) [State.coolingRegs]

@[simp] theorem strays_startStep (s : State) (v : Nat) : strays (s.startStep v).od = strays s.od := by
  simp (disch := decide +kernel) [State.startStep]

/-! ### The deck -/

@[simp] theorem strays_putDeck (s : State) (d : Deck) : strays (s.putDeck d).od = strays s.od := rfl

@[simp] theorem strays_putEntry (s : State) (e : DeckEntry) : strays (s.putEntry e).od = strays s.od := rfl

@[simp] theorem strays_deckRegs (s : State) : strays s.deckRegs.od = strays s.od := by
  simp (disch := decide +kernel) [State.deckRegs]

@[simp] theorem strays_freeEntry (s : State) (e : DeckEntry) : strays (s.freeEntry e).od = strays s.od := by
  simp [State.freeEntry]

@[simp] theorem strays_deckAlarm (s : State) (c : Nat) (level : Option Int) :
    strays (s.deckAlarm c level).od = strays s.od := by
  simp (disch := decide +kernel) only [State.deckAlarm, strays_ite, strays_raise, strays_bump, strays_coolingRegs,
    strays_putPwr, strays_putDeck, ite_self]

@[simp] theorem strays_deckRing (s : State) : strays s.deckRing.od = strays s.od := by
  have hfold (l : List (Nat × Option Int)) (t : State) :
      strays (l.foldl (fun s p => s.deckAlarm p.1 p.2) t).od = strays t.od :=
    strays_foldl (fun _ _ => strays_deckAlarm ..) l t
  simp (disch := decide +kernel) [State.deckRing, hfold]

/-! ### Barriers of the stand -/

@[simp] theorem strays_putStand (s : State) (x : Stand) : strays (s.putStand x).od = strays s.od := rfl

@[simp] theorem strays_standRegs (s : State) : strays s.standRegs.od = strays s.od := by
  simp (disch := decide +kernel) [State.standRegs]

@[simp] theorem strays_tryPulse (s : State) (n : Nat) : strays (s.tryPulse n).od = strays s.od := by
  unfold State.tryPulse
  split <;> simp

@[simp] theorem strays_tryArm (s : State) (n : Nat) : strays (s.tryArm n).od = strays s.od := by
  unfold State.tryArm
  split <;> simp

@[simp] theorem strays_masterArrive (s : State) (m n : Nat) : strays (s.masterArrive m n).od = strays s.od := by
  simp [State.masterArrive]

@[simp] theorem strays_sendArrive (s : State) (n : Nat) : strays (s.sendArrive n).od = strays s.od := by
  simp [State.sendArrive]

@[simp] theorem strays_takeAborted (s : State) (n : Nat) : strays (s.takeAborted n).2.od = strays s.od := by
  simp (disch := decide +kernel) [State.takeAborted]

theorem strays_takeArmed {s t : State} {n : Nat} {l : List BarrierWork} (h : s.takeArmed = some (n, l, t)) :
    strays t.od = strays s.od := by
  unfold State.takeArmed at h
  split at h
  · cases h
  · split at h
    · cases h; simp
    · cases h

@[simp] theorem strays_rearrive (s : State) :
    strays s.rearrive.od = strays s.od := strays_foldl (fun _ _ => strays_sendArrive ..) _ _

@[simp] theorem strays_acceptMaster (s : State) (m term : Nat) : strays (s.acceptMaster m term).od = strays s.od := by
  simp [State.acceptMaster]

@[simp] theorem strays_announce (s : State) : strays s.announce.od = strays s.od := by simp [State.announce]

/-! ### Live intake -/

@[simp] theorem strays_putLive (s : State) (x : LiveStream) : strays (s.putLive x).od = strays s.od := rfl

@[simp] theorem strays_toStore (s : State) (x : StoreItem) : strays (s.toStore x).od = strays s.od := by
  simp [State.toStore]

@[simp] theorem strays_putGroup (s : State) (x : FuseGroup) : strays (s.putGroup x).od = strays s.od := rfl

@[simp] theorem strays_storeFused (s : State) (g : Nat) (f : FusedFrame) (layers : List Decided)
    (aborted : Bool) (barrier ring grain : Nat) :
    strays (s.storeFused g f layers aborted barrier ring grain).od = strays s.od := by
  simp [State.storeFused]

@[simp] theorem strays_standRelease (s : State) : strays s.standRelease.od = strays s.od := by
  unfold State.standRelease
  split
  · rfl
  next n work t ht =>
  refine (strays_foldl (fun u w => ?_) _ _).trans ((strays_emit _ _).trans (strays_takeArmed ht))
  split
  · split <;> simp
  · rfl

@[simp] theorem strays_standAborted (s : State) (n status : Nat) :
    strays (s.standAborted n status).od = strays s.od := by
  refine (strays_foldl (fun u w => ?_) _ _).trans (strays_takeAborted s n)
  dsimp only
  split
  · split <;> simp
  · rfl

@[simp] theorem strays_settingsResend (s : State) : strays s.settingsResend.od = strays s.od := by
  unfold State.settingsResend
  split
  · rfl
  · refine strays_foldl (fun t x => strays_foldl (fun u g => ?_) _ _) _ _
    split <;> simp

/-! ### The heartwood record and the calendar -/

@[simp] theorem strays_heartUpdate (s : State) : strays s.heartUpdate.od = strays s.od := by
  simp (disch := decide +kernel) [State.heartUpdate]

@[simp] theorem strays_calendarNote (s : State) : strays s.calendarNote.od = strays s.od := by
  unfold State.calendarNote
  dsimp only
  split <;> simp (disch := decide +kernel)

@[simp] theorem strays_calendarLock (s : State) : strays s.calendarLock.od = strays s.od := by
  simp [State.calendarLock]

@[simp] theorem strays_calendarLeave (s : State) : strays s.calendarLeave.od = strays s.od := by
  simp [State.calendarLeave]

/-! ### Ports and connections -/

@[simp] theorem strays_putSkd (s : State) (x : Skidder) : strays (s.putSkd x).od = strays s.od := rfl

@[simp] theorem strays_putConn (s : State) (c : Conn) : strays (s.putConn c).od = strays s.od := rfl

@[simp] theorem strays_putPortTx (s : State) (p : Nat) (x : PortTx) : strays (s.putPortTx p x).od = strays s.od := rfl

@[simp] theorem strays_putPage (s : State) (x : SkdPage) : strays (s.putPage x).od = strays s.od := rfl

/-! ### The traffic scheduler -/

@[simp] theorem strays_putSub (s : State) (x : SubSlot) : strays (s.putSub x).od = strays s.od := rfl

@[simp] theorem strays_subRegs (s : State) : strays s.subRegs.od = strays s.od := by
  simp (disch := decide +kernel) [State.subRegs]

@[simp] theorem strays_pushCtl (s : State) (port : Nat) (p : TxPkt) : strays (s.pushCtl port p).od = strays s.od := by
  simp [State.pushCtl]

@[simp] theorem strays_pushQueue (s : State) (c : Conn) (p : TxPkt) : strays (s.pushQueue c p).od = strays s.od := by
  unfold State.pushQueue
  repeat' split
  all_goals simp

@[simp] theorem strays_offer (s : State) (n fuel : Nat) : strays (s.offer n fuel).od = strays s.od := by
  induction fuel generalizing s with
  | zero => rfl
  | succ n ih =>
    unfold State.offer
    split
    · rfl
    · split
      · rfl
      · split
        · rfl
        · exact (ih _).trans (by simp)

@[simp] theorem strays_portRing (s : State) (port : Nat) : strays (s.portRing port).od = strays s.od := by
  simp [State.portRing]

@[simp] theorem strays_creditRing (s : State) : strays s.creditRing.od = strays s.od := by
  simp [State.creditRing, strays_foldl]

@[simp] theorem strays_unbind (s : State) (c : Conn) : strays (s.unbind c).od = strays s.od := by simp [State.unbind]

@[simp] theorem strays_reserveSubs (s : State) : strays s.reserveSubs.od = strays s.od := by
  simp (disch := decide +kernel) [State.reserveSubs]

/-! ### Connections that end -/

@[simp] theorem strays_notice (s : State) (c : Conn) (code : Nat) (body : Bytes) :
    strays (s.notice c code body).od = strays s.od := by
  simp [State.notice]

@[simp] theorem strays_transferEnds (s : State) (src : TransferSrc) (tag op status : Nat) :
    strays (s.transferEnds src tag op status).od = strays s.od := by
  unfold State.transferEnds
  split <;> simp

@[simp] theorem strays_opEnds (s : State) (op : NetOp) (status : Nat) :
    strays (s.opEnds op status).od = strays s.od := by
  unfold State.opEnds
  split <;> simp

@[simp] theorem strays_dropMessages (s : State) (c : Conn) : strays (s.dropMessages c).od = strays s.od := by
  unfold State.dropMessages
  dsimp only
  split <;> simp [strays_foldl]

@[simp] theorem strays_leaveOpen (s : State) (c : Conn) (next : ConnState) (status : Nat) :
    strays (s.leaveOpen c next status).od = strays s.od := by
  simp [State.leaveOpen, strays_foldl]

@[simp] theorem strays_connRegs (s : State) : strays s.connRegs.od = strays s.od := by
  simp (disch := decide +kernel) [State.connRegs]

@[simp] theorem strays_closeConn (s : State) (c : Conn) (status : Nat) :
    strays (s.closeConn c status).od = strays s.od := by
  simp [State.closeConn]

@[simp] theorem strays_fenceConn (s : State) (c : Conn) : strays (s.fenceConn c).od = strays s.od := by
  simp [State.fenceConn]

@[simp] theorem strays_fencePeers (s : State) (slot gen : Nat) : strays (s.fencePeers slot gen).od = strays s.od := by
  simp [State.fencePeers, strays_foldl]

@[simp] theorem strays_advanceKeys (s : State) : strays s.advanceKeys.od = strays s.od := by simp [State.advanceKeys]

/-! ### Lookout: frames, members and takeovers -/

@[simp] theorem strays_putLk (s : State) (x : Lookout) : strays (s.putLk x).od = strays s.od := rfl

@[simp] theorem strays_reviewLeader (s : State) : strays s.reviewLeader.od = strays s.od := by
  simp (disch := decide +kernel) [State.reviewLeader]

@[simp] theorem strays_lkRegs (s : State) : strays s.lkRegs.od = strays s.od := by
  simp (disch := decide +kernel) [State.lkRegs]

@[simp] theorem strays_setMember (s : State) (gen st : Nat) : strays (s.setMember gen st).od = strays s.od := by
  simp [State.setMember]

@[simp] theorem strays_lkCopy (s : State) (kind : Nat) (payload : Bytes) (plain : Bool) (join dest : Option Nat)
    (path : Nat) :
    strays (s.lkCopy kind payload plain join dest path).od = strays s.od := by
  unfold State.lkCopy
  dsimp only
  repeat' split
  all_goals simp

@[simp] theorem strays_lkSendAs (s : State) (kind : Nat) (payload : Bytes) (plain : Bool) (join dest : Option Nat) :
    strays (s.lkSendAs kind payload plain join dest).od = strays s.od := by
  simp [State.lkSendAs]

@[simp] theorem strays_lkCast (s : State) (kind : Nat) (payload : Bytes) :
    strays (s.lkCast kind payload).od = strays s.od := by
  simp [State.lkCast]

@[simp] theorem strays_lkTo (s : State) (kind : Nat) (payload : Bytes) (slot : Nat) :
    strays (s.lkTo kind payload slot).od = strays s.od := by
  simp [State.lkTo]

@[simp] theorem strays_lkCouncil (s : State) (kind : Nat) (payload : Bytes) :
    strays (s.lkCouncil kind payload).od = strays s.od := by
  simp [State.lkCouncil, strays_foldl]

@[simp] theorem strays_declare (s : State) (what epoch step : Nat) :
    strays (s.declare what epoch step).od = strays s.od := by
  simp [State.declare]

@[simp] theorem strays_activate (s : State) (x : Section) (start : Nat) (f : Fragment) (attempt : Nat)
    (floor : Option Nat) :
    strays (s.activate x start f attempt floor).od = strays s.od := by
  simp [State.activate]

@[simp] theorem strays_activateTaken (s : State) (t : Taken) : strays (s.activateTaken t).od = strays s.od :=
  strays_foldl (fun t p => by dsimp only; split <;> simp) _ _

@[simp] theorem strays_activateAll (s : State) : strays s.activateAll.od = strays s.od := by
  simp [State.activateAll, strays_foldl]

@[simp] theorem strays_dropTakeover (s : State) (slot ring : Nat) :
    strays (s.dropTakeover slot ring).od = strays s.od := by
  unfold State.dropTakeover
  refine (strays_lkRegs _).trans ((strays_foldl (fun t k => ?_) _ _).trans (by simp))
  split <;> simp

@[simp] theorem strays_tellConsumer (s : State) (n : LkNotice) : strays (s.tellConsumer n).od = strays s.od := by
  unfold State.tellConsumer
  split <;> simp

@[simp] theorem strays_stopNotices (s : State) (epoch step slot gen : Nat) :
    strays (s.stopNotices epoch step slot gen).od = strays s.od := by
  simp [State.stopNotices, strays_foldl]

/-! ### The council: votes and decisions -/

@[simp] theorem strays_recompose (s : State) : strays s.recompose.od = strays s.od := by
  simp (disch := decide +kernel) [State.recompose]

@[simp] theorem strays_sendVote (s : State) (proposal vote : Nat) :
    strays (s.sendVote proposal vote).od = strays s.od := by
  simp [State.sendVote]

@[simp] theorem strays_propose (s : State) (d : LkDecision) : strays (s.propose d).od = strays s.od := by
  simp [State.propose]

@[simp] theorem strays_sendProbe (s : State) (x : Suspicion) : strays (s.sendProbe x).od = strays s.od := by
  simp [State.sendProbe]

@[simp] theorem strays_shiftLaunches (s : State) (epoch shift : Nat) :
    strays (s.shiftLaunches epoch shift).od = strays s.od := by
  simp [State.shiftLaunches]

@[simp] theorem strays_becomeSnag (s : State) : strays s.becomeSnag.od = strays s.od :=
  (strays_foldl (fun _ _ => strays_closeConn ..) _ _).trans (strays_setN _ _ _ (by decide +kernel))

@[simp] theorem strays_revoke (s : State) (slot gen : Nat) : strays (s.revoke slot gen).od = strays s.od := by
  simp [State.revoke]

@[simp] theorem strays_revokedNotices (s : State) (slot gen : Nat) :
    strays (s.revokedNotices slot gen).od = strays s.od := by
  simp [State.revokedNotices, strays_foldl]

@[simp] theorem strays_checkResume (s : State) : strays s.checkResume.od = strays s.od := by
  unfold State.checkResume
  split <;> simp

@[simp] theorem strays_checkCoppice (s : State) : strays s.checkCoppice.od = strays s.od := by
  unfold State.checkCoppice
  split
  · rfl
  · refine (strays_foldl (fun t slot => ?_) _ _).trans (strays_foldl (fun t slot => ?_) _ _)
    · split <;> simp
    · split <;> simp

@[simp] theorem strays_followUp (s : State) : strays s.followUp.od = strays s.od := by
  unfold State.followUp
  repeat' split
  all_goals simp

@[simp] theorem strays_applyAlive (s : State) (d : LkDecision) : strays (s.applyAlive d).od = strays s.od := by
  unfold State.applyAlive
  dsimp only
  split <;> simp (disch := decide +kernel)

@[simp] theorem strays_applyDead (s : State) (d : LkDecision) : strays (s.applyDead d).od = strays s.od := by
  simp [State.applyDead]

@[simp] theorem strays_applyAdmit (s : State) (d : LkDecision) : strays (s.applyAdmit d).od = strays s.od := by
  simp (disch := decide +kernel) [State.applyAdmit]

@[simp] theorem strays_applyCoppiceStart (s : State) (d : LkDecision) :
    strays (s.applyCoppiceStart d).od = strays s.od := by
  simp (disch := decide +kernel) [State.applyCoppiceStart]

@[simp] theorem strays_applySlotReady (s : State) (d : LkDecision) :
    strays (s.applySlotReady d).od = strays s.od := by
  unfold State.applySlotReady
  dsimp only
  split <;> simp (disch := decide +kernel)

@[simp] theorem strays_applyCoOpt (s : State) (d : LkDecision) : strays (s.applyCoOpt d).od = strays s.od := by
  have hkey : inObject Reg.council.council = true := by decide +kernel
  simp [State.applyCoOpt, strays_foldl, hkey]

@[simp] theorem strays_applyDomainHold (s : State) (d : LkDecision) :
    strays (s.applyDomainHold d).od = strays s.od := by
  unfold State.applyDomainHold
  repeat' split
  all_goals simp (disch := decide +kernel)

@[simp] theorem strays_applyResume (s : State) (d : LkDecision) : strays (s.applyResume d).od = strays s.od := by
  unfold State.applyResume
  dsimp only
  rw [strays_lkRegs, strays_foldl (fun t c => strays_tellConsumer ..)]
  refine (strays_foldl (fun t v => ?_) _ _).trans ?_
  · split <;> simp
  · simp (disch := decide +kernel)

@[simp] theorem strays_applyOrphaned (s : State) (d : LkDecision) : strays (s.applyOrphaned d).od = strays s.od := by
  unfold State.applyOrphaned
  refine (strays_lkRegs _).trans ((strays_ite _ _ _).trans ?_)
  rw [strays_propose, ite_self]
  refine strays_foldl (fun t x => ?_) _ _
  split <;> simp

@[simp] theorem strays_applyDemote (s : State) (d : LkDecision) : strays (s.applyDemote d).od = strays s.od := by
  simp [State.applyDemote]

@[simp] theorem strays_applyScores (s : State) (d : LkDecision) : strays (s.applyScores d).od = strays s.od := by
  simp (disch := decide +kernel) [State.applyScores]

@[simp] theorem strays_applyOutcome (s : State) (d : LkDecision) : strays (s.applyOutcome d).od = strays s.od := by
  unfold State.applyOutcome
  split <;> simp

@[simp] theorem strays_applyDecision (s : State) (d : LkDecision) : strays (s.applyDecision d).od = strays s.od := by
  simp (disch := decide +kernel) [State.applyDecision]

@[simp] theorem strays_decide_ (s : State) (d : LkDecision) (voters : List Nat) :
    strays (s.decide_ d voters).od = strays s.od := by
  simp [State.decide_, strays_foldl]

@[simp] theorem strays_settleVotes (s : State) (fuel : Nat) : strays (s.settleVotes fuel).od = strays s.od := by
  induction fuel generalizing s with
  | zero => rfl
  | succ n ih =>
    unfold State.settleVotes
    split
    · rfl
    · split
      · rfl
      · exact (ih _).trans (strays_decide_ ..)

@[simp] theorem strays_settle (s : State) : strays s.settle.od = strays s.od := by simp [State.settle]

/-! ### Lookout at a ring and at an epoch start -/

@[simp] theorem strays_sendHeartbeats (s : State) : strays s.sendHeartbeats.od = strays s.od := by
  simp [State.sendHeartbeats, strays_foldl]

@[simp] theorem strays_sendProbes (s : State) : strays s.sendProbes.od = strays s.od := by
  simp [State.sendProbes, strays_foldl]

@[simp] theorem strays_declareAway (s : State) (what : Nat) : strays (s.declareAway what).od = strays s.od := by
  simp (disch := decide +kernel) [State.declareAway]

@[simp] theorem strays_declareBack (s : State) : strays s.declareBack.od = strays s.od := by simp [State.declareBack]

@[simp] theorem strays_sendLates (s : State) : strays s.sendLates.od = strays s.od := by
  simp [State.sendLates, strays_foldl]

@[simp] theorem strays_coppiceSettle (s : State) : strays s.coppiceSettle.od = strays s.od := by
  simp (disch := decide +kernel) [State.coppiceSettle]

@[simp] theorem strays_lookoutRing (s : State) : strays s.lookoutRing.od = strays s.od := by
  unfold State.lookoutRing
  refine (strays_coppiceSettle _).trans ((strays_settle _).trans
    ((strays_foldl (fun t d => strays_propose ..) _ _).trans ((strays_sendLates _).trans ?_)))
  split
  · split
    · simp (disch := decide +kernel)
    · simp
  · simp

@[simp] theorem strays_lookoutEpoch (s : State) : strays s.lookoutEpoch.od = strays s.od := by
  unfold State.lookoutEpoch
  dsimp only
  split <;> simp (disch := decide +kernel)

@[simp] theorem strays_setPeers (s : State) : strays s.setPeers.od = strays s.od := by simp [State.setPeers]

/-! ### Launch -/

@[simp] theorem strays_launchReport (s : State) (k : FragKey) (cause : LateCause) (grains : Nat) :
    strays (s.launchReport k cause grains).od = strays s.od := by
  simp [State.launchReport]

@[simp] theorem strays_sendFragment (s : State) (c : Conn) (e : DeckEntry) (x : Section) :
    strays (s.sendFragment c e x).od = strays s.od := by
  simp (disch := decide +kernel) [State.sendFragment]

@[simp] theorem strays_countLate (s : State) (e : DeckEntry) (hold : Nat) :
    strays (s.countLate e hold).od = strays s.od := by
  simp (disch := decide +kernel) [State.countLate]

@[simp] theorem strays_launch (s : State) (k : FragKey) (hold : Nat) : strays (s.launch k hold).od = strays s.od := by
  unfold State.launch
  split <;> simp

@[simp] theorem strays_prefetch (s : State) (k : FragKey) : strays (s.prefetch k).od = strays s.od := by
  unfold State.prefetch
  split <;> simp

/-! ### The stand -/

@[simp] theorem strays_linkUp (s : State) (east : Bool) : strays (s.linkUp east).od = strays s.od := by
  simp [State.linkUp]

@[simp] theorem strays_abortLost (s : State) (n : Nat) : strays (s.abortLost n).od = strays s.od := by
  simp [State.abortLost]

@[simp] theorem strays_loseMembers (s : State) (lost : List Nat) : strays (s.loseMembers lost).od = strays s.od := by
  simp [State.loseMembers, strays_foldl]

@[simp] theorem strays_linkDown (s : State) (east : Bool) : strays (s.linkDown east).od = strays s.od := by
  simp [State.linkDown]

@[simp] theorem strays_admitMember (s : State) (m : Nat) : strays (s.admitMember m).od = strays s.od := by
  simp [State.admitMember]

@[simp] theorem strays_standHello (s : State) (m uid : Nat) : strays (s.standHello m uid).od = strays s.od := by
  simp [State.standHello]

@[simp] theorem strays_formStand (s : State) : strays s.formStand.od = strays s.od := by simp [State.formStand]

@[simp] theorem strays_formWindowEnd (s : State) : strays s.formWindowEnd.od = strays s.od := by
  simp [State.formWindowEnd]

@[simp] theorem strays_standMaster (s : State) (m term : Nat) : strays (s.standMaster m term).od = strays s.od := by
  simp [State.standMaster]

@[simp] theorem strays_standHeartbeat (s : State) (m : Nat) (healthy : Bool) :
    strays (s.standHeartbeat m healthy).od = strays s.od := by
  simp [State.standHeartbeat]

@[simp] theorem strays_masterMissed (s : State) : strays s.masterMissed.od = strays s.od := by
  simp [State.masterMissed]

@[simp] theorem strays_standRing (s : State) : strays s.standRing.od = strays s.od := by
  simp [State.standRing, strays_foldl]

@[simp] theorem strays_masterArmed (s : State) (m n : Nat) : strays (s.masterArmed m n).od = strays s.od := by
  unfold State.masterArmed
  split <;> simp

@[simp] theorem strays_barrierTimeout (s : State) (n : Nat) : strays (s.barrierTimeout n).od = strays s.od := by
  unfold State.barrierTimeout
  split <;> simp

/-! ### The ring count -/

@[simp] theorem strays_putRc (s : State) (x : RingCount) : strays (s.putRc x).od = strays s.od := rfl

@[simp] theorem strays_rcRegs (s : State) : strays s.rcRegs.od = strays s.od := by
  simp (disch := decide +kernel) [State.rcRegs]

@[simp] theorem strays_startSettle (s : State) : strays s.startSettle.od = strays s.od := by
  simp (disch := decide +kernel) [State.startSettle]

@[simp] theorem strays_enterVoid (s : State) (c : VoidCause) : strays (s.enterVoid c).od = strays s.od := by
  unfold State.enterVoid
  dsimp only
  repeat' split
  all_goals simp

@[simp] theorem strays_clearCause (s : State) (c : VoidCause) : strays (s.clearCause c).od = strays s.od := by
  simp [State.clearCause]

@[simp] theorem strays_leaveVoid (s : State) : strays s.leaveVoid.od = strays s.od := by simp [State.leaveVoid]

@[simp] theorem strays_stepRing (s : State) (tai : Nat) (off : Int) :
    strays (s.stepRing tai off).od = strays s.od := by
  simp (disch := decide +kernel) [State.stepRing]

@[simp] theorem strays_becomeLocked (s : State) : strays s.becomeLocked.od = strays s.od := by
  simp [State.becomeLocked]

@[simp] theorem strays_resumeSync (s : State) (off : Int) : strays (s.resumeSync off).od = strays s.od := by
  simp [State.resumeSync]

@[simp] theorem strays_ptpSync (s : State) (measured : Int) (tai : Nat) :
    strays (s.ptpSync measured tai).od = strays s.od := by
  simp [State.ptpSync]

@[simp] theorem strays_crossCheck (s : State) : strays s.crossCheck.od = strays s.od := by
  unfold State.crossCheck
  dsimp only
  repeat' split
  all_goals simp

@[simp] theorem strays_pllRing (s : State) : strays s.pllRing.od = strays s.od := by
  unfold State.pllRing
  split <;> simp (disch := decide +kernel)

@[simp] theorem strays_secondsRing (s : State) : strays s.secondsRing.od = strays s.od := by
  unfold State.secondsRing
  dsimp only
  repeat' split
  all_goals simp (disch := decide +kernel)

@[simp] theorem strays_ringHooks (s : State) : strays s.ringHooks.od = strays s.od := by simp [State.ringHooks]

@[simp] theorem strays_ringBegin (s : State) : strays s.ringBegin.od = strays s.od := by
  simp (disch := decide +kernel) [State.ringBegin]

/-! ### The schedule -/

@[simp] theorem strays_putSched (s : State) (x : Sched) : strays (s.putSched x).od = strays s.od := rfl

@[simp] theorem strays_schedRegs (s : State) : strays s.schedRegs.od = strays s.od := by
  simp (disch := decide +kernel) [State.schedRegs]

@[simp] theorem strays_dropPrepared (s : State) (epoch : Nat) : strays (s.dropPrepared epoch).od = strays s.od := by
  simp [State.dropPrepared, strays_foldl]

@[simp] theorem strays_slotsChanged (s : State) : strays s.slotsChanged.od = strays s.od := by
  simp [State.slotsChanged]

@[simp] theorem strays_beginJournal (s : State) (x : Section) : strays (s.beginJournal x).od = strays s.od := by
  simp (disch := decide +kernel) [State.beginJournal]

@[simp] theorem strays_journalEpoch (s : State) (x : Section) : strays (s.journalEpoch x).od = strays s.od := by
  simp [State.journalEpoch]

@[simp] theorem strays_loadSection (s : State) (x : Section) : strays (s.loadSection x).od = strays s.od := by
  unfold State.loadSection
  repeat' split
  all_goals simp (disch := decide +kernel)

@[simp] theorem strays_runStart (s : State) : strays s.runStart.od = strays s.od := by
  unfold State.runStart
  repeat' split
  all_goals simp (disch := decide +kernel)

@[simp] theorem strays_enterEpoch (s : State) (x : Section) : strays (s.enterEpoch x).od = strays s.od := by
  simp (disch := decide +kernel) [State.enterEpoch]

@[simp] theorem strays_epochStarts (s : State) : strays s.epochStarts.od = strays s.od := by
  unfold State.epochStarts
  dsimp only
  repeat' split
  all_goals simp

@[simp] theorem strays_loadLate (s : State) : strays s.loadLate.od = strays s.od := by simp [State.loadLate]

@[simp] theorem strays_diverged (s : State) (step : Nat) : strays (s.diverged step).od = strays s.od := by
  simp (disch := decide +kernel) [State.diverged]

@[simp] theorem strays_stepDigest (s : State) (step : Nat) : strays (s.stepDigest step).od = strays s.od := by
  unfold State.stepDigest
  dsimp only
  repeat' split
  all_goals simp

end Sys2Proof.Proofs
end

section
/-! The settings of a run (R69): their writes are refused while a run has begun. -/
namespace Sys2Proof.Proofs
open Sys2Proof.Machine Sys2Proof.Laws
set_option Elab.async false

/-! ### Writes that their entry refuses -/

/-- A write whose entry refuses it (not one of Table 17-4) ends with a code, the entry's own where the shared checks pass. -/
theorem odWrite_refused {s : State} {w : Who} {i b c : Nat} {v : Bytes} {apply : OdRow → State → Except Nat State}
    (hi : i ≠ 0x2010) (ha : ∀ r, apply r s = .error c) :
    ∃ d, s.odWrite w i b v apply = s.refuse d 0xFF 0xFF ∧ ∀ r, s.vet w i b v = .ok r → d = c := by
  unfold State.odWrite
  split
  · next d hd => exact ⟨d, rfl, fun r hr => by rw [hd] at hr; cases hr⟩
  · next r hr =>
    refine ⟨c, ?_, fun _ _ => rfl⟩
    simp only [ha r, State.refusedWrite, hi, false_and, if_false]

theorem keepOpen_of_ne {t s : State} {via : Via} {i b : Nat} (hi : i ≠ 0x5010) : t.keepOpen via i b s = t := if_pos (Or.inl hi)

/-! ### The six settings of R69 -/

/-- The entries that R69 names. -/
def runSettings : List (Nat × Nat) := [(0x4A10, 1), (0x4A10, 2), (0x4A11, 1), (0x4A11, 2), (0x4A00, 6), (0x4A30, 1)]

theorem started_iff (s : State) : s.started = true ↔ s.schedState = 3 ∨ s.schedState = 4 ∨ s.schedState = 5 := by
  simp [State.started, or_assoc]

/-- While a run has begun, each of them refuses its writes with BUSY. -/
theorem odApply_runSetting {e : Nat × Nat} (he : e ∈ runSettings) {s : State} (hs : s.started = true) (via : Via) (v : Bytes)
    (r : OdRow) : s.odApply via e.1 e.2 v r = .error 0x4A01 := by
  have hbusy (k : Nat) : s.runWrite r k v = .error 0x4A01 := by rw [State.runWrite, if_pos hs]
  simp only [runSettings, List.mem_cons, List.not_mem_nil, or_false] at he
  rcases he with rfl | rfl | rfl | rfl | rfl | rfl <;> exact hbusy _

/-- None of them is a clock gate or a connection's entry. -/
theorem runSettings_ne {e : Nat × Nat} (he : e ∈ runSettings) : e.1 ≠ 0x2010 ∧ e.1 ≠ 0x5010 :=
  (by decide : ∀ e ∈ runSettings, e.1 ≠ 0x2010 ∧ e.1 ≠ 0x5010) e he

/-- The management's own: the sessions and the mailbox, the log and its alert, what is sent and the status. -/
def ownFoot : Foot := ⟨[.log, .mgmt, .out, .status], [.tally, .smb, .log]⟩

/-- The schedule's STATE is none of it. -/
theorem started_of_keeps {s t : State} (h : Keeps (footMask ownFoot) s t) : t.started = s.started := by
  have hst : t.schedState = s.schedState :=
    (h.entry .sched (by decide +kernel) Reg.sched.state (by decide) ⟨by decide, by decide⟩).1
  simp only [State.started, hst]

theorem started_served {s : State} {h : TallyHdr} {x : Session} : (s.served h x).started = s.started := by
  have hst : (s.served h x).schedState = s.schedState := served_num (by decide)
  simp only [State.started, hst]

theorem served_keeps (s : State) (h : TallyHdr) (x : Session) : Keeps (footMask ownFoot) s (s.served h x) :=
  have hm : Sub (footMask ownFoot) (footMask ownFoot) := ⟨Nat.or_self _⟩
  bump_keeps (putSession_keeps (.refl _ s))

/-- A write of one of them in a run keeps to the management's own. -/
theorem odWrite_runSetting {e : Nat × Nat} (he : e ∈ runSettings) {σ s : State} (hK : Keeps (footMask ownFoot) σ s)
    (hs : s.started = true) (w : Who) (via : Via) (v : Bytes) :
    Keeps (footMask ownFoot) σ (s.odWrite w e.1 e.2 v fun r s => s.odApply via e.1 e.2 v r) ∧
      strays (s.odWrite w e.1 e.2 v fun r s => s.odApply via e.1 e.2 v r).od = strays s.od := by
  have hm : Sub (footMask ownFoot) (footMask ownFoot) := ⟨Nat.or_self _⟩
  obtain ⟨d, hd, -⟩ := odWrite_refused (s := s) (w := w) (b := e.2) (v := v)
    (apply := fun r s => s.odApply via e.1 e.2 v r) (runSettings_ne he).1
    (odApply_runSetting he hs via v)
  rw [hd]
  exact ⟨refuse_keeps hK, strays_refuse _ _ _ _⟩

/-- DICTIONARY_WRITE of one of them in a run, over any path. -/
theorem writeVia_runSetting {e : Nat × Nat} (he : e ∈ runSettings) {s : State} (hs : s.started = true) (via : Via) (v : Bytes) :
    Spares ownFoot s (s.writeVia via e.1 e.2 v fun r s => s.odApply via e.1 e.2 v r) := by
  have hm : Sub (footMask ownFoot) (footMask ownFoot) := ⟨Nat.or_self _⟩
  have hrun (w : Who) (t : State) (hK : Keeps (footMask ownFoot) s t) :=
    odWrite_runSetting he hK ((started_of_keeps hK).trans hs) w via v
  unfold State.writeVia
  cases via with
  | smbus pecOk =>
    dsimp only
    split
    · exact spares_of_keeps (bump_keeps (.refl _ s)) (strays_bump _ _ (by decide +kernel))
    · obtain ⟨hk, hst⟩ := hrun .smbus s (.refl _ s)
      exact spares_of_keeps (Keeps.lit (M := 0x4) hk ⟨by decide +kernel⟩) hst
  | tally h =>
    refine spares_of_keeps (request_keeps (.refl _ s) fun w t hK => (hrun w t hK).1)
      (strays_request (fun _ => ?_) fun x _ => ?_)
    · exact (hrun .noSession _ (bump_keeps (.refl _ s))).2.trans (strays_bump _ _ (by decide +kernel))
    · exact (hrun _ _ (served_keeps s h x)).2.trans (strays_served s h x)

/-- What a served request leaves keeps to the management's own where what it ran does. -/
theorem spares_delivered {s : State} {h : TallyHdr} {r : State × Bytes × Option Nat}
    (hr : Keeps (footMask ownFoot) s r.1 ∧ strays r.1.od = strays s.od) : Spares ownFoot s (delivered h r) := by
  have hm : Sub (footMask ownFoot) (footMask ownFoot) := ⟨Nat.or_self _⟩
  obtain ⟨hK, hst⟩ := hr
  refine spares_of_keeps ?_ ((strays_delivered h r).trans hst)
  have hk : Keeps (footMask ownFoot) s (keptFor r.1 h r.2.1) := by
    unfold keptFor
    split
    · exact hK
    · exact putSession_keeps hK
  unfold delivered
  dsimp only
  split
  · split
    · exact Keeps.lit (M := 0x4) hk ⟨by decide +kernel⟩
    · exact answer_keeps hk
  · exact answer_keeps hk

/-- What a served write of one of them answers in a run, where the shared checks pass. -/
theorem writeVia_runSetting_busy {e : Nat × Nat} (he : e ∈ runSettings) {s : State} (hs : s.started = true) {h : TallyHdr}
    {x : Session} (ht : s.takes h x) {v : Bytes} {r : OdRow} (hr : (s.served h x).vet (.session h.session) e.1 e.2 v = .ok r) :
    Answers h true 0x4A01 [] s (s.writeVia (.tally h) e.1 e.2 v fun r s => s.odApply (.tally h) e.1 e.2 v r) := by
  obtain ⟨d, hd, hc⟩ := odWrite_refused (s := s.served h x) (w := .session h.session) (b := e.2) (v := v)
    (apply := fun r s => s.odApply (.tally h) e.1 e.2 v r) (runSettings_ne he).1
    (odApply_runSetting he (started_served.trans hs) (.tally h) v)
  obtain rfl := hc r hr
  have hout : ((s.served h x).refuse 0x4A01 0xFF 0xFF).out = s.out :=
    ((refuse_keeps (m := 0x20c0400006) (.refl _ _) ⟨by decide +kernel⟩).part .out (by decide +kernel)).trans (served_out s h x)
  unfold State.writeVia
  dsimp only
  rw [request_takes ht, hd, delivered_failed (show isOk 0x4A01 = false by decide)]
  exact answers_kept hout rfl

/-- The end of a transfer to one of them, in a run. -/
theorem blobEnd_runSetting {e : Nat × Nat} (he : e ∈ runSettings) {s : State} (hs : s.started = true) {h : TallyHdr} {x : Session}
    {n : Nat} {tr : Transfer} (ht : s.takes h x) (htr : x.transfer? n = some tr) (hentry : (tr.idx, tr.sub) = e) :
    Spares ownFoot s (s.blobEnd h n) := by
  have hm : Sub (footMask ownFoot) (footMask ownFoot) := ⟨Nat.or_self _⟩
  subst hentry
  have hK : Keeps (footMask ownFoot) s (s.served h x) := served_keeps s h x
  have hput : Keeps (footMask ownFoot) s ((s.served h x).putSession ((x.accepted h s.now).endTransfer n)) :=
    putSession_keeps hK
  have htr' : (x.accepted h s.now).transfer? n = some tr := htr
  unfold State.blobEnd
  rw [request_takes ht]
  dsimp only
  rw [served_session ht]
  dsimp only
  rw [htr']
  refine spares_delivered ?_
  dsimp only
  split
  · exact ⟨refuse_keeps hK, by simp⟩
  split
  · exact ⟨refuse_keeps hK, by simp⟩
  · rw [keepOpen_of_ne (runSettings_ne he).2]
    obtain ⟨hk, hst⟩ := odWrite_runSetting he hput ((started_of_keeps hput).trans hs) (.session h.session) (.tally h) tr.staged
    exact ⟨hk, hst.trans (by simp)⟩

/-- A command keeps to a footprint where what it does on a running device does. -/
theorem spares_of_act {f : Foot} {s t : State} {g : State → State} (hg : Spares f s (g s)) (h : act s g = .next t) :
    Spares f s t := by
  obtain rfl := Host.Outcome.next.inj h
  split
  · exact spares_of_keeps (.refl _ s) rfl
  · exact hg

theorem exec_dictionaryWrite (via : Via) (i b : Nat) (v : Bytes) (s : State) : exec (.dictionaryWrite via i b v) s =
    act s fun s => (s.writeVia via i b v fun r s => s.odApply via i b v r).keepOpen via i b s := rfl

theorem exec_blobEnd (h : TallyHdr) (n : Nat) (s : State) : exec (.blobEnd h n) s = act s fun s => s.blobEnd h n := rfl

/-- Settles O12: over any path a write of the six entries is refused by the entry itself, by its run's `writeVia_runSetting`,
and so is the one write that a transfer's end stands for. -/
theorem runSettingsAreBusyInARun : Obligations.RunSettingsAreBusyInARun := by
  intro s hst e he
  have he : e ∈ runSettings := he
  have hs : s.started = true := (started_iff s).mpr hst
  have hopen : e.1 ≠ 0x5010 := (runSettings_ne he).2
  refine ⟨fun via v t ht => ?_, fun h x v r hrun htk hr => ?_, fun h x n tr t htk htr hentry ht => ?_⟩
  · rw [exec_dictionaryWrite] at ht
    refine spares_of_act ?_ ht
    rw [keepOpen_of_ne hopen]
    exact writeVia_runSetting he hs via v
  · refine gives_act hrun (exec_dictionaryWrite _ _ _ _ _) ?_
    rw [keepOpen_of_ne hopen]
    exact writeVia_runSetting_busy he hs htk hr
  · rw [exec_blobEnd] at ht
    refine spares_of_act ?_ ht
    exact blobEnd_runSetting he hs htk htr hentry

end Sys2Proof.Proofs
end

section
/-! The frames of the schedule, ring count and stand commands (R56 to R75, R77 to R107): the zones of each by its frame lemma,
the keys of no object by what its operation leaves of them. -/
namespace Sys2Proof.Proofs
open Sys2Proof.Machine Sys2Proof.Laws
set_option Elab.async false

/-! ### Writes of an entry -/

/-- A write lists nothing for keys of no object where its entry's own effect lists nothing. -/
theorem strays_odWrite {s : State} {w : Who} {i b : Nat} {v : Bytes} {apply : OdRow → State → Except Nat State}
    (ha : ∀ r t u, apply r t = .ok u → strays u.od = strays t.od) : strays (s.odWrite w i b v apply).od = strays s.od := by
  unfold State.odWrite
  split
  · simp
  split
  · simp
  split
  · simp
  · next r _ _ _ t ht => exact (strays_accept ..).trans ((ha _ _ _ ht).trans (strays_journalWrite ..))

theorem strays_writeVia {s : State} {via : Via} {i b : Nat} {v : Bytes} {apply : OdRow → State → Except Nat State}
    (ha : ∀ r t u, apply r t = .ok u → strays u.od = strays t.od) : strays (s.writeVia via i b v apply).od = strays s.od := by
  unfold State.writeVia
  split
  · dsimp only
    split
    · exact strays_bump _ _ (by decide +kernel)
    · exact strays_odWrite ha
  · exact strays_request (fun _ => (strays_odWrite ha).trans (strays_bump _ _ (by decide +kernel)))
      fun x _ => (strays_odWrite ha).trans (strays_served _ _ x)

theorem strays_sectionLoad {s t : State} {v : Bytes} (h : s.sectionLoad v = .ok t) : strays t.od = strays s.od := by
  unfold State.sectionLoad at h
  split at h
  · cases h
  · cases h
    exact strays_loadSection ..

/-! ### A command's frame -/

/-- A command of a running device keeps to a footprint: what it keeps, and what it lists for keys of no object. -/
theorem within_act {c : Instr} {f : Foot} {g : State → State} (hc : ∀ s, exec c s = act s g)
    (hK : ∀ s, OnNext (Keeps (footMask f) s) (exec c s)) (hg : ∀ s, strays (g s).od = strays s.od) : Within c f := by
  intro s t ht
  refine spares_of_keeps (hK s t ht) ?_
  rw [hc s] at ht
  obtain rfl := Host.Outcome.next.inj ht
  rw [strays_ite, hg, ite_self]

theorem within_live {c : Instr} {f : Foot} {g : State → State} (hc : ∀ s, exec c s = live s g)
    (hK : ∀ s, OnNext (Keeps (footMask f) s) (exec c s)) (hg : ∀ s, strays (g s).od = strays s.od) : Within c f :=
  within_act hc hK fun s => by rw [strays_ite, hg, ite_self]

/-- Settles O51: for each command, its frame lemma and what its operation leaves of the keys of no object. -/
theorem framesOfScheduleAndRingCount : Obligations.FramesOfScheduleAndRingCount := by
  refine ⟨fun a b => ?_, ?_, ?_, ?_, fun a b => ?_, fun a => ?_, fun a => ?_, ?_, fun a b => ?_, ?_, ?_, ?_, ?_, ?_, ?_⟩
  · exact within_act (fun _ => rfl) (fun s => execSectionLoad_keeps (.refl _ s) ⟨by decide +kernel⟩)
      fun s => strays_writeVia fun _ _ _ h => strays_sectionLoad h
  · exact within_act (fun _ => rfl) (fun s => execEpochStart_keeps (.refl _ s) ⟨by decide +kernel⟩) strays_epochStarts
  · exact within_act (fun _ => rfl) (fun s => execLoadLate_keeps (.refl _ s) ⟨by decide +kernel⟩) strays_loadLate
  · exact within_act (fun _ => rfl) (fun s => execRunStartReached_keeps (.refl _ s) ⟨by decide +kernel⟩) strays_runStart
  · exact within_live (fun _ => rfl) (fun s => execFragmentLaunch_keeps (.refl _ s) ⟨by decide +kernel⟩)
      fun s => strays_launch s a b
  · exact within_live (fun _ => rfl) (fun s => execLaunchPrefetch_keeps (.refl _ s) ⟨by decide +kernel⟩)
      fun s => strays_prefetch s a
  · exact within_act (fun _ => rfl) (fun s => execStepDigest_keeps (.refl _ s) ⟨by decide +kernel⟩) fun s => strays_stepDigest s a
  · exact within_act (fun _ => rfl) (fun s => execRingBegin_keeps (.refl _ s) ⟨by decide +kernel⟩) strays_ringBegin
  · exact within_act (fun _ => rfl) (fun s => execPtpSync_keeps (.refl _ s) ⟨by decide +kernel⟩) fun s => strays_ptpSync s a b
  · exact within_act (fun _ => rfl) (fun s => execRcLocked_keeps (.refl _ s) ⟨by decide +kernel⟩) fun s => by simp
  · exact within_act (fun _ => rfl) (fun s => execSyncTimeout_keeps (.refl _ s) ⟨by decide +kernel⟩) fun s => by simp
  · rintro f rfl
    refine ⟨?_, ?_, ?_⟩
    · exact within_act (fun _ => rfl) (fun s => execHoldoverExpired_keeps (.refl _ s) ⟨by decide +kernel⟩) fun s => by simp
    · exact within_act (fun _ => rfl) (fun s => execClockOutlier_keeps (.refl _ s) ⟨by decide +kernel⟩) fun s => by simp
    · exact within_act (fun _ => rfl) (fun s => execGmMismatch_keeps (.refl _ s) ⟨by decide +kernel⟩) fun s => by simp
  · rintro f rfl
    refine ⟨fun a => ?_, fun a b => ?_, ?_, fun a b => ?_, fun a b => ?_, fun a b => ?_⟩
    · exact within_live (fun _ => rfl) (fun s => execRingLinkUp_keeps (.refl _ s) ⟨by decide +kernel⟩) fun s => by simp
    · exact within_live (fun _ => rfl) (fun s => execStandHello_keeps (.refl _ s) ⟨by decide +kernel⟩)
        fun s => strays_standHello s a b
    · exact within_live (fun _ => rfl) (fun s => execFormWindowEnd_keeps (.refl _ s) ⟨by decide +kernel⟩) strays_formWindowEnd
    · exact within_live (fun _ => rfl) (fun s => execStandMaster_keeps (.refl _ s) ⟨by decide +kernel⟩)
        fun s => strays_standMaster s a b
    · exact within_live (fun _ => rfl) (fun s => execStandHeartbeat_keeps (.refl _ s) ⟨by decide +kernel⟩)
        fun s => strays_standHeartbeat s a b
    · exact within_live (fun _ => rfl) (fun s => execBarrierArm_keeps (.refl _ s) ⟨by decide +kernel⟩) fun s => by simp
  · rintro f rfl
    refine ⟨fun a => ?_, ?_, ?_, fun a => ?_, fun a b => ?_⟩
    · exact within_live (fun _ => rfl) (fun s => execRingLinkDown_keeps (.refl _ s) ⟨by decide +kernel⟩)
        fun s => strays_linkDown s a
    · exact within_live (fun _ => rfl) (fun s => execMasterMissed_keeps (.refl _ s) ⟨by decide +kernel⟩) strays_masterMissed
    · refine within_live (fun _ => rfl) (fun s => execStandSyncEdge_keeps (.refl _ s) ⟨by decide +kernel⟩) fun s => ?_
      split <;> simp (disch := decide +kernel)
    · exact within_live (fun _ => rfl) (fun s => execBarrierTimeout_keeps (.refl _ s) ⟨by decide +kernel⟩)
        fun s => strays_barrierTimeout s a
    · exact within_live (fun _ => rfl) (fun s => execBarrierAbort_keeps (.refl _ s) ⟨by decide +kernel⟩) fun s => by simp
  · rintro f rfl
    refine ⟨fun a b => ?_, fun a b => ?_⟩
    · exact within_live (fun _ => rfl) (fun s => execBarrierArrive_keeps (.refl _ s) ⟨by decide +kernel⟩) fun s => by simp
    · exact within_live (fun _ => rfl) (fun s => execBarrierArmed_keeps (.refl _ s) ⟨by decide +kernel⟩) fun s => by simp

end Sys2Proof.Proofs
end

section
/-! The schedule and launch commands (R67, R68, R75, R98 to R102, R249, R497): what each leaves in the sections' slots, the
journal, the replay's lists and the deck. -/
namespace Sys2Proof.Proofs
open Sys2Proof.Machine Sys2Proof.Laws
set_option Elab.async false

/-! ### Entries of an object outside the zones -/

/-- Key `k` is an entry of object `b`, which no zone of mask `m` is. -/
def entryOutside (m : Nat) (b : Block) (k : Nat) : Bool :=
  !m.testBit (blockBit b) && decide (0x100000 ≤ k) && decide (b.range.1 ≤ k / 256) && decide (k / 256 ≤ b.range.2)

theorem keeps_entry {m : Nat} {s t : State} (h : Keeps m s t) (b : Block) {k : Nat} (hk : entryOutside m b k = true) :
    t.num k = s.num k ∧ t.blob k = s.blob k := by
  simp only [entryOutside, Bool.and_eq_true, Bool.not_eq_true', decide_eq_true_eq] at hk
  obtain ⟨⟨⟨hm, hlow⟩, hlo⟩, hhi⟩ := hk
  exact h.entry b hm k hlow ⟨hlo, hhi⟩

/-! ### The journal's own fields -/

/-- A record changes the journal of the run alone: its sequence, its records, whether it is complete. -/
theorem journal_sched (s : State) (a b : Nat) (r : Bool) (p : Bytes) :
    ∃ j l i, (s.journal a b r p).sched =
      { s.sched with jseq := j, current := { s.sched.current with records := l, incomplete := i } } := by
  unfold State.journal
  split
  · exact ⟨_, _, _, rfl⟩
  · dsimp only
    split
    · exact ⟨_, _, _, rfl⟩
    · exact ⟨_, _, _, by rw [setN_sched, setN_sched]⟩

@[simp] theorem journal_active (s : State) (a b : Nat) (r : Bool) (p : Bytes) :
    (s.journal a b r p).sched.active = s.sched.active := by
  obtain ⟨_, _, _, h⟩ := journal_sched s a b r p
  rw [h]

@[simp] theorem journal_next (s : State) (a b : Nat) (r : Bool) (p : Bytes) :
    (s.journal a b r p).sched.next = s.sched.next := by
  obtain ⟨_, _, _, h⟩ := journal_sched s a b r p
  rw [h]

@[simp] theorem journal_digested (s : State) (a b : Nat) (r : Bool) (p : Bytes) :
    (s.journal a b r p).sched.digested = s.sched.digested := by
  obtain ⟨_, _, _, h⟩ := journal_sched s a b r p
  rw [h]

@[simp] theorem journal_runId (s : State) (a b : Nat) (r : Bool) (p : Bytes) :
    (s.journal a b r p).sched.current.runId = s.sched.current.runId := by
  obtain ⟨_, _, _, h⟩ := journal_sched s a b r p
  rw [h]

@[simp] theorem journal_runStart (s : State) (a b : Nat) (r : Bool) (p : Bytes) :
    (s.journal a b r p).sched.current.runStart = s.sched.current.runStart := by
  obtain ⟨_, _, _, h⟩ := journal_sched s a b r p
  rw [h]

/-- A run's journal begins under its RUN_ID and RUN_START; the slots stand. -/
theorem beginJournal_sched (s : State) (x : Section) :
    (s.beginJournal x).sched.current.runId = x.hdr.runId ∧
    (s.beginJournal x).sched.current.runStart = s.num Reg.sched.runStart ∧
    (s.beginJournal x).sched.active = s.sched.active ∧ (s.beginJournal x).sched.next = s.sched.next := by
  simp [State.beginJournal, apply_ite State.sched]

/-! ### What a change of the slots leaves of the schedule -/

@[simp] theorem slotsChanged_sched (s : State) : s.slotsChanged.sched = s.sched :=
  (slotsChanged_keeps (μ := 0x28028000000000000e2000000150000) (.refl _ s) ⟨by decide +kernel⟩).part .sched (by decide +kernel)

@[simp] theorem raise_sched (s : State) (c i x : Nat) (d : Bytes) : (s.raise c i x d).sched = s.sched :=
  (raise_keeps (m := 0xc0000006) (.refl _ s) ⟨by decide +kernel⟩).part .sched (by decide +kernel)

/-! ### SECTION_LOAD -/

/-- The zones that a served request's admission and its journal record may change. -/
def admissionZones : Nat := footMask ⟨[.mgmt, .sched], [.tally, .replay]⟩

theorem served_keeps_admission (s : State) (h : TallyHdr) (x : Session) : Keeps admissionZones s (s.served h x) :=
  have hm : Sub admissionZones admissionZones := ⟨Nat.or_self _⟩
  bump_keeps (putSession_keeps (.refl _ s))

theorem admission_keeps (s : State) (h : TallyHdr) (x : Session) (i b : Nat) (v : Bytes) :
    Keeps admissionZones s ((s.served h x).journalWrite i b v) :=
  have hm : Sub admissionZones admissionZones := ⟨Nat.or_self _⟩
  journalWrite_keeps (served_keeps_admission s h x)

@[simp] theorem served_sched (s : State) (h : TallyHdr) (x : Session) : (s.served h x).sched = s.sched := by
  rw [State.served, bump_sched]
  rfl

/-- SECTION_LOAD's checks read the same where the slots, the manifest and the recipes stand and no other of their entries is in
the zones of admission. -/
theorem sectionCheck_congr {s t : State} (hK : Keeps admissionZones s t) (hact : t.sched.active = s.sched.active)
    (hnext : t.sched.next = s.sched.next) (hman : t.sched.manifest = s.sched.manifest)
    (hrec : t.sched.recipes = s.sched.recipes) (v : Bytes) :
    t.sectionCheck v = s.sectionCheck v ∧ ∀ x, t.isSlotActive x = s.isSlotActive x := by
  have hlk : t.lookout = s.lookout := hK.part .lookout (by decide +kernel)
  have hskd : t.skd = s.skd := hK.part .skd (by decide +kernel)
  have hcap := (keeps_entry hK .cap (k := Reg.cap.capsetDigest) (by decide +kernel)).2
  have hcheck := (keeps_entry hK .seed (k := Reg.seed.seedCheck) (by decide +kernel)).1
  have hlo := (keeps_entry hK .seed (k := Reg.seed.seedLo) (by decide +kernel)).1
  have hhi := (keeps_entry hK .seed (k := Reg.seed.seedHi) (by decide +kernel)).1
  have hsrc := (keeps_entry hK .permTest (k := Reg.permTest.roundSource) (by decide +kernel)).1
  have htab := (keeps_entry hK .permTest (k := Reg.permTest.roundTable) (by decide +kernel)).2
  have hst := (keeps_entry hK .lk (k := Reg.lk.lkState) (by decide +kernel)).1
  have hpool := (keeps_entry hK .deck (k := Reg.deck.deckPoolBytes) (by decide +kernel)).1
  have hactive (x : Section) : t.isSlotActive x = s.isSlotActive x := by
    simp only [State.isSlotActive, State.lkState, hst, hact, hlk]
  have hsample (e p : Nat) : t.sampleAt e p = s.sampleAt e p := by
    simp only [State.sampleAt, State.ordinalAt, hman, hlo, hhi, hsrc, htab]
  have hplane (r : Nat) (e : Extent) : t.planeBad r e = s.planeBad r e := by
    unfold State.planeBad
    rw [hrec]
  have hextent (x : Section) (r : Nat) (e : Extent) : t.extentRefusal x r e = s.extentRefusal x r e := by
    unfold State.extentRefusal
    rw [hplane, hman, hsample]
  have hextents (x : Section) : t.extentsRefusal x = s.extentsRefusal x := by
    unfold State.extentsRefusal
    simp only [hextent]
  have hclash (n : Nat) : t.subscriberClash n = s.subscriberClash n := by
    simp only [State.subscriberClash, hact, hnext, hskd]
  have hbase : t.chainBase = s.chainBase := by
    unfold State.chainBase State.lkState
    rw [hst, hact, hlk]
  refine ⟨?_, hactive⟩
  simp only [State.sectionCheck, hcap, hcheck, hsrc, hpool, hman, hactive, hextents, hclash, hbase]

/-- The slots after a section that passed its checks was loaded. -/
theorem loadSection_slots (s : State) (x : Section) :
    if s.isSlotActive x then (s.loadSection x).sched.active = some x
    else (s.loadSection x).sched.next = some x ∧ (s.loadSection x).sched.active = s.sched.active := by
  unfold State.loadSection
  split
  · have hbegin (t : State) := (beginJournal_sched t x).2.2.1
    simp [State.journalEpoch, hbegin]
  · have hdrop (t : State) (e : Nat) : (t.dropPrepared e).sched = t.sched :=
      (dropPrepared_keeps (μ := 0x8000000080000000000c0610206) (.refl _ t) ⟨by decide +kernel⟩).part .sched (by decide +kernel)
    dsimp only
    split <;> simp [apply_ite State.sched, hdrop]

/-- SECTION_LOAD's row is a byte string of up to BLOB_MAX that an ADMIN session may write, and it is not persisted. -/
theorem odLocate_sectionLoad (v : Variant) :
    odLocate v 0x4A20 1 = .ok ⟨1, 1, .blob, .wo, 0, 0, 0, 1, false, blobMax, false, false⟩ := by
  cases v <;> decide +kernel

theorem vet_sectionLoad {s : State} {h : TallyHdr} {x : Session} (ht : s.takes h x) (hx : x.admin = true) {v : Bytes}
    (hv : v.length ≤ blobMax) : (s.served h x).vet (.session h.session) 0x4A20 1 v =
      .ok ⟨1, 1, .blob, .wo, 0, 0, 0, 1, false, blobMax, false, false⟩ := by
  have hadmin : (x.accepted h s.now).admin = true := hx
  simp [State.vet, vendorTest, odLocate_sectionLoad, State.mayWrite, served_session ht, Session.isTenant, hadmin,
    OdRow.refusal, OdType.width, Nat.not_lt.mpr hv]

/-- The command's own state keeps what a session's admission changes apart from what its checks read. -/
theorem sectionCheck_served (s : State) (h : TallyHdr) (x : Session) (v : Bytes) :
    (s.served h x).sectionCheck v = s.sectionCheck v ∧ ∀ y, (s.served h x).isSlotActive y = s.isSlotActive y :=
  have hsched := served_sched s h x
  sectionCheck_congr (served_keeps_admission s h x) (by rw [hsched]) (by rw [hsched]) (by rw [hsched]) (by rw [hsched]) v

theorem sectionCheck_journaled (s : State) (h : TallyHdr) (x : Session) (i b : Nat) (w v : Bytes) :
    ((s.served h x).journalWrite i b w).sectionCheck v = s.sectionCheck v ∧
      ∀ y, ((s.served h x).journalWrite i b w).isSlotActive y = s.isSlotActive y := by
  obtain ⟨_, _, _, hj⟩ := journal_sched (s.served h x) 0x0014 0 false (leBytes 2 i ++ leBytes 1 b ++ w)
  refine sectionCheck_congr (admission_keeps s h x i b w) ?_ ?_ ?_ ?_ v <;>
    rw [State.journalWrite, hj, served_sched]

/-- What a load of `v` leaves: the section in its slot and OK, or the code of the check that fails and the slots as they were. -/
def LoadsSection (s : State) (v : Bytes) (t : State) : Prop :=
  match s.sectionCheck v with
  | .error c => t.status = c ∧ t.sched.next = s.sched.next ∧ t.sched.active = s.sched.active
  | .ok x => t.status = 0x4A00 ∧
      if s.isSlotActive x then t.sched.active = some x
      else t.sched.next = some x ∧ t.sched.active = s.sched.active

/-- A served SECTION_LOAD of an ADMIN session through the serializer. -/
theorem odWrite_sectionLoad {s : State} {h : TallyHdr} {x : Session} (ht : s.takes h x) (hx : x.admin = true) {v : Bytes}
    (hv : v.length ≤ blobMax) :
    LoadsSection s v ((s.served h x).odWrite (.session h.session) 0x4A20 1 v fun _ s => s.sectionLoad v) := by
  have hvet := vet_sectionLoad ht hx hv
  unfold LoadsSection
  cases hc : s.sectionCheck v with
  | error c =>
    have happly : (s.served h x).sectionLoad v = .error c := by rw [State.sectionLoad, (sectionCheck_served s h x v).1, hc]
    obtain ⟨d, hd, hdc⟩ := odWrite_refused (w := .session h.session) (i := 0x4A20) (b := 1) (v := v)
      (apply := fun _ s => s.sectionLoad v) (by decide) fun _ => happly
    rw [hd, hdc _ hvet]
    have hrefuse : ((s.served h x).refuse c 0xFF 0xFF).sched = (s.served h x).sched :=
      (refuse_keeps (m := 0xc0400006) (.refl _ _) ⟨by decide +kernel⟩).part .sched (by decide +kernel)
    have hsched := hrefuse.trans (served_sched s h x)
    exact ⟨rfl, by rw [hsched], by rw [hsched]⟩
  | ok y =>
    obtain ⟨hcheck, hact⟩ := sectionCheck_journaled s h x 0x4A20 1 v v
    have happly : (s.served h x).sectionLoad v = .ok ((s.served h x).loadSection y) := by
      rw [State.sectionLoad, (sectionCheck_served s h x v).1, hc]
    have hload : ((s.served h x).journalWrite 0x4A20 1 v).sectionLoad v =
        .ok (((s.served h x).journalWrite 0x4A20 1 v).loadSection y) := by rw [State.sectionLoad, hcheck, hc]
    have hslots := loadSection_slots ((s.served h x).journalWrite 0x4A20 1 v) y
    rw [hact] at hslots
    simp only [State.odWrite, hvet, happly, hload, State.accept]
    refine ⟨rfl, ?_⟩
    simpa [State.journalWrite] using hslots

/-- A write that a session's served request makes is the serializer's, but for the answer. -/
theorem writeVia_served_keeps {s : State} {h : TallyHdr} {x : Session} (ht : s.takes h x) (i b : Nat) (v : Bytes)
    (apply : OdRow → State → Except Nat State) :
    Keeps 0x200004 ((s.served h x).odWrite (.session h.session) i b v apply) (s.writeVia (.tally h) i b v apply) :=
  request_served_keeps (run := fun who s => (s.odWrite who i b v apply, [], some (i * 256 + b))) ht

theorem sectionLoad_completes {s : State} {h : TallyHdr} {x : Session} (hr : s.running) (ht : s.takes h x)
    (hx : x.admin = true) {v : Bytes} (hv : v.length ≤ blobMax) : Gives (.sectionLoad (.tally h) v) s (LoadsSection s v) := by
  refine gives_act (f := fun s => s.writeVia (.tally h) 0x4A20 1 v fun _ s => s.sectionLoad v) hr rfl ?_
  have hkeep := writeVia_served_keeps ht 0x4A20 1 v fun _ s => s.sectionLoad v
  have hload := odWrite_sectionLoad ht hx hv
  unfold LoadsSection at hload ⊢
  rwa [hkeep.part .sched (by decide +kernel), hkeep.part .status (by decide +kernel)]

/-! ### RUN_START and epoch starts -/

theorem schedState_beginJournal (s : State) (x : Section) : (s.beginJournal x).schedState = s.schedState :=
  (keeps_entry (beginJournal_keeps (μ := 0x20800000000000000000000000010) (.refl _ s) ⟨by decide +kernel⟩) .sched
    (k := Reg.sched.state) (by decide +kernel)).1

theorem runStartReached_arms {s : State} {x : Section} (hr : s.running) (hload : s.schedState = schedLoaded)
    (hring : s.num Reg.sched.runStart = s.rc.ring) (hnext : s.sched.next = some x) (hlock : s.rc.state = .locked)
    (hpin : s.schedPinned = true) :
    Gives .runStartReached s fun t =>
      t.schedState = schedArmed ∧ t.sched.current.runId = x.hdr.runId ∧ t.sched.current.runStart = s.rc.ring := by
  refine gives_act (f := State.runStart) hr rfl ?_
  have harm : s.runStart = (s.setN Reg.sched.state schedArmed).beginJournal x := by
    simp [State.runStart, hload, hring, hnext, hlock, hpin]
  obtain ⟨hid, hstart, -, -⟩ := beginJournal_sched (s.setN Reg.sched.state schedArmed) x
  rw [harm]
  refine ⟨(schedState_beginJournal _ x).trans ((num_setN ..).trans (if_pos rfl)), hid, ?_⟩
  rw [hstart, num_setN_ne _ _ (by decide), hring]

theorem leaveVoid_sched (s : State) : s.leaveVoid.sched = s.sched ∧ s.leaveVoid.schedState = s.schedState :=
  have hK := leaveVoid_keeps (μ := 0x280000000020) (.refl _ s) ⟨by decide +kernel⟩
  ⟨hK.part .sched (by decide +kernel), (keeps_entry hK .sched (k := Reg.sched.state) (by decide +kernel)).1⟩

@[simp] theorem advanceKeys_sched (s : State) : s.advanceKeys.sched = s.sched :=
  (advanceKeys_keeps (μ := 0x100000) (.refl _ s) ⟨by decide +kernel⟩).part .sched (by decide +kernel)

@[simp] theorem lookoutEpoch_sched (s : State) : s.lookoutEpoch.sched = s.sched :=
  (lookoutEpoch_keeps (μ := 0x8000000000000000e2000000050000) (.refl _ s) ⟨by decide +kernel⟩).part .sched (by decide +kernel)

theorem enterEpoch_slots (s : State) (x : Section) :
    (s.enterEpoch x).sched.active = some x ∧ (s.enterEpoch x).sched.next = none := by
  simp [State.enterEpoch, State.journalEpoch, apply_ite State.sched]

theorem epochStart_activates {s : State} {x : Section} (hr : s.running) (hring : s.nextStart = s.rc.ring)
    (hrun : s.schedState = schedArmed ∨ s.schedState = schedRunning ∨ s.schedState = schedReplay)
    (hnext : s.sched.next = some x) (hver : x.verified = true) :
    Gives .epochStart s fun t => t.sched.active = some x ∧ t.sched.next = none := by
  refine gives_act (f := State.epochStarts) hr rfl ?_
  obtain ⟨hsched, hstate⟩ := leaveVoid_sched s
  have hdue : s.epochDue = true := by rw [State.epochDue, hring, beq_self_eq_true, Bool.true_or]
  have henter : s.epochStarts = s.leaveVoid.enterEpoch x := by
    have hin : ¬(s.leaveVoid.schedState ≠ schedArmed ∧ s.leaveVoid.schedState ≠ schedRunning ∧
        s.leaveVoid.schedState ≠ schedReplay) := by
      rw [hstate]
      exact fun ⟨harmed, hrunning, hreplay⟩ => hrun.elim harmed (·.elim hrunning hreplay)
    unfold State.epochStarts
    rw [if_neg (by simp [hdue])]
    dsimp only
    rw [if_neg hin, hsched, hnext]
    exact if_pos hver
  rw [henter]
  exact enterEpoch_slots _ x

/-! ### Step digests -/

@[simp] theorem diverged_digested (s : State) (step : Nat) : (s.diverged step).sched.digested = s.sched.digested := by
  unfold State.diverged
  dsimp only
  split <;> split <;> simp

theorem stepDigest_notes {s : State} {x : Section} {step : Nat} (hr : s.running) (hact : s.sched.active = some x)
    (hstart : s.started = true) (hstep : step < x.hdr.steps) (hnow : step ≤ s.stepNow)
    (hnew : s.sched.digested.contains (x.hdr.epoch, step) = false) :
    Gives (.stepDigest step) s fun t =>
      t.sched.digested = (s.sched.digested.filter fun p => p.1 == x.hdr.epoch) ++ [(x.hdr.epoch, step)] := by
  refine gives_act (f := fun s => s.stepDigest step) hr rfl ?_
  have hdue : ¬((!s.started) = true ∨ x.hdr.steps ≤ step ∨ s.stepNow < step ∨
      s.sched.digested.contains (x.hdr.epoch, step) = true) := by
    rw [hnew, hstart]
    simp only [Bool.not_true, Bool.false_eq_true, or_false, false_or]
    omega
  simp only [State.stepDigest, hact, if_neg hdue]
  split
  · split <;> simp
  · simp

/-! ### Replay -/

/-- The record that REPLAY_INJECT names, at its instant: it is marked injected and takes effect by its type. -/
theorem replayInject_due {s : State} {j : RunJournal} {r : JRecord} {q : Nat} (hj : s.replayJournal = some j)
    (hr : (j.records.find? fun r => r.sequence == q) = some r) (hstate : s.schedState = schedReplay)
    (hnew : s.sched.injected.contains q = false)
    (hdue : (s.num Reg.sched.runStart + (r.ring - j.runStart)) * 1024 + r.grain ≤ s.rc.ring * 1024 + s.grain) :
    s.replayInject q = (match r.type with
      | 0x14 => (s.putSched { s.sched with injected := s.sched.injected ++ [q] }).injectWrite r.payload
      | 0x13 => (s.putSched { s.sched with injected := s.sched.injected ++ [q] }).injectItem r.payload
      | _ => s.putSched { s.sched with injected := s.sched.injected ++ [q], replayed := s.sched.replayed ++ [r] }) := by
  have hgo : ¬(s.schedState ≠ schedReplay ∨ s.sched.injected.contains q = true ∨ s.rc.ring * 1024 + s.grain <
      (s.num Reg.sched.runStart + (r.ring - j.runStart)) * 1024 + r.grain) := by
    rw [hnew, hstate]
    simp only [ne_eq, not_true_eq_false, Bool.false_eq_true, false_or]
    omega
  unfold State.replayInject
  rw [hj]
  dsimp only
  rw [hr]
  exact if_neg hgo

theorem replayInject_lists {s : State} {j : RunJournal} {r : JRecord} {q : Nat} (hrun : s.running)
    (hj : s.replayJournal = some j) (hr : (j.records.find? fun r => r.sequence == q) = some r)
    (hstate : s.schedState = schedReplay) (hnew : s.sched.injected.contains q = false)
    (hdue : (s.num Reg.sched.runStart + (r.ring - j.runStart)) * 1024 + r.grain ≤ s.rc.ring * 1024 + s.grain)
    (hitem : r.type ≠ 0x13) (hwrite : r.type ≠ 0x14) : Gives (.replayInject q) s fun t =>
      t.sched.injected = s.sched.injected ++ [q] ∧ t.sched.replayed = s.sched.replayed ++ [r] := by
  refine gives_act (f := fun s => s.replayInject q) hrun rfl ?_
  rw [replayInject_due hj hr hstate hnew hdue]
  split
  · next h => exact absurd h hwrite
  · next h => exact absurd h hitem
  · exact ⟨rfl, rfl⟩

/-- The row of the SMBus alert's mask. -/
theorem odLocate_smbAlertMask (v : Variant) :
    odLocate v 0x1110 2 = .ok ⟨2, 1, .u16, .rw, 1023, 0, 65535, 1, false, 0, false, false⟩ := by
  cases v <;> decide +kernel

/-- A recorded write of the alert's mask stores its value. -/
theorem injectWrite_smbAlertMask (s : State) {v : Bytes} (hv : v.length = 2) :
    s.injectWrite ([0x10, 0x11, 2] ++ v) = s.storeN Reg.smb.smbAlertMask (leNat v) := by
  obtain ⟨a, b, rfl⟩ : ∃ a b, v = [a, b] := List.length_eq_two.mp hv
  have hidx : leAt ([0x10, 0x11, 2] ++ [a, b]) 0 2 = 0x1110 := rfl
  have hsub : leAt ([0x10, 0x11, 2] ++ [a, b]) 2 1 = 2 := rfl
  simp only [State.injectWrite, hidx, hsub, odLocate_smbAlertMask]
  rfl

theorem num_storeN (s : State) (k v : Nat) : (s.storeN k v).num k = v :=
  (sparse_get_set ..).trans (if_pos rfl)

theorem replayInject_writes {s : State} {j : RunJournal} {r : JRecord} {q : Nat} {v : Bytes} (hrun : s.running)
    (hj : s.replayJournal = some j) (hr : (j.records.find? fun r => r.sequence == q) = some r)
    (hstate : s.schedState = schedReplay) (hnew : s.sched.injected.contains q = false)
    (hdue : (s.num Reg.sched.runStart + (r.ring - j.runStart)) * 1024 + r.grain ≤ s.rc.ring * 1024 + s.grain)
    (hv : v.length = 2) (htype : r.type = 0x14) (hpay : r.payload = [0x10, 0x11, 2] ++ v) : Gives (.replayInject q) s fun t =>
      t.sched.injected = s.sched.injected ++ [q] ∧ t.num Reg.smb.smbAlertMask = leNat v := by
  refine gives_act (f := fun s => s.replayInject q) hrun rfl ?_
  rw [replayInject_due hj hr hstate hnew hdue, htype, hpay]
  dsimp only
  rw [injectWrite_smbAlertMask _ hv]
  exact ⟨rfl, num_storeN ..⟩

/-! ### Entries of the deck -/

theorem entry_key {s : State} {k : FragKey} {e : DeckEntry} (he : s.entry? k = some e) : e.key = k := by
  simpa using List.find?_some he

/-- The entry as it is found after it was put back. -/
theorem entry_putEntry {s : State} {e : DeckEntry} (he : (s.entry? e.key).isSome) : (s.putEntry e).entry? e.key = some e := by
  unfold State.putEntry State.entry? at *
  rw [putDeck_deck]
  revert he
  induction s.deck.entries with
  | nil => intro he; cases he
  | cons y l ih =>
    intro he
    simp only [List.map_cons, List.find?_cons] at he ⊢
    by_cases hy : y.key = e.key
    · simp [hy]
    · simp only [hy, if_false]
      rw [show (y.key == e.key) = false from by simpa using hy] at he ⊢
      exact ih he

theorem entry_congr {s t : State} (h : t.deck.entries = s.deck.entries) (k : FragKey) : t.entry? k = s.entry? k := by
  rw [State.entry?, h, State.entry?]

/-! ### FRAGMENT_LAUNCH -/

theorem launchReport_entries (s : State) (k : FragKey) (c : LateCause) (g : Nat) :
    (s.launchReport k c g).deck.entries = s.deck.entries := by
  unfold State.launchReport
  split
  · rfl
  · dsimp only
    split <;> rfl

theorem num_launchReport (s : State) (k : FragKey) (c : LateCause) (g j : Nat) : (s.launchReport k c g).num j = s.num j := by
  unfold State.launchReport
  split
  · rfl
  · dsimp only
    split <;> rfl

theorem num_bump (s : State) (k j : Nat) : (s.bump k).num j = if j = k then wrap 64 (s.num k + 1) else s.num j := num_setN ..

/-- Counting a launch's lateness leaves the entries and LAUNCHES. -/
theorem countLate_entries (s : State) (e : DeckEntry) (hold : Nat) :
    (s.countLate e hold).deck.entries = s.deck.entries ∧
      (s.countLate e hold).num Reg.launch.launches = s.num Reg.launch.launches := by
  have hmax (v : Nat) : (s.setN Reg.launch.maxLateGrains v).num Reg.launch.launches = s.num Reg.launch.launches :=
    num_setN_ne _ _ (by decide)
  have hdeck (t : State) (b : Bool) : (t.bumpIf b Reg.launch.lateDeck).num Reg.launch.launches = t.num Reg.launch.launches := by
    cases b
    · rfl
    · exact num_setN_ne _ _ (by decide)
  have hrefresh (t : State) : (t.bump Reg.launch.lateRefresh).num Reg.launch.launches = t.num Reg.launch.launches :=
    num_setN_ne _ _ (by decide)
  unfold State.countLate
  dsimp only
  split
  · exact ⟨rfl, rfl⟩
  · split
    · simp [launchReport_entries, num_launchReport, hdeck, hmax]
    · split
      · split <;> simp [launchReport_entries, num_launchReport, hrefresh, hmax]
      · simp [hmax]

/-- The packets of a fragment are of the memory and the device alone. -/
theorem fragPkts_congr {s t : State} (hmem : t.mem = s.mem) (hdev : t.dev = s.dev) (c : Conn) (e : DeckEntry) (x : Section) :
    t.fragPkts c e x = s.fragPkts c e x := by
  have hpool (p : Nat) : t.pool p = s.pool p := by rw [State.pool, State.pool, hmem, hdev]
  have hbuf (h : Nat) : t.buf? h = s.buf? h := by rw [State.buf?, State.buf?, hpool]
  have hbytes : t.entryBytes e = s.entryBytes e := by
    unfold State.entryBytes State.bufRead
    rw [hpool, hbuf]
  unfold State.fragPkts
  rw [hbytes]

/-- The unit's buffer passes to the Skidder; the deck and the LAUNCH object stand. -/
theorem unitPass_deck (s : State) (h w : Nat) :
    (s.unitPass h w).deck = s.deck ∧ (s.unitPass h w).num Reg.launch.launches = s.num Reg.launch.launches :=
  have hK := unitPass_keeps (μ := 0x8000000000000000200) (h := h) (owner := w) (.refl _ s) ⟨by decide +kernel⟩
  ⟨hK.part .deck (by decide +kernel), (keeps_entry hK .launch (k := Reg.launch.launches) (by decide +kernel)).1⟩

/-- The entry of a fragment of `n` packets sent in ring `ring` (R249, R316). -/
def sentEntry (e : DeckEntry) (n ring : Nat) : DeckEntry :=
  { e with
    state := .sent, unacked := n, prefetched := true
    retain := if e.retain ≤ ring then e.retain + (ring - e.ring) else e.retain }

theorem sendFragment_entries (s : State) (c : Conn) (e : DeckEntry) (x : Section) : (s.sendFragment c e x).deck.entries =
    (s.putEntry (sentEntry e (s.fragPkts c e x).length s.rc.ring)).deck.entries := by
  simp only [State.sendFragment, bump_deck, unitPass_deck]
  rfl

/-- A fragment sent: its entry is SENT with its packets unacknowledged, and LAUNCHES counts it. -/
theorem sendFragment_sent {s : State} {k : FragKey} {e : DeckEntry} (c : Conn) (x : Section) (he : s.entry? k = some e) :
    (∃ f, (s.sendFragment c e x).entry? k = some f ∧ f.state = .sent ∧ f.unacked = (s.fragPkts c e x).length) ∧
    (s.sendFragment c e x).num Reg.launch.launches = wrap 64 (s.num Reg.launch.launches + 1) := by
  have hkey := entry_key he
  subst hkey
  refine ⟨⟨sentEntry e (s.fragPkts c e x).length s.rc.ring, ?_, rfl, rfl⟩, ?_⟩
  · rw [entry_congr (sendFragment_entries s c e x)]
    exact entry_putEntry (e := sentEntry e _ _) (Option.isSome_of_eq_some he)
  · have hother : Reg.launch.launches ≠ Reg.buck.flaggedWrites := by decide
    simp only [State.sendFragment, num_bump, hother, if_false, if_true, unitPass_deck]
    rfl

theorem fragmentLaunch_sends {s : State} {k : FragKey} {e : DeckEntry} {x : Section} {start hold : Nat} {c : Conn}
    (hl : s.alive) (he : s.entry? k = some e) (hx : s.sectionOf k.epoch = some (x, start))
    (hc : s.delivery k.consumer = some c) (hready : e.state = .ready) (hdue : instant e.ring e.grain ≤ s.nowGrain)
    (hrun : s.schedState = 3 ∨ s.schedState = 5) (hmay : s.mayLaunch k = true) (hroce : c.roce = false)
    (hclean : s.bufPoisoned e.mem 0 e.frag.length = false) (hup : s.num (Reg.portStat.linkUp c.port) ≠ 0) :
    Gives (.fragmentLaunch k hold) s fun t =>
      (∃ f, t.entry? k = some f ∧ f.state = .sent ∧ f.unacked = (s.fragPkts c e x).length) ∧
      t.num Reg.launch.launches = wrap 64 (s.num Reg.launch.launches + 1) := by
  refine gives_live (f := fun s => s.launch k hold) hl rfl ?_
  have hgo : ¬(e.state ≠ .ready ∨ s.nowGrain < instant e.ring e.grain ∨ ¬(s.schedState = 3 ∨ s.schedState = 5) ∨
      (!s.mayLaunch k) = true ∨ (c.roce = true ∧ 2 ≤ e.attempt)) := by
    simp [hready, hdue, hrun, hmay, hroce]
  have hflag : ¬((!s.flag (Reg.portStat.linkUp c.port)) = true) := by simp [State.flag, hup]
  have hsent : s.launch k hold = (s.countLate e hold).sendFragment c e x := by
    unfold State.launch
    rw [he, hx, hc]
    dsimp only
    rw [if_neg hgo, hclean, if_neg Bool.false_ne_true, if_neg hflag]
  have hK := countLate_keeps (μ := 0x400000250000) (e := e) (hold := hold) (.refl _ s) ⟨by decide +kernel⟩
  obtain ⟨hentries, hcount⟩ := countLate_entries s e hold
  have hpkts := fragPkts_congr (hK.part .mem (by decide +kernel)) (hK.part .dev (by decide +kernel)) c e x
  have hall := sendFragment_sent c x ((entry_congr hentries k).trans he)
  rwa [hpkts, hcount, ← hsent] at hall

/-! ### LAUNCH_PREFETCH and RETENTION_END -/

theorem launchPrefetch_marks {s : State} {k : FragKey} {e : DeckEntry} (hl : s.alive) (he : s.entry? k = some e)
    (hready : e.state = .ready) (hdue : instant e.ring e.grain ≤ s.nowGrain + s.num Reg.launch.launchPrefetch) :
    Gives (.launchPrefetch k) s fun t => t.entry? k = some { e with prefetched := true } := by
  refine gives_live (f := fun s => s.prefetch k) hl rfl ?_
  have hkey := entry_key he
  have hgo : ¬(e.state ≠ .ready ∨ s.nowGrain + s.num Reg.launch.launchPrefetch < instant e.ring e.grain) := by
    simp [hready, hdue]
  have hput : s.prefetch k = s.putEntry { e with prefetched := true } := by
    unfold State.prefetch
    rw [he]
    exact if_neg hgo
  subst hkey
  rw [hput]
  exact entry_putEntry (e := { e with prefetched := true }) (Option.isSome_of_eq_some he)

/-- An entry freed is in the deck no more. -/
theorem entry_freeEntry (s : State) (e : DeckEntry) : (s.freeEntry e).entry? e.key = none := by
  have hregs (t : State) : t.deckRegs.deck = t.deck :=
    (deckRegs_keeps (μ := 0x800000000000000000000000000) (.refl _ t) ⟨by decide +kernel⟩).part .deck (by decide +kernel)
  have hfree (t : State) : (t.unitFree e.mem).deck = t.deck :=
    (unitFree_keeps (μ := 0x80000000000c0600206) (.refl _ t) ⟨by decide +kernel⟩).part .deck (by decide +kernel)
  rw [State.entry?, State.freeEntry, hregs, hfree, putDeck_deck, List.find?_eq_none]
  intro y hy
  simpa using (List.mem_filter.mp hy).2

theorem retentionEnd_frees {s : State} {k : FragKey} {e : DeckEntry} (hl : s.alive) (he : s.entry? k = some e)
    (hend : e.retain ≤ s.rc.ring) (hstate : e.state = .retained) :
    Gives (.retentionEnd k) s fun t => t.entry? k = none := by
  refine gives_live (f := fun s => s.retention k) hl rfl ?_
  have hkey := entry_key he
  have hfree : s.retention k = s.freeEntry e := by
    unfold State.retention
    rw [he]
    dsimp only
    rw [if_neg (Nat.not_lt.mpr hend), hstate]
  subst hkey
  rw [hfree]
  exact entry_freeEntry s e

/-- Settles O21, command by command. -/
theorem scheduleAndLaunchCommandsComplete : Obligations.ScheduleAndLaunchCommandsComplete := by
  intro s _ hl
  refine ⟨fun _ _ _ ht hx hv => sectionLoad_completes hl.1 ht hx hv,
    fun _ hload hring hnext hlock hpin => runStartReached_arms hl.1 hload hring hnext hlock hpin,
    fun _ hring hrun hnext hver => epochStart_activates hl.1 hring hrun hnext hver,
    fun _ _ hact hstart hstep hnow hnew => stepDigest_notes hl.1 hact hstart hstep hnow hnew,
    fun _ _ _ hj hr hstate hnew hdue => ⟨?_, ?_⟩,
    fun _ _ _ _ _ _ he hx hc hready hdue hrun hmay hroce hclean hup =>
      fragmentLaunch_sends hl he hx hc hready hdue hrun hmay hroce hclean hup,
    fun _ _ he hready hdue => launchPrefetch_marks hl he hready hdue,
    fun _ _ he hend hstate => retentionEnd_frees hl he hend hstate⟩
  · exact fun hitem hwrite => replayInject_lists hl.1 hj hr hstate hnew hdue hitem hwrite
  · exact fun _ hv htype hpay => replayInject_writes hl.1 hj hr hstate hnew hdue hv htype hpay

end Sys2Proof.Proofs
end

section
/-! The ring count (R77 to R89, R601): what an idle cycle, a ring boundary, a Sync and the transitions of RC_STATE leave of the
count, of the servo and of the causes of VOID. -/
namespace Sys2Proof.Proofs
open Sys2Proof.Machine Sys2Proof.Laws

/-! ### The ring count's own entries, and the units that leave it alone -/

/-- Every zone but one part. -/
def allBut (p : Part) : Nat := 2 ^ 127 - 1 - 2 ^ partBit p

theorem rc_of_keeps {s t : State} (h : Keeps (allBut .rc) s t) : t.rc = s.rc := h.part .rc (by decide +kernel)

@[simp] theorem rcRegs_rc (s : State) : s.rcRegs.rc = s.rc := rc_of_keeps (rcRegs_keeps (.refl _ s) ⟨by decide +kernel⟩)

@[simp] theorem raise_rc (s : State) (c i x : Nat) (d : Bytes) : (s.raise c i x d).rc = s.rc :=
  rc_of_keeps (raise_keeps (.refl _ s) ⟨by decide +kernel⟩)

@[simp] theorem journal_rc (s : State) (a b : Nat) (r : Bool) (p : Bytes) : (s.journal a b r p).rc = s.rc :=
  rc_of_keeps (journal_keeps (.refl _ s) ⟨by decide +kernel⟩)

@[simp] theorem calendarLeave_rc (s : State) : s.calendarLeave.rc = s.rc := rfl

@[simp] theorem calendarLock_rc (s : State) : s.calendarLock.rc = s.rc :=
  rc_of_keeps (calendarLock_keeps (.refl _ s) ⟨by decide +kernel⟩)

@[simp] theorem declareAway_rc (s : State) (what : Nat) : (s.declareAway what).rc = s.rc :=
  rc_of_keeps (declareAway_keeps (.refl _ s) ⟨by decide +kernel⟩)

@[simp] theorem declareBack_rc (s : State) : s.declareBack.rc = s.rc :=
  rc_of_keeps (declareBack_keeps (.refl _ s) ⟨by decide +kernel⟩)

@[simp] theorem startSettle_rc (s : State) : s.startSettle.rc = s.rc :=
  rc_of_keeps (startSettle_keeps (.refl _ s) ⟨by decide +kernel⟩)

@[simp] theorem standRing_rc (s : State) : s.standRing.rc = s.rc :=
  rc_of_keeps (standRing_keeps (.refl _ s) ⟨by decide +kernel⟩)

@[simp] theorem settingsResend_rc (s : State) : s.settingsResend.rc = s.rc :=
  rc_of_keeps (settingsResend_keeps (.refl _ s) ⟨by decide +kernel⟩)

@[simp] theorem deckRing_rc (s : State) : s.deckRing.rc = s.rc :=
  rc_of_keeps (deckRing_keeps (.refl _ s) ⟨by decide +kernel⟩)

@[simp] theorem creditRing_rc (s : State) : s.creditRing.rc = s.rc :=
  rc_of_keeps (creditRing_keeps (.refl _ s) ⟨by decide +kernel⟩)

@[simp] theorem lookoutRing_rc (s : State) : s.lookoutRing.rc = s.rc :=
  rc_of_keeps (lookoutRing_keeps (.refl _ s) ⟨by decide +kernel⟩)

@[simp] theorem pllRing_rc (s : State) : s.pllRing.rc = s.rc :=
  rc_of_keeps (pllRing_keeps (.refl _ s) ⟨by decide +kernel⟩)

@[simp] theorem coolingRegs_rc (s : State) : s.coolingRegs.rc = s.rc :=
  rc_of_keeps (coolingRegs_keeps (.refl _ s) ⟨by decide +kernel⟩)

@[simp] theorem secondsRing_rc (s : State) : s.secondsRing.rc = s.rc :=
  rc_of_keeps (secondsRing_keeps (.refl _ s) ⟨by decide +kernel⟩)

@[simp] theorem clearCause_rc (s : State) (c : VoidCause) :
    (s.clearCause c).rc = { s.rc with causes := s.rc.causes.filter fun d => d != c } := by
  rw [State.clearCause, rcRegs_rc, putRc_rc]

/-- RC_STATE follows the unit. -/
theorem num_rcRegs_rcState (s : State) : s.rcRegs.num Reg.rc.rcState = s.rc.state.code := by
  have hxchk : Reg.rc.rcState ≠ Reg.xchk.peersUsed ∧ Reg.rc.rcState ≠ Reg.xchk.peerMedianGrains := by decide
  have hrc : Reg.rc.rcState ≠ Reg.rc.voidCause ∧ Reg.rc.rcState ≠ Reg.rc.offsetNs ∧ Reg.rc.rcState ≠ Reg.rc.rateCorr := by
    decide
  simp [State.rcRegs, num_setN, hxchk, hrc]

/-- The zones of the ring count: its unit and its objects, 0x2100 and 0x2102. -/
def rcZones : Nat := footMask ⟨[.rc], [.rc, .xchk]⟩

/-! ### A ring boundary (R79, R80) -/

/-- What RING_BEGIN determines of the ring count: the count, the cycles of the ring, its length, the slips due, the uptime. -/
def counted (x : RingCount) : Nat × Nat × Nat × Int × Nat := (x.ring, x.cyc, x.len, x.pending, x.upCycles)

theorem clearCause_counted (s : State) (c : VoidCause) (p : Prop) [Decidable p] :
    counted (if p then s.clearCause c else s).rc = counted s.rc := by
  split
  · rw [clearCause_rc]
    rfl
  · rfl

theorem crossCheck_counted (s : State) : counted s.crossCheck.rc = counted s.rc := by
  unfold State.crossCheck
  dsimp only
  split
  · rfl
  · rw [rcRegs_rc]
    exact (clearCause_counted ..).trans ((clearCause_counted ..).trans rfl)

/-- What runs at grain 0 of a ring leaves the count as it is. -/
theorem ringHooks_counted (s : State) : counted s.ringHooks.rc = counted s.rc := by
  unfold State.ringHooks
  split
  · simp
  · dsimp only
    rw [← crossCheck_counted s]
    split <;> simp [counted]

/-- The next ring has a cycle more or fewer where a slip is due, which it consumes. -/
theorem next_counted (x : RingCount) : counted x.next =
    (wrap 64 (x.ring + 1), 0, if 0 < x.pending then 1025 else if x.pending < 0 then 1023 else 1024,
      if 0 < x.pending then x.pending - 1 else if x.pending < 0 then x.pending + 1 else 0, x.upCycles) := by
  unfold RingCount.next
  dsimp only
  split
  · rfl
  · split
    · rfl
    · have hzero : x.pending = 0 := by omega
      simp [counted, hzero]

theorem ringBegin_counted (s : State) :
    counted s.ringBegin.rc = counted (RingCount.ticks (s.rc.len - s.rc.cyc) s.rc).next := by
  simp [State.ringBegin, ringHooks_counted]

theorem ringBegin_begins {s : State} (hr : s.running) : Gives .ringBegin s fun t =>
    let x := RingCount.ticks (s.rc.len - s.rc.cyc) s.rc
    t.rc.ring = wrap 64 (x.ring + 1) ∧ t.rc.cyc = 0 ∧ t.rc.upCycles = x.upCycles ∧
    t.rc.len = (if 0 < x.pending then 1025 else if x.pending < 0 then 1023 else 1024) ∧
    t.rc.pending = (if 0 < x.pending then x.pending - 1 else if x.pending < 0 then x.pending + 1 else 0) := by
  refine gives_act (f := State.ringBegin) hr rfl ?_
  have hcount := (ringBegin_counted s).trans (next_counted _)
  simp only [counted, Prod.mk.injEq] at hcount
  obtain ⟨hring, hcyc, hlen, hpending, hup⟩ := hcount
  exact ⟨hring, hcyc, hup, hlen, hpending⟩

/-! ### An empty queue -/

theorem step_nil {s : State} (hq : s.pending = []) : step s = .next s.idle := by rw [step, hq]

/-- Settles O2: by what an idle cycle does to a device that is stopped, within a ring, and at the end of one. -/
theorem anEmptyQueuePassesOneCycle : Obligations.AnEmptyQueuePassesOneCycle := by
  intro s hq
  rw [step_nil hq]
  refine ⟨fun hstop => ?_, fun hr hin => ?_, fun hr hend => ?_⟩
  · rw [State.idle, if_pos hstop]
  · have hidle : s.idle = s.putRc s.rc.tick := by rw [State.idle, hr, if_neg Bool.false_ne_true, if_pos hin]
    rw [hidle]
    exact ⟨_, rfl, rfl, rfl, rfl, rfl, rfl⟩
  · have hidle : s.idle = s.ringBegin := by
      rw [State.idle, hr, if_neg Bool.false_ne_true, if_neg (Nat.not_lt.mpr hend)]
    rw [hidle]
    exact (act_run hr State.ringBegin).symm

/-! ### VOID and the transitions of RC_STATE (R85, R88, R601) -/

/-- A device with a new cause of VOID is in VOID, that cause in front. -/
theorem enterVoid_rc (s : State) (c : VoidCause) :
    (s.enterVoid c).rc.state = .void ∧ (s.enterVoid c).rc.causes = c :: s.rc.causes.filter fun d => d != c := by
  unfold State.enterVoid
  dsimp only
  split
  · next hvoid => exact ⟨by simpa using hvoid, by simp⟩
  · split <;> simp

theorem becomeLocked_rc (s : State) :
    s.becomeLocked.rc = { s.rc.fold (s.num Reg.ptp.ki) with state := .locked, outlierRun := 0, gmRun := 0 } := by
  simp [State.becomeLocked]

theorem rcLocked_locks {s : State} (hr : s.running) (hacq : s.rc.state = .acquiring) (hrun : 64 ≤ s.rc.okRun) :
    Gives .rcLocked s fun t => t.rc.state = .locked ∧ t.rc.integ = 0 ∧
      t.rc.baseCorr = i64 (s.rc.baseCorr + (i64 ((s.num Reg.ptp.ki : Int) * s.rc.integ * 2 ^ 40)).tdiv 1000000000) := by
  refine gives_act (f := fun s => if s.rc.state = .acquiring ∧ 64 ≤ s.rc.okRun then s.becomeLocked else s) hr rfl ?_
  rw [if_pos ⟨hacq, hrun⟩, becomeLocked_rc]
  exact ⟨rfl, rfl, rfl⟩

theorem syncTimeout_holds {s : State} {n : Nat} (hr : s.running) (hlock : s.rc.state = .locked)
    (hsync : s.rc.sinceSync = some n) (hlate : 3 * s.syncInterval ≤ n) :
    Gives .syncTimeout s fun t => t.rc = { s.rc with state := .holdover, holdRings := 0 } ∧ t.num Reg.rc.rcState = 3 := by
  refine gives_act (f := fun s => if s.rc.state = .locked ∧ (s.rc.sinceSync.getD 0) ≥ 3 * s.syncInterval then
    (s.calendarLeave.putRc { s.rc with state := .holdover, holdRings := 0 }).rcRegs else s) hr rfl ?_
  rw [if_pos ⟨hlock, by rw [hsync]; exact hlate⟩]
  exact ⟨by simp, num_rcRegs_rcState _⟩

/-- A transition to VOID whose condition holds. -/
theorem gives_void {cmd : Instr} {s : State} {p : State → Prop} {c : VoidCause} [DecidablePred p] (hr : s.running) (hp : p s)
    (hcmd : exec cmd s = act s fun s => if p s then s.enterVoid c else s) :
    Gives cmd s fun t => t.rc.state = .void ∧ t.rc.causes = c :: s.rc.causes.filter fun d => d != c := by
  refine gives_act hr hcmd ?_
  rw [if_pos hp]
  exact enterVoid_rc s c

/-! ### PTP_SYNC (R84, R86) -/

/-- OFFSET of a Sync: the offset measured less ASYM_NS. -/
def syncOffset (s : State) (measured : Int) : Int := measured - i32Val (s.num Reg.ptp.asymNs)

/-- A Sync is noted, before the state of the ring count decides what it does: a slew ends, and HOLDOVER_EXPIRED clears. -/
def noteSync (s : State) (off : Int) : State :=
  (s.putRc { s.rc.endSlew with sinceSync := some 0, offsetNs := clampTo (2 ^ 31 - 1) off }).clearCause .holdoverExpired

/-- The end of a slew changes the rate alone. -/
theorem endSlew_eq (x : RingCount) : ∃ r k, x.endSlew = { x with rateCorr := r, slewTicks := k } := by
  unfold RingCount.endSlew
  split
  · exact ⟨_, _, rfl⟩
  · exact ⟨_, _, rfl⟩

/-- A noted Sync leaves the count, the state and the servo's sums. -/
theorem noteSync_rc (s : State) (off : Int) : ∃ r k o l,
    (noteSync s off).rc = { s.rc with rateCorr := r, slewTicks := k, sinceSync := some 0, offsetNs := o, causes := l } := by
  obtain ⟨r, k, hslew⟩ := endSlew_eq s.rc
  refine ⟨r, k, clampTo (2 ^ 31 - 1) off, s.rc.causes.filter fun d => d != .holdoverExpired, ?_⟩
  rw [noteSync, clearCause_rc, putRc_rc, hslew]

theorem noteSync_keeps (s : State) (off : Int) : Keeps rcZones s (noteSync s off) :=
  have hm : Sub rcZones rcZones := ⟨Nat.or_self _⟩
  clearCause_keeps (putRc_keeps (.refl _ s))

theorem num_of_keeps_rcZones {s t : State} (h : Keeps rcZones s t) {k : Nat} (hk : entryOutside rcZones .ptp k = true) :
    t.num k = s.num k := (keeps_entry h .ptp hk).1

theorem inRun_of_keeps_rcZones {s t : State} (h : Keeps rcZones s t) : t.inRun = s.inRun := by
  have hstate : t.schedState = s.schedState := (keeps_entry h .sched (by decide +kernel)).1
  simp only [State.inRun, hstate]

/-- In UNSET a Sync sets the ring count and starts its acquisition (R77). -/
theorem ptpSync_unset {s : State} {m : Int} {tai : Nat} (hen : s.flag Reg.ptp.ptpEnable = true) (hst : s.rc.state = .unset) :
    s.ptpSync m tai = (((noteSync s (syncOffset s m)).stepRing tai (syncOffset s m)).putRc
      { ((noteSync s (syncOffset s m)).stepRing tai (syncOffset s m)).rc with state := .acquiring }).rcRegs := by
  obtain ⟨_, _, _, _, hrc⟩ := noteSync_rc s (syncOffset s m)
  have hunset : (noteSync s (syncOffset s m)).rc.state = .unset := by rw [hrc]; exact hst
  unfold State.ptpSync
  rw [hen, if_neg (by decide)]
  exact if_pos hunset

/-- In no state but HOLDOVER does a Sync resume. -/
theorem resumeSync_of_ne {s : State} (off : Int) (hst : s.rc.state ≠ .holdover) : s.resumeSync off = s := if_pos hst

/-- A Sync within STEP_THRESHOLD_NS: the servo takes the offset, and the run of R85 counts on or starts again (R84). -/
def servoSync (t : State) (off : Int) : State :=
  let s := t.clearCause .stepWithheld
  let x := s.rc.servo (s.num Reg.ptp.kp) (s.num Reg.ptp.ki) off
  let run := if s.rc.state = .acquiring ∧ off.natAbs ≤ 20 then x.okRun + 1 else 0
  let s := (s.putRc { x with okRun := run }).rcRegs
  s.journal 0x0020 0 false (leBytes 4 (i32Bits off) ++ leBytes 4 (i32Bits s.rc.rateCorr))

theorem servoSync_rc (t : State) (off : Int) : ∃ l, (servoSync t off).rc =
    { t.rc.servo (t.num Reg.ptp.kp) (t.num Reg.ptp.ki) off with
      causes := l, okRun := if t.rc.state = .acquiring ∧ off.natAbs ≤ 20 then t.rc.okRun + 1 else 0 } := by
  have hclear : Keeps rcZones t (t.clearCause .stepWithheld) :=
    clearCause_keeps (.refl _ t) ⟨by decide +kernel⟩
  refine ⟨t.rc.causes.filter fun d => d != .stepWithheld, ?_⟩
  simp only [servoSync, journal_rc, rcRegs_rc, putRc_rc, clearCause_rc,
    num_of_keeps_rcZones hclear (k := Reg.ptp.kp) (by decide +kernel),
    num_of_keeps_rcZones hclear (k := Reg.ptp.ki) (by decide +kernel)]
  rfl

/-- A Sync whose step is withheld in a run: VOID, and the offset is slewed (R86). -/
def slewSync (t : State) (off : Int) : State :=
  let s := t.enterVoid .stepWithheld
  (s.putRc { s.rc.slew off with okRun := 0 }).rcRegs

/-- What a Sync does once the ring count is set: the servo within STEP_THRESHOLD_NS, a step or a slew beyond it. -/
def steerSync (t : State) (tai : Nat) (off : Int) : State :=
  if t.num Reg.ptp.stepThresholdNs < off.natAbs then
    if t.inRun then slewSync t off else (t.stepRing tai off).rcRegs
  else servoSync t off

/-- In ACQUIRING and LOCKED a Sync is noted and steers the ring count. -/
theorem ptpSync_steered {s : State} {m : Int} {tai : Nat} (hen : s.flag Reg.ptp.ptpEnable = true)
    (hst : s.rc.state = .acquiring ∨ s.rc.state = .locked) :
    s.ptpSync m tai = steerSync (noteSync s (syncOffset s m)) tai (syncOffset s m) := by
  obtain ⟨_, _, _, _, hrc⟩ := noteSync_rc s (syncOffset s m)
  have hstate : (noteSync s (syncOffset s m)).rc.state = s.rc.state := by rw [hrc]
  obtain ⟨hunset, hhold⟩ : s.rc.state ≠ .unset ∧ s.rc.state ≠ .holdover := by rcases hst with h | h <;> rw [h] <;> decide
  rw [← hstate] at hunset hhold
  unfold State.ptpSync
  rw [hen, if_neg (by decide)]
  exact (if_neg hunset).trans (congrArg (steerSync · tai _) (resumeSync_of_ne _ hhold))

theorem steerSync_within {s : State} {tai : Nat} {off : Int} (hnear : off.natAbs ≤ s.num Reg.ptp.stepThresholdNs) :
    steerSync (noteSync s off) tai off = servoSync (noteSync s off) off := by
  rw [steerSync, num_of_keeps_rcZones (noteSync_keeps s off) (by decide +kernel), if_neg (Nat.not_lt.mpr hnear)]

theorem steerSync_beyond {s : State} {tai : Nat} {off : Int} (hfar : s.num Reg.ptp.stepThresholdNs < off.natAbs)
    (hrun : s.inRun = false) : steerSync (noteSync s off) tai off = ((noteSync s off).stepRing tai off).rcRegs := by
  have hkeep := noteSync_keeps s off
  rw [steerSync, num_of_keeps_rcZones hkeep (by decide +kernel), if_pos hfar, inRun_of_keeps_rcZones hkeep, hrun,
    if_neg Bool.false_ne_true]

/-! ### What a Sync leaves -/

/-- A step of the ring count takes the TAI time's ring and grain (R77, R86). -/
theorem stepRing_rc (s : State) (tai : Nat) (off : Int) : (s.stepRing tai off).rc =
    { s.rc with ring := wrap 64 (tai / 10240), cyc := tai % 10240 / 10, len := 1024, integ := 0, okRun := 0 } := by
  simp only [State.stepRing, add_rc]
  rfl

theorem flag_iff (s : State) (k : Nat) : s.flag k = true ↔ s.num k ≠ 0 := by simp [State.flag]

theorem ptpSync_sets {s : State} (m : Int) (tai : Nat) (hr : s.running) (hen : s.flag Reg.ptp.ptpEnable = true)
    (hst : s.rc.state = .unset) : Gives (.ptpSync m tai) s fun t =>
      t.rc.state = .acquiring ∧ t.rc.ring = wrap 64 (tai / 10240) ∧ t.rc.cyc = tai % 10240 / 10 ∧
      t.num Reg.rc.rcState = 1 := by
  refine gives_act (f := fun s => s.ptpSync m tai) hr rfl ?_
  rw [ptpSync_unset hen hst, rcRegs_rc, putRc_rc, stepRing_rc]
  exact ⟨rfl, rfl, rfl, num_rcRegs_rcState _⟩

theorem ptpSync_servo {s : State} {m off : Int} {tai : Nat} (hr : s.running) (hen : s.flag Reg.ptp.ptpEnable = true)
    (hoff : off = syncOffset s m) (hst : s.rc.state = .acquiring ∨ s.rc.state = .locked)
    (hnear : off.natAbs ≤ s.num Reg.ptp.stepThresholdNs) : Gives (.ptpSync m tai) s fun t =>
      t.rc.rateCorr = clampTo rateClamp (i64 (s.rc.baseCorr + (i64 (i64 ((s.num Reg.ptp.kp : Int) * off +
        (s.num Reg.ptp.ki : Int) * i64 (s.rc.integ + off)) * 2 ^ 40)).tdiv 1000000000)) ∧
      t.rc.integ = i64 (s.rc.integ + off) ∧ t.rc.sinceSync = some 0 ∧ t.rc.ring = s.rc.ring ∧ t.rc.state = s.rc.state ∧
      t.rc.okRun = (if s.rc.state = .acquiring ∧ off.natAbs ≤ 20 then s.rc.okRun + 1 else 0) := by
  refine gives_act (f := fun s => s.ptpSync m tai) hr rfl ?_
  rw [ptpSync_steered hen hst, ← hoff, steerSync_within hnear]
  obtain ⟨_, _, _, _, hnote⟩ := noteSync_rc s off
  obtain ⟨_, hservo⟩ := servoSync_rc (noteSync s off) off
  have hkeep := noteSync_keeps s off
  rw [num_of_keeps_rcZones hkeep (by decide +kernel), num_of_keeps_rcZones hkeep (by decide +kernel), hnote] at hservo
  rw [hservo]
  exact ⟨rfl, rfl, rfl, rfl, rfl, rfl⟩

theorem ptpSync_steps {s : State} {m off : Int} {tai : Nat} (hr : s.running) (hen : s.flag Reg.ptp.ptpEnable = true)
    (hoff : off = syncOffset s m) (hst : s.rc.state = .acquiring ∨ s.rc.state = .locked)
    (hfar : s.num Reg.ptp.stepThresholdNs < off.natAbs) (hrun : s.inRun = false) : Gives (.ptpSync m tai) s fun t =>
      t.rc.ring = wrap 64 (tai / 10240) ∧ t.rc.cyc = tai % 10240 / 10 ∧ t.rc.integ = 0 ∧ t.rc.state = s.rc.state := by
  refine gives_act (f := fun s => s.ptpSync m tai) hr rfl ?_
  rw [ptpSync_steered hen hst, ← hoff, steerSync_beyond hfar hrun, rcRegs_rc, stepRing_rc]
  obtain ⟨_, _, _, _, hnote⟩ := noteSync_rc s off
  rw [hnote]
  exact ⟨rfl, rfl, rfl, rfl⟩

/-- Settles O13: a Sync in UNSET sets the ring and a cycle below 1,024, which is the grain; TAI_NOW is read from both. -/
theorem theRingCountIsTaiByTheRules : Obligations.TheRingCountIsTaiByTheRules := by
  refine fun s => ⟨fun off tai hr hen hst htai => ?_, rfl⟩
  obtain ⟨t, ht, -, hring, hcyc, -⟩ := ptpSync_sets off tai hr hen hst
  have hring' : t.rc.ring = tai / 10240 := hring.trans (Nat.mod_eq_of_lt (Nat.div_lt_of_lt_mul (Nat.mul_comm _ _ ▸ htai)))
  have hgrain : t.grain = tai % 10240 / 10 := by
    rw [State.grain, hcyc]
    omega
  refine ⟨t, ht, hring', hgrain, ?_⟩
  rw [State.taiNow, hring', hgrain]
  omega

/-- Settles O19, command by command. -/
theorem ringCountCommandsComplete : Obligations.RingCountCommandsComplete := by
  refine fun s _ hr => ⟨ringBegin_begins hr, fun hen => ?_, fun hacq hrun => rcLocked_locks hr hacq hrun,
    fun n hlock hsync hlate => syncTimeout_holds hr hlock hsync hlate, fun hhold hrings => ?_, fun hout => ?_, fun hgm => ?_⟩
  · rw [← flag_iff] at hen
    exact ⟨fun m tai hst => ptpSync_sets m tai hr hen hst,
      fun m tai off hoff hst hnear => ptpSync_servo hr hen hoff hst hnear,
      fun m tai off hoff hst hfar hrun => ptpSync_steps hr hen hoff hst hfar hrun⟩
  · exact gives_void (p := fun s => s.rc.state = .holdover ∧ s.num Reg.ptp.holdoverRings ≤ s.rc.holdRings) hr
      ⟨hhold, hrings⟩ rfl
  · exact gives_void (p := fun s => s.num Reg.xchk.outlierRings ≤ s.rc.outlierRun) hr hout rfl
  · exact gives_void (p := fun s => 16 ≤ s.rc.gmRun) hr hgm rfl

end Sys2Proof.Proofs
end

section
/-! The stand (R91 to R97): what links, formation, mastership, heartbeats and the barrier leave of the stand unit and send. -/
namespace Sys2Proof.Proofs
open Sys2Proof.Machine Sys2Proof.Laws

/-! ### The stand's registers, and the units that leave the stand alone -/

theorem stand_of_keeps {s t : State} (h : Keeps (allBut .stand) s t) : t.stand = s.stand := h.part .stand (by decide +kernel)

@[simp] theorem standRegs_stand (s : State) : s.standRegs.stand = s.stand :=
  stand_of_keeps (standRegs_keeps (.refl _ s) ⟨by decide +kernel⟩)

@[simp] theorem standRegs_out (s : State) : s.standRegs.out = s.out :=
  (standRegs_keeps (μ := allBut .out) (.refl _ s) ⟨by decide +kernel⟩).part .out (by decide +kernel)

/-- RING_LINKS follows the unit. -/
theorem num_standRegs_ringLinks (s : State) : s.standRegs.num Reg.stand.ringLinks = s.stand.links := by
  have hnext : Reg.stand.ringLinks ≠ Reg.stand.barrierNext := by decide
  simp [State.standRegs, num_setN, hnext]

@[simp] theorem storeFused_stand (s : State) (g : Nat) (f : FusedFrame) (l : List Decided) (a : Bool) (b r n : Nat) :
    (s.storeFused g f l a b r n).stand = s.stand :=
  stand_of_keeps (storeFused_keeps (.refl _ s) ⟨by decide +kernel⟩)

/-! ### Links and formation (R92) -/

theorem ringLinkUp_notes {s : State} (hl : s.alive) (east : Bool) (hup : s.portsMayRise = true) :
    Gives (.ringLinkUp east) s fun t => t.stand.links = setBit s.stand.links (linkBit east) ∧
      t.num Reg.stand.ringLinks = t.stand.links ∧ t.sent s [.stand (.hello s.standId s.dev.uid)] := by
  refine gives_live (f := fun s => if s.portsMayRise then s.linkUp east else s) hl rfl ?_
  rw [if_pos hup]
  refine ⟨?_, ?_, ?_⟩
  · simp only [State.linkUp, emit_stand, standRegs_stand, putStand_stand]
    split <;> rfl
  · simp only [State.linkUp, emit_stand, standRegs_stand, num_emit, num_standRegs_ringLinks]
  · simp only [State.sent, State.linkUp, emit_out, standRegs_out, putStand_out]

theorem ringLinkDown_notes {s : State} (hl : s.alive) (east : Bool) (hother : clearBit s.stand.links (linkBit east) ≠ 0) :
    Gives (.ringLinkDown east) s fun t => t.stand = { s.stand with links := clearBit s.stand.links (linkBit east) } ∧
      t.num Reg.stand.ringLinks = t.stand.links := by
  refine gives_live (f := fun s => s.linkDown east) hl rfl ?_
  have hdown : s.linkDown east =
      (s.putStand { s.stand with links := clearBit s.stand.links (linkBit east) }).standRegs := by
    unfold State.linkDown
    exact if_neg fun h => hother (by simpa using h.1)
  rw [hdown, num_standRegs_ringLinks, standRegs_stand]
  exact ⟨rfl, rfl⟩

theorem standHello_notes {s : State} {m uid : Nat} (hl : s.alive) (huid : uid ≠ s.dev.uid) (hform : s.stand.state = .forming)
    (hnew : s.stand.hellos.contains ⟨m, uid⟩ = false) : Gives (.standHello m uid) s fun t =>
      t.stand = { s.stand with hellos := s.stand.hellos ++ [⟨m, uid⟩] } ∧ t.sent s [.stand (.hello m uid)] := by
  refine gives_live (f := fun s => s.standHello m uid) hl rfl ?_
  have hin : s.inStand = false := by rw [State.inStand, hform]; rfl
  simp only [State.standHello, huid, hin, hform, hnew, if_false, ne_eq, not_true_eq_false, Bool.false_eq_true]
  exact ⟨rfl, rfl⟩

/-! ### What running a barrier leaves of the stand -/

/-- The stand but for the barriers that its master runs and the one armed. -/
def besideBarriers (x : Stand) : Stand := { x with barriers := [], armedBarrier := none }

@[simp] theorem tryPulse_stand (s : State) (n : Nat) : (s.tryPulse n).stand = s.stand := by
  unfold State.tryPulse
  split
  · rfl
  · split <;> rfl

theorem tryArm_besideBarriers (s : State) (n : Nat) : besideBarriers (s.tryArm n).stand = besideBarriers s.stand := by
  unfold State.tryArm
  split
  · rfl
  · split
    · simp [besideBarriers, Stand.putBarrier]
    · rfl

theorem masterArrive_besideBarriers (s : State) (m n : Nat) :
    besideBarriers (s.masterArrive m n).stand = besideBarriers s.stand := tryArm_besideBarriers _ _

theorem sendArrive_besideBarriers (s : State) (n : Nat) : besideBarriers (s.sendArrive n).stand = besideBarriers s.stand := by
  unfold State.sendArrive
  split
  · exact masterArrive_besideBarriers ..
  · rfl

theorem rearrive_besideBarriers (s : State) : besideBarriers s.rearrive.stand = besideBarriers s.stand :=
  keep_foldl (P := fun t : State => besideBarriers t.stand = besideBarriers s.stand) rfl
    fun t n h => (sendArrive_besideBarriers t n).trans h

/-- A master accepted is the stand's master under its term; its members stay. -/
theorem acceptMaster_stand (s : State) (m term : Nat) :
    (s.acceptMaster m term).stand.masterId = m ∧ (s.acceptMaster m term).stand.term = term ∧
    (s.acceptMaster m term).stand.state = (if m = s.standId then .master else .member) ∧
    (s.acceptMaster m term).stand.members = s.stand.members := by
  have h := rearrive_besideBarriers (s.putStand { s.stand with
    state := if m == s.standId then .master else .member
    masterId := m, term := term, topTerm := max s.stand.topTerm term, armedBarrier := none, barriers := []
    armHold := if m == s.standId then 2 else 0, driving := m == s.standId && s.pllLocked }).standRegs
  rw [standRegs_stand, putStand_stand] at h
  refine ⟨congrArg Stand.masterId h, congrArg Stand.term h, (congrArg Stand.state h).trans ?_,
    (congrArg Stand.members h).trans rfl⟩
  simp [besideBarriers]

theorem announce_stand (s : State) : s.announce.stand.state = .master ∧ s.announce.stand.members = s.stand.members := by
  obtain ⟨-, -, hstate, hmem⟩ := acceptMaster_stand
    (s.emit (.stand (.master s.standId (max s.stand.topTerm s.stand.term + 1)))) s.standId
    (max s.stand.topTerm s.stand.term + 1)
  exact ⟨hstate.trans (if_pos rfl), hmem⟩

/-! ### The end of the formation window (R93) -/

/-- The members of a stand that forms: those heard, and this device. -/
def heard (s : State) : List Nat := (s.stand.hellos.map (·.standId)).foldl (fun l m => insertId m l) [s.standId]

theorem formStand_forms (s : State) : (s.formStand.stand.state = .member ∨ s.formStand.stand.state = .master) ∧
    s.formStand.stand.members = heard s := by
  unfold State.formStand
  dsimp only
  split
  · obtain ⟨hstate, hmem⟩ := announce_stand (s.putStand { s.stand with
      state := .member, members := heard s, masterId := 0xFF, nextBarrier := 0, barriers := [], waiting := [], joined := []
      silentRings := ((heard s).filter fun m => m != s.standId).map fun m => (m, 0) }).standRegs
    exact ⟨.inr hstate, hmem.trans (by simp)⟩
  · simp [heard]

theorem formWindowEnd_ends {s : State} {t₀ : Nat} (hl : s.alive) (hform : s.stand.state = .forming)
    (hopen : s.stand.windowOpenAt = some t₀) (hend : t₀ + s.num Reg.stand.formWindowMs * 100000 ≤ s.now) :
    Gives .formWindowEnd s fun t => if s.idConflict then t.stand.state = .conflict
      else (t.stand.state = .member ∨ t.stand.state = .master) ∧ t.stand.members = heard s := by
  refine gives_live (f := State.formWindowEnd) hl rfl ?_
  have hended : s.formWindowEnd =
      if s.idConflict then (s.putStand { s.stand with state := .conflict }).standRegs else s.formStand := by
    simp [State.formWindowEnd, hopen, hform, hend]
  rw [hended]
  split
  · simp
  · exact formStand_forms s

/-! ### Mastership and heartbeats (R93, R94) -/

theorem standMaster_accepts {s : State} {m term : Nat} (hl : s.alive) (hin : s.inStand = true)
    (hmem : s.stand.members.contains m = true) (hterm : s.stand.term < term) :
    Gives (.standMaster m term) s fun t => t.stand.masterId = m ∧ t.stand.term = term ∧
      t.stand.state = if m = s.standId then .master else .member := by
  refine gives_live (f := fun s => s.standMaster m term) hl rfl ?_
  have haccept : s.standMaster m term =
      (s.putStand { s.stand with topTerm := max s.stand.topTerm term }).acceptMaster m term := by
    simp [State.standMaster, hin, List.contains_iff_mem.mp hmem, hterm]
  rw [haccept]
  obtain ⟨hid, ht, hstate, -⟩ := acceptMaster_stand (s.putStand { s.stand with topTerm := max s.stand.topTerm term }) m term
  exact ⟨hid, ht, hstate⟩

theorem standHeartbeat_heard {s : State} {m : Nat} (hl : s.alive) (hin : s.inStand = true)
    (hmem : s.stand.members.contains m = true) (hother : m ≠ s.standId) : Gives (.standHeartbeat m true) s fun t =>
      (∀ p ∈ t.stand.silentRings, p.1 = m → p.2 = 0) ∧ m ∉ t.stand.unhealthy ∧ t.stand.members = s.stand.members := by
  refine gives_live (f := fun s => s.standHeartbeat m true) hl rfl ?_
  have hheard : (s.standHeartbeat m true).stand = { s.stand with
      silentRings := s.stand.silentRings.map fun p => if p.1 = m then (m, 0) else p
      unhealthy := s.stand.unhealthy.filter fun u => u != m } := by
    simp [State.standHeartbeat, hin, List.contains_iff_mem.mp hmem, hother]
  rw [hheard]
  refine ⟨fun p hp hpm => ?_, by simp, rfl⟩
  obtain ⟨q, -, rfl⟩ := List.mem_map.mp hp
  split at hpm
  · next h => rw [if_pos h]
  · next h => exact absurd hpm h

/-! ### Barriers that abort (R97) -/

theorem takeAborted_stand (s : State) (n : Nat) : ∃ a, (∀ term, a ≠ some (n, term)) ∧ (s.takeAborted n).2.stand =
    { s.stand with
      armedBarrier := a
      waiting := s.stand.waiting.filter fun w => w.barrier != n
      barriers := s.stand.barriers.filter fun b => b.number != n } := by
  simp only [State.takeAborted, bump_stand, putStand_stand]
  refine ⟨_, fun term => ?_, rfl⟩
  split
  · split
    · exact Option.some_ne_none _ |>.symm
    · next hm => exact fun h => hm (congrArg Prod.fst (Option.some.inj h))
  · exact Option.some_ne_none _ |>.symm

/-- The work of an aborted barrier completes beside the stand unit. -/
theorem standAborted_stand (s : State) (n status : Nat) : (s.standAborted n status).stand = (s.takeAborted n).2.stand := by
  refine keep_foldl (P := fun t : State => t.stand = (s.takeAborted n).2.stand) rfl fun t w h => ?_
  dsimp only
  split
  · split
    · exact (storeFused_stand ..).trans h
    · exact h
  · exact h

theorem abortLost_members (s : State) (n : Nat) : (s.abortLost n).stand.members = s.stand.members := by
  obtain ⟨_, -, hstand⟩ := takeAborted_stand (s.emit (.stand (.abort n true))) n
  rw [State.abortLost, standAborted_stand, hstand]
  rfl

/-- The stand that loses members keeps the others, whoever leads it then. -/
theorem loseMembers_members (s : State) (lost : List Nat) :
    (s.loseMembers lost).stand.members = s.stand.members.filter fun m => !lost.contains m := by
  unfold State.loseMembers
  dsimp only
  split
  · next hnone =>
    rw [List.isEmpty_iff, List.filter_eq_nil_iff] at hnone
    exact (List.filter_eq_self.mpr fun m hm => by simpa using hnone m hm).symm
  · have hled (t : State) (p : Prop) [Decidable p] : (if p then t.announce else t).stand.members = t.stand.members := by
      split
      · exact (announce_stand t).2
      · rfl
    refine keep_cond (P := fun t : State => t.stand.members = _) (keep_foldl ?_ fun t n h => (abortLost_members t n).trans h) ?_ <;>
      simp [hled]

theorem masterMissed_loses {s : State} (hl : s.alive) (hst : s.stand.state = .member)
    (hsilent : 2 ≤ s.stand.silence s.stand.masterId) :
    Gives .masterMissed s fun t => t.stand.members = s.stand.members.filter fun m => m != s.stand.masterId := by
  refine gives_live (f := State.masterMissed) hl rfl ?_
  have hlose : s.masterMissed = s.loseMembers [s.stand.masterId] := by simp [State.masterMissed, hst, hsilent]
  rw [hlose, loseMembers_members]
  refine List.filter_congr fun m _ => ?_
  rw [List.contains_eq_mem]
  simp [bne, Bool.beq_eq_decide_eq]

/-! ### The master's barriers (R95) -/

theorem barrier_number {x : Stand} {n : Nat} {b : Barrier} (hb : x.barrier? n = some b) : b.number = n := by
  simpa using List.find?_some hb

/-- The master reads a barrier back as it put it. -/
theorem barrier_putBarrier (x : Stand) {b : Barrier} {n : Nat} (hn : b.number = n) :
    (x.putBarrier b).barrier? n = some b := by
  subst hn
  rw [Stand.barrier?, Stand.putBarrier, List.find?_append, List.find?_eq_none.mpr fun c hc => ?_]
  · simp
  · simpa using (List.mem_filter.mp hc).2

/-- No barrier of a number whose record was dropped. -/
theorem barrier_filter {x : Stand} {n : Nat} {l : List Barrier} (hx : x.barriers = l.filter fun b => b.number != n) :
    x.barrier? n = none := by
  rw [Stand.barrier?, hx, List.find?_eq_none]
  intro b hb
  simpa using (List.mem_filter.mp hb).2

/-- Arming a barrier keeps who has arrived at it. -/
theorem tryArm_arrived {s : State} {n : Nat} {b : Barrier} (hb : s.stand.barrier? n = some b) :
    ∃ c, (s.tryArm n).stand.barrier? n = some c ∧ c.arrived = b.arrived := by
  unfold State.tryArm
  rw [hb]
  dsimp only
  split
  · rw [tryPulse_stand]
    have hnumber := barrier_number hb
    exact ⟨{ b with armSent := true, armed := [s.standId] }, barrier_putBarrier _ hnumber, rfl⟩
  · exact ⟨b, hb, rfl⟩

/-- The record of a barrier that the master has begun or begins carries the barrier's number. -/
theorem barrier_getD_number (x : Stand) (n ring : Nat) : ((x.barrier? n).getD ⟨n, [], [], false, ring⟩).number = n := by
  cases hb : x.barrier? n with
  | none => rfl
  | some b => exact barrier_number hb

/-- An arrival is recorded in the barrier, which is armed where it was the last. -/
theorem masterArrive_eq (s : State) (m n : Nat) : ∃ b : Barrier, b.number = n ∧ m ∈ b.arrived ∧
    s.masterArrive m n = (s.putStand (s.stand.putBarrier b)).tryArm n := by
  refine ⟨_, ?_, ?_, rfl⟩
  · exact barrier_getD_number ..
  · dsimp only
    split
    · next hin => exact List.contains_iff_mem.mp hin
    · exact List.mem_append_right _ List.mem_cons_self

theorem masterArrive_arrived (s : State) (m n : Nat) :
    ∃ b, (s.masterArrive m n).stand.barrier? n = some b ∧ m ∈ b.arrived := by
  obtain ⟨b, hb, hin, harrive⟩ := masterArrive_eq s m n
  obtain ⟨c, hc, harr⟩ := tryArm_arrived (s := s.putStand (s.stand.putBarrier b)) (barrier_putBarrier _ hb)
  exact ⟨c, harrive ▸ hc, harr ▸ hin⟩

theorem barrierArrive_arrives {s : State} {m : Nat} (hl : s.alive) (n : Nat) (hst : s.stand.state = .master)
    (hmem : s.stand.members.contains m = true) :
    Gives (.barrierArrive m n) s fun t => ∃ b, t.stand.barrier? n = some b ∧ m ∈ b.arrived := by
  refine gives_live (f := fun s => if s.stand.state == .master && s.stand.members.contains m then s.masterArrive m n else s)
    hl rfl ?_
  rw [hst, hmem, if_pos (by rfl)]
  exact masterArrive_arrived s m n

theorem barrierArm_arms {s : State} (hl : s.alive) (n : Nat) (hin : s.inStand = true) :
    Gives (.barrierArm n s.stand.term) s fun t => t.stand.armedBarrier = some (n, s.stand.term) ∧
      t.stand.nextBarrier = max s.stand.nextBarrier (n + 1) ∧ t.sent s [.stand (.armed n)] := by
  refine gives_live (f := fun t => if t.inStand && s.stand.term == t.stand.term then
    ((t.putStand { t.stand with
      armedBarrier := some (n, s.stand.term), nextBarrier := max t.stand.nextBarrier (n + 1) }).standRegs).emit
      (.stand (.armed n)) else t) hl rfl ?_
  rw [hin, if_pos (by simp)]
  simp [State.sent]

theorem barrierArmed_notes {s : State} {m n : Nat} {b : Barrier} (hl : s.alive) (hst : s.stand.state = .master)
    (hmem : s.stand.members.contains m = true) (hb : s.stand.barrier? n = some b) (hnew : b.armed.contains m = false) :
    Gives (.barrierArmed m n) s fun t => t.stand.barrier? n = some { b with armed := b.armed ++ [m] } := by
  refine gives_live (f := fun s => if s.stand.state == .master && s.stand.members.contains m then s.masterArmed m n else s)
    hl rfl ?_
  rw [hst, hmem, if_pos (by rfl), State.masterArmed, hb]
  dsimp only
  rw [hnew, if_neg Bool.false_ne_true, tryPulse_stand]
  have hnumber := barrier_number hb
  exact barrier_putBarrier _ hnumber

/-! ### STAND_SYNC (R95, R96) -/

/-- With no barrier armed under the current term the edge is spurious. -/
theorem takeArmed_none {s : State} (harm : ∀ n, s.stand.armedBarrier ≠ some (n, s.stand.term)) : s.takeArmed = none := by
  unfold State.takeArmed
  split
  · rfl
  · next n term h =>
    refine if_neg fun hterm => harm n ?_
    rw [h, hterm]

/-- The barrier armed under the current term is taken with the work that waits at it. -/
theorem takeArmed_some {s : State} {n : Nat} (harm : s.stand.armedBarrier = some (n, s.stand.term)) :
    s.takeArmed = some (n, s.stand.waiting.filter fun w => w.barrier == n, s.putStand { s.stand with
      armedBarrier := none
      waiting := s.stand.waiting.filter fun w => w.barrier != n
      barriers := s.stand.barriers.filter fun b => b.number != n }) := by
  unfold State.takeArmed
  rw [harm]
  exact if_pos rfl

/-- The edge at a device with no barrier armed under the current term: SPURIOUS_SYNC counts it. -/
theorem exec_standSyncEdge_spurious {s : State} (hl : s.alive) (harm : ∀ n, s.stand.armedBarrier ≠ some (n, s.stand.term)) :
    exec .standSyncEdge s = .next (s.bump Reg.stand.spuriousSync) := by
  change execStandSyncEdge s = _
  rw [execStandSyncEdge, live_run hl, takeArmed_none harm]

/-- The edge at a device with a barrier armed under the current term releases it. -/
theorem exec_standSyncEdge_release {s : State} {n : Nat} (hl : s.alive)
    (harm : s.stand.armedBarrier = some (n, s.stand.term)) : exec .standSyncEdge s = .next s.standRelease := by
  change execStandSyncEdge s = _
  rw [execStandSyncEdge, live_run hl, takeArmed_some harm]

/-- SPURIOUS_SYNC is of the stand's object, and its count changes that object alone. -/
theorem bump_spuriousSync_keeps (s : State) : Keeps (footMask ⟨[], [.stand]⟩) s (s.bump Reg.stand.spuriousSync) :=
  have hm : Sub (footMask ⟨[], [.stand]⟩) (footMask ⟨[], [.stand]⟩) := ⟨Nat.or_self _⟩
  bump_keeps (.refl _ s)

/-- Settles O11: a counter of the dictionary is all that a spurious edge changes. -/
theorem spuriousSyncEdgesAreCounted : Obligations.SpuriousSyncEdgesAreCounted := by
  intro s hl _ harm
  refine ⟨_, exec_standSyncEdge_spurious hl harm, (num_bump ..).trans (if_pos rfl), fun p => ?_, fun k hk => ⟨?_, ?_⟩⟩
  · exact (bump_spuriousSync_keeps s).part p (testBit_footMask_part List.not_mem_nil)
  · exact (num_bump ..).trans (if_neg hk)
  · exact blob_setN ..

theorem standSyncEdge_releases {s : State} {n : Nat} (hl : s.alive) (harm : s.stand.armedBarrier = some (n, s.stand.term))
    (hwait : s.stand.waiting = []) : Gives .standSyncEdge s fun t =>
      t.stand.armedBarrier = none ∧ t.stand.barrier? n = none ∧
      t.sent s [.release n s.releaseInstant.1 s.releaseInstant.2.1 s.releaseInstant.2.2] := by
  refine ⟨_, exec_standSyncEdge_release hl harm, ?_⟩
  rw [State.standRelease, takeArmed_some harm, hwait]
  exact ⟨rfl, barrier_filter rfl, rfl⟩

theorem standSyncEdge_spurious {s : State} (hl : s.alive) (harm : s.stand.armedBarrier = none) :
    Gives .standSyncEdge s fun t =>
      t.num Reg.stand.spuriousSync = wrap 64 (s.num Reg.stand.spuriousSync + 1) ∧ t.out = s.out :=
  ⟨_, exec_standSyncEdge_spurious hl fun n => by rw [harm]; exact (Option.some_ne_none _).symm,
    (num_bump ..).trans (if_pos rfl), bump_out ..⟩

/-! ### Timeouts and aborts (R97) -/

theorem barrierTimeout_aborts {s : State} {n : Nat} {b : Barrier} (hl : s.alive) (hst : s.stand.state = .master)
    (hb : s.stand.barrier? n = some b) (hlate : b.firstRing + s.num Reg.stand.barrierTimeout ≤ s.rc.ring)
    (hwait : s.stand.waiting = []) : Gives (.barrierTimeout n) s fun t =>
      t.stand.barrier? n = none ∧ t.num Reg.stand.barrierAborts = wrap 64 (s.num Reg.stand.barrierAborts + 1) ∧
      t.sent s [.stand (.abort n false), .late (s.stand.members.filter fun m => !b.arrived.contains m)] := by
  refine gives_live (f := fun s => s.barrierTimeout n) hl rfl ?_
  have habort (t : State) (ht : t.stand.waiting = []) : t.standAborted n 0x2211 = (t.takeAborted n).2 := by
    simp [State.standAborted, State.takeAborted, ht]
  have hgo : s.barrierTimeout n = (((s.emit (.stand (.abort n false))).emit
      (.late (s.stand.members.filter fun m => !b.arrived.contains m))).takeAborted n).2 := by
    rw [State.barrierTimeout, hb]
    dsimp only
    rw [if_pos (by simp [hst, hlate])]
    exact habort _ hwait
  obtain ⟨_, -, hstand⟩ := takeAborted_stand ((s.emit (.stand (.abort n false))).emit
    (.late (s.stand.members.filter fun m => !b.arrived.contains m))) n
  rw [hgo, hstand]
  refine ⟨barrier_filter rfl, (num_bump ..).trans (if_pos rfl), ?_⟩
  simp [State.sent, State.takeAborted]

theorem barrierAbort_ends {s : State} (hl : s.alive) (n : Nat) (lost : Bool) (hin : s.inStand = true) :
    Gives (.barrierAbort n lost) s fun t => t.stand.barrier? n = none ∧ (∀ w ∈ t.stand.waiting, w.barrier ≠ n) ∧
      ∀ term, t.stand.armedBarrier ≠ some (n, term) := by
  refine gives_live (f := fun s => if s.inStand then s.standAborted n (if lost then 0x2213 else 0x2211) else s) hl rfl ?_
  obtain ⟨a, ha, hstand⟩ := takeAborted_stand s n
  rw [if_pos hin, standAborted_stand, hstand]
  exact ⟨barrier_filter rfl, fun w hw => by simpa using (List.mem_filter.mp hw).2, ha⟩

/-- Settles O20, command by command. -/
theorem standCommandsComplete : Obligations.StandCommandsComplete := by
  refine fun s _ hl => ⟨fun east hup => ringLinkUp_notes hl east hup, fun east hother => ringLinkDown_notes hl east hother,
    fun _ _ huid hform hnew => standHello_notes hl huid hform hnew,
    fun _ hform hopen hend => formWindowEnd_ends hl hform hopen hend,
    fun _ _ hin hmem hterm => standMaster_accepts hl hin hmem hterm,
    fun _ hin hmem hother => standHeartbeat_heard hl hin hmem hother,
    fun hst hsilent _ => masterMissed_loses hl hst hsilent,
    fun _ n hst hmem => barrierArrive_arrives hl n hst hmem,
    fun n hin => barrierArm_arms hl n hin,
    fun _ _ _ hst hmem hb hnew => barrierArmed_notes hl hst hmem hb hnew,
    fun _ harm hwait => standSyncEdge_releases hl harm hwait,
    fun harm => standSyncEdge_spurious hl harm,
    fun _ _ hst hb hlate hwait => barrierTimeout_aborts hl hst hb hlate hwait,
    fun n lost hin => barrierAbort_ends hl n lost hin⟩

end Sys2Proof.Proofs
end

section
/-! The units of the prep compute: what reading a cluster, a core or an engine gives after one was put in its place, and what
the shared operations leave of the compute state. -/
namespace Sys2Proof.Proofs
open Sys2Proof.Machine Sys2Proof.Laws
set_option Elab.async false

/-! ### Lists of units that a key tells apart -/

/-- What takes the place of all that satisfy `p` is what is found by `p`. -/
theorem find?_filter_append {α : Type} {p : α → Bool} (l : List α) {x : α} (hx : p x = true) :
    (l.filter (fun y => !p y) ++ [x]).find? p = some x := by
  have hgone : (l.filter fun y => !p y).find? p = none := List.find?_eq_none.mpr fun y hy => by
    simpa using (List.mem_filter.mp hy).2
  simp [List.find?_append, hgone, hx]

/-- A unit put in the place of those with its key leaves what is found under another key. -/
theorem find?_replace_ne {α : Type} (key : α → Nat) (l : List α) {x : α} {j : Nat} (hj : j ≠ key x) :
    (l.filter (fun y => key y != key x) ++ [x]).find? (fun y => key y == j) = l.find? fun y => key y == j := by
  have hboth (y : α) : decide ((key y != key x) = true ∧ (key y == j) = true) = (key y == j) := by
    by_cases h : key y = j
    · simp [h, hj]
    · simp [h]
  simp only [List.find?_append, List.find?_filter, hboth]
  simp [hj.symm]

/-- What is looked up by its key, with a unit of that key where none is found, has the key. -/
theorem key_find?_getD {α : Type} (key : α → Nat) (l : List α) {j : Nat} {d : α} (hd : key d = j) :
    key ((l.find? fun y => key y == j).getD d) = j := by
  cases h : l.find? fun y => key y == j with
  | none => exact hd
  | some y => simpa using List.find?_some h

/-! ### Clusters -/

@[simp] theorem cs_cluster (s : State) (c : Nat) : (s.cs c).cluster = c := key_find?_getD ClusterState.cluster _ rfl

theorem cs_congr {s t : State} (h : t.comp = s.comp) (c : Nat) : t.cs c = s.cs c := by rw [State.cs, State.cs, h]

theorem cs_putCs (s : State) {x : ClusterState} {c : Nat} (hx : x.cluster = c) : (s.putCs x).cs c = x := by
  subst hx
  exact congrArg (Option.getD · _) (find?_filter_append (p := fun y : ClusterState => y.cluster == x.cluster) _ (beq_self_eq_true _))

theorem cs_putCs_ne (s : State) {x : ClusterState} {c : Nat} (hc : c ≠ x.cluster) : (s.putCs x).cs c = s.cs c :=
  congrArg (Option.getD · _) (find?_replace_ne ClusterState.cluster _ hc)

@[simp] theorem num_putCs (s : State) (x : ClusterState) (j : Nat) : (s.putCs x).num j = s.num j := rfl

/-! ### Cores -/

@[simp] theorem clusterState_core_idx (x : ClusterState) (i : Nat) : (x.core i).idx = i := key_find?_getD Core.idx _ rfl

@[simp] theorem core_idx (s : State) (c i : Nat) : (s.core c i).idx = i := clusterState_core_idx _ i

theorem core_putCore_cs (x : ClusterState) {k : Core} {i : Nat} (hk : k.idx = i) : (x.putCore k).core i = k := by
  subst hk
  exact congrArg (Option.getD · _) (find?_filter_append (p := fun y : Core => y.idx == k.idx) _ (beq_self_eq_true _))

theorem cs_putCore (s : State) (c : Nat) (k : Core) : (s.putCore c k).cs c = (s.cs c).putCore k := cs_putCs s (cs_cluster s c)

theorem core_putCore (s : State) (c : Nat) {k : Core} {i : Nat} (hk : k.idx = i) : (s.putCore c k).core c i = k := by
  rw [State.core, cs_putCore, core_putCore_cs _ hk]

theorem core_congr {s t : State} {c : Nat} (h : (t.cs c).cores = (s.cs c).cores) (i : Nat) : t.core c i = s.core c i := by
  rw [State.core, State.core, ClusterState.core, ClusterState.core, h]

/-! ### Operations of other units -/

theorem comp_of_keeps {s t : State} (h : Keeps (allBut .comp) s t) : t.comp = s.comp := h.part .comp (by decide +kernel)

@[simp] theorem refuse_comp (s : State) (c i x : Nat) : (s.refuse c i x).comp = s.comp :=
  comp_of_keeps (refuse_keeps (.refl _ s) ⟨by decide +kernel⟩)

/-- The zones that logging a refused command may change. -/
def refusalZones : Nat := 0xc0400006

theorem num_refuse (s : State) (c i x : Nat) (b : Block) {k : Nat} (hk : entryOutside refusalZones b k = true) :
    (s.refuse c i x).num k = s.num k :=
  (keeps_entry (refuse_keeps (m := refusalZones) (.refl _ s) ⟨Nat.or_self _⟩) b hk).1

end Sys2Proof.Proofs
end

section
/-! The compute queue (R213 to R219): descriptors join it, its head runs, work items end and run out of their budget. -/
namespace Sys2Proof.Proofs
open Sys2Proof.Machine Sys2Proof.Laws
set_option Elab.async false

/-! ### A cluster with another queue or launch -/

def withQueue (x : ClusterState) (q : List ComputeEntry) : ClusterState := { x with queue := q }

def withLaunch (x : ClusterState) (l : Option Launch) : ClusterState := { x with launch := l }

def withoutKernel (x : ClusterState) (h : Nat) : ClusterState := { x with kernels := x.kernels.filter fun k => k.handle != h }

/-- A cluster with launch `l`, whose core `k` has ended its item. -/
def withItemEnded (x : ClusterState) (k : Core) (l : Launch) : ClusterState :=
  (withLaunch x (some l)).putCore { k with item := none, fault := none, flags := ComputeFlags.none }

/-- A cluster's compute state but for what its cores do. -/
def besideCores (x : ClusterState) : ClusterState := { x with cores := [] }

@[simp] theorem cs_putCs_withQueue (s : State) (c : Nat) (q : List ComputeEntry) :
    (s.putCs (withQueue (s.cs c) q)).cs c = withQueue (s.cs c) q := cs_putCs s (cs_cluster s c)

@[simp] theorem cs_putCs_withLaunch (s : State) (c : Nat) (l : Option Launch) :
    (s.putCs (withLaunch (s.cs c) l)).cs c = withLaunch (s.cs c) l := cs_putCs s (cs_cluster s c)

/-! ### Descriptors join a queue (R214, R219) -/

/-- The five commands that submit a compute descriptor, each with the kind of its entry. -/
def computeSubmissions (r : Requester) (d : ComputeDesc) : List (ComputeKind × Instr) :=
  [(.launch, .launch r d), (.kernelLoad, .kernelLoad r d), (.kernelUnload, .kernelUnload r d), (.modelLoad, .modelLoad r d),
    (.modelUnload, .modelUnload r d)]

theorem exec_computeSubmission {k : ComputeKind} {c : Instr} {r : Requester} {d : ComputeDesc}
    (h : (k, c) ∈ computeSubmissions r d) (s : State) : exec c s = live s fun s => s.computeSubmit k r d := by
  simp only [computeSubmissions, List.mem_cons, List.not_mem_nil, or_false, Prod.mk.injEq] at h
  rcases h with ⟨rfl, rfl⟩ | ⟨rfl, rfl⟩ | ⟨rfl, rfl⟩ | ⟨rfl, rfl⟩ | ⟨rfl, rfl⟩ <;> rfl

theorem csSaved_cluster (s : State) (k c : Nat) : (s.csSaved k c).cluster = c := by
  unfold State.csSaved
  cases h : s.comp.saved.find? fun p => p.1 == k && p.2.cluster == c with
  | none => rfl
  | some p =>
    have hp := List.find?_some h
    simp only [Bool.and_eq_true, beq_iff_eq] at hp
    exact hp.2

/-- The compute state of a cluster kept anew for a context is what is kept for it. -/
theorem csSaved_putComp (s : State) (x : Compute) {k c : Nat} {y : ClusterState} (hy : y.cluster = c)
    (hx : x.saved = (s.comp.saved.filter fun p => !(p.1 == k && p.2.cluster == c)) ++ [(k, y)]) :
    (s.putComp x).csSaved k c = y := by
  have hfind := find?_filter_append (p := fun p : Nat × ClusterState => p.1 == k && p.2.cluster == c) s.comp.saved
    (x := (k, y)) (by simp [hy])
  rw [State.csSaved, putComp_comp, hx, hfind]
  rfl

theorem computeSubmit_keeps_for_context {s : State} {r : Requester} {d : ComputeDesc} (k : ComputeKind)
    (hc : s.hasCluster d.cluster = true) (haway : s.resident d.cluster ≠ some r.ctx) (hown : s.ownsCluster r.ctx d.cluster = true)
    (hroom : (s.csSaved r.ctx d.cluster).queue.length < 64) :
    (s.computeSubmit k r d).status = 0x4600 ∧ ((s.computeSubmit k r d).csSaved r.ctx d.cluster).queue =
      (s.csSaved r.ctx d.cluster).queue ++ [⟨k, r, d⟩] := by
  simp only [State.computeSubmit, hc, haway, hown, ne_eq, not_false_eq_true, decide_true, Bool.and_self, Bool.not_true,
    Bool.false_eq_true, if_true, if_false, Nat.not_le.mpr hroom]
  refine ⟨rfl, congrArg ClusterState.queue (csSaved_putComp (y := { s.csSaved r.ctx d.cluster with queue := _ }) s _ ?_ rfl)⟩
  exact csSaved_cluster ..

theorem computeSubmit_joins {s : State} {r : Requester} {d : ComputeDesc} (k : ComputeKind)
    (hhere : s.resident d.cluster = some r.ctx ∨ s.ownsCluster r.ctx d.cluster = false) (hc : s.hasCluster d.cluster = true)
    (hroom : (s.cs d.cluster).queue.length < 64) :
    (s.computeSubmit k r d).status = 0x4600 ∧ ((s.computeSubmit k r d).cs d.cluster).queue =
      (s.cs d.cluster).queue ++ [⟨k, r, d⟩] := by
  have haway : (decide (s.resident d.cluster ≠ some r.ctx) && s.ownsCluster r.ctx d.cluster) = false := by
    rcases hhere with h | h <;> simp [h]
  simp only [State.computeSubmit, hc, haway, Bool.not_true, Bool.false_eq_true, if_false, Nat.not_le.mpr hroom]
  exact ⟨rfl, congrArg ClusterState.queue (cs_putCs_withQueue s d.cluster _)⟩

/-! ### The head of the queue (R215) -/

/-- The checks of the head read all of a cluster but its queue. -/
theorem computeCheck_dequeued (s : State) (c : Nat) (q : List ComputeEntry) (e : ComputeEntry) :
    (s.putCs (withQueue (s.cs c) q)).computeCheck e = s.computeCheck e := by
  have hkernel (i ctx h : Nat) : (s.putCs (withQueue (s.cs c) q)).kernel? i ctx h = s.kernel? i ctx h := by
    unfold State.kernel?
    by_cases hi : i = c
    · subst hi
      rw [cs_putCs_withQueue]
      rfl
    · rw [cs_putCs_ne s (x := withQueue (s.cs c) q) fun h => hi (h.trans (cs_cluster s c))]
  simp only [State.computeCheck, hkernel]
  rfl

/-- A checked head leaves the queue before it runs. -/
theorem computeHead_runs {s : State} {c : Nat} {e : ComputeEntry} {q : List ComputeEntry} (hq : (s.cs c).queue = e :: q)
    (hnone : (s.cs c).launch = none) (hgo : (s.cs c).stopped = false) (hok : s.computeCheck e = none) :
    let t := s.putCs (withQueue (s.cs c) q)
    (e.kind = .kernelUnload → s.computeHead c = t.doKernelUnload e) ∧
    (e.kind = .launch → s.computeHead c = (t.putCs (withLaunch (t.cs c) (some ⟨e, (bitsOf 8 e.desc.coreMask).zip
      (List.range (bitsOf 8 e.desc.coreMask).length), 0, 0, none, ComputeFlags.none, 0⟩))).startItems c) := by
  have hok' := (computeCheck_dequeued s c q e).trans hok
  have hidle : ((s.cs c).launch.isSome || (s.cs c).stopped) = false := by rw [hnone, hgo]; rfl
  constructor <;> intro hk <;> rw [withQueue] at * <;>
    simp only [State.computeHead, hq, hidle, Bool.false_eq_true, if_false, hok', hk]
  rfl

theorem kernelRegs_comp (s : State) (c : Nat) : (s.kernelRegs c).comp = s.comp := setN_comp ..

theorem num_kernelRegs (s : State) (c : Nat) :
    (s.kernelRegs c).num (Reg.kernel.kernelsLoaded c) = (s.cs c).kernels.length := (num_setN ..).trans (if_pos rfl)

/-- KERNEL_UNLOAD ends with OK and removes the kernel; KERNELS_LOADED counts those that stay. -/
theorem doKernelUnload_unloads (s : State) {e : ComputeEntry} {c : Nat} (hc : e.desc.cluster = c) :
    (s.doKernelUnload e).status = 0x4600 ∧ (s.doKernelUnload e).cs c = withoutKernel (s.cs c) e.desc.kernel ∧
      (s.doKernelUnload e).num (Reg.kernel.kernelsLoaded c) = (withoutKernel (s.cs c) e.desc.kernel).kernels.length := by
  subst hc
  have hput : (s.putCs (withoutKernel (s.cs e.desc.cluster) e.desc.kernel)).cs e.desc.cluster = _ :=
    cs_putCs s (cs_cluster s e.desc.cluster)
  refine ⟨rfl, ?_, ?_⟩
  · exact (cs_congr (s := s.putCs _) (kernelRegs_comp ..) _).trans hput
  · exact (num_kernelRegs ..).trans (congrArg (fun x : ClusterState => x.kernels.length) hput)

theorem kernelUnload_unloads {s : State} {c : Nat} {e : ComputeEntry} {q : List ComputeEntry} (hl : s.alive)
    (hq : (s.cs c).queue = e :: q) (hnone : (s.cs c).launch = none) (hgo : (s.cs c).stopped = false)
    (hok : s.computeCheck e = none) (hc : e.desc.cluster = c) (hk : e.kind = .kernelUnload) :
    Gives (.computeDescriptorHead c) s fun t => t.status = 0x4600 ∧ (t.cs c).queue = q ∧
      (t.cs c).kernels = (s.cs c).kernels.filter (fun k => k.handle != e.desc.kernel) ∧
      (c < 16 → t.num (Reg.kernel.kernelsLoaded c) = (t.cs c).kernels.length) := by
  refine gives_live (f := fun s => s.computeHead c) hl rfl ?_
  obtain ⟨hend, hcs, hnum⟩ := doKernelUnload_unloads (s.putCs (withQueue (s.cs c) q)) hc
  rw [cs_putCs_withQueue] at hcs hnum
  rw [(computeHead_runs hq hnone hgo hok).1 hk, hcs]
  exact ⟨hend, rfl, rfl, fun _ => hnum⟩

theorem startItems_besideCores (s : State) (c : Nat) : besideCores ((s.startItems c).cs c) = besideCores (s.cs c) := by
  unfold State.startItems
  dsimp only
  split
  · rfl
  split
  · rfl
  refine keep_foldl (P := fun t : State => besideCores (t.cs c) = besideCores (s.cs c)) rfl fun t p ht => ?_
  split
  · rw [cs_putCore]
    exact ht
  · exact ht

theorem launch_starts {s : State} {c : Nat} {e : ComputeEntry} {q : List ComputeEntry} (hl : s.alive)
    (hq : (s.cs c).queue = e :: q) (hnone : (s.cs c).launch = none) (hgo : (s.cs c).stopped = false)
    (hok : s.computeCheck e = none) (hk : e.kind = .launch) :
    Gives (.computeDescriptorHead c) s fun t => (t.cs c).queue = q ∧
      let cores := bitsOf 8 e.desc.coreMask
      (t.cs c).launch = some ⟨e, cores.zip (List.range cores.length), 0, 0, none, ComputeFlags.none, 0⟩ := by
  refine gives_live (f := fun s => s.computeHead c) hl rfl ?_
  rw [(computeHead_runs hq hnone hgo hok).2 hk]
  have hstart := startItems_besideCores ((s.putCs (withQueue (s.cs c) q)).putCs
    (withLaunch ((s.putCs (withQueue (s.cs c) q)).cs c) (some ⟨e, (bitsOf 8 e.desc.coreMask).zip
      (List.range (bitsOf 8 e.desc.coreMask).length), 0, 0, none, ComputeFlags.none, 0⟩))) c
  rw [cs_putCs_withLaunch, cs_putCs_withQueue] at hstart
  rw [cs_putCs_withQueue]
  exact ⟨congrArg ClusterState.queue hstart, congrArg ClusterState.launch hstart⟩

/-! ### Work items (R216 to R218) -/

theorem num_bumpIf_ne (s : State) (b : Bool) {k j : Nat} (h : j ≠ k) : (s.bumpIf b k).num j = s.num j := by
  cases b
  · rfl
  · exact (num_bump ..).trans (if_neg h)

/-- The items and cycles counted for a context stand in its own block. -/
theorem num_ctxCounts (s : State) (x n : Nat) {j : Nat} (hj : entryOutside (footMask ⟨[], [.ctx]⟩) .prep j = true) :
    (if x < 64 then (s.bump (Reg.ctx.itemsQ x)).add (Reg.ctx.engineCyclesQ x) n else s).num j = s.num j := by
  have hm : Sub (footMask ⟨[], [.ctx]⟩) (footMask ⟨[], [.ctx]⟩) := ⟨Nat.or_self _⟩
  split
  · exact (keeps_entry (add_keeps (bump_keeps (.refl _ s))) .prep hj).1
  · rfl

/-- The launch once every item of it has ended: it is over, and counted. -/
theorem launchEnds_counts (s : State) (c : Nat) (l : Launch) :
    ((s.launchEnds c l).cs c).launch = none ∧ (s.launchEnds c l).num Reg.prep.items = s.num Reg.prep.items ∧
      (s.launchEnds c l).num Reg.prep.launches = wrap 64 (s.num Reg.prep.launches + 1) := by
  have hcs (u : State) (hu : u.comp = (s.putCs (withLaunch (s.cs c) none)).comp) : (u.cs c).launch = none := by
    rw [cs_congr hu, cs_putCs_withLaunch]
    rfl
  have hnum (x : Nat) (u : State) {k : Nat} (hk : entryOutside refusalZones .prep k = true) :
      (u.refuse 0x4614 c x).num k = u.num k := num_refuse u _ _ _ .prep hk
  have hne : Reg.prep.items ≠ Reg.prep.launches := by decide
  rw [State.launchEnds]
  by_cases hf : l.faulted = 0
  · simp only [hf, if_true]
    refine ⟨hcs _ (by simp [withLaunch]), ?_, ?_⟩ <;>
      simp (disch := decide) [num_bumpIf_ne, num_bump, hne]
  · simp only [hf, if_false]
    refine ⟨hcs _ (by simp [withLaunch]), ?_, ?_⟩ <;> rw [hnum _ _ (by decide +kernel)] <;>
      simp (disch := decide) [num_bumpIf_ne, num_bump, hne]

/-- Core `k`, idle again, and its launch, now `l`, are put back, and the item is counted, for its context too. -/
def itemCounted (s : State) (c : Nat) (k : Core) (l : Launch) (cycles : Nat) : State :=
  let t := (s.putCs (withItemEnded (s.cs c) k l)).bump Reg.prep.items
  if l.entry.req.ctx < 64 then (t.bump (Reg.ctx.itemsQ l.entry.req.ctx)).add (Reg.ctx.engineCyclesQ l.entry.req.ctx) cycles else t

theorem itemCounted_launch (s : State) (c : Nat) (k : Core) (l : Launch) (n : Nat) :
    ((itemCounted s c k l n).cs c).launch = some l := by
  have hcomp : (itemCounted s c k l n).comp = (s.putCs (withItemEnded (s.cs c) k l)).comp := by
    unfold itemCounted
    dsimp only
    split <;> simp only [add_comp, bump_comp]
  rw [cs_congr hcomp, cs_putCs s (x := withItemEnded (s.cs c) k l) (cs_cluster s c)]
  rfl

theorem num_itemCounted (s : State) (c : Nat) (k : Core) (l : Launch) (n : Nat) :
    (itemCounted s c k l n).num Reg.prep.items = wrap 64 (s.num Reg.prep.items + 1) ∧
      (itemCounted s c k l n).num Reg.prep.launches = s.num Reg.prep.launches := by
  unfold itemCounted
  dsimp only
  rw [num_ctxCounts _ _ _ (by decide +kernel), num_ctxCounts _ _ _ (by decide +kernel), num_bump, num_bump]
  exact ⟨rfl, rfl⟩

/-- An item of a launch that ends without a fault and carries no grading is counted; then the launch is over, or its cores go
on. -/
theorem itemEnds_unfaulted {s : State} {c i n : Nat} {l : Launch} {x : ItemEnd} (hl : (s.cs c).launch = some l)
    (hn : (s.core c i).item = some n) (hf : (s.core c i).fault = none) (hx : x.fault = 0) (hg : x.grade = none) :
    let u := l.ended i n none (s.itemSample l.entry n) x.cycles (s.core c i).flags
    let t := itemCounted s c (s.core c i) u x.cycles
    s.itemEnds c i x = if l.done + 1 + l.faulted = l.entry.desc.items then t.launchEnds c u else t.startItems c := by
  simp only [State.itemEnds, hl, hn, hf, hx, hg]
  rfl

theorem workItemEnd_counts {s : State} {c i n : Nat} {l : Launch} {x : ItemEnd} (hal : s.alive)
    (hl : (s.cs c).launch = some l) (hn : (s.core c i).item = some n) (hf : (s.core c i).fault = none) (hx : x.fault = 0)
    (hg : x.grade = none) : Gives (.workItemEnd c i x) s fun t =>
      t.num Reg.prep.items = wrap 64 (s.num Reg.prep.items + 1) ∧
      if l.done + 1 + l.faulted = l.entry.desc.items then
        (t.cs c).launch = none ∧ t.num Reg.prep.launches = wrap 64 (s.num Reg.prep.launches + 1)
      else ∃ m, (t.cs c).launch = some m ∧ m.entry = l.entry ∧ m.done = l.done + 1 ∧ m.faulted = l.faulted ∧
        m.cycles = l.cycles + x.cycles := by
  refine gives_live (f := fun s => s.itemEnds c i x) hal rfl ?_
  rw [itemEnds_unfaulted hl hn hf hx hg]
  generalize hu : l.ended i n none (s.itemSample l.entry n) x.cycles (s.core c i).flags = u
  have hlaunch := itemCounted_launch s c (s.core c i) u x.cycles
  obtain ⟨hitems, hcount⟩ := num_itemCounted s c (s.core c i) u x.cycles
  generalize itemCounted s c (s.core c i) u x.cycles = t at *
  split
  · obtain ⟨hover, hitems', hcount'⟩ := launchEnds_counts t c u
    exact ⟨hitems'.trans hitems, hover, hcount'.trans (by rw [hcount])⟩
  · have hnum := (keeps_entry (startItems_keeps (μ := 0x4000) (c := c) (.refl _ t) ⟨by decide +kernel⟩) .prep
      (k := Reg.prep.items) (by decide +kernel)).1
    have hgoes := (congrArg ClusterState.launch (startItems_besideCores t c)).trans hlaunch
    subst hu
    exact ⟨hnum.trans hitems, _, hgoes, rfl, rfl, rfl, rfl⟩

theorem itemBudget_faults {s : State} {c i pc n : Nat} (hal : s.alive) (hn : (s.core c i).item = some n)
    (hf : (s.core c i).fault = none) : Gives (.itemBudget c i pc) s fun t =>
      (t.core c i).fault = some (4, pc) ∧ (t.core c i).tile = (s.core c i).tile := by
  refine gives_live (f := fun s => s.putCore c ((s.core c i).faults 4 pc)) hal rfl ?_
  have hfault : (s.core c i).faults 4 pc = { s.core c i with fault := some (4, pc) } := by simp [Core.faults, hn, hf]
  rw [core_putCore s c (by rw [hfault]; exact core_idx ..), hfault]
  exact ⟨rfl, rfl⟩

/-- Settles O30: by the queue that each descriptor joins, what the head runs, and what an item's end leaves of its launch. -/
theorem computeCommandsComplete : Obligations.ComputeCommandsComplete := by
  intro s r d _ hl
  have hjoins (k : ComputeKind) {c : Instr} (h : (k, c) ∈ computeSubmissions r d) (p : State → Prop)
      (hp : p (s.computeSubmit k r d)) : Gives c s p :=
    gives_live (f := fun s => s.computeSubmit k r d) hl (exec_computeSubmission h s) hp
  refine ⟨fun k c h hc haway hown hroom => hjoins k h _ (computeSubmit_keeps_for_context k hc haway hown hroom),
    fun hhere hc hroom => ?_,
    fun _ _ _ hq hnone hgo hok hc hk => kernelUnload_unloads hl hq hnone hgo hok hc hk,
    fun _ _ _ hq hnone hgo hok hk => launch_starts hl hq hnone hgo hok hk,
    fun _ _ _ _ _ hlaunch hn hf hx hg => workItemEnd_counts hl hlaunch hn hf hx hg,
    fun _ _ _ _ hn hf => itemBudget_faults hl hn hf⟩
  have hall (k : ComputeKind) {c : Instr} (h : (k, c) ∈ computeSubmissions r d) :=
    hjoins k h (fun t => t.status = 0x4600 ∧ (t.cs d.cluster).queue = (s.cs d.cluster).queue ++ [⟨k, r, d⟩])
      (computeSubmit_joins k hhere hc hroom)
  exact ⟨hall _ (by simp [computeSubmissions]), hall _ (by simp [computeSubmissions]), hall _ (by simp [computeSubmissions]),
    hall _ (by simp [computeSubmissions]), hall _ (by simp [computeSubmissions])⟩

end Sys2Proof.Proofs
end

section
/-! Engines and DMA (R195 to R211): an instruction that reaches an idle engine runs at once and leaves what Table 7-3 gives for it;
a transfer is in flight from its issue until it completes. -/
namespace Sys2Proof.Proofs
open Sys2Proof.Machine Sys2Proof.Laws
set_option Elab.async false

/-! ### The engines of a core -/

@[simp] theorem engine_idx (k : Core) (e : Nat) : (k.engine e).idx = e := key_find?_getD Engine.idx _ rfl

theorem engine_putEngine (k : Core) {g : Engine} {e : Nat} (hg : g.idx = e) : (k.putEngine g).engine e = g := by
  subst hg
  exact congrArg (Option.getD · _) (find?_filter_append (p := fun f : Engine => f.idx == g.idx) _ (beq_self_eq_true _))

theorem engine_putEngine_ne (k : Core) {g : Engine} {e : Nat} (he : e ≠ g.idx) : (k.putEngine g).engine e = k.engine e :=
  congrArg (Option.getD · _) (find?_replace_ne Engine.idx _ he)

/-- Engine `e` of a core waits for nothing and has nothing queued. -/
def EngineIdle (k : Core) (e : Nat) : Prop := (k.engine e).wait = none ∧ (k.engine e).queue = []

theorem engineIdle_putEngine {k : Core} {g : Engine} {e : Nat} (hk : ∀ f, f ≠ e → EngineIdle k f) (hg : g.idx = e) :
    ∀ f, f ≠ e → EngineIdle (k.putEngine g) f := fun f hf => by
  rw [EngineIdle, engine_putEngine_ne k (hg ▸ hf)]
  exact hk f hf

/-! ### What an instruction reads of its engine and core

An instruction reads neither the number, the wait and the queue of its engine, nor the number and the list of engines of its
core, and leaves them as they were: it commutes with giving it others. -/

/-- Engine `e` with the number, the wait and the queue of `g`. -/
def frameEngine (g e : Engine) : Engine := { e with idx := g.idx, wait := g.wait, queue := g.queue }

/-- Core `c` with the number and the engines of `k`. -/
def frameCore (k c : Core) : Core := { c with idx := k.idx, engines := k.engines }

def frameCtx (k : Core) (g : Engine) (x : EngineCtx) : EngineCtx :=
  { x with core := frameCore k x.core, eng := frameEngine g x.eng }

section
variable (k : Core) (g e : Engine) (x : EngineCtx)

@[simp] theorem frameEngine_putAcc (t : AccKind) (n : Nat) (l : List AccCell) :
    (frameEngine g e).putAcc t n l = frameEngine g (e.putAcc t n l) := rfl
@[simp] theorem frameEngine_putOperand (t : OpTile) : (frameEngine g e).putOperand t = frameEngine g (e.putOperand t) := rfl
@[simp] theorem frameEngine_putVec (n v : Nat) : (frameEngine g e).putVec n v = frameEngine g (e.putVec n v) := rfl

@[simp] theorem frameEngine_putFile (f : NumFmt) (a n : Nat) (l : List Nat) :
    (frameEngine g e).putFile f a n l = frameEngine g (e.putFile f a n l) := by
  unfold Engine.putFile
  generalize List.range n = is
  induction is generalizing e with
  | nil => rfl
  | cons i is ih => exact ih (e.putVec (a + i) _)

@[simp] theorem frameCtx_eng : (frameCtx k g x).eng = frameEngine g x.eng := rfl
@[simp] theorem frameCtx_core : (frameCtx k g x).core = frameCore k x.core := rfl
@[simp] theorem frameCore_tile (c : Core) : (frameCore k c).tile = c.tile := rfl

@[simp] theorem frameCtx_fault (code pc : Nat) : (frameCtx k g x).fault code pc = frameCtx k g (x.fault code pc) := by
  have hfault : (frameCore k x.core).faults code pc = frameCore k (x.core.faults code pc) := by
    unfold Core.faults
    rw [apply_ite (frameCore k)]
    rfl
  simp only [EngineCtx.fault, frameCtx, hfault]

theorem frameCtx_ite {c : Prop} [Decidable c] {x₁ x₂ y₁ y₂ : EngineCtx} (h₁ : y₁ = frameCtx k g x₁) (h₂ : y₂ = frameCtx k g x₂) :
    (if c then y₁ else y₂) = frameCtx k g (if c then x₁ else x₂) := by
  rw [h₁, h₂, apply_ite (frameCtx k g)]

theorem runLdSt_frameCtx (pc : Nat) (o : LdSt) : runLdSt (frameCtx k g x) pc o = frameCtx k g (runLdSt x pc o) := by
  obtain ⟨store, reg, fmt, addr⟩ := o
  unfold runLdSt
  dsimp only
  refine frameCtx_ite k g (frameCtx_fault ..) (frameCtx_ite k g (frameCtx_fault ..) (frameCtx_ite k g ?_ ?_))
  · rfl
  · cases reg <;> simp only [frameCtx_eng, frameCtx_core, frameCore_tile, frameEngine_putOperand, frameEngine_putVec,
      frameEngine_putAcc] <;> rfl

theorem runMma_frameCtx (pc : Nat) (o : MmaOp) : runMma (frameCtx k g x) pc o = frameCtx k g (runMma x pc o) :=
  frameCtx_ite k g (frameCtx_fault ..) rfl

theorem runAcc_frameCtx (pc : Nat) (o : AccOp) : runAcc (frameCtx k g x) pc o = frameCtx k g (runAcc x pc o) := by
  obtain ⟨action, reg, addr⟩ := o
  unfold runAcc
  cases reg.acc? with
  | none => exact frameCtx_fault ..
  | some t =>
    refine frameCtx_ite k g (frameCtx_fault ..) ?_
    cases action with
    | clear => rfl
    | store => exact runLdSt_frameCtx ..
    | add => exact frameCtx_ite k g (frameCtx_fault ..) rfl

theorem runCvt_frameCtx (pc : Nat) (o : CvtOp) : runCvt (frameCtx k g x) pc o = frameCtx k g (runCvt x pc o) := by
  have hin (r : EngReg) : cvtInput (frameCtx k g x) r = cvtInput x r := by cases r <;> rfl
  unfold runCvt
  rw [hin]
  exact frameCtx_ite k g (frameCtx_fault ..) (frameCtx_ite k g (frameCtx_fault ..) rfl)

theorem runValu_frameCtx (pc : Nat) (o : ValuOp) : runValu (frameCtx k g x) pc o = frameCtx k g (runValu x pc o) :=
  frameCtx_ite k g (frameCtx_fault ..) rfl

theorem runVred_frameCtx (pc : Nat) (o : VredOp) : runVred (frameCtx k g x) pc o = frameCtx k g (runVred x pc o) :=
  frameCtx_ite k g (frameCtx_fault ..) rfl

theorem runVperm_frameCtx (pc : Nat) (o : VpermOp) : runVperm (frameCtx k g x) pc o = frameCtx k g (runVperm x pc o) := by
  obtain ⟨fn, lane, dst, a, idx, count⟩ := o
  cases fn with
  | permute => exact frameCtx_ite k g (frameCtx_fault ..) rfl
  | gather => exact frameCtx_ite k g (frameCtx_fault ..) rfl
  | scatter | transpose =>
    refine frameCtx_ite k g (frameCtx_fault ..) ?_
    simp only [frameCtx_eng, frameEngine_putFile]
    rfl

theorem runEngine_frameCtx (pc : Nat) (o : EngineOp) : runEngine (frameCtx k g x) pc o = frameCtx k g (runEngine x pc o) := by
  cases o with
  | ldSt o => exact runLdSt_frameCtx k g x pc o
  | mma o => exact runMma_frameCtx k g x pc o
  | acc o => exact runAcc_frameCtx k g x pc o
  | cvt o => exact runCvt_frameCtx k g x pc o
  | valu o => exact runValu_frameCtx k g x pc o
  | vred o => exact runVred_frameCtx k g x pc o
  | vperm o => exact runVperm_frameCtx k g x pc o
  | sync t => rfl

/-- So an instruction keeps its engine's number, wait and queue, and its core's number and engines. -/
theorem runEngine_framed (pc : Nat) (o : EngineOp) : frameCtx x.core x.eng (runEngine x pc o) = runEngine x pc o :=
  (runEngine_frameCtx x.core x.eng x pc o).symm

end

end Sys2Proof.Proofs
end

section
/-! The in-order queue of an engine (R197): an instruction that reaches an idle engine of a core whose item has not faulted runs at
once, and a SYNC waits unless what it waits for has come. -/
namespace Sys2Proof.Proofs
open Sys2Proof.Machine Sys2Proof.Laws
set_option Elab.async false

/-! ### One engine goes on -/

/-- One engine of a core goes on: its wait ends where what it waits for has come, and its queue runs. -/
def wakeEngine (s : State) (c i e : Nat) : State :=
  let t := match ((s.core c i).engine e).wait with
    | some t => if (s.core c i).syncMet e t then s.putCore c ((s.core c i).syncEnd e t) else s
    | none => s
  t.drainEngine c i e ((t.core c i).engine e).queue.length

theorem wakeEngines_eq (s : State) (c i : Nat) :
    s.wakeEngines c i = wakeEngine (wakeEngine (wakeEngine s c i 0) c i 1) c i 0 := by
  have hfold : s.wakeEngines c i = [0, 1, 0].foldl (fun t e => wakeEngine t c i e) s := rfl
  rw [hfold, List.foldl_cons, List.foldl_cons, List.foldl_cons, List.foldl_nil]

theorem wakeEngine_idle {s : State} {c i e : Nat} (h : EngineIdle (s.core c i) e) : wakeEngine s c i e = s := by
  obtain ⟨hwait, hqueue⟩ := h
  simp only [wakeEngine, hwait, hqueue]
  rfl

theorem wakeEngine_waiting {s : State} {c i e : Nat} {t : SyncTarget} (hwait : ((s.core c i).engine e).wait = some t)
    (hqueue : ((s.core c i).engine e).queue = []) (hmet : (s.core c i).syncMet e t = false) : wakeEngine s c i e = s := by
  simp only [wakeEngine, hwait, hmet, Bool.false_eq_true, if_false, hqueue]
  rfl

/-- An engine with queue `l`. -/
def withOps (g : Engine) (l : List (Nat × EngineOp)) : Engine := { g with queue := l }

@[simp] theorem withOps_idx (k : Core) (e : Nat) (l : List (Nat × EngineOp)) : (withOps (k.engine e) l).idx = e :=
  engine_idx k e

/-- The core with nothing queued at engine `e`. -/
def drained (k : Core) (e : Nat) : Core := k.putEngine (withOps (k.engine e) [])

/-- The core with engine `e` waiting at a SYNC. -/
def waiting (k : Core) (e : Nat) (t : SyncTarget) : Core := k.putEngine { k.engine e with wait := some t }

/-- Engine `e` executes the instruction it has taken from its queue. -/
def runTaken (s : State) (c i e pc : Nat) : EngineOp → State
  | .sync t => s.putCore c (if (s.core c i).syncMet e t then (s.core c i).syncEnd e t else waiting (s.core c i) e t)
  | o => s.engineExec c i e pc o

/-- The one instruction in an engine's queue runs. -/
theorem wakeEngine_one {s : State} {c i e pc : Nat} {o : EngineOp} (hf : (s.core c i).fault = none)
    (hwait : ((s.core c i).engine e).wait = none) (hqueue : ((s.core c i).engine e).queue = [(pc, o)]) :
    wakeEngine s c i e = runTaken (s.putCore c (drained (s.core c i) e)) c i e pc o := by
  have hgo : ¬((((s.core c i).engine e).wait.isSome || (s.core c i).fault.isSome) = true) := by simp [hwait, hf]
  have hwake : wakeEngine s c i e = s.drainEngine c i e 1 := by simp only [wakeEngine, hwait, hqueue, List.length_singleton]
  rw [hwake, State.drainEngine]
  dsimp only
  rw [if_neg hgo]
  split
  · next h => rw [hqueue] at h; cases h
  · next pc' o' l h =>
    rw [hqueue] at h
    cases h
    cases o <;> rfl

/-- Where the engines of a core but `e` are idle, the core's engines go on as `e` does, if that leaves nothing to go on with. -/
theorem wakeEngines_one {s t : State} {c i e : Nat} (he : e < 2) (hs : ∀ f, f ≠ e → EngineIdle (s.core c i) f)
    (hrun : wakeEngine s c i e = t) (ht : ∀ f, f ≠ e → EngineIdle (t.core c i) f) (hsettled : wakeEngine t c i e = t) :
    s.wakeEngines c i = t := by
  rw [wakeEngines_eq]
  obtain rfl | rfl : e = 0 ∨ e = 1 := by omega
  · rw [hrun, wakeEngine_idle (ht 1 (by decide)), hsettled]
  · rw [wakeEngine_idle (hs 0 (by decide)), hrun, wakeEngine_idle (ht 0 (by decide))]

theorem wakeEngines_idle {s : State} {c i : Nat} (h : (s.core c i).idle) : s.wakeEngines c i = s := by
  rw [wakeEngines_eq, wakeEngine_idle (h 0), wakeEngine_idle (h 1), wakeEngine_idle (h 0)]

/-! ### An instruction reaches an idle engine -/

/-- The core with one instruction more queued at engine `e`. -/
def queued (k : Core) (e pc : Nat) (o : EngineOp) : Core :=
  k.putEngine (withOps (k.engine e) ((k.engine e).queue ++ [(pc, o)]))

/-- The core once engine `e` has taken the instruction from its queue. -/
def taken (k : Core) (e pc : Nat) (o : EngineOp) : Core := drained (queued k e pc o) e

theorem queued_engine (k : Core) (e pc : Nat) (o : EngineOp) :
    (queued k e pc o).engine e = withOps (k.engine e) ((k.engine e).queue ++ [(pc, o)]) :=
  engine_putEngine k (withOps_idx ..)

@[simp] theorem taken_idx (k : Core) (e pc : Nat) (o : EngineOp) : (taken k e pc o).idx = k.idx := rfl

/-- Nothing is left of an instruction taken by an idle engine. -/
theorem taken_engine {k : Core} (hk : k.idle) (e pc : Nat) (o : EngineOp) (f : Nat) :
    (taken k e pc o).engine f = k.engine f := by
  by_cases hf : f = e
  · subst hf
    have hempty : withOps (k.engine f) [] = k.engine f := by rw [← (hk f).2]; rfl
    rw [taken, drained, engine_putEngine _ (withOps_idx ..), queued_engine]
    exact hempty
  · have hne (k : Core) (l : List (Nat × EngineOp)) : f ≠ (withOps (k.engine e) l).idx := by simpa using hf
    rw [taken, drained, engine_putEngine_ne _ (hne _ _), queued, engine_putEngine_ne _ (hne _ _)]

section
variable {s : State} {a : EngineAt} (hc : s.hasCluster a.cluster = true) (hcore : a.core < 8) (heng : a.engine < 2)
  (hf : (s.core a.cluster a.core).fault = none) (hidle : (s.core a.cluster a.core).idle)

/-- The state in which an engine runs an instruction that has reached it idle. -/
def taking (s : State) (a : EngineAt) (o : EngineOp) : State :=
  (s.putCore a.cluster (queued (s.core a.cluster a.core) a.engine a.pc o)).putCore a.cluster
    (taken (s.core a.cluster a.core) a.engine a.pc o)

theorem taking_core (s : State) (a : EngineAt) (o : EngineOp) :
    (taking s a o).core a.cluster a.core = taken (s.core a.cluster a.core) a.engine a.pc o := core_putCore _ _ (core_idx ..)

include hc hcore heng hf hidle

theorem issue_runs {o : EngineOp} {t : State}
    (hrun : runTaken (taking s a o) a.cluster a.core a.engine a.pc o = t)
    (ht : ∀ f, f ≠ a.engine → EngineIdle (t.core a.cluster a.core) f)
    (hsettled : wakeEngine t a.cluster a.core a.engine = t) : s.issue a o = t := by
  let k := s.core a.cluster a.core
  have hissue : s.issue a o = (s.putCore a.cluster (queued k a.engine a.pc o)).wakeEngines a.cluster a.core := by
    simp only [State.issue, hc, hf, Nat.not_le.mpr hcore, Nat.not_le.mpr heng, Bool.not_true, decide_false, Bool.or_self,
      Option.isSome_none, Bool.false_eq_true, if_false]
    rfl
  have hput : (s.putCore a.cluster (queued k a.engine a.pc o)).core a.cluster a.core = queued k a.engine a.pc o :=
    core_putCore _ _ (core_idx ..)
  obtain ⟨hwait, hqueue⟩ := hidle a.engine
  rw [hissue]
  refine wakeEngines_one heng (fun f hfe => ?_) ((wakeEngine_one (pc := a.pc) (o := o) ?_ ?_ ?_).trans ?_) ht hsettled
  · rw [hput]
    exact engineIdle_putEngine (fun f _ => hidle f) (withOps_idx k a.engine _) f hfe
  · rw [hput]
    exact hf
  · rw [hput, queued_engine]
    exact hwait
  · rw [hput, queued_engine, hqueue]
    rfl
  · rw [hput]
    exact hrun

/-- An instruction but SYNC leaves the engine and the core as it does where they stand. -/
theorem issue_leaves {o : EngineOp} (ho : ∀ t, o ≠ .sync t) :
    (runEngine (s.engineCtx a.cluster a.core a.engine) a.pc o).leaves a (s.issue a o) := by
  let k := taken (s.core a.cluster a.core) a.engine a.pc o
  let x := s.engineCtx a.cluster a.core a.engine
  generalize hy : runEngine x a.pc o = y
  have hframed : y.eng = frameEngine x.eng y.eng := by
    rw [← hy]
    exact congrArg EngineCtx.eng (runEngine_framed x a.pc o).symm
  have hctx : (taking s a o).engineCtx a.cluster a.core a.engine = frameCtx k x.eng x := by
    have hentry : (taking s a o).itemDesc a.cluster = s.itemDesc a.cluster := by
      simp only [State.itemDesc, taking, cs_putCore]
      rfl
    simp only [State.engineCtx, hentry, taking_core, taken_engine hidle]
    rfl
  have hexec : runTaken (taking s a o) a.cluster a.core a.engine a.pc o =
      (taking s a o).engineExec a.cluster a.core a.engine a.pc o := by
    cases o with
    | sync t => exact absurd rfl (ho t)
    | _ => rfl
  have hleft : ((taking s a o).engineExec a.cluster a.core a.engine a.pc o).core a.cluster a.core =
      (frameCore k y.core).putEngine y.eng := by
    have hidx : ((frameCore k y.core).putEngine y.eng).idx = a.core := by
      rw [show ((frameCore k y.core).putEngine y.eng).idx = k.idx from rfl, taken_idx, core_idx]
    have hcomp : ((taking s a o).engineExec a.cluster a.core a.engine a.pc o).comp =
        ((taking s a o).putCore a.cluster ((frameCore k y.core).putEngine y.eng)).comp := by
      simp only [State.engineExec, hctx, runEngine_frameCtx, hy, frameCtx_core, frameCtx_eng, ← hframed]
      split <;> rfl
    rw [core_congr (congrArg ClusterState.cores (cs_congr hcomp _)),
      core_putCore _ _ (k := (frameCore k y.core).putEngine y.eng) hidx]
  have hself : y.eng.idx = a.engine := by
    rw [hframed]
    exact engine_idx ..
  have hrest : ∀ f, f ≠ a.engine → EngineIdle ((frameCore k y.core).putEngine y.eng) f := by
    refine engineIdle_putEngine (fun f _ => ?_) hself
    have hf' : (frameCore k y.core).engine f = (s.core a.cluster a.core).engine f :=
      taken_engine hidle a.engine a.pc o f
    rw [EngineIdle, hf']
    exact hidle f
  rw [issue_runs hc hcore heng hf hidle hexec (by rwa [hleft]) (wakeEngine_idle ?_)]
  · rw [EngineCtx.leaves, hleft, engine_putEngine _ hself]
    exact ⟨rfl, rfl, rfl, rfl⟩
  · rw [hleft, EngineIdle, engine_putEngine _ hself, hframed]
    exact hidle a.engine

end

end Sys2Proof.Proofs
end

section
/-! SYNC (R197) and DMA (R195): a SYNC waits unless what it waits for has come; a transfer is in flight until it completes. -/
namespace Sys2Proof.Proofs
open Sys2Proof.Machine Sys2Proof.Laws
set_option Elab.async false

/-! ### SYNC -/

/-- Where the other engines are idle, what a SYNC waits for has come or not with the transfers in flight alone. -/
theorem syncMet_congr {k m : Core} {e : Nat} {t : SyncTarget} (ht : t ≠ .engine e) (hk : ∀ f, f ≠ e → EngineIdle k f)
    (hm : ∀ f, f ≠ e → EngineIdle m f) (hdma : m.dma = k.dma) : m.syncMet e t = k.syncMet e t := by
  cases t with
  | engine n =>
    have hn : n ≠ e := fun h => ht (by rw [h])
    simp only [Core.syncMet, (hk n hn).1, (hm n hn).1]
  | controlCore => rfl
  | dma => rw [Core.syncMet, Core.syncMet, hdma]

/-- An engine with what it waits for. -/
def withWait (g : Engine) (t : Option SyncTarget) : Engine := { g with wait := t }

@[simp] theorem withWait_idx (k : Core) (e : Nat) (t : Option SyncTarget) : (withWait (k.engine e) t).idx = e := engine_idx k e

/-- The core after a SYNC of an idle engine among idle ones: the engine waits for it unless it is met at once. -/
theorem synced {k : Core} (hk : k.idle) {e : Nat} {t : SyncTarget} (ht : t ≠ .engine e) :
    (if k.syncMet e t then k.syncEnd e t else waiting k e t) =
      k.putEngine (withWait (k.engine e) (if k.syncMet e t then none else some t)) := by
  cases t with
  | engine n =>
    have hmet : k.syncMet e (.engine n) = false := by simp only [Core.syncMet, (hk n).1]; rfl
    simp only [hmet, Bool.false_eq_true, if_false]
    rfl
  | controlCore => rfl
  | dma => split <;> rfl

theorem issue_syncs {s : State} {a : EngineAt} (hc : s.hasCluster a.cluster = true) (hcore : a.core < 8) (heng : a.engine < 2)
    (hf : (s.core a.cluster a.core).fault = none) (hidle : (s.core a.cluster a.core).idle) {t : SyncTarget}
    (ht : t ≠ .engine a.engine) : (((s.issue a (.sync t)).core a.cluster a.core).engine a.engine).wait =
      if (s.core a.cluster a.core).syncMet a.engine t then none else some t := by
  let k := taken (s.core a.cluster a.core) a.engine a.pc (.sync t)
  have hk : k.idle := fun f => by
    rw [taken_engine hidle]
    exact hidle f
  have hmet : k.syncMet a.engine t = (s.core a.cluster a.core).syncMet a.engine t :=
    syncMet_congr ht (fun f _ => hidle f) (fun f _ => hk f) rfl
  let g := withWait (k.engine a.engine) (if k.syncMet a.engine t then none else some t)
  have hrun : runTaken (taking s a (.sync t)) a.cluster a.core a.engine a.pc (.sync t) =
      (taking s a (.sync t)).putCore a.cluster (k.putEngine g) := by
    rw [runTaken, taking_core, synced hk ht]
  have hput : ((taking s a (.sync t)).putCore a.cluster (k.putEngine g)).core a.cluster a.core = k.putEngine g :=
    core_putCore _ _ (core_idx s a.cluster a.core)
  have hg : (k.putEngine g).engine a.engine = g := engine_putEngine k (withWait_idx ..)
  have hrest := engineIdle_putEngine (fun f _ => hk f) (withWait_idx k a.engine (if k.syncMet a.engine t then none else some t))
  rw [issue_runs hc hcore heng hf hidle hrun (by rw [hput]; exact hrest) ?_, hput, hg, ← hmet]
  · rfl
  · by_cases h : k.syncMet a.engine t = true
    · refine wakeEngine_idle ?_
      rw [hput, EngineIdle, hg]
      exact ⟨if_pos h, (hk a.engine).2⟩
    · refine wakeEngine_waiting (t := t) ?_ ?_ ?_ <;> rw [hput]
      · rw [hg]
        exact if_neg h
      · rw [hg]
        exact (hk a.engine).2
      · rw [syncMet_congr ht (fun f _ => hk f) hrest rfl]
        simpa using h

/-! ### DMA -/

@[simp] theorem bufFlight_comp (s : State) (h : Nat) (up : Bool) : (s.bufFlight h up).comp = s.comp :=
  comp_of_keeps (bufFlight_keeps (.refl _ s) ⟨by decide +kernel⟩)

@[simp] theorem bufWrite_comp (s : State) (h off : Nat) (v : Bytes) : (s.bufWrite h off v).comp = s.comp :=
  comp_of_keeps (bufWrite_keeps (.refl _ s) ⟨by decide +kernel⟩)

theorem core_of_comp {s t : State} (h : t.comp = s.comp) (c i : Nat) : t.core c i = s.core c i := by
  rw [State.core, State.core, cs_congr h]

theorem dmaTransfer_flies {s : State} {c i : Nat} (pc : Nat) {o : DmaOp} (hl : s.alive) (hc : s.hasCluster c = true) (hi : i < 8)
    (hf : (s.core c i).fault = none) (hok : s.dmaFault c i o = none) :
    Gives (.dmaTransfer c i pc o) s fun t => (t.core c i).dma = (s.core c i).dma ++ [o] := by
  refine gives_live (f := fun s => s.dmaIssue c i pc o) hl rfl ?_
  have hgo : (!s.hasCluster c || decide (8 ≤ i) || (s.core c i).fault.isSome) = false := by
    simp [hc, Nat.not_le.mpr hi, hf]
  have hcore : (s.dmaIssue c i pc o).core c i = { s.core c i with dma := (s.core c i).dma ++ [o] } := by
    unfold State.dmaIssue
    simp only [hgo, Bool.false_eq_true, if_false, hok]
    rw [core_of_comp (s := s.putCore c { s.core c i with dma := (s.core c i).dma ++ [o] }) (by split <;> simp)]
    exact core_putCore s c (core_idx ..)
  rw [hcore]

/-- A core with other tile memory. -/
def withTile (k : Core) (m : List (Nat × Byte)) : Core := { k with tile := m }

@[simp] theorem withTile_idx (s : State) (c i : Nat) (m : List (Nat × Byte)) : (withTile (s.core c i) m).idx = i :=
  core_idx s c i

/-- A cluster with other SRAM. -/
def withSram (x : ClusterState) (m : List (Nat × Byte)) : ClusterState := { x with sram := m }

/-- A row of a transfer changes nothing of its core but tile memory. -/
theorem dmaRow_core (s : State) (c i : Nat) (o : DmaOp) (r : Nat) : ∃ m, (s.dmaRow c i o r).core c i = withTile (s.core c i) m := by
  have hin (b : Bytes) : (s.putCore c (withTile (s.core c i) (writeMem (s.core c i).tile (o.tileAddr + o.tileStride * r) b))).core c i =
      withTile (s.core c i) _ := core_putCore s c (withTile_idx ..)
  have hsram (m : List (Nat × Byte)) : (s.putCs (withSram (s.cs c) m)).core c i = s.core c i :=
    core_congr (by rw [cs_putCs s (x := withSram (s.cs c) m) (cs_cluster s c)]; rfl) i
  unfold State.dmaRow
  dsimp only
  split
  · split
    · exact ⟨_, hin _⟩
    · exact ⟨(s.core c i).tile, hsram _⟩
  · split
    · exact ⟨_, hin _⟩
    · exact ⟨_, rfl⟩
  · split
    · exact ⟨_, hin _⟩
    · exact ⟨_, core_of_comp (bufWrite_comp ..) c i⟩

/-- The core without the oldest transfer in flight. -/
def landed (k : Core) : Core := { k with dma := k.dma.tail }

/-- The state in which the rows of a core's oldest transfer have been moved. -/
def dmaMoved (s : State) (c i : Nat) (o : DmaOp) : State :=
  (List.range o.rows).foldl (fun t r => t.dmaRow c i o r) (s.putCore c (landed (s.core c i)))

theorem dmaMoved_core (s : State) (c i : Nat) (o : DmaOp) :
    ∃ m, (dmaMoved s c i o).core c i = withTile (landed (s.core c i)) m := by
  refine keep_foldl (P := fun t : State => ∃ m, t.core c i = withTile (landed (s.core c i)) m)
    ⟨(s.core c i).tile, core_putCore s c (core_idx s c i)⟩ fun t r ⟨m, ht⟩ => ?_
  obtain ⟨n, hn⟩ := dmaRow_core t c i o r
  exact ⟨n, by rw [hn, ht]; rfl⟩

/-- A completed transfer to or from a buffer is no longer in flight at it. -/
def bufLanded (s : State) : DmaSpace → State
  | .buffer h _ => s.bufFlight h false
  | _ => s

theorem bufLanded_comp (s : State) (far : DmaSpace) : (bufLanded s far).comp = s.comp := by
  cases far with
  | buffer h off => exact bufFlight_comp ..
  | _ => rfl

/-- The oldest transfer of a core whose engines are idle completes. -/
theorem dmaDone_core {s : State} {c i : Nat} {o : DmaOp} {l : List DmaOp} (hidle : (s.core c i).idle)
    (hdma : (s.core c i).dma = o :: l) : (s.dmaDone c i).core c i = (dmaMoved s c i o).core c i := by
  have ht := core_of_comp (bufLanded_comp (dmaMoved s c i o) o.far) c i
  have hdone : s.dmaDone c i = (bufLanded (dmaMoved s c i o) o.far).wakeEngines c i := by
    have hland : landed (s.core c i) = { s.core c i with dma := l } := by rw [landed, hdma]; rfl
    simp only [State.dmaDone, hdma, dmaMoved, hland]
    cases o.far <;> rfl
  obtain ⟨m, hm⟩ := dmaMoved_core s c i o
  rw [hdone, wakeEngines_idle (fun e => ?_), ht]
  rw [ht, hm]
  exact hidle e

/-- One row moved from cluster SRAM stands in tile memory. -/
theorem dmaMoved_tile {s : State} {c i f : Nat} {o : DmaOp} (hto : o.toTile = true) (hfar : o.far = .clusterSram f)
    (hrows : o.rows = 1) : ((dmaMoved s c i o).core c i).tile =
      writeMem (s.core c i).tile o.tileAddr (readMem (s.cs c).sram f o.rowBytes) := by
  let t := s.putCore c (landed (s.core c i))
  have hcore : t.core c i = landed (s.core c i) := core_putCore s c (core_idx s c i)
  have hsram : (t.cs c).sram = (s.cs c).sram := by
    rw [show t.cs c = (s.cs c).putCore (landed (s.core c i)) from cs_putCore ..]
    rfl
  have hrow : dmaMoved s c i o = t.putCore c (withTile (t.core c i)
      (writeMem (t.core c i).tile o.tileAddr (readMem (t.cs c).sram f o.rowBytes))) := by
    simp only [dmaMoved, hrows, List.range_one, List.foldl_cons, List.foldl_nil, State.dmaRow, hfar, hto, if_true, Nat.mul_zero,
      Nat.add_zero]
    rfl
  rw [hrow, core_putCore t c (withTile_idx ..), hcore, hsram]
  rfl

theorem dmaComplete_completes {s : State} {c i : Nat} {o : DmaOp} {l : List DmaOp} (hl : s.alive) (hidle : (s.core c i).idle)
    (hdma : (s.core c i).dma = o :: l) : Gives (.dmaComplete c i) s fun t => (t.core c i).dma = l ∧
      ∀ f, o.toTile = true → o.far = .clusterSram f → o.rows = 1 → (t.core c i).tile =
        writeMem (s.core c i).tile o.tileAddr (readMem (s.cs c).sram f o.rowBytes) := by
  refine gives_live (f := fun s => s.dmaDone c i) hl rfl ?_
  rw [dmaDone_core hidle hdma]
  refine ⟨?_, fun f hto hfar hrows => dmaMoved_tile hto hfar hrows⟩
  obtain ⟨m, hm⟩ := dmaMoved_core s c i o
  rw [hm]
  exact congrArg List.tail hdma

/-! ### Single instructions -/

/-- A tile put among the accumulators is read back. -/
theorem acc_putAcc (e : Engine) (k : AccKind) (n ctr : Nat) (cells : List AccCell) (hspan : (accSpan k n).1 < (accSpan k n).2) :
    (e.putAcc k n cells).acc k n ctr = cells := by
  have hgone : ((e.accs.filter fun t => !t.overlaps k n).find? fun t => t.kind == k && t.n == n) = none := by
    refine List.find?_eq_none.mpr fun t ht hsame => ?_
    simp only [Bool.and_eq_true, beq_iff_eq] at hsame
    obtain ⟨rfl, rfl⟩ := hsame
    simp [AccTile.overlaps, hspan] at ht
  simp [Engine.acc, Engine.putAcc, List.find?_append, hgone]

theorem vec_putVec (e : Engine) (n v : Nat) : (e.putVec n v).vec n = v % 2 ^ 1024 := by
  rw [Engine.vec, Engine.putVec, sparse_get_set, if_pos rfl]

/-- Settles O31: each instruction by what it leaves where it reaches an idle engine, SYNC by what is met at once, and a transfer
by the rows moved. -/
theorem enginesAndDmaComplete : Obligations.EnginesAndDmaComplete := by
  intro s a _ hl hc hcore heng hf hidle x
  have hrun (o : EngineOp) (ho : ∀ t, o ≠ .sync t) {c : Instr} {p : State → Prop} (he : exec c s = live s fun s => s.issue a o)
      (hp : (runEngine x a.pc o).leaves a (s.issue a o) → p (s.issue a o)) : Gives c s p :=
    gives_live (f := fun s => s.issue a o) hl he (hp (issue_leaves hc hcore heng hf hidle ho))
  refine ⟨fun o => hrun (.ldSt o) nofun rfl id, fun o => hrun (.mma o) nofun rfl id, fun o => hrun (.acc o) nofun rfl id,
    fun o => hrun (.cvt o) nofun rfl id, fun o => hrun (.valu o) nofun rfl id, fun o => hrun (.vred o) nofun rfl id,
    fun o => hrun (.vperm o) nofun rfl id,
    fun o ho => gives_live (f := fun s => s.issue a (.sync o)) hl rfl (issue_syncs hc hcore heng hf hidle ho),
    fun o hok => dmaTransfer_flies a.pc hl hc hcore hf hok,
    fun o l hdma => dmaComplete_completes hl hidle hdma,
    fun n hn => hrun (.acc ⟨.clear, .fpAcc n, 0⟩) nofun rfl fun ⟨h, _⟩ => ?_,
    fun o hlane hdst ha => hrun (.vred o) nofun rfl fun ⟨h, _⟩ => ?_,
    fun n d hn hd => hrun (.ldSt ⟨false, .vector n, .fp32, d⟩) nofun rfl fun ⟨h, _⟩ => ?_⟩
  · rw [h]
    have hclear : (runEngine x a.pc (.acc ⟨.clear, .fpAcc n, 0⟩)).eng = x.eng.putAcc .fp n zeroCells := by
      simp [runEngine, runAcc, EngReg.acc?, EngReg.exists_, hn]
    rw [hclear, acc_putAcc _ .fp n _ _ (Nat.lt_succ_self n)]
  · rw [h]
    have hred : (runEngine x a.pc (.vred o)).eng = x.eng.putVec o.dst (vredVec o.lane (x.eng.vec o.a)) := by
      simp [runEngine, runVred, hlane, Nat.not_le.mpr hdst, Nat.not_le.mpr ha]
    rw [hred, vec_putVec]
    rfl
  · rw [h]
    have hload : (runEngine x a.pc (.ldSt ⟨false, .vector n, .fp32, d⟩)).eng = x.eng.putVec n (leNat (readMem x.core.tile d 128)) := by
      simp [runEngine, runLdSt, EngReg.exists_, EngReg.bytes, hn, Nat.not_lt.mpr hd]
    rw [hload, vec_putVec]
    rfl

end Sys2Proof.Proofs
end

section
/-! Writes of an ADMIN session that start or end work: an entry that is not persisted applies its own effect to the state that
admitted and journaled the write. -/
namespace Sys2Proof.Proofs
open Sys2Proof.Machine Sys2Proof.Laws
set_option Elab.async false

/-! ### A write that its entry accepts -/

theorem vet_admin {s : State} {h : TallyHdr} {x : Session} (ht : s.takes h x) (hx : x.admin = true) {i b : Nat} {v : Bytes}
    {r : OdRow} (hi : vendorTest i = false) (hrow : odLocate s.dev.variant i b = .ok r) (hacc : r.acc = .rws ∨ r.acc = .wo)
    (hval : r.refusal i v = none) : (s.served h x).vet (.session h.session) i b v = .ok r := by
  have hadmin : (x.accepted h s.now).admin = true := hx
  have hmay : (s.served h x).mayWrite (.session h.session) r i b = true := by
    rcases hacc with hacc | hacc <;> simp [State.mayWrite, served_session ht, hacc, Session.isTenant, hadmin]
  simp [State.vet, hi, served_dev, hrow, hmay, hval]

/-- The zones that the answer to a served request may change. -/
def answerZones : Nat := footMask ⟨[.mgmt, .out, .status], []⟩

/-- An accepted write of an entry that is not persisted leaves what the entry's effect left, but for the answer. -/
theorem writeVia_applied {s u w : State} {h : TallyHdr} {x : Session} {i b : Nat} {v : Bytes} {r : OdRow}
    {apply : OdRow → State → Except Nat State} (ht : s.takes h x)
    (hvet : (s.served h x).vet (.session h.session) i b v = .ok r) (hkept : r.kept = false)
    (hcan : apply r (s.served h x) = .ok w) (hdoes : apply r ((s.served h x).journalWrite i b v) = .ok u) :
    Keeps answerZones u (s.writeVia (.tally h) i b v apply) := by
  have hwrite : (s.served h x).odWrite (.session h.session) i b v apply = u.ends (okCode i) := by
    simp [State.odWrite, hvet, hcan, hdoes, State.accept, hkept]
  have hanswer := writeVia_served_keeps ht i b v apply
  rw [hwrite] at hanswer
  exact (ends_keeps (.refl _ u) ⟨by decide +kernel⟩).trans (hanswer.mono ⟨by decide +kernel⟩)

theorem num_storeN_ne (s : State) {k j : Nat} (v : Nat) (h : j ≠ k) : (s.storeN k v).num j = s.num j :=
  sparse_get_set_ne _ _ v h

@[simp] theorem storeN_grade (s : State) (k v : Nat) : (s.storeN k v).grade = s.grade := rfl

@[simp] theorem blob_storeN (s : State) (k v j : Nat) : (s.storeN k v).blob j = s.blob j := rfl

end Sys2Proof.Proofs
end
section
/-! The grading pass (R221 to R226): its start, its abort, the signatures of other devices and its end. -/
namespace Sys2Proof.Proofs
open Sys2Proof.Machine Sys2Proof.Laws
set_option Elab.async false

/-! ### GRADE_START and GRADE_ABORT -/

/-- GRADE_CONTROL: an ADMIN session writes 1 or 2, and it is not persisted. -/
def gradeControlRow : OdRow := ⟨3, 1, .u8, .rws, 0, 1, 2, 1, true, 0, false, false⟩

theorem odLocate_gradeControl (v : Variant) : odLocate v 0x4700 3 = .ok gradeControlRow := by cases v <;> decide +kernel

/-- What a start of a pass reads stands where the manifest, the recipes and the models stand, and nothing else of it is in the
zones of admission. -/
theorem gradeRefusal_congr {s t : State} (hK : Keeps admissionZones s t) (hman : t.sched.manifest = s.sched.manifest)
    (hset : t.sched.recipeSet = s.sched.recipeSet) : t.gradeRefusal = s.gradeRefusal := by
  have hfile := (keeps_entry hK .grade (k := Reg.grade.gradeFile) (by decide +kernel)).2
  have hseed := (keeps_entry hK .seed (k := Reg.seed.seedCheck) (by decide +kernel)).1
  have hlevel := (keeps_entry hK .sched (k := Reg.sched.contentLevel) (by decide +kernel)).1
  have hcomp : t.comp = s.comp := hK.part .comp (by decide +kernel)
  simp only [State.gradeRefusal, State.gradeHolds, hfile, hseed, hlevel, hman, hset, hcomp]

theorem grading_congr {s t : State} (hK : Keeps admissionZones s t) : t.grading = s.grading := by
  rw [State.grading, State.grading, (keeps_entry hK .grade (k := Reg.grade.gradeState) (by decide +kernel)).1]

/-- The pass begun: RUNNING, with nothing graded and an empty record. -/
def passBegun (s : State) : State :=
  (({ s with grade := ⟨[], [], [], []⟩ }.setN Reg.grade.gradeState 2).setB Reg.grade.slashRecord []).setN Reg.grade.slashBytes 0

/-- The pass failed: nothing of it is left. -/
def passFailed (s : State) : State := { s with grade := ⟨[], [], [], []⟩ }.setN Reg.grade.gradeState 6

/-- A write of GRADE_CONTROL. -/
def controlWrite (n : Nat) (v : Bytes) (r : OdRow) (s : State) : Except Nat State :=
  match s.gradeControl n with
  | .error c => .error c
  | .ok t => .ok (t.store r Reg.grade.gradeControl v)

theorem controlWrite_start {s : State} (hidle : s.grading = false) (hok : s.gradeRefusal = none) :
    controlWrite 1 [1] gradeControlRow s = .ok ((passBegun s).storeN Reg.grade.gradeControl (leNat [1])) := by
  simp only [controlWrite, State.gradeControl, State.gradeStart, hidle, Bool.false_eq_true, if_false, hok]
  rfl

theorem controlWrite_abort {s : State} (hon : s.grading = true) :
    controlWrite 2 [2] gradeControlRow s = .ok ((passFailed s).storeN Reg.grade.gradeControl (leNat [2])) := by
  simp only [controlWrite, State.gradeControl, State.gradeAbort, hon, if_true]
  rfl

theorem gradeStart_starts {s : State} {h : TallyHdr} {x : Session} (hr : s.running) (ht : s.takes h x) (hx : x.admin = true)
    (hidle : s.grading = false) (hok : s.gradeRefusal = none) : Gives (.gradeStart (.tally h)) s fun t =>
      t.num Reg.grade.gradeState = 2 ∧ t.blob Reg.grade.slashRecord = [] ∧ t.grade = ⟨[], [], [], []⟩ := by
  refine gives_act (f := fun s => s.writeVia (.tally h) 0x4700 3 [1] (controlWrite 1 [1])) hr rfl ?_
  have hvet := vet_admin ht hx (i := 0x4700) (b := 3) (v := [1]) rfl (odLocate_gradeControl _) (.inl rfl) (by decide)
  obtain ⟨_, _, _, hj⟩ := journal_sched (s.served h x) 0x0014 0 false (leBytes 2 0x4700 ++ leBytes 1 3 ++ [1])
  have hcan := controlWrite_start ((grading_congr (served_keeps_admission s h x)).trans hidle)
    ((gradeRefusal_congr (served_keeps_admission s h x) (by rw [served_sched]) (by rw [served_sched])).trans hok)
  have hdoes := controlWrite_start ((grading_congr (admission_keeps s h x 0x4700 3 [1])).trans hidle)
    ((gradeRefusal_congr (admission_keeps s h x 0x4700 3 [1]) (by rw [State.journalWrite, hj, served_sched])
      (by rw [State.journalWrite, hj, served_sched])).trans hok)
  have hK := writeVia_applied ht hvet rfl hcan hdoes
  have hentry {k : Nat} (hk : entryOutside answerZones .grade k = true) := keeps_entry hK .grade hk
  refine ⟨(hentry (by decide +kernel)).1.trans ?_, (hentry (by decide +kernel)).2.trans ?_,
    (hK.part .grade (by decide +kernel)).trans ?_⟩
  · rw [num_storeN_ne _ _ (by decide), passBegun, num_setN_ne _ _ (by decide), num_setB, num_setN, if_pos rfl]
  · rw [blob_storeN, passBegun, blob_setN, blob_setB, if_pos rfl]
  · rw [storeN_grade, passBegun, setN_grade, setB_grade, setN_grade]

theorem gradeAbort_fails {s : State} {h : TallyHdr} {x : Session} (hr : s.running) (ht : s.takes h x) (hx : x.admin = true)
    (hon : s.grading = true) : Gives (.gradeAbort (.tally h)) s fun t => t.num Reg.grade.gradeState = 6 := by
  refine gives_act (f := fun s => s.writeVia (.tally h) 0x4700 3 [2] (controlWrite 2 [2])) hr rfl ?_
  have hvet := vet_admin ht hx (i := 0x4700) (b := 3) (v := [2]) rfl (odLocate_gradeControl _) (.inl rfl) (by decide)
  have hK := writeVia_applied ht hvet rfl (controlWrite_abort ((grading_congr (served_keeps_admission s h x)).trans hon))
    (controlWrite_abort ((grading_congr (admission_keeps s h x 0x4700 3 [2])).trans hon))
  rw [(keeps_entry hK .grade (by decide +kernel)).1, num_storeN_ne _ _ (by decide), passFailed, num_setN, if_pos rfl]

/-! ### GRADE_SIGNATURES and GRADE_DONE -/

theorem gradeSignatures_kept {s : State} (hl : s.alive) {d f : Nat} (l : List (Nat × Nat)) (hon : s.grading = true)
    (hnew : s.grade.heard.contains (f * 65536 + d) = false) (hrun : s.num Reg.grade.gradeState = 2) :
    Gives (.gradeSignatures d f l) s fun t => t.grade.heard = s.grade.heard ++ [f * 65536 + d] ∧
      t.grade.sigs = s.grade.sigs ++ l.map fun p => ⟨f, some d, p.1, p.2⟩ := by
  refine gives_live (f := fun s => s.gradeSignatures d f l) hl rfl ?_
  let g : Grade := { s.grade with
    sigs := s.grade.sigs ++ l.map fun p => ⟨f, some d, p.1, p.2⟩, heard := s.grade.heard ++ [f * 65536 + d] }
  have hstay : ¬(({ s with grade := g } : State).num Reg.grade.gradeState = 3 ∧ ({ s with grade := g } : State).allHeard = true) :=
    fun h => absurd (hrun.symm.trans h.1) (by decide)
  have hnote : s.gradeSignatures d f l = { s with grade := g } := by
    rw [State.gradeSignatures, hon, hnew]
    exact if_neg hstay
  rw [hnote]
  exact ⟨rfl, rfl⟩

/-- No filter of a file is a NEAR_DUP filter. -/
theorem filterKind_ne {f : Bytes} (hf : (gradeKinds f).contains 2 = false) {i : Nat} (hi : i < gradeFilters f) :
    leAt (filterEntry f i) 0 1 ≠ 2 := fun h => by
  have hmem : 2 ∈ gradeKinds f := List.mem_map.mpr ⟨i, List.mem_range.mpr hi, h⟩
  simp [List.contains_eq_mem, hmem] at hf

theorem gradeDone_ends {s : State} (hl : s.alive) (hrun : s.num Reg.grade.gradeState = 2) (hall : s.gradedAll = true)
    (hkinds : (gradeKinds (s.blob Reg.grade.gradeFile)).contains 2 = false) (hsigs : s.grade.sigs = []) :
    Gives .gradeDone s fun t => t.num Reg.grade.gradeState = 5 ∧ t.blob Reg.grade.slashRecord = s.partialRecord ∧
      t.num Reg.grade.slashBytes = s.partialRecord.length := by
  refine gives_live (f := State.gradeDone) hl rfl ?_
  have hdups : ((List.range (gradeKinds (s.blob Reg.grade.gradeFile)).length).filter fun i =>
      (gradeKinds (s.blob Reg.grade.gradeFile)).getD i 0 == 2) = [] := by
    refine List.filter_eq_nil_iff.mpr fun i hi => ?_
    have hi' : i < gradeFilters (s.blob Reg.grade.gradeFile) := by simpa [gradeKinds] using hi
    simpa [gradeKinds, hi'] using filterKind_ne hkinds hi'
  have hheard : s.allHeard = true := List.all_eq_true.mpr fun i hi => by
    simp [filterKind_ne hkinds (List.mem_range.mp hi)]
  have hsearch : s.dupSearch = s :=
    keep_foldl_mem (P := fun t => t = s) rfl fun t i hi ht => (if_pos (filterKind_ne hkinds (List.mem_range.mp hi))).trans ht
  have hdone : s.gradeDone = ((s.setB Reg.grade.slashRecord s.partialRecord).setN Reg.grade.slashBytes
      s.partialRecord.length).setN Reg.grade.gradeState 5 := by
    have hgo : ¬((decide (s.num Reg.grade.gradeState ≠ 2) || !s.gradedAll) = true) := by simp [hrun, hall]
    rw [State.gradeDone, if_neg hgo, hdups]
    refine (if_pos hheard).trans ?_
    rw [State.gradeFinish]
    dsimp only [List.foldl_nil]
    rw [hsearch, hsigs]
    rfl
  rw [hdone]
  refine ⟨(num_setN ..).trans (if_pos rfl), ?_, ?_⟩
  · rw [blob_setN, blob_setN, blob_setB, if_pos rfl]
  · rw [num_setN_ne _ _ (by decide), num_setN, if_pos rfl]

end Sys2Proof.Proofs
end

section
/-! The seasoned cache and the deck (R232 to R247): SEASON_CLEAR, and a fragment from its beginning to READY. -/
namespace Sys2Proof.Proofs
open Sys2Proof.Machine Sys2Proof.Laws
set_option Elab.async false

/-! ### SEASON_CLEAR -/

/-- SEASON_CLEAR: an ADMIN session writes a BOOL, and it is not persisted. -/
def seasonClearRow : OdRow := ⟨8, 1, .bool, .wo, 0, 0, 1, 1, true, 0, false, false⟩

theorem odLocate_seasonClear (v : Variant) : odLocate v 0x4810 8 = .ok seasonClearRow := by cases v <;> decide +kernel

theorem started_congr {s t : State} (hK : Keeps admissionZones s t) : t.started = s.started := by
  rw [State.started, State.started, State.schedState, State.schedState,
    (keeps_entry hK .sched (k := Reg.sched.state) (by decide +kernel)).1]

/-- Every seasoned entry is gone. -/
theorem seasonDiscard_empties (s : State) :
    s.seasonDiscard.deck.season = [] ∧ s.seasonDiscard.num Reg.season.seasonBytesUsed = 0 := by
  simp [State.seasonDiscard, State.seasonRegs, num_setN, Sys2Proof.Machine.sum]

theorem seasonClear_discards {s : State} {h : TallyHdr} {x : Session} (hr : s.running) (ht : s.takes h x) (hx : x.admin = true)
    (hout : s.started = false) : Gives (.seasonClear (.tally h) [1]) s fun t =>
      t.deck.season = [] ∧ t.num Reg.season.seasonBytesUsed = 0 := by
  refine gives_act (f := fun s => s.writeVia (.tally h) 0x4810 8 [1] fun _ s => s.seasonClear (leNat [1])) hr rfl ?_
  have hvet := vet_admin ht hx (i := 0x4810) (b := 8) (v := [1]) rfl (odLocate_seasonClear _) (.inr rfl) (by decide)
  have hclear {t : State} (hK : Keeps admissionZones s t) : t.seasonClear (leNat [1]) = .ok t.seasonDiscard := by
    rw [State.seasonClear, State.seasonBusy, (started_congr hK).trans hout]
    rfl
  have hK := writeVia_applied (apply := fun _ s => s.seasonClear (leNat [1])) ht hvet rfl (hclear (served_keeps_admission s h x))
    (hclear (admission_keeps s h x 0x4810 8 [1]))
  have hempty := seasonDiscard_empties ((s.served h x).journalWrite 0x4810 8 [1])
  rwa [hK.part .deck (by decide +kernel), (keeps_entry hK .season (by decide +kernel)).1]

/-! ### PREPARE_FRAGMENT (R247) -/

theorem deck_of_keeps {s t : State} (h : Keeps (allBut .deck) s t) : t.deck = s.deck := h.part .deck (by decide +kernel)

@[simp] theorem deckRegs_deck (s : State) : s.deckRegs.deck = s.deck := by simp [State.deckRegs]

theorem unitAlloc_deck {s u : State} {id p n m : Nat} {ctx : Option Nat} (h : s.unitAlloc id ctx p n = some (m, u)) :
    u.deck = s.deck :=
  deck_of_keeps (unitAlloc_keeps (.refl _ s) ⟨by decide +kernel⟩ (m, u) h)

theorem prepareFragment_begins {s u : State} {k : FragKey} {f : Fragment} {ring grain m : Nat} (hl : s.alive)
    (hnext : s.nextFragment = some (k, f, ring, grain))
    (hroom : s.deckRoom (s.reserveShare k.orig.isSome f.length) f.length = true)
    (halloc : s.unitAlloc 0 none 7 f.length = some (m, u)) : Gives .prepareFragment s fun t =>
      t.deck.begun = s.deck.begun ++ [k] ∧ ∃ e, t.deck.entries = s.deck.entries ++ [e] ∧ e.key = k ∧ e.frag = f ∧
        e.state = .preparing ∧ e.ring = ring ∧ e.grain = grain ∧ e.mem = m := by
  refine gives_live (f := State.prepare) hl rfl ?_
  simp only [State.prepare, hnext, hroom, halloc, Bool.not_true, Bool.false_eq_true, if_false, deckRegs_deck, putDeck_deck,
    unitAlloc_deck halloc]
  exact ⟨trivial, _, rfl, rfl, rfl, rfl, rfl, rfl, rfl⟩

/-! ### FRAGMENT_READY (R232 to R238, R248) -/

@[simp] theorem coolingRegs_deck (s : State) : s.coolingRegs.deck = s.deck :=
  deck_of_keeps (coolingRegs_keeps (.refl _ s) ⟨by decide +kernel⟩)

@[simp] theorem raise_deck (s : State) (c i x : Nat) (d : Bytes) : (s.raise c i x d).deck = s.deck :=
  deck_of_keeps (raise_keeps (.refl _ s) ⟨by decide +kernel⟩)

/-- The deck's entries stay. -/
def SameEntries (s t : State) : Prop := t.deck.entries = s.deck.entries

theorem deckAlarm_entries (s : State) (c : Nat) (v : Option Int) : SameEntries s (s.deckAlarm c v) := by
  unfold State.deckAlarm
  refine keep_ite (P := SameEntries s) ?_ (keep_ite (P := SameEntries s) rfl rfl)
  refine (congrArg Deck.entries ((raise_deck ..).trans (bump_deck ..))).trans (keep_ite (P := SameEntries s) ?_ rfl)
  exact (congrArg Deck.entries (coolingRegs_deck _)).trans rfl

theorem alarmNow_entries (s : State) (c : Nat) : (s.alarmNow c).deck.entries = s.deck.entries :=
  (congrArg Deck.entries (setN_deck ..)).trans (deckAlarm_entries ..)

/-- What becoming READY leaves beside the entry: the bytes in the fragment's memory, the exclusions and the counts of items. -/
def fragmentMade (s : State) (k : FragKey) (e : DeckEntry) (b : BuckBlock) (l : List (Extent × ExtentSource)) : State :=
  ((l.filterMap fun p => p.2.excl).foldl (fun t p => t.excludeJournal k.epoch k.step p.1 p.2)
    (s.bufWrite e.mem 0 ((l.flatMap fun p => extentBytes b e.frag.recipeIndex p.1 p.2).take e.frag.length))).buckCounts b l

theorem fragmentMade_deck (s : State) (k : FragKey) (e : DeckEntry) (b : BuckBlock) (l : List (Extent × ExtentSource)) :
    (fragmentMade s k e b l).deck = s.deck :=
  deck_of_keeps (buckCounts_keeps
    (keep_foldl (P := Keeps (allBut .deck) s) (bufWrite_keeps (.refl _ s) ⟨by decide +kernel⟩) fun _ _ ht =>
      excludeJournal_keeps ht ⟨by decide +kernel⟩) ⟨by decide +kernel⟩)

/-- The entry of a fragment made of `l`: READY with its immediate value. -/
def readied (k : FragKey) (c : Nat) (l : List (Extent × ExtentSource)) (e : DeckEntry) : DeckEntry :=
  { e with
    state := .ready
    immediate := immediateValue k.step c
      ((l.filterMap fun p => match p.2 with | .item _ i => some i | _ => none).any fun i => i.concealed != 0)
      (!(l.filterMap fun p => p.2.excl).isEmpty) }

/-- A PREPARING entry whose every extent has its source becomes READY with its immediate value. -/
theorem ready_entry {s : State} {k : FragKey} {e : DeckEntry} {x : Section} {st c : Nat} {b : BuckBlock} {orphan : Nat → Bool}
    {items : List ItemContent} {l : List (Extent × ExtentSource)} (he : s.entry? k = some e) (hprep : e.state = .preparing)
    (hsec : s.sectionOf k.epoch = some (x, st)) (hsrc : s.sources k orphan items (x.extentsOf e.frag) = some l)
    (hplain : b.prefixSlot = none) : (s.ready k orphan c b items).entry? k = some (readied k c l e) := by
  have hkey : (readied k c l e).key = k := show e.key = k from entry_key he
  have hput : (s.ready k orphan c b items).deck.entries = ((fragmentMade s k e b l).putEntry (readied k c l e)).deck.entries := by
    simp only [State.ready, he, hsec, hprep, hsrc, ne_eq, not_true_eq_false, if_false, State.seasonItems, hplain, alarmNow_entries]
    rfl
  have hheld : ((fragmentMade s k e b l).entry? (readied k c l e).key).isSome := by
    rw [entry_congr (congrArg Deck.entries (fragmentMade_deck ..)), hkey, he]
    rfl
  calc (s.ready k orphan c b items).entry? k
      = ((fragmentMade s k e b l).putEntry (readied k c l e)).entry? (readied k c l e).key := by rw [entry_congr hput, hkey]
    _ = some (readied k c l e) := entry_putEntry hheld

theorem fragmentReady_readies {s : State} {k : FragKey} {e : DeckEntry} {x : Section} {st c : Nat} {b : BuckBlock}
    {items : List ItemContent} {l : List (Extent × ExtentSource)} (hl : s.alive) (he : s.entry? k = some e)
    (hprep : e.state = .preparing) (hsec : s.sectionOf k.epoch = some (x, st))
    (hsrc : s.sources k (s.skipped k.epoch) ((s.madeItems k.epoch e.frag.recipeIndex b items).map (·.1)) (x.extentsOf e.frag) =
      some l) (hplain : b.prefixSlot = none) :
    Gives (.fragmentReady k c b items) s fun t => ∃ y, t.entry? k = some y ∧ y.state = .ready ∧ y.mem = e.mem ∧
      y.immediate = immediateValue k.step c
        ((l.filterMap fun p => match p.2 with | .item _ i => some i | _ => none).any fun i => i.concealed != 0)
        (!(l.filterMap fun p => p.2.excl).isEmpty) := by
  refine gives_live (f := fun s => s.makeReady k c b items) hl rfl ?_
  have hready := ready_entry (c := c) he hprep hsec hsrc hplain
  have hdrawn (n : Nat) (t : State) : ((List.range n).foldl (fun t _ => t.drawn) t).deck.entries = t.deck.entries :=
    keep_foldl (P := fun u : State => u.deck.entries = t.deck.entries) rfl fun _ _ hu => hu
  refine ⟨_, (entry_congr ?_ k).trans hready, rfl, rfl, rfl⟩
  simp only [State.makeReady, he, Option.map_some, Option.getD_some]
  split
  · exact hdrawn _ _
  · rfl

/-- Settles O32: a write of an ADMIN session by what its entry's own effect leaves, the other commands one by one. -/
theorem gradingAndBuckingComplete : Obligations.GradingAndBuckingComplete := by
  refine fun s _ hl => ⟨fun h x ht hx => ⟨fun hidle hok => gradeStart_starts hl.1 ht hx hidle hok,
      fun hon => gradeAbort_fails hl.1 ht hx hon, fun hout => seasonClear_discards hl.1 ht hx hout⟩,
    fun _ _ l hon hnew hrun => gradeSignatures_kept hl l hon hnew hrun,
    fun hrun hall hkinds hsigs => gradeDone_ends hl hrun hall hkinds hsigs,
    fun _ _ _ _ _ _ hnext hroom halloc => prepareFragment_begins hl hnext hroom halloc,
    fun _ _ _ _ _ _ _ _ he hprep hsec hsrc hplain => fragmentReady_readies hl he hprep hsec hsrc hplain⟩

end Sys2Proof.Proofs
end

section
/-! The Chippers (R344 to R348): a descriptor joins its pipeline, the head of an idle pipeline starts, and a running request
completes. -/
namespace Sys2Proof.Proofs
open Sys2Proof.Machine Sys2Proof.Laws
set_option Elab.async false

/-! ### The pipelines -/

theorem chips_of_keeps {s t : State} (h : Keeps (allBut .chips) s t) : t.chips = s.chips := h.part .chips (by decide +kernel)

theorem chipPipe_congr {s t : State} (h : t.chips = s.chips) (c : Nat) (de : Bool) : t.chipPipe c de = s.chipPipe c de := by
  rw [State.chipPipe, State.chipPipe, h]

/-- A pipeline that is looked up is that of the Chipper and direction asked for. -/
theorem chipPipe_names (s : State) (c : Nat) (de : Bool) : (s.chipPipe c de).chipper = c ∧ (s.chipPipe c de).decomp = de := by
  unfold State.chipPipe
  cases h : s.chips.find? fun p => p.chipper == c && p.decomp == de with
  | none => exact ⟨rfl, rfl⟩
  | some p => simpa using List.find?_some h

@[simp] theorem chipPipe_chipper (s : State) (c : Nat) (de : Bool) : (s.chipPipe c de).chipper = c := (chipPipe_names s c de).1

@[simp] theorem chipPipe_decomp (s : State) (c : Nat) (de : Bool) : (s.chipPipe c de).decomp = de := (chipPipe_names s c de).2

/-- A pipeline with other descriptors, running or not. -/
def withWork (p : ChipPipe) (q : List ChipEntry) (busy : Bool) : ChipPipe := { p with queue := q, busy := busy }

theorem chipPipe_putChip (s : State) (p : ChipPipe) : (s.putChip p).chipPipe p.chipper p.decomp = p := by
  rw [State.chipPipe, State.putChip, setN_chips]
  dsimp only
  split
  · next hidle =>
    obtain ⟨hq, hb⟩ : p.queue = [] ∧ p.busy = false := by simpa using hidle
    have hgone : (s.chips.filter fun q => !(q.chipper == p.chipper && q.decomp == p.decomp)).find?
        (fun q => q.chipper == p.chipper && q.decomp == p.decomp) = none :=
      List.find?_eq_none.mpr fun q hq => by simpa [-not_and, not_and_or] using (List.mem_filter.mp hq).2
    rw [hgone, ← hq, ← hb]
    rfl
  · rw [find?_filter_append (p := fun q : ChipPipe => q.chipper == p.chipper && q.decomp == p.decomp) _ (by simp)]
    rfl

/-- A pipeline put back with other work is found as it was put. -/
@[simp] theorem chipPipe_putChip_withWork (s t : State) (c : Nat) (de : Bool) (q : List ChipEntry) (busy : Bool) :
    (t.putChip (withWork (s.chipPipe c de) q busy)).chipPipe c de = withWork (s.chipPipe c de) q busy := by
  have h := chipPipe_putChip t (withWork (s.chipPipe c de) q busy)
  rwa [show (withWork (s.chipPipe c de) q busy).chipper = c from chipPipe_chipper ..,
    show (withWork (s.chipPipe c de) q busy).decomp = de from chipPipe_decomp ..] at h

/-- The other pipeline of a Chipper stands. -/
theorem chipPipe_putChip_other (s : State) {p : ChipPipe} {c : Nat} {de : Bool} (hd : p.decomp ≠ de) :
    (s.putChip p).chipPipe c de = s.chipPipe c de := by
  have hrest : (s.chips.filter fun q => !(q.chipper == p.chipper && q.decomp == p.decomp)).find?
      (fun q => q.chipper == c && q.decomp == de) = s.chips.find? fun q => q.chipper == c && q.decomp == de := by
    rw [List.find?_filter]
    refine congrArg (s.chips.find? ·) (funext fun q => ?_)
    by_cases hq : q.decomp = de
    · simp [hq, hd.symm, Bool.beq_eq_decide_eq]
    · simp [hq]
  rw [State.chipPipe, State.putChip, setN_chips, State.chipPipe]
  dsimp only
  split
  · rw [hrest]
  · rw [List.find?_append, hrest]
    simp [hd]

/-- QUEUE_DEPTH of a Chipper counts what both of its pipelines hold. -/
theorem queueDepth_putChip (s : State) (p : ChipPipe) : (s.putChip p).num (Reg.chipQ.queueDepth p.chipper) =
    ((s.putChip p).chipPipe p.chipper false).queue.length + ((s.putChip p).chipPipe p.chipper true).queue.length := by
  unfold State.putChip
  rw [num_setN, if_pos rfl, chipPipe_congr (setN_chips ..), chipPipe_congr (setN_chips ..)]

/-! ### Operations that leave the pipelines alone -/

@[simp] theorem bufFlight_chips (s : State) (h : Nat) (up : Bool) : (s.bufFlight h up).chips = s.chips :=
  chips_of_keeps (bufFlight_keeps (.refl _ s) ⟨by decide +kernel⟩)

@[simp] theorem bufWrite_chips (s : State) (h off : Nat) (v : Bytes) : (s.bufWrite h off v).chips = s.chips :=
  chips_of_keeps (bufWrite_keeps (.refl _ s) ⟨by decide +kernel⟩)

@[simp] theorem unitPass_chips (s : State) (h owner : Nat) : (s.unitPass h owner).chips = s.chips :=
  chips_of_keeps (unitPass_keeps (.refl _ s) ⟨by decide +kernel⟩)

@[simp] theorem growTo_chips (s : State) (h need n k : Nat) : (s.growTo h need n k).1.chips = s.chips :=
  chips_of_keeps (growTo_keeps (.refl _ s) ⟨by decide +kernel⟩)

/-! ### A descriptor joins its pipeline (R344) -/

theorem chipSubmit_joins {s : State} {d : ChipDesc} (de : Bool) (hc : d.chipper < 16)
    (hroom : (s.chipPipe d.chipper de).queue.length < 64) :
    (s.chipSubmit d de).status = 0x3600 ∧
      ((s.chipSubmit d de).chipPipe d.chipper de).queue = (s.chipPipe d.chipper de).queue ++ [⟨d, s.pwr.flushing⟩] ∧
      (s.chipSubmit d de).chipPipe d.chipper (!de) = s.chipPipe d.chipper (!de) ∧
      (s.chipSubmit d de).num (Reg.chipQ.queueDepth d.chipper) =
        ((s.chipSubmit d de).chipPipe d.chipper false).queue.length +
          ((s.chipSubmit d de).chipPipe d.chipper true).queue.length := by
  obtain ⟨p, hp⟩ : ∃ p, p = withWork (s.chipPipe d.chipper de) ((s.chipPipe d.chipper de).queue ++ [⟨d, s.pwr.flushing⟩])
      (s.chipPipe d.chipper de).busy := ⟨_, rfl⟩
  have hjoin : s.chipSubmit d de = (s.putChip p).ends 0x3600 := by
    rw [hp]
    exact (if_neg (Nat.not_le.mpr hc)).trans (if_neg (Nat.not_le.mpr hroom))
  have hpipe (b : Bool) : ((s.putChip p).ends 0x3600).chipPipe d.chipper b = (s.putChip p).chipPipe d.chipper b :=
    chipPipe_congr rfl ..
  have hchip : p.chipper = d.chipper := hp ▸ chipPipe_chipper ..
  have hdir : p.decomp = de := hp ▸ chipPipe_decomp ..
  simp only [hjoin, hpipe]
  refine ⟨rfl, ?_, chipPipe_putChip_other s (by simp [hdir]), hchip ▸ queueDepth_putChip s p⟩
  rw [hp, chipPipe_putChip_withWork]
  rfl

/-! ### The head of an idle pipeline starts (R345, R348) -/

theorem chipHead_starts {s : State} {c : Nat} {de : Bool} {e : ChipEntry} {l : List ChipEntry}
    (hq : (s.chipPipe c de).queue = e :: l) (hidle : (s.chipPipe c de).busy = false) (hpwr : e.afterPwrFail = false ∨ 8 ≤ c)
    (hok : s.chipRefusal e.desc de = none) :
    (s.chipHead c de).chipPipe c de = withWork (s.chipPipe c de) (s.chipPipe c de).queue true := by
  have hgo : ((s.chipPipe c de).busy || e.afterPwrFail && decide (c < 8)) = false := by
    obtain h | h := hpwr
    · simp [hidle, h]
    · simp [hidle, Nat.not_lt.mpr h]
  have hstart : s.chipHead c de =
      (s.putChip (withWork (s.chipPipe c de) (s.chipPipe c de).queue true)).bufFlight e.desc.inBuf true := by
    simp only [State.chipHead, hq, hgo, hok, Bool.false_eq_true, if_false, withWork]
  rw [hstart, chipPipe_congr (bufFlight_chips ..), chipPipe_putChip_withWork]

/-! ### A descriptor leaves its pipeline -/

/-- OUT_BUFFER passes to RETURN_TO where the Chipper owns it. -/
def chipPassed (s : State) (d : ChipDesc) : State :=
  let owned := match s.buf? d.outBuf with
    | some b => b.owner == 0x7000 + d.chipper
    | none => false
  if owned then s.unitPass d.outBuf d.returnTo else s

@[simp] theorem chipPassed_chips (s : State) (d : ChipDesc) : (chipPassed s d).chips = s.chips :=
  keep_ite (P := fun t : State => t.chips = s.chips) (unitPass_chips ..) rfl

/-- The counter of a failure of the Chippers (object 0x3600). -/
def chipCounted (s : State) (code : Nat) : State :=
  match code with
  | 0x3610 => s.bump Reg.chip.corrupt
  | 0x3611 => s.bump Reg.chip.limitExceeded
  | 0x3612 => s.bump Reg.chip.outOfSpace
  | _ => s

/-- The state in which a descriptor has left its pipeline and its record is sent. -/
def chipDequeued (s : State) (d : ChipDesc) (de : Bool) (r : Bytes) : State :=
  let p := (chipPassed s d).chipPipe d.chipper de
  ((chipPassed s d).putChip (withWork p (p.queue.drop 1) false)).emit (.record d.resultAddr r)

theorem chipFinish_eq (s : State) (d : ChipDesc) (de : Bool) (code : Nat) (r : Bytes) :
    s.chipFinish d de code r = if isOk code then (chipCounted (chipDequeued s d de r) code).ends code
      else (chipCounted (chipDequeued s d de r) code).refuse code 0xFF 0xFF := rfl

/-- What a completion changes once its record is sent: its counter, its status and, where it failed, the log. -/
def chipEndZones : Nat := footMask ⟨[.log, .mgmt, .status], [.smb, .log, .chip]⟩

theorem chipFinish_keeps_dequeued (s : State) (d : ChipDesc) (de : Bool) (code : Nat) (r : Bytes) :
    Keeps chipEndZones (chipDequeued s d de r) (s.chipFinish d de code r) := by
  have hcount : Keeps chipEndZones (chipDequeued s d de r) (chipCounted (chipDequeued s d de r) code) := by
    have hzones : Sub chipEndZones chipEndZones := ⟨Nat.or_self _⟩
    unfold chipCounted
    split
    · exact bump_keeps (.refl _ _)
    · exact bump_keeps (.refl _ _)
    · exact bump_keeps (.refl _ _)
    · exact .refl _ _
  rw [chipFinish_eq]
  exact keep_ite (ends_keeps hcount ⟨by decide +kernel⟩) (refuse_keeps hcount ⟨by decide +kernel⟩)

/-- A descriptor that completes leaves its pipeline idle, with its record sent and its code as the status. -/
theorem chipFinish_ends (s : State) (d : ChipDesc) (de : Bool) (code : Nat) (r : Bytes) :
    (s.chipFinish d de code r).chipPipe d.chipper de =
        withWork (s.chipPipe d.chipper de) ((s.chipPipe d.chipper de).queue.drop 1) false ∧
      .record d.resultAddr r ∈ (s.chipFinish d de code r).out ∧ (s.chipFinish d de code r).status = code := by
  have hK := chipFinish_keeps_dequeued s d de code r
  have hchips : (s.chipFinish d de code r).chips = (chipDequeued s d de r).chips := hK.part .chips (by decide +kernel)
  have hout : (s.chipFinish d de code r).out = (chipDequeued s d de r).out := hK.part .out (by decide +kernel)
  refine ⟨?_, ?_, ?_⟩
  · rw [chipPipe_congr hchips, chipDequeued, chipPipe_congr (emit_chips ..), chipPipe_putChip_withWork,
      chipPipe_congr (chipPassed_chips ..)]
  · rw [hout]
    exact List.mem_append_right _ (List.mem_singleton.mpr rfl)
  · rw [chipFinish_eq]
    exact keep_ite (P := fun t : State => t.status = code) rfl rfl

/-! ### An output that fits its buffer (R346) -/

theorem pool_putPool (s : State) (p j : Nat) (q : Pool) : (s.putPool p q).pool j = if j = p then q else s.pool j := by
  simp only [State.putPool, State.pool, setN_mem, setN_dev]
  exact sparse_get_set ..

/-- A live handle names the buffer at its index that has its generation. -/
theorem buf?_eq_some {s : State} {h : Nat} {b : Buf} :
    s.buf? h = some b ↔ (s.pool (hPool h)).bufAt (hIndex h) = some b ∧ b.gen = hGen h := by
  unfold State.buf?
  cases (s.pool (hPool h)).bufAt (hIndex h) with
  | none => simp
  | some x =>
    simp only [Option.ite_none_right_eq_some, Option.some.injEq]
    exact ⟨fun ⟨hgen, hx⟩ => ⟨hx, hx ▸ hgen⟩, fun ⟨hx, hgen⟩ => ⟨hx ▸ hgen, hx⟩⟩

/-- A buffer with one access more, or one fewer, in flight through handle `h` of pool `n`. -/
def flown (n h : Nat) (up : Bool) (b : Buf) : Buf :=
  if b.handle n = h then { b with inFlight := if up then b.inFlight + 1 else b.inFlight - 1 } else b

@[simp] theorem flown_head (n h : Nat) (up : Bool) (b : Buf) : (flown n h up b).head = b.head :=
  keep_ite (P := fun x : Buf => x.head = b.head) rfl rfl

@[simp] theorem flown_gen (n h : Nat) (up : Bool) (b : Buf) : (flown n h up b).gen = b.gen :=
  keep_ite (P := fun x : Buf => x.gen = b.gen) rfl rfl

@[simp] theorem flown_chain (n h : Nat) (up : Bool) (b : Buf) : (flown n h up b).chain = b.chain :=
  keep_ite (P := fun x : Buf => x.chain = b.chain) rfl rfl

/-- The buffers of a handle's pool with one access more, or one fewer, in flight through it. -/
def flownPool (p : Pool) (n h : Nat) (up : Bool) : Pool :=
  { p with bufs := p.bufs.map (flown n h up), draining := p.draining.map (flown n h up) }

theorem bufFlight_eq (s : State) (h : Nat) (up : Bool) :
    s.bufFlight h up = s.putPool (hPool h) (flownPool (s.pool (hPool h)) (hPool h) h up) := by
  rfl

theorem bufAt_flownPool (p : Pool) (n h : Nat) (up : Bool) (i : Nat) :
    (flownPool p n h up).bufAt i = (p.bufAt i).map (flown n h up) := by
  rw [Pool.bufAt, Pool.bufAt, flownPool, List.find?_map]
  refine congrArg (Option.map _) (congrArg (List.find? · _) (funext fun b => ?_))
  rw [Function.comp_apply, flown_head]

/-- An access in flight changes no handle and no length. -/
theorem buf?_bufFlight {s : State} {k : Nat} {b : Buf} (hb : s.buf? k = some b) (h : Nat) (up : Bool) :
    ∃ b', (s.bufFlight h up).buf? k = some b' ∧ b'.chain = b.chain := by
  obtain ⟨hat, hgen⟩ := buf?_eq_some.mp hb
  by_cases hk : hPool k = hPool h
  · refine ⟨flown (hPool k) h up b, buf?_eq_some.mpr ⟨?_, by rw [flown_gen, hgen]⟩, flown_chain ..⟩
    rw [bufFlight_eq, pool_putPool, if_pos hk, ← hk, bufAt_flownPool, hat, Option.map_some]
  · exact ⟨b, buf?_eq_some.mpr ⟨by rw [bufFlight_eq, pool_putPool, if_neg hk, hat], hgen⟩, rfl⟩

theorem growTo_fits {s : State} {h need n : Nat} {b : Buf} (hb : s.buf? h = some b) (hfit : need ≤ b.capacity (hPool h))
    (k : Nat) : s.growTo h need (n + 1) k = (s, k, none) := by
  rw [State.growTo, hb]
  exact if_pos hfit

/-! ### A running request completes -/

/-- A request's OUT_BUFFER made long enough for what the pipeline writes: the state, the blocks added and the refusal met. -/
def chipGrown (s : State) (d : ChipDesc) (de : Bool) : State × Nat × Option Nat :=
  let n := (s.chipWork d de).written.length
  (s.bufFlight d.inBuf false).growTo d.outBuf (d.outOff + n) (n + 1) 0

/-- What the pipeline makes in the buffer that resulted: OUT_OF_SPACE where it could not grow. -/
def chipMade (s : State) (d : ChipDesc) (de : Bool) : ChipWork :=
  let g := chipGrown s d de
  if g.2.2.isSome then { g.1.chipWorkAt d de (g.1.chipHeld d) with code := 0x3612 } else s.chipWork d de

/-- The counters of what a pipeline read and wrote (object 0x3600). -/
def chipMetered (s : State) (de : Bool) (w : ChipWork) : State :=
  if de then (s.add Reg.chip.decompressIn w.consumed).add Reg.chip.decompressOut w.valid
  else ((s.add Reg.chip.compressIn w.consumed).add Reg.chip.compressOut w.valid).add Reg.chip.rawBlocks w.raws

/-- The state in which a request's output is written and counted. -/
def chipWritten (s : State) (d : ChipDesc) (de : Bool) : State :=
  let g := chipGrown s d de
  chipMetered ((g.1.bufWrite d.outBuf d.outOff (chipMade s d de).written).add Reg.chip.extends g.2.1) de (chipMade s d de)

@[simp] theorem chipMetered_chips (s : State) (de : Bool) (w : ChipWork) : (chipMetered s de w).chips = s.chips :=
  keep_ite (P := fun t : State => t.chips = s.chips) (by simp) (by simp)

theorem chipWritten_chips (s : State) (d : ChipDesc) (de : Bool) : (chipWritten s d de).chips = s.chips := by
  simp [chipWritten, chipGrown]

/-- A running request completes with what it made. -/
theorem chipComplete_finishes {s : State} {c : Nat} {de : Bool} {e : ChipEntry} {l : List ChipEntry}
    (hq : (s.chipPipe c de).queue = e :: l) (hbusy : (s.chipPipe c de).busy = true) :
    ∃ r, s.chipComplete c de = (chipWritten s e.desc de).chipFinish e.desc de (chipMade s e.desc de).code r := by
  unfold State.chipComplete
  dsimp only
  rw [hq, hbusy]
  exact ⟨_, rfl⟩

/-- Where the output fits its buffer, nothing grows and the request ends with its work's own code. -/
theorem chipMade_fits {s : State} {d : ChipDesc} {de : Bool} {b : Buf} (hb : s.buf? d.outBuf = some b)
    (hfit : d.outOff + (s.chipWork d de).written.length ≤ b.capacity (hPool d.outBuf)) :
    chipMade s d de = s.chipWork d de := by
  obtain ⟨b', hb', hchain⟩ := buf?_bufFlight hb d.inBuf false
  have hgrown : chipGrown s d de = (s.bufFlight d.inBuf false, 0, none) :=
    growTo_fits hb' (by rwa [Buf.capacity, hchain]) 0
  rw [chipMade, hgrown]
  rfl

/-- Settles O36: a descriptor joins by what its pipeline is put back with, the head starts by what holds none of its checks
back, and a running request ends by what every completion leaves. -/
theorem chipperCommandsComplete : Obligations.ChipperCommandsComplete := by
  intro s d _ hr hc
  refine ⟨fun hroom => gives_act (f := fun s => s.chipSubmit d false) hr rfl ?_,
    fun hroom => gives_act (f := fun s => s.chipSubmit d true) hr rfl ?_,
    fun de e l hq hidle hpwr hok => gives_act (f := fun s => s.chipHead d.chipper de) hr rfl ?_,
    fun de e l hq hbusy hchip => gives_act (f := fun s => s.chipComplete d.chipper de) hr rfl ?_⟩
  · obtain ⟨hstatus, hqueue, hother, hdepth⟩ := chipSubmit_joins false hc hroom
    rw [Bool.not_false] at hother
    exact ⟨hstatus, hqueue, by rw [hdepth, hqueue, hother, List.length_append]; rfl⟩
  · obtain ⟨hstatus, hqueue, hother, hdepth⟩ := chipSubmit_joins true hc hroom
    rw [Bool.not_true] at hother
    exact ⟨hstatus, hqueue, by rw [hdepth, hqueue, hother, List.length_append]; rfl⟩
  · rw [chipHead_starts hq hidle hpwr hok]
    exact ⟨rfl, hq⟩
  · obtain ⟨r, hend⟩ := chipComplete_finishes hq hbusy
    obtain ⟨hpipe, hrecord, hstatus⟩ := chipFinish_ends (chipWritten s e.desc de) e.desc de (chipMade s e.desc de).code r
    rw [hchip, chipPipe_congr (chipWritten_chips ..), hq] at hpipe
    rw [hend, hpipe]
    exact ⟨rfl, rfl, ⟨r, hrecord⟩, fun b hb hfit => hstatus.trans (by rw [chipMade_fits hb hfit])⟩

end Sys2Proof.Proofs
end
